-- ==== Sys2Proof/Word.lean ====
section
/-! DEFINITION. Word types and the plainest helpers of 00_scope (R10 to R16). -/
namespace Sys2Proof

/-- A byte of memory (R10). -/
abbrev Byte := BitVec 8
/-- A 64-bit scalar register value (Table 2.1). -/
abbrev Word := BitVec 64
/-- A 2,048-bit vector register value (Table 2.1). -/
abbrev VWord := BitVec 2048

/-- The little-endian bytes of a number, `n` of them (R10). -/
def bytesOf : Nat → Nat → List Byte
  | 0, _ => []
  | n + 1, x => BitVec.ofNat 8 x :: bytesOf n (x / 256)

/-- The number that little-endian bytes stand for (R10). -/
def natOf : List Byte → Nat
  | [] => 0
  | b :: bs => b.toNat + 256 * natOf bs

/-- Bits `[hi:lo]` of a number (R10, "Pseudocode"). -/
def bits (x hi lo : Nat) : Nat := (x / 2 ^ lo) % 2 ^ (hi + 1 - lo)

/-- `sext(x, n)` of R16 on the low `n` bits of a number, as an integer. -/
def sextNat (n x : Nat) : Int :=
  if n = 0 then 0 else if bits x (n - 1) (n - 1) = 1 then (x % 2 ^ n : Nat) - (2 ^ n : Nat) else (x % 2 ^ n : Nat)

/-- The low `n` bits of an integer's two's complement: `wrap` of R18. -/
def wrapNat (n : Nat) (x : Int) : Nat := (x % (2 ^ n : Nat)).toNat

end Sys2Proof
end

