-- ==== Sys2Proof/Config.lean ====
section
/-! DEFINITION. What an implementation fixes and the free values: choices and values the spec leaves open (log 1, 10 to 13, 15, 18, 19, 21). None has a body. -/
namespace Sys2Proof.Config

/-- Which of the possible next actions the machine takes, by the count of steps (log 1). -/
opaque pick : Nat → Nat
/-- Whether a tinker reads the old or the new value of a register in the cycle in which another thread's result lands on it (R231, log 10). -/
opaque crossRead : Nat → Bool
/-- Which line or entry a cache or a station replaces (R241, R315, log 11). -/
opaque victim : Nat → Nat
/-- The 57 bytes of the device's identity key, derived from its unclonable response (R376, log 13). -/
opaque deviceKey : Nat
/-- The address a fault on an accumulator reports (R71: an accumulator has no byte address; log 18). -/
opaque accAddr : Nat → Nat

/-- The function that management has given a token (R362, log 19). -/
opaque tokenFn : Nat → Nat
/-- A byte of the hidden state that CSAVE writes: its layout is the part's own (Table 9.7, log 12). -/
opaque hiddenByte : Nat → Nat → BitVec 8
/-- Where the command processor reserves context buffers (R273, log 19), in units of 64 KiB. -/
opaque bufferBase : Nat
/-- Where a checkpoint's regions go, by its destination list and the region's number: a host address, or a route to peer storage (R344, log 15). -/
opaque streamDest : Nat → Nat → Nat
opaque streamRoute : Nat → Nat → Option Nat
/-- Where the stream of a route's DATA flits lies (R404, log 21). -/
opaque streamBase : Nat → Nat
/-- The port of the link that leads to a module (R402, log 21). -/
opaque linkTo : Nat → Nat
/-- Whether a flit is lost after a link has failed (R404, log 21). -/
opaque lost : Nat → Bool
/-- The running firmware image and the configuration record, by their versions (R377, log 13). -/
opaque firmware : Nat → List Byte
opaque configRecord : Nat → List Byte

end Sys2Proof.Config
end

