-- ==== Sys2Proof/OperandTypes.lean ====
section
/-! DEFINITION. What the fields of an instruction may name (03 R88 to R93, Tables 3.3 to 3.6) and what an event carries. -/
namespace Sys2Proof

/-- s0 to s31 (Table 2.1). -/
abbrev SReg := Fin 32
/-- v0 to v31. -/
abbrev VReg := Fin 32
/-- d0 to d15. -/
abbrev DReg := Fin 16
/-- m0 to m7. -/
abbrev MReg := Fin 8
/-- p0 to p7; as a slot's PRED field, p0 makes the slot unconditional (R86). -/
abbrev Pred := Fin 8
/-- h0 to h7. -/
abbrev HReg := Fin 8
/-- w0 to w7. -/
abbrev WReg := Fin 8
/-- tt0 to tt3. -/
abbrev TReg := Fin 4
/-- v28 to v31 as stream ports 0 to 3 (R77). -/
abbrev Port := Fin 4
/-- ch0 to ch15. -/
abbrev Chan := Fin 16

/-- A source of kind s where the S and C slots permit the scalar latches (R93). -/
inductive SSrc where
  | s (r : SReg) | ls | lc0 | lc1
  deriving DecidableEq, Repr

/-- A source of kind s in a V slot: of the scalar latches only ls (Table 3.5). -/
inductive VSSrc where
  | s (r : SReg) | ls
  deriving DecidableEq, Repr

/-- A source of kind v (R93). -/
inductive VSrc where
  | v (r : VReg) | lv0 | lv1
  deriving DecidableEq, Repr

/-- The last operand of an `s|imm` form of an S or C slot (R89, R112). -/
inductive SX where
  | reg (r : SSrc) | imm (i : BitVec 32)
  deriving DecidableEq, Repr

/-- Scope codes of Table 3.4. -/
inductive Scope where
  | core | cluster | stratum | device | system
  deriving DecidableEq, Repr

/-- The special registers Table 2.2 assigns. -/
inductive SpecialReg where
  | xcause | xvalue | xpc | xstat | fpctl | fpstat | srseed | scalel | pstat | latprof | clk | rank | coord
  | slice (k : Fin 8) | resAdv | resUsed | resDenyBank | resDenyNet | resDenyPwr | ttbase (k : Fin 4) | svpad
  deriving DecidableEq, Repr

/-- Integer conditions (Table 4.3). -/
inductive ICond where
  | eq | ne | lt | le | gt | ge | ltw | lew | gtw | gew
  deriving DecidableEq, Repr

/-- Floating-point conditions (Table 4.5). -/
inductive FCond where
  | eq | ne | lt | le | gt | ge | un | or
  deriving DecidableEq, Repr

/-- Load suffixes (R122). -/
inductive LdTy where
  | i8 | i16 | i32 | i64 | w8 | w16 | w32
  deriving DecidableEq, Repr

/-- Store and atomic widths of 8, 16, 32 and 64 bits (R123, Table 3.3). -/
inductive StW where
  | b8 | b16 | b32 | b64
  deriving DecidableEq, Repr

/-- I8 family types (Table 3.6). -/
inductive ITy where
  | i8 | i16 | i32 | w8 | w16 | w32
  deriving DecidableEq, Repr

/-- I4 family element widths (Table 3.6). -/
inductive ElemW where
  | b8 | b16 | b32
  deriving DecidableEq, Repr

/-- F4 family types (Table 3.6). -/
inductive FTy where
  | f32 | bf16 | f16
  deriving DecidableEq, Repr

/-- A8 family types (Table 3.6). -/
inductive ATy where
  | i8 | i16 | i32 | f32 | w8 | w16 | w32 | bf16
  deriving DecidableEq, Repr

/-- Type codes 0 to 14 of Table 3.4. -/
inductive NumTy where
  | i8 | i16 | i32 | w8 | w16 | w32 | f32 | bf16 | f16 | e4m3 | e5m2 | q15 | q78 | q1616 | i64
  deriving DecidableEq, Repr

/-- Block-scaled element formats, codes 0 to 3 of the matrix formats (Table 3.4). -/
inductive MxFmt where
  | mxint8 | mxint6 | mxint4 | mxp4
  deriving DecidableEq, Repr

/-- Matrix formats (Table 3.4). -/
inductive MatFmt where
  | mx (f : MxFmt) | bf16
  deriving DecidableEq, Repr

/-- The rounding field of an encoding (Table 1.4). -/
inductive Rnd where
  | dyn | rne | rtz | rdn | rup | sr
  deriving DecidableEq, Repr

/-- MEN, MSEL and ZM where the mask governs destinations (R142): the mask register and whether masked-off elements are zeroed. -/
abbrev DMask := Option (MReg × Bool)
/-- MEN and MSEL where ZM must be 0 (Table 5.1). -/
abbrev SMask := Option MReg

/-- XR of SFCVT (R120). -/
structure CvtX where
  rnd : Rnd
  src : NumTy
  dst : NumTy
  deriving DecidableEq, Repr

/-- The immediate of BFX and BFI (Table 4.2). -/
structure BitField where
  pos : Fin 64
  wm1 : Fin 64
  sx : Bool
  deriving DecidableEq, Repr

/-- XV of VADD, VSUB, VMUL and VABS. -/
structure IntX where
  msk : DMask
  sat : Bool
  deriving DecidableEq, Repr

/-- XV of a rounding instruction with a destination mask. -/
structure FltX where
  msk : DMask
  rnd : Rnd
  deriving DecidableEq, Repr

/-- XV of VCMP (R146). -/
structure CmpX where
  msk : DMask
  cc : ICond
  deriving DecidableEq, Repr

/-- XV of VFCMP (R149). -/
structure FCmpX where
  msk : DMask
  cc : FCond
  deriving DecidableEq, Repr

/-- XV of VCVT (R150). -/
structure VCvtX where
  msk : DMask
  rnd : Rnd
  sat : Bool
  src : NumTy
  dst : NumTy
  part : Fin 4
  deriving DecidableEq, Repr

/-- XV of VMXEXP (R151). -/
structure MxExpX where
  msk : SMask
  t : FTy
  head : Bool
  deriving DecidableEq, Repr

/-- XV of VQUANT (R153). -/
structure QuantX where
  msk : SMask
  rnd : Rnd
  t : FTy
  f : MxFmt
  deriving DecidableEq, Repr

/-- XV of VDEQ (R154). -/
structure DeqX where
  msk : DMask
  rnd : Rnd
  t : FTy
  f : MxFmt
  deriving DecidableEq, Repr

/-- XV of VXPAND (R155): the source format and the count minus 1. -/
structure XpandX where
  f : MxFmt
  cm1 : Fin 7
  deriving DecidableEq, Repr

/-- The selector of VSHUF (Table 5.10). -/
inductive ShufSel where
  | ziplo | ziphi | even | odd
  deriving DecidableEq, Repr

/-- XV of VSHUF. -/
structure ShufX where
  msk : DMask
  sel : ShufSel
  deriving DecidableEq, Repr

/-- XV of VBTEST and VBSET (R168). -/
structure BitX where
  msk : DMask
  base : BitVec 16
  deriving DecidableEq, Repr

/-- Reduction operators (R166). -/
inductive RedOp where
  | add | max | min | and | or | xor
  deriving DecidableEq, Repr

/-- XV of VRED. -/
structure RedX where
  msk : SMask
  rnd : Rnd
  op : RedOp
  deriving DecidableEq, Repr

/-- XV of VSCAN. -/
structure ScanX where
  msk : SMask
  rnd : Rnd
  sat : Bool
  op : RedOp
  deriving DecidableEq, Repr

/-- XV of VCMPX (R164). -/
structure CmpxX where
  j : Fin 8
  k : Fin 16
  desc : Bool
  deriving DecidableEq, Repr

/-- XV of VTOPK (R165). -/
structure TopkX where
  msk : SMask
  low : Bool
  k : BitVec 9
  deriving DecidableEq, Repr

/-- The types DFROM reads and its default (R181). -/
inductive Half16 where
  | dflt | bf16 | f16
  deriving DecidableEq, Repr

/-- XV of DTO (R182). -/
structure DtoX where
  msk : DMask
  rnd : Rnd
  t : FTy
  hi : Bool
  deriving DecidableEq, Repr

/-- The shift count of VSHL, VSHR and VSAR: a vector, or IMM16 with the mask (R142, R145). -/
inductive ShiftX where
  | reg (r : VSrc) | imm (i : BitVec 16) (msk : DMask)
  deriving DecidableEq, Repr

/-- The index of VEXT and VINS (R161). -/
inductive IdxX where
  | reg (r : VSSrc) | imm (i : BitVec 16)
  deriving DecidableEq, Repr

/-- The distance of VSLIDE (Table 5.10). -/
inductive SlideX where
  | reg (r : VSSrc) | imm (i : BitVec 16) (msk : DMask) (rot : Bool)
  deriving DecidableEq, Repr

/-- The scale step of DSCALE (R184). -/
inductive DScaleX where
  | reg (r : VSSrc) | imm (i : BitVec 16)
  deriving DecidableEq, Repr

/-- The A operand of VLD (R158), with the mask and the mask width of a v register. -/
inductive VldDst where
  | v (r : VReg) (msk : DMask) (w : ElemW) | m (r : MReg) | w (r : WReg)
  deriving DecidableEq, Repr

/-- The A operand of VST (R158), with the mask and the mask width of a v register. -/
inductive VstSrc where
  | v (r : VSrc) (msk : SMask) (w : ElemW) | m (r : MReg) | w (r : WReg)
  deriving DecidableEq, Repr

/-- The offset of VLD and VST: a register without XV, or IMM16 with XV. -/
inductive OffX where
  | reg (r : VSSrc) | imm (i : BitVec 16)
  deriving DecidableEq, Repr

/-- The two forms of TTMASK (R194). -/
inductive TtMaskX where
  | toMask (m : MReg) (half : Bool)
  | toMem (b : SSrc) (layout half : Bool)
  deriving DecidableEq, Repr

/-- XM (Table 3.3). -/
structure XM where
  shape : Fin 32
  fa : MatFmt
  fb : MatFmt
  ha : HReg
  hb : HReg
  abase : BitVec 12
  zi : Bool
  fwa : Bool
  fwb : Bool
  deriving DecidableEq, Repr

/-- XM of MMAS, in which FB, HB and FWB must be zero (R90, R210). -/
structure XMS where
  shape : Fin 32
  fa : MxFmt
  ha : HReg
  abase : BitVec 12
  zi : Bool
  fwa : Bool
  deriving DecidableEq, Repr

/-- The output format of MDRAIN (Table 7.6). -/
inductive DrainFmt where
  | mx (f : MxFmt) | bf16 | f32
  deriving DecidableEq, Repr

/-- XD (Table 7.6). -/
structure XD where
  rnd : Rnd
  uscl : Bool
  fmt : DrainFmt
  clr : Bool
  nb : BitVec 11
  deriving DecidableEq, Repr

/-- XT (Table 7.7). -/
structure XT where
  rm1 : Fin 16
  cm1 : Fin 16
  deriving DecidableEq, Repr

/-- The immediate of CDEMO (R225): 0 plain, 1 MXINT8, 2 MXINT6, 3 MXINT4. -/
structure DemoX where
  urg : BitVec 3
  fmt : Fin 4
  deriving DecidableEq, Repr

/-- Atomic operators (Table 3.4). -/
inductive AtOp where
  | add | max | min | maxw | minw | fmax | fmin | and | or | xor | swap | cas
  deriving DecidableEq, Repr

/-- XA without its scope (Table 3.3). -/
structure AtX where
  op : AtOp
  width : StW
  ret : Bool
  deriving DecidableEq, Repr

/-- XA of CATOM (R224): the scope is STRATUM, DEVICE or SYSTEM. -/
structure XA where
  at_ : AtX
  scope : Scope
  deriving DecidableEq, Repr

/-- TCACHE actions (Table 8.4). -/
abbrev CacheOp := Fin 6

/-- A tinker register operand, relative to the thread's window (R99). -/
abbrev TOp := BitVec 7

/-- TBR conditions and targets (Table 8.5). -/
inductive TbrX where
  | nz (a : TOp) (off : BitVec 32) | z (a : TOp) (off : BitVec 32) | al (off : BitVec 32)
  | link (a : TOp) (off : BitVec 32) | ind (a : TOp) (off : BitVec 32)
  deriving DecidableEq, Repr

end Sys2Proof
end

