-- ==== Sys2Proof/EventTypes.lean ====
section
/-! DEFINITION. What the events of the opcode table carry: trap causes, porter requests, translations, flits, bit errors and the bring-up record. -/
namespace Sys2Proof

/-- A trap cause: its code (Table 9.1) and its XVALUE. -/
structure Trap where
  code : Nat
  value : Nat
  deriving DecidableEq, Repr

/-- Who asks for an access to device memory: a copy command, a tinker thread, or a step of a porter program. -/
inductive Asker where
  | engine (core engine id : Nat) | thread (core thread seq : Nat) | step (porter ctag index : Nat)
  deriving DecidableEq, Repr

/-- A request to a translation station (R312): an address under a space and a tenant tag, and the kind of access (0 read, 1 write, 2 fetch, 3 atomic). -/
structure TransReq where
  space : Nat
  tenant : Nat
  va : Nat
  kind : Nat
  deriving DecidableEq, Repr

/-- A flit of a fabric link: the port, the type code, and its payload bytes. -/
structure Flit where
  port : Nat
  bytes : List Byte
  deriving DecidableEq, Repr

/-- What bring-up finds (R376): the configuration record's fields, and the step that fails if one does. -/
structure BringUp where
  strata : Nat
  modnum : Nat
  fwver : Nat
  cfgver : Nat
  failStep : Option Nat
  deriving DecidableEq, Repr

/-- A bit error (R71, R309): in a 64-bit word, correctable or not, or unseen by the word's check bits and seen by the line's check value. -/
inductive BitErr where
  | single (addr bit : Nat) | double (addr : Nat) | silent (addr bit : Nat)
  deriving DecidableEq, Repr

/-- What identifies the place an event happens at. -/
inductive EvArg where
  | unit
  | core (c : Nat)
  | seed (c : Nat) (v : BitVec 32)
  | line (core line : Nat)
  | arrive (core addr n : Nat)
  | cmd (core id : Nat)
  | trap (core : Nat) (t : Trap)
  | launch (l : Nat)
  | msg (core ep msg : Nat)
  | allow (core ep n : Nat)
  | ack (core ep tag : Nat)
  | asker (a : Asker)
  | walk (station : Nat) (r : TransReq)
  | memLine (line : Nat)
  | porter (p ctag : Nat)
  | num (n : Nat)
  | queue (q fn v : Nat)
  | reg (fn off : Nat) (v : Nat)
  | bytes (fn off : Nat) (b : List Byte)
  | node (g n : Nat)
  | bringUp (b : BringUp)
  | flit (f : Flit)
  | member (g m : Nat)
  | thread (core t : Nat)
  | bit (e : BitErr)
  deriving DecidableEq, Repr

end Sys2Proof
end

