-- ==== Sys2Proof/Syntax.lean ====
section
/-! DEFINITION. The instruction set: one constructor for each row of the opcode table, operands already separated from their encodings (03 R86 to R100).
A primary slot operation stands without its predicate, which belongs to its slot (R86, R87); a tinker operation marked L carries its lookahead;
an event takes what identifies the place it happens at from the step that runs it. -/
namespace Sys2Proof

/-- One constructor per row of the opcode table. -/
inductive Instr where
  /-- ADD (R113): Writes the 64-bit wrapped sum of two s registers. -/
  | add (d : SReg) (b : SSrc) (c : SSrc)
  /-- SUB (R113): Writes the wrapped difference of an s register and a register or sign-extended immediate. -/
  | sub (d : SReg) (b : SSrc) (x : SX)
  /-- ADDI (R113): Adds a sign-extended IMM32 to an s register. -/
  | addi (d : SReg) (b : SSrc) (imm : BitVec 32)
  /-- MUL (R113): Writes the low 64 bits of a product after 3 cycles. -/
  | mul (d : SReg) (b : SSrc) (x : SX)
  /-- MULH (R113): Writes the high 64 bits of a signed product. -/
  | mulh (d : SReg) (b : SSrc) (x : SX)
  /-- MULH_W (R113): Writes the high 64 bits of an unsigned product. -/
  | mulhW (d : SReg) (b : SSrc) (x : SX)
  /-- DIV (R114): Signed division truncated toward zero, with fixed results for a zero divisor and for overflow, after 18 cycles. -/
  | div (d : SReg) (b : SSrc) (x : SX)
  /-- DIV_W (R114): Unsigned division with a fixed result for a zero divisor. -/
  | divW (d : SReg) (b : SSrc) (x : SX)
  /-- REM (R114): Signed remainder. -/
  | rem (d : SReg) (b : SSrc) (x : SX)
  /-- REM_W (R114): Unsigned remainder. -/
  | remW (d : SReg) (b : SSrc) (x : SX)
  /-- AND (R113): Bitwise and of sB and a register or immediate. -/
  | and (d : SReg) (b : SSrc) (x : SX)
  /-- OR (R113): Bitwise or. -/
  | or (d : SReg) (b : SSrc) (x : SX)
  /-- XOR (R113): Bitwise exclusive or. -/
  | xor (d : SReg) (b : SSrc) (x : SX)
  /-- ANDN (R113): sB and not x. -/
  | andn (d : SReg) (b : SSrc) (x : SX)
  /-- SHL (R113): Shifts left by x[5:0]. -/
  | shl (d : SReg) (b : SSrc) (x : SX)
  /-- SHR (R113): Shifts right logically by x[5:0]. -/
  | shr (d : SReg) (b : SSrc) (x : SX)
  /-- SAR (R113): Shifts right arithmetically by x[5:0]. -/
  | sar (d : SReg) (b : SSrc) (x : SX)
  /-- ROT (R113): Rotates right by x[5:0]. -/
  | rot (d : SReg) (b : SSrc) (x : SX)
  /-- CLZ (R113): Counts leading zero bits. -/
  | clz (d : SReg) (b : SSrc)
  /-- POPC (R113): Counts one bits. -/
  | popc (d : SReg) (b : SSrc)
  /-- MIN (R113): Signed minimum. -/
  | min (d : SReg) (b : SSrc) (x : SX)
  /-- MIN_W (R113): Unsigned minimum. -/
  | minW (d : SReg) (b : SSrc) (x : SX)
  /-- MAX (R113): Signed maximum. -/
  | max (d : SReg) (b : SSrc) (x : SX)
  /-- MAX_W (R113): Unsigned maximum. -/
  | maxW (d : SReg) (b : SSrc) (x : SX)
  /-- SEL (R115): Selects sB or sC by a predicate named in XR.PSEL. -/
  | sel (d : SReg) (b : SSrc) (c : SSrc) (k : Pred)
  /-- LI (R113): Loads a sign-extended 32-bit immediate. -/
  | li (d : SReg) (imm : BitVec 32)
  /-- ADDA (R113): Adds within the 48-bit address and carries bits [63:48] through. -/
  | adda (d : SReg) (b : SSrc) (x : SX)
  /-- BFX (R116): Extracts a bit field, sign- or zero-extended. -/
  | bfx (d : SReg) (b : SSrc) (f : BitField)
  /-- BFI (R116): Inserts the low bits of sB into a field of sA. -/
  | bfi (d : SReg) (b : SSrc) (f : BitField)
  /-- CMP (R117): Writes a predicate from an integer condition held in the opcode. -/
  | cmp (cc : ICond) (d : Pred) (b : SSrc) (x : SX)
  /-- PAND (R118): And of two predicates. -/
  | pand (d : Pred) (b : Pred) (c : Pred)
  /-- POR (R118): Or of two predicates. -/
  | por (d : Pred) (b : Pred) (c : Pred)
  /-- PXOR (R118): Exclusive or of two predicates. -/
  | pxor (d : Pred) (b : Pred) (c : Pred)
  /-- PNOT (R118): Complement of a predicate. -/
  | pnot (d : Pred) (b : Pred)
  /-- SFADD (R119): FP32 scalar add, rounded. -/
  | sfadd (d : SReg) (b : SSrc) (c : SSrc) (rnd : Option Rnd)
  /-- SFMUL (R119): FP32 scalar multiply, rounded. -/
  | sfmul (d : SReg) (b : SSrc) (c : SSrc) (rnd : Option Rnd)
  /-- SFFMA (R119): FP32 fused multiply-add into sA, rounded once. -/
  | sffma (d : SReg) (b : SSrc) (c : SSrc) (rnd : Option Rnd)
  /-- SFMIN (R119): FP32 minimumNumber. -/
  | sfmin (d : SReg) (b : SSrc) (c : SSrc)
  /-- SFMAX (R119): FP32 maximumNumber. -/
  | sfmax (d : SReg) (b : SSrc) (c : SSrc)
  /-- SFCVT (R120): Converts a scalar between any two type codes. -/
  | sfcvt (d : SReg) (b : SSrc) (f : CvtX)
  /-- SFCMP (R121): Writes a predicate from an FP32 comparison. -/
  | sfcmp (cc : FCond) (d : Pred) (b : SSrc) (c : SSrc)
  /-- LDS (R122): Loads a scalar from the scratchpad with the profile latency. -/
  | lds (t : LdTy) (d : SReg) (b : SSrc) (x : SX)
  /-- STS (R123): Stores 8 to 64 bits to the scratchpad, visible from c+2. -/
  | sts (n : StW) (a : SSrc) (b : SSrc) (x : SX)
  /-- STS_N4 (R124): Stores one nibble at a nibble address. -/
  | stsN4 (a : SSrc) (b : SSrc) (imm : BitVec 32)
  /-- BR (R126): Unconditional branch after two delay bundles. -/
  | br (t : SX)
  /-- BRC (R126): Branch when sA is nonzero. -/
  | brc (a : SSrc) (imm : BitVec 32)
  /-- CALL (R126): Branch that writes the link to s31. -/
  | call (t : SX)
  /-- LOOP (R128): Opens a zero-overhead loop level with a count from sA. -/
  | loop (a : SSrc) (imm : BitVec 32)
  /-- WAITA (R131): Waits until an arrival word reaches a generation, then acquires; takes COPYFAULT when ERR is set. -/
  | waita (a : SSrc) (b : SSrc)
  /-- FLAGACQ (R132): Loads a flag word as an acquire at the named scope. -/
  | flagacq (a : SReg) (sc : Scope)
  /-- FLAGREL (R133): Queues a release increment of a flag word. -/
  | flagrel (a : SSrc) (sc : Scope)
  /-- FENCE (R134): Orders this core's copy-engine accesses at a scope. -/
  | fence (sc : Scope)
  /-- MOVS (R135): Reads a special register into an s register. -/
  | movs (d : SReg) (sp : SpecialReg)
  /-- MOVTS (R135): Writes an s register into a special register that has no row of its own. -/
  | movts (sp : SpecialReg) (b : SSrc)
  /-- TRAP (R136): Raises TRAPI with a literal number before the next bundle. -/
  | trap (n : BitVec 7)
  /-- TCREATE (R139): Creates a tinker thread with a program counter and a register window. -/
  | tcreate (a : SSrc) (b : SSrc) (c : SSrc)
  /-- TKILL (R140): Kills one tinker thread or all of them. -/
  | tkill (a : SSrc)
  /-- TTCLR (R192): Invalidates every node of a tree and zeroes its committed length. -/
  | ttclr (k : TReg)
  /-- TTNODE (R192): Makes one tree node valid with a parent and a token. -/
  | ttnode (k : TReg) (b : SSrc) (c : SSrc)
  /-- TTLDP (R193): Loads a range of node records from the scratchpad into a tree. -/
  | ttldp (k : TReg) (b : SSrc) (x : SX)
  /-- TTMASK (R194): Writes ancestor-or-self rows to a mask register or to the scratchpad. -/
  | ttmask (k : TReg) (c : SSrc) (x : TtMaskX)
  /-- TTPOS (R195): Writes node positions to the scratchpad. -/
  | ttpos (k : TReg) (b : SSrc) (c : SSrc)
  /-- TTPATH (R196): Writes the root-to-node path as node records. -/
  | ttpath (k : TReg) (b : SSrc) (c : SSrc)
  /-- TTPRUNE (R197): Accepts a path, compacts the tree, updates TTBASE and the committed length, and writes the move list. -/
  | ttprune (k : TReg) (b : SSrc) (c : SSrc)
  /-- TTINFO (R198): Returns node or tree information. -/
  | ttinfo (d : SReg) (k : TReg) (c : SSrc)
  /-- VADD (R145): Element-wise integer add, wrapping or saturating. -/
  | vadd (t : ITy) (d : VReg) (b : VSrc) (c : VSrc) (xv : Option IntX)
  /-- VSUB (R145): Element-wise integer subtract. -/
  | vsub (t : ITy) (d : VReg) (b : VSrc) (c : VSrc) (xv : Option IntX)
  /-- VMUL (R145): Element-wise integer multiply. -/
  | vmul (t : ITy) (d : VReg) (b : VSrc) (c : VSrc) (xv : Option IntX)
  /-- VMULH (R145): Element-wise high half of the product. -/
  | vmulh (t : ITy) (d : VReg) (b : VSrc) (c : VSrc) (xv : DMask)
  /-- VMIN (R145): Element-wise integer minimum. -/
  | vmin (t : ITy) (d : VReg) (b : VSrc) (c : VSrc) (xv : DMask)
  /-- VMAX (R145): Element-wise integer maximum. -/
  | vmax (t : ITy) (d : VReg) (b : VSrc) (c : VSrc) (xv : DMask)
  /-- VAND (R145): Element-wise and. -/
  | vand (t : ElemW) (d : VReg) (b : VSrc) (c : VSrc) (xv : DMask)
  /-- VOR (R145): Element-wise or. -/
  | vor (t : ElemW) (d : VReg) (b : VSrc) (c : VSrc) (xv : DMask)
  /-- VXOR (R145): Element-wise exclusive or. -/
  | vxor (t : ElemW) (d : VReg) (b : VSrc) (c : VSrc) (xv : DMask)
  /-- VSHL (R145): Element-wise shift left. -/
  | vshl (t : ElemW) (d : VReg) (b : VSrc) (x : ShiftX)
  /-- VSHR (R145): Element-wise logical shift right. -/
  | vshr (t : ElemW) (d : VReg) (b : VSrc) (x : ShiftX)
  /-- VSAR (R145): Element-wise arithmetic shift right. -/
  | vsar (t : ElemW) (d : VReg) (b : VSrc) (x : ShiftX)
  /-- VABS (R145): Element-wise absolute value. -/
  | vabs (t : ElemW) (d : VReg) (b : VSrc) (xv : Option IntX)
  /-- VCMP (R146): Integer compare that writes mask bits. -/
  | vcmp (t : ElemW) (d : MReg) (b : VSrc) (c : VSrc) (xv : CmpX)
  /-- VSEL (R147): Selects elements by mask. -/
  | vsel (t : ElemW) (d : VReg) (b : VSrc) (c : VSrc) (k : MReg)
  /-- VFADD (R148): Element-wise float add. -/
  | vfadd (t : FTy) (d : VReg) (b : VSrc) (c : VSrc) (xv : Option FltX)
  /-- VFSUB (R148): Element-wise float subtract. -/
  | vfsub (t : FTy) (d : VReg) (b : VSrc) (c : VSrc) (xv : Option FltX)
  /-- VFMUL (R148): Element-wise float multiply. -/
  | vfmul (t : FTy) (d : VReg) (b : VSrc) (c : VSrc) (xv : Option FltX)
  /-- VFFMA (R148): Element-wise fused multiply-add into vA. -/
  | vffma (t : FTy) (d : VReg) (b : VSrc) (c : VSrc) (xv : Option FltX)
  /-- VFMIN (R148): Element-wise minimumNumber. -/
  | vfmin (t : FTy) (d : VReg) (b : VSrc) (c : VSrc) (xv : DMask)
  /-- VFMAX (R148): Element-wise maximumNumber. -/
  | vfmax (t : FTy) (d : VReg) (b : VSrc) (c : VSrc) (xv : DMask)
  /-- VFRCP (R148): Correctly rounded reciprocal. -/
  | vfrcp (t : FTy) (d : VReg) (b : VSrc) (xv : Option FltX)
  /-- VFRSQ (R148): Correctly rounded reciprocal square root. -/
  | vfrsq (t : FTy) (d : VReg) (b : VSrc) (xv : Option FltX)
  /-- VFEXP2 (R148): Correctly rounded 2 to the power of the element. -/
  | vfexp2 (t : FTy) (d : VReg) (b : VSrc) (xv : Option FltX)
  /-- VFLOG2 (R148): Correctly rounded base-2 logarithm. -/
  | vflog2 (t : FTy) (d : VReg) (b : VSrc) (xv : Option FltX)
  /-- VFCMP (R149): Float compare that writes mask bits. -/
  | vfcmp (t : FTy) (d : MReg) (b : VSrc) (c : VSrc) (xv : FCmpX)
  /-- VCVT (R150): Converts one part of a vector between type codes. -/
  | vcvt (d : VReg) (b : VSrc) (xv : VCvtX)
  /-- VMXEXP (R151): Chooses a power-of-two BS16 scale into SCALEL at c+3. -/
  | vmxexp (a : VSrc) (xv : MxExpX)
  /-- VQUANT (R153): Quantises elements into packed blocks under SCALEL. -/
  | vquant (d : VReg) (b : VSrc) (xv : QuantX)
  /-- VDEQ (R154): Dequantises packed blocks to floating point. -/
  | vdeq (d : VReg) (b : VSrc) (xv : DeqX)
  /-- VXPAND (R155): Expands narrow packed blocks to MXINT8 blocks. -/
  | vxpand (d : VReg) (b : VSrc) (xv : XpandX)
  /-- VPBOOK (R156): Loads the 16-entry pattern book. -/
  | vpbook (a : VSrc)
  /-- VLD (R158): Loads 256, 16 or 64 bytes into a v, m or w register. -/
  | vld (d : VldDst) (b : VSSrc) (x : OffX)
  /-- VST (R158): Stores a v, m or w register. -/
  | vst (a : VstSrc) (b : VSSrc) (x : OffX)
  /-- VLDX (R159): Gathers elements by index. -/
  | vldx (t : ElemW) (d : VReg) (b : VSSrc) (c : VSrc) (xv : DMask)
  /-- VSTX (R159): Scatters elements by index, visible from c+4. -/
  | vstx (t : ElemW) (a : VSrc) (b : VSSrc) (c : VSrc) (xv : SMask)
  /-- VSTX_N4 (R160): Scatters nibbles by index. -/
  | vstxN4 (a : VSrc) (b : VSSrc) (c : VSrc) (xv : SMask)
  /-- VBCAST (R161): Broadcasts a scalar to every active element. -/
  | vbcast (t : ElemW) (d : VReg) (b : VSSrc) (xv : DMask)
  /-- VEXT (R161): Extracts one element to an s register. -/
  | vext (t : ElemW) (d : SReg) (b : VSrc) (x : IdxX)
  /-- VINS (R161): Inserts a scalar into one element. -/
  | vins (t : ElemW) (d : VReg) (b : VSSrc) (x : IdxX)
  /-- VPERM (R162): Permutes elements by index. -/
  | vperm (t : ElemW) (d : VReg) (b : VSrc) (c : VSrc) (xv : DMask)
  /-- VSHUF (R162): Zips or unzips two vectors. -/
  | vshuf (t : ElemW) (d : VReg) (b : VSrc) (c : VSrc) (xv : Option ShufX)
  /-- VSLIDE (R162): Slides or rotates elements. -/
  | vslide (t : ElemW) (d : VReg) (b : VSrc) (x : SlideX)
  /-- VPOPM (R168): Counts the set bits of a mask. -/
  | vpopm (d : SReg) (b : MReg)
  /-- VBTEST (R168): Tests bitmap bits by index into a mask. -/
  | vbtest (d : MReg) (b : VSrc) (c : VSrc) (xv : Option BitX)
  /-- VBSET (R168): Sets bitmap bits by index. -/
  | vbset (d : VReg) (b : VSrc) (c : VSrc) (xv : Option BitX)
  /-- VCMPX (R164): One compare-exchange stage of a sorting network. -/
  | vcmpx (t : ATy) (d : VReg) (b : VSrc) (xv : CmpxX)
  /-- VTOPK (R165): Ranks the top k positions by key order. -/
  | vtopk (t : ATy) (d : VReg) (b : VSrc) (xv : TopkX)
  /-- VRED (R166): Reduces the active elements by a fixed tree. -/
  | vred (t : ATy) (d : SReg) (b : VSrc) (xv : RedX)
  /-- VSCAN (R167): Inclusive sequential scan. -/
  | vscan (t : ATy) (d : VReg) (b : VSrc) (xv : ScanX)
  /-- VMOVA_GET (R169): Reads 64 accumulators into a vector. -/
  | vmovaGet (d : VReg) (b : VSSrc) (xv : DMask)
  /-- VMOVA_PUT (R169): Writes a vector into 64 accumulators. -/
  | vmovaPut (a : VSrc) (b : VSSrc) (xv : SMask)
  /-- VSBIND (R170): Binds a stream port to a private copy of a walk and starts its fills. -/
  | vsbind (a : Port) (b : WReg) (wr : Bool)
  /-- VSUNBIND (R173): Ends a stream-port binding. -/
  | vsunbind (a : VReg)
  /-- DFROM (R181): Converts BF16 or FP16 elements into directional form. -/
  | dfrom (d : DReg) (b : VSrc) (xv : Half16)
  /-- DTO (R182): Writes a direction as floating-point elements. -/
  | dto (d : VReg) (b : DReg) (xv : DtoX)
  /-- DLD (R185): Loads a direction and a norm, renormalising a non-conforming pair. -/
  | dld (d : DReg) (b : VSSrc) (c : VSSrc)
  /-- DST (R185): Stores a direction and a norm. -/
  | dst (a : DReg) (b : VSSrc) (c : VSSrc)
  /-- DADD (R183): Renormalised weighted sum. -/
  | dadd (d : DReg) (b : DReg) (c : DReg) (xv : Option (BitVec 16))
  /-- DSUB (R183): Renormalised weighted difference. -/
  | dsub (d : DReg) (b : DReg) (c : DReg) (xv : Option (BitVec 16))
  /-- DSCALE (R184): Adds k to the norm. -/
  | dscale (d : DReg) (b : DReg) (x : DScaleX)
  /-- DNEG (R184): Negates a direction. -/
  | dneg (d : DReg) (b : DReg)
  /-- DDOT (R186): Cosine and norm sum of two directional registers. -/
  | ddot (d : SReg) (b : DReg) (c : DReg)
  /-- DDOTV (R187): Dot products against 64 stored directions. -/
  | ddotv (d : VReg) (b : DReg) (c : VSSrc)
  /-- DNORM (R188): Reads a norm. -/
  | dnorm (d : SReg) (b : DReg)
  /-- DSETN (R188): Sets a norm. -/
  | dsetn (d : DReg) (b : VSSrc)
  /-- DLERP (R183): Renormalised linear interpolation. -/
  | dlerp (d : DReg) (b : DReg) (c : DReg) (t : BitVec 16)
  /-- DCMPZ (R188): Tests for the zero code and for conformance. -/
  | dcmpz (d : SReg) (b : DReg)
  /-- MMA (R205): Pops A and B tiles, accumulates their product over B beats, and may forward the tiles. -/
  | mma (a : SReg) (xm : XM)
  /-- MMAS (R210): Segmented multiply against adapter tiles, with checks of handle and tenant tag. -/
  | mmas (a : SReg) (xm : XMS)
  /-- MCLR (R211): Clears a range of accumulators. -/
  | mclr (a : SReg) (x : SX)
  /-- MDRAIN (R212): Converts accumulators and stores them to the scratchpad. -/
  | mdrain (a : SReg) (b : SReg) (xd : XD)
  /-- MPOP (R213): Discards tiles from a hoop. -/
  | mpop (a : HReg) (n : BitVec 7)
  /-- MTRANS (R214): Transposes a BF16 tile from one hoop into another. -/
  | mtrans (a : HReg) (b : HReg) (xt : XT)
  /-- CPY (R217): Queued copy from one walk to another. -/
  | cpy (a : WReg) (b : WReg) (x : SX)
  /-- CGATH (R217): Queued gather of rows by index. -/
  | cgath (a : WReg) (b : WReg) (x : SX)
  /-- CSCAT (R217): Queued scatter of rows by index. -/
  | cscat (a : WReg) (b : WReg) (x : SX)
  /-- CFILL (R217): Queued fill of a walk with a value. -/
  | cfill (a : WReg) (b : SSrc) (x : SX)
  /-- CPROM (R225): Hints that pages be promoted to near memory. -/
  | cprom (a : SSrc) (b : SSrc) (xi : Option (BitVec 3))
  /-- CDEMO (R225): Hints that pages be demoted, optionally quantised. -/
  | cdemo (a : SSrc) (b : SSrc) (xi : Option DemoX)
  /-- CHOOP (R221): Installs a hoop descriptor. -/
  | choop (a : HReg) (b : SSrc)
  /-- CDEAL (R324): A porter step that deals a walk's blocks to the cores of the domain. -/
  | cdeal (a : WReg) (b : SSrc)
  /-- CARM (R221): Arms an arrival word indivisibly. -/
  | carm (a : SSrc) (b : SSrc) (x : SX)
  /-- CSTAT (R221): Returns the status of a copy command. -/
  | cstat (d : SReg) (b : SSrc)
  /-- CCANCEL (R221): Cancels a command that has not completed. -/
  | ccancel (a : SSrc)
  /-- CFENCE (R221): Queued fence behind which later commands wait. -/
  | cfence (sc : Scope)
  /-- CATOM (R224): Queued global atomic performed by a porter. -/
  | catom (a : SSrc) (b : SSrc) (c : SSrc) (xa : XA)
  /-- SAT (R222): Scratchpad atomic performed at c+1. -/
  | sat (a : SSrc) (b : SSrc) (c : SSrc) (xa : AtX)
  /-- KVAPP (R343): Appends token rows to a KV block, allocating or cloning it first where needed. -/
  | kvapp (a : SSrc) (b : SSrc) (x : SX)
  /-- KVREL (R226): Drops a reference to a KV block and may free or retire it. -/
  | kvrel (a : SSrc) (b : SSrc)
  /-- KVPIN (R226): Pins a KV block. -/
  | kvpin (a : SSrc) (b : SSrc)
  /-- KVUNPIN (R226): Unpins a KV block and may free it. -/
  | kvunpin (a : SSrc) (b : SSrc)
  /-- GBAR (R286): Group barrier that waits for member copies and pushes. -/
  | gbar (g : Fin 4)
  /-- XCHG (R287): All-to-all exchange of 16-byte slices within a cluster. -/
  | xchg (d : VReg) (b : VSrc)
  /-- XMAX (R288): Agrees the largest SCALEL across a domain row. -/
  | xmax (d : VReg)
  /-- CHSEND (R294): Blocking send of four messages. -/
  | chsend (a : VSrc) (ch : Chan)
  /-- CHSEND_TRY (R294): Non-blocking send that reports success in a predicate. -/
  | chsendTry (d : Pred) (b : VSrc) (ch : Chan)
  /-- CHRECV (R294): Blocking receive of four messages. -/
  | chrecv (d : VReg) (ch : Chan)
  /-- CHRECV_TRY (R294): Non-blocking receive. -/
  | chrecvTry (d : Pred) (b : VReg) (ch : Chan)
  /-- CHALT (R299): Waits for, then selects, a ready endpoint of a set. -/
  | chalt (d : SReg) (b : SSrc)
  /-- CHALT_TRY (R299): Selects a ready endpoint without waiting. -/
  | chaltTry (d : SReg) (b : SSrc)
  /-- CHGRANT (R296): Grants allowances and opens a sealed batch. -/
  | chgrant (ch : Chan) (x : SX)
  /-- CHBIND (R300): Binds a stream port to a receive endpoint. -/
  | chbind (a : Port) (ch : Chan)
  /-- CHSEAL (R297): Seals a receive endpoint. -/
  | chseal (ch : Chan)
  /-- CHACK (R298): Acknowledges a tag on a tagged endpoint. -/
  | chack (ch : Chan) (b : SSrc)
  /-- T_ADD (R237): Tinker add. -/
  | tAdd (a : TOp) (b : TOp) (c : TOp)
  /-- T_SUB (R237): Tinker subtract, register form. -/
  | tSub (a : TOp) (b : TOp) (c : TOp)
  /-- T_SUB_IMM (R237): Tinker subtract, immediate form. -/
  | tSubImm (a : TOp) (b : TOp) (imm : BitVec 32)
  /-- T_ADDI (R237): Tinker add of an immediate. -/
  | tAddi (a : TOp) (b : TOp) (imm : BitVec 32)
  /-- T_MUL (R237): Tinker multiply, register form. -/
  | tMul (la : BitVec 4) (a : TOp) (b : TOp) (c : TOp)
  /-- T_MUL_IMM (R237): Tinker multiply, immediate form. -/
  | tMulImm (la : BitVec 4) (a : TOp) (b : TOp) (imm : BitVec 32)
  /-- T_MULH (R237): Tinker signed high multiply, register form. -/
  | tMulh (la : BitVec 4) (a : TOp) (b : TOp) (c : TOp)
  /-- T_MULH_IMM (R237): Tinker signed high multiply, immediate form. -/
  | tMulhImm (la : BitVec 4) (a : TOp) (b : TOp) (imm : BitVec 32)
  /-- T_MULH_W (R237): Tinker unsigned high multiply, register form. -/
  | tMulhW (la : BitVec 4) (a : TOp) (b : TOp) (c : TOp)
  /-- T_MULH_W_IMM (R237): Tinker unsigned high multiply, immediate form. -/
  | tMulhWImm (la : BitVec 4) (a : TOp) (b : TOp) (imm : BitVec 32)
  /-- T_DIV (R237): Tinker signed divide, register form. -/
  | tDiv (la : BitVec 4) (a : TOp) (b : TOp) (c : TOp)
  /-- T_DIV_IMM (R237): Tinker signed divide, immediate form. -/
  | tDivImm (la : BitVec 4) (a : TOp) (b : TOp) (imm : BitVec 32)
  /-- T_DIV_W (R237): Tinker unsigned divide, register form. -/
  | tDivW (la : BitVec 4) (a : TOp) (b : TOp) (c : TOp)
  /-- T_DIV_W_IMM (R237): Tinker unsigned divide, immediate form. -/
  | tDivWImm (la : BitVec 4) (a : TOp) (b : TOp) (imm : BitVec 32)
  /-- T_REM (R237): Tinker signed remainder, register form. -/
  | tRem (la : BitVec 4) (a : TOp) (b : TOp) (c : TOp)
  /-- T_REM_IMM (R237): Tinker signed remainder, immediate form. -/
  | tRemImm (la : BitVec 4) (a : TOp) (b : TOp) (imm : BitVec 32)
  /-- T_REM_W (R237): Tinker unsigned remainder, register form. -/
  | tRemW (la : BitVec 4) (a : TOp) (b : TOp) (c : TOp)
  /-- T_REM_W_IMM (R237): Tinker unsigned remainder, immediate form. -/
  | tRemWImm (la : BitVec 4) (a : TOp) (b : TOp) (imm : BitVec 32)
  /-- T_AND (R237): Tinker and, register form. -/
  | tAnd (a : TOp) (b : TOp) (c : TOp)
  /-- T_AND_IMM (R237): Tinker and, immediate form. -/
  | tAndImm (a : TOp) (b : TOp) (imm : BitVec 32)
  /-- T_OR (R237): Tinker or, register form. -/
  | tOr (a : TOp) (b : TOp) (c : TOp)
  /-- T_OR_IMM (R237): Tinker or, immediate form. -/
  | tOrImm (a : TOp) (b : TOp) (imm : BitVec 32)
  /-- T_XOR (R237): Tinker exclusive or, register form. -/
  | tXor (a : TOp) (b : TOp) (c : TOp)
  /-- T_XOR_IMM (R237): Tinker exclusive or, immediate form. -/
  | tXorImm (a : TOp) (b : TOp) (imm : BitVec 32)
  /-- T_ANDN (R237): Tinker and-not, register form. -/
  | tAndn (a : TOp) (b : TOp) (c : TOp)
  /-- T_ANDN_IMM (R237): Tinker and-not, immediate form. -/
  | tAndnImm (a : TOp) (b : TOp) (imm : BitVec 32)
  /-- T_SHL (R237): Tinker shift left, register form. -/
  | tShl (a : TOp) (b : TOp) (c : TOp)
  /-- T_SHL_IMM (R237): Tinker shift left, immediate form. -/
  | tShlImm (a : TOp) (b : TOp) (imm : BitVec 32)
  /-- T_SHR (R237): Tinker logical shift right, register form. -/
  | tShr (a : TOp) (b : TOp) (c : TOp)
  /-- T_SHR_IMM (R237): Tinker logical shift right, immediate form. -/
  | tShrImm (a : TOp) (b : TOp) (imm : BitVec 32)
  /-- T_SAR (R237): Tinker arithmetic shift right, register form. -/
  | tSar (a : TOp) (b : TOp) (c : TOp)
  /-- T_SAR_IMM (R237): Tinker arithmetic shift right, immediate form. -/
  | tSarImm (a : TOp) (b : TOp) (imm : BitVec 32)
  /-- T_ROT (R237): Tinker rotate, register form. -/
  | tRot (a : TOp) (b : TOp) (c : TOp)
  /-- T_ROT_IMM (R237): Tinker rotate, immediate form. -/
  | tRotImm (a : TOp) (b : TOp) (imm : BitVec 32)
  /-- T_CLZ (R237): Tinker count of leading zeros. -/
  | tClz (a : TOp) (b : TOp)
  /-- T_POPC (R237): Tinker population count. -/
  | tPopc (a : TOp) (b : TOp)
  /-- T_MIN (R237): Tinker signed minimum, register form. -/
  | tMin (a : TOp) (b : TOp) (c : TOp)
  /-- T_MIN_IMM (R237): Tinker signed minimum, immediate form. -/
  | tMinImm (a : TOp) (b : TOp) (imm : BitVec 32)
  /-- T_MIN_W (R237): Tinker unsigned minimum, register form. -/
  | tMinW (a : TOp) (b : TOp) (c : TOp)
  /-- T_MIN_W_IMM (R237): Tinker unsigned minimum, immediate form. -/
  | tMinWImm (a : TOp) (b : TOp) (imm : BitVec 32)
  /-- T_MAX (R237): Tinker signed maximum, register form. -/
  | tMax (a : TOp) (b : TOp) (c : TOp)
  /-- T_MAX_IMM (R237): Tinker signed maximum, immediate form. -/
  | tMaxImm (a : TOp) (b : TOp) (imm : BitVec 32)
  /-- T_MAX_W (R237): Tinker unsigned maximum, register form. -/
  | tMaxW (a : TOp) (b : TOp) (c : TOp)
  /-- T_MAX_W_IMM (R237): Tinker unsigned maximum, immediate form. -/
  | tMaxWImm (a : TOp) (b : TOp) (imm : BitVec 32)
  /-- T_SEL (R237): Tinker select by a register named in the XI word. -/
  | tSel (a : TOp) (b : TOp) (c : TOp) (d : TOp)
  /-- T_LI (R237): Tinker load of an immediate. -/
  | tLi (a : TOp) (imm : BitVec 32)
  /-- T_BFX (R237): Tinker bit-field extract. -/
  | tBfx (a : TOp) (b : TOp) (f : BitField)
  /-- T_BFI (R237): Tinker bit-field insert. -/
  | tBfi (a : TOp) (b : TOp) (f : BitField)
  /-- T_CMP (R237): Tinker compare writing 0 or 1, register form. -/
  | tCmp (cc : ICond) (a : TOp) (b : TOp) (c : TOp)
  /-- T_CMP_IMM (R237): Tinker compare, immediate form. -/
  | tCmpImm (cc : ICond) (a : TOp) (b : TOp) (imm : BitVec 32)
  /-- TCMPX (R248): Compares two registers and swaps them when out of order. -/
  | tcmpx (la : BitVec 4) (a : TOp) (b : TOp) (c : TOp)
  /-- TBR (R246): Conditional, linking or indirect tinker branch. -/
  | tbr (x : TbrX)
  /-- TEXIT (R247): Ends the thread, releasing a flag first when one is named. -/
  | texit (a : TOp)
  /-- TWAIT (R247): Waits for and decrements the thread's signal count. -/
  | twait (a : TOp)
  /-- TSIG (R247): Increments another thread's signal count. -/
  | tsig (a : TOp)
  /-- TLD (R241): Global load through the tinker cache, register form. -/
  | tld (la : BitVec 4) (t : LdTy) (a : TOp) (b : TOp) (c : TOp)
  /-- TLD_IMM (R241): Global load, immediate form. -/
  | tldImm (la : BitVec 4) (t : LdTy) (a : TOp) (b : TOp) (imm : BitVec 32)
  /-- TLD_SP (R240): Scratchpad load, register form. -/
  | tldSp (la : BitVec 4) (t : LdTy) (a : TOp) (b : TOp) (c : TOp)
  /-- TLD_SP_IMM (R240): Scratchpad load, immediate form. -/
  | tldSpImm (la : BitVec 4) (t : LdTy) (a : TOp) (b : TOp) (imm : BitVec 32)
  /-- TST (R241): Global store into the tinker cache, register form. -/
  | tst (n : StW) (a : TOp) (b : TOp) (c : TOp)
  /-- TST_IMM (R241): Global store, immediate form. -/
  | tstImm (n : StW) (a : TOp) (b : TOp) (imm : BitVec 32)
  /-- TST_SP (R240): Scratchpad store, register form. -/
  | tstSp (n : StW) (a : TOp) (b : TOp) (c : TOp)
  /-- TST_SP_IMM (R240): Scratchpad store, immediate form. -/
  | tstSpImm (n : StW) (a : TOp) (b : TOp) (imm : BitVec 32)
  /-- TST_SP_N4 (R240): Scratchpad nibble store. -/
  | tstSpN4 (a : TOp) (b : TOp) (imm : BitVec 32)
  /-- TACQ (R243): Acquires a flag word and invalidates clean cache lines. -/
  | tacq (la : BitVec 4) (a : TOp) (sc : Scope)
  /-- TREL (R243): Writes back the tinker cache, then increments a flag as a release. -/
  | trel (a : TOp) (sc : Scope)
  /-- TFENCE (R243): Waits until the thread's earlier operations are complete at a scope. -/
  | tfence (sc : Scope)
  /-- TCACHE (R242): Writes back or invalidates the tinker cache, or one of its lines. -/
  | tcache (a : TOp) (op : CacheOp)
  /-- SPAWN (R253): Writes a continuation, counts it, and pushes it on the deque. -/
  | spawn (a : TOp) (b : TOp)
  /-- JOIN (R256): Retires a task by decrementing JOINCNT and OUT. -/
  | join (a : TOp) (b : TOp)
  /-- STEAL (R255): Takes a deque entry from the queue levels. -/
  | steal (la : BitVec 4) (a : TOp) (b : TOp)
  /-- T_CHSEND (R245): Tinker send of one 64-byte message. -/
  | tChsend (a : TOp) (ch : Chan)
  /-- T_CATOM (R244): Tinker global atomic performed by a porter. -/
  | tCatom (la : BitVec 4) (a : TOp) (b : TOp) (c : TOp) (xa : XA)
  /-- T_SAT (R240): Tinker scratchpad atomic. -/
  | tSat (la : BitVec 4) (a : TOp) (b : TOp) (c : TOp) (xa : AtX)
  /-- NOP (R138): Occupies the S slot and has no effect. -/
  | nop
  /-- RET (R126): Branch to s31. -/
  | ret
  /-- HALT (R130): Stops the primary program and takes the core out of the domain's lock step. -/
  | halt
  /-- ERET (R270): Leaves the handler: reloads trap state, reissues the bundle at XPC and lands the replay entries. -/
  | eret
  /-- SRSEED_WRITE (R30): A write to SRSEED reseeds all 129 stochastic generators. -/
  | srseedWrite
  /-- CSAVE (R274): Writing XSTAT.CSAVE in the handler starts the context engine's save. -/
  | csave
  /-- CLOAD (R274): Writing XSTAT.CLOAD in the handler restores the context regions or rejects the image. -/
  | cload
  /-- TINKER_CACHE_FILL (R241): A tinker cache miss is filled from the home porter, landing the waiting load. -/
  | tinkerCacheFill
  /-- TINKER_WRITEBACK (R241): Replacement writes back a line's dirty bytes. -/
  | tinkerWriteback
  /-- FLAGREL_ADD (R133): The release queue performs a deferred flag increment once its conditions and ports allow. -/
  | flagrelAdd
  /-- HOOP_PUSH (R79): A tile push completes and advances TAIL and FILL, after waiting for room. -/
  | hoopPush
  /-- TILE_FORWARD_ARRIVAL (R208): A forwarded tile is pushed into the neighbour's hoop, or triggers HOOP reason 8. -/
  | tileForwardArrival
  /-- TRANSPOSE_PUSH (R214): A waiting MTRANS output is pushed once its hoop has room. -/
  | transposePush
  /-- ARRIVAL_WORD_UPDATE (R80): Visible bytes are counted into an arrival word, advancing generations. -/
  | arrivalWordUpdate
  /-- COPY_COMMAND_COMPLETE (R219): A queued command completes, faults or is cancelled, and releases at its scope. -/
  | copyCommandComplete
  /-- TRAP_ENTRY (R266): A trap cause is taken at a boundary and the resident handler is entered. -/
  | trapEntry
  /-- WATCHDOG (R271): A domain stall of 2^32 cycles raises WATCHDOG. -/
  | watchdog
  /-- PREEMPT (R273): A pre-emption request from the CP is taken at one issue count on every core. -/
  | preempt
  /-- CHANNEL_MESSAGE_ARRIVAL (R293): A message reaches a receive endpoint and is accepted or refused. -/
  | channelMessageArrival
  /-- ALLOWANCE_ARRIVAL (R293): Granted allowances reach the sender, which may then resend refused messages. -/
  | allowanceArrival
  /-- ACK_ARRIVAL (R298): An acknowledgement releases the oldest retained message with its tag. -/
  | ackArrival
  /-- PORTER_REQUEST (R311): A porter serves an access under its context, loading the context on a miss. -/
  | porterRequest
  /-- TRANSLATION_WALK (R314): A station walks the translation tables for a miss and logs any fault. -/
  | translationWalk
  /-- RECALL_COMPLETE (R318): An owner's write ends ownership, and the waiting accesses are performed in order. -/
  | recallComplete
  /-- PORTER_RUN_START (R320): A porter starts a run when the go word exceeds RUNS. -/
  | porterRunStart
  /-- PORTER_RUN_END (R322): A run ends and the status word is updated as a release. -/
  | porterRunEnd
  /-- TIER_MOVE (R337): A porter moves a 64 KiB page between tiers. -/
  | tierMove
  /-- SQTAIL (R351): The doorbell submits ring commands to the CP. -/
  | sqtail
  /-- CQHEAD (R353): Frees completion records and lets held completions be written. -/
  | cqhead
  /-- INLGO (R352): Submits the inline window as one command. -/
  | inlgo
  /-- QUEUE_EN (R351): Writing EN enables a queue, or disables it and cancels unstarted commands. -/
  | queueEn
  /-- REGISTER_WRITE (R350): A host write to a BAR 0 register that has no row of its own. -/
  | registerWrite
  /-- BAR2_READ (R354): A host read through BAR 2, translated in the function's space. -/
  | bar2Read
  /-- BAR2_WRITE (R354): A host write through BAR 2, which makes check values. -/
  | bar2Write
  /-- FUNCTION_LEVEL_RESET (R355): A VF reset, ignored while the function is frozen. -/
  | functionLevelReset
  /-- LAUNCH (R363): Checks, places and broadcasts a launch and releases its cores. -/
  | cmdLaunch
  /-- GRAPH (R367): Runs a graph of launch records along predecessor edges. -/
  | cmdGraph
  /-- GRAPH_NODE_START (R367): A graph node starts once all its predecessors have retired. -/
  | graphNodeStart
  /-- COPY (R371): Moves bytes through the porters under CTAG 0. -/
  | cmdCopy
  /-- SIGNAL (R362): Raises a token once earlier commands have completed. -/
  | cmdSignal
  /-- WAIT (R362): Holds its queue until a token reaches a value. -/
  | cmdWait
  /-- PARTITION (R328): Changes the stratum roles and the clock through drain, flush, re-enumeration, clock step and report. -/
  | cmdPartition
  /-- CHECKPOINT (R344): Quiesces the device, streams its regions and writes a signed manifest. -/
  | cmdCheckpoint
  /-- FREEZE_CLEAR (R373): Resumes or retires a frozen master named by its record number. -/
  | cmdFreezeClear
  /-- INVAL (R370): Invalidates translation stations for a space. -/
  | cmdInval
  /-- HTSET (R369): Loads adapter handle-table entries into a slot. -/
  | cmdHtset
  /-- ATTEST (R379): Writes a signed attestation report. -/
  | cmdAttest
  /-- LAUNCH_RETIRE (R366): Retires a launch whose cores have all completed, then writes its completion. -/
  | launchRetire
  /-- LAUNCH_RESUME (R365): A pre-empted launch resumes once its own cores are free. -/
  | launchResume
  /-- POWER_GOOD (R376): Runs bring-up and sets READY or FAIL. -/
  | powerGood
  /-- POWER_LOSS (R375): Loss of power ends all activity and clears READY. -/
  | powerLoss
  /-- TOKEN_ALLOWANCE_UPDATE (R380): Each microsecond the manager sets the cores' token allowances. -/
  | tokenAllowanceUpdate
  /-- THERMAL_WARNING (R381): At the warning limit the allowances are held at 29 and a thermal event is written. -/
  | thermalWarning
  /-- THERMAL_CRITICAL (R381): At the critical limit power is removed from the stack. -/
  | thermalCritical
  /-- MSG (R410): A PATH 2 message flit is accepted, discarded as a duplicate, or refused. -/
  | msgFlit
  /-- GRANT (R408): A GRANT flit adds allowances at the sending route. -/
  | grantFlit
  /-- ACK (R408): An ACK flit releases retained messages. -/
  | ackFlit
  /-- REFUSE (R410): A REFUSE flit moves retained copies to the resend queue. -/
  | refuseFlit
  /-- STEP (R413): A STEP flit records a member's committed step. -/
  | stepFlit
  /-- ABORT (R414): An ABORT flit makes the member abort its launch and send FINAL. -/
  | abortFlit
  /-- FINAL (R414): The aborter collects FINAL values and sends AGREED. -/
  | finalFlit
  /-- AGREED (R414): An AGREED flit fixes the step and discards later group messages. -/
  | agreedFlit
  /-- READY (R415): A READY flit counts toward the gang gate, which opens when all have arrived. -/
  | readyFlit
  /-- DATA (R404): A DATA flit carries peer lines, performed in arrival order. -/
  | dataFlit
  /-- GANGPRE (R416): A GANGPRE flit makes the member pre-empt its launch. -/
  | gangpreFlit
  /-- RETRANSMISSION_TIMEOUT (R409): A message unacknowledged for RTOUS is sent again as a RESEND copy. -/
  | retransmissionTimeout
  /-- MEMBER_UNREACHABLE (R414): A member unreachable for 1 s raises an abort. -/
  | memberUnreachable
  /-- SLICE_END (R416): A gang slice expires, counting an overrun or allowing pre-emption. -/
  | sliceEnd
  /-- MAIN_CLOCK_CYCLE (R52): Each cycle of the main clock issues a bundle or stalls, lands results due in it, publishes vacancies, advances the residue counters and CLK. -/
  | mainClockCycle
  /-- TINKER_INSTRUCTION_FETCH (R235): A tinker thread's next operation word arrives through the tinker instruction cache, or the fetch or decode fails and parks the thread. -/
  | tinkerInstructionFetch
  /-- CONTEXT_ENGINE_DONE (R274): The context engine finishes a save or load, clearing XSTAT.CBUSY and, on a rejected image, setting CERR. -/
  | contextEngineDone
  /-- BIT_ERROR (R71): A stored word or line in scratchpad, accumulator store or DRAM takes a single-bit or uncorrectable error. -/
  | bitError
  /-- LINK_FAILURE (R404): A Gleran Link or switch fails, and flits in flight on it are lost. -/
  | linkFailure
  deriving DecidableEq, Repr

end Sys2Proof
end

