-- ==== Sys2Proof/Decode.lean ====
section
/-! DEFINITION. The encodings of 03 (R81 to R104): bit fields, the parser that turns raw slot words into instructions or ILLOP reasons,
bundles, tinker words, and the encoder, written from the same tables. -/
namespace Sys2Proof

/-! ### Raw words -/

/-- Bits `[lo+n-1:lo]` of a word, as a number. -/
def fld (x : BitVec 32) (lo n : Nat) : Nat := x.toNat / 2 ^ lo % 2 ^ n

/-- Bit `i` of a word. -/
def bitOf (x : BitVec 32) (i : Nat) : Bool := fld x i 1 == 1

/-- A slot word taken apart (Table 3.2) with its extension word. -/
structure RawSlot where
  op : BitVec 8
  q : Pred
  a : BitVec 7
  b : BitVec 7
  c : BitVec 7
  ext : Option (BitVec 32)
  deriving DecidableEq, Repr

/-- Take a primary slot word apart. -/
def rawOf (w : BitVec 32) (ext : Option (BitVec 32)) : RawSlot :=
  { op := BitVec.ofNat 8 (fld w 24 8), q := Fin.ofNat 8 (fld w 21 3), a := BitVec.ofNat 7 (fld w 14 7),
    b := BitVec.ofNat 7 (fld w 7 7), c := BitVec.ofNat 7 (fld w 0 7), ext := ext }

/-- The slot word of its fields. -/
def RawSlot.word (r : RawSlot) : BitVec 32 :=
  BitVec.ofNat 32 (r.c.toNat + 128 * r.b.toNat + 16384 * r.a.toNat + 2097152 * r.q.val + 16777216 * r.op.toNat)

/-- A tinker word taken apart (Table 3.11) with its extension word. -/
structure RawT where
  op : BitVec 7
  la : BitVec 4
  a : BitVec 7
  b : BitVec 7
  c : BitVec 7
  ext : Option (BitVec 32)
  deriving DecidableEq, Repr

/-- Take a tinker word apart. -/
def rawTOf (w : BitVec 32) (ext : Option (BitVec 32)) : RawT :=
  { op := BitVec.ofNat 7 (fld w 25 7), la := BitVec.ofNat 4 (fld w 21 4), a := BitVec.ofNat 7 (fld w 14 7),
    b := BitVec.ofNat 7 (fld w 7 7), c := BitVec.ofNat 7 (fld w 0 7), ext := ext }

/-- The tinker word of its fields. -/
def RawT.word (r : RawT) : BitVec 32 :=
  BitVec.ofNat 32 (r.c.toNat + 128 * r.b.toNat + 16384 * r.a.toNat + 2097152 * r.la.toNat + 33554432 * r.op.toNat)

/-! ### Parsing with ILLOP reasons (R101, R102) -/

/-- What a parser found: the value if there is one, and every ILLOP reason met, with the operand code where the reason is 3. -/
structure Parsed (α : Type) where
  val : Option α
  bad : List (Nat × Nat)
  deriving DecidableEq, Repr

/-- A field that is as it must be. -/
def Parsed.ok {α : Type} (a : α) : Parsed α := ⟨some a, []⟩

/-- A field that makes its slot ILLOP. -/
def Parsed.fail {α : Type} (reason : Nat) (code : Nat) : Parsed α := ⟨none, [(reason, code)]⟩

/-- Give a constructor its next operand. -/
def Parsed.ap {α β : Type} (f : Parsed (α → β)) (x : Parsed α) : Parsed β :=
  ⟨match f.val, x.val with
   | some g, some a => some (g a)
   | _, _ => none, f.bad ++ x.bad⟩

/-- Add the faults of fields that carry no operand. -/
def Parsed.also {α : Type} (p : Parsed α) (bad : List (Nat × Nat)) : Parsed α := ⟨p.val, p.bad ++ bad⟩

/-- Turn a value that breaks a rule into a fault with its reason. -/
def Parsed.when {α : Type} (p : Parsed α) (c : α → Bool) (reason : Nat) (code : Nat) : Parsed α :=
  match p.val with
  | some a => if c a then p else ⟨some a, p.bad ++ [(reason, code)]⟩
  | none => p

/-- The lowest reason (R102), and of several errors that share it the one parsed first: A, B, C; of TTMASK A, C, B (DESIGN CHOICE, log 43). -/
def lowestReason : List (Nat × Nat) → Option (Nat × Nat)
  | [] => none
  | r :: rs => match lowestReason rs with
    | none => some r
    | some r' => if r'.1 < r.1 then some r' else some r

/-- The instruction, or the ILLOP reason and operand code. -/
def Parsed.result {α : Type} (p : Parsed α) : Except (Nat × Nat) α :=
  match lowestReason p.bad, p.val with
  | none, some a => .ok a
  | some r, _ => .error r
  | none, none => .error (1, 0)

/-- A field the instruction does not use must be zero (R88). -/
def zeroF {n : Nat} (x : BitVec n) : List (Nat × Nat) := if x = 0 then [] else [(2, 0)]

/-- Extension "none" (R89). -/
def noExt (e : Option (BitVec 32)) : List (Nat × Nat) := if e.isSome then [(4, 0)] else []

/-- Extension "req" (R89). -/
def reqExt {α : Type} (e : Option (BitVec 32)) (p : BitVec 32 → Parsed α) : Parsed α :=
  match e with
  | none => .fail 4 0
  | some x => p x

/-- Extension "opt" (R89). -/
def optExt {α : Type} (e : Option (BitVec 32)) (p : BitVec 32 → Parsed α) : Parsed (Option α) :=
  match e with
  | none => .ok none
  | some x => ⟨(p x).val.map some, (p x).bad⟩

/-- Extension "opt" of an instruction that behaves without it as if it were zero (R142). -/
def optExtD {α : Type} (e : Option (BitVec 32)) (d : α) (p : BitVec 32 → Parsed α) : Parsed α :=
  match e with
  | none => .ok d
  | some x => p x

/-! ### Operand codes (Table 2.1, R92, R93) -/

def pS (x : BitVec 7) : Parsed SReg := if h : x.toNat < 32 then .ok ⟨x.toNat, h⟩ else .fail 3 x.toNat
def eS (r : SReg) : BitVec 7 := BitVec.ofNat 7 r.val
def pSS (x : BitVec 7) : Parsed SSrc :=
  if h : x.toNat < 32 then .ok (.s ⟨x.toNat, h⟩)
  else if x.toNat = 0x74 then .ok .ls else if x.toNat = 0x77 then .ok .lc0 else if x.toNat = 0x78 then .ok .lc1
  else .fail 3 x.toNat
def eSS : SSrc → BitVec 7
  | .s r => eS r
  | .ls => 0x74
  | .lc0 => 0x77
  | .lc1 => 0x78
def pVS (x : BitVec 7) : Parsed VSSrc :=
  if h : x.toNat < 32 then .ok (.s ⟨x.toNat, h⟩) else if x.toNat = 0x74 then .ok .ls else .fail 3 x.toNat
def eVS : VSSrc → BitVec 7
  | .s r => eS r
  | .ls => 0x74
def pV (x : BitVec 7) : Parsed VReg :=
  if 0x20 ≤ x.toNat ∧ x.toNat < 0x40 then .ok (Fin.ofNat 32 (x.toNat - 0x20)) else .fail 3 x.toNat
def eV (r : VReg) : BitVec 7 := BitVec.ofNat 7 (0x20 + r.val)
def pVV (x : BitVec 7) : Parsed VSrc :=
  if 0x20 ≤ x.toNat ∧ x.toNat < 0x40 then .ok (.v (Fin.ofNat 32 (x.toNat - 0x20)))
  else if x.toNat = 0x75 then .ok .lv0 else if x.toNat = 0x76 then .ok .lv1 else .fail 3 x.toNat
def eVV : VSrc → BitVec 7
  | .v r => eV r
  | .lv0 => 0x75
  | .lv1 => 0x76
def pD (x : BitVec 7) : Parsed DReg :=
  if 0x40 ≤ x.toNat ∧ x.toNat < 0x50 then .ok (Fin.ofNat 16 (x.toNat - 0x40)) else .fail 3 x.toNat
def eD (r : DReg) : BitVec 7 := BitVec.ofNat 7 (0x40 + r.val)
def pM (x : BitVec 7) : Parsed MReg :=
  if 0x50 ≤ x.toNat ∧ x.toNat < 0x58 then .ok (Fin.ofNat 8 (x.toNat - 0x50)) else .fail 3 x.toNat
def eM (r : MReg) : BitVec 7 := BitVec.ofNat 7 (0x50 + r.val)
def pP (x : BitVec 7) : Parsed Pred :=
  if 0x58 ≤ x.toNat ∧ x.toNat < 0x60 then .ok (Fin.ofNat 8 (x.toNat - 0x58)) else .fail 3 x.toNat
def eP (r : Pred) : BitVec 7 := BitVec.ofNat 7 (0x58 + r.val)
def pH (x : BitVec 7) : Parsed HReg :=
  if 0x60 ≤ x.toNat ∧ x.toNat < 0x68 then .ok (Fin.ofNat 8 (x.toNat - 0x60)) else .fail 3 x.toNat
def eH (r : HReg) : BitVec 7 := BitVec.ofNat 7 (0x60 + r.val)
def pW (x : BitVec 7) : Parsed WReg :=
  if 0x68 ≤ x.toNat ∧ x.toNat < 0x70 then .ok (Fin.ofNat 8 (x.toNat - 0x68)) else .fail 3 x.toNat
def eW (r : WReg) : BitVec 7 := BitVec.ofNat 7 (0x68 + r.val)
def pTT (x : BitVec 7) : Parsed TReg :=
  if 0x70 ≤ x.toNat ∧ x.toNat < 0x74 then .ok (Fin.ofNat 4 (x.toNat - 0x70)) else .fail 3 x.toNat
def eTT (r : TReg) : BitVec 7 := BitVec.ofNat 7 (0x70 + r.val)
/-- A stream port must be v28 to v31 (R170, R173, R300). -/
def pPort (x : BitVec 7) : Parsed Port :=
  if 0x3C ≤ x.toNat ∧ x.toNat < 0x40 then .ok (Fin.ofNat 4 (x.toNat - 0x3C)) else .fail 3 x.toNat
def ePort (r : Port) : BitVec 7 := BitVec.ofNat 7 (0x3C + r.val)
/-- Channel literals lie in 0 to 15 (R98). -/
def pCh (x : BitVec 7) : Parsed Chan := if h : x.toNat < 16 then .ok ⟨x.toNat, h⟩ else .fail 6 0
def eCh (r : Chan) : BitVec 7 := BitVec.ofNat 7 r.val
def scopeOf : Nat → Option Scope
  | 0 => some .core
  | 1 => some .cluster
  | 2 => some .stratum
  | 3 => some .device
  | 4 => some .system
  | _ => none
def Scope.code : Scope → Nat
  | .core => 0
  | .cluster => 1
  | .stratum => 2
  | .device => 3
  | .system => 4
/-- Scope literals 5 to 7 and beyond are out of range (R133). -/
def pScope (x : BitVec 7) : Parsed Scope :=
  match scopeOf x.toNat with
  | some s => .ok s
  | none => .fail 6 0
def eScope (s : Scope) : BitVec 7 := BitVec.ofNat 7 s.code
def pLit (x : BitVec 7) : Parsed (BitVec 7) := .ok x
def eLit (x : BitVec 7) : BitVec 7 := x
/-- MPOP's count is 1 to 127 (R213). -/
def pCnt (x : BitVec 7) : Parsed (BitVec 7) := ⟨some x, if x = 0 then [(6, 0)] else []⟩
/-- GBAR groups 0 to 3 (R286). -/
def pGrp (x : BitVec 7) : Parsed (Fin 4) := if h : x.toNat < 4 then .ok ⟨x.toNat, h⟩ else .fail 6 0
def eGrp (g : Fin 4) : BitVec 7 := BitVec.ofNat 7 g.val
def pCop (x : BitVec 7) : Parsed CacheOp := if h : x.toNat < 6 then .ok ⟨x.toNat, h⟩ else .fail 6 0
def eCop (g : CacheOp) : BitVec 7 := BitVec.ofNat 7 g.val

/-- The special register a number of Table 2.2 names. -/
def specialOf (n : Nat) : Option SpecialReg :=
  match n with
  | 0x00 => some .xcause
  | 0x01 => some .xvalue
  | 0x02 => some .xpc
  | 0x03 => some .xstat
  | 0x08 => some .fpctl
  | 0x09 => some .fpstat
  | 0x0A => some .srseed
  | 0x0B => some .scalel
  | 0x10 => some .pstat
  | 0x11 => some .latprof
  | 0x12 => some .clk
  | 0x13 => some .rank
  | 0x14 => some .coord
  | 0x20 => some .resAdv
  | 0x21 => some .resUsed
  | 0x22 => some .resDenyBank
  | 0x23 => some .resDenyNet
  | 0x24 => some .resDenyPwr
  | 0x30 => some .svpad
  | _ => if 0x18 ≤ n ∧ n < 0x20 then some (.slice (Fin.ofNat 8 (n - 0x18)))
         else if 0x28 ≤ n ∧ n < 0x2C then some (.ttbase (Fin.ofNat 4 (n - 0x28))) else none

/-- The number of a special register (Table 2.2). -/
def SpecialReg.number : SpecialReg → Nat
  | .xcause => 0x00
  | .xvalue => 0x01
  | .xpc => 0x02
  | .xstat => 0x03
  | .fpctl => 0x08
  | .fpstat => 0x09
  | .srseed => 0x0A
  | .scalel => 0x0B
  | .pstat => 0x10
  | .latprof => 0x11
  | .clk => 0x12
  | .rank => 0x13
  | .coord => 0x14
  | .slice k => 0x18 + k.val
  | .resAdv => 0x20
  | .resUsed => 0x21
  | .resDenyBank => 0x22
  | .resDenyNet => 0x23
  | .resDenyPwr => 0x24
  | .ttbase k => 0x28 + k.val
  | .svpad => 0x30

/-- An unassigned special-register number is ILLOP (R54), a literal out of range. -/
def pSpec (x : BitVec 7) : Parsed SpecialReg :=
  match specialOf x.toNat with
  | some s => .ok s
  | none => .fail 6 0
def eSpec (s : SpecialReg) : BitVec 7 := BitVec.ofNat 7 s.number

/-- The last operand of an `s|imm` form (R89): field and extension word together. -/
def pSX (f : BitVec 7) (e : Option (BitVec 32)) : Parsed SX :=
  match e with
  | none => ⟨(pSS f).val.map .reg, (pSS f).bad⟩
  | some x => ⟨some (.imm x), zeroF f⟩
def SX.field : SX → BitVec 7
  | .reg r => eSS r
  | .imm _ => 0
def SX.ext : SX → Option (BitVec 32)
  | .reg _ => none
  | .imm x => some x
/-- BR and CALL: an immediate offset has bits [1:0] zero (R127). -/
def pTarget (f : BitVec 7) (e : Option (BitVec 32)) : Parsed SX :=
  match e with
  | none => ⟨(pSS f).val.map .reg, (pSS f).bad⟩
  | some x => ⟨some (.imm x), zeroF f ++ (if fld x 0 2 = 0 then [] else [(6, 0)])⟩

/-! ### Codes of Table 3.4 and Table 3.6 -/

def ITy.code : ITy → Nat
  | .i8 => 0 | .i16 => 1 | .i32 => 2 | .w8 => 4 | .w16 => 5 | .w32 => 6
def ElemW.code : ElemW → Nat
  | .b8 => 0 | .b16 => 1 | .b32 => 2
def FTy.code : FTy → Nat
  | .f32 => 0 | .bf16 => 1 | .f16 => 2
def ATy.code : ATy → Nat
  | .i8 => 0 | .i16 => 1 | .i32 => 2 | .f32 => 3 | .w8 => 4 | .w16 => 5 | .w32 => 6 | .bf16 => 7
def ICond.code : ICond → Nat
  | .eq => 0 | .ne => 1 | .lt => 2 | .le => 3 | .gt => 4 | .ge => 5 | .ltw => 6 | .lew => 7 | .gtw => 8 | .gew => 9
def icondOf : Nat → Option ICond
  | 0 => some .eq | 1 => some .ne | 2 => some .lt | 3 => some .le | 4 => some .gt | 5 => some .ge
  | 6 => some .ltw | 7 => some .lew | 8 => some .gtw | 9 => some .gew | _ => none
def FCond.code : FCond → Nat
  | .eq => 0 | .ne => 1 | .lt => 2 | .le => 3 | .gt => 4 | .ge => 5 | .un => 6 | .or => 7
def fcondOf : Nat → Option FCond
  | 0 => some .eq | 1 => some .ne | 2 => some .lt | 3 => some .le | 4 => some .gt | 5 => some .ge
  | 6 => some .un | 7 => some .or | _ => none
def LdTy.code : LdTy → Nat
  | .i8 => 0 | .i16 => 1 | .i32 => 2 | .i64 => 3 | .w8 => 4 | .w16 => 5 | .w32 => 6
def StW.code : StW → Nat
  | .b8 => 0 | .b16 => 1 | .b32 => 2 | .b64 => 3
def stwOf : Nat → StW
  | 0 => .b8 | 1 => .b16 | 2 => .b32 | _ => .b64
def NumTy.code : NumTy → Nat
  | .i8 => 0 | .i16 => 1 | .i32 => 2 | .w8 => 3 | .w16 => 4 | .w32 => 5 | .f32 => 6 | .bf16 => 7 | .f16 => 8
  | .e4m3 => 9 | .e5m2 => 10 | .q15 => 11 | .q78 => 12 | .q1616 => 13 | .i64 => 14
def numTyOf : Nat → Option NumTy
  | 0 => some .i8 | 1 => some .i16 | 2 => some .i32 | 3 => some .w8 | 4 => some .w16 | 5 => some .w32
  | 6 => some .f32 | 7 => some .bf16 | 8 => some .f16 | 9 => some .e4m3 | 10 => some .e5m2 | 11 => some .q15
  | 12 => some .q78 | 13 => some .q1616 | 14 => some .i64 | _ => none
def FTy.typeCode : FTy → Nat
  | .f32 => 6 | .bf16 => 7 | .f16 => 8
def ftyOf : Nat → Option FTy
  | 6 => some .f32 | 7 => some .bf16 | 8 => some .f16 | _ => none
def MxFmt.code : MxFmt → Nat
  | .mxint8 => 0 | .mxint6 => 1 | .mxint4 => 2 | .mxp4 => 3
def mxFmtOf : Nat → Option MxFmt
  | 0 => some .mxint8 | 1 => some .mxint6 | 2 => some .mxint4 | 3 => some .mxp4 | _ => none
def MatFmt.code : MatFmt → Nat
  | .mx f => f.code
  | .bf16 => 4
def matFmtOf (n : Nat) : Option MatFmt := if n = 4 then some .bf16 else (mxFmtOf n).map .mx
def Rnd.code : Rnd → Nat
  | .dyn => 0 | .rne => 1 | .rtz => 2 | .rdn => 3 | .rup => 4 | .sr => 5
def rndOf : Nat → Option Rnd
  | 0 => some .dyn | 1 => some .rne | 2 => some .rtz | 3 => some .rdn | 4 => some .rup | 5 => some .sr | _ => none
def RedOp.code : RedOp → Nat
  | .add => 0 | .max => 1 | .min => 2 | .and => 3 | .or => 4 | .xor => 5
def redOpOf : Nat → Option RedOp
  | 0 => some .add | 1 => some .max | 2 => some .min | 3 => some .and | 4 => some .or | 5 => some .xor | _ => none
def ShufSel.code : ShufSel → Nat
  | .ziplo => 0 | .ziphi => 1 | .even => 2 | .odd => 3
def shufSelOf : Nat → Option ShufSel
  | 0 => some .ziplo | 1 => some .ziphi | 2 => some .even | 3 => some .odd | _ => none
def AtOp.code : AtOp → Nat
  | .add => 0 | .max => 1 | .min => 2 | .maxw => 3 | .minw => 4 | .fmax => 5 | .fmin => 6 | .and => 7 | .or => 8
  | .xor => 9 | .swap => 10 | .cas => 11
def atOpOf : Nat → Option AtOp
  | 0 => some .add | 1 => some .max | 2 => some .min | 3 => some .maxw | 4 => some .minw | 5 => some .fmax
  | 6 => some .fmin | 7 => some .and | 8 => some .or | 9 => some .xor | 10 => some .swap | 11 => some .cas | _ => none
/-- Element width in bits of a type code. -/
def NumTy.width : NumTy → Nat
  | .i8 | .w8 | .e4m3 | .e5m2 => 8
  | .i16 | .w16 | .bf16 | .f16 | .q15 | .q78 => 16
  | .i32 | .w32 | .f32 | .q1616 => 32
  | .i64 => 64
def ATy.width : ATy → Nat
  | .i8 | .w8 => 8
  | .i16 | .w16 | .bf16 => 16
  | .i32 | .w32 | .f32 => 32
def ATy.isFloat : ATy → Bool
  | .f32 | .bf16 => true
  | _ => false

/-- An assigned code, or reason 6 (R101). -/
def code6 {α : Type} : Option α → Parsed α
  | some a => .ok a
  | none => .fail 6 0

/-! ### The XV extension word (Table 3.3, R142) -/

/-- XV taken apart. -/
structure XV where
  rnd : Nat
  men : Nat
  msel : Nat
  zm : Nat
  sat : Nat
  sub : Nat
  imm : Nat
  deriving DecidableEq, Repr

def xvOf (x : BitVec 32) : XV :=
  { rnd := fld x 0 3, men := fld x 3 1, msel := fld x 4 3, zm := fld x 7 1, sat := fld x 8 1, sub := fld x 9 7, imm := fld x 16 16 }
def XV.word (v : XV) : BitVec 32 :=
  BitVec.ofNat 32 (v.rnd + 8 * v.men + 16 * v.msel + 128 * v.zm + 256 * v.sat + 512 * v.sub + 65536 * v.imm)
def XV.zero : XV := ⟨0, 0, 0, 0, 0, 0, 0⟩

/-- A value that must be zero (reason 2). -/
def zeroN (n : Nat) : List (Nat × Nat) := if n = 0 then [] else [(2, 0)]
/-- The rounding field: 110 and 111 are reason 5 (R101). -/
def pRnd (n : Nat) : Parsed Rnd :=
  match rndOf n with
  | some r => .ok r
  | none => .fail 5 0
/-- A destination mask: with MEN = 0, MSEL and ZM must be 0 (R142). -/
def XV.dmask (v : XV) : Parsed DMask :=
  if v.men = 1 then .ok (some (Fin.ofNat 8 v.msel, v.zm == 1)) else ⟨some none, zeroN v.msel ++ zeroN v.zm⟩
/-- A source or write mask: ZM must be 0 (Table 5.1). -/
def XV.smask (v : XV) : Parsed SMask :=
  ⟨some (if v.men = 1 then some (Fin.ofNat 8 v.msel) else none), (if v.men = 1 then [] else zeroN v.msel) ++ zeroN v.zm⟩
def XV.noMask (v : XV) : List (Nat × Nat) := zeroN v.men ++ zeroN v.msel ++ zeroN v.zm
def XV.withD (v : XV) (k : DMask) : XV :=
  match k with
  | none => v
  | some (m, z) => { v with men := 1, msel := m.val, zm := z.toNat }
def XV.withS (v : XV) (k : SMask) : XV :=
  match k with
  | none => v
  | some m => { v with men := 1, msel := m.val }

def pMx (x : BitVec 32) : Parsed DMask :=
  let v := xvOf x
  v.dmask.also (zeroN v.rnd ++ zeroN v.sat ++ zeroN v.sub ++ zeroN v.imm)
def eMx (k : DMask) : Option (BitVec 32) := k.map fun _ => (XV.zero.withD k).word
def pSmx (x : BitVec 32) : Parsed SMask :=
  let v := xvOf x
  v.smask.also (zeroN v.rnd ++ zeroN v.sat ++ zeroN v.sub ++ zeroN v.imm)
def eSmx (k : SMask) : Option (BitVec 32) := k.map fun _ => (XV.zero.withS k).word
def pIntX (x : BitVec 32) : Parsed IntX :=
  let v := xvOf x
  ((Parsed.ok IntX.mk).ap v.dmask |>.ap (.ok (v.sat == 1))).also (zeroN v.rnd ++ zeroN v.sub ++ zeroN v.imm)
def eIntX (y : IntX) : BitVec 32 := ({ XV.zero with sat := y.sat.toNat }.withD y.msk).word
def pFltX (x : BitVec 32) : Parsed FltX :=
  let v := xvOf x
  ((Parsed.ok FltX.mk).ap v.dmask |>.ap (pRnd v.rnd)).also (zeroN v.sat ++ zeroN v.sub ++ zeroN v.imm)
def eFltX (y : FltX) : BitVec 32 := ({ XV.zero with rnd := y.rnd.code }.withD y.msk).word
def pCmpX (x : BitVec 32) : Parsed CmpX :=
  let v := xvOf x
  ((Parsed.ok CmpX.mk).ap v.dmask |>.ap (code6 (icondOf v.sub))).also (zeroN v.rnd ++ zeroN v.sat ++ zeroN v.imm)
def eCmpX (y : CmpX) : BitVec 32 := ({ XV.zero with sub := y.cc.code }.withD y.msk).word
def pFCmpX (x : BitVec 32) : Parsed FCmpX :=
  let v := xvOf x
  ((Parsed.ok FCmpX.mk).ap v.dmask |>.ap (code6 (fcondOf v.sub))).also (zeroN v.rnd ++ zeroN v.sat ++ zeroN v.imm)
def eFCmpX (y : FCmpX) : BitVec 32 := ({ XV.zero with sub := y.cc.code }.withD y.msk).word
/-- VSEL needs MEN = 1 and ZM = 0 (R147). -/
def pSelX (x : BitVec 32) : Parsed MReg :=
  let v := xvOf x
  (Parsed.ok (Fin.ofNat 8 v.msel)).also ((if v.men = 1 then [] else [(2, 0)]) ++ zeroN v.zm ++ zeroN v.rnd ++ zeroN v.sat ++ zeroN v.sub ++ zeroN v.imm)
def eSelX (m : MReg) : BitVec 32 := (XV.zero.withS (some m)).word
def pVCvtX (x : BitVec 32) : Parsed VCvtX :=
  let v := xvOf x
  ((Parsed.ok VCvtX.mk).ap v.dmask |>.ap (pRnd v.rnd) |>.ap (.ok (v.sat == 1)) |>.ap (code6 (numTyOf (v.imm % 16)))
    |>.ap (code6 (numTyOf (v.imm / 16 % 16))) |>.ap (.ok (Fin.ofNat 4 v.sub))).also (zeroN (v.sub / 4) ++ zeroN (v.imm / 256))
def eVCvtX (y : VCvtX) : BitVec 32 :=
  ({ XV.zero with rnd := y.rnd.code, sat := y.sat.toNat, sub := y.part.val, imm := y.src.code + 16 * y.dst.code }.withD y.msk).word
/-- VCVT takes no `.i64`, and its part lies below the width ratio (R150). -/
def VCvtX.okB (y : VCvtX) : Bool :=
  y.src != .i64 && y.dst != .i64 && decide (y.part.val < max y.src.width y.dst.width / min y.src.width y.dst.width)
def pMxExpX (x : BitVec 32) : Parsed MxExpX :=
  let v := xvOf x
  ((Parsed.ok MxExpX.mk).ap v.smask |>.ap (code6 (ftyOf (v.imm % 16))) |>.ap (.ok (v.sub % 2 == 1))).also
    (zeroN (v.sub / 2) ++ zeroN (v.imm / 16) ++ zeroN v.rnd ++ zeroN v.sat)
def eMxExpX (y : MxExpX) : BitVec 32 := ({ XV.zero with sub := y.head.toNat, imm := y.t.typeCode }.withS y.msk).word
def pQuantX (x : BitVec 32) : Parsed QuantX :=
  let v := xvOf x
  ((Parsed.ok QuantX.mk).ap v.smask |>.ap (pRnd v.rnd) |>.ap (code6 (ftyOf (v.imm % 16))) |>.ap (code6 (mxFmtOf (v.imm / 16 % 8)))).also
    (zeroN v.sub ++ zeroN (v.imm / 128) ++ zeroN v.sat)
def eQuantX (y : QuantX) : BitVec 32 := ({ XV.zero with rnd := y.rnd.code, imm := y.t.typeCode + 16 * y.f.code }.withS y.msk).word
def pDeqX (x : BitVec 32) : Parsed DeqX :=
  let v := xvOf x
  ((Parsed.ok DeqX.mk).ap v.dmask |>.ap (pRnd v.rnd) |>.ap (code6 (ftyOf (v.imm % 16))) |>.ap (code6 (mxFmtOf (v.imm / 16 % 8)))).also
    (zeroN v.sub ++ zeroN (v.imm / 128) ++ zeroN v.sat)
def eDeqX (y : DeqX) : BitVec 32 := ({ XV.zero with rnd := y.rnd.code, imm := y.t.typeCode + 16 * y.f.code }.withD y.msk).word
/-- VXPAND: a source format other than MXINT8 and a count of 1 to 7 (R155). -/
def pXpandX (x : BitVec 32) : Parsed XpandX :=
  let v := xvOf x
  let f := v.imm / 16 % 8
  let c := v.imm / 256 % 8
  ((Parsed.ok XpandX.mk).ap (if f = 0 then .fail 6 0 else code6 (mxFmtOf f)) |>.ap (if h : c < 7 then .ok ⟨c, h⟩ else .fail 6 0)).also
    (v.noMask ++ zeroN v.rnd ++ zeroN v.sat ++ zeroN v.sub ++ zeroN (v.imm % 16) ++ zeroN (v.imm / 128 % 2) ++ zeroN (v.imm / 2048))
def eXpandX (y : XpandX) : BitVec 32 := { XV.zero with imm := 16 * y.f.code + 256 * y.cm1.val }.word
def pShufX (x : BitVec 32) : Parsed ShufX :=
  let v := xvOf x
  ((Parsed.ok ShufX.mk).ap v.dmask |>.ap (code6 (shufSelOf v.sub))).also (zeroN v.rnd ++ zeroN v.sat ++ zeroN v.imm)
def eShufX (y : ShufX) : BitVec 32 := ({ XV.zero with sub := y.sel.code }.withD y.msk).word
def pBitX (x : BitVec 32) : Parsed BitX :=
  let v := xvOf x
  ((Parsed.ok BitX.mk).ap v.dmask |>.ap (.ok (BitVec.ofNat 16 v.imm))).also (zeroN v.rnd ++ zeroN v.sat ++ zeroN v.sub)
def eBitX (y : BitX) : BitVec 32 := ({ XV.zero with imm := y.base.toNat }.withD y.msk).word
def pRedX (x : BitVec 32) : Parsed RedX :=
  let v := xvOf x
  ((Parsed.ok RedX.mk).ap v.smask |>.ap (pRnd v.rnd) |>.ap (code6 (redOpOf v.sub))).also (zeroN v.sat ++ zeroN v.imm)
def eRedX (y : RedX) : BitVec 32 := ({ XV.zero with rnd := y.rnd.code, sub := y.op.code }.withS y.msk).word
def pScanX (x : BitVec 32) : Parsed ScanX :=
  let v := xvOf x
  ((Parsed.ok ScanX.mk).ap v.smask |>.ap (pRnd v.rnd) |>.ap (.ok (v.sat == 1)) |>.ap (code6 (redOpOf v.sub))).also (zeroN v.imm)
def eScanX (y : ScanX) : BitVec 32 := ({ XV.zero with rnd := y.rnd.code, sat := y.sat.toNat, sub := y.op.code }.withS y.msk).word
/-- The bitwise operators are for integer types only (R166). -/
def redOk (t : ATy) (op : RedOp) : Bool :=
  !t.isFloat || (match op with | .add | .max | .min => true | .and | .or | .xor => false)
/-- VSBIND: SUB[0] is the direction (R170). -/
def pSbindX (x : BitVec 32) : Parsed Bool :=
  let v := xvOf x
  (Parsed.ok (v.sub % 2 == 1)).also (v.noMask ++ zeroN v.rnd ++ zeroN v.sat ++ zeroN (v.sub / 2) ++ zeroN v.imm)
def eSbindX (w : Bool) : BitVec 32 := { XV.zero with sub := w.toNat }.word
/-- The fields a directional instruction may not use (R176). -/
def XV.dirZero (v : XV) : List (Nat × Nat) := v.noMask ++ zeroN v.rnd ++ zeroN v.sat ++ zeroN v.sub
def pDfromX (x : BitVec 32) : Parsed Half16 :=
  let v := xvOf x
  (match v.imm % 16 with
   | 7 => Parsed.ok Half16.bf16
   | 8 => Parsed.ok Half16.f16
   | _ => Parsed.fail 6 0).also (v.dirZero ++ zeroN (v.imm / 16))
def eDfromX : Half16 → Option (BitVec 32)
  | .dflt => none
  | .bf16 => some { XV.zero with imm := 7 }.word
  | .f16 => some { XV.zero with imm := 8 }.word
/-- DTO; HI = 1 only with type 6 (R182). -/
def pDtoX (x : BitVec 32) : Parsed DtoX :=
  let v := xvOf x
  let hi := v.imm / 16 % 2 == 1
  ((Parsed.ok DtoX.mk).ap v.dmask |>.ap (pRnd v.rnd) |>.ap (code6 (ftyOf (v.imm % 16))) |>.ap (.ok hi)).also
    (zeroN v.sat ++ zeroN v.sub ++ zeroN (v.imm / 32) ++ (if hi && v.imm % 16 != 6 then [(6, 0)] else []))
def eDtoX (y : DtoX) : BitVec 32 := ({ XV.zero with rnd := y.rnd.code, imm := y.t.typeCode + 16 * y.hi.toNat }.withD y.msk).word
def pImm16X (x : BitVec 32) : Parsed (BitVec 16) :=
  let v := xvOf x
  (Parsed.ok (BitVec.ofNat 16 v.imm)).also v.dirZero
def eImm16X (y : BitVec 16) : BitVec 32 := { XV.zero with imm := y.toNat }.word
/-- DLERP with IMM16 above 0x8000 is reason 6 (R183). -/
def pDlerpX (x : BitVec 32) : Parsed (BitVec 16) := (pImm16X x).when (fun y => y.toNat ≤ 0x8000) 6 0
/-- VCMPX's stage fields (R164). -/
def pCmpxX (x : BitVec 32) : Parsed CmpxX :=
  let v := xvOf x
  (Parsed.ok (CmpxX.mk (Fin.ofNat 8 (v.imm % 8)) (Fin.ofNat 16 (v.imm / 16 % 16)) (v.imm / 256 % 2 == 1))).also
    (v.noMask ++ zeroN v.rnd ++ zeroN v.sat ++ zeroN v.sub ++ zeroN (v.imm / 8 % 2) ++ zeroN (v.imm / 512))
def eCmpxX (y : CmpxX) : BitVec 32 := { XV.zero with imm := y.j.val + 16 * y.k.val + 256 * y.desc.toNat }.word
def cmpxOk (t : ATy) (y : CmpxX) : Bool :=
  let n := 2048 / t.width
  decide (2 ^ y.j.val < n) && decide (2 * 2 ^ y.j.val ≤ 2 ^ y.k.val) && decide (2 ^ y.k.val ≤ n)
/-- VTOPK (R165). -/
def pTopkX (x : BitVec 32) : Parsed TopkX :=
  let v := xvOf x
  ((Parsed.ok TopkX.mk).ap v.smask |>.ap (.ok (v.sub % 2 == 1)) |>.ap (.ok (BitVec.ofNat 9 v.imm))).also
    (zeroN v.rnd ++ zeroN v.sat ++ zeroN (v.sub / 2) ++ zeroN (v.imm / 512))
def eTopkX (y : TopkX) : BitVec 32 := ({ XV.zero with sub := y.low.toNat, imm := y.k.toNat }.withS y.msk).word
def topkOk (t : ATy) (y : TopkX) : Bool := decide (1 ≤ y.k.toNat) && decide (y.k.toNat ≤ min (2048 / t.width) 128)

def pShiftX (f : BitVec 7) (e : Option (BitVec 32)) : Parsed ShiftX :=
  match e with
  | none => ⟨(pVV f).val.map .reg, (pVV f).bad⟩
  | some x =>
    let v := xvOf x
    ((Parsed.ok (ShiftX.imm (BitVec.ofNat 16 v.imm))).ap v.dmask).also (zeroF f ++ zeroN v.rnd ++ zeroN v.sat ++ zeroN v.sub)
def ShiftX.field : ShiftX → BitVec 7
  | .reg r => eVV r
  | .imm _ _ => 0
def ShiftX.ext : ShiftX → Option (BitVec 32)
  | .reg _ => none
  | .imm i k => some ({ XV.zero with imm := i.toNat }.withD k).word
def pIdxX (f : BitVec 7) (e : Option (BitVec 32)) : Parsed IdxX :=
  match e with
  | none => ⟨(pVS f).val.map .reg, (pVS f).bad⟩
  | some x =>
    let v := xvOf x
    (Parsed.ok (IdxX.imm (BitVec.ofNat 16 v.imm))).also (zeroF f ++ v.noMask ++ zeroN v.rnd ++ zeroN v.sat ++ zeroN v.sub)
def IdxX.field : IdxX → BitVec 7
  | .reg r => eVS r
  | .imm _ => 0
def IdxX.ext : IdxX → Option (BitVec 32)
  | .reg _ => none
  | .imm i => some { XV.zero with imm := i.toNat }.word
/-- VSLIDE: SUB 0 slides, SUB 1 rotates (Table 5.10). -/
def pSlideX (f : BitVec 7) (e : Option (BitVec 32)) : Parsed SlideX :=
  match e with
  | none => ⟨(pVS f).val.map .reg, (pVS f).bad⟩
  | some x =>
    let v := xvOf x
    ((Parsed.ok (SlideX.imm (BitVec.ofNat 16 v.imm))).ap v.dmask |>.ap
      (if v.sub = 0 then .ok false else if v.sub = 1 then .ok true else .fail 6 0)).also (zeroF f ++ zeroN v.rnd ++ zeroN v.sat)
def SlideX.field : SlideX → BitVec 7
  | .reg r => eVS r
  | .imm _ _ _ => 0
def SlideX.ext : SlideX → Option (BitVec 32)
  | .reg _ => none
  | .imm i k r => some ({ XV.zero with imm := i.toNat, sub := r.toNat }.withD k).word
def pDScaleX (f : BitVec 7) (e : Option (BitVec 32)) : Parsed DScaleX :=
  match e with
  | none => ⟨(pVS f).val.map .reg, (pVS f).bad⟩
  | some x =>
    let v := xvOf x
    (Parsed.ok (DScaleX.imm (BitVec.ofNat 16 v.imm))).also (zeroF f ++ v.dirZero)
def DScaleX.field : DScaleX → BitVec 7
  | .reg r => eVS r
  | .imm _ => 0
def DScaleX.ext : DScaleX → Option (BitVec 32)
  | .reg _ => none
  | .imm i => some { XV.zero with imm := i.toNat }.word

/-! ### XI, XR, XM, XA, XD and XT -/

def pXi (x : BitVec 32) : Parsed (BitVec 32) := .ok x
def eXi (x : BitVec 32) : BitVec 32 := x
/-- A branch offset has bits [1:0] zero (R127). -/
def pBr (x : BitVec 32) : Parsed (BitVec 32) := ⟨some x, if fld x 0 2 = 0 then [] else [(6, 0)]⟩
/-- LOOP's offset is positive with bits [1:0] zero (R129). -/
def loopOffOk (x : BitVec 32) : Bool := fld x 0 2 == 0 && decide (0 < x.toNat) && decide (x.toNat < 2 ^ 31)
def pLoopX (x : BitVec 32) : Parsed (BitVec 32) := ⟨some x, if loopOffOk x then [] else [(6, 0)]⟩
/-- SEL: only PSEL (R115). -/
def pXrSel (x : BitVec 32) : Parsed Pred :=
  (Parsed.ok (Fin.ofNat 8 (fld x 12 3))).also (zeroN (fld x 0 12) ++ zeroN (fld x 15 17))
def eXrSel (k : Pred) : BitVec 32 := BitVec.ofNat 32 (4096 * k.val)
/-- SFADD, SFMUL, SFFMA: only RND (R119). -/
def pXrRnd (x : BitVec 32) : Parsed Rnd := (pRnd (fld x 0 3)).also (zeroN (fld x 3 29))
def eXrRnd (r : Rnd) : BitVec 32 := BitVec.ofNat 32 r.code
/-- SFCVT (R120). -/
def pXrCvt (x : BitVec 32) : Parsed CvtX :=
  ((Parsed.ok CvtX.mk).ap (pRnd (fld x 0 3)) |>.ap (code6 (numTyOf (fld x 4 4))) |>.ap (code6 (numTyOf (fld x 8 4)))).also
    (zeroN (fld x 3 1) ++ zeroN (fld x 12 20))
def eXrCvt (y : CvtX) : BitVec 32 := BitVec.ofNat 32 (y.rnd.code + 16 * y.src.code + 256 * y.dst.code)
def bfOf (x : BitVec 32) : BitField := ⟨Fin.ofNat 64 (fld x 0 6), Fin.ofNat 64 (fld x 8 6), bitOf x 16⟩
def BitField.fits (f : BitField) : Bool := decide (f.pos.val + f.wm1.val + 1 ≤ 64)
/-- BFX (R116, Table 4.2). -/
def pBfx (x : BitVec 32) : Parsed BitField :=
  (Parsed.ok (bfOf x)).also ((if (bfOf x).fits then [] else [(6, 0)]) ++ zeroN (fld x 6 2) ++ zeroN (fld x 14 2) ++ zeroN (fld x 17 15))
/-- BFI: SX must be 0 (R116). -/
def pBfi (x : BitVec 32) : Parsed BitField := (pBfx x).also (zeroN (fld x 16 1))
def eBf (f : BitField) : BitVec 32 := BitVec.ofNat 32 (f.pos.val + 256 * f.wm1.val + 65536 * f.sx.toNat)
/-- BF16 pairs only with BF16 (R91). -/
def pairOk (a b : MatFmt) : Bool :=
  match a, b with
  | .bf16, .bf16 => true
  | .mx _, .mx _ => true
  | _, _ => false
def pXm (x : BitVec 32) : Parsed XM :=
  ((Parsed.ok XM.mk).ap (.ok (Fin.ofNat 32 (fld x 0 5))) |>.ap (code6 (matFmtOf (fld x 5 3))) |>.ap (code6 (matFmtOf (fld x 8 3)))
    |>.ap (.ok (Fin.ofNat 8 (fld x 11 3))) |>.ap (.ok (Fin.ofNat 8 (fld x 14 3))) |>.ap (.ok (BitVec.ofNat 12 (fld x 17 12)))
    |>.ap (.ok (bitOf x 29)) |>.ap (.ok (bitOf x 30)) |>.ap (.ok (bitOf x 31))).when (fun y => pairOk y.fa y.fb) 6 0
def eXm (y : XM) : BitVec 32 :=
  BitVec.ofNat 32 (y.shape.val + 32 * y.fa.code + 256 * y.fb.code + 2048 * y.ha.val + 16384 * y.hb.val + 131072 * y.abase.toNat
    + 536870912 * y.zi.toNat + 1073741824 * y.fwa.toNat + 2147483648 * y.fwb.toNat)
/-- MMAS: FB, HB and FWB zero, FA not BF16 (R210). -/
def pXms (x : BitVec 32) : Parsed XMS :=
  ((Parsed.ok XMS.mk).ap (.ok (Fin.ofNat 32 (fld x 0 5))) |>.ap (code6 (mxFmtOf (fld x 5 3)))
    |>.ap (.ok (Fin.ofNat 8 (fld x 11 3))) |>.ap (.ok (BitVec.ofNat 12 (fld x 17 12)))
    |>.ap (.ok (bitOf x 29)) |>.ap (.ok (bitOf x 30))).also (zeroN (fld x 8 3) ++ zeroN (fld x 14 3) ++ zeroN (fld x 31 1))
def eXms (y : XMS) : BitVec 32 :=
  BitVec.ofNat 32 (y.shape.val + 32 * y.fa.code + 2048 * y.ha.val + 131072 * y.abase.toNat + 536870912 * y.zi.toNat + 1073741824 * y.fwa.toNat)
def DrainFmt.code : DrainFmt → Nat
  | .mx f => f.code
  | .bf16 => 4
  | .f32 => 5
def drainFmtOf (n : Nat) : Option DrainFmt :=
  if n = 4 then some .bf16 else if n = 5 then some .f32 else (mxFmtOf n).map .mx
/-- MDRAIN (Table 7.6): rounding code 101 is reason 6. -/
def pXd (x : BitVec 32) : Parsed XD :=
  ((Parsed.ok XD.mk).ap (if fld x 0 3 = 5 then .fail 6 0 else pRnd (fld x 0 3)) |>.ap (.ok (bitOf x 3)) |>.ap (code6 (drainFmtOf (fld x 4 3)))
    |>.ap (.ok (bitOf x 7)) |>.ap (.ok (BitVec.ofNat 11 (fld x 8 11)))).also (zeroN (fld x 19 13))
def eXd (y : XD) : BitVec 32 :=
  BitVec.ofNat 32 (y.rnd.code + 8 * y.uscl.toNat + 16 * y.fmt.code + 128 * y.clr.toNat + 256 * y.nb.toNat)
def pXt (x : BitVec 32) : Parsed XT :=
  (Parsed.ok (XT.mk (Fin.ofNat 16 (fld x 0 4)) (Fin.ofNat 16 (fld x 4 4)))).also (zeroN (fld x 8 24))
def eXt (y : XT) : BitVec 32 := BitVec.ofNat 32 (y.rm1.val + 16 * y.cm1.val)
/-- CPROM (R225). -/
def pUrg (x : BitVec 32) : Parsed (BitVec 3) := (Parsed.ok (BitVec.ofNat 3 (fld x 0 3))).also (zeroN (fld x 3 29))
def eUrg (u : BitVec 3) : BitVec 32 := BitVec.ofNat 32 u.toNat
/-- CDEMO (R225). -/
def pDemo (x : BitVec 32) : Parsed DemoX :=
  (Parsed.ok (DemoX.mk (BitVec.ofNat 3 (fld x 0 3)) (Fin.ofNat 4 (fld x 3 2)))).also (zeroN (fld x 5 27))
def eDemo (y : DemoX) : BitVec 32 := BitVec.ofNat 32 (y.urg.toNat + 8 * y.fmt.val)
/-- fmax and fmin exist only at 32 bits (R91). -/
def AtX.okB (y : AtX) : Bool :=
  match y.op with
  | .fmax | .fmin => y.width == .b32
  | _ => true
def pAt (x : BitVec 32) : Parsed AtX :=
  (((Parsed.ok AtX.mk).ap (code6 (atOpOf (fld x 0 4))) |>.ap (.ok (stwOf (fld x 4 2))) |>.ap (.ok (bitOf x 6))).when AtX.okB 6 0).also
    (zeroN (fld x 10 22))
def eAt (y : AtX) (scope : Nat) : BitVec 32 :=
  BitVec.ofNat 32 (y.op.code + 16 * y.width.code + 64 * y.ret.toNat + 128 * scope)
/-- CATOM: the scope is STRATUM, DEVICE or SYSTEM (R224). -/
def pXac (x : BitVec 32) : Parsed XA :=
  (Parsed.ok XA.mk).ap (pAt x) |>.ap (match scopeOf (fld x 7 3) with
    | some .stratum => .ok .stratum
    | some .device => .ok .device
    | some .system => .ok .system
    | _ => .fail 6 0)
def eXa (y : XA) : BitVec 32 := eAt y.at_ y.scope.code
/-- SAT accepts SCOPE 0 alone (R90, R222); another scope is reason 6 (Table 3.13, log 42). -/
def pXas (x : BitVec 32) : Parsed AtX := (pAt x).also (if fld x 7 3 = 0 then [] else [(6, 0)])

/-! ### The slot maps (R95 to R98)

Each instruction has one definition that reads its operand fields; the maps choose among them by opcode. -/

/-- NOP (R138). -/
def dNop (r : RawSlot) : Parsed Instr :=
  ((Parsed.ok (Instr.nop))).also (zeroF r.a ++ zeroF r.b ++ zeroF r.c ++ noExt r.ext)
/-- ADD (R113). -/
def dAdd (r : RawSlot) : Parsed Instr :=
  ((Parsed.ok (Instr.add)).ap (pS r.a) |>.ap (pSS r.b) |>.ap (pSS r.c)).also (noExt r.ext)
/-- SUB (R113). -/
def dSub (r : RawSlot) : Parsed Instr :=
  (Parsed.ok (Instr.sub)).ap (pS r.a) |>.ap (pSS r.b) |>.ap (pSX r.c r.ext)
/-- ADDI (R113). -/
def dAddi (r : RawSlot) : Parsed Instr :=
  ((Parsed.ok (Instr.addi)).ap (pS r.a) |>.ap (pSS r.b) |>.ap (reqExt r.ext pXi)).also (zeroF r.c)
/-- MUL (R113). -/
def dMul (r : RawSlot) : Parsed Instr :=
  (Parsed.ok (Instr.mul)).ap (pS r.a) |>.ap (pSS r.b) |>.ap (pSX r.c r.ext)
/-- MULH (R113). -/
def dMulh (r : RawSlot) : Parsed Instr :=
  (Parsed.ok (Instr.mulh)).ap (pS r.a) |>.ap (pSS r.b) |>.ap (pSX r.c r.ext)
/-- MULH_W (R113). -/
def dMulhW (r : RawSlot) : Parsed Instr :=
  (Parsed.ok (Instr.mulhW)).ap (pS r.a) |>.ap (pSS r.b) |>.ap (pSX r.c r.ext)
/-- DIV (R114). -/
def dDiv (r : RawSlot) : Parsed Instr :=
  (Parsed.ok (Instr.div)).ap (pS r.a) |>.ap (pSS r.b) |>.ap (pSX r.c r.ext)
/-- DIV_W (R114). -/
def dDivW (r : RawSlot) : Parsed Instr :=
  (Parsed.ok (Instr.divW)).ap (pS r.a) |>.ap (pSS r.b) |>.ap (pSX r.c r.ext)
/-- REM (R114). -/
def dRem (r : RawSlot) : Parsed Instr :=
  (Parsed.ok (Instr.rem)).ap (pS r.a) |>.ap (pSS r.b) |>.ap (pSX r.c r.ext)
/-- REM_W (R114). -/
def dRemW (r : RawSlot) : Parsed Instr :=
  (Parsed.ok (Instr.remW)).ap (pS r.a) |>.ap (pSS r.b) |>.ap (pSX r.c r.ext)
/-- AND (R113). -/
def dAnd (r : RawSlot) : Parsed Instr :=
  (Parsed.ok (Instr.and)).ap (pS r.a) |>.ap (pSS r.b) |>.ap (pSX r.c r.ext)
/-- OR (R113). -/
def dOr (r : RawSlot) : Parsed Instr :=
  (Parsed.ok (Instr.or)).ap (pS r.a) |>.ap (pSS r.b) |>.ap (pSX r.c r.ext)
/-- XOR (R113). -/
def dXor (r : RawSlot) : Parsed Instr :=
  (Parsed.ok (Instr.xor)).ap (pS r.a) |>.ap (pSS r.b) |>.ap (pSX r.c r.ext)
/-- ANDN (R113). -/
def dAndn (r : RawSlot) : Parsed Instr :=
  (Parsed.ok (Instr.andn)).ap (pS r.a) |>.ap (pSS r.b) |>.ap (pSX r.c r.ext)
/-- SHL (R113). -/
def dShl (r : RawSlot) : Parsed Instr :=
  (Parsed.ok (Instr.shl)).ap (pS r.a) |>.ap (pSS r.b) |>.ap (pSX r.c r.ext)
/-- SHR (R113). -/
def dShr (r : RawSlot) : Parsed Instr :=
  (Parsed.ok (Instr.shr)).ap (pS r.a) |>.ap (pSS r.b) |>.ap (pSX r.c r.ext)
/-- SAR (R113). -/
def dSar (r : RawSlot) : Parsed Instr :=
  (Parsed.ok (Instr.sar)).ap (pS r.a) |>.ap (pSS r.b) |>.ap (pSX r.c r.ext)
/-- ROT (R113). -/
def dRot (r : RawSlot) : Parsed Instr :=
  (Parsed.ok (Instr.rot)).ap (pS r.a) |>.ap (pSS r.b) |>.ap (pSX r.c r.ext)
/-- CLZ (R113). -/
def dClz (r : RawSlot) : Parsed Instr :=
  ((Parsed.ok (Instr.clz)).ap (pS r.a) |>.ap (pSS r.b)).also (zeroF r.c ++ noExt r.ext)
/-- POPC (R113). -/
def dPopc (r : RawSlot) : Parsed Instr :=
  ((Parsed.ok (Instr.popc)).ap (pS r.a) |>.ap (pSS r.b)).also (zeroF r.c ++ noExt r.ext)
/-- MIN (R113). -/
def dMin (r : RawSlot) : Parsed Instr :=
  (Parsed.ok (Instr.min)).ap (pS r.a) |>.ap (pSS r.b) |>.ap (pSX r.c r.ext)
/-- MIN_W (R113). -/
def dMinW (r : RawSlot) : Parsed Instr :=
  (Parsed.ok (Instr.minW)).ap (pS r.a) |>.ap (pSS r.b) |>.ap (pSX r.c r.ext)
/-- MAX (R113). -/
def dMax (r : RawSlot) : Parsed Instr :=
  (Parsed.ok (Instr.max)).ap (pS r.a) |>.ap (pSS r.b) |>.ap (pSX r.c r.ext)
/-- MAX_W (R113). -/
def dMaxW (r : RawSlot) : Parsed Instr :=
  (Parsed.ok (Instr.maxW)).ap (pS r.a) |>.ap (pSS r.b) |>.ap (pSX r.c r.ext)
/-- SEL (R115). -/
def dSel (r : RawSlot) : Parsed Instr :=
  (Parsed.ok (Instr.sel)).ap (pS r.a) |>.ap (pSS r.b) |>.ap (pSS r.c) |>.ap (reqExt r.ext pXrSel)
/-- LI (R113). -/
def dLi (r : RawSlot) : Parsed Instr :=
  ((Parsed.ok (Instr.li)).ap (pS r.a) |>.ap (reqExt r.ext pXi)).also (zeroF r.b ++ zeroF r.c)
/-- ADDA (R113). -/
def dAdda (r : RawSlot) : Parsed Instr :=
  (Parsed.ok (Instr.adda)).ap (pS r.a) |>.ap (pSS r.b) |>.ap (pSX r.c r.ext)
/-- BFX (R116). -/
def dBfx (r : RawSlot) : Parsed Instr :=
  ((Parsed.ok (Instr.bfx)).ap (pS r.a) |>.ap (pSS r.b) |>.ap (reqExt r.ext pBfx)).also (zeroF r.c)
/-- BFI (R116). -/
def dBfi (r : RawSlot) : Parsed Instr :=
  ((Parsed.ok (Instr.bfi)).ap (pS r.a) |>.ap (pSS r.b) |>.ap (reqExt r.ext pBfi)).also (zeroF r.c)
/-- CMP (R117). -/
def dCmp (cc : ICond) (r : RawSlot) : Parsed Instr :=
  (Parsed.ok (Instr.cmp cc)).ap (pP r.a) |>.ap (pSS r.b) |>.ap (pSX r.c r.ext)
/-- PAND (R118). -/
def dPand (r : RawSlot) : Parsed Instr :=
  ((Parsed.ok (Instr.pand)).ap (pP r.a) |>.ap (pP r.b) |>.ap (pP r.c)).also (noExt r.ext)
/-- POR (R118). -/
def dPor (r : RawSlot) : Parsed Instr :=
  ((Parsed.ok (Instr.por)).ap (pP r.a) |>.ap (pP r.b) |>.ap (pP r.c)).also (noExt r.ext)
/-- PXOR (R118). -/
def dPxor (r : RawSlot) : Parsed Instr :=
  ((Parsed.ok (Instr.pxor)).ap (pP r.a) |>.ap (pP r.b) |>.ap (pP r.c)).also (noExt r.ext)
/-- PNOT (R118). -/
def dPnot (r : RawSlot) : Parsed Instr :=
  ((Parsed.ok (Instr.pnot)).ap (pP r.a) |>.ap (pP r.b)).also (zeroF r.c ++ noExt r.ext)
/-- SFADD (R119). -/
def dSfadd (r : RawSlot) : Parsed Instr :=
  (Parsed.ok (Instr.sfadd)).ap (pS r.a) |>.ap (pSS r.b) |>.ap (pSS r.c) |>.ap (optExt r.ext pXrRnd)
/-- SFMUL (R119). -/
def dSfmul (r : RawSlot) : Parsed Instr :=
  (Parsed.ok (Instr.sfmul)).ap (pS r.a) |>.ap (pSS r.b) |>.ap (pSS r.c) |>.ap (optExt r.ext pXrRnd)
/-- SFFMA (R119). -/
def dSffma (r : RawSlot) : Parsed Instr :=
  (Parsed.ok (Instr.sffma)).ap (pS r.a) |>.ap (pSS r.b) |>.ap (pSS r.c) |>.ap (optExt r.ext pXrRnd)
/-- SFMIN (R119). -/
def dSfmin (r : RawSlot) : Parsed Instr :=
  ((Parsed.ok (Instr.sfmin)).ap (pS r.a) |>.ap (pSS r.b) |>.ap (pSS r.c)).also (noExt r.ext)
/-- SFMAX (R119). -/
def dSfmax (r : RawSlot) : Parsed Instr :=
  ((Parsed.ok (Instr.sfmax)).ap (pS r.a) |>.ap (pSS r.b) |>.ap (pSS r.c)).also (noExt r.ext)
/-- SFCVT (R120). -/
def dSfcvt (r : RawSlot) : Parsed Instr :=
  ((Parsed.ok (Instr.sfcvt)).ap (pS r.a) |>.ap (pSS r.b) |>.ap (reqExt r.ext pXrCvt)).also (zeroF r.c)
/-- SFCMP (R121). -/
def dSfcmp (cc : FCond) (r : RawSlot) : Parsed Instr :=
  ((Parsed.ok (Instr.sfcmp cc)).ap (pP r.a) |>.ap (pSS r.b) |>.ap (pSS r.c)).also (noExt r.ext)
/-- LDS (R122). -/
def dLds (t : LdTy) (r : RawSlot) : Parsed Instr :=
  (Parsed.ok (Instr.lds t)).ap (pS r.a) |>.ap (pSS r.b) |>.ap (pSX r.c r.ext)
/-- STS (R123). -/
def dSts (n : StW) (r : RawSlot) : Parsed Instr :=
  (Parsed.ok (Instr.sts n)).ap (pSS r.a) |>.ap (pSS r.b) |>.ap (pSX r.c r.ext)
/-- STS_N4 (R124). -/
def dStsN4 (r : RawSlot) : Parsed Instr :=
  ((Parsed.ok (Instr.stsN4)).ap (pSS r.a) |>.ap (pSS r.b) |>.ap (reqExt r.ext pXi)).also (zeroF r.c)
/-- BR (R126). -/
def dBr (r : RawSlot) : Parsed Instr :=
  ((Parsed.ok (Instr.br)).ap (pTarget r.a r.ext)).also (zeroF r.b ++ zeroF r.c)
/-- BRC (R126). -/
def dBrc (r : RawSlot) : Parsed Instr :=
  ((Parsed.ok (Instr.brc)).ap (pSS r.a) |>.ap (reqExt r.ext pBr)).also (zeroF r.b ++ zeroF r.c)
/-- CALL (R126). -/
def dCall (r : RawSlot) : Parsed Instr :=
  ((Parsed.ok (Instr.call)).ap (pTarget r.a r.ext)).also (zeroF r.b ++ zeroF r.c)
/-- RET (R126). -/
def dRet (r : RawSlot) : Parsed Instr :=
  ((Parsed.ok (Instr.ret))).also (zeroF r.a ++ zeroF r.b ++ zeroF r.c ++ noExt r.ext)
/-- LOOP (R128). -/
def dLoop (r : RawSlot) : Parsed Instr :=
  ((Parsed.ok (Instr.loop)).ap (pSS r.a) |>.ap (reqExt r.ext pLoopX)).also (zeroF r.b ++ zeroF r.c)
/-- HALT (R130). -/
def dHalt (r : RawSlot) : Parsed Instr :=
  ((Parsed.ok (Instr.halt))).also (zeroF r.a ++ zeroF r.b ++ zeroF r.c ++ noExt r.ext)
/-- WAITA (R131). -/
def dWaita (r : RawSlot) : Parsed Instr :=
  ((Parsed.ok (Instr.waita)).ap (pSS r.a) |>.ap (pSS r.b)).also (zeroF r.c ++ noExt r.ext)
/-- FLAGACQ (R132). -/
def dFlagacq (r : RawSlot) : Parsed Instr :=
  ((Parsed.ok (Instr.flagacq)).ap (pS r.a) |>.ap (pScope r.b)).also (zeroF r.c ++ noExt r.ext)
/-- FLAGREL (R133). -/
def dFlagrel (r : RawSlot) : Parsed Instr :=
  ((Parsed.ok (Instr.flagrel)).ap (pSS r.a) |>.ap (pScope r.b)).also (zeroF r.c ++ noExt r.ext)
/-- FENCE (R134). -/
def dFence (r : RawSlot) : Parsed Instr :=
  ((Parsed.ok (Instr.fence)).ap (pScope r.a)).also (zeroF r.b ++ zeroF r.c ++ noExt r.ext)
/-- MOVS (R135). -/
def dMovs (r : RawSlot) : Parsed Instr :=
  ((Parsed.ok (Instr.movs)).ap (pS r.a) |>.ap (pSpec r.b)).also (zeroF r.c ++ noExt r.ext)
/-- MOVTS (R135). -/
def dMovts (r : RawSlot) : Parsed Instr :=
  ((Parsed.ok (Instr.movts)).ap (pSpec r.a) |>.ap (pSS r.b)).also (zeroF r.c ++ noExt r.ext)
/-- TRAP (R136). -/
def dTrap (r : RawSlot) : Parsed Instr :=
  ((Parsed.ok (Instr.trap)).ap (pLit r.a)).also (zeroF r.b ++ zeroF r.c ++ noExt r.ext)
/-- ERET (R137). -/
def dEret (r : RawSlot) : Parsed Instr :=
  ((Parsed.ok (Instr.eret))).also (zeroF r.a ++ zeroF r.b ++ zeroF r.c ++ noExt r.ext)
/-- TCREATE (R139). -/
def dTcreate (r : RawSlot) : Parsed Instr :=
  ((Parsed.ok (Instr.tcreate)).ap (pSS r.a) |>.ap (pSS r.b) |>.ap (pSS r.c)).also (noExt r.ext)
/-- TKILL (R140). -/
def dTkill (r : RawSlot) : Parsed Instr :=
  ((Parsed.ok (Instr.tkill)).ap (pSS r.a)).also (zeroF r.b ++ zeroF r.c ++ noExt r.ext)
/-- TTCLR (R192). -/
def dTtclr (r : RawSlot) : Parsed Instr :=
  ((Parsed.ok (Instr.ttclr)).ap (pTT r.a)).also (zeroF r.b ++ zeroF r.c ++ noExt r.ext)
/-- TTNODE (R192). -/
def dTtnode (r : RawSlot) : Parsed Instr :=
  ((Parsed.ok (Instr.ttnode)).ap (pTT r.a) |>.ap (pSS r.b) |>.ap (pSS r.c)).also (noExt r.ext)
/-- TTLDP (R193). -/
def dTtldp (r : RawSlot) : Parsed Instr :=
  (Parsed.ok (Instr.ttldp)).ap (pTT r.a) |>.ap (pSS r.b) |>.ap (pSX r.c r.ext)
/-- TTMASK (R194): the second operand selects the form. -/
def dTtmask (r : RawSlot) : Parsed Instr :=
  let imm := r.ext.getD 0
  let lay := bitOf imm 0
  let half := bitOf imm 1
  let m := pM r.b
  let x : Parsed TtMaskX :=
    match m.val with
    | some m => ⟨some (.toMask m half), if lay then [(6, 0)] else []⟩
    | none => (Parsed.ok fun b => TtMaskX.toMem b lay half).ap (pSS r.b)
  ((Parsed.ok (Instr.ttmask)).ap (pTT r.a) |>.ap (pSS r.c) |>.ap x).also (zeroN (fld imm 2 30))
/-- TTPOS (R195). -/
def dTtpos (r : RawSlot) : Parsed Instr :=
  ((Parsed.ok (Instr.ttpos)).ap (pTT r.a) |>.ap (pSS r.b) |>.ap (pSS r.c)).also (noExt r.ext)
/-- TTPATH (R196). -/
def dTtpath (r : RawSlot) : Parsed Instr :=
  ((Parsed.ok (Instr.ttpath)).ap (pTT r.a) |>.ap (pSS r.b) |>.ap (pSS r.c)).also (noExt r.ext)
/-- TTPRUNE (R197). -/
def dTtprune (r : RawSlot) : Parsed Instr :=
  ((Parsed.ok (Instr.ttprune)).ap (pTT r.a) |>.ap (pSS r.b) |>.ap (pSS r.c)).also (noExt r.ext)
/-- TTINFO (R198). -/
def dTtinfo (r : RawSlot) : Parsed Instr :=
  ((Parsed.ok (Instr.ttinfo)).ap (pS r.a) |>.ap (pTT r.b) |>.ap (pSS r.c)).also (noExt r.ext)
/-- VADD (R145). -/
def dVadd (t : ITy) (r : RawSlot) : Parsed Instr :=
  (Parsed.ok (Instr.vadd t)).ap (pV r.a) |>.ap (pVV r.b) |>.ap (pVV r.c) |>.ap (optExt r.ext pIntX)
/-- VSUB (R145). -/
def dVsub (t : ITy) (r : RawSlot) : Parsed Instr :=
  (Parsed.ok (Instr.vsub t)).ap (pV r.a) |>.ap (pVV r.b) |>.ap (pVV r.c) |>.ap (optExt r.ext pIntX)
/-- VMUL (R145). -/
def dVmul (t : ITy) (r : RawSlot) : Parsed Instr :=
  (Parsed.ok (Instr.vmul t)).ap (pV r.a) |>.ap (pVV r.b) |>.ap (pVV r.c) |>.ap (optExt r.ext pIntX)
/-- VMULH (R145). -/
def dVmulh (t : ITy) (r : RawSlot) : Parsed Instr :=
  (Parsed.ok (Instr.vmulh t)).ap (pV r.a) |>.ap (pVV r.b) |>.ap (pVV r.c) |>.ap (optExtD r.ext none pMx)
/-- VMIN (R145). -/
def dVmin (t : ITy) (r : RawSlot) : Parsed Instr :=
  (Parsed.ok (Instr.vmin t)).ap (pV r.a) |>.ap (pVV r.b) |>.ap (pVV r.c) |>.ap (optExtD r.ext none pMx)
/-- VMAX (R145). -/
def dVmax (t : ITy) (r : RawSlot) : Parsed Instr :=
  (Parsed.ok (Instr.vmax t)).ap (pV r.a) |>.ap (pVV r.b) |>.ap (pVV r.c) |>.ap (optExtD r.ext none pMx)
/-- VAND (R145). -/
def dVand (t : ElemW) (r : RawSlot) : Parsed Instr :=
  (Parsed.ok (Instr.vand t)).ap (pV r.a) |>.ap (pVV r.b) |>.ap (pVV r.c) |>.ap (optExtD r.ext none pMx)
/-- VOR (R145). -/
def dVor (t : ElemW) (r : RawSlot) : Parsed Instr :=
  (Parsed.ok (Instr.vor t)).ap (pV r.a) |>.ap (pVV r.b) |>.ap (pVV r.c) |>.ap (optExtD r.ext none pMx)
/-- VXOR (R145). -/
def dVxor (t : ElemW) (r : RawSlot) : Parsed Instr :=
  (Parsed.ok (Instr.vxor t)).ap (pV r.a) |>.ap (pVV r.b) |>.ap (pVV r.c) |>.ap (optExtD r.ext none pMx)
/-- VSHL (R145). -/
def dVshl (t : ElemW) (r : RawSlot) : Parsed Instr :=
  (Parsed.ok (Instr.vshl t)).ap (pV r.a) |>.ap (pVV r.b) |>.ap (pShiftX r.c r.ext)
/-- VSHR (R145). -/
def dVshr (t : ElemW) (r : RawSlot) : Parsed Instr :=
  (Parsed.ok (Instr.vshr t)).ap (pV r.a) |>.ap (pVV r.b) |>.ap (pShiftX r.c r.ext)
/-- VSAR (R145). -/
def dVsar (t : ElemW) (r : RawSlot) : Parsed Instr :=
  (Parsed.ok (Instr.vsar t)).ap (pV r.a) |>.ap (pVV r.b) |>.ap (pShiftX r.c r.ext)
/-- VABS (R145). -/
def dVabs (t : ElemW) (r : RawSlot) : Parsed Instr :=
  ((Parsed.ok (Instr.vabs t)).ap (pV r.a) |>.ap (pVV r.b) |>.ap (optExt r.ext pIntX)).also (zeroF r.c)
/-- VCMP (R146). -/
def dVcmp (t : ElemW) (r : RawSlot) : Parsed Instr :=
  (Parsed.ok (Instr.vcmp t)).ap (pM r.a) |>.ap (pVV r.b) |>.ap (pVV r.c) |>.ap (reqExt r.ext pCmpX)
/-- VSEL (R147). -/
def dVsel (t : ElemW) (r : RawSlot) : Parsed Instr :=
  (Parsed.ok (Instr.vsel t)).ap (pV r.a) |>.ap (pVV r.b) |>.ap (pVV r.c) |>.ap (reqExt r.ext pSelX)
/-- VFADD (R148). -/
def dVfadd (t : FTy) (r : RawSlot) : Parsed Instr :=
  (Parsed.ok (Instr.vfadd t)).ap (pV r.a) |>.ap (pVV r.b) |>.ap (pVV r.c) |>.ap (optExt r.ext pFltX)
/-- VFSUB (R148). -/
def dVfsub (t : FTy) (r : RawSlot) : Parsed Instr :=
  (Parsed.ok (Instr.vfsub t)).ap (pV r.a) |>.ap (pVV r.b) |>.ap (pVV r.c) |>.ap (optExt r.ext pFltX)
/-- VFMUL (R148). -/
def dVfmul (t : FTy) (r : RawSlot) : Parsed Instr :=
  (Parsed.ok (Instr.vfmul t)).ap (pV r.a) |>.ap (pVV r.b) |>.ap (pVV r.c) |>.ap (optExt r.ext pFltX)
/-- VFFMA (R148). -/
def dVffma (t : FTy) (r : RawSlot) : Parsed Instr :=
  (Parsed.ok (Instr.vffma t)).ap (pV r.a) |>.ap (pVV r.b) |>.ap (pVV r.c) |>.ap (optExt r.ext pFltX)
/-- VFMIN (R148). -/
def dVfmin (t : FTy) (r : RawSlot) : Parsed Instr :=
  (Parsed.ok (Instr.vfmin t)).ap (pV r.a) |>.ap (pVV r.b) |>.ap (pVV r.c) |>.ap (optExtD r.ext none pMx)
/-- VFMAX (R148). -/
def dVfmax (t : FTy) (r : RawSlot) : Parsed Instr :=
  (Parsed.ok (Instr.vfmax t)).ap (pV r.a) |>.ap (pVV r.b) |>.ap (pVV r.c) |>.ap (optExtD r.ext none pMx)
/-- VFRCP (R148). -/
def dVfrcp (t : FTy) (r : RawSlot) : Parsed Instr :=
  ((Parsed.ok (Instr.vfrcp t)).ap (pV r.a) |>.ap (pVV r.b) |>.ap (optExt r.ext pFltX)).also (zeroF r.c)
/-- VFRSQ (R148). -/
def dVfrsq (t : FTy) (r : RawSlot) : Parsed Instr :=
  ((Parsed.ok (Instr.vfrsq t)).ap (pV r.a) |>.ap (pVV r.b) |>.ap (optExt r.ext pFltX)).also (zeroF r.c)
/-- VFEXP2 (R148). -/
def dVfexp2 (t : FTy) (r : RawSlot) : Parsed Instr :=
  ((Parsed.ok (Instr.vfexp2 t)).ap (pV r.a) |>.ap (pVV r.b) |>.ap (optExt r.ext pFltX)).also (zeroF r.c)
/-- VFLOG2 (R148). -/
def dVflog2 (t : FTy) (r : RawSlot) : Parsed Instr :=
  ((Parsed.ok (Instr.vflog2 t)).ap (pV r.a) |>.ap (pVV r.b) |>.ap (optExt r.ext pFltX)).also (zeroF r.c)
/-- VFCMP (R149). -/
def dVfcmp (t : FTy) (r : RawSlot) : Parsed Instr :=
  (Parsed.ok (Instr.vfcmp t)).ap (pM r.a) |>.ap (pVV r.b) |>.ap (pVV r.c) |>.ap (reqExt r.ext pFCmpX)
/-- VCVT (R150). -/
def dVcvt (r : RawSlot) : Parsed Instr :=
  ((Parsed.ok (Instr.vcvt)).ap (pV r.a) |>.ap (pVV r.b) |>.ap (reqExt r.ext (fun x => (pVCvtX x).when VCvtX.okB 6 0))).also (zeroF r.c)
/-- VMXEXP (R151). -/
def dVmxexp (r : RawSlot) : Parsed Instr :=
  ((Parsed.ok (Instr.vmxexp)).ap (pVV r.a) |>.ap (reqExt r.ext pMxExpX)).also (zeroF r.b ++ zeroF r.c)
/-- VQUANT (R153). -/
def dVquant (r : RawSlot) : Parsed Instr :=
  ((Parsed.ok (Instr.vquant)).ap (pV r.a) |>.ap (pVV r.b) |>.ap (reqExt r.ext pQuantX)).also (zeroF r.c)
/-- VDEQ (R154). -/
def dVdeq (r : RawSlot) : Parsed Instr :=
  ((Parsed.ok (Instr.vdeq)).ap (pV r.a) |>.ap (pVV r.b) |>.ap (reqExt r.ext pDeqX)).also (zeroF r.c)
/-- VXPAND (R155). -/
def dVxpand (r : RawSlot) : Parsed Instr :=
  ((Parsed.ok (Instr.vxpand)).ap (pV r.a) |>.ap (pVV r.b) |>.ap (reqExt r.ext pXpandX)).also (zeroF r.c)
/-- VPBOOK (R156). -/
def dVpbook (r : RawSlot) : Parsed Instr :=
  ((Parsed.ok (Instr.vpbook)).ap (pVV r.a)).also (zeroF r.b ++ zeroF r.c ++ noExt r.ext)
/-- The mask width of a v-register VLD or VST (R158). -/
def pMaskW (sub : Nat) : Parsed ElemW :=
  (match sub % 4 with
   | 0 => Parsed.ok ElemW.b32
   | 1 => Parsed.ok ElemW.b16
   | 2 => Parsed.ok ElemW.b8
   | _ => Parsed.fail 6 0).also (zeroN (sub / 4))
def ElemW.maskSub : ElemW → Nat
  | .b32 => 0
  | .b16 => 1
  | .b8 => 2
/-- The offset of VLD and VST with the XV checks common to both (R142, R158). -/
def pOffX (f : BitVec 7) (e : Option (BitVec 32)) : Parsed OffX :=
  match e with
  | none => ⟨(pVS f).val.map .reg, (pVS f).bad⟩
  | some x =>
    let v := xvOf x
    (Parsed.ok (OffX.imm (BitVec.ofNat 16 v.imm))).also (zeroF f ++ zeroN v.rnd ++ zeroN v.sat)
def OffX.field : OffX → BitVec 7
  | .reg r => eVS r
  | .imm _ => 0
def OffX.imm16 : OffX → Option Nat
  | .reg _ => none
  | .imm i => some i.toNat
/-- A VLD or VST of an m or w register takes no mask and no width (R158). -/
def XV.plainMw (v : XV) : List (Nat × Nat) := v.noMask ++ (if v.sub = 0 then [] else [(6, 0)])
/-- VLD (R158). -/
def dVld (r : RawSlot) : Parsed Instr :=
  let v := (r.ext.map xvOf).getD XV.zero
  let a : Parsed VldDst :=
    match (pV r.a).val, (pM r.a).val, (pW r.a).val with
    | some d, _, _ => (Parsed.ok (VldDst.v d)).ap v.dmask |>.ap (pMaskW v.sub)
    | _, some k, _ => (Parsed.ok (VldDst.m k)).also v.plainMw
    | _, _, some k => (Parsed.ok (VldDst.w k)).also v.plainMw
    | _, _, _ => (Parsed.fail 3 r.a.toNat).also v.dmask.bad
  (Parsed.ok (Instr.vld)).ap a |>.ap (pVS r.b) |>.ap (pOffX r.c r.ext)
def VldDst.field : VldDst → BitVec 7
  | .v d _ _ => eV d
  | .m k => eM k
  | .w k => eW k
def VldDst.xv : VldDst → XV
  | .v _ k t => ({ XV.zero with sub := t.maskSub } : XV).withD k
  | _ => XV.zero
/-- VST (R158). -/
def dVst (r : RawSlot) : Parsed Instr :=
  let v := (r.ext.map xvOf).getD XV.zero
  let a : Parsed VstSrc :=
    match (pVV r.a).val, (pM r.a).val, (pW r.a).val with
    | some d, _, _ => (Parsed.ok (VstSrc.v d)).ap v.smask |>.ap (pMaskW v.sub)
    | _, some k, _ => (Parsed.ok (VstSrc.m k)).also v.plainMw
    | _, _, some k => (Parsed.ok (VstSrc.w k)).also v.plainMw
    | _, _, _ => (Parsed.fail 3 r.a.toNat).also v.smask.bad
  (Parsed.ok (Instr.vst)).ap a |>.ap (pVS r.b) |>.ap (pOffX r.c r.ext)
def VstSrc.field : VstSrc → BitVec 7
  | .v d _ _ => eVV d
  | .m k => eM k
  | .w k => eW k
def VstSrc.xv : VstSrc → XV
  | .v _ k t => ({ XV.zero with sub := t.maskSub } : XV).withS k
  | _ => XV.zero
/-- VLDX (R159). -/
def dVldx (t : ElemW) (r : RawSlot) : Parsed Instr :=
  (Parsed.ok (Instr.vldx t)).ap (pV r.a) |>.ap (pVS r.b) |>.ap (pVV r.c) |>.ap (optExtD r.ext none pMx)
/-- VSTX (R159). -/
def dVstx (t : ElemW) (r : RawSlot) : Parsed Instr :=
  (Parsed.ok (Instr.vstx t)).ap (pVV r.a) |>.ap (pVS r.b) |>.ap (pVV r.c) |>.ap (optExtD r.ext none pSmx)
/-- VSTX_N4 (R160). -/
def dVstxN4 (r : RawSlot) : Parsed Instr :=
  (Parsed.ok (Instr.vstxN4)).ap (pVV r.a) |>.ap (pVS r.b) |>.ap (pVV r.c) |>.ap (optExtD r.ext none pSmx)
/-- VBCAST (R161). -/
def dVbcast (t : ElemW) (r : RawSlot) : Parsed Instr :=
  ((Parsed.ok (Instr.vbcast t)).ap (pV r.a) |>.ap (pVS r.b) |>.ap (optExtD r.ext none pMx)).also (zeroF r.c)
/-- VEXT (R161). -/
def dVext (t : ElemW) (r : RawSlot) : Parsed Instr :=
  (Parsed.ok (Instr.vext t)).ap (pS r.a) |>.ap (pVV r.b) |>.ap (pIdxX r.c r.ext)
/-- VINS (R161). -/
def dVins (t : ElemW) (r : RawSlot) : Parsed Instr :=
  (Parsed.ok (Instr.vins t)).ap (pV r.a) |>.ap (pVS r.b) |>.ap (pIdxX r.c r.ext)
/-- VPERM (R162). -/
def dVperm (t : ElemW) (r : RawSlot) : Parsed Instr :=
  (Parsed.ok (Instr.vperm t)).ap (pV r.a) |>.ap (pVV r.b) |>.ap (pVV r.c) |>.ap (optExtD r.ext none pMx)
/-- VSHUF (R162). -/
def dVshuf (t : ElemW) (r : RawSlot) : Parsed Instr :=
  (Parsed.ok (Instr.vshuf t)).ap (pV r.a) |>.ap (pVV r.b) |>.ap (pVV r.c) |>.ap (optExt r.ext pShufX)
/-- VSLIDE (R162). -/
def dVslide (t : ElemW) (r : RawSlot) : Parsed Instr :=
  (Parsed.ok (Instr.vslide t)).ap (pV r.a) |>.ap (pVV r.b) |>.ap (pSlideX r.c r.ext)
/-- VPOPM (R168). -/
def dVpopm (r : RawSlot) : Parsed Instr :=
  ((Parsed.ok (Instr.vpopm)).ap (pS r.a) |>.ap (pM r.b)).also (zeroF r.c ++ noExt r.ext)
/-- VBTEST (R168). -/
def dVbtest (r : RawSlot) : Parsed Instr :=
  (Parsed.ok (Instr.vbtest)).ap (pM r.a) |>.ap (pVV r.b) |>.ap (pVV r.c) |>.ap (optExt r.ext pBitX)
/-- VBSET (R168). -/
def dVbset (r : RawSlot) : Parsed Instr :=
  (Parsed.ok (Instr.vbset)).ap (pV r.a) |>.ap (pVV r.b) |>.ap (pVV r.c) |>.ap (optExt r.ext pBitX)
/-- VCMPX (R164). -/
def dVcmpx (t : ATy) (r : RawSlot) : Parsed Instr :=
  ((Parsed.ok (Instr.vcmpx t)).ap (pV r.a) |>.ap (pVV r.b) |>.ap (reqExt r.ext (fun x => (pCmpxX x).when (cmpxOk t) 6 0))).also (zeroF r.c)
/-- VTOPK (R165). -/
def dVtopk (t : ATy) (r : RawSlot) : Parsed Instr :=
  ((Parsed.ok (Instr.vtopk t)).ap (pV r.a) |>.ap (pVV r.b) |>.ap (reqExt r.ext (fun x => (pTopkX x).when (topkOk t) 6 0))).also (zeroF r.c)
/-- VRED (R166). -/
def dVred (t : ATy) (r : RawSlot) : Parsed Instr :=
  ((Parsed.ok (Instr.vred t)).ap (pS r.a) |>.ap (pVV r.b) |>.ap (reqExt r.ext (fun x => (pRedX x).when (fun y => redOk t y.op) 6 0))).also (zeroF r.c)
/-- VSCAN (R167). -/
def dVscan (t : ATy) (r : RawSlot) : Parsed Instr :=
  ((Parsed.ok (Instr.vscan t)).ap (pV r.a) |>.ap (pVV r.b) |>.ap (reqExt r.ext (fun x => (pScanX x).when (fun y => redOk t y.op) 6 0))).also (zeroF r.c)
/-- VMOVA, the read form (R169). -/
def dVmovaGet (r : RawSlot) (x : BitVec 32) : Parsed Instr :=
  let v := xvOf x
  ((Parsed.ok (Instr.vmovaGet)).ap (pV r.a) |>.ap (pVS r.b) |>.ap v.dmask).also (zeroF r.c ++ zeroN v.rnd ++ zeroN v.sat ++ zeroN v.imm)
/-- VMOVA, the write form (R169). -/
def dVmovaPut (r : RawSlot) (x : BitVec 32) : Parsed Instr :=
  let v := xvOf x
  ((Parsed.ok (Instr.vmovaPut)).ap (pVV r.a) |>.ap (pVS r.b) |>.ap v.smask).also (zeroF r.c ++ zeroN v.rnd ++ zeroN v.sat ++ zeroN v.imm)
/-- VMOVA: SUB selects the direction (R169). A word that names none, with no extension word or SUB above 1, has its operands checked as the put form's, so
that a latch as its A is no fault beside it (DESIGN CHOICE, log 43). -/
def dVmova (r : RawSlot) : Parsed Instr :=
  match r.ext with
  | none => ((Parsed.ok (Instr.vmovaPut)).ap (pVV r.a) |>.ap (pVS r.b) |>.ap (.fail 4 0)).also (zeroF r.c)
  | some x =>
    if (xvOf x).sub = 0 then dVmovaGet r x else if (xvOf x).sub = 1 then dVmovaPut r x
    else (dVmovaPut r (x &&& 0xFFFFFF7F)).also ((6, 0) :: (xvOf x).dmask.bad)
/-- VSBIND (R170). -/
def dVsbind (r : RawSlot) : Parsed Instr :=
  ((Parsed.ok (Instr.vsbind)).ap (pPort r.a) |>.ap (pW r.b) |>.ap (reqExt r.ext pSbindX)).also (zeroF r.c)
/-- VSUNBIND (R173). -/
def dVsunbind (r : RawSlot) : Parsed Instr :=
  ((Parsed.ok (Instr.vsunbind)).ap (pV r.a)).also (zeroF r.b ++ zeroF r.c ++ noExt r.ext)
/-- DFROM (R181). -/
def dDfrom (r : RawSlot) : Parsed Instr :=
  ((Parsed.ok (Instr.dfrom)).ap (pD r.a) |>.ap (pVV r.b) |>.ap (optExtD r.ext .dflt pDfromX)).also (zeroF r.c)
/-- DTO (R182). -/
def dDto (r : RawSlot) : Parsed Instr :=
  ((Parsed.ok (Instr.dto)).ap (pV r.a) |>.ap (pD r.b) |>.ap (reqExt r.ext pDtoX)).also (zeroF r.c)
/-- DLD (R185). -/
def dDld (r : RawSlot) : Parsed Instr :=
  ((Parsed.ok (Instr.dld)).ap (pD r.a) |>.ap (pVS r.b) |>.ap (pVS r.c)).also (noExt r.ext)
/-- DST (R185). -/
def dDst (r : RawSlot) : Parsed Instr :=
  ((Parsed.ok (Instr.dst)).ap (pD r.a) |>.ap (pVS r.b) |>.ap (pVS r.c)).also (noExt r.ext)
/-- DADD (R183). -/
def dDadd (r : RawSlot) : Parsed Instr :=
  (Parsed.ok (Instr.dadd)).ap (pD r.a) |>.ap (pD r.b) |>.ap (pD r.c) |>.ap (optExt r.ext pImm16X)
/-- DSUB (R183). -/
def dDsub (r : RawSlot) : Parsed Instr :=
  (Parsed.ok (Instr.dsub)).ap (pD r.a) |>.ap (pD r.b) |>.ap (pD r.c) |>.ap (optExt r.ext pImm16X)
/-- DSCALE (R184). -/
def dDscale (r : RawSlot) : Parsed Instr :=
  (Parsed.ok (Instr.dscale)).ap (pD r.a) |>.ap (pD r.b) |>.ap (pDScaleX r.c r.ext)
/-- DNEG (R184). -/
def dDneg (r : RawSlot) : Parsed Instr :=
  ((Parsed.ok (Instr.dneg)).ap (pD r.a) |>.ap (pD r.b)).also (zeroF r.c ++ noExt r.ext)
/-- DDOT (R186). -/
def dDdot (r : RawSlot) : Parsed Instr :=
  ((Parsed.ok (Instr.ddot)).ap (pS r.a) |>.ap (pD r.b) |>.ap (pD r.c)).also (noExt r.ext)
/-- DDOTV (R187). -/
def dDdotv (r : RawSlot) : Parsed Instr :=
  ((Parsed.ok (Instr.ddotv)).ap (pV r.a) |>.ap (pD r.b) |>.ap (pVS r.c)).also (noExt r.ext)
/-- DNORM (R188). -/
def dDnorm (r : RawSlot) : Parsed Instr :=
  ((Parsed.ok (Instr.dnorm)).ap (pS r.a) |>.ap (pD r.b)).also (zeroF r.c ++ noExt r.ext)
/-- DSETN (R188). -/
def dDsetn (r : RawSlot) : Parsed Instr :=
  ((Parsed.ok (Instr.dsetn)).ap (pD r.a) |>.ap (pVS r.b)).also (zeroF r.c ++ noExt r.ext)
/-- DLERP (R183). -/
def dDlerp (r : RawSlot) : Parsed Instr :=
  (Parsed.ok (Instr.dlerp)).ap (pD r.a) |>.ap (pD r.b) |>.ap (pD r.c) |>.ap (reqExt r.ext pDlerpX)
/-- DCMPZ (R188). -/
def dDcmpz (r : RawSlot) : Parsed Instr :=
  ((Parsed.ok (Instr.dcmpz)).ap (pS r.a) |>.ap (pD r.b)).also (zeroF r.c ++ noExt r.ext)
/-- MMA (R205). -/
def dMma (r : RawSlot) : Parsed Instr :=
  ((Parsed.ok (Instr.mma)).ap (pS r.a) |>.ap (reqExt r.ext pXm)).also (zeroF r.b ++ zeroF r.c)
/-- MMAS (R210). -/
def dMmas (r : RawSlot) : Parsed Instr :=
  ((Parsed.ok (Instr.mmas)).ap (pS r.a) |>.ap (reqExt r.ext pXms)).also (zeroF r.b ++ zeroF r.c)
/-- MCLR (R211). -/
def dMclr (r : RawSlot) : Parsed Instr :=
  ((Parsed.ok (Instr.mclr)).ap (pS r.a) |>.ap (pSX r.b r.ext)).also (zeroF r.c ++ (if r.ext.isSome then [] else (pS r.b).bad))
/-- MDRAIN (R212). -/
def dMdrain (r : RawSlot) : Parsed Instr :=
  ((Parsed.ok (Instr.mdrain)).ap (pS r.a) |>.ap (pS r.b) |>.ap (reqExt r.ext pXd)).also (zeroF r.c)
/-- MPOP (R213). -/
def dMpop (r : RawSlot) : Parsed Instr :=
  ((Parsed.ok (Instr.mpop)).ap (pH r.a) |>.ap (pCnt r.b)).also (zeroF r.c ++ noExt r.ext)
/-- MTRANS (R214). -/
def dMtrans (r : RawSlot) : Parsed Instr :=
  ((Parsed.ok (Instr.mtrans)).ap (pH r.a) |>.ap (pH r.b) |>.ap (reqExt r.ext pXt)).also (zeroF r.c)
/-- CPY (R217). -/
def dCpy (r : RawSlot) : Parsed Instr :=
  (Parsed.ok (Instr.cpy)).ap (pW r.a) |>.ap (pW r.b) |>.ap (pSX r.c r.ext)
/-- CGATH (R217). -/
def dCgath (r : RawSlot) : Parsed Instr :=
  (Parsed.ok (Instr.cgath)).ap (pW r.a) |>.ap (pW r.b) |>.ap (pSX r.c r.ext)
/-- CSCAT (R217). -/
def dCscat (r : RawSlot) : Parsed Instr :=
  (Parsed.ok (Instr.cscat)).ap (pW r.a) |>.ap (pW r.b) |>.ap (pSX r.c r.ext)
/-- CFILL (R217). -/
def dCfill (r : RawSlot) : Parsed Instr :=
  (Parsed.ok (Instr.cfill)).ap (pW r.a) |>.ap (pSS r.b) |>.ap (pSX r.c r.ext)
/-- CPROM (R225). -/
def dCprom (r : RawSlot) : Parsed Instr :=
  ((Parsed.ok (Instr.cprom)).ap (pSS r.a) |>.ap (pSS r.b) |>.ap (optExt r.ext pUrg)).also (zeroF r.c)
/-- CDEMO (R225). -/
def dCdemo (r : RawSlot) : Parsed Instr :=
  ((Parsed.ok (Instr.cdemo)).ap (pSS r.a) |>.ap (pSS r.b) |>.ap (optExt r.ext pDemo)).also (zeroF r.c)
/-- CHOOP (R221). -/
def dChoop (r : RawSlot) : Parsed Instr :=
  ((Parsed.ok (Instr.choop)).ap (pH r.a) |>.ap (pSS r.b)).also (zeroF r.c ++ noExt r.ext)
/-- CDEAL (R324). -/
def dCdeal (r : RawSlot) : Parsed Instr :=
  ((Parsed.ok (Instr.cdeal)).ap (pW r.a) |>.ap (pSS r.b)).also (zeroF r.c ++ noExt r.ext)
/-- CARM (R221). -/
def dCarm (r : RawSlot) : Parsed Instr :=
  (Parsed.ok (Instr.carm)).ap (pSS r.a) |>.ap (pSS r.b) |>.ap (pSX r.c r.ext)
/-- CSTAT (R221). -/
def dCstat (r : RawSlot) : Parsed Instr :=
  ((Parsed.ok (Instr.cstat)).ap (pS r.a) |>.ap (pSS r.b)).also (zeroF r.c ++ noExt r.ext)
/-- CCANCEL (R221). -/
def dCcancel (r : RawSlot) : Parsed Instr :=
  ((Parsed.ok (Instr.ccancel)).ap (pSS r.a)).also (zeroF r.b ++ zeroF r.c ++ noExt r.ext)
/-- CFENCE (R221). -/
def dCfence (r : RawSlot) : Parsed Instr :=
  ((Parsed.ok (Instr.cfence)).ap (pScope r.a)).also (zeroF r.b ++ zeroF r.c ++ noExt r.ext)
/-- CATOM (R224). -/
def dCatom (r : RawSlot) : Parsed Instr :=
  (Parsed.ok (Instr.catom)).ap (pSS r.a) |>.ap (pSS r.b) |>.ap (pSS r.c) |>.ap (reqExt r.ext pXac)
/-- What SAT's A operand must be: an s register where RET makes it a destination, s0 where nothing uses it (R222). -/
def satA (a : BitVec 7) (ret cas : Bool) : List (Nat × Nat) :=
  if ret then (pS a).bad else if cas then [] else zeroF a
/-- SAT (R222). -/
def dSat (r : RawSlot) : Parsed Instr :=
  ((Parsed.ok (Instr.sat)).ap (pSS r.a) |>.ap (pSS r.b) |>.ap (pSS r.c) |>.ap (reqExt r.ext pXas)).also
    (match r.ext with
     | some x => satA r.a (bitOf x 6) (fld x 0 4 == 11)
     | none => [])
/-- KVAPP (R343). -/
def dKvapp (r : RawSlot) : Parsed Instr :=
  (Parsed.ok (Instr.kvapp)).ap (pSS r.a) |>.ap (pSS r.b) |>.ap (pSX r.c r.ext)
/-- KVREL (R226). -/
def dKvrel (r : RawSlot) : Parsed Instr :=
  ((Parsed.ok (Instr.kvrel)).ap (pSS r.a) |>.ap (pSS r.b)).also (zeroF r.c ++ noExt r.ext)
/-- KVPIN (R226). -/
def dKvpin (r : RawSlot) : Parsed Instr :=
  ((Parsed.ok (Instr.kvpin)).ap (pSS r.a) |>.ap (pSS r.b)).also (zeroF r.c ++ noExt r.ext)
/-- KVUNPIN (R226). -/
def dKvunpin (r : RawSlot) : Parsed Instr :=
  ((Parsed.ok (Instr.kvunpin)).ap (pSS r.a) |>.ap (pSS r.b)).also (zeroF r.c ++ noExt r.ext)
/-- GBAR (R286). -/
def dGbar (r : RawSlot) : Parsed Instr :=
  ((Parsed.ok (Instr.gbar)).ap (pGrp r.a)).also (zeroF r.b ++ zeroF r.c ++ noExt r.ext)
/-- XCHG (R287). -/
def dXchg (r : RawSlot) : Parsed Instr :=
  ((Parsed.ok (Instr.xchg)).ap (pV r.a) |>.ap (pVV r.b)).also (zeroF r.c ++ noExt r.ext)
/-- XMAX (R288). -/
def dXmax (r : RawSlot) : Parsed Instr :=
  ((Parsed.ok (Instr.xmax)).ap (pV r.a)).also (zeroF r.b ++ zeroF r.c ++ noExt r.ext)
/-- CHSEND (R294). -/
def dChsend (r : RawSlot) : Parsed Instr :=
  ((Parsed.ok (Instr.chsend)).ap (pVV r.a) |>.ap (pCh r.b)).also (zeroF r.c ++ noExt r.ext)
/-- CHSEND_TRY (R294). -/
def dChsendTry (r : RawSlot) : Parsed Instr :=
  ((Parsed.ok (Instr.chsendTry)).ap (pP r.a) |>.ap (pVV r.b) |>.ap (pCh r.c)).also (noExt r.ext)
/-- CHRECV (R294). -/
def dChrecv (r : RawSlot) : Parsed Instr :=
  ((Parsed.ok (Instr.chrecv)).ap (pV r.a) |>.ap (pCh r.b)).also (zeroF r.c ++ noExt r.ext)
/-- CHRECV_TRY (R294). -/
def dChrecvTry (r : RawSlot) : Parsed Instr :=
  ((Parsed.ok (Instr.chrecvTry)).ap (pP r.a) |>.ap (pV r.b) |>.ap (pCh r.c)).also (noExt r.ext)
/-- CHALT (R299). -/
def dChalt (r : RawSlot) : Parsed Instr :=
  ((Parsed.ok (Instr.chalt)).ap (pS r.a) |>.ap (pSS r.b)).also (zeroF r.c ++ noExt r.ext)
/-- CHALT_TRY (R299). -/
def dChaltTry (r : RawSlot) : Parsed Instr :=
  ((Parsed.ok (Instr.chaltTry)).ap (pS r.a) |>.ap (pSS r.b)).also (zeroF r.c ++ noExt r.ext)
/-- CHGRANT (R296). -/
def dChgrant (r : RawSlot) : Parsed Instr :=
  ((Parsed.ok (Instr.chgrant)).ap (pCh r.a) |>.ap (pSX r.b r.ext)).also (zeroF r.c)
/-- CHBIND (R300). -/
def dChbind (r : RawSlot) : Parsed Instr :=
  ((Parsed.ok (Instr.chbind)).ap (pPort r.a) |>.ap (pCh r.b)).also (zeroF r.c ++ noExt r.ext)
/-- CHSEAL (R297). -/
def dChseal (r : RawSlot) : Parsed Instr :=
  ((Parsed.ok (Instr.chseal)).ap (pCh r.a)).also (zeroF r.b ++ zeroF r.c ++ noExt r.ext)
/-- CHACK (R298). -/
def dChack (r : RawSlot) : Parsed Instr :=
  ((Parsed.ok (Instr.chack)).ap (pCh r.a) |>.ap (pSS r.b)).also (zeroF r.c ++ noExt r.ext)

/-- The S-slot map (R95, Table 3.7). Every point not listed is unassigned, ILLOP reason 1. -/
def mapS (r : RawSlot) : Parsed Instr :=
  match r.op.toNat with
  | 0x00 => dNop r
  | 0x01 => dAdd r
  | 0x02 => dSub r
  | 0x03 => dAddi r
  | 0x04 => dMul r
  | 0x05 => dMulh r
  | 0x06 => dMulhW r
  | 0x07 => dDiv r
  | 0x08 => dDivW r
  | 0x09 => dRem r
  | 0x0A => dRemW r
  | 0x0B => dAnd r
  | 0x0C => dOr r
  | 0x0D => dXor r
  | 0x0E => dAndn r
  | 0x0F => dShl r
  | 0x10 => dShr r
  | 0x11 => dSar r
  | 0x12 => dRot r
  | 0x13 => dClz r
  | 0x14 => dPopc r
  | 0x15 => dMin r
  | 0x16 => dMinW r
  | 0x17 => dMax r
  | 0x18 => dMaxW r
  | 0x19 => dSel r
  | 0x1A => dLi r
  | 0x1B => dAdda r
  | 0x1C => dBfx r
  | 0x1D => dBfi r
  | 0x20 => dCmp .eq r
  | 0x21 => dCmp .ne r
  | 0x22 => dCmp .lt r
  | 0x23 => dCmp .le r
  | 0x24 => dCmp .gt r
  | 0x25 => dCmp .ge r
  | 0x26 => dCmp .ltw r
  | 0x27 => dCmp .lew r
  | 0x28 => dCmp .gtw r
  | 0x29 => dCmp .gew r
  | 0x30 => dPand r
  | 0x31 => dPor r
  | 0x32 => dPxor r
  | 0x33 => dPnot r
  | 0x40 => dSfadd r
  | 0x41 => dSfmul r
  | 0x42 => dSffma r
  | 0x43 => dSfmin r
  | 0x44 => dSfmax r
  | 0x45 => dSfcvt r
  | 0x48 => dSfcmp .eq r
  | 0x49 => dSfcmp .ne r
  | 0x4A => dSfcmp .lt r
  | 0x4B => dSfcmp .le r
  | 0x4C => dSfcmp .gt r
  | 0x4D => dSfcmp .ge r
  | 0x4E => dSfcmp .un r
  | 0x4F => dSfcmp .or r
  | 0x50 => dLds .i8 r
  | 0x51 => dLds .i16 r
  | 0x52 => dLds .i32 r
  | 0x53 => dLds .i64 r
  | 0x54 => dLds .w8 r
  | 0x55 => dLds .w16 r
  | 0x56 => dLds .w32 r
  | 0x58 => dSts .b8 r
  | 0x59 => dSts .b16 r
  | 0x5A => dSts .b32 r
  | 0x5B => dSts .b64 r
  | 0x5C => dStsN4 r
  | 0x60 => dBr r
  | 0x61 => dBrc r
  | 0x62 => dCall r
  | 0x63 => dRet r
  | 0x64 => dLoop r
  | 0x65 => dHalt r
  | 0x70 => dWaita r
  | 0x71 => dFlagacq r
  | 0x72 => dFlagrel r
  | 0x73 => dFence r
  | 0x80 => dMovs r
  | 0x81 => dMovts r
  | 0x82 => dTrap r
  | 0x83 => dEret r
  | 0x84 => dTcreate r
  | 0x85 => dTkill r
  | 0x90 => dTtclr r
  | 0x91 => dTtnode r
  | 0x92 => dTtldp r
  | 0x93 => dTtmask r
  | 0x94 => dTtpos r
  | 0x95 => dTtpath r
  | 0x96 => dTtprune r
  | 0x97 => dTtinfo r
  | _ => .fail 1 0

/-- The V-slot map (R96, Table 3.8). Every point not listed is unassigned, ILLOP reason 1. -/
def mapV (r : RawSlot) : Parsed Instr :=
  match r.op.toNat with
  | 0x00 => dVadd .i8 r
  | 0x01 => dVadd .i16 r
  | 0x02 => dVadd .i32 r
  | 0x04 => dVadd .w8 r
  | 0x05 => dVadd .w16 r
  | 0x06 => dVadd .w32 r
  | 0x08 => dVsub .i8 r
  | 0x09 => dVsub .i16 r
  | 0x0A => dVsub .i32 r
  | 0x0C => dVsub .w8 r
  | 0x0D => dVsub .w16 r
  | 0x0E => dVsub .w32 r
  | 0x10 => dVmul .i8 r
  | 0x11 => dVmul .i16 r
  | 0x12 => dVmul .i32 r
  | 0x14 => dVmul .w8 r
  | 0x15 => dVmul .w16 r
  | 0x16 => dVmul .w32 r
  | 0x18 => dVmulh .i8 r
  | 0x19 => dVmulh .i16 r
  | 0x1A => dVmulh .i32 r
  | 0x1C => dVmulh .w8 r
  | 0x1D => dVmulh .w16 r
  | 0x1E => dVmulh .w32 r
  | 0x20 => dVmin .i8 r
  | 0x21 => dVmin .i16 r
  | 0x22 => dVmin .i32 r
  | 0x24 => dVmin .w8 r
  | 0x25 => dVmin .w16 r
  | 0x26 => dVmin .w32 r
  | 0x28 => dVmax .i8 r
  | 0x29 => dVmax .i16 r
  | 0x2A => dVmax .i32 r
  | 0x2C => dVmax .w8 r
  | 0x2D => dVmax .w16 r
  | 0x2E => dVmax .w32 r
  | 0x30 => dVand .b8 r
  | 0x31 => dVand .b16 r
  | 0x32 => dVand .b32 r
  | 0x34 => dVor .b8 r
  | 0x35 => dVor .b16 r
  | 0x36 => dVor .b32 r
  | 0x38 => dVxor .b8 r
  | 0x39 => dVxor .b16 r
  | 0x3A => dVxor .b32 r
  | 0x3C => dVshl .b8 r
  | 0x3D => dVshl .b16 r
  | 0x3E => dVshl .b32 r
  | 0x40 => dVshr .b8 r
  | 0x41 => dVshr .b16 r
  | 0x42 => dVshr .b32 r
  | 0x44 => dVsar .b8 r
  | 0x45 => dVsar .b16 r
  | 0x46 => dVsar .b32 r
  | 0x48 => dVabs .b8 r
  | 0x49 => dVabs .b16 r
  | 0x4A => dVabs .b32 r
  | 0x4C => dVcmp .b8 r
  | 0x4D => dVcmp .b16 r
  | 0x4E => dVcmp .b32 r
  | 0x50 => dVsel .b8 r
  | 0x51 => dVsel .b16 r
  | 0x52 => dVsel .b32 r
  | 0x60 => dVfadd .f32 r
  | 0x61 => dVfadd .bf16 r
  | 0x62 => dVfadd .f16 r
  | 0x64 => dVfsub .f32 r
  | 0x65 => dVfsub .bf16 r
  | 0x66 => dVfsub .f16 r
  | 0x68 => dVfmul .f32 r
  | 0x69 => dVfmul .bf16 r
  | 0x6A => dVfmul .f16 r
  | 0x6C => dVffma .f32 r
  | 0x6D => dVffma .bf16 r
  | 0x6E => dVffma .f16 r
  | 0x70 => dVfmin .f32 r
  | 0x71 => dVfmin .bf16 r
  | 0x72 => dVfmin .f16 r
  | 0x74 => dVfmax .f32 r
  | 0x75 => dVfmax .bf16 r
  | 0x76 => dVfmax .f16 r
  | 0x78 => dVfrcp .f32 r
  | 0x79 => dVfrcp .bf16 r
  | 0x7A => dVfrcp .f16 r
  | 0x7C => dVfrsq .f32 r
  | 0x7D => dVfrsq .bf16 r
  | 0x7E => dVfrsq .f16 r
  | 0x80 => dVfexp2 .f32 r
  | 0x81 => dVfexp2 .bf16 r
  | 0x82 => dVfexp2 .f16 r
  | 0x84 => dVflog2 .f32 r
  | 0x85 => dVflog2 .bf16 r
  | 0x86 => dVflog2 .f16 r
  | 0x88 => dVfcmp .f32 r
  | 0x89 => dVfcmp .bf16 r
  | 0x8A => dVfcmp .f16 r
  | 0x90 => dVcvt r
  | 0x91 => dVmxexp r
  | 0x92 => dVquant r
  | 0x93 => dVdeq r
  | 0x94 => dVxpand r
  | 0x95 => dVpbook r
  | 0x98 => dVld r
  | 0x99 => dVst r
  | 0x9A => dVstxN4 r
  | 0x9C => dVldx .b8 r
  | 0x9D => dVldx .b16 r
  | 0x9E => dVldx .b32 r
  | 0xA0 => dVstx .b8 r
  | 0xA1 => dVstx .b16 r
  | 0xA2 => dVstx .b32 r
  | 0xA4 => dVbcast .b8 r
  | 0xA5 => dVbcast .b16 r
  | 0xA6 => dVbcast .b32 r
  | 0xA8 => dVext .b8 r
  | 0xA9 => dVext .b16 r
  | 0xAA => dVext .b32 r
  | 0xAC => dVins .b8 r
  | 0xAD => dVins .b16 r
  | 0xAE => dVins .b32 r
  | 0xB0 => dVperm .b8 r
  | 0xB1 => dVperm .b16 r
  | 0xB2 => dVperm .b32 r
  | 0xB4 => dVshuf .b8 r
  | 0xB5 => dVshuf .b16 r
  | 0xB6 => dVshuf .b32 r
  | 0xB8 => dVslide .b8 r
  | 0xB9 => dVslide .b16 r
  | 0xBA => dVslide .b32 r
  | 0xBC => dVpopm r
  | 0xBD => dVbtest r
  | 0xBE => dVbset r
  | 0xC0 => dVcmpx .i8 r
  | 0xC1 => dVcmpx .i16 r
  | 0xC2 => dVcmpx .i32 r
  | 0xC3 => dVcmpx .f32 r
  | 0xC4 => dVcmpx .w8 r
  | 0xC5 => dVcmpx .w16 r
  | 0xC6 => dVcmpx .w32 r
  | 0xC7 => dVcmpx .bf16 r
  | 0xC8 => dVtopk .i8 r
  | 0xC9 => dVtopk .i16 r
  | 0xCA => dVtopk .i32 r
  | 0xCB => dVtopk .f32 r
  | 0xCC => dVtopk .w8 r
  | 0xCD => dVtopk .w16 r
  | 0xCE => dVtopk .w32 r
  | 0xCF => dVtopk .bf16 r
  | 0xD0 => dVred .i8 r
  | 0xD1 => dVred .i16 r
  | 0xD2 => dVred .i32 r
  | 0xD3 => dVred .f32 r
  | 0xD4 => dVred .w8 r
  | 0xD5 => dVred .w16 r
  | 0xD6 => dVred .w32 r
  | 0xD7 => dVred .bf16 r
  | 0xD8 => dVscan .i8 r
  | 0xD9 => dVscan .i16 r
  | 0xDA => dVscan .i32 r
  | 0xDB => dVscan .f32 r
  | 0xDC => dVscan .w8 r
  | 0xDD => dVscan .w16 r
  | 0xDE => dVscan .w32 r
  | 0xDF => dVscan .bf16 r
  | 0xE0 => dVmova r
  | 0xE1 => dVsbind r
  | 0xE2 => dVsunbind r
  | 0xE4 => dDfrom r
  | 0xE5 => dDto r
  | 0xE6 => dDld r
  | 0xE7 => dDst r
  | 0xE8 => dDadd r
  | 0xE9 => dDsub r
  | 0xEA => dDscale r
  | 0xEB => dDneg r
  | 0xEC => dDdot r
  | 0xED => dDdotv r
  | 0xEE => dDnorm r
  | 0xEF => dDsetn r
  | 0xF0 => dDlerp r
  | 0xF1 => dDcmpz r
  | _ => .fail 1 0

/-- The M-slot map (R97, Table 3.9). Every point not listed is unassigned, ILLOP reason 1. -/
def mapM (r : RawSlot) : Parsed Instr :=
  match r.op.toNat with
  | 0x01 => dMma r
  | 0x02 => dMmas r
  | 0x03 => dMclr r
  | 0x04 => dMdrain r
  | 0x05 => dMpop r
  | 0x06 => dMtrans r
  | _ => .fail 1 0

/-- The C-slot map (R98, Table 3.10). Every point not listed is unassigned, ILLOP reason 1. -/
def mapC (r : RawSlot) : Parsed Instr :=
  match r.op.toNat with
  | 0x01 => dCpy r
  | 0x02 => dCgath r
  | 0x03 => dCscat r
  | 0x04 => dCfill r
  | 0x05 => dCprom r
  | 0x06 => dCdemo r
  | 0x07 => dChoop r
  | 0x08 => dCdeal r
  | 0x09 => dCarm r
  | 0x0A => dCstat r
  | 0x0B => dCcancel r
  | 0x0C => dCfence r
  | 0x10 => dCatom r
  | 0x11 => dSat r
  | 0x18 => dKvapp r
  | 0x19 => dKvrel r
  | 0x1A => dKvpin r
  | 0x1B => dKvunpin r
  | 0x20 => dGbar r
  | 0x21 => dXchg r
  | 0x22 => dXmax r
  | 0x24 => dChsend r
  | 0x25 => dChsendTry r
  | 0x26 => dChrecv r
  | 0x27 => dChrecvTry r
  | 0x28 => dChalt r
  | 0x29 => dChaltTry r
  | 0x2A => dChgrant r
  | 0x2B => dChbind r
  | 0x2C => dChseal r
  | 0x2D => dChack r
  | _ => .fail 1 0

/-! ### The tinker map (R99, R100, Table 3.12) -/

/-- LA of an operation not marked L, X bit apart: LA[3:1] must be 0 (R99). -/
def laZero (r : RawT) : List (Nat × Nat) := zeroN (r.la.toNat / 2)
/-- LA of an operation not marked L whose point is req or none: LA must be 0 (R99). -/
def laNone (r : RawT) : List (Nat × Nat) := zeroN r.la.toNat
/-- The X bit (R99). -/
def RawT.x (r : RawT) : Bool := r.la.toNat % 2 == 1
/-- SEL's XI word names its selector register (R237). -/
def pTsel (x : BitVec 32) : Parsed TOp := (Parsed.ok (BitVec.ofNat 7 (fld x 0 7))).also (zeroN (fld x 7 25))
def eTsel (t : TOp) : BitVec 32 := BitVec.ofNat 32 t.toNat
/-- TBR (R246, Table 8.5). -/
def dTbr (r : RawT) : Parsed Instr :=
  (reqExt r.ext fun x =>
    let low : List (Nat × Nat) := if fld x 0 2 = 0 then [] else [(6, 0)]
    match r.b.toNat with
    | 0 => (Parsed.ok (Instr.tbr (.nz r.a x))).also low
    | 1 => (Parsed.ok (Instr.tbr (.z r.a x))).also low
    | 2 => (Parsed.ok (Instr.tbr (.al x))).also (low ++ zeroF r.a)
    | 3 => (Parsed.ok (Instr.tbr (.link r.a x))).also low
    | 4 => Parsed.ok (Instr.tbr (.ind r.a x))
    | _ => Parsed.fail 6 0).also (zeroF r.c ++ laNone r)
/-- LA of the atomics: a lookahead on return forms, zero otherwise (Table 3.12). -/
def laAtomic (r : RawT) : List (Nat × Nat) :=
  match r.ext with
  | some y => if bitOf y 6 then [] else laNone r
  | none => []
/-- Field A of the atomics names no register without RET, except in cas, and must then be 0 (R88, R240). -/
def fieldAAtomic (r : RawT) : List (Nat × Nat) :=
  match r.ext with
  | some y => if bitOf y 6 || fld y 0 4 == 11 then [] else zeroF r.a
  | none => []
/-- CATOM of a tinker (R244). -/
def dTCatom (r : RawT) : Parsed Instr :=
  ((Parsed.ok (Instr.tCatom r.la r.a r.b r.c)).ap (reqExt r.ext pXac)).also (laAtomic r ++ fieldAAtomic r)
/-- SAT of a tinker (R240): SCOPE must be 0. -/
def dTSat (r : RawT) : Parsed Instr :=
  ((Parsed.ok (Instr.tSat r.la r.a r.b r.c)).ap (reqExt r.ext pXas)).also (laAtomic r ++ fieldAAtomic r)
/-- T_ADD (R237). -/
def dTAdd (r : RawT) : Parsed Instr :=
  ((Parsed.ok (Instr.tAdd)).ap (.ok r.a) |>.ap (.ok r.b) |>.ap (.ok r.c)).also (noExt r.ext ++ laNone r)
/-- T_SUB (R237). -/
def dTSub (r : RawT) : Parsed Instr :=
  ((Parsed.ok (Instr.tSub)).ap (.ok r.a) |>.ap (.ok r.b) |>.ap (.ok r.c)).also (noExt r.ext ++ laZero r)
/-- T_SUB_IMM (R237). -/
def dTSubImm (r : RawT) : Parsed Instr :=
  ((Parsed.ok (Instr.tSubImm)).ap (.ok r.a) |>.ap (.ok r.b) |>.ap (reqExt r.ext pXi)).also (zeroF r.c ++ laZero r)
/-- T_ADDI (R237). -/
def dTAddi (r : RawT) : Parsed Instr :=
  ((Parsed.ok (Instr.tAddi)).ap (.ok r.a) |>.ap (.ok r.b) |>.ap (reqExt r.ext pXi)).also (zeroF r.c ++ laNone r)
/-- T_MUL (R237). -/
def dTMul (r : RawT) : Parsed Instr :=
  ((Parsed.ok (Instr.tMul r.la)).ap (.ok r.a) |>.ap (.ok r.b) |>.ap (.ok r.c)).also (noExt r.ext)
/-- T_MUL_IMM (R237). -/
def dTMulImm (r : RawT) : Parsed Instr :=
  ((Parsed.ok (Instr.tMulImm r.la)).ap (.ok r.a) |>.ap (.ok r.b) |>.ap (reqExt r.ext pXi)).also (zeroF r.c)
/-- T_MULH (R237). -/
def dTMulh (r : RawT) : Parsed Instr :=
  ((Parsed.ok (Instr.tMulh r.la)).ap (.ok r.a) |>.ap (.ok r.b) |>.ap (.ok r.c)).also (noExt r.ext)
/-- T_MULH_IMM (R237). -/
def dTMulhImm (r : RawT) : Parsed Instr :=
  ((Parsed.ok (Instr.tMulhImm r.la)).ap (.ok r.a) |>.ap (.ok r.b) |>.ap (reqExt r.ext pXi)).also (zeroF r.c)
/-- T_MULH_W (R237). -/
def dTMulhW (r : RawT) : Parsed Instr :=
  ((Parsed.ok (Instr.tMulhW r.la)).ap (.ok r.a) |>.ap (.ok r.b) |>.ap (.ok r.c)).also (noExt r.ext)
/-- T_MULH_W_IMM (R237). -/
def dTMulhWImm (r : RawT) : Parsed Instr :=
  ((Parsed.ok (Instr.tMulhWImm r.la)).ap (.ok r.a) |>.ap (.ok r.b) |>.ap (reqExt r.ext pXi)).also (zeroF r.c)
/-- T_DIV (R237). -/
def dTDiv (r : RawT) : Parsed Instr :=
  ((Parsed.ok (Instr.tDiv r.la)).ap (.ok r.a) |>.ap (.ok r.b) |>.ap (.ok r.c)).also (noExt r.ext)
/-- T_DIV_IMM (R237). -/
def dTDivImm (r : RawT) : Parsed Instr :=
  ((Parsed.ok (Instr.tDivImm r.la)).ap (.ok r.a) |>.ap (.ok r.b) |>.ap (reqExt r.ext pXi)).also (zeroF r.c)
/-- T_DIV_W (R237). -/
def dTDivW (r : RawT) : Parsed Instr :=
  ((Parsed.ok (Instr.tDivW r.la)).ap (.ok r.a) |>.ap (.ok r.b) |>.ap (.ok r.c)).also (noExt r.ext)
/-- T_DIV_W_IMM (R237). -/
def dTDivWImm (r : RawT) : Parsed Instr :=
  ((Parsed.ok (Instr.tDivWImm r.la)).ap (.ok r.a) |>.ap (.ok r.b) |>.ap (reqExt r.ext pXi)).also (zeroF r.c)
/-- T_REM (R237). -/
def dTRem (r : RawT) : Parsed Instr :=
  ((Parsed.ok (Instr.tRem r.la)).ap (.ok r.a) |>.ap (.ok r.b) |>.ap (.ok r.c)).also (noExt r.ext)
/-- T_REM_IMM (R237). -/
def dTRemImm (r : RawT) : Parsed Instr :=
  ((Parsed.ok (Instr.tRemImm r.la)).ap (.ok r.a) |>.ap (.ok r.b) |>.ap (reqExt r.ext pXi)).also (zeroF r.c)
/-- T_REM_W (R237). -/
def dTRemW (r : RawT) : Parsed Instr :=
  ((Parsed.ok (Instr.tRemW r.la)).ap (.ok r.a) |>.ap (.ok r.b) |>.ap (.ok r.c)).also (noExt r.ext)
/-- T_REM_W_IMM (R237). -/
def dTRemWImm (r : RawT) : Parsed Instr :=
  ((Parsed.ok (Instr.tRemWImm r.la)).ap (.ok r.a) |>.ap (.ok r.b) |>.ap (reqExt r.ext pXi)).also (zeroF r.c)
/-- T_AND (R237). -/
def dTAnd (r : RawT) : Parsed Instr :=
  ((Parsed.ok (Instr.tAnd)).ap (.ok r.a) |>.ap (.ok r.b) |>.ap (.ok r.c)).also (noExt r.ext ++ laZero r)
/-- T_AND_IMM (R237). -/
def dTAndImm (r : RawT) : Parsed Instr :=
  ((Parsed.ok (Instr.tAndImm)).ap (.ok r.a) |>.ap (.ok r.b) |>.ap (reqExt r.ext pXi)).also (zeroF r.c ++ laZero r)
/-- T_OR (R237). -/
def dTOr (r : RawT) : Parsed Instr :=
  ((Parsed.ok (Instr.tOr)).ap (.ok r.a) |>.ap (.ok r.b) |>.ap (.ok r.c)).also (noExt r.ext ++ laZero r)
/-- T_OR_IMM (R237). -/
def dTOrImm (r : RawT) : Parsed Instr :=
  ((Parsed.ok (Instr.tOrImm)).ap (.ok r.a) |>.ap (.ok r.b) |>.ap (reqExt r.ext pXi)).also (zeroF r.c ++ laZero r)
/-- T_XOR (R237). -/
def dTXor (r : RawT) : Parsed Instr :=
  ((Parsed.ok (Instr.tXor)).ap (.ok r.a) |>.ap (.ok r.b) |>.ap (.ok r.c)).also (noExt r.ext ++ laZero r)
/-- T_XOR_IMM (R237). -/
def dTXorImm (r : RawT) : Parsed Instr :=
  ((Parsed.ok (Instr.tXorImm)).ap (.ok r.a) |>.ap (.ok r.b) |>.ap (reqExt r.ext pXi)).also (zeroF r.c ++ laZero r)
/-- T_ANDN (R237). -/
def dTAndn (r : RawT) : Parsed Instr :=
  ((Parsed.ok (Instr.tAndn)).ap (.ok r.a) |>.ap (.ok r.b) |>.ap (.ok r.c)).also (noExt r.ext ++ laZero r)
/-- T_ANDN_IMM (R237). -/
def dTAndnImm (r : RawT) : Parsed Instr :=
  ((Parsed.ok (Instr.tAndnImm)).ap (.ok r.a) |>.ap (.ok r.b) |>.ap (reqExt r.ext pXi)).also (zeroF r.c ++ laZero r)
/-- T_SHL (R237). -/
def dTShl (r : RawT) : Parsed Instr :=
  ((Parsed.ok (Instr.tShl)).ap (.ok r.a) |>.ap (.ok r.b) |>.ap (.ok r.c)).also (noExt r.ext ++ laZero r)
/-- T_SHL_IMM (R237). -/
def dTShlImm (r : RawT) : Parsed Instr :=
  ((Parsed.ok (Instr.tShlImm)).ap (.ok r.a) |>.ap (.ok r.b) |>.ap (reqExt r.ext pXi)).also (zeroF r.c ++ laZero r)
/-- T_SHR (R237). -/
def dTShr (r : RawT) : Parsed Instr :=
  ((Parsed.ok (Instr.tShr)).ap (.ok r.a) |>.ap (.ok r.b) |>.ap (.ok r.c)).also (noExt r.ext ++ laZero r)
/-- T_SHR_IMM (R237). -/
def dTShrImm (r : RawT) : Parsed Instr :=
  ((Parsed.ok (Instr.tShrImm)).ap (.ok r.a) |>.ap (.ok r.b) |>.ap (reqExt r.ext pXi)).also (zeroF r.c ++ laZero r)
/-- T_SAR (R237). -/
def dTSar (r : RawT) : Parsed Instr :=
  ((Parsed.ok (Instr.tSar)).ap (.ok r.a) |>.ap (.ok r.b) |>.ap (.ok r.c)).also (noExt r.ext ++ laZero r)
/-- T_SAR_IMM (R237). -/
def dTSarImm (r : RawT) : Parsed Instr :=
  ((Parsed.ok (Instr.tSarImm)).ap (.ok r.a) |>.ap (.ok r.b) |>.ap (reqExt r.ext pXi)).also (zeroF r.c ++ laZero r)
/-- T_ROT (R237). -/
def dTRot (r : RawT) : Parsed Instr :=
  ((Parsed.ok (Instr.tRot)).ap (.ok r.a) |>.ap (.ok r.b) |>.ap (.ok r.c)).also (noExt r.ext ++ laZero r)
/-- T_ROT_IMM (R237). -/
def dTRotImm (r : RawT) : Parsed Instr :=
  ((Parsed.ok (Instr.tRotImm)).ap (.ok r.a) |>.ap (.ok r.b) |>.ap (reqExt r.ext pXi)).also (zeroF r.c ++ laZero r)
/-- T_CLZ (R237). -/
def dTClz (r : RawT) : Parsed Instr :=
  ((Parsed.ok (Instr.tClz)).ap (.ok r.a) |>.ap (.ok r.b)).also (zeroF r.c ++ noExt r.ext ++ laNone r)
/-- T_POPC (R237). -/
def dTPopc (r : RawT) : Parsed Instr :=
  ((Parsed.ok (Instr.tPopc)).ap (.ok r.a) |>.ap (.ok r.b)).also (zeroF r.c ++ noExt r.ext ++ laNone r)
/-- T_MIN (R237). -/
def dTMin (r : RawT) : Parsed Instr :=
  ((Parsed.ok (Instr.tMin)).ap (.ok r.a) |>.ap (.ok r.b) |>.ap (.ok r.c)).also (noExt r.ext ++ laZero r)
/-- T_MIN_IMM (R237). -/
def dTMinImm (r : RawT) : Parsed Instr :=
  ((Parsed.ok (Instr.tMinImm)).ap (.ok r.a) |>.ap (.ok r.b) |>.ap (reqExt r.ext pXi)).also (zeroF r.c ++ laZero r)
/-- T_MIN_W (R237). -/
def dTMinW (r : RawT) : Parsed Instr :=
  ((Parsed.ok (Instr.tMinW)).ap (.ok r.a) |>.ap (.ok r.b) |>.ap (.ok r.c)).also (noExt r.ext ++ laZero r)
/-- T_MIN_W_IMM (R237). -/
def dTMinWImm (r : RawT) : Parsed Instr :=
  ((Parsed.ok (Instr.tMinWImm)).ap (.ok r.a) |>.ap (.ok r.b) |>.ap (reqExt r.ext pXi)).also (zeroF r.c ++ laZero r)
/-- T_MAX (R237). -/
def dTMax (r : RawT) : Parsed Instr :=
  ((Parsed.ok (Instr.tMax)).ap (.ok r.a) |>.ap (.ok r.b) |>.ap (.ok r.c)).also (noExt r.ext ++ laZero r)
/-- T_MAX_IMM (R237). -/
def dTMaxImm (r : RawT) : Parsed Instr :=
  ((Parsed.ok (Instr.tMaxImm)).ap (.ok r.a) |>.ap (.ok r.b) |>.ap (reqExt r.ext pXi)).also (zeroF r.c ++ laZero r)
/-- T_MAX_W (R237). -/
def dTMaxW (r : RawT) : Parsed Instr :=
  ((Parsed.ok (Instr.tMaxW)).ap (.ok r.a) |>.ap (.ok r.b) |>.ap (.ok r.c)).also (noExt r.ext ++ laZero r)
/-- T_MAX_W_IMM (R237). -/
def dTMaxWImm (r : RawT) : Parsed Instr :=
  ((Parsed.ok (Instr.tMaxWImm)).ap (.ok r.a) |>.ap (.ok r.b) |>.ap (reqExt r.ext pXi)).also (zeroF r.c ++ laZero r)
/-- T_SEL (R237). -/
def dTSel (r : RawT) : Parsed Instr :=
  ((Parsed.ok (Instr.tSel)).ap (.ok r.a) |>.ap (.ok r.b) |>.ap (.ok r.c) |>.ap (reqExt r.ext pTsel)).also (laNone r)
/-- T_LI (R237). -/
def dTLi (r : RawT) : Parsed Instr :=
  ((Parsed.ok (Instr.tLi)).ap (.ok r.a) |>.ap (reqExt r.ext pXi)).also (zeroF r.b ++ zeroF r.c ++ laNone r)
/-- T_BFX (R237). -/
def dTBfx (r : RawT) : Parsed Instr :=
  ((Parsed.ok (Instr.tBfx)).ap (.ok r.a) |>.ap (.ok r.b) |>.ap (reqExt r.ext pBfx)).also (zeroF r.c ++ laNone r)
/-- T_BFI (R237). -/
def dTBfi (r : RawT) : Parsed Instr :=
  ((Parsed.ok (Instr.tBfi)).ap (.ok r.a) |>.ap (.ok r.b) |>.ap (reqExt r.ext pBfi)).also (zeroF r.c ++ laNone r)
/-- T_CMP (R237). -/
def dTCmp (cc : ICond) (r : RawT) : Parsed Instr :=
  ((Parsed.ok (Instr.tCmp cc)).ap (.ok r.a) |>.ap (.ok r.b) |>.ap (.ok r.c)).also (noExt r.ext ++ laZero r)
/-- T_CMP_IMM (R237). -/
def dTCmpImm (cc : ICond) (r : RawT) : Parsed Instr :=
  ((Parsed.ok (Instr.tCmpImm cc)).ap (.ok r.a) |>.ap (.ok r.b) |>.ap (reqExt r.ext pXi)).also (zeroF r.c ++ laZero r)
/-- TCMPX (R248). -/
def dTcmpx (r : RawT) : Parsed Instr :=
  ((Parsed.ok (Instr.tcmpx r.la)).ap (.ok r.a) |>.ap (.ok r.b) |>.ap (.ok r.c)).also (noExt r.ext ++ (if r.a = r.b ∨ r.a = r.c then [(3, r.a.toNat)] else []))
/-- TEXIT (R247). -/
def dTexit (r : RawT) : Parsed Instr :=
  ((Parsed.ok (Instr.texit)).ap (.ok r.a)).also (zeroF r.b ++ zeroF r.c ++ noExt r.ext ++ laNone r)
/-- TWAIT (R247). -/
def dTwait (r : RawT) : Parsed Instr :=
  ((Parsed.ok (Instr.twait)).ap (.ok r.a)).also (zeroF r.b ++ zeroF r.c ++ noExt r.ext ++ laNone r)
/-- TSIG (R247). -/
def dTsig (r : RawT) : Parsed Instr :=
  ((Parsed.ok (Instr.tsig)).ap (.ok r.a)).also (zeroF r.b ++ zeroF r.c ++ noExt r.ext ++ laNone r)
/-- TLD (R241). -/
def dTld (t : LdTy) (r : RawT) : Parsed Instr :=
  ((Parsed.ok (Instr.tld r.la t)).ap (.ok r.a) |>.ap (.ok r.b) |>.ap (.ok r.c)).also (noExt r.ext)
/-- TLD_IMM (R241). -/
def dTldImm (t : LdTy) (r : RawT) : Parsed Instr :=
  ((Parsed.ok (Instr.tldImm r.la t)).ap (.ok r.a) |>.ap (.ok r.b) |>.ap (reqExt r.ext pXi)).also (zeroF r.c)
/-- TLD_SP (R240). -/
def dTldSp (t : LdTy) (r : RawT) : Parsed Instr :=
  ((Parsed.ok (Instr.tldSp r.la t)).ap (.ok r.a) |>.ap (.ok r.b) |>.ap (.ok r.c)).also (noExt r.ext)
/-- TLD_SP_IMM (R240). -/
def dTldSpImm (t : LdTy) (r : RawT) : Parsed Instr :=
  ((Parsed.ok (Instr.tldSpImm r.la t)).ap (.ok r.a) |>.ap (.ok r.b) |>.ap (reqExt r.ext pXi)).also (zeroF r.c)
/-- TST (R241). -/
def dTst (n : StW) (r : RawT) : Parsed Instr :=
  ((Parsed.ok (Instr.tst n)).ap (.ok r.a) |>.ap (.ok r.b) |>.ap (.ok r.c)).also (noExt r.ext ++ laZero r)
/-- TST_IMM (R241). -/
def dTstImm (n : StW) (r : RawT) : Parsed Instr :=
  ((Parsed.ok (Instr.tstImm n)).ap (.ok r.a) |>.ap (.ok r.b) |>.ap (reqExt r.ext pXi)).also (zeroF r.c ++ laZero r)
/-- TST_SP (R240). -/
def dTstSp (n : StW) (r : RawT) : Parsed Instr :=
  ((Parsed.ok (Instr.tstSp n)).ap (.ok r.a) |>.ap (.ok r.b) |>.ap (.ok r.c)).also (noExt r.ext ++ laZero r)
/-- TST_SP_IMM (R240). -/
def dTstSpImm (n : StW) (r : RawT) : Parsed Instr :=
  ((Parsed.ok (Instr.tstSpImm n)).ap (.ok r.a) |>.ap (.ok r.b) |>.ap (reqExt r.ext pXi)).also (zeroF r.c ++ laZero r)
/-- TST_SP_N4 (R240). -/
def dTstSpN4 (r : RawT) : Parsed Instr :=
  ((Parsed.ok (Instr.tstSpN4)).ap (.ok r.a) |>.ap (.ok r.b) |>.ap (reqExt r.ext pXi)).also (zeroF r.c ++ laNone r)
/-- TACQ (R243). -/
def dTacq (r : RawT) : Parsed Instr :=
  ((Parsed.ok (Instr.tacq r.la)).ap (.ok r.a) |>.ap (pScope r.b)).also (zeroF r.c ++ noExt r.ext)
/-- TREL (R243). -/
def dTrel (r : RawT) : Parsed Instr :=
  ((Parsed.ok (Instr.trel)).ap (.ok r.a) |>.ap (pScope r.b)).also (zeroF r.c ++ noExt r.ext ++ laNone r)
/-- TFENCE (R243). -/
def dTfence (r : RawT) : Parsed Instr :=
  ((Parsed.ok (Instr.tfence)).ap (pScope r.a)).also (zeroF r.b ++ zeroF r.c ++ noExt r.ext ++ laNone r)
/-- TCACHE (R242). -/
def dTcache (r : RawT) : Parsed Instr :=
  ((Parsed.ok (Instr.tcache)).ap (.ok r.a) |>.ap (pCop r.b)).also (zeroF r.c ++ noExt r.ext ++ laNone r)
/-- SPAWN (R253). -/
def dSpawn (r : RawT) : Parsed Instr :=
  ((Parsed.ok (Instr.spawn)).ap (.ok r.a) |>.ap (.ok r.b)).also (zeroF r.c ++ noExt r.ext ++ laNone r)
/-- JOIN (R256). -/
def dJoin (r : RawT) : Parsed Instr :=
  ((Parsed.ok (Instr.join)).ap (.ok r.a) |>.ap (.ok r.b)).also (zeroF r.c ++ noExt r.ext ++ laNone r)
/-- STEAL (R255). -/
def dSteal (r : RawT) : Parsed Instr :=
  ((Parsed.ok (Instr.steal r.la)).ap (.ok r.a) |>.ap (.ok r.b)).also (zeroF r.c ++ noExt r.ext)
/-- T_CHSEND (R245). -/
def dTChsend (r : RawT) : Parsed Instr :=
  ((Parsed.ok (Instr.tChsend)).ap (.ok r.a) |>.ap (pCh r.b)).also (zeroF r.c ++ noExt r.ext ++ laNone r)

/-- The tinker map. -/
def mapT (r : RawT) : Parsed Instr :=
  match r.op.toNat with
  | 0x01 => dTAdd r
  | 0x02 => if r.x then dTSubImm r else dTSub r
  | 0x03 => dTAddi r
  | 0x04 => dTMul r
  | 0x05 => dTMulh r
  | 0x06 => dTMulhW r
  | 0x07 => dTDiv r
  | 0x08 => dTDivW r
  | 0x09 => dTRem r
  | 0x0A => dTRemW r
  | 0x0B => if r.x then dTAndImm r else dTAnd r
  | 0x0C => if r.x then dTOrImm r else dTOr r
  | 0x0D => if r.x then dTXorImm r else dTXor r
  | 0x0E => if r.x then dTAndnImm r else dTAndn r
  | 0x0F => if r.x then dTShlImm r else dTShl r
  | 0x10 => if r.x then dTShrImm r else dTShr r
  | 0x11 => if r.x then dTSarImm r else dTSar r
  | 0x12 => if r.x then dTRotImm r else dTRot r
  | 0x13 => dTClz r
  | 0x14 => dTPopc r
  | 0x15 => if r.x then dTMinImm r else dTMin r
  | 0x16 => if r.x then dTMinWImm r else dTMinW r
  | 0x17 => if r.x then dTMaxImm r else dTMax r
  | 0x18 => if r.x then dTMaxWImm r else dTMaxW r
  | 0x19 => dTSel r
  | 0x1A => dTLi r
  | 0x1C => dTBfx r
  | 0x1D => dTBfi r
  | 0x20 => if r.x then dTCmpImm .eq r else dTCmp .eq r
  | 0x21 => if r.x then dTCmpImm .ne r else dTCmp .ne r
  | 0x22 => if r.x then dTCmpImm .lt r else dTCmp .lt r
  | 0x23 => if r.x then dTCmpImm .le r else dTCmp .le r
  | 0x24 => if r.x then dTCmpImm .gt r else dTCmp .gt r
  | 0x25 => if r.x then dTCmpImm .ge r else dTCmp .ge r
  | 0x26 => if r.x then dTCmpImm .ltw r else dTCmp .ltw r
  | 0x27 => if r.x then dTCmpImm .lew r else dTCmp .lew r
  | 0x28 => if r.x then dTCmpImm .gtw r else dTCmp .gtw r
  | 0x29 => if r.x then dTCmpImm .gew r else dTCmp .gew r
  | 0x30 => dTcmpx r
  | 0x38 => dTbr r
  | 0x39 => dTexit r
  | 0x3A => dTwait r
  | 0x3B => dTsig r
  | 0x40 => dTld .i8 r
  | 0x41 => dTld .i16 r
  | 0x42 => dTld .i32 r
  | 0x43 => dTld .i64 r
  | 0x44 => dTld .w8 r
  | 0x45 => dTld .w16 r
  | 0x46 => dTld .w32 r
  | 0x48 => dTldSp .i8 r
  | 0x49 => dTldSp .i16 r
  | 0x4A => dTldSp .i32 r
  | 0x4B => dTldSp .i64 r
  | 0x4C => dTldSp .w8 r
  | 0x4D => dTldSp .w16 r
  | 0x4E => dTldSp .w32 r
  | 0x50 => if r.x then dTstImm .b8 r else dTst .b8 r
  | 0x51 => if r.x then dTstImm .b16 r else dTst .b16 r
  | 0x52 => if r.x then dTstImm .b32 r else dTst .b32 r
  | 0x53 => if r.x then dTstImm .b64 r else dTst .b64 r
  | 0x54 => if r.x then dTstSpImm .b8 r else dTstSp .b8 r
  | 0x55 => if r.x then dTstSpImm .b16 r else dTstSp .b16 r
  | 0x56 => if r.x then dTstSpImm .b32 r else dTstSp .b32 r
  | 0x57 => if r.x then dTstSpImm .b64 r else dTstSp .b64 r
  | 0x58 => dTstSpN4 r
  | 0x60 => dTacq r
  | 0x61 => dTrel r
  | 0x62 => dTfence r
  | 0x63 => dTcache r
  | 0x64 => dSpawn r
  | 0x65 => dJoin r
  | 0x66 => dSteal r
  | 0x67 => dTChsend r
  | 0x68 => dTCatom r
  | 0x69 => dTSat r
  | 0x6A => dTMulImm r
  | 0x6B => dTMulhImm r
  | 0x6C => dTMulhWImm r
  | 0x6D => dTDivImm r
  | 0x6E => dTDivWImm r
  | 0x6F => dTRemImm r
  | 0x70 => dTRemWImm r
  | 0x71 => dTldImm .i8 r
  | 0x72 => dTldImm .i16 r
  | 0x73 => dTldImm .i32 r
  | 0x74 => dTldImm .i64 r
  | 0x75 => dTldImm .w8 r
  | 0x76 => dTldImm .w16 r
  | 0x77 => dTldImm .w32 r
  | 0x78 => dTldSpImm .i8 r
  | 0x79 => dTldSpImm .i16 r
  | 0x7A => dTldSpImm .i32 r
  | 0x7B => dTldSpImm .i64 r
  | 0x7C => dTldSpImm .w8 r
  | 0x7D => dTldSpImm .w16 r
  | 0x7E => dTldSpImm .w32 r
  | _ => .fail 1 0

/-- Whether a tinker word is followed by an extension word: at a req point always, at an opt point when its X bit is set (R99). -/
def tinkerHasExt (w : BitVec 32) : Bool :=
  let op := fld w 25 7
  decide (op = 0x03 ∨ (0x19 ≤ op ∧ op ≤ 0x1A) ∨ (0x1C ≤ op ∧ op ≤ 0x1D) ∨ op = 0x38 ∨ op = 0x58 ∨ (0x68 ≤ op ∧ op ≤ 0x7E)) ||
  (decide (op = 0x02 ∨ (0x0B ≤ op ∧ op ≤ 0x12) ∨ (0x15 ≤ op ∧ op ≤ 0x18) ∨ (0x20 ≤ op ∧ op ≤ 0x29) ∨ (0x50 ≤ op ∧ op ≤ 0x57)) && bitOf w 21)

/-- The tinker operation that a word and the word after it hold. -/
def decodeTinker (w next : BitVec 32) : Except (Nat × Nat) Instr :=
  (mapT (rawTOf w (if tinkerHasExt w then some next else none))).result

/-! ### Slots and bundles (R81 to R85) -/

/-- The slot classes of R86. -/
inductive SlotClass where
  | s | v | m | c
  deriving DecidableEq, Repr

/-- Slots in the order S, V0, V1, M, C0, C1 (R82). -/
abbrev Slot := Fin 6

/-- The class of a slot. -/
def classOf (s : Slot) : SlotClass :=
  match s with
  | 0 => .s
  | 1 => .v
  | 2 => .v
  | 3 => .m
  | 4 => .c
  | 5 => .c

/-- The operation in a slot word, with its ILLOP reasons. -/
def parseSlot (k : SlotClass) (r : RawSlot) : Parsed Instr :=
  match k with
  | .s => mapS r
  | .v => mapV r
  | .m => mapM r
  | .c => mapC r

/-- A bundle's header fields and its slot words in slot order (Table 3.1). -/
structure Bundle where
  run : Nat
  compat : Bool
  slots : List (Slot × RawSlot)
  next : Nat
  deriving DecidableEq, Repr

/-- The slots of a bundle from `i` on: `pres` and `ext` are the header's bits, `a` the address of the next word. -/
def readSlots (rd : Nat → Option (BitVec 32)) (pres ext : Nat) : List Slot → Nat → Option (List (Slot × RawSlot) × Nat)
  | [], a => some ([], a)
  | s :: rest, a =>
    if bits pres s.val s.val = 0 then readSlots rd pres ext rest a
    else do
      let w ← rd a
      let hasX := bits ext s.val s.val = 1
      let x ← if hasX then (rd (a + 4)).map some else some none
      let (l, a') ← readSlots rd pres ext rest (if hasX then a + 8 else a + 4)
      return ((s, rawOf w x) :: l, a')

/-- The bundle at a byte address, or the ILLBUNDLE reason (R82, R84, R85, R101, R102). `l4` says that the launch names profile L4. Of several
ILLBUNDLE reasons of one header the lowest is reported (DESIGN CHOICE, log 43: R102 orders the faults of one slot). -/
def decodeBundle (rd : Nat → Option (BitVec 32)) (l4 : Bool) (a : Nat) : Except Nat Bundle :=
  match rd a with
  | none => .error 4
  | some hd =>
    let pres := fld hd 0 6
    let ext := fld hd 6 6
    if fld hd 19 13 ≠ 0 then .error 1
    else if bitOf hd 18 && !l4 then .error 2
    else if ext &&& (63 - pres) ≠ 0 then .error 3
    else match readSlots rd pres ext [0, 1, 2, 3, 4, 5] (a + 4) with
      | none => .error 4
      | some (slots, next) => .ok { run := fld hd 12 6, compat := bitOf hd 18, slots := slots, next := next }

/-! ### The encoder

Written from the same tables: which slot class and fields an operation takes, then the words. -/

/-- The slot class and the fields of a primary operation under a predicate; none for tinker operations and events. -/
def encSlot (q : Pred) : Instr → Option (SlotClass × RawSlot)
  | .nop => some (.s, ⟨0x00, q, 0, 0, 0, none⟩)
  | .add d b c => some (.s, ⟨0x01, q, eS d, eSS b, eSS c, none⟩)
  | .sub d b x => some (.s, ⟨0x02, q, eS d, eSS b, x.field, x.ext⟩)
  | .addi d b imm => some (.s, ⟨0x03, q, eS d, eSS b, 0, some (eXi imm)⟩)
  | .mul d b x => some (.s, ⟨0x04, q, eS d, eSS b, x.field, x.ext⟩)
  | .mulh d b x => some (.s, ⟨0x05, q, eS d, eSS b, x.field, x.ext⟩)
  | .mulhW d b x => some (.s, ⟨0x06, q, eS d, eSS b, x.field, x.ext⟩)
  | .div d b x => some (.s, ⟨0x07, q, eS d, eSS b, x.field, x.ext⟩)
  | .divW d b x => some (.s, ⟨0x08, q, eS d, eSS b, x.field, x.ext⟩)
  | .rem d b x => some (.s, ⟨0x09, q, eS d, eSS b, x.field, x.ext⟩)
  | .remW d b x => some (.s, ⟨0x0A, q, eS d, eSS b, x.field, x.ext⟩)
  | .and d b x => some (.s, ⟨0x0B, q, eS d, eSS b, x.field, x.ext⟩)
  | .or d b x => some (.s, ⟨0x0C, q, eS d, eSS b, x.field, x.ext⟩)
  | .xor d b x => some (.s, ⟨0x0D, q, eS d, eSS b, x.field, x.ext⟩)
  | .andn d b x => some (.s, ⟨0x0E, q, eS d, eSS b, x.field, x.ext⟩)
  | .shl d b x => some (.s, ⟨0x0F, q, eS d, eSS b, x.field, x.ext⟩)
  | .shr d b x => some (.s, ⟨0x10, q, eS d, eSS b, x.field, x.ext⟩)
  | .sar d b x => some (.s, ⟨0x11, q, eS d, eSS b, x.field, x.ext⟩)
  | .rot d b x => some (.s, ⟨0x12, q, eS d, eSS b, x.field, x.ext⟩)
  | .clz d b => some (.s, ⟨0x13, q, eS d, eSS b, 0, none⟩)
  | .popc d b => some (.s, ⟨0x14, q, eS d, eSS b, 0, none⟩)
  | .min d b x => some (.s, ⟨0x15, q, eS d, eSS b, x.field, x.ext⟩)
  | .minW d b x => some (.s, ⟨0x16, q, eS d, eSS b, x.field, x.ext⟩)
  | .max d b x => some (.s, ⟨0x17, q, eS d, eSS b, x.field, x.ext⟩)
  | .maxW d b x => some (.s, ⟨0x18, q, eS d, eSS b, x.field, x.ext⟩)
  | .sel d b c k => some (.s, ⟨0x19, q, eS d, eSS b, eSS c, some (eXrSel k)⟩)
  | .li d imm => some (.s, ⟨0x1A, q, eS d, 0, 0, some (eXi imm)⟩)
  | .adda d b x => some (.s, ⟨0x1B, q, eS d, eSS b, x.field, x.ext⟩)
  | .bfx d b f => some (.s, ⟨0x1C, q, eS d, eSS b, 0, some (eBf f)⟩)
  | .bfi d b f => some (.s, ⟨0x1D, q, eS d, eSS b, 0, some (eBf f)⟩)
  | .cmp cc d b x => some (.s, ⟨BitVec.ofNat 8 (0x20 + cc.code), q, eP d, eSS b, x.field, x.ext⟩)
  | .pand d b c => some (.s, ⟨0x30, q, eP d, eP b, eP c, none⟩)
  | .por d b c => some (.s, ⟨0x31, q, eP d, eP b, eP c, none⟩)
  | .pxor d b c => some (.s, ⟨0x32, q, eP d, eP b, eP c, none⟩)
  | .pnot d b => some (.s, ⟨0x33, q, eP d, eP b, 0, none⟩)
  | .sfadd d b c rnd => some (.s, ⟨0x40, q, eS d, eSS b, eSS c, rnd.map eXrRnd⟩)
  | .sfmul d b c rnd => some (.s, ⟨0x41, q, eS d, eSS b, eSS c, rnd.map eXrRnd⟩)
  | .sffma d b c rnd => some (.s, ⟨0x42, q, eS d, eSS b, eSS c, rnd.map eXrRnd⟩)
  | .sfmin d b c => some (.s, ⟨0x43, q, eS d, eSS b, eSS c, none⟩)
  | .sfmax d b c => some (.s, ⟨0x44, q, eS d, eSS b, eSS c, none⟩)
  | .sfcvt d b f => some (.s, ⟨0x45, q, eS d, eSS b, 0, some (eXrCvt f)⟩)
  | .sfcmp cc d b c => some (.s, ⟨BitVec.ofNat 8 (0x48 + cc.code), q, eP d, eSS b, eSS c, none⟩)
  | .lds t d b x => some (.s, ⟨BitVec.ofNat 8 (0x50 + t.code), q, eS d, eSS b, x.field, x.ext⟩)
  | .sts n a b x => some (.s, ⟨BitVec.ofNat 8 (0x58 + n.code), q, eSS a, eSS b, x.field, x.ext⟩)
  | .stsN4 a b imm => some (.s, ⟨0x5C, q, eSS a, eSS b, 0, some (eXi imm)⟩)
  | .br t => some (.s, ⟨0x60, q, t.field, 0, 0, t.ext⟩)
  | .brc a imm => some (.s, ⟨0x61, q, eSS a, 0, 0, some (eXi imm)⟩)
  | .call t => some (.s, ⟨0x62, q, t.field, 0, 0, t.ext⟩)
  | .ret => some (.s, ⟨0x63, q, 0, 0, 0, none⟩)
  | .loop a imm => some (.s, ⟨0x64, q, eSS a, 0, 0, some (eXi imm)⟩)
  | .halt => some (.s, ⟨0x65, q, 0, 0, 0, none⟩)
  | .waita a b => some (.s, ⟨0x70, q, eSS a, eSS b, 0, none⟩)
  | .flagacq a sc => some (.s, ⟨0x71, q, eS a, eScope sc, 0, none⟩)
  | .flagrel a sc => some (.s, ⟨0x72, q, eSS a, eScope sc, 0, none⟩)
  | .fence sc => some (.s, ⟨0x73, q, eScope sc, 0, 0, none⟩)
  | .movs d sp => some (.s, ⟨0x80, q, eS d, eSpec sp, 0, none⟩)
  | .movts sp b => some (.s, ⟨0x81, q, eSpec sp, eSS b, 0, none⟩)
  | .trap n => some (.s, ⟨0x82, q, eLit n, 0, 0, none⟩)
  | .eret => some (.s, ⟨0x83, q, 0, 0, 0, none⟩)
  | .tcreate a b c => some (.s, ⟨0x84, q, eSS a, eSS b, eSS c, none⟩)
  | .tkill a => some (.s, ⟨0x85, q, eSS a, 0, 0, none⟩)
  | .ttclr k => some (.s, ⟨0x90, q, eTT k, 0, 0, none⟩)
  | .ttnode k b c => some (.s, ⟨0x91, q, eTT k, eSS b, eSS c, none⟩)
  | .ttldp k b x => some (.s, ⟨0x92, q, eTT k, eSS b, x.field, x.ext⟩)
  | .ttmask k c (.toMask m half) => some (.s, ⟨0x93, q, eTT k, eM m, eSS c, if half then some 2 else none⟩)
  | .ttmask k c (.toMem b lay half) => some (.s, ⟨0x93, q, eTT k, eSS b, eSS c, if lay || half then some (BitVec.ofNat 32 (lay.toNat + 2 * half.toNat)) else none⟩)
  | .ttpos k b c => some (.s, ⟨0x94, q, eTT k, eSS b, eSS c, none⟩)
  | .ttpath k b c => some (.s, ⟨0x95, q, eTT k, eSS b, eSS c, none⟩)
  | .ttprune k b c => some (.s, ⟨0x96, q, eTT k, eSS b, eSS c, none⟩)
  | .ttinfo d k c => some (.s, ⟨0x97, q, eS d, eTT k, eSS c, none⟩)
  | .vadd t d b c xv => some (.v, ⟨BitVec.ofNat 8 (0x00 + t.code), q, eV d, eVV b, eVV c, xv.map eIntX⟩)
  | .vsub t d b c xv => some (.v, ⟨BitVec.ofNat 8 (0x08 + t.code), q, eV d, eVV b, eVV c, xv.map eIntX⟩)
  | .vmul t d b c xv => some (.v, ⟨BitVec.ofNat 8 (0x10 + t.code), q, eV d, eVV b, eVV c, xv.map eIntX⟩)
  | .vmulh t d b c xv => some (.v, ⟨BitVec.ofNat 8 (0x18 + t.code), q, eV d, eVV b, eVV c, eMx xv⟩)
  | .vmin t d b c xv => some (.v, ⟨BitVec.ofNat 8 (0x20 + t.code), q, eV d, eVV b, eVV c, eMx xv⟩)
  | .vmax t d b c xv => some (.v, ⟨BitVec.ofNat 8 (0x28 + t.code), q, eV d, eVV b, eVV c, eMx xv⟩)
  | .vand t d b c xv => some (.v, ⟨BitVec.ofNat 8 (0x30 + t.code), q, eV d, eVV b, eVV c, eMx xv⟩)
  | .vor t d b c xv => some (.v, ⟨BitVec.ofNat 8 (0x34 + t.code), q, eV d, eVV b, eVV c, eMx xv⟩)
  | .vxor t d b c xv => some (.v, ⟨BitVec.ofNat 8 (0x38 + t.code), q, eV d, eVV b, eVV c, eMx xv⟩)
  | .vshl t d b x => some (.v, ⟨BitVec.ofNat 8 (0x3C + t.code), q, eV d, eVV b, x.field, x.ext⟩)
  | .vshr t d b x => some (.v, ⟨BitVec.ofNat 8 (0x40 + t.code), q, eV d, eVV b, x.field, x.ext⟩)
  | .vsar t d b x => some (.v, ⟨BitVec.ofNat 8 (0x44 + t.code), q, eV d, eVV b, x.field, x.ext⟩)
  | .vabs t d b xv => some (.v, ⟨BitVec.ofNat 8 (0x48 + t.code), q, eV d, eVV b, 0, xv.map eIntX⟩)
  | .vcmp t d b c xv => some (.v, ⟨BitVec.ofNat 8 (0x4C + t.code), q, eM d, eVV b, eVV c, some (eCmpX xv)⟩)
  | .vsel t d b c k => some (.v, ⟨BitVec.ofNat 8 (0x50 + t.code), q, eV d, eVV b, eVV c, some (eSelX k)⟩)
  | .vfadd t d b c xv => some (.v, ⟨BitVec.ofNat 8 (0x60 + t.code), q, eV d, eVV b, eVV c, xv.map eFltX⟩)
  | .vfsub t d b c xv => some (.v, ⟨BitVec.ofNat 8 (0x64 + t.code), q, eV d, eVV b, eVV c, xv.map eFltX⟩)
  | .vfmul t d b c xv => some (.v, ⟨BitVec.ofNat 8 (0x68 + t.code), q, eV d, eVV b, eVV c, xv.map eFltX⟩)
  | .vffma t d b c xv => some (.v, ⟨BitVec.ofNat 8 (0x6C + t.code), q, eV d, eVV b, eVV c, xv.map eFltX⟩)
  | .vfmin t d b c xv => some (.v, ⟨BitVec.ofNat 8 (0x70 + t.code), q, eV d, eVV b, eVV c, eMx xv⟩)
  | .vfmax t d b c xv => some (.v, ⟨BitVec.ofNat 8 (0x74 + t.code), q, eV d, eVV b, eVV c, eMx xv⟩)
  | .vfrcp t d b xv => some (.v, ⟨BitVec.ofNat 8 (0x78 + t.code), q, eV d, eVV b, 0, xv.map eFltX⟩)
  | .vfrsq t d b xv => some (.v, ⟨BitVec.ofNat 8 (0x7C + t.code), q, eV d, eVV b, 0, xv.map eFltX⟩)
  | .vfexp2 t d b xv => some (.v, ⟨BitVec.ofNat 8 (0x80 + t.code), q, eV d, eVV b, 0, xv.map eFltX⟩)
  | .vflog2 t d b xv => some (.v, ⟨BitVec.ofNat 8 (0x84 + t.code), q, eV d, eVV b, 0, xv.map eFltX⟩)
  | .vfcmp t d b c xv => some (.v, ⟨BitVec.ofNat 8 (0x88 + t.code), q, eM d, eVV b, eVV c, some (eFCmpX xv)⟩)
  | .vcvt d b xv => some (.v, ⟨0x90, q, eV d, eVV b, 0, some (eVCvtX xv)⟩)
  | .vmxexp a xv => some (.v, ⟨0x91, q, eVV a, 0, 0, some (eMxExpX xv)⟩)
  | .vquant d b xv => some (.v, ⟨0x92, q, eV d, eVV b, 0, some (eQuantX xv)⟩)
  | .vdeq d b xv => some (.v, ⟨0x93, q, eV d, eVV b, 0, some (eDeqX xv)⟩)
  | .vxpand d b xv => some (.v, ⟨0x94, q, eV d, eVV b, 0, some (eXpandX xv)⟩)
  | .vpbook a => some (.v, ⟨0x95, q, eVV a, 0, 0, none⟩)
  | .vld d b x => some (.v, ⟨0x98, q, d.field, eVS b, x.field, x.imm16.map fun i => { d.xv with imm := i }.word⟩)
  | .vst a b x => some (.v, ⟨0x99, q, a.field, eVS b, x.field, x.imm16.map fun i => { a.xv with imm := i }.word⟩)
  | .vldx t d b c xv => some (.v, ⟨BitVec.ofNat 8 (0x9C + t.code), q, eV d, eVS b, eVV c, eMx xv⟩)
  | .vstx t a b c xv => some (.v, ⟨BitVec.ofNat 8 (0xA0 + t.code), q, eVV a, eVS b, eVV c, eSmx xv⟩)
  | .vstxN4 a b c xv => some (.v, ⟨0x9A, q, eVV a, eVS b, eVV c, eSmx xv⟩)
  | .vbcast t d b xv => some (.v, ⟨BitVec.ofNat 8 (0xA4 + t.code), q, eV d, eVS b, 0, eMx xv⟩)
  | .vext t d b x => some (.v, ⟨BitVec.ofNat 8 (0xA8 + t.code), q, eS d, eVV b, x.field, x.ext⟩)
  | .vins t d b x => some (.v, ⟨BitVec.ofNat 8 (0xAC + t.code), q, eV d, eVS b, x.field, x.ext⟩)
  | .vperm t d b c xv => some (.v, ⟨BitVec.ofNat 8 (0xB0 + t.code), q, eV d, eVV b, eVV c, eMx xv⟩)
  | .vshuf t d b c xv => some (.v, ⟨BitVec.ofNat 8 (0xB4 + t.code), q, eV d, eVV b, eVV c, xv.map eShufX⟩)
  | .vslide t d b x => some (.v, ⟨BitVec.ofNat 8 (0xB8 + t.code), q, eV d, eVV b, x.field, x.ext⟩)
  | .vpopm d b => some (.v, ⟨0xBC, q, eS d, eM b, 0, none⟩)
  | .vbtest d b c xv => some (.v, ⟨0xBD, q, eM d, eVV b, eVV c, xv.map eBitX⟩)
  | .vbset d b c xv => some (.v, ⟨0xBE, q, eV d, eVV b, eVV c, xv.map eBitX⟩)
  | .vcmpx t d b xv => some (.v, ⟨BitVec.ofNat 8 (0xC0 + t.code), q, eV d, eVV b, 0, some (eCmpxX xv)⟩)
  | .vtopk t d b xv => some (.v, ⟨BitVec.ofNat 8 (0xC8 + t.code), q, eV d, eVV b, 0, some (eTopkX xv)⟩)
  | .vred t d b xv => some (.v, ⟨BitVec.ofNat 8 (0xD0 + t.code), q, eS d, eVV b, 0, some (eRedX xv)⟩)
  | .vscan t d b xv => some (.v, ⟨BitVec.ofNat 8 (0xD8 + t.code), q, eV d, eVV b, 0, some (eScanX xv)⟩)
  | .vmovaGet d b k => some (.v, ⟨0xE0, q, eV d, eVS b, 0, some (XV.zero.withD k).word⟩)
  | .vmovaPut a b k => some (.v, ⟨0xE0, q, eVV a, eVS b, 0, some ({ XV.zero with sub := 1 }.withS k).word⟩)
  | .vsbind a b wr => some (.v, ⟨0xE1, q, ePort a, eW b, 0, some (eSbindX wr)⟩)
  | .vsunbind a => some (.v, ⟨0xE2, q, eV a, 0, 0, none⟩)
  | .dfrom d b xv => some (.v, ⟨0xE4, q, eD d, eVV b, 0, eDfromX xv⟩)
  | .dto d b xv => some (.v, ⟨0xE5, q, eV d, eD b, 0, some (eDtoX xv)⟩)
  | .dld d b c => some (.v, ⟨0xE6, q, eD d, eVS b, eVS c, none⟩)
  | .dst a b c => some (.v, ⟨0xE7, q, eD a, eVS b, eVS c, none⟩)
  | .dadd d b c xv => some (.v, ⟨0xE8, q, eD d, eD b, eD c, xv.map eImm16X⟩)
  | .dsub d b c xv => some (.v, ⟨0xE9, q, eD d, eD b, eD c, xv.map eImm16X⟩)
  | .dscale d b x => some (.v, ⟨0xEA, q, eD d, eD b, x.field, x.ext⟩)
  | .dneg d b => some (.v, ⟨0xEB, q, eD d, eD b, 0, none⟩)
  | .ddot d b c => some (.v, ⟨0xEC, q, eS d, eD b, eD c, none⟩)
  | .ddotv d b c => some (.v, ⟨0xED, q, eV d, eD b, eVS c, none⟩)
  | .dnorm d b => some (.v, ⟨0xEE, q, eS d, eD b, 0, none⟩)
  | .dsetn d b => some (.v, ⟨0xEF, q, eD d, eVS b, 0, none⟩)
  | .dlerp d b c t => some (.v, ⟨0xF0, q, eD d, eD b, eD c, some (eImm16X t)⟩)
  | .dcmpz d b => some (.v, ⟨0xF1, q, eS d, eD b, 0, none⟩)
  | .mma a xm => some (.m, ⟨0x01, q, eS a, 0, 0, some (eXm xm)⟩)
  | .mmas a xm => some (.m, ⟨0x02, q, eS a, 0, 0, some (eXms xm)⟩)
  | .mclr a x => some (.m, ⟨0x03, q, eS a, x.field, 0, x.ext⟩)
  | .mdrain a b xd => some (.m, ⟨0x04, q, eS a, eS b, 0, some (eXd xd)⟩)
  | .mpop a n => some (.m, ⟨0x05, q, eH a, eLit n, 0, none⟩)
  | .mtrans a b xt => some (.m, ⟨0x06, q, eH a, eH b, 0, some (eXt xt)⟩)
  | .cpy a b x => some (.c, ⟨0x01, q, eW a, eW b, x.field, x.ext⟩)
  | .cgath a b x => some (.c, ⟨0x02, q, eW a, eW b, x.field, x.ext⟩)
  | .cscat a b x => some (.c, ⟨0x03, q, eW a, eW b, x.field, x.ext⟩)
  | .cfill a b x => some (.c, ⟨0x04, q, eW a, eSS b, x.field, x.ext⟩)
  | .cprom a b xi => some (.c, ⟨0x05, q, eSS a, eSS b, 0, xi.map eUrg⟩)
  | .cdemo a b xi => some (.c, ⟨0x06, q, eSS a, eSS b, 0, xi.map eDemo⟩)
  | .choop a b => some (.c, ⟨0x07, q, eH a, eSS b, 0, none⟩)
  | .cdeal a b => some (.c, ⟨0x08, q, eW a, eSS b, 0, none⟩)
  | .carm a b x => some (.c, ⟨0x09, q, eSS a, eSS b, x.field, x.ext⟩)
  | .cstat d b => some (.c, ⟨0x0A, q, eS d, eSS b, 0, none⟩)
  | .ccancel a => some (.c, ⟨0x0B, q, eSS a, 0, 0, none⟩)
  | .cfence sc => some (.c, ⟨0x0C, q, eScope sc, 0, 0, none⟩)
  | .catom a b c xa => some (.c, ⟨0x10, q, eSS a, eSS b, eSS c, some (eXa xa)⟩)
  | .sat a b c x => some (.c, ⟨0x11, q, eSS a, eSS b, eSS c, some (eAt x 0)⟩)
  | .kvapp a b x => some (.c, ⟨0x18, q, eSS a, eSS b, x.field, x.ext⟩)
  | .kvrel a b => some (.c, ⟨0x19, q, eSS a, eSS b, 0, none⟩)
  | .kvpin a b => some (.c, ⟨0x1A, q, eSS a, eSS b, 0, none⟩)
  | .kvunpin a b => some (.c, ⟨0x1B, q, eSS a, eSS b, 0, none⟩)
  | .gbar g => some (.c, ⟨0x20, q, eGrp g, 0, 0, none⟩)
  | .xchg d b => some (.c, ⟨0x21, q, eV d, eVV b, 0, none⟩)
  | .xmax d => some (.c, ⟨0x22, q, eV d, 0, 0, none⟩)
  | .chsend a ch => some (.c, ⟨0x24, q, eVV a, eCh ch, 0, none⟩)
  | .chsendTry d b ch => some (.c, ⟨0x25, q, eP d, eVV b, eCh ch, none⟩)
  | .chrecv d ch => some (.c, ⟨0x26, q, eV d, eCh ch, 0, none⟩)
  | .chrecvTry d b ch => some (.c, ⟨0x27, q, eP d, eV b, eCh ch, none⟩)
  | .chalt d b => some (.c, ⟨0x28, q, eS d, eSS b, 0, none⟩)
  | .chaltTry d b => some (.c, ⟨0x29, q, eS d, eSS b, 0, none⟩)
  | .chgrant ch x => some (.c, ⟨0x2A, q, eCh ch, x.field, 0, x.ext⟩)
  | .chbind a ch => some (.c, ⟨0x2B, q, ePort a, eCh ch, 0, none⟩)
  | .chseal ch => some (.c, ⟨0x2C, q, eCh ch, 0, 0, none⟩)
  | .chack ch b => some (.c, ⟨0x2D, q, eCh ch, eSS b, 0, none⟩)
  | _ => none

/-- The fields of a tinker operation. -/
def encT : Instr → Option RawT
  | .tbr (.nz a x) => some ⟨0x38, 0, a, 0, 0, some x⟩
  | .tbr (.z a x) => some ⟨0x38, 0, a, 1, 0, some x⟩
  | .tbr (.al x) => some ⟨0x38, 0, 0, 2, 0, some x⟩
  | .tbr (.link a x) => some ⟨0x38, 0, a, 3, 0, some x⟩
  | .tbr (.ind a x) => some ⟨0x38, 0, a, 4, 0, some x⟩
  | .tCatom la a b c x => some ⟨0x68, la, a, b, c, some (eXa x)⟩
  | .tSat la a b c x => some ⟨0x69, la, a, b, c, some (eAt x 0)⟩
  | .tAdd a b c => some ⟨0x01, 0, a, b, c, none⟩
  | .tSub a b c => some ⟨0x02, 0, a, b, c, none⟩
  | .tSubImm a b imm => some ⟨0x02, 1, a, b, 0, some (eXi imm)⟩
  | .tAddi a b imm => some ⟨0x03, 0, a, b, 0, some (eXi imm)⟩
  | .tMul la a b c => some ⟨0x04, la, a, b, c, none⟩
  | .tMulImm la a b imm => some ⟨0x6A, la, a, b, 0, some (eXi imm)⟩
  | .tMulh la a b c => some ⟨0x05, la, a, b, c, none⟩
  | .tMulhImm la a b imm => some ⟨0x6B, la, a, b, 0, some (eXi imm)⟩
  | .tMulhW la a b c => some ⟨0x06, la, a, b, c, none⟩
  | .tMulhWImm la a b imm => some ⟨0x6C, la, a, b, 0, some (eXi imm)⟩
  | .tDiv la a b c => some ⟨0x07, la, a, b, c, none⟩
  | .tDivImm la a b imm => some ⟨0x6D, la, a, b, 0, some (eXi imm)⟩
  | .tDivW la a b c => some ⟨0x08, la, a, b, c, none⟩
  | .tDivWImm la a b imm => some ⟨0x6E, la, a, b, 0, some (eXi imm)⟩
  | .tRem la a b c => some ⟨0x09, la, a, b, c, none⟩
  | .tRemImm la a b imm => some ⟨0x6F, la, a, b, 0, some (eXi imm)⟩
  | .tRemW la a b c => some ⟨0x0A, la, a, b, c, none⟩
  | .tRemWImm la a b imm => some ⟨0x70, la, a, b, 0, some (eXi imm)⟩
  | .tAnd a b c => some ⟨0x0B, 0, a, b, c, none⟩
  | .tAndImm a b imm => some ⟨0x0B, 1, a, b, 0, some (eXi imm)⟩
  | .tOr a b c => some ⟨0x0C, 0, a, b, c, none⟩
  | .tOrImm a b imm => some ⟨0x0C, 1, a, b, 0, some (eXi imm)⟩
  | .tXor a b c => some ⟨0x0D, 0, a, b, c, none⟩
  | .tXorImm a b imm => some ⟨0x0D, 1, a, b, 0, some (eXi imm)⟩
  | .tAndn a b c => some ⟨0x0E, 0, a, b, c, none⟩
  | .tAndnImm a b imm => some ⟨0x0E, 1, a, b, 0, some (eXi imm)⟩
  | .tShl a b c => some ⟨0x0F, 0, a, b, c, none⟩
  | .tShlImm a b imm => some ⟨0x0F, 1, a, b, 0, some (eXi imm)⟩
  | .tShr a b c => some ⟨0x10, 0, a, b, c, none⟩
  | .tShrImm a b imm => some ⟨0x10, 1, a, b, 0, some (eXi imm)⟩
  | .tSar a b c => some ⟨0x11, 0, a, b, c, none⟩
  | .tSarImm a b imm => some ⟨0x11, 1, a, b, 0, some (eXi imm)⟩
  | .tRot a b c => some ⟨0x12, 0, a, b, c, none⟩
  | .tRotImm a b imm => some ⟨0x12, 1, a, b, 0, some (eXi imm)⟩
  | .tClz a b => some ⟨0x13, 0, a, b, 0, none⟩
  | .tPopc a b => some ⟨0x14, 0, a, b, 0, none⟩
  | .tMin a b c => some ⟨0x15, 0, a, b, c, none⟩
  | .tMinImm a b imm => some ⟨0x15, 1, a, b, 0, some (eXi imm)⟩
  | .tMinW a b c => some ⟨0x16, 0, a, b, c, none⟩
  | .tMinWImm a b imm => some ⟨0x16, 1, a, b, 0, some (eXi imm)⟩
  | .tMax a b c => some ⟨0x17, 0, a, b, c, none⟩
  | .tMaxImm a b imm => some ⟨0x17, 1, a, b, 0, some (eXi imm)⟩
  | .tMaxW a b c => some ⟨0x18, 0, a, b, c, none⟩
  | .tMaxWImm a b imm => some ⟨0x18, 1, a, b, 0, some (eXi imm)⟩
  | .tSel a b c d => some ⟨0x19, 0, a, b, c, some (eTsel d)⟩
  | .tLi a imm => some ⟨0x1A, 0, a, 0, 0, some (eXi imm)⟩
  | .tBfx a b f => some ⟨0x1C, 0, a, b, 0, some (eBf f)⟩
  | .tBfi a b f => some ⟨0x1D, 0, a, b, 0, some (eBf f)⟩
  | .tCmp cc a b c => some ⟨BitVec.ofNat 7 (0x20 + cc.code), 0, a, b, c, none⟩
  | .tCmpImm cc a b imm => some ⟨BitVec.ofNat 7 (0x20 + cc.code), 1, a, b, 0, some (eXi imm)⟩
  | .tcmpx la a b c => some ⟨0x30, la, a, b, c, none⟩
  | .texit a => some ⟨0x39, 0, a, 0, 0, none⟩
  | .twait a => some ⟨0x3A, 0, a, 0, 0, none⟩
  | .tsig a => some ⟨0x3B, 0, a, 0, 0, none⟩
  | .tld la t a b c => some ⟨BitVec.ofNat 7 (0x40 + t.code), la, a, b, c, none⟩
  | .tldImm la t a b imm => some ⟨BitVec.ofNat 7 (0x71 + t.code), la, a, b, 0, some (eXi imm)⟩
  | .tldSp la t a b c => some ⟨BitVec.ofNat 7 (0x48 + t.code), la, a, b, c, none⟩
  | .tldSpImm la t a b imm => some ⟨BitVec.ofNat 7 (0x78 + t.code), la, a, b, 0, some (eXi imm)⟩
  | .tst n a b c => some ⟨BitVec.ofNat 7 (0x50 + n.code), 0, a, b, c, none⟩
  | .tstImm n a b imm => some ⟨BitVec.ofNat 7 (0x50 + n.code), 1, a, b, 0, some (eXi imm)⟩
  | .tstSp n a b c => some ⟨BitVec.ofNat 7 (0x54 + n.code), 0, a, b, c, none⟩
  | .tstSpImm n a b imm => some ⟨BitVec.ofNat 7 (0x54 + n.code), 1, a, b, 0, some (eXi imm)⟩
  | .tstSpN4 a b imm => some ⟨0x58, 0, a, b, 0, some (eXi imm)⟩
  | .tacq la a sc => some ⟨0x60, la, a, eScope sc, 0, none⟩
  | .trel a sc => some ⟨0x61, 0, a, eScope sc, 0, none⟩
  | .tfence sc => some ⟨0x62, 0, eScope sc, 0, 0, none⟩
  | .tcache a op => some ⟨0x63, 0, a, eCop op, 0, none⟩
  | .spawn a b => some ⟨0x64, 0, a, b, 0, none⟩
  | .join a b => some ⟨0x65, 0, a, b, 0, none⟩
  | .steal la a b => some ⟨0x66, la, a, b, 0, none⟩
  | .tChsend a ch => some ⟨0x67, 0, a, eCh ch, 0, none⟩
  | _ => none

/-- The words of an operation: the slot word (under a predicate) or the tinker word, and its extension word. Events have none. -/
def encode (i : Instr) (q : Pred := 0) : List (BitVec 32) :=
  match encSlot q i with
  | some (_, r) => r.word :: r.ext.toList
  | none =>
    match encT i with
    | some r => r.word :: r.ext.toList
    | none => []

/-- The instruction the decoder reads from an opcode-table row's bits: the rows to which the table gives bits are tinker words,
so bits 31 to 0 are the tinker word and bits 63 to 32 the word after it. -/
def decodeTableWord (_nbits w : Nat) : Option Instr :=
  match decodeTinker (BitVec.ofNat 32 w) (BitVec.ofNat 32 (w / 2 ^ 32)) with
  | .ok i => some i
  | .error _ => none

end Sys2Proof
end

