-- ==== Sys2Proof/Machine/Numbers.lean ====
section
/-! DEFINITION. Number formats and rounding of 01_lane_numbers: exact values, R20 reading, R27 rounding, R24 minimum and maximum,
the correctly rounded unary functions of R50, the conversions of Table 1.10, block scales (R41 to R45) and the CRC of R227. -/
namespace Sys2Proof.Machine

/-! ### Flags (R33) -/

/-- A set of FPSTAT flags. -/
abbrev Flags := BitVec 8
def fNV : Flags := 1
def fDZ : Flags := 2
def fOF : Flags := 4
def fUF : Flags := 8
def fNX : Flags := 16
def fSAT : Flags := 32
def fDUNDER : Flags := 64
def fPSN : Flags := 128
/-- The flag when a condition holds. -/
def flagIf (c : Bool) (f : Flags) : Flags := if c then f else 0

/-! ### Exact values -/

/-- `(-1)^neg · m · 2^e`; `sticky` says that the magnitude lies strictly between `m · 2^e` and `(m+1) · 2^e`. -/
structure Exact where
  neg : Bool
  m : Nat
  e : Int
  sticky : Bool
  deriving DecidableEq, Repr

def Exact.zero (neg : Bool) : Exact := ⟨neg, 0, 0, false⟩
def Exact.isZero (x : Exact) : Bool := x.m == 0 && !x.sticky
def Exact.ofInt (i : Int) : Exact := ⟨i < 0, i.natAbs, 0, false⟩
def Exact.scale (x : Exact) (k : Int) : Exact := { x with e := x.e + k }
/-- `floor(log2 |x|)` of a nonzero value. -/
def Exact.log2 (x : Exact) : Int := (Nat.log2 x.m : Int) + x.e
/-- The value as an integer multiple of `2^k`, for `k ≤ x.e`. -/
def Exact.atScale (x : Exact) (k : Int) : Int :=
  let a : Int := (x.m * 2 ^ (x.e - k).toNat : Nat)
  if x.neg then -a else a
/-- Exact product (R23: the sign of a zero product is the exclusive-or). -/
def Exact.mul (x y : Exact) : Exact := ⟨x.neg != y.neg, x.m * y.m, x.e + y.e, (x.sticky || y.sticky) && !x.isZero && !y.isZero⟩
/-- Exact sum; `rdn` chooses the sign of an exact zero sum of opposite signs (R23). -/
def Exact.add (rdn : Bool) (x y : Exact) : Exact :=
  if x.isZero && y.isZero then Exact.zero (if x.neg == y.neg then x.neg else rdn)
  else if x.isZero then y
  else if y.isZero then x
  else
    let k := min x.e y.e
    let s := x.atScale k + y.atScale k
    if s = 0 then Exact.zero rdn else ⟨s < 0, s.natAbs, k, false⟩
def Exact.negate (x : Exact) : Exact := { x with neg := !x.neg }
/-- Comparison of exact values: the sign of `x - y`. -/
def Exact.cmp (x y : Exact) : Ordering :=
  let k := min x.e y.e
  compare (x.atScale k) (y.atScale k)

/-! ### Rounding modes -/

/-- The five modes of Table 1.4; SR carries its draw. -/
inductive Mode where
  | rne | rtz | rdn | rup | sr (draw : Nat)
  deriving DecidableEq, Repr

def Mode.isRdn : Mode → Bool
  | .rdn => true
  | _ => false

/-- Round a magnitude to a multiple of `2^ue` (R27): the count of units and whether it differs from the magnitude. -/
def roundUnits (md : Mode) (x : Exact) (ue : Int) : Nat × Bool :=
  if ue ≤ x.e then (x.m * 2 ^ (x.e - ue).toNat, x.sticky)
  else
    let sh := (ue - x.e).toNat
    let k := x.m / 2 ^ sh
    let r := x.m % 2 ^ sh
    let inexact := r ≠ 0 || x.sticky
    let k' := match md with
      | .rne => if 2 ^ sh < 2 * r || (2 * r == 2 ^ sh && (x.sticky || k % 2 == 1)) then k + 1 else k
      | .rtz => k
      | .rdn => if x.neg && inexact then k + 1 else k
      | .rup => if !x.neg && inexact then k + 1 else k
      | .sr d => (x.m * 2 ^ 16 / 2 ^ sh + d) / 2 ^ 16
    (k', inexact)

/-- Round to an integer, u = 1 (R37): the integer and whether it is inexact. -/
def roundInt (md : Mode) (x : Exact) : Int × Bool :=
  let (k, nx) := roundUnits md x 0
  (if x.neg then -(k : Int) else k, nx)

/-! ### Floating-point formats (Table 1.2) -/

inductive FFmt where
  | f32 | f16 | bf16 | e4m3 | e5m2
  deriving DecidableEq, Repr

def FFmt.fbits : FFmt → Nat
  | .f32 => 23
  | .f16 => 10
  | .bf16 => 7
  | .e4m3 => 3
  | .e5m2 => 2
def FFmt.ebits : FFmt → Nat
  | .f32 => 8
  | .f16 => 5
  | .bf16 => 8
  | .e4m3 => 4
  | .e5m2 => 5
def FFmt.bias : FFmt → Nat
  | .f32 => 127
  | .f16 => 15
  | .bf16 => 127
  | .e4m3 => 7
  | .e5m2 => 15
def FFmt.width (f : FFmt) : Nat := 1 + f.ebits + f.fbits
/-- FP8 values are never flushed (R22). -/
def FFmt.isFp8 : FFmt → Bool
  | .e4m3 => true
  | .e5m2 => true
  | _ => false
def FFmt.emin (f : FFmt) : Int := 1 - (f.bias : Int)
def FFmt.signBit (f : FFmt) : Nat := 2 ^ (f.ebits + f.fbits)
/-- The pattern of infinity without its sign; E4M3 has none and answers its extreme, 448 (Table 1.10). -/
def FFmt.infPat (f : FFmt) : Nat :=
  match f with
  | .e4m3 => 0x7E
  | _ => (2 ^ f.ebits - 1) * 2 ^ f.fbits
/-- The pattern of the largest finite magnitude. -/
def FFmt.maxPat (f : FFmt) : Nat :=
  match f with
  | .e4m3 => 0x7E
  | _ => f.infPat - 1
/-- The canonical NaN (R21, Table 1.3). -/
def FFmt.nanPat (f : FFmt) : Nat :=
  match f with
  | .e4m3 => 0x7F
  | _ => f.infPat + 2 ^ (f.fbits - 1)
def FFmt.signed (f : FFmt) (neg : Bool) (p : Nat) : Nat := if neg then f.signBit + p else p

/-- A floating-point operand as read. -/
inductive FVal where
  | nan (signalling : Bool)
  | inf (neg : Bool)
  | fin (x : Exact)
  deriving DecidableEq, Repr

/-- `fp_value` of R20, with E4M3's exception. -/
def FFmt.read (f : FFmt) (pat : Nat) : FVal :=
  let neg := pat / f.signBit % 2 == 1
  let E := pat / 2 ^ f.fbits % 2 ^ f.ebits
  let F := pat % 2 ^ f.fbits
  if E = 0 then .fin ⟨neg, F, f.emin - f.fbits, false⟩
  else if E = 2 ^ f.ebits - 1 ∧ f ≠ .e4m3 then
    if F = 0 then .inf neg else .nan (F / 2 ^ (f.fbits - 1) % 2 == 0)
  else if f = .e4m3 ∧ E = 15 ∧ F = 7 then .nan false
  else .fin ⟨neg, 2 ^ f.fbits + F, (E : Int) - f.bias - f.fbits, false⟩

/-- A subnormal pattern (R22). -/
def FFmt.isSubnormal (f : FFmt) (pat : Nat) : Bool :=
  pat / 2 ^ f.fbits % 2 ^ f.ebits == 0 && pat % 2 ^ f.fbits != 0

/-- Read an operand under FTZ: a subnormal is a zero of its sign (R22). -/
def FFmt.readZ (f : FFmt) (ftz : Bool) (pat : Nat) : FVal :=
  if ftz && !f.isFp8 && f.isSubnormal pat then .fin (Exact.zero (pat / f.signBit % 2 == 1)) else f.read pat

/-- A pattern and the flags its making raises. -/
abbrev Res := Nat × Flags

/-- The pattern of `k · 2^ue`, a value the format holds. -/
def FFmt.pack (f : FFmt) (neg : Bool) (k : Nat) (ue : Int) : Nat :=
  if k = 0 then f.signed neg 0
  else
    let L := (Nat.log2 k : Int) + ue
    if L < f.emin then f.signed neg (k * 2 ^ (ue - (f.emin - f.fbits)).toNat)
    else
      let sig := if Nat.log2 k ≤ f.fbits then k * 2 ^ (f.fbits - Nat.log2 k) else k / 2 ^ (Nat.log2 k - f.fbits)
      f.signed neg ((L + f.bias).toNat * 2 ^ f.fbits + (sig - 2 ^ f.fbits))

/-- Whether `k · 2^ue` is beyond the largest finite value. -/
def FFmt.tooBig (f : FFmt) (k : Nat) (ue : Int) : Bool :=
  if k = 0 then false
  else
    let L := (Nat.log2 k : Int) + ue
    match f with
    | .e4m3 => 8 < L || (L == 8 && (if ue ≤ 0 then 448 * 2 ^ (-ue).toNat < k else 448 < k * 2 ^ ue.toNat))
    | _ => (f.bias : Int) < L

/-- Table 1.5. -/
def FFmt.overflow (f : FFmt) (neg : Bool) (md : Mode) : Nat :=
  match md with
  | .rne | .sr _ => f.signed neg f.infPat
  | .rtz => f.signed neg f.maxPat
  | .rdn => f.signed neg (if neg then f.infPat else f.maxPat)
  | .rup => f.signed neg (if neg then f.maxPat else f.infPat)

/-- `round` of R27 to a floating-point format, with the flags of R27, R28 and, under `ftz`, the flush of R22. -/
def FFmt.round (f : FFmt) (ftz : Bool) (md : Mode) (x : Exact) : Res :=
  if x.isZero then (f.signed x.neg 0, 0)
  else
    let p : Int := f.fbits + 1
    let ue := max x.log2 f.emin - p + 1
    let (k, nx) := roundUnits md x ue
    if f.tooBig k ue then (f.overflow x.neg md, fOF ||| fNX)
    else
      let ueU := x.log2 - p + 1
      let (kU, _) := roundUnits md x ueU
      let tiny := kU == 0 || (Nat.log2 kU : Int) + ueU < f.emin
      if ftz && !f.isFp8 && k ≠ 0 && (Nat.log2 k : Int) + ue < f.emin then (f.signed x.neg 0, fUF ||| fNX)
      else (f.pack x.neg k ue, flagIf nx fNX ||| flagIf (tiny && nx) fUF)

/-- NV of a signalling NaN. -/
def FVal.snan : FVal → Flags
  | .nan s => flagIf s fNV
  | _ => 0
def FVal.isNan : FVal → Bool
  | .nan _ => true
  | _ => false

/-! ### Arithmetic (R21 to R24, R27, R50) -/

/-- Round a finite value, pass an infinity, give the canonical NaN. -/
def FFmt.finish (f : FFmt) (ftz : Bool) (md : Mode) (v : FVal) (fl : Flags) : Res :=
  match v with
  | .nan _ => (f.nanPat, fl)
  | .inf n => (f.signed n f.infPat, fl)
  | .fin x => let (p, g) := f.round ftz md x; (p, fl ||| g)

/-- Exact sum of two operands; `∞ - ∞` is invalid. -/
def addVal (md : Mode) (a b : FVal) : FVal × Flags :=
  let s := a.snan ||| b.snan
  match a, b with
  | .nan _, _ => (.nan false, s)
  | _, .nan _ => (.nan false, s)
  | .inf x, .inf y => if x == y then (.inf x, s) else (.nan false, s ||| fNV)
  | .inf x, .fin _ => (.inf x, s)
  | .fin _, .inf y => (.inf y, s)
  | .fin x, .fin y => (.fin (Exact.add md.isRdn x y), s)

/-- Exact product; `0 · ∞` is invalid. -/
def mulVal (a b : FVal) : FVal × Flags :=
  let s := a.snan ||| b.snan
  match a, b with
  | .nan _, _ => (.nan false, s)
  | _, .nan _ => (.nan false, s)
  | .inf x, .inf y => (.inf (x != y), s)
  | .inf x, .fin y => if y.isZero then (.nan false, s ||| fNV) else (.inf (x != y.neg), s)
  | .fin x, .inf y => if x.isZero then (.nan false, s ||| fNV) else (.inf (x.neg != y), s)
  | .fin x, .fin y => (.fin (x.mul y), s)

def FFmt.fadd (f : FFmt) (ftz : Bool) (md : Mode) (a b : Nat) : Res :=
  let (v, s) := addVal md (f.readZ ftz a) (f.readZ ftz b)
  f.finish ftz md v s
/-- Flip the sign of a value. -/
def FVal.negate : FVal → FVal
  | .nan s => .nan s
  | .inf n => .inf !n
  | .fin x => .fin x.negate
def FFmt.fsub (f : FFmt) (ftz : Bool) (md : Mode) (a b : Nat) : Res :=
  let (v, s) := addVal md (f.readZ ftz a) (f.readZ ftz b).negate
  f.finish ftz md v s
def FFmt.fmul (f : FFmt) (ftz : Bool) (md : Mode) (a b : Nat) : Res :=
  let (v, s) := mulVal (f.readZ ftz a) (f.readZ ftz b)
  f.finish ftz md v s
/-- `round(a · b + c)`, rounded once; `0 × ∞` is invalid whatever the addend (R50). -/
def FFmt.ffma (f : FFmt) (ftz : Bool) (md : Mode) (a b c : Nat) : Res :=
  let z := f.readZ ftz c
  let (p, s) := mulVal (f.readZ ftz a) (f.readZ ftz b)
  let (v, t) := addVal md p z
  f.finish ftz md v (s ||| t)

/-- minimumNumber and maximumNumber of R24; under FTZ a chosen subnormal is returned as the zero it was read as (R22). -/
def FFmt.minmax (f : FFmt) (ftz : Bool) (wantMax : Bool) (a b : Nat) : Res :=
  let va := f.readZ ftz a
  let vb := f.readZ ftz b
  let fl := va.snan ||| vb.snan
  let shown (p : Nat) : Nat := if ftz && !f.isFp8 && f.isSubnormal p then f.signed (p / f.signBit % 2 == 1) 0 else p
  if va.isNan && vb.isNan then (f.nanPat, fl)
  else if va.isNan then (shown b, fl)
  else if vb.isNan then (shown a, fl)
  else
    -- the patterns order as sign and magnitude, −0 below +0
    let key (p : Nat) : Int := if p / f.signBit % 2 = 1 then -((p % f.signBit : Nat) : Int) - 1 else ((p % f.signBit : Nat) : Int)
    let ka := key (shown a)
    let kb := key (shown b)
    (if wantMax then (if ka < kb then shown b else shown a) else (if kb < ka then shown b else shown a), fl)

/-- The sign of `a - b` for ordered operands, none when unordered. -/
def cmpVal (a b : FVal) : Option Ordering :=
  match a, b with
  | .nan _, _ => none
  | _, .nan _ => none
  | .inf x, .inf y => some (if x == y then .eq else if x then .lt else .gt)
  | .inf x, .fin _ => some (if x then .lt else .gt)
  | .fin _, .inf y => some (if y then .gt else .lt)
  | .fin x, .fin y => some (x.cmp y)

/-- Floating-point conditions with their NV rule (Table 4.5). -/
def FFmt.fcmp (f : FFmt) (ftz : Bool) (cc : FCond) (a b : Nat) : Bool × Flags :=
  let va := f.readZ ftz a
  let vb := f.readZ ftz b
  let o := cmpVal va vb
  let s := va.snan ||| vb.snan
  let q := flagIf o.isNone fNV
  match cc with
  | .eq => (o == some .eq, s)
  | .ne => (o != some .eq, s)
  | .lt => (o == some .lt, s ||| q)
  | .le => (o == some .lt || o == some .eq, s ||| q)
  | .gt => (o == some .gt, s ||| q)
  | .ge => (o == some .gt || o == some .eq, s ||| q)
  | .un => (o.isNone, s)
  | .or => (o.isSome, s)

/-! ### Unary functions (R148, Table 5.4)

Reciprocal and reciprocal root are found exactly with a sticky remainder. `2^x` and `log2 x` of arguments with an irrational
result are found to about 240 fractional bits, far below the distance at which any argument of these formats could lie from a
rounding boundary (log 16). -/

/-- The integer square root, bit by bit from `2^b` down. -/
def isqrtFrom (x : Nat) : Nat → Nat → Nat
  | 0, r => if (r + 1) * (r + 1) ≤ x then r + 1 else r
  | b + 1, r => isqrtFrom x b (if (r + 2 ^ (b + 1)) * (r + 2 ^ (b + 1)) ≤ x then r + 2 ^ (b + 1) else r)
def isqrt (x : Nat) : Nat := isqrtFrom x (Nat.log2 x / 2 + 1) 0

/-- `1 / x` of a nonzero exact value. -/
def Exact.recip (x : Exact) : Exact :=
  let n := Nat.log2 x.m + 100
  ⟨x.neg, 2 ^ n / x.m, -(n : Int) - x.e, 2 ^ n % x.m != 0⟩
/-- `1 / sqrt x` of a positive exact value. -/
def Exact.rsqrt (x : Exact) : Exact :=
  let odd := x.e % 2 != 0
  let m := if odd then 2 * x.m else x.m
  let e := if odd then x.e - 1 else x.e
  let n := Nat.log2 m + 100
  let r := isqrt (2 ^ (2 * n) / m)
  ⟨false, r, -(n : Int) - e / 2, r * r * m != 2 ^ (2 * n)⟩

/-- Fractional bits of the series. -/
def seriesBits : Nat := 288
/-- `floor(ln 2 · 2^288)`. -/
def ln2Fixed : Nat := 344718199144390748903529588068498589778943173760985251235683909293519817958385383929376
/-- `exp` of a fixed-point argument below 1, by its series: `term` is the last term added, `n` the index after it. -/
def expSeries (x : Nat) : Nat → Nat → Nat → Nat → Nat
  | 0, _, _, acc => acc
  | fuel + 1, n, term, acc =>
    let t := term * x / 2 ^ seriesBits / n
    expSeries x fuel (n + 1) t (acc + t)
/-- `2^x` of a finite value. -/
def Exact.exp2 (x : Exact) : Exact :=
  if x.isZero then ⟨false, 1, 0, false⟩
  else if 12 ≤ x.log2 then ⟨false, 1, if x.neg then -8192 else 8192, x.neg⟩
  else
    let k := min x.e 0
    let v := x.atScale k
    let d : Nat := 2 ^ (-k).toNat
    let i := v / (d : Int)
    let fr := (v % (d : Int)).toNat
    if fr = 0 then ⟨false, 1, i, false⟩
    else
      let arg := fr * ln2Fixed / d
      ⟨false, expSeries arg 80 1 (2 ^ seriesBits) (2 ^ seriesBits), i - seriesBits, true⟩
/-- The series of `atanh z / z` by powers of `z²`. -/
def atanhSeries (z2 : Nat) : Nat → Nat → Nat → Nat → Nat
  | 0, _, _, acc => acc
  | fuel + 1, n, pow, acc =>
    let p := pow * z2 / 2 ^ seriesBits
    atanhSeries z2 fuel (n + 2) p (acc + p / n)
/-- `log2 x` of a positive finite value. -/
def Exact.flog2 (x : Exact) : Exact :=
  let L := x.log2
  if x.m = 2 ^ Nat.log2 x.m then Exact.ofInt L
  else
    let w := Nat.log2 x.m
    let y := if w ≤ seriesBits then x.m * 2 ^ (seriesBits - w) else x.m / 2 ^ (w - seriesBits)
    let one : Nat := 2 ^ seriesBits
    let z := (y - one) * one / (y + one)
    let ln := 2 * atanhSeries (z * z / one) 100 3 z z
    let fr : Int := ln * one / ln2Fixed
    let v := L * one + fr
    if v < 0 then ⟨true, (v + 1).natAbs, -(seriesBits : Int), true⟩ else ⟨false, v.natAbs, -(seriesBits : Int), true⟩

/-- The unary functions of Table 5.4. -/
inductive UFun where
  | rcp | rsq | exp2 | log2
  deriving DecidableEq, Repr

def FFmt.unary (f : FFmt) (ftz : Bool) (md : Mode) (u : UFun) (a : Nat) : Res :=
  let v := f.readZ ftz a
  match u, v with
  | _, .nan s => (f.nanPat, flagIf s fNV)
  | .rcp, .inf n => (f.signed n 0, 0)
  | .rcp, .fin x => if x.isZero then (f.signed x.neg f.infPat, fDZ) else f.round ftz md x.recip
  | .rsq, .inf n => if n then (f.nanPat, fNV) else (0, 0)
  | .rsq, .fin x =>
    if x.isZero then (f.signed x.neg f.infPat, fDZ) else if x.neg then (f.nanPat, fNV) else f.round ftz md x.rsqrt
  | .exp2, .inf n => if n then (0, 0) else (f.infPat, 0)
  | .exp2, .fin x => f.round ftz md x.exp2
  | .log2, .inf n => if n then (f.nanPat, fNV) else (f.infPat, 0)
  | .log2, .fin x =>
    if x.isZero then (f.signed true f.infPat, fDZ) else if x.neg then (f.nanPat, fNV) else f.round ftz md x.flog2

/-! ### Conversions (R37, Table 1.10) -/

/-- What a type code is: an integer of a width, a float, or a fixed-point format with its step's exponent. -/
inductive TyKind where
  | int (signed : Bool) (w : Nat)
  | flt (f : FFmt)
  | fix (w : Nat) (frac : Nat)
  deriving DecidableEq, Repr

def tyKind : NumTy → TyKind
  | .i8 => .int true 8
  | .i16 => .int true 16
  | .i32 => .int true 32
  | .i64 => .int true 64
  | .w8 => .int false 8
  | .w16 => .int false 16
  | .w32 => .int false 32
  | .f32 => .flt .f32
  | .bf16 => .flt .bf16
  | .f16 => .flt .f16
  | .e4m3 => .flt .e4m3
  | .e5m2 => .flt .e5m2
  | .q15 => .fix 16 15
  | .q78 => .fix 16 8
  | .q1616 => .fix 32 16

def intMin (signed : Bool) (w : Nat) : Int := if signed then -(2 ^ (w - 1) : Nat) else 0
def intMax (signed : Bool) (w : Nat) : Int := if signed then (2 ^ (w - 1) : Nat) - 1 else (2 ^ w : Nat) - 1
/-- `sat_i` and `sat_w` of R18. -/
def clampInt (lo hi x : Int) : Int := max lo (min hi x)
/-- The least pattern value of a fixed-point format; Q7.8 never produces 0x8000 (R39). -/
def fixMin (w frac : Nat) : Int := if frac = 8 then -32767 else -(2 ^ (w - 1) : Nat)
def fixMax (w : Nat) : Int := (2 ^ (w - 1) : Nat) - 1

/-- Clamp and wrap, with the flag a clamp raises or the flag of an inexact in-range result. -/
def narrow (w : Nat) (lo hi : Int) (onClamp : Flags) (r : Int × Bool) : Res :=
  if r.1 < lo ∨ hi < r.1 then (wrapNat w (clampInt lo hi r.1), onClamp) else (wrapNat w r.1, flagIf r.2 fNX)

/-- The exact value of an integer or fixed-point pattern. -/
def TyKind.exact : TyKind → Nat → Exact
  | .int s w, p => Exact.ofInt (if s then sextNat w p else (p % 2 ^ w : Nat))
  | .fix w fr, p => (Exact.ofInt (sextNat w p)).scale (-(fr : Int))
  | .flt _, _ => Exact.zero false

/-- Convert one pattern (Table 1.10). `sat` chooses saturation between integer types (R18). -/
def convert (src dst : NumTy) (ftz sat : Bool) (md : Mode) (p : Nat) : Res :=
  match tyKind src, tyKind dst with
  | .flt f, .flt g =>
    let v := f.readZ ftz p
    match v with
    | .nan s => (g.nanPat, flagIf s fNV)
    | .inf n => (g.signed n g.infPat, flagIf (g == .e4m3) fNV)
    | .fin x => g.round ftz md x
  | .flt f, .int s w =>
    match f.readZ ftz p with
    | .nan _ => (0, fNV)
    | .inf n => (wrapNat w (if n then intMin s w else intMax s w), fNV)
    | .fin x => narrow w (intMin s w) (intMax s w) fNV (roundInt md x)
  | .flt f, .fix w fr =>
    match f.readZ ftz p with
    | .nan _ => (0, fNV)
    | .inf n => (wrapNat w (if n then fixMin w fr else fixMax w), fSAT ||| fNV)
    | .fin x => narrow w (fixMin w fr) (fixMax w) fSAT (roundInt md (x.scale fr))
  | .int s v, .int t w =>
    let x : Int := if s then sextNat v p else (p % 2 ^ v : Nat)
    if sat then narrow w (intMin t w) (intMax t w) fSAT (x, false) else (wrapNat w x, 0)
  | .fix v fr, .int t w => narrow w (intMin t w) (intMax t w) fSAT (roundInt md ((TyKind.fix v fr).exact p))
  | k, .fix w fr => narrow w (fixMin w fr) (fixMax w) fSAT (roundInt md ((k.exact p).scale fr))
  | k, .flt g => g.round ftz md (k.exact p)

/-! ### Key order (R163) -/

/-- The key of a floating-point pattern: every NaN above +∞, equal among themselves; a subnormal as itself, whatever FPCTL.FTZ (DESIGN CHOICE, log 43). -/
def FFmt.sortKey (f : FFmt) (p : Nat) : Int :=
  if (f.read p).isNan then (2 * f.signBit : Nat)
  else if p / f.signBit % 2 = 1 then -((p % f.signBit : Nat) : Int) - 1 else ((p % f.signBit : Nat) : Int)

/-! ### Block scales and elements (R41 to R45) -/

/-- A BS16 scale of e = 0 (R41). -/
def bsZero (s : Nat) : Bool := s / 256 % 256 == 0
/-- A BS16 scale of e = 255 (R41). -/
def bsPoisoned (s : Nat) : Bool := s / 256 % 256 == 255
/-- The value of any other scale. -/
def bsValue (s : Nat) : Exact := ⟨false, 256 + s % 256, (s / 256 % 256 : Nat) - 127 - 8, false⟩

/-- The log2 of the element divisor (Table 1.15). -/
def mxDivLog : MxFmt → Nat
  | .mxint8 => 6
  | .mxint6 => 4
  | .mxint4 => 2
  | .mxp4 => 6
def mxBits : MxFmt → Nat
  | .mxint8 => 8
  | .mxint6 => 6
  | .mxint4 => 4
  | .mxp4 => 4
/-- Bytes of a packed block (Table 1.15). -/
def mxBlockBytes (f : MxFmt) : Nat := 4 * mxBits f + 2

/-- The integer an element pattern stands for; MXP4 reads the pattern book. -/
def mxInt (book : List (BitVec 8)) (f : MxFmt) (p : Nat) : Int :=
  match f with
  | .mxp4 => (book.getD (p % 16) 0).toInt
  | _ => sextNat (mxBits f) p

/-- The element value `(e / d) · S` of a usable scale. -/
def mxValue (book : List (BitVec 8)) (f : MxFmt) (s p : Nat) : Exact :=
  ((Exact.ofInt (mxInt book f p)).scale (-(mxDivLog f : Int))).mul (bsValue s)

/-- `x / y` of an exact value by a nonzero one, truncated far below any unit that is rounded to. -/
def Exact.quot (x y : Exact) : Exact :=
  let n := Nat.log2 y.m + 100
  ⟨x.neg != y.neg, x.m * 2 ^ n / y.m, x.e - y.e - n, x.m * 2 ^ n % y.m != 0⟩

/-- The MXP4 code nearest to `v`, the lowest on a tie, over codes below `c` (R45). -/
def nearestCode (book : List (BitVec 8)) (s : Nat) (v : Exact) : Nat → Nat
  | 0 => 0
  | c + 1 =>
    let best := nearestCode book s v c
    let dist (k : Nat) : Exact := { Exact.add false (mxValue book .mxp4 s k) v.negate with neg := false }
    if (dist c).cmp (dist best) == .lt then c else best

/-- The codes whose entries are least and greatest, the lowest on a tie. -/
def bookExtreme (book : List (BitVec 8)) (wantMax : Bool) : Nat → Nat
  | 0 => 0
  | c + 1 =>
    let best := bookExtreme book wantMax c
    let a := mxInt book .mxp4 c
    let b := mxInt book .mxp4 best
    if (if wantMax then b < a else a < b) then c else best

/-- `quant_elem` of R45. -/
def quantElem (book : List (BitVec 8)) (v : FVal) (s : Nat) (f : MxFmt) (md : Mode) : Res :=
  let b := mxBits f
  if bsZero s || bsPoisoned s then (0, 0)
  else match v with
    | .nan _ => (0, fNV)
    | .inf n =>
      (match f with
       | .mxp4 => bookExtreme book (!n) 16
       | _ => wrapNat b (if n then intMin true b else intMax true b), fNV ||| fSAT)
    | .fin x =>
      match f with
      | .mxp4 =>
        let c := nearestCode book s x 16
        let lo := mxValue book f s (bookExtreme book false 16)
        let hi := mxValue book f s (bookExtreme book true 16)
        (c, if x.cmp lo == .lt || x.cmp hi == .gt then fSAT else flagIf ((mxValue book f s c).cmp x != .eq) fNX)
      | _ => narrow b (intMin true b) (intMax true b) fSAT
               (if x.isZero then (0, false) else roundInt md ((x.scale (mxDivLog f)).quot (bsValue s)))

/-- The scale VMXEXP chooses for a set of operands (R151): the pattern and whether NV is raised. -/
def chooseScale (head : Bool) (vs : List FVal) : Nat × Bool :=
  if vs.any (fun v => match v with | .fin _ => false | _ => true) then (0xFF00, true)
  else
    let es := vs.filterMap fun v => match v with | .fin x => if x.isZero then none else some x.log2 | _ => none
    match es with
    | [] => (0, false)
    | e :: rest => ((clampInt 1 254 (rest.foldl max e + 127 + (if head then 1 else 0))).toNat * 256, false)

/-! ### Check values (R227) -/

/-- One bit of CRC-16/T10-DIF, most significant first. -/
def crcStep (c : Nat) : Nat := if c / 0x8000 % 2 = 1 then (2 * c % 0x10000) ^^^ 0x8BB7 else 2 * c
def crcByte (c : Nat) (b : BitVec 8) : Nat :=
  crcStep (crcStep (crcStep (crcStep (crcStep (crcStep (crcStep (crcStep (c ^^^ (b.toNat * 256)))))))))
/-- CRC-16/T10-DIF of bytes in increasing address order. -/
def crc16 (bs : List (BitVec 8)) : Nat := bs.foldl crcByte 0

end Sys2Proof.Machine
end

