-- ==== Sys2Proof/Machine/Store.lean ====
section
/-! DEFINITION. Sparse data by key: a list of key and value pairs with strictly rising keys and no entry equal to what an unlisted key reads as. -/
namespace Sys2Proof.Machine

/-- What a key reads as. -/
def sget {α : Type} (d : α) : List (Nat × α) → Nat → α
  | [], _ => d
  | (k, v) :: rest, a => if a = k then v else if a < k then d else sget d rest a

/-- Write a key; writing what an unlisted key reads as removes the entry. -/
def sput {α : Type} [DecidableEq α] (d : α) : List (Nat × α) → Nat → α → List (Nat × α)
  | [], a, x => if x = d then [] else [(a, x)]
  | (k, v) :: rest, a, x =>
    if a < k then (if x = d then (k, v) :: rest else (a, x) :: (k, v) :: rest)
    else if a = k then (if x = d then rest else (a, x) :: rest)
    else (k, v) :: sput d rest a x

/-- The keys rise strictly, from above `lo`, and no entry holds the default. -/
def swfFrom {α : Type} [DecidableEq α] (d : α) : Option Nat → List (Nat × α) → Bool
  | _, [] => true
  | lo, (k, v) :: rest => (match lo with | none => true | some l => decide (l < k)) && decide (v ≠ d) && swfFrom d (some k) rest

/-- The canonical form. -/
def swf {α : Type} [DecidableEq α] (d : α) (l : List (Nat × α)) : Bool := swfFrom d none l

/-- Drop every entry whose key lies in `[lo, hi)`. -/
def sclear {α : Type} (lo hi : Nat) (l : List (Nat × α)) : List (Nat × α) :=
  l.filter fun e => !(decide (lo ≤ e.1) && decide (e.1 < hi))

/-- A set of numbers as a strictly rising list. -/
def nput : List Nat → Nat → List Nat
  | [], a => [a]
  | k :: rest, a => if a < k then a :: k :: rest else if a = k then k :: rest else k :: nput rest a
def ndel (l : List Nat) (a : Nat) : List Nat := l.filter (· ≠ a)

end Sys2Proof.Machine
end

