-- ==== Sys2Proof/Machine/CoreState.lean ====
section
/-! DEFINITION. The state of one compute core: the registers of Table 2.1 and Table 2.2, results in flight, the sequencer, the trap state,
the copy engines, the stream ports, the channel endpoints and the tinker threads. All of it plain data. -/
namespace Sys2Proof.Machine

/-- A hoop register (Table 2.13). -/
structure Hoop where
  base : Nat
  lines : Nat
  count : Nat
  head : Nat
  tail : Nat
  fill : Nat
  valid : Bool
  deriving DecidableEq, Repr

/-- A valid node of a token tree (R189). -/
structure TreeNode where
  parent : Nat
  token : Nat
  deriving DecidableEq, Repr

/-- A token tree: its valid nodes by index, and its committed length (R189). -/
structure Tree where
  nodes : List (Nat × TreeNode)
  cl : Nat
  deriving DecidableEq, Repr

/-- The special registers of Table 2.2 that hold state. -/
structure Special where
  xcause : Word
  xvalue : Word
  xpc : Word
  xstat : Word
  fpctl : Word
  fpstat : BitVec 8
  srseed : BitVec 32
  scalel : BitVec 16
  wconf : Bool
  compat : Bool
  preen : Bool
  handler : Bool
  clk : Word
  rank : Word
  coord : Word
  slice : Vector Word 8
  resAdv : Word
  resUsed : Word
  resDenyBank : Word
  resDenyNet : Word
  resDenyPwr : Word
  ttbase : Vector (BitVec 32) 4
  svpad : BitVec 17
  deriving DecidableEq, Repr

/-- Where a primary result lands (R57). -/
inductive Dest where
  | s (r : SReg) | v (r : VReg) | dir (r : DReg) | norm (r : DReg) | m (r : MReg) | p (r : Pred) | w (r : WReg) | scalel
  | nowhere
  /-- the end of a matrix operation: an error of its operands is raised when it is due, MDRAIN's flags one issue cycle before (R207, R212) -/
  | matrix
  deriving DecidableEq, Repr

/-- A primary result in flight. The list of flights stands in issue order, and within one bundle in slot order. -/
structure Flight where
  dest : Dest
  value : Nat
  /-- bits of `value` that are written -/
  mask : Nat
  /-- issue cycle in which it lands -/
  due : Nat
  issued : Nat
  slot : Slot
  /-- it is its instruction's first destination and enters the slot's latch -/
  latch : Bool
  flags : Flags
  /-- the cause raised at landing: 0x0E or 0x0F when an uncorrectable word or a check-value mismatch was read, 0x0B for a deferred FPTRAP, else 0 -/
  pend : Nat
  addr : Nat
  /-- it is to be pushed through a write-bound stream port -/
  push : Bool
  deriving DecidableEq, Repr

/-- One loop level (R128). `body` lists the headers of the body fetched in the first pass, none from the second on. -/
structure Loop where
  start : Nat
  stop : Nat
  left : Nat
  body : Option (List Nat)
  deriving DecidableEq, Repr

/-- A capture record (Table 9.4). -/
structure Capture where
  valid : Bool
  pred : Bool
  popd : Nat
  norms : List Nat
  ops : List Nat
  deriving DecidableEq, Repr

/-- A unit of a read-bound port as its fill read it (R171): its number, data, issue cycle, and the error the fill met (R71, R72). -/
structure Fill where
  unit : Nat
  data : Nat
  cycle : Nat
  pend : Nat
  addr : Nat
  deriving DecidableEq, Repr

/-- What a stream port is bound to (R77). -/
inductive Binding where
  /-- a private copy of a walk record, its direction, the next unit, and for a read port the units filled and the next to fill of the first 8 -/
  | walk (write : Bool) (rec : BitVec 512) (unit : Nat) (filled : List Fill) (fillNext : Nat)
  | chan (ch : Chan)
  deriving DecidableEq, Repr

/-- An entry of the adapter handle table (Table 7.5). -/
structure Handle where
  addr : Nat
  fmt : Nat
  valid : Bool
  scale : Nat
  owner : Nat
  deriving DecidableEq, Repr

/-- Bytes to be written to memory: an address, the byte, and the bits of it that are written (R70). -/
abbrev PutByte := Nat × Byte × Byte

/-- A memory effect of a primary instruction, performed in the write phase of its issue cycle (R61). -/
inductive WOp where
  | put (bytes : List PutByte)
  /-- SAT at a device-wide memory key, with the flight that receives the old value -/
  | sat (key : Nat) (x : AtX) (b a : Nat) (issued : Nat) (slot : Slot)
  | carm (key : Nat) (target gen : Nat)
  deriving DecidableEq, Repr

/-- A copy command's data (R215, R217), and a porter program's deal (R324). -/
inductive CmdKind where
  | cpy | cgath (index : BitVec 512) | cscat (index : BitVec 512) | cfill (value : Nat)
  | cprom (va len urg : Nat) | cdemo (va len urg fmt : Nat)
  | catom (x : AtX) (scope : Scope) (rec va operand swapVal : Nat)
  | kvapp (ref desc : Nat) | kvrel (ref : Nat) | kvpin (ref : Nat) | kvunpin (ref : Nat)
  | cfence (scope : Scope)
  | cdeal (pat arr : Nat)
  deriving DecidableEq, Repr

/-- A tile on its way into a hoop (R216): the ring when its first byte came, whether the ring was replaced since, the bytes so far,
the tenant tag under which each byte was read, and by line the check-value difference it travelled with (R228). -/
structure TileBuf where
  ring : Hoop
  stale : Bool
  bytes : List Byte
  tags : List Nat
  cvs : List (Nat × Nat)
  deriving DecidableEq, Repr

/-- A command in an engine's queue, or a step of a porter run: its identifier, kind, walks, arrival word (a device-wide memory key), progress,
and what it waits for. -/
structure Cmd where
  id : Nat
  kind : CmdKind
  dst : BitVec 512
  src : BitVec 512
  arrival : Option Nat
  started : Bool
  /-- bytes moved so far, in walk order -/
  off : Nat
  /-- bytes of the whole command -/
  total : Nat
  /-- bytes counted -/
  bytes : Nat
  /-- the commands that must have completed before it starts -/
  after : List Nat
  fault : Option Nat
  handler : Bool
  /-- issue cycle, and the clock cycle from which sources are read (R389) -/
  ic : Nat
  ready : Nat
  /-- tiles being assembled, by destination core -/
  tiles : List (Nat × TileBuf)
  /-- lines owned and not yet written -/
  owned : Nat
  /-- an operation without elements has been performed -/
  finished : Bool
  /-- of a deal, the bytes dealt so far to each receiving core, by its place in the pattern (R324) -/
  dealt : List (Nat × Nat)
  deriving DecidableEq, Repr

/-- The status an engine keeps of a finished command (R221). -/
structure CmdStatus where
  id : Nat
  faulted : Bool
  code : Nat
  bytes : Nat
  deriving DecidableEq, Repr

/-- A copy engine (R215). `history` holds the last command that finished under each identifier. -/
structure Engine where
  queue : List Cmd
  nextQ : Nat
  history : List CmdStatus
  deriving DecidableEq, Repr

/-- A copy fault not yet reported (R220): the command, its code and its arrival word. -/
structure CopyFault where
  id : Nat
  code : Nat
  arrival : Option Nat
  deriving DecidableEq, Repr

/-- An entry of the release queue (R133). -/
structure Release where
  addr : Nat
  scope : Scope
  /-- issue cycle and clock before which it may not be performed -/
  notBefore : Nat
  /-- commands that must have completed -/
  cmds : List Nat
  /-- a tinker's TREL or TEXIT, by its thread -/
  thread : Option Nat
  deriving DecidableEq, Repr

/-- A tile forwarded over the timed plane (R208): its source, the clock cycle before which it is not complete, and what it carries. -/
structure Forward where
  source : Nat
  at_ : Nat
  hoop : HReg
  tile : List Byte
  shadows : List Nat
  /-- the scratchpad address to which it goes uncounted, its ring having been replaced (R221) -/
  stale : Option Nat
  deriving DecidableEq, Repr

/-- A channel endpoint (R290, R292). -/
structure Endpoint where
  config : Nat
  /-- the resolved peer: core, with its launch from bit 11 on, and endpoint -/
  peer : Option (Nat × Nat)
  msgs : List Nat
  grantOut : Nat
  sealed : Bool
  sendAllow : Nat
  resend : List Nat
  retained : List Nat
  /-- messages of the resend queue that the allowances come since let go (R297) -/
  again : Nat
  /-- messages refused while the context of a receive endpoint was saved (R274, log 35) -/
  refused : Nat
  deriving DecidableEq, Repr

/-- What a tinker thread is doing (Table 8.1). -/
inductive TStatus where
  | dead | ready | parked (code reason addr : Nat) (reported : Bool)
  deriving DecidableEq, Repr

/-- A tinker operation that completes at no fixed time, with how far it is. -/
inductive TWaitKind where
  /-- TREL, and TEXIT (`exit`): the flag word, if there is an add, and whether the add is in the release queue -/
  | release (exit : Bool) (flag : Option Nat) (sc : Scope) (queued : Bool)
  | fence
  | cache (op : CacheOp) (line : Nat)
  | load (t : LdTy) (a : TOp) (va : Nat)
  | store (n : Nat) (va value : Nat)
  | atomic (x : AtX) (a : TOp) (va operand swapVal : Nat)
  /-- with the frame's old PC and the fault after which it is undone -/
  | spawn (frame pc : Nat) (phase : Nat) (job old code : Nat)
  /-- with the new JOINCNT and the fault after which it is undone -/
  | join (frame : Nat) (b : TOp) (phase job cnt code : Nat)
  | steal (a : TOp) (level : Nat)
  deriving DecidableEq, Repr

/-- An operation of a thread that has not completed: when it is marked L the operations that may pass it, its destinations,
the bytes it accesses (space, address, length), and the clock cycle in which it completes if that is fixed. -/
structure TPending where
  seq : Nat
  l : Bool
  la : Nat
  dests : List Nat
  mem : Option (Bool × Nat × Nat)
  due : Option Nat
  kind : Option TWaitKind
  pc : Nat
  /-- the window's base, and whether its thread was killed since (R140) -/
  base : Nat
  orphan : Bool
  /-- the order of issue: clock cycle, then slot (R232) -/
  order : Nat
  deriving DecidableEq, Repr

/-- A tinker thread (R229, R230, R247). `fetched` is the next operation's words. -/
structure Thread where
  status : TStatus
  pc : Nat
  base : Nat
  size : Nat
  count : Nat
  fetched : Option (BitVec 32 × BitVec 32)
  seq : Nat
  pend : List TPending
  /-- clock cycle before which it may not issue -/
  notBefore : Nat
  deriving DecidableEq, Repr

/-- A tinker result in flight (R231, R232): file entry, value, clock cycle of landing, thread, and the order of issue. The list of them stands in
that order. -/
structure TFlight where
  entry : Nat
  value : Word
  due : Nat
  thread : Nat
  order : Nat
  deriving DecidableEq, Repr

/-- A line of the tinker cache (R241): its device virtual line address, 64 bytes, dirty mask and check difference, and whether its page permits
reads and writes. -/
structure CacheLine where
  line : Nat
  data : Nat
  dirty : Nat
  cv : Nat
  rd : Bool
  wr : Bool
  deriving DecidableEq, Repr

/-- An entry of a fork-join queue (R254): a frame address with the space and tenant of its launch. -/
structure QEntry where
  frame : Nat
  space : Nat
  tenant : Nat
  deriving DecidableEq, Repr

/-- An effect of an instruction that takes place from a later issue cycle on. -/
inductive Act where
  | special (r : SpecialReg) (v : Word)
  | tree (k : TReg) (t : Tree)
  | ttbase (k : TReg) (b : BitVec 32)
  | book (b : List Byte) (slot : Slot) (issued : Nat)
  | bind (p : Port) (b : Binding)
  | unbind (p : Port)
  | accs (vals : List (Nat × Nat)) (slot : Slot)
  | accZero (first n : Nat)
  | pop (h : HReg) (n : Nat)
  | transOut (h : HReg) (tile : List Byte) (shadows : List Nat)
  | hoop (h : HReg) (d : Hoop)
  | create (t : Fin 64) (pc base size : Nat)
  | kill (t : Option (Fin 64))
  | grant (c : Chan) (n : Nat)
  | seal (c : Chan)
  | ack (c : Chan) (tag : Nat)
  | cancel (id : Nat)
  | pvWord (v : Nat)
  deriving DecidableEq, Repr

/-- A cause waiting for a boundary (R258, R260). -/
structure Cause where
  code : Nat
  value : Nat
  land : Bool
  deriving DecidableEq, Repr

/-- What a violation of a core records (Table 9.10). -/
structure Violation where
  kind : Nat
  slot : Nat
  thread : Nat
  handle : Nat
  tag : Nat
  shadow : Nat
  owner : Nat
  addr : Nat
  deriving DecidableEq, Repr

/-- What considering one slot of the bundle due found. -/
structure Looked where
  slot : Slot
  illop : List (Nat × Nat × Nat)
  sched : List (Nat × Nat)
  traps : List (Nat × Nat × Nat)
  atOnce : Bool
  violation : Option Violation
  wait : Option Nat
  demand : List (Nat × Bool × Nat)
  msgPath : List Nat
  results : Nat
  capture : Capture
  /-- destinations with latencies, for the L4 scoreboard -/
  writes : List (Dest × Nat)
  reads : List Nat
  accs : List (Nat × Nat)
  hoops : List Nat
  /-- a group operation: its kind (0 GBAR, 1 XCHG, 2 XMAX) and its literal (R285) -/
  group : Option (Nat × Nat)
  /-- a CHGRANT: endpoint and number -/
  grant : Option (Nat × Nat)
  /-- the endpoints a CHSEAL seals -/
  seals : List Nat
  /-- the endpoint a CHALT selects (R299) -/
  pick : Option Nat
  /-- results that go out through write-bound ports: port and latency (R172) -/
  pushes : List (Nat × Nat)
  /-- ports it binds anew or unbinds -/
  rebinds : List Nat
  deriving DecidableEq, Repr

/-- Messages that a slot of the bundle due takes from an endpoint: a CHRECV, or a pop of a port (R300). -/
structure Take where
  ch : Nat
  n : Nat
  port : Option Nat
  deriving DecidableEq, Repr

/-- How far a core is through its launch (R130, R277). -/
inductive RunState where
  | idle | running | halted | complete
  /-- frozen, and whether its program had halted -/
  | frozen (v : Violation) (halted : Bool)
  deriving DecidableEq, Repr

/-- The matrix operation in its beats (R206). -/
structure MatBusy where
  /-- issue cycle from which the M slot is free -/
  free : Nat
  /-- accumulators it reads or writes, and hoops it names -/
  accs : List (Nat × Nat)
  hoops : List Nat
  deriving DecidableEq, Repr

/-- The state kept while the handler runs (R263, R266). -/
structure Saved where
  /-- the issue cycle of the boundary -/
  at_ : Nat
  pc : Nat
  owed : Nat
  transfers : List (Nat × Nat)
  loops : List Loop
  replay : List Flight
  matrix : Option MatBusy
  /-- issue cycles in which the message path is reserved (R283) -/
  msgPath : List Nat
  deriving DecidableEq, Repr

/-- A trap taken whose handler has not been entered: the cause, MORE, and the capture records of an issue-time trap (R261, R266). -/
structure Entry where
  cause : Cause
  more : Bool
  caps : Option (List (Nat × Capture))
  deriving DecidableEq, Repr

/-- What the context engine is doing (R274): a save, a load, or the end of a load whose image it rejected. -/
inductive CtxRun where
  | save | load | rejected
  deriving DecidableEq, Repr

/-- A compute core. -/
structure Core where
  s : Vector Word 32
  v : Vector VWord 32
  d : Vector VWord 16
  n : Vector (BitVec 16) 16
  m : Vector (BitVec 128) 8
  p : Vector Bool 8
  h : Vector Hoop 8
  w : Vector (BitVec 512) 8
  tt : Vector Tree 4
  ls : Word
  lc0 : Word
  lc1 : Word
  lv0 : VWord
  lv1 : VWord
  sp : Special
  gens : Vector (BitVec 32) 129
  book : List Byte
  /-- header address of the bundle due -/
  pc : Nat
  /-- folded bundles the header at `pc` still owes, when its own cycle is past -/
  owed : Nat
  /-- taken transfers: the issue cycle they redirect and their targets (R125) -/
  transfers : List (Nat × Nat)
  loops : List Loop
  /-- where a LOOP of count 0 goes on (R128) -/
  skip : Option Nat
  /-- issue cycle due next -/
  ic : Nat
  /-- the results of the issue cycle due have landed -/
  landed : Bool
  /-- flags raised by the landings of the cycle due (R35) -/
  raised : Flags
  flights : List Flight
  acts : List (Nat × Nat × Act)
  writes : List (Nat × WOp)
  /-- bank ports demanded: issue cycle, write, bank -/
  demand : List (Nat × Bool × Nat)
  /-- issue cycles in which the message path is reserved -/
  msgPath : List Nat
  /-- scoreboard of incomplete loads under L4: destination, slot, cycles still needed (R62) -/
  board : List (Dest × Slot × Nat)
  treeFree : Nat
  matrix : Option MatBusy
  trans : Option (HReg × List Byte × List Nat)
  ports : Vector (Option Binding) 4
  shadows : List (Nat × List Nat)
  handles : List (Nat × Handle)
  /-- primary code memory by byte address, and the key of the image held -/
  code : List (Nat × Byte)
  codeKey : Option (Nat × Nat × Nat)
  run : RunState
  haltFail : Option Cause
  haltPc : Nat
  causes : List Cause
  /-- a landing fault of a handler bundle (R268) -/
  handlerFault : Option Cause
  entry : Option Entry
  saved : Option Saved
  /-- what is outstanding at a freeze (R277) -/
  held : Option Saved
  captures : List (Nat × Capture)
  /-- captures in use by the bundle due, after ERET -/
  resumeCaps : List (Nat × Capture)
  eretPending : Bool
  looked : List Looked
  /-- units and messages taken by earlier slots of the bundle due, in slot order -/
  popped : List Nat
  taken : List Take
  launch : Nat
  engines : Vector Engine 2
  /-- commands that were outstanding at a FENCE (R134) -/
  fences : List Nat
  faults : List CopyFault
  releases : List Release
  forwards : List Forward
  endpoints : Vector Endpoint 16
  altPtr : Nat
  ctxBusy : Option CtxRun
  trf : List (Nat × Word)
  threads : Vector Thread 64
  classPtr : Vector (Fin 64) 3
  deque : List QEntry
  cache : List CacheLine
  /-- the tinker instruction cache (R235): line addresses with their 64 bytes -/
  icache : List (Nat × Nat)
  tflights : List TFlight
  /-- the primary issues in the current clock cycle, or has halted -/
  issuing : Bool
  /-- resources of the current clock cycle left to tinkers: advertised slots, bank ports taken, tokens, injection slot, message path -/
  vacant : List Slot
  chosen : List Nat
  portsUsed : List (Bool × Nat)
  /-- bank ports that agents ranked above tinkers took since the last clock cycle (R69) -/
  agentPorts : List (Bool × Nat)
  tokens : Nat
  injected : Bool
  twrites : List WOp
  /-- threads that TSIG signals from the next clock cycle on (R247) -/
  signals : List (Fin 64)
  deriving DecidableEq, Repr

end Sys2Proof.Machine
end

