-- ==== Sys2Proof/Machine/DevState.lean ====
section
/-! DEFINITION. The state of what stands around the cores: translation stations, directory slices, porters, the command processor and the
fabric unit. All of it plain data. -/
namespace Sys2Proof.Machine

/-- An event with what it happens at. -/
abbrev Ev := Instr × EvArg

/-! ### Translation (R312 to R316) -/

/-- A leaf as a station keeps it: physical page, log2 of its size, STATE, R W X ATOM as bits 0 to 3, OWNER and SHARED. -/
structure TLeaf where
  page : Nat
  size : Nat
  state : Nat
  perms : Nat
  owner : Nat
  shared : Bool
  deriving DecidableEq, Repr

/-- What a walk ends with: a leaf and the physical address of its entry, or a reason and a level. -/
inductive TRes where
  | leaf (l : TLeaf) (at_ : Nat)
  | fault (reason level : Nat)
  deriving DecidableEq, Repr

/-- An entry of a station's translation cache. -/
structure TEntry where
  space : Nat
  va : Nat
  leaf : TLeaf
  at_ : Nat
  deriving DecidableEq, Repr

/-- A translation station. `log` holds the ring's records by slot. -/
structure Station where
  entries : List TEntry
  log : List (Nat × Nat)
  written : Nat
  lost : Nat
  deriving DecidableEq, Repr

/-- A request that waits for a walk: the event that made it, the request, and REQ with PORTER (Table 11.4). -/
structure WalkWait where
  ev : Ev
  req : TransReq
  who : Nat
  deriving DecidableEq, Repr

/-- A walk in progress or waiting to start, by the 64 KiB part of the address space that began it. -/
structure Walk where
  station : Nat
  space : Nat
  page : Nat
  waiting : List WalkWait
  deriving DecidableEq, Repr

/-- What a walk answered to a request, until its event has used it. -/
structure Answer where
  ev : Ev
  space : Nat
  page : Nat
  res : TRes
  deriving DecidableEq, Repr

/-! ### Ownership (R317, R318) -/

/-- Who owns a line for writing. -/
inductive Owner where
  | cmd (a : Asker)
  | move (n : Nat)
  | host (uid : Nat)
  deriving DecidableEq, Repr

/-- An owned line: the write to be performed, the check-value difference when the whole line travels with its own, the bytes it counts,
and the accesses that wait for the recall, each with the step of its arrival. -/
structure Owned where
  line : Nat
  owner : Owner
  puts : List PutByte
  cv : Option Nat
  count : Nat
  waiting : List (Nat × Ev)
  deriving DecidableEq, Repr

/-- A tier move in progress (R337): its space, the leaf's address, frames, direction, format, urgency, and the launch of its hint. -/
structure Move where
  id : Nat
  space : Nat
  va : Nat
  leafAt : Nat
  src : Nat
  dst : Nat
  promote : Bool
  fmt : Nat
  srcState : Nat
  urg : Nat
  launch : Nat
  started : Bool
  deriving DecidableEq, Repr

/-! ### Porters (R319 to R323) -/

/-- A run of a porter program: context registers, walks, the next step, the steps in progress, and the fault that ends it. -/
structure Run where
  q : Vector Word 16
  w : Vector (BitVec 512) 8
  next : Nat
  steps : List Cmd
  ended : Bool
  fault : Option (Nat × Nat)
  deriving DecidableEq, Repr

/-- A resident context: its record (Table 11.5), RUNS, its run, and the freeze record that froze it with the requests held. -/
structure PCtx where
  ctag : Nat
  record : BitVec 512
  runs : Word
  run : Option Run
  frozen : Option Nat
  held : List Ev
  deriving DecidableEq, Repr

/-- A porter: its resident contexts, the most recently used first. -/
structure Porter where
  ctxs : List PCtx
  deriving DecidableEq, Repr

/-! ### The command processor (13) -/

/-- The management registers (Table 13.3). -/
structure Mgmt where
  sptbase : Nat
  smrbase : Nat
  ctxtbase : Nat
  htbase : Nat
  fzbase : Nat
  fzcount : Nat
  evqbase : Nat
  evqsize : Nat
  deriving DecidableEq, Repr

/-- A function: FNSPACE, FNTENANT, FNWIN, the record number of its freeze (R355), and the size of its BAR 2, log2 in GiB (R354). -/
structure Fn where
  space : Nat
  tenant : Nat
  win : Nat
  frozen : Option Nat
  bar : Nat
  deriving DecidableEq, Repr

/-- A BAR 2 access of a function: a read of `n` bytes, or a write of `data` (R354). -/
structure HostAccess where
  fn : Nat
  off : Nat
  n : Nat
  data : Option (List Byte)
  /-- the step of its delivery -/
  since : Nat
  deriving DecidableEq, Repr

/-- A read completion: its bytes, none for Unsupported Request, and whether it is poisoned (R349, R354). -/
structure HostRead where
  fn : Nat
  off : Nat
  data : Option (List Byte)
  poisoned : Bool
  deriving DecidableEq, Repr

/-- A submission queue (Table 13.4), with the ring records written and not consumed, and the number written (R353, R358). -/
structure Queue where
  sqbase : Nat
  sqsize : Nat
  prio : Nat
  fn : Nat
  en : Bool
  qspace : Nat
  qtenant : Nat
  cqbase : Nat
  cqsize : Nat
  vec : Nat
  sqhead : Nat
  cqused : Nat
  cqcount : Nat
  inline : Nat
  deriving DecidableEq, Repr

/-- A command the CP has fetched and not completed: its queue, its 128 bytes as a number, whether it has started, its progress, and by core the copy
commands it waits for (R368). -/
structure HostCmd where
  uid : Nat
  q : Nat
  body : Nat
  started : Bool
  off : Nat
  step : Nat
  info : Nat
  behind : List (Nat × Nat)
  /-- the function whose doorbell or INLGO submitted it, and the step in which it did (R400) -/
  by_ : Nat
  since : Nat
  deriving DecidableEq, Repr

/-- A completion record before it is written (Table 13.7). -/
structure Completion where
  q : Nat
  cid : Nat
  irq : Bool
  status : Nat
  xcause : Nat
  xvalue : Nat
  xpc : Nat
  core : Nat
  deriving DecidableEq, Repr

/-- A graph in progress (R367): its command, record address, node count, predecessor masks, and by node 0 not started, 1 running,
2 retired with status 0, 3 failed. -/
structure Graph where
  uid : Nat
  addr : Nat
  preds : List Nat
  nodes : List Nat
  bodies : List Nat
  deriving DecidableEq, Repr

/-- An entry of the buffer-handle table (R368): the last writing launch with its cores, and the readers since. -/
structure BufHandle where
  writer : Option (Nat × List Nat)
  readers : List Nat
  deriving DecidableEq, Repr

/-- How a launch ended other than well: completion status, cause, value, program counter, core. -/
structure Failure where
  status : Nat
  xcause : Nat
  xvalue : Nat
  xpc : Nat
  core : Nat
  deriving DecidableEq, Repr

/-- Where a launch stands. -/
inductive Phase where
  /-- its rectangle is taken, and the broadcast is to come (steps 3 to 5 of Table 13.10) -/
  | placing
  /-- at the gang gate (R415) -/
  | gate (resume : Bool)
  | running
  /-- PREEMPT requested, taken by every core at the same boundary (R273) -/
  | preempting
  /-- its cores are saved; off the device -/
  | saved
  | retiring
  deriving DecidableEq, Repr

/-- A launch placed on the device (R280, R363). -/
structure Launch where
  id : Nat
  cores : List Nat
  z : Nat
  x0 : Nat
  y0 : Nat
  width : Nat
  height : Nat
  space : Nat
  tenant : Nat
  l4 : Bool
  tinkers : Nat
  stealDom : Nat
  /-- consecutive stall cycles (R271) and the kind of wait -/
  stall : Nat
  started : Bool
  ctag : Nat
  prio : Nat
  preen : Bool
  /-- its launch record, its host command, and its node of a graph -/
  body : Nat
  uid : Nat
  graph : Option (Nat × Nat)
  fn : Nat
  phase : Phase
  failure : Option Failure
  /-- group slot of its routes with GRP 1 (R407), gate epoch, clock of its release, its slice is over -/
  groupSlot : Option Nat
  epoch : Nat
  released : Nat
  sliceOver : Bool
  /-- context buffers by core while pre-empted -/
  buffers : List (Nat × Nat)
  deriving DecidableEq, Repr

/-- An image that a CSAVE wrote, with the hidden state it holds (Table 9.7: its layout is the part's own). -/
structure Hidden where
  launch : Nat
  id : Nat
  /-- its core is away, and this is its saved state; else only an image that a CLOAD may read -/
  live : Bool
  buffer : Nat
  /-- what CSAVE wrote, by offset in the buffer -/
  image : List Host.Cell
  core : Core
  deriving DecidableEq, Repr

/-- A PARTITION or CHECKPOINT in progress: its command, step, parameters, start, and what Table 12.4 counts. -/
structure Sequence where
  uid : Nat
  checkpoint : Bool
  step : Nat
  new : Nat
  force : Bool
  deadline : Nat
  since : Nat
  retired : Nat
  preempted : Nat
  moved : Nat
  dest : Nat
  deriving DecidableEq, Repr

/-! ### The fabric unit (15) -/

/-- What the fabric unit keeps for a PATH 2 route: retained messages with the clock of their last sending, the resend queue, the seen-sets,
the acknowledged tags, refusals counted while pre-empted, and the allowances that reached the send end. -/
structure Route where
  retained : List (Nat × Nat)
  resend : List Nat
  seen : List Nat
  prevSeen : List Nat
  acked : List Nat
  refused : Nat
  /-- allowances that arrived while the sending launch was pre-empted -/
  allow : Nat
  /-- the launch that holds the route, and the route entry as it was when that launch was placed (R405) -/
  owner : Option Nat
  entry : Option Nat
  deriving DecidableEq, Repr

/-- A line of DATA received and not performed: its route, its place, its bytes as a number, and the check-value difference it came with (R404). -/
structure PeerLine where
  route : Nat
  line : Nat
  data : Nat
  cv : Option Nat
  deriving DecidableEq, Repr

/-- The receiving side of a link (R403, R404): the LSEQ of the next flit, and whether that flit failed its CRC and is to be resent. -/
structure LinkIn where
  next : Nat
  retry : Bool
  deriving DecidableEq, Repr

/-- A collective group on this module (R412 to R414): the committed value last sent, members' last STEP values, FINALs received, whether the
commit word is no longer observed, the agreed step, members found unreachable, and the last epoch of each member's READY (R415). -/
structure Group where
  commit : Nat
  steps : List (Nat × Nat)
  finals : List (Nat × Nat)
  closed : Bool
  agreed : Option Nat
  silent : List Nat
  readies : List (Nat × Nat)
  /-- the group record and the members' modules as they were when the member launch was placed (R405) -/
  fixed : Option (Nat × List Nat)
  deriving DecidableEq, Repr

end Sys2Proof.Machine
end

