-- ==== Sys2Proof/Machine/State.lean ====
section
/-! DEFINITION. The state of the whole module, its reset value, and the reasons a step can stop. -/
namespace Sys2Proof.Machine

/-- Why a step stops with a fault. -/
inductive Fault where
  /-- raised by an operation that runs with no agent to issue it; no run reaches it; safe -/
  | noAgent
  /-- raised by an event that names a unit the device does not have (R1, R6); safe -/
  | noSuchUnit
  deriving DecidableEq, Repr

/-- Why a step is refused. -/
inductive Refusal where
  /-- raised by an arm of the dispatch that has no meaning; safe -/
  | notModelled (mnemonic : String)
  deriving DecidableEq, Repr

/-- Memory of every kind by device-wide key: the bytes (R332), the words with a single and with an uncorrectable bit error (R71),
and by line the difference of the stored check value from the one its bytes have (R72, R227). -/
structure Memory where
  cells : List Host.Cell
  ecc1 : List Nat
  ecc2 : List Nat
  cv : List (Nat × Nat)
  deriving DecidableEq, Repr

/-- The agent an operation runs for. -/
inductive Ctx where
  | idle
  | slot (core : Nat) (slot : Slot) (issue : Bool)
  | tinker (core thread : Nat) (slot : Slot)
  | event (a : EvArg)
  deriving DecidableEq, Repr

/-- Steps of a clock cycle that are not operations. -/
inductive Sys where
  | land (core : Nat)
  | consider (core : Nat)
  | clear (core : Nat)
  | decide (launch : Nat)
  | resend (core : Nat)
  | barrel (core : Nat)
  | finish (core : Nat) (issued : Bool)
  deriving DecidableEq, Repr

/-- What the next steps do. -/
inductive Item where
  | event (i : Instr) (a : EvArg)
  /-- a slot word of a bundle, to be considered or issued -/
  | slot (core : Nat) (slot : Slot) (issue : Bool) (r : RawSlot)
  /-- a tinker operation's words -/
  | tinker (core thread : Nat) (slot : Slot) (w ext : BitVec 32)
  | sys (k : Sys)
  deriving DecidableEq, Repr

/-- The module. -/
structure State where
  mem : Memory
  cores : List (Nat × Core)
  launches : List Launch
  clock : Nat
  tick : Nat
  agenda : List Item
  pending : List (Instr × EvArg)
  inputs : List (Instr × EvArg)
  /-- timed-plane traffic: the clock cycle from which it is visible (R282) -/
  wires : List (Nat × Instr × EvArg)
  cur : Ctx
  /-- power and bring-up (R375 to R378), the device status page (Table 13.2) and flash (R377) -/
  power : Bool
  ready : Bool
  fail : Bool
  failcode : Nat
  fwver : Nat
  cfgver : Nat
  rollback : Nat
  outerr : Nat
  /-- STKROLE.N and BUSY (Table 12.1) -/
  stkN : Nat
  stkBusy : Bool
  modnum : Nat
  /-- token allowance (R380) and the hold at the warning limit (R381) -/
  allowance : Nat
  thermal : Bool
  /-- the command processor -/
  mgmt : Mgmt
  evqCount : Nat
  fns : Vector Fn 17
  msix : List (Nat × Byte)
  pba : List Nat
  queues : Vector Queue 64
  cmds : List HostCmd
  nextUid : Nat
  /-- the queue last served at each priority level (R357) -/
  served : Vector Nat 4
  held : List Completion
  tokens : List (Nat × Nat)
  slots : List (Nat × Nat)
  buffers : List (Nat × BufHandle)
  graphs : List Graph
  sequence : Option Sequence
  nextLaunch : Nat
  hidden : List Hidden
  /-- the freeze record number of each frozen core (R373) -/
  coreFreeze : List (Nat × Nat)
  /-- the stratum queues set aside and the cluster queues, by stratum and by node (R254, R325) -/
  clusterQ : List (Nat × List QEntry)
  stratumQ : List (Nat × List QEntry)
  /-- the strata whose queue the command processor has set aside (R325, R364) -/
  aside : List Nat
  /-- the memory nodes -/
  stations : List (Nat × Station)
  walks : List Walk
  answers : List Answer
  owned : List Owned
  moves : List Move
  nextMove : Nat
  porters : List (Nat × Porter)
  /-- the fabric unit: routes by handle, groups by slot, flits on their way out with their ports, the receiving sides of the links by port -/
  routes : List (Nat × Route)
  groups : List (Nat × Group)
  outFlits : List (Nat × List Byte)
  links : List (Nat × LinkIn)
  /-- lines of DATA that wait for the recall of a line, in order of arrival (R318, R404) -/
  peerLines : List PeerLine
  linkDown : Bool
  /-- BAR 2 accesses delivered and not yet performed, in order (R354, R389) -/
  bar2 : List HostAccess
  /-- read completions on their way to the host (R354) -/
  hostReads : List HostRead
  /-- lines of host memory written by poisoned TLPs (R349) -/
  epWrites : List Nat
  /-- an uncorrectable internal error stands in the AER capability (R348) -/
  internalErr : Bool
  deriving DecidableEq, Repr

def Memory.empty : Memory := ⟨[], [], [], []⟩

def Hoop.empty : Hoop := ⟨0, 0, 0, 0, 0, 0, false⟩
def Tree.empty : Tree := ⟨[], 0⟩

/-- Special registers at launch (Table 2.2, Table 2.7, R30, R32, R33). -/
def Special.reset : Special :=
  { xcause := 0, xvalue := 0, xpc := 0, xstat := 0, fpctl := 0, fpstat := 0, srseed := 0x2545F491, scalel := 0x7F00,
    wconf := false, compat := false, preen := false, handler := false, clk := 0, rank := 0, coord := 0,
    slice := Vector.replicate 8 0, resAdv := 0, resUsed := 0, resDenyBank := 0, resDenyNet := 0, resDenyPwr := 0,
    ttbase := Vector.replicate 4 0, svpad := 0x1F000 }

/-- Generator `g` seeded (R30). -/
def seedGen (seed : BitVec 32) (g : Nat) : BitVec 32 :=
  let x := seed ^^^ BitVec.ofNat 32 (0x9E3779B9 * (g + 1))
  if x = 0 then 1 else x
/-- Every generator seeded (R30). -/
def seedGens (seed : BitVec 32) : Vector (BitVec 32) 129 := Vector.ofFn fun g => seedGen seed g.val

/-- The pattern book at launch: `book[c] = 16 · sext(c, 4)` (R44). -/
def bookReset : List Byte :=
  [0x00, 0x10, 0x20, 0x30, 0x40, 0x50, 0x60, 0x70, 0x80, 0x90, 0xA0, 0xB0, 0xC0, 0xD0, 0xE0, 0xF0]

def Engine.empty : Engine := ⟨[], 0, []⟩
def Endpoint.empty : Endpoint := ⟨0, none, [], 0, false, 0, [], [], 0, 0⟩
def Thread.empty : Thread := ⟨.dead, 0, 0, 0, 0, none, 0, [], 0⟩

/-- A core with every register at its launch value (R53, R73) and no program. -/
def Core.reset : Core :=
  { s := Vector.replicate 32 0, v := Vector.replicate 32 0, d := Vector.replicate 16 0, n := Vector.replicate 16 0x8000,
    m := Vector.replicate 8 (BitVec.allOnes 128), p := Vector.replicate 8 false |>.set 0 true, h := Vector.replicate 8 Hoop.empty,
    w := Vector.replicate 8 0, tt := Vector.replicate 4 Tree.empty, ls := 0, lc0 := 0, lc1 := 0, lv0 := 0, lv1 := 0,
    sp := Special.reset, gens := seedGens 0x2545F491, book := bookReset, pc := 0, owed := 0, transfers := [], loops := [], skip := none, ic := 0, landed := false, raised := 0,
    flights := [], acts := [], writes := [], demand := [], msgPath := [], board := [], treeFree := 0, matrix := none, trans := none,
    ports := Vector.replicate 4 none, shadows := [], handles := [], code := [], codeKey := none, run := .idle, haltFail := none,
    haltPc := 0, causes := [], handlerFault := none, entry := none, saved := none, held := none, captures := [], resumeCaps := [], eretPending := false, looked := [], popped := [],
    taken := [], launch := 0, engines := Vector.replicate 2 Engine.empty, fences := [], faults := [], releases := [],
    forwards := [], endpoints := Vector.replicate 16 Endpoint.empty, altPtr := 15, ctxBusy := none, trf := [],
    threads := Vector.replicate 64 Thread.empty, classPtr := Vector.replicate 3 63, deque := [], cache := [], icache := [], tflights := [],
    issuing := false, vacant := [], chosen := [], portsUsed := [], agentPorts := [], tokens := 0, injected := false, twrites := [], signals := [] }

/-- A management register page after reset. -/
def Mgmt.reset : Mgmt := ⟨0, 0, 0, 0, 0, 0, 0, 0⟩
def Queue.reset : Queue := ⟨0, 0, 0, 0, false, 0, 0, 0, 0, 0, 0, 0, 0, 0⟩

/-- The module at the moment power-good arrives (R375, R376). -/
def State.reset : State :=
  { mem := Memory.empty, cores := [], launches := [], clock := 0, tick := 0, agenda := [], pending := [], inputs := [], wires := [], cur := .idle,
    power := true, ready := false, fail := false, failcode := 0, fwver := 0, cfgver := 0, rollback := 0, outerr := 0,
    stkN := 4, stkBusy := false, modnum := 0, allowance := 29, thermal := false, mgmt := Mgmt.reset, evqCount := 0,
    fns := Vector.replicate 17 ⟨0, 0, 0, none, 6⟩, msix := [], pba := [], queues := Vector.replicate 64 Queue.reset, cmds := [], nextUid := 0,
    served := Vector.replicate 4 63, held := [], tokens := [], slots := [], buffers := [], graphs := [],
    sequence := none, nextLaunch := 0, hidden := [], coreFreeze := [], clusterQ := [], stratumQ := [], aside := [], stations := [], walks := [],
    answers := [], owned := [], moves := [], nextMove := 0, porters := [], routes := [], groups := [], outFlits := [], links := [], peerLines := [], linkDown := false,
    bar2 := [], hostReads := [], epWrites := [], internalErr := false }

end Sys2Proof.Machine
end

