-- ==== Sys2Proof/Machine/Mem.lean ====
section
/-! DEFINITION. Memory operations: where each kind of memory lies in the one list of bytes (12 R331, R332), reads, masked writes (R70),
SECDED marks (R71) and end-to-end check values (R72, R227, R228). -/
namespace Sys2Proof.Machine

/-- What a byte nothing has written reads as: zero (R73, R376). -/
def unwritten : Byte := 0

/-! ### Keys

Core `(z, x, y)` has the number `256 z + 16 y + x`. A core's scratchpad and accumulator store lie at the addresses its stratum's
SRAM window gives them (Table 12.4), whether or not the window is open. Host memory lies from `2^47` on, the host window with bit 47. -/

def coreZ (id : Nat) : Nat := id / 256
def coreY (id : Nat) : Nat := id / 16 % 16
def coreX (id : Nat) : Nat := id % 16
def coreId (z x y : Nat) : Nat := 256 * z + 16 * y + x
/-- The SRAM window of a stratum. -/
def sramBase (z : Nat) : Nat := 0x30_0000_0000 + z * 0x2000_0000
/-- Scratchpad byte `a` of a core. -/
def spadKey (id a : Nat) : Nat := sramBase (coreZ id) + (id % 256) * 0x10_0000 + a
/-- Accumulator `i` of a core (R74). -/
def accKey (id i : Nat) : Nat := sramBase (coreZ id) + 0x1000_0000 + (id % 256) * 0x4_0000 + 4 * i

/-! ### Bytes -/

def Memory.byte (m : Memory) (a : Nat) : Byte := sget unwritten m.cells a
/-- Canonical form of the bytes: strictly rising addresses, no entry equal to an unlisted byte. -/
def Memory.wf (m : Memory) : Bool := swf unwritten m.cells
/-- `n` bytes from `a` as a little-endian number. -/
def Memory.read (m : Memory) (a : Nat) : Nat → Nat
  | 0 => 0
  | n + 1 => (m.byte a).toNat + 256 * m.read (a + 1) n
/-- The bytes themselves. -/
def Memory.bytes (m : Memory) (a : Nat) : Nat → List Byte
  | 0 => []
  | n + 1 => m.byte a :: m.bytes (a + 1) n
/-- Change the bits `mask` of a byte to those of `b` (R70). -/
def Memory.setBits (m : Memory) (a : Nat) (b mask : Byte) : Memory :=
  { m with cells := sput unwritten m.cells a ((m.byte a &&& ~~~mask) ||| (b &&& mask)) }
def Memory.setAll (m : Memory) : List PutByte → Memory
  | [] => m
  | (a, b, k) :: rest => (m.setBits a b k).setAll rest

/-- The 8-byte words that a list of writes touches. -/
def wordsOf (bs : List PutByte) : List Nat := bs.foldl (fun l p => nput l (p.1 / 8 * 8)) []
/-- The 64-byte lines that a list of writes touches. -/
def linesOf (bs : List PutByte) : List Nat := bs.foldl (fun l p => nput l (p.1 / 64 * 64)) []
/-- Whether the writes cover the whole word at `w`. -/
def coversWord (bs : List PutByte) (w : Nat) : Bool :=
  (List.range 8).all fun i => bs.any fun p => p.1 == w + i && p.2.2 == 0xFF

/-- A masked write by an agent that computes its data: the bytes change, a whole word's marks clear, a partial write corrects a
single-bit error and leaves an uncorrectable mark (R71), and every line touched gets the check value of its bytes (R72). -/
def Memory.put (m : Memory) (bs : List PutByte) : Memory :=
  let ws := wordsOf bs
  let ls := linesOf bs
  let m' := m.setAll bs
  { m' with ecc1 := m.ecc1.filter (fun w => !ws.contains w)
            ecc2 := m.ecc2.filter (fun w => !(ws.contains w && coversWord bs w))
            cv := m.cv.filter (fun e => !ls.contains e.1) }
/-- Whole bytes from an address on. -/
def putBytes (a : Nat) : List Byte → List PutByte
  | [] => []
  | b :: bs => (a, b, 0xFF) :: putBytes (a + 1) bs
/-- Write the low `n` bytes of a number. -/
def Memory.write (m : Memory) (a n x : Nat) : Memory := m.put (putBytes a (bytesOf n x))
/-- Write a whole line with the check value it travelled with, given as its difference (R72). -/
def Memory.putLine (m : Memory) (line : Nat) (bs : List Byte) (cv : Nat) : Memory :=
  let m' := m.put (putBytes line bs)
  { m' with cv := sput 0 m'.cv line cv }
/-- A byte of a field of a group record that only the fabric unit writes: AGREED to ABORTER, OVERRUN and EPOCH of Table 15.6. -/
def roByte (a : Nat) : Bool :=
  decide (0x5_FC20_0000 ≤ a) && decide (a < 0x5_FC21_0000) && ((decide (16 ≤ a % 256) && decide (a % 256 < 32)) || (decide (40 ≤ a % 256) && decide (a % 256 < 56)))
/-- What a write of a byte is to such a field: ignored (R12). -/
def shutByte (p : PutByte) : PutByte := if roByte p.1 then (p.1, p.2.1, 0) else p
/-- A write of device memory by software. -/
def Memory.putDev (m : Memory) (bs : List PutByte) : Memory := m.put (bs.map shutByte)
def Memory.writeDev (m : Memory) (a n x : Nat) : Memory := m.putDev (putBytes a (bytesOf n x))
/-- A whole line of device memory with the check value it travelled with; a line with such fields is written in part. -/
def Memory.putLineDev (m : Memory) (line : Nat) (bs : List Byte) (cv : Nat) : Memory :=
  if (List.range 64).any fun i => roByte (line + i) then m.putDev (putBytes line bs) else m.putLine line bs cv
/-- Write a tile whose lines carry the differences listed by line number (R72, R228). -/
def Memory.putTile (m : Memory) (key : Nat) (bs : List Byte) (cvs : List (Nat × Nat)) : Memory :=
  cvs.foldl (fun (m : Memory) e => { m with cv := sput 0 m.cv (key + 64 * e.1) e.2 }) (m.put (putBytes key bs))
/-- The check-value difference of the line an address lies in. -/
def Memory.cvOf (m : Memory) (a : Nat) : Nat := sget 0 m.cv (a / 64 * 64)

/-- The first word with an uncorrectable error among the bytes `[a, a+n)`. -/
def Memory.bad2 (m : Memory) (a n : Nat) : Option Nat := m.ecc2.find? fun w => decide (w < a + n) && decide (a < w + 8)
/-- The first line with a check-value mismatch among the bytes `[a, a+n)`. -/
def Memory.badCv (m : Memory) (a n : Nat) : Option Nat :=
  (m.cv.find? fun e => decide (e.1 < a + n) && decide (a < e.1 + 64)).map (·.1)
/-- Single-bit errors are written back corrected on every read (R71). -/
def Memory.scrub (m : Memory) (a n : Nat) : Memory :=
  { m with ecc1 := m.ecc1.filter fun w => !(decide (w < a + n) && decide (a < w + 8)) }
/-- Zero `[lo, hi)` with valid check bits and check values (R73). -/
def Memory.zero (m : Memory) (lo hi : Nat) : Memory :=
  { cells := sclear lo hi m.cells, ecc1 := m.ecc1.filter (fun w => !(decide (lo ≤ w) && decide (w < hi))),
    ecc2 := m.ecc2.filter (fun w => !(decide (lo ≤ w) && decide (w < hi))), cv := sclear lo hi m.cv }
/-- A bit error (R71, R309). A second single-bit error of a word makes it uncorrectable. -/
def Memory.inject (m : Memory) : BitErr → Memory
  | .single a _ =>
    let w := a / 8 * 8
    if m.ecc1.contains w then { m with ecc1 := ndel m.ecc1 w, ecc2 := nput m.ecc2 w }
    else if m.ecc2.contains w then m else { m with ecc1 := nput m.ecc1 w }
  | .double a => { m with ecc1 := ndel m.ecc1 (a / 8 * 8), ecc2 := nput m.ecc2 (a / 8 * 8) }
  | .silent a b =>
    let flip : Byte := BitVec.ofNat 8 (2 ^ (b % 8))
    let line := a / 64 * 64
    let old := m.bytes line 64
    let m' := m.setBits a (m.byte a ^^^ flip) 0xFF
    { m' with cv := sput 0 m'.cv line (m.cvOf a ^^^ crc16 old ^^^ crc16 (m'.bytes line 64)) }

/-! ### Atomics (R223, Table 7.14) and arrival words (R80) -/

/-- Bytes of a width. -/
def stwBytes : StW → Nat
  | .b8 => 1
  | .b16 => 2
  | .b32 => 4
  | .b64 => 8

/-- The new value of an atomic operator on old value `o`, operand `b` and replacement `a`; and whether a signalling NaN was met. -/
def atomicNew (x : AtX) (o b a : Nat) : Nat × Bool :=
  let w := 8 * (stwBytes x.width)
  let b := b % 2 ^ w
  let sg (p : Nat) : Int := sextNat w p
  match x.op with
  | .add => ((o + b) % 2 ^ w, false)
  | .max => (if sg o < sg b then b else o, false)
  | .min => (if sg b < sg o then b else o, false)
  | .maxw => (max o b, false)
  | .minw => (min o b, false)
  | .fmax => let (r, f) := FFmt.f32.minmax false true o b; (r, f != 0)
  | .fmin => let (r, f) := FFmt.f32.minmax false false o b; (r, f != 0)
  | .and => (o &&& b, false)
  | .or => (o ||| b, false)
  | .xor => (o ^^^ b, false)
  | .swap => (b, false)
  | .cas => (if o = b then a % 2 ^ w else o, false)

/-- `arrive(a, n)` of R80 on an arrival word's 128 bits. -/
def arriveWord (w n : Nat) : Nat :=
  let target := w % 2 ^ 32
  let count := w / 2 ^ 32 % 2 ^ 32 + n
  let gen := w / 2 ^ 64 % 2 ^ 32
  let top := w / 2 ^ 96
  if target = 0 then
    if count < 2 ^ 32 then target + 2 ^ 32 * count + 2 ^ 64 * gen + 2 ^ 96 * top
    else target + 2 ^ 32 * (2 ^ 32 - 1) + 2 ^ 64 * gen + 2 ^ 96 * (top ||| 1)
  else target + 2 ^ 32 * (count % target) + 2 ^ 64 * ((gen + count / target) % 2 ^ 32) + 2 ^ 96 * top
/-- `reached(a, want)` of R80. -/
def arrivalReached (w want : Nat) : Bool :=
  decide ((w / 2 ^ 64 % 2 ^ 32 + 2 ^ 32 - want % 2 ^ 32) % 2 ^ 32 < 2 ^ 31)
def arrivalErr (w : Nat) : Bool := w / 2 ^ 96 % 2 == 1
/-- Set ERR (R220). -/
def arrivalSetErr (w : Nat) : Nat := if arrivalErr w then w else w + 2 ^ 96
/-- Whether an update of a disarmed word would take COUNT past its bound (R80). -/
def arrivalOver (w n : Nat) : Bool := w % 2 ^ 32 == 0 && decide (2 ^ 32 ≤ w / 2 ^ 32 % 2 ^ 32 + n)

end Sys2Proof.Machine
end

