-- ==== Sys2Proof/Machine/Flits.lean ====
section
/-! DEFINITION. The fabric's tables in memory (R405, R406, R412), flits as bytes (R403, R404), and the fabric unit's state for a route and a
group. -/
namespace Sys2Proof.Machine

/-! ### Tables -/

def fabricBase : Nat := 0x5_FC00_0000
/-- A route entry (Table 15.4) as the table holds it. -/
def State.routeWord (s : State) (h : Nat) : Nat := s.mem.read (fabricBase + 32 * (h % 65536)) 32
def groupAddr (g : Nat) : Nat := fabricBase + 0x20_0000 + 256 * (g % 256)
/-- A group record (Table 15.6). -/
def State.groupRecord (s : State) (g : Nat) : Nat := s.mem.read (groupAddr g) 256
/-- A member's entry in a member list. -/
def State.memberWord (s : State) (g m : Nat) : Nat := s.mem.read (fabricBase + 0x30_0000 + 9216 * (g % 256) + 2 * m) 2 % 2 ^ 13

def Route.empty : Route := ⟨[], [], [], [], [], 0, 0, none, none⟩
def Group.empty : Group := ⟨0, [], [], false, none, [], [], none⟩
def State.route (s : State) (h : Nat) : Route := sget Route.empty s.routes h
def State.updRoute (s : State) (h : Nat) (f : Route → Route) : State := { s with routes := sput Route.empty s.routes h (f (s.route h)) }
def State.group (s : State) (g : Nat) : Group := sget Group.empty s.groups g
def State.updGroup (s : State) (g : Nat) (f : Group → Group) : State := { s with groups := sput Group.empty s.groups g (f (s.group g)) }
/-- The route entry that counts: the one its launch was placed with, or that of the table (R405). -/
def State.routeEntry (s : State) (h : Nat) : Nat := (s.route h).entry.getD (s.routeWord h)
/-- The fields of a group record that management writes: those its member launch was placed with, or those of the table (R405). -/
def State.groupTable (s : State) (g : Nat) : Nat := match (s.group g).fixed with | some x => x.1 | none => s.groupRecord g
def State.memberCount (s : State) (g : Nat) : Nat := bits (s.groupTable g) 44 32
def State.selfIndex (s : State) (g : Nat) : Nat := bits (s.groupTable g) 57 45
def State.sliceUs (s : State) (g : Nat) : Nat := bits (s.groupTable g) 287 256
def State.commitVa (s : State) (g : Nat) : Nat := bits (s.groupTable g) 111 64
def State.groupId (s : State) (g : Nat) : Nat := bits (s.groupTable g) 31 0
/-- The module of a member. -/
def State.memberModule (s : State) (g m : Nat) : Nat := match (s.group g).fixed with | some x => x.2.getD m 0 | none => s.memberWord g m
/-- The members' indices. -/
def State.members (s : State) (g : Nat) : List Nat := List.range (s.memberCount g)
/-- A launch is placed with the tables as they are (R405): it holds a route of its own from then on. -/
def State.fixRoute (s : State) (h launch : Nat) : State := s.updRoute h fun r => { r with owner := some launch, entry := some (s.routeWord h) }
def State.fixGroup (s : State) (g : Nat) : State :=
  s.updGroup g fun x => { x with fixed := some (s.groupRecord g, (List.range (bits (s.groupRecord g) 44 32)).map (s.memberWord g)) }

/-! ### Flits -/

/-- One bit of CRC-32C, reflected: polynomial 0x1EDC_6F41. -/
def crc32cBit (c : Nat) : Nat := if c % 2 = 1 then (c / 2) ^^^ 0x82F63B78 else c / 2
def crc32cByte (c : Nat) (b : Byte) : Nat :=
  crc32cBit (crc32cBit (crc32cBit (crc32cBit (crc32cBit (crc32cBit (crc32cBit (crc32cBit (c ^^^ b.toNat))))))))
def crc32c (bs : List Byte) : Nat := bs.foldl crc32cByte (2 ^ 32 - 1) ^^^ (2 ^ 32 - 1)

/-- The header of a flit (Table 15.2), without LSEQ. -/
structure FlitHead where
  type : Nat
  nslot : Nat := 0
  dst : Nat
  src : Nat
  route : Nat
  step : Nat := 0
  count : Nat := 0
  status : Nat := 0
  deriving DecidableEq, Repr
def FlitHead.word (h : FlitHead) (lseq : Nat) : Nat :=
  h.type + 2 ^ 4 * h.nslot + 2 ^ 8 * h.dst + 2 ^ 21 * h.src + 2 ^ 34 * (h.route % 2 ^ 16) + 2 ^ 50 * (lseq % 256) + 2 ^ 64 * (h.step % 2 ^ 48)
    + 2 ^ 112 * h.count + 2 ^ 120 * h.status
/-- A line slot: its 64 bytes with their check value, and its descriptor. -/
structure FlitSlot where
  data : Nat
  cv : Nat
  desc : Nat
  deriving DecidableEq, Repr
/-- Close a flit's first 252 bytes with the CRC. -/
def closeFlit (bs : List Byte) : List Byte := bs ++ bytesOf 4 (crc32c bs)
/-- A flit of line slots. -/
def slotFlit (h : FlitHead) (lseq : Nat) (sl : List FlitSlot) : List Byte :=
  let slot (i : Nat) : List Byte := match sl[i]? with | some x => bytesOf 64 x.data ++ bytesOf 2 x.cv | none => bytesOf 66 0
  let desc (i : Nat) : List Byte := bytesOf 8 ((sl[i]?.map fun x => x.desc).getD 0)
  closeFlit (bytesOf 16 (h.word lseq) ++ slot 0 ++ slot 1 ++ slot 2 ++ desc 0 ++ desc 1 ++ desc 2 ++ bytesOf 14 0)
/-- A flit of 32-bit words. -/
def wordFlit (h : FlitHead) (lseq : Nat) (ws : List Nat) : List Byte :=
  let body := ws.flatMap (bytesOf 4)
  closeFlit (bytesOf 16 (h.word lseq) ++ body ++ bytesOf (236 - body.length) 0)
/-- Fields of a flit received. -/
def flitHead (bs : List Byte) : Nat := natOf (bs.take 16)
def flitSlotData (bs : List Byte) (i : Nat) : Nat := natOf ((bs.drop (16 + 66 * i)).take 64)
def flitSlotCv (bs : List Byte) (i : Nat) : Nat := natOf ((bs.drop (80 + 66 * i)).take 2)
def flitDesc (bs : List Byte) (i : Nat) : Nat := natOf ((bs.drop (214 + 8 * i)).take 8)
def flitWord (bs : List Byte) (i : Nat) : Nat := natOf ((bs.drop (16 + 4 * i)).take 4)
/-- The zero fields of a flit's first 252 bytes are zero: those of its header, bytes 238 to 251 but for the words of a GRANT, ACK or REFUSE, and the
upper bits of the descriptors of a flit that is neither of these nor DATA (R403, R404). -/
def flitZeros (bs : List Byte) : Bool :=
  let h := flitHead bs
  let ty := bits h 3 0
  let words := decide (2 ≤ ty) && decide (ty ≤ 4)
  bits h 7 6 == 0 && bits h 63 58 == 0 && bits h 127 124 == 0 && (bs.drop (if words then max 238 (16 + 4 * bits h 119 112) else 238)).all (fun b => b == 0) &&
    (words || ty == 10 || (List.range 3).all fun i => decide (flitDesc bs i < 4))
/-- The check of a link on a flit it receives (R404). -/
def crcOk (bs : List Byte) : Bool := bs.length == 256 && natOf (bs.drop 252) == crc32c (bs.take 252)
def flitSeq (bs : List Byte) : Nat := bits (flitHead bs) 57 50
/-- R404: a flit whose CRC passes, of an assigned TYPE, with its zero fields zero. -/
def flitOk (bs : List Byte) : Bool := crcOk bs && decide (bits (flitHead bs) 3 0 ≤ 11) && flitZeros (bs.take 252)

/-- The port of the link by which a module is reached, directly or through switches (R402, log 21). -/
def linkTo (dst : Nat) : Nat := Config.linkTo dst % 18
/-- Send a flit; once a link has failed, flits may be lost (R404). -/
def State.sendFlit (s : State) (dst : Nat) (bs : List Byte) : State :=
  if s.linkDown && Config.lost (s.tick + s.outFlits.length) then s else { s with outFlits := s.outFlits ++ [(linkTo dst, bs)] }
/-- The link sequence number of the next flit on the link to a module. -/
def State.lseq (s : State) (dst : Nat) : Nat := (s.outFlits.filter fun f => f.1 == linkTo dst).length % 256

/-! ### Links (R402, R404) -/

def LinkIn.reset : LinkIn := ⟨0, false⟩
def State.linkIn (s : State) (port : Nat) : LinkIn := sget LinkIn.reset s.links port
/-- After a failing flit, the link takes nothing until that flit comes again. -/
def State.linkBad (s : State) (port : Nat) : State := { s with links := sput LinkIn.reset s.links port { s.linkIn port with retry := true } }
def State.linkGood (s : State) (port seq : Nat) : State := { s with links := sput LinkIn.reset s.links port ⟨(seq + 1) % 256, false⟩ }
def LinkIn.takes (l : LinkIn) (seq : Nat) : Bool := !l.retry || l.next == seq

/-! ### Sending -/

/-- A flit of words to a route's other end. -/
def State.sendWords (s : State) (route type : Nat) (ws : List Nat) (count status : Nat) : State :=
  let e := s.routeEntry route
  let dst := bits e 14 2
  s.sendFlit dst (wordFlit { type, dst, src := s.modnum, route := bits e 30 15, count, status } (s.lseq dst) ws)
/-- A flit without slots to a member of a group (STEP, ABORT, FINAL, AGREED, READY, GANGPRE). READY carries GID and EPOCH in its words. -/
def State.sendGroup (s : State) (g m type step : Nat) (ws : List Nat) : State :=
  let dst := s.memberModule g m
  s.sendFlit dst (wordFlit { type, dst, src := s.modnum, route := g % 256, step } (s.lseq dst) ws)
/-- The same to every other member. -/
def State.sendMembers (s : State) (g type step : Nat) (ws : List Nat) : State :=
  ((s.members g).filter fun m => m != s.selfIndex g).foldl (fun s m => s.sendGroup g m type step ws) s
/-- The step in progress that a MSG on a group route carries (R413). -/
def State.stepOf (s : State) (route : Nat) : Nat :=
  let e := s.routeEntry route
  if bits e 47 47 = 1 then (s.group (bits e 55 48)).commit + 1 else 0
/-- A message with the STEP it was sent or received under, above its 64 bytes. -/
def withStep (step m : Nat) : Nat := m % 2 ^ 512 + 2 ^ 512 * step
def messageStep (m : Nat) : Nat := m / 2 ^ 512
/-- Messages of a route as MSG flits of up to three lines. -/
def State.sendRows (s : State) (route : Nat) (resend : Bool) : Nat → List Nat → State
  | 0, _ => s
  | fuel + 1, ms =>
    if ms.isEmpty then s else
    let e := s.routeEntry route
    let sl := (ms.take 3).map fun m => (⟨m % 2 ^ 512, crc16 (bytesOf 64 m), resend.toNat⟩ : FlitSlot)
    let dst := bits e 14 2
    let h : FlitHead := { type := 1, nslot := sl.length, dst, src := s.modnum, route := bits e 30 15, step := s.stepOf route }
    (s.sendFlit dst (slotFlit h (s.lseq dst) sl)).sendRows route resend fuel (ms.drop 3)

end Sys2Proof.Machine
end

