-- ==== Sys2Proof/Machine/Ops.lean ====
section
/-! DEFINITION. The named operations over a core: reading operands, results in flight and their landing (R57, R58), the checks of an
access (R67, R68), issuing an operation, taking a trap (R266) and returning from one (R270), freezing (R277). -/
namespace Sys2Proof.Machine

abbrev Out := Host.Outcome State Fault Refusal

/-! ### Cores -/

/-- A core; one that nothing has touched is as at launch. -/
def State.core (s : State) (id : Nat) : Core := sget Core.reset s.cores id
/-- Put a core back. -/
def kput {α : Type} : List (Nat × α) → Nat → α → List (Nat × α)
  | [], a, x => [(a, x)]
  | (k, v) :: rest, a, x => if a < k then (a, x) :: (k, v) :: rest else if a = k then (a, x) :: rest else (k, v) :: kput rest a x
def State.setCore (s : State) (id : Nat) (c : Core) : State := { s with cores := kput s.cores id c }
def State.updCore (s : State) (id : Nat) (f : Core → Core) : State := s.setCore id (f (s.core id))
/-- The launch a core runs for: one that is saved holds no core (R275). -/
def State.launchOf (s : State) (id : Nat) : Option Launch := s.launches.find? fun l => l.cores.contains id && l.phase != .saved
/-- It has its own trap handler, HANDVA of its record, and not the firmware handler (R360). -/
def Launch.ownHandler (l : Launch) : Bool := bits l.body 399 352 != 0
def State.setLaunch (s : State) (l : Launch) : State := { s with launches := s.launches.map fun k => if k.id = l.id then l else k }
/-- Hardware actions of unfixed time wait here until a step takes one. -/
def State.post (s : State) (i : Instr) (a : EvArg) : State :=
  if s.pending.contains (i, a) then s else { s with pending := s.pending ++ [(i, a)] }
/-- The same for things of which several alike can be under way. -/
def State.postEach (s : State) (i : Instr) (a : EvArg) : State := { s with pending := s.pending ++ [(i, a)] }
/-- Take one of them away. -/
def State.dropOne (s : State) (i : Instr) (a : EvArg) : State := { s with pending := s.pending.erase (i, a) }
def State.unpost (s : State) (i : Instr) (a : EvArg) : State := { s with pending := s.pending.filter (· != (i, a)) }

/-! ### Operands -/

/-- A source operand named in field A, B or C. -/
inductive Src where
  | s (x : SSrc) | v (x : VSrc) | d (r : DReg) | m (r : MReg) | p (r : Pred) | w (r : WReg) | h (r : HReg)
  deriving DecidableEq, Repr

/-- A scalar source (R53: s0 reads 0). -/
def Core.ss (c : Core) : SSrc → Word
  | .s r => if r = 0 then 0 else c.s[r]
  | .ls => c.ls
  | .lc0 => c.lc0
  | .lc1 => c.lc1
/-- A V-slot scalar source as a scalar source. -/
def vsToS : VSSrc → SSrc
  | .s r => .s r
  | .ls => .ls
/-- A predicate (p0 reads 1). -/
def Core.pr (c : Core) (r : Pred) : Bool := r == 0 || c.p[r]

/-- The stream port a vector register is, when it is one. -/
def portOf (r : VReg) : Option Port := if 28 ≤ r.val then some (Fin.ofNat 4 (r.val - 28)) else none
/-- The binding of a vector register, none when it is an ordinary register. -/
def Core.binding (c : Core) (r : VReg) : Option (Port × Binding) :=
  match portOf r with
  | none => none
  | some p => (c.ports[p]).map fun b => (p, b)
/-- The number of messages a list of takes takes from an endpoint. -/
def takenFrom (ch : Nat) (l : List Take) : Nat := ((l.filter fun t => t.ch == ch).map fun t => t.n).foldl (· + ·) 0
/-- The messages waiting at an endpoint after those that earlier slots of the bundle take. -/
def Core.msgsLeft (c : Core) (ch : Chan) : List Nat := (c.endpoints[ch]).msgs.drop (takenFrom ch.val c.taken)
/-- Messages as one 256-byte value. -/
def joinMsgs : List Nat → Nat
  | [] => 0
  | m :: ms => m % 2 ^ 512 + 2 ^ 512 * joinMsgs ms
/-- The data of the next pop of a port, and of one that an earlier slot of the bundle has popped the same data (R77, R171, R300). -/
def Core.portData (c : Core) (p : Port) : Nat :=
  match c.ports[p] with
  | some (.walk false _ unit filled _) => ((filled.find? fun f => f.unit == unit).map fun f => f.data).getD 0
  | some (.chan ch) =>
    let before := c.taken.takeWhile fun t => t.port != some p.val
    joinMsgs (((c.endpoints[ch]).msgs.drop (takenFrom ch.val before)).take 4)
  | _ => 0
/-- A vector source: a latch, a register, or the next unit of a read-bound port. -/
def Core.vv (c : Core) : VSrc → VWord
  | .lv0 => c.lv0
  | .lv1 => c.lv1
  | .v r =>
    match c.binding r with
    | some (p, .walk false ..) => BitVec.ofNat 2048 (c.portData p)
    | some (p, .chan _) => BitVec.ofNat 2048 (c.portData p)
    | _ => c.v[r]

/-- The hoop descriptor as 128 bits (Table 2.13). -/
def Hoop.word (h : Hoop) : Nat :=
  h.base + 2 ^ 20 * h.lines + 2 ^ 32 * h.count + 2 ^ 40 * h.head + 2 ^ 48 * h.tail + 2 ^ 56 * h.fill + 2 ^ 65 * h.valid.toNat

/-- A descriptor from its 128 bits. -/
def Hoop.ofWord (x : Nat) : Hoop := ⟨bits x 19 0, bits x 29 20, bits x 39 32, bits x 47 40, bits x 55 48, bits x 64 56, bits x 65 65 == 1⟩

/-- The value and norm of a source as its capture record keeps them (R261). -/
def Core.srcValue (c : Core) : Src → Nat × Nat
  | .s x => ((c.ss x).toNat, 0)
  | .v x => ((c.vv x).toNat, 0)
  | .d r => ((c.d[r]).toNat, (c.n[r]).toNat)
  | .m r => ((c.m[r]).toNat, 0)
  | .p r => ((c.pr r).toNat, 0)
  | .w r => ((c.w[r]).toNat, 0)
  | .h r => ((c.h[r]).word, 0)
/-- The operand code of a source (Table 2.1). -/
def Src.code : Src → Nat
  | .s x => (eSS x).toNat
  | .v x => (eVV x).toNat
  | .d r => (eD r).toNat
  | .m r => (eM r).toNat
  | .p r => (eP r).toNat
  | .w r => (eW r).toNat
  | .h r => (eH r).toNat
/-- The operand code of a destination. A result without one, such as the failed read of a TTLDP, has code 0x7F in a frame, with KIND 0 and its line address as VALUE, and
is counted under R265 (DESIGN CHOICE, log 43). -/
def Dest.code : Dest → Nat
  | .s r => r.val
  | .v r => 0x20 + r.val
  | .dir r => 0x40 + r.val
  | .norm r => 0x40 + r.val
  | .m r => 0x50 + r.val
  | .p r => 0x58 + r.val
  | .w r => 0x68 + r.val
  | .scalel => 0x7F
  | .nowhere => 0x7F
  | .matrix => 0x7F
/-- The value and norm of the register that an operand code names, the next unit of a bound port not popped (log 43). -/
def Core.codeValue (c : Core) (k : Nat) : Nat × Nat :=
  if k < 0x20 then ((c.ss (.s (Fin.ofNat 32 k))).toNat, 0)
  else if k < 0x40 then ((c.v[(Fin.ofNat 32 (k - 0x20) : VReg)]).toNat, 0)
  else if k < 0x50 then ((c.d[(Fin.ofNat 16 (k - 0x40) : DReg)]).toNat, (c.n[(Fin.ofNat 16 (k - 0x40) : DReg)]).toNat)
  else if k < 0x58 then ((c.m[(Fin.ofNat 8 (k - 0x50) : MReg)]).toNat, 0)
  else if k < 0x60 then ((c.pr (Fin.ofNat 8 (k - 0x58))).toNat, 0)
  else if k < 0x68 then ((c.h[(Fin.ofNat 8 (k - 0x60) : HReg)]).word, 0)
  else if k < 0x70 then ((c.w[(Fin.ofNat 8 (k - 0x68) : WReg)]).toNat, 0)
  else if k = 0x74 then (c.ls.toNat, 0)
  else if k = 0x75 then (c.lv0.toNat, 0)
  else if k = 0x76 then (c.lv1.toNat, 0)
  else if k = 0x77 then (c.lc0.toNat, 0)
  else if k = 0x78 then (c.lc1.toNat, 0)
  else (0, 0)
/-- The operand code of a slot's latch, out of range for M. -/
def latchCode (s : Slot) : Nat :=
  match s with
  | 0 => 0x74
  | 1 => 0x75
  | 2 => 0x76
  | 3 => 0x7F
  | 4 => 0x77
  | 5 => 0x78

/-- What a meaning sees: the state, its core and slot, and the captured operands of a resumed slot (R270). -/
structure View where
  st : State
  id : Nat
  c : Core
  slot : Slot
  cap : Option Capture

def View.val (v : View) (pos : Nat) (x : Src) : Nat × Nat :=
  match v.cap with
  | some k => (k.ops.getD pos 0, k.norms.getD pos 0)
  | none => v.c.srcValue x
/-- Scalar operand in field A, B or C (0, 1, 2). -/
def View.s (v : View) (pos : Nat) (x : SSrc) : Word := BitVec.ofNat 64 (v.val pos (.s x)).1
def View.vs (v : View) (pos : Nat) (x : VSSrc) : Word := v.s pos (vsToS x)
def View.v (v : View) (pos : Nat) (x : VSrc) : VWord := BitVec.ofNat 2048 (v.val pos (.v x)).1
def View.m (v : View) (pos : Nat) (r : MReg) : BitVec 128 := BitVec.ofNat 128 (v.val pos (.m r)).1
def View.p (v : View) (pos : Nat) (r : Pred) : Bool := (v.val pos (.p r)).1 % 2 == 1
def View.w (v : View) (pos : Nat) (r : WReg) : BitVec 512 := BitVec.ofNat 512 (v.val pos (.w r)).1
def View.h (v : View) (pos : Nat) (r : HReg) : Hoop := Hoop.ofWord (v.val pos (.h r)).1
/-- A directional operand: direction and norm pattern. -/
def View.d (v : View) (pos : Nat) (r : DReg) : VWord × Nat :=
  let x := v.val pos (.d r)
  (BitVec.ofNat 2048 x.1, x.2 % 65536)
/-- The last operand of an `s|imm` form, the immediate sign-extended (R112). -/
def View.x (v : View) (pos : Nat) : SX → Word
  | .reg r => v.s pos r
  | .imm i => i.signExtend 64
/-- The same with the immediate zero-extended. -/
def View.xz (v : View) (pos : Nat) : SX → Word
  | .reg r => v.s pos r
  | .imm i => i.zeroExtend 64
/-- The register an `s|imm` operand reads, if it is one. -/
def sxSrc (pos : Nat) : SX → List (Nat × Src)
  | .reg r => [(pos, .s r)]
  | .imm _ => []

/-! ### Plans -/

/-- One result: where, after how many issue cycles, the value and the bits of it that are written. -/
structure Land where
  dest : Dest
  lat : Nat
  val : Nat
  mask : Nat := 2 ^ 2048 - 1
  latch : Bool := true
  flags : Flags := 0
  pend : Nat := 0
  addr : Nat := 0
  deriving DecidableEq, Repr

/-- What an operation does at its issue: the checks it can fail, what it waits for, and its effects. -/
structure Plan where
  /-- ILLOP reasons found at issue, with the operand code -/
  illop : List (Nat × Nat) := []
  /-- SCHEDULE reasons with the bank -/
  sched : List (Nat × Nat) := []
  /-- other issue-time traps: rank within R103, code, XVALUE -/
  traps : List (Nat × Nat × Nat) := []
  /-- the trap is taken without waiting (R204) -/
  atOnce : Bool := false
  violation : Option Violation := none
  /-- the wait kind of R271 while the bundle is held -/
  wait : Option Nat := none
  /-- bank ports: issue cycles from now, write, bank -/
  demand : List (Nat × Bool × Nat) := []
  /-- bank ports it will take while it is bound or under way: checked now, charged as they are taken -/
  later : List (Nat × Bool × Nat) := []
  /-- the bank ports do not depend on its addresses: a gather or a scatter -/
  steady : Bool := false
  /-- message-path cycles from now (R283) -/
  msgPath : List Nat := []
  lands : List Land := []
  /-- effects from a later issue cycle on -/
  acts : List (Nat × Act) := []
  /-- memory effects in a later issue cycle -/
  writes : List (Nat × WOp) := []
  /-- accumulators read or written: first and count (R169, R206), and hoops an M-slot operation names (R221) -/
  accs : List (Nat × Nat) := []
  hoops : List Nat := []
  /-- generator states after the draws (R31) -/
  gens : Option (Vector (BitVec 32) 129) := none
  /-- issue cycles the M slot is busy -/
  busy : Nat := 0
  /-- a group operation -/
  group : Option (Nat × Nat) := none
  /-- a CHGRANT: endpoint and number -/
  grant : Option (Nat × Nat) := none
  /-- the endpoint a CHALT selects -/
  pick : Option Nat := none
  /-- messages taken from an endpoint -/
  take : Option (Nat × Nat) := none
  /-- reads that correct single-bit errors (R71) -/
  scrub : List (Nat × Nat) := []
  /-- effects on the core at issue: queues, units, the sequencer -/
  upd : Core → Core := fun c => c
  /-- effects on the rest of the device at issue -/
  updS : State → State := fun s => s

/-- Results into the register classes. -/
def landS (d : SReg) (lat : Nat) (x : Word) (fl : Flags := 0) : Land := { dest := .s d, lat, val := x.toNat, flags := fl }
def landP (d : Pred) (lat : Nat) (x : Bool) (fl : Flags := 0) : Land := { dest := .p d, lat, val := x.toNat, flags := fl }
def landV (d : VReg) (lat : Nat) (x : Nat) (mask : Nat := 2 ^ 2048 - 1) (fl : Flags := 0) : Land :=
  { dest := .v d, lat, val := x, mask, flags := fl }
def landM (d : MReg) (lat : Nat) (x : Nat) (mask : Nat := 2 ^ 128 - 1) (fl : Flags := 0) : Land :=
  { dest := .m d, lat, val := x, mask, flags := fl }
/-- Only flags, raised when a result would land. -/
def landFlags (lat : Nat) (fl : Flags) : Land := { dest := .nowhere, lat, val := 0, mask := 0, latch := false, flags := fl }

/-! ### Address checks (R66, R67) -/

/-- The save area is closed to this core's program (Table 2.11). -/
def Core.saveClosed (c : Core) : Bool := c.sp.preen && !c.sp.handler
/-- Whether `n` bytes from an effective address lie outside the scratchpad or in the closed save area. -/
def Core.badRange (c : Core) (a n : Nat) : Bool := decide (0x10_0000 < a + n) || (c.saveClosed && decide (0xF_C000 < a + n))
/-- XVALUE of ALIGN and SPAD_RANGE (Table 9.1). -/
def View.addrValue (v : View) (detail a : Nat) : Nat := detail + 256 * v.slot.val + 2 ^ 16 * (a % 2 ^ 48)
/-- SPAD_RANGE and ALIGN of `n` bytes at `a` with an alignment. -/
def View.spadTraps (v : View) (a n align : Nat) (detail : Nat := 0) : List (Nat × Nat × Nat) :=
  (if v.c.badRange a n then [(0, 0x05, v.addrValue detail a)] else []) ++
  (if a % align = 0 then [] else [(1, 0x04, v.addrValue detail a)])
/-- The banks of the lines of the scratchpad that bytes `[a, a+n)` touch, one entry a line. Beyond the last line there is no bank (R66, log 25). -/
def lineBanks (a n : Nat) : List Nat :=
  if n = 0 then []
  else ((List.range ((a + n - 1) / 64 + 1 - a / 64)).filter fun i => decide (a / 64 + i < 0x4000)).map fun i => (a / 64 + i) % 16
def readDemand (off a n : Nat) : List (Nat × Bool × Nat) := (lineBanks a n).map fun b => (off, false, b)
def writeDemand (off a n : Nat) : List (Nat × Bool × Nat) := (lineBanks a n).map fun b => (off, true, b)
/-- The landing fault of reading `[a, a+n)` of a core's scratchpad: cause and scratchpad address (R71, R72). -/
def Memory.spadFault (m : Memory) (id a n : Nat) : Nat × Nat :=
  let k := spadKey id a
  match m.bad2 k n with
  | some w => (0x0E, w - spadKey id 0)
  | none =>
    match m.badCv (k / 64 * 64) ((k + n + 63) / 64 * 64 - k / 64 * 64) with
    | some l => (0x0F, l - spadKey id 0)
    | none => (0, 0)
def View.readFault (v : View) (a n : Nat) : Nat × Nat := v.st.mem.spadFault v.id a n
/-- The first fault of several reads, an uncorrectable word before a check-value mismatch (R260). -/
def firstFault (l : List (Nat × Nat)) : Nat × Nat :=
  match l.find? fun f => f.1 == 0x0E with
  | some f => f
  | none => (l.find? fun f => f.1 != 0).getD (0, 0)
def View.readSpad (v : View) (a n : Nat) : Nat := v.st.mem.read (spadKey v.id a) n
/-- Scratchpad load latency (R60, `LATPROF.LDLAT`). -/
def Core.ldLat (c : Core) : Nat := if c.sp.compat then 4 else 6
/-- Gather latency (`LATPROF.GLAT`). -/
def Core.gLat (c : Core) : Nat := if c.sp.compat then 6 else 8

/-! ### Landing (R57, R58) -/

/-- The bits of `old` outside `mask` with those of `x` inside. -/
def mergeBits (old mask x : Nat) : Nat := ((old ||| mask) ^^^ mask) ||| (x &&& mask)

/-- The latch of a slot takes a value; of a lane mask, wider than ls, the low 64 bits (DESIGN CHOICE, log 43). -/
def Core.setLatch (c : Core) (s : Slot) (x : Nat) : Core :=
  match s with
  | 0 => { c with ls := BitVec.ofNat 64 x }
  | 1 => { c with lv0 := BitVec.ofNat 2048 x }
  | 2 => { c with lv1 := BitVec.ofNat 2048 x }
  | 3 => c
  | 4 => { c with lc0 := BitVec.ofNat 64 x }
  | 5 => { c with lc1 := BitVec.ofNat 64 x }

/-- Write a landing result into its register, and answer the register's value after masking. -/
def Core.landReg (c : Core) (d : Dest) (x mask : Nat) : Core × Nat :=
  match d with
  | .s r =>
    let y := mergeBits (c.s[r]).toNat (mask % 2 ^ 64) x
    (if r = 0 then c else { c with s := c.s.set r (BitVec.ofNat 64 y) }, y)
  | .v r =>
    let y := mergeBits (c.v[r]).toNat mask x
    ({ c with v := c.v.set r (BitVec.ofNat 2048 y) }, y)
  | .dir r =>
    let y := mergeBits (c.d[r]).toNat mask x
    ({ c with d := c.d.set r (BitVec.ofNat 2048 y) }, y)
  | .norm r =>
    let y := mergeBits (c.n[r]).toNat (mask % 2 ^ 16) x
    ({ c with n := c.n.set r (BitVec.ofNat 16 y) }, y)
  | .m r =>
    let y := mergeBits (c.m[r]).toNat (mask % 2 ^ 128) x
    ({ c with m := c.m.set r (BitVec.ofNat 128 y) }, y)
  | .p r =>
    let y := mergeBits (c.p[r]).toNat (mask % 2) x
    (if r = 0 then c else { c with p := c.p.set r (y == 1) }, y)
  | .w r =>
    let y := mergeBits (c.w[r]).toNat (mask % 2 ^ 512) x
    ({ c with w := c.w.set r (BitVec.ofNat 512 y) }, y)
  | .scalel =>
    let y := mergeBits c.sp.scalel.toNat (mask % 2 ^ 16) x
    ({ c with sp := { c.sp with scalel := BitVec.ofNat 16 y } }, y)
  | .nowhere => (c, x)
  | .matrix => (c, x)

/-- Element `j` of a walk (R76): the whole address before any paging. -/
def walkField (w : BitVec 512) (lo n : Nat) : Nat := w.toNat / 2 ^ lo % 2 ^ n
def walkAddr (w : BitVec 512) : Nat → Nat → Nat → Int → Int
  | 0, _, _, acc => acc
  | dims + 1, k, j, acc =>
    let b := walkField w (64 + 16 * k) 16 + 1
    walkAddr w dims (k + 1) (j / b) (acc + (j % b : Nat) * sextNat 32 (walkField w (160 + 32 * k) 32))
def walkDims (w : BitVec 512) : Nat := walkField w 356 3
def walkEsize (w : BitVec 512) : Nat := walkField w 352 4
/-- The number of elements over the dimensions in use. -/
def walkCount (w : BitVec 512) : Nat := (List.range (walkDims w)).foldl (fun n k => n * (walkField w (64 + 16 * k) 16 + 1)) 1
def walkAt (w : BitVec 512) (j : Nat) : Int := walkAddr w (walkDims w) 0 j (walkField w 0 48 : Nat)

/-- Elements of a unit of a stream port (R171). -/
def unitElems (w : BitVec 512) : Nat := 256 / 2 ^ walkEsize w
/-- The scratchpad bytes of unit `k`: byte position in the unit and address, for elements below the count. -/
def unitBytes (w : BitVec 512) (k : Nat) : List (Nat × Nat) :=
  let e := unitElems w
  let sz := 2 ^ walkEsize w
  ((List.range e).filter fun i => decide (k * e + i < walkCount w)).flatMap fun i =>
    (List.range sz).map fun b => (i * sz + b, (walkAt w (k * e + i)).toNat + b)
/-- Unit `k` as a load issued now would read it (R171). -/
def fillUnit (m : Memory) (id : Nat) (w : BitVec 512) (k : Nat) : Nat :=
  (unitBytes w k).foldl (fun acc p => acc + 2 ^ (8 * p.1) * (m.byte (spadKey id p.2)).toNat) 0
/-- Unit `k` filled in issue cycle `t`. -/
def fillOf (m : Memory) (id : Nat) (w : BitVec 512) (k t : Nat) : Fill :=
  let e := firstFault ((unitBytes w k).map fun p => m.spadFault id p.2 1)
  { unit := k, data := fillUnit m id w k, cycle := t, pend := e.1, addr := e.2 }
/-- Single-bit errors of a unit are written back corrected (R71). -/
def Memory.scrubUnit (m : Memory) (id : Nat) (w : BitVec 512) (k : Nat) : Memory := (unitBytes w k).foldl (fun (m : Memory) p => m.scrub (spadKey id p.2) 1) m
/-- Banks of the lines of unit `k`, one entry a line. -/
def unitBanks (w : BitVec 512) (k : Nat) : List Nat :=
  ((unitBytes w k).foldl (fun l p => nput l (p.2 / 64)) []).map (· % 16)

/-- Whether the landing of `f` goes out through its stream port: bound for writing then and now (R172, R173). -/
def Core.pushPort (c : Core) (f : Flight) : Option (Port × BitVec 512 × Nat) :=
  match f.dest with
  | .v r =>
    if f.push then
      match c.binding r with
      | some (p, .walk true w unit _ _) => some (p, w, unit)
      | _ => none
    else none
  | _ => none

/-- Two results of one bundle on one register element (R57). -/
def conflict (f g : Flight) : Bool :=
  f.issued == g.issued && f.slot != g.slot && f.dest == g.dest && f.dest != .nowhere && f.dest != .matrix && (f.mask &&& g.mask) != 0

/-- Raise flags (R35). -/
def Core.raise (c : Core) (fl : Flags) : Core := { c with sp := { c.sp with fpstat := c.sp.fpstat ||| fl }, raised := c.raised ||| fl }
/-- The flags of a result that `FPCTL.EN` enables (R36). -/
def Core.enabled (c : Core) (fl : Flags) : Flags := fl &&& BitVec.ofNat 8 (c.sp.fpctl.toNat / 256)

/-- The cause of a result when it lands: its own error, or FPTRAP for flags that are enabled and for one deferred (R36, R262). -/
def Core.landingCause (c : Core) (f : Flight) : Option Cause :=
  if f.pend ≠ 0 ∧ f.pend ≠ 0x0B then some ⟨f.pend, f.addr % 2 ^ 20 + 2 ^ 24 * f.slot.val, true⟩
  else if f.pend = 0x0B ∨ c.enabled f.flags ≠ 0 then
    some ⟨0x0B, (if c.enabled f.flags = 0 then f.flags else c.enabled f.flags).toNat + 2 ^ 8 * f.slot.val, true⟩
  else none
/-- Whether a result writes its destination: one that read an error does not (R262). -/
def Flight.lands (f : Flight) : Bool := f.pend == 0 || f.pend == 0x0B
/-- The banks that the result `f` is charged for, in the cycle after it lands (R172). -/
def Core.pushCharge (c : Core) (f : Flight) : List (Nat × Bool × Nat) :=
  match c.pushPort f with
  | some (_, w, unit) => (unitBanks w unit).map fun b => (f.due + 1, true, b)
  | none => []
/-- Land one result: register, latch, flags; and its landing fault. `win` says that no later result of this cycle takes the port push. The latch of
a slot whose masked result is pushed holds zero where the mask is clear (DESIGN CHOICE, log 43). -/
def Core.landOne (c : Core) (id : Nat) (win : Bool) (f : Flight) : Core :=
  if !f.lands then { c with causes := c.causes ++ (c.landingCause f).toList }
  else
    let pushed := c.pushPort f
    let (c1, y) := match pushed with
      | some (_, _, _) => (c, mergeBits 0 f.mask f.value)
      | none => c.landReg f.dest f.value f.mask
    let c2 := if f.latch then c1.setLatch f.slot y else c1
    let c3 : Core := match pushed with
      | some (p, w, unit) =>
        if win then
          let puts : List PutByte := (unitBytes w unit).filterMap fun (b : Nat × Nat) =>
            if f.mask / 2 ^ (8 * b.1) % 256 = 0 then none
            else some (spadKey id b.2, BitVec.ofNat 8 (f.value / 2 ^ (8 * b.1)), BitVec.ofNat 8 (f.mask / 2 ^ (8 * b.1)))
          { c2 with writes := c2.writes ++ [(f.due + 1, WOp.put puts)], ports := c2.ports.set p (some (.walk true w (unit + 1) [] 0)) }
        else c2
      | none => c2
    let c4 := c3.raise f.flags
    { c4 with causes := c4.causes ++ (c4.landingCause f).toList }

/-- Land a list of results in order. Of those of a stream port the last that lands is pushed (R57, R172, R262). -/
def Core.landAll (c : Core) (id : Nat) : List Flight → Core
  | [] => c
  | f :: fs => (c.landOne id (!(fs.any fun g => g.dest == f.dest && g.push && g.lands)) f).landAll id fs

/-- A pair of conflicting results in a list (R57). -/
def anyConflict : List Flight → Bool
  | [] => false
  | f :: fs => fs.any (conflict f) || anyConflict fs

/-! ### Effects that are due -/

def Core.setSpecial (c : Core) (r : SpecialReg) (x : Word) : Core :=
  let sp := c.sp
  match r with
  | .xcause => if sp.handler then { c with sp := { sp with xcause := x &&& 0x1FF } } else c
  | .xvalue => if sp.handler then { c with sp := { sp with xvalue := x } } else c
  | .xpc => if sp.handler then { c with sp := { sp with xpc := x &&& 0x1FFFF } } else c
  | .xstat =>
    -- EAGERCF always; MORE, OWED and CAPV in the handler (Table 9.2)
    let mask : Word := if sp.handler then 0x3F3F03 else 0x1
    { c with sp := { sp with xstat := (sp.xstat &&& ~~~mask) ||| (x &&& mask) } }
  | .fpctl =>
    let rm := x &&& 7
    { c with sp := { sp with fpctl := (x &&& 0xFF08) ||| (if rm.toNat < 5 then rm else 0) } }
  | .fpstat => { c with sp := { sp with fpstat := sp.fpstat &&& ~~~(x.setWidth 8 &&& ~~~c.raised) } }
  | .srseed => { c with sp := { sp with srseed := x.setWidth 32 }, gens := seedGens (x.setWidth 32) }
  | .scalel => { c with sp := { sp with scalel := x.setWidth 16 } }
  | .pstat => if x.getLsbD 0 then { c with sp := { sp with wconf := false } } else c
  | .resAdv => { c with sp := { sp with resAdv := x } }
  | .resUsed => { c with sp := { sp with resUsed := x } }
  | .resDenyBank => { c with sp := { sp with resDenyBank := x } }
  | .resDenyNet => { c with sp := { sp with resDenyNet := x } }
  | .resDenyPwr => { c with sp := { sp with resDenyPwr := x } }
  | .ttbase k => { c with sp := { sp with ttbase := sp.ttbase.set k (x.setWidth 32) } }
  | .latprof | .clk | .rank | .coord | .slice _ | .svpad => c

/-- `LATPROF` (Table 2.4). -/
def Core.latprof (c : Core) : Word :=
  BitVec.ofNat 64 (6 + 2 ^ 8 * (if c.sp.compat then 4 else 6) + 2 ^ 16 * c.ldLat + 2 ^ 24 * c.gLat + 2 ^ 32 * 2 + 2 ^ 40 * 2)
/-- What MOVS reads (Table 2.2). -/
def Core.getSpecial (c : Core) : SpecialReg → Word
  | .xcause => c.sp.xcause
  | .xvalue => c.sp.xvalue
  | .xpc => c.sp.xpc
  | .xstat => c.sp.xstat ||| (if c.ctxBusy.isSome then 0x4_0000_0000 else 0)
  | .fpctl => c.sp.fpctl
  | .fpstat => c.sp.fpstat.setWidth 64
  | .srseed => c.sp.srseed.setWidth 64
  | .scalel => c.sp.scalel.setWidth 64
  | .pstat => BitVec.ofNat 64 (c.sp.wconf.toNat + 2 * c.sp.compat.toNat + 4 * c.sp.preen.toNat + 8 * c.sp.handler.toNat)
  | .latprof => c.latprof
  | .clk => c.sp.clk
  | .rank => c.sp.rank
  | .coord => c.sp.coord
  | .slice k => c.sp.slice[k]
  | .resAdv => c.sp.resAdv
  | .resUsed => c.sp.resUsed
  | .resDenyBank => c.sp.resDenyBank
  | .resDenyNet => c.sp.resDenyNet
  | .resDenyPwr => c.sp.resDenyPwr
  | .ttbase k => (c.sp.ttbase[k]).setWidth 64
  | .svpad => c.sp.svpad.setWidth 64

/-- A pop of `n` tiles takes effect (R79). -/
def Hoop.popN (h : Hoop) (n : Nat) : Hoop := { h with head := (h.head + n) % (h.count + 1), fill := h.fill - n }
/-- A push takes effect (R79). -/
def Hoop.push1 (h : Hoop) : Hoop := { h with tail := (h.tail + 1) % (h.count + 1), fill := h.fill + 1 }
/-- The tile size in bytes. -/
def Hoop.tile (h : Hoop) : Nat := 64 * (h.lines + 1)
/-- The scratchpad address of tile `i` of the ring. -/
def Hoop.tileAt (h : Hoop) (i : Nat) : Nat := h.base + (i % (h.count + 1)) * h.tile

/-- Thread creation (R139): ready to fetch from now, issuing no earlier than the next clock cycle. What a killed thread left incomplete goes on. -/
def Core.createThread (c : Core) (t : Fin 64) (pc base size : Nat) (clock : Nat) : Core :=
  let h := c.threads[t]
  { c with threads := c.threads.set t { Thread.empty with status := .ready, pc, base, size, notBefore := clock + 2, seq := h.seq, pend := h.pend } }
/-- An operation whose thread was killed completes (R140), but ends no thread. -/
def TPending.orphaned (p : TPending) : TPending :=
  { p with orphan := true, kind := match p.kind with | some (.release _ f sc q) => some (.release false f sc q) | k => k }
/-- Killing (R140): a killed thread issues nothing further; its window keeps its values. -/
def Core.killThread (c : Core) (t : Fin 64) : Core :=
  let h := c.threads[t]
  if h.status = .dead then c
  else { c with threads := c.threads.set t { h with status := .dead, fetched := none, pend := h.pend.map TPending.orphaned } }

/-- Apply one due effect. Effects that reach beyond the core are applied by the clock cycle. -/
def Core.applyAct (c : Core) (clock : Nat) : Act → Core
  | .special r x => c.setSpecial r x
  | .tree k t => { c with tt := c.tt.set k t }
  | .ttbase k b => { c with sp := { c.sp with ttbase := c.sp.ttbase.set k b } }
  | .book b _ _ => { c with book := b }
  | .bind p b => { c with ports := c.ports.set p (some b) }
  | .unbind p =>
    if (c.ports[p]).isSome then
      { c with ports := c.ports.set p none, v := c.v.set (Fin.ofNat 32 (28 + p.val)) 0 }
    else c
  | .accs _ _ => c
  | .accZero _ _ => c
  | .pop h n => { c with h := c.h.set h ((c.h[h]).popN n) }
  | .transOut _ _ _ => c
  | .hoop h d => { c with h := c.h.set h d }
  | .create t pc base size => c.createThread t pc base size clock
  | .kill (some t) => c.killThread t
  | .kill none => (List.finRange 64).foldl (fun c t => c.killThread t) c
  | .grant _ _ => c
  | .seal ch => { c with endpoints := c.endpoints.set ch { c.endpoints[ch] with sealed := true } }
  | .ack _ _ => c
  | .cancel _ => c
  | .pvWord _ => c

/-! ### Effects that reach beyond the core -/

/-- Hops between two cores of one stratum (R282). -/
def hops (a b : Nat) : Nat :=
  ((coreX a : Int) - coreX b).natAbs + ((coreY a : Int) - coreY b).natAbs
/-- Something on the timed plane, visible from clock cycle `at_` on. -/
def State.wire (s : State) (at_ : Nat) (i : Instr) (a : EvArg) : State := { s with wires := s.wires ++ [(at_, i, a)] }
/-- PATH of an endpoint (Table 10.3). -/
def Endpoint.path (e : Endpoint) : Nat := e.config / 8 % 4
def Endpoint.mode (e : Endpoint) : Nat := e.config % 4
def Endpoint.tagged (e : Endpoint) : Bool := e.config / 4 % 2 == 1
/-- The route handle of a PATH 2 endpoint. -/
def Endpoint.routeOf (e : Endpoint) : Nat := bits e.config 35 20
/-- The endpoint with the send state that the fabric unit holds for a PATH 2 route (R408). -/
def State.endpoint (s : State) (id : Nat) (ch : Chan) : Endpoint :=
  let e := (s.core id).endpoints[ch]
  if e.path = 2 then { e with resend := (s.route e.routeOf).resend, retained := (s.route e.routeOf).retained.map (·.1) } else e
/-- Send something to an endpoint's peer on the device: over the timed plane on PATH 0, at a time not architected otherwise. -/
def State.toPeer (s : State) (id : Nat) (e : Endpoint) (extra : Nat) (i : Instr) (mk : Nat → Nat → EvArg) : State :=
  match e.peer with
  | none => s
  | some (pc, pe) => if e.path = 0 then s.wire (s.clock + 2 + hops id pc + extra) i (mk pc pe) else s.postEach i (mk pc pe)
/-- A CHGRANT takes effect (R293, R296): on PATH 2 a GRANT flit is sent, and clearing SEALED opens a batch (R410). -/
def State.doGrant (s : State) (id : Nat) (ch : Chan) (n : Nat) : State :=
  let e := (s.core id).endpoints[ch]
  let s1 := s.updCore id fun c => { c with endpoints := c.endpoints.set ch { e with grantOut := e.grantOut + n, sealed := false } }
  if e.path = 2 then
    let s2 := if e.sealed then s1.updRoute e.routeOf fun r => { r with prevSeen := r.seen, seen := [], acked := r.acked.filter fun t => r.seen.contains t } else s1
    if n = 0 then s2 else s2.sendWords e.routeOf 2 [] n 0
  else if n = 0 then s1 else s1.toPeer id e 0 .allowanceArrival fun pc pe => .allow pc pe n
/-- A CHACK takes effect (R298, R408); the tag of a row delivered in the current or the previous batch counts as acknowledged from then on (R410). -/
def State.doAck (s : State) (id : Nat) (ch : Chan) (tag : Nat) : State :=
  let e := (s.core id).endpoints[ch]
  if e.path = 2 then
    let s1 := s.updRoute e.routeOf fun r => { r with acked := if r.acked.contains tag || !(r.seen.contains tag || r.prevSeen.contains tag) then r.acked else r.acked ++ [tag] }
    s1.sendWords e.routeOf 3 [tag] 1 0
  else s.toPeer id e 0 .ackArrival fun pc pe => .ack pc pe tag
/-- Whether a hoop can take a tile of `n` bytes. -/
def Hoop.fits (h : Hoop) (n : Nat) : Bool := h.valid && decide (n ≤ h.tile)
def Hoop.room (h : Hoop) : Bool := decide (h.fill < h.count + 1)
/-- An agent that is ranked above tinkers takes the bank ports of some scratchpad bytes of a running core (R69, R238). -/
def State.usePorts (s : State) (id key n : Nat) (write : Bool) : State :=
  if (s.core id).run = .idle ∨ n = 0 then s
  else
    let banks := (List.range ((key + n - 1) / 64 + 1 - key / 64)).map fun i => (write, (key / 64 + i) % 16)
    s.updCore id fun c => { c with agentPorts := c.agentPorts ++ banks.filter fun b => !c.agentPorts.contains b }
/-- One push (R79, R203): the tile's bytes at TAIL with the check values they travelled with, its shadows, and the ring's advance. -/
def State.pushTile (s : State) (id : Nat) (h : HReg) (tile : List Byte) (cvs : List (Nat × Nat)) (shadows : List Nat) : State :=
  let d := (s.core id).h[h]
  let key := spadKey id (d.tileAt d.tail)
  let s1 := ({ s with mem := s.mem.putTile key tile cvs } : State).usePorts id key tile.length true
  s1.updCore id fun c => { c with h := c.h.set h d.push1, shadows := kput c.shadows (256 * h.val + d.tail) shadows }
/-- Write accumulators, 4 bytes each (R74). -/
def Memory.putAccs (m : Memory) (id : Nat) : List (Nat × Nat) → Memory
  | [] => m
  | (i, x) :: rest => (m.write (accKey id (i % 65536)) 4 x).putAccs id rest
/-- Write accumulators at once: a word of which both are written has no mark any more (R71). -/
def State.setAccs (s : State) (id : Nat) (vals : List (Nat × Nat)) : State :=
  let m := s.mem.putAccs id vals
  let whole (w : Nat) : Bool := vals.any (fun e => accKey id (e.1 % 65536) == w) && vals.any fun e => accKey id (e.1 % 65536) == w + 4
  { s with mem := { m with ecc2 := m.ecc2.filter fun w => !(whole w) } }
/-- All the bytes of a command without a fault are counted: the command has completed (R219). -/
def Cmd.counted (k : Cmd) : Bool :=
  k.fault.isNone && k.owned == 0 &&
    (k.finished || ((match k.kind with | .cpy => true | .cgath _ => true | .cscat _ => true | .cfill _ => true | _ => false) &&
      k.started && k.off == k.total && k.tiles.isEmpty))
/-- Mark a queued command as cancelled, unless it has completed (R221). -/
def Engine.cancel (e : Engine) (id : Nat) : Engine :=
  { e with queue := e.queue.map fun k => if k.id = id ∧ k.fault = none ∧ !k.counted then { k with fault := some 0x0C } else k }

/-- The core and hoop a command pushes into, when its destination is a hoop target (R216). -/
def Cmd.hoopTarget (k : Cmd) (own : Nat) : Option (Nat × Nat) :=
  let w := k.dst
  let kind := walkField w 48 4
  if kind ≤ 1 ∧ walkField w 23 1 = 1 then
    some (if kind = 1 then coreId (walkField w 60 3) (walkField w 52 4) (walkField w 56 4) else own, walkField w 20 3)
  else none
/-- Whether a command, its core's own hoops meant by KIND 0, pushes into a hoop of a core. -/
def Cmd.intoHoop (k : Cmd) (own dst h : Nat) : Bool :=
  match k.kind with
  | .cdeal pat _ => bits pat 52 52 == 1 && bits pat 55 53 == h
  | _ => k.hoopTarget own == some (dst, h)
/-- A tile on its way into a hoop that is installed anew is written where it began and not counted in the new ring (R221). -/
def Cmd.markStale (k : Cmd) (own dst h : Nat) : Cmd :=
  if k.intoHoop own dst h then { k with tiles := k.tiles.map fun t => if t.1 = dst then (t.1, { t.2 with stale := true }) else t } else k
/-- The same of forwarded tiles: each has the place it would have been pushed to. -/
def Core.staleForwards (c : Core) (h : HReg) : Core :=
  let d := c.h[h]
  let mine (f : Forward) : Bool := f.hoop == h && f.stale.isNone && d.fits f.tile.length
  { c with forwards := c.forwards.zipIdx.map fun x =>
      if mine x.1 then { x.1 with stale := some (d.tileAt (d.tail + ((c.forwards.take x.2).filter mine).length)) } else x.1 }
/-- The same of the steps of a porter's run. -/
def PCtx.staleTiles (x : PCtx) (dst h : Nat) : PCtx := { x with run := x.run.map fun r => { r with steps := r.steps.map fun k => k.markStale 0 dst h } }
/-- What is on its way into a hoop of a core that is installed anew. -/
def State.staleTiles (s : State) (dst : Nat) (h : HReg) : State :=
  ({ s with
      cores := s.cores.map (fun p => (p.1, { p.2 with engines := p.2.engines.map fun e => { e with queue := e.queue.map fun k => k.markStale p.1 dst h.val } })),
      porters := s.porters.map fun p => (p.1, { p.2 with ctxs := p.2.ctxs.map fun x => x.staleTiles dst h.val }) } : State).updCore dst fun c => c.staleForwards h

/-- Apply one due effect of a core. -/
def State.doAct (s : State) (id : Nat) (a : Act) : State :=
  match a with
  | .accs vals _ => s.setAccs id vals
  | .accZero first n => s.setAccs id ((List.range n).map fun i => (first + i, 0))
  | .grant ch n => s.doGrant id ch n
  | .ack ch tag => s.doAck id ch tag
  | .special .srseed x => { s with agenda := .event .srseedWrite (.seed id (x.setWidth 32)) :: s.agenda }
  | .transOut h tile sh =>
    if ((s.core id).h[h]).room then s.pushTile id h tile [] sh
    else (s.updCore id fun c => { c with trans := some (h, tile, sh) }).post .transposePush (.core id)
  | .cancel cid =>
    (s.updCore id fun c => { c with engines := c.engines.map fun e => e.cancel cid }).post .copyCommandComplete (.cmd id cid)
  | .hoop h d => (s.staleTiles id h).updCore id fun c => { c with h := c.h.set h d }
  | .create t pc base size => (s.updCore id fun c => c.createThread t pc base size s.clock).post .tinkerInstructionFetch (.thread id t.val)
  | a => s.updCore id fun c => c.applyAct s.clock a
def State.doActs (s : State) (id : Nat) : List Act → State
  | [] => s
  | a :: rest => (s.doAct id a).doActs id rest

/-! ### Memory effects in the write phase -/

/-- Put a flight at its place in issue order, and within one bundle in slot order. -/
def insertFlight (f : Flight) : List Flight → List Flight
  | [] => [f]
  | g :: gs => if f.issued < g.issued ∨ (f.issued = g.issued ∧ f.slot < g.slot) then f :: g :: gs else g :: insertFlight f gs
/-- Perform a SAT: the word changes, and the old value goes to its flight. An uncorrectable word or a check-value mismatch is reported
at the return latency, and nothing is written. -/
def State.doSat (s : State) (id key : Nat) (x : AtX) (b a issued : Nat) (slot : Slot) : State :=
  let n := stwBytes x.width
  let o := s.mem.read key n
  let (new, sn) := atomicNew x o b a
  let e := s.mem.spadFault id (key - spadKey id 0) n
  let mine (f : Flight) : Bool := f.issued == issued && f.slot == slot
  if e.1 = 0 then
    let s1 := { s with mem := (s.mem.scrub key n).write key n new }
    s1.updCore id fun c => { c with flights := c.flights.map fun f => if mine f then { f with value := o, flags := flagIf sn fNV } else f }
  else
    s.updCore id fun c =>
      if c.flights.any mine then { c with flights := c.flights.map fun f => if mine f then { f with pend := e.1, addr := e.2 } else f }
      else { c with flights := insertFlight { dest := .nowhere, value := 0, mask := 0, due := issued + c.ldLat, issued, slot, latch := false, flags := 0, pend := e.1, addr := e.2, push := false } c.flights }
def State.doWrite (s : State) (id : Nat) : WOp → State
  | .put bs => { s with mem := s.mem.put bs }
  | .sat key x b a issued slot => s.doSat id key x b a issued slot
  | .carm key target gen =>
    let s1 := { s with mem := s.mem.write key 16 (target % 2 ^ 32 + 2 ^ 64 * (gen % 2 ^ 32)) }
    s1.updCore id fun c => { c with faults := c.faults.filter fun f => f.arrival ≠ some key }
def State.doWrites (s : State) (id : Nat) : List WOp → State
  | [] => s
  | w :: ws => (s.doWrite id w).doWrites id ws

/-! ### Issuing a primary operation -/

/-- The stream ports that a list of sources reads (R77: a bundle pops once a port). -/
def Core.portsRead (c : Core) (srcs : List (Nat × Src)) : List (Nat × Port × Binding) :=
  srcs.filterMap fun x =>
    match x.2 with
    | .v (.v r) =>
      match c.binding r with
      | some (p, b) => some (x.1, p, b)
      | none => none
    | _ => none

/-- R144: a read-bound port as a destination, or a write-bound one as a source, is ILLOP reason 3. -/
def Core.portIllop (c : Core) (srcs : List (Nat × Src)) (p : Plan) : List (Nat × Nat) :=
  ((c.portsRead srcs).filterMap fun x => match x.2.2 with | .walk true .. => some (3, 0x3C + x.2.1.val) | _ => none) ++
  (p.lands.filterMap fun l =>
    match l.dest with
    | .v r =>
      match c.binding r with
      | some (_, .walk true ..) => none
      | some (_, _) => some (3, 0x20 + r.val)
      | none => none
    | _ => none)

/-- A pop before its unit can be delivered is SCHEDULE reason 0x08 (R171); the next fill is charged now. -/
def Core.portSched (c : Core) (srcs : List (Nat × Src)) : List (Nat × Nat) :=
  (c.portsRead srcs).filterMap fun x =>
    match x.2.2 with
    | .walk false _ unit filled _ =>
      match filled.find? fun f => f.unit == unit with
      | some f => if c.ic < f.cycle + c.ldLat then some (8, 0) else none
      | none => some (8, 0)
    | _ => none
def Core.portDemand (c : Core) (srcs : List (Nat × Src)) : List (Nat × Bool × Nat) :=
  ((c.portsRead srcs).foldl (fun l x => if l.any fun y => y.2.1 == x.2.1 then l else x :: l) []).flatMap fun x =>
    if c.popped.contains x.2.1.val then [] else
    match x.2.2 with
    | .walk false w unit _ _ => (unitBanks w (unit + 8)).map fun b => (0, false, b)
    | _ => []
/-- A channel-bound port with fewer than four messages is a wait point (R300). -/
def Core.portWait (c : Core) (srcs : List (Nat × Src)) : Option Nat :=
  if (c.portsRead srcs).any fun x =>
    match x.2.2 with
    | .chan ch => !(c.popped.contains x.2.1.val) && decide ((c.msgsLeft ch).length < 4)
    | _ => false
  then some 5 else none
/-- The results of a plan that go out through a write-bound port: port and latency (R172). -/
def Core.pushesOf (c : Core) (p : Plan) : List (Nat × Nat) :=
  p.lands.filterMap fun l =>
    match l.dest with
    | .v r =>
      match c.binding r with
      | some (q, .walk true ..) => some (q.val, l.lat)
      | _ => none
    | _ => none
/-- The ports a plan binds anew or unbinds. -/
def Plan.rebinds (p : Plan) : List Nat := p.acts.filterMap fun a => match a.2 with | .bind q _ => some q.val | .unbind q => some q.val | _ => none

/-- Mark the ports of these sources as popped by the bundle, and the messages as taken. -/
def Core.markPops (c : Core) (srcs : List (Nat × Src)) (take : Option (Nat × Nat)) : Core :=
  let c1 := (c.portsRead srcs).foldl (fun c x =>
    if c.popped.contains x.2.1.val then c else
    match x.2.2 with
    | .walk false .. => { c with popped := x.2.1.val :: c.popped }
    | .chan ch => { c with popped := x.2.1.val :: c.popped, taken := c.taken ++ [⟨ch.val, 4, some x.2.1.val⟩] }
    | _ => c) c
  match take with
  | some (ch, n) => { c1 with taken := c1.taken ++ [⟨ch, n, none⟩] }
  | none => c1

/-- The capture record of a slot (R261). -/
def Core.captureOf (c : Core) (srcs : List (Nat × Src)) : Capture :=
  let at_ (pos : Nat) : Nat × Nat := ((srcs.find? fun x => x.1 == pos).map fun x => c.srcValue x.2).getD (0, 0)
  let popd := (c.portsRead srcs).foldl (fun n x => match x.2.2 with | .walk true .. => n | _ => n ||| 2 ^ x.1) 0
  { valid := true, pred := true, popd, norms := [(at_ 0).2, (at_ 1).2, (at_ 2).2], ops := [(at_ 0).1, (at_ 1).1, (at_ 2).1] }

/-- Record what considering a slot found. An access with an address fault demands no bank (log 25). -/
def Core.look (c : Core) (slot : Slot) (cap : Option Capture) (srcs : List (Nat × Src)) (p : Plan) : Core :=
  let live := if cap.isSome then [] else srcs
  let l : Looked :=
    { slot, illop := (p.illop ++ c.portIllop live p).map fun x => (x.1, x.2, 0), sched := p.sched ++ c.portSched live, traps := p.traps,
      atOnce := p.atOnce, violation := p.violation, wait := (match p.wait with | some k => some k | none => c.portWait live),
      demand := (if !p.steady && p.traps.any fun t => t.2.1 == 4 || t.2.1 == 5 then [] else p.demand ++ p.later) ++ c.portDemand live, msgPath := p.msgPath,
      results := (p.lands.filter fun x => decide (2 ≤ x.lat)).length + (if 2 ≤ p.busy then 1 else 0),
      capture := cap.getD (c.captureOf srcs), writes := p.lands.map fun x => (x.dest, x.lat), reads := live.map fun x => x.2.code, accs := p.accs, hoops := p.hoops, group := p.group, grant := p.grant,
      seals := p.acts.filterMap (fun a => match a.2 with | .seal ch => some ch.val | _ => none), pick := p.pick, pushes := c.pushesOf p, rebinds := p.rebinds }
  { c.markPops live p.take with looked := c.looked ++ [l] }

/-- The error met by the fill of a unit popped now (R71, R171). -/
def Core.popFault (c : Core) (srcs : List (Nat × Src)) : Nat × Nat :=
  firstFault ((c.portsRead srcs).filterMap fun x =>
    match x.2.2 with
    | .walk false _ unit filled _ => (filled.find? fun f => f.unit == unit).map fun f => (f.pend, f.addr)
    | _ => none)
/-- The flights of a plan issued now. -/
def Core.flightsOf (c : Core) (slot : Slot) (srcs : List (Nat × Src)) (p : Plan) : List Flight :=
  let e := c.popFault srcs
  p.lands.map fun l =>
    { dest := l.dest, value := l.val, mask := l.mask, due := c.ic + l.lat, issued := c.ic, slot, latch := l.latch && !c.sp.handler,
      flags := l.flags, pend := if l.pend = 0 then e.1 else l.pend, addr := if l.pend = 0 then e.2 else l.addr,
      push := match l.dest with | .v r => (match c.binding r with | some (_, .walk true ..) => true | _ => false) | _ => false }

/-- An instruction that lands nothing and pops a unit whose fill met an error: the fault is raised in the cycle after its issue, and what it was to
write then or later is not written (DESIGN CHOICE, log 43). -/
def Plan.unfed (p : Plan) (e : Nat × Nat) : Plan := if e.1 ≠ 0 ∧ p.lands.isEmpty then { p with lands := [landFlags 1 0], writes := [], acts := [] } else p

/-- Issue: charge the demand, put the results in flight, queue the effects. -/
def Core.issue (c : Core) (slot : Slot) (cap : Option Capture) (srcs : List (Nat × Src)) (p0 : Plan) : Core :=
  let live := if cap.isSome then [] else srcs
  let p := p0.unfed (c.popFault live)
  let c1 := p.upd
    { c with demand := c.demand ++ (p.demand ++ c.portDemand live).map (fun d => (c.ic + d.1, d.2.1, d.2.2))
             msgPath := c.msgPath ++ p.msgPath.map (c.ic + ·)
             flights := c.flights ++ c.flightsOf slot live p
             acts := c.acts ++ p.acts.map (fun a => (c.ic + a.1, c.ic, a.2))
             writes := c.writes ++ p.writes.map (fun w => (c.ic + w.1, w.2))
             gens := p.gens.getD c.gens
    }
  c1.markPops live p.take

/-- A primary operation: while its bundle is considered, what it would do is recorded; when the bundle issues, it is done. -/
def primOp (srcs : List (Nat × Src)) (body : View → Plan) (s : State) : Out :=
  match s.cur with
  | .slot id slot issue =>
    let c := s.core id
    let cap := (c.resumeCaps.find? fun x => x.1 == slot.val).map (·.2)
    let v : View := ⟨s, id, c, slot, cap⟩
    let p := body v
    if issue then
      .next (p.updS ({ s with mem := p.scrub.foldl (fun (m : Memory) (r : Nat × Nat) => m.scrub r.1 r.2) s.mem }.setCore id (c.issue slot cap srcs p)))
    else .next (s.setCore id (c.look slot cap srcs p))
  | _ => .fault .noAgent

/-! ### Taking a trap (R263 to R267) -/

/-- A register image of a flight (Table 9.5), without its value and byte mask: the bits of bytes 288 to 295. -/
def Flight.tail (f : Flight) (t : Nat) : Nat :=
  let kind := match f.dest with | .norm _ => 1 | .scalel => 2 | .matrix => 3 | _ => 0
  let dest := match f.dest with | .scalel => 0 | .matrix => 0 | d => d.code
  dest + 2 ^ 7 * kind + 2 ^ 10 + 2 ^ 11 * f.slot.val + 2 ^ 16 * (f.due - t) + 2 ^ 32 * f.pend + 2 ^ 40 * f.flags.toNat
def byteMask (mask : Nat) : Nat := (List.range 256).foldl (fun acc i => if mask / 2 ^ (8 * i) % 256 = 0 then acc else acc + 2 ^ i) 0
/-- Bits of a destination. -/
def Dest.width : Dest → Nat
  | .s _ => 64 | .v _ => 2048 | .dir _ => 2048 | .norm _ => 16 | .m _ => 128 | .p _ => 1 | .w _ => 512 | .scalel => 16 | .nowhere => 0 | .matrix => 0
/-- Bytes of a replay register. -/
def Flight.image (f : Flight) (t : Nat) : Nat :=
  let v := if f.dest = .nowhere ∨ f.dest = .matrix then f.addr else f.value % 2 ^ 2048
  v + 2 ^ 2048 * byteMask (f.mask % 2 ^ f.dest.width) + 2 ^ 2304 * f.tail t
/-- Bytes of a capture record (Table 9.4). -/
def Capture.image (k : Capture) : Nat :=
  k.valid.toNat + 2 * k.pred.toNat + 4 * k.popd
    + 2 ^ 64 * (k.norms.getD 0 0 + 2 ^ 16 * k.norms.getD 1 0 + 2 ^ 32 * k.norms.getD 2 0)
    + 2 ^ 512 * k.ops.getD 0 0 + 2 ^ 2560 * k.ops.getD 1 0 + 2 ^ 4608 * k.ops.getD 2 0
/-- The 16 bytes of a loop level (Table 9.3). -/
def loopImage (l : Option Loop) : Nat :=
  match l with
  | none => 0
  | some l => l.start % 2 ^ 17 + 2 ^ 17 * (l.stop % 2 ^ 17) + 2 ^ 34 + 2 ^ 64 * l.left
def transferImage (x : Option Nat) : Nat :=
  match x with
  | none => 0
  | some t => t % 2 ^ 17 + 2 ^ 32

/-- The replay entries of the outstanding results at boundary `t`, the deferred ones of `t` among them (R262, R263). -/
def Core.outstanding (c : Core) : List Flight := c.flights.filter fun f => decide (c.ic ≤ f.due)
/-- The matrix operation still in its beats at the boundary, or whose output waits (R214). -/
def Core.matBusy (c : Core) : Option MatBusy := c.matrix.filter fun b => decide (c.ic < b.free) || c.trans.isSome
/-- What is held at a boundary (R266). -/
def Core.held_ (c : Core) : Saved :=
  { at_ := c.ic, pc := c.pc, owed := c.owed, transfers := c.transfers, loops := c.loops, replay := c.outstanding, matrix := c.matBusy,
    msgPath := c.msgPath.filter fun k => decide (c.ic ≤ k) }

/-- The trap frame's bytes (R267). Loop levels stand innermost first. -/
def Core.frameBytes (c : Core) (sv : Saved) (caps : List (Nat × Capture)) : List PutByte :=
  let at_ (a n x : Nat) : List PutByte := putBytes a (bytesOf n x)
  let tr (k : Nat) := (sv.transfers.find? fun p => p.1 == c.ic + k).map (·.2)
  at_ 0xFC000 8 (transferImage (tr 1)) ++ at_ 0xFC008 8 (transferImage (tr 2)) ++
  at_ 0xFC010 16 (loopImage (sv.loops[0]?)) ++ at_ 0xFC020 16 (loopImage (sv.loops[1]?)) ++ at_ 0xFC030 208 0 ++
  (List.range 6).flatMap (fun i => at_ (0xFC100 + 832 * i) 832 (((caps.find? fun x => x.1 == i).map fun x => x.2.image).getD 0)) ++
  (List.range 24).flatMap (fun k => at_ (0xFD480 + 320 * k) 320
    (((sv.replay[k]?).map fun f => f.image c.ic).getD 0))

/-- Complete the memory effects and unit work of bundles already issued (R264, R263); the adds of the release queue need wait for no store any more.
A port's fill completed here counts as filled in the boundary's issue cycle, so that after the return its unit may be popped from the load latency after that cycle on
(R171; DESIGN CHOICE, log 43). -/
def State.drainCore (s : State) (id : Nat) : State :=
  let c := s.core id
  let s1 := (s.setCore id { c with writes := [], demand := [], msgPath := [] }).doWrites id (c.writes.map fun w => w.2)
  let s2 := (s1.updCore id fun c => { c with acts := [] }).doActs id (c.acts.map fun a => a.2.2)
  let fills (m : Memory) : Memory := (List.finRange 4).foldl (fun (m : Memory) p => match (s2.core id).ports[p] with
    | some (.walk false w unit _ next) => (List.range (unit + 8 - next)).foldl (fun (m : Memory) i => m.scrubUnit id w (next + i)) m
    | _ => m) m
  ({ s2 with mem := fills s2.mem } : State).updCore id fun c1 =>
    { c1 with acts := [], treeFree := 0, releases := c1.releases.map fun r => { r with notBefore := 0 }
              ports := c1.ports.map fun (p : Option Binding) => match p with
                | some (.walk false w unit filled next) =>
                  some (.walk false w unit (filled ++ (List.range (unit + 8 - next)).map fun i => fillOf s1.mem id w (next + i) c1.ic)
                    (max next (unit + 8)))
                | b => b }

/-- Enter the resident handler (R266): XCAUSE, XVALUE, XPC and XSTAT are written, what is outstanding is held (and written to the trap
frame when PREEN is 1), HANDLER becomes 1, and the first handler bundle is fetched from `SVPAD.ENTRY`. -/
def State.enterHandler (s : State) (id : Nat) (k : Cause) (more : Bool) (caps : Option (List (Nat × Capture))) : State :=
  let s1 := s.drainCore id
  let c : Core := { s1.core id with msgPath := (s.core id).msgPath.filter fun k => decide ((s.core id).ic ≤ k) }
  let capl := caps.getD c.captures
  let capv := match caps with
    | some l => l.foldl (fun n x => n ||| 2 ^ x.1) 0
    | none => bits c.sp.xstat.toNat 21 16
  let sv := c.held_
  let xstat := (c.sp.xstat.toNat % 2) + 2 * more.toNat + 4 * c.sp.preen.toNat + 2 ^ 8 * c.owed + 2 ^ 16 * capv + 2 ^ 35 * bits c.sp.xstat.toNat 35 35
  let sp := { c.sp with xcause := BitVec.ofNat 64 (k.code + 2 ^ 8 * k.land.toNat), xvalue := BitVec.ofNat 64 k.value,
                        xpc := BitVec.ofNat 64 c.pc, xstat := BitVec.ofNat 64 xstat, handler := true }
  let s2 := if c.sp.preen then { s1 with mem := s1.mem.put ((c.frameBytes sv capl).map fun b => (spadKey id b.1, b.2.1, b.2.2)) } else s1
  s2.setCore id { c with sp, saved := some sv, captures := capl, resumeCaps := [], looked := [], popped := [], taken := [],
                         flights := [], transfers := [], loops := [], matrix := if c.trans.isSome then c.matrix.map fun b => { b with free := c.ic } else none, board := [], pc := sp.svpad.toNat, owed := 0,
                         handlerFault := none, skip := none, entry := none, eretPending := false }

/-! ### Returning from the handler (R270) -/

/-- The destination a replay register's code and kind name. -/
def destOfCode (kind code : Nat) : Dest :=
  if kind = 2 then .scalel
  else if kind = 3 then .matrix
  else if kind = 1 then .norm (Fin.ofNat 16 (code - 0x40))
  else if code < 0x20 then .s (Fin.ofNat 32 code)
  else if code < 0x40 then .v (Fin.ofNat 32 (code - 0x20))
  else if code < 0x50 then .dir (Fin.ofNat 16 (code - 0x40))
  else if code < 0x58 then .m (Fin.ofNat 8 (code - 0x50))
  else if code < 0x60 then .p (Fin.ofNat 8 (code - 0x58))
  else if 0x68 ≤ code ∧ code < 0x70 then .w (Fin.ofNat 8 (code - 0x68))
  else .nowhere
/-- The bit mask a byte mask stands for. -/
def bitMask (bm : Nat) : Nat := (List.range 256).foldl (fun acc i => if bits bm i i = 1 then acc + 255 * 2 ^ (8 * i) else acc) 0
/-- Whether a destination is a write-bound stream port. -/
def Core.isPush (c : Core) (d : Dest) : Bool := match d with | .v r => (match c.binding r with | some (_, .walk true ..) => true | _ => false) | _ => false
/-- A replay register read back from its image at resume cycle `t2`; entry `k` keeps its place in issue order. One whose destination is a write-bound
port is pushed when it lands (R57, R270). -/
def Core.flightOfImage (c : Core) (x t2 k : Nat) : Flight :=
  let tl := x / 2 ^ 2304 % 2 ^ 64
  let kind := bits tl 9 7
  let d := destOfCode kind (bits tl 6 0)
  { dest := d, value := x % 2 ^ 2048, mask := bitMask (x / 2 ^ 2048 % 2 ^ 256), due := t2 + bits tl 31 16, issued := k, slot := Fin.ofNat 6 (bits tl 13 11),
    latch := kind = 0, flags := BitVec.ofNat 8 (bits tl 47 40), pend := bits tl 39 32, addr := x % 2 ^ 20, push := c.isPush d }
/-- A capture record read back. -/
def captureOfImage (x : Nat) : Capture :=
  { valid := bits x 0 0 = 1, pred := bits x 1 1 = 1, popd := bits x 4 2,
    norms := [bits x 79 64, bits x 95 80, bits x 111 96],
    ops := [x / 2 ^ 512 % 2 ^ 2048, x / 2 ^ 2560 % 2 ^ 2048, x / 2 ^ 4608 % 2 ^ 2048] }
/-- A loop level read back from an image the handler changed: it is taken as past its first pass (DESIGN CHOICE, log 43). -/
def loopOfImage (x : Nat) : Option Loop :=
  if bits x 34 34 = 1 then some { start := bits x 16 0, stop := bits x 33 17, left := bits x 95 64, body := none } else none
/-- The level an image holds, the one written there itself where the image is unchanged. -/
def loopBack (was : Option Loop) (x : Nat) : Option Loop := if loopImage was = x then was else loopOfImage x

/-- What a frame in the save area holds, an entry the handler left alone keeping its exact form (log 17). -/
def State.frameOf (s : State) (id : Nat) (sv : Saved) : Saved × List (Nat × Capture) :=
  let t := sv.at_
  let rd (a n : Nat) := s.mem.read (spadKey id a) n
  let tr (a k : Nat) : List (Nat × Nat) := let x := rd a 8; if bits x 32 32 = 1 then [(t + k, bits x 16 0)] else []
  let fl := ((List.range 24).map fun k => (k, rd (0xFD480 + 320 * k) 320)).filterMap fun e =>
    if bits (e.2 / 2 ^ 2304) 10 10 = 1 then
      some (match sv.replay[e.1]? with
        | some f => if f.image t = e.2 then f else (s.core id).flightOfImage e.2 t e.1
        | none => (s.core id).flightOfImage e.2 t e.1)
    else none
  ({ at_ := t, pc := sv.pc, owed := sv.owed, transfers := tr 0xFC000 1 ++ tr 0xFC008 2,
     loops := (loopBack (sv.loops[0]?) (rd 0xFC010 16)).toList ++ (loopBack (sv.loops[1]?) (rd 0xFC020 16)).toList, replay := fl ++ sv.replay.drop 24,
     matrix := match fl.find? fun f => f.dest == .matrix with | some f => some { (sv.matrix.getD ⟨0, [], []⟩) with free := f.due } | none => sv.matrix.map fun b => { b with free := t }, msgPath := sv.msgPath },
   (List.range 6).map fun i => (i, captureOfImage (rd (0xFC100 + 832 * i) 832)))
/-- Take up again what a boundary left: results land, transfers redirect and beats go on relative to it. -/
def Core.takeUp (c : Core) (f : Saved) : Core :=
  { c with ic := f.at_, landed := false, flights := f.replay, transfers := f.transfers, loops := f.loops, board := [], matrix := f.matrix, msgPath := f.msgPath }
/-- The reservations of the message path that run on after a return: those of the boundary, and those that the handler's last bundles made, by the cycles they
are away (R283). -/
def Core.pathAfter (c : Core) (sv : Saved) : List Nat := sv.msgPath ++ (c.msgPath.filter fun k => decide (c.ic ≤ k)).map fun k => k - c.ic + sv.at_
/-- Resume after ERET (R270). CAPV stands until the bundle issues. The issue cycle `t2` takes the number of the boundary's cycle again.
A bundle at an address whose bits 1 and 0 a handler wrote as other than zero, in XPC or in a saved target, is fetched from that byte on (DESIGN CHOICE, log 43). -/
def State.resumeCore (s0 : State) (id : Nat) : State :=
  let s := s0.drainCore id
  let c := s.core id
  match c.saved with
  | none => s.setCore id { c with sp := { c.sp with handler := false }, landed := false, flights := [], eretPending := false, looked := [] }
  | some sv =>
    let x := c.sp.xstat.toNat
    let (f, caps) := if bits x 2 2 = 1 then s.frameOf id sv else (sv, c.captures)
    let capv := bits x 21 16
    let use := caps.filter fun k => bits capv k.1 k.1 = 1 && k.2.valid
    let owed := bits x 13 8
    s.setCore id { (c.takeUp f) with
      msgPath := (s0.core id).pathAfter sv
      sp := { c.sp with handler := false, xstat := c.sp.xstat &&& 0x8_003F_3F07 }, saved := none, resumeCaps := if owed = 0 then use else [],
      captures := caps, pc := c.sp.xpc.toNat % 2 ^ 17, owed := owed, skip := none, eretPending := false, looked := [] }

end Sys2Proof.Machine
end

