-- ==== Sys2Proof/Machine/Flags.lean ====
section
/-! DEFINITION. Rounding modes and the stochastic generators (R25, R26, R29 to R31), and the flush control (R22, R32). -/
namespace Sys2Proof.Machine

/-- `xs_step` of R29. -/
def xsStep (x : BitVec 32) : BitVec 32 :=
  let a := x ^^^ (x <<< 13)
  let b := a ^^^ (a >>> 17)
  b ^^^ (b <<< 5)

/-- The 129 generator states. -/
abbrev Gens := Vector (BitVec 32) 129

/-- `draw(g)` of R29. -/
def draw (gens : Gens) (g : Nat) : Nat × Gens :=
  let i : Fin 129 := Fin.ofNat 129 g
  let x := xsStep gens[i]
  (x.toNat / 65536, gens.set i x)

/-- The dynamic mode (Table 1.4, Table 1.8). -/
def Core.dynRnd (c : Core) : Rnd :=
  match c.sp.fpctl.toNat % 8 with
  | 1 => .rtz
  | 2 => .rdn
  | 3 => .rup
  | 4 => .sr
  | _ => .rne
/-- The mode of an instruction whose rounding field is `r` (R25). -/
def Core.rnd (c : Core) : Rnd → Rnd
  | .dyn => c.dynRnd
  | r => r
/-- The same where the extension word may be absent. -/
def Core.rndOpt (c : Core) : Option Rnd → Rnd
  | none => c.dynRnd
  | some r => c.rnd r
/-- `FPCTL.FTZ`. -/
def Core.ftz (c : Core) : Bool := c.sp.fpctl.toNat / 8 % 2 == 1

/-- A rounding in a mode that is not dynamic; SR takes a draw from generator `g`. -/
def modeAt (r : Rnd) (gens : Gens) (g : Nat) : Mode × Gens :=
  match r with
  | .dyn => (.rne, gens)
  | .rne => (.rne, gens)
  | .rtz => (.rtz, gens)
  | .rdn => (.rdn, gens)
  | .rup => (.rup, gens)
  | .sr => let (d, gs) := draw gens g; (.sr d, gs)

/-- The first generator of a slot (R29). -/
def genBase (s : Slot) : Nat := if s = 0 then 128 else if s = 1 then 0 else 64
/-- The generator of the lane that holds element `i` of width `w` (R143). -/
def laneGen (s : Slot) (w i : Nat) : Nat := genBase s + i * w / 32

end Sys2Proof.Machine
end

