-- ==== Sys2Proof/Machine/Operands.lean ====
section
/-! DEFINITION. Operand forms: effective addresses (R67), vector elements, masks and the loop over elements (R141 to R143). -/
namespace Sys2Proof.Machine

/-! ### Scalar operands -/

/-- `wrap(base + x, 64)`. -/
def eaOf (b x : Word) : Nat := (b + x).toNat
/-- Bits [31:0] of an s register as an FP32 pattern (R119). -/
def lo32 (x : Word) : Nat := x.toNat % 2 ^ 32

/-! ### Element types -/

def ityW : ITy → Nat
  | .i8 => 8
  | .i16 => 16
  | .i32 => 32
  | .w8 => 8
  | .w16 => 16
  | .w32 => 32
def itySigned : ITy → Bool
  | .i8 => true
  | .i16 => true
  | .i32 => true
  | .w8 => false
  | .w16 => false
  | .w32 => false
def elemBits : ElemW → Nat
  | .b8 => 8
  | .b16 => 16
  | .b32 => 32
def ftyFmt : FTy → FFmt
  | .f32 => .f32
  | .bf16 => .bf16
  | .f16 => .f16
def ftyW (t : FTy) : Nat := (ftyFmt t).width
/-- An A8 type is an integer type or a floating-point format. -/
def atyKind : ATy → ITy ⊕ FFmt
  | .i8 => .inl .i8
  | .i16 => .inl .i16
  | .i32 => .inl .i32
  | .f32 => .inr .f32
  | .w8 => .inl .w8
  | .w16 => .inl .w16
  | .w32 => .inl .w32
  | .bf16 => .inr .bf16
def atyW (t : ATy) : Nat :=
  match atyKind t with
  | .inl i => ityW i
  | .inr f => f.width
def numW : NumTy → Nat
  | .i8 => 8
  | .i16 => 16
  | .i32 => 32
  | .w8 => 8
  | .w16 => 16
  | .w32 => 32
  | .f32 => 32
  | .bf16 => 16
  | .f16 => 16
  | .e4m3 => 8
  | .e5m2 => 8
  | .q15 => 16
  | .q78 => 16
  | .q1616 => 32
  | .i64 => 64

/-! ### Elements of a vector -/

/-- The pattern of element `i` of width `w`. -/
def elemAt (w : Nat) (x : VWord) (i : Nat) : Nat := x.toNat / 2 ^ (w * i) % 2 ^ w
/-- An element as an integer of its type. -/
def elemInt (t : ITy) (x : VWord) (i : Nat) : Int :=
  let p := elemAt (ityW t) x i
  if itySigned t then sextNat (ityW t) p else (p : Int)
/-- Elements of width `w` packed from element 0 up. -/
def packElems (w : Nat) : List Nat → Nat
  | [] => 0
  | e :: es => e % 2 ^ w + 2 ^ w * packElems w es

/-! ### Masks (R141, R142) -/

/-- The bit of a lane mask that governs element `i` of width `w`. -/
def maskBit (m : BitVec 128) (w i : Nat) : Bool := m.getLsbD (if w = 32 then 2 * i else if w = 16 then i else i / 2)
/-- Whether element `i` takes part, the mask register read at issue. -/
def Core.active (c : Core) (k : Option MReg) (w i : Nat) : Bool :=
  match k with
  | none => true
  | some r => maskBit c.m[r] w i
/-- The register of a destination mask, and its ZM. -/
def dmReg (k : DMask) : Option MReg := k.map (·.1)
def dmZero (k : DMask) : Bool := (k.map (·.2)).getD false

/-! ### The loop over elements -/

/-- What a loop over elements gives: values, written bits, flags and the generators. -/
structure Elems where
  vals : List Nat
  msks : List Nat
  flags : Flags
  gens : Gens

/-- Compute `k` elements of width `w` from element `i` up: an active element is rounded in its mode, with its draw, and written; an
inactive one is written zero under `zm` and else kept. -/
def elemLoop (w : Nat) (act : Nat → Bool) (zm : Bool) (r : Rnd) (slot : Slot) (f : Nat → Mode → Res) : Nat → Nat → Gens → Elems
  | 0, _, g => ⟨[], [], 0, g⟩
  | k + 1, i, g =>
    if act i then
      let (md, g1) := modeAt r g (laneGen slot w i)
      let (v, fl) := f i md
      let e := elemLoop w act zm r slot f k (i + 1) g1
      ⟨v :: e.vals, (2 ^ w - 1) :: e.msks, fl ||| e.flags, e.gens⟩
    else
      let e := elemLoop w act zm r slot f k (i + 1) g
      ⟨0 :: e.vals, (if zm then 2 ^ w - 1 else 0) :: e.msks, e.flags, e.gens⟩

/-- A result of a vector destination from elements `d0 …` of width `w`. -/
def landElems (d : VReg) (lat w d0 : Nat) (e : Elems) : Land :=
  { dest := .v d, lat, val := packElems w e.vals * 2 ^ (w * d0), mask := packElems w e.msks * 2 ^ (w * d0), flags := e.flags }

/-- A plan that writes every active element of a v register. -/
def View.elemPlan (v : View) (d : VReg) (w lat : Nat) (k : DMask) (r : Rnd) (f : Nat → Mode → Res) : Plan :=
  let e := elemLoop w (v.c.active (dmReg k) w) (dmZero k) r v.slot f (2048 / w) 0 v.c.gens
  { lands := [landElems d lat w 0 e], gens := some e.gens }
/-- The same for a computation that neither rounds nor draws. -/
def View.plainPlan (v : View) (d : VReg) (w lat : Nat) (k : DMask) (f : Nat → Res) : Plan := v.elemPlan d w lat k .rne fun i _ => f i

/-- A plan that writes mask bits (R146): 32-bit element `i` writes bits `2i` and `2i + 1`, 16-bit element `i` bit `i`, and bit `j` of an
8-bit result is the conjunction for elements `2j` and `2j + 1`. -/
def View.maskPlan (v : View) (d : MReg) (w lat : Nat) (k : DMask) (f : Nat → Bool × Flags) : Plan :=
  let act (i : Nat) : Bool := v.c.active (dmReg k) w i
  let e :=
    if w = 32 then elemLoop 2 act (dmZero k) .rne v.slot (fun i _ => ((if (f i).1 then 3 else 0), (f i).2)) 64 0 v.c.gens
    else if w = 16 then elemLoop 1 act (dmZero k) .rne v.slot (fun i _ => ((f i).1.toNat, (f i).2)) 128 0 v.c.gens
    else elemLoop 1 (fun j => act (2 * j)) (dmZero k) .rne v.slot
      (fun j _ => (((f (2 * j)).1 && (f (2 * j + 1)).1).toNat, (f (2 * j)).2 ||| (f (2 * j + 1)).2)) 128 0 v.c.gens
  let bw := if w = 32 then 2 else 1
  { lands := [landM d lat (packElems bw e.vals) (packElems bw e.msks) e.flags] }

end Sys2Proof.Machine
end

