-- ==== Sys2Proof/Machine/Scalar.lean ====
section
/-! DEFINITION. The S slot: integer, predicate and FP32 arithmetic, scratchpad access (R112 to R124). -/
namespace Sys2Proof.Machine

/-! ### Shared forms -/

/-- A register and an `s|imm` operand; the immediate is sign-extended, or zero-extended where `zx` says so (R112). -/
def binX (zx : Bool) (lat : Nat) (f : Word → Word → Word) (d : SReg) (b : SSrc) (x : SX) : State → Out :=
  primOp ((1, .s b) :: sxSrc 2 x) fun v => { lands := [landS d lat (f (v.s 1 b) (if zx then v.xz 2 x else v.x 2 x))] }
/-- One register. -/
def unS (lat : Nat) (f : Word → Word) (d : SReg) (b : SSrc) : State → Out :=
  primOp [(1, .s b)] fun v => { lands := [landS d lat (f (v.s 1 b))] }

/-- The shift count `x[5:0]` (R113). -/
def cnt (x : Word) : Nat := x.toNat % 64
/-- The number of leading zero bits. -/
def clz64 (x : Word) : Word := BitVec.ofNat 64 (if x.toNat = 0 then 64 else 63 - Nat.log2 x.toNat)
/-- The number of one bits among the low `n` bits. -/
def popN (x : Nat) : Nat → Nat
  | 0 => 0
  | n + 1 => x / 2 ^ n % 2 + popN x n
/-- Signed division of R114: quotient and remainder. -/
def sdivrem (n d : Int) : Int × Int :=
  if d = 0 then (-1, n) else if n = -(2 ^ 63) ∧ d = -1 then (-(2 ^ 63), 0) else (n.tdiv d, n - n.tdiv d * d)
/-- Unsigned division of R114. -/
def udivrem (n d : Nat) : Nat × Nat := if d = 0 then (2 ^ 64 - 1, n) else (n / d, n % d)
def divS (b x : Word) : Word := BitVec.ofInt 64 (sdivrem b.toInt x.toInt).1
def remS (b x : Word) : Word := BitVec.ofInt 64 (sdivrem b.toInt x.toInt).2
def divU (b x : Word) : Word := BitVec.ofNat 64 (udivrem b.toNat x.toNat).1
def remU (b x : Word) : Word := BitVec.ofNat 64 (udivrem b.toNat x.toNat).2
def mulhS (b x : Word) : Word := BitVec.ofInt 64 (b.toInt * x.toInt / 2 ^ 64)
def mulhU (b x : Word) : Word := BitVec.ofNat 64 (b.toNat * x.toNat / 2 ^ 64)
/-- `rot`: right by `x[5:0]`. -/
def rotS (b x : Word) : Word := b.rotateRight (cnt x)
/-- ADDA: the sum within 48 bits, bits [63:48] of the first operand through. -/
def addaS (b x : Word) : Word := BitVec.ofNat 64 (b.toNat / 2 ^ 48 * 2 ^ 48 + (b.toNat + x.toNat) % 2 ^ 48)
/-- BFX (R116). -/
def bfxS (f : BitField) (b : Word) : Word :=
  let w := f.wm1.val + 1
  let x := b.toNat / 2 ^ f.pos.val % 2 ^ w
  if f.sx then BitVec.ofInt 64 (sextNat w x) else BitVec.ofNat 64 x
/-- BFI (R116): the field of `a` takes the low bits of `b`. -/
def bfiS (f : BitField) (a b : Word) : Word :=
  let mask := (2 ^ (f.wm1.val + 1) - 1) * 2 ^ f.pos.val
  BitVec.ofNat 64 (mergeBits a.toNat mask (b.toNat * 2 ^ f.pos.val))
/-- Whether a condition takes a zero-extended immediate (Table 4.3). -/
def condIsW : ICond → Bool
  | .ltw => true
  | .lew => true
  | .gtw => true
  | .gew => true
  | _ => false
/-- A condition of Table 4.3 on signed and on unsigned readings of the operands. -/
def condHolds (cc : ICond) (sb sx : Int) (ub ux : Nat) : Bool :=
  match cc with
  | .eq => decide (ub = ux)
  | .ne => decide (ub ≠ ux)
  | .lt => decide (sb < sx)
  | .le => decide (sb ≤ sx)
  | .gt => decide (sx < sb)
  | .ge => decide (sx ≤ sb)
  | .ltw => decide (ub < ux)
  | .lew => decide (ub ≤ ux)
  | .gtw => decide (ux < ub)
  | .gew => decide (ux ≤ ub)
def cond64 (cc : ICond) (b x : Word) : Bool := condHolds cc b.toInt x.toInt b.toNat x.toNat

/-! ### Integer and address arithmetic (R113 to R116) -/

def execAdd (d : SReg) (b c : SSrc) : State → Out :=
  primOp [(1, .s b), (2, .s c)] fun v => { lands := [landS d 1 (v.s 1 b + v.s 2 c)] }
def execSub (d : SReg) (b : SSrc) (x : SX) : State → Out := binX false 1 (fun p q => p - q) d b x
def execAddi (d : SReg) (b : SSrc) (imm : BitVec 32) : State → Out := unS 1 (fun p => p + imm.signExtend 64) d b
def execMul (d : SReg) (b : SSrc) (x : SX) : State → Out := binX false 3 (fun p q => p * q) d b x
def execMulh (d : SReg) (b : SSrc) (x : SX) : State → Out := binX false 3 mulhS d b x
def execMulhW (d : SReg) (b : SSrc) (x : SX) : State → Out := binX true 3 mulhU d b x
def execDiv (d : SReg) (b : SSrc) (x : SX) : State → Out := binX false 18 divS d b x
def execDivW (d : SReg) (b : SSrc) (x : SX) : State → Out := binX true 18 divU d b x
def execRem (d : SReg) (b : SSrc) (x : SX) : State → Out := binX false 18 remS d b x
def execRemW (d : SReg) (b : SSrc) (x : SX) : State → Out := binX true 18 remU d b x
def execAnd (d : SReg) (b : SSrc) (x : SX) : State → Out := binX false 1 (fun p q => p &&& q) d b x
def execOr (d : SReg) (b : SSrc) (x : SX) : State → Out := binX false 1 (fun p q => p ||| q) d b x
def execXor (d : SReg) (b : SSrc) (x : SX) : State → Out := binX false 1 (fun p q => p ^^^ q) d b x
def execAndn (d : SReg) (b : SSrc) (x : SX) : State → Out := binX false 1 (fun p q => p &&& ~~~q) d b x
def execShl (d : SReg) (b : SSrc) (x : SX) : State → Out := binX false 1 (fun p q => p <<< cnt q) d b x
def execShr (d : SReg) (b : SSrc) (x : SX) : State → Out := binX false 1 (fun p q => p >>> cnt q) d b x
def execSar (d : SReg) (b : SSrc) (x : SX) : State → Out := binX false 1 (fun p q => p.sshiftRight (cnt q)) d b x
def execRot (d : SReg) (b : SSrc) (x : SX) : State → Out := binX false 1 rotS d b x
def execClz (d : SReg) (b : SSrc) : State → Out := unS 1 clz64 d b
def execPopc (d : SReg) (b : SSrc) : State → Out := unS 1 (fun p => BitVec.ofNat 64 (popN p.toNat 64)) d b
def execMin (d : SReg) (b : SSrc) (x : SX) : State → Out := binX false 1 (fun p q => if q.slt p then q else p) d b x
def execMinW (d : SReg) (b : SSrc) (x : SX) : State → Out := binX true 1 (fun p q => if q < p then q else p) d b x
def execMax (d : SReg) (b : SSrc) (x : SX) : State → Out := binX false 1 (fun p q => if p.slt q then q else p) d b x
def execMaxW (d : SReg) (b : SSrc) (x : SX) : State → Out := binX true 1 (fun p q => if p < q then q else p) d b x
/-- R115: the predicate is read at issue. -/
def execSel (d : SReg) (b c : SSrc) (k : Pred) : State → Out :=
  primOp [(1, .s b), (2, .s c)] fun v => { lands := [landS d 1 (if v.c.pr k then v.s 1 b else v.s 2 c)] }
def execLi (d : SReg) (imm : BitVec 32) : State → Out := primOp [] fun _ => { lands := [landS d 1 (imm.signExtend 64)] }
def execAdda (d : SReg) (b : SSrc) (x : SX) : State → Out := binX false 1 addaS d b x
def execBfx (d : SReg) (b : SSrc) (f : BitField) : State → Out := unS 1 (bfxS f) d b
def execBfi (d : SReg) (b : SSrc) (f : BitField) : State → Out :=
  primOp [(0, .s (.s d)), (1, .s b)] fun v => { lands := [landS d 1 (bfiS f (v.s 0 (.s d)) (v.s 1 b))] }

/-! ### Compares and predicates (R117, R118) -/

def execCmp (cc : ICond) (d : Pred) (b : SSrc) (x : SX) : State → Out :=
  primOp ((1, .s b) :: sxSrc 2 x) fun v => { lands := [landP d 1 (cond64 cc (v.s 1 b) (if condIsW cc then v.xz 2 x else v.x 2 x))] }
/-- Two predicate sources. -/
def binP (f : Bool → Bool → Bool) (d b c : Pred) : State → Out :=
  primOp [(1, .p b), (2, .p c)] fun v => { lands := [landP d 1 (f (v.p 1 b) (v.p 2 c))] }
def execPand (d b c : Pred) : State → Out := binP (fun x y => x && y) d b c
def execPor (d b c : Pred) : State → Out := binP (fun x y => x || y) d b c
def execPxor (d b c : Pred) : State → Out := binP (fun x y => x != y) d b c
def execPnot (d b : Pred) : State → Out := primOp [(1, .p b)] fun v => { lands := [landP d 1 (!v.p 1 b)] }

/-! ### Scalar floating point (R119 to R121) -/

/-- A rounded FP32 result, zero-extended, with its draw from generator 128 in mode SR. -/
def View.sfRound (v : View) (d : SReg) (lat : Nat) (r : Rnd) (f : Mode → Res) : Plan :=
  let (md, g) := modeAt r v.c.gens 128
  let (p, fl) := f md
  { lands := [landS d lat (BitVec.ofNat 64 p) fl], gens := some g }
def execSfadd (d : SReg) (b c : SSrc) (rnd : Option Rnd) : State → Out :=
  primOp [(1, .s b), (2, .s c)] fun v =>
    v.sfRound d 4 (v.c.rndOpt rnd) fun md => FFmt.f32.fadd v.c.ftz md (lo32 (v.s 1 b)) (lo32 (v.s 2 c))
def execSfmul (d : SReg) (b c : SSrc) (rnd : Option Rnd) : State → Out :=
  primOp [(1, .s b), (2, .s c)] fun v =>
    v.sfRound d 4 (v.c.rndOpt rnd) fun md => FFmt.f32.fmul v.c.ftz md (lo32 (v.s 1 b)) (lo32 (v.s 2 c))
def execSffma (d : SReg) (b c : SSrc) (rnd : Option Rnd) : State → Out :=
  primOp [(0, .s (.s d)), (1, .s b), (2, .s c)] fun v =>
    v.sfRound d 4 (v.c.rndOpt rnd) fun md =>
      FFmt.f32.ffma v.c.ftz md (lo32 (v.s 1 b)) (lo32 (v.s 2 c)) (lo32 (v.s 0 (.s d)))
/-- SFMIN and SFMAX round nothing. -/
def sfMinMax (wantMax : Bool) (d : SReg) (b c : SSrc) : State → Out :=
  primOp [(1, .s b), (2, .s c)] fun v =>
    let r := FFmt.f32.minmax v.c.ftz wantMax (lo32 (v.s 1 b)) (lo32 (v.s 2 c))
    { lands := [landS d 2 (BitVec.ofNat 64 r.1) r.2] }
def execSfmin (d : SReg) (b c : SSrc) : State → Out := sfMinMax false d b c
def execSfmax (d : SReg) (b c : SSrc) : State → Out := sfMinMax true d b c
/-- A converted pattern in an s register: `.i8`, `.i16` and `.i32` sign-extended, others zero-extended (R120). -/
def extendRes (t : NumTy) (p : Nat) : Word :=
  match t with
  | .i8 => BitVec.ofInt 64 (sextNat 8 p)
  | .i16 => BitVec.ofInt 64 (sextNat 16 p)
  | .i32 => BitVec.ofInt 64 (sextNat 32 p)
  | _ => BitVec.ofNat 64 p
def execSfcvt (d : SReg) (b : SSrc) (f : CvtX) : State → Out :=
  primOp [(1, .s b)] fun v =>
    v.sfRound d 2 (v.c.rnd f.rnd) fun md =>
      let r := convert f.src f.dst v.c.ftz true md ((v.s 1 b).toNat % 2 ^ numW f.src)
      ((extendRes f.dst r.1).toNat, r.2)
def execSfcmp (cc : FCond) (d : Pred) (b c : SSrc) : State → Out :=
  primOp [(1, .s b), (2, .s c)] fun v =>
    let r := FFmt.f32.fcmp v.c.ftz cc (lo32 (v.s 1 b)) (lo32 (v.s 2 c))
    { lands := [landP d 2 r.1 r.2] }

/-! ### Scratchpad access (R122 to R124) -/

/-- Bytes of a load suffix. -/
def ldBytes : LdTy → Nat
  | .i8 => 1
  | .i16 => 2
  | .i32 => 4
  | .i64 => 8
  | .w8 => 1
  | .w16 => 2
  | .w32 => 4
/-- A loaded pattern, extended as its suffix says (R122). -/
def extendLd (t : LdTy) (x : Nat) : Word :=
  match t with
  | .i8 => BitVec.ofInt 64 (sextNat 8 x)
  | .i16 => BitVec.ofInt 64 (sextNat 16 x)
  | .i32 => BitVec.ofInt 64 (sextNat 32 x)
  | _ => BitVec.ofNat 64 x
/-- A scalar load of `n` bytes at `a`: the checks of R67, the demand of R68, the errors of R71 and R72. -/
def View.loadPlan (v : View) (d : SReg) (a n : Nat) (f : Nat → Word) : Plan :=
  let e := v.readFault a n
  { traps := v.spadTraps a n n, demand := readDemand 0 a n, scrub := [(spadKey v.id a, n)],
    lands := [{ landS d v.c.ldLat (f (v.readSpad a n)) with pend := e.1, addr := e.2 }] }
def execLds (t : LdTy) (d : SReg) (b : SSrc) (x : SX) : State → Out :=
  primOp ((1, .s b) :: sxSrc 2 x) fun v => v.loadPlan d (eaOf (v.s 1 b) (v.x 2 x)) (ldBytes t) (extendLd t)
/-- The effective address of STS. -/
def View.stsAddr (v : View) (b : SSrc) (x : SX) : Nat := eaOf (v.s 1 b) (v.x 2 x)
def execSts (n : StW) (a b : SSrc) (x : SX) : State → Out :=
  primOp ((0, .s a) :: (1, .s b) :: sxSrc 2 x) fun v =>
    let ea := v.stsAddr b x
    let k := stwBytes n
    { traps := v.spadTraps ea k k, demand := writeDemand 1 ea k,
      writes := [(1, .put (putBytes (spadKey v.id ea) (bytesOf k (v.s 0 a).toNat)))] }
/-- The nibble address of R124. -/
def nibbleAddr (b : Word) (off : Int) : Nat := wrapNat 65 (2 * (b.toNat : Int) + off)
/-- The write of one nibble: the byte and which half of it. -/
def nibblePut (key na x : Nat) : PutByte :=
  if na % 2 = 0 then (key, BitVec.ofNat 8 (x % 16), 0x0F) else (key, BitVec.ofNat 8 (x % 16 * 16), 0xF0)
def execStsN4 (a b : SSrc) (imm : BitVec 32) : State → Out :=
  primOp [(0, .s a), (1, .s b)] fun v =>
    let na := nibbleAddr (v.s 1 b) imm.toInt
    { traps := v.spadTraps (na / 2) 1 1, demand := writeDemand 1 (na / 2) 1,
      writes := [(1, .put [nibblePut (spadKey v.id (na / 2)) na (v.s 0 a).toNat])] }

end Sys2Proof.Machine
end

