-- ==== Sys2Proof/Machine/Sequencer.lean ====
section
/-! DEFINITION. The primary sequencer: reading bundles from code memory (R81, R85) and choosing the next one (R83, R125, R128). -/
namespace Sys2Proof.Machine

/-- A word of primary code memory; none beyond 0x1_FFFF (R85). -/
def Core.codeWord (c : Core) (a : Nat) : Option (BitVec 32) :=
  if a + 4 ≤ 0x20000 then
    let b (i : Nat) : Nat := (sget (0 : Byte) c.code (a + i)).toNat
    some (BitVec.ofNat 32 (b 0 + 256 * b 1 + 65536 * b 2 + 16777216 * b 3))
  else none
/-- The bundle at an address. -/
def Core.bundleAt (c : Core) (a : Nat) : Except Nat Bundle := decodeBundle c.codeWord c.sp.compat a
/-- The number of folded bundles of a header and the address after its last word, when it can be read. -/
def Core.shapeAt (c : Core) (a : Nat) : Nat × Nat :=
  match c.bundleAt a with
  | .ok b => (b.run, b.next)
  | .error _ => (0, a + 4)

/-- Where the sequencer stands. -/
structure Pos where
  pc : Nat
  owed : Nat
  transfers : List (Nat × Nat)
  loops : List Loop
  skip : Option Nat
  deriving DecidableEq, Repr

def Core.pos (c : Core) : Pos := ⟨c.pc, c.owed, c.transfers, c.loops, c.skip⟩
def Core.setPos (c : Core) (p : Pos) : Core :=
  { c with pc := p.pc, owed := p.owed, transfers := p.transfers, loops := p.loops, skip := p.skip }

/-- The levels after sequential flow leaves the bundle at `p` (innermost first), and where a level sends it back to. -/
def loopNext (p : Nat) : List Loop → List Loop × Option Nat
  | [] => ([], none)
  | l :: rest =>
    if p = l.stop then
      if 1 < l.left then ({ l with left := l.left - 1, body := none } :: rest, some l.start) else loopNext p rest
    else let (r, t) := loopNext p rest; (l :: r, t)

/-- A bundle of a first pass enters the loop buffer of every level it lies in, once (R129). -/
def loopCount (p : Nat) (ls : List Loop) : List Loop :=
  ls.map fun l => if l.start ≤ p ∧ p ≤ l.stop then { l with body := l.body.map fun b => if b.contains p then b else p :: b } else l

/-- `next_bundle` of R125: where the sequencer stands for issue cycle `t`, after the bundle due in `t - 1` issued.
`run` and `next` are the shape of the header at `p.pc`. A LOOP of count 0 that goes on past the end of a level ends that level's first pass: what follows
is no flow past its end (DESIGN CHOICE, log 43). -/
def Pos.next (p : Pos) (t run next : Nat) : Pos :=
  let loops := if p.owed = 0 then loopCount p.pc p.loops else p.loops
  match p.transfers.find? fun x => x.1 == t with
  | some (_, b) =>
    { pc := b, owed := 0, transfers := p.transfers.filter fun x => x.1 != t,
      loops := loops.filter fun l => decide (l.start ≤ b) && decide (b ≤ l.stop), skip := none }
  | none =>
    match p.skip with
    | some a => { p with pc := a, owed := 0, loops := loops.map fun l => if l.stop < a then { l with body := none } else l, skip := none }
    | none =>
      let left := if p.owed = 0 then run else p.owed - 1
      if left ≠ 0 then { p with owed := left, loops := loops }
      else
        let (ls, back) := loopNext p.pc loops
        match back with
        | some a => { p with pc := a, owed := 0, loops := ls }
        | none => { p with pc := next, owed := 0, loops := ls }

/-- Take the sequencer past the issue cycle `c.ic`. -/
def Core.advance (c : Core) : Core :=
  let (run, next) := c.shapeAt c.pc
  c.setPos (c.pos.next (c.ic + 1) run next)

/-- The header that flow without a further transfer reaches after folded bundles are skipped. -/
def Core.linkFrom (c : Core) : Nat → Pos → Nat → Nat
  | 0, p, _ => p.pc
  | fuel + 1, p, t =>
    if p.owed = 0 then p.pc
    else
      let (run, next) := c.shapeAt p.pc
      c.linkFrom fuel (p.next t run next) (t + 1)
/-- The link of a CALL issued now (R126): the header of the first bundle after the second delay cycle. -/
def Core.link (c : Core) : Nat :=
  let step (p : Pos) (t : Nat) : Pos := let (run, next) := c.shapeAt p.pc; p.next t run next
  let p3 := step (step (step c.pos (c.ic + 1)) (c.ic + 2)) (c.ic + 3)
  c.linkFrom 64 p3 (c.ic + 4)

/-- SCHEDULE reason 0x06 of the bundle due (R129): it overshoots the end of a first pass, or is its 65th bundle. -/
def Core.loopOverrun (c : Core) : Bool :=
  c.owed == 0 && c.loops.any fun l => match l.body with
    | none => false
    | some b => decide (l.stop < c.pc) || (decide (l.start ≤ c.pc) && decide (64 ≤ b.length) && !b.contains c.pc)

end Sys2Proof.Machine
end

