-- ==== Sys2Proof/Machine/Control.lean ====
section
/-! DEFINITION. The S slot: control transfer, loops, the end of the program, waiting and flags, system instructions, thread control
(R125 to R140). -/
namespace Sys2Proof.Machine

/-! ### Control transfer (R125 to R127) -/

/-- A transfer taken at issue redirects the bundle of `c + 3`. -/
def Core.take (c : Core) (target : Nat) : Core := { c with transfers := c.transfers ++ [(c.ic + 3, target)] }
/-- A register target with bits [1:0] nonzero is ALIGN (R127). -/
def View.targetTrap (v : View) (t : Nat) : List (Nat × Nat × Nat) := if t % 4 = 0 then [] else [(1, 0x04, v.addrValue 0 t)]
/-- The target of an immediate: header + IMM32, in 64 bits. -/
def View.immTarget (v : View) (imm : BitVec 32) : Nat := wrapNat 64 ((v.c.pc : Int) + imm.toInt)
/-- The target of BR and CALL, whose register stands in field A, and its ALIGN check. -/
def View.target (v : View) (t : SX) : Nat × List (Nat × Nat × Nat) :=
  match t with
  | .reg r => ((v.s 0 r).toNat, v.targetTrap (v.s 0 r).toNat)
  | .imm i => (v.immTarget i, [])
def execBr (t : SX) : State → Out :=
  primOp (sxSrc 0 t) fun v =>
    let (a, tr) := v.target t
    { traps := tr, upd := fun c => c.take a }
def execBrc (a : SSrc) (imm : BitVec 32) : State → Out :=
  primOp [(0, .s a)] fun v =>
    let go := v.s 0 a != 0
    { upd := fun c => if go then c.take (v.immTarget imm) else c }
def execCall (t : SX) : State → Out :=
  primOp (sxSrc 0 t) fun v =>
    let (a, tr) := v.target t
    { traps := tr, lands := [landS 31 1 (BitVec.ofNat 64 v.c.link)], upd := fun c => c.take a }
def execRet : State → Out :=
  primOp [] fun v =>
    let a := (v.c.ss (.s 31)).toNat
    { traps := v.targetTrap a, upd := fun c => c.take a }

/-! ### Loops (R128, R129) -/

/-- SCHEDULE reason 0x05: a third level, an inner end beyond the outer end, or a delay bundle of a taken transfer. A count of 0 opens no level,
so only the delay bundle is tested of it (DESIGN CHOICE, log 43). -/
def Core.loopBad (c : Core) (stop n : Nat) : Bool :=
  c.transfers.any (fun t => decide (c.ic < t.1)) ||
    (n != 0 && (decide (2 ≤ c.loops.length) || c.loops.any fun l => decide (l.stop < stop)))
/-- Open a level; a count of 0 goes on after the end bundle, also where that bundle is the end of an active outer level, which then stays open
and takes no loop-back (DESIGN CHOICE, log 43). -/
def Core.openLoop (c : Core) (stop n : Nat) : Core :=
  if n = 0 then { c with skip := some (c.shapeAt stop).2 }
  else { c with loops := { start := (c.shapeAt c.pc).2, stop, left := n, body := some [] } :: c.loops }
def execLoop (a : SSrc) (imm : BitVec 32) : State → Out :=
  primOp [(0, .s a)] fun v =>
    let stop := v.c.pc + imm.toNat
    let n := lo32 (v.s 0 a)
    { sched := if v.c.loopBad stop n then [(5, 0)] else [], upd := fun c => c.openLoop stop n }

/-! ### Ending the program (R130) -/

def execHalt : State → Out :=
  primOp [] fun _ => { upd := fun c => { c with run := .halted, haltPc := c.pc, transfers := [], owed := 0, skip := none } }

/-! ### Waiting and flags (R131 to R134) -/

/-- COPYFAULT's XVALUE (R220): the oldest unreported fault of the arrival word. -/
def Core.copyFaultValue (c : Core) (key : Nat) : Nat :=
  match c.faults.find? fun f => f.arrival == some key with
  | some f => f.id + 2 ^ 16 * f.code
  | none => 0
def execWaita (a b : SSrc) : State → Out :=
  primOp [(0, .s a), (1, .s b)] fun v =>
    let p := (v.s 0 a).toNat
    let w := v.readSpad p 16
    { traps := v.spadTraps p 16 16 ++ (if arrivalErr w then [(5, 0x06, v.c.copyFaultValue (spadKey v.id p))] else []),
      wait := if !(v.spadTraps p 16 16).isEmpty || arrivalErr w || arrivalReached w (lo32 (v.s 1 b)) then none else some 1,
      scrub := [(spadKey v.id p, 16)] }
def execFlagacq (a : SReg) (_sc : Scope) : State → Out :=
  primOp [(0, .s (.s a))] fun v => v.loadPlan a (v.s 0 (.s a)).toNat 8 (BitVec.ofNat 64)
/-- The identifiers of the commands a core has queued and not finished. -/
def Core.outstandingCmds (c : Core) : List Nat := c.engines.toList.flatMap fun e => e.queue.map (·.id)
def scopeAboveCore : Scope → Bool
  | .core => false
  | _ => true
/-- The entry FLAGREL adds to the release queue. -/
def Core.releaseOf (c : Core) (p : Nat) (sc : Scope) : Release :=
  ⟨p, sc, c.writes.foldl (fun n w => Nat.max n (w.1 + 1)) (c.ic + 1), if scopeAboveCore sc then c.outstandingCmds else [], none⟩
def execFlagrel (a : SSrc) (sc : Scope) : State → Out :=
  primOp [(0, .s a)] fun v =>
    let p := (v.s 0 a).toNat
    { traps := v.spadTraps p 8 8, upd := fun c => { c with releases := c.releases ++ [c.releaseOf p sc] } }
/-- The commands outstanding at a FENCE hold back those issued after it, until each completes (R134). -/
def execFence (_sc : Scope) : State → Out := primOp [] fun _ => { upd := fun c => { c with fences := c.outstandingCmds } }

/-! ### System instructions (R135 to R138) -/

def execMovs (d : SReg) (r : SpecialReg) : State → Out := primOp [] fun v => { lands := [landS d 1 (v.c.getSpecial r)] }
/-- The context engine is started by a write of 1 to CSAVE or CLOAD in the handler (R274). -/
def ctxStart (c : Core) (id : Nat) (r : SpecialReg) (x : Word) (s : State) : State :=
  if r = .xstat ∧ c.sp.handler ∧ c.ctxBusy.isNone then
    if x.getLsbD 32 then (s.updCore id fun c => { c with ctxBusy := some .save }).post .csave (.core id)
    else if x.getLsbD 33 then (s.updCore id fun c => { c with ctxBusy := some .load }).post .cload (.core id)
    else s
  else s
def execMovts (r : SpecialReg) (b : SSrc) : State → Out :=
  primOp [(1, .s b)] fun v => { acts := [(1, .special r (v.s 1 b))], updS := ctxStart v.c v.id r (v.s 1 b) }
def execTrap (n : BitVec 7) : State → Out :=
  primOp [] fun _ => { upd := fun c => { c with causes := c.causes ++ [⟨0x0C, n.toNat, false⟩] } }
/-- A valid replay entry of a reserved KIND in the trap frame (R270). -/
def View.badEntry (v : View) : Bool :=
  bits v.c.sp.xstat.toNat 2 2 == 1 && (List.range 24).any fun k =>
    let t := v.readSpad (0xFD480 + 320 * k + 288) 8
    bits t 10 10 == 1 && decide (4 ≤ bits t 9 7)
/-- R137: outside the handler ERET is an unassigned point. -/
def execEret : State → Out :=
  primOp [] fun v => { illop := if !v.c.sp.handler then [(1, 0)] else if v.badEntry then [(2, 0)] else [], upd := fun c => { c with eretPending := true } }
def execNop : State → Out := primOp [] fun _ => {}

/-! ### Tinker thread control (R139, R140) -/

/-- The checks of TCREATE. -/
def View.createBad (v : View) (t : Fin 64) (base size : Nat) : Bool :=
  let tinkers := match v.st.launchOf v.id with | some l => l.tinkers | none => 0
  decide (tinkers ≤ t.val) || (v.c.threads[t]).status != .dead || decide (size < 8) || decide (128 < size) || decide (2048 < base + size)
def execTcreate (a b c : SSrc) : State → Out :=
  primOp [(0, .s a), (1, .s b), (2, .s c)] fun v =>
    let t : Fin 64 := Fin.ofNat 64 (v.s 0 a).toNat
    let pc := (v.s 1 b).toNat % 2 ^ 48
    let base := bits (v.s 2 c).toNat 10 0
    let size := bits (v.s 2 c).toNat 23 16
    { illop := if v.createBad t base size then [(8, 0)] else [], traps := v.targetTrap pc, acts := [(1, .create t pc base size)] }
def execTkill (a : SSrc) : State → Out :=
  primOp [(0, .s a)] fun v =>
    let x := (v.s 0 a).toNat
    { acts := [(1, .kill (if bits x 6 6 = 1 then none else some (Fin.ofNat 64 x)))] }

end Sys2Proof.Machine
end

