-- ==== Sys2Proof/Machine/Walk.lean ====
section
/-! DEFINITION. Checks of walk records (R75, R76, R170). -/
namespace Sys2Proof.Machine

def walkKind (w : BitVec 512) : Nat := walkField w 48 4
/-- The core of a KIND 1 walk. -/
def walkCore (w : BitVec 512) : Nat := coreId (walkField w 60 3) (walkField w 52 4) (walkField w 56 4)
def walkPaged (w : BitVec 512) : Nat := walkField w 360 3
def walkBtab (w : BitVec 512) : Nat := walkField w 384 48
def walkBase (w : BitVec 512) : Nat := walkField w 0 48
def walkBound (w : BitVec 512) (k : Nat) : Nat := walkField w (64 + 16 * k) 16
def walkStride (w : BitVec 512) (k : Nat) : Int := sextNat 32 (walkField w (160 + 32 * k) 32)
/-- A nonzero reserved field. -/
def walkReserved (w : BitVec 512) : Bool :=
  walkField w 63 1 != 0 || walkField w 359 1 != 0 || walkField w 363 21 != 0 || walkField w 432 16 != 0 || walkField w 496 16 != 0
/-- A record every user of walks rejects: not valid, ESIZE above 8, a reserved field, too many elements (R76). DIMS = 7, which the rule does not
name, is not valid; XVALUE[7:0] of a rejected VSBIND is 0xFE for ESIZE and the count too (DESIGN CHOICE, log 43). -/
def walkBad (w : BitVec 512) : Bool :=
  walkDims w == 0 || walkDims w == 7 || decide (8 < walkEsize w) || walkReserved w || decide (2 ^ 48 < walkCount w)
/-- The lowest address of a walk, and the one after the highest byte. -/
def walkLo (w : BitVec 512) : Int :=
  (List.range (walkDims w)).foldl (fun a k => a + min 0 ((walkBound w k : Int) * walkStride w k)) (walkBase w : Int)
def walkHi (w : BitVec 512) : Int :=
  (List.range (walkDims w)).foldl (fun a k => a + max 0 ((walkBound w k : Int) * walkStride w k)) (walkBase w : Int)
    + (2 ^ walkEsize w : Nat)
/-- Base or a stride is not a multiple of the element size, for elements of at most 8 bytes (R170). -/
def walkMisaligned (w : BitVec 512) : Bool :=
  decide (walkEsize w ≤ 3) &&
    (walkBase w % 2 ^ walkEsize w != 0 ||
      (List.range (walkDims w)).any fun k => walkStride w k % ((2 ^ walkEsize w : Nat) : Int) != 0)
/-- The checks VSBIND makes of the whole walk at issue (R170). -/
def View.bindTraps (v : View) (w : BitVec 512) : List (Nat × Nat × Nat) :=
  if walkBad w || walkKind w != 0 || walkPaged w != 0 || walkBtab w != 0 then [(0, 0x05, v.addrValue 0xFE (walkBase w))]
  else
    (if walkLo w < 0 ∨ 0x10_0000 < walkHi w ∨ (v.c.saveClosed ∧ 0xF_C000 < walkHi w)
      then [(0, 0x05, v.addrValue 0xFF (wrapNat 48 (walkLo w)))] else []) ++
    (if walkMisaligned w then [(1, 0x04, v.addrValue 0xFF (walkBase w))] else [])

end Sys2Proof.Machine
end

