-- ==== Sys2Proof/Machine/Copy.lean ====
section
/-! DEFINITION. The C slot: queued copy commands at their issue, and the immediate commands (R215 to R226). What an engine does with a
queued command stands in Porter.lean. -/
namespace Sys2Proof.Machine

/-! ### Checks of walks at issue (R216, Table 7.11) -/

/-- What a walk is used as: 0 source, 1 destination, 2 index. -/
abbrev WalkRole := Nat
/-- The hoop a destination walk pushes into. -/
def walkHoop (w : BitVec 512) : Option HReg :=
  if walkKind w ≤ 1 ∧ walkBase w / 2 ^ 23 % 2 = 1 then some (Fin.ofNat 8 (walkBase w / 2 ^ 20)) else none
/-- Malformed: code 0x01. -/
def walkMalformed (w : BitVec 512) (role : WalkRole) : Bool :=
  walkBad w || decide (walkDims w < walkPaged w) ||
    (decide (walkKind w ≤ 1) && (walkBase w / 2 ^ 24 != 0 || ((walkHoop w).isSome && (role != 1 || walkBase w % 2 ^ 20 != 0))))
/-- A KIND not accepted: code 0x03. A porter program accepts no KIND 0; its KIND 3 is a violation (Table 11.6). -/
def walkKindBad (w : BitVec 512) (role : WalkRole) (handler porter : Bool) : Bool :=
  let k := walkKind w
  decide (4 ≤ k) || (walkPaged w != 0 && k != 2) ||
    (if porter then k == 0 || (role == 2 && k != 2) else (k == 3 && !handler) || (role == 2 && k != 0))
/-- The rows a gather or scatter picks from: DIMS = 2. An index walk: ESIZE 2. -/
def rowsBad (rows index : BitVec 512) : Bool := walkDims rows != 2 || walkEsize index != 2
/-- The fault code of a data command, the lowest that applies (R217). -/
def dataCode (kind : CmdKind) (dst src : BitVec 512) (handler porter : Bool) : Option Nat :=
  let bad1 := walkMalformed dst 1
  let kind3 := walkKindBad dst 1 handler porter
  let srcBad1 := walkMalformed src 0
  let srcKind3 := walkKindBad src 0 handler porter
  let pick (c1 c2 c3 : Bool) : Option Nat := if c1 then some 0x01 else if c2 then some 0x02 else if c3 then some 0x03 else none
  match kind with
  | .cfill _ => pick (bad1 || decide (3 < walkEsize dst)) false kind3
  | .cpy => pick (bad1 || srcBad1) (walkEsize dst != walkEsize src || walkCount dst != walkCount src) (kind3 || srcKind3)
  | .cgath ix =>
    pick (bad1 || srcBad1 || walkMalformed ix 2 || rowsBad src ix)
      (walkEsize dst != walkEsize src || walkCount ix * (walkBound src 0 + 1) != walkCount dst)
      (kind3 || srcKind3 || walkKindBad ix 2 handler porter)
  | .cscat ix =>
    pick (bad1 || srcBad1 || walkMalformed ix 2 || rowsBad dst ix)
      (walkEsize dst != walkEsize src || walkCount ix * (walkBound dst 0 + 1) != walkCount src)
      (kind3 || srcKind3 || walkKindBad ix 2 handler porter)
  | _ => none
/-- The bytes a data command moves: those of its rows, or of the tiles they lie in (R216). A command of another kind moves none by its walks. -/
def dataTotal (kind : CmdKind) (dst src : BitVec 512) : Nat :=
  match kind with
  | .cscat _ => (if (walkHoop dst).isSome then walkCount dst else walkCount src) * 2 ^ walkEsize src
  | .cpy => walkCount dst * 2 ^ walkEsize dst
  | .cgath _ => walkCount dst * 2 ^ walkEsize dst
  | .cfill _ => walkCount dst * 2 ^ walkEsize dst
  | _ => 0
/-- The walks a data command reads and writes. -/
def dataWalks (kind : CmdKind) (dst src : BitVec 512) : List (BitVec 512) :=
  match kind with
  | .cpy => [dst, src]
  | .cgath ix => [dst, src, ix]
  | .cscat ix => [dst, src, ix]
  | .cfill _ => [dst]
  | _ => []

/-- Whether a core lies in a launch's domain. -/
def Launch.holds (l : Launch) (c : Nat) : Bool :=
  coreZ c == l.z && decide (l.x0 ≤ coreX c) && decide (coreX c < l.x0 + l.width) && decide (l.y0 ≤ coreY c) && decide (coreY c < l.y0 + l.height)
/-- A violation of kind 2: a KIND 1 walk whose core lies outside the domain (R76, R216). -/
def View.walkViolation (v : View) (ws : List (BitVec 512)) : Option Violation :=
  match ws.find? fun w => !walkBad w && walkKind w == 1 && !((v.st.launchOf v.id).map fun l => l.holds (walkCore w)).getD false with
  | some w => some { kind := 2, slot := v.slot.val, thread := 0, handle := 0, tag := 0, shadow := 0, owner := 0, addr := walkBase w }
  | none => none

/-! ### Queued commands (R215) -/

/-- The engine of a C slot. -/
def engineOf (slot : Slot) : Fin 2 := if slot = 5 then 1 else 0
/-- The next identifier of an engine. -/
def Core.nextId (c : Core) (e : Fin 2) : Nat := 2 ^ 15 * e.val + (c.engines[e]).nextQ % 2 ^ 15
/-- A command as it enters its queue. -/
def View.newCmd (v : View) (kind : CmdKind) (dst src : BitVec 512) (arrival : Option Nat) (fault : Option Nat) : Cmd :=
  { id := v.c.nextId (engineOf v.slot), kind, dst, src, arrival, started := false, off := 0, total := dataTotal kind dst src, bytes := 0,
    after := v.c.fences, fault, handler := v.c.sp.handler, ic := v.c.ic, ready := v.st.clock + 2, tiles := [], owned := 0, finished := false, dealt := [] }
/-- Put a command into its engine's queue. -/
def Core.enqueue (c : Core) (e : Fin 2) (k : Cmd) : Core :=
  { c with engines := c.engines.set e { c.engines[e] with queue := (c.engines[e]).queue ++ [k], nextQ := (c.engines[e]).nextQ + 1 } }
/-- Whether a command's data stay in scratchpads. -/
def Cmd.localData (k : Cmd) : Bool :=
  match dataWalks k.kind k.dst k.src with
  | [] => false
  | ws => ws.all fun w => decide (walkKind w ≤ 1)
/-- An item put after the end of a core's clock cycle. -/
def afterFinish (id : Nat) (e : Item) : List Item → List Item
  | [] => [e]
  | .sys (.finish c b) :: rest => if c = id then .sys (.finish c b) :: e :: rest else .sys (.finish c b) :: afterFinish id e rest
  | x :: rest => x :: afterFinish id e rest
/-- The hardware action that carries a queued command on (R215: internal timing is not architected). One that faults at its issue completes at the
end of its cycle, after what a CARM of the bundle before performs in it (R220, R221). -/
def State.postCmd (s : State) (id : Nat) (e : Fin 2) (k : Cmd) : State :=
  if k.fault.isSome then { s with agenda := afterFinish id (.event .copyCommandComplete (.cmd id k.id)) s.agenda }
  else match k.kind with
    | .cfence _ => s.post .copyCommandComplete (.cmd id k.id)
    | _ => if k.localData then s.post .arrivalWordUpdate (.cmd id k.id) else s.post .porterRequest (.asker (.engine id e.val k.id))
/-- Queueing: the wait for room, the identifier as the slot's result at c+1, and the entry (R215). A command with a trap or violation
of its own takes it without waiting for room (DESIGN CHOICE, log 43). -/
def View.queued (v : View) (traps : List (Nat × Nat × Nat)) (viol : Option Violation) (k : Cmd) : Plan :=
  let e := engineOf v.slot
  { traps, violation := viol,
    wait := if traps.isEmpty ∧ viol.isNone ∧ 8 ≤ (v.c.engines[e]).queue.length then some 3 else none,
    lands := [{ dest := .nowhere, lat := 1, val := k.id }], upd := fun c => c.enqueue e k, updS := fun s => s.postCmd v.id e k }

/-- The core whose scratchpad holds the arrival word of a walk's command (R217). -/
def View.arrivalCore (v : View) (dst : BitVec 512) : Nat := if walkKind dst = 1 then walkCore dst else v.id
/-- CPY, CGATH, CSCAT and CFILL (R217): the arrival word's checks, the walks' checks, and the queue. -/
def View.dataPlan (v : View) (kind : CmdKind) (dst src : BitVec 512) (x : Word) : Plan :=
  v.queued (v.spadTraps x.toNat 16 16) (v.walkViolation (dataWalks kind dst src))
    (v.newCmd kind dst src (some (spadKey (v.arrivalCore dst) x.toNat)) (dataCode kind dst src v.c.sp.handler false))
def execCpy (a b : WReg) (x : SX) : State → Out :=
  primOp ([(0, .w a), (1, .w b)] ++ sxSrc 2 x) fun v => v.dataPlan .cpy (v.w 0 a) (v.w 1 b) (v.xz 2 x)
def execCgath (a b : WReg) (x : SX) : State → Out :=
  primOp ([(0, .w a), (1, .w b)] ++ sxSrc 2 x) fun v => v.dataPlan (.cgath (v.c.w[b + 1])) (v.w 0 a) (v.w 1 b) (v.xz 2 x)
def execCscat (a b : WReg) (x : SX) : State → Out :=
  primOp ([(0, .w a), (1, .w b)] ++ sxSrc 2 x) fun v => v.dataPlan (.cscat (v.c.w[a + 1])) (v.w 0 a) (v.w 1 b) (v.xz 2 x)
def execCfill (a : WReg) (b : SSrc) (x : SX) : State → Out :=
  primOp ([(0, .w a), (1, .s b)] ++ sxSrc 2 x) fun v => v.dataPlan (.cfill (v.s 1 b).toNat) (v.w 0 a) 0 (v.xz 2 x)

/-! ### Hints (R225) -/

def execCprom (a b : SSrc) (xi : Option (BitVec 3)) : State → Out :=
  primOp [(0, .s a), (1, .s b)] fun v =>
    v.queued [] none (v.newCmd (.cprom (v.s 0 a).toNat (v.s 1 b).toNat ((xi.getD 0).toNat)) 0 0 none none)
def execCdemo (a b : SSrc) (xi : Option DemoX) : State → Out :=
  primOp [(0, .s a), (1, .s b)] fun v =>
    let u := (xi.map fun x => x.urg.toNat).getD 0
    let f := (xi.map fun x => x.fmt.val).getD 0
    v.queued [] none (v.newCmd (.cdemo (v.s 0 a).toNat (v.s 1 b).toNat u f) 0 0 none none)

/-! ### Immediate commands (R221) -/

/-- The descriptor a CHOOP image holds. -/
def hoopOfImage (x : Nat) : Hoop := ⟨bits x 19 0, bits x 29 20, bits x 39 32, 0, 0, 0, true⟩
/-- The checks of R79 at installation. -/
def Core.ringBad (c : Core) (x : Nat) : Bool :=
  let h := hoopOfImage x
  let top := h.base + (h.count + 1) * h.tile
  bits x 5 0 != 0 || bits x 31 30 != 0 || bits x 127 66 != 0 || decide (0x10_0000 < top) || (c.sp.preen && decide (0xF_C000 < top))
/-- The hoop is named by a matrix operation of this bundle, by a busy one or by one waiting to push. -/
def Core.hoopBusy (c : Core) (h : HReg) : Bool :=
  (c.looked.any fun l => l.hoops.contains h.val) ||
  match c.matrix with
  | some m => m.hoops.contains h.val && (decide (c.ic < m.free) || c.trans.isSome)
  | none => (c.trans.map fun t => t.1 == h).getD false
def execChoop (a : HReg) (b : SSrc) : State → Out :=
  primOp [(1, .s b)] fun v =>
    let p := (v.s 1 b).toNat
    let tr := v.spadTraps p 16 16
    let x := v.readSpad p 16
    let e := v.readFault p 16
    { traps := tr ++ (if tr.isEmpty && v.c.ringBad x then [(2, 0x08, 1 + 16 * a.val)] else []),
      sched := if v.c.hoopBusy a then [(0x0B, 0)] else [],
      lands := if e.1 = 0 then [] else [{ landFlags 1 0 with pend := e.1, addr := e.2 }],
      acts := if e.1 = 0 then [(1, .hoop a (hoopOfImage x))] else [], scrub := [(spadKey v.id p, 16)] }
def execCarm (a b : SSrc) (x : SX) : State → Out :=
  primOp ([(0, .s a), (1, .s b)] ++ sxSrc 2 x) fun v =>
    let p := (v.s 0 a).toNat
    { traps := v.spadTraps p 16 16, writes := [(1, .carm (spadKey v.id p) (lo32 (v.s 1 b)) (lo32 (v.xz 2 x)))] }
/-- The status of a command (Table 7.13). -/
def Core.cmdStatus (c : Core) (id : Nat) : Nat :=
  let e := c.engines[Fin.ofNat 2 (id / 2 ^ 15)]
  -- how many of the engine's commands were issued from this one on
  let age := (e.nextQ % 2 ^ 15 + 2 ^ 15 - id % 2 ^ 15) % 2 ^ 15
  let (state, bytes) : Nat × Nat := match e.queue.find? fun k => k.id == id with
    | some k => (if k.counted then 0 else if k.started then 2 else 1, k.bytes)
    | none =>
      match e.history.find? fun k => k.id == id with
      | some k => (if k.faulted then 3 + 2 ^ 8 * k.code else 0, k.bytes)
      | none => (0, 0)
  (if age = 0 ∨ 64 < age then 0 else state) + 2 ^ 16 * (bytes % 2 ^ 48)
def execCstat (d : SReg) (b : SSrc) : State → Out :=
  primOp [(1, .s b)] fun v => { lands := [landS d 1 (BitVec.ofNat 64 (v.c.cmdStatus ((v.s 1 b).toNat % 2 ^ 16)))] }
def execCcancel (a : SSrc) : State → Out :=
  primOp [(0, .s a)] fun v => { acts := [(1, .cancel ((v.s 0 a).toNat % 2 ^ 16))] }
/-- CFENCE waits for every command queued before it in either engine. -/
def execCfence (sc : Scope) : State → Out :=
  primOp [] fun v => v.queued [] none { v.newCmd (.cfence sc) 0 0 none none with after := v.c.outstandingCmds }
/-- R98, R324: a deal is accepted only in a porter program; a core's bundle takes ILLOP, reason 7. -/
def execCdeal (_a : WReg) (_b : SSrc) : State → Out := primOp [] fun _ => { illop := [(7, 0)] }

/-! ### Atomics (R222 to R224) -/

def execSat (a b c : SSrc) (xa : AtX) : State → Out :=
  primOp [(0, .s a), (1, .s b), (2, .s c)] fun v =>
    let p := (v.s 1 b).toNat
    let n := stwBytes xa.width
    let float := decide (xa.op = .fmax ∨ xa.op = .fmin)
    let land : List Land :=
      if xa.ret then (match a with | .s r => [landS r v.c.ldLat 0] | _ => [])
      else if float then [landFlags v.c.ldLat 0] else []
    { traps := v.spadTraps p n n, demand := readDemand 1 p n ++ writeDemand 1 p n, lands := land,
      writes := [(1, .sat (spadKey v.id p) xa (v.s 2 c).toNat (v.s 0 a).toNat v.c.ic v.slot)] }
/-- The record's alignment is ALIGN, the word's is copy fault 0x05; a replacement that cannot be read is 0x08 or 0x09 (R71, R228). -/
def execCatom (a b c : SSrc) (xa : XA) : State → Out :=
  primOp [(0, .s a), (1, .s b), (2, .s c)] fun v =>
    let p := (v.s 0 a).toNat
    let va := (v.s 1 b).toNat
    let n := stwBytes xa.at_.width
    let bad := if xa.at_.op = .cas then (v.readFault (p + 24) 8).1 else 0
    { v.queued (v.spadTraps p 32 32) none
        (v.newCmd (.catom xa.at_ xa.scope (spadKey v.id p) va (v.s 2 c).toNat (v.readSpad (p + 24) 8)) 0 0 (some (spadKey v.id p))
          (if va % n ≠ 0 then some 0x05 else if bad = 0x0E then some 0x08 else if bad = 0x0F then some 0x09 else none)) with
      scrub := if xa.at_.op = .cas then [(spadKey v.id (p + 24), 8)] else [] }

/-! ### KV commands (R226) -/

/-- The checks of the arrival word, and of a descriptor (Table 7.16, log 42), and the reference's alignment (code 0x05). -/
def View.kvPlan (v : View) (kind : CmdKind) (ref arr : Nat) (desc : Option Nat := none) : Plan :=
  v.queued ((match desc with | some d => v.spadTraps d 16 16 | none => []) ++ v.spadTraps arr 16 16) none
    (v.newCmd kind 0 0 (some (spadKey v.id arr)) (if ref % 8 = 0 then none else some 0x05))
def execKvapp (a b : SSrc) (x : SX) : State → Out :=
  primOp ([(0, .s a), (1, .s b)] ++ sxSrc 2 x) fun v =>
    v.kvPlan (.kvapp (v.s 0 a).toNat (v.s 1 b).toNat) (v.s 0 a).toNat (v.xz 2 x).toNat (some (v.s 1 b).toNat)
def execKvrel (a b : SSrc) : State → Out :=
  primOp [(0, .s a), (1, .s b)] fun v => v.kvPlan (.kvrel (v.s 0 a).toNat) (v.s 0 a).toNat (v.s 1 b).toNat
def execKvpin (a b : SSrc) : State → Out :=
  primOp [(0, .s a), (1, .s b)] fun v => v.kvPlan (.kvpin (v.s 0 a).toNat) (v.s 0 a).toNat (v.s 1 b).toNat
def execKvunpin (a b : SSrc) : State → Out :=
  primOp [(0, .s a), (1, .s b)] fun v => v.kvPlan (.kvunpin (v.s 0 a).toNat) (v.s 0 a).toNat (v.s 1 b).toNat

end Sys2Proof.Machine
end

