-- ==== Sys2Proof/Machine/Cluster.lean ====
section
/-! DEFINITION. The C slot: group operations (R285 to R289) and channels (R290 to R301). -/
namespace Sys2Proof.Machine

/-! ### Endpoints -/

/-- CHANNEL with its XVALUE (Table 10.5). -/
def View.chanTrap (v : View) (reason ch : Nat) : List (Nat × Nat × Nat) := [(4, 0x09, reason + 16 * ch + 256 * v.slot.val)]
def Core.ep (c : Core) (ch : Chan) : Endpoint := c.endpoints[ch]
def Core.updEp (c : Core) (ch : Chan) (f : Endpoint → Endpoint) : Core := { c with endpoints := c.endpoints.set ch (f (c.ep ch)) }
/-- R295: an unused endpoint or one of the wrong MODE. -/
def View.needMode (v : View) (ch : Chan) (mode : Nat) : List (Nat × Nat × Nat) :=
  if (v.c.ep ch).mode = mode then [] else v.chanTrap 1 ch.val
/-- The CHSEND condition of Table 10.4. -/
def Endpoint.sendReady (e : Endpoint) : Bool :=
  e.resend.isEmpty && decide (4 ≤ e.sendAllow) && (!e.tagged || decide (e.retained.length ≤ 59))
/-- The CHRECV condition, after what earlier slots of the bundle take. -/
def Core.recvReady (c : Core) (ch : Chan) : Bool := decide (4 ≤ (c.msgsLeft ch).length)
/-- A TAGGED endpoint writes the source core over bits [10:0] of the return tag (R298). -/
def tagMessage (id : Nat) (m : Nat) : Nat := m % 2 ^ 480 + 2 ^ 480 * (m / 2 ^ 480 % 2 ^ 32 / 2 ^ 11 * 2 ^ 11 + id % 2 ^ 11)
/-- Send messages: allowances are spent, and a TAGGED endpoint retains them (R293, R298); one line a clock cycle on the timed plane (R283),
MSG flits on PATH 2 (R408). -/
def State.sendMsgs (s : State) (id : Nat) (ch : Chan) (ms : List Nat) : State :=
  let e := (s.core id).ep ch
  let ms1 := if e.tagged then ms.map (tagMessage id) else ms
  let s1 := s.updCore id fun c => c.updEp ch fun e => { e with sendAllow := e.sendAllow - ms.length }
  if e.path = 2 then
    let ms2 := ms1.map (withStep (s1.stepOf e.routeOf))
    ((s1.updRoute e.routeOf fun r => { r with retained := r.retained ++ ms2.map fun m => (m, s.clock) }).sendRows e.routeOf false ms2.length ms2).post
      .retransmissionTimeout (.num e.routeOf)
  else
    let s2 := if e.tagged then s1.updCore id fun c => c.updEp ch fun e => { e with retained := e.retained ++ ms1 } else s1
    (ms1.zip (List.range ms1.length)).foldl (fun s x => s.toPeer id e x.2 .channelMessageArrival fun pc pe => .msg pc pe x.1) s2
/-- The four messages of a vector. -/
def State.sendVector (s : State) (id : Nat) (ch : Chan) (x : Nat) : State :=
  s.sendMsgs id ch ((List.range 4).map fun k => x / 2 ^ (512 * k) % 2 ^ 512)

/-! ### Channel data (R294) -/

/-- The cycles in which a send reserves the message path (R283). -/
def sendPath : List Nat := [0, 1, 2, 3]
def execChsend (a : VSrc) (ch : Chan) : State → Out :=
  primOp [(0, .v a)] fun v =>
    let tr := v.needMode ch 1
    { traps := tr, wait := if tr.isEmpty && !(v.st.endpoint v.id ch).sendReady then some 4 else none, msgPath := sendPath,
      updS := fun s => s.sendVector v.id ch (v.v 0 a).toNat }
def execChsendTry (d : Pred) (b : VSrc) (ch : Chan) : State → Out :=
  primOp [(1, .v b)] fun v =>
    let ok := (v.st.endpoint v.id ch).sendReady
    { traps := v.needMode ch 1, msgPath := sendPath, lands := [landP d 1 ok],
      updS := fun s => if ok then s.sendVector v.id ch (v.v 1 b).toNat else s }
/-- CHRECV into a bound port is ILLOP, reason 3, whatever the port is bound for (R295). -/
def View.boundDest (v : View) (d : VReg) : List (Nat × Nat) := if (v.c.binding d).isSome then [(3, 0x20 + d.val)] else []
def execChrecv (d : VReg) (ch : Chan) : State → Out :=
  primOp [] fun v =>
    let tr := v.needMode ch 2
    { illop := v.boundDest d, traps := tr, wait := if tr.isEmpty && !v.c.recvReady ch then some 4 else none,
      lands := [landV d 2 (joinMsgs ((v.c.msgsLeft ch).take 4))], take := some (ch.val, 4) }
def execChrecvTry (d : Pred) (b : VReg) (ch : Chan) : State → Out :=
  primOp [] fun v =>
    let ok := v.c.recvReady ch
    { illop := v.boundDest b, traps := v.needMode ch 2,
      lands := landP d 1 ok :: (if ok then [{ landV b 2 (joinMsgs ((v.c.msgsLeft ch).take 4)) with latch := false }] else []),
      take := if ok then some (ch.val, 4) else none }

/-! ### Alternation (R299) -/

/-- Whether an endpoint of the set is ready. -/
def State.altReady (s : State) (id k : Nat) : Bool :=
  let e := s.endpoint id (Fin.ofNat 16 k)
  if e.mode = 2 then decide (4 ≤ e.msgs.length) else e.mode == 1 && e.sendReady
/-- The alternation pointer after the selections of earlier slots of the bundle. -/
def Core.altNow (c : Core) : Nat := ((c.looked.filterMap fun l => l.pick).getLast?).getD c.altPtr
/-- The first ready endpoint after the alternation pointer. Once the bundle was considered, it is the one that was ready at the start of the cycle. -/
def View.altPick (v : View) (set : Nat) : Option Nat :=
  match v.c.looked.find? fun l => l.slot == v.slot with
  | some l => l.pick
  | none => ((List.range 16).map fun i => (v.c.altNow + 1 + i) % 16).find? fun k => bits set k k == 1 && v.st.altReady v.id k
/-- An endpoint of the set that is unused. -/
def View.altUnused (v : View) (set : Nat) : List (Nat × Nat × Nat) :=
  match (List.range 16).find? fun k => bits set k k == 1 && (v.c.ep (Fin.ofNat 16 k)).mode != 1 && (v.c.ep (Fin.ofNat 16 k)).mode != 2 with
  | some k => v.chanTrap 1 k
  | none => []
/-- The set and the plan both forms share. -/
def View.altPlan (v : View) (d : SReg) (set : Nat) : Plan :=
  { traps := v.altUnused set, lands := [landS d 1 (BitVec.ofNat 64 ((v.altPick set).getD 16))], pick := v.altPick set,
    upd := fun c => match v.altPick set with | some k => { c with altPtr := k } | none => c }
def execChalt (d : SReg) (b : SSrc) : State → Out :=
  primOp [(1, .s b)] fun v =>
    let set := (v.s 1 b).toNat % 65536
    let p := v.altPlan d set
    let tr := if set = 0 then v.chanTrap 4 0 else p.traps
    { p with traps := tr, wait := if tr.isEmpty && (v.altPick set).isNone then some 4 else none }
def execChaltTry (d : SReg) (b : SSrc) : State → Out :=
  primOp [(1, .s b)] fun v => v.altPlan d ((v.s 1 b).toNat % 65536)

/-! ### Grants, seals, acknowledgements, bindings (R296 to R300) -/

/-- A PATH 2 batch may not open while the previous one holds unacknowledged rows (Table 10.5, reason 6). An earlier slot of the bundle may seal. -/
def View.batchHeld (v : View) (ch : Chan) : Bool :=
  let e := v.c.ep ch
  let r := v.st.route e.routeOf
  e.path == 2 && (e.sealed || v.c.looked.any fun l => l.seals.contains ch.val) && r.prevSeen.any fun t => !r.acked.contains t
/-- Allowances that earlier slots of the bundle grant on the endpoint. -/
def Core.granting (c : Core) (ch : Chan) : Nat :=
  c.looked.foldl (fun n l => match l.grant with | some (k, m) => if k = ch.val then n + m else n | none => n) 0
def execChgrant (ch : Chan) (x : SX) : State → Out :=
  primOp (sxSrc 1 x) fun v =>
    let n := (v.xz 1 x).toNat
    let e := v.c.ep ch
    let tr := v.needMode ch 2
    { traps :=
        if !tr.isEmpty then tr else if 63 < e.grantOut + e.msgs.length + v.c.granting ch + n then v.chanTrap 2 ch.val
        else if v.batchHeld ch then v.chanTrap 6 ch.val else [],
      grant := some (ch.val, n), acts := [(1, .grant ch n)] }
def execChbind (a : Port) (ch : Chan) : State → Out :=
  primOp [] fun v => { traps := v.needMode ch 2, acts := [(1, .bind a (.chan ch))] }
def execChseal (ch : Chan) : State → Out :=
  primOp [] fun v => { traps := v.needMode ch 2, acts := [(1, .seal ch)] }
def execChack (ch : Chan) (b : SSrc) : State → Out :=
  primOp [(1, .s b)] fun v =>
    let tr := v.needMode ch 2
    { traps := if !tr.isEmpty then tr else if (v.c.ep ch).tagged then [] else v.chanTrap 5 ch.val,
      acts := [(1, .ack ch (lo32 (v.s 1 b)))] }

/-! ### Group operations (R285 to R288) -/

/-- The members of a core's group: 0 its cluster, 1 its domain row, 2 its domain column, 3 the domain. -/
def Launch.group (l : Launch) (id g : Nat) : List Nat :=
  l.cores.filter fun c =>
    match g with
    | 0 => coreX c / 4 == coreX id / 4 && coreY c / 4 == coreY id / 4
    | 1 => coreY c == coreY id
    | 2 => coreX c == coreX id
    | _ => true
/-- The group of a group operation: XCHG acts on the cluster, XMAX on the row. -/
def groupScope (g : Nat × Nat) : Nat := if g.1 = 0 then g.2 else if g.1 = 1 then 0 else 1
/-- Whether a core takes part in a group operation: it has not halted. -/
def Core.live (c : Core) : Bool := c.run == .running
/-- The operand a member's XCHG read when its bundle was considered; none of a member that carries none. -/
def Core.xchgValue (c : Core) : Nat :=
  match c.looked.find? fun l => l.group == some (1, 0) with
  | some l => l.capture.ops.getD 1 0
  | none => 0
/-- Whether a core's bundle carries an XMAX; every live member of a matched one does. -/
def Core.carriesXmax (c : Core) : Bool := c.looked.any fun l => l.group == some (2, 0)
def execGbar (g : Fin 4) : State → Out := primOp [] fun _ => { group := some (0, g.val) }
def execXchg (d : VReg) (b : VSrc) : State → Out :=
  primOp [(1, .v b)] fun v =>
    let i := 4 * (coreY v.id % 4) + coreX v.id % 4
    let peer (j : Nat) : Nat := coreId (coreZ v.id) (coreX v.id / 4 * 4 + j % 4) (coreY v.id / 4 * 4 + j / 4)
    let slice (x : Nat) : Nat := x / 2 ^ (128 * i) % 2 ^ 128
    let from_ (j : Nat) : Nat :=
      if peer j = v.id then slice (v.v 1 b).toNat
      else if ((v.st.launchOf v.id).map fun l => l.holds (peer j)).getD false then slice (v.st.core (peer j)).xchgValue
      else 0
    { group := some (1, 0), msgPath := sendPath, lands := [landV d 20 (packElems 128 ((List.range 16).map from_))] }
def execXmax (d : VReg) : State → Out :=
  primOp [] fun v =>
    let row : List Nat := match v.st.launchOf v.id with
      | some l => (List.range l.width).map fun k =>
          let m := coreId (coreZ v.id) (l.x0 + k) (coreY v.id)
          if (v.st.core m).carriesXmax || m == v.id then (v.st.core m).sp.scalel.toNat else 0
      | none => [v.c.sp.scalel.toNat]
    { group := some (2, 0), msgPath := [0],
      lands := [landV d 18 (packElems 16 row), { dest := .scalel, lat := 18, val := row.foldl max 0, latch := false }] }

end Sys2Proof.Machine
end

