-- ==== Sys2Proof/Machine/Shake.lean ====
section
/-! DEFINITION. SHAKE256, which the spec names for digests (R345, R377, R379) and FIPS 202 defines (log 13). A state of 25 lanes of 64 bits is a
list of numbers, lane `(x, y)` at `x + 5 y`. -/
namespace Sys2Proof.Machine

def rol64 (x n : Nat) : Nat := (x * 2 ^ n % 2 ^ 64) ||| (x / 2 ^ (64 - n))
def lane (a : List Nat) (x y : Nat) : Nat := a.getD (x % 5 + 5 * (y % 5)) 0
def lanes (f : Nat → Nat → Nat) : List Nat := (List.range 25).map fun i => f (i % 5) (i / 5)
/-- Column parities folded into every lane. -/
def theta (a : List Nat) : List Nat :=
  let c (x : Nat) : Nat := (List.range 5).foldl (fun r y => r ^^^ lane a x y) 0
  lanes fun x y => lane a x y ^^^ c (x + 4) ^^^ rol64 (c (x + 1)) 1
def rhoOffset : List Nat := [0, 1, 62, 28, 27, 36, 44, 6, 55, 20, 3, 10, 43, 25, 39, 41, 45, 15, 21, 8, 18, 2, 61, 56, 14]
/-- Rotations and the permutation of lanes: lane `(x, y)` comes from `(x + 3 y, x)`. -/
def rhoPi (a : List Nat) : List Nat := lanes fun x y => let i := (x + 3 * y) % 5; rol64 (lane a i x) (rhoOffset.getD (i + 5 * x) 0)
def chi (a : List Nat) : List Nat := lanes fun x y => lane a x y ^^^ ((2 ^ 64 - 1 - lane a (x + 1) y) &&& lane a (x + 2) y)
/-- One step of the generator of round constants. -/
def rcStep (r : Nat) : Nat := if r / 128 % 2 = 1 then (2 * r % 256) ^^^ 0x71 else 2 * r
/-- Round constant and the generator after it. -/
def rcWord : Nat → Nat → Nat → Nat × Nat
  | 0, _, r => (0, r)
  | n + 1, j, r => let (w, r') := rcWord n (j + 1) (rcStep r); ((if r % 2 = 1 then 2 ^ (2 ^ j - 1) else 0) + w, r')
def keccakRounds : Nat → Nat → List Nat → List Nat
  | 0, _, a => a
  | n + 1, r, a =>
    let (rc, r') := rcWord 7 0 r
    let b := chi (rhoPi (theta a))
    keccakRounds n r' ((lane b 0 0 ^^^ rc) :: b.drop 1)
def keccak (a : List Nat) : List Nat := keccakRounds 24 1 a
/-- Take in a block of 136 bytes. -/
def absorb (a : List Nat) (block : List Byte) : List Nat := keccak ((List.range 25).map fun i => a.getD i 0 ^^^ natOf ((block.drop (8 * i)).take 8))
def absorbAll : Nat → List Nat → List Byte → List Nat
  | 0, a, _ => a
  | n + 1, a, bs => absorbAll n (absorb a (bs.take 136)) (bs.drop 136)
/-- Pad to whole blocks: 0x1F after the message, and the top bit of the last byte. -/
def shakePad (bs : List Byte) : List Byte :=
  let n := bs.length % 136
  if n = 135 then bs ++ [0x9F] else bs ++ [0x1F] ++ List.replicate (134 - n) 0 ++ [0x80]
/-- The first `n` bytes of SHAKE256, at most one block of 136. -/
def shakeOut (n : Nat) (bs : List Byte) : List Byte :=
  let p := shakePad bs
  ((absorbAll (p.length / 136) (List.replicate 25 0) p).flatMap (bytesOf 8)).take n
/-- The 64-byte output that the spec takes. -/
def shake256 (bs : List Byte) : List Byte := shakeOut 64 bs

end Sys2Proof.Machine
end

