-- ==== Sys2Proof/Machine/Ed448.lean ====
section
/-! DEFINITION. Ed448 in its pure form with an empty context, which the spec names for signatures (R346, R377, R379) and RFC 8032 defines (PRESUMED,
log 13). A point is held in projective coordinates on x^2 + y^2 = 1 - 39081 x^2 y^2 over the field of 2^448 - 2^224 - 1 elements. -/
namespace Sys2Proof.Machine

def edP : Nat := 2 ^ 448 - 2 ^ 224 - 1
/-- The order of the base point. -/
def edL : Nat := 2 ^ 446 - 13818066809895115352007386748515426880336692474882178609894547503885
/-- A point: X, Y and Z. -/
structure EdPoint where
  x : Nat
  y : Nat
  z : Nat
  deriving DecidableEq, Repr
def edMul (a b : Nat) : Nat := a * b % edP
def edAdd (a b : Nat) : Nat := (a + b) % edP
def edSub (a b : Nat) : Nat := (a + edP - b % edP) % edP
def EdPoint.zero : EdPoint := ⟨0, 1, 1⟩
def edBase : EdPoint :=
  ⟨224580040295924300187604334099896036246789641632564134246125461686950415467406032909029192869357953282578032075146446173674602635247710,
   298819210078481492676017930443930673437544040154080242095928241372331506189835876003536878655418784733982303233503462500531545062832660, 1⟩
/-- The sum of two points: one law for all. -/
def EdPoint.add (p q : EdPoint) : EdPoint :=
  let a := edMul p.z q.z
  let b := edMul a a
  let c := edMul p.x q.x
  let d := edMul p.y q.y
  let e := edMul (edP - 39081) (edMul c d)
  let f := edSub b e
  let g := edAdd b e
  let h := edMul (edAdd p.x p.y) (edAdd q.x q.y)
  ⟨edMul (edMul a f) (edSub (edSub h c) d), edMul (edMul a g) (edSub d c), edMul f g⟩
/-- A multiple of a point, bit by bit from the lowest. -/
def EdPoint.mul : Nat → Nat → EdPoint → EdPoint → EdPoint
  | 0, _, _, acc => acc
  | n + 1, k, p, acc => EdPoint.mul n (k / 2) (p.add p) (if k % 2 = 1 then acc.add p else acc)
/-- A power in the field. -/
def edPow : Nat → Nat → Nat → Nat → Nat
  | 0, _, _, acc => acc
  | n + 1, b, k, acc => edPow n (edMul b b) (k / 2) (if k % 2 = 1 then edMul acc b else acc)
/-- A point as 57 bytes: y, with the low bit of x on top. -/
def EdPoint.encode (p : EdPoint) : List Byte :=
  let i := edPow 448 p.z (edP - 2) 1
  bytesOf 57 (edMul p.y i + 2 ^ 455 * (edMul p.x i % 2))
/-- The secret scalar of a key: the first 57 bytes of its hash, pruned. -/
def edScalar (h : List Byte) : Nat := natOf (h.take 56) % 2 ^ 447 / 4 * 4 + 2 ^ 447
def edTimes (k : Nat) : EdPoint := EdPoint.mul 448 k edBase .zero
/-- The public key of a 57-byte key. -/
def edPublic (key : List Byte) : List Byte := (edTimes (edScalar (shakeOut 114 key))).encode
/-- "SigEd448", no prehash, an empty context. -/
def edDom : List Byte := [0x53, 0x69, 0x67, 0x45, 0x64, 0x34, 0x34, 0x38, 0, 0]
/-- The 114-byte signature of a message. -/
def edSign (key msg : List Byte) : List Byte :=
  let h := shakeOut 114 key
  let s := edScalar h
  let r := natOf (shakeOut 114 (edDom ++ (h.drop 57) ++ msg)) % edL
  let big := (edTimes r).encode
  let k := natOf (shakeOut 114 (edDom ++ big ++ (edTimes s).encode ++ msg)) % edL
  big ++ bytesOf 57 ((r + k * s) % edL)

end Sys2Proof.Machine
end

