-- ==== Sys2Proof/Machine/DevMem.lean ====
section
/-! DEFINITION. Device memory: its homes (R308, R331 to R334), translation at the stations (R312 to R316), ownership at the directory slices
(R317, R318), and porters' contexts (R319). -/
namespace Sys2Proof.Machine

/-! ### Homes -/

/-- A stratum has the memory-only role (Table 12.1). -/
def State.memoryOnly (s : State) (z : Nat) : Bool := decide (z < 8 - s.stkN)
/-- An SRAM window address: stratum and offset in its slot. -/
def windowOf (pa : Nat) : Option (Nat × Nat) :=
  if 0x30_0000_0000 ≤ pa ∧ pa < 0x31_0000_0000 then some ((pa - 0x30_0000_0000) / 0x2000_0000, (pa - 0x30_0000_0000) % 0x2000_0000) else none
/-- An address with memory behind it (Table 12.5, R332). -/
def State.hasMemory (s : State) (pa : Nat) : Bool :=
  decide (pa < 0x30_0000_0000) || (decide (0x100_0000_0000 ≤ pa) && decide (pa < 0x400_0000_0000)) ||
    (decide (2 ^ 47 ≤ pa) && decide (pa < 2 ^ 48)) ||
    (match windowOf pa with | some (z, o) => s.memoryOnly z && decide (o < 0x1400_0000) | none => false)
def isNear (pa : Nat) : Bool := decide (pa < 0x30_0000_0000)
def isFar (pa : Nat) : Bool := decide (0x100_0000_0000 ≤ pa) && decide (pa < 0x400_0000_0000)
def isHost (pa : Nat) : Bool := decide (2 ^ 47 ≤ pa)
/-- The channel of a stratum-local offset of near DRAM, and the address in it (`dram_place` of R308). -/
def dramPlace (o : Nat) : Nat × Nat := (o / 2 ^ 11 % 64, o % 2 ^ 11 + 2 ^ 11 * (o / 2 ^ 17))
/-- Package, channel of the package, and channel-local address of a second-tier offset (`far_place` of R333). -/
def farPlace (o : Nat) : Nat × Nat × Nat := let t := o / 2 ^ 11 % 128; (t / 4, t % 4, o % 2 ^ 11 + 2 ^ 11 * (o / 2 ^ 18))
/-- The porter that serves an address, as `64 z + 4 q + k` (R308, R311, R333, R334). -/
def homePorter (pa : Nat) : Nat :=
  if isHost pa then pa / 2 ^ 11 % 64
  else if isFar pa then (let p := farPlace (pa - 0x100_0000_0000); (4 * p.1 + p.2.1) % 64)
  else match windowOf pa with
    | some (z, o) =>
      let j := if o < 0x1000_0000 then o / 0x10_0000 else (o - 0x1000_0000) / 0x4_0000
      64 * z + 4 * (4 * (j % 256 / 64) + j % 16 / 4)
    | none => 64 * (pa / 0x6_0000_0000) + (dramPlace (pa % 0x6_0000_0000)).1
/-- The station, directory slice and cluster queue of a core's cluster, as `16 z + q`. -/
def nodeOf (core : Nat) : Nat := 16 * coreZ core + 4 * (coreY core / 4) + coreX core / 4

/-! ### Requests -/

/-- Who makes a request: its event, station, space, tenant tag, context tag, and REQ with PORTER. -/
structure Req where
  ev : Ev
  station : Nat
  space : Nat
  tenant : Nat
  ctag : Nat
  who : Nat
  deriving DecidableEq, Repr

/-- What a request comes to. `wait`: the event has been registered and runs again later; `retry`: it stays as it is; `viol`: a forbidden
permission at an address. -/
inductive Reply (α : Type) where
  | ok (a : α)
  | wait
  | retry
  | fault (code : Nat)
  | viol (addr : Nat)
  deriving DecidableEq, Repr
/-- Go on after a request. -/
def andThen {α β : Type} (x : State × Reply α) (f : State → α → State × Reply β) : State × Reply β :=
  match x.2 with
  | .ok a => f x.1 a
  | .wait => (x.1, .wait)
  | .retry => (x.1, .retry)
  | .fault c => (x.1, .fault c)
  | .viol a => (x.1, .viol a)
/-- Report every translation fault under one code. -/
def asFault {α : Type} (code : Nat) (x : State × Reply α) : State × Reply α :=
  match x.2 with
  | .fault _ => (x.1, .fault code)
  | _ => x

/-! ### Stations -/

def Station.empty : Station := ⟨[], [], 0, 0⟩
def State.station (s : State) (n : Nat) : Station := sget Station.empty s.stations n
def State.setStation (s : State) (n : Nat) (t : Station) : State := { s with stations := kput s.stations n t }
/-- A record of the fault log (Table 11.4). -/
def faultRecord (s : State) (r : TransReq) (reason level who : Nat) : Nat :=
  r.va % 2 ^ 48 + 2 ^ 48 * r.space + 2 ^ 64 * r.tenant + 2 ^ 80 * reason + 2 ^ 84 * level + 2 ^ 86 * (r.kind % 4) + 2 ^ 88 * who + 2 ^ 128 * (s.clock % 2 ^ 64)
/-- Write the fault log (R316). -/
def State.logFault (s : State) (n : Nat) (r : TransReq) (reason level who : Nat) : State :=
  let t := s.station n
  s.setStation n { t with log := kput t.log (t.written % 16) (faultRecord s r reason level who), written := (t.written + 1) % 2 ^ 32,
                          lost := if t.log.length < 16 then t.lost else min (2 ^ 32 - 1) (t.lost + 1) }

/-- What management reads of a station: the records of its ring, those written, those lost (R316). -/
def State.readLog (s : State) (n : Nat) : List Nat × Nat × Nat := let t := s.station n; (t.log.map (·.2), t.written, t.lost)
/-- Management clears the count of lost records. -/
def State.clearLost (s : State) (n : Nat) : State := s.setStation n { s.station n with lost := 0 }

/-- The entry a walk reads. -/
def State.tableEntry (s : State) (a : Nat) : Nat := s.mem.read a 16
def entryAddr (e : Nat) : Nat := bits e 55 16 * 2 ^ 8
/-- Log2 of the page a leaf of a level maps, and the index of an address at the level. -/
def levelSize (level : Nat) : Nat := if level = 2 then 30 else if level = 1 then 21 else 16
def levelIndex (level va : Nat) : Nat := if level = 3 then bits va 47 39 else if level = 2 then bits va 38 30 else if level = 1 then bits va 29 21 else bits va 20 16
/-- Reserved bits, or bits that an entry that is no leaf may not have. -/
def entryReserved (e : Nat) : Bool :=
  bits e 7 6 != 0 || bits e 63 56 != 0 || bits e 127 81 != 0 || (bits e 1 1 == 0 && (bits e 5 2 != 0 || bits e 80 64 != 0))
def leafOf (e level : Nat) : TLeaf := ⟨entryAddr e, levelSize level, bits e 15 8, bits e 5 2, bits e 79 64, bits e 80 80 = 1⟩
/-- The levels of `translate` (R314) from `level` on, at the table a `e` points to. -/
def State.walkFrom (s : State) (va : Nat) : Nat → Nat → TRes
  | n, e =>
    let level := n
    let at_ := entryAddr e + 16 * levelIndex level va
    let x := s.tableEntry at_
    if bits x 0 0 = 0 then .fault 2 level
    else if entryReserved x ∨ (level = 3 ∧ bits x 1 1 = 1) ∨ (level = 0 ∧ bits x 1 1 = 0) ∨
        (bits x 1 1 = 1 ∧ entryAddr x % 2 ^ levelSize level ≠ 0) then .fault 3 level
    else if bits x 1 1 = 1 then .leaf (leafOf x level) at_
    else match n with
      | 0 => .fault 3 0
      | m + 1 => s.walkFrom va m x
/-- The entries that `walkFrom` reads. -/
def State.walkReads (s : State) (va : Nat) : Nat → Nat → List Nat
  | n, e =>
    let at_ := entryAddr e + 16 * levelIndex n va
    let x := s.tableEntry at_
    if bits x 1 0 = 1 then (match n with | 0 => [at_] | m + 1 => at_ :: s.walkReads va m x) else [at_]
/-- Single-bit errors in the entries that a walk reads are written back corrected (R309). -/
def State.scrubWalk (s : State) (space va : Nat) : State :=
  let a := s.mgmt.sptbase + 16 * space
  let e := s.tableEntry a
  let all := a :: (if bits e 0 0 = 0 then [] else s.walkReads va 3 e)
  { s with mem := all.foldl (fun (m : Memory) k => m.scrub k 16) s.mem }
/-- A whole walk: the space table, then four levels (R313, R314). -/
def State.walkTables (s : State) (space va : Nat) : TRes :=
  let e := s.tableEntry (s.mgmt.sptbase + 16 * space)
  if bits e 0 0 = 0 then .fault 1 3 else s.walkFrom va 3 e

/-- A cached entry that covers an address. -/
def Station.find (t : Station) (space va : Nat) : Option TEntry := t.entries.find? fun e => e.space == space && va / 2 ^ e.leaf.size == e.va / 2 ^ e.leaf.size
/-- Keep a leaf, once a page, replacing an entry of a full cache (R315, log 11). -/
def Station.keep (t : Station) (e : TEntry) (tick : Nat) : Station :=
  if (t.find e.space e.va).isSome then t
  else { t with entries := (if t.entries.length < 1024 then t.entries else t.entries.eraseIdx (Config.victim tick % 1024)) ++ [e] }
def Station.purge (t : Station) (p : TEntry → Bool) : Station := { t with entries := t.entries.filter fun e => !p e }

/-- A page's STATE with its ADDR in the region the state asks for (Table 12.7), and memory behind the address that the translation of `va` yields (R332). -/
def State.stateOk (s : State) (l : TLeaf) (va : Nat) : Bool :=
  (if l.state = 0 then isNear l.page || (windowOf l.page).isSome || isHost l.page
   else if l.state ≤ 4 then isFar l.page
   else l.state == 8) && s.hasMemory (l.page + va % 2 ^ l.size)
/-- A format state. -/
def isFormat (st : Nat) : Bool := decide (2 ≤ st) && decide (st ≤ 4)
def sizeLevel (size : Nat) : Nat := if size = 30 then 2 else if size = 21 then 1 else 0
/-- The permissions of a leaf for a kind of access by a tenant (R314). -/
def TLeaf.permits (l : TLeaf) (tenant kind : Nat) : Bool := bits l.perms kind kind != 0 && (tenant == l.owner || (l.shared && kind == 0))
/-- Permissions, then the tier state, of a leaf (R314). -/
def State.checkLeaf (s : State) (r : Req) (q : TransReq) (l : TLeaf) : State × Reply (Nat × TLeaf) :=
  if !l.permits r.tenant q.kind then
    (s.logFault r.station q 5 (sizeLevel l.size) r.who, .viol q.va)
  else if !s.stateOk l q.va then (s.logFault r.station q 3 (sizeLevel l.size) r.who, .fault 3)
  else if (q.kind = 1 ∨ q.kind = 3) ∧ isFormat l.state then (s.logFault r.station q 6 (sizeLevel l.size) r.who, .fault 6)
  else (s, .ok (l.page + q.va % 2 ^ l.size, l))
/-- Whether the walk that began at `page` walks the page of `va`: the same 64 KiB, or a leaf of a larger page that covers both. -/
def State.samePage (s : State) (space page va : Nat) : Bool :=
  page == va / 2 ^ 16 || (match s.walkTables space (page * 2 ^ 16) with
    | .leaf l _ => page * 2 ^ 16 / 2 ^ l.size == va / 2 ^ l.size
    | .fault _ _ => false)
/-- Register a request with the walk of its page, starting one if none is under way (R315). -/
def State.askWalk (s : State) (r : Req) (q : TransReq) : State :=
  let me : WalkWait := ⟨r.ev, q, r.who⟩
  let page := q.va / 2 ^ 16
  let s1 := s.unpost r.ev.1 r.ev.2
  let mine (w : Walk) : Bool := w.station == r.station && w.space == q.space && s.samePage q.space w.page q.va
  match s1.walks.find? mine with
  | some x => { s1 with walks := s1.walks.map fun w => if w = x then { w with waiting := w.waiting ++ [me] } else w }
  | none => ({ s1 with walks := s1.walks ++ [({ station := r.station, space := q.space, page := page, waiting := [me] } : Walk)] } : State).post .translationWalk
    (.walk r.station { space := q.space, tenant := q.tenant, va := page * 2 ^ 16, kind := q.kind })
/-- `translate` (R314) at a station, through its cache. A miss waits for its walk; what the walk answered is used when the event runs again. -/
def State.translate (s : State) (r : Req) (va kind : Nat) : State × Reply (Nat × TLeaf) :=
  let q : TransReq := { space := r.space, tenant := r.tenant, va := va, kind := kind }
  if 2 ^ 48 ≤ va then (s.logFault r.station q 4 3 r.who, .fault 4)
  else
    match s.answers.find? fun a => a.ev == r.ev && a.space == r.space && a.page == va / 2 ^ 16 with
    | some a =>
      match a.res with
      | .leaf l _ => s.checkLeaf r q l
      | .fault reason _ => (s, .fault reason)
    | none =>
      match (s.station r.station).find r.space va with
      | some e => s.checkLeaf r q e.leaf
      | none => (s.askWalk r q, .wait)
/-- An event is done with its answers. -/
def State.forget (s : State) (e : Ev) : State := { s with answers := s.answers.filter fun a => a.ev != e }

/-! ### Ownership -/

def State.ownerOf (s : State) (line : Nat) : Option Owned := s.owned.find? fun o => o.line == line
def lineOf (pa : Nat) : Nat := pa / 64 * 64
/-- The lines that `n` bytes touch. -/
def linesIn (pa n : Nat) : List Nat := if n = 0 then [] else (List.range ((pa + n - 1) / 64 + 1 - pa / 64)).map fun i => 64 * (pa / 64 + i)
/-- Wait for the recall of the first owned line among some (R318). -/
def State.recallWait (s : State) (ev : Ev) (lines : List Nat) : Option State :=
  match lines.find? fun l => (s.ownerOf l).isSome with
  | none => none
  | some l =>
    let s1 := (s.unpost ev.1 ev.2).forget ev
    some { s1 with owned := s1.owned.map fun o => if o.line = l ∧ !(o.waiting.any fun w => w.2 == ev) then { o with waiting := o.waiting ++ [(s.tick, ev)] } else o }
/-- The directory slice of a line. -/
def sliceNo (line : Nat) : Nat := homePorter line / 4
/-- Whether a slice has no room for one of these lines beside those it holds (R317: at most 2,048). -/
def State.slicesFull (s : State) (lines : List Nat) : Bool :=
  (lines.foldl (fun l x => nput l (sliceNo x)) []).any fun k =>
    decide (2048 < (s.owned.filter fun o => sliceNo o.line == k).length + (lines.filter fun x => sliceNo x == k).length)

/-! ### Porters' contexts (R319) -/

def Porter.empty : Porter := ⟨[]⟩
def State.porter (s : State) (p : Nat) : Porter := sget Porter.empty s.porters p
def State.setPorter (s : State) (p : Nat) (x : Porter) : State := { s with porters := kput s.porters p x }
def State.ctx (s : State) (p ctag : Nat) : Option PCtx := (s.porter p).ctxs.find? fun c => c.ctag == ctag
def State.updCtx (s : State) (p ctag : Nat) (f : PCtx → PCtx) : State :=
  s.setPorter p { ctxs := (s.porter p).ctxs.map fun c => if c.ctag = ctag then f c else c }
def ctxField (c : BitVec 512) (lo n : Nat) : Nat := c.toNat / 2 ^ lo % 2 ^ n
def PCtx.space (c : PCtx) : Nat := ctxField c.record 0 16
def PCtx.tenant (c : PCtx) : Nat := ctxField c.record 16 16
def PCtx.valid (c : PCtx) : Bool := ctxField c.record 44 1 == 1
def PCtx.prog (c : PCtx) : Bool := ctxField c.record 45 1 == 1
def PCtx.progva (c : PCtx) : Nat := ctxField c.record 64 48
def PCtx.gova (c : PCtx) : Nat := ctxField c.record 112 48
def PCtx.runva (c : PCtx) : Nat := ctxField c.record 176 48
def PCtx.statva (c : PCtx) : Nat := ctxField c.record 240 48
def PCtx.z (c : PCtx) : Nat := ctxField c.record 304 3
def PCtx.x0 (c : PCtx) : Nat := ctxField c.record 307 4
def PCtx.y0 (c : PCtx) : Nat := ctxField c.record 311 4
def PCtx.width (c : PCtx) : Nat := ctxField c.record 315 4 + 1
def PCtx.height (c : PCtx) : Nat := ctxField c.record 319 4 + 1
/-- The device context table's record. -/
def State.ctxRecord (s : State) (ctag : Nat) : Nat := s.mgmt.ctxtbase + 64 * ctag
/-- A context of nothing but the CP's own tag. -/
def State.loadCtx (s : State) (ctag : Nat) : PCtx :=
  let r := BitVec.ofNat 512 (s.mem.read (s.ctxRecord ctag) 64)
  { ctag, record := r, runs := BitVec.ofNat 64 (ctxField r 384 64), run := none, frozen := none, held := [] }
/-- The context tag of whoever an event is for; the command processor has 0. -/
def State.coreCtag (s : State) (core : Nat) : Nat := ((s.launchOf core).map fun l => l.ctag).getD 0
def State.askerCtag (s : State) : Asker → Nat
  | .engine c _ _ => s.coreCtag c
  | .thread c _ _ => s.coreCtag c
  | .step _ t _ => t
def State.evCtag (s : State) (e : Ev) : Nat :=
  match e.2 with
  | .asker a => s.askerCtag a
  | .line c _ => s.coreCtag c
  | .thread c _ => s.coreCtag c
  | .porter _ t => t
  | _ => 0
/-- A request of the context is in progress at the porter: a line it owns there, or an access that waits for one. -/
def State.inProgress (s : State) (p ctag : Nat) : Bool :=
  s.owned.any fun o => homePorter o.line == p &&
    ((match o.owner with | .cmd a => s.askerCtag a == ctag | _ => ctag == 0) || o.waiting.any fun w => s.evCtag w.2 == ctag)
/-- Evict the least recently used context that runs nothing, has no request in progress and is not frozen. RUNS is written back by the porter that has
started runs. -/
def State.evict (s : State) (p : Nat) : Option State :=
  match (s.porter p).ctxs.reverse.find? fun c => c.run.isNone && c.frozen.isNone && !s.inProgress p c.ctag with
  | none => none
  | some c =>
    let s1 := if c.ctag = 0 ∨ c.runs.toNat = ctxField c.record 384 64 then s else { s with mem := s.mem.write (s.ctxRecord c.ctag + 48) 8 c.runs.toNat }
    some (s1.setPorter p { ctxs := (s1.porter p).ctxs.filter fun d => d.ctag != c.ctag })
/-- Make the context of a tag resident and the most recently used; none when every resident one is busy. -/
def State.resident (s : State) (p ctag : Nat) : Option State :=
  match s.ctx p ctag with
  | some c => some (s.setPorter p { ctxs := c :: (s.porter p).ctxs.filter fun d => d.ctag != ctag })
  | none =>
    let load (s : State) : State :=
      ({ s with mem := s.mem.scrub (s.ctxRecord ctag) 64 } : State).setPorter p { ctxs := s.loadCtx ctag :: (s.porter p).ctxs }
    if (s.porter p).ctxs.length < 8 then some (load s) else (s.evict p).map load

/-! ### Events of the freeze log (R356, R374) -/

/-- Raise an MSI-X vector: its pending bit. -/
def State.raiseVec (s : State) (v : Nat) : State := { s with pba := nput s.pba v }
/-- Host address `a`: the host window reaches the lowest `2^47` of them (R334), and the host interface all 64 bits. -/
def hostKey (a : Nat) : Nat := 2 ^ 47 + a % 2 ^ 64
/-- Write bytes to host memory. A line that leaves the device carries a good check value. -/
def State.hostWrite (s : State) (a n x : Nat) : State := { s with mem := s.mem.write (hostKey a) n x }
/-- An event-queue entry (R374): its 64 bytes as a number without the phase bit. -/
def State.event (s : State) (x : Nat) : State :=
  let size := s.mgmt.evqsize + 1
  let phase := 1 - s.evqCount / size % 2
  ({ s.hostWrite (s.mgmt.evqbase + 64 * (s.evqCount % size)) 64 (x + 2 ^ 8 * phase) with evqCount := s.evqCount + 1 }).raiseVec 2
/-- Write a freeze record and answer its number (R356). -/
def State.freezeRecord (s : State) (x : Nat) : State × Nat :=
  let n := s.mgmt.fzcount
  let s1 := { s with mem := s.mem.write (s.mgmt.fzbase + 64 * (n % 256)) 64 x, mgmt := { s.mgmt with fzcount := (n + 1) % 2 ^ 32 } }
  ((s1.raiseVec 1).event (2 + 2 ^ 64 * ((n + 1) % 2 ^ 32)), n)
/-- The freeze record of a core (Table 9.10). -/
def State.coreRecord (s : State) (id : Nat) (v : Violation) : Nat :=
  let c := s.core id
  let (sp, tn) := match s.launchOf id with | some l => (l.space, l.tenant) | none => (0, 0)
  v.kind + 2 ^ 8 * v.slot + 2 ^ 11 * v.thread + 2 ^ 32 * id + 2 ^ 64 * c.sp.clk.toNat + 2 ^ 128 * (c.pc % 2 ^ 17) + 2 ^ 192 * (v.handle % 2 ^ 16)
    + 2 ^ 208 * (v.tag % 2 ^ 16) + 2 ^ 224 * (v.shadow % 2 ^ 16) + 2 ^ 240 * (v.owner % 2 ^ 16) + 2 ^ 256 * (v.addr % 2 ^ 48) + 2 ^ 304 * sp + 2 ^ 320 * tn
/-! ### Saved contexts -/

/-- A core of a launch is away: its saved state stands in an image that no CLOAD has read back. -/
def State.isSaved (s : State) (launch id : Nat) : Bool := s.hidden.any fun h => h.live && h.launch == launch && h.id == id
/-- Change what is saved of cores that are away. -/
def State.mapSaved (s : State) (f : Hidden → Hidden) : State := { s with hidden := s.hidden.map fun h => if h.live then f h else h }

/-! ### Aborts of collective groups (R414) -/

/-- Write bits of a group record, whole bytes from a byte on. -/
def State.putGroup (s : State) (g byte n x : Nat) : State := { s with mem := s.mem.write (groupAddr g + byte) n x }
def State.aborter (s : State) (g : Nat) : Nat := bits (s.groupRecord g) 204 192
/-- Who collects the FINAL values: the aborter, or in its place the lowest member that can be reached (log 22). -/
def State.actingAborter (s : State) (g : Nat) : Nat :=
  let silent := (s.group g).silent
  if silent.contains (s.aborter g) then ((s.members g).find? fun m => !silent.contains m).getD (s.aborter g) else s.aborter g
/-- A member that has not issued a bundle retires with status 5 (R415). -/
def State.retireAborted (s : State) (l : Launch) : State :=
  (s.setLaunch { l with phase := .retiring, failure := some ⟨5, 0, 0, 0, 0⟩ }).post .launchRetire (.launch l.id)
/-- ABORT is raised on every core of a launch that has not halted (R130, R272); one that waits at its gate retires with status 5 (R415). -/
def State.abortLaunch (s : State) (g aborter : Nat) (l : Launch) : State :=
  let k : Cause := ⟨0x12, g % 256 + 2 ^ 8 * aborter, false⟩
  let add (c : Core) : Core := if c.run = .halted ∨ c.run = .complete then c else { c with causes := c.causes ++ [k] }
  let saved := s.mapSaved fun h => if h.launch = l.id then { h with core := add h.core } else h
  match l.phase with
  | .gate _ => s.retireAborted l
  | .retiring => s
  | .saved => saved
  | _ => l.cores.foldl (fun (s : State) c => s.updCore c add) saved
/-- Discard the messages of later steps, and empty the seen-sets of the group's routes. -/
def dropLater (a : Nat) (r : Route) : Route :=
  { r with retained := r.retained.filter (fun m => decide (messageStep m.1 ≤ a)), resend := r.resend.filter (fun m => decide (messageStep m ≤ a)),
           seen := [], prevSeen := [], acked := [] }
def State.isGroupRoute (s : State) (g h : Nat) : Bool := let e := s.routeEntry h; bits e 47 47 == 1 && bits e 55 48 == g % 256
/-- AGREED reaches this module. -/
def State.applyAgreed (s : State) (g a : Nat) : State :=
  let cut (e : Endpoint) : Endpoint := if e.path == 2 && s.isGroupRoute g e.routeOf then { e with msgs := e.msgs.filter fun m => decide (messageStep m ≤ a) } else e
  let keep (c : Core) : Core := { c with endpoints := c.endpoints.map cut }
  let s1 := (s.putGroup g 16 6 a).updGroup g fun x => { x with agreed := some a }
  let s2 := { s1 with routes := s1.routes.map (fun p => if s.isGroupRoute g p.1 then (p.1, dropLater a p.2) else p),
                      hidden := (s1.mapSaved fun h => { h with core := keep h.core }).hidden }
  ((s.launches.filter fun l => l.groupSlot == some g).flatMap fun l => l.cores).foldl (fun (s : State) c => s.updCore c keep) s2
/-- The collector sends AGREED once every member's value is known: its FINAL, or the last STEP of a silent member. -/
def State.tryAgree (s : State) (g : Nat) : State :=
  let x := s.group g
  let value (m : Nat) : Option Nat :=
    if m = s.selfIndex g then some x.commit
    else match x.finals.find? fun f => f.1 == m with
      | some f => some f.2
      | none => if x.silent.contains m then some (sget 0 x.steps m) else none
  let vs := (s.members g).map value
  if x.closed && x.agreed.isNone && s.actingAborter g == s.selfIndex g && vs.all Option.isSome then
    let a := (vs.filterMap id).foldl min x.commit
    (s.sendMembers g 8 a []).applyAgreed g a
  else s
/-- The committed value goes to the collector. -/
def State.sendFinal (s : State) (g : Nat) : State :=
  if s.actingAborter g = s.selfIndex g then s else s.sendGroup g (s.actingAborter g) 7 (s.group g).commit []
/-- What a member does when it raises or receives an abort. -/
def State.beginAbort (s : State) (g cause aborter : Nat) : State :=
  let s1 := ((s.putGroup g 22 1 1).putGroup g 23 3 (cause + 2 ^ 8 * aborter)).updGroup g fun x => { x with closed := true }
  let s2 := (s1.launches.filter fun l => l.groupSlot == some g).foldl (fun (s : State) l => s.abortLaunch g aborter l) s1
  (s2.sendFinal g).tryAgree g
/-- This module detects a reason to abort. -/
def State.raiseAbort (s : State) (g cause : Nat) : State :=
  if (s.group g).closed then s else (s.sendMembers g 6 0 [cause]).beginAbort g cause (s.selfIndex g)
/-- The same for the launch of a core, when it is a member. -/
def State.raiseAbortOf (s : State) (id cause : Nat) : State :=
  match s.launchOf id with
  | some l => match l.groupSlot with | some g => s.raiseAbort g cause | none => s
  | none => s

/-! ### Freezing -/

/-- Freeze a core (R277): its memory effects complete, what is outstanding waits in the replay registers, the barrel stops, and a record is
written. -/
def State.freezeCore (s : State) (id : Nat) (v : Violation) : State :=
  if (match (s.core id).run with | .frozen _ _ => true | _ => false) then s else
  let s0 := s.drainCore id
  let (s1, n) := s0.freezeRecord (s0.coreRecord id v)
  let s2 := { s1 with coreFreeze := kput s1.coreFreeze id n }
  (s2.updCore id fun c => { c with run := .frozen v (c.run == .halted), looked := [], popped := [], taken := [], flights := [], matrix := none, msgPath := [], held := some { c.held_ with msgPath := (s.core id).held_.msgPath } }).raiseAbortOf
    id 4
/-- A tinker's violation names its thread (R277, R278). -/
def tinkerViolation (kind thread addr : Nat) : Violation := { kind, slot := 6, thread, handle := 0, tag := 0, shadow := 0, owner := 0, addr }
/-- Freeze a porter's context (R322), with the record of KIND 5. -/
def State.freezeCtx (s : State) (p ctag step addr : Nat) : State :=
  match s.ctx p ctag with
  | none => s
  | some c =>
    if c.frozen.isSome then s else
    let x := 5 + 2 ^ 32 * (4 * p) + 2 ^ 64 * (s.clock % 2 ^ 64) + 2 ^ 128 * (step % 2 ^ 17) + 2 ^ 256 * (addr % 2 ^ 48) + 2 ^ 304 * c.space + 2 ^ 320 * c.tenant
    let (s1, n) := s.freezeRecord x
    s1.updCtx p ctag fun c => { c with frozen := some n }
/-- A porter serves a request under its context (R319, R322): the context is made resident; a frozen one holds the request; one whose space or
tenant differs is frozen. -/
def State.serve (s : State) (r : Req) (pa : Nat) : State × Reply Unit :=
  let p := homePorter pa
  match s.resident p r.ctag with
  | none => (s, .retry)
  | some s1 =>
    match s1.ctx p r.ctag with
    | none => (s1, .retry)
    | some c =>
      let hold (s : State) : State := (s.unpost r.ev.1 r.ev.2).updCtx p r.ctag fun c => { c with held := if c.held.contains r.ev then c.held else c.held ++ [r.ev] }
      if c.frozen.isSome then (hold s1, .wait)
      else if r.ctag ≠ 0 ∧ (c.space ≠ r.space ∨ c.tenant ≠ r.tenant) then (hold (s1.freezeCtx p r.ctag 0 pa), .wait)
      else (s1, .ok ())

/-! ### Accesses -/

/-- The packed block of a line of a page in a format state (R339). -/
def pageFmt (st : Nat) : MxFmt := if st = 2 then .mxint8 else if st = 3 then .mxint6 else .mxint4
/-- The 32 BF16 patterns of a packed block, as 64 bytes. -/
def expandBlock (f : MxFmt) (x : Nat) : List Byte :=
  let s := x / 2 ^ (32 * mxBits f) % 65536
  (List.range 32).flatMap fun i =>
    let e := x / 2 ^ (mxBits f * i) % 2 ^ mxBits f
    bytesOf 2 (if bsPoisoned s then FFmt.bf16.nanPat else if bsZero s then 0 else (FFmt.bf16.round false .rne (mxValue [] f s e)).1)
/-- What a read meets: the bytes, the first error code (8 uncorrectable, 9 check value), and the bad line. -/
structure DevRead where
  bytes : List Byte
  code : Nat
  bad : Nat
  deriving DecidableEq, Repr
/-- The error of reading stored bytes; a check value counts only where the bytes are consumed. -/
def Memory.devError (m : Memory) (a n : Nat) (check : Bool) : Nat × Nat :=
  match m.bad2 a n with
  | some w => (8, lineOf w)
  | none =>
    if check then
      match m.badCv (lineOf a) ((a + n + 63) / 64 * 64 - lineOf a) with
      | some l => (9, l)
      | none => (0, 0)
    else (0, 0)
/-- Read `n` bytes of a page at an address within it: stored, or expanded from a format state. -/
def Memory.devRead (m : Memory) (l : TLeaf) (pa n : Nat) (check : Bool) : DevRead :=
  if isFormat l.state then
    let f := pageFmt l.state
    let o := pa - l.page
    let first := o / 64
    let cnt := (o + n + 63) / 64 - first
    let blk (i : Nat) : Nat := l.page + (first + i) * mxBlockBytes f
    let all := (List.range cnt).flatMap fun i => expandBlock f (m.read (blk i) (mxBlockBytes f))
    let e := m.devError (blk 0) (cnt * mxBlockBytes f) true
    ⟨(all.drop (o % 64)).take n, e.1, e.2⟩
  else
    let e := m.devError pa n check
    ⟨m.bytes pa n, e.1, e.2⟩

/-- The stored bytes that a read of `n` bytes of a page reads: an address and a length. -/
def storedAt (l : TLeaf) (pa n : Nat) : Nat × Nat :=
  if isFormat l.state then
    let b := mxBlockBytes (pageFmt l.state)
    let first := (pa - l.page) / 64
    (l.page + first * b, ((pa - l.page + n + 63) / 64 - first) * b)
  else (pa, n)
/-- A read of `n` bytes of a page writes their single-bit errors back corrected (R309). -/
def Memory.scrubRead (m : Memory) (l : TLeaf) (pa n : Nat) : Memory := let x := storedAt l pa n; m.scrub x.1 x.2

end Sys2Proof.Machine
end

