-- ==== Sys2Proof/Machine/Engine.lean ====
section
/-! DEFINITION. What copy engines and porters do with a data command, element by element, at times that are not architected (R215 to R220), and
the events that carry a command on: ARRIVAL_WORD_UPDATE, HOOP_PUSH, RECALL_COMPLETE, COPY_COMMAND_COMPLETE. -/
namespace Sys2Proof.Machine

/-! ### Commands by who asks -/

def State.runOf (s : State) (p ctag : Nat) : Option Run := match s.ctx p ctag with | some c => c.run | none => none
/-- The command of an engine or the step of a porter run. -/
def State.cmdOf (s : State) : Asker → Option Cmd
  | .engine c e id => ((s.core c).engines[Fin.ofNat 2 e]).queue.find? fun k => k.id == id
  | .step p t i => match s.runOf p t with | some r => r.steps.find? fun k => k.id == i | none => none
  | .thread _ _ _ => none
def Engine.setCmd (e : Engine) (k : Cmd) : Engine := { e with queue := e.queue.map fun x => if x.id = k.id then k else x }
def Run.setStep (r : Run) (k : Cmd) : Run := { r with steps := r.steps.map fun x => if x.id = k.id then k else x }
def State.updRun (s : State) (p ctag : Nat) (f : Run → Run) : State := s.updCtx p ctag fun c => { c with run := c.run.map f }
def State.putCmd (s : State) (a : Asker) (k : Cmd) : State :=
  match a with
  | .engine c e _ => s.updCore c fun x => { x with engines := x.engines.set (Fin.ofNat 2 e) ((x.engines[Fin.ofNat 2 e]).setCmd k) }
  | .step p t _ => s.updRun p t fun r => r.setStep k
  | .thread _ _ _ => s
/-- A core's requests carry its launch's space, tenant and CTAG (R311, R319). -/
def State.coreReq (s : State) (c : Nat) (ev : Ev) : Req :=
  match s.launchOf c with
  | some l => { ev, station := nodeOf c, space := l.space, tenant := l.tenant, ctag := l.ctag, who := c % 2 ^ 11 }
  | none => { ev, station := nodeOf c, space := 0, tenant := 0, ctag := 0, who := c % 2 ^ 11 }
/-- The request that an asker makes in an event. -/
def State.reqOf (s : State) (a : Asker) (ev : Ev) : Req :=
  match a with
  | .step p t _ =>
    let who := 4 * p + 2 ^ 11
    match s.ctx p t with
    | some c => { ev, station := p / 4, space := c.space, tenant := c.tenant, ctag := t, who }
    | none => { ev, station := p / 4, space := 0, tenant := 0, ctag := t, who }
  | .engine c _ _ => s.coreReq c ev
  | .thread c _ _ => s.coreReq c ev
/-- The core whose scratchpad a KIND 0 walk of the asker names. -/
def askerHome : Asker → Nat
  | .engine c _ _ => c
  | .thread c _ _ => c
  | .step _ _ _ => 0
/-- The event that moves a command's next element. -/
def moverEv (a : Asker) (k : Cmd) : Ev :=
  match a with
  | .engine c _ _ => if k.localData then (.arrivalWordUpdate, .cmd c k.id) else (.porterRequest, .asker a)
  | _ => (.porterRequest, .asker a)
/-- The event that takes a finished command away. -/
def closerEv (a : Asker) (k : Cmd) : Ev :=
  match a with
  | .engine c _ _ => (.copyCommandComplete, .cmd c k.id)
  | .step p t _ => (.porterRequest, .porter p t)
  | .thread _ _ _ => (.porterRequest, .asker a)
def State.postEv (s : State) (e : Ev) : State := s.post e.1 e.2
def State.unpostEv (s : State) (e : Ev) : State := s.unpost e.1 e.2

/-! ### Arrival words -/

/-- The core whose scratchpad holds a key. -/
def keyCore (key : Nat) : Nat := 256 * ((key - 0x30_0000_0000) / 0x2000_0000) + (key - 0x30_0000_0000) % 0x2000_0000 / 0x10_0000 % 256
/-- Count visible bytes into an arrival word (R80): the fault code of a count beyond its bound, or of a word with an uncorrectable error, which is
left as it is (R71; DEDUCED, log 23). -/
def State.arrive (s : State) (arr : Option Nat) (n : Nat) : State × Option Nat :=
  match arr with
  | none => (s, none)
  | some key =>
    let w := s.mem.read key 16
    if (s.mem.bad2 key 16).isSome then (s, some 0x08)
    else
      let s1 := (({ s with mem := s.mem.write key 16 (arriveWord w n) } : State).usePorts (keyCore key) key 16 false).usePorts (keyCore key) key 16 true
      (s1, if arrivalOver w n then some 0x0A else none)
/-- Count bytes of a command. -/
def State.countBytes (s : State) (k : Cmd) (arr : Option Nat) (n : Nat) : State × Cmd :=
  let (s1, code) := s.arrive arr n
  (s1, { k with bytes := k.bytes + n, fault := k.fault.orElse fun _ => code })

/-! ### Watched words (R320, R413) -/

/-- Where a device virtual address lies now, by the tables. -/
def State.whereIs (s : State) (space va : Nat) : Option Nat :=
  match s.walkTables space va with
  | .leaf l _ => some (l.page + va % 2 ^ l.size)
  | .fault _ _ => none
/-- Whether an 8-byte word at a virtual address lies among `n` bytes written. -/
def State.hits (s : State) (space va pa n : Nat) : Bool :=
  match s.whereIs space va with
  | some a => decide (pa < a + 8) && decide (a < pa + n)
  | none => false
/-- After a write or atomic: the porter compares the go word with RUNS, and the fabric unit hears of a commit word's new value. -/
def State.noteWrite (s : State) (pa n : Nat) : State :=
  s.launches.foldl (fun (s : State) (l : Launch) =>
    let p := homePorter pa
    let c := (s.ctx p l.ctag).getD (s.loadCtx l.ctag)
    let s1 := if c.prog && s.hits l.space c.gova pa n then s.post .porterRunStart (.porter p l.ctag) else s
    match l.groupSlot with
    | none => s1
    | some g =>
      let va := s1.commitVa g
      if s1.hits l.space va pa n && !(s1.group g).closed then
        let v := match s1.whereIs l.space va with | some a => s1.mem.read a 8 | none => 0
        if v = (s1.group g).commit then s1 else (s1.updGroup g fun x => { x with commit := v }).sendMembers g 5 v []
      else s1) s

/-! ### KV block tables (R335, R340, R341) -/

/-- A field of the space memory record. -/
def State.smr (s : State) (space lo n : Nat) : Nat := s.mem.read (s.mgmt.smrbase + 128 * space) 128 / 2 ^ lo % 2 ^ n
def State.krowl (s : State) (space : Nat) : Nat := s.smr space 608 12
def State.kvEntryAt (s : State) (space e : Nat) : Nat := s.smr space 512 48 + 8 * e
/-- A reference with nonzero reserved bits, of an entry beyond the table, or in a space without a pool. -/
def State.refBad (s : State) (space ref : Nat) : Bool := bits ref 63 33 != 0 || decide (s.smr space 576 32 ≤ bits ref 31 0)
def entryRefs (e : Nat) : Nat := bits e 43 32
def entryPins (e : Nat) : Nat := bits e 53 46
def entryFree (e : Nat) : Bool := entryRefs e == 0 && entryPins e == 0
/-- The physical address of an entry's frame. -/
def State.frameOf' (s : State) (space e : Nat) : Nat :=
  (if bits e 45 45 = 1 then s.smr space 688 48 else s.smr space 640 48) + bits e 31 0 * 1024 * s.krowl space

/-! ### Where an element lies (R216, R342) -/

/-- A place: its key, the leaf it was found under, and the tenant tag under which it is read. -/
structure Spot where
  key : Nat
  leaf : TLeaf
  tag : Nat
  dev : Bool
  deriving DecidableEq, Repr
def plainLeaf : TLeaf := ⟨0, 48, 0, 15, 0, false⟩
/-- Indices of element `j`, dimension 0 innermost. -/
def walkIdx (w : BitVec 512) : Nat → Nat → Nat → List Nat
  | 0, _, _ => []
  | n + 1, k, j => j % (walkBound w k + 1) :: walkIdx w n (k + 1) (j / (walkBound w k + 1))
/-- ADDR plus the stride terms of the dimensions other than `skip`. -/
def walkSum (w : BitVec 512) (skip : Nat) : Nat → List Nat → Int
  | _, [] => walkBase w
  | k, i :: is => walkSum w skip (k + 1) is + (if k = skip then 0 else (i : Int) * walkStride w k)

/-- A scratchpad place: codes 0x04 and 0x05. -/
def State.spadSpot (s : State) (r : Req) (k : Cmd) (core : Nat) (addr : Int) (n : Nat) : State × Reply Spot :=
  if addr < 0 ∨ 0x10_0000 < addr + n ∨ ((s.core core).sp.preen ∧ ¬ k.handler ∧ 0xF_C000 < addr + n) then (s, .fault 0x04)
  else if addr % n ≠ 0 then (s, .fault 0x05)
  else (s, .ok ⟨spadKey core addr.toNat, plainLeaf, r.tenant, false⟩)
/-- A device virtual place. -/
def State.virtSpot (s : State) (r : Req) (addr : Int) (n kind : Nat) : State × Reply Spot :=
  if addr % n ≠ 0 then (s, .fault 0x05)
  else andThen (asFault 0x06 (s.translate r (wrapNat 64 addr) kind)) fun s x => (s, .ok ⟨x.1, x.2, x.2.owner, true⟩)
/-- A device physical place. -/
def State.physSpot (s : State) (r : Req) (addr : Int) (n : Nat) : State × Reply Spot :=
  if addr % n ≠ 0 then (s, .fault 0x05)
  else if addr < 0 ∨ ¬ s.hasMemory addr.toNat then (s, .fault 0x06)
  else (s, .ok ⟨addr.toNat, plainLeaf, r.tenant, true⟩)
/-- Make sure a porter serves the bytes and no line of them is owned. -/
def State.reach (s : State) (r : Req) (pa n : Nat) : State × Reply Unit :=
  match s.recallWait r.ev (linesIn pa n) with
  | some s1 => (s1, .wait)
  | none => s.serve r pa
/-- The space memory record has been read: a single-bit error in it is written back corrected (R309). -/
def State.scrubSmr (s : State) (space : Nat) : State := { s with mem := s.mem.scrub (s.mgmt.smrbase + 128 * space) 128 }
/-- An entry of the block table is reached at the porter of its channel, which executes what needs it (R226); it waits for a recall (R318, R398). -/
def State.kvReach (s : State) (r : Req) (e : Nat) : State × Reply Unit :=
  andThen (s.reach r (s.kvEntryAt r.space e) 8) fun s _ => ({ s.scrubSmr r.space with mem := (s.scrubSmr r.space).mem.scrub (s.kvEntryAt r.space e) 8 }, .ok ())
/-- A place through a paged dimension (`paged_addr` of R342). -/
def State.pagedSpot (s : State) (r : Req) (w : BitVec 512) (idx : List Nat) (n : Nat) : State × Reply Spot :=
  let d := walkPaged w - 1
  let i := idx.getD d 0
  let off := walkSum w d 0 idx
  andThen (asFault 0x06 (s.translate r (walkBtab w + 8 * (i / 16)) 0)) fun s x =>
    andThen (s.reach r x.1 8) fun s _ =>
      let rd := s.mem.devRead x.2 x.1 8 true
      let ref := natOf rd.bytes
      let s : State := { s with mem := s.mem.scrubRead x.2 x.1 8 }
      if rd.code ≠ 0 then (s, .fault rd.code)
      else if bits ref 32 32 = 0 ∨ s.refBad r.space ref then (s, .fault 0x0B)
      else andThen (s.kvReach r (bits ref 31 0)) fun s _ =>
        let e := s.mem.read (s.kvEntryAt r.space (bits ref 31 0)) 8
        let pa := (s.frameOf' r.space e : Int) + 64 * s.krowl r.space * (i % 16 : Nat) + off
        if entryFree e then (s, .fault 0x0B)
        else if off < 0 ∨ 64 * (s.krowl r.space : Int) ≤ off then (s, .fault 0x01)
        else s.physSpot r pa n
/-- The place of an element by its indices. -/
def State.elemSpot (s : State) (a : Asker) (r : Req) (k : Cmd) (w : BitVec 512) (idx : List Nat) (kind : Nat) : State × Reply Spot :=
  let n := 2 ^ walkEsize w
  let addr := walkSum w 6 0 idx
  if walkPaged w ≠ 0 then s.pagedSpot r w idx n
  else match walkKind w with
    | 0 => s.spadSpot r k (askerHome a) addr n
    | 1 => s.spadSpot r k (walkCore w) addr n
    | 2 => s.virtSpot r addr n kind
    | _ => s.physSpot r addr n

/-! ### Reading and writing a place -/

/-- Scratchpad as a copy of the asker reads it: with the writes of its primary's earlier bundles (R389). -/
def State.copyMem (s : State) (a : Asker) (k : Cmd) : Memory :=
  match a with
  | .engine c _ _ => (s.doWrites c (((s.core c).writes.filter fun w => decide (w.1 ≤ k.ic + 1)).map fun w => w.2)).mem
  | _ => s.mem
/-- The bytes of an element with the check-value differences of whole lines; a part of a line is checked before it is used (R228). -/
def State.readSpot (s : State) (a : Asker) (r : Req) (k : Cmd) (p : Spot) (n : Nat) : State × Reply (List Byte × List Nat) :=
  let finish (s : State) (m : Memory) : State × Reply (List Byte × List Nat) :=
    let rd := m.devRead p.leaf p.key n (decide (n < 64))
    let cvs := if isFormat p.leaf.state then [] else (linesIn p.key n).map m.cvOf
    if rd.code ≠ 0 then (s, .fault rd.code) else ({ s with mem := s.mem.scrubRead p.leaf p.key n }, .ok (rd.bytes, if n < 64 then [] else cvs))
  if p.dev then andThen (s.reach r p.key n) fun s _ => finish s s.mem
  else finish (s.usePorts (keyCore p.key) p.key n false) (s.copyMem a k)
/-- Write whole lines with the check values they came with, a part of a line with a fresh one (R72, R228). -/
def Memory.putCopied (m : Memory) : Nat → List Byte → List Nat → Memory
  | key, bs, [] => m.put (putBytes key bs)
  | key, bs, cv :: cvs => (m.putLine key (bs.take 64) cv).putCopied (key + 64) (bs.drop 64) cvs
/-- Take ownership of a line for a write that counts `n` bytes. -/
def State.ownLine (s : State) (a : Asker) (line : Nat) (puts : List PutByte) (cv : Option Nat) (n : Nat) : State :=
  ({ s with owned := s.owned ++ [{ line, owner := .cmd a, puts, cv, count := n, waiting := [] }] } : State).post .recallComplete (.memLine line)
/-- Take ownership of the lines of a write; each is performed when its recall completes (R218, R318). `counted` says whether its bytes are
counted into the arrival word. -/
def State.ownLines (s : State) (a : Asker) (counted : Bool) (key : Nat) (bs : List Byte) (cvs : List Nat) : State :=
  (linesIn key bs.length).foldl (fun (s : State) l =>
    let lo := max key l
    let n := min (key + bs.length) (l + 64) - lo
    s.ownLine a l (putBytes lo ((bs.drop (lo - key)).take n)) (cvs[(l - lineOf key) / 64]?) (if counted then n else 0)) s
/-- Put an element at its place: in a scratchpad at once, with its bytes counted; in device memory through the directory. -/
def State.writeSpot (s : State) (a : Asker) (r : Req) (k : Cmd) (p : Spot) (bs : List Byte) (cvs : List Nat) (arr : Option Nat) : State × Reply Cmd :=
  if p.dev then
    let lines := linesIn p.key bs.length
    andThen (s.reach r p.key bs.length) fun s _ =>
      if s.slicesFull lines then (s, .retry)
      else (s.ownLines a true p.key bs cvs, .ok { k with owned := k.owned + lines.length, off := k.off + bs.length })
  else
    let s1 := ({ s with mem := s.mem.putCopied p.key bs cvs } : State).usePorts (keyCore p.key) p.key bs.length true
    let (s2, k1) := s1.countBytes k arr bs.length
    (s2, .ok { k1 with off := k1.off + bs.length })

/-! ### Tiles on their way into a hoop (R79, R203, R216) -/

/-- The line that holds row 16 g of a tile, by its header; none where the header describes no tile. -/
def tileRowLine (bs : List Byte) (g : Nat) : Nat :=
  let h := natOf (bs.take 4)
  let b := match bits h 2 0 with | 0 => 8 | 1 => 6 | 2 => 4 | 3 => 4 | _ => 16
  (64 + 16 * g * (16 * (bits h 25 16 + 1)) * b / 8) / 64
/-- The shadows a tile sets: the tag under which the line holding row 16 g was read. -/
def TileBuf.shadows (t : TileBuf) : List Nat := (List.range 8).map fun g => t.tags.getD (64 * tileRowLine t.bytes g) (t.tags.getD 0 0)
def TileBuf.full (t : TileBuf) : Bool := t.bytes.length == t.ring.tile
def Cmd.tileFor (k : Cmd) (core : Nat) : Option TileBuf := (k.tiles.find? fun t => t.1 == core).map (·.2)
def Cmd.setTile (k : Cmd) (core : Nat) (t : Option TileBuf) : Cmd :=
  let rest := k.tiles.filter fun x => x.1 != core
  { k with tiles := match t with | some b => rest ++ [(core, b)] | none => rest }
/-- Add bytes of an element to the tile being assembled for a core, with the check-value differences of their lines where whole lines come; a full
tile is pushed by HOOP_PUSH. `len` is what the whole stream to this core holds. Answers the bytes taken as well. -/
def State.appendTile (s : State) (a : Asker) (k : Cmd) (core : Nat) (h : HReg) (len : Nat) (bs : List Byte) (cvs : List Nat) (tag : Nat) : State × Reply (Cmd × Nat) :=
  let d := (s.core core).h[h]
  let start : Reply TileBuf := match k.tileFor core with
    | some t => .ok t
    | none => if !d.valid then .fault 0x0D else if len % d.tile ≠ 0 then .fault 0x02 else .ok { ring := d, stale := false, bytes := [], tags := [], cvs := [] }
  andThen (s, start) fun s t =>
    if t.full then (s.unpostEv (moverEv a k), .wait) else
    let n := min bs.length (t.ring.tile - t.bytes.length)
    let lines := (cvs.take (n / 64)).zipIdx.map fun e => (t.bytes.length / 64 + e.2, e.1)
    let t1 := { t with bytes := t.bytes ++ bs.take n, tags := t.tags ++ List.replicate n tag, cvs := t.cvs ++ lines.filter fun e => e.2 != 0 }
    let s1 := if t1.full then s.post .hoopPush (.asker a) else s
    (s1, .ok ({ k.setTile core (some t1) with off := k.off + n }, n))
/-- HOOP_PUSH: a full tile is pushed once its ring has room; its bytes are counted. A tile of a ring replaced since is written where it began. A
command that has faulted writes nothing more (R220). -/
def State.pushFull (s : State) (a : Asker) (k : Cmd) (h : HReg) (arrOf : Nat → Option Nat) : State :=
  if k.fault.isSome then ((s.putCmd a { k with tiles := [] }).unpost .hoopPush (.asker a)).postEv (closerEv a k)
  else match k.tiles.find? fun t => t.2.full && (t.2.stale || ((s.core t.1).h[h]).room) with
  | none => s
  | some (core, t) =>
    let s1 := if t.stale then { s with mem := s.mem.putTile (spadKey core (t.ring.tileAt t.ring.tail)) t.bytes t.cvs }
      else s.pushTile core h t.bytes t.cvs t.shadows
    let (s2, k1) := s1.countBytes (k.setTile core none) (arrOf core) t.bytes.length
    let s3 := s2.putCmd a k1
    let s4 := if k1.tiles.any fun t => t.2.full then s3 else s3.unpost .hoopPush (.asker a)
    if k1.fault.isSome ∨ k1.off = k1.total then s4.postEv (closerEv a k1) else s4.postEv (moverEv a k1)

/-! ### One element of a data command (R217) -/

/-- The value of element `row` of an index walk. -/
def State.indexAt (s : State) (a : Asker) (r : Req) (k : Cmd) (ix : BitVec 512) (row : Nat) : State × Reply Nat :=
  andThen (s.elemSpot a r k ix (walkIdx ix (walkDims ix) 0 row) 0) fun s p =>
    andThen (s.readSpot a r k p 4) fun s x => (s, .ok (natOf x.1))
/-- The indices of element `j` of a row walk, through an index walk if there is one: code 0x0E above BOUND1. -/
def State.rowIdx (s : State) (a : Asker) (r : Req) (k : Cmd) (w : BitVec 512) (ix : Option (BitVec 512)) (j : Nat) : State × Reply (List Nat) :=
  match ix with
  | none => (s, .ok (walkIdx w (walkDims w) 0 j))
  | some x =>
    let n := walkBound w 0 + 1
    andThen (s.indexAt a r k x (j / n)) fun s i => if walkBound w 1 < i then (s, .fault 0x0E) else (s, .ok [j % n, i])
/-- The index walks of the source and of the destination. -/
def srcIndex : CmdKind → Option (BitVec 512)
  | .cgath ix => some ix
  | _ => none
def dstIndex : CmdKind → Option (BitVec 512)
  | .cscat ix => some ix
  | _ => none
/-- The place element `j` comes from; a CFILL has none. -/
def State.srcSpot (s : State) (a : Asker) (r : Req) (k : Cmd) (j : Nat) : State × Reply (Option Spot) :=
  match k.kind with
  | .cfill _ => (s, .ok none)
  | _ =>
    andThen (s.rowIdx a r k k.src (srcIndex k.kind) j) fun s idx =>
      andThen (s.elemSpot a r k k.src idx 0) fun s p => (s, .ok (some p))
/-- The bytes at it, with check values and tag. -/
def State.srcBytes (s : State) (a : Asker) (r : Req) (k : Cmd) : Option Spot → State × Reply (List Byte × List Nat × Nat)
  | none => (s, .ok ((match k.kind with | .cfill v => bytesOf (2 ^ walkEsize k.dst) v | _ => []), [], r.tenant))
  | some p => andThen (s.readSpot a r k p (2 ^ walkEsize k.src)) fun s x => (s, .ok (x.1, x.2, p.tag))
def State.srcElem (s : State) (a : Asker) (r : Req) (k : Cmd) (j : Nat) : State × Reply (List Byte × List Nat × Nat) :=
  andThen (s.srcSpot a r k j) fun s p => s.srcBytes a r k p
/-- The place element `j` goes to. -/
def State.dstSpot (s : State) (a : Asker) (r : Req) (k : Cmd) (j : Nat) : State × Reply Spot :=
  andThen (s.rowIdx a r k k.dst (dstIndex k.kind) j) fun s idx => s.elemSpot a r k k.dst idx 1
/-- The last of the first rows of a CSCAT whose index is `i`, every index before it checked. -/
def State.rowTo (s : State) (a : Asker) (r : Req) (k : Cmd) (ix : BitVec 512) (i : Nat) : Nat → State × Reply (Option Nat)
  | 0 => (s, .ok none)
  | n + 1 =>
    andThen (s.rowTo a r k ix i n) fun s b =>
      andThen (s.indexAt a r k ix n) fun s x => if walkBound k.dst 1 < x then (s, .fault 0x0E) else (s, .ok (if x = i then some n else b))
/-- The bytes at the place in the ring where the next ones of a tile go, as those of an element that began before them. -/
def State.ringBytes (s : State) (k : Cmd) (core : Nat) (h : HReg) (n : Nat) : List Byte :=
  let d := match k.tileFor core with | some t => t.ring | none => (s.core core).h[h]
  let done := ((k.tileFor core).map fun t => t.bytes.length).getD 0
  List.replicate (k.off % n) 0 ++ s.mem.bytes (spadKey core (d.tileAt d.tail + done)) (n - k.off % n)
/-- Element `j` of a hoop-target walk, in the order of its tiles: of a CSCAT, that of the last row with the index of its row. Bytes that no row
writes stay those of the tile's place in the ring, and count with it (R216, R217; DESIGN CHOICE, log 43). -/
def State.tileElem (s : State) (a : Asker) (r : Req) (k : Cmd) (core : Nat) (h : HReg) (j : Nat) : State × Reply (List Byte × List Nat × Nat) :=
  match dstIndex k.kind with
  | none => s.srcElem a r k j
  | some ix =>
    let n := walkBound k.dst 0 + 1
    andThen (s.rowTo a r k ix (j / n) (walkCount ix)) fun s row =>
      match row with
      | some q => s.srcElem a r k (q * n + j % n)
      | none => (s, .ok (s.ringBytes k core h (2 ^ walkEsize k.dst), [], r.tenant))
/-- The writes of the elements from `j` on that lie in the same line as the one before, so far as they can be made with it: the line is owned and written
once for all of them (R218, R398). -/
def State.gather (s : State) (a : Asker) (r : Req) (k : Cmd) (line : Nat) : Nat → Nat → State × Reply (List PutByte)
  | 0, _ => (s, .ok [])
  | n + 1, j =>
    if k.total ≤ j * 2 ^ walkEsize k.dst then (s, .ok [])
    else
      let x : State × Reply (Option Spot × Spot) := andThen (s.srcSpot a r k j) fun s p => andThen (s.dstSpot a r k j) fun s q => (s, .ok (p, q))
      match x.2 with
      | .ok (p, q) =>
        if !q.dev || lineOf q.key != line || (p.any fun p => p.dev && lineOf p.key == line) then (s, .ok [])
        else
          let y := x.1.srcBytes a r k p
          match y.2 with
          | .ok v => andThen (y.1.gather a r k line n (j + 1)) fun s l => (s, .ok (putBytes q.key v.1 ++ l))
          | .wait => (y.1, .wait)
          | .retry => (y.1, .retry)
          | _ => (s, .ok [])
      | .wait => (x.1, .wait)
      | .retry => (x.1, .retry)
      | _ => (s, .ok [])
/-- Put elements of less than a line at their places in one line of device memory. -/
def State.writeParts (s : State) (a : Asker) (r : Req) (k : Cmd) (q : Spot) (bs : List Byte) (j : Nat) : State × Reply Cmd :=
  andThen (s.reach r q.key bs.length) fun s _ =>
    if s.slicesFull [lineOf q.key] then (s, .retry)
    else andThen (s.gather a r k (lineOf q.key) 64 (j + 1)) fun s l =>
      let puts := putBytes q.key bs ++ l
      (s.ownLine a (lineOf q.key) puts none puts.length, .ok { k with owned := k.owned + 1, off := k.off + puts.length })
/-- Move the next element. -/
def State.moveElem (s : State) (a : Asker) (r : Req) (k : Cmd) : State × Reply Cmd :=
  let es := 2 ^ walkEsize k.dst
  let j := k.off / es
  match k.hoopTarget (askerHome a) with
  | some (core, h) =>
    andThen (s.tileElem a r k core (Fin.ofNat 8 h) j) fun s x =>
      andThen (s.appendTile a k core (Fin.ofNat 8 h) k.total (x.1.drop (k.off % es)) (x.2.1.drop (k.off % es / 64)) x.2.2) fun s y => (s, .ok y.1)
  | none =>
    andThen (s.srcElem a r k j) fun s x =>
      andThen (s.dstSpot a r k j) fun s q =>
        if q.dev && decide (es < 64) then s.writeParts a r k q x.1 j else s.writeSpot a r k q x.1 x.2.1 k.arrival

/-! ### A porter's deal (R324) -/

def dealBlk (pat : Nat) : Nat := 64 * (bits pat 5 0 + 1)
def dealBad (src : BitVec 512) (pat total : Nat) : Bool :=
  decide (6 < walkEsize src) || total % 64 != 0 || total % dealBlk pat != 0 || bits pat 23 16 == 0 || bits pat 7 6 != 0 || bits pat 63 56 != 0
    || bits pat 37 32 != 0 || (bits pat 52 52 == 1 && bits pat 51 32 != 0)
/-- The core of a rank in a context's domain. -/
def PCtx.coreOfRank (c : PCtx) (rank : Nat) : Option Nat :=
  if rank < c.width * c.height then some (coreId c.z (c.x0 + rank % c.width) (c.y0 + rank / c.width)) else none
/-- The arrival word in a receiving core. -/
def dealArr (arr core : Nat) : Option Nat := if arr % 2 ^ 20 = 0 then none else some (spadKey core (arr % 2 ^ 20))
/-- Bytes that a pattern deals to the core in place `i` of `nc`: every nc-th block. -/
def dealLen (blk nc total i : Nat) : Nat := ((total / blk - i + nc - 1) / nc) * blk
/-- Deal the next bytes of the block due to the core in place `i` of the pattern: to DEST in that core, or into its hoop. -/
def State.dealTo (s : State) (a : Asker) (r : Req) (k : Cmd) (c : PCtx) (pat arr i : Nat) : State × Reply Cmd :=
  let es := 2 ^ walkEsize k.src
  let blk := dealBlk pat
  let nc := bits pat 15 8 + 1
  let done := sget 0 k.dealt i
  let at_ := (done / blk * nc + i) * blk + done % blk
  match c.coreOfRank (bits pat 31 24 + i * bits pat 23 16) with
  | none => (s, .fault 0x0E)
  | some core =>
    andThen (s.elemSpot a r k k.src (walkIdx k.src (walkDims k.src) 0 (at_ / es)) 0) fun s p =>
      andThen (s.readSpot a r k p es) fun s x =>
        if bits pat 52 52 = 1 then
          andThen (s.appendTile a k core (Fin.ofNat 8 (bits pat 55 53)) (dealLen blk nc k.total i) x.1 x.2 p.tag) fun s y =>
            (s, .ok { y.1 with dealt := sput 0 y.1.dealt i (done + y.2) })
        else
          andThen (s.spadSpot r k core ((bits pat 51 32 + done : Nat) : Int) es) fun s q =>
            andThen (s.writeSpot a r k q x.1 x.2 (dealArr arr core)) fun s k1 => (s, .ok { k1 with dealt := sput 0 k1.dealt i (done + es) })
/-- The places of the pattern whose blocks can go on: not all dealt, and no full tile waits there for room. -/
def Cmd.dealOpen (k : Cmd) (c : PCtx) (pat : Nat) : List Nat :=
  let nc := bits pat 15 8 + 1
  (List.range nc).filter fun i => decide (sget 0 k.dealt i < dealLen (dealBlk pat) nc k.total i) &&
    !(((c.coreOfRank (bits pat 31 24 + i * bits pat 23 16)).bind k.tileFor).map TileBuf.full).getD false
/-- Deal the next bytes of a walk. Blocks of one core go in order, those of different cores proceed independently: which goes next is free (log 1). -/
def State.dealElem (s : State) (a : Asker) (r : Req) (k : Cmd) (c : PCtx) (pat arr : Nat) : State × Reply Cmd :=
  if dealBad k.src pat k.total then (s, .fault 0x01)
  else
    let go := k.dealOpen c pat
    match go[Config.pick s.tick % go.length]? with
    | none => (s.unpostEv (moverEv a k), .wait)
    | some i => s.dealTo a r k c pat arr i
def State.stepElem (s : State) (a : Asker) (r : Req) (k : Cmd) : State × Reply Cmd :=
  match k.kind, a with
  | .cdeal pat arr, .step p t _ => match s.ctx p t with | some c => s.dealElem a r k c pat arr | none => (s, .retry)
  | _, _ => s.moveElem a r k
/-- The arrival word of a command's bytes for a core. -/
def Cmd.arrivalFor (k : Cmd) (core : Nat) : Option Nat :=
  match k.kind with
  | .cdeal _ arr => dealArr arr core
  | _ => k.arrival
/-- The hoop a command pushes into. -/
def Cmd.hoop (k : Cmd) : HReg :=
  match k.kind with
  | .cdeal pat _ => Fin.ofNat 8 (bits pat 55 53)
  | _ => (walkHoop k.dst).getD 0

/-! ### Carrying a command on -/

/-- A command may start: those before it in its queue have started, no CFENCE stands before it, and what a fence held back is complete. -/
def Core.mayStart (c : Core) (e : Fin 2) (id : Nat) : Bool :=
  let before := (c.engines[e]).queue.takeWhile fun k => k.id != id
  let me := (c.engines[e]).queue.find? fun k => k.id == id
  before.all (fun k => k.started && (match k.kind with | .cfence _ => false | _ => true)) &&
    (match me with | some k => k.after.all fun i => !c.outstandingCmds.contains i | none => false)
def State.mayStart (s : State) (a : Asker) (k : Cmd) : Bool :=
  match a with
  | .engine c e id => (s.core c).mayStart (Fin.ofNat 2 e) id && decide (k.ready ≤ s.clock)
  | _ => true
/-- A command starts (R215); what it does comes in steps of their own, in no order with those of others in progress. -/
def State.startCopy (s : State) (a : Asker) (k : Cmd) : State := if s.mayStart a k then s.putCmd a { k with started := true } else s
/-- A command that pushes into a full hoop holds up every later one of its engine (R303). -/
def State.heldUp (s : State) (a : Asker) : Bool :=
  match a with
  | .engine c e id =>
    (((s.core c).engines[Fin.ofNat 2 e]).queue.takeWhile fun k => k.id != id).any fun k =>
      k.started && k.fault.isNone && !k.counted &&
        (match k.hoopTarget c with | some (d, h) => ((s.core d).h[Fin.ofNat 8 h]).valid && !((s.core d).h[Fin.ofNat 8 h]).room | none => false)
  | _ => false
/-- A forbidden permission: the issuing core or the context is frozen (R220, R314, R322). -/
def State.freezeAsker (s : State) (a : Asker) (addr : Nat) : State :=
  match a with
  | .engine c e _ => s.freezeCore c { kind := 3, slot := 4 + e, thread := 0, handle := 0, tag := 0, shadow := 0, owner := 0, addr }
  | .step p t i => s.freezeCtx p t i addr
  | .thread c t _ => s.freezeCore c (tinkerViolation 3 t addr)
/-- A violation: who asked is frozen. A context holds the request that met it (R322). -/
def violCmd (a : Asker) (k : Cmd) (ev : Ev) (s : State) (addr : Nat) : State :=
  let s1 := (((s.putCmd a k).forget ev).unpostEv ev).freezeAsker a addr
  match a with
  | .step p t _ => s1.updCtx p t fun c => { c with held := if c.held.contains ev then c.held else c.held ++ [ev] }
  | _ => s1
/-- What a command's request came to. -/
def settleCmd (a : Asker) (k : Cmd) (ev : Ev) (x : State × Reply Cmd) : State :=
  match x.2 with
  | .ok k1 =>
    let s1 := (x.1.putCmd a k1).forget ev
    if k1.fault.isSome ∨ k1.off = k1.total then (s1.unpostEv ev).postEv (closerEv a k1) else s1.postEv ev
  | .wait => x.1.putCmd a k
  | .retry => (x.1.putCmd a k).postEv ev
  | .fault c => (((x.1.putCmd a { k with fault := some c }).forget ev).unpostEv ev).postEv (closerEv a k)
  | .viol addr => violCmd a k ev x.1 addr
/-- The arrival words that a command's bytes are counted into (R220, R324). -/
def State.arrivalsOf (s : State) (a : Asker) (k : Cmd) : List Nat :=
  match k.kind, a with
  | .cdeal pat arr, .step p t _ =>
    match s.ctx p t with
    | some c => (List.range (bits pat 15 8 + 1)).filterMap fun i => (c.coreOfRank (bits pat 31 24 + i * bits pat 23 16)).bind (dealArr arr)
    | none => []
  | _, _ => k.arrival.toList
/-- Set ERR of an arrival word, but for one that holds an uncorrectable error (log 23). -/
def Memory.setErr (m : Memory) (key : Nat) : Memory := if (m.bad2 key 16).isSome then m else m.write key 16 (arrivalSetErr (m.read key 16))
/-- Carry a data command on by one element. -/
def State.stepData (s : State) (a : Asker) (ev : Ev) : State :=
  match s.cmdOf a with
  | none => s.unpostEv ev
  | some k =>
    if k.fault.isSome ∨ (k.started ∧ k.off = k.total) then (s.unpostEv ev).postEv (closerEv a k)
    else if s.heldUp a then s
    else if !k.started then s.startCopy a k
    else settleCmd a k ev (s.stepElem a (s.reqOf a ev) k)

/-- The engine that holds a command. -/
def engineCmd (core id : Nat) : Asker := .engine core (id / 2 ^ 15 % 2) id
def execArrivalWordUpdate : State → Out := fun s =>
  match s.cur with
  | .event (.cmd core id) => .next (s.stepData (engineCmd core id) (.arrivalWordUpdate, .cmd core id))
  | _ => .fault .noAgent
def execHoopPush (s : State) : Out :=
  match s.cur with
  | .event (.asker a) =>
    match s.cmdOf a with
    | some k => if k.fault.isNone && s.heldUp a then .next s else .next (s.pushFull a k k.hoop k.arrivalFor)
    | none => .next (s.unpost .hoopPush (.asker a))
  | _ => .fault .noAgent

/-- A command that moves elements of walks. -/
def Cmd.isData (k : Cmd) : Bool :=
  match k.kind with
  | .cdeal _ _ => true
  | _ => !(dataWalks k.kind k.dst k.src).isEmpty
/-- The write of an owned line. -/
def Owned.perform (o : Owned) (m : Memory) : Memory :=
  match o.cv with
  | some cv => m.putLineDev o.line (o.puts.map fun p => p.2.1) cv
  | none => m.putDev o.puts
/-- An owner that has faulted, or was cancelled, writes nothing more (R220, R323). -/
def State.ownerStops (s : State) (o : Owned) : Bool :=
  match o.owner with
  | .cmd a => match s.cmdOf a with | some k => k.fault.isSome | none => true
  | _ => false
/-- The owner's bytes are visible: they are counted, and its command goes on. -/
def State.ownerDone (s : State) (o : Owned) : State :=
  match o.owner with
  | .cmd a =>
    match s.cmdOf a with
    | none => s
    | some k =>
      let (s1, k1) := if k.fault.isSome then (s, k) else s.countBytes k k.arrival o.count
      let k2 := { k1 with owned := k1.owned - 1 }
      let s2 := s1.putCmd a k2
      if k2.fault.isSome ∨ (k2.off = k2.total ∧ k2.isData) then s2.postEv (closerEv a k2) else s2.postEv (moverEv a k2)
  | .host uid => { s with cmds := s.cmds.map fun c => if c.uid = uid then { c with info := c.info - 1 } else c }
  | .move _ => s
/-- R349: a line that leaves the device with a failing check value is poisoned, its address recorded and vector 0 raised. -/
def State.poisoned (s : State) (pa : Nat) : State := ({ s with outerr := pa % 2 ^ 48 } : State).raiseVec 0
/-- The line at `pa` goes to the host as a poisoned write of the line at `dst`. -/
def State.poisonTo (s : State) (pa dst : Nat) : State := let s1 := s.poisoned pa; { s1 with epWrites := s1.epWrites ++ [dst] }
/-- RECALL_COMPLETE: the owner's write ends ownership, and the waiting accesses are performed in their order (R318). -/
def State.recall (s : State) (line : Nat) : State :=
  match s.ownerOf line with
  | none => s.unpost .recallComplete (.memLine line)
  | some o0 =>
    let stops := s.ownerStops o0
    let o : Owned := if stops then { o0 with puts := [], cv := none } else o0
    let bad := isHost line && (o.cv.getD 0) != 0
    let s0 := if bad then s.poisonTo line line else s
    let o1 : Owned := if bad then { o with cv := some 0 } else o
    let s1 := { s0 with mem := o1.perform s.mem, owned := s.owned.filter (fun x => x.line != line),
                        agenda := o.waiting.map (fun (e : Nat × Ev) => Item.event e.2.1 e.2.2) ++ s.agenda }
    let s2 := (s1.unpost .recallComplete (.memLine line)).ownerDone o
    if stops then s2 else s2.noteWrite line 64
def execRecallComplete (s : State) : Out :=
  match s.cur with
  | .event (.memLine line) =>
    match s.ownerOf line with
    | some { owner := .move _, .. } => .next s
    | _ => .next (s.recall line)
  | _ => .fault .noAgent

/-! ### Completion (R219 to R221) -/

/-- Set ERR of a faulted command's arrival word, and keep the fault where the word lies until it is reported. -/
def State.reportFault (s : State) (k : Cmd) (code own : Nat) : State :=
  match k.arrival with
  | none => s.updCore own fun c => { c with faults := c.faults ++ [⟨k.id, code, none⟩] }
  | some key =>
    let s1 := { s with mem := s.mem.setErr key }
    s1.updCore (keyCore key) fun c => { c with faults := c.faults ++ [⟨k.id, code, some key⟩] }
/-- A command that completes holds nothing back any more: fences, CFENCEs and releases waited for this one and not for a later one of its identifier. -/
def Core.dropId (c : Core) (id : Nat) : Core :=
  { c with fences := c.fences.filter (· != id)
           releases := c.releases.map fun r => { r with cmds := r.cmds.filter (· != id) }
           engines := c.engines.map fun e => { e with queue := e.queue.map fun k => { k with after := k.after.filter (· != id) } } }
/-- Whether a command is complete: faulted or cancelled with nothing on its way, or all of it counted. -/
def Core.cmdDone (c : Core) (k : Cmd) : Bool :=
  k.owned == 0 &&
    (k.fault.isSome || k.counted ||
      (match k.kind with
        | .cfence _ => k.after.all fun i => !c.outstandingCmds.contains i
        | _ => false))
def Engine.retire (e : Engine) (k : Cmd) : Engine :=
  { e with queue := e.queue.filter fun x => x.id != k.id
           history := ⟨k.id, k.fault.isSome, k.fault.getD 0, k.bytes⟩ :: e.history.filter fun x => x.id != k.id }
def State.completeCmd (s : State) (core : Nat) (e : Fin 2) (k : Cmd) : State :=
  let s1 := s.updCore core fun c => ({ c with engines := c.engines.set e ((c.engines[e]).retire k) } : Core).dropId k.id
  let s2 := match k.fault with | some code => s1.reportFault k code core | none => s1
  (s2.unpost .copyCommandComplete (.cmd core k.id)).unpostEv (moverEv (.engine core e.val k.id) k)
def execCopyCommandComplete (s : State) : Out :=
  match s.cur with
  | .event (.cmd core id) =>
    let e : Fin 2 := Fin.ofNat 2 (id / 2 ^ 15)
    match ((s.core core).engines[e]).queue.find? fun k => k.id == id with
    | some k => if (s.core core).cmdDone k then .next (s.completeCmd core e k) else .next s
    | none => .next (s.unpost .copyCommandComplete (.cmd core id))
  | _ => .fault .noAgent

end Sys2Proof.Machine
end

