-- ==== Sys2Proof/Machine/Porter.lean ====
section
/-! DEFINITION. Porters: global atomics (R224), KV commands (R226, R343), hints and tier moves (R225, R336 to R339), porter programs
(R319 to R324), and the walks of the stations (R314, R315). -/
namespace Sys2Proof.Machine

/-! ### TRANSLATION_WALK -/

/-- A walk ends: its leaf is cached, or its fault is logged for each request; the requests run again with the answer. At most 64 walks of a
station are under way, in arrival order. -/
def State.walkDone (s : State) (station : Nat) (q : TransReq) : State :=
  let page := q.va / 2 ^ 16
  let mine (w : Walk) : Bool := w.station == station && w.space == q.space && w.page == page
  match s.walks.find? mine with
  | none => s.unpost .translationWalk (.walk station q)
  | some w =>
    if !(((s.walks.filter fun x => x.station == station).take 64).any mine) then s
    else
      let res := s.walkTables q.space (page * 2 ^ 16)
      let covers (x : WalkWait) : Bool := match res with
        | .leaf l _ => page * 2 ^ 16 / 2 ^ l.size == x.req.va / 2 ^ l.size
        | .fault _ _ => page == x.req.va / 2 ^ 16
      let share := w.waiting.filter covers
      let s0 := s.scrubWalk q.space (page * 2 ^ 16)
      let s1 := match res with
        | .leaf l a => s0.setStation station ((s.station station).keep ⟨q.space, page * 2 ^ 16, l, a⟩ s.tick)
        | .fault reason level => share.foldl (fun (s : State) (x : WalkWait) => s.logFault station x.req reason level x.who) s0
      let s2 : State := { s1 with walks := s1.walks.filter fun x => !mine x,
                                  answers := s1.answers ++ share.map (fun (x : WalkWait) => ({ ev := x.ev, space := q.space, page := x.req.va / 2 ^ 16, res := res } : Answer)),
                                  agenda := w.waiting.map (fun (x : WalkWait) => Item.event x.ev.1 x.ev.2) ++ s1.agenda }
      s2.unpost .translationWalk (.walk station q)
def execTranslationWalk : State → Out := fun s =>
  match s.cur with
  | .event (.walk station q) => if station < 128 then .next (s.walkDone station q) else .fault .noSuchUnit
  | _ => .fault .noAgent

/-! ### Global atomics (R224) -/

/-- Perform an atomic on a word of device memory: the old value. -/
def State.devAtomic (s : State) (r : Req) (x : AtX) (va b a : Nat) : State × Reply Nat :=
  let n := stwBytes x.width
  andThen (asFault 0x06 (s.translate r va 3)) fun s p =>
    andThen (s.reach r p.1 n) fun s _ =>
      let e := s.mem.devError p.1 n true
      if e.1 ≠ 0 then (s, .fault e.1)
      else
        let o := s.mem.read p.1 n
        (({ s with mem := (s.mem.scrub p.1 n).writeDev p.1 n (atomicNew x o b a).1 } : State).noteWrite p.1 n, .ok o)
/-- An operation without elements is performed: its arrival word counts 8 bytes. -/
def State.finishEight (s : State) (k : Cmd) : State × Reply Cmd :=
  let (s1, k1) := s.countBytes k k.arrival 8
  (s1, .ok { k1 with finished := true })
def State.stepCatom (s : State) (r : Req) (k : Cmd) (x : AtX) (rec_ va b a : Nat) : State × Reply Cmd :=
  andThen (s.devAtomic r x va b a) fun s o =>
    (if x.ret then ({ s with mem := s.mem.write (rec_ + 16) 8 o } : State).usePorts (keyCore rec_) (rec_ + 16) 8 true else s).finishEight k

/-! ### KV commands (R226, R343) -/

/-- Push onto a stack of the space memory record: its base field, its count's byte offset, and the entry size. -/
def State.smrPush (s : State) (space baseLo cntByte size x : Nat) : State :=
  let rec_ := s.mgmt.smrbase + 128 * space
  let n := s.mem.read (rec_ + cntByte) 4
  { s with mem := ((s.mem.scrub rec_ 128).write (s.smr space baseLo 48 + size * n) size x).write (rec_ + cntByte) 4 (n + 1) }
/-- Pop a stack of the space memory record. -/
def State.smrPop (s : State) (space baseLo cntByte size : Nat) : Option (State × Nat) :=
  let rec_ := s.mgmt.smrbase + 128 * space
  let n := s.mem.read (rec_ + cntByte) 4
  if n = 0 then none
  else
    let top := s.smr space baseLo 48 + size * (n - 1)
    some ({ s with mem := ((s.mem.scrub rec_ 128).scrub top size).write (rec_ + cntByte) 4 (n - 1) }, s.mem.read top size)
/-- Add 1 to a counter of the record. -/
def State.smrBump (s : State) (space byte_ : Nat) : State :=
  let a := s.mgmt.smrbase + 128 * space + byte_
  { s with mem := s.mem.write a 8 (s.mem.read a 8 + 1) }
def State.setEntry (s : State) (space e x : Nat) : State := { s with mem := s.mem.write (s.kvEntryAt space e) 8 x }
/-- Free a block: its frame and its entry return to their stacks. -/
def State.kvFree (s : State) (space e x : Nat) : State :=
  let s1 := if bits x 45 45 = 1 then s.smrPush space 896 118 4 (bits x 31 0) else s.smrPush space 816 108 4 (bits x 31 0)
  (s1.smrPush space 736 98 4 e).setEntry space e 0
/-- Take an entry and a near frame. -/
def State.kvAlloc (s : State) (space : Nat) : Option (State × Nat × Nat) :=
  match s.smrPop space 736 98 4 with
  | none => none
  | some (s1, e) => (s1.smrPop space 816 108 4).map fun p => (p.1.setEntry space e (p.2 + 2 ^ 32), e, p.2)
/-- REFS and PINS of an entry changed. -/
def entryWith (x refs pins : Nat) : Nat := bits x 31 0 + 2 ^ 32 * refs + 2 ^ 44 * bits x 45 44 + 2 ^ 46 * pins + 2 ^ 54 * bits x 63 54
/-- The reference a command names, with its physical address. -/
def State.kvRef (s : State) (r : Req) (va : Nat) : State × Reply (Nat × Nat) :=
  andThen (asFault 0x06 (s.translate r va 3)) fun s p =>
    andThen (s.reach r p.1 8) fun s _ =>
      let e := s.mem.devError p.1 8 true
      let ref := s.mem.read p.1 8
      if e.1 ≠ 0 then (s, .fault e.1)
      else if s.refBad r.space ref then (s, .fault 0x0B)
      else ({ s with mem := s.mem.scrub p.1 8 }, .ok (p.1, ref))
/-- KVREL, KVPIN and KVUNPIN. -/
def State.stepKv (s : State) (r : Req) (k : Cmd) (va : Nat) : State × Reply Cmd :=
  andThen (s.kvRef r va) fun s p =>
    if bits p.2 32 32 = 0 then (s, .fault 0x0B)
    else
      let n := bits p.2 31 0
      andThen (s.kvReach r n) fun s _ =>
        let x := s.mem.read (s.kvEntryAt r.space n) 8
        match k.kind with
        | .kvrel _ =>
          if entryRefs x = 0 then (s, .fault 0x0B)
          else
            let y := entryWith x (entryRefs x - 1) (entryPins x)
            let s1 := ({ s with mem := s.mem.writeDev p.1 8 0 } : State).noteWrite p.1 8
            (if entryFree y then s1.kvFree r.space n y else s1.setEntry r.space n y).finishEight k
        | .kvpin _ =>
          if entryPins x = 255 ∨ entryRefs x = 0 then (s, .fault 0x0B)
          else (s.setEntry r.space n (entryWith x (entryRefs x) (entryPins x + 1))).finishEight k
        | _ =>
          if entryPins x = 0 then (s, .fault 0x0B)
          else
            let y := entryWith x (entryRefs x) (entryPins x - 1)
            (if entryFree y then s.kvFree r.space n y else s.setEntry r.space n y).finishEight k
/-- Copy a whole frame, line by line with its check values: the first bad line's code. -/
def State.copyFrame (s : State) (src dst lines : Nat) : State × Nat :=
  let e := s.mem.devError src (64 * lines) true
  if e.1 ≠ 0 then (s, e.1)
  else
    let m := s.mem.scrub src (64 * lines)
    ({ s with mem := (List.range lines).foldl (fun (m : Memory) i => m.putLine (dst + 64 * i) (s.mem.bytes (src + 64 * i) 64) 0) m }, 0)
/-- KVAPP takes a new block for a reference at `pa`, cloning the block of an entry `n` that holds `x` where there is one (Table 12.9). -/
def State.kvFresh (s : State) (r : Req) (pa : Nat) (old : Option (Nat × Nat)) : State × Reply Nat :=
  match s.kvAlloc r.space with
  | none => (s, .fault 0x0B)
  | some (s0, e, _) =>
    let lines := 16 * s.krowl r.space
    let dst := s0.frameOf' r.space (s0.mem.read (s0.kvEntryAt r.space e) 8)
    andThen (s.kvReach r e) fun s _ =>
      match s.kvAlloc r.space, old with
      | none, _ => (s, .fault 0x0B)
      | some (s1, e, _), none => (({ s1 with mem := s1.mem.writeDev pa 8 (e + 2 ^ 32) } : State).noteWrite pa 8, .ok e)
      | some (s1, e, _), some (n, x) =>
        let src := s.frameOf' r.space x
        match s.recallWait r.ev (linesIn src (64 * lines) ++ linesIn dst (64 * lines)) with
        | some t => (t, .wait)
        | none =>
          let (s2, code) := s1.copyFrame src dst lines
          if code ≠ 0 then (s, .fault code)
          else
            let z := entryWith x (entryRefs x - 1) (entryPins x)
            let s3 := if entryFree z then s2.kvFree r.space n z else s2.setEntry r.space n z
            (({ s3 with mem := s3.mem.writeDev pa 8 (e + 2 ^ 32) } : State).noteWrite pa 8, .ok e)
/-- The update KVAPP makes before its rows (Table 12.9): the entry whose frame takes them. -/
def State.kvPrepare (s : State) (r : Req) (pa ref : Nat) : State × Reply Nat :=
  let n := bits ref 31 0
  if bits ref 32 32 = 0 then s.kvFresh r pa none
  else andThen (s.kvReach r n) fun s _ =>
    let x := s.mem.read (s.kvEntryAt r.space n) 8
    if entryRefs x = 0 then (s, .fault 0x0B)
    else if bits x 45 45 = 1 ∨ (bits x 44 44 = 1 ∧ 1 < entryRefs x) then s.kvFresh r pa (some (n, x))
    else (s, .ok n)
/-- The append descriptor (Table 7.16), read from the scratchpad. -/
def State.kvDesc (s : State) (a : Asker) (r : Req) (k : Cmd) (desc : Nat) : State × Reply Nat :=
  andThen (s.spadSpot r k (askerHome a) desc 16) fun s p =>
    andThen (s.readSpot a r k p 16) fun s x =>
      let d := natOf x.1
      if bits d 5 0 ≠ 0 ∨ 15 < bits d 23 20 + bits d 27 24 ∨ bits d 39 28 = 0 ∨ bits d 127 40 ≠ 0 ∨ bits d 39 28 ≠ s.krowl r.space then (s, .fault 0x01)
      else (s, .ok d)
/-- KVAPP: the update, then one line of its rows at a time. `src` keeps the descriptor's first row and the first destination line. -/
def State.stepKvapp (s : State) (a : Asker) (r : Req) (k : Cmd) (va desc : Nat) : State × Reply Cmd :=
  if k.total = 0 then
    andThen (s.kvDesc a r k desc) fun s d =>
      andThen (s.kvRef r va) fun s p =>
        andThen (s.kvPrepare r p.1 p.2) fun s e =>
          let x := s.mem.read (s.kvEntryAt r.space e) 8
          let dst := s.frameOf' r.space x + 64 * bits d 39 28 * bits d 23 20
          (s, .ok { k with total := 64 * bits d 39 28 * (bits d 27 24 + 1), src := BitVec.ofNat 512 (bits d 19 0 + 2 ^ 20 * dst) })
  else if k.off = k.total then (if k.owned = 0 then s.finishEight k else (s.unpostEv (moverEv a k), .wait))
  else
    let from_ : Nat := k.src.toNat % 2 ^ 20 + k.off
    let into : Nat := k.src.toNat / 2 ^ 20 + k.off
    andThen (s.spadSpot r k (askerHome a) (from_ : Nat) 64) fun s p =>
      andThen (s.readSpot a r k p 64) fun s x =>
        andThen (s.physSpot r (into : Nat) 64) fun s q =>
          andThen (s.reach r q.key 64) fun s _ =>
            if s.slicesFull [lineOf q.key] then (s, .retry)
            else (s.ownLines a false q.key x.1 x.2, .ok { k with off := k.off + 64, owned := k.owned + 1 })

/-! ### Hints and tier moves (R225, R336 to R339) -/

/-- The porter that performs a move: the one that serves the source frame's first line. -/
def Move.porter (m : Move) : Nat := homePorter m.src
/-- Start a move that a hint asks for, or count it as dropped (R338). -/
def State.startMove (s0 : State) (space va leafAt : Nat) (l : TLeaf) (promote : Bool) (fmt urg launch : Nat) : State :=
  let s := s0.scrubSmr space
  let have_ := s.mem.read (s.mgmt.smrbase + 128 * space + (if promote then 8 else 24)) 4
  if l.state = 8 ∨ have_ = 0 then s.smrBump space 48
  else
    let m : Move := { id := s.nextMove, space, va, leafAt, src := l.page, dst := 0, promote, fmt, srcState := l.state, urg, launch, started := false }
    ({ s with moves := s.moves ++ [m], nextMove := s.nextMove + 1 } : State).post .tierMove (.num m.id)
/-- One page of a hint. -/
def State.hintPage (s : State) (space va : Nat) (promote : Bool) (fmt urg launch : Nat) : State :=
  match s.walkTables space va with
  | .fault _ _ => s
  | .leaf l at_ =>
    if l.size ≠ 16 ∨ isHost l.page ∨ (windowOf l.page).isSome then s
    else if l.state = 8 then s.startMove space va at_ l promote fmt urg launch
    else if (promote ∧ l.state = 0) ∨ (¬ promote ∧ 1 ≤ l.state ∧ l.state ≤ 4) then s
    else if 4 < l.state then s
    else s.startMove space va at_ l promote fmt urg launch
/-- A hint handles one page at a time, and is complete when every page is. -/
def State.stepHint (s : State) (a : Asker) (r : Req) (k : Cmd) (va len urg fmt : Nat) (promote : Bool) : State × Reply Cmd :=
  let first := va / 2 ^ 16
  let pages := if len = 0 ∨ 2 ^ 48 ≤ va then 0 else (min (va + len) (2 ^ 48) + 2 ^ 16 - 1) / 2 ^ 16 - first
  if k.off = pages then (s, .ok { k with finished := true })
  else
    let launch := ((s.launchOf (askerHome a)).map fun l => l.id).getD 0
    (s.hintPage r.space ((first + k.off) * 2 ^ 16) promote fmt urg launch, .ok { k with off := k.off + 1 })

/-- The state before a move of its source page, as a leaf. -/
def Move.leaf (m : Move) : TLeaf := { plainLeaf with page := m.src, size := 16, state := m.srcState }
/-- A line of a page stored as a packed block (R225): quant_elem in RNE under the VMXEXP scale with HEAD 1. -/
def packLine (f : MxFmt) (bs : List Byte) : List Byte :=
  let vs := (List.range 32).map fun i => FFmt.bf16.read (natOf ((bs.drop (2 * i)).take 2))
  let sc := (chooseScale true vs).1
  bytesOf (mxBlockBytes f) (packElems (mxBits f) (vs.map fun v => (quantElem [] v sc f .rne).1) + 2 ^ (32 * mxBits f) * sc)
/-- Bad words and lines of a source stay bad where they go: a word in `bad2`, a line in `badCv`, by source and destination (R309; DESIGN CHOICE for a
line that is converted, log 43). -/
def Memory.carryBad (m k : Memory) (src dst n : Nat) : Memory :=
  let k1 := if (m.bad2 src n).isSome then { k with ecc2 := nput k.ecc2 (dst / 8 * 8) } else k
  if (m.badCv (lineOf src) ((src + n + 63) / 64 * 64 - lineOf src)).isSome then { k1 with cv := sput 0 k1.cv (lineOf dst) 1 } else k1
/-- Copy the page of a move, converting it as the hint asks (R337 step 4). Whole lines keep their check values and their bad words;
single-bit errors are written back corrected (R309). -/
def Move.copy (m : Move) (was : Memory) : Memory :=
  let mem := was.scrub m.src 65536
  let lines := List.range 1024
  if m.promote ∧ isFormat m.srcState then
    let n := mxBlockBytes (pageFmt m.srcState)
    let k := lines.foldl (fun (k : Memory) i => k.put (putBytes (m.dst + 64 * i) (mem.devRead m.leaf (m.src + 64 * i) 64 false).bytes)) mem
    lines.foldl (fun (k : Memory) i => mem.carryBad k (m.src + n * i) (m.dst + 64 * i) n) k
  else if ¬ m.promote ∧ m.fmt ≠ 0 then
    let f := pageFmt (m.fmt + 1)
    let k := lines.foldl (fun (k : Memory) i => k.put (putBytes (m.dst + mxBlockBytes f * i) (packLine f (mem.bytes (m.src + 64 * i) 64)))) mem
    lines.foldl (fun (k : Memory) i => mem.carryBad k (m.src + 64 * i) (m.dst + mxBlockBytes f * i) 64) k
  else
    let k := lines.foldl (fun (k : Memory) i => k.putLine (m.dst + 64 * i) (mem.bytes (m.src + 64 * i) 64) (mem.cvOf (m.src + 64 * i))) mem
    { k with ecc2 := (mem.ecc2.filter fun w => decide (m.src ≤ w) && decide (w < m.src + 65536)).foldl (fun l w => nput l (w - m.src + m.dst)) k.ecc2 }
/-- The STATE a move leaves. -/
def Move.newState (m : Move) : Nat := if m.promote then 0 else m.fmt + 1
/-- The next of a porter's accepted moves: the highest urgency, then by arrival. -/
def State.nextMoveOf (s : State) (p : Nat) : Option Move :=
  let ms := s.moves.filter fun m => m.porter == p && !m.started
  ms.foldl (fun b m => match b with | none => some m | some x => if x.urg < m.urg then some m else some x) none
def pageLines (a : Nat) : List Nat := (List.range 1024).map fun i => a + 64 * i
/-- Steps 1 to 3: the destination frame, MOVING in the leaf, and every source line owned. A move whose leaf has changed since its hint was accepted is
judged afresh by R338. -/
def State.moveBegin (s : State) (m : Move) : State :=
  let lines := pageLines m.src
  let e := s.tableEntry m.leafAt
  let gone : State := ({ s with moves := s.moves.filter fun x => x.id != m.id } : State).unpost .tierMove (.num m.id)
  if bits e 1 0 ≠ 3 ∨ entryAddr e ≠ m.src ∨ bits e 15 8 ≠ m.srcState then gone.hintPage m.space m.va m.promote m.fmt m.urg m.launch
  else if (lines.any fun l => (s.ownerOf l).isSome) || s.slicesFull lines then s
  else match s.smrPop m.space (if m.promote then 0 else 128) (if m.promote then 8 else 24) 8 with
    | none => gone.smrBump m.space 48
    | some (s1, dst) =>
      { s1 with mem := s1.mem.write (m.leafAt + 1) 1 8, moves := s1.moves.map (fun x => if x.id = m.id then { x with started := true, dst } else x),
                owned := s1.owned ++ lines.map (fun l => { line := l, owner := .move m.id, puts := [], cv := none, count := 0, waiting := [] }) }
/-- Forget a page in every station, and what was answered of it (R337 step 6). -/
def State.purgePage (s : State) (space va : Nat) : State :=
  { s with stations := s.stations.map fun p => (p.1, p.2.purge fun e => e.space == space && e.va / 2 ^ 16 == va / 2 ^ 16),
           answers := s.answers.filter fun a => !(a.space == space && a.page == va / 2 ^ 16) }
/-- Accesses in the order of their arrival. -/
def putArrival (x : Nat × Ev) : List (Nat × Ev) → List (Nat × Ev)
  | [] => [x]
  | y :: rest => if x.1 ≤ y.1 then x :: y :: rest else y :: putArrival x rest
/-- Steps 4 to 7. The accesses that waited are translated afresh, in the order of their arrival. -/
def State.moveEnd (s : State) (m : Move) : State :=
  let e := s.mem.read m.leafAt 16
  let e1 := bits e 7 0 + 2 ^ 8 * m.newState + 2 ^ 16 * (m.dst / 2 ^ 8) + 2 ^ 56 * (e / 2 ^ 56)
  let s1 := ({ s with mem := (m.copy s.mem).write m.leafAt 16 e1 } : State).purgePage m.space m.va
  let mine (o : Owned) : Bool := o.owner == .move m.id
  let waiting := ((s1.owned.filter mine).flatMap fun o => o.waiting).foldr putArrival []
  let s2 : State := { s1 with owned := s1.owned.filter (fun o => !mine o), moves := s1.moves.filter (fun x => x.id != m.id),
                              agenda := waiting.map (fun (e : Nat × Ev) => Item.event e.2.1 e.2.2) ++ s1.agenda }
  let s3 := if isNear m.src then s2.smrPush m.space 0 8 8 m.src else if isFar m.src then s2.smrPush m.space 128 24 8 m.src else s2
  let s4 := if m.promote then s3.smrBump m.space 32 else s3
  let s5 := if m.promote ∧ ¬ (s4.launches.any fun l => l.id == m.launch) then s4.smrBump m.space 40 else s4
  s5.unpost .tierMove (.num m.id)
def execTierMove : State → Out := fun s =>
  match s.cur with
  | .event (.num n) =>
    match s.moves.find? fun m => m.id == n with
    | none => .next (s.unpost .tierMove (.num n))
    | some m => .next (if m.started then s.moveEnd m else if (s.nextMoveOf m.porter).map (·.id) = some n then s.moveBegin m else s)
  | _ => .fault .noAgent

/-! ### Porter programs (R320 to R324) -/

/-- Bytes that a porter reads for a context, within one line and under the context's space and tenant (R320). -/
def State.ctxRead (s : State) (p ctag va n : Nat) (ev : Ev) : State × Reply (List Byte) :=
  let r := s.reqOf (.step p ctag 0) ev
  andThen (asFault 0x06 (s.translate r va 0)) fun s x =>
    andThen (s.reach r x.1 n) fun s _ =>
      let rd := s.mem.devRead x.2 x.1 n true
      if rd.code ≠ 0 then (s, .fault rd.code) else ({ s with mem := s.mem.scrubRead x.2 x.1 n }, .ok rd.bytes)
/-- The contexts of a porter that run programs. -/
def State.running (s : State) (p : Nat) : Nat := ((s.porter p).ctxs.filter fun c => c.run.isSome).length
/-- The run block, so many lines of it. -/
def State.runBlock (s : State) (p ctag va : Nat) (ev : Ev) : Nat → State × Reply (List Byte)
  | 0 => (s, .ok [])
  | n + 1 => andThen (s.ctxRead p ctag va 64 ev) fun s a => andThen (s.runBlock p ctag (va + 64) ev n) fun s b => (s, .ok (a ++ b))
/-- A run begins: RUNS counts it, and its registers are loaded. A run block that cannot be read ends it with the fault's code. -/
def State.startRun (s : State) (p ctag : Nat) (block : Except Nat (List Byte)) : State :=
  let run : Run := match block with
    | .ok bs =>
      let b := natOf bs
      { q := Vector.ofFn fun i => if i.val = 0 then 0 else BitVec.ofNat 64 (b / 2 ^ (64 * i.val)),
        w := Vector.ofFn fun i => BitVec.ofNat 512 (b / 2 ^ (1024 + 512 * i.val)), next := 0, steps := [], ended := false, fault := none }
    | .error code => { q := Vector.replicate 16 0, w := Vector.replicate 8 0, next := 0, steps := [], ended := true, fault := some (code, 0) }
  let s1 := (s.updCtx p ctag fun c => { c with runs := c.runs + 1, run := some run }).unpost .porterRunStart (.porter p ctag)
  if run.ended then s1.post .porterRunEnd (.porter p ctag) else s1.post .porterRequest (.porter p ctag)
/-- A frozen context holds a request until FREEZE_CLEAR (R322). -/
def State.holdCtx (s : State) (p ctag : Nat) (ev : Ev) : State :=
  ((s.forget ev).unpostEv ev).updCtx p ctag fun c => { c with held := if c.held.contains ev then c.held else c.held ++ [ev] }
/-- The launch of a context is leaving the device, or has left it: no run starts until it resumes (R323). -/
def State.runsBarred (s : State) (ctag : Nat) : Bool :=
  s.launches.any fun l => l.ctag == ctag && (l.phase == .preempting || l.phase == .saved || l.phase == .retiring || s.pending.contains (.preempt, .launch l.id))
/-- Compare the go word with RUNS, and start a run (R320). -/
def State.runStart (s : State) (p ctag : Nat) (c : PCtx) : State :=
  let ev : Ev := (.porterRunStart, .porter p ctag)
  let x : State × Reply (Option (Except Nat (List Byte))) := andThen (s.ctxRead p ctag c.gova 8 ev) fun s g =>
    if natOf g ≤ c.runs.toNat then (s, .ok none)
    else if 6 ≤ s.running p then (s, .retry)
    else
      let y := s.runBlock p ctag c.runva ev 10
      (y.1, match y.2 with
        | .ok b => .ok (some (.ok b))
        | .fault code => .ok (some (.error code))
        | .wait => .wait
        | .retry => .retry
        | .viol a => .viol a)
  match x.2 with
  | .ok none => (x.1.forget ev).unpostEv ev
  | .ok (some b) => (x.1.forget ev).startRun p ctag b
  | .wait => x.1
  | .retry => x.1.postEv ev
  | .fault _ => (x.1.forget ev).unpostEv ev
  | .viol a => (x.1.freezeCtx p ctag 0 a).holdCtx p ctag ev
def execPorterRunStart : State → Out := fun s =>
  match s.cur with
  | .event (.porter p ctag) =>
    if 512 ≤ p then .fault .noSuchUnit
    else if s.runsBarred ctag then .next (s.post .porterRunStart (.porter p ctag))
    else match s.resident p ctag with
      | none => .next (s.post .porterRunStart (.porter p ctag))
      | some s1 =>
        match s1.ctx p ctag with
        | none => .next s
        | some c =>
          if c.frozen.isSome ∨ c.run.isSome then .next (s.post .porterRunStart (.porter p ctag))
          else if !c.prog then .next (s1.unpost .porterRunStart (.porter p ctag))
          else .next (s1.runStart p ctag c)
  | _ => .fault .noAgent

/-- A step's fields: operation, PRED, A, B, C, and the extension word. -/
structure StepWord where
  op : Nat
  pred : Nat
  a : Nat
  b : Nat
  c : Nat
  ext : Nat
  deriving DecidableEq, Repr
def stepWordOf (x : Nat) : StepWord := ⟨bits x 31 24, bits x 23 21, bits x 20 14, bits x 13 7, bits x 6 0, bits x 63 32⟩
def isW (c : Nat) : Bool := decide (0x68 ≤ c) && decide (c < 0x70)
def isQ (c : Nat) : Bool := decide (c < 0x10)
def Run.wAt (r : Run) (c : Nat) : BitVec 512 := r.w[Fin.ofNat 8 c]
def Run.qAt (r : Run) (c : Nat) : Nat := if c % 16 = 0 then 0 else (r.q[Fin.ofNat 16 c]).toNat
/-- The arrival operand: a register, or the extension word with field C zero. -/
def StepWord.x (w : StepWord) (r : Run) : Nat := if w.ext = 0 then r.qAt w.c else w.ext
/-- Field checks of a step (R321, R324): step fault 0x01. -/
def StepWord.bad (w : StepWord) : Bool :=
  w.pred != 0 ||
    (match w.op with
      | 1 => !(isW w.a && isW w.b && isQ w.c) || (w.ext != 0 && w.c != 0)
      | 2 => !(isW w.a && isW w.b && isQ w.c) || (w.ext != 0 && w.c != 0)
      | 3 => !(isW w.a && isW w.b && isQ w.c) || (w.ext != 0 && w.c != 0)
      | 4 => !(isW w.a && isQ w.b && isQ w.c) || (w.ext != 0 && w.c != 0)
      | 8 => !(isW w.a && isQ w.b) || w.c != 0 || w.ext != 0
      | 0x0C => decide (4 < w.a) || w.b != 0 || w.c != 0 || w.ext != 0
      | _ => true)
/-- The command a step stands for. -/
def StepWord.kind (w : StepWord) (r : Run) : CmdKind :=
  match w.op with
  | 1 => .cpy
  | 2 => .cgath (r.wAt (w.b + 1))
  | 3 => .cscat (r.wAt (w.a + 1))
  | 4 => .cfill (r.qAt w.b)
  | 8 => .cdeal (r.qAt w.b) (r.qAt (w.b + 1))
  | _ => .cfence .core
/-- The step as a command with its checks (Table 11.6): for a deal the walk in field A is the source. -/
def StepWord.cmd (w : StepWord) (r : Run) : Cmd :=
  let kind := w.kind r
  let deal := w.op == 8
  let dst : BitVec 512 := if deal then 0 else r.wAt w.a
  let src : BitVec 512 := if deal then r.wAt w.a else if w.op = 4 then 0 else r.wAt w.b
  let x := w.x r
  let spad := walkKind dst == 1
  let badX := if spad then x % 16 != 0 || decide (0x10_0000 < x + 16) else x != 0
  let arrival := if spad && !deal && !badX then some (spadKey (walkCore dst) x) else none
  let fault := if deal then (if walkMalformed src 0 then some 0x01 else if walkKind src ≠ 2 then some 0x01 else none)
    else match dataCode kind dst src false true with
      | some c => some c
      | none => if badX then some 0x01 else none
  { id := r.next, kind, dst, src, arrival, started := true, off := 0,
    total := if deal then walkCount src * 2 ^ walkEsize src else dataTotal kind dst src, bytes := 0, after := [], fault, handler := false,
    ic := 0, ready := 0, tiles := [], owned := 0, finished := false, dealt := [] }
/-- Whether a core lies in a context's domain. -/
def PCtx.holds (c : PCtx) (core : Nat) : Bool :=
  coreZ core == c.z && decide (c.x0 ≤ coreX core) && decide (coreX core < c.x0 + c.width) && decide (c.y0 ≤ coreY core) && decide (coreY core < c.y0 + c.height)
/-- The walk of a step that is a violation: KIND 3, or KIND 1 outside the context's domain. A deal takes code 0x01 for a walk of either (R324). -/
def PCtx.stepViolation (c : PCtx) (k : Cmd) : Option Nat :=
  ((dataWalks k.kind k.dst k.src).find? fun w => !walkBad w && (walkKind w == 3 || (walkKind w == 1 && !c.holds (walkCore w)))).map walkBase
/-- A step has no arrival word outside its context's domain, whatever a malformed walk names. -/
def PCtx.confine (c : PCtx) (k : Cmd) : Cmd := if c.holds (walkCore k.dst) then k else { k with arrival := none }
/-- A step that has ended: faulted, or all of it written. -/
def Cmd.stepDone (k : Cmd) : Bool := k.owned == 0 && (k.fault.isSome || (k.off == k.total && k.tiles.isEmpty))
/-- Take finished steps away; the first fault ends the run, at once for the steps to come. -/
def Run.sweep (r : Run) : Run :=
  let bad := r.steps.find? fun k => k.fault.isSome
  { r with steps := r.steps.filter (fun k => !k.stepDone), ended := r.ended || bad.isSome,
           fault := match r.fault with | some f => some f | none => bad.map fun k => (k.fault.getD 0, k.id) }
/-- Steps that failed set ERR of their arrival words (R220). -/
def State.stepErrs (s : State) (p ctag : Nat) (ks : List Cmd) : State :=
  { s with mem := (ks.flatMap fun k => s.arrivalsOf (.step p ctag k.id) k).foldl Memory.setErr s.mem }
/-- Read the next step and start it, or end the run. -/
def State.nextStep (s : State) (p ctag : Nat) (c : PCtx) (r : Run) (ev : Ev) : State :=
  let endWith (s : State) (f : Option (Nat × Nat)) : State :=
    (s.updRun p ctag fun r => { r with ended := true, fault := match r.fault with | some g => some g | none => f }).postEv ev
  if r.next = 256 then endWith s (some (0x01, 255))
  else
    let rq := s.reqOf (.step p ctag r.next) ev
    let x : State × Reply Nat := andThen (asFault 0x06 (s.translate rq (c.progva + 8 * r.next) 2)) fun s a =>
      andThen (s.reach rq a.1 8) fun s _ =>
        let rd := s.mem.devRead a.2 a.1 8 true
        if rd.code ≠ 0 then (s, .fault rd.code) else ({ s with mem := s.mem.scrubRead a.2 a.1 8 }, .ok (natOf rd.bytes))
    match x.2 with
    | .wait => x.1
    | .retry => x.1.postEv ev
    | .fault code => endWith (x.1.forget ev) (some (code, r.next))
    | .viol a => (x.1.freezeCtx p ctag r.next a).holdCtx p ctag ev
    | .ok w =>
      let s1 := x.1.forget ev
      let sw := stepWordOf w
      if w % 2 ^ 32 = 0 then endWith s1 none
      else if sw.bad then endWith s1 (some (0x01, r.next))
      else if sw.op = 0x0C then
        if r.steps.isEmpty then (s1.updRun p ctag fun r => { r with next := r.next + 1 }).postEv ev else s1.postEv ev
      else
        let k := c.confine (sw.cmd r)
        match c.stepViolation k with
        | some a => (s1.freezeCtx p ctag r.next a).holdCtx p ctag ev
        | none =>
          let s2 := s1.updRun p ctag fun r => { r with next := r.next + 1, steps := r.steps ++ [k] }
          (if k.fault.isSome then s2 else s2.postEv (moverEv (.step p ctag k.id) k)).postEv ev
/-- The controller of a run. -/
def State.runProgram (s : State) (p ctag : Nat) (ev : Ev) : State :=
  match s.ctx p ctag with
  | none => s.unpostEv ev
  | some c =>
    match c.run with
    | none => s.unpostEv ev
    | some r0 =>
      let r := r0.sweep
      let s1 := (s.stepErrs p ctag (r0.steps.filter fun k => k.stepDone && k.fault.isSome)).updRun p ctag fun _ => r
      if c.frozen.isSome then s1
      else if r.ended then
        if r.steps.isEmpty then (s1.unpostEv ev).post .porterRunEnd (.porter p ctag) else s1
      else if 8 ≤ r.steps.length then s1
      else s1.nextStep p ctag c r ev
/-- The status word of a context takes a run's end (Table 11.7). -/
def statusAfter (old : Nat) (f : Option (Nat × Nat)) : Nat :=
  let done := (old + 1) % 2 ^ 64
  match f with
  | none => done + 2 ^ 64 * (old / 2 ^ 64)
  | some (code, step) => done + 2 ^ 64 * (code % 2 ^ 8) + 2 ^ 72 * (step % 2 ^ 8) + 2 ^ 80 + 2 ^ 81 * (old / 2 ^ 81)
/-- The end of a run: its status word is updated where it can be reached, as a write of the context (R322). -/
def State.runEnd (s : State) (p ctag : Nat) (c : PCtx) (r : Run) : State :=
  let ev : Ev := (.porterRunEnd, .porter p ctag)
  let q := s.reqOf (.step p ctag r.next) ev
  let x : State × Reply Nat := andThen (asFault 0x06 (s.translate q c.statva 1)) fun s a => andThen (s.reach q a.1 16) fun s _ => (s, .ok a.1)
  let done (s : State) : State := (((s.forget ev).unpostEv ev).updCtx p ctag fun c => { c with run := none }).post .porterRunStart (.porter p ctag)
  match x.2 with
  | .ok a =>
    -- a word with an uncorrectable error is left as it is (log 23)
    if (x.1.mem.bad2 a 16).isSome then done x.1
    else done (({ x.1 with mem := x.1.mem.writeDev a 16 (statusAfter (x.1.mem.read a 16) r.fault) } : State).noteWrite a 16)
  | .wait => x.1
  | .retry => x.1.postEv ev
  | .fault _ => done x.1
  | .viol a => (x.1.freezeCtx p ctag r.next a).holdCtx p ctag ev
def execPorterRunEnd : State → Out := fun s =>
  match s.cur with
  | .event (.porter p ctag) =>
    let gone := s.unpost .porterRunEnd (.porter p ctag)
    match s.ctx p ctag with
    | none => .next gone
    | some c =>
      match c.run with
      | none => .next gone
      | some r => if ¬ (r.ended ∧ r.steps.isEmpty) then .next gone else if c.frozen.isSome then .next gone else .next (s.runEnd p ctag c r)
  | _ => .fault .noAgent
/-- Whether a run of the tag has not ended. -/
def State.runsOf (s : State) (ctag : Nat) : Bool := s.porters.any fun p => (s.runOf p.1 ctag).isSome
/-- Steps are cancelled (R323): their arrival words show it, nothing more is asked for them, and a line that one of them owns is not written. It belongs to
no step any more. -/
def State.cancelSteps (s : State) (p ctag : Nat) (ks : List Cmd) : State :=
  let s1 := ks.foldl (fun (s : State) k =>
    let a : Asker := .step p ctag k.id
    (((s.forget (moverEv a k)).unpostEv (moverEv a k)).unpost .hoopPush (.asker a))) (s.stepErrs p ctag ks)
  let mine (o : Owned) : Bool := ks.any fun k => o.owner == .cmd (.step p ctag k.id)
  { s1 with owned := s1.owned.map fun o => if mine o then { o with owner := .cmd (.step p ctag 256), puts := [], cv := none } else o }
/-- One run of a context is ended by pre-emption. A run that has come to its end already, its status word alone being still to be written, and a step that
is all written, are left as they are. -/
def State.endRun (s : State) (p ctag : Nat) (r0 : Run) : State :=
  let r := r0.sweep
  let s1 := (s.stepErrs p ctag (r0.steps.filter fun k => k.stepDone && k.fault.isSome)).updRun p ctag fun _ => r
  if r.ended && r.steps.isEmpty then s1.post .porterRunEnd (.porter p ctag)
  else
    let first := match r.steps with | k :: _ => k.id | [] => r.next
    ((s1.cancelSteps p ctag r.steps).updRun p ctag fun r => { r with steps := [], ended := true, fault := some (0x0C, first) }).post .porterRunEnd (.porter p ctag)
/-- R323: every run of a context tag is ended; its steps in progress are cancelled with code 0x0C. -/
def State.endRuns (s : State) (ctag : Nat) : State :=
  s.porters.foldl (fun (s : State) p => match s.runOf p.1 ctag with | none => s | some r => s.endRun p.1 ctag r) s

/-- What PORTER_REQUEST does for a command of an engine or a step. -/
def State.stepRequest (s : State) (a : Asker) (ev : Ev) : State :=
  match s.cmdOf a with
  | none => s.unpostEv ev
  | some k =>
    if k.isData then s.stepData a ev
    else if k.fault.isSome ∨ k.finished then (s.unpostEv ev).postEv (closerEv a k)
    else if s.heldUp a then s
    else if !k.started then s.startCopy a k
    else
      let r := s.reqOf a ev
      let x : State × Reply Cmd := match k.kind with
        | .catom x _ rc va b sv => s.stepCatom r k x rc va b sv
        | .kvapp ref desc => s.stepKvapp a r k ref desc
        | .kvrel ref => s.stepKv r k ref
        | .kvpin ref => s.stepKv r k ref
        | .kvunpin ref => s.stepKv r k ref
        | .cprom va len urg => s.stepHint a r k va len urg 0 true
        | .cdemo va len urg fmt => s.stepHint a r k va len urg fmt false
        | _ => (s, .retry)
      match x.2 with
      | .ok k2 =>
        let s2 := (x.1.putCmd a k2).forget ev
        if k2.fault.isSome ∨ k2.finished then (s2.unpostEv ev).postEv (closerEv a k2) else s2.postEv ev
      | .wait => x.1.putCmd a k
      | .retry => (x.1.putCmd a k).postEv ev
      | .fault c => (((x.1.putCmd a { k with fault := some c }).forget ev).unpostEv ev).postEv (closerEv a k)
      | .viol addr => violCmd a k ev x.1 addr

end Sys2Proof.Machine
end

