-- ==== Sys2Proof/Machine/TinkerBase.lean ====
section
/-! DEFINITION. Tinker threads: registers, issue, parking, and the tinker cache (R229 to R232, R236, R240, R241, R249). -/
namespace Sys2Proof.Machine

/-! ### Registers (R230 to R232) -/

def Core.tfile (c : Core) (e : Nat) : Word := sget 0 c.trf e
/-- A register entry as a thread reads it in clock cycle `k`: what has landed, and what lands in `k`. Another thread's result landing in `k` is
seen or not, as a free value says (R231, log 10); of several landings the last issued wins (R232). -/
def Core.tread (c : Core) (t : Fin 64) (e k salt : Nat) : Word :=
  let vis := c.tflights.filter fun f => f.entry == e && decide (f.due ≤ k) && (f.thread == t.val || decide (f.due < k) || Config.crossRead salt)
  match vis.getLast? with
  | some f => f.value
  | none => c.tfile e

/-- What a tinker operation sees. -/
structure TView where
  st : State
  id : Nat
  c : Core
  t : Fin 64
  th : Thread

/-- The file entry of a register operand. -/
def TView.entry (v : TView) (x : TOp) : Nat := v.th.base + x.toNat
/-- The free choice for a register operand in position `pos` of the operation that a thread of a core issues in a clock cycle: one read, at its
issue (R231). -/
def readSalt (clock core t pos : Nat) : Nat := 4 * (64 * (2048 * clock + core) + t) + pos
/-- A register operand in position `pos`. -/
def TView.r (v : TView) (pos : Nat) (x : TOp) : Word := v.c.tread v.t (v.entry x) v.st.clock (readSalt v.st.clock v.id v.t.val pos)

/-! ### Plans -/

/-- What a tinker operation does at its issue. -/
structure TPlan where
  /-- the fault that parks the thread: code, ILLOP reason, address -/
  park : Option (Nat × Nat × Nat) := none
  /-- a forbidden permission: the core is frozen -/
  viol : Option Nat := none
  /-- results: register, clock cycles, value -/
  lands : List (TOp × Nat × Word) := []
  /-- registers an operation of no fixed time will write -/
  dests : List TOp := []
  /-- clock cycles after which it is complete, none when that is not fixed -/
  done : Option Nat := some 1
  kind : Option TWaitKind := none
  /-- lookahead when it is marked L -/
  la : Option Nat := none
  /-- bytes accessed: device memory or scratchpad, address, length -/
  mem : Option (Bool × Nat × Nat) := none
  /-- scratchpad writes of this cycle -/
  writes : List PutByte := []
  scrub : List (Nat × Nat) := []
  /-- where the thread goes on, if not at the next word -/
  target : Option Nat := none
  upd : Core → Core := fun c => c
  updS : State → State := fun s => s

/-- Park a thread (R249): it holds its program counter at the faulting word. A second fault of a parked thread, of another operation that had issued, replaces code
and program counter, and is reported once more (DESIGN CHOICE, log 43). -/
def Core.park (c : Core) (t : Fin 64) (pc code reason addr : Nat) : Core :=
  let h := c.threads[t]
  if h.status = .dead then c
  else { c with threads := c.threads.set t { h with status := .parked code reason (addr % 2 ^ 48) false, pc, fetched := none } }
/-- The length of the operation fetched. -/
def Thread.opBytes (h : Thread) : Nat := match h.fetched with | some (w, _) => if tinkerHasExt w then 8 else 4 | none => 4
/-- The place of the tinker operation that runs in the order of issue (R232). -/
def State.issueOrder (s : State) : Nat := 8 * s.clock + (match s.cur with | .tinker _ _ z => z.val | _ => 0)
/-- The thread's operation has issued: what it leaves incomplete, its results in flight, and the fetch of its next word. -/
def State.tinkIssue (s : State) (id : Nat) (t : Fin 64) (p : TPlan) : State :=
  let c := s.core id
  let h := c.threads[t]
  let me : TPending := { seq := h.seq, l := p.la.isSome, la := p.la.getD 0, dests := (p.lands.map (fun l => l.1.toNat)) ++ p.dests.map (·.toNat),
                         mem := p.mem, due := p.done.map (s.clock + ·), kind := p.kind, pc := h.pc, base := h.base, orphan := false, order := s.issueOrder }
  let h1 := { h with seq := h.seq + 1, pend := h.pend ++ [me], pc := (p.target.getD (h.pc + h.opBytes)) % 2 ^ 48, fetched := none }
  let c1 := { c with threads := c.threads.set t h1
                     tflights := c.tflights ++ p.lands.map (fun l => ⟨h.base + l.1.toNat, l.2.2, s.clock + l.2.1, t.val, s.issueOrder⟩)
                     twrites := if p.writes.isEmpty then c.twrites else c.twrites ++ [.put p.writes] }
  let s1 := ({ s with mem := p.scrub.foldl (fun (m : Memory) r => m.scrub r.1 r.2) s.mem } : State).setCore id (p.upd c1)
  let s2 := s1.post .tinkerInstructionFetch (.thread id t.val)
  let s3 := if p.kind.isSome then s2.post .porterRequest (.asker (.thread id t.val h.seq)) else s2
  p.updS s3
/-- The kind of access an operation makes first (R314). -/
def TPlan.access (p : TPlan) : Nat := match p.kind with | some (.store _ _ _) => 1 | some (.atomic _ _ _ _ _) => 3 | _ => 0
/-- Code 0x4 is the translation fault of reason 4, which the core's station records (R314, R316). -/
def State.logBeyond (s : State) (id kind va : Nat) : State :=
  let (sp, tn) := match s.launchOf id with | some l => (l.space, l.tenant) | none => (0, 0)
  s.logFault (nodeOf id) { space := sp, tenant := tn, va := va, kind := kind } 4 3 (id % 2 ^ 11)
/-- A tinker operation: at the barrel's choice it issues, parks its thread, or is a violation of its core. -/
def tinkOp (body : TView → TPlan) (s : State) : Out :=
  match s.cur with
  | .tinker id tn _ =>
    let t : Fin 64 := Fin.ofNat 64 tn
    let c := s.core id
    let v : TView := ⟨s, id, c, t, c.threads[t]⟩
    let p := body v
    match p.park, p.viol with
    | some (code, reason, addr), _ => .next ((if code = 0x4 then s.logBeyond id p.access addr else s).updCore id fun c => c.park t v.th.pc code reason addr)
    | none, some a => .next (s.freezeCore id (tinkerViolation 3 tn a))
    | none, none => .next (s.tinkIssue id t p)
  | _ => .fault .noAgent

/-! ### Scratchpad checks (R240) -/

/-- Codes 0x2 and 0x3 of `n` bytes at `a`. -/
def TView.spadPark (v : TView) (a n align : Nat) : Option (Nat × Nat × Nat) :=
  if v.c.badRange a n then some (0x2, 0, a) else if a % align ≠ 0 then some (0x3, 0, a) else none
/-- Codes 0x6 and 0x7 of a read. -/
def TView.readPark (v : TView) (a n : Nat) : Option (Nat × Nat × Nat) :=
  let e := v.st.mem.spadFault v.id a n
  if e.1 = 0x0E then some (0x6, 0, a) else if e.1 = 0x0F then some (0x7, 0, a) else none
def orPark (a b : Option (Nat × Nat × Nat)) : Option (Nat × Nat × Nat) := match a with | some x => some x | none => b

/-! ### The tinker cache (R241) -/

def Core.line (c : Core) (va : Nat) : Option CacheLine := c.cache.find? fun l => l.line == va / 64 * 64
def Core.setLine (c : Core) (l : CacheLine) : Core := { c with cache := c.cache.map fun x => if x.line = l.line then l else x }
def Core.dropLine (c : Core) (line : Nat) : Core := { c with cache := c.cache.filter fun x => x.line != line }
/-- `n` bytes of a cached line. -/
def CacheLine.read (l : CacheLine) (va n : Nat) : Nat := l.data / 2 ^ (8 * (va % 64)) % 2 ^ (8 * n)
/-- Bytes written into a cached line become dirty. -/
def CacheLine.write (l : CacheLine) (va n x : Nat) : CacheLine :=
  { l with data := mergeBits l.data ((2 ^ (8 * n) - 1) * 2 ^ (8 * (va % 64))) (x % 2 ^ (8 * n) * 2 ^ (8 * (va % 64)))
           dirty := l.dirty ||| ((2 ^ n - 1) * 2 ^ (va % 64)) }
/-- The dirty bytes as writes at a physical line address. -/
def CacheLine.puts (l : CacheLine) (pa : Nat) : List PutByte :=
  ((List.range 64).filter fun i => bits l.dirty i i == 1).map fun i => (pa + i, BitVec.ofNat 8 (l.data / 2 ^ (8 * i)), 0xFF)
/-- The set of a line: 64 sets of 8. -/
def cacheSet (line : Nat) : Nat := line / 64 % 64
def Core.dirtyLines (c : Core) : List Nat := (c.cache.filter fun l => l.dirty != 0).map (·.line)
/-- Start the write-back of lines. -/
def State.postWritebacks (s : State) (id : Nat) (lines : List Nat) : State :=
  lines.foldl (fun s l => s.post .tinkerWriteback (.line id l)) s
/-- Code 0x4 and alignment of a global access. -/
def globalPark (va n : Nat) : Option (Nat × Nat × Nat) :=
  if 2 ^ 48 ≤ va then some (0x4, 0, va) else if va % n ≠ 0 then some (0x3, 0, va) else none

/-! ### Completing operations of no fixed time -/

def Core.thread (c : Core) (t : Nat) : Thread := c.threads[Fin.ofNat 64 t]
def Core.updThread (c : Core) (t : Nat) (f : Thread → Thread) : Core := { c with threads := c.threads.set (Fin.ofNat 64 t) (f (c.thread t)) }
def Thread.op (h : Thread) (seq : Nat) : Option TPending := h.pend.find? fun p => p.seq == seq
def Thread.setOp (h : Thread) (p : TPending) : Thread := { h with pend := h.pend.map fun x => if x.seq = p.seq then p else x }
/-- Every earlier operation of the thread has completed. -/
def Thread.earlierDone (h : Thread) (p : TPending) : Bool := !(h.pend.any fun q => decide (q.seq < p.seq) && q.orphan == p.orphan)
/-- An earlier operation of the thread that has not completed accesses some of `n` bytes of device memory (R236). -/
def Thread.touches (h : Thread) (p : TPending) (va n : Nat) : Bool :=
  h.pend.any fun q => decide (q.seq < p.seq) && q.orphan == p.orphan &&
    (match q.mem with | some (true, a, m) => decide (a < va + n) && decide (va < a + m) | _ => false)
/-- Put a result in flight at its place in the order of issue (R232). -/
def insertResult (l : List TFlight) (f : TFlight) : List TFlight := l.filter (fun g => decide (g.order ≤ f.order)) ++ f :: l.filter fun g => decide (f.order < g.order)
/-- An operation completes: it is complete from the clock cycle due on, and its results land then. -/
def State.tinkDone (s : State) (id t : Nat) (p : TPending) (lands : List (TOp × Word)) : State :=
  (s.updCore id fun c =>
    { c.updThread t (fun h => { h with pend := h.pend.filter fun q => q.seq != p.seq }) with
      tflights := (lands.map fun l => (⟨p.base + l.1.toNat, l.2, s.clock, t, p.order⟩ : TFlight)).foldl insertResult c.tflights }).unpost .porterRequest (.asker (.thread id t p.seq))
/-- An operation faults when it would complete: the thread parks at its word. -/
def State.tinkFault (s : State) (id t : Nat) (p : TPending) (code addr : Nat) : State :=
  (s.updCore id fun c =>
    let c1 := c.updThread t fun h => { h with pend := h.pend.filter fun q => q.seq != p.seq }
    if p.orphan then c1 else c1.park (Fin.ofNat 64 t) p.pc code 0 addr).unpost .porterRequest (.asker (.thread id t p.seq))
/-- Change the kind of an operation in progress. -/
def State.tinkKind (s : State) (id t : Nat) (p : TPending) (k : TWaitKind) : State :=
  s.updCore id fun c => c.updThread t fun h => h.setOp { p with kind := some k }
/-- How a failed access of a thread is reported: the copy-fault codes 8 and 9 are codes 0x6 and 0x7, translation is 0x5. -/
def tinkCode (c : Nat) : Nat := if c = 8 then 0x6 else if c = 9 then 0x7 else 0x5

end Sys2Proof.Machine
end

