-- ==== Sys2Proof/Machine/TinkInfo.lean ====
section
/-! DEFINITION. What the barrel reads from a tinker operation's words before it chooses it (R99, R100, R236, R238): registers, vacancy, lookahead,
memory bytes, bank ports and injection. -/
namespace Sys2Proof.Machine

/-- What the barrel must know of a thread's next operation. -/
structure TinkInfo where
  /-- the vacancy classes that accept it: S, V, C -/
  onS : Bool
  onV : Bool
  onC : Bool
  /-- marked L, and its lookahead -/
  l : Bool
  la : Nat
  srcs : List Nat
  dsts : List Nat
  /-- device memory or scratchpad, address, length -/
  mem : Option (Bool × Nat × Nat)
  ports : List (Bool × Nat)
  inject : Bool
  deriving DecidableEq, Repr

/-- Fields of the operation word. -/
def tOp (w : Nat) : Nat := bits w 31 25
def tFA (w : Nat) : Nat := bits w 20 14
def tFB (w : Nat) : Nat := bits w 13 7
def tFC (w : Nat) : Nat := bits w 6 0
/-- The extension bit X of an operation not marked L. -/
def tX (w : Nat) : Bool := bits w 21 21 == 1
def between (lo n hi : Nat) : Bool := decide (lo ≤ n) && decide (n ≤ hi)
/-- Points of integer operations. -/
def tIsAlu (op : Nat) : Bool := between 0x01 op 0x29 || between 0x6A op 0x70
def tIsImmLd (op : Nat) : Bool := between 0x71 op 0x7E
/-- RET of an atomic's XA word. -/
def tRet (e : Nat) : Bool := bits e 6 6 == 1
def tIsCas (e : Nat) : Bool := bits e 3 0 == 11
/-- Marked L (Table 3.12). -/
def tIsL (op e : Nat) : Bool :=
  between 0x04 op 0x0A || op == 0x30 || between 0x40 op 0x4E || op == 0x60 || op == 0x66 || between 0x6A op 0x7E || ((op == 0x68 || op == 0x69) && tRet e)
/-- Registers read. -/
def tSrcs (w e : Nat) : List Nat :=
  let op := tOp w
  let a := tFA w
  let b := tFB w
  let c := tFC w
  if op = 0x1A ∨ op = 0x3A ∨ op = 0x62 then []
  else if op = 0x19 then [b, c, bits e 6 0]
  else if op = 0x1D then [a, b]
  else if op = 0x03 ∨ op = 0x13 ∨ op = 0x14 ∨ op = 0x1C ∨ between 0x6A op 0x70 ∨ tIsImmLd op then [b]
  else if between 0x04 op 0x0A ∨ op = 0x30 then [b, c]
  else if tIsAlu op then (if tX w then [b] else [b, c])
  else if op = 0x38 then (if b = 2 ∨ b = 3 then [] else [a])
  else if between 0x40 op 0x4E then [b, c]
  else if between 0x50 op 0x57 then (if tX w then [a, b] else [a, b, c])
  else if op = 0x58 ∨ op = 0x64 then [a, b]
  else if op = 0x65 then [a]
  else if op = 0x66 then [b]
  else if op = 0x68 ∨ op = 0x69 then (if tIsCas e then [a, b, c] else [b, c])
  else [a]
/-- Registers written. -/
def tDsts (w e : Nat) : List Nat :=
  let op := tOp w
  let a := tFA w
  let b := tFB w
  if op = 0x30 then [a, b, tFC w]
  else if tIsAlu op ∨ op = 0x3A ∨ between 0x40 op 0x4E ∨ op = 0x60 ∨ op = 0x66 ∨ tIsImmLd op then [a]
  else if op = 0x38 then (if b = 3 then [a] else [])
  else if op = 0x65 then [b]
  else if op = 0x68 ∨ op = 0x69 then (if tRet e then [a] else [])
  else []
/-- Bytes of a load's point within its family (i8 i16 i32 i64 w8 w16 w32). -/
def tLoadBytes (k : Nat) : Nat := match k with | 0 => 1 | 1 => 2 | 2 => 4 | 3 => 8 | 4 => 1 | 5 => 2 | _ => 4
/-- Bytes accessed, given the registers' values by operand position. -/
def tMem (w e : Nat) (r : Nat → Nat → Word) : Option (Bool × Nat × Nat) :=
  let op := tOp w
  let a := r 0 (tFA w)
  let b := r 1 (tFB w)
  let c := r 2 (tFC w)
  let imm : Word := (BitVec.ofNat 32 e).signExtend 64
  let atb := 2 ^ bits e 5 4
  if between 0x40 op 0x46 then some (true, (b + c).toNat, tLoadBytes (op - 0x40))
  else if between 0x48 op 0x4E then some (false, (b + c).toNat, tLoadBytes (op - 0x48))
  else if between 0x71 op 0x77 then some (true, (b + imm).toNat, tLoadBytes (op - 0x71))
  else if between 0x78 op 0x7E then some (false, (b + imm).toNat, tLoadBytes (op - 0x78))
  else if between 0x50 op 0x53 then some (true, (b + if tX w then imm else c).toNat, 2 ^ (op - 0x50))
  else if between 0x54 op 0x57 then some (false, (b + if tX w then imm else c).toNat, 2 ^ (op - 0x54))
  else if op = 0x58 then some (false, nibbleAddr b (BitVec.ofNat 32 e).toInt / 2, 1)
  else if op = 0x60 ∨ op = 0x61 then some (false, a.toNat, 8)
  else if op = 0x39 then (if a = 0 then none else some (false, a.toNat, 8))
  else if op = 0x64 ∨ op = 0x65 then some (true, a.toNat, 64)
  else if op = 0x67 then some (false, a.toNat, 64)
  else if op = 0x68 then some (true, b.toNat, atb)
  else if op = 0x69 then some (false, b.toNat, atb)
  else none
/-- Bank ports used in the issue cycle. -/
def tPorts (w : Nat) (mem : Option (Bool × Nat × Nat)) : List (Bool × Nat) :=
  let op := tOp w
  match mem with
  | some (false, ea, _) =>
    let bank := ea / 64 % 16
    if between 0x48 op 0x4E ∨ between 0x78 op 0x7E ∨ op = 0x60 ∨ op = 0x67 then [(false, bank)]
    else if between 0x54 op 0x58 then [(true, bank)]
    else if op = 0x69 then [(false, bank), (true, bank)]
    else []
  | _ => []
/-- What the barrel knows of an operation. -/
def tinkInfo (w e : Nat) (r : Nat → Nat → Word) (hit : Nat → Bool) : TinkInfo :=
  let op := tOp w
  let mem := tMem w e r
  let miss := match mem with | some (true, va, _) => (between 0x40 op 0x46 || between 0x50 op 0x53 || between 0x71 op 0x77) && !hit va | _ => false
  { onS := tIsAlu op || between 0x38 op 0x3B, onV := tIsAlu op || op == 0x30, onC := between 0x40 op 0x69 || between 0x71 op 0x7E, l := tIsL op e,
    la := bits w 24 21, srcs := tSrcs w e, dsts := tDsts w e, mem, ports := tPorts w mem,
    inject := between 0x64 op 0x68 || miss }
/-- A window that does not hold every register an operation names (R230). -/
def outsideWindow (w e size : Nat) : Bool := (tSrcs w e ++ tDsts w e).any fun n => decide (size ≤ n)

end Sys2Proof.Machine
end

