-- ==== Sys2Proof/Machine/Requests.lean ====
section
/-! DEFINITION. What happens to a core's threads, queues and endpoints at times that are not architected: tinker operations of no fixed time
(R241 to R244, R247, R253 to R256), tinker fetches (R235), release-queue adds (R133), forwarded and transposed tiles (R208, R214), and channel
arrivals (R293, R297, R298). -/
namespace Sys2Proof.Machine

/-! ### The tinker cache -/

/-- Write a line's dirty bytes back (R241); a translation fault drops them. -/
def State.writeback (s : State) (core line : Nat) (ev : Ev) : State :=
  match (s.core core).line line with
  | none => s.unpostEv ev
  | some l =>
    if l.dirty = 0 then (s.unpostEv ev).forget ev
    else
      let r := s.coreReq core ev
      let clean (s : State) : State := ((s.updCore core fun c => c.setLine { l with dirty := 0 }).forget ev).unpostEv ev
      let x : State × Reply Nat := andThen (s.translate r line 1) fun s p => andThen (s.reach r p.1 64) fun s _ => (s, .ok p.1)
      match x.2 with
      | .ok pa => clean (({ x.1 with mem := x.1.mem.putDev (l.puts pa) } : State).noteWrite pa 64)
      | .wait => x.1
      | .retry => x.1.postEv ev
      | .fault _ => clean x.1
      | .viol a => (clean x.1).freezeCore core (tinkerViolation 3 0 a)
def execTinkerWriteback (s : State) : Out :=
  match s.cur with
  | .event (.line core line) => .next (s.writeback core line (.tinkerWriteback, .line core line))
  | _ => .fault .noAgent

/-- The operations that wait for a line: thread and operation. -/
def Core.waitingFor (c : Core) (line : Nat) : List (Nat × TPending) :=
  (List.finRange 64).flatMap fun t => ((c.threads[t]).pend.filter fun p => match p.kind with
    | some (.load _ _ va) => va / 64 * 64 == line
    | some (.store _ va _) => va / 64 * 64 == line
    | _ => false).map fun p => (t.val, p)
/-- Complete a load or a store by the line that has come. -/
def State.lineCame (s : State) (core : Nat) (l : CacheLine) (x : Nat × TPending) : State :=
  match x.2.kind with
  | some (.load t a va) => if l.cv ≠ 0 then s.tinkFault core x.1 x.2 0x7 va else s.tinkDone core x.1 x.2 [(a, extendLd t (l.read va (ldBytes t)))]
  | some (.store n va v) =>
    (s.updCore core fun c => match c.line va with | some k => c.setLine (k.write va n v) | none => c).tinkDone core x.1 x.2 []
  | _ => s
def opAddr (p : TPending) : Nat := match p.mem with | some (_, a, _) => a | none => p.pc
/-- An operation of a kind of access: a load is a read, a store a write. -/
def waitsAs (kind : Nat) (x : Nat × TPending) : Bool := (match x.2.kind with | some (.store _ _ _) => 1 | _ => 0) == kind
/-- The access for which a line is asked: a read, but a write where only stores wait. -/
def Core.fillKind (c : Core) (line : Nat) : Nat :=
  let w := c.waitingFor line
  if !w.isEmpty && !w.any (waitsAs 0) then 1 else 0
/-- The address for which a line is asked: that of the first operation of the kind that waits. -/
def Core.fillAddr (c : Core) (line : Nat) : Nat :=
  match (c.waitingFor line).filter (waitsAs (c.fillKind line)) with
  | x :: _ => opAddr x.2
  | [] => line
/-- The line is there: the operations that wait and that its page permits complete; for any other its own access is asked for. -/
def State.serveLine (s : State) (core : Nat) (l : CacheLine) (ev : Ev) : State :=
  let s1 := (((s.core core).waitingFor l.line).filter fun x => if waitsAs 1 x then l.wr else l.rd).foldl (fun s x => s.lineCame core l x) ((s.unpostEv ev).forget ev)
  if ((s1.core core).waitingFor l.line).isEmpty then s1 else s1.postEv ev
/-- Install a line, in place of another when its set is full; a dirty one is written back first. -/
def State.installLine (s : State) (core : Nat) (l : CacheLine) (ev : Ev) : State :=
  let c := s.core core
  let set := c.cache.filter fun x => cacheSet x.line == cacheSet l.line
  let finish (s : State) : State := (s.updCore core fun c => { c with cache := c.cache ++ [l] }).serveLine core l ev
  if set.length < 8 then finish s
  else match set[Config.victim s.tick % 8]? with
    | none => s.postEv ev
    | some v =>
      if v.dirty ≠ 0 then (s.postWritebacks core [v.line]).postEv ev
      else finish (s.updCore core fun c => c.dropLine v.line)
/-- The access for a line failed: the operations that asked for it fault, and the others ask again. -/
def State.lineFailed (s : State) (core line kind code : Nat) (ev : Ev) : State :=
  let s1 := (((s.core core).waitingFor line).filter (waitsAs kind)).foldl (fun s (x : Nat × TPending) => s.tinkFault core x.1 x.2 (tinkCode code) (opAddr x.2)) ((s.forget ev).unpostEv ev)
  if ((s1.core core).waitingFor line).isEmpty then s1 else s1.postEv ev
/-- Fill a line from its home porter (R241). A line that is there, and that an operation waits for, is translated afresh for that operation. -/
def State.fillLine (s : State) (core line : Nat) (ev : Ev) : State :=
  let c := s.core core
  if (c.line line).isSome && (c.waitingFor line).isEmpty then s.unpostEv ev
  else
    let r := s.coreReq core ev
    let kind := c.fillKind line
    let va := c.fillAddr line
    let x : State × Reply CacheLine := andThen (s.translate r va kind) fun s p =>
      let pa := p.1 - va % 64
      let rd := p.2.permits r.tenant 0
      let wr := p.2.permits r.tenant 1 && !isFormat p.2.state
      match c.line line with
      | some l => (s, .ok { l with rd, wr })
      | none =>
        andThen (s.reach r pa 64) fun s _ =>
          let got := s.mem.devRead p.2 pa 64 false
          if got.code ≠ 0 then (s, .fault got.code)
          else ({ s with mem := s.mem.scrubRead p.2 pa 64 }, .ok ⟨line, natOf got.bytes, 0, if isFormat p.2.state then 0 else s.mem.cvOf pa, rd, wr⟩)
    match x.2 with
    | .ok l => if (c.line line).isSome then (x.1.updCore core fun c => c.setLine l).serveLine core l ev else x.1.installLine core l ev
    | .wait => x.1
    | .retry => x.1.postEv ev
    | .fault code => x.1.lineFailed core line kind code ev
    | .viol a =>
      let t := match ((x.1.core core).waitingFor line).filter (waitsAs kind) with | y :: _ => y.1 | [] => 0
      ((x.1.forget ev).unpostEv ev).freezeCore core (tinkerViolation 3 t a)
def execTinkerCacheFill (s : State) : Out :=
  match s.cur with
  | .event (.line core line) => .next (s.fillLine core line (.tinkerCacheFill, .line core line))
  | _ => .fault .noAgent

/-! ### TINKER_INSTRUCTION_FETCH (R235) -/

/-- A line comes into the instruction cache of 256 lines, in place of another when it is full; it stays until it is replaced (log 35). -/
def Core.keepCode (c : Core) (line data tick : Nat) : Core :=
  { c with icache := (if c.icache.length < 256 then c.icache else c.icache.eraseIdx (Config.victim tick % 256)) ++ [(line, data)] }
/-- A word of tinker code, through the instruction cache; a line that is not there is read from memory. -/
def State.codeFetch (s : State) (core : Nat) (r : Req) (pc : Nat) : State × Reply (BitVec 32) :=
  let line := pc / 64 * 64
  let word (data : Nat) : BitVec 32 := BitVec.ofNat 32 (data / 2 ^ (8 * (pc % 64)))
  match (s.core core).icache.find? fun l => l.1 == line with
  | some l => (s, .ok (word l.2))
  | none =>
    andThen (s.translate r pc 2) fun s p =>
      let pa := p.1 - pc % 64
      andThen (s.reach r pa 64) fun s _ =>
        let rd := s.mem.devRead p.2 pa 64 true
        if rd.code ≠ 0 then (s, .fault rd.code)
        else (({ s with mem := s.mem.scrubRead p.2 pa 64 } : State).updCore core fun c => c.keepCode line (natOf rd.bytes) s.tick, .ok (word (natOf rd.bytes)))
/-- The park a fetched operation meets at decode: its ILLOP reason, a window violation last. -/
def decodePark (w e : BitVec 32) (size : Nat) : Option Nat :=
  match decodeTinker w e with
  | .error x => some x.1
  | .ok _ => if outsideWindow w.toNat e.toNat size then some 8 else none
/-- A thread whose TEXIT has issued has no next operation (R235, R247). -/
def Thread.leaving (h : Thread) : Bool := h.pend.any fun p => !p.orphan && (match p.kind with | some (.release exit _ _ _) => exit | _ => false)
def State.fetchWord (s : State) (core t : Nat) (ev : Ev) : State :=
  let h := (s.core core).thread t
  if h.status ≠ .ready ∨ h.fetched.isSome ∨ h.leaving then s.unpostEv ev
  else
    let r := s.coreReq core ev
    let x : State × Reply (BitVec 32 × BitVec 32) := andThen (s.codeFetch core r h.pc) fun s w =>
      if tinkerHasExt w then andThen (s.codeFetch core r ((h.pc + 4) % 2 ^ 48)) fun s e => (s, .ok (w, e)) else (s, .ok (w, 0))
    let parked (s : State) (code reason : Nat) : State := ((s.updCore core fun c => c.park (Fin.ofNat 64 t) h.pc code reason h.pc).forget ev).unpostEv ev
    match x.2 with
    | .ok (w, e) =>
      match decodePark w e h.size with
      | some reason => parked x.1 0x1 reason
      | none => ((x.1.updCore core fun c => c.updThread t fun h => { h with fetched := some (w, e) }).forget ev).unpostEv ev
    | .wait => x.1
    | .retry => x.1.postEv ev
    | .fault _ => parked x.1 0xA 0
    | .viol a => ((x.1.forget ev).unpostEv ev).freezeCore core (tinkerViolation 3 t a)
def execTinkerInstructionFetch (s : State) : Out :=
  match s.cur with
  | .event (.thread core t) => .next (s.fetchWord core t (.tinkerInstructionFetch, .thread core t))
  | _ => .fault .noAgent

/-! ### Queues of frames (R254, R255) -/

def State.cq (s : State) (n : Nat) : List QEntry := sget [] s.clusterQ n
def State.sq (s : State) (z : Nat) : List QEntry := sget [] s.stratumQ z
def State.setCq (s : State) (n : Nat) (l : List QEntry) : State := { s with clusterQ := sput [] s.clusterQ n l }
def State.setSq (s : State) (z : Nat) (l : List QEntry) : State := { s with stratumQ := sput [] s.stratumQ z l }
/-- Push a frame at the bottom of a core's deque, moving 8 top entries of a full level up; none when every level is full. A stratum whose queue was
never set aside has none (R325). -/
def State.pushFrame (s : State) (core : Nat) (e : QEntry) : Option State :=
  let put (s : State) : State := s.updCore core fun c => { c with deque := c.deque ++ [e] }
  let n := nodeOf core
  let z := coreZ core
  let d := (s.core core).deque
  if d.length < 32 then some (put s)
  else
    let spill (s : State) : State := put ((s.setCq n (s.cq n ++ d.take 8)).updCore core fun c => { c with deque := d.drop 8 })
    if (s.cq n).length ≤ 248 then some (spill s)
    else if s.aside.contains z && decide ((s.sq z).length ≤ 4088) then some (spill ((s.setSq z (s.sq z ++ (s.cq n).take 8)).setCq n ((s.cq n).drop 8)))
    else none
/-- Take the newest, or the oldest, entry of a space and tenant. -/
def takeEntry (bottom : Bool) (sp tn : Nat) (l : List QEntry) : Option (Nat × List QEntry) :=
  let l' := if bottom then l.reverse else l
  match l'.find? fun e => e.space == sp && e.tenant == tn with
  | some e => let r := l'.erase e; some (e.frame, if bottom then r.reverse else r)
  | none => none
/-- Move the bottom entries of a level down, up to 8, keeping their order. -/
def bottom8 (l : List QEntry) : List QEntry × List QEntry := (l.take (l.length - 8), l.drop (l.length - 8))
/-- Searches in turn, each from the state the one before left. -/
def State.firstFound (s : State) : List (State → State × Option Nat) → State × Option Nat
  | [] => (s, none)
  | f :: fs => match f s with
    | (s1, some x) => (s1, some x)
    | (s1, none) => s1.firstFound fs
/-- Take from a core's deque. A take from the bottom of an empty one first moves entries down, found or not (R254). -/
def State.takeDeque (core : Nat) (bottom : Bool) (sp tn : Nat) (s : State) : State × Option Nat :=
  let s1 := if bottom && (s.core core).deque.isEmpty then
      let (rest, low) := bottom8 (s.cq (nodeOf core))
      (s.setCq (nodeOf core) rest).updCore core fun c => { c with deque := low }
    else s
  match takeEntry bottom sp tn (s1.core core).deque with
  | some p => (s1.updCore core fun c => { c with deque := p.2 }, some p.1)
  | none => (s1, none)
def State.takeCluster (n : Nat) (bottom : Bool) (sp tn : Nat) (s : State) : State × Option Nat :=
  let s1 := if bottom && (s.cq n).isEmpty then
      let (rest, low) := bottom8 (s.sq (n / 16))
      (s.setSq (n / 16) rest).setCq n low
    else s
  match takeEntry bottom sp tn (s1.cq n) with
  | some p => (s1.setCq n p.2, some p.1)
  | none => (s1, none)
def State.takeStratum (z : Nat) (bottom : Bool) (sp tn : Nat) (s : State) : State × Option Nat :=
  match takeEntry bottom sp tn (s.sq z) with
  | some p => (s.setSq z p.2, some p.1)
  | none => (s, none)
/-- The search of STEAL (R255), up to a level. -/
def State.stealFrom (s : State) (l : Launch) (core level : Nat) : State × Option Nat :=
  let sp := l.space
  let tn := l.tenant
  let z := coreZ core
  let n := nodeOf core
  let me := 4 * (coreY core % 4) + coreX core % 4
  let others := ((List.range 15).map fun i => (me + 1 + i) % 16).filterMap fun j =>
    let c := coreId z (coreX core / 4 * 4 + j % 4) (coreY core / 4 * 4 + j / 4)
    if l.cores.contains c then some c else none
  let clusters := (List.range 15).map fun i => 16 * z + (n + 1 + i) % 16
  let strata := ([7, 6, 5, 4, 3, 2, 1, 0] : List Nat).filter fun k => k != z && !s.memoryOnly k
  s.firstFound (
    [State.takeDeque core true sp tn] ++
    (if 1 ≤ level then State.takeCluster n true sp tn :: others.map (fun c => State.takeDeque c false sp tn) else []) ++
    (if 2 ≤ level then State.takeStratum z true sp tn :: clusters.map (fun q => State.takeCluster q false sp tn) else []) ++
    (if 3 ≤ level then strata.map (fun k => State.takeStratum k false sp tn) else []))

/-! ### Tinker operations of no fixed time -/

/-- Results a step of an operation ends with, or the kind it goes on with. -/
inductive TStep where
  | done (lands : List (TOp × Word))
  | next (k : TWaitKind)
  | park (code addr : Nat)
  deriving DecidableEq, Repr
/-- Take 1 from a counter of device memory, indivisibly; none where it is 0. -/
def State.devDec (s : State) (r : Req) (va n : Nat) : State × Reply (Option Nat) :=
  andThen (asFault 0x06 (s.translate r va 3)) fun s p =>
    andThen (s.reach r p.1 n) fun s _ =>
      let e := s.mem.devError p.1 n true
      let o := s.mem.read p.1 n
      if e.1 ≠ 0 then (s, .fault e.1)
      else if o = 0 then (s, .ok none)
      else (({ s with mem := (s.mem.scrub p.1 n).writeDev p.1 n (o - 1) } : State).noteWrite p.1 n, .ok (some (o - 1)))
/-- Bytes of device memory. -/
def State.devGet (s : State) (r : Req) (va n : Nat) : State × Reply Nat :=
  andThen (asFault 0x06 (s.translate r va 0)) fun s p =>
    andThen (s.reach r p.1 n) fun s _ =>
      let rd := s.mem.devRead p.2 p.1 n true
      if rd.code ≠ 0 then (s, .fault rd.code) else ({ s with mem := s.mem.scrubRead p.2 p.1 n }, .ok (natOf rd.bytes))
def State.devPut (s : State) (r : Req) (va n x : Nat) : State × Reply Unit :=
  andThen (asFault 0x06 (s.translate r va 1)) fun s p =>
    andThen (s.reach r p.1 n) fun s _ => (({ s with mem := s.mem.writeDev p.1 n x } : State).noteWrite p.1 n, .ok ())
def addOne (w : StW) : AtX := ⟨.add, w, false⟩
/-- Write a line back before going on. -/
def State.afterLine {α : Type} (s : State) (core va : Nat) (f : State → State × Reply α) : State × Reply α :=
  if (s.core core).dirtyLines.contains (va / 64 * 64) then (s.postWritebacks core [va / 64 * 64], .retry) else f s
/-- Access a word at its home: the core's own line of it is written back, and does not stay in the tinker cache (R244, R387). -/
def State.atHome {α : Type} (s : State) (core va : Nat) (f : State → State × Reply α) : State × Reply α :=
  s.afterLine core va fun s => f (s.updCore core fun c => c.dropLine (va / 64 * 64))
/-- SPAWN (R253): the job's address, PC, JOINCNT, OUT, the push; and when every queue is full, the counts taken back (R254). A fault at OUT or JOINCNT
takes back what came before it (R249): phases 7 and 8, with the fault's code, and 256 more at OUT. -/
def State.stepSpawn (s : State) (core : Nat) (r : Req) (frame pc phase job old code : Nat) : State × Reply TStep :=
  let go (s : State) (k j o : Nat) : State × Reply TStep := (s, .ok (.next (.spawn frame pc k j o code)))
  let back (k c : Nat) : Reply TStep := .ok (.next (.spawn frame pc k job old c))
  match phase with
  | 0 => s.atHome core frame fun s => andThen (s.devGet r (frame + 16) 8) fun s x => if x % 2 ^ 48 % 64 ≠ 0 then (s, .ok (.park 0x9 (x % 2 ^ 48))) else go s 1 (x % 2 ^ 48) 0
  | 1 => s.atHome core frame fun s => andThen (s.devGet r frame 6) fun s o => andThen (s.devPut r frame 6 pc) fun s _ => go s 2 job o
  | 2 => s.atHome core frame fun s =>
    let x := andThen (s.devAtomic r (addOne .b32) (frame + 8) 1 0) fun s _ => go s 3 job old
    match x.2 with
    | .fault c => (x.1, back 8 c)
    | _ => x
  | 3 => s.atHome core job fun s =>
    let x := andThen (s.devAtomic r (addOne .b64) job 1 0) fun s _ => go s 4 job old
    match x.2 with
    | .fault c => (x.1, back 7 (c + 256))
    | _ => x
  | 4 =>
    match s.pushFrame core ⟨frame, r.space, r.tenant⟩ with
    | some s1 => (s1, .ok (.done []))
    | none => go s 5 job old
  | 5 => s.atHome core frame fun s => andThen (s.devDec r (frame + 8) 4) fun s _ => go s 6 job old
  | 6 => s.atHome core job fun s => andThen (s.devDec r job 8) fun s _ => (s, .ok (.park 0x8 frame))
  | 7 => s.atHome core frame fun s =>
    let x := andThen (s.devDec r (frame + 8) 4) fun s _ => go s 8 job old
    match x.2 with
    | .fault _ => go x.1 8 job old
    | _ => x
  | _ => s.atHome core frame fun s =>
    let out : Reply TStep := if 256 ≤ code then .ok (.park (tinkCode (code - 256)) job) else .fault code
    let x : State × Reply TStep := andThen (s.devPut r frame 6 old) fun s _ => (s, out)
    match x.2 with
    | .fault _ => (x.1, out)
    | _ => x
/-- JOIN (R256): the job's address, JOINCNT, then OUT. A fault at OUT, or an OUT that is 0 (code 0), takes the first back (R249): phase 3. -/
def State.stepJoin (s : State) (core : Nat) (r : Req) (frame : Nat) (b : TOp) (phase job cnt code : Nat) : State × Reply TStep :=
  let go (s : State) (k j n c : Nat) : State × Reply TStep := (s, .ok (.next (.join frame b k j n c)))
  match phase with
  | 0 => s.atHome core frame fun s => andThen (s.devGet r (frame + 16) 8) fun s x =>
      if x % 2 ^ 48 % 64 ≠ 0 then (s, .ok (.park 0x9 (x % 2 ^ 48))) else go s 1 (x % 2 ^ 48) 0 0
  | 1 => s.atHome core frame fun s => andThen (s.devDec r (frame + 8) 4) fun s x =>
      match x with
      | some n => go s 2 job n 0
      | none => (s, .ok (.park 0x9 frame))
  | 2 => s.atHome core job fun s =>
    let x : State × Reply TStep := andThen (s.devDec r job 8) fun s x =>
      match x with
      | some n => (s, .ok (.done [(b, BitVec.ofNat 64 (cnt + if n = 0 then 2 ^ 63 else 0))]))
      | none => go s 3 job cnt 0
    match x.2 with
    | .fault c => go x.1 3 job cnt c
    | _ => x
  | _ => s.atHome core frame fun s =>
    let out : Reply TStep := .ok (.park (if code = 0 then 0x9 else tinkCode code) job)
    let x : State × Reply TStep := andThen (s.devAtomic r (addOne .b32) (frame + 8) 1 0) fun s _ => (s, out)
    match x.2 with
    | .fault _ => (x.1, out)
    | _ => x
/-- STEAL (R255): a found frame's line is invalidated before the result lands. -/
def State.stepSteal (s : State) (core : Nat) (a : TOp) (level : Nat) : State × Reply TStep :=
  match s.launchOf core with
  | none => (s, .ok (.done [(a, 0)]))
  | some l =>
    match s.stealFrom l core (min level l.stealDom) with
    | (s1, some f) => (s1.updCore core fun c => c.dropLine (f / 64 * 64), .ok (.done [(a, BitVec.ofNat 64 f)]))
    | (s1, none) => (s1, .ok (.done [(a, 0)]))
/-- TCACHE (Table 8.4). -/
def State.stepCache (s : State) (core : Nat) (op : CacheOp) (line : Nat) : State × Reply TStep :=
  let c := s.core core
  let dirty := c.dirtyLines
  let mine := dirty.contains line
  let drop (s : State) : State := s.updCore core fun c => c.dropLine line
  match op with
  | 0 => if dirty.isEmpty then (s, .ok (.done [])) else (s.postWritebacks core dirty, .retry)
  | 1 => (s.updCore core fun c => { c with cache := c.cache.filter fun l => l.dirty != 0 }, .ok (.done []))
  | 2 => if dirty.isEmpty then (s.updCore core fun c => { c with cache := [] }, .ok (.done [])) else (s.postWritebacks core dirty, .retry)
  | 3 => if mine then (s.postWritebacks core [line], .retry) else (s, .ok (.done []))
  | 4 => (drop s, .ok (.done []))
  | 5 => if mine then (s.postWritebacks core [line], .retry) else (drop s, .ok (.done []))
/-- Wait until earlier operations are complete and the tinker cache holds no dirty byte. -/
def State.afterWriteback (s : State) (core t : Nat) (p : TPending) (f : State → State × Reply TStep) : State × Reply TStep :=
  let c := s.core core
  if !((c.thread t).earlierDone p) then (s, .retry)
  else if c.dirtyLines.isEmpty then f s
  else (s.postWritebacks core c.dirtyLines, .retry)
/-- The next step of an operation. A flag add goes to the release queue and comes back by FLAGREL_ADD; a load or store by its line. -/
def State.threadKind (s : State) (core t : Nat) (p : TPending) (k : TWaitKind) (ev : Ev) : State × Reply TStep :=
  let r := s.coreReq core ev
  match k with
  | .release _ none _ _ => if (((s.core core).thread t).earlierDone p) then (s, .ok (.done [])) else (s, .retry)
  | .release _ (some _) _ true => (s, .wait)
  | .release exit (some a) sc false =>
    s.afterWriteback core t p fun s =>
      (((s.updCore core fun c => { c with releases := c.releases ++ [⟨a, sc, 0, [], some t⟩] }).tinkKind core t p (.release exit (some a) sc true)).unpostEv ev, .wait)
  | .fence => if (((s.core core).thread t).earlierDone p) then (s, .ok (.done [])) else (s, .retry)
  | .cache op line => s.stepCache core op line
  | .load _ _ _ => (s.unpostEv ev, .wait)
  | .store _ _ _ => (s.unpostEv ev, .wait)
  | .atomic x a va b sv =>
    s.atHome core va fun s => andThen (s.devAtomic r x va b sv) fun s o => (s, .ok (.done (if x.ret then [(a, BitVec.ofNat 64 o)] else [])))
  | .spawn frame pc phase job old code =>
    if phase = 3 ∧ ((s.core core).thread t).touches p job 8 then (s, .retry)
    else s.afterLine core frame fun s => s.stepSpawn core r frame pc phase job old code
  | .join frame b phase job cnt code =>
    if phase = 0 then s.afterWriteback core t p fun s => s.stepJoin core r frame b 0 job cnt code else s.stepJoin core r frame b phase job cnt code
  | .steal a level => s.stepSteal core a level
/-- A thread whose TEXIT completes is dead (R247); one that is parked stays so until TKILL (R250). -/
def State.exitThread (s : State) (core t : Nat) (p : TPending) : State :=
  match p.kind with
  | some (.release true _ _ _) => s.updCore core fun c => c.updThread t fun h =>
    { h with status := (match h.status with | .parked c r a b => .parked c r a b | _ => .dead), fetched := none }
  | _ => s
/-- What a TLDFAULT reports as its address: the operation's word for a full fork-join queue (Table 8.6). -/
def parkAddr (p : TPending) (code addr : Nat) : Nat := if code = 0x8 then p.pc else addr
/-- PORTER_REQUEST for an operation of a thread. -/
def State.threadStep (s : State) (core t seq : Nat) (ev : Ev) : State :=
  match ((s.core core).thread t).op seq with
  | none => s.unpostEv ev
  | some p =>
    match p.kind with
    | none => s.unpostEv ev
    | some k =>
      let x := s.threadKind core t p k ev
      match x.2 with
      | .ok (.done lands) => ((x.1.forget ev).tinkDone core t p lands).exitThread core t p
      | .ok (.next k1) => ((x.1.forget ev).tinkKind core t p k1).postEv ev
      | .ok (.park code addr) => (x.1.forget ev).tinkFault core t p code (parkAddr p code addr)
      | .wait => x.1
      | .retry => x.1.postEv ev
      | .fault code => (x.1.forget ev).tinkFault core t p (tinkCode code) (opAddr p)
      | .viol a => ((x.1.forget ev).unpostEv ev).freezeCore core (tinkerViolation 3 t a)
/-- A porter's request: a copy command, a step, a thread's operation, or the controller of a program (R311). -/
def execPorterRequest (s : State) : Out :=
  match s.cur with
  | .event (.asker (.thread core t seq)) => .next (s.threadStep core t seq (.porterRequest, .asker (.thread core t seq)))
  | .event (.asker a) => .next (s.stepRequest a (.porterRequest, .asker a))
  | .event (.porter p ctag) => if p < 512 then .next (s.runProgram p ctag (.porterRequest, .porter p ctag)) else .fault .noSuchUnit
  | _ => .fault .noAgent

/-! ### FLAGREL_ADD (R133, R243) -/

def satInc (x : Word) (n : Nat) : Word := if x.toNat + n < 2 ^ 64 then x + BitVec.ofNat 64 n else BitVec.allOnes 64
/-- The conditions of a release: earlier stores visible, earlier commands complete. In a stall the bundle due must not see it before its time (R133). -/
def Core.releaseReady (c : Core) (r : Release) : Bool := (decide (r.notBefore < c.ic) || (c.issuing && r.notBefore == c.ic) || r.notBefore == 0) && r.cmds.all fun i => !c.outstandingCmds.contains i
/-- The TREL or TEXIT of a thread that a release is for. -/
def Core.releaser (c : Core) (t : Nat) (r : Release) : Option TPending :=
  (c.thread t).pend.find? fun p => match p.kind with | some (.release _ (some a) _ true) => a == r.addr | _ => false
/-- A thread's TREL or TEXIT completes with its add. -/
def State.releaseDone (s : State) (core : Nat) (r : Release) : State :=
  match r.thread.bind fun t => ((s.core core).releaser t r).map fun p => (t, p) with
  | some x => (s.tinkDone core x.1 x.2 []).exitThread core x.1 x.2
  | none => s
/-- A thread's TREL or TEXIT parks it where its flag word cannot be read. -/
def State.releaseFault (s : State) (core : Nat) (r : Release) : State :=
  match r.thread.bind fun t => ((s.core core).releaser t r).map fun p => (t, p) with
  | some x => s.tinkFault core x.1 x.2 0x6 r.addr
  | none => s
/-- One entry of the release queue: performed, denied, or left. The primary's takes its ports ahead of every agent but the primary (R133, R69). An uncorrectable word is left as it is, and parks the thread of a TREL or TEXIT with
code 0x6 (R71, log 23). -/
def State.tryRelease (s : State) (core : Nat) (r : Release) : State :=
  let c := s.core core
  let bank := r.addr / 64 % 16
  if !c.releaseReady r then s
  else if (if r.thread.isSome then c.portsUsed ++ c.agentPorts else c.portsUsed).any fun p => p.2 == bank then
    if r.thread.isSome then s.updCore core fun c => { c with sp := { c.sp with resDenyBank := satInc c.sp.resDenyBank 1 } } else s
  else
    let key := spadKey core r.addr
    let bad := (s.mem.bad2 key 8).isSome
    let mem := if bad then s.mem else (s.mem.scrub key 8).write key 8 (s.mem.read key 8 + 1)
    let s1 := ({ s with mem } : State).updCore core fun c => { c with releases := c.releases.erase r, portsUsed := c.portsUsed ++ [(false, bank), (true, bank)] }
    if bad then s1.releaseFault core r else s1.releaseDone core r
/-- The release queue in one clock cycle: the primary's entries, then the tinkers'. -/
def State.releaseQueue (s : State) (core : Nat) : State :=
  let rs := (s.core core).releases
  ((rs.filter fun r => r.thread.isNone) ++ (rs.filter fun r => r.thread.isSome)).foldl (fun s r => s.tryRelease core r) s
def execFlagrelAdd (s : State) : Out :=
  match s.cur with
  | .event (.core core) => .next (s.releaseQueue core)
  | _ => .fault .noAgent

/-! ### Tiles (R208, R214) -/

/-- The forwarded tile that can be dealt with now: its path is over, and no earlier one of its sender and hoop waits. -/
def State.forwardDue (s : State) (core : Nat) : Option Forward :=
  let c := s.core core
  c.forwards.find? fun f =>
    decide (f.at_ ≤ s.clock) && ((c.forwards.find? fun g => g.source == f.source && g.hoop == f.hoop) == some f) &&
      (f.stale.isSome || !((c.h[f.hoop]).fits f.tile.length) || (c.h[f.hoop]).room)
/-- Push a forwarded tile; one whose ring was replaced since is written at its place there (R221). -/
def State.takeForward (s : State) (core : Nat) (f : Forward) : State :=
  let s1 := s.updCore core fun c => { c with forwards := c.forwards.erase f }
  match f.stale with
  | some a => ({ s1 with mem := s1.mem.putTile (spadKey core a) f.tile [] } : State).usePorts core (spadKey core a) f.tile.length true
  | none =>
    if ((s.core core).h[f.hoop]).fits f.tile.length then s1.pushTile core f.hoop f.tile [] f.shadows
    else
      let side := if coreY f.source = coreY core then 0 else 128
      s1.updCore core fun c => { c with causes := c.causes ++ [⟨0x08, 8 + 16 * f.hoop.val + side, false⟩] }
def execTileForwardArrival (s : State) : Out :=
  match s.cur with
  | .event (.core core) =>
    if (s.core core).forwards.isEmpty then .next (s.unpost .tileForwardArrival (.core core))
    else match s.forwardDue core with
      | some f => .next (s.takeForward core f)
      | none => .next s
  | _ => .fault .noAgent
def execTransposePush (s : State) : Out :=
  match s.cur with
  | .event (.core core) =>
    match (s.core core).trans with
    | none => .next (s.unpost .transposePush (.core core))
    | some (h, tile, sh) =>
      if ((s.core core).h[h]).room then
        .next (((s.pushTile core h tile [] sh).updCore core fun c => { c with trans := none }).unpost .transposePush (.core core))
      else .next s
  | _ => .fault .noAgent

/-- A write of SRSEED takes effect (R30). -/
def execSrseedWrite (s : State) : Out :=
  match s.cur with
  | .event (.seed core v) => .next (s.updCore core fun c => c.setSpecial .srseed (v.zeroExtend 64))
  | _ => .fault .noAgent

/-! ### Channel arrivals (R293, R297, R298, R274) -/

/-- The return tag of a message. -/
def messageTag (m : Nat) : Nat := m / 2 ^ 480 % 2 ^ 32
/-- Drop the oldest element that satisfies a test. -/
def dropFirst {α : Type} (p : α → Bool) : List α → List α
  | [] => []
  | x :: xs => if p x then xs else x :: dropFirst p xs
/-- A peer names a core (bits [10:0]) and, above, its launch: the core whose endpoints are on the device, unless its context is saved (R274). -/
def State.here (s : State) (name : Nat) : Bool :=
  match s.launchOf (name % 2 ^ 11) with
  | some l => l.id == name / 2 ^ 11 && !(s.isSaved l.id (name % 2 ^ 11))
  | none => false
/-- The launch is pre-empted: its channels are off the device until CLOAD brings them back (R276). -/
def State.away (s : State) (name : Nat) : Bool := (s.launches.any fun l => l.id == name / 2 ^ 11) && !(s.here name)
/-- Send the oldest `n` refused messages of an endpoint again: their allowances are spent (R297). -/
def State.resendSome (s : State) (core : Nat) (ch : Chan) (n : Nat) : State :=
  let e := (s.core core).ep ch
  let ms := e.resend.take n
  let s1 := s.updCore core fun c => c.updEp ch fun e =>
    { e with sendAllow := e.sendAllow - n, resend := e.resend.drop n, again := e.again - n, retained := if e.tagged then e.retained ++ ms else e.retained }
  ms.foldl (fun s m => s.toPeer core e 0 .channelMessageArrival fun pc pe => .msg pc pe m) s1
/-- Allowances that come let refused messages go, oldest first, before any new one (R297): off the timed plane at once, on it as its message path is
free. Those refused later wait for the next allowances. -/
def State.resendNow (s : State) (core : Nat) (ch : Chan) : State :=
  let e := (s.core core).ep ch
  let n := min e.sendAllow e.resend.length
  if n = 0 ∨ e.path = 2 ∨ e.peer.isNone then s
  else if e.path = 0 then s.updCore core fun c => c.updEp ch fun e => { e with again := n }
  else s.resendSome core ch n
/-- One line of a resend queue leaves on the timed plane in a clock cycle in which the primary leaves the message path free (R283). -/
def State.resendCore (s : State) (core : Nat) : State :=
  let c := s.core core
  if c.injected then s
  else match (List.finRange 16).find? fun k => decide (0 < (c.endpoints[k]).again) && decide (0 < (c.endpoints[k]).sendAllow) && !(c.endpoints[k]).resend.isEmpty && (c.endpoints[k]).peer.isSome with
    | some k => (s.resendSome core k 1).updCore core fun c => { c with injected := true }
    | none => s
/-- A refused message goes back to its sender, on the device or saved. -/
def refusedTo (name ep m : Nat) (c : Core) : Core :=
  { c with endpoints := c.endpoints.map fun (e : Endpoint) =>
      if e.peer = some (name, ep) ∧ e.mode = 1 ∧ e.path ≠ 2 then { e with resend := e.resend ++ [m], retained := dropFirst (· == m) e.retained } else e }
def State.refuse (s : State) (name ep m : Nat) : State :=
  ({ s with cores := s.cores.map fun (p : Nat × Core) => (p.1, refusedTo name ep m p.2) } : State).mapSaved fun h => { h with core := refusedTo name ep m h.core }
/-- A message refused by a saved endpoint lowers GRANTOUT there (R293), and is counted for its CLOAD. -/
def lowerSaved (name ep : Nat) (h : Hidden) : Hidden :=
  if h.launch = name / 2 ^ 11 ∧ h.id = name % 2 ^ 11 then
    { h with core := h.core.updEp (Fin.ofNat 16 ep) fun e => { e with grantOut := e.grantOut - 1, refused := e.refused + 1 } }
  else h
/-- A message reaches its endpoint: it is accepted, or refused by a sealed endpoint or one whose context is saved. -/
def State.arriveMsg (s : State) (name ep m : Nat) : State :=
  let ch : Chan := Fin.ofNat 16 ep
  let core := name % 2 ^ 11
  let e := (s.core core).ep ch
  if s.here name && e.mode == 2 && e.peer.isSome then
    let s1 := s.updCore core fun c => c.updEp ch fun e => { e with grantOut := e.grantOut - 1 }
    if e.sealed then s1.refuse name ep m else s1.updCore core fun c => c.updEp ch fun e => { e with msgs := e.msgs ++ [m] }
  else (s.mapSaved (lowerSaved name ep)).refuse name ep m
/-- The core that an endpoint's peer names, with its launch. -/
def State.sourceOf (s : State) (name ep : Nat) : Option Nat := (((s.core (name % 2 ^ 11)).ep (Fin.ofNat 16 ep)).peer).map (·.1)
/-- Whether a message is the next of those on their way from its source to its destination: they arrive in the order in which they were sent (R293, R306). -/
def State.firstMsg (s : State) (core ep m : Nat) : Bool :=
  match s.pending.find? fun x => x.1 == .channelMessageArrival && (match x.2 with
      | .msg c e _ => c == core && (e == ep || ((s.sourceOf core ep).isSome && s.sourceOf c e == s.sourceOf core ep))
      | _ => false) with
  | some x => x.2 == .msg core ep m
  | none => true
def execChannelMessageArrival (s : State) : Out :=
  match s.cur with
  | .event (.msg core ep m) =>
    if 16 ≤ ep then .fault .noSuchUnit
    else if s.firstMsg core ep m then .next ((s.dropOne .channelMessageArrival (.msg core ep m)).arriveMsg core ep m)
    else .next s
  | _ => .fault .noAgent
def execAllowanceArrival (s : State) : Out :=
  match s.cur with
  | .event (.allow name ep n) =>
    if 16 ≤ ep then .fault .noSuchUnit
    else if s.away name then .next s
    else
      let ch : Chan := Fin.ofNat 16 ep
      let s1 := s.dropOne .allowanceArrival (.allow name ep n)
      .next (if s.here name then (s1.updCore (name % 2 ^ 11) fun c => c.updEp ch fun e => { e with sendAllow := e.sendAllow + n }).resendNow (name % 2 ^ 11) ch else s1)
  | _ => .fault .noAgent
def execAckArrival (s : State) : Out :=
  match s.cur with
  | .event (.ack name ep tag) =>
    if 16 ≤ ep then .fault .noSuchUnit
    else if s.away name then .next s
    else
      let s1 := s.dropOne .ackArrival (.ack name ep tag)
      .next (if s.here name then s1.updCore (name % 2 ^ 11) fun c =>
        c.updEp (Fin.ofNat 16 ep) fun e => { e with retained := dropFirst (fun m => messageTag m == tag) e.retained } else s1)
  | _ => .fault .noAgent

end Sys2Proof.Machine
end

