-- ==== Sys2Proof/Machine/Tinker.lean ====
section
/-! DEFINITION. The tinker operations (R237, R240 to R248, R253 to R256). -/
namespace Sys2Proof.Machine

/-! ### Integer operations (R237) -/

/-- Two registers into one. -/
def tBin (lat : Nat) (la : Option Nat) (f : Word → Word → Word) (a b c : TOp) : State → Out :=
  tinkOp fun v => { lands := [(a, lat, f (v.r 1 b) (v.r 2 c))], done := some lat, la }
/-- A register and an immediate, sign-extended, or zero-extended where `zx` says so. -/
def tBinImm (zx : Bool) (lat : Nat) (la : Option Nat) (f : Word → Word → Word) (a b : TOp) (imm : BitVec 32) : State → Out :=
  tinkOp fun v => { lands := [(a, lat, f (v.r 1 b) (if zx then imm.zeroExtend 64 else imm.signExtend 64))], done := some lat, la }
/-- One register into one. -/
def tUn (f : Word → Word) (a b : TOp) : State → Out := tinkOp fun v => { lands := [(a, 1, f (v.r 1 b))] }

def execTAdd (a b c : TOp) : State → Out := tBin 1 none (fun p q => p + q) a b c
def execTSub (a b c : TOp) : State → Out := tBin 1 none (fun p q => p - q) a b c
def execTSubImm (a b : TOp) (imm : BitVec 32) : State → Out := tBinImm false 1 none (fun p q => p - q) a b imm
def execTMul (la : BitVec 4) (a b c : TOp) : State → Out := tBin 3 (some la.toNat) (fun p q => p * q) a b c
def execTMulImm (la : BitVec 4) (a b : TOp) (imm : BitVec 32) : State → Out := tBinImm false 3 (some la.toNat) (fun p q => p * q) a b imm
def execTMulh (la : BitVec 4) (a b c : TOp) : State → Out := tBin 3 (some la.toNat) mulhS a b c
def execTMulhImm (la : BitVec 4) (a b : TOp) (imm : BitVec 32) : State → Out := tBinImm false 3 (some la.toNat) mulhS a b imm
def execTMulhW (la : BitVec 4) (a b c : TOp) : State → Out := tBin 3 (some la.toNat) mulhU a b c
def execTMulhWImm (la : BitVec 4) (a b : TOp) (imm : BitVec 32) : State → Out := tBinImm true 3 (some la.toNat) mulhU a b imm
def execTDiv (la : BitVec 4) (a b c : TOp) : State → Out := tBin 18 (some la.toNat) divS a b c
def execTDivImm (la : BitVec 4) (a b : TOp) (imm : BitVec 32) : State → Out := tBinImm false 18 (some la.toNat) divS a b imm
def execTDivW (la : BitVec 4) (a b c : TOp) : State → Out := tBin 18 (some la.toNat) divU a b c
def execTDivWImm (la : BitVec 4) (a b : TOp) (imm : BitVec 32) : State → Out := tBinImm true 18 (some la.toNat) divU a b imm
def execTRem (la : BitVec 4) (a b c : TOp) : State → Out := tBin 18 (some la.toNat) remS a b c
def execTRemImm (la : BitVec 4) (a b : TOp) (imm : BitVec 32) : State → Out := tBinImm false 18 (some la.toNat) remS a b imm
def execTRemW (la : BitVec 4) (a b c : TOp) : State → Out := tBin 18 (some la.toNat) remU a b c
def execTRemWImm (la : BitVec 4) (a b : TOp) (imm : BitVec 32) : State → Out := tBinImm true 18 (some la.toNat) remU a b imm
def execTAnd (a b c : TOp) : State → Out := tBin 1 none (fun p q => p &&& q) a b c
def execTAndImm (a b : TOp) (imm : BitVec 32) : State → Out := tBinImm false 1 none (fun p q => p &&& q) a b imm
def execTOr (a b c : TOp) : State → Out := tBin 1 none (fun p q => p ||| q) a b c
def execTOrImm (a b : TOp) (imm : BitVec 32) : State → Out := tBinImm false 1 none (fun p q => p ||| q) a b imm
def execTXor (a b c : TOp) : State → Out := tBin 1 none (fun p q => p ^^^ q) a b c
def execTXorImm (a b : TOp) (imm : BitVec 32) : State → Out := tBinImm false 1 none (fun p q => p ^^^ q) a b imm
def execTAndn (a b c : TOp) : State → Out := tBin 1 none (fun p q => p &&& ~~~q) a b c
def execTAndnImm (a b : TOp) (imm : BitVec 32) : State → Out := tBinImm false 1 none (fun p q => p &&& ~~~q) a b imm
def execTShl (a b c : TOp) : State → Out := tBin 1 none (fun p q => p <<< cnt q) a b c
def execTShlImm (a b : TOp) (imm : BitVec 32) : State → Out := tBinImm false 1 none (fun p q => p <<< cnt q) a b imm
def execTShr (a b c : TOp) : State → Out := tBin 1 none (fun p q => p >>> cnt q) a b c
def execTShrImm (a b : TOp) (imm : BitVec 32) : State → Out := tBinImm false 1 none (fun p q => p >>> cnt q) a b imm
def execTSar (a b c : TOp) : State → Out := tBin 1 none (fun p q => p.sshiftRight (cnt q)) a b c
def execTSarImm (a b : TOp) (imm : BitVec 32) : State → Out := tBinImm false 1 none (fun p q => p.sshiftRight (cnt q)) a b imm
def execTRot (a b c : TOp) : State → Out := tBin 1 none rotS a b c
def execTRotImm (a b : TOp) (imm : BitVec 32) : State → Out := tBinImm false 1 none rotS a b imm
def execTMin (a b c : TOp) : State → Out := tBin 1 none (fun p q => if q.slt p then q else p) a b c
def execTMinImm (a b : TOp) (imm : BitVec 32) : State → Out := tBinImm false 1 none (fun p q => if q.slt p then q else p) a b imm
def execTMinW (a b c : TOp) : State → Out := tBin 1 none (fun p q => if q < p then q else p) a b c
def execTMinWImm (a b : TOp) (imm : BitVec 32) : State → Out := tBinImm true 1 none (fun p q => if q < p then q else p) a b imm
def execTMax (a b c : TOp) : State → Out := tBin 1 none (fun p q => if p.slt q then q else p) a b c
def execTMaxImm (a b : TOp) (imm : BitVec 32) : State → Out := tBinImm false 1 none (fun p q => if p.slt q then q else p) a b imm
def execTMaxW (a b c : TOp) : State → Out := tBin 1 none (fun p q => if p < q then q else p) a b c
def execTMaxWImm (a b : TOp) (imm : BitVec 32) : State → Out := tBinImm true 1 none (fun p q => if p < q then q else p) a b imm
def execTAddi (a b : TOp) (imm : BitVec 32) : State → Out := tUn (fun p => p + imm.signExtend 64) a b
def execTClz (a b : TOp) : State → Out := tUn clz64 a b
def execTPopc (a b : TOp) : State → Out := tUn (fun p => BitVec.ofNat 64 (popN p.toNat 64)) a b
def execTSel (a b c d : TOp) : State → Out := tinkOp fun v => { lands := [(a, 1, if v.r 3 d ≠ 0 then v.r 1 b else v.r 2 c)] }
def execTLi (a : TOp) (imm : BitVec 32) : State → Out := tinkOp fun _ => { lands := [(a, 1, imm.signExtend 64)] }
def execTBfx (a b : TOp) (f : BitField) : State → Out := tUn (bfxS f) a b
def execTBfi (a b : TOp) (f : BitField) : State → Out := tinkOp fun v => { lands := [(a, 1, bfiS f (v.r 0 a) (v.r 1 b))] }
/-- CMP writes 0 or 1. -/
def boolWord (b : Bool) : Word := if b then 1 else 0
def execTCmp (cc : ICond) (a b c : TOp) : State → Out := tBin 1 none (fun p q => boolWord (cond64 cc p q)) a b c
def execTCmpImm (cc : ICond) (a b : TOp) (imm : BitVec 32) : State → Out :=
  tBinImm (condIsW cc) 1 none (fun p q => boolWord (cond64 cc p q)) a b imm
/-- R248. -/
def execTcmpx (la : BitVec 4) (a b c : TOp) : State → Out :=
  tinkOp fun v =>
    let x := v.r 1 b
    let y := v.r 2 c
    let swap := y.slt x && b != c
    { lands := [(a, 2, boolWord swap)] ++ (if swap then [(b, 2, y), (c, 2, x)] else [(b, 2, x)] ++ (if b = c then [] else [(c, 2, y)])),
      done := some 2, la := some la.toNat }

/-! ### Control and signalling (R246, R247) -/

/-- Table 8.5. -/
def execTbr (x : TbrX) : State → Out :=
  tinkOp fun v =>
    let rel (off : BitVec 32) : Nat := wrapNat 48 ((v.th.pc : Int) + off.toInt)
    match x with
    | .nz a off => { target := if v.r 0 a ≠ 0 then some (rel off) else none }
    | .z a off => { target := if v.r 0 a = 0 then some (rel off) else none }
    | .al off => { target := some (rel off) }
    | .link a off => { target := some (rel off), lands := [(a, 1, BitVec.ofNat 64 ((v.th.pc + 8) % 2 ^ 48))] }
    | .ind a off =>
      let t := wrapNat 48 (((v.r 0 a).toNat : Int) + off.toInt)
      { target := some t, park := if t % 4 = 0 then none else some (0x3, 0, t) }
/-- TREL, and TEXIT with a flag word: the address is checked at issue. -/
def TView.releasePlan (v : TView) (exit : Bool) (flag : Option Nat) (sc : Scope) : TPlan :=
  { park := match flag with | some a => v.spadPark a 8 8 | none => none, done := none, kind := some (.release exit flag sc false),
    mem := flag.map fun a => (false, a, 8) }
def execTexit (a : TOp) : State → Out :=
  tinkOp fun v => v.releasePlan true (if v.r 0 a = 0 then none else some (v.r 0 a).toNat) .core
/-- The new count is written, and the operation is complete at the next cycle. The barrel chooses it only when the count is not zero. -/
def execTwait (a : TOp) : State → Out :=
  tinkOp fun v =>
    { lands := [(a, 1, BitVec.ofNat 64 (v.th.count - 1))], upd := fun c => c.updThread v.t.val fun h => { h with count := h.count - 1 } }
/-- A signal: the count saturates at 255; a thread that is not alive is not signalled. -/
def Core.signal (c : Core) (t : Fin 64) : Core :=
  let h := c.threads[t]
  if h.status = .dead then c else { c with threads := c.threads.set t { h with count := min 255 (h.count + 1) } }
def execTsig (a : TOp) : State → Out :=
  tinkOp fun v => { upd := fun c => { c with signals := c.signals ++ [Fin.ofNat 64 (v.r 0 a).toNat] } }

/-! ### Scratchpad (R240) -/

/-- A load: read in its issue cycle, landing six cycles later. -/
def TView.spLoad (v : TView) (la : BitVec 4) (t : LdTy) (a : TOp) (ea : Nat) : TPlan :=
  let n := ldBytes t
  { park := orPark (v.spadPark ea n n) (v.readPark ea n), lands := [(a, 6, extendLd t (v.st.mem.read (spadKey v.id ea) n))], done := some 6,
    la := some la.toNat, mem := some (false, ea, n), scrub := [(spadKey v.id ea, n)] }
def execTldSp (la : BitVec 4) (t : LdTy) (a b c : TOp) : State → Out :=
  tinkOp fun v => v.spLoad la t a (eaOf (v.r 1 b) (v.r 2 c))
def execTldSpImm (la : BitVec 4) (t : LdTy) (a b : TOp) (imm : BitVec 32) : State → Out :=
  tinkOp fun v => v.spLoad la t a (eaOf (v.r 1 b) (imm.signExtend 64))
/-- A store: written in its issue cycle. -/
def TView.spStore (v : TView) (n : StW) (a : TOp) (ea : Nat) : TPlan :=
  let k := stwBytes n
  { park := v.spadPark ea k k, mem := some (false, ea, k), writes := putBytes (spadKey v.id ea) (bytesOf k (v.r 0 a).toNat) }
def execTstSp (n : StW) (a b c : TOp) : State → Out := tinkOp fun v => v.spStore n a (eaOf (v.r 1 b) (v.r 2 c))
def execTstSpImm (n : StW) (a b : TOp) (imm : BitVec 32) : State → Out := tinkOp fun v => v.spStore n a (eaOf (v.r 1 b) (imm.signExtend 64))
def execTstSpN4 (a b : TOp) (imm : BitVec 32) : State → Out :=
  tinkOp fun v =>
    let na := nibbleAddr (v.r 1 b) imm.toInt
    { park := v.spadPark (na / 2) 1 1, mem := some (false, na / 2, 1), writes := [nibblePut (spadKey v.id (na / 2)) na (v.r 0 a).toNat] }
/-- TSAT (R240, R222). Table 8.2 has it complete at c + 1 and the return value at c + 6: a form that returns is held incomplete until c + 6 (DESIGN CHOICE, log 43). -/
def execTSat (la : BitVec 4) (a b c : TOp) (xa : AtX) : State → Out :=
  tinkOp fun v =>
    let ea := (v.r 1 b).toNat
    let n := stwBytes xa.width
    let o := v.st.mem.read (spadKey v.id ea) n
    { park := orPark (v.spadPark ea n n) (v.readPark ea n), mem := some (false, ea, n),
      writes := putBytes (spadKey v.id ea) (bytesOf n (atomicNew xa o (v.r 2 c).toNat (v.r 0 a).toNat).1),
      lands := if xa.ret then [(a, 6, BitVec.ofNat 64 o)] else [], done := some (if xa.ret then 6 else 1), la := if xa.ret then some la.toNat else none }

/-! ### Device memory (R241, R242, R244) -/

/-- A load through the tinker cache: the checks of the line's own error on a hit, the line's fill on a miss. An access that the
line's page does not permit waits for its own translation, which fails. -/
def TView.gLoad (v : TView) (la : BitVec 4) (t : LdTy) (a : TOp) (va : Nat) : TPlan :=
  let n := ldBytes t
  let p : TPlan := { park := globalPark va n, la := some la.toNat, mem := some (true, va, n) }
  match (v.c.line va).filter (·.rd) with
  | some l =>
    { p with park := orPark p.park (if l.cv = 0 then none else some (0x7, 0, va)), lands := [(a, 8, extendLd t (l.read va n))], done := some 8 }
  | none => { p with dests := [a], done := none, kind := some (.load t a va), updS := fun s => s.post .tinkerCacheFill (.line v.id (va / 64 * 64)) }
def execTld (la : BitVec 4) (t : LdTy) (a b c : TOp) : State → Out := tinkOp fun v => v.gLoad la t a (eaOf (v.r 1 b) (v.r 2 c))
def execTldImm (la : BitVec 4) (t : LdTy) (a b : TOp) (imm : BitVec 32) : State → Out :=
  tinkOp fun v => v.gLoad la t a (eaOf (v.r 1 b) (imm.signExtend 64))
/-- A store into the tinker cache: write-allocate. -/
def TView.gStore (v : TView) (n : StW) (a : TOp) (va : Nat) : TPlan :=
  let k := stwBytes n
  let x := (v.r 0 a).toNat
  let p : TPlan := { park := globalPark va k, mem := some (true, va, k) }
  match (v.c.line va).filter (·.wr) with
  | some l => { p with upd := fun c => c.setLine (l.write va k x) }
  | none => { p with done := none, kind := some (.store k va x), updS := fun s => s.post .tinkerCacheFill (.line v.id (va / 64 * 64)) }
def execTst (n : StW) (a b c : TOp) : State → Out := tinkOp fun v => v.gStore n a (eaOf (v.r 1 b) (v.r 2 c))
def execTstImm (n : StW) (a b : TOp) (imm : BitVec 32) : State → Out := tinkOp fun v => v.gStore n a (eaOf (v.r 1 b) (imm.signExtend 64))
def execTcache (a : TOp) (op : CacheOp) : State → Out :=
  tinkOp fun v =>
    let va := (v.r 0 a).toNat
    { park := if op.val < 3 then none else if 2 ^ 48 ≤ va then some (0x4, 0, va) else none, done := none, kind := some (.cache op (va / 64 * 64)) }
def execTCatom (la : BitVec 4) (a b c : TOp) (xa : XA) : State → Out :=
  tinkOp fun v =>
    let va := (v.r 1 b).toNat
    let n := stwBytes xa.at_.width
    { park := globalPark va n, mem := some (true, va, n), dests := if xa.at_.ret then [a] else [], done := none,
      la := if xa.at_.ret then some la.toNat else none, kind := some (.atomic xa.at_ a va (v.r 2 c).toNat (v.r 0 a).toNat) }

/-! ### Flags and fences (R243) -/

/-- TACQ reads the flag word like a load; the clean lines of the cache are invalidated. -/
def execTacq (la : BitVec 4) (a : TOp) (_sc : Scope) : State → Out :=
  tinkOp fun v =>
    let ea := (v.r 0 a).toNat
    { park := orPark (v.spadPark ea 8 8) (v.readPark ea 8), lands := [(a, 6, BitVec.ofNat 64 (v.st.mem.read (spadKey v.id ea) 8))], done := some 6,
      la := some la.toNat, mem := some (false, ea, 8), scrub := [(spadKey v.id ea, 8)],
      upd := fun c => { c with cache := c.cache.filter fun l => l.dirty != 0 } }
def execTrel (a : TOp) (sc : Scope) : State → Out :=
  tinkOp fun v => v.releasePlan false (some (v.r 0 a).toNat) sc
def execTfence (_sc : Scope) : State → Out := tinkOp fun _ => { done := none, kind := some .fence }

/-! ### Fork-join (R253, R255, R256) and channels (R245) -/

def execSpawn (a b : TOp) : State → Out :=
  tinkOp fun v =>
    let f := (v.r 0 a).toNat
    let pc := (v.r 1 b).toNat
    { park := if f % 64 ≠ 0 ∨ pc % 4 ≠ 0 then some (0x9, 0, f) else if 2 ^ 48 ≤ f then some (0x4, 0, f) else none, done := none,
      kind := some (.spawn f (pc % 2 ^ 48) 0 0 0 0), mem := some (true, f, 64) }
def execJoin (a b : TOp) : State → Out :=
  tinkOp fun v =>
    let f := (v.r 0 a).toNat
    { park := if f % 64 ≠ 0 then some (0x9, 0, f) else if 2 ^ 48 ≤ f then some (0x4, 0, f) else none, dests := [b], done := none,
      kind := some (.join f b 0 0 0 0), mem := some (true, f, 64) }
def execSteal (la : BitVec 4) (a b : TOp) : State → Out :=
  tinkOp fun v => { dests := [a], done := none, la := some la.toNat, kind := some (.steal a ((v.r 1 b).toNat % 4)) }
/-- The message is read and sent in the issue cycle. -/
def execTChsend (a : TOp) (ch : Chan) : State → Out :=
  tinkOp fun v =>
    let ea := (v.r 0 a).toNat
    { park := orPark (v.spadPark ea 64 64) (if (v.c.ep ch).mode ≠ 1 then some (0xB, 0, v.th.pc) else v.readPark ea 64),
      mem := some (false, ea, 64), scrub := [(spadKey v.id ea, 64)],
      updS := fun s => s.sendMsgs v.id ch [v.st.mem.read (spadKey v.id ea) 64] }

end Sys2Proof.Machine
end

