-- ==== Sys2Proof/Machine/Cycle.lean ====
section
/-! DEFINITION. The main-clock cycle (R52, R63 to R65, R233 to R239): looking at the bundles due, taking traps (R258 to R266, R280), issuing or
stalling the domain, filling vacancies, and landing. -/
namespace Sys2Proof.Machine

/-! ### Looking at the bundle due -/

/-- The slots of the bundle due: none in a folded one. -/
def Core.slotsDue (c : Core) : List (Slot × RawSlot) :=
  if c.owed ≠ 0 then [] else match c.bundleAt c.pc with | .ok b => b.slots | .error _ => []
/-- The ILLBUNDLE reason of the bundle due. -/
def Core.bundleError (c : Core) : Option Nat :=
  if c.owed ≠ 0 then none else match c.bundleAt c.pc with | .ok _ => none | .error r => some r
/-- A slot's predicate, the captured one where a capture is used (R87, R270). -/
def Core.slotPred (c : Core) (slot : Slot) (q : Pred) : Bool :=
  match c.resumeCaps.find? fun k => k.1 == slot.val with
  | some k => k.2.pred
  | none => c.pr q
/-- The instruction of a slot, or its ILLOP reason and operand code. -/
def slotInstr (x : Slot × RawSlot) : Except (Nat × Nat) Instr := (parseSlot (classOf x.1) x.2).result
/-- A slot that is ILLOP by its words. -/
def Looked.bad (slot : Slot) (pred : Bool) (e : Nat × Nat) : Looked :=
  { slot, illop := [(e.1, e.2, 0)], sched := [], traps := [], atOnce := false, violation := none, wait := none, demand := [], msgPath := [], results := 0,
    capture := { valid := true, pred, popd := 0, norms := [0, 0, 0], ops := [0, 0, 0] }, writes := [], reads := [], accs := [], hoops := [], group := none,
    grant := none, seals := [], pick := none, pushes := [], rebinds := [] }
/-- What a slot with a false predicate leaves: its capture, and the faults of its opcode point (R87, R137, R98). -/
def Looked.strip (l : Looked) : Looked :=
  { Looked.bad l.slot false (0, 0) with illop := l.illop.filter (fun x => x.1 == 1 || x.1 == 7), capture := { l.capture with pred := false, popd := 0 } }
/-- Extension words of which every instruction that needs one accepts at least one, beside zero: IMM16 of 6 (VMXEXP, VQUANT, VDEQ, DTO), of 16 (VXPAND, VCMPX)
and of 1 (VTOPK), MEN alone (VSEL), an offset of 4 (LOOP), the scope STRATUM (CATOM). -/
def plainExts : List (BitVec 32) := [0x60000, 0x100000, 0x10000, 8, 4, 0x100]
/-- The words nearest to those of a slot that is ILLOP by its words which do decode: with another extension word, or with fields zero. What the
instruction they hold would meet at issue can have a lower reason than the words themselves (R102). -/
def nearWords (x : Slot × RawSlot) : Option RawSlot :=
  let r := x.2
  let exts : List (Option (BitVec 32)) := r.ext :: some 0 :: none :: plainExts.map some
  let cuts (k : RawSlot) : List RawSlot :=
    [k, { k with c := 0 }, { k with b := 0 }, { k with b := 0, c := 0 }, { k with a := 0 }, { k with a := 0, c := 0 }, { k with a := 0, b := 0 }, { k with a := 0, b := 0, c := 0 }]
  (exts.flatMap fun e => cuts { r with ext := e }).find? fun k => match slotInstr (x.1, k) with | .ok _ => true | .error _ => false
/-- The slots of the bundle due that decode, with a predicate. -/
def Core.slotItems (c : Core) (id : Nat) (pred issue : Bool) : List Item :=
  c.slotsDue.filterMap fun x => match slotInstr x with
    | .ok _ => if c.slotPred x.1 x.2.q = pred then some (Item.slot id x.1 issue x.2) else none
    | .error _ => none
/-- What is considered for the slots that do not decode. -/
def Core.badItems (c : Core) (id : Nat) : List Item :=
  c.slotsDue.filterMap fun x => match slotInstr x with
    | .ok _ => none
    | .error _ => (nearWords x).map fun k => Item.slot id x.1 false k
/-- Consider the bundle due: first the slots that do not decode and those whose predicate is false, for their captures and the faults of their opcode
points, then the others in slot order. -/
def State.consider (s : State) (id : Nat) : State :=
  let c := s.core id
  { s.setCore id { c with looked := [], popped := [], taken := [] } with
    agenda := c.badItems id ++ c.slotItems id false false ++ [Item.sys (.clear id)] ++ c.slotItems id true false ++ s.agenda }
/-- The capture record of a slot that is ILLOP by its words: the registers its fields name (log 43). -/
def Core.rawCapture (c : Core) (x : Slot × RawSlot) : Capture :=
  let vs := [x.2.a, x.2.b, x.2.c].map fun f => c.codeValue f.toNat
  { valid := true, pred := c.slotPred x.1 x.2.q, popd := 0, norms := vs.map (·.2), ops := vs.map (·.1) }
/-- A slot that does not decode, with what its nearest words would meet. -/
def Core.badLooked (c : Core) (x : Slot × RawSlot) (e : Nat × Nat) : Looked :=
  let more := (c.looked.filter fun l => l.slot == x.1).flatMap fun l => if c.slotPred x.1 x.2.q then l.illop else l.strip.illop
  { Looked.bad x.1 (c.slotPred x.1 x.2.q) e with illop := (e.1, e.2, 0) :: more, capture := c.rawCapture x }
/-- What slots with false predicates and slots that do not decode popped does not count; only their captures and faults stay. -/
def State.clearPops (s : State) (id : Nat) : State :=
  s.updCore id fun c =>
    { c with popped := [], taken := [],
             looked := c.slotsDue.flatMap fun x => match slotInstr x with
               | .error e => [c.badLooked x e]
               | .ok _ => (c.looked.filter fun l => l.slot == x.1).map Looked.strip }
/-- What considering the bundle found, in slot order. -/
def Core.considered (c : Core) : Core :=
  { c with looked := (List.finRange 6).flatMap fun k => c.looked.filter fun l => l.slot == k }

/-! ### Boundary causes (R260) -/

/-- The place of a cause in the order of R260. -/
def causeRank (code : Nat) : Nat :=
  match code with
  | 0x12 => 1
  | 0x0C => 2
  | 0x0E => 3
  | 0x0F => 4
  | 0x0B => 5
  | 0x06 => 6
  | 0x07 => 7
  | 0x08 => 8
  | 0x0D => 9
  | _ => 10
/-- The first parked thread not yet reported (R249). -/
def Core.parkedThread (c : Core) : Option (Nat × Cause) :=
  ((List.finRange 64).filterMap fun t => match (c.threads[t]).status with
    | .parked code reason addr false => some (t.val, (⟨0x07, t.val + 2 ^ 8 * reason + 2 ^ 12 * code + 2 ^ 16 * addr, false⟩ : Cause))
    | _ => none).head?
/-- An unreported copy fault while EAGERCF is 1 (R220). -/
def Core.eagerFault (c : Core) : List Cause :=
  if c.sp.xstat.toNat % 2 = 1 then (c.faults.take 1).map fun f => ⟨0x06, f.id + 2 ^ 16 * f.code, false⟩ else []
/-- Every cause that waits at the boundary. -/
def Core.boundary (c : Core) : List Cause := c.causes ++ c.eagerFault ++ (c.parkedThread.map (·.2)).toList
/-- The first in the order of R260. Within one cause the list stands in the order in which the causes arose, results of a cycle in issue order. -/
def firstCause (l : List Cause) : Option Cause :=
  l.foldl (fun b k => match b with | none => some k | some x => if causeRank k.code < causeRank x.code then some k else some x) none
/-- A reported cause is no longer pending; with a landing fault the others of its cycle are discarded (R262). -/
def Core.dropCause (c : Core) (k : Cause) : Core :=
  let c1 := { c with causes := if k.land then c.causes.filter fun x => !x.land else c.causes.erase k }
  if k.code = 0x06 ∧ ¬ c.causes.contains k then { c1 with faults := c.faults.drop 1 }
  else if k.code = 0x07 then
    match c.parkedThread with
    | some (t, _) =>
      let h := c.thread t
      c1.updThread t fun _ => { h with status := match h.status with | .parked a b d _ => .parked a b d true | x => x }
    | none => c1
  else c1
/-- A trap is taken: its handler is entered by TRAP_ENTRY once the effects of earlier bundles are complete (R264, R266). -/
def State.takeTrap (s : State) (id : Nat) (k : Cause) (more : Bool) (caps : Option (List (Nat × Capture))) : State :=
  (s.updCore id fun c => { c with entry := some ⟨k, more, caps⟩, looked := [] }).post .trapEntry (.trap id ⟨k.code, k.value⟩)
/-- Take a boundary cause. -/
def State.takeBoundary (s : State) (id : Nat) (k : Cause) : State :=
  let c := s.core id
  let more := k.land && (c.causes.filter fun x => x.land).length > 1
  (s.setCore id (c.dropCause k)).takeTrap id k more none

/-! ### Issue-time traps (R102, R103) -/

/-- The opcode byte of a slot of the bundle due. -/
def Core.opAt (c : Core) (slot : Slot) : Nat :=
  match c.slotsDue.find? fun x => x.1 == slot with
  | some x => x.2.op.toNat
  | none => 0
/-- ILLOP of the first faulting slot, the lowest reason. -/
def Core.illopTrap (c : Core) : Option (Nat × Cause) :=
  (c.looked.filterMap fun l =>
    match lowestReason (l.illop.map fun x => (x.1, x.2.1)) with
    | some (r, code) => some (l.slot.val, (⟨0x01, l.slot.val + 2 ^ 4 * r + 2 ^ 8 * c.opAt l.slot + (if r = 3 then 2 ^ 16 * code else 0), false⟩ : Cause))
    | none => none).head?
/-- The place of a demand: by cycle, bank, and a read before a write. -/
def demandRank (d : Nat × Bool × Nat) : Nat := 32 * d.1 + 2 * d.2.2 + d.2.1.toNat
/-- The first demand, by its place, of those that are there twice. -/
def twice (all : List (Nat × Bool × Nat)) : Option (Nat × Bool × Nat) :=
  all.foldl (fun b d => if all.count d < 2 then b else match b with | none => some d | some x => if demandRank d < demandRank x then some d else b) none
def twiceNat : List Nat → Bool
  | [] => false
  | d :: ds => ds.contains d || twiceNat ds
/-- The bank reads of the first fills still to come, one unit an issue cycle (R171); a port in `no` makes none after this cycle. -/
def Core.fillDemand (c : Core) (no : List Nat) : List (Nat × Bool × Nat) :=
  (List.finRange 4).flatMap fun p => match c.ports[p] with
    | some (.walk false w _ _ next) =>
      (List.range (if no.contains p.val then Nat.min 1 (8 - next) else 8 - next)).flatMap fun i => (unitBanks w (next + i)).map fun b => (c.ic + i, false, b)
    | _ => []
/-- The cycles in which results land on a write-bound port, one entry a result. -/
def Core.pushDues (c : Core) (p : Fin 4) : List Nat :=
  let port : Dest := .v (Fin.ofNat 32 (28 + p.val))
  let flying := (c.flights.filter fun f => f.push && f.dest == port).map fun f => f.due
  let now := c.looked.flatMap fun l => (l.pushes.filter fun x => x.1 == p.val).map fun x => c.ic + x.2
  flying ++ now
/-- The bank writes of pushes still to land (R68, R172): each result is charged, whether or not it will win, for the unit that is the port's next in its
landing cycle, all its lines, whatever its mask (DESIGN CHOICE, log 43), written in the cycle after. -/
def Core.pushDemand (c : Core) : List (Nat × Bool × Nat) :=
  (List.finRange 4).flatMap fun p => match c.ports[p] with
    | some (.walk true w unit _ _) => (c.pushDues p).flatMap fun d =>
      (unitBanks w (unit + (((c.pushDues p).filter fun e => decide (e < d)).foldl nput []).length)).map fun b => (d + 1, true, b)
    | _ => []
/-- Bank ports the bundle due and earlier ones demand, from this cycle on. -/
def Core.demandWith (c : Core) : List (Nat × Bool × Nat) :=
  c.demand ++ c.fillDemand (c.looked.flatMap fun l => l.rebinds) ++ c.pushDemand ++ c.looked.flatMap fun l => l.demand.map fun d => (c.ic + d.1, d.2.1, d.2.2)
/-- Outstanding results at the next boundary (R265). -/
def Core.outstandingNext (c : Core) : Nat :=
  (c.flights.filter fun f => decide (c.ic + 1 < f.due)).length +
    (c.looked.map fun l => l.results).foldl (· + ·) 0
/-- Every SCHEDULE reason of the bundle with its bank: those of its slots in slot order, of the message path, of the loop, of the banks, of R265 (log 25). -/
def Core.schedReasons (c : Core) : List (Nat × Nat) :=
  c.looked.flatMap (fun l => l.sched) ++
  (if twiceNat (c.msgPath ++ c.looked.flatMap fun l => l.msgPath.map (c.ic + ·)) || decide (2 ≤ (c.looked.filter fun l => l.group.isSome).length) then [(0x0D, 0)] else []) ++
  (if c.loopOverrun then [(6, 0)] else []) ++
  ((twice c.demandWith).map fun d => (if d.2.1 then 3 else 2, d.2.2)).toList ++
  (if !c.sp.handler && decide (24 < c.outstandingNext) then [(0x0C, 0)] else [])
/-- SCHEDULE with the first reason (log 25). -/
def Core.schedTrap (c : Core) : Option (Nat × Cause) :=
  c.schedReasons.head?.map fun r => (((c.looked.find? fun l => !l.sched.isEmpty || !l.demand.isEmpty).map fun l => l.slot.val).getD 0, ⟨0x03, r.1 + 2 ^ 8 * r.2, false⟩)
/-- The first of a slot's other traps (R103). -/
def firstTrap (l : List (Nat × Nat × Nat)) : Option (Nat × Nat × Nat) :=
  l.foldl (fun b x => match b with | none => some x | some y => if x.1 < y.1 then some x else some y) none
def Core.slotTrap (c : Core) (unmatched : Bool) : Option (Nat × Cause) :=
  (c.looked.filterMap fun l =>
    (firstTrap (l.traps ++ if unmatched && l.group.isSome then [(4, 0x09, 3 + 2 ^ 8 * l.slot.val)] else [])).map fun x =>
      (l.slot.val, (⟨x.2.1, x.2.2, false⟩ : Cause))).head?
/-- The issue-time trap of the bundle due, with its slot. -/
def Core.issueTrap (c : Core) (unmatched : Bool) : Option (Nat × Cause) :=
  match c.bundleError with
  | some r => some (0, ⟨0x02, r, false⟩)
  | none =>
    match c.illopTrap with
    | some x => some x
    | none => match c.schedTrap with
      | some x => some x
      | none => c.slotTrap unmatched
/-- A trap that does not wait for the bundle's conditions (R204). A bundle that waits for nothing reports as any other does (R103); one that waits reports
an ILLOP or a SCHEDULE before it. -/
def Core.atOnceTrap (c : Core) : Option (Nat × Cause) :=
  if c.looked.any fun l => l.atOnce then
    if c.looked.any fun l => l.wait.isSome then
      match c.illopTrap with
      | some x => some x
      | none => match c.schedTrap with
        | some x => some x
        | none => ({ c with looked := c.looked.filter fun l => l.atOnce } : Core).slotTrap false
    else c.issueTrap false
  else none
/-- The captures of the bundle due (R261). -/
def Core.capturesNow (c : Core) : List (Nat × Capture) := c.looked.map fun l => (l.slot.val, l.capture)
/-- What is left of an endpoint's messages after the takes of a bundle, in slot order; of a squashed one only pops of ports are for good (R261). -/
def leftAfter (squash : Bool) (ch : Nat) : List Take → List Nat → List Nat
  | [], ms => ms
  | t :: ts, ms =>
    if t.ch = ch then
      if squash && t.port.isNone then ms.take t.n ++ leftAfter squash ch ts (ms.drop t.n) else leftAfter squash ch ts (ms.drop t.n)
    else leftAfter squash ch ts ms
/-- Single-bit errors that the fills of the cycle due meet are written back corrected (R71). -/
def Core.scrubFills (c : Core) (id : Nat) (m : Memory) : Memory :=
  (List.finRange 4).foldl (fun (m : Memory) p => match c.ports[p] with
    | some (.walk false w unit _ next) =>
      let m1 := if next < 8 then m.scrubUnit id w next else m
      if c.popped.contains p.val then m1.scrubUnit id w (unit + 8) else m1
    | _ => m) m
/-- The pops of the bundle due stand: cursors advance, their next units fill, messages are gone (R171, R261, R300). -/
def State.applyPops (s : State) (id : Nat) (squash : Bool) : State :=
  ({ s with mem := (s.core id).scrubFills id s.mem } : State).updCore id fun c =>
    let ports := (Vector.ofFn fun (p : Fin 4) => match c.ports[p] with
      | some (.walk false w unit filled next) =>
        let f1 := if next < 8 then filled ++ [fillOf s.mem id w next c.ic] else filled
        let n1 := if next < 8 then next + 1 else next
        if c.popped.contains p.val then
          some (Binding.walk false w (unit + 1) ((f1.filter fun f => decide (unit < f.unit)) ++ [fillOf s.mem id w (unit + 8) c.ic]) (if n1 < 8 then n1 else unit + 9))
        else some (Binding.walk false w unit f1 n1)
      | b => b)
    { c with ports, popped := [], taken := [],
             endpoints := Vector.ofFn fun (k : Fin 16) => { c.endpoints[k] with msgs := leftAfter squash k.val c.taken (c.endpoints[k]).msgs } }
/-- Take an issue-time trap. -/
def State.takeIssue (s : State) (id : Nat) (k : Cause) : State :=
  let c := s.core id
  let caps := c.capturesNow
  let s1 := s.applyPops id true
  let s2 := if k.code = 0x06 then s1.updCore id fun c => { c with faults := dropFirst (fun f => f.id == k.value % 2 ^ 16 && f.code == k.value / 2 ^ 16) c.faults } else s1
  s2.takeTrap id k false (some caps)

/-! ### Group operations (R285, R286) -/

/-- The group operations of the bundle due; more than one is SCHEDULE. -/
def Core.groupOps (c : Core) : List (Nat × Nat) := c.looked.filterMap fun l => l.group
/-- The members of a core's group operation that have not halted. -/
def State.groupMembers (s : State) (l : Launch) (id : Nat) (g : Nat × Nat) : List Nat := (l.group id (groupScope g)).filter fun m => (s.core m).live
/-- A group operation that some live member does not carry. -/
def State.unmatched (s : State) (l : Launch) (id : Nat) : Bool :=
  (s.core id).groupOps.any fun g => (s.groupMembers l id g).any fun m => !((s.core m).groupOps.contains g)
/-- The core whose scratchpad a command writes. -/
def Cmd.spadDest (k : Cmd) (own : Nat) : Option Nat :=
  if (match k.kind with | .cpy => true | .cgath _ => true | .cscat _ => true | .cfill _ => true | _ => false) then
    if walkKind k.dst = 0 then some own else if walkKind k.dst = 1 then some (walkCore k.dst) else none
  else none
/-- Whether a matched group operation still waits for a member's copies or forwards. -/
def State.groupWaits (s : State) (l : Launch) (id : Nat) : Bool :=
  !(s.unmatched l id) && (s.core id).groupOps.any fun g =>
    let ms := s.groupMembers l id g
    let all := l.group id (groupScope g)
    ms.any fun m =>
      (s.core m).engines.toList.any (fun e => e.queue.any fun k => !k.counted && match k.spadDest m with | some d => all.contains d | none => false) ||
        l.cores.any fun d => (s.core d).forwards.any fun f => f.source == m

/-! ### Interlocked compatibility mode (R62) -/

/-- The instructions that read the scratchpad into registers (R60). -/
def isLoad : Instr → Bool
  | .lds _ _ _ _ => true
  | .vld _ _ _ => true
  | .vldx _ _ _ _ _ => true
  | .dld _ _ _ => true
  | .flagacq _ _ => true
  | .sat _ _ _ x => x.ret
  | _ => false
/-- Registers an instruction reads without naming them in a field: the mask of its extension word (Table 3.3), RET's link, an index walk. -/
def hiddenReads (x : Slot × RawSlot) : List Nat :=
  (match slotInstr x with
   | .ok .ret => [31]
   | .ok (.cgath _ b _) => [0x68 + (b + 1).val]
   | .ok (.cscat a _ _) => [0x68 + (a + 1).val]
   | _ => []) ++
  (if classOf x.1 = .v then match x.2.ext with | some e => if bitOf e 3 then [0x50 + fld e 4 3] else [] | none => [] else [])
/-- What a slot of the bundle due reads, by operand code. -/
def Core.readsOf (c : Core) (l : Looked) : List Nat := l.reads ++ (c.slotsDue.filter fun x => x.1 == l.slot && c.slotPred x.1 x.2.q).flatMap hiddenReads
/-- An incomplete load holds the bundle due. -/
def Core.boardHolds (c : Core) : Bool :=
  c.board.any fun b => b.2.2 != 0 && c.looked.any fun l =>
    (c.readsOf l).any (fun r => (b.1 != .nowhere && r == b.1.code) || r == latchCode b.2.1) || l.writes.any fun w => w.1 == b.1 && decide (w.2 < b.2.2)
def Core.boardTick (c : Core) : Core := { c with board := (c.board.map fun b => (b.1, b.2.1, b.2.2 - 1)).filter fun b => b.2.2 != 0 }
/-- The loads of the bundle that issues enter the scoreboard with their L6 latencies. -/
def Core.boardIssue (c : Core) : Core :=
  if c.sp.compat then
    let loads := c.slotsDue.filterMap fun x => match slotInstr x with | .ok i => if isLoad i then some x.1 else none | .error _ => none
    { c with board := c.board ++ (c.looked.filter fun l => loads.contains l.slot).flatMap fun l => l.writes.map fun w => (w.1, l.slot, w.2 + 2) }
  else c

/-! ### Vacancies (R233, R238, R239) -/

/-- The barrel runs: neither frozen nor pre-empted (R257, R277). -/
def Core.barrelOn (c : Core) (preempting : Bool) : Bool :=
  (match c.run with | .frozen _ _ => false | .running => true | .halted => true | _ => false) &&
    !(c.sp.handler && ((preempting && !(c.causes.any fun k => k.code == 0x0D)) || c.sp.xcause.toNat % 256 == 0x0D)) && !((c.entry.map fun e => e.cause.code == 0x0D).getD false)
/-- Advertise the vacant slots of a cycle and set the resources left to tinkers. -/
def State.advertise (s : State) (id : Nat) (preempting issuing : Bool) (used : List Slot) (cost : Nat) (ports : List (Bool × Nat)) (path : Bool) : State :=
  s.updCore id fun c =>
    let vac : List Slot := if c.barrelOn preempting then ([0, 1, 2, 4, 5] : List Slot).filter fun k => !used.contains k else []
    { c with issuing, vacant := vac, chosen := [], portsUsed := ports, tokens := s.allowance - cost, injected := path }
/-- The bundle cost in tokens (R380). -/
def Core.bundleCost (c : Core) : Nat :=
  (c.slotsDue.map fun x => match classOf x.1 with | .s => 1 | .v => 4 | .m => 0 | .c => 2).foldl (· + ·) 0 +
    (if c.slotsDue.any (fun x => x.1 == 3) || (match c.matrix with | some b => decide (c.ic < b.free) | none => false) then 16 else 0)
/-- The last items of a core's cycle. -/
def Core.tailItems (c : Core) (id : Nat) (issued : Bool) : List Item :=
  (if c.releases.isEmpty then [] else [Item.event .flagrelAdd (.core id)]) ++ [Item.sys (.resend id), Item.sys (.barrel id), Item.sys (.finish id issued)]
def State.push (s : State) (l : List Item) : State := { s with agenda := l ++ s.agenda }
/-- A core stalls for this clock cycle. -/
def State.stallCore (s : State) (preempting : Bool) (id : Nat) : State :=
  let c := s.core id
  let path := c.msgPath.contains (c.ic - 1) && c.msgPath.contains c.ic
  let s1 := s.advertise id preempting false [] 0 [] path
  s1.push ((s1.core id).tailItems id false)
/-- A core that has halted: results go on landing, and every slot is vacant (R130). -/
def State.idleCore (s : State) (preempting : Bool) (id : Nat) : State :=
  let c := s.core id
  let ports := (c.demandWith.filter fun d => d.1 == c.ic).map (·.2)
  let s1 := s.advertise id preempting true [] 0 ports (c.msgPath.contains c.ic)
  s1.push ((s1.core id).tailItems id true)
/-- A core whose program is complete only sends refused messages again, while its launch runs (R297). -/
def State.doneCore (s : State) (id : Nat) : State := (s.updCore id fun c => { c with injected := false }).push [Item.sys (.resend id)]
/-- A core is to issue the bundle due: its resources are reserved, and captures of an earlier trap are no longer valid (R270). -/
def State.issueCore (s : State) (preempting : Bool) (id : Nat) : State :=
  let c := s.core id
  let ports := (c.demandWith.filter fun d => d.1 == c.ic).map (·.2)
  let path := c.msgPath.contains c.ic || c.looked.any fun l => l.msgPath.contains 0
  let sp := if c.sp.handler then c.sp else { c.sp with xstat := c.sp.xstat &&& ~~~0x3F0000#64 }
  (s.setCore id { c.boardIssue with popped := [], taken := [], sp }).advertise id preempting true (c.slotsDue.map (·.1)) c.bundleCost ports path
/-- Cores issue their bundles in one clock cycle: every slot of every core first, so that what one reads of another is as it was at the start of the
cycle (R287, R288), then what follows on each core. -/
def State.issueCores (s : State) (preempting : Bool) (ids : List Nat) : State :=
  let s1 := ids.foldl (fun (s : State) id => s.issueCore preempting id) s
  s1.push (ids.flatMap (fun id => (s1.core id).slotItems id true true) ++ ids.flatMap fun id => (s1.core id).tailItems id true)

/-! ### The decision of a domain -/

def isFrozen (r : RunState) : Bool := match r with | .frozen _ false => true | _ => false
/-- The cores of a launch in lock step. -/
def State.liveCores (s : State) (l : Launch) : List Nat := l.cores.filter fun c => (s.core c).live
/-- The cores in the resident handler, or on their way into it. -/
def State.handlerCores (s : State) (l : Launch) : List Nat := (s.liveCores l).filter fun c => (s.core c).sp.handler || (s.core c).entry.isSome
def State.domainFrozen (s : State) (l : Launch) : Bool := l.cores.any fun c => isFrozen (s.core c).run
/-- Freeze with kind 4, for a trap in the handler (R268). -/
def State.freezeHandler (s : State) (id slot code : Nat) : State :=
  s.freezeCore id { kind := 4, slot, thread := 0, handle := 0, tag := 0, shadow := 0, owner := 0, addr := code }
/-- Do something for each core, the last first, so that the agenda holds them in order. -/
def State.eachCore (s : State) (ids : List Nat) (f : State → Nat → State) : State := ids.reverse.foldl f s
/-- The slot a landing fault names. -/
def Cause.slot (k : Cause) : Nat := k.value / (if k.code = 0x0B then 2 ^ 8 else 2 ^ 24) % 8
/-- What a handler core does in this clock cycle, its bundle considered: it stalls, freezes, or issues (`true`). -/
def State.decideHandler (s : State) (l : Launch) (pre : Bool) (id : Nat) : State × Bool :=
  let c := s.core id
  let stall (s : State) : State × Bool := (s.stallCore pre id, false)
  let freeze (slot code : Nat) : State × Bool := stall (s.freezeHandler id slot code)
  if c.entry.isSome ∨ c.eretPending ∨ ¬ l.ownHandler then stall s
  else match c.handlerFault with
    | some k => freeze k.slot k.code
    | none =>
      if l.l4 ∧ c.boardHolds then stall (s.updCore id Core.boardTick)
      else match c.atOnceTrap with
        | some (slot, k) => freeze slot k.code
        | none =>
          if (c.looked.any fun x => x.wait.isSome) ∨ s.groupWaits l id then stall s
          else match c.issueTrap (s.unmatched l id) with
            | some (slot, k) => freeze slot k.code
            | none =>
              match (c.looked.filterMap fun x => x.violation).head? with
              | some v => stall (s.freezeCore id v)
              | none => (s, true)
/-- The handler cores of a domain, their bundles considered. A matched group operation issues on all its members or on none (R286). -/
def State.decideHandlers (s : State) (l : Launch) (pre : Bool) (hs : List Nat) : State :=
  let (s1, go) := hs.foldl (fun (x : State × List Nat) id =>
    let r := x.1.decideHandler l pre id
    (r.1, if r.2 then x.2 ++ [id] else x.2)) (s, [])
  let alone := go.filter fun id => (s1.core id).groupOps.any fun g => (s1.groupMembers l id g).any fun m => !(go.contains m)
  (s1.eachCore alone fun s id => s.stallCore pre id).issueCores pre (go.filter fun id => !(alone.contains id))
/-- Count a stall cycle, and raise WATCHDOG after 2^32 (R271). -/
def State.countStall (s : State) (l : Launch) : State :=
  if l.stall + 1 < 2 ^ 32 then s.setLaunch { l with stall := l.stall + 1 }
  else (s.setLaunch { l with stall := 0 }).push [Item.event .watchdog (.launch l.id)]
/-- PREEMPT is the first cause of every core: they take it at the boundary of one issue count (R273). -/
def State.allPreempt (s : State) (live : List Nat) : Bool := live.all fun id => (firstCause (s.core id).boundary).map (·.code) == some 0x0D
/-- The boundary causes that are taken, by core (R260). -/
def State.boundaryCauses (s : State) (live : List Nat) : List (Nat × Cause) :=
  live.filterMap fun id => (firstCause (s.core id).boundary).bind fun k => if k.code = 0x0D ∧ ¬ s.allPreempt live then none else some (id, k)
/-- The cores whose first cause is a PREEMPT that not every core can take yet: they take nothing that ranks after it (R260, R273). -/
def State.preemptHeld (s : State) (live : List Nat) : List Nat :=
  if s.allPreempt live then [] else live.filter fun id => (firstCause (s.core id).boundary).map (·.code) == some 0x0D
/-- The traps, violations or issue of a domain whose cores all consider their bundles. A core with a boundary cause does not consider its own; where the
other cores wait for nothing, their issue-time traps of this boundary are taken with it (R260, R269). -/
def State.decideLive (s : State) (l : Launch) (pre : Bool) (live : List Nat) : State :=
  let stallAll (s : State) : State := s.eachCore live fun s id => s.stallCore pre id
  let chosen := s.boundaryCauses live
  let held := s.preemptHeld live
  let rest := live.filter fun id => !(chosen.any fun x => x.1 == id) && !(held.contains id)
  let holds : Bool := l.l4 && rest.any fun id => (s.core id).boardHolds
  let waits := rest.any fun id => ((s.core id).looked.any fun x => x.wait.isSome) || s.groupWaits l id
  let trapOf (id : Nat) : Option (Nat × Cause) := if waits then (s.core id).atOnceTrap else (s.core id).issueTrap (s.unmatched l id)
  let traps := if holds then [] else rest.filterMap fun id => (trapOf id).map fun x => (id, x.2)
  if !chosen.isEmpty || !traps.isEmpty then stallAll (traps.foldl (fun s x => s.takeIssue x.1 x.2) (chosen.foldl (fun s x => s.takeBoundary x.1 x.2) s))
  else if !held.isEmpty then stallAll s
  else if holds then (stallAll (live.foldl (fun (s : State) id => s.updCore id Core.boardTick) s)).countStall l
  else if waits then (stallAll s).countStall l
  else
    let viols := live.filterMap fun id => (((s.core id).looked.filterMap fun x => x.violation).head?).map fun v => (id, v)
    if !viols.isEmpty then stallAll (viols.foldl (fun s x => s.freezeCore x.1 x.2) s)
    else (s.issueCores pre live).setLaunch { l with stall := 0 }
/-- ABORT is taken during a hold as well: for another core's handler, or for a freeze (R272). -/
def State.abortHeld (s : State) (ids : List Nat) : State :=
  ids.foldl (fun (s : State) id => match (s.core id).causes.find? fun k => k.code == 0x12 with | some k => s.takeBoundary id k | none => s) s
/-- What a domain does in this clock cycle (R63, R64, R269, R277). -/
def State.decideDomain (s0 : State) (lid : Nat) : State :=
  match s0.launches.find? fun l => l.id == lid with
  | none => s0
  | some l =>
    let pre := l.phase == .preempting
    let stallAll (s : State) (ids : List Nat) : State := s.eachCore ids fun s id => s.stallCore pre id
    let s1 := s0.eachCore (l.cores.filter fun c => (s0.core c).run == .complete) fun s id => s.doneCore id
    let s2 := s1.eachCore (l.cores.filter fun c => (s0.core c).run == .halted) fun s id => s.idleCore pre id
    let s3 := stallAll s2 (l.cores.filter fun c => match (s0.core c).run with | .frozen _ _ => true | _ => false)
    let live := s3.liveCores l
    let hs := s3.handlerCores l
    let out := live.filter fun c => !hs.contains c
    if s3.domainFrozen l then stallAll (s3.abortHeld out) live
    else if !hs.isEmpty then
      ((stallAll (s3.abortHeld out) out).eachCore hs fun s id => s.updCore id Core.considered).decideHandlers l pre hs
    else (live.foldl (fun (s : State) id => s.updCore id Core.considered) s3).decideLive l pre live

/-! ### The barrel (R234, R236, R238) -/

/-- The class of a vacancy. -/
def vacClass (z : Slot) : Fin 3 := match z with | 0 => 0 | 1 => 1 | 2 => 1 | 3 => 2 | 4 => 2 | 5 => 2
def TinkInfo.accepts (x : TinkInfo) (k : Fin 3) : Bool := match k with | 0 => x.onS | 1 => x.onV | 2 => x.onC
/-- What the barrel sees of a thread's next operation. -/
def Core.nextInfo (c : Core) (s : State) (id : Nat) (t : Fin 64) (w e : BitVec 32) : TinkInfo :=
  let h := c.threads[t]
  tinkInfo w.toNat e.toNat (fun pos n => c.tread t (h.base + n) s.clock (readSalt s.clock id t.val pos)) fun va => (c.line va).isSome
def overlaps (a b : Bool × Nat × Nat) : Bool := a.1 == b.1 && decide (a.2.1 < b.2.1 + b.2.2) && decide (b.2.1 < a.2.1 + a.2.2)
/-- The interlocks of R236 against one incomplete operation. -/
def interlocked (h : Thread) (x : TinkInfo) (p : TPending) : Bool :=
  !p.orphan && (!p.l || decide (p.seq + p.la < h.seq) || ((x.srcs ++ x.dsts).any fun r => p.dests.contains r) ||
    (match x.mem, p.mem with | some a, some b => overlaps a b | _, _ => false))
/-- The conditions of R247 and R245 on the operation itself. -/
def Core.opReady (c : Core) (h : Thread) (w : BitVec 32) : Bool :=
  let op := tOp w.toNat
  if op = 0x3A then h.count != 0
  else if op = 0x67 then
    let e := c.ep (Fin.ofNat 16 (tFB w.toNat))
    e.mode != 1 || (decide (1 ≤ e.sendAllow) && e.resend.isEmpty && (!e.tagged || decide (e.retained.length < 63)))
  else true
/-- The barrel's choice for a vacancy. -/
def Core.canTake (c : Core) (s : State) (id : Nat) (z : Slot) (t : Fin 64) : Option (TinkInfo × BitVec 32 × BitVec 32) :=
  let h := c.threads[t]
  match h.fetched with
  | some (w, e) =>
    let x := c.nextInfo s id t w e
    if h.status = .ready ∧ h.notBefore ≤ s.clock ∧ !(c.chosen.contains t.val) ∧ x.accepts (vacClass z) ∧ !(h.pend.any (interlocked h x)) ∧ c.opReady h w then some (x, w, e) else none
  | none => none
def Core.pickThread (c : Core) (s : State) (id : Nat) (z : Slot) : Option (Fin 64 × TinkInfo × BitVec 32 × BitVec 32) :=
  let last := (c.classPtr[vacClass z]).val
  (((List.range 64).map fun i => Fin.ofNat 64 (last + 1 + i)).filterMap fun t => (c.canTake s id z t).map fun x => (t, x)).head?
/-- The endpoint state of a PATH 2 channel stands in the fabric unit. -/
def State.coreSeen (s : State) (id : Nat) : Core :=
  let c := s.core id
  { c with endpoints := Vector.ofFn fun k => s.endpoint id k }
/-- One vacancy. It is counted here, after what the bundle reads (R239, R427). -/
def State.barrel (s : State) (id : Nat) : State :=
  let c := s.core id
  match c.vacant with
  | [] => s
  | z :: rest =>
    let again := Item.sys (.barrel id)
    let c1 := { c with vacant := rest, sp := { c.sp with resAdv := satInc c.sp.resAdv 1 } }
    match (s.coreSeen id).pickThread s id z with
    | none => (s.setCore id c1).push [again]
    | some (t, x, w, e) =>
      let c2 := { c1 with chosen := t.val :: c.chosen, classPtr := c.classPtr.set (vacClass z) t }
      if c.tokens = 0 then (s.setCore id { c2 with sp := { c1.sp with resDenyPwr := satInc c1.sp.resDenyPwr 1 } }).push [again]
      else if x.ports.any fun p => (c.portsUsed ++ c.agentPorts).contains p then (s.setCore id { c2 with sp := { c1.sp with resDenyBank := satInc c.sp.resDenyBank 1 } }).push [again]
      else if x.inject && c.injected then (s.setCore id { c2 with sp := { c1.sp with resDenyNet := satInc c.sp.resDenyNet 1 } }).push [again]
      else
        (s.setCore id { c2 with tokens := c.tokens - 1, portsUsed := c.portsUsed ++ x.ports, injected := c.injected || x.inject,
                                sp := { c1.sp with resUsed := satInc c.sp.resUsed 1 } }).push [Item.tinker id t.val z w e, again]

/-! ### The end of a cycle -/

/-- Two effects of one bundle on one place (R57, R169). -/
def actConflict (a b : Nat × Nat × Act) : Bool :=
  a.2.1 == b.2.1 && (match a.2.2, b.2.2 with
    | .book _ p _, .book _ q _ => p != q
    | .accs u p, .accs v q => p != q && u.any fun x => v.any fun y => x.1 == y.1
    | _, _ => false)
def anyActConflict : List (Nat × Nat × Act) → Bool
  | [] => false
  | a :: rest => rest.any (actConflict a) || anyActConflict rest
/-- What of a result lands in issue cycle `t`, and what stays: MDRAIN's flags are raised one cycle before the operation ends (R212). -/
def Flight.at (f : Flight) (t : Nat) : Option Flight × Option Flight :=
  if f.due ≤ t then (some f, none)
  else if f.dest = .matrix ∧ f.due = t + 1 ∧ f.flags ≠ 0 then (some { f with due := t, pend := 0 }, some { f with flags := 0 })
  else (none, some f)
/-- What of a result stays when its fault is deferred (R262). -/
def Flight.deferred (f : Flight) (t : Nat) : Flight :=
  if t < f.due then f else { f with due := t, pend := if f.pend = 0 then 0x0B else f.pend }
/-- ABORT or TRAPI is taken at this boundary, so that the landing faults of its cycle are deferred (R262). -/
def Core.defers (c : Core) : Bool := c.run == .running && !c.sp.handler && c.causes.any fun k => k.code == 0x12 || k.code == 0x0C
/-- Land what is due in issue cycle `t` (R57, R262). The fault of a handler bundle stands apart (R268), unless the core has halted (R130). -/
def Core.landCycle (c0 : Core) (id t : Nat) : Core :=
  let c := { c0 with raised := 0, landed := true }
  let parts := c.flights.map fun f =>
    let (now, later) := f.at t
    match now with
    | some g => if c.defers && (c.landingCause g).isSome then (none, some (f.deferred t)) else (now, later)
    | none => (none, later)
  let now := parts.filterMap (·.1)
  let c1 := ({ c with flights := parts.filterMap (·.2), causes := [], demand := c.demand ++ now.flatMap c.pushCharge } : Core).landAll id now
  let c2 := if anyConflict (now.filter Flight.lands) then { c1 with sp := { c1.sp with wconf := true } } else c1
  if c.sp.handler && c.run == .running then { c2 with causes := c.causes, handlerFault := c.handlerFault.orElse fun _ => firstCause c2.causes } else { c2 with causes := c.causes ++ c2.causes }
/-- The results of the issue cycle due land, once; those of a handler that has issued its ERET are discarded (R270). -/
def State.landCore (s : State) (id : Nat) : State :=
  let c := s.core id
  if c.landed ∨ c.eretPending ∨ ¬ (c.run = .running ∨ c.run = .halted) then s else s.setCore id (c.landCycle id c.ic)
/-- The end of an issue cycle: fills and pops, the write phase, effects of the next cycle, and the next bundle. -/
def State.endIssue (s : State) (id : Nat) : State :=
  let s1 := s.applyPops id false
  let c1 := s1.core id
  let t := c1.ic + 1
  let late (w : Nat × WOp) : Bool := decide (c1.ic < w.1)
  let s2 := (s1.setCore id { c1 with writes := c1.writes.filter late, demand := c1.demand.filter (fun d => decide (c1.ic < d.1)), msgPath := c1.msgPath.filter fun m => decide (c1.ic ≤ m) }).doWrites
    id ((c1.writes.filter fun w => !(late w)).map fun w => w.2)
  let c2 := s2.core id
  let due := c2.acts.filter fun a => decide (a.1 ≤ t)
  let s3 := (s2.setCore id { c2 with acts := c2.acts.filter fun a => !(decide (a.1 ≤ t)) }).doActs id (due.map fun a => a.2.2)
  s3.updCore id fun c =>
    let c3 := (if anyActConflict due then { c with sp := { c.sp with wconf := true } } else c).boardTick
    let c4 := if c3.run = .running then c3.advance else c3
    { c4 with ic := t, landed := false, resumeCaps := [] }
/-- Tinker results and signals of the clock cycle. -/
def State.endTinkers (s : State) (id : Nat) : State :=
  let c := s.core id
  let s1 := (s.setCore id { c with twrites := [] }).doWrites id c.twrites
  s1.updCore id fun c =>
    let land := c.tflights.filter fun (f : TFlight) => decide (f.due ≤ s.clock)
    let c1 := { c with tflights := c.tflights.filter (fun f => !(decide (f.due ≤ s.clock))),
                       trf := land.foldl (fun m (f : TFlight) => sput 0 m f.entry f.value) c.trf,
                       threads := c.threads.map fun (h : Thread) => { h with pend := h.pend.filter fun p => match p.due with | some d => decide (s.clock + 1 < d) | none => true } }
    let c2 := c1.signals.foldl (fun (k : Core) t => k.signal t) c1
    { c2 with signals := [] }
/-- A halted core's causes end its program as failed (R130). -/
def Core.haltCauses (c : Core) : Core :=
  let cands := c.boundary.filter fun k => k.code != 0x0D && k.code != 0x13 && k.code != 0x12 && k.code != 0x0C
  match firstCause (c.haltFail.toList ++ cands) with
  | none => c
  | some k => { c with haltFail := some k, causes := [] }
/-- A launch's own handler gives a saved core up by HALT, whatever its threads are (R275, log 14). -/
def State.givenUp (s : State) (id : Nat) : Bool :=
  (s.core id).sp.handler && (match s.launchOf id with | some l => l.phase == .preempting && s.isSaved l.id id | none => false)
/-- Whether a halted core's program is complete (R130): every thread is dead, or parked where it has failed; the threads of a saved core do not count. -/
def Core.isComplete (c : Core) (saved : Bool) : Bool :=
  c.run == .halted && c.flights.isEmpty && c.acts.isEmpty && c.writes.isEmpty && c.releases.isEmpty && (match c.matrix with | some b => decide (b.free ≤ c.ic) | none => true) &&
    c.engines.toList.all (fun e => e.queue.isEmpty) &&
    c.threads.toList.all fun h => saved || h.status == .dead || (c.haltFail.isSome && (match h.status with | .parked _ _ _ _ => true | _ => false))
/-- The end of a core's clock cycle. CLK counts from the first bundle's issue cycle on (Table 2.7). -/
def State.finish (s : State) (id : Nat) (issued : Bool) : State :=
  let s1 := (if issued then s.endIssue id else s).endTinkers id
  let s2 := s1.updCore id fun c =>
    let c1 := { c with looked := [], popped := [], taken := [], agentPorts := [], sp := { c.sp with clk := if c.sp.clk = 0 && (!issued || c.sp.handler) then 0 else c.sp.clk + 1 } }
    let c2 := if c1.run = .halted then c1.haltCauses else c1
    if c2.isComplete (s1.givenUp id) then { (List.finRange 64).foldl (fun c t => c.killThread t) c2 with run := .complete } else c2
  if (s2.core id).run = .complete then
    match s2.launchOf id with
    | some l => s2.post .launchRetire (.launch l.id)
    | none => s2
  else s2

/-! ### MAIN_CLOCK_CYCLE -/

/-- Every core of a domain that trapped has issued its ERET: they resume together (R269, R270). -/
def State.resumeDomain (s : State) (l : Launch) : State :=
  let hs := s.handlerCores l
  if !hs.isEmpty && !(s.domainFrozen l) && hs.all fun c => (s.core c).eretPending && (s.core c).entry.isNone then
    (hs.foldl (fun (s : State) c => s.resumeCore c) s).setLaunch { l with stall := 0 }
  else s
/-- Launches whose cores run. -/
def Launch.active (l : Launch) : Bool := l.started && (l.phase == .running || l.phase == .preempting || l.phase == .retiring)
/-- The cores that consider a bundle in this cycle. -/
def State.considering (s : State) (l : Launch) : List Nat :=
  if s.domainFrozen l then []
  else
    let hs := s.handlerCores l
    if hs.isEmpty then s.liveCores l else hs.filter fun c => l.ownHandler && (s.core c).entry.isNone && !(s.core c).eretPending
/-- The items of a launch's cycle. -/
def State.launchItems (s : State) (l : Launch) : List Item :=
  l.cores.map (fun c => Item.sys (.land c)) ++ (s.considering l).map (fun c => Item.sys (.consider c)) ++ [Item.sys (.decide l.id)]
/-- One cycle of the main clock. -/
def State.mainCycle (s : State) : State :=
  let now := s.clock + 1
  let due := s.wires.filter fun w => decide (w.1 ≤ now)
  let s1 : State := { s with clock := now, wires := s.wires.filter (fun w => !(decide (w.1 ≤ now))), pending := s.pending ++ due.map (·.2) }
  let s2 := (s1.launches.filter Launch.active).foldl State.resumeDomain s1
  { s2 with agenda := due.map (fun w => Item.event w.2.1 w.2.2) ++ (s2.launches.filter Launch.active).flatMap (s2.launchItems ·) ++ s2.agenda }
def execMainClockCycle (s : State) : Out :=
  match s.cur with
  | .event .unit => .next (if s.power then s.mainCycle else s)
  | _ => .fault .noAgent

/-! ### Traps, watchdog and pre-emption -/

/-- The firmware handler gives a launch up as failed. The first report stands (log 20). -/
def State.firmwareFail (s : State) (l : Launch) (f : Failure) : State :=
  (s.setLaunch { l with phase := .retiring, failure := some (l.failure.getD f) }).post .launchRetire (.launch l.id)
/-- What the firmware handler does on entry (R360): it starts the save of a pre-empted core; on any other cause the launch retires with
status 3, or 5 for ABORT, with the trap state of the first core to enter. -/
def State.firmware (s : State) (id : Nat) (k : Cause) : State :=
  match s.launchOf id with
  | none => s
  | some l =>
    if l.ownHandler then s
    else if k.code = 0x0D then (s.updCore id fun c => { c with ctxBusy := some .save }).post .csave (.core id)
    else s.firmwareFail l ⟨if k.code = 0x12 then 5 else 3, k.code, k.value, (s.core id).sp.xpc.toNat, id⟩
/-- Memory effects complete while the release queue's adds are waited for; the reservations of the message path stay (R264, R283). -/
def State.drainHeld (s : State) (id : Nat) : State := (s.drainCore id).updCore id fun c => { c with msgPath := (s.core id).msgPath }
/-- A trap's handler is entered once the release queue's adds are performed (R264, R266). A core that froze meanwhile holds its state, and
enters once it is resumed (R277, R279). -/
def execTrapEntry (s : State) : Out :=
  match s.cur with
  | .event (.trap id t) =>
    match (s.core id).entry with
    | none => .next (s.unpost .trapEntry (.trap id t))
    | some e =>
      if isFrozen (s.core id).run then .next s
      else if (s.core id).releases.any fun r => r.thread.isNone then .next (s.drainHeld id)
      else .next (((s.enterHandler id e.cause e.more e.caps).unpost .trapEntry (.trap id t)).firmware id e.cause)
  | _ => .fault .noAgent
/-- The condition that holds a core's bundle (R271). -/
def Core.waitKind (c : Core) : Option Nat := ((c.considered.looked.filterMap fun l => l.wait).head?).orElse fun _ => if c.groupOps.isEmpty then none else some 4
def execWatchdog (s : State) : Out :=
  match s.cur with
  | .event (.launch lid) =>
    match s.launches.find? fun l => l.id == lid with
    | none => .next s
    | some l =>
      let live := s.liveCores l
      let any := ((live.filterMap fun c => (s.core c).waitKind).head?).getD 0
      .next (live.foldl (fun (s : State) c =>
        s.updCore c fun k => { k with causes := k.causes ++ [⟨0x13, (k.waitKind).getD any, false⟩] }) s)
  | _ => .fault .noAgent
/-- A request of pre-emption reaches every core of a launch once its porter runs have ended (R273, R323): the cause waits at their next boundary. -/
def execPreempt (s : State) : Out :=
  match s.cur with
  | .event (.launch lid) =>
    let gone := s.unpost .preempt (.launch lid)
    match s.launches.find? fun l => l.id == lid with
    | none => .next gone
    | some l =>
      if l.phase ≠ .running ∨ ¬ l.started ∨ l.cores.any fun c => !(s.core c).live then .next gone
      else if s.runsOf l.ctag then .next s
      else .next (l.cores.foldl (fun (s : State) c =>
        s.updCore c fun k => { k with causes := k.causes ++ [⟨0x0D, (sget 0 l.buffers c) % 2 ^ 48, false⟩] }) (gone.setLaunch { l with phase := .preempting }))
  | _ => .fault .noAgent

/-- The steps of a cycle that are not operations. -/
def State.runSys (s : State) (k : Sys) : State :=
  match k with
  | .land c => s.landCore c
  | .consider c => s.consider c
  | .clear c => s.clearPops c
  | .decide l => s.decideDomain l
  | .resend c => s.resendCore c
  | .barrel c => s.barrel c
  | .finish c issued => s.finish c issued

end Sys2Proof.Machine
end

