-- ==== Sys2Proof/Machine/Context.lean ====
section
/-! DEFINITION. The context engine (R274): CSAVE, CLOAD, CONTEXT_ENGINE_DONE, the image it writes (Tables 9.7 to 9.9), and the firmware handler's
part in saving and restoring a pre-empted core (R275, R276, R360). -/
namespace Sys2Proof.Machine

/-! ### Whole regions of memory -/

/-- Put bytes over a region, sparsely. -/
def Memory.blit (m : Memory) (a : Nat) (bs : List Byte) : Memory :=
  ((List.range bs.length).zip bs).foldl (fun (k : Memory) e => if e.2 = unwritten then k else { k with cells := sput unwritten k.cells (a + e.1) e.2 })
    (m.zero a (a + bs.length))
/-- Copy `n` bytes, whole lines with their check values. A word with an uncorrectable error stays one where it goes; others are corrected. -/
def Memory.copyRegion (m : Memory) (src dst n : Nat) : Memory :=
  let inside (k : Nat) : Bool := decide (src ≤ k) && decide (k < src + n)
  let place (k : Nat) : Nat := k - src + dst
  let m1 := m.zero dst (dst + n)
  { cells := (m.cells.filter fun e => inside e.1).foldl (fun l e => sput unwritten l (place e.1) e.2) m1.cells
    ecc1 := m1.ecc1.filter fun w => !inside w
    ecc2 := (m.ecc2.filter inside).foldl (fun l w => nput l (place w)) m1.ecc2
    cv := (m.cv.filter fun e => inside e.1).foldl (fun l e => sput 0 l (place e.1) e.2) m1.cv }
/-- The bytes of a region by their offset. -/
def Memory.region (m : Memory) (base lo hi : Nat) : List Host.Cell :=
  (m.cells.filter fun e => decide (base + lo ≤ e.1) && decide (e.1 < base + hi)).map fun e => (e.1 - base, e.2)
/-- No bad check value and no uncorrectable word in a region. -/
def Memory.regionGood (m : Memory) (lo hi : Nat) : Bool :=
  !(m.ecc2.any fun w => decide (lo ≤ w) && decide (w < hi)) && !(m.cv.any fun e => decide (lo ≤ e.1) && decide (e.1 < hi))

/-! ### The image -/

def padTo (n : Nat) (bs : List Byte) : List Byte := bs ++ List.replicate (n - bs.length) 0
/-- A tree's 256 node records (Table 6.7). -/
def Tree.records (t : Tree) : List Byte :=
  (List.range 256).flatMap fun i => bytesOf 8 (match t.nodes.find? fun n => n.1 == i with | some n => n.2.parent + 2 ^ 8 + 2 ^ 32 * n.2.token | none => 0)
/-- The register image (Table 9.8). -/
def Core.registerImage (c : Core) : List Byte :=
  let lo := padTo 0x1C0 ((c.s.toList.flatMap fun x => bytesOf 8 x.toNat) ++ (c.m.toList.flatMap fun x => bytesOf 16 x.toNat) ++
    ((List.finRange 8).flatMap fun i => bytesOf 1 (c.pr i).toNat) ++ c.n.toList.flatMap fun x => bytesOf 2 x.toNat)
  let latches := padTo 0x200 (lo ++ [c.ls, c.lc0, c.lc1].flatMap fun x => bytesOf 8 x.toNat)
  let hoops := padTo 0x400 (latches ++ c.h.toList.flatMap fun x => bytesOf 16 x.word)
  let walks := hoops ++ c.w.toList.flatMap fun x => bytesOf 64 x.toNat
  let specials := walks ++ (List.range 64).flatMap fun k => bytesOf 8 (match specialOf k with | some r => (c.getSpecial r).toNat | none => 0)
  let vecs := specials ++ (c.v.toList.flatMap fun x => bytesOf 256 x.toNat) ++ (c.d.toList.flatMap fun x => bytesOf 256 x.toNat) ++
    bytesOf 256 c.lv0.toNat ++ bytesOf 256 c.lv1.toNat
  padTo 0x4000 vecs ++ c.tt.toList.flatMap Tree.records
/-- A channel spill record (Table 9.9). -/
def Endpoint.spill (e : Endpoint) : Nat := e.msgs.length % 2 ^ 8 + 2 ^ 8 * (e.sendAllow % 2 ^ 8) + 2 ^ 16 * (e.grantOut % 2 ^ 8) + 2 ^ 24 * e.sealed.toNat
/-- The channel spill: records, then each endpoint's messages. -/
def Core.spillImage (c : Core) : List Byte :=
  (c.endpoints.toList.flatMap fun e => bytesOf 64 e.spill) ++ c.endpoints.toList.flatMap fun e => padTo 4032 ((e.msgs.take 63).flatMap (bytesOf 64))
/-- Write the accumulator, register, hidden-state and channel regions of a buffer. -/
def State.writeImage (s : State) (id buf : Nat) (c : Core) : Memory :=
  let m1 := s.mem.copyRegion (accKey id 0) (buf + 0x10_0000) 0x4_0000
  let m2 := m1.blit (buf + 0x14_0000) (padTo 0x1_0000 ({ c with ctxBusy := none } : Core).registerImage)
  let m3 := m2.blit (buf + 0x15_0000) ((List.range 0x3_0000).map (Config.hiddenByte s.tick))
  m3.blit (buf + 0x18_0000) (padTo 0x1_0000 c.spillImage)

/-! ### CSAVE -/

/-- Both queues are empty, and nothing of the threads or the release queue is on its way (R257, R274). -/
def Core.settled (c : Core) : Bool :=
  c.engines.toList.all (fun e => e.queue.isEmpty) && c.releases.isEmpty && c.tflights.isEmpty && c.threads.toList.all fun h => h.pend.isEmpty
/-- The buffer the context engine uses. -/
def Core.contextBuffer (c : Core) : Nat := c.sp.xvalue.toNat % 2 ^ 48
def execCsave (s : State) : Out :=
  match s.cur with
  | .event (.core id) =>
    let c := s.core id
    match c.ctxBusy, s.launchOf id with
    | some .save, some l =>
      if !c.settled then .next s
      else if !c.dirtyLines.isEmpty then .next (s.postWritebacks id c.dirtyLines)
      else
        let c1 := { c with cache := [] }
        let m := s.writeImage id c.contextBuffer c1
        let h : Hidden := { launch := l.id, id, live := true, buffer := c.contextBuffer, image := m.region c.contextBuffer 0x10_0000 0x19_0000, core := c1 }
        let s1 : State := { s with mem := m, hidden := (s.hidden.map fun x => if x.launch = l.id ∧ x.id = id then { x with live := false } else x) ++ [h] }
        .next (((s1.setCore id c1).unpost .csave (.core id)).post .contextEngineDone (.core id))
    | _, _ => .next (s.unpost .csave (.core id))
  | _ => .fault .noAgent

/-! ### CLOAD -/

/-- Send a PATH 2 route's refused messages again, oldest first, as far as its allowances go (R297, R408). -/
def State.resendFabric (s : State) (core : Nat) (ch : Chan) : State :=
  let e := (s.core core).ep ch
  let r := s.route e.routeOf
  let n := min e.sendAllow r.resend.length
  if n = 0 ∨ e.path ≠ 2 then s
  else
    let ms := (r.resend.take n).map (withStep (s.stepOf e.routeOf))
    let s1 := (s.updCore core fun c => c.updEp ch fun e => { e with sendAllow := e.sendAllow - n }).updRoute e.routeOf fun r =>
      { r with resend := r.resend.drop n, retained := r.retained ++ ms.map fun m => (m, s.clock) }
    (s1.sendRows e.routeOf false n ms).post .retransmissionTimeout (.num e.routeOf)
def State.resendAny (s : State) (core : Nat) (ch : Chan) : State := (s.resendNow core ch).resendFabric core ch
/-- An endpoint comes back: what the fabric unit counted for its route meanwhile is settled (R410). On the device, the allowances that refused messages had
spent are granted once more, so that their senders send them again (R274, R446, log 35). -/
def State.restoreEp (s : State) (core : Nat) (ch : Chan) : State :=
  let e := (s.core core).ep ch
  if e.path = 2 ∧ e.mode ≠ 0 then
    let r := s.route e.routeOf
    (s.updCore core fun c => c.updEp ch fun e => { e with grantOut := e.grantOut - r.refused, sendAllow := e.sendAllow + r.allow }).updRoute e.routeOf fun r =>
      { r with refused := 0, allow := 0 }
  else if e.refused = 0 then s
  else (s.updCore core fun c => c.updEp ch fun e => { e with grantOut := e.grantOut + e.refused, refused := 0 }).toPeer core e 0 .allowanceArrival
    fun pc pe => .allow pc pe e.refused
/-- The core's state with a saved image restored: the handler's own place and its results on their way stay. -/
def Core.restored (c h : Core) : Core :=
  { h with
    run := c.run, code := c.code, codeKey := c.codeKey, handles := c.handles, pc := c.pc, owed := c.owed, transfers := c.transfers, loops := c.loops,
    skip := c.skip, ic := c.ic, raised := c.raised, flights := c.flights, acts := c.acts, writes := c.writes, demand := c.demand, msgPath := c.msgPath,
    board := c.board, treeFree := c.treeFree, matrix := c.matrix, eretPending := c.eretPending, looked := c.looked, popped := c.popped, taken := c.taken,
    landed := c.landed, issuing := c.issuing, handlerFault := c.handlerFault, icache := c.icache, agentPorts := c.agentPorts,
    ctxBusy := c.ctxBusy, causes := h.causes ++ c.causes.filter (fun k => !h.causes.contains k), vacant := c.vacant, chosen := c.chosen, portsUsed := c.portsUsed, tokens := c.tokens,
    injected := c.injected, engines := Vector.ofFn fun e => if (c.engines[e]).queue.isEmpty then h.engines[e] else c.engines[e] }
/-- Events of what the core holds, which its absence left without effect. -/
def State.repost (s : State) (id : Nat) : State :=
  let c := s.core id
  let s1 := if c.forwards.isEmpty then s else s.post .tileForwardArrival (.core id)
  let s2 := if c.trans.isSome then s1.post .transposePush (.core id) else s1
  (List.finRange 64).foldl (fun (s : State) t => if (c.threads[t]).status = .ready ∧ (c.threads[t]).fetched.isNone then s.post .tinkerInstructionFetch (.thread id t.val) else s) s2
/-- The context engine's verdict on the image in a buffer: its check values hold, and it is what this CSAVE wrote, there or elsewhere (R274). -/
def State.imageGood (s : State) (buf : Nat) (h : Hidden) : Bool :=
  s.mem.regionGood (buf + 0x10_0000) (buf + 0x19_0000) && s.mem.region buf 0x10_0000 0x19_0000 == h.image
/-- The image in a buffer: the core's own saved state where it is that, else the last CSAVE's that wrote it. -/
def State.imageIn (s : State) (buf launch id : Nat) : Option Hidden :=
  let good := s.hidden.filter fun h => s.imageGood buf h
  (good.find? fun h => h.live && h.launch == launch && h.id == id).orElse fun _ => good.getLast?
/-- An image that has been read back once: what its core was sent meanwhile has gone with it. -/
def Hidden.loaded (h : Hidden) : Hidden :=
  { h with live := false, core := { h.core with causes := [], endpoints := h.core.endpoints.map fun (e : Endpoint) => { e with resend := [], again := 0, refused := 0 } } }
def execCload (s : State) : Out :=
  match s.cur with
  | .event (.core id) =>
    let c := s.core id
    let gone := s.unpost .cload (.core id)
    let reject := (gone.updCore id fun c => { c with ctxBusy := some .rejected }).post .contextEngineDone (.core id)
    match c.ctxBusy, s.launchOf id with
    | some .load, some l =>
      match s.imageIn c.contextBuffer l.id id with
      | none => .next reject
      | some h =>
          let s1 : State := { gone with mem := s.mem.copyRegion (c.contextBuffer + 0x10_0000) (accKey id 0) 0x4_0000, hidden := s.hidden.map fun x => if x = h then h.loaded else x }
          let s2 := (List.finRange 16).foldl (fun (s : State) k => s.restoreEp id k) (s1.setCore id (c.restored h.core))
          let s3 := (List.finRange 16).foldl (fun (s : State) k => s.resendAny id k) s2
          .next ((s3.repost id).post .contextEngineDone (.core id))
    | _, _ => .next gone
  | _ => .fault .noAgent

/-! ### Cores given back -/

/-- Clear a core (R73): its storage is zero and every register has its launch value. Code memory is not cleared (R363). -/
def State.clearCore (s : State) (id : Nat) : State :=
  let c := s.core id
  let m := (s.mem.zero (spadKey id 0) (spadKey id 0x10_0000)).zero (accKey id 0) (accKey id 0x1_0000)
  ({ s with mem := m, coreFreeze := s.coreFreeze.filter fun f => f.1 != id } : State).setCore id { Core.reset with code := c.code, codeKey := c.codeKey }
/-- A stratum whose role is changing, or that a checkpoint drains (R327, R344). -/
def State.affected (s : State) (z : Nat) : Bool :=
  match s.sequence with
  | some q => q.checkpoint || (decide (min (8 - s.stkN) (8 - q.new) ≤ z) && decide (z < max (8 - s.stkN) (8 - q.new)))
  | none => false
/-- Every core of a pre-empted launch is saved: the launch leaves the device, its cores are free (R275, R365), and a drain counts it (R330). -/
def State.launchSaved (s : State) (l : Launch) : State :=
  let count (q : Sequence) : Sequence := if s.affected l.z then { q with preempted := q.preempted + 1 } else q
  ({ s with sequence := s.sequence.map count } : State).setLaunch { l with phase := .saved } |>.post .launchResume (.launch l.id)
/-- The firmware handler has saved a core: the scratchpad goes to the buffer, and the core is given up (R275). -/
def State.firmwareSaved (s : State) (l : Launch) (id : Nat) : State :=
  let s1 := ({ s with mem := s.mem.copyRegion (spadKey id 0) (s.core id).contextBuffer 0x10_0000 } : State).clearCore id
  if l.cores.all fun c => (s1.core c).run == .idle then s1.launchSaved l else s1
/-- The context engine is done. CERR tells of the last CLOAD, so a save leaves it (R259). -/
def execContextEngineDone (s : State) : Out :=
  match s.cur with
  | .event (.core id) =>
    let gone := s.unpost .contextEngineDone (.core id)
    match (s.core id).ctxBusy with
    | none => .next gone
    | some run =>
      let bit : Word := 0x8_0000_0000
      let stat (x : Word) : Word := match run with | .save => x | .load => x &&& ~~~bit | .rejected => x ||| bit
      let s1 := gone.updCore id fun c => { c with ctxBusy := none, sp := { c.sp with xstat := stat c.sp.xstat } }
      match s1.launchOf id with
      | none => .next s1
      | some l =>
        if l.ownHandler then .next s1
        else if run = .rejected then .next (s1.firmwareFail l ⟨3, 0x0D, (s1.core id).sp.xvalue.toNat, (s1.core id).sp.xpc.toNat, id⟩)
        else if run = .save then .next (s1.firmwareSaved l id)
        else .next (s1.updCore id fun c => { c with eretPending := true })
  | _ => .fault .noAgent

end Sys2Proof.Machine
end

