-- ==== Sys2Proof/Machine/Queues.lean ====
section
/-! DEFINITION. Submission queues and completion rings (R351 to R353, R357, R358), and the freezing of host functions (R355): SQTAIL, INLGO,
CQHEAD, QUEUE_EN. -/
namespace Sys2Proof.Machine

/-! ### Queues -/

def State.queue (s : State) (q : Nat) : Queue := s.queues[Fin.ofNat 64 q]
def State.updQueue (s : State) (q : Nat) (f : Queue → Queue) : State := { s with queues := s.queues.set (Fin.ofNat 64 q) (f (s.queue q)) }
/-- Commands of the submission ring; SQSIZE 9 to 15 read as 8. -/
def Queue.sqRing (q : Queue) : Nat := 2 ^ (min q.sqsize 8 + 4)
def Queue.cqRing (q : Queue) : Nat := 2 ^ (q.cqsize + 4)
def State.fn (s : State) (f : Nat) : Fn := s.fns[Fin.ofNat 17 f]
def State.updFn (s : State) (f : Nat) (g : Fn → Fn) : State := { s with fns := s.fns.set (Fin.ofNat 17 f) (g (s.fn f)) }
def State.fnFrozen (s : State) (f : Nat) : Bool := (s.fn f).frozen.isSome

/-! ### Completion records -/

def Failure.of (status : Nat) : Failure := ⟨status, 0, 0, 0, 0⟩
/-- A completion record's 32 bytes (Table 13.7). -/
def Completion.record (c : Completion) (phase time : Nat) : Nat :=
  c.cid + 2 ^ 32 * (c.status % 2 ^ 8) + 2 ^ 40 * (c.xcause % 2 ^ 8) + 2 ^ 48 * phase + 2 ^ 64 * (c.xvalue % 2 ^ 64) + 2 ^ 128 * (c.xpc % 2 ^ 17)
    + 2 ^ 145 * (c.core % 2 ^ 11) + 2 ^ 192 * (time % 2 ^ 64)
/-- The vectors of a function (R348): 16 of the PF, 15 of each VF. -/
def vecOwned (f v : Nat) : Bool := if f = 0 then decide (v < 16) else decide (16 + 15 * (f - 1) ≤ v) && decide (v ≤ 30 + 15 * (f - 1))
/-- Write a record into its ring, and raise the queue's vector when the command asked for it (R358); a vector of
another function is not raised (R351; DESIGN CHOICE, log 44). -/
def State.writeRecord (s : State) (c : Completion) : State :=
  let q := s.queue c.q
  let n := q.cqRing
  let s1 := s.hostWrite (q.cqbase + 32 * (q.cqcount % n)) 32 (c.record (1 - q.cqcount / n % 2) s.clock)
  let s2 := s1.updQueue c.q fun q => { q with cqcount := q.cqcount + 1, cqused := q.cqused + 1 }
  if c.irq && vecOwned q.fn q.vec then s2.raiseVec q.vec else s2
/-- Report a completion; it is held while the ring is full or the function frozen, and behind an earlier one of its queue (R353, R355). -/
def State.report (s : State) (c : Completion) : State :=
  let q := s.queue c.q
  if decide (q.cqused < q.cqRing) && !(s.fnFrozen q.fn) && !(s.held.any fun h => h.q == c.q) then s.writeRecord c else { s with held := s.held ++ [c] }
/-- Write what can be written of the held completions. -/
def State.flushHeld (s : State) : State := s.held.foldl State.report { s with held := [] }

/-! ### Commands -/

def HostCmd.opcode (k : HostCmd) : Nat := bits k.body 7 0
def HostCmd.ord (k : HostCmd) : Bool := bits k.body 8 8 == 1
def HostCmd.irq (k : HostCmd) : Bool := bits k.body 9 9 == 1
def HostCmd.cid (k : HostCmd) : Nat := bits k.body 63 32
/-- Bytes `lo` to `hi` of the command. -/
def HostCmd.field (k : HostCmd) (hi lo : Nat) : Nat := bits k.body (8 * hi + 7) (8 * lo)
/-- The step of a command's opcode (Table 13.6). -/
def cmdInstr (op : Nat) : Option Instr :=
  match op with
  | 0x01 => some .cmdLaunch
  | 0x02 => some .cmdGraph
  | 0x03 => some .cmdCopy
  | 0x04 => some .cmdSignal
  | 0x05 => some .cmdWait
  | 0x10 => some .cmdPartition
  | 0x11 => some .cmdCheckpoint
  | 0x12 => some .cmdFreezeClear
  | 0x13 => some .cmdInval
  | 0x14 => some .cmdHtset
  | 0x15 => some .cmdAttest
  | _ => none
def State.hostCmd (s : State) (uid : Nat) : Option HostCmd := s.cmds.find? fun k => k.uid == uid
def State.putHostCmd (s : State) (k : HostCmd) : State := { s with cmds := s.cmds.map fun x => if x.uid = k.uid then k else x }
/-- A command ends with one completion record. -/
def State.finishCmd (s : State) (k : HostCmd) (f : Failure) : State :=
  let s1 : State := { s with cmds := s.cmds.filter fun x => x.uid != k.uid }
  let s2 := match cmdInstr k.opcode with | some i => s1.unpost i (.num k.uid) | none => s1
  s2.report { q := k.q, cid := k.cid, irq := k.irq, status := f.status, xcause := f.xcause, xvalue := f.xvalue, xpc := f.xpc, core := f.core }
/-- A command that function `f` submits is taken in. One of another opcode, with a nonzero reserved header field, or of the PF on a VF's queue ends with status 1. -/
def State.takeCmd (s : State) (q f body : Nat) : State :=
  let k : HostCmd := { uid := s.nextUid, q, body, started := false, off := 0, step := 0, info := 0, behind := [], by_ := f, since := s.tick }
  let s1 : State := { s with cmds := s.cmds ++ [k], nextUid := s.nextUid + 1 }
  match cmdInstr k.opcode with
  | none => s1.finishCmd k (Failure.of 1)
  | some i => if bits body 31 10 ≠ 0 ∨ (0x10 ≤ k.opcode ∧ (s.queue q).fn ≠ 0) then s1.finishCmd k (Failure.of 1) else s1.post i (.num k.uid)

/-! ### Choosing (R357) -/

/-- BAR 2 writes of the submitting function, delivered before its doorbell or INLGO, that are still to be performed: they happen before every access of
the command (R400). -/
def State.writesBefore (s : State) (k : HostCmd) : Bool := s.bar2.any fun a => a.data.isSome && a.fn == k.by_ && decide (a.since < k.since)
/-- It is the command's turn in its queue: nothing else stands in its way than what its own kind waits for. -/
def State.turn (s : State) (k : HostCmd) : Bool :=
  let q := s.queue k.q
  let before := (s.cmds.takeWhile fun x => x.uid != k.uid).filter fun x => x.q == k.q
  s.ready && q.en && !(s.fnFrozen q.fn) && !k.started && before.all (fun x => x.started) && (!k.ord || before.isEmpty) && !(s.writesBefore k)
/-- How far a queue stands behind the last one served at its level. -/
def State.behind (s : State) (q : Nat) : Nat := (q + 63 - s.served[Fin.ofNat 4 (s.queue q).prio]) % 64
/-- A command starts. -/
def State.startCmd (s : State) (k : HostCmd) : State :=
  { s.putHostCmd { k with started := true } with served := s.served.set (Fin.ofNat 4 (s.queue k.q).prio) k.q }

/-! ### Host functions (R355) -/

/-- Freeze a function, with a record of KIND 6. -/
def State.freezeFn (s : State) (f addr : Nat) : State :=
  if s.fnFrozen f then s
  else
    let g := s.fn f
    let (s1, n) := s.freezeRecord (6 + 2 ^ 32 * f + 2 ^ 64 * (s.clock % 2 ^ 64) + 2 ^ 256 * (addr % 2 ^ 48) + 2 ^ 304 * g.space + 2 ^ 320 * g.tenant)
    s1.updFn f fun g => { g with frozen := some n }
/-- Whether a function's doorbells and writes count: the device is ready, the function not frozen, and the page is in its BAR 0. -/
def State.pageOpen (s : State) (f q : Nat) : Bool := !(s.fnFrozen f) && (f == 0 || (s.queue q).fn == f)

/-! ### Doorbells -/

/-- Fetch commands in ring order up to the tail. -/
def State.fetchRing (s : State) (q f : Nat) : Nat → State
  | 0 => s
  | n + 1 =>
    let x := s.queue q
    let body := s.mem.read (hostKey (x.sqbase + 128 * (x.sqhead % x.sqRing))) 128
    ((s.takeCmd q f body).updQueue q fun x => { x with sqhead := (x.sqhead + 1) % x.sqRing }).fetchRing q f n
def execSqtail (s : State) : Out :=
  match s.cur with
  | .event (.queue q f v) =>
    if 64 ≤ q ∨ 17 ≤ f then .fault .noSuchUnit
    else
      let x := s.queue q
      if s.ready && s.pageOpen f q && x.en then .next (s.fetchRing q f ((v % 2 ^ 16 + x.sqRing - x.sqhead % x.sqRing) % x.sqRing)) else .next s
  | _ => .fault .noAgent
/-- INLGO submits the window as one command; the ring indices do not change (R352). -/
def execInlgo (s : State) : Out :=
  match s.cur with
  | .event (.queue q f v) =>
    if 64 ≤ q ∨ 17 ≤ f then .fault .noSuchUnit
    else if s.ready && s.pageOpen f q && (s.queue q).en && v % 2 == 1 then .next (s.takeCmd q f (s.queue q).inline) else .next s
  | _ => .fault .noAgent
/-- The host has consumed records up to an index: held completions are written (R353). -/
def execCqhead (s : State) : Out :=
  match s.cur with
  | .event (.queue q f v) =>
    if 64 ≤ q ∨ 17 ≤ f then .fault .noSuchUnit
    else if s.ready && s.pageOpen f q then
      let x := s.queue q
      let n := x.cqRing
      let old := (x.cqcount - x.cqused) % n
      .next (s.updQueue q fun x => { x with cqused := x.cqused - (v % 2 ^ 16 % n + n - old) % n }).flushHeld
    else .next s
  | _ => .fault .noAgent
/-- EN of a queue; 0 cancels every command not yet started (R351). -/
def State.setEn (s : State) (q : Nat) (en : Bool) : State :=
  let s1 := s.updQueue q fun x => { x with en }
  if en then s1 else (s1.cmds.filter fun k => k.q == q && !k.started).foldl (fun (s : State) k => s.finishCmd k (Failure.of 6)) s1
def execQueueEn (s : State) : Out :=
  match s.cur with
  | .event (.queue q f v) =>
    if 64 ≤ q ∨ 17 ≤ f then .fault .noSuchUnit
    else if s.power && s.pageOpen f q then .next (s.setEn q (v % 2 == 1)) else .next s
  | _ => .fault .noAgent

end Sys2Proof.Machine
end

