-- ==== Sys2Proof/Machine/Launch.lean ====
section
/-! DEFINITION. The launch path (R359 to R366): the record, its checks, placement and pre-emption, the broadcast and the release, channels'
peers (R291), resumption, retirement, and the steps of a launch graph (R367). -/
namespace Sys2Proof.Machine

/-! ### Reading for a launch -/

/-- The reason and the level of the fault that a read of the command processor meets (R314); none where it may read (log 26). -/
def State.cpFault (s : State) (q : TransReq) : Option (Nat × Nat) :=
  if 2 ^ 48 ≤ q.va then some (4, 3)
  else match s.walkTables q.space q.va with
  | .fault reason level => some (reason, level)
  | .leaf l _ =>
    if !l.permits q.tenant q.kind then some (5, sizeLevel l.size)
    else if !s.stateOk l q.va then some (3, sizeLevel l.size) else none
/-- Bytes of device memory as the command processor reads them for a space and tenant. -/
def State.cpBytes (s : State) (space tenant va n kind : Nat) : Option (List Byte) :=
  match s.cpFault { space := space, tenant := tenant, va := va, kind := kind }, s.walkTables space va with
  | none, .leaf l _ => some (s.mem.devRead l (l.page + va % 2 ^ l.size) n false).bytes
  | _, _ => none
/-- The same of any length, in pieces of 64 bytes; a piece that crosses a page is read byte by byte. -/
def State.cpPiece (s : State) (space tenant va n kind : Nat) : Option (List Byte) :=
  if va / 2 ^ 16 = (va + n - 1) / 2 ^ 16 then s.cpBytes space tenant va n kind
  else (List.range n).foldr (fun i acc => match acc, s.cpBytes space tenant (va + i) 1 kind with | some x, some b => some (b ++ x) | _, _ => none) (some [])
def State.cpRead (s : State) (space tenant va kind : Nat) : Nat → Option (List Byte)
  | 0 => some []
  | k + 1 =>
    match s.cpPiece space tenant va 64 kind, s.cpRead space tenant (va + 64) kind k with
    | some a, some b => some (a ++ b)
    | _, _ => none
/-- A stretch of device memory that the command processor reads: an address, the kind of access, and a count of lines. -/
structure CpRead where
  va : Nat
  kind : Nat
  lines : Nat
  deriving DecidableEq, Repr
/-- The ends of the lines of such stretches, as requests. -/
def cpReqs (space tenant : Nat) (reads : List CpRead) : List TransReq :=
  reads.flatMap fun x => (List.range x.lines).flatMap fun i => [64 * i, 64 * i + 63].map fun o => { space := space, tenant := tenant, va := x.va + o, kind := x.kind }
/-- The first fault that requests of the command processor meet is recorded at its station (R316, log 26). -/
def State.cpLog (s : State) (reqs : List TransReq) : State :=
  match reqs.findSome? fun q => (s.cpFault q).map fun p => (q, p) with
  | some (q, reason, level) => s.logFault 0 q reason level 0
  | none => s
/-- What the command processor reads is written back corrected: entries of the tables, and the lines (R309). -/
def State.cpScrub (s : State) (reqs : List TransReq) : State :=
  if s.mem.ecc1.isEmpty then s
  else reqs.foldl (fun (s : State) q =>
    let s1 := s.scrubWalk q.space q.va
    match s1.walkTables q.space q.va with
    | .leaf l _ => { s1 with mem := s1.mem.scrubRead l (lineOf (l.page + q.va % 2 ^ l.size)) 64 }
    | .fault _ _ => s1) s
/-- A line that the command processor would read is owned: it waits for the recall (R318). -/
def State.cpOwned (s : State) (reqs : List TransReq) : Bool :=
  !s.owned.isEmpty && reqs.any fun q => match s.whereIs q.space q.va with | some a => (s.ownerOf (lineOf a)).isSome | none => false

/-! ### The launch record (Table 13.8) -/

def recImage (r : Nat) : Nat := bits r 111 64
def recLines (r : Nat) : Nat := bits r 123 112 + 1
def recTag (r : Nat) : Nat := bits r 143 128
def recW (r : Nat) : Nat := bits r 147 144 + 1
def recH (r : Nat) : Nat := bits r 151 148 + 1
def recTinkers (r : Nat) : Nat := bits r 158 152
def recPreen (r : Nat) : Bool := bits r 159 159 == 1
def recSpace (r : Nat) : Nat := bits r 175 160
def recTenant (r : Nat) : Nat := bits r 191 176
def recPrio (r : Nat) : Nat := bits r 193 192
def recL4 (r : Nat) : Bool := bits r 196 196 == 1
def recSeg (r : Nat) : Bool := bits r 197 197 == 1
def recShape (r : Nat) : Nat := bits r 255 208
def recChan (r : Nat) : Nat := bits r 303 256
def recPort (r : Nat) : Nat := bits r 351 304
def recHand (r : Nat) : Nat := bits r 399 352
def recReserved (r : Nat) : Bool := bits r 127 124 != 0 || bits r 207 198 != 0 || bits r 447 400 != 0 || bits r 1023 512 != 0

/-- What a launch reads at its first step: the shape record, the channel words in rank order, and the porter context template. -/
structure LaunchTables where
  shape : Nat
  words : List Nat
  port : Nat
  deriving DecidableEq, Repr
def State.launchTables (s : State) (r : Nat) : Option LaunchTables :=
  let n := recW r * recH r
  let sp := recSpace r
  let tn := recTenant r
  match s.cpRead sp tn (recShape r) 0 4, (if recChan r = 0 then some (List.replicate (128 * n) 0) else s.cpRead sp tn (recChan r) 0 (2 * n)),
      (if recPort r = 0 then some [] else s.cpRead sp tn (recPort r) 0 1) with
  | some a, some b, some p => let w := natOf b; some ⟨natOf a, (List.range (16 * n)).map fun i => w / 2 ^ (64 * i) % 2 ^ 64, natOf p⟩
  | _, _, _ => none
def LaunchTables.word (t : LaunchTables) (rank ep : Nat) : Nat := t.words.getD (16 * rank + ep) 0

/-! ### Shapes and slices (R361) -/

/-- Dimension `k` of a shape record. -/
def shapeDim (x k : Nat) : Nat := x / 2 ^ (128 * k) % 2 ^ 128
def dimMode (d : Nat) : Nat := bits d 33 32
def dimBad (d : Nat) : Bool :=
  dimMode d != 0 && (bits d 48 40 == 0 || bits d 57 49 == 0 || (dimMode d == 3 && bits d 95 64 == 0) || bits d 39 34 != 0 || bits d 63 58 != 0)
/-- `slice(k)`: START and LEN of a dimension for a rank. The blocks owned are `ck`, `ck + PARTS`, …, the last one of the dimension maybe short. -/
def sliceOf (d rank : Nat) : Nat × Nat :=
  if dimMode d = 0 then (0, 0)
  else
    let extent := bits d 31 0
    let parts := bits d 48 40
    let ck := rank / bits d 57 49 % parts
    let b := if dimMode d = 1 then (extent + parts - 1) / parts else if dimMode d = 2 then 1 else bits d 95 64
    let total := (extent + b - 1) / b
    if b = 0 ∨ total ≤ ck then (ck * b, 0)
    else
      let count := (total - 1 - ck) / parts + 1
      (ck * b, count * b - (if (total - 1 - ck) % parts = 0 then total * b - extent else 0))
def sliceWord (d rank : Nat) : Word := BitVec.ofNat 64 ((sliceOf d rank).1 % 2 ^ 32 + 2 ^ 32 * ((sliceOf d rank).2 % 2 ^ 32))

/-! ### Channel words (R290, R291) -/

def epMode (w : Nat) : Nat := bits w 1 0
def epPath (w : Nat) : Nat := bits w 4 3
def epPeer (w : Nat) : Nat := bits w 15 5
def epPeerCh (w : Nat) : Nat := bits w 19 16
def epRoute (w : Nat) : Nat := bits w 35 20
def epBy (w : Nat) : Bool := bits w 36 36 == 1
/-- A word that breaks R290 or R291 in a domain of `n` cores: a reserved value or bit, or a ROUTE where Table 10.3 has none. -/
def epBad (n w : Nat) : Bool :=
  bits w 63 37 != 0 || epMode w == 3 || (epMode w != 0 && (epPath w == 3 || (epPath w == 2 && epBy w) ||
    (epRoute w != 0 && (epPath w == 0 || (epPath w == 1 && !epBy w))) || (epPath w == 0 && epBy w && (bits w 15 13 != 0 || decide (n ≤ bits w 12 5))) || (epPath w == 1 && epBy w && epPeer w != 0)))
/-- Cores named as absolute PATH 0 peers. -/
def LaunchTables.absolute (t : LaunchTables) : List Nat := (t.words.filter fun w => epMode w != 0 && epPath w == 0 && !epBy w).map epPeer
/-- The conditions of R407 that no placement changes, and the group slots named. -/
def State.routeBad (s : State) (r w : Nat) : Bool :=
  let e := s.routeWord (epRoute w)
  bits w 2 2 == 0 || bits e 0 0 == 0 || bits e 1 1 != epMode w - 1 || bits e 143 128 != recSpace r || bits e 159 144 != recTenant r
def LaunchTables.path2 (t : LaunchTables) : List Nat := t.words.filter fun w => epMode w != 0 && epPath w == 2
def State.groupSlots (s : State) (t : LaunchTables) : List Nat :=
  t.path2.filterMap fun w => let e := s.routeWord (epRoute w); if bits e 47 47 = 1 then some (bits e 55 48) else none

/-! ### Checks of the record (R359) -/

/-- A porter context template that names misaligned places, or a go word that no porter serves (R320). -/
def State.portBad (s : State) (r p : Nat) : Bool :=
  recPort r != 0 && bits p 45 45 == 1 &&
    (bits p 111 64 % 8 != 0 || bits p 159 112 % 8 != 0 || bits p 223 176 % 64 != 0 || bits p 287 240 % 16 != 0 || (s.whereIs (recSpace r) (bits p 159 112)).isNone)
/-- What a launch reads: shape, channel words and context template; and, last, handler and image. -/
def launchReads (r : Nat) : List CpRead × List CpRead :=
  let part (a kind k : Nat) : List CpRead := if a = 0 then [] else [⟨a, kind, k⟩]
  (⟨recShape r, 0, 4⟩ :: part (recChan r) 0 (2 * (recW r * recH r)) ++ part (recPort r) 0 1, part (recHand r) 2 64 ++ [⟨recImage r, 2, recLines r⟩])
/-- The same as requests. -/
def launchReqs (r : Nat) : List TransReq := cpReqs (recSpace r) (recTenant r) ((launchReads r).1 ++ (launchReads r).2)
/-- The handle table of a launch: the slot bound to its space (R209). -/
def State.handleTable (s : State) (r : Nat) : Option Nat :=
  if recSeg r then (s.slots.find? fun x => x.1 == recSpace r).map fun x => s.mgmt.htbase + 65536 * x.2 else none
/-- What a launch reads is owned: it waits for the recall (R318). -/
def State.launchBusy (s : State) (r : Nat) : Bool :=
  s.cpOwned (launchReqs r) || (match s.handleTable r with | some a => s.owned.any fun o => decide (a ≤ o.line) && decide (o.line < a + 65536) | none => false)
/-- Refused with status 1 by its record alone. -/
def State.recordBad (s : State) (q : Queue) (r : Nat) : Bool :=
  recSpace r != q.qspace || recTenant r != q.qtenant || decide (64 < recTinkers r) || decide (1984 < recLines r) || recImage r % 64 != 0 ||
    recShape r % 256 != 0 || recReserved r || (recSeg r && !(s.slots.any fun x => x.1 == recSpace r))
/-- Refused with status 1 by its tables, its handler among them. -/
def State.tablesBad (s : State) (r : Nat) (t : LaunchTables) : Bool :=
  ((List.range 8).any fun k => dimBad (shapeDim t.shape k)) || t.words.any (epBad (recW r * recH r)) || t.path2.any (s.routeBad r) ||
    (match s.groupSlots t with | [] => false | g :: gs => gs.any fun x => x != g) || s.portBad r t.port ||
    (recHand r != 0 && (s.cpRead (recSpace r) (recTenant r) (recHand r) 2 64).isNone)

/-! ### Placement (R364) -/

/-- A rectangle of cores on a stratum. -/
structure Rect where
  z : Nat
  x0 : Nat
  y0 : Nat
  w : Nat
  h : Nat
  deriving DecidableEq, Repr
/-- Its cores in rank order (R9). -/
def Rect.cores (r : Rect) : List Nat := (List.range (r.w * r.h)).map fun k => coreId r.z (r.x0 + k % r.w) (r.y0 + k / r.w)
/-- The rectangles of a shape in the order of the search. -/
def State.rects (s : State) (w h : Nat) : List Rect :=
  (List.range s.stkN).flatMap fun i => (List.range (17 - h)).flatMap fun y => (List.range (17 - w)).map fun x => ⟨7 - i, x, y, w, h⟩
def State.isFree (s : State) (c : Nat) : Bool := !(s.launches.any fun l => l.phase != .saved && l.cores.contains c)
/-- A rectangle as a number, for the command that waits for it. -/
def Rect.code (r : Rect) : Nat := 1 + 2 * (r.z + 2 ^ 4 * r.x0 + 2 ^ 8 * r.y0 + 2 ^ 12 * r.w + 2 ^ 20 * r.h)
def rectOfCode (n : Nat) : Rect := let x := n / 2; ⟨bits x 3 0, bits x 7 4, bits x 11 8, bits x 19 12, bits x 27 20⟩
/-- A core that a command other than `uid` waits for: launches were pre-empted for it (R365). -/
def State.claimed (s : State) (uid : Option Nat) (c : Nat) : Bool :=
  s.cmds.any fun k => some k.uid != uid && k.info != 0 && (cmdInstr k.opcode == some .cmdLaunch || cmdInstr k.opcode == some .cmdGraph) && (rectOfCode k.info).cores.contains c
/-- The image of a record can be loaded where it must be: into cores that hold another (R363). -/
def State.imageThere (s : State) (r : Nat) (c : Rect) : Bool :=
  (c.cores.all fun k => (s.core k).codeKey == some (recSpace r, recImage r, recTag r)) ||
    (s.cpRead (recSpace r) (recTenant r) (recImage r) 2 (recLines r)).isSome
/-- The first rectangle whose cores are free and that holds every absolute peer. -/
def State.firstFit (s : State) (free : Nat → Bool) (w h : Nat) (peers : List Nat) : Option Rect :=
  (s.rects w h).find? fun r => let cs := r.cores; cs.all free && peers.all fun p => cs.contains p
/-- How a launch stands: refused with a status, to be placed on a rectangle, or waiting. -/
inductive Standing where
  | refused (status : Nat) | fits (r : Rect) (t : LaunchTables)
  /-- it finds no rectangle (R365) -/
  | waits (t : LaunchTables)
  /-- its rectangle lies on an affected stratum (R364) -/
  | blocked
  deriving DecidableEq, Repr
def State.standing (s : State) (q : Queue) (uid r : Nat) : Standing :=
  if s.recordBad q r then .refused 1
  else match s.launchTables r with
    | none => .refused 1
    | some t =>
      if s.tablesBad r t then .refused 1
      else if (s.firstFit (fun _ => true) (recW r) (recH r) t.absolute).isNone then .refused 2
      else match s.firstFit (fun c => s.isFree c && !s.claimed (some uid) c) (recW r) (recH r) t.absolute with
        | some c => if s.affected c.z then .blocked else if s.imageThere r c then .fits c t else .refused 1
        | none => .waits t
def Standing.starts (x : Standing) : Bool := match x with | .waits _ => false | .blocked => false | _ => true

/-- The go word that a template names, where no porter serves it. -/
def State.goReq (s : State) (r : Nat) : List TransReq :=
  match s.launchTables r with
  | some t =>
    let va := bits t.port 159 112
    if recPort r ≠ 0 ∧ bits t.port 45 45 = 1 ∧ (s.whereIs (recSpace r) va).isNone then [{ space := recSpace r, tenant := recTenant r, va := va, kind := 0 }] else []
  | none => []
/-- A record refused with a status: what its reads met is written back, and the fault of one of them, the image among them where nothing else refuses it,
is recorded (R309, R316). -/
def State.logRefusal (s : State) (q : Queue) (r status : Nat) : State :=
  if status ≠ 1 ∨ s.recordBad q r then s
  else
    let x := launchReads r
    let last := if (s.launchTables r).any (s.tablesBad r) then x.2.dropLast else x.2
    let of := cpReqs (recSpace r) (recTenant r)
    (s.cpLog (of x.1 ++ s.goReq r ++ of last)).cpScrub (of x.1)

/-! ### What can start (R357, R362, R367) -/

/-- A node's launch record. -/
def State.graphBody (s : State) (q : Queue) (addr i : Nat) : Option Nat := (s.cpRead q.qspace q.qtenant (addr + 1024 + 128 * i) 0 2).map natOf
/-- The graph of a record; none where it is refused with status 1: misaligned or unreadable, a bad count or mask, not exactly one sink, or a
node's record whose header is no LAUNCH's (R359). -/
def State.graphRecord (s : State) (q : Queue) (uid addr : Nat) : Option Graph :=
  if addr % 128 ≠ 0 ∨ 2 ^ 48 ≤ addr then none
  else match s.cpRead q.qspace q.qtenant addr 0 16 with
    | none => none
    | some bs =>
      let x := natOf bs
      let n := bits x 6 0
      let preds := (List.range n).map fun i => x / 2 ^ (512 + 64 * i) % 2 ^ 64
      let sinks := (List.range n).filter fun i => preds.all fun p => bits p i i == 0
      let bodies := (List.range n).filterMap (s.graphBody q addr)
      let headBad (b : Nat) : Bool := bits b 7 0 != 1 || bits b 31 10 != 0
      if bodies.any headBad ∨ n = 0 ∨ 64 < n ∨ ((List.range n).any fun i => decide (2 ^ i ≤ preds.getD i 0)) ∨ sinks.length ≠ 1 ∨ bodies.length ≠ n then none
      else some { uid, addr, preds, nodes := List.replicate n 0, bodies }
/-- What is read of a graph's record. -/
def State.graphReqs (s : State) (q : Queue) (addr : Nat) : List TransReq :=
  let n := match s.cpRead q.qspace q.qtenant addr 0 16 with | some bs => bits (natOf bs) 6 0 | none => 0
  cpReqs q.qspace q.qtenant [⟨addr, 0, 16⟩, ⟨addr + 1024, 0, 2 * n⟩]
/-- A graph refused: the fault that the reads of its header and nodes met is recorded (R316). -/
def State.logGraph (s : State) (q : Queue) (addr : Nat) : State :=
  if addr % 128 ≠ 0 ∨ 2 ^ 48 ≤ addr then s else (s.cpLog (s.graphReqs q addr)).cpScrub (s.graphReqs q addr)
/-- A launch can start: what it reads is not owned, and it is refused or has a rectangle. -/
def State.launchCan (s : State) (q : Queue) (uid r : Nat) : Bool := (s.recordBad q r || !(s.launchBusy r)) && (s.standing q uid r).starts
/-- A graph can start when it is refused or a node without predecessors can be placed. -/
def State.graphCan (s : State) (k : HostCmd) : Bool :=
  let q := s.queue k.q
  !(s.cpOwned (s.graphReqs q (k.field 15 8))) &&
  match s.graphRecord q k.uid (k.field 15 8) with
  | none => true
  | some g => (List.range g.nodes.length).any fun i => g.preds.getD i 0 == 0 && s.launchCan q k.uid (g.bodies.getD i 0)
/-- A function owns a token when management gave it to it; the PF is management (log 19). -/
def ownsToken (f t : Nat) : Bool := f == 0 || Config.tokenFn t == f
def HostCmd.token (k : HostCmd) : Nat := bits (k.field 15 8) 11 0
/-- A WAIT that is satisfied, or that names a token its function does not own (R362). -/
def State.waitCan (s : State) (k : HostCmd) : Bool :=
  !(ownsToken (s.queue k.q).fn k.token) || decide (k.field 23 16 ≤ sget 0 s.tokens k.token)
/-- PARTITION's parameters that refuse it, or change nothing (R327). -/
def badPartition (x : Nat) : Bool := bits x 3 0 == 0 || decide (8 < bits x 3 0) || bits x 7 5 != 0 || bits x 63 32 != 0
/-- What a command waits for besides its turn. -/
def State.canStart (s : State) (k : HostCmd) : Bool :=
  match cmdInstr k.opcode with
  | some .cmdLaunch => s.launchCan (s.queue k.q) k.uid k.body
  | some .cmdGraph => s.graphCan k
  | some .cmdWait => s.waitCan k
  | some .cmdPartition => s.sequence.isNone
  | some .cmdCheckpoint => s.sequence.isNone
  | _ => true
/-- The CP's choice among the commands that can start: the highest level, and by round robin within it. -/
def State.chosen (s : State) (k : HostCmd) : Bool :=
  s.turn k && s.canStart k && !(s.cmds.any fun x => s.turn x && s.canStart x && (decide ((s.queue k.q).prio < (s.queue x.q).prio) ||
    ((s.queue x.q).prio == (s.queue k.q).prio && decide (s.behind x.q < s.behind k.q))))

/-! ### Pre-emption (R365, R273, R416) -/

def Launch.gang (s : State) (l : Launch) : Bool := match l.groupSlot with | some g => s.sliceUs g != 0 | none => false
/-- A launch that every core of can be asked to leave. -/
def State.canLeave (s : State) (l : Launch) : Bool :=
  l.preen && l.started && l.phase == .running && l.cores.all (fun c => (s.core c).live) && (!(l.gang s) || l.sliceOver)
/-- Addresses of context buffers not in use (log 19). -/
def State.freshBuffers (s : State) (n : Nat) : List Nat :=
  let used := s.launches.flatMap fun l => l.buffers.map (·.2)
  let at_ (k : Nat) : Nat := (Config.bufferBase + 26 * k) * 2 ^ 16 % 0x30_0000_0000
  ((((List.range (n + used.length)).map at_).filter fun a => !used.contains a)).take n
/-- Request a launch's pre-emption: the runs of its context end, buffers are reserved, and every core hears of it. -/
def State.requestPreempt (s : State) (l : Launch) : State :=
  let s1 := s.endRuns l.ctag
  let l1 := { l with buffers := l.cores.zip (s.freshBuffers l.cores.length) }
  ({ s1 with launches := (s1.launches.filter fun k => k.id != l.id) ++ [l1] } : State).post .preempt (.launch l.id)
/-- The same for a gang member, whose other members leave too (R416). -/
def State.preemptLaunch (s : State) (l : Launch) : State :=
  match l.groupSlot with
  | some g => if l.gang s then (s.sendMembers g 11 0 []).requestPreempt l else s.requestPreempt l
  | none => s.requestPreempt l
/-- The rectangle a waiting launch would have if launches of lower priority left. -/
def State.leaveRect (s : State) (r : Nat) (t : LaunchTables) : Option Rect :=
  let leaves (l : Launch) : Bool := decide (l.prio < recPrio r) && s.canLeave l
  match s.firstFit (fun c => !s.claimed none c && (s.isFree c || s.launches.any fun l => l.cores.contains c && leaves l)) (recW r) (recH r) t.absolute with
  | some c => if s.affected c.z then none else some c
  | none => none
/-- Ask for cores by pre-emption, once. -/
def State.seekCores (s : State) (k : HostCmd) (r : Nat) (t : LaunchTables) : State :=
  if k.info ≠ 0 then s
  else match s.leaveRect r t with
    | none => s
    | some c =>
      let ls := s.launches.filter fun l => l.phase == .running && l.cores.any fun x => c.cores.contains x
      ls.foldl State.preemptLaunch (s.putHostCmd { k with info := c.code })
/-! ### Taking the rectangle (steps 2 and 3) -/

/-- A free context tag. -/
def State.freeCtag (s : State) : Option Nat := ((List.range 4095).map (· + 1)).find? fun t => !(s.launches.any fun l => l.ctag == t)
/-- The porter context record of a launch, from its template. -/
def contextRecord (t : LaunchTables) (r ctag : Nat) (c : Rect) : Nat :=
  let p := t.port
  recSpace r + 2 ^ 16 * recTenant r + 2 ^ 32 * ctag + 2 ^ 44 + 2 ^ 45 * (if recPort r = 0 then 0 else bits p 45 45) + 2 ^ 64 * (bits p 303 64)
    + 2 ^ 304 * (c.z + 2 ^ 3 * c.x0 + 2 ^ 7 * c.y0 + 2 ^ 11 * (c.w - 1) + 2 ^ 15 * (c.h - 1))
/-- What the buffer-handle table learns of a launch (R368). -/
def State.noteBuffers (s : State) (r lid : Nat) (cores : List Nat) : State :=
  (List.range 4).foldl (fun (s : State) j =>
    let x := bits r (463 + 16 * j) (448 + 16 * j)
    let h := bits x 11 0
    let e := sget (⟨none, []⟩ : BufHandle) s.buffers h
    if bits x 14 14 = 1 then { s with buffers := sput ⟨none, []⟩ s.buffers h ⟨some (lid, cores), []⟩ }
    else if bits x 13 13 = 1 then { s with buffers := sput ⟨none, []⟩ s.buffers h { e with readers := e.readers ++ [lid] } }
    else s) s
/-- A PATH 2 endpoint of a launch: its core, its number, its word. -/
structure FabricEnd where
  core : Nat
  ch : Nat
  word : Nat
  deriving DecidableEq, Repr
def LaunchTables.ends (t : LaunchTables) (cores : List Nat) : List FabricEnd :=
  (cores.zip (List.range cores.length)).flatMap fun x => (List.range 16).filterMap fun ch =>
    let w := t.word x.2 ch
    if epMode w ≠ 0 ∧ epPath w = 2 then some ⟨x.1, ch, w⟩ else none
/-- Whether a route is an endpoint's own: its entry names the endpoint, and no launch holds it (R407, log 22). -/
def State.ownRoute (s : State) (x : FabricEnd) : Bool :=
  let h := epRoute x.word
  let e := s.routeWord h
  bits e 42 32 == x.core && bits e 46 43 == x.ch && (s.route h).owner.isNone
/-- The group slot of which a launch is this module's member: that of its routes, where each is its own (R407). -/
def State.slotOf (s : State) (t : LaunchTables) (cores : List Nat) : Option Nat :=
  if (t.ends cores).all s.ownRoute then (s.groupSlots t).head? else none
/-- A launch is placed with the fabric tables as they are, and its group's commit word with the value it has (R405, R413). -/
def State.fixTables (s : State) (l : Launch) (t : LaunchTables) : State :=
  let s1 := (t.ends l.cores).foldl (fun (s : State) x => if s.ownRoute x then s.fixRoute (epRoute x.word) l.id else s) s
  match l.groupSlot with
  | some g =>
    if s.launches.any fun k => k.groupSlot == some g && k.id != l.id then s1 else
    let s2 := s1.fixGroup g
    s2.updGroup g fun x => { x with commit := match s2.whereIs l.space (s2.commitVa g) with | some a => s2.mem.read a 8 | none => 0 }
  | none => s1
/-- Place a launch: its cores, its tag, its context record, its endpoints' words. -/
def State.place (s0 : State) (uid : Nat) (graph : Option (Nat × Nat)) (q : Queue) (r : Nat) (c : Rect) (t : LaunchTables) (ctag : Nat) : State :=
  let s := s0.cpScrub (launchReqs r)
  let l : Launch := {
    id := s.nextLaunch, cores := c.cores, z := c.z, x0 := c.x0, y0 := c.y0, width := c.w, height := c.h, space := recSpace r, tenant := recTenant r,
    l4 := recL4 r, tinkers := recTinkers r, stealDom := bits r 195 194, stall := 0, started := false, ctag, prio := recPrio r, preen := recPreen r,
    body := r, uid, graph, fn := q.fn, phase := .placing, failure := none, groupSlot := s.slotOf t c.cores, epoch := 0, released := 0,
    sliceOver := false, buffers := [] }
  let s1 : State := { s with launches := s.launches ++ [l], nextLaunch := s.nextLaunch + 1, aside := if 2 ≤ l.stealDom then nput s.aside l.z else s.aside, mem := s.mem.write (s.ctxRecord ctag) 64 (contextRecord t r ctag c) }
  let s2 := (s1.noteBuffers r l.id l.cores).fixTables l t
  (l.cores.zip (List.range l.cores.length)).foldl (fun (s : State) x => s.updCore x.1 fun k =>
    { k with launch := l.id, endpoints := Vector.ofFn fun e => { Endpoint.empty with config := t.word x.2 e.val } }) s2

/-! ### Peers (R291) -/

def portName (l : Launch) (core : Nat) : Nat := core + 2 ^ 11 * l.id
/-- The peer that an endpoint's word names on the timed plane. -/
def Launch.peer0 (l : Launch) (w : Nat) : Nat := if epBy w then l.cores.getD (bits w 12 5) 0 else epPeer w
/-- Modes of the two ends of a channel. -/
def opposite (a b : Nat) : Bool := (a == 1 && b == 2) || (a == 2 && b == 1)
def State.epWord (s : State) (core ch : Nat) : Nat := ((s.core core).endpoints[Fin.ofNat 16 ch]).config
/-- Whether a core's endpoint can be resolved: the two ends name each other, a PATH 2 route is this endpoint's own. -/
def State.epResolves (s : State) (l : Launch) (core ch : Nat) : Bool :=
  let w := s.epWord core ch
  if epMode w = 0 then true
  else match epPath w with
    | 0 =>
      let p := l.peer0 w
      let x := s.epWord p (epPeerCh w)
      l.cores.contains p && opposite (epMode w) (epMode x) && epPath x == 0 && l.peer0 x == core && epPeerCh x == ch
    | 1 =>
      epBy w || (match s.launchOf (epPeer w) with
        | some m =>
          let x := s.epWord (epPeer w) (epPeerCh w)
          m.id != l.id && m.space == l.space && m.tenant == l.tenant && epPath x == 1 && !epBy x && opposite (epMode w) (epMode x) && epPeer x == core && epPeerCh x == ch
        | none => false)
    | _ => let e := s.routeEntry (epRoute w); (s.route (epRoute w)).owner == some l.id && bits e 42 32 == core && bits e 46 43 == ch
def State.resolves (s : State) (l : Launch) : Bool := l.cores.all fun c => (List.range 16).all fun ch => s.epResolves l c ch
/-- Give an endpoint its peer. -/
def State.setPeer (s : State) (core ch : Nat) (p : Option (Nat × Nat)) : State := s.updCore core fun c => c.updEp (Fin.ofNat 16 ch) fun e => { e with peer := p }
/-- The peers of a launch's endpoints, other than those found by rendezvous. A PATH 2 endpoint's peer is its route's other end. -/
def State.setPeers (s : State) (l : Launch) : State :=
  l.cores.foldl (fun (s : State) c => (List.range 16).foldl (fun (s : State) ch =>
    let w := s.epWord c ch
    if epMode w = 0 then s
    else match epPath w with
      | 0 => s.setPeer c ch (some (portName l (l.peer0 w), epPeerCh w))
      | 1 =>
        if epBy w then s
        else match s.launchOf (epPeer w) with
          | some m => (s.setPeer c ch (some (portName m (epPeer w), epPeerCh w))).setPeer (epPeer w) (epPeerCh w) (some (portName l c, ch))
          | none => s
      | _ => s.setPeer c ch (some (epPeer w, epPeerCh w))) s) s
/-- Endpoints on the device that wait for a partner, in placement order: launch, core, endpoint, word. -/
def State.unpaired (s : State) : List (Launch × Nat × Nat × Nat) :=
  let ls := s.launches.filter fun l => l.phase == .running || l.phase == .preempting || (match l.phase with | .gate _ => true | _ => false)
  (((List.range s.nextLaunch).filterMap fun i => ls.find? fun l => l.id == i).flatMap fun l => l.cores.flatMap fun c =>
    if s.here (portName l c) then
      (List.range 16).filterMap fun ch =>
        let w := s.epWord c ch
        if epMode w ≠ 0 ∧ epPath w = 1 ∧ epBy w ∧ ((s.core c).endpoints[Fin.ofNat 16 ch]).peer.isNone then some (l, c, ch, w) else none
    else [])
/-- Pair two endpoints; allowances granted before the pairing reach the sender (R291). -/
def State.pair (s : State) (a b : Launch × Nat × Nat × Nat) : State :=
  let give (s : State) (send recv : Launch × Nat × Nat × Nat) : State :=
    let n := ((s.core recv.2.1).endpoints[Fin.ofNat 16 recv.2.2.1]).grantOut
    if n = 0 then s else s.postEach .allowanceArrival (.allow (portName send.1 send.2.1) send.2.2.1 n)
  let s1 := (s.setPeer a.2.1 a.2.2.1 (some (portName b.1 b.2.1, b.2.2.1))).setPeer b.2.1 b.2.2.1 (some (portName a.1 a.2.1, a.2.2.1))
  if epMode a.2.2.2 = 1 then give s1 a b else give s1 b a
/-- Rendezvous by key: each endpoint in order takes the first that matches it. -/
def State.pairAll (s : State) : Nat → State
  | 0 => s
  | n + 1 =>
    let us := s.unpaired
    let found := us.findSome? fun a => (us.find? fun b => b.1.id != a.1.id && b.1.space == a.1.space && b.1.tenant == a.1.tenant &&
      epRoute a.2.2.2 == epRoute b.2.2.2 && opposite (epMode a.2.2.2) (epMode b.2.2.2)).map fun b => (a, b)
    match found with
    | some (a, b) => (s.pair a b).pairAll n
    | none => s
def State.rendezvous (s : State) : State := s.pairAll s.unpaired.length

/-! ### The broadcast and the release (steps 4 and 5) -/

/-- Code memory of a core: the image it holds stays when its key matches; the resident handler is loaded anew (R360, R363). -/
def codeCells (base : Nat) (bs : List Byte) : List (Nat × Byte) :=
  (((List.range bs.length).zip bs).filter fun e => e.2 != 0).map fun e => (base + e.1, e.2)
def State.loadCode (s : State) (l : Launch) (c : Core) : List (Nat × Byte) :=
  let r := l.body
  let key := (recSpace r, recImage r, recTag r)
  let image := if c.codeKey = some key then c.code.filter fun e => decide (e.1 < 0x1_F000)
    else codeCells 0 ((s.cpRead (recSpace r) (recTenant r) (recImage r) 2 (recLines r)).getD [])
  image ++ (if recHand r = 0 then [] else codeCells 0x1_F000 ((s.cpRead (recSpace r) (recTenant r) (recHand r) 2 64).getD []))
/-- The adapter handle table of a launch (R209): the slot bound to its space. -/
def handleOf (x : Nat) : Handle := ⟨bits x 19 0, bits x 22 20, bits x 23 23 == 1, bits x 39 24, bits x 55 40⟩
def State.loadHandles (s : State) (l : Launch) : List (Nat × Handle) :=
  match s.handleTable l.body with
  | some a => (List.range 4096).filterMap fun i =>
      let x := s.mem.read (a + 16 * i) 16
      if x = 0 then none else some (i, handleOf x)
  | none => []
/-- A core's state for a launch: special registers of Tables 2.2 to 2.6, code, handles, endpoints. An ABORT raised since the placement stands. -/
def State.coreFor (s : State) (l : Launch) (shape rank core : Nat) (handles : List (Nat × Handle)) : Core :=
  let c := s.core core
  let n := l.width * l.height
  { Core.reset with
    code := s.loadCode l c, codeKey := some (recSpace l.body, recImage l.body, recTag l.body), handles, endpoints := c.endpoints, launch := l.id, run := .running, causes := c.causes.filter (fun k => k.code == 0x12),
    sp := { Special.reset with
      compat := l.l4, preen := l.preen, rank := BitVec.ofNat 64 (rank + 2 ^ 16 * n),
      coord := BitVec.ofNat 64 (coreX core + 2 ^ 4 * coreY core + 2 ^ 8 * coreZ core + 2 ^ 16 * l.x0 + 2 ^ 20 * l.y0 + 2 ^ 24 * (l.width - 1) + 2 ^ 28 * (l.height - 1)),
      slice := Vector.ofFn fun k => sliceWord (shapeDim shape k.val) rank } }
def State.broadcast (s0 : State) (l : Launch) (shape : Nat) : State :=
  let s : State := match s0.handleTable l.body with | some a => { s0 with mem := s0.mem.scrub a 65536 } | none => s0
  let handles := s.loadHandles l
  (l.cores.zip (List.range l.cores.length)).foldl (fun (s : State) x =>
    ({ s with mem := s.mem.put (putBytes (spadKey x.1 0) (bytesOf 256 shape)) } : State).setCore x.1 (s.coreFor l shape x.2 x.1 handles)) s
/-- Set a core of a resumed launch at its handler (R276). -/
def Core.resumed (c : Core) (buf : Nat) : Core :=
  { c with pc := 0x1_F000, endpoints := Vector.replicate 16 Endpoint.empty, sp := { c.sp with handler := true, xcause := 0x0D, xvalue := BitVec.ofNat 64 (buf % 2 ^ 48), xstat := 0x8 } }
/-- Release every core at one cycle (step 5). The firmware handler of a resumed core copies its scratchpad back and starts CLOAD. -/
def State.release (s : State) (l : Launch) (resume : Bool) : State :=
  let s1 := s.setLaunch { l with phase := .running, started := true, released := s.clock, stall := 0, sliceOver := false }
  let s2 := if l.gang s then s1.post .sliceEnd (.launch l.id) else s1
  if resume && !l.ownHandler then
    l.cores.foldl (fun (s : State) c =>
      (({ s with mem := s.mem.copyRegion (s.core c).contextBuffer (spadKey c 0) 0x10_0000 } : State).updCore c fun k => { k with ctxBusy := some .load }).post .cload (.core c)) s2
  else s2
/-- Whether every member's READY of the launch's epoch has come (R415). -/
def State.gateOpen (s : State) (g epoch : Nat) : Bool := (s.members g).all fun m => decide (epoch ≤ sget 0 (s.group g).readies m)
def State.tryGate (s : State) (l : Launch) : State :=
  match l.phase, l.groupSlot with
  | .gate resume, some g => if (s.group g).closed then s.retireAborted l else if s.gateOpen g l.epoch then s.release l resume else s
  | _, _ => s
/-- At the gate: EPOCH rises, and READY with GID and EPOCH goes to every member (R415). After an abort, the launch retires at once. -/
def State.toGate (s : State) (l : Launch) (g : Nat) (resume : Bool) : State :=
  if (s.group g).closed then s.retireAborted l else
  let e := bits (s.groupRecord g) 447 384 + 1
  let l1 := { l with phase := .gate resume, started := false, epoch := e }
  let s1 := ((s.putGroup g 48 8 e).updGroup g fun x => { x with readies := sput 0 x.readies (s.selfIndex g) e }).setLaunch l1
  (s1.sendMembers g 9 0 [s.groupId g, e % 2 ^ 32, e / 2 ^ 32 % 2 ^ 32]).tryGate l1
def State.startOrGate (s : State) (l : Launch) (resume : Bool) : State :=
  match l.groupSlot with
  | some g => if s.sliceUs g ≠ 0 then s.toGate l g resume else s.release l resume
  | none => s.release l resume

/-! ### Retirement (R366) -/

/-- A retiring launch's PATH 1 peers become unpaired (R291), and what allowances it gave them are gone. -/
def unpairFrom (l : Launch) (e : Endpoint) : Endpoint :=
  match e.peer with
  | some (n, _) => if e.path = 1 ∧ n / 2 ^ 11 = l.id then { e with peer := none, sendAllow := 0, grantOut := 0, refused := 0 } else e
  | none => e
/-- An allowance on its way to an endpoint whose PATH 1 partner retires. -/
def State.lostAllow (s : State) (l : Launch) (e : Ev) : Bool :=
  match e with
  | (.allowanceArrival, .allow name ep _) =>
    let of (c : Core) : Bool := let e := c.ep (Fin.ofNat 16 ep); e.path == 1 && (e.peer.map fun p => p.1 / 2 ^ 11) == some l.id
    (s.here name && of (s.core (name % 2 ^ 11))) || s.hidden.any fun h => h.live && h.launch == name / 2 ^ 11 && h.id == name % 2 ^ 11 && of h.core
  | _ => false
def State.unpair (s : State) (l : Launch) : State :=
  let f (c : Core) : Core := { c with endpoints := c.endpoints.map (unpairFrom l) }
  { s with pending := s.pending.filter (fun e => !s.lostAllow l e), wires := s.wires.filter (fun w => !s.lostAllow l w.2), cores := s.cores.map (fun p => (p.1, f p.2)), hidden := s.hidden.map fun h => { h with live := h.live && h.launch != l.id, core := f h.core } }
/-- The routes that a launch holds: retention stores and resend queues are emptied (R408). -/
def State.launchRoutes (s : State) (l : Launch) : List Nat := (s.routes.filter fun p => p.2.owner == some l.id).map (·.1)
def State.emptyRoutes (s : State) (hs : List Nat) : State := hs.foldl (fun (s : State) h => s.updRoute h fun _ => Route.empty) s
/-- Free a context tag: no porter keeps the context, and its record is no longer valid. -/
def State.freeContext (s : State) (ctag : Nat) : State :=
  { s with porters := s.porters.map (fun (p : Nat × Porter) => (p.1, { p.2 with ctxs := p.2.ctxs.filter fun c => c.ctag != ctag })),
           pending := s.pending.filter fun e => !(match e with | (.porterRunStart, .porter _ t) => t == ctag | _ => false),
           mem := s.mem.write (s.ctxRecord ctag + 5) 1 ((s.mem.byte (s.ctxRecord ctag + 5)).toNat &&& 0xEF) }
/-- How a launch ended: as reported, or by the first core in rank order that failed after HALT (R130). -/
def State.launchEnd (s : State) (l : Launch) : Failure :=
  match l.failure with
  | some f => f
  | none =>
    match l.cores.findSome? fun c => (s.core c).haltFail.map fun k => (c, k) with
    | some (c, k) => ⟨3, k.code, k.value, (s.core c).haltPc, c⟩
    | none => Failure.of 0
/-- Cancel what a launch's copy queues still hold. -/
def State.cancelCopies (s : State) (l : Launch) : State :=
  l.cores.foldl (fun (s : State) c => (s.core c).outstandingCmds.foldl (fun (s : State) id => s.doAct c (.cancel id)) s) s
/-- A launch leaves the device: its cores are cleared, its context and peers are gone, its group record shows no abort. -/
def State.leave (s : State) (l : Launch) : State :=
  let hs := s.launchRoutes l
  let s1 := if l.phase = .saved then s else l.cores.foldl State.clearCore s
  let s2 := (((s1.unpair l).emptyRoutes hs).freeContext l.ctag)
  let s3 : State := { s2 with launches := s2.launches.filter fun k => k.id != l.id }
  let s4 := match l.groupSlot with
    | some g => if s3.launches.any fun k => k.groupSlot == some g then s3 else (s3.putGroup g 22 1 0).updGroup g fun x => { Group.empty with readies := x.readies }
    | none => s3
  s4.rendezvous

/-! ### Graphs (R367) -/

def State.graphOf (s : State) (uid : Nat) : Option Graph := s.graphs.find? fun g => g.uid == uid
def State.putGraph (s : State) (g : Graph) : State := { s with graphs := s.graphs.map fun x => if x.uid = g.uid then g else x }
/-- A node whose predecessors have all retired with status 0 and that has not started; the failure of a node bars its successors alone. -/
def Graph.ready (g : Graph) (n : Nat) : Bool :=
  g.nodes.getD n 9 == 0 && (List.range g.nodes.length).all fun j => bits (g.preds.getD n 0) j j == 0 || g.nodes.getD j 0 == 2
/-- Start what can start, or end the graph: by the sink's retirement, or by a failure once every node that could start has retired. -/
def State.graphOn (s : State) (g : Graph) : State :=
  match s.hostCmd g.uid with
  | none => { s with graphs := s.graphs.filter fun x => x.uid != g.uid }
  | some k =>
    let drop (s : State) : State := { s with graphs := s.graphs.filter (fun x => x.uid != g.uid),
                                             pending := s.pending.filter fun e => !(match e with | (.graphNodeStart, .node u _) => u == g.uid | _ => false) }
    if g.nodes.all fun x => x == 2 then (drop s).finishCmd k (Failure.of 0)
    else
      let go := (List.range g.nodes.length).filter g.ready
      if g.nodes.contains 3 && !g.nodes.contains 1 && go.isEmpty then (drop s).finishCmd k (Failure.of 8)
      else go.foldl (fun (s : State) n => s.post .graphNodeStart (.node g.uid n)) s
def State.nodeIs (s : State) (uid n x : Nat) : State :=
  match s.graphOf uid with
  | none => s
  | some g => let g1 := { g with nodes := g.nodes.set n x }; (s.putGraph g1).graphOn g1
/-- A launch's end reaches its command or its graph. -/
def State.launchDone (s : State) (l : Launch) (f : Failure) : State :=
  match l.graph with
  | some (uid, n) => s.nodeIs uid n (if f.status = 0 then 2 else 3)
  | none => match s.hostCmd l.uid with | some k => s.finishCmd k f | none => s
/-- Retirement step by step; what is not done yet is waited for. A member that fails raises ABORT, a gang member before its gate too (R414, R415). -/
def State.retire (s : State) (l : Launch) : State :=
  let f := s.launchEnd l
  let failing := f.status == 3 || f.status == 4 || f.status == 7 || (f.status == 1 && l.gang s)
  let dirty := l.cores.filter fun c => !(s.core c).dirtyLines.isEmpty
  let go (s : State) : State := ((s.unpost .launchRetire (.launch l.id)).leave l).launchDone l f
  match l.groupSlot with
  | some g =>
    if failing && !(s.group g).closed then s.raiseAbort g f.status
    else if (s.group g).closed && (s.group g).agreed.isNone then s
    else if l.phase ≠ .saved ∧ l.cores.any fun c => !((s.core c).outstandingCmds.isEmpty) then s.cancelCopies l
    else if l.phase ≠ .saved ∧ ¬ dirty.isEmpty then dirty.foldl (fun s c => s.postWritebacks c (s.core c).dirtyLines) s
    else if s.runsOf l.ctag then s.endRuns l.ctag
    else go s
  | none =>
    if l.phase ≠ .saved ∧ l.cores.any fun c => !((s.core c).outstandingCmds.isEmpty) then s.cancelCopies l
    else if l.phase ≠ .saved ∧ ¬ dirty.isEmpty then dirty.foldl (fun s c => s.postWritebacks c (s.core c).dirtyLines) s
    else if s.runsOf l.ctag then s.endRuns l.ctag
    else go s
def execLaunchRetire (s : State) : Out :=
  match s.cur with
  | .event (.launch id) =>
    match s.launches.find? fun l => l.id == id with
    | none => .next (s.unpost .launchRetire (.launch id))
    | some l =>
      if l.phase = .retiring ∨ (l.phase = .saved ∧ l.failure.isSome) then .next (s.retire l)
      else if l.cores.all fun c => (s.core c).run == .complete then
        -- an own handler that has saved every core gives them up by HALT (log 14)
        if l.phase = .preempting ∧ l.cores.all (s.isSaved l.id) then
          .next ((l.cores.foldl State.clearCore (s.unpost .launchRetire (.launch id))).launchSaved l)
        else .next (s.retire l)
      else .next s
  | _ => .fault .noAgent

/-! ### LAUNCH and GRAPH_NODE_START -/

/-- Steps 4 and 5 for a placed launch. One whose peers cannot be resolved gives its cores up before a bundle issues, with status 1 (R291); a gang member fails before its gate by this
(R415). -/
def State.deliver (s : State) (l : Launch) (done : State → State) : State :=
  let refuse := if l.gang s then (done (s.setLaunch { l with phase := .retiring, failure := some (Failure.of 1) })).post .launchRetire (.launch l.id)
    else (done (s.leave l)).launchDone l (Failure.of 1)
  match s.launchTables l.body with
  | none => refuse
  | some t =>
    if s.resolves l then
      let s1 := (s.setPeers l).broadcast l t.shape
      done ((s1.startOrGate l false).rendezvous)
    else refuse
def execCmdLaunch (s : State) : Out :=
  match s.cur with
  | .event (.num uid) =>
    match s.hostCmd uid with
    | none => .next (s.unpost .cmdLaunch (.num uid))
    | some k =>
      match s.launches.find? fun l => l.uid == uid && l.graph.isNone with
      | some l =>
        if l.phase ≠ .placing then .next (s.unpost .cmdLaunch (.num uid))
        else if s.launchBusy l.body then .next s
        else .next (s.deliver l fun s => s.unpost .cmdLaunch (.num uid))
      | none =>
        match s.standing (s.queue k.q) k.uid k.body with
        | .blocked => .next s
        | .waits t => if s.turn k && !(s.launchBusy k.body) then .next (s.seekCores k k.body t) else .next s
        | .refused n => if s.chosen k then .next (((s.logRefusal (s.queue k.q) k.body n).startCmd k).finishCmd k (Failure.of n)) else .next s
        | .fits c t =>
          match s.freeCtag with
          | none => .next s
          | some tag => if s.chosen k then .next ((s.startCmd { k with info := 0 }).place uid none (s.queue k.q) k.body c t tag) else .next s
  | _ => .fault .noAgent
/-- A node of a graph is placed as a launch is. -/
def execGraphNodeStart (s : State) : Out :=
  match s.cur with
  | .event (.node uid n) =>
    let gone := s.unpost .graphNodeStart (.node uid n)
    match s.graphOf uid, s.hostCmd uid with
    | some g, some k =>
      match s.launches.find? fun l => l.graph == some (uid, n) with
      | some l =>
        if l.phase ≠ .placing then .next gone
        else if s.launchBusy l.body then .next s
        else .next (s.deliver l fun s => s.unpost .graphNodeStart (.node uid n))
      | none =>
        let r := g.bodies.getD n 0
        if !g.ready n then .next gone
        else if !(s.recordBad (s.queue k.q) r) && s.launchBusy r then .next s
        else
          match s.standing (s.queue k.q) k.uid r with
          | .blocked => .next s
          | .waits t => .next (s.seekCores k r t)
          | .refused st => .next ((gone.logRefusal (s.queue k.q) r st).nodeIs uid n 3)
          | .fits c t =>
            match s.freeCtag with
            | none => .next s
            | some tag => .next (((s.putHostCmd { k with info := 0 }).nodeIs uid n 1).place uid (some (uid, n)) (s.queue k.q) r c t tag)
    | _, _ => .next gone
  | _ => .fault .noAgent

/-! ### Resumption (R365, R276) -/

/-- A saved launch whose own cores are free and wanted by no command, on a compute stratum that no sequence affects. -/
def State.canResume (s : State) (l : Launch) : Bool :=
  l.phase == .saved && l.failure.isNone && !s.memoryOnly l.z && !s.affected l.z && !s.launchBusy l.body && l.cores.all fun c => s.isFree c && !s.claimed none c
/-- Resume a launch at the coordinates it left. -/
def State.resume (s : State) (l : Launch) : State :=
  let s1 := s.setLaunch { l with phase := .placing }
  let shape := natOf (s.mem.bytes (sget 0 l.buffers (l.cores.headD 0)) 256)
  let s2 := s1.broadcast l shape
  let s3 := l.cores.foldl (fun (s : State) c => ({ s with mem := s.mem.zero (spadKey c 0) (spadKey c 0x10_0000) } : State).updCore c
    fun k => k.resumed ((l.buffers.find? fun b => b.1 == c).map (·.2) |>.getD 0)) s2
  s3.startOrGate l true
def execLaunchResume (s : State) : Out :=
  match s.cur with
  | .event (.launch id) =>
    let gone := s.unpost .launchResume (.launch id)
    match s.launches.find? fun l => l.id == id with
    | none => .next gone
    | some l =>
      if l.phase ≠ .saved then .next gone
      else if (s.launches.takeWhile fun k => k.id != id).any s.canResume then .next s
      else if s.canResume l then .next (gone.resume l)
      else .next s
  | _ => .fault .noAgent

end Sys2Proof.Machine
end

