-- ==== Sys2Proof/Machine/Command.lean ====
section
/-! DEFINITION. The other commands (R357, R362, R367 to R373, R379): graphs, copies, tokens, FREEZE_CLEAR, INVAL, HTSET, ATTEST. -/
namespace Sys2Proof.Machine

/-- Run a command by its number. -/
def onCommand (i : Instr) (f : State → HostCmd → State) (s : State) : Out :=
  match s.cur with
  | .event (.num uid) =>
    match s.hostCmd uid with
    | none => .next (s.unpost i (.num uid))
    | some k => .next (f s k)
  | _ => .fault .noAgent

/-! ### GRAPH (R367) -/

/-- A graph none of whose first nodes can be placed asks for cores by pre-emption (R365). -/
def State.seekGraph (s : State) (k : HostCmd) : State :=
  let q := s.queue k.q
  match s.graphRecord q k.uid (k.field 15 8) with
  | none => s
  | some g =>
    if s.graphCan k || s.cpOwned (s.graphReqs q (k.field 15 8)) then s
    else
      let first := (List.range g.nodes.length).filter fun i => g.preds.getD i 0 == 0
      first.foldl (fun (s : State) i => match s.hostCmd k.uid, s.standing q k.uid (g.bodies.getD i 0) with
        | some k1, .waits t => if s.launchBusy (g.bodies.getD i 0) then s else s.seekCores k1 (g.bodies.getD i 0) t
        | _, _ => s) s
def State.runGraph (s : State) (k : HostCmd) : State :=
  if k.started then s.unpost .cmdGraph (.num k.uid)
  else if !(s.chosen k) then (if s.turn k then s.seekGraph k else s)
  else match s.graphRecord (s.queue k.q) k.uid (k.field 15 8) with
    | none => ((s.logGraph (s.queue k.q) (k.field 15 8)).startCmd k).finishCmd k (Failure.of 1)
    | some g => (({ (s.cpScrub (s.graphReqs (s.queue k.q) (k.field 15 8))).startCmd k with graphs := s.graphs ++ [g] } : State).unpost .cmdGraph (.num k.uid)).graphOn g
def execCmdGraph : State → Out := onCommand .cmdGraph State.runGraph

/-! ### COPY (R371) -/

/-- One end of a copy: a host address, or a device address translated in the queue's space and tenant and reached at its porter. -/
def State.copyEnd (s : State) (r : Req) (addr kind n : Nat) : State × Reply (Nat × TLeaf) :=
  if bits addr 63 63 = 1 then (s, .ok (hostKey (addr % 2 ^ 63), plainLeaf))
  else andThen (asFault 0x06 (s.translate r addr kind)) fun s p => andThen (s.reach r p.1 n) fun s _ => (s, .ok p)
/-- The next piece of a copy, within one line at each end. -/
def State.copyPiece (s : State) (r : Req) (src dst n : Nat) : State × Reply Unit :=
  andThen (s.copyEnd r src 0 n) fun s p => andThen (s.copyEnd r dst 1 n) fun s d =>
    let rd := s.mem.devRead p.2 p.1 n (decide (n < 64))
    if rd.code ≠ 0 then (s, .fault rd.code)
    else
      let cv := if n = 64 ∧ ¬ isFormat p.2.state then s.mem.cvOf p.1 else 0
      let s1 : State := { s with mem := s.mem.scrubRead p.2 p.1 n }
      if isHost d.1 then
        let s2 := if cv ≠ 0 then s1.poisonTo p.1 (lineOf d.1) else s1
        ({ s2 with mem := s2.mem.put (putBytes d.1 rd.bytes) }, .ok ())
      else
        let m := if n = 64 then s1.mem.putLineDev d.1 rd.bytes cv else s1.mem.putDev (putBytes d.1 rd.bytes)
        (({ s1 with mem := m } : State).noteWrite d.1 n, .ok ())
/-- Cores of the launches that last wrote a buffer (R368). -/
def State.writers (s : State) : List Nat :=
  s.buffers.flatMap fun b => match b.2.writer with
    | some (l, cs) => if s.launches.any fun x => x.id == l && x.phase != .saved then cs else []
    | none => []
/-- Those with bytes that their tinker caches still hold. -/
def State.writersDirty (s : State) : List Nat := s.writers.filter fun c => !(s.core c).dirtyLines.isEmpty
/-- The copy commands that the writers had outstanding when a command started, and still have. -/
def State.writersCopy (s : State) (k : HostCmd) : Bool := k.behind.any fun x => (s.core x.1).outstandingCmds.contains x.2
def State.runCopy (s : State) (k : HostCmd) : State :=
  let q := s.queue k.q
  let ev : Ev := (.cmdCopy, .num k.uid)
  let src := k.field 15 8
  let dst := k.field 23 16
  let len := k.field 31 24
  if !k.started then
    if !(s.chosen k) then s
    else if 2 ^ 40 < len then (s.startCmd k).finishCmd k (Failure.of 1)
    else s.startCmd { k with behind := s.writers.flatMap fun c => (s.core c).outstandingCmds.map fun i => (c, i) }
  else if k.off = 0 ∧ s.writersCopy k then s
  else if k.off = 0 ∧ ¬ s.writersDirty.isEmpty then s.writersDirty.foldl (fun s c => s.postWritebacks c (s.core c).dirtyLines) s
  else if k.off = len then s.finishCmd k (Failure.of 0)
  else
    let a := src + k.off
    let d := dst + k.off
    let n := min (len - k.off) (min (64 - a % 64) (64 - d % 64))
    let r : Req := { ev, station := 0, space := q.qspace, tenant := q.qtenant, ctag := 0, who := 2 ^ 11 }
    let x := s.copyPiece r a d n
    match x.2 with
    | .ok _ => ((x.1.forget ev).putHostCmd { k with off := k.off + n }).postEv ev
    | .wait => x.1
    | .retry => x.1.postEv ev
    | .fault c => (x.1.forget ev).finishCmd k { Failure.of 7 with xcause := c }
    | .viol _ => (x.1.forget ev).finishCmd k { Failure.of 7 with xcause := 0x06 }
def execCmdCopy : State → Out := onCommand .cmdCopy State.runCopy

/-! ### SIGNAL and WAIT (R362) -/

/-- A command that names a token its function does not own freezes the function, and ends with status 1. -/
def State.tokenViolation (s : State) (k : HostCmd) : State := ((s.startCmd k).freezeFn (s.queue k.q).fn k.token).finishCmd k (Failure.of 1)
def State.earlierDone (s : State) (k : HostCmd) : Bool := !((s.cmds.takeWhile fun x => x.uid != k.uid).any fun x => x.q == k.q)
def State.runSignal (s : State) (k : HostCmd) : State :=
  if !k.started then
    if !(s.chosen k) then s
    else if !(ownsToken (s.queue k.q).fn k.token) then s.tokenViolation k
    else s.startCmd k
  else if s.earlierDone k then
    ({ s with tokens := sput 0 s.tokens k.token (max (sget 0 s.tokens k.token) (k.field 23 16)) } : State).finishCmd k (Failure.of 0)
  else s
def execCmdSignal : State → Out := onCommand .cmdSignal State.runSignal
def State.runWait (s : State) (k : HostCmd) : State :=
  if !(s.chosen k) then s
  else if !(ownsToken (s.queue k.q).fn k.token) then s.tokenViolation k
  else (s.startCmd k).finishCmd k (Failure.of 0)
def execCmdWait : State → Out := onCommand .cmdWait State.runWait

/-! ### FREEZE_CLEAR (R373, R279) -/

/-- Clear a bit field of XSTAT. -/
def Core.noCaptures (c : Core) : Core := { c with sp := { c.sp with xstat := c.sp.xstat &&& ~~~0x3F0000#64 }, resumeCaps := [], looked := [] }
/-- Put a thread's unfinished operation to work again. -/
def State.rerunOp (s : State) (id t : Nat) (p : TPending) : State :=
  match p.kind with
  | none => s
  | some (.load _ _ va) => s.post .tinkerCacheFill (.line id (va / 64 * 64))
  | some (.store _ va _) => s.post .tinkerCacheFill (.line id (va / 64 * 64))
  | some (.release _ (some _) _ true) => s
  | some _ => s.post .porterRequest (.asker (.thread id t p.seq))
def State.rerunCore (s : State) (id : Nat) : State :=
  let c := s.core id
  let s1 := (List.finRange 2).foldl (fun (s : State) e => (c.engines[e]).queue.foldl (fun (s : State) k =>
    let a : Asker := .engine id e.val k.id
    (s.postEv (moverEv a k)).postEv (closerEv a k)) s) s
  ((List.finRange 64).foldl (fun (s : State) t => (c.threads[t]).pend.foldl (fun (s : State) p => s.rerunOp id t.val p) s) s1).repost id
/-- A frozen core takes up its bundle again (R279). -/
def State.unfreezeCore (s : State) (id : Nat) (halted : Bool) : State :=
  let c := s.core id
  let c1 := match c.held with | some f => c.takeUp f | none => c
  (({ s with coreFreeze := s.coreFreeze.filter fun f => f.1 != id } : State).setCore id { c1.noCaptures with run := if halted then .halted else .running, held := none }).rerunCore id
/-- A launch is retired as failed, with status 4. -/
def State.failLaunch (s : State) (l : Launch) : State :=
  (s.setLaunch { l with failure := some (l.failure.getD (Failure.of 4)), phase := if l.phase = .saved then .saved else .retiring }).post .launchRetire (.launch l.id)
/-- A held request completed as faulted. -/
def State.faultEv (s : State) (e : Ev) : State :=
  match e.2 with
  | .asker (.thread core t seq) =>
    match ((s.core core).thread t).op seq with
    | some p => s.tinkFault core t p (tinkCode 0x06) (opAddr p)
    | none => s
  | .asker a =>
    match s.cmdOf a with
    | some k => (s.putCmd a { k with fault := some (k.fault.getD 0x06) }).postEv (closerEv a k)
    | none => s
  | .line core line =>
    if e.1 = .tinkerWriteback then s.updCore core fun c => match c.line line with | some l => c.setLine { l with dirty := 0 } | none => c
    else ((s.core core).waitingFor line).foldl (fun s (x : Nat × TPending) => s.tinkFault core x.1 x.2 (tinkCode 0x06) (opAddr x.2)) s
  | .porter p ctag => (s.updRun p ctag fun r => { r with ended := true, fault := some (r.fault.getD (0x06, r.next)) }).postEv e
  | _ => s
/-- A porter's context is released. -/
def State.clearCtx (s : State) (p ctag mode : Nat) : State :=
  match s.ctx p ctag with
  | none => s
  | some c =>
    let s1 := s.updCtx p ctag fun c => { c with frozen := none, held := [] }
    let s2 := if c.run.isSome then s1.post .porterRequest (.porter p ctag) else s1.post .porterRunStart (.porter p ctag)
    if mode = 0 then c.held.foldl State.postEv s2 else c.held.foldl State.faultEv s2
/-- Reset a function (R373): its launches retire as failed, its queues are disabled. -/
def State.resetFn (s : State) (f : Nat) : State :=
  let s1 := (s.launches.filter fun l => l.fn == f).foldl State.failLaunch s
  (List.range 64).foldl (fun (s : State) q => if (s.queue q).fn = f then s.setEn q false else s) s1
/-- The master that a record's number names: a frozen core, a porter's context, or a function. -/
inductive Frozen where
  | core (id : Nat) (v : Violation) (halted : Bool) | ctx (p ctag : Nat) | fn (f : Nat)
  deriving DecidableEq, Repr
def State.frozenBy (s : State) (n : Nat) : Option Frozen :=
  match s.coreFreeze.find? fun f => f.2 == n with
  | some (id, _) => match (s.core id).run with | .frozen v h => some (.core id v h) | _ => none
  | none =>
    match s.porters.findSome? fun p => (p.2.ctxs.find? fun c => c.frozen == some n).map fun c => (p.1, c.ctag) with
    | some (p, t) => some (.ctx p t)
    | none => ((List.range 17).find? fun f => (s.fn f).frozen == some n).map .fn
def State.runFreezeClear (s0 : State) (k : HostCmd) : State :=
  if !(s0.chosen k) then s0
  else
    let s := s0.startCmd k
    let mode := k.field 23 16
    let bad := s.finishCmd k (Failure.of 1)
    let ok (s : State) : State := s.finishCmd k (Failure.of 0)
    if k.field 15 12 ≠ 0 ∨ 1 < mode then bad
    else match s.frozenBy (k.field 11 8) with
      | none => bad
      | some (.core id v halted) =>
        if mode = 0 then (if v.kind = 4 then bad else ok (s.unfreezeCore id halted))
        else match s.launchOf id with
          | some l => ok (s.failLaunch l)
          | none => ok (s.clearCore id)
      | some (.ctx p t) => ok (s.clearCtx p t mode)
      | some (.fn f) => ok ((s.resetFn f).updFn f fun g => { g with frozen := none }).flushHeld
def execCmdFreezeClear : State → Out := onCommand .cmdFreezeClear State.runFreezeClear

/-! ### INVAL, HTSET, ATTEST (R369, R370, R379) -/

/-- Forget a space, or every space, in every station. -/
def State.purgeSpace (s : State) (all : Bool) (space : Nat) : State :=
  { s with stations := s.stations.map (fun p => (p.1, p.2.purge fun e => all || e.space == space)),
           answers := s.answers.filter fun a => !(all || a.space == space) }
/-- The space under which a line's owner was translated. -/
def State.ownerSpace (s : State) (o : Owned) : Option Nat := match o.owner with | .cmd a => some (s.reqOf a (.recallComplete, .memLine o.line)).space | _ => none
def State.runInval (s : State) (k : HostCmd) : State :=
  let sp := k.field 9 8
  let all := sp == 0xFFFF
  if !k.started then (if s.chosen k then (s.startCmd k).purgeSpace all sp else s)
  else if s.owned.any fun o => match s.ownerSpace o with | some x => all || x == sp | none => false then s
  else s.finishCmd k (Failure.of 0)
def execCmdInval : State → Out := onCommand .cmdInval State.runInval
/-- HTSET copies entries into a slot and binds the space to it. -/
def State.runHtset (s : State) (k : HostCmd) : State :=
  if !(s.chosen k) then s
  else
    let slot := k.field 11 10
    let n := k.field 15 14
    let src := k.field 23 16
    let dst := s.mgmt.htbase + 65536 * slot + 16 * k.field 13 12
    if 511 < slot ∨ 4096 < k.field 13 12 + n ∨ (n ≠ 0 ∧ ¬ (s.hasMemory src ∧ s.hasMemory (src + 16 * n - 1))) then (s.startCmd k).finishCmd k (Failure.of 1)
    else if (linesIn src (16 * n) ++ linesIn dst (16 * n)).any fun l => (s.ownerOf l).isSome then s
    else ({ s.startCmd k with mem := (s.mem.scrub src (16 * n)).put (putBytes dst (s.mem.bytes src (16 * n))), slots := kput s.slots (k.field 9 8) slot } : State).finishCmd k (Failure.of 0)
def execCmdHtset : State → Out := onCommand .cmdHtset State.runHtset
/-- STKROLE.ROLEMAP: the top N bits. -/
def roleMap (n : Nat) : Nat := 256 - 2 ^ (8 - n)
/-- The report of ATTEST, before its signature. -/
def State.report256 (s : State) (nonce : Nat) : List Byte :=
  shake256 (Config.firmware s.fwver) ++ shake256 (Config.configRecord s.cfgver) ++ bytesOf 2 (roleMap s.stkN) ++ bytesOf 32 nonce ++ List.replicate 94 0
def State.runAttest (s : State) (k : HostCmd) : State :=
  if !(s.chosen k) then s
  else
    let rep := s.report256 (k.field 39 8)
    let out := rep ++ edSign (bytesOf 57 Config.deviceKey) rep
    ({ s.startCmd k with mem := s.mem.put (putBytes (hostKey (k.field 47 40)) out) } : State).finishCmd k (Failure.of 0)
def execCmdAttest : State → Out := onCommand .cmdAttest State.runAttest

end Sys2Proof.Machine
end

