-- ==== Sys2Proof/Machine/VecArith.lean ====
section
/-! DEFINITION. The V slots: element-wise integer and floating-point arithmetic and compares (R145 to R149). -/
namespace Sys2Proof.Machine

/-! ### Integer arithmetic and logic (R145) -/

/-- An exact result wrapped, or saturated with SAT (R18). -/
def intRes (w : Nat) (sg sat : Bool) (x : Int) : Res :=
  if sat then narrow w (intMin sg w) (intMax sg w) fSAT (x, false) else (wrapNat w x, 0)
def ixMask (xv : Option IntX) : DMask := xv.bind (·.msk)
def ixSat (xv : Option IntX) : Bool := (xv.map (·.sat)).getD false
/-- Two v sources, integers of type `t`. -/
def vecInt (t : ITy) (k : DMask) (f : Int → Int → Res) (d : VReg) (b c : VSrc) : State → Out :=
  primOp [(1, .v b), (2, .v c)] fun v =>
    let x := v.v 1 b
    let y := v.v 2 c
    v.plainPlan d (ityW t) 2 k fun i => f (elemInt t x i) (elemInt t y i)
/-- Two v sources as patterns. -/
def vecBits (t : ElemW) (k : DMask) (f : Nat → Nat → Nat) (d : VReg) (b c : VSrc) : State → Out :=
  primOp [(1, .v b), (2, .v c)] fun v =>
    let x := v.v 1 b
    let y := v.v 2 c
    v.plainPlan d (elemBits t) 2 k fun i => (f (elemAt (elemBits t) x i) (elemAt (elemBits t) y i), 0)
/-- A shift by the element of vC or by IMM16, modulo the width. -/
def vecShift (t : ElemW) (f : Nat → Nat → Nat) (d : VReg) (b : VSrc) (x : ShiftX) : State → Out :=
  match x with
  | .reg r => primOp [(1, .v b), (2, .v r)] fun v =>
    let p := v.v 1 b
    let y := v.v 2 r
    let w := elemBits t
    v.plainPlan d w 2 none fun i => (f (elemAt w p i) (elemAt w y i % w), 0)
  | .imm n k => primOp [(1, .v b)] fun v =>
    let p := v.v 1 b
    let w := elemBits t
    v.plainPlan d w 2 k fun i => (f (elemAt w p i) (n.toNat % w), 0)

def execVadd (t : ITy) (d : VReg) (b c : VSrc) (xv : Option IntX) : State → Out :=
  vecInt t (ixMask xv) (fun x y => intRes (ityW t) (itySigned t) (ixSat xv) (x + y)) d b c
def execVsub (t : ITy) (d : VReg) (b c : VSrc) (xv : Option IntX) : State → Out :=
  vecInt t (ixMask xv) (fun x y => intRes (ityW t) (itySigned t) (ixSat xv) (x - y)) d b c
def execVmul (t : ITy) (d : VReg) (b c : VSrc) (xv : Option IntX) : State → Out :=
  vecInt t (ixMask xv) (fun x y => intRes (ityW t) (itySigned t) (ixSat xv) (x * y)) d b c
def execVmulh (t : ITy) (d : VReg) (b c : VSrc) (xv : DMask) : State → Out :=
  vecInt t xv (fun x y => (wrapNat (ityW t) (x * y / ((2 ^ ityW t : Nat) : Int)), 0)) d b c
def execVmin (t : ITy) (d : VReg) (b c : VSrc) (xv : DMask) : State → Out :=
  vecInt t xv (fun x y => (wrapNat (ityW t) (min x y), 0)) d b c
def execVmax (t : ITy) (d : VReg) (b c : VSrc) (xv : DMask) : State → Out :=
  vecInt t xv (fun x y => (wrapNat (ityW t) (max x y), 0)) d b c
def execVand (t : ElemW) (d : VReg) (b c : VSrc) (xv : DMask) : State → Out := vecBits t xv (fun x y => x &&& y) d b c
def execVor (t : ElemW) (d : VReg) (b c : VSrc) (xv : DMask) : State → Out := vecBits t xv (fun x y => x ||| y) d b c
def execVxor (t : ElemW) (d : VReg) (b c : VSrc) (xv : DMask) : State → Out := vecBits t xv (fun x y => x ^^^ y) d b c
def execVshl (t : ElemW) (d : VReg) (b : VSrc) (x : ShiftX) : State → Out :=
  vecShift t (fun p k => p * 2 ^ k % 2 ^ elemBits t) d b x
def execVshr (t : ElemW) (d : VReg) (b : VSrc) (x : ShiftX) : State → Out := vecShift t (fun p k => p / 2 ^ k) d b x
def execVsar (t : ElemW) (d : VReg) (b : VSrc) (x : ShiftX) : State → Out :=
  vecShift t (fun p k => wrapNat (elemBits t) (sextNat (elemBits t) p / ((2 ^ k : Nat) : Int))) d b x
def execVabs (t : ElemW) (d : VReg) (b : VSrc) (xv : Option IntX) : State → Out :=
  primOp [(1, .v b)] fun v =>
    let p := v.v 1 b
    let w := elemBits t
    v.plainPlan d w 2 (ixMask xv) fun i => intRes w true (ixSat xv) (((sextNat w (elemAt w p i)).natAbs : Nat) : Int)

/-! ### Integer compare and select (R146, R147) -/

def execVcmp (t : ElemW) (d : MReg) (b c : VSrc) (xv : CmpX) : State → Out :=
  primOp [(1, .v b), (2, .v c)] fun v =>
    let x := v.v 1 b
    let y := v.v 2 c
    let w := elemBits t
    v.maskPlan d w 2 xv.msk fun i =>
      let p := elemAt w x i
      let q := elemAt w y i
      (condHolds xv.cc (sextNat w p) (sextNat w q) p q, 0)
def execVsel (t : ElemW) (d : VReg) (b c : VSrc) (k : MReg) : State → Out :=
  primOp [(1, .v b), (2, .v c)] fun v =>
    let x := v.v 1 b
    let y := v.v 2 c
    let w := elemBits t
    v.plainPlan d w 2 none fun i => (elemAt w (if v.c.active (some k) w i then x else y) i, 0)

/-! ### Floating-point arithmetic (R148, R149) -/

def fxMask (xv : Option FltX) : DMask := xv.bind (·.msk)
def Core.fxRnd (c : Core) (xv : Option FltX) : Rnd := c.rndOpt (xv.map (·.rnd))
/-- Two v sources, rounded. -/
def vecFlt (t : FTy) (xv : Option FltX) (f : FFmt → Bool → Mode → Nat → Nat → Res) (d : VReg) (b c : VSrc) : State → Out :=
  primOp [(1, .v b), (2, .v c)] fun v =>
    let x := v.v 1 b
    let y := v.v 2 c
    let w := ftyW t
    v.elemPlan d w 4 (fxMask xv) (v.c.fxRnd xv) fun i md => f (ftyFmt t) v.c.ftz md (elemAt w x i) (elemAt w y i)
/-- Minimum and maximum, without rounding. -/
def vecMinMax (t : FTy) (k : DMask) (wantMax : Bool) (d : VReg) (b c : VSrc) : State → Out :=
  primOp [(1, .v b), (2, .v c)] fun v =>
    let x := v.v 1 b
    let y := v.v 2 c
    let w := ftyW t
    v.plainPlan d w 4 k fun i => (ftyFmt t).minmax v.c.ftz wantMax (elemAt w x i) (elemAt w y i)
/-- A unary function, correctly rounded. -/
def vecUnary (t : FTy) (xv : Option FltX) (u : UFun) (d : VReg) (b : VSrc) : State → Out :=
  primOp [(1, .v b)] fun v =>
    let x := v.v 1 b
    let w := ftyW t
    v.elemPlan d w 6 (fxMask xv) (v.c.fxRnd xv) fun i md => (ftyFmt t).unary v.c.ftz md u (elemAt w x i)

def execVfadd (t : FTy) (d : VReg) (b c : VSrc) (xv : Option FltX) : State → Out := vecFlt t xv FFmt.fadd d b c
def execVfsub (t : FTy) (d : VReg) (b c : VSrc) (xv : Option FltX) : State → Out := vecFlt t xv FFmt.fsub d b c
def execVfmul (t : FTy) (d : VReg) (b c : VSrc) (xv : Option FltX) : State → Out := vecFlt t xv FFmt.fmul d b c
def execVffma (t : FTy) (d : VReg) (b c : VSrc) (xv : Option FltX) : State → Out :=
  primOp [(0, .v (.v d)), (1, .v b), (2, .v c)] fun v =>
    let x := v.v 1 b
    let y := v.v 2 c
    let z := v.v 0 (.v d)
    let w := ftyW t
    v.elemPlan d w 4 (fxMask xv) (v.c.fxRnd xv) fun i md =>
      (ftyFmt t).ffma v.c.ftz md (elemAt w x i) (elemAt w y i) (elemAt w z i)
def execVfmin (t : FTy) (d : VReg) (b c : VSrc) (xv : DMask) : State → Out := vecMinMax t xv false d b c
def execVfmax (t : FTy) (d : VReg) (b c : VSrc) (xv : DMask) : State → Out := vecMinMax t xv true d b c
def execVfrcp (t : FTy) (d : VReg) (b : VSrc) (xv : Option FltX) : State → Out := vecUnary t xv .rcp d b
def execVfrsq (t : FTy) (d : VReg) (b : VSrc) (xv : Option FltX) : State → Out := vecUnary t xv .rsq d b
def execVfexp2 (t : FTy) (d : VReg) (b : VSrc) (xv : Option FltX) : State → Out := vecUnary t xv .exp2 d b
def execVflog2 (t : FTy) (d : VReg) (b : VSrc) (xv : Option FltX) : State → Out := vecUnary t xv .log2 d b
def execVfcmp (t : FTy) (d : MReg) (b c : VSrc) (xv : FCmpX) : State → Out :=
  primOp [(1, .v b), (2, .v c)] fun v =>
    let x := v.v 1 b
    let y := v.v 2 c
    let w := ftyW t
    v.maskPlan d w 4 xv.msk fun i => (ftyFmt t).fcmp v.c.ftz xv.cc (elemAt w x i) (elemAt w y i)

end Sys2Proof.Machine
end

