-- ==== Sys2Proof/Machine/VecMem.lean ====
section
/-! DEFINITION. The V slots: scratchpad access, accumulator moves and stream ports (R158 to R160, R169 to R173). -/
namespace Sys2Proof.Machine

/-! ### VLD and VST (R158) -/

/-- The registers an offset reads, and its value. -/
def offSrc : OffX → List (Nat × Src)
  | .reg r => [(2, .s (vsToS r))]
  | .imm _ => []
def View.offVal (v : View) : OffX → Word
  | .reg r => v.vs 2 r
  | .imm i => i.signExtend 64
/-- The effective address. -/
def View.vldAddr (v : View) (b : VSSrc) (x : OffX) : Nat := eaOf (v.vs 1 b) (v.offVal x)
/-- The bytes of active elements of width `w`, as a bit mask. -/
def Core.activeBits (c : Core) (k : Option MReg) (w : Nat) : Nat :=
  packElems w ((List.range (2048 / w)).map fun i => if c.active k w i then 2 ^ w - 1 else 0)
/-- The size and the destination of a VLD, and the value it lands: inactive elements are zero. -/
def View.vldPlan (v : View) (ea n align : Nat) (dest : Dest) (mask sel : Nat) : Plan :=
  let e := v.readFault ea n
  { traps := v.spadTraps ea n align, demand := readDemand 0 ea n, scrub := [(spadKey v.id ea, n)],
    lands := [{ dest, lat := v.c.ldLat, val := v.readSpad ea n &&& sel, mask, pend := e.1, addr := e.2 }] }
def execVld (d : VldDst) (b : VSSrc) (x : OffX) : State → Out :=
  primOp ((1, .s (vsToS b)) :: offSrc x) fun v =>
    let ea := v.vldAddr b x
    match d with
    | .v r k t =>
      let act := v.c.activeBits (dmReg k) (elemBits t)
      v.vldPlan ea 256 64 (.v r) (if dmZero k then 2 ^ 2048 - 1 else act) act
    | .m r => v.vldPlan ea 16 16 (.m r) (2 ^ 128 - 1) (2 ^ 128 - 1)
    | .w r => v.vldPlan ea 64 64 (.w r) (2 ^ 512 - 1) (2 ^ 512 - 1)
/-- The source register of VST, its size in bytes and its value. -/
def vstSrc : VstSrc → Src
  | .v r _ _ => .v r
  | .m r => .m r
  | .w r => .w r
def vstBytes : VstSrc → Nat
  | .v _ _ _ => 256
  | .m _ => 16
  | .w _ => 64
def vstAlign : VstSrc → Nat
  | .m _ => 16
  | _ => 64
/-- The bits of the register that a VST stores. -/
def View.vstBits (v : View) : VstSrc → Nat
  | .v _ k t => v.c.activeBits k (elemBits t)
  | .m _ => 2 ^ 128 - 1
  | .w _ => 2 ^ 512 - 1
/-- Masked bytes of a number from an address on: bytes without a bit in the mask are left out. -/
def maskedPuts (key : Nat) (n x mask : Nat) : List PutByte :=
  (putBytes key (bytesOf n x)).zip (bytesOf n mask) |>.filterMap fun p => if p.2 = 0 then none else some (p.1.1, p.1.2.1, p.2)
def execVst (a : VstSrc) (b : VSSrc) (x : OffX) : State → Out :=
  primOp ((0, vstSrc a) :: (1, .s (vsToS b)) :: offSrc x) fun v =>
    let ea := v.vldAddr b x
    let n := vstBytes a
    { traps := v.spadTraps ea n (vstAlign a), demand := writeDemand 1 ea n,
      writes := [(1, .put (maskedPuts (spadKey v.id ea) n (v.val 0 (vstSrc a)).1 (v.vstBits a)))] }

/-! ### Gather and scatter (R159, R160) -/

/-- Element indices: 32-bit for 32-bit elements, else 16-bit. -/
def idxW (t : ElemW) : Nat := if elemBits t = 32 then 32 else 16
/-- The elements that take part, with their effective addresses, lowest first. -/
def View.gatherEas (v : View) (t : ElemW) (k : Option MReg) (base : Word) (idx : VWord) : List (Nat × Nat) :=
  let w := elemBits t
  ((List.range (2048 / idxW t)).filter fun i => v.c.active k w i).map fun i =>
    (i, (base.toNat + elemAt (idxW t) idx i * (w / 8)) % 2 ^ 64)
/-- The fault of the lowest-numbered faulting element. -/
def View.gatherTraps (v : View) (n : Nat) (eas : List (Nat × Nat)) : List (Nat × Nat × Nat) :=
  match eas.find? fun e => !(v.spadTraps e.2 n n).isEmpty with
  | some e => (v.spadTraps e.2 n n e.1).take 1
  | none => []
/-- SCHEDULE reason 0x04: more than four lines of the active elements lie in one bank (R68); XVALUE names no bank for it (Table 9.1). A line beyond the
scratchpad has no bank (R66, log 25). -/
def overFour (eas : List (Nat × Nat)) : List (Nat × Nat) :=
  let lines := (eas.foldl (fun l e => nput l (e.2 / 64)) []).filter fun l => decide (l < 0x4000)
  if (List.range 16).any fun b => decide (4 < (lines.filter fun l => l % 16 == b).length) then [(4, 0)] else []
/-- The ports a gather or scatter occupies: every bank in four cycles. -/
def gatherDemand (write : Bool) : List (Nat × Bool × Nat) :=
  (List.range 4).flatMap fun k => (List.range 16).map fun b => (k, write, b)
def execVldx (t : ElemW) (d : VReg) (b : VSSrc) (c : VSrc) (xv : DMask) : State → Out :=
  primOp [(1, .s (vsToS b)), (2, .v c)] fun v =>
    let w := elemBits t
    let eas := v.gatherEas t (dmReg xv) (v.vs 1 b) (v.v 2 c)
    let e := firstFault (eas.map fun x => v.readFault x.2 (w / 8))
    let el := elemLoop w (fun i => v.c.active (dmReg xv) w i) (dmZero xv) .rne v.slot
      (fun i _ => (((eas.find? fun x => x.1 == i).map fun x => v.readSpad x.2 (w / 8)).getD 0, 0)) (2048 / idxW t) 0 v.c.gens
    { traps := v.gatherTraps (w / 8) eas, sched := overFour eas, steady := true, demand := gatherDemand false,
      scrub := eas.map fun x => (spadKey v.id x.2, w / 8),
      lands := [{ landElems d v.c.gLat w 0 el with pend := e.1, addr := e.2 }] }
def execVstx (t : ElemW) (a : VSrc) (b : VSSrc) (c : VSrc) (xv : SMask) : State → Out :=
  primOp [(0, .v a), (1, .s (vsToS b)), (2, .v c)] fun v =>
    let w := elemBits t
    let x := v.v 0 a
    let eas := v.gatherEas t xv (v.vs 1 b) (v.v 2 c)
    { traps := v.gatherTraps (w / 8) eas, sched := overFour eas, steady := true, demand := gatherDemand true,
      writes := [(3, .put (eas.flatMap fun e => putBytes (spadKey v.id e.2) (bytesOf (w / 8) (elemAt w x e.1))))] }
def execVstxN4 (a : VSrc) (b : VSSrc) (c : VSrc) (xv : SMask) : State → Out :=
  primOp [(0, .v a), (1, .s (vsToS b)), (2, .v c)] fun v =>
    let x := v.v 0 a
    let nas := ((List.range 128).filter fun i => v.c.active xv 16 i).map fun i =>
      (i, nibbleAddr (v.vs 1 b) (elemAt 16 (v.v 2 c) i : Nat))
    let eas := nas.map fun e => (e.1, e.2 / 2)
    { traps := v.gatherTraps 1 eas, sched := overFour eas, steady := true, demand := gatherDemand true,
      writes := [(3, .put (nas.map fun e => nibblePut (spadKey v.id (e.2 / 2)) e.2 (elemAt 16 x e.1)))] }

/-! ### Accumulator moves (R169) -/

/-- Whether two ranges of accumulators, each circular, share one. -/
def accOverlap (p q : Nat × Nat) : Bool :=
  p.2 != 0 && q.2 != 0 &&
    (decide ((p.1 + 65536 - q.1 % 65536) % 65536 < q.2) || decide ((q.1 + 65536 - p.1 % 65536) % 65536 < p.2))
/-- The matrix operation busy now touches the accumulators from `a` on. -/
def Core.matrixOverlap (c : Core) (a : Nat × Nat) : Bool :=
  match c.matrix with
  | some m => decide (c.ic < m.free) && m.accs.any (accOverlap a)
  | none => false
/-- The error of reading `n` accumulators from `i` on (R71). -/
def View.accFault (v : View) (i n : Nat) : Nat × Nat :=
  match v.st.mem.bad2 (accKey v.id i) (4 * n) with
  | some w => (0x0E, Config.accAddr ((w - accKey v.id 0) / 4) % 2 ^ 20)
  | none => (0, 0)
def View.movaPlan (v : View) (b : VSSrc) : Nat × Plan :=
  let a := (v.vs 1 b).toNat % 65536
  (a, { sched := if v.c.matrixOverlap (a, 64) then [(7, 0)] else [], accs := [(a, 64)],
        traps := if a % 64 = 0 then [] else [(1, 0x04, v.addrValue 0 a)] })
/-- VMOVA get. Masked or not, all 64 accumulators are checked for uncorrectable words (DESIGN CHOICE, log 43). -/
def execVmovaGet (d : VReg) (b : VSSrc) (xv : DMask) : State → Out :=
  primOp [(1, .s (vsToS b))] fun v =>
    let (a, p) := v.movaPlan b
    let e := v.accFault a 64
    let el := elemLoop 32 (v.c.active (dmReg xv) 32) (dmZero xv) .rne v.slot
      (fun i _ => (v.st.mem.read (accKey v.id (a + i)) 4, 0)) 64 0 v.c.gens
    { p with lands := [{ landElems d 3 32 0 el with pend := e.1, addr := e.2 }], scrub := [(accKey v.id a, 256)] }
def execVmovaPut (a : VSrc) (b : VSSrc) (xv : SMask) : State → Out :=
  primOp [(0, .v a), (1, .s (vsToS b))] fun v =>
    let (i, p) := v.movaPlan b
    let x := v.v 0 a
    { p with acts := [(1, .accs (((List.range 64).filter fun k => v.c.active xv 32 k).map fun k => (i + k, elemAt 32 x k)) v.slot)] }

/-! ### Stream ports (R170, R171, R173) -/

/-- Bank reads of the fill of unit `k`. -/
def bindDemand (w : BitVec 512) (k : Nat) : List (Nat × Bool × Nat) := (unitBanks w k).map fun b => (k, false, b)
def execVsbind (a : Port) (b : WReg) (wr : Bool) : State → Out :=
  primOp [(1, .w b)] fun v =>
    let w := v.w 1 b
    let bad := v.bindTraps w
    if !bad.isEmpty then { traps := bad }
    else { demand := if wr then [] else bindDemand w 0, scrub := if wr then [] else (unitBytes w 0).map fun p => (spadKey v.id p.2, 1), later := if wr then [] else (List.range 7).flatMap fun k => bindDemand w (k + 1),
           acts := [(1, .bind a (.walk wr w 0 (if wr then [] else [fillOf v.st.mem v.id w 0 v.c.ic]) 1))] }
def execVsunbind (a : VReg) : State → Out :=
  primOp [] fun _ => { acts := match portOf a with | some p => [(1, .unbind p)] | none => [] }

end Sys2Proof.Machine
end

