-- ==== Sys2Proof/Machine/Directional.lean ====
section
/-! DEFINITION. The V slots: directional vectors (06 R174 to R188). -/
namespace Sys2Proof.Machine

/-! ### Values (R174) -/

/-- The 128 Q1.15 elements of a direction. -/
def dirElems (x : VWord) : List Int := (List.range 128).map fun i => sextNat 16 (elemAt 16 x i)
def packDir (xs : List Int) : Nat := packElems 16 (xs.map (wrapNat 16))
def sumSq (xs : List Int) : Int := xs.foldl (fun s x => s + x * x) 0
def isZeroCode (norm : Nat) : Bool := norm == 0x8000
/-- `conf` of R174. -/
def confDir (xs : List Int) (norm : Nat) : Bool :=
  if isZeroCode norm then xs.all (· == 0) else decide ((sumSq xs - 2 ^ 30).natAbs ≤ 2 ^ 18)
/-- `q78` of a value given in units of 1/256. -/
def q78 (q : Int) : Res :=
  if 32767 < q then (0x7FFF, fSAT) else if q < -32767 then (0x8001, fSAT) else (wrapNat 16 q, 0)
def nuOf (norm : Nat) : Int := sextNat 16 norm
/-- A direction, a norm pattern and flags. -/
structure DirRes where
  dir : List Int
  norm : Nat
  flags : Flags
  deriving DecidableEq, Repr
/-- The zero code. -/
def zeroDir (fl : Flags) : DirRes := ⟨List.replicate 128 0, 0x8000, fl⟩

/-! ### Renormalisation (R177, R178) -/

/-- Rounded RNE to `n` significant bits. -/
def Exact.toSig (x : Exact) (n : Nat) : Exact :=
  if x.isZero then x else
    let ue := x.log2 - n + 1
    ⟨x.neg, (roundUnits .rne x ue).1, ue, false⟩
/-- The lowest index of the greatest magnitude, by its index and magnitude so far. -/
def maxIndex : Nat → Nat → Nat → List Int → Nat
  | _, best, _, [] => best
  | i, best, m, x :: rest => if m < x.natAbs then maxIndex (i + 1) i x.natAbs rest else maxIndex (i + 1) best m rest
/-- The final loop of renorm, on the element it adjusts and the sum of the squares of the others. -/
def settle (others : Int) : Nat → Int → Int
  | 0, x => x
  | n + 1, x =>
    let s := others + x * x
    if (s - 2 ^ 30).natAbs ≤ 2 ^ 18 then x
    else settle others n (if 2 ^ 30 < s then x - x.sign else x + x.sign)
/-- `renorm` of components `us · 2^ue` under the log-norm `m` in units of 1/256. -/
def renorm (us : List Int) (ue : Int) (m : Int) : DirRes :=
  let s2 := (sumSq us).natAbs
  let s : Exact := ⟨false, s2, 2 * ue, false⟩
  if s2 = 0 then zeroDir 0
  else if s.log2 < -60 then zeroDir fDUNDER
  else
    let r := s.rsqrt.toSig 24
    let xs := us.map fun u => clampInt (-32767) 32767 (roundInt .rne (((Exact.ofInt u).scale (ue + 15)).mul r)).1
    let j := maxIndex 0 0 0 xs
    let xj := xs.getD j 0
    let ys := xs.set j (settle (sumSq xs - xj * xj) 4096 xj)
    let n := q78 (roundInt .rne (Exact.add false (Exact.ofInt m) (s.flog2.scale 7))).1
    ⟨ys, n.1, n.2⟩

/-- `f` of an operand: `2^(k/256)` rounded RNE to 24 significant bits (R178). -/
def fFactor (k : Int) : Exact := (((Exact.ofInt k).scale (-8)).exp2).toSig 24
/-- A weight of `n / 2^15`, negative when `neg`. -/
def weightOf (neg : Bool) (n : Nat) : Exact := ⟨neg, n, -15, false⟩
/-- `trunc47` of a product, in units of 2^-47. -/
def trunc47 (x : Exact) : Int :=
  let a := (roundUnits .rtz x (-47)).1
  if x.neg then -(a : Int) else a
/-- `combine` over operands with their weight and factor `f`. -/
def combineDir (l : List (List Int × Exact × Exact)) (m : Int) : DirRes :=
  let us := (List.range 128).map fun i => l.foldl (fun (acc : Int) t =>
    acc + trunc47 ((t.2.1.mul ((Exact.ofInt (t.1.getD i 0)).scale (-15))).mul t.2.2)) 0
  renorm us (-47) m
/-- DADD and DSUB: operands that are not the zero code, with their sign and log weight (R183). -/
def weightedSum (ops : List (VWord × Nat × Bool × Int)) : DirRes :=
  match ops.filter fun o => !isZeroCode o.2.1 with
  | [] => zeroDir 0
  | o :: rest =>
    let m := rest.foldl (fun m p => max m (nuOf p.2.1 + p.2.2.2)) (nuOf o.2.1 + o.2.2.2)
    combineDir ((o :: rest).map fun p => (dirElems p.1, weightOf p.2.2.1 0x8000, fFactor (nuOf p.2.1 + p.2.2.2 - m))) m
/-- Whether `wa · 2^(na/256) > wb · 2^(nb/256)`, on 256th powers. -/
def heavier (wa : Nat) (na : Int) (wb : Nat) (nb : Int) : Bool :=
  let d := na - nb
  if 0 ≤ d then decide (wb ^ 256 < wa ^ 256 * 2 ^ d.toNat) else decide (wb ^ 256 * 2 ^ (-d).toNat < wa ^ 256)
/-- DLERP: operands with their weights in units of 2^-15; the operand of larger weighted norm fixes M as if its weight were 1, and its component is then its
weight times `x/2^15`; the other's is that of R178 with a log weight of 0 (DEDUCED, log 28). -/
def lerpDir (ops : List (VWord × Nat × Nat)) : DirRes :=
  match ops.filter fun o => !isZeroCode o.2.1 && o.2.2 != 0 with
  | [] => zeroDir 0
  | o :: rest =>
    let big := rest.foldl (fun b p => if heavier p.2.2 (nuOf p.2.1) b.2.2 (nuOf b.2.1) then p else b) o
    let m := nuOf big.2.1
    combineDir ((o :: rest).map fun p => (dirElems p.1, weightOf false p.2.2, fFactor (nuOf p.2.1 - m))) m

/-! ### Landing (R175) -/

def landDir (d : DReg) (lat latN : Nat) (r : DirRes) (latch : Bool := true) : List Land :=
  [{ dest := .dir d, lat, val := packDir r.dir, latch, flags := r.flags },
   { dest := .norm d, lat := latN, val := r.norm, mask := 0xFFFF, latch := false }]

/-! ### Instructions -/

/-- The operands of DFROM (R181). -/
def dfromRes (vs : List FVal) : DirRes :=
  if vs.any (fun x => match x with | .fin _ => false | _ => true) then zeroDir fNV
  else
    let xs := vs.filterMap fun x => match x with | .fin e => some e | _ => none
    match (xs.filter fun e => !e.isZero).map Exact.log2 with
    | [] => zeroDir 0
    | l :: rest =>
      let m := rest.foldl max l
      let k := xs.foldl (fun k e => min k e.e) 0
      renorm (xs.map fun e => e.atScale k) (k - m) (256 * m)
def execDfrom (d : DReg) (b : VSrc) (xv : Half16) : State → Out :=
  primOp [(1, .v b)] fun v =>
    let f : FFmt := match xv with | .f16 => .f16 | _ => .bf16
    let x := v.v 1 b
    { lands := landDir d 6 7 (dfromRes ((List.range 128).map fun i => f.readZ v.c.ftz (elemAt 16 x i))) }
/-- One element of DTO (R182). -/
def dtoElem (f : FFmt) (ftz : Bool) (md : Mode) (x : Int) (norm : Nat) : Res :=
  if isZeroCode norm then (0, 0)
  else f.round ftz md (((Exact.ofInt x).mul ((Exact.ofInt (nuOf norm)).scale (-8)).exp2).scale (-15))
def execDto (d : VReg) (b : DReg) (xv : DtoX) : State → Out :=
  primOp [(1, .d b)] fun v =>
    let (x, n) := v.d 1 b
    let f := ftyFmt xv.t
    v.elemPlan d f.width 4 xv.msk (v.c.rnd xv.rnd) fun i md =>
      dtoElem f v.c.ftz md (sextNat 16 (elemAt 16 x (if f.width = 32 then 64 * xv.hi.toNat + i else i))) n
/-- What a loaded pair lands as (R185). -/
def dldRes (x : VWord) (norm : Nat) : DirRes :=
  let xs := dirElems x
  if isZeroCode norm then zeroDir 0
  else if confDir xs norm then ⟨xs, norm, 0⟩
  else { renorm xs (-15) (nuOf norm) with flags := 0 }
def execDld (d : DReg) (b c : VSSrc) : State → Out :=
  primOp [(1, .s (vsToS b)), (2, .s (vsToS c))] fun v =>
    let ea := (v.vs 1 b).toNat
    let en := (v.vs 2 c).toNat
    let e := firstFault [v.readFault ea 256, v.readFault (en / 64 * 64) 64]
    let lands := landDir d v.c.ldLat (v.c.ldLat + 1) (dldRes (BitVec.ofNat 2048 (v.readSpad ea 256)) (v.readSpad en 2))
    { traps := v.spadTraps ea 256 64 ++ v.spadTraps en 2 2, demand := readDemand 0 ea 256 ++ readDemand 0 en 2,
      scrub := [(spadKey v.id ea, 256), (spadKey v.id en, 2)],
      lands := if e.1 = 0 then lands else (lands.take 1).map fun l => { l with pend := e.1, addr := e.2 } }
def execDst (a : DReg) (b c : VSSrc) : State → Out :=
  primOp [(0, .d a), (1, .s (vsToS b)), (2, .s (vsToS c))] fun v =>
    let (x, n) := v.d 0 a
    let ea := (v.vs 1 b).toNat
    let en := (v.vs 2 c).toNat
    { traps := v.spadTraps ea 256 64 ++ v.spadTraps en 2 2, demand := writeDemand 1 ea 256 ++ writeDemand 1 en 2,
      writes := [(1, .put (putBytes (spadKey v.id ea) (bytesOf 256 x.toNat) ++ putBytes (spadKey v.id en) (bytesOf 2 n)))] }
/-- A renormalised sum, the second operand subtracted when `neg`. -/
def dirSum (neg : Bool) (d b c : DReg) (xv : Option (BitVec 16)) : State → Out :=
  primOp [(1, .d b), (2, .d c)] fun v =>
    let (x, n) := v.d 1 b
    let (y, k) := v.d 2 c
    { lands := landDir d 6 7 (weightedSum [(x, n, false, 0), (y, k, neg, (xv.getD 0).toInt)]) }
def execDadd (d b c : DReg) (xv : Option (BitVec 16)) : State → Out := dirSum false d b c xv
def execDsub (d b c : DReg) (xv : Option (BitVec 16)) : State → Out := dirSum true d b c xv
/-- DSCALE and DNEG (R184): `neg` negates, `k` is added to the norm. -/
def scaleRes (neg : Bool) (x : VWord) (norm : Nat) (k : Int) : DirRes :=
  let xs := dirElems x
  if isZeroCode norm then zeroDir 0
  else if confDir xs norm then
    if neg then ⟨xs.map fun e => min (-e) 32767, norm, 0⟩
    else let q := q78 (nuOf norm + k); ⟨xs, q.1, q.2⟩
  else renorm (if neg then xs.map fun e => -e else xs) (-15) (nuOf norm + k)
def execDscale (d b : DReg) (x : DScaleX) : State → Out :=
  match x with
  | .reg r => primOp [(1, .d b), (2, .s (vsToS r))] fun v =>
    let (y, n) := v.d 1 b
    { lands := landDir d 6 7 (scaleRes false y n (sextNat 16 (v.vs 2 r).toNat)) }
  | .imm k => primOp [(1, .d b)] fun v =>
    let (y, n) := v.d 1 b
    { lands := landDir d 6 7 (scaleRes false y n k.toInt) }
def execDneg (d b : DReg) : State → Out :=
  primOp [(1, .d b)] fun v =>
    let (y, n) := v.d 1 b
    { lands := landDir d 6 7 (scaleRes true y n 0) }
def dotDir (xs ys : List Int) : Int := (xs.zip ys).foldl (fun s p => s + p.1 * p.2) 0
/-- DDOT's result (Table 6.3). -/
def ddotRes (x : VWord) (n : Nat) (y : VWord) (k : Nat) : Nat × Flags :=
  if isZeroCode n || isZeroCode k then (2 ^ 16 + 2 ^ 32 * 0x8000, 0)
  else
    let cos := clampInt (-32768) 32767 (roundInt .rne ((Exact.ofInt (dotDir (dirElems x) (dirElems y))).scale (-15))).1
    let q := q78 (nuOf n + nuOf k)
    (wrapNat 16 cos + 2 ^ 32 * q.1, q.2)
def execDdot (d : SReg) (b c : DReg) : State → Out :=
  primOp [(1, .d b), (2, .d c)] fun v =>
    let (x, n) := v.d 1 b
    let (y, k) := v.d 2 c
    let r := ddotRes x n y k
    { lands := [landS d 4 (BitVec.ofNat 64 r.1) r.2] }
def execDdotv (d : VReg) (b : DReg) (c : VSSrc) : State → Out :=
  primOp [(1, .d b), (2, .s (vsToS c))] fun v =>
    let (x, n) := v.d 1 b
    let ea := (v.vs 2 c).toNat
    let xs := dirElems x
    let e := v.readFault ea 16384
    let elems := (List.range 64).map fun j =>
      if isZeroCode n then 0
      else (FFmt.f32.round false .rne
        ((Exact.ofInt (dotDir xs (dirElems (BitVec.ofNat 2048 (v.readSpad (ea + 256 * j) 256))))).scale (-30))).1
    { traps := v.spadTraps ea 16384 64, demand := (List.range 16).flatMap fun m => (List.range 16).map fun k => (m, false, k),
      scrub := [(spadKey v.id ea, 16384)], lands := [{ landV d 20 (packElems 32 elems) with pend := e.1, addr := e.2 }] }
def execDnorm (d : SReg) (b : DReg) : State → Out := primOp [(1, .d b)] fun v => { lands := [landS d 1 (BitVec.ofNat 64 (v.d 1 b).2)] }
def execDcmpz (d : SReg) (b : DReg) : State → Out :=
  primOp [(1, .d b)] fun v =>
    let (x, n) := v.d 1 b
    { lands := [landS d 2 (BitVec.ofNat 64 ((isZeroCode n).toNat + 2 * (!confDir (dirElems x) n).toNat))] }
/-- What DSETN writes (R188). -/
def dsetnRes (x : VWord) (p : Nat) : DirRes :=
  if isZeroCode p then zeroDir 0 else if x = 0 then zeroDir 0 else ⟨dirElems x, p, 0⟩
def execDsetn (d : DReg) (b : VSSrc) : State → Out :=
  primOp [(0, .d d), (1, .s (vsToS b))] fun v =>
    { lands := landDir d 1 1 (dsetnRes (v.d 0 d).1 ((v.vs 1 b).toNat % 65536)) false }
def execDlerp (d b c : DReg) (t : BitVec 16) : State → Out :=
  primOp [(1, .d b), (2, .d c)] fun v =>
    let (x, n) := v.d 1 b
    let (y, k) := v.d 2 c
    { lands := landDir d 6 7 (lerpDir [(x, n, 0x8000 - t.toNat), (y, k, t.toNat)]) }

end Sys2Proof.Machine
end

