-- ==== Sys2Proof/Machine/Sequence.lean ====
section
/-! DEFINITION. The sequences of the command processor: PARTITION (R327 to R330) and CHECKPOINT (R344 to R346). -/
namespace Sys2Proof.Machine

/-- The main clock in MHz (Table 0.1). -/
def mhz (n : Nat) : Nat := if n ≤ 4 then 1300 else if n ≤ 6 then 1100 else 950
/-- Main-clock cycles of a number of microseconds. -/
def State.cyclesOf (s : State) (us : Nat) : Nat := us * mhz s.stkN

/-! ### Draining (Table 12.3 step 1, R344 step 1) -/

/-- The launches a sequence has to see off the device. -/
def State.toDrain (s : State) : List Launch := s.launches.filter fun l => l.phase != .saved && s.affected l.z
/-- The launches of the affected strata, saved ones included, whose porter runs have not ended. -/
def State.runsToEnd (s : State) : List Launch := s.launches.filter fun l => s.affected l.z && s.runsOf l.ctag
/-- Launches that a drain can pre-empt and has not asked: gang members are not pre-empted for it (R416). -/
def State.canDrain (s : State) (l : Launch) : Bool := !(l.gang s) && s.canLeave l && !(s.pending.contains (.preempt, .launch l.id))
/-- Every launch to be drained that can be pre-empted is, and the porter runs of all end. -/
def State.drain (s : State) : State :=
  (s.toDrain.filter s.canDrain).foldl State.requestPreempt (s.runsToEnd.foldl (fun (s : State) l => s.endRuns l.ctag) s)
/-- Launches that run on: neither asked to leave nor leaving. -/
def State.runOn (s : State) : List Launch := s.toDrain.filter fun l => l.phase != .preempting && l.phase != .retiring && !(s.pending.contains (.preempt, .launch l.id))
/-- At the deadline, launches that run on are retired as failed. -/
def State.forceOut (s : State) (q : Sequence) : State :=
  { s.runOn.foldl State.failLaunch s with sequence := some { q with retired := q.retired + s.runOn.length } }
/-- The deadline of a sequence has passed. -/
def State.late (s : State) (q : Sequence) : Bool := q.deadline != 0 && decide (s.cyclesOf q.deadline ≤ s.clock - q.since)

/-- Step 1: drain, and at the deadline force out or roll back where launches run on. -/
def State.stepDrain (s : State) (q : Sequence) (back : State → Sequence → State) : State :=
  if s.toDrain.isEmpty && s.runsToEnd.isEmpty then { s with sequence := some { q with step := 2 } }
  else
    let s1 := s.drain
    if s1.late q && !s1.runOn.isEmpty then (if q.force then s1.forceOut q else back s1 q) else s1

/-! ### PARTITION -/

/-- The PARTITION_DONE record (Table 12.4). -/
def doneRecord (status oldn newn time : Nat) (q : Sequence) : Nat :=
  status + 2 ^ 8 * oldn + 2 ^ 12 * newn + 2 ^ 16 * (q.retired % 2 ^ 16) + 2 ^ 32 * (q.preempted % 2 ^ 16) + 2 ^ 48 * (min q.moved 65535) + 2 ^ 64 * (time % 2 ^ 64)
/-- Report a PARTITION: its event, then its completion. -/
def State.partitionDone (s : State) (k : HostCmd) (q : Sequence) (status oldn : Nat) : State :=
  let newn := if status = 0 then q.new else oldn
  (({ s with sequence := none, stkBusy := false, stkN := newn } : State).event (1 + 2 ^ 256 * doneRecord status oldn newn s.clock q)).finishCmd k (Failure.of status)
/-- Every leaf of a table and its subtables: the address it maps from, where its entry lies, and the leaf. -/
def State.leavesFrom (s : State) (va : Nat) : Nat → Nat → List (Nat × Nat × TLeaf)
  | 0, e => (List.range 32).filterMap fun i =>
      let at_ := entryAddr e + 16 * i
      let x := s.tableEntry at_
      if bits x 1 0 = 3 then some (va + i * 2 ^ 16, at_, leafOf x 0) else none
  | n + 1, e => (List.range 512).flatMap fun i =>
      let at_ := entryAddr e + 16 * i
      let x := s.tableEntry at_
      let v := va + i * 2 ^ levelSize (n + 1)
      if bits x 0 0 = 0 then [] else if bits x 1 1 = 1 then [(v, at_, leafOf x (n + 1))] else s.leavesFrom v n x
/-- The first page of 64 KiB mapped in a window of the strata `[lo, hi)`: its space, address, entry and leaf. -/
def State.windowPage (s : State) (lo hi : Nat) : Option (Nat × Nat × Nat × TLeaf) :=
  (List.range 65536).findSome? fun sp =>
    let e := s.tableEntry (s.mgmt.sptbase + 16 * sp)
    if bits e 0 0 = 0 then none
    else ((s.leavesFrom 0 3 e).find? fun p => p.2.2.size == 16 && (match windowOf p.2.2.page with | some (z, _) => decide (lo ≤ z) && decide (z < hi) | none => false)).map fun p => (sp, p)
/-- Move a window page to a near frame of its space (R329, R337); none when the near stack is empty. -/
def State.movePage (s : State) (p : Nat × Nat × Nat × TLeaf) : Option State :=
  match s.smrPop p.1 0 8 8 with
  | none => none
  | some (s1, dst) =>
    let e := s1.mem.read p.2.2.1 16
    some (({ s1 with mem := (s1.mem.copyRegion p.2.2.2.page dst 65536).write p.2.2.1 16 (bits e 7 0 + 2 ^ 16 * (dst / 2 ^ 8) + 2 ^ 56 * (e / 2 ^ 56)) } : State).purgePage p.1 p.2.1)
/-- An owned line on a stratum that is affected. -/
def State.ownsAffected (s : State) : Bool := s.owned.any fun o => s.affected (homePorter o.line / 64)
/-- Steps 3 to 5: windows appear and disappear, all zero; stations forget; the clock and STKROLE take their new values. -/
def State.changeRoles (s : State) (k : HostCmd) (q : Sequence) : State :=
  let m := (List.range 8).foldl (fun (m : Memory) z => if s.affected z then m.zero (sramBase z) (sramBase z + 0x1400_0000) else m) s.mem
  (({ s with mem := m } : State).purgeSpace true 0).partitionDone k q 0 s.stkN
def State.stepPartition (s : State) (k : HostCmd) (q : Sequence) : State :=
  if q.step = 1 then
    s.stepDrain q fun s q => s.partitionDone k q 3 s.stkN
  else
    let page := if s.stkN < q.new then s.windowPage (8 - q.new) (8 - s.stkN) else none
    match page with
    | some p =>
      if (pageLines p.2.2.2.page).any fun l => (s.ownerOf l).isSome then s
      else match s.movePage p with
        | some s1 => { s1 with sequence := some { q with moved := q.moved + 1 } }
        | none => s.partitionDone k q 2 s.stkN
    | none => if s.ownsAffected then s else s.changeRoles k q
def HostCmd.sequence (k : HostCmd) (x : Nat) (checkpoint : Bool) (now : Nat) : Sequence :=
  { uid := k.uid, checkpoint, step := 1, new := bits x 3 0, force := bits x 4 4 == 1, deadline := bits x 31 8, since := now, retired := 0, preempted := 0, moved := 0,
    dest := k.field 15 8 }
def State.runPartition (s : State) (k : HostCmd) : State :=
  let x := k.field 15 8
  if !k.started then
    if !(s.chosen k) then s
    else if badPartition x then
      ((s.startCmd k).event (1 + 2 ^ 256 * doneRecord 1 s.stkN s.stkN s.clock (k.sequence x false s.clock))).finishCmd k (Failure.of 1)
    else if bits x 3 0 = s.stkN then (s.startCmd k).finishCmd k (Failure.of 0)
    else { s.startCmd k with sequence := some (k.sequence x false s.clock), stkBusy := true }
  else match s.sequence with
    | some q => if q.uid = k.uid then s.stepPartition k q else s
    | none => s
def execCmdPartition : State → Out := onCommand .cmdPartition State.runPartition

/-! ### CHECKPOINT -/

/-- A region: KIND, INDEX, base and length (R345). -/
structure Region where
  kind : Nat
  index : Nat
  base : Nat
  len : Nat
  deriving DecidableEq, Repr
def State.regions (s : State) : List Region :=
  ((List.range 8).map fun z => ⟨0, z, z * 0x6_0000_0000, 0x6_0000_0000⟩) ++ ((List.range (8 - s.stkN)).map fun z => ⟨1, z, sramBase z, 0x1400_0000⟩) ++
    (List.range 32).map fun i => ⟨2, i, 0x100_0000_0000 + i * 0x18_0000_0000, 0x18_0000_0000⟩
/-- Lines of a region whose check value fails. -/
def Memory.badLines (m : Memory) (r : Region) : List Nat := (m.cv.filter fun e => decide (r.base ≤ e.1) && decide (e.1 < r.base + r.len)).map (·.1)
/-- A region record (Table 12.11). -/
def Memory.regionRecord (m : Memory) (r : Region) : List Byte :=
  let bad := m.badLines r
  bytesOf 64 (r.kind + 2 ^ 8 * r.index + 2 ^ 64 * r.base + 2 ^ 128 * r.len + 2 ^ 192 * (bad.length % 2 ^ 32) + 2 ^ 256 * bad.headD 0) ++ shake256 (m.bytes r.base r.len)
/-- The manifest without its signature (R346). -/
def State.manifest (s : State) : List Byte :=
  bytesOf 128 (0x4B43_4E47 + 2 ^ 32 + 2 ^ 40 * s.regions.length + 2 ^ 48 * roleMap s.stkN + 2 ^ 64 * (s.clock % 2 ^ 64) + 2 ^ 128 * natOf (edPublic (bytesOf 57 Config.deviceKey))) ++
    s.regions.flatMap s.mem.regionRecord
/-- Send a region out to host memory, which keeps no check values. -/
def Memory.sendOut (m : Memory) (src dst n : Nat) : Memory :=
  let k := m.copyRegion src dst n
  { k with ecc2 := k.ecc2.filter (fun w => !(decide (dst ≤ w) && decide (w < dst + n))), cv := sclear dst (dst + n) k.cv }
/-- Where the destination list has a region go in host memory, or the manifest after the last region (log 15). -/
def streamKey (list i : Nat) : Nat := hostKey (Config.streamDest list i)
/-- Bytes as DATA flits of a route, three lines each, each line with the check value it has (R228, R403, R404). `off` is the stream offset of the first. -/
def State.sendData (s : State) (route off : Nat) : Nat → List (Nat × Nat) → State
  | 0, _ => s
  | fuel + 1, ls =>
    if ls.isEmpty then s else
    let e := s.routeEntry route
    let sl := (ls.take 3).zipIdx.map fun x => (⟨x.1.1, crc16 (bytesOf 64 x.1.1) ^^^ x.1.2, off + 64 * x.2⟩ : FlitSlot)
    let dst := bits e 14 2
    let h : FlitHead := { type := 10, nslot := sl.length, dst, src := s.modnum, route := bits e 30 15 }
    (s.sendFlit dst (slotFlit h (s.lseq dst) sl)).sendData route (off + 192) fuel (ls.drop 3)
/-- A region goes out: to host memory, where a failing line is poisoned, or to peer storage. -/
def State.streamRegion (s : State) (list i off : Nat) (r : Region) : State :=
  match Config.streamRoute list i with
  | some h => s.sendData h off (r.len / 64) ((List.range (r.len / 64)).map fun k => (s.mem.read (r.base + 64 * k) 64, s.mem.cvOf (r.base + 64 * k)))
  | none =>
    (s.mem.badLines r).foldl (fun (s : State) l => s.poisonTo l (lineOf (streamKey list i + (l - r.base)))) { s with mem := s.mem.sendOut r.base (streamKey list i) r.len }
/-- The manifest follows to its own place. -/
def State.streamManifest (s : State) (list i off : Nat) (bs : List Byte) : State :=
  match Config.streamRoute list i with
  | some h => s.sendData h off bs.length ((List.range ((bs.length + 63) / 64)).map fun k => (natOf ((bs.drop (64 * k)).take 64), 0))
  | none => { s with mem := s.mem.put (putBytes (streamKey list i) bs) }
/-- Steps 3 and 4: the regions go out, the manifest follows, and service resumes. -/
def State.writeCheckpoint (s : State) (k : HostCmd) (q : Sequence) : State :=
  let rs := s.regions
  let man := s.manifest
  let s1 := rs.zipIdx.foldl (fun (s : State) x => s.streamRegion q.dest x.2 ((rs.take x.2).map fun r => r.len).sum x.1) s
  let s2 := s1.streamManifest q.dest rs.length (rs.map fun r => r.len).sum (man ++ edSign (bytesOf 57 Config.deviceKey) man)
  (({ s2 with sequence := none } : State).event 3).finishCmd k (Failure.of 0)
/-- Everything in the device has ended (R344 step 2). -/
def State.quiet (s : State) : Bool :=
  s.moves.isEmpty && s.owned.isEmpty && !(s.porters.any fun p => p.2.ctxs.any fun c => c.run.isSome) && !(s.cmds.any fun k => k.started && cmdInstr k.opcode == some .cmdCopy)
def State.stepCheckpoint (s : State) (k : HostCmd) (q : Sequence) : State :=
  if q.step = 1 then
    s.stepDrain q fun s _ => ({ s with sequence := none } : State).finishCmd k (Failure.of 3)
  else if s.quiet then s.writeCheckpoint k q
  else s
def State.runCheckpoint (s : State) (k : HostCmd) : State :=
  if !k.started then
    if !(s.chosen k) then s
    else if bits (k.field 23 16) 7 5 ≠ 0 ∨ bits (k.field 23 16) 63 32 ≠ 0 then (s.startCmd k).finishCmd k (Failure.of 1)
    else { s.startCmd k with sequence := some (k.sequence (k.field 23 16) true s.clock) }
  else match s.sequence with
    | some q => if q.uid = k.uid then s.stepCheckpoint k q else s
    | none => s
def execCmdCheckpoint : State → Out := onCommand .cmdCheckpoint State.runCheckpoint

end Sys2Proof.Machine
end

