-- ==== Sys2Proof/Machine/Fabric.lean ====
section
/-! DEFINITION. The fabric unit: flits that arrive (R403, R404), PATH 2 channels (R408 to R411), collective groups (R412 to R414) and the gang gate
(R415, R416). -/
namespace Sys2Proof.Machine

/-- What a flit of a type does. One that fails the CRC of its link is to be resent, and every flit after it: until it comes again, the link takes none
(R404). One that fails its other checks, or that comes while the module is not ready, is discarded. -/
def onFlit (ty : Nat) (f : State → List Byte → State) (s : State) : Out :=
  match s.cur with
  | .event (.flit x) =>
    if 18 ≤ x.port then .fault .noSuchUnit
    else if !s.ready then .next s
    else if !crcOk x.bytes then .next (s.linkBad x.port)
    else if !(s.linkIn x.port).takes (flitSeq x.bytes) then .next s
    else
      let s1 := s.linkGood x.port (flitSeq x.bytes)
      if flitOk x.bytes && bits (flitHead x.bytes) 3 0 == ty then .next (f s1 x.bytes) else .next s1
  | _ => .fault .noAgent
def flitRoute (bs : List Byte) : Nat := bits (flitHead bs) 49 34
def flitGroup (bs : List Byte) : Nat := bits (flitHead bs) 41 34
def flitSrc (bs : List Byte) : Nat := bits (flitHead bs) 33 21
def flitStep (bs : List Byte) : Nat := bits (flitHead bs) 111 64
def flitCount (bs : List Byte) : Nat := bits (flitHead bs) 119 112
/-- The tag words of an ACK or a REFUSE. -/
def flitTags (bs : List Byte) : List Nat := (List.range (min (flitCount bs) 59)).map (flitWord bs)

/-! ### Ends of a route -/

/-- Where a route's local end is: on the device, saved with its launch, or with no launch. -/
inductive EndAt where
  | here (core : Nat) (ch : Chan) | saved | nowhere
  deriving DecidableEq, Repr
def isEnd (h mode : Nat) (e : Endpoint) : Bool := e.path == 2 && e.mode == mode && e.routeOf == h
def State.routeEnd (s : State) (h mode : Nat) : EndAt :=
  let e := s.routeEntry h
  let core := bits e 42 32
  let ch : Chan := Fin.ofNat 16 (bits e 46 43)
  if bits e 0 0 = 0 ∨ bits e 1 1 ≠ mode - 1 then .nowhere
  else if (s.launchOf core).isSome && isEnd h mode ((s.core core).ep ch) && !((s.launchOf core).any fun l => s.away (portName l core)) then .here core ch
  else if s.hidden.any fun x => x.live && x.id == core && isEnd h mode (x.core.ep ch) then .saved
  else .nowhere

/-! ### Messages (R410) -/

def State.sendAck (s : State) (h tag : Nat) : State := s.sendWords h 3 [tag] 1 0
def State.sendRefuse (s : State) (h tag status : Nat) : State := s.sendWords h 4 [tag] 1 status
/-- An original that arrives lowers GRANTOUT, whatever its fate (R293, R409). -/
def State.lowerGrant (s : State) (core : Nat) (ch : Chan) (resend : Bool) : State :=
  if resend then s else s.updCore core fun c => c.updEp ch fun e => { e with grantOut := e.grantOut - 1 }
/-- The same while the receiver is saved: counted for its CLOAD (R410). -/
def State.countRefused (s : State) (h : Nat) (resend : Bool) : State := if resend then s else s.updRoute h fun r => { r with refused := r.refused + 1 }
/-- The step after which a group's messages are discarded. -/
def State.agreedOf (s : State) (h : Nat) : Option Nat :=
  let e := s.routeEntry h
  if bits e 47 47 = 1 then (s.group (bits e 55 48)).agreed else none
/-- The fate of an arriving message (Table 15.5). -/
def State.arriveFabric (s : State) (h m : Nat) (resend : Bool) : State :=
  let r := s.route h
  let tag := messageTag m
  if (match s.agreedOf h with | some a => decide (a < messageStep m) | none => false) then s
  else if r.seen.contains tag || r.prevSeen.contains tag then
    let s1 := match s.routeEnd h 2 with
      | .here core ch => s.lowerGrant core ch resend
      | .saved => s.countRefused h resend
      | .nowhere => s
    if r.acked.contains tag then s1.sendAck h tag else s1
  else match s.routeEnd h 2 with
    | .nowhere => s
    | .saved => (s.countRefused h resend).sendRefuse h tag 2
    | .here core ch =>
      if ((s.core core).ep ch).sealed then (s.lowerGrant core ch resend).sendRefuse h tag 1
      else if 4096 ≤ r.seen.length then (s.lowerGrant core ch resend).sendRefuse h tag 3
      else ((s.lowerGrant core ch false).updCore core fun c => c.updEp ch fun e => { e with msgs := e.msgs ++ [m] }).updRoute h fun r => { r with seen := r.seen ++ [tag] }
/-- The messages of a MSG flit, with the STEP they carry, and whether each is a RESEND copy. -/
def flitMessages (s : State) (bs : List Byte) : List (Nat × Bool) :=
  let grp := bits (s.routeEntry (flitRoute bs)) 47 47 == 1
  (List.range (bits (flitHead bs) 5 4)).map fun i => (withStep (if grp then flitStep bs else 0) (flitSlotData bs i), bits (flitDesc bs i) 0 0 == 1)
def execMsgFlit : State → Out := onFlit 1 fun s bs => (flitMessages s bs).foldl (fun s x => s.arriveFabric (flitRoute bs) x.1 x.2) s
/-- Allowances for the sending end (R408); kept for it while its launch is saved. -/
def State.arriveGrant (s : State) (h n : Nat) : State :=
  match s.routeEnd h 1 with
  | .here core ch => (s.updCore core fun c => c.updEp ch fun e => { e with sendAllow := e.sendAllow + n }).resendFabric core ch
  | .saved => s.updRoute h fun r => { r with allow := r.allow + n }
  | .nowhere => s
def execGrantFlit : State → Out := onFlit 2 fun s bs => s.arriveGrant (flitRoute bs) (flitCount bs)
/-- An acknowledgement releases the oldest retained message with its tag. -/
def execAckFlit : State → Out := onFlit 3 fun s bs =>
  s.updRoute (flitRoute bs) fun r => { r with retained := (flitTags bs).foldl (fun l t => dropFirst (fun (m : Nat × Nat) => messageTag m.1 == t) l) r.retained }
/-- A refused message goes to the resend queue, unless it is there. -/
def Route.refuse (r : Route) (t : Nat) : Route :=
  match r.retained.find? fun m => messageTag m.1 == t with
  | some m => { r with retained := r.retained.erase m, resend := r.resend ++ [m.1] }
  | none => r
def execRefuseFlit : State → Out := onFlit 4 fun s bs =>
  let s1 := s.updRoute (flitRoute bs) fun r => (flitTags bs).foldl Route.refuse r
  match s1.routeEnd (flitRoute bs) 1 with
  | .here core ch => s1.resendFabric core ch
  | _ => s1
/-- R409: a message unacknowledged for RTOUS since its last sending goes out again alone, as a RESEND copy. -/
def State.retransmit (s : State) (h : Nat) : State :=
  let r := s.route h
  let us := bits (s.routeEntry h) 95 64
  let limit := s.cyclesOf (if us = 0 then 100 else us)
  let late (m : Nat × Nat) : Bool := decide (limit ≤ s.clock - m.2)
  if r.retained.isEmpty && r.resend.isEmpty then s.unpost .retransmissionTimeout (.num h)
  else
    let again (m : Nat × Nat) : Nat := withStep (s.stepOf h) m.1
    let s1 := s.updRoute h fun r => { r with retained := r.retained.map fun m => if late m then (again m, s.clock) else m }
    (r.retained.filter late).foldl (fun s m => s.sendRows h true 1 [again m]) s1
def execRetransmissionTimeout (s : State) : Out :=
  match s.cur with
  | .event (.num h) => if 65536 ≤ h then .fault .noSuchUnit else .next (s.retransmit h)
  | _ => .fault .noAgent

/-! ### Groups (R413, R414) -/

/-- The member of a group that a module is. -/
def State.memberOf (s : State) (g src : Nat) : Option Nat := (s.members g).find? fun m => s.memberModule g m == src
def onMember (ty : Nat) (f : State → Nat → Nat → List Byte → State) : State → Out :=
  onFlit ty fun s bs => match s.memberOf (flitGroup bs) (flitSrc bs) with | some m => f s (flitGroup bs) m bs | none => s
def execStepFlit : State → Out := onMember 5 fun s g m bs => s.updGroup g fun x => { x with steps := sput 0 x.steps m (flitStep bs) }
/-- An abort of another member: this one aborts too, or answers a second aborter with the same value. -/
def execAbortFlit : State → Out := onMember 6 fun s g m bs =>
  if (s.group g).closed then s.sendGroup g m 7 (s.group g).commit [] else s.beginAbort g (flitWord bs 0 % 2 ^ 8) m
def execFinalFlit : State → Out := onMember 7 fun s g m bs =>
  (s.updGroup g fun x => { x with finals := kput x.finals m (flitStep bs) }).tryAgree g
def execAgreedFlit : State → Out := onMember 8 fun s g _ bs =>
  if (s.group g).closed && (s.group g).agreed.isNone then s.applyAgreed g (flitStep bs) else s
/-- A member that cannot be reached for 1 s: its last STEP stands for its FINAL. -/
def State.unreachable (s : State) (g m : Nat) : State :=
  let s1 := s.updGroup g fun x => { x with silent := nput x.silent m }
  if (s.group g).closed then
    if (s.group g).agreed.isSome then s1
    else (if s1.actingAborter g = s.actingAborter g then s1 else s1.sendFinal g).tryAgree g
  else s1.raiseAbort g 0xFF
def execMemberUnreachable (s : State) : Out :=
  match s.cur with
  | .event (.member g m) =>
    if 256 ≤ g ∨ 4608 ≤ m then .fault .noSuchUnit
    else .next (if s.ready && decide (m < s.memberCount g) && m != s.selfIndex g then s.unreachable g m else s)
  | _ => .fault .noAgent

/-! ### The gang gate (R415, R416) -/

/-- READY with GID and EPOCH. -/
def execReadyFlit : State → Out := onMember 9 fun s g m bs =>
  if flitWord bs 0 = s.groupId g then
    let s1 := s.updGroup g fun x => { x with readies := sput 0 x.readies m (flitWord bs 1 + 2 ^ 32 * flitWord bs 2) }
    (s1.launches.filter fun l => l.groupSlot == some g).foldl State.tryGate s1
  else s
def execGangpreFlit : State → Out := onMember 11 fun s g _ _ =>
  (s.launches.filter fun l => l.groupSlot == some g && l.preen && l.started && l.phase == .running && l.cores.all fun c => (s.core c).live).foldl State.requestPreempt s
/-- A slice ends SLICEUS after its release: a member still running has overrun, and runs on. -/
def execSliceEnd (s : State) : Out :=
  match s.cur with
  | .event (.launch id) =>
    let gone := s.unpost .sliceEnd (.launch id)
    match s.launches.find? fun l => l.id == id with
    | none => .next gone
    | some l =>
      match l.groupSlot with
      | none => .next gone
      | some g =>
        if l.phase ≠ .running then .next gone
        else if s.clock < l.released + s.cyclesOf (s.sliceUs g) then .next s
        else .next ((gone.putGroup g 40 8 (bits (s.groupRecord g) 383 320 + 1)).setLaunch { l with sliceOver := true })
  | _ => .fault .noAgent

/-! ### DATA (R404) -/

/-- A line of a peer's stream, as it arrives: none of an invalid route, or of a place without memory. -/
def State.peerSlot (s : State) (h : Nat) (bs : List Byte) (i : Nat) : Option PeerLine :=
  let desc := flitDesc bs i
  let a := (Config.streamBase h + 4 * (desc / 4)) / 64 * 64
  let data := flitSlotData bs i
  if s.hasMemory a then some ⟨h, a, data, if bits desc 1 1 = 1 then none else some (flitSlotCv bs i ^^^ crc16 (bytesOf 64 data))⟩ else none
/-- It is written with the check value it came with, or a new one. -/
def State.peerLine (s : State) (x : PeerLine) : State :=
  let bs := bytesOf 64 x.data
  let m := match x.cv with | none => s.mem.putDev (putBytes x.line bs) | some cv => s.mem.putLineDev x.line bs cv
  ({ s with mem := m } : State).noteWrite x.line 64
/-- The lines of a route are performed in the order of their arrival, the first one that is owned waiting for the recall (R318, R404). -/
def State.peerDrain (s : State) (h : Nat) : Nat → State
  | 0 => s
  | n + 1 =>
    match s.peerLines.find? fun x => x.route == h with
    | none => s
    | some x =>
      match s.recallWait (.dataFlit, .num h) [x.line] with
      | some s1 => s1
      | none => (({ s with peerLines := s.peerLines.erase x } : State).peerLine x).peerDrain h n
def State.arriveData (s : State) (bs : List Byte) : State :=
  let h := flitRoute bs
  if bits (s.routeEntry h) 0 0 = 0 then s
  else
    let s1 : State := { s with peerLines := s.peerLines ++ (List.range (bits (flitHead bs) 5 4)).filterMap (s.peerSlot h bs) }
    s1.peerDrain h s1.peerLines.length
/-- A DATA flit arrives; or, by its route alone, lines that waited for a recall are performed. -/
def execDataFlit (s : State) : Out :=
  match s.cur with
  | .event (.num h) => .next (s.peerDrain h s.peerLines.length)
  | _ => onFlit 10 State.arriveData s

end Sys2Proof.Machine
end

