-- ==== Sys2Proof/Machine/HostPort.lean ====
section
/-! DEFINITION. What the host and the board do to the module: BAR 0 registers (R350, R351), BAR 2 (R354), function resets, power and bring-up
(R375 to R378), tokens and heat (R380, R381), bit errors (R71, R309) and link failures (R404). -/
namespace Sys2Proof.Machine

/-! ### BAR 0 -/

/-- The register at 0x008 takes a written value. A number that names no function leaves FN as it is (DESIGN CHOICE, log 44). -/
def setQueue0 (q : Queue) (v : Nat) : Queue := { q with sqsize := bits v 3 0, prio := bits v 5 4, fn := if bits v 10 6 ≤ 16 then bits v 10 6 else q.fn }
/-- The PF fields of a queue page at an offset, as they stand. -/
def Queue.pfBits (q : Queue) (o : Nat) : Option Nat :=
  if o = 0x008 then some (2 ^ 4 * q.prio + 2 ^ 6 * q.fn) else if o = 0x020 then some (2 ^ 4 * q.vec) else none
def pfMask (o v : Nat) : Nat := if o = 0x008 then v &&& 0x7F0 else v &&& 0xFF0
/-- A VF's write to a protected field (R351): any write of QSPACE and QTENANT, and one that would change PRIO, FN or VEC (log 27). -/
def Queue.protectedWrite (q : Queue) (o v : Nat) : Bool :=
  o == 0x010 || (match q.pfBits o with | some x => x != pfMask o v | none => false)
/-- The 8 bytes of the inline window at an offset. -/
def setInline (old o v : Nat) : Nat := mergeBits old ((2 ^ 64 - 1) * 2 ^ (8 * o)) (v * 2 ^ (8 * o))
/-- A write to a queue page at a BAR offset. Doorbells and EN act as their own steps. -/
def State.pageWrite (s : State) (f q off v : Nat) : State :=
  let o := off % 4096
  let x := s.queue q
  let act (i : Instr) : State := { s with agenda := .event i (.queue q f v) :: s.agenda }
  if f ≠ 0 ∧ x.protectedWrite o v then s.freezeFn f off
  else if o = 0x000 then s.updQueue q fun x => { x with sqbase := v }
  else if o = 0x008 then
    let s1 := s.updQueue q fun x => setQueue0 x v
    { s1 with agenda := .event .queueEn (.queue q f (bits v 11 11)) :: s1.agenda }
  else if o = 0x010 then s.updQueue q fun x => { x with qspace := bits v 15 0, qtenant := bits v 31 16 }
  else if o = 0x018 then s.updQueue q fun x => { x with cqbase := v }
  else if o = 0x020 then s.updQueue q fun x => { x with cqsize := bits v 3 0, vec := bits v 11 4 }
  else if o = 0x040 then act .sqtail
  else if o = 0x050 then act .cqhead
  else if 0x100 ≤ o ∧ o < 0x180 then s.updQueue q fun x => { x with inline := setInline x.inline (o - 0x100) v }
  else if o = 0x180 then act .inlgo
  else s
/-- A write to a management register (Table 13.3). The table bases stand while any launch is placed. -/
def State.mgmtWrite (s : State) (o v : Nat) : State :=
  let m := s.mgmt
  let a := v % 2 ^ 48
  let free := s.launches.isEmpty
  if o = 0x000 then (if free then { s with mgmt := { m with sptbase := a } } else s)
  else if o = 0x008 then (if free then { s with mgmt := { m with smrbase := a } } else s)
  else if o = 0x010 then (if free then { s with mgmt := { m with ctxtbase := a } } else s)
  else if o = 0x018 then (if free then { s with mgmt := { m with htbase := a } } else s)
  else if o = 0x020 then { s with mgmt := { m with fzbase := a } }
  else if o = 0x030 then { s with mgmt := { m with evqbase := v % 2 ^ 64 } }
  else if o = 0x038 then { s with mgmt := { m with evqsize := v % 2 ^ 12 } }
  else if 0x040 ≤ o ∧ o < 0x040 + 8 * 17 then s.updFn ((o - 0x040) / 8) fun f => { f with space := bits v 15 0, tenant := bits v 31 16, win := bits v 47 32 }
  else s
/-- The queue whose page a function's BAR 0 shows at an offset. -/
def State.pageQueue (s : State) (f off : Nat) : Option Nat :=
  if f = 0 then (if 0x10_0000 ≤ off ∧ off < 0x10_0000 + 4096 * 64 then some ((off - 0x10_0000) / 4096) else none)
  else ((List.range 64).filter fun q => (s.queue q).fn == f)[off / 4096]?.filter fun _ => decide (off < 65536)
def State.registerWrite (s : State) (f off v : Nat) : State :=
  if ¬ s.power ∨ s.fnFrozen f ∨ off % 8 ≠ 0 then s
  else match s.pageQueue f off with
    | some q => s.pageWrite f q off v
    | none =>
      if f = 0 ∧ 0x1000 ≤ off ∧ off < 0x2000 then s.mgmtWrite (off - 0x1000) v
      else if f = 0 ∧ 0x20_0000 ≤ off ∧ off < 0x20_1000 then
        { s with msix := ((List.range 8).zip (bytesOf 8 v)).foldl (fun l e => sput (0 : Byte) l (off - 0x20_0000 + e.1) e.2) s.msix }
      else s
/-- `STKROLE` (Table 12.1). -/
def State.stkrole (s : State) : Nat :=
  s.stkN + 2 ^ 8 * roleMap s.stkN + 2 ^ 16 * (if s.stkN ≤ 4 then 0 else if s.stkN ≤ 6 then 1 else 2) + 2 ^ 18 * s.stkBusy.toNat + 2 ^ 19 * (decide (s.stkN < 8)).toNat
/-- DEVID (Table 13.2). -/
def devid : Nat := 0x0000_2600_0000_4E59
/-- A register of the device status page (Table 13.2). -/
def State.statusRead (s : State) (o : Nat) : Nat :=
  if o = 0x000 then devid
  else if o = 0x008 then s.ready.toNat + 2 * s.fail.toNat + 2 ^ 8 * (s.failcode % 2 ^ 8) + 2 ^ 16 * (s.fwver % 2 ^ 16) + 2 ^ 32 * (s.cfgver % 2 ^ 16)
  else if o = 0x010 then s.clock % 2 ^ 64
  else if o = 0x018 then s.outerr
  else if o = 0x040 then s.stkrole
  else 0
/-- A management register (Table 13.3). -/
def State.mgmtRead (s : State) (o : Nat) : Nat :=
  let m := s.mgmt
  if o = 0x000 then m.sptbase
  else if o = 0x008 then m.smrbase
  else if o = 0x010 then m.ctxtbase
  else if o = 0x018 then m.htbase
  else if o = 0x020 then m.fzbase
  else if o = 0x028 then m.fzcount
  else if o = 0x030 then m.evqbase
  else if o = 0x038 then m.evqsize
  else if 0x040 ≤ o ∧ o < 0x040 + 8 * 17 then let f := s.fn ((o - 0x040) / 8); f.space + 2 ^ 16 * f.tenant + 2 ^ 32 * f.win
  else 0
/-- A register of a queue page (Table 13.4): what is only written reads zero (Table 0.4). -/
def Queue.read (q : Queue) (o : Nat) : Nat :=
  if o = 0x000 then q.sqbase
  else if o = 0x008 then min q.sqsize 8 + 2 ^ 4 * q.prio + 2 ^ 6 * q.fn + 2 ^ 11 * q.en.toNat
  else if o = 0x010 then q.qspace + 2 ^ 16 * q.qtenant
  else if o = 0x018 then q.cqbase
  else if o = 0x020 then q.cqsize + 2 ^ 4 * q.vec
  else if o = 0x048 then q.sqhead
  else 0
/-- What a read of 8 bytes of a function's BAR 0 gives; none is Unsupported Request: no power, or a frozen function (R350, R355). The opcode table has no
event for such a read: it changes nothing. -/
def State.registerRead (s : State) (f off : Nat) : Option Nat :=
  if ¬ s.power ∨ s.fnFrozen f then none
  else if off % 8 ≠ 0 then some 0
  else match s.pageQueue f off with
    | some q => some ((s.queue q).read (off % 4096))
    | none =>
      if f ≠ 0 then some 0
      else if off < 0x1000 then some (s.statusRead off)
      else if off < 0x2000 then some (s.mgmtRead (off - 0x1000))
      else if 0x20_0000 ≤ off ∧ off < 0x20_1000 then some (natOf ((List.range 8).map fun i => sget (0 : Byte) s.msix (off - 0x20_0000 + i)))
      else if 0x20_1000 ≤ off ∧ off < 0x20_1020 then some (((List.range 64).map fun i => if s.pba.contains (8 * (off - 0x20_1000) + i) then 2 ^ i else 0).sum)
      else some 0
def execRegisterWrite (s : State) : Out :=
  match s.cur with
  | .event (.reg f off v) => if 17 ≤ f then .fault .noSuchUnit else .next (s.registerWrite f off (v % 2 ^ 64))
  | _ => .fault .noAgent

/-! ### BAR 2 (R354) -/

/-- The size of a function's BAR 2, set through its Resizable BAR capability, which the opcode table has no event for: 1 GiB to 64 GiB. -/
def Fn.barSize (g : Fn) : Nat := 2 ^ (30 + min g.bar 6)
def State.setBarSize (s : State) (f k : Nat) : State := if k ≤ 6 then s.updFn f fun g => { g with bar := k } else s
/-- The event that goes on with an access. -/
def HostAccess.ev (a : HostAccess) : Ev := (if a.data.isSome then .bar2Write else .bar2Read, .num a.fn)
/-- Translate an access of a function and reach its line. -/
def State.bar2At (s : State) (a : HostAccess) : State × Reply (Nat × TLeaf) :=
  let g := s.fn a.fn
  let r : Req := { ev := a.ev, station := 0, space := g.space, tenant := g.tenant, ctag := 0, who := 0 }
  andThen (s.translate r (g.win * 2 ^ 30 + a.off) (if a.data.isSome then 1 else 0)) fun s p => andThen (s.reach r p.1 a.n) fun s _ => (s, .ok p)
def State.answerRead (s : State) (a : HostAccess) (x : Option (List Byte)) (bad : Bool) : State :=
  if a.data.isSome then s else { s with hostReads := s.hostReads ++ [⟨a.fn, a.off, x, bad⟩] }
/-- The lines of a read that fail their check. -/
def Memory.failing (m : Memory) (l : TLeaf) (pa n : Nat) : List Nat :=
  let x := storedAt l pa n
  let stored := linesIn x.1 x.2
  stored.filter fun x => (m.badCv x 64).isSome || (m.bad2 x 64).isSome
/-- What an access does at its place: a read answers, each failing line recorded and the completion poisoned (R349); a write makes check values where it
enters, partial lines merged. -/
def State.bar2Do (s : State) (a : HostAccess) (p : Nat × TLeaf) : State :=
  match a.data with
  | some b => ({ s with mem := s.mem.putDev (putBytes p.1 b) } : State).noteWrite p.1 b.length
  | none =>
    let bad := s.mem.failing p.2 p.1 a.n
    let s1 : State := bad.foldl State.poisoned { s with mem := s.mem.scrubRead p.2 p.1 a.n }
    s1.answerRead a (some (s.mem.devRead p.2 p.1 a.n true).bytes) (!bad.isEmpty)
/-- An access is over: the next of its function goes on. -/
def State.bar2Over (s : State) (a : HostAccess) : State :=
  let s1 : State := { (s.forget a.ev).unpostEv a.ev with bar2 := s.bar2.erase a }
  match s1.bar2.find? fun x => x.fn == a.fn with
  | some b => s1.postEv b.ev
  | none => s1
/-- Perform the first access of a function that waits. -/
def State.bar2Run (s : State) (f : Nat) (ev : Ev) : State :=
  match s.bar2.find? fun x => x.fn == f with
  | none => s.unpostEv ev
  | some a =>
    if a.ev ≠ ev then s.unpostEv ev
    else if ¬ s.ready ∨ s.fnFrozen f then (s.answerRead a none false).bar2Over a
    else
      let x := s.bar2At a
      match x.2 with
      | .ok p => (x.1.bar2Do a p).bar2Over a
      | .wait => x.1
      | .retry => x.1.postEv ev
      | .fault _ => (x.1.answerRead a none false).bar2Over a
      | .viol v => ((x.1.answerRead a none false).bar2Over a).freezeFn f v
/-- An access is delivered: it is performed after those of its function that wait (R354, R389). Before READY, of a frozen function, or beyond the BAR, a
read answers Unsupported Request and a write is discarded. -/
def State.bar2Take (s : State) (a : HostAccess) : State :=
  if ¬ s.ready ∨ s.fnFrozen a.fn ∨ (s.fn a.fn).barSize < a.off + a.n then s.answerRead a none false
  else
    let s1 : State := { s with bar2 := s.bar2 ++ [a] }
    if s.bar2.any fun x => x.fn == a.fn then s1 else s1.bar2Run a.fn a.ev
def execBar2Read (s : State) : Out :=
  match s.cur with
  | .event (.reg f off n) => if 17 ≤ f ∨ n = 0 ∨ 4096 < off % 4096 + n then .fault .noSuchUnit else .next ((s.unpost .bar2Read (.reg f off n)).bar2Take ⟨f, off, n, none, s.tick⟩)
  | .event (.num f) => .next (s.bar2Run f (.bar2Read, .num f))
  | _ => .fault .noAgent
def execBar2Write (s : State) : Out :=
  match s.cur with
  | .event (.bytes f off b) =>
    if 17 ≤ f ∨ b.length = 0 ∨ 4096 < off % 4096 + b.length then .fault .noSuchUnit else .next ((s.unpost .bar2Write (.bytes f off b)).bar2Take ⟨f, off, b.length, some b, s.tick⟩)
  | .event (.num f) => .next (s.bar2Run f (.bar2Write, .num f))
  | _ => .fault .noAgent

/-! ### Functions, power, heat -/

/-- A VF's reset, ignored while the function is frozen (R355). -/
def execFunctionLevelReset (s : State) : Out :=
  match s.cur with
  | .event (.num f) => if f = 0 ∨ 17 ≤ f then .fault .noSuchUnit else .next (if s.power && !(s.fnFrozen f) then s.resetFn f else s)
  | _ => .fault .noAgent
/-- Bring-up (Table 13.11): its first failing step, the version check of step 5 among them (R377). -/
def State.bringUpFails (s : State) (b : BringUp) : Option Nat :=
  match b.failStep with
  | some k => if k ≤ 5 then some k else if b.strata = 0 ∨ 8 < b.strata ∨ b.fwver < s.rollback then some 5 else some k
  | none => if b.strata = 0 ∨ 8 < b.strata ∨ b.fwver < s.rollback then some 5 else none
/-- Host memory is what the module's own loss of power leaves. -/
def Memory.hostPart (m : Memory) : Memory := m.zero 0 (2 ^ 47)
/-- Step 5 applies the configuration record and the versions, and raises the counter (R376, R377). -/
def State.configured (s : State) (b : BringUp) : State :=
  { s with stkN := b.strata, modnum := b.modnum % 2 ^ 13, fwver := b.fwver % 2 ^ 16, cfgver := b.cfgver % 2 ^ 16, rollback := max s.rollback b.fwver }
/-- Step 6 writes every tier and window to zero. -/
def State.wiped (s : State) : State := { s with mem := s.mem.hostPart }
/-- Bring-up: a step that fails leaves what the steps before it did. -/
def execPowerGood (s : State) : Out :=
  match s.cur with
  | .event (.bringUp b) =>
    if s.ready ∨ s.fail then .next s
    else match s.bringUpFails b with
      | some k =>
        let s1 := if 6 ≤ k then s.configured b else s
        let s2 := if 7 ≤ k then s1.wiped else s1
        .next { s2 with power := true, fail := true, failcode := k }
      | none => .next { (s.configured b).wiped with power := true, ready := true }
  | _ => .fault .noAgent
/-- Nothing is left but configuration flash; what has left the module has left it (R375). -/
def State.dark (s : State) : State :=
  { State.reset with power := false, tick := s.tick, inputs := s.inputs, rollback := s.rollback, mem := s.mem.hostPart, outFlits := s.outFlits, hostReads := s.hostReads, epWrites := s.epWrites }
def execPowerLoss (s : State) : Out :=
  match s.cur with
  | .event .unit => .next s.dark
  | _ => .fault .noAgent
/-- The manager gives every core 29 to 34 tokens a cycle; at the warning limit it holds them at 29 (R380, R381). -/
def execTokenAllowanceUpdate (s : State) : Out :=
  match s.cur with
  | .event (.num n) => .next (if s.power then { s with allowance := if s.thermal then 29 else max 29 (min 34 n) } else s)
  | _ => .fault .noAgent
def execThermalWarning (s : State) : Out :=
  match s.cur with
  | .event .unit => .next (if s.power then ({ s with thermal := true, allowance := 29 } : State).event 4 else s)
  | _ => .fault .noAgent
def execThermalCritical (s : State) : Out :=
  match s.cur with
  | .event .unit => .next s.dark
  | _ => .fault .noAgent
/-- A bit error. One that cannot be corrected is reported as an uncorrectable internal error (R348; when is not stated, log 44). -/
def execBitError (s : State) : Out :=
  match s.cur with
  | .event (.bit e) =>
    let m := s.mem.inject e
    .next (if s.mem.ecc2.length < m.ecc2.length then ({ s with mem := m, internalErr := true } : State).raiseVec 0 else { s with mem := m })
  | _ => .fault .noAgent
/-- A link fails: flits may be lost from now on (R404). -/
def execLinkFailure (s : State) : Out :=
  match s.cur with
  | .event (.num p) => if 18 ≤ p then .fault .noSuchUnit else .next { s with linkDown := true }
  | _ => .fault .noAgent

end Sys2Proof.Machine
end

