-- ==== Sys2Proof/Machine/VecConv.lean ====
section
/-! DEFINITION. The V slots: conversion, block scales and quantisation (R150 to R156). -/
namespace Sys2Proof.Machine

/-- R150. -/
def execVcvt (d : VReg) (b : VSrc) (xv : VCvtX) : State → Out :=
  primOp [(1, .v b)] fun v =>
    let x := v.v 1 b
    let wf := numW xv.src
    let wt := numW xv.dst
    let m := 2048 / Nat.max wf wt
    let d0 := if wt < wf then xv.part.val * m else 0
    let s0 := if wf < wt then xv.part.val * m else 0
    let e := elemLoop wt (v.c.active (dmReg xv.msk) wt) (dmZero xv.msk) (v.c.rnd xv.rnd) v.slot
      (fun i md => convert xv.src xv.dst v.c.ftz xv.sat md (elemAt wf x (s0 + (i - d0)))) m d0 v.c.gens
    { lands := [landElems d 3 wt d0 e], gens := some e.gens }

/-- R151: the scale lands in `SCALEL`, and no latch is written. -/
def execVmxexp (a : VSrc) (xv : MxExpX) : State → Out :=
  primOp [(0, .v a)] fun v =>
    let x := v.v 0 a
    let f := ftyFmt xv.t
    let vs := ((List.range (2048 / f.width)).filter fun i => v.c.active xv.msk f.width i).map fun i =>
      f.readZ v.c.ftz (elemAt f.width x i)
    let r := chooseScale xv.head vs
    { lands := [{ dest := .scalel, lat := 3, val := r.1, mask := 0xFFFF, latch := false, flags := flagIf r.2 fNV }] }

/-- Packed blocks from byte 0 (R43): 32 elements of `b` bits each, then the scale. -/
def packBlocks (b : Nat) (scales : List Nat) (vals : List Nat) : Nat :=
  match scales with
  | [] => 0
  | s :: rest => packElems b (vals.take 32) + 2 ^ (32 * b) * (s % 65536) + 2 ^ (32 * b + 16) * packBlocks b rest (vals.drop 32)
/-- The scale field VQUANT writes. -/
def quantScale (s : Nat) : Nat := if bsPoisoned s then 0xFF00 else if bsZero s then 0 else s
/-- R153. -/
def execVquant (d : VReg) (b : VSrc) (xv : QuantX) : State → Out :=
  primOp [(1, .v b)] fun v =>
    let x := v.v 1 b
    let f := ftyFmt xv.t
    let s := v.c.sp.scalel.toNat
    let n := 2048 / f.width
    let e := elemLoop f.width (v.c.active xv.msk f.width) false (v.c.rnd xv.rnd) v.slot
      (fun i md => quantElem v.c.book (f.readZ v.c.ftz (elemAt f.width x i)) s xv.f md) n 0 v.c.gens
    { lands := [landV d 3 (packBlocks (mxBits xv.f) (List.replicate (n / 32) (quantScale s)) e.vals) (2 ^ 2048 - 1)
                (e.flags ||| flagIf (bsPoisoned s) fPSN)],
      gens := some e.gens }

/-- Element `i` and the scale of packed block `j` of a register. -/
def blockElem (f : MxFmt) (x : VWord) (j i : Nat) : Nat := x.toNat / 2 ^ (8 * mxBlockBytes f * j + mxBits f * i) % 2 ^ mxBits f
def blockScale (f : MxFmt) (x : VWord) (j : Nat) : Nat := x.toNat / 2 ^ (8 * mxBlockBytes f * j + 32 * mxBits f) % 65536
/-- A block element rounded to a format (R154). -/
def deqElem (book : List Byte) (g : FFmt) (ftz : Bool) (md : Mode) (f : MxFmt) (s p : Nat) : Res :=
  if bsPoisoned s then (g.nanPat, fPSN) else if bsZero s then (0, 0) else g.round ftz md (mxValue book f s p)
def execVdeq (d : VReg) (b : VSrc) (xv : DeqX) : State → Out :=
  primOp [(1, .v b)] fun v =>
    let x := v.v 1 b
    let g := ftyFmt xv.t
    v.elemPlan d g.width 3 xv.msk (v.c.rnd xv.rnd) fun i md =>
      deqElem v.c.book g v.c.ftz md xv.f (blockScale xv.f x (i / 32)) (blockElem xv.f x (i / 32) (i % 32))

/-- An element of a narrow format as an MXINT8 element (R155). -/
def expandElem (book : List Byte) (f : MxFmt) (p : Nat) : Nat :=
  wrapNat 8 (match f with
    | .mxint8 => mxInt book .mxint8 p
    | .mxint6 => 4 * mxInt book .mxint6 p
    | .mxint4 => 16 * mxInt book .mxint4 p
    | .mxp4 => mxInt book .mxp4 p)
def execVxpand (d : VReg) (b : VSrc) (xv : XpandX) : State → Out :=
  primOp [(1, .v b)] fun v =>
    let x := v.v 1 b
    let js := List.range (xv.cm1.val + 1)
    let vals := js.flatMap fun j => (List.range 32).map fun i => expandElem v.c.book xv.f (blockElem xv.f x j i)
    { lands := [landV d 3 (packBlocks 8 (js.map (blockScale xv.f x)) vals)] }

/-- R156. -/
def execVpbook (a : VSrc) : State → Out :=
  primOp [(0, .v a)] fun v => { acts := [(1, .book (bytesOf 16 (v.v 0 a).toNat) v.slot v.c.ic)] }

end Sys2Proof.Machine
end

