-- ==== Sys2Proof/Machine/Matrix.lean ====
section
/-! DEFINITION. The M slot: the matrix unit (07 R200 to R214, 01 R46, R47). -/
namespace Sys2Proof.Machine

/-! ### Formats and shapes (Table 7.1, R201) -/

/-- Bits an element takes at the multipliers: MXP4 codes expand to 8. -/
def mulBits : MatFmt → Nat
  | .bf16 => 16
  | .mx .mxp4 => 8
  | .mx f => mxBits f
/-- Bits of a stored element. -/
def planeBits : MatFmt → Nat
  | .bf16 => 16
  | .mx f => mxBits f
/-- Kc and the two K of a format pair. -/
def pairShape (a b : MatFmt) : Nat × Nat × Nat :=
  match Nat.min (mulBits a) (mulBits b), Nat.max (mulBits a) (mulBits b) with
  | 6, 8 => (21, 224, 448)
  | 4, 8 => (32, 256, 512)
  | 6, 6 => (28, 224, 448)
  | 4, 6 => (42, 256, 672)
  | 4, 4 => (64, 256, 512)
  | _, _ => (16, 128, 256)
def shapeM (sh : Nat) : Nat := 16 * 2 ^ (sh % 4)
def shapeN (sh : Nat) : Nat := 16 * 2 ^ (sh / 4 % 4)
def shapeK (a b : MatFmt) (sh : Nat) : Nat := if sh / 16 % 2 = 1 then (pairShape a b).2.2 else (pairShape a b).2.1
def ceilDiv (a b : Nat) : Nat := (a + b - 1) / b

/-! ### Tiles (R202, R204) -/

def pad64 (x : Nat) : Nat := (x + 63) / 64 * 64
/-- T: the bytes of a tile of `r` rows of `k` elements. -/
def tileBytes (f : MatFmt) (r k : Nat) : Nat :=
  match f with
  | .bf16 => 64 + pad64 (2 * r * k)
  | .mx g => 64 + pad64 (r * k * mxBits g / 8) + pad64 (r * k / 16)
/-- The elements of row `r`, low bits first. -/
def View.tileRow (v : View) (a : Nat) (f : MatFmt) (k r : Nat) : List Nat :=
  let b := planeBits f
  let x := v.readSpad (a + 64 + r * k * b / 8) (k * b / 8)
  (List.range k).map fun i => x / 2 ^ (b * i) % 2 ^ b
/-- The scales of row `r`. -/
def View.tileScales (v : View) (a : Nat) (g : MxFmt) (rows k r : Nat) : List Nat :=
  (List.range (k / 32)).map fun j => v.readSpad (a + 64 + pad64 (rows * k * mxBits g / 8) + 2 * (r * k / 32 + j)) 2
/-- HOOP with its XVALUE (Table 7.4). -/
def hoopTrap (reason h side : Nat) (handle : Nat := 0) : List (Nat × Nat × Nat) :=
  [(2, 0x08, reason + 16 * h + 128 * side + 256 * (handle % 4096))]
/-- The header checks of a tile at `a` in a hoop whose tiles hold `size` bytes. -/
def View.tileTraps (v : View) (a : Nat) (f : MatFmt) (r k size h side : Nat) : List (Nat × Nat × Nat) :=
  let hdr := v.readSpad a 4
  if bits hdr 2 0 ≠ f.code then hoopTrap 3 h side
  else if bits hdr 15 8 ≠ r / 16 - 1 ∨ bits hdr 25 16 ≠ k / 16 - 1 then hoopTrap 4 h side
  else if size < tileBytes f r k then hoopTrap 5 h side else []
/-- The first bad line of a tile. -/
def View.tileFault (v : View) (a n : Nat) : Nat × Nat :=
  let e := v.readFault a n
  (e.1, e.2 / 64 * 64)

/-! ### Accumulation (R46, R47) -/

/-- The value one block adds: `round_rne(isum · SA · SB · SH / (dA · dB), FP32)`; poisoned and zero scales first. -/
def blockValue (fa fb : MxFmt) (isum : Int) (scales : List Nat) : Nat :=
  if scales.any bsPoisoned then FFmt.f32.nanPat
  else if scales.any bsZero then 0
  else (FFmt.f32.round false .rne
    ((scales.foldl (fun e s => e.mul (bsValue s)) (Exact.ofInt isum)).scale (-((mxDivLog fa + mxDivLog fb : Nat) : Int)))).1
def fadd32 (a b : Nat) : Nat := (FFmt.f32.fadd false .rne a b).1
/-- `block_mac` over the blocks of one row and one column, with the extra scale of an adapter. -/
def blockMac (fa fb : MxFmt) (extra : List Nat) : Nat → List Int → List Int → List Nat → List Nat → Nat
  | acc, xs, ys, sa :: sas, sb :: sbs =>
    let isum := ((xs.take 32).zip (ys.take 32)).foldl (fun s p => s + p.1 * p.2) 0
    blockMac fa fb extra (fadd32 acc (blockValue fa fb isum (sa :: sb :: extra))) (xs.drop 32) (ys.drop 32) sas sbs
  | acc, _, _, _, _ => acc
/-- `bf16_group`: the group's value from its products (R47). -/
def groupValue (vs : List FVal) : Nat :=
  let posInf := vs.any fun x => x == .inf false
  let negInf := vs.any fun x => x == .inf true
  if vs.any FVal.isNan || (posInf && negInf) then FFmt.f32.nanPat
  else if posInf then FFmt.f32.infPat
  else if negInf then FFmt.f32.signed true FFmt.f32.infPat
  else
    let es := vs.filterMap fun x => match x with | .fin e => some e | _ => none
    match (es.filter fun e => !e.isZero).map Exact.log2 with
    | [] => if es.all fun e => e.neg then FFmt.f32.signBit else 0
    | l :: rest =>
      let w := rest.foldl max l - 58
      let t (e : Exact) : Int := let k := (roundUnits .rtz e w).1; if e.neg then -(k : Int) else k
      let sticky := es.any fun e => (roundUnits .rtz e w).2
      let s := es.foldl (fun (a : Int) e => a + t e) 0
      if s = 0 then 0 else (FFmt.f32.round false .rne ⟨decide (s < 0), s.natAbs, w, sticky⟩).1
/-- The products of a group in groups of 16 consecutive K. -/
def bf16Mac : Nat → Nat → List Nat → List Nat → Nat
  | 0, acc, _, _ => acc
  | n + 1, acc, xs, ys =>
    let ps := ((xs.take 16).zip (ys.take 16)).map fun p => mulVal (FFmt.bf16.read p.1) (FFmt.bf16.read p.2)
    bf16Mac n (fadd32 acc (groupValue (ps.map (·.1)))) (xs.drop 16) (ys.drop 16)

/-- The rows of an operand: element integers with scales, or BF16 patterns. -/
structure Rows where
  elems : List (List Nat)
  ints : List (List Int)
  scales : List (List Nat)
/-- Read the `r` rows of a tile at issue, MXP4 through the pattern book. -/
def View.rows (v : View) (a : Nat) (f : MatFmt) (r k : Nat) : Rows :=
  let es := (List.range r).map (v.tileRow a f k)
  match f with
  | .bf16 => ⟨es, [], []⟩
  | .mx g => ⟨[], es.map fun row => row.map (mxInt v.c.book g), (List.range r).map (v.tileScales a g r k)⟩
/-- One output cell. -/
def cellValue (fa fb : MatFmt) (extra : List Nat) (k : Nat) (ra rb : Rows) (acc i j : Nat) : Nat :=
  match fa, fb with
  | .mx x, .mx y => blockMac x y extra acc (ra.ints.getD i []) (rb.ints.getD j []) (ra.scales.getD i []) (rb.scales.getD j [])
  | _, _ => bf16Mac (k / 16) acc (ra.elems.getD i []) (rb.elems.getD j [])
/-- `acc_index` of R205. -/
def accIndex (ab n i j : Nat) : Nat := (16 * ab + 256 * (i / 16 * (n / 16) + j / 16) + 16 * (i % 16) + j % 16) % 65536
def accBase (abase : BitVec 12) (a : Word) : Nat := (abase.toNat + a.toNat) % 4096

/-! ### Shared forms -/

/-- Busy M slot, waiting transpose buffer, or a VMOVA of this bundle on the same accumulators (R169, R206, R214). -/
def View.matSched (v : View) (accs : List (Nat × Nat)) : List (Nat × Nat) :=
  (match v.c.matrix with | some m => if v.c.ic < m.free then [(1, 0)] else [] | none => []) ++
  (if v.c.trans.isSome then [(0x0A, 0)] else []) ++
  (if v.c.looked.any fun l => l.accs.any fun p => accs.any (accOverlap p) then [(7, 0)] else [])
/-- Occupy the M slot. The operation's end stands among the results in flight: an error of its operands is raised there (R207, R263). -/
def Core.occupy (c : Core) (busy : Nat) (accs : List (Nat × Nat)) (hoops : List Nat) (e : Nat × Nat) (fl : Flags) : Core :=
  let f : Flight := { dest := .matrix, value := 0, mask := 0, due := c.ic + busy, issued := c.ic, slot := 3, latch := false, flags := fl, pend := e.1, addr := e.2, push := false }
  { c with matrix := some ⟨c.ic + busy, accs, hoops⟩, flights := c.flights ++ [f] }
/-- The shadow tags of a tile slot (R203). -/
def Core.shadowOf (c : Core) (h : HReg) (i : Nat) : List Nat := sget (List.replicate 8 0) c.shadows (256 * h.val + i)
/-- An invalid hoop among those named, A side first. -/
def View.invalidHoop (v : View) (hs : List (HReg × Nat)) : List (Nat × Nat × Nat) :=
  match hs.find? fun h => !(v.c.h[h.1]).valid with
  | some h => hoopTrap 2 h.1.val h.2
  | none => []
/-- Send a tile to the core beside this one, in the domain (R208). -/
def State.forward (s : State) (id : Nat) (east : Bool) (h : HReg) (tile : List Byte) (shadows : List Nat) : State :=
  match s.launchOf id with
  | none => s
  | some l =>
    let x := coreX id + east.toNat
    let y := coreY id + (!east).toNat
    if x < l.x0 + l.width ∧ y < l.y0 + l.height then
      let dst := coreId (coreZ id) x y
      (s.updCore dst fun c => { c with forwards := c.forwards ++ [⟨id, s.clock + 3 + tile.length / 64, h, tile, shadows, none⟩] }).post
        .tileForwardArrival (.core dst)
    else s

/-! ### Matrix multiply (R205 to R208) -/

/-- The output cells with their new values. -/
def View.outCells (v : View) (m n ab : Nat) (zi : Bool) (f : Nat → Nat → Nat → Nat) : List (Nat × Nat) :=
  (List.range m).flatMap fun i => (List.range n).map fun j =>
    let k := accIndex ab n i j
    (k, f (if zi then 0 else v.st.mem.read (accKey v.id k) 4) i j)
/-- The accumulators an operation reads, for their single-bit errors (R71). -/
def View.accScrub (v : View) (a n : Nat) (zi : Bool) : List (Nat × Nat) :=
  if zi then [] else if a + n ≤ 65536 then [(accKey v.id a, 4 * n)] else [(accKey v.id a, 4 * (65536 - a)), (accKey v.id 0, 4 * (a + n - 65536))]
/-- An uncorrectable accumulator among an operation's inputs (R71). -/
def View.accRangeFault (v : View) (a n : Nat) (zi : Bool) : Nat × Nat :=
  if zi then (0, 0)
  else if a + n ≤ 65536 then v.accFault a n else firstFault [v.accFault a (65536 - a), v.accFault 0 (a + n - 65536)]
def execMma (a : SReg) (xm : XM) : State → Out :=
  primOp [(0, .s (.s a))] fun v =>
    let m := shapeM xm.shape.val
    let n := shapeN xm.shape.val
    let k := shapeK xm.fa xm.fb xm.shape.val
    let beats := m / 16 * (n / 16) * ceilDiv k (pairShape xm.fa xm.fb).1
    let ha := v.c.h[xm.ha]
    let hb := v.c.h[xm.hb]
    let same := xm.ha = xm.hb
    let bad := v.invalidHoop [(xm.ha, 0), (xm.hb, 1)]
    let ab := accBase xm.abase (v.s 0 (.s a))
    let accs := [(16 * ab, m * n)]
    if !bad.isEmpty then { sched := v.matSched accs, traps := bad, atOnce := true, accs := accs }
    else if ha.fill < (if same then 2 else 1) ∨ hb.fill < 1 then { wait := some 2 }
    else
      let ta := ha.tileAt ha.head
      let tb := hb.tileAt (if same then hb.head + 1 else hb.head)
      let na := tileBytes xm.fa m k
      let nb := tileBytes xm.fb n k
      let traps := v.tileTraps ta xm.fa m k ha.tile xm.ha.val 0 ++ v.tileTraps tb xm.fb n k hb.tile xm.hb.val 1
      let e := firstFault [v.tileFault ta na, v.tileFault tb nb, v.accRangeFault (16 * ab) (m * n) xm.zi]
      let base : Plan := { sched := v.matSched accs, traps := traps.take 1, accs := accs, hoops := [xm.ha.val, xm.hb.val], busy := beats,
                           scrub := [(spadKey v.id ta, na), (spadKey v.id tb, nb)] ++ v.accScrub (16 * ab) (m * n) xm.zi,
                           upd := fun c => c.occupy beats accs [xm.ha.val, xm.hb.val] e 0 }
      if !traps.isEmpty || e.1 != 0 then base
      else
        let ra := v.rows ta xm.fa m k
        let rb := v.rows tb xm.fb n k
        let shA := v.c.shadowOf xm.ha (ha.head % (ha.count + 1))
        let shB := v.c.shadowOf xm.hb ((if same then hb.head + 1 else hb.head) % (hb.count + 1))
        { base with
          acts := [(1, .accs (v.outCells m n ab xm.zi (cellValue xm.fa xm.fb [] k ra rb)) v.slot), (beats, .pop xm.ha 1), (beats, .pop xm.hb 1)]
          updS := fun s =>
            let s1 := if xm.fwa then s.forward v.id true xm.ha (v.st.mem.bytes (spadKey v.id ta) na) shA else s
            if xm.fwb then s1.forward v.id false xm.hb (v.st.mem.bytes (spadKey v.id tb) nb) shB else s1 }

/-! ### Segmented operands (R209, R210) -/

/-- What checking one row group finds: a trap, or the entry to use, with the violation of its tags. -/
inductive SegCheck where
  | trap (t : List (Nat × Nat × Nat))
  | entry (h : Handle) (viol : Option Violation)
/-- A block format by its code. -/
def mxOfCode : Nat → MxFmt
  | 0 => .mxint8
  | 1 => .mxint6
  | 2 => .mxint4
  | _ => .mxp4
/-- The checks of row group `g` in the order of R210. An adapter tile whose header fails, or that runs past the scratchpad, gives HOOP with the hoop hA, side bit 1 and
the tile's own reason, a size of 2^20 less its address standing for the slot's in reason 5 (DESIGN CHOICE, log 43). -/
def View.segCheck (v : View) (ta : Nat) (fa : MxFmt) (ha : HReg) (n sh g : Nat) (shadow : Nat) : SegCheck :=
  let w := v.readSpad (ta + 32 + 4 * g) 4
  let hd := w % 65536
  let tag := w / 65536
  match (v.c.handles.find? fun e => e.1 == hd % 4096).map (·.2) with
  | none => .trap (hoopTrap 6 ha.val 0 hd)
  | some e =>
    if !e.valid || hd / 4096 != 0 || decide (3 < e.fmt) then .trap (hoopTrap 6 ha.val 0 hd)
    else
      let fb := mxOfCode e.fmt
      let k := shapeK (.mx fa) (.mx fb) sh
      let t := (v.tileTraps e.addr (.mx fb) n k (2 ^ 20 - e.addr) ha.val 1).take 1
      if !t.isEmpty then .trap t
      else .entry e (if tag = shadow ∧ tag = e.owner then none
        else some { kind := 1, slot := v.slot.val, thread := 0, handle := hd, tag := tag, shadow := shadow, owner := e.owner, addr := 0 })
/-- The first trap among the groups, whatever their tags (R280). -/
def segTrap (l : List SegCheck) : List (Nat × Nat × Nat) := (l.findSome? fun x => match x with | .trap t => some t | .entry _ _ => none).getD []
/-- The entries of the groups, and the first violation. -/
def segEntries (l : List SegCheck) : List Handle := l.filterMap fun x => match x with | .entry h _ => some h | .trap _ => none
def segViol (l : List SegCheck) : Option Violation := l.findSome? fun x => match x with | .entry _ v => v | .trap _ => none
/-- The header checks of the A tile that no table entry enters: its format and its rows. -/
def View.segHeader (v : View) (ta : Nat) (fa : MxFmt) (m h : Nat) : List (Nat × Nat × Nat) :=
  let hdr := v.readSpad ta 4
  if bits hdr 2 0 ≠ (MatFmt.mx fa).code then hoopTrap 3 h 0 else if bits hdr 15 8 ≠ m / 16 - 1 then hoopTrap 4 h 0 else []
/-- The A tile has one K, which every group's pair must ask for (R204, R210). A violation stands only where no check traps (R280). -/
def execMmas (a : SReg) (xm : XMS) : State → Out :=
  primOp [(0, .s (.s a))] fun v =>
    let m := shapeM xm.shape.val
    let n := shapeN xm.shape.val
    let ha := v.c.h[xm.ha]
    let bad := v.invalidHoop [(xm.ha, 0)]
    let ab := accBase xm.abase (v.s 0 (.s a))
    let accs := [(16 * ab, m * n)]
    if !bad.isEmpty then { sched := v.matSched accs, traps := bad, atOnce := true, accs := accs }
    else if ha.fill < 1 then { wait := some 2 }
    else
      let ta := ha.tileAt ha.head
      let shadows := v.c.shadowOf xm.ha (ha.head % (ha.count + 1))
      let sched := v.matSched accs
      let pre := v.segHeader ta xm.fa m xm.ha.val
      let checks := if !pre.isEmpty then [.trap pre] else (List.range (m / 16)).map fun g => v.segCheck ta xm.fa xm.ha n xm.shape.val g (shadows.getD g 0)
      if !(segTrap checks).isEmpty then { sched := sched, traps := segTrap checks, accs := accs }
      else
        let es := segEntries checks
        let ks := es.map fun e => shapeK (.mx xm.fa) (.mx (mxOfCode e.fmt)) xm.shape.val
        let k0 := ks.headD 128
        let traps := (if ks.all (· == k0) then [] else hoopTrap 4 xm.ha.val 0) ++
          v.tileTraps ta (.mx xm.fa) m k0 ha.tile xm.ha.val 0
        let na := tileBytes (.mx xm.fa) m k0
        let beats := ((es.zip ks).map fun e => n / 16 * ceilDiv e.2 (pairShape (.mx xm.fa) (.mx (mxOfCode e.1.fmt))).1).foldl (· + ·) 0
        let reads := (spadKey v.id ta, na) :: (es.zip ks).map fun e => (spadKey v.id e.1.addr, tileBytes (.mx (mxOfCode e.1.fmt)) n e.2)
        let e := firstFault (v.tileFault ta na ::
          (es.zip ks).map (fun e => v.tileFault e.1.addr (tileBytes (.mx (mxOfCode e.1.fmt)) n e.2)) ++ [v.accRangeFault (16 * ab) (m * n) xm.zi])
        let base : Plan := { sched := sched, traps := traps.take 1, violation := segViol checks, accs := accs, hoops := [xm.ha.val], busy := beats, scrub := reads ++ v.accScrub (16 * ab) (m * n) xm.zi,
                             upd := fun c => c.occupy beats accs [xm.ha.val] e 0 }
        if !traps.isEmpty || e.1 != 0 then base
        else
          let ra := v.rows ta (.mx xm.fa) m k0
          let rbs := (es.zip ks).map fun e => (e.1, v.rows e.1.addr (.mx (mxOfCode e.1.fmt)) n e.2)
          let cell (acc i j : Nat) : Nat :=
            match rbs[i / 16]? with
            | some (h, rb) => cellValue (.mx xm.fa) (.mx (mxOfCode h.fmt)) [h.scale] k0 ra rb acc i j
            | none => acc
          { base with
            acts := [(1, .accs (v.outCells m n ab xm.zi cell) v.slot), (beats, .pop xm.ha 1)]
            updS := fun s => if xm.fwa then s.forward v.id true xm.ha (v.st.mem.bytes (spadKey v.id ta) na) shadows else s }

/-! ### Accumulator and hoop maintenance (R211 to R214) -/

/-- MCLR (R211). An index that is not a multiple of 16 gives ALIGN with that 16-bit index as the address, for accumulators have none; MDRAIN the same (DESIGN CHOICE, log 18). -/
def execMclr (a : SReg) (x : SX) : State → Out :=
  primOp ((0, .s (.s a)) :: sxSrc 1 x) fun v =>
    let i := (v.s 0 (.s a)).toNat % 65536
    let n := Nat.min (v.xz 1 x).toNat 65536
    let b := Nat.max 1 (ceilDiv n 256)
    let accs := [(i, n)]
    { sched := v.matSched accs, traps := if i % 16 = 0 then [] else [(1, 0x04, v.addrValue 0 i)], accs := accs, busy := b,
      acts := [(b, .accZero i n)], upd := fun c => c.occupy b accs [] (0, 0) 0 }

/-- The mode of MDRAIN: an `FPCTL.RM` of SR is taken as RNE. -/
def Core.drainMode (c : Core) (r : Rnd) : Mode :=
  match c.rnd r with
  | .rtz => .rtz
  | .rdn => .rdn
  | .rup => .rup
  | _ => .rne
/-- A drained value in FP32 or BF16 (R212). -/
def drainFlt (f : FFmt) (uscl : Bool) (s : Nat) (md : Mode) (p : Nat) : Res :=
  let x := FFmt.f32.read p
  if uscl && bsPoisoned s then (f.nanPat, fPSN)
  else if uscl && bsZero s then (0, 0)
  else f.finish false md (match x with | .fin e => .fin (if uscl then e.mul (bsValue s) else e) | y => y) x.snan
/-- A run of 32 accumulators as one packed block (R212). -/
def drainBlock (book : List Byte) (f : MxFmt) (uscl : Bool) (s : Nat) (md : Mode) (ps : List Nat) : List Byte × Flags :=
  let vs := ps.map FFmt.f32.read
  let ch := chooseScale true vs
  let sc := if uscl then quantScale s else ch.1
  let fl := if uscl then flagIf (bsPoisoned s) fPSN else flagIf ch.2 fNV
  let qs := vs.map fun x => quantElem book x sc f md
  (bytesOf (mxBlockBytes f) (packBlocks (mxBits f) [sc] (qs.map (·.1))), qs.foldl (fun a q => a ||| q.2) fl)
/-- Bytes of a run. -/
def runBytes : DrainFmt → Nat
  | .f32 => 128
  | .bf16 => 64
  | .mx f => mxBlockBytes f
/-- One run converted. -/
def drainRun (book : List Byte) (f : DrainFmt) (uscl : Bool) (s : Nat) (md : Mode) (ps : List Nat) : List Byte × Flags :=
  match f with
  | .mx g => drainBlock book g uscl s md ps
  | .bf16 => let rs := ps.map (drainFlt .bf16 uscl s md); (rs.flatMap fun r => bytesOf 2 r.1, rs.foldl (fun a r => a ||| r.2) 0)
  | .f32 => let rs := ps.map (drainFlt .f32 uscl s md); (rs.flatMap fun r => bytesOf 4 r.1, rs.foldl (fun a r => a ||| r.2) 0)
def execMdrain (a b : SReg) (xd : XD) : State → Out :=
  primOp [(0, .s (.s a)), (1, .s (.s b))] fun v =>
    let ea := (v.s 0 (.s a)).toNat
    let i := (v.s 1 (.s b)).toNat % 65536
    let runs := xd.nb.toNat + 1
    let n := runBytes xd.fmt * runs
    let lines := ceilDiv n 64
    let accs := [(i, 32 * runs)]
    let e := v.accRangeFault i (32 * runs) false
    let out := (List.range runs).map fun j =>
      drainRun v.c.book xd.fmt xd.uscl v.c.sp.scalel.toNat (v.c.drainMode xd.rnd)
        ((List.range 32).map fun k => v.st.mem.read (accKey v.id ((i + 32 * j + k) % 65536)) 4)
    let bs := out.flatMap (·.1)
    let ok := e.1 == 0
    { sched := v.matSched accs, accs := accs, busy := 3 + lines, scrub := v.accScrub i (32 * runs) false,
      traps := v.spadTraps ea n 64 ++ (if i % 32 = 0 then [] else [(1, 0x04, v.addrValue 0 i)]),
      demand := (List.range lines).map fun j => (3 + j, true, (ea / 64 + j) % 16),
      writes := if ok then (List.range lines).map fun j => (3 + j, .put (putBytes (spadKey v.id (ea + 64 * j)) ((bs.drop (64 * j)).take 64))) else [],
      acts := if xd.clr && ok then [(1, .accZero i (32 * runs))] else [],
      upd := fun c => c.occupy (3 + lines) accs [] e (if ok then out.foldl (fun f r => f ||| r.2) 0 else 0) }

def execMpop (a : HReg) (n : BitVec 7) : State → Out :=
  primOp [(0, .h a)] fun v =>
    let h := v.h 0 a
    let bad := if h.valid then [] else hoopTrap 2 a.val 0
    if !bad.isEmpty then { sched := v.matSched [], traps := bad, atOnce := true }
    else if h.count + 1 < n.toNat then { sched := v.matSched [], traps := hoopTrap 7 a.val 0 }
    else if h.fill < n.toNat then { wait := some 2 }
    else { sched := v.matSched [], acts := [(1, .pop a n.toNat)], hoops := [a.val], busy := 1, upd := fun c => c.occupy 1 [] [a.val] (0, 0) 0 }

/-- The transposed tile: header, then element plane, `cols` rows of `rows` elements (R214). -/
def transTile (rows cols : Nat) (src : List (List Nat)) : List Byte :=
  let hdr := bytesOf 64 (4 + 2 ^ 8 * (cols / 16 - 1) + 2 ^ 16 * (rows / 16 - 1))
  let plane := (List.range cols).flatMap fun c => (List.range rows).flatMap fun r => bytesOf 2 ((src.getD r []).getD c 0)
  hdr ++ plane ++ List.replicate (tileBytes .bf16 cols rows - 64 - 2 * rows * cols) 0
def execMtrans (a b : HReg) (xt : XT) : State → Out :=
  primOp [(0, .h a), (1, .h b)] fun v =>
    let rows := 16 * (xt.rm1.val + 1)
    let cols := 16 * (xt.cm1.val + 1)
    let ha := v.h 0 a
    let hb := v.h 1 b
    let bad := if !ha.valid then hoopTrap 2 a.val 0 else if !hb.valid then hoopTrap 2 b.val 1 else []
    if !bad.isEmpty then { sched := v.matSched [], traps := bad, atOnce := true }
    else if ha.fill < 1 then { wait := some 2 }
    else
      let ta := ha.tileAt ha.head
      let n := tileBytes .bf16 rows cols
      let beats := rows / 16 * (cols / 16)
      let traps := v.tileTraps ta .bf16 rows cols ha.tile a.val 0 ++
        (if hb.tile < tileBytes .bf16 cols rows then hoopTrap 5 b.val 1 else [])
      let e := v.tileFault ta n
      let tag := match v.st.launchOf v.id with | some l => l.tenant | none => 0
      let tile := transTile rows cols ((List.range rows).map (v.tileRow ta .bf16 cols))
      { sched := v.matSched [], traps := traps.take 1, hoops := [a.val, b.val], busy := beats, scrub := [(spadKey v.id ta, n)],
        acts := if e.1 = 0 then [(beats, .pop a 1), (beats, .transOut b tile (List.replicate 8 tag))] else [],
        upd := fun c => c.occupy beats [] [a.val, b.val] e 0 }

end Sys2Proof.Machine
end

