-- ==== Sys2Proof/Machine/Tree.lean ====
section
/-! DEFINITION. The S slot: the token-tree file (06 R189 to R198). -/
namespace Sys2Proof.Machine

/-! ### Derived values (R189) -/

def Tree.node (t : Tree) (q : Nat) : Option TreeNode := (t.nodes.find? fun e => e.1 == q).map (·.2)
def Tree.valid (t : Tree) (q : Nat) : Bool := (t.node q).isSome
def Tree.token (t : Tree) (q : Nat) : Nat := ((t.node q).map (·.token)).getD 0
/-- The path from node 0 to `q`, root first; `q` itself must be valid. -/
def Tree.pathFrom (t : Tree) : Nat → Nat → List Nat
  | 0, _ => []
  | n + 1, q =>
    match t.node q with
    | none => []
    | some d => if q = 0 then [0] else t.pathFrom n d.parent ++ [q]
def Tree.path (t : Tree) (q : Nat) : List Nat := t.pathFrom 257 q
def Tree.depth (t : Tree) (q : Nat) : Nat := (t.path q).length - 1
/-- The ancestor-or-self mask A(q); empty for an invalid node. -/
def Tree.anc (t : Tree) (q : Nat) : Nat := (t.path q).foldl (fun a j => a ||| 2 ^ j) 0
/-- The lowest node that breaks well-formedness, with its reason (R190). -/
def Tree.broken (t : Tree) : Option (Nat × Nat) :=
  t.nodes.findSome? fun e =>
    if e.1 = 0 then none
    else if e.1 ≤ e.2.parent then some (e.1, 1)
    else if t.valid e.2.parent then none else some (e.1, 2)
/-- Make a node valid, or invalid. -/
def Tree.put (t : Tree) (q : Nat) (d : TreeNode) : Tree := { t with nodes := kput t.nodes q d }
def Tree.drop (t : Tree) (q : Nat) : Tree := { t with nodes := t.nodes.filter fun e => e.1 != q }

/-! ### Shared forms (R190, R191) -/

/-- TREE with its XVALUE. -/
def treeTrap (k : TReg) (q reason : Nat) : List (Nat × Nat × Nat) := [(3, 0x10, q + 256 * reason + 4096 * k.val)]
def rangeFirst (x : Word) : Nat := bits x.toNat 7 0
def rangeCount (x : Word) : Nat := bits x.toNat 16 8
def rangeBad (x : Word) : Bool := rangeCount x == 0 || decide (256 < rangeFirst x + rangeCount x)
def rangeTraps (k : TReg) (x : Word) : List (Nat × Nat × Nat) := if rangeBad x then treeTrap k (rangeFirst x) 3 else []
/-- A tree instruction that moves `n` lines occupies the unit in `c … c + n`. -/
def View.treePlan (v : View) (n : Nat) (p : Plan) : Plan :=
  { p with sched := if v.c.ic < v.c.treeFree then [(9, 0)] else [], upd := fun c => { c with treeFree := c.ic + n + 1 } }
/-- The lines of `n` bytes from `a`, each with its bytes. -/
def lineStarts (a n : Nat) : List Nat := if n = 0 then [] else (List.range ((a + n - 1) / 64 + 1 - a / 64)).map fun j => (a / 64 + j) * 64
/-- Write bytes from a line start on, line `j` as a store issued in `c + j` would (R191). -/
def View.emitTree (v : View) (a : Nat) (bs : List Byte) : Plan :=
  let n := (bs.length + 63) / 64
  { writes := (List.range n).map fun j => (1 + j, .put (putBytes (spadKey v.id (a + 64 * j)) ((bs.drop (64 * j)).take 64))),
    demand := (List.range n).map fun j => (1 + j, true, (a / 64 + j) % 16) }
def linesOfBytes (n : Nat) : Nat := (n + 63) / 64

/-! ### Instructions -/

def execTtclr (k : TReg) : State → Out := primOp [] fun v => v.treePlan 0 { acts := [(1, .tree k Tree.empty)] }
def execTtnode (k : TReg) (b c : SSrc) : State → Out :=
  primOp [(1, .s b), (2, .s c)] fun v =>
    let x := (v.s 1 b).toNat
    let q := bits x 7 0
    let p := bits x 15 8
    let t := v.c.tt[k]
    v.treePlan 0 { traps := if q = 0 then [] else if q ≤ p then treeTrap k q 1 else if t.valid p then [] else treeTrap k q 2,
                   acts := [(1, .tree k (t.put q ⟨p, lo32 (v.s 2 c)⟩))] }
/-- The tree after TTLDP's records (Table 6.7). -/
def Tree.load (t : Tree) (first : Nat) : List Nat → Tree
  | [] => t
  | r :: rest => (if bits r 8 8 = 1 then t.put first ⟨bits r 7 0, bits r 63 32⟩ else t.drop first).load (first + 1) rest
/-- TTLDP (R193). A read that fails lands in no register; while it is pending at a trap it stands in the frame as Dest.code says (log 43). -/
def execTtldp (k : TReg) (b : SSrc) (x : SX) : State → Out :=
  primOp ((1, .s b) :: sxSrc 2 x) fun v =>
    let a := (v.s 1 b).toNat
    let r := v.x 2 x
    let n := 8 * rangeCount r
    let t := (v.c.tt[k]).load (rangeFirst r) ((List.range (rangeCount r)).map fun i => v.readSpad (a + 8 * i) 8)
    let lines := lineStarts a n
    let e := firstFault (lines.map fun l => v.readFault l 64)
    let bad := if rangeBad r then rangeTraps k r else match t.broken with | some (q, why) => treeTrap k q why | none => []
    let late := lines.length + 1
    v.treePlan lines.length { traps := v.spadTraps a n 8 ++ bad, scrub := [(spadKey v.id a, n)],
                              demand := (List.range lines.length).map (fun j => (j, false, (a / 64 + j) % 16)),
                              acts := if e.1 = 0 then [(late, .tree k t)] else [],
                              lands := if e.1 = 0 then [] else [{ landFlags late 0 with pend := e.1, addr := e.2 / 64 * 64 }] }
/-- A row of TTMASK in memory: 32 bytes of A(q), or 128 BF16 values (R194). -/
def maskRow (layout half : Bool) (anc : Nat) : List Byte :=
  if layout then (List.range 128).flatMap fun j =>
    if anc / 2 ^ (128 * half.toNat + j) % 2 = 1 then [0x00, 0x00] else [0x80, 0xFF]
  else bytesOf 32 anc
def execTtmask (k : TReg) (c : SSrc) (x : TtMaskX) : State → Out :=
  match x with
  | .toMask m half => primOp [(2, .s c)] fun v =>
    let q := bits (v.s 2 c).toNat 7 0
    v.treePlan 0 { lands := [landM m 2 ((v.c.tt[k]).anc q / 2 ^ (128 * half.toNat) % 2 ^ 128)] }
  | .toMem b layout half => primOp [(1, .s b), (2, .s c)] fun v =>
    let a := (v.s 1 b).toNat
    let r := v.s 2 c
    let n := (if layout then 256 else 32) * rangeCount r
    let p := v.emitTree a ((List.range (rangeCount r)).flatMap fun i => maskRow layout half ((v.c.tt[k]).anc (rangeFirst r + i)))
    v.treePlan (linesOfBytes n) { p with traps := v.spadTraps a n 64 ++ rangeTraps k r }
/-- `pos(q)` (R189), all ones for an invalid node (R195). -/
def Tree.pos (t : Tree) (base q : Nat) : Nat :=
  if t.valid q then (base + 2 ^ 32 - t.cl + t.depth q) % 2 ^ 32 else 2 ^ 32 - 1
def execTtpos (k : TReg) (b c : SSrc) : State → Out :=
  primOp [(1, .s b), (2, .s c)] fun v =>
    let a := (v.s 1 b).toNat
    let r := v.s 2 c
    let n := 4 * rangeCount r
    let base := (v.c.sp.ttbase[k]).toNat
    let p := v.emitTree a ((List.range (rangeCount r)).flatMap fun i => bytesOf 4 ((v.c.tt[k]).pos base (rangeFirst r + i)))
    v.treePlan (linesOfBytes n) { p with traps := v.spadTraps a n 64 ++ rangeTraps k r }
/-- TTPATH (R196). Of an invalid node there is no path: its address is checked for 8 bytes (DESIGN CHOICE, log 43). -/
def execTtpath (k : TReg) (b c : SSrc) : State → Out :=
  primOp [(1, .s b), (2, .s c)] fun v =>
    let a := (v.s 1 b).toNat
    let q := bits (v.s 2 c).toNat 7 0
    let t := v.c.tt[k]
    let path := t.path q
    let n := 8 * Nat.max 1 path.length
    let p := v.emitTree a (path.flatMap fun j => bytesOf 8 (j + 2 ^ 8 + 2 ^ 32 * t.token j))
    v.treePlan (linesOfBytes n) { p with traps := v.spadTraps a n 64 ++ if t.valid q then [] else treeTrap k q 4 }
/-- The moves of TTPRUNE: new and old node numbers where they differ. -/
def pruneMoves (path : List Nat) : List (Nat × Nat) := (path.zip (List.range path.length)).filter fun p => p.1 != p.2
/-- The accepted path as a tree (R197). -/
def Tree.pruned (t : Tree) (path : List Nat) : Tree :=
  { nodes := (path.zip (List.range path.length)).map fun p => (p.2, ⟨p.2 - 1, t.token p.1⟩), cl := path.length }
/-- The bytes of a move list (Table 6.8). -/
def moveList (b : Nat) (path : List Nat) : List Byte :=
  let ms := pruneMoves path
  bytesOf 8 (ms.length + 2 ^ 32 * (path.length % 256)) ++
    ms.flatMap fun p => bytesOf 8 ((b + p.1) % 2 ^ 32 + 2 ^ 32 * ((b + p.2) % 2 ^ 32))
/-- TTPRUNE (R197). Of an invalid node there is no list: its address is checked for 8 bytes and one bank write is charged at c + 1, whose faults can stand before
TREE's (DESIGN CHOICE, log 43). -/
def execTtprune (k : TReg) (b c : SSrc) : State → Out :=
  primOp [(1, .s b), (2, .s c)] fun v =>
    let a := (v.s 1 b).toNat
    let q := bits (v.s 2 c).toNat 7 0
    let t := v.c.tt[k]
    let path := t.path q
    let base := ((v.c.sp.ttbase[k]).toNat + 2 ^ 32 - t.cl) % 2 ^ 32
    let bs := moveList base path
    let p := v.emitTree a bs
    v.treePlan (linesOfBytes bs.length)
      { p with traps := v.spadTraps a bs.length 64 ++ (if t.valid q then [] else treeTrap k q 4),
               acts := [(1, .tree k (t.pruned path)), (1, .ttbase k (BitVec.ofNat 32 (base + path.length)))] }
/-- TTINFO's result (R198). -/
def Tree.info (t : Tree) (base : Nat) (x : Nat) : Nat :=
  if bits x 8 8 = 1 then
    t.nodes.length + 2 ^ 16 * (t.nodes.foldl (fun m e => Nat.max m (t.depth e.1)) 0) + 2 ^ 24 * (t.cl % 256) + 2 ^ 32 * base
  else
    let q := bits x 7 0
    match t.node q with
    | none => 0
    | some d =>
      let leaf := !(t.nodes.any fun e => e.1 != 0 && e.2.parent == q)
      t.depth q + 2 ^ 8 * d.parent + 2 ^ 16 + 2 ^ 17 * leaf.toNat + 2 ^ 32 * d.token
def execTtinfo (d : SReg) (k : TReg) (c : SSrc) : State → Out :=
  primOp [(2, .s c)] fun v =>
    v.treePlan 0 { lands := [landS d 2 (BitVec.ofNat 64 ((v.c.tt[k]).info (v.c.sp.ttbase[k]).toNat (v.s 2 c).toNat))] }

end Sys2Proof.Machine
end

