-- ==== Sys2Proof/Machine/VecMove.lean ====
section
/-! DEFINITION. The V slots: rearrangement, bitmaps, sorting, reductions and scans (R161 to R168). -/
namespace Sys2Proof.Machine

/-! ### Single elements and permutes (R161, R162) -/

def execVbcast (t : ElemW) (d : VReg) (b : VSSrc) (xv : DMask) : State → Out :=
  primOp [(1, .s (vsToS b))] fun v =>
    let x := (v.vs 1 b).toNat % 2 ^ elemBits t
    v.plainPlan d (elemBits t) 2 xv fun _ => (x, 0)
/-- The register an index or a distance is read from. -/
def idxSrc : IdxX → List (Nat × Src)
  | .reg r => [(2, .s (vsToS r))]
  | .imm _ => []
/-- An index: zero-extended, modulo the number of elements. -/
def View.idxVal (v : View) (n : Nat) : IdxX → Nat
  | .reg r => (v.vs 2 r).toNat % n
  | .imm i => i.toNat % n
def execVext (t : ElemW) (d : SReg) (b : VSrc) (x : IdxX) : State → Out :=
  primOp ((1, .v b) :: idxSrc x) fun v =>
    { lands := [landS d 2 (BitVec.ofNat 64 (elemAt (elemBits t) (v.v 1 b) (v.idxVal (2048 / elemBits t) x)))] }
def execVins (t : ElemW) (d : VReg) (b : VSSrc) (x : IdxX) : State → Out :=
  primOp ((1, .s (vsToS b)) :: idxSrc x) fun v =>
    let w := elemBits t
    let k := v.idxVal (2048 / w) x
    { lands := [landV d 2 ((v.vs 1 b).toNat % 2 ^ w * 2 ^ (w * k)) ((2 ^ w - 1) * 2 ^ (w * k))] }
def execVperm (t : ElemW) (d : VReg) (b c : VSrc) (xv : DMask) : State → Out :=
  primOp [(1, .v b), (2, .v c)] fun v =>
    let x := v.v 1 b
    let y := v.v 2 c
    let w := elemBits t
    v.plainPlan d w 2 xv fun i => (elemAt w x (elemAt w y i % (2048 / w)), 0)
/-- Element `i` of a shuffle (Table 5.10): whether it comes from vC, and its index. -/
def shufIdx (sel : ShufSel) (n i : Nat) : Bool × Nat :=
  match sel with
  | .ziplo => (i % 2 == 1, i / 2)
  | .ziphi => (i % 2 == 1, n / 2 + i / 2)
  | .even => if i < n / 2 then (false, 2 * i) else (true, 2 * i - n)
  | .odd => if i < n / 2 then (false, 2 * i + 1) else (true, 2 * i + 1 - n)
def execVshuf (t : ElemW) (d : VReg) (b c : VSrc) (xv : Option ShufX) : State → Out :=
  primOp [(1, .v b), (2, .v c)] fun v =>
    let x := v.v 1 b
    let y := v.v 2 c
    let w := elemBits t
    let sel := (xv.map (·.sel)).getD .ziplo
    v.plainPlan d w 2 (xv.bind (·.msk)) fun i =>
      let (fromC, k) := shufIdx sel (2048 / w) i
      (elemAt w (if fromC then y else x) k, 0)
/-- Element `i + k` of a vector: zero outside it, or around it when rotating. -/
def slideElem (w : Nat) (rot : Bool) (x : VWord) (k : Int) (i : Nat) : Nat :=
  let n : Nat := 2048 / w
  let j : Int := (i : Int) + k
  if rot then elemAt w x (j % (n : Int)).toNat else if 0 ≤ j ∧ j < (n : Int) then elemAt w x j.toNat else 0
def execVslide (t : ElemW) (d : VReg) (b : VSrc) (x : SlideX) : State → Out :=
  match x with
  | .reg r => primOp [(1, .v b), (2, .s (vsToS r))] fun v =>
    let p := v.v 1 b
    let k := (v.vs 2 r).toInt
    v.plainPlan d (elemBits t) 2 none fun i => (slideElem (elemBits t) false p k i, 0)
  | .imm n msk rot => primOp [(1, .v b)] fun v =>
    let p := v.v 1 b
    v.plainPlan d (elemBits t) 2 msk fun i => (slideElem (elemBits t) rot p n.toInt i, 0)

/-! ### Bitmaps (R168) -/

def execVpopm (d : SReg) (b : MReg) : State → Out :=
  primOp [(1, .m b)] fun v => { lands := [landS d 2 (BitVec.ofNat 64 (popN (v.m 1 b).toNat 128))] }
/-- The window base: IMM16, 0 without XV. -/
def bitBase (xv : Option BitX) : Nat := (xv.map fun x => x.base.toNat).getD 0
/-- The bit index of element `j`, when it lies in the window. -/
def bitIdx (base : Nat) (y : VWord) (j : Nat) : Option Nat :=
  let k := elemAt 16 y j
  if base ≤ k ∧ k - base < 2048 then some (k - base) else none
def execVbtest (d : MReg) (b c : VSrc) (xv : Option BitX) : State → Out :=
  primOp [(1, .v b), (2, .v c)] fun v =>
    let x := v.v 1 b
    let y := v.v 2 c
    v.maskPlan d 16 2 (xv.bind (·.msk)) fun j =>
      (match bitIdx (bitBase xv) y j with | some k => x.getLsbD k | none => false, 0)
/-- VBSET (R168). ZM has no meaning for it; a mask with ZM set is accepted and governs the same (DESIGN CHOICE, log 43). -/
def execVbset (d : VReg) (b c : VSrc) (xv : Option BitX) : State → Out :=
  primOp [(1, .v b), (2, .v c)] fun v =>
    let x := v.v 1 b
    let y := v.v 2 c
    let k := dmReg (xv.bind (·.msk))
    let r := (List.range 128).foldl (fun acc j =>
      if v.c.active k 16 j then (match bitIdx (bitBase xv) y j with | some i => acc ||| 2 ^ i | none => acc) else acc) x.toNat
    { lands := [landV d 2 r] }

/-! ### Key order, sorting and ranking (R163 to R165) -/

/-- The key of a pattern, and whether it is a signalling NaN. -/
def atyKey (t : ATy) (p : Nat) : Int × Bool :=
  match atyKind t with
  | .inl i => ((if itySigned i then sextNat (ityW i) p else (p : Int)), false)
  | .inr f => (f.sortKey p, match f.read p with | .nan s => s | _ => false)
/-- NV when one of the elements is a signalling NaN. -/
def snanFlag (t : ATy) (ps : List Nat) : Flags := flagIf (ps.any fun p => (atyKey t p).2) fNV
/-- Element `i` after one compare-exchange stage. -/
def cmpxElem (t : ATy) (xv : CmpxX) (x : VWord) (i : Nat) : Nat :=
  let w := atyW t
  let j := 2 ^ xv.j.val
  let low := i / j % 2 == 0
  let a := if low then i else i - j
  let p := elemAt w x a
  let q := elemAt w x (a + j)
  let asc := (a / 2 ^ xv.k.val % 2 == 0) != xv.desc
  let kp := (atyKey t p).1
  let kq := (atyKey t q).1
  let swap := if asc then decide (kq < kp) else decide (kp < kq)
  if low != swap then p else q
def execVcmpx (t : ATy) (d : VReg) (b : VSrc) (xv : CmpxX) : State → Out :=
  primOp [(1, .v b)] fun v =>
    let x := v.v 1 b
    let w := atyW t
    let ps := (List.range (2048 / w)).map (elemAt w x)
    { lands := [landV d 2 (packElems w ((List.range (2048 / w)).map (cmpxElem t xv x))) (2 ^ 2048 - 1) (snanFlag t ps)] }
/-- Insert a position by its key, behind equal keys. -/
def rankInsert (e : Int × Nat) : List (Int × Nat) → List (Int × Nat)
  | [] => [e]
  | x :: rest => if x.1 < e.1 then e :: x :: rest else x :: rankInsert e rest
/-- Positions in descending key order, lower positions first on a tie. -/
def rankAll (l : List (Int × Nat)) : List (Int × Nat) := l.foldl (fun acc e => rankInsert e acc) []
def execVtopk (t : ATy) (d : VReg) (b : VSrc) (xv : TopkX) : State → Out :=
  primOp [(1, .v b)] fun v =>
    let x := v.v 1 b
    let w := atyW t
    let idx := (List.range (2048 / w)).filter fun i => v.c.active xv.msk w i
    let keys := idx.map fun i => let k := (atyKey t (elemAt w x i)).1; (if xv.low then -k else k, i)
    let ranked := (rankAll keys).take xv.k.toNat
    let out := (List.range 128).map fun r => (ranked[r]?.map (·.2)).getD 0xFFFF
    { lands := [landV d 8 (packElems 16 out) (2 ^ 2048 - 1) (snanFlag t (idx.map (elemAt w x)))] }

/-! ### Reductions and scans (R48, R49, R166, R167) -/

/-- One combination of two floating-point patterns. -/
def fltComb (f : FFmt) (ftz : Bool) (op : RedOp) (md : Mode) (a b : Nat) : Res :=
  match op with
  | .max => f.minmax ftz true a b
  | .min => f.minmax ftz false a b
  | _ => f.fadd ftz md a b
/-- The identity of a floating-point reduction (R48). -/
def fltIdent (f : FFmt) : RedOp → Nat
  | .max => f.signed true f.infPat
  | .min => f.infPat
  | _ => 0
/-- One level of the tree: node `p` joins two subtrees of `stride` elements each. -/
def redLevel (comb : Mode → Nat → Nat → Res) (r : Rnd) (slot : Slot) (w stride : Nat) :
    Nat → List (Option Nat) → Gens → Flags → List (Option Nat) × Gens × Flags
  | p, a :: b :: rest, g, fl =>
    match a, b with
    | some x, some y =>
      let (md, g1) := modeAt r g (laneGen slot w (p * (2 * stride)))
      let (z, f1) := comb md x y
      let (zs, g2, f2) := redLevel comb r slot w stride (p + 1) rest g1 (fl ||| f1)
      (some z :: zs, g2, f2)
    | x, y =>
      let (zs, g2, f2) := redLevel comb r slot w stride (p + 1) rest g fl
      ((if x.isSome then x else y) :: zs, g2, f2)
  | _, l, g, fl => (l, g, fl)
/-- The fixed pairwise tree of R48: level by level, in increasing position. -/
def redTree (comb : Mode → Nat → Nat → Res) (r : Rnd) (slot : Slot) (w : Nat) :
    Nat → Nat → List (Option Nat) → Gens → Flags → Option Nat × Gens × Flags
  | 0, _, l, g, fl => (l.head?.join, g, fl)
  | n + 1, stride, l, g, fl =>
    let (l1, g1, f1) := redLevel comb r slot w stride 0 l g fl
    redTree comb r slot w n (2 * stride) l1 g1 f1
/-- The levels of the tree over the elements of a width. -/
def redLevels (w : Nat) : Nat := if w = 32 then 6 else if w = 16 then 7 else 8
/-- An integer operator on values; the bitwise ones on patterns. -/
def intComb (w : Nat) (sg : Bool) (op : RedOp) (a b : Int) : Int :=
  let back (p : Nat) : Int := if sg then sextNat w p else (p : Int)
  match op with
  | .add => a + b
  | .max => max a b
  | .min => min a b
  | .and => back (wrapNat w a &&& wrapNat w b)
  | .or => back (wrapNat w a ||| wrapNat w b)
  | .xor => back (wrapNat w a ^^^ wrapNat w b)
/-- The identity of an integer reduction (R48). -/
def intIdent (w : Nat) (sg : Bool) : RedOp → Int
  | .max => intMin sg w
  | .min => intMax sg w
  | .and => if sg then -1 else (2 ^ w : Nat) - 1
  | _ => 0
/-- The active elements of an integer vector. -/
def View.activeInts (v : View) (t : ITy) (k : Option MReg) (x : VWord) : List (Option Int) :=
  (List.range (2048 / ityW t)).map fun i => if v.c.active k (ityW t) i then some (elemInt t x i) else none
def execVred (t : ATy) (d : SReg) (b : VSrc) (xv : RedX) : State → Out :=
  primOp [(1, .v b)] fun v =>
    let x := v.v 1 b
    match atyKind t with
    | .inl it =>
      let w := ityW it
      let l := v.activeInts it xv.msk x
      let r := match l.filterMap id with
        | [] => intIdent w (itySigned it) xv.op
        | a :: rest => rest.foldl (intComb w (itySigned it) xv.op) a
      -- the combinations are exact in any order, and each draws as its node of the tree does (R31, R166)
      let draws := redTree (fun _ a _ => (a, 0)) (v.c.rnd xv.rnd) v.slot w (redLevels w) 1 (l.map fun e => e.map fun _ => 0) v.c.gens 0
      { lands := [landS d 5 (BitVec.ofInt 64 r)], gens := some draws.2.1 }
    | .inr f =>
      let w := f.width
      let l := (List.range (2048 / w)).map fun i => if v.c.active xv.msk w i then some (elemAt w x i) else none
      let (r, g, fl) := redTree (fltComb f v.c.ftz xv.op) (v.c.rnd xv.rnd) v.slot w (redLevels w) 1 l v.c.gens 0
      { lands := [landS d 5 (BitVec.ofNat 64 (r.getD (fltIdent f xv.op))) fl], gens := some g }
/-- The running values of an integer scan. -/
def scanInts (w : Nat) (sg sat : Bool) (op : RedOp) : Option Int → List (Option Int) → List Nat × Flags
  | _, [] => ([], 0)
  | run, e :: rest =>
    let (run1, fl) : Option Int × Flags := match run, e with
      | r, none => (r, 0)
      | none, some a => (some a, 0)
      | some r, some a =>
        (match op with
         | .add =>
           let (p, fl) := intRes w sg sat (r + a)
           (some (if sg then sextNat w p else (p : Int)), fl)
         | o => (some (intComb w sg o r a), 0))
    let (out, fl2) := scanInts w sg sat op run1 rest
    (wrapNat w (run1.getD (intIdent w sg op)) :: out, fl ||| fl2)
/-- The running values of a floating-point scan from element `i` on. -/
def scanFlts (comb : Mode → Nat → Nat → Res) (ident : Nat) (r : Rnd) (slot : Slot) (w : Nat) :
    Nat → Option Nat → List (Option Nat) → Gens → List Nat × Gens × Flags
  | _, _, [], g => ([], g, 0)
  | i, run, e :: rest, g =>
    let (run1, g1, fl) : Option Nat × Gens × Flags := match run, e with
      | x, none => (x, g, 0)
      | none, some a => (some a, g, 0)
      | some x, some a =>
        let (md, g1) := modeAt r g (laneGen slot w i)
        let (z, f1) := comb md x a
        (some z, g1, f1)
    let (out, g2, fl2) := scanFlts comb ident r slot w (i + 1) run1 rest g1
    (run1.getD ident :: out, g2, fl ||| fl2)
def execVscan (t : ATy) (d : VReg) (b : VSrc) (xv : ScanX) : State → Out :=
  primOp [(1, .v b)] fun v =>
    let x := v.v 1 b
    match atyKind t with
    | .inl it =>
      let (out, fl) := scanInts (ityW it) (itySigned it) xv.sat xv.op none (v.activeInts it xv.msk x)
      { lands := [landV d 6 (packElems (ityW it) out) (2 ^ 2048 - 1) fl] }
    | .inr f =>
      let w := f.width
      let l := (List.range (2048 / w)).map fun i => if v.c.active xv.msk w i then some (elemAt w x i) else none
      let (out, g, fl) := scanFlts (fltComb f v.c.ftz xv.op) (fltIdent f xv.op) (v.c.rnd xv.rnd) v.slot w 0 none l v.c.gens
      { lands := [landV d 6 (packElems w out) (2 ^ 2048 - 1) fl], gens := some g }

end Sys2Proof.Machine
end

