-- ==== Sys2Proof/Machine/Dispatch.lean ====
section
/-! DEFINITION. The meaning of every instruction: one arm for each constructor. -/
namespace Sys2Proof.Machine

def exec (i : Instr) (s : State) : Host.Outcome State Fault Refusal :=
  match i with
  | .add d b c => Sys2Proof.Machine.execAdd d b c s
  | .sub d b x => Sys2Proof.Machine.execSub d b x s
  | .addi d b imm => Sys2Proof.Machine.execAddi d b imm s
  | .mul d b x => Sys2Proof.Machine.execMul d b x s
  | .mulh d b x => Sys2Proof.Machine.execMulh d b x s
  | .mulhW d b x => Sys2Proof.Machine.execMulhW d b x s
  | .div d b x => Sys2Proof.Machine.execDiv d b x s
  | .divW d b x => Sys2Proof.Machine.execDivW d b x s
  | .rem d b x => Sys2Proof.Machine.execRem d b x s
  | .remW d b x => Sys2Proof.Machine.execRemW d b x s
  | .and d b x => Sys2Proof.Machine.execAnd d b x s
  | .or d b x => Sys2Proof.Machine.execOr d b x s
  | .xor d b x => Sys2Proof.Machine.execXor d b x s
  | .andn d b x => Sys2Proof.Machine.execAndn d b x s
  | .shl d b x => Sys2Proof.Machine.execShl d b x s
  | .shr d b x => Sys2Proof.Machine.execShr d b x s
  | .sar d b x => Sys2Proof.Machine.execSar d b x s
  | .rot d b x => Sys2Proof.Machine.execRot d b x s
  | .clz d b => Sys2Proof.Machine.execClz d b s
  | .popc d b => Sys2Proof.Machine.execPopc d b s
  | .min d b x => Sys2Proof.Machine.execMin d b x s
  | .minW d b x => Sys2Proof.Machine.execMinW d b x s
  | .max d b x => Sys2Proof.Machine.execMax d b x s
  | .maxW d b x => Sys2Proof.Machine.execMaxW d b x s
  | .sel d b c k => Sys2Proof.Machine.execSel d b c k s
  | .li d imm => Sys2Proof.Machine.execLi d imm s
  | .adda d b x => Sys2Proof.Machine.execAdda d b x s
  | .bfx d b f => Sys2Proof.Machine.execBfx d b f s
  | .bfi d b f => Sys2Proof.Machine.execBfi d b f s
  | .cmp cc d b x => Sys2Proof.Machine.execCmp cc d b x s
  | .pand d b c => Sys2Proof.Machine.execPand d b c s
  | .por d b c => Sys2Proof.Machine.execPor d b c s
  | .pxor d b c => Sys2Proof.Machine.execPxor d b c s
  | .pnot d b => Sys2Proof.Machine.execPnot d b s
  | .sfadd d b c rnd => Sys2Proof.Machine.execSfadd d b c rnd s
  | .sfmul d b c rnd => Sys2Proof.Machine.execSfmul d b c rnd s
  | .sffma d b c rnd => Sys2Proof.Machine.execSffma d b c rnd s
  | .sfmin d b c => Sys2Proof.Machine.execSfmin d b c s
  | .sfmax d b c => Sys2Proof.Machine.execSfmax d b c s
  | .sfcvt d b f => Sys2Proof.Machine.execSfcvt d b f s
  | .sfcmp cc d b c => Sys2Proof.Machine.execSfcmp cc d b c s
  | .lds t d b x => Sys2Proof.Machine.execLds t d b x s
  | .sts n a b x => Sys2Proof.Machine.execSts n a b x s
  | .stsN4 a b imm => Sys2Proof.Machine.execStsN4 a b imm s
  | .br t => Sys2Proof.Machine.execBr t s
  | .brc a imm => Sys2Proof.Machine.execBrc a imm s
  | .call t => Sys2Proof.Machine.execCall t s
  | .loop a imm => Sys2Proof.Machine.execLoop a imm s
  | .waita a b => Sys2Proof.Machine.execWaita a b s
  | .flagacq a sc => Sys2Proof.Machine.execFlagacq a sc s
  | .flagrel a sc => Sys2Proof.Machine.execFlagrel a sc s
  | .fence sc => Sys2Proof.Machine.execFence sc s
  | .movs d sp => Sys2Proof.Machine.execMovs d sp s
  | .movts sp b => Sys2Proof.Machine.execMovts sp b s
  | .trap n => Sys2Proof.Machine.execTrap n s
  | .tcreate a b c => Sys2Proof.Machine.execTcreate a b c s
  | .tkill a => Sys2Proof.Machine.execTkill a s
  | .ttclr k => Sys2Proof.Machine.execTtclr k s
  | .ttnode k b c => Sys2Proof.Machine.execTtnode k b c s
  | .ttldp k b x => Sys2Proof.Machine.execTtldp k b x s
  | .ttmask k c x => Sys2Proof.Machine.execTtmask k c x s
  | .ttpos k b c => Sys2Proof.Machine.execTtpos k b c s
  | .ttpath k b c => Sys2Proof.Machine.execTtpath k b c s
  | .ttprune k b c => Sys2Proof.Machine.execTtprune k b c s
  | .ttinfo d k c => Sys2Proof.Machine.execTtinfo d k c s
  | .vadd t d b c xv => Sys2Proof.Machine.execVadd t d b c xv s
  | .vsub t d b c xv => Sys2Proof.Machine.execVsub t d b c xv s
  | .vmul t d b c xv => Sys2Proof.Machine.execVmul t d b c xv s
  | .vmulh t d b c xv => Sys2Proof.Machine.execVmulh t d b c xv s
  | .vmin t d b c xv => Sys2Proof.Machine.execVmin t d b c xv s
  | .vmax t d b c xv => Sys2Proof.Machine.execVmax t d b c xv s
  | .vand t d b c xv => Sys2Proof.Machine.execVand t d b c xv s
  | .vor t d b c xv => Sys2Proof.Machine.execVor t d b c xv s
  | .vxor t d b c xv => Sys2Proof.Machine.execVxor t d b c xv s
  | .vshl t d b x => Sys2Proof.Machine.execVshl t d b x s
  | .vshr t d b x => Sys2Proof.Machine.execVshr t d b x s
  | .vsar t d b x => Sys2Proof.Machine.execVsar t d b x s
  | .vabs t d b xv => Sys2Proof.Machine.execVabs t d b xv s
  | .vcmp t d b c xv => Sys2Proof.Machine.execVcmp t d b c xv s
  | .vsel t d b c k => Sys2Proof.Machine.execVsel t d b c k s
  | .vfadd t d b c xv => Sys2Proof.Machine.execVfadd t d b c xv s
  | .vfsub t d b c xv => Sys2Proof.Machine.execVfsub t d b c xv s
  | .vfmul t d b c xv => Sys2Proof.Machine.execVfmul t d b c xv s
  | .vffma t d b c xv => Sys2Proof.Machine.execVffma t d b c xv s
  | .vfmin t d b c xv => Sys2Proof.Machine.execVfmin t d b c xv s
  | .vfmax t d b c xv => Sys2Proof.Machine.execVfmax t d b c xv s
  | .vfrcp t d b xv => Sys2Proof.Machine.execVfrcp t d b xv s
  | .vfrsq t d b xv => Sys2Proof.Machine.execVfrsq t d b xv s
  | .vfexp2 t d b xv => Sys2Proof.Machine.execVfexp2 t d b xv s
  | .vflog2 t d b xv => Sys2Proof.Machine.execVflog2 t d b xv s
  | .vfcmp t d b c xv => Sys2Proof.Machine.execVfcmp t d b c xv s
  | .vcvt d b xv => Sys2Proof.Machine.execVcvt d b xv s
  | .vmxexp a xv => Sys2Proof.Machine.execVmxexp a xv s
  | .vquant d b xv => Sys2Proof.Machine.execVquant d b xv s
  | .vdeq d b xv => Sys2Proof.Machine.execVdeq d b xv s
  | .vxpand d b xv => Sys2Proof.Machine.execVxpand d b xv s
  | .vpbook a => Sys2Proof.Machine.execVpbook a s
  | .vld d b x => Sys2Proof.Machine.execVld d b x s
  | .vst a b x => Sys2Proof.Machine.execVst a b x s
  | .vldx t d b c xv => Sys2Proof.Machine.execVldx t d b c xv s
  | .vstx t a b c xv => Sys2Proof.Machine.execVstx t a b c xv s
  | .vstxN4 a b c xv => Sys2Proof.Machine.execVstxN4 a b c xv s
  | .vbcast t d b xv => Sys2Proof.Machine.execVbcast t d b xv s
  | .vext t d b x => Sys2Proof.Machine.execVext t d b x s
  | .vins t d b x => Sys2Proof.Machine.execVins t d b x s
  | .vperm t d b c xv => Sys2Proof.Machine.execVperm t d b c xv s
  | .vshuf t d b c xv => Sys2Proof.Machine.execVshuf t d b c xv s
  | .vslide t d b x => Sys2Proof.Machine.execVslide t d b x s
  | .vpopm d b => Sys2Proof.Machine.execVpopm d b s
  | .vbtest d b c xv => Sys2Proof.Machine.execVbtest d b c xv s
  | .vbset d b c xv => Sys2Proof.Machine.execVbset d b c xv s
  | .vcmpx t d b xv => Sys2Proof.Machine.execVcmpx t d b xv s
  | .vtopk t d b xv => Sys2Proof.Machine.execVtopk t d b xv s
  | .vred t d b xv => Sys2Proof.Machine.execVred t d b xv s
  | .vscan t d b xv => Sys2Proof.Machine.execVscan t d b xv s
  | .vmovaGet d b xv => Sys2Proof.Machine.execVmovaGet d b xv s
  | .vmovaPut a b xv => Sys2Proof.Machine.execVmovaPut a b xv s
  | .vsbind a b wr => Sys2Proof.Machine.execVsbind a b wr s
  | .vsunbind a => Sys2Proof.Machine.execVsunbind a s
  | .dfrom d b xv => Sys2Proof.Machine.execDfrom d b xv s
  | .dto d b xv => Sys2Proof.Machine.execDto d b xv s
  | .dld d b c => Sys2Proof.Machine.execDld d b c s
  | .dst a b c => Sys2Proof.Machine.execDst a b c s
  | .dadd d b c xv => Sys2Proof.Machine.execDadd d b c xv s
  | .dsub d b c xv => Sys2Proof.Machine.execDsub d b c xv s
  | .dscale d b x => Sys2Proof.Machine.execDscale d b x s
  | .dneg d b => Sys2Proof.Machine.execDneg d b s
  | .ddot d b c => Sys2Proof.Machine.execDdot d b c s
  | .ddotv d b c => Sys2Proof.Machine.execDdotv d b c s
  | .dnorm d b => Sys2Proof.Machine.execDnorm d b s
  | .dsetn d b => Sys2Proof.Machine.execDsetn d b s
  | .dlerp d b c t => Sys2Proof.Machine.execDlerp d b c t s
  | .dcmpz d b => Sys2Proof.Machine.execDcmpz d b s
  | .mma a xm => Sys2Proof.Machine.execMma a xm s
  | .mmas a xm => Sys2Proof.Machine.execMmas a xm s
  | .mclr a x => Sys2Proof.Machine.execMclr a x s
  | .mdrain a b xd => Sys2Proof.Machine.execMdrain a b xd s
  | .mpop a n => Sys2Proof.Machine.execMpop a n s
  | .mtrans a b xt => Sys2Proof.Machine.execMtrans a b xt s
  | .cpy a b x => Sys2Proof.Machine.execCpy a b x s
  | .cgath a b x => Sys2Proof.Machine.execCgath a b x s
  | .cscat a b x => Sys2Proof.Machine.execCscat a b x s
  | .cfill a b x => Sys2Proof.Machine.execCfill a b x s
  | .cprom a b xi => Sys2Proof.Machine.execCprom a b xi s
  | .cdemo a b xi => Sys2Proof.Machine.execCdemo a b xi s
  | .choop a b => Sys2Proof.Machine.execChoop a b s
  | .cdeal a b => Sys2Proof.Machine.execCdeal a b s
  | .carm a b x => Sys2Proof.Machine.execCarm a b x s
  | .cstat d b => Sys2Proof.Machine.execCstat d b s
  | .ccancel a => Sys2Proof.Machine.execCcancel a s
  | .cfence sc => Sys2Proof.Machine.execCfence sc s
  | .catom a b c xa => Sys2Proof.Machine.execCatom a b c xa s
  | .sat a b c xa => Sys2Proof.Machine.execSat a b c xa s
  | .kvapp a b x => Sys2Proof.Machine.execKvapp a b x s
  | .kvrel a b => Sys2Proof.Machine.execKvrel a b s
  | .kvpin a b => Sys2Proof.Machine.execKvpin a b s
  | .kvunpin a b => Sys2Proof.Machine.execKvunpin a b s
  | .gbar g => Sys2Proof.Machine.execGbar g s
  | .xchg d b => Sys2Proof.Machine.execXchg d b s
  | .xmax d => Sys2Proof.Machine.execXmax d s
  | .chsend a ch => Sys2Proof.Machine.execChsend a ch s
  | .chsendTry d b ch => Sys2Proof.Machine.execChsendTry d b ch s
  | .chrecv d ch => Sys2Proof.Machine.execChrecv d ch s
  | .chrecvTry d b ch => Sys2Proof.Machine.execChrecvTry d b ch s
  | .chalt d b => Sys2Proof.Machine.execChalt d b s
  | .chaltTry d b => Sys2Proof.Machine.execChaltTry d b s
  | .chgrant ch x => Sys2Proof.Machine.execChgrant ch x s
  | .chbind a ch => Sys2Proof.Machine.execChbind a ch s
  | .chseal ch => Sys2Proof.Machine.execChseal ch s
  | .chack ch b => Sys2Proof.Machine.execChack ch b s
  | .tAdd a b c => Sys2Proof.Machine.execTAdd a b c s
  | .tSub a b c => Sys2Proof.Machine.execTSub a b c s
  | .tSubImm a b imm => Sys2Proof.Machine.execTSubImm a b imm s
  | .tAddi a b imm => Sys2Proof.Machine.execTAddi a b imm s
  | .tMul la a b c => Sys2Proof.Machine.execTMul la a b c s
  | .tMulImm la a b imm => Sys2Proof.Machine.execTMulImm la a b imm s
  | .tMulh la a b c => Sys2Proof.Machine.execTMulh la a b c s
  | .tMulhImm la a b imm => Sys2Proof.Machine.execTMulhImm la a b imm s
  | .tMulhW la a b c => Sys2Proof.Machine.execTMulhW la a b c s
  | .tMulhWImm la a b imm => Sys2Proof.Machine.execTMulhWImm la a b imm s
  | .tDiv la a b c => Sys2Proof.Machine.execTDiv la a b c s
  | .tDivImm la a b imm => Sys2Proof.Machine.execTDivImm la a b imm s
  | .tDivW la a b c => Sys2Proof.Machine.execTDivW la a b c s
  | .tDivWImm la a b imm => Sys2Proof.Machine.execTDivWImm la a b imm s
  | .tRem la a b c => Sys2Proof.Machine.execTRem la a b c s
  | .tRemImm la a b imm => Sys2Proof.Machine.execTRemImm la a b imm s
  | .tRemW la a b c => Sys2Proof.Machine.execTRemW la a b c s
  | .tRemWImm la a b imm => Sys2Proof.Machine.execTRemWImm la a b imm s
  | .tAnd a b c => Sys2Proof.Machine.execTAnd a b c s
  | .tAndImm a b imm => Sys2Proof.Machine.execTAndImm a b imm s
  | .tOr a b c => Sys2Proof.Machine.execTOr a b c s
  | .tOrImm a b imm => Sys2Proof.Machine.execTOrImm a b imm s
  | .tXor a b c => Sys2Proof.Machine.execTXor a b c s
  | .tXorImm a b imm => Sys2Proof.Machine.execTXorImm a b imm s
  | .tAndn a b c => Sys2Proof.Machine.execTAndn a b c s
  | .tAndnImm a b imm => Sys2Proof.Machine.execTAndnImm a b imm s
  | .tShl a b c => Sys2Proof.Machine.execTShl a b c s
  | .tShlImm a b imm => Sys2Proof.Machine.execTShlImm a b imm s
  | .tShr a b c => Sys2Proof.Machine.execTShr a b c s
  | .tShrImm a b imm => Sys2Proof.Machine.execTShrImm a b imm s
  | .tSar a b c => Sys2Proof.Machine.execTSar a b c s
  | .tSarImm a b imm => Sys2Proof.Machine.execTSarImm a b imm s
  | .tRot a b c => Sys2Proof.Machine.execTRot a b c s
  | .tRotImm a b imm => Sys2Proof.Machine.execTRotImm a b imm s
  | .tClz a b => Sys2Proof.Machine.execTClz a b s
  | .tPopc a b => Sys2Proof.Machine.execTPopc a b s
  | .tMin a b c => Sys2Proof.Machine.execTMin a b c s
  | .tMinImm a b imm => Sys2Proof.Machine.execTMinImm a b imm s
  | .tMinW a b c => Sys2Proof.Machine.execTMinW a b c s
  | .tMinWImm a b imm => Sys2Proof.Machine.execTMinWImm a b imm s
  | .tMax a b c => Sys2Proof.Machine.execTMax a b c s
  | .tMaxImm a b imm => Sys2Proof.Machine.execTMaxImm a b imm s
  | .tMaxW a b c => Sys2Proof.Machine.execTMaxW a b c s
  | .tMaxWImm a b imm => Sys2Proof.Machine.execTMaxWImm a b imm s
  | .tSel a b c d => Sys2Proof.Machine.execTSel a b c d s
  | .tLi a imm => Sys2Proof.Machine.execTLi a imm s
  | .tBfx a b f => Sys2Proof.Machine.execTBfx a b f s
  | .tBfi a b f => Sys2Proof.Machine.execTBfi a b f s
  | .tCmp cc a b c => Sys2Proof.Machine.execTCmp cc a b c s
  | .tCmpImm cc a b imm => Sys2Proof.Machine.execTCmpImm cc a b imm s
  | .tcmpx la a b c => Sys2Proof.Machine.execTcmpx la a b c s
  | .tbr x => Sys2Proof.Machine.execTbr x s
  | .texit a => Sys2Proof.Machine.execTexit a s
  | .twait a => Sys2Proof.Machine.execTwait a s
  | .tsig a => Sys2Proof.Machine.execTsig a s
  | .tld la t a b c => Sys2Proof.Machine.execTld la t a b c s
  | .tldImm la t a b imm => Sys2Proof.Machine.execTldImm la t a b imm s
  | .tldSp la t a b c => Sys2Proof.Machine.execTldSp la t a b c s
  | .tldSpImm la t a b imm => Sys2Proof.Machine.execTldSpImm la t a b imm s
  | .tst n a b c => Sys2Proof.Machine.execTst n a b c s
  | .tstImm n a b imm => Sys2Proof.Machine.execTstImm n a b imm s
  | .tstSp n a b c => Sys2Proof.Machine.execTstSp n a b c s
  | .tstSpImm n a b imm => Sys2Proof.Machine.execTstSpImm n a b imm s
  | .tstSpN4 a b imm => Sys2Proof.Machine.execTstSpN4 a b imm s
  | .tacq la a sc => Sys2Proof.Machine.execTacq la a sc s
  | .trel a sc => Sys2Proof.Machine.execTrel a sc s
  | .tfence sc => Sys2Proof.Machine.execTfence sc s
  | .tcache a op => Sys2Proof.Machine.execTcache a op s
  | .spawn a b => Sys2Proof.Machine.execSpawn a b s
  | .join a b => Sys2Proof.Machine.execJoin a b s
  | .steal la a b => Sys2Proof.Machine.execSteal la a b s
  | .tChsend a ch => Sys2Proof.Machine.execTChsend a ch s
  | .tCatom la a b c xa => Sys2Proof.Machine.execTCatom la a b c xa s
  | .tSat la a b c xa => Sys2Proof.Machine.execTSat la a b c xa s
  | .nop => Sys2Proof.Machine.execNop s
  | .ret => Sys2Proof.Machine.execRet s
  | .halt => Sys2Proof.Machine.execHalt s
  | .eret => Sys2Proof.Machine.execEret s
  | .srseedWrite => Sys2Proof.Machine.execSrseedWrite s
  | .csave => Sys2Proof.Machine.execCsave s
  | .cload => Sys2Proof.Machine.execCload s
  | .tinkerCacheFill => Sys2Proof.Machine.execTinkerCacheFill s
  | .tinkerWriteback => Sys2Proof.Machine.execTinkerWriteback s
  | .flagrelAdd => Sys2Proof.Machine.execFlagrelAdd s
  | .hoopPush => Sys2Proof.Machine.execHoopPush s
  | .tileForwardArrival => Sys2Proof.Machine.execTileForwardArrival s
  | .transposePush => Sys2Proof.Machine.execTransposePush s
  | .arrivalWordUpdate => Sys2Proof.Machine.execArrivalWordUpdate s
  | .copyCommandComplete => Sys2Proof.Machine.execCopyCommandComplete s
  | .trapEntry => Sys2Proof.Machine.execTrapEntry s
  | .watchdog => Sys2Proof.Machine.execWatchdog s
  | .preempt => Sys2Proof.Machine.execPreempt s
  | .channelMessageArrival => Sys2Proof.Machine.execChannelMessageArrival s
  | .allowanceArrival => Sys2Proof.Machine.execAllowanceArrival s
  | .ackArrival => Sys2Proof.Machine.execAckArrival s
  | .porterRequest => Sys2Proof.Machine.execPorterRequest s
  | .translationWalk => Sys2Proof.Machine.execTranslationWalk s
  | .recallComplete => Sys2Proof.Machine.execRecallComplete s
  | .porterRunStart => Sys2Proof.Machine.execPorterRunStart s
  | .porterRunEnd => Sys2Proof.Machine.execPorterRunEnd s
  | .tierMove => Sys2Proof.Machine.execTierMove s
  | .sqtail => Sys2Proof.Machine.execSqtail s
  | .cqhead => Sys2Proof.Machine.execCqhead s
  | .inlgo => Sys2Proof.Machine.execInlgo s
  | .queueEn => Sys2Proof.Machine.execQueueEn s
  | .registerWrite => Sys2Proof.Machine.execRegisterWrite s
  | .bar2Read => Sys2Proof.Machine.execBar2Read s
  | .bar2Write => Sys2Proof.Machine.execBar2Write s
  | .functionLevelReset => Sys2Proof.Machine.execFunctionLevelReset s
  | .cmdLaunch => Sys2Proof.Machine.execCmdLaunch s
  | .cmdGraph => Sys2Proof.Machine.execCmdGraph s
  | .graphNodeStart => Sys2Proof.Machine.execGraphNodeStart s
  | .cmdCopy => Sys2Proof.Machine.execCmdCopy s
  | .cmdSignal => Sys2Proof.Machine.execCmdSignal s
  | .cmdWait => Sys2Proof.Machine.execCmdWait s
  | .cmdPartition => Sys2Proof.Machine.execCmdPartition s
  | .cmdCheckpoint => Sys2Proof.Machine.execCmdCheckpoint s
  | .cmdFreezeClear => Sys2Proof.Machine.execCmdFreezeClear s
  | .cmdInval => Sys2Proof.Machine.execCmdInval s
  | .cmdHtset => Sys2Proof.Machine.execCmdHtset s
  | .cmdAttest => Sys2Proof.Machine.execCmdAttest s
  | .launchRetire => Sys2Proof.Machine.execLaunchRetire s
  | .launchResume => Sys2Proof.Machine.execLaunchResume s
  | .powerGood => Sys2Proof.Machine.execPowerGood s
  | .powerLoss => Sys2Proof.Machine.execPowerLoss s
  | .tokenAllowanceUpdate => Sys2Proof.Machine.execTokenAllowanceUpdate s
  | .thermalWarning => Sys2Proof.Machine.execThermalWarning s
  | .thermalCritical => Sys2Proof.Machine.execThermalCritical s
  | .msgFlit => Sys2Proof.Machine.execMsgFlit s
  | .grantFlit => Sys2Proof.Machine.execGrantFlit s
  | .ackFlit => Sys2Proof.Machine.execAckFlit s
  | .refuseFlit => Sys2Proof.Machine.execRefuseFlit s
  | .stepFlit => Sys2Proof.Machine.execStepFlit s
  | .abortFlit => Sys2Proof.Machine.execAbortFlit s
  | .finalFlit => Sys2Proof.Machine.execFinalFlit s
  | .agreedFlit => Sys2Proof.Machine.execAgreedFlit s
  | .readyFlit => Sys2Proof.Machine.execReadyFlit s
  | .dataFlit => Sys2Proof.Machine.execDataFlit s
  | .gangpreFlit => Sys2Proof.Machine.execGangpreFlit s
  | .retransmissionTimeout => Sys2Proof.Machine.execRetransmissionTimeout s
  | .memberUnreachable => Sys2Proof.Machine.execMemberUnreachable s
  | .sliceEnd => Sys2Proof.Machine.execSliceEnd s
  | .mainClockCycle => Sys2Proof.Machine.execMainClockCycle s
  | .tinkerInstructionFetch => Sys2Proof.Machine.execTinkerInstructionFetch s
  | .contextEngineDone => Sys2Proof.Machine.execContextEngineDone s
  | .bitError => Sys2Proof.Machine.execBitError s
  | .linkFailure => Sys2Proof.Machine.execLinkFailure s

end Sys2Proof.Machine
end

