-- ==== Sys2Proof/Machine/Step.lean ====
section
/-! DEFINITION. One step of the module: the next item of the agenda, or, when it is empty, an action that the machine is free to take next (log 1). -/
namespace Sys2Proof.Machine

/-- What the machine may do next when nothing is under way: a main-clock cycle, an action that waits, or the next input. -/
def State.choices (s : State) : List Item :=
  Item.event .mainClockCycle .unit :: s.pending.map (fun e => Item.event e.1 e.2) ++ (s.inputs.take 1).map fun e => Item.event e.1 e.2
/-- Take one of them; an input is taken away, an action takes itself away when it is done. -/
def State.choose (s : State) : State :=
  let n := s.choices.length
  let k := Config.pick s.tick % n
  { s with agenda := (s.choices[k]?).toList, inputs := if k = s.pending.length + 1 then s.inputs.drop 1 else s.inputs }

/-- Run one item. The words of a slot and of a tinker operation are decoded here. -/
def runItem (s : State) : Item → Host.Outcome State Fault Refusal
  | .event i a => exec i { s with cur := .event a }
  | .slot c k issue r =>
    match slotInstr (k, r) with
    | .ok i => exec i { s with cur := .slot c k issue }
    | .error _ => .next s
  | .tinker c t k w e =>
    match decodeTinker w e with
    | .ok i => exec i { s with cur := .tinker c t k }
    | .error _ => .next s
  | .sys k => .next (s.runSys k)

/-- One step. -/
def step (s : State) : Host.Outcome State Fault Refusal :=
  let s0 := if s.agenda.isEmpty then s.choose else s
  let s1 := { s0 with tick := s.tick + 1 }
  match s1.agenda with
  | [] => .next s1
  | i :: rest => runItem { s1 with agenda := rest } i

/-! ### An instruction placed to run next -/

/-- The core and thread that run it: thread 0 of core z7.x0.y0, in a launch of that core with 64 tinker threads. -/
def fetchCore : Nat := coreId 7 0 0
def fetchLaunch : Launch :=
  { id := 0, cores := [fetchCore], z := 7, x0 := 0, y0 := 0, width := 1, height := 1, space := 0, tenant := 0, l4 := false, tinkers := 64, stealDom := 0,
    stall := 0, started := true, ctag := 1, prio := 0, preen := false, body := 0, uid := 0, graph := none, fn := 0, phase := .running, failure := none,
    groupSlot := none, epoch := 0, released := 0, sliceOver := false, buffers := [] }
/-- The slot of a tinker word: the first that accepts it (Table 3.12). -/
def fetchSlot (w : Nat) : Slot := let x := tinkInfo w 0 (fun _ _ => 0) fun _ => true; if x.onS then 0 else if x.onV then 1 else 4
/-- `s` with a tinker operation fetched by a thread and chosen by the barrel, so that the next step decodes and runs it. -/
def State.withFetchWord (s : State) (_nbits w : Nat) : State :=
  let w0 := BitVec.ofNat 32 w
  let e := BitVec.ofNat 32 (w / 2 ^ 32)
  let c := s.core fetchCore
  let h : Thread := { Thread.empty with status := .ready, pc := 0, base := 0, size := 128, fetched := some (w0, e) }
  let s1 := s.setCore fetchCore { c with run := .running, threads := c.threads.set 0 h }
  { s1 with power := true, ready := true, launches := fetchLaunch :: s.launches, agenda := [Item.tinker fetchCore 0 (fetchSlot w) w0 e] }

end Sys2Proof.Machine
end

