-- ==== Sys2Proof/Safety.lean ====
section
/-! DEFINITION. What counts as a safe run: every step answers a next state. -/
namespace Sys2Proof.Machine

/-- The step is taken. -/
def Goes : Out → Bool
  | .next _ => true
  | .fault _ => false
  | .refused _ => false

/-- No step of the first `n` stops. -/
def State.safeFor : Nat → State → Bool
  | 0, _ => true
  | n + 1, s =>
    match step s with
    | .next t => t.safeFor n
    | .fault _ => false
    | .refused _ => false

/-- A run never stops. -/
def State.Safe (s : State) : Prop := ∀ n, s.safeFor n = true

/-- No core has frozen with a violation (R277). -/
def State.NoViolation (s : State) : Prop := ∀ id v h, (s.core id).run ≠ .frozen v h

end Sys2Proof.Machine
end

