-- ==== Sys2Proof/WellFormed.lean ====
section
/-! DEFINITION. Which instructions an encoding can hold: the limits on operands that their types do not already make (R101). -/
namespace Sys2Proof

/-- A branch target: an immediate offset has bits [1:0] zero (R127). -/
def SX.targetOk : SX → Bool
  | .reg _ => true
  | .imm x => fld x 0 2 == 0

/-- An M slot names no latch (Table 3.5). -/
def SX.noLatch : SX → Bool
  | .reg (.s _) => true
  | .reg _ => false
  | .imm _ => true

/-- VLD and VST: without XV there is neither a mask nor a mask width other than 32 bits (R142, R158). -/
def OffX.allows (x : OffX) (plain : Bool) : Bool :=
  match x with
  | .reg _ => plain
  | .imm _ => true

/-- A v register of VLD that needs no XV. -/
def VldDst.plain : VldDst → Bool
  | .v _ k t => k.isNone && t == .b32
  | _ => true

/-- A v register of VST that needs no XV. -/
def VstSrc.plain : VstSrc → Bool
  | .v _ k t => k.isNone && t == .b32
  | _ => true

/-- The limits of one instruction; an instruction not named has none. -/
def Instr.wf : Instr → Bool
  | .bfx _ _ f => f.fits
  | .bfi _ _ f => f.fits && !f.sx
  | .tBfx _ _ f => f.fits
  | .tBfi _ _ f => f.fits && !f.sx
  | .br t => t.targetOk
  | .call t => t.targetOk
  | .brc _ x => fld x 0 2 == 0
  | .loop _ x => loopOffOk x
  | .ttmask _ _ (.toMem ..) => true
  | .vcvt _ _ xv => xv.okB
  | .vxpand _ _ xv => xv.f != .mxint8
  | .vld d _ x => x.allows d.plain
  | .vst a _ x => x.allows a.plain
  | .vcmpx t _ _ xv => cmpxOk t xv
  | .vtopk t _ _ xv => topkOk t xv
  | .vred t _ _ xv => redOk t xv.op
  | .vscan t _ _ xv => redOk t xv.op
  | .dto _ _ xv => !xv.hi || xv.t == .f32
  | .dlerp _ _ _ t => t.toNat ≤ 0x8000
  | .mma _ xm => pairOk xm.fa xm.fb
  | .mdrain _ _ xd => xd.rnd != .sr
  | .mclr _ x => x.noLatch
  | .mpop _ n => n != 0
  | .catom _ _ _ xa => xa.at_.okB && (2 ≤ xa.scope.code : Bool)
  | .sat a _ _ xa => xa.okB && (satA (eSS a) xa.ret (xa.op == .cas)).isEmpty
  | .tCatom la a _ _ xa => xa.at_.okB && (2 ≤ xa.scope.code : Bool) && (xa.at_.ret || (la == 0 && (xa.at_.op == .cas || a == 0)))
  | .tSat la a _ _ xa => xa.okB && (xa.ret || (la == 0 && (xa.op == .cas || a == 0)))
  | .tcmpx _ a b c => a != b && a != c
  | .tbr (.nz _ x) => fld x 0 2 == 0
  | .tbr (.z _ x) => fld x 0 2 == 0
  | .tbr (.al x) => fld x 0 2 == 0
  | .tbr (.link _ x) => fld x 0 2 == 0
  | _ => true

end Sys2Proof
end

