-- ==== Sys2Proof/Certificates/Slice0/Obligations.lean ====
section
/-! DEFINITION. The statements for the provers. First their vocabulary: an issuing slot, a result in flight, and the values the rules give. -/
namespace Sys2Proof.Claims
open Sys2Proof.Machine

/-! ### Vocabulary -/

/-- Slot `k` of core `id` issues its operation; no captured operands are in use (R270). -/
def Issuing (s : State) (id : Nat) (k : Slot) : Prop := s.cur = .slot id k true ∧ (s.core id).resumeCaps = []
/-- No stream port of a core is bound, so v28 to v31 are ordinary registers (R77). -/
def Unbound (s : State) (id : Nat) : Prop := ∀ p : Port, (s.core id).ports[p] = none
/-- A result in flight (R57): it lands `lat` issue cycles from now. In the handler no latch is written (R58, R269). -/
def inFlight (c : Core) (k : Slot) (d : Dest) (lat val : Nat) (fl : Flags := 0) (mask : Nat := 2 ^ 2048 - 1) (latch : Bool := true) : Flight :=
  { dest := d, value := val, mask, due := c.ic + lat, issued := c.ic, slot := k, latch := latch && !c.sp.handler, flags := fl, pend := 0, addr := 0, push := false }
/-- The module with one more result in flight, and nothing else changed. -/
def fly (s : State) (id : Nat) (k : Slot) (d : Dest) (lat val : Nat) (fl : Flags := 0) : State :=
  s.setCore id { s.core id with flights := (s.core id).flights ++ [inFlight (s.core id) k d lat val fl] }
/-- The last operand of an `s|imm` form, its immediate sign-extended, and zero-extended (R112). -/
def sxVal (c : Core) : SX → Word | .reg r => c.ss r | .imm i => i.signExtend 64
def zxVal (c : Core) : SX → Word | .reg r => c.ss r | .imm i => i.zeroExtend 64
/-- The low six bits of a count (R113). -/
def count6 (x : Word) : Nat := x.toNat % 64
/-- The number of one bits of a word, and the number of zero bits above its highest one bit. -/
def ones (x : Word) : Nat := ((List.range 64).filter fun i => x.getLsbD i).length
def leadingZeros (x : Word) : Nat := ((List.range 64).takeWhile fun i => !x.getLsbD (63 - i)).length
/-- A condition of Table 4.3 on 64-bit words. -/
def condWord (cc : ICond) (b x : Word) : Bool :=
  match cc with
  | .eq => b == x | .ne => b != x
  | .lt => b.slt x | .le => b.sle x | .gt => x.slt b | .ge => x.sle b
  | .ltw => b.ult x | .lew => b.ule x | .gtw => x.ult b | .gew => x.ule b
/-- Conditions whose names end in W compare unsigned and extend an immediate with zeros. -/
def condUnsigned : ICond → Bool | .ltw | .lew | .gtw | .gew => true | _ => false
/-- A bit field of a word: `n` bits from `p`. -/
def fieldOf (b : Word) (p n : Nat) : Nat := b.toNat / 2 ^ p % 2 ^ n
/-- The bytes that the operation just issued will write, in order. -/
def newPuts (c c' : Core) : List PutByte := (c'.writes.drop c.writes.length).flatMap fun w => match w.2 with | .put b => b | _ => []
/-- The scratchpad bytes `[a, a + n)` can be accessed: in range, aligned, without an error. -/
def Readable (s : State) (id a n : Nat) : Prop := s.mem.spadFault id a n = (0, 0)
/-- What a slot that issues sees of the state. -/
abbrev view (s : State) (id : Nat) (k : Slot) : View := ⟨s, id, s.core id, k, none⟩

end Sys2Proof.Claims
open Sys2Proof Sys2Proof.Machine Sys2Proof.Claims

/-! ### The S slot: integers -/

/-- R113: the wrapped sum, difference and low product, the logic operations, the shifts and the rotation by the low six bits of the count, at latency
1 (3 for MUL). The whole next state is the old one with that one result in flight. -/
def Obligations.ScalarIntegerResults : Prop :=
  ∀ (s : State) (id : Nat) (k : Slot), Issuing s id k → Unbound s id → ∀ (d : SReg) (b c : SSrc) (x : SX) (imm : BitVec 32),
    let p := (s.core id).ss b
    let q := sxVal (s.core id) x
    let r (lat : Nat) (v : Word) : State := fly s id k (.s d) lat v.toNat
    exec (.add d b c) s = .next (r 1 (p + (s.core id).ss c)) ∧ exec (.sub d b x) s = .next (r 1 (p - q)) ∧
    exec (.addi d b imm) s = .next (r 1 (p + imm.signExtend 64)) ∧ exec (.mul d b x) s = .next (r 3 (p * q)) ∧
    exec (.and d b x) s = .next (r 1 (p &&& q)) ∧ exec (.or d b x) s = .next (r 1 (p ||| q)) ∧ exec (.xor d b x) s = .next (r 1 (p ^^^ q)) ∧
    exec (.andn d b x) s = .next (r 1 (p &&& ~~~q)) ∧ exec (.shl d b x) s = .next (r 1 (p <<< count6 q)) ∧
    exec (.shr d b x) s = .next (r 1 (p >>> count6 q)) ∧ exec (.sar d b x) s = .next (r 1 (p.sshiftRight (count6 q))) ∧
    exec (.rot d b x) s = .next (r 1 (p.rotateRight (count6 q))) ∧ exec (.li d imm) s = .next (r 1 (imm.signExtend 64))

/-- R113: MULH and MULH_W give the high half of the signed and of the unsigned product at latency 3; CLZ and POPC count; MIN and MAX are signed, MIN_W
and MAX_W unsigned with a zero-extended immediate. R115: SEL reads its predicate at issue. R116: ADDA, BFX, BFI. -/
def Obligations.ScalarWideResults : Prop :=
  ∀ (s : State) (id : Nat) (k : Slot), Issuing s id k → Unbound s id → ∀ (d : SReg) (b c : SSrc) (x : SX) (g : Pred) (f : BitField),
    let p := (s.core id).ss b
    let q := sxVal (s.core id) x
    let z := zxVal (s.core id) x
    let n := f.wm1.val + 1
    let m := BitVec.ofNat 64 ((2 ^ n - 1) * 2 ^ f.pos.val)
    let r (lat : Nat) (v : Word) : State := fly s id k (.s d) lat v.toNat
    exec (.mulh d b x) s = .next (r 3 (BitVec.ofInt 64 (p.toInt * q.toInt / 2 ^ 64))) ∧
    exec (.mulhW d b x) s = .next (r 3 (BitVec.ofNat 64 (p.toNat * z.toNat / 2 ^ 64))) ∧
    exec (.clz d b) s = .next (r 1 (BitVec.ofNat 64 (leadingZeros p))) ∧ exec (.popc d b) s = .next (r 1 (BitVec.ofNat 64 (ones p))) ∧
    exec (.min d b x) s = .next (r 1 (if p.sle q then p else q)) ∧ exec (.max d b x) s = .next (r 1 (if p.sle q then q else p)) ∧
    exec (.minW d b x) s = .next (r 1 (if p.ule z then p else z)) ∧ exec (.maxW d b x) s = .next (r 1 (if p.ule z then z else p)) ∧
    exec (.sel d b c g) s = .next (r 1 (if g = 0 ∨ (s.core id).p[g] = true then p else (s.core id).ss c)) ∧
    exec (.adda d b x) s = .next (r 1 (BitVec.ofNat 64 (p.toNat / 2 ^ 48 * 2 ^ 48 + (p.toNat + q.toNat) % 2 ^ 48))) ∧
    exec (.bfx d b f) s = .next (r 1 (if f.sx ∧ fieldOf p f.pos.val n / 2 ^ f.wm1.val % 2 = 1 then BitVec.ofInt 64 ((fieldOf p f.pos.val n : Int) - 2 ^ n)
      else BitVec.ofNat 64 (fieldOf p f.pos.val n))) ∧
    exec (.bfi d b f) s = .next (r 1 (((s.core id).ss (.s d) &&& ~~~m) ||| ((p <<< f.pos.val) &&& m)))

/-- R114: division by zero gives all ones and the dividend, the most negative number by -1 gives itself and 0, and every other quotient is truncated;
all four complete at latency 18. -/
def Obligations.DivisionCorners : Prop :=
  ∀ (s : State) (id : Nat) (k : Slot), Issuing s id k → Unbound s id → ∀ (d : SReg) (b : SSrc) (x : SX),
    let p := (s.core id).ss b
    let q := sxVal (s.core id) x
    let z := zxVal (s.core id) x
    let r (v : Word) : State := fly s id k (.s d) 18 v.toNat
    exec (.div d b x) s = .next (r (if q = 0 then BitVec.allOnes 64 else p.sdiv q)) ∧ exec (.rem d b x) s = .next (r (if q = 0 then p else p.srem q)) ∧
    exec (.divW d b x) s = .next (r (if z = 0 then BitVec.allOnes 64 else p / z)) ∧ exec (.remW d b x) s = .next (r (if z = 0 then p else p % z)) ∧
    (p.toNat = 2 ^ 63 → q = BitVec.allOnes 64 → p.sdiv q = p ∧ p.srem q = 0)

/-- R117, R118: CMP writes its predicate with the truth of the condition at latency 1, and PAND, POR, PXOR and PNOT the function of their sources; p0 reads 1.
When such a result lands, p0 stays and any other predicate takes it, and it enters ls zero-extended. -/
def Obligations.PredicateResults : Prop :=
  ∀ (s : State) (id : Nat) (k : Slot), Issuing s id k → Unbound s id → ∀ (cc : ICond) (d g h : Pred) (b : SSrc) (x : SX),
    let c := s.core id
    let r (v : Bool) : State := fly s id k (.p d) 1 v.toNat
    let pg := g = 0 ∨ c.p[g] = true
    let ph := h = 0 ∨ c.p[h] = true
    exec (.cmp cc d b x) s = .next (r (condWord cc (c.ss b) (if condUnsigned cc then zxVal c x else sxVal c x))) ∧
    exec (.pand d g h) s = .next (r (decide (pg ∧ ph))) ∧ exec (.por d g h) s = .next (r (decide (pg ∨ ph))) ∧
    exec (.pxor d g h) s = .next (r (decide ¬(pg ↔ ph))) ∧ exec (.pnot d g) s = .next (r (decide ¬pg)) ∧
    ∀ (v win : Bool), let t := c.landOne id win (inFlight c k (.p d) 1 v.toNat)
      (∀ q : Pred, t.p[q] = if q = d ∧ q ≠ 0 then v else c.p[q]) ∧ (k = 0 → c.sp.handler = false → t.ls = BitVec.ofNat 64 v.toNat)

/-- R119 to R121: the FP32 operations act on bits [31:0] of their operands, at latency 4, 2 for SFMIN, SFMAX, SFCVT and SFCMP; a rounding in mode SR takes
one draw from generator 128, and the flags fly with the result. -/
def Obligations.ScalarFloatResults : Prop :=
  ∀ (s : State) (id : Nat) (k : Slot), Issuing s id k → Unbound s id → ∀ (d : SReg) (q : Pred) (b c : SSrc) (m : Option Rnd) (f : CvtX) (cc : FCond),
    let co := s.core id
    let x := (co.ss b).toNat % 2 ^ 32
    let y := (co.ss c).toNat % 2 ^ 32
    let z := (co.ss (.s d)).toNat % 2 ^ 32
    let rounded (lat : Nat) (r : Rnd) (v : Mode → Nat × Flags) : State :=
      let p := modeAt r co.gens 128
      (fly s id k (.s d) lat ((v p.1).1 % 2 ^ 64) (v p.1).2).updCore id fun c => { c with gens := p.2 }
    let exact (v : Nat × Flags) : State := fly s id k (.s d) 2 (v.1 % 2 ^ 64) v.2
    exec (.sfadd d b c m) s = .next (rounded 4 (co.rndOpt m) fun md => FFmt.f32.fadd co.ftz md x y) ∧
    exec (.sfmul d b c m) s = .next (rounded 4 (co.rndOpt m) fun md => FFmt.f32.fmul co.ftz md x y) ∧
    exec (.sffma d b c m) s = .next (rounded 4 (co.rndOpt m) fun md => FFmt.f32.ffma co.ftz md x y z) ∧
    exec (.sfmin d b c) s = .next (exact (FFmt.f32.minmax co.ftz false x y)) ∧ exec (.sfmax d b c) s = .next (exact (FFmt.f32.minmax co.ftz true x y)) ∧
    exec (.sfcvt d b f) s = .next (rounded 2 (co.rnd f.rnd) fun md =>
      let r := convert f.src f.dst co.ftz true md ((co.ss b).toNat % 2 ^ numW f.src)
      ((extendRes f.dst r.1).toNat, r.2)) ∧
    exec (.sfcmp cc q b c) s = .next (fly s id k (.p q) 2 (FFmt.f32.fcmp co.ftz cc x y).1.toNat (FFmt.f32.fcmp co.ftz cc x y).2)

/-- R122, R133: a load and FLAGACQ bring the bytes at the effective address, extended as the suffix says, at the load latency (6, or 4 under L4), charge
one bank port for each line read, and change no byte of memory. R123, R124: a store and a nibble store put their bytes down for the next cycle and write no
register. Addresses are in range and aligned, and no word read has an error (R67, R71). -/
def Sys2Proof.Claims.ScalarMemoryOperations : Prop :=
  ∀ (s : State) (id : Nat) (k : Slot), Issuing s id k → Unbound s id → ∀ (t : LdTy) (w : StW) (d : SReg) (a b : SSrc) (x : SX) (imm : BitVec 32) (sc : Scope),
    let c := s.core id
    let rd (ea n : Nat) : Nat := s.mem.read (spadKey id ea) n
    let loads (i : Instr) (ea n v : Nat) : Prop := ∃ u, exec i s = .next u ∧ (∀ z, u.mem.byte z = s.mem.byte z) ∧
      u.core id = { c with flights := c.flights ++ [inFlight c k (.s d) (if c.sp.compat then 4 else 6) v],
                           demand := c.demand ++ (readDemand 0 ea n).map fun q => (c.ic + q.1, q.2.1, q.2.2) }
    let stores (i : Instr) (ea n : Nat) (p : List PutByte) : Prop :=
      exec i s = .next (s.setCore id { c with writes := c.writes ++ [(c.ic + 1, .put p)],
                                              demand := c.demand ++ (writeDemand 1 ea n).map fun q => (c.ic + q.1, q.2.1, q.2.2) })
    let ea := (c.ss b + sxVal c x).toNat
    let na := nibbleAddr (c.ss b) imm.toInt
    (s.mem.spadFault id ea (ldBytes t) = (0, 0) → loads (.lds t d b x) ea (ldBytes t) (extendLd t (rd ea (ldBytes t))).toNat) ∧
    (s.mem.spadFault id (c.ss (.s d)).toNat 8 = (0, 0) → loads (.flagacq d sc) (c.ss (.s d)).toNat 8 (rd (c.ss (.s d)).toNat 8)) ∧
    stores (.sts w a b x) ea (stwBytes w) (putBytes (spadKey id ea) (bytesOf (stwBytes w) (c.ss a).toNat)) ∧
    stores (.stsN4 a b imm) (na / 2) 1 [(spadKey id (na / 2), BitVec.ofNat 8 ((c.ss a).toNat % 16 * 16 ^ (na % 2)), if na % 2 = 0 then 0x0F else 0xF0)]

/-- Table 4.4: a loaded pattern is sign-extended for the signed suffixes and zero-extended for the others. -/
def Sys2Proof.Claims.LoadExtension : Prop :=
  ∀ x : Nat, extendLd .i8 x = (BitVec.ofNat 8 x).signExtend 64 ∧ extendLd .i16 x = (BitVec.ofNat 16 x).signExtend 64 ∧
    extendLd .i32 x = (BitVec.ofNat 32 x).signExtend 64 ∧ extendLd .i64 x = BitVec.ofNat 64 x ∧
    (x < 2 ^ 8 → (extendLd .w8 x).toNat = x) ∧ (x < 2 ^ 16 → (extendLd .w16 x).toNat = x) ∧ (x < 2 ^ 32 → (extendLd .w32 x).toNat = x)

/-- R122 to R124, R133, Table 4.4: loads and stores of the S slot, and how each load suffix extends what it reads. -/
def Obligations.ScalarMemoryOperations : Prop := Claims.ScalarMemoryOperations ∧ Claims.LoadExtension

/-! ### The S slot: control -/

/-- R125, R126: BR, CALL and RET always transfer and BRC does when its operand is not zero; the transfer redirects the bundle of issue cycle c + 3, an
immediate counting from the header of its own bundle; CALL puts the link into s31 at c + 1. Nothing else changes. -/
def Obligations.ControlTransfers : Prop :=
  ∀ (s : State) (id : Nat) (k : Slot), Issuing s id k → Unbound s id → ∀ (a : SSrc) (imm : BitVec 32),
    let c := s.core id
    let goes (t : Nat) (fs : List Flight) : State := s.setCore id { c with transfers := c.transfers ++ [(c.ic + 3, t)], flights := c.flights ++ fs }
    let rel := wrapNat 64 ((c.pc : Int) + imm.toInt)
    let ln := inFlight c k (.s 31) 1 (c.link % 2 ^ 64)
    exec (.br (.imm imm)) s = .next (goes rel []) ∧ exec (.br (.reg a)) s = .next (goes (c.ss a).toNat []) ∧
    exec (.call (.imm imm)) s = .next (goes rel [ln]) ∧ exec (.call (.reg a)) s = .next (goes (c.ss a).toNat [ln]) ∧
    exec .ret s = .next (goes (c.ss (.s 31)).toNat []) ∧
    exec (.brc a imm) s = .next (if c.ss a = 0 then s.setCore id c else goes rel [])

/-- R125: the bundle of the cycle a taken transfer names is its target, whatever folded bundles or loops stood there, and until then the sequencer goes on:
inside a run of folded bundles it counts one more, and after the last it goes to the next header. -/
def Sys2Proof.Claims.TransferRedirects : Prop :=
  ∀ (c : Core) (t : Nat), c.skip = none →
    (c.transfers = [(c.ic + 1, t)] → c.advance.pc = t ∧ c.advance.owed = 0 ∧ c.advance.transfers = []) ∧
    (c.transfers = [(c.ic + 3, t)] → c.loops = [] → 1 < c.owed → c.advance.pc = c.pc ∧ c.advance.owed = c.owed - 1 ∧ c.advance.transfers = c.transfers) ∧
    (c.transfers = [] → c.loops = [] → c.owed = 0 → (c.shapeAt c.pc).1 = 0 → c.advance.pc = (c.shapeAt c.pc).2)

/-- R128: LOOP with a count opens an innermost level at the next header, with the low 32 bits of its operand as the count, and with count 0 goes on after
the end bundle; at the end of the innermost level the sequencer goes back while more than one pass is left. -/
def Sys2Proof.Claims.LoopLevels : Prop :=
  (∀ (s : State) (id : Nat) (k : Slot), Issuing s id k → Unbound s id → ∀ (a : SSrc) (imm : BitVec 32),
    let c := s.core id
    let n := (c.ss a).toNat % 2 ^ 32
    let stop := c.pc + imm.toNat
    exec (.loop a imm) s = .next (s.setCore id (if n = 0 then { c with skip := some (c.shapeAt stop).2 }
      else { c with loops := { start := (c.shapeAt c.pc).2, stop, left := n, body := some [] } :: c.loops }))) ∧
  (∀ (c : Core) (l : Loop) (rest : List Loop), c.transfers = [] → c.skip = none → c.loops = l :: rest → c.pc = l.stop → c.owed = 0 →
    (c.shapeAt c.pc).1 = 0 → 1 < l.left → c.advance.pc = l.start ∧ c.advance.loops.length = c.loops.length ∧ c.advance.loops.head?.map (·.left) = some (l.left - 1))

/-- R125, R128: where a taken transfer goes after its shadow, and what the loop levels do at the end of a body. -/
def Obligations.TransfersAndLoops : Prop := Claims.TransferRedirects ∧ Claims.LoopLevels

/-- R130, R131, R133 to R136, R137 to R140: HALT ends the program at once; FENCE orders later queued commands after those outstanding; FLAGREL enters the release
queue; WAITA corrects its word and leaves everything else, no bank port charged (log 37), NOP leaves everything; MOVS reads its register at latency 1 and MOVTS writes its own at c + 1; TRAP leaves cause 0x0C for the next boundary;
ERET asks for the return; TCREATE and TKILL act at c + 1. -/
def Sys2Proof.Claims.SystemOperations : Prop :=
  ∀ (s : State) (id : Nat) (k : Slot), Issuing s id k → Unbound s id → ∀ (a b e : SSrc) (d : SReg) (sc : Scope) (r : SpecialReg) (n : BitVec 7),
    let c := s.core id
    let core (c : Core) : State := s.setCore id c
    exec .halt s = .next (core { c with run := .halted, haltPc := c.pc, transfers := [], owed := 0, skip := none }) ∧
    exec .nop s = .next (core c) ∧ exec (.waita a b) s = .next (({ s with mem := s.mem.scrub (spadKey id (c.ss a).toNat) 16 } : State).setCore id c) ∧
    exec (.fence sc) s = .next (core { c with fences := c.outstandingCmds }) ∧
    exec (.flagrel a sc) s = .next (core { c with releases := c.releases ++ [c.releaseOf (c.ss a).toNat sc] }) ∧
    exec (.movs d r) s = .next (fly s id k (.s d) 1 (c.getSpecial r).toNat) ∧
    (r ≠ .xstat → exec (.movts r b) s = .next (core { c with acts := c.acts ++ [(c.ic + 1, c.ic, .special r (c.ss b))] })) ∧
    exec (.trap n) s = .next (core { c with causes := c.causes ++ [⟨0x0C, n.toNat, false⟩] }) ∧
    exec .eret s = .next (core { c with eretPending := true }) ∧
    exec (.tcreate a b e) s = .next (core { c with acts := c.acts ++ [(c.ic + 1, c.ic,
      .create (Fin.ofNat 64 (c.ss a).toNat) ((c.ss b).toNat % 2 ^ 48) ((c.ss e).toNat % 2 ^ 11) ((c.ss e).toNat / 2 ^ 16 % 2 ^ 8))] }) ∧
    exec (.tkill a) s = .next (core { c with acts := c.acts ++ [(c.ic + 1, c.ic, .kill (if (c.ss a).getLsbD 6 then none else some (Fin.ofNat 64 (c.ss a).toNat)))] })

/-- R136, Tables 2.2 and 2.7: what a write of a special register leaves. SCALEL, TTBASE and the five RES counters take the value; FPCTL takes its mode, a reserved
one as 000, its flush bit and its enables; a one written to PSTAT.WCONF clears it, and nothing else of PSTAT is written; FPSTAT is cleared where ones are written, but for flags
raised in the same cycle; XCAUSE, XVALUE and XPC are written in the handler only; the read-only registers stay. -/
def Sys2Proof.Claims.SpecialRegisterWrites : Prop :=
  ∀ (c : Core) (x : Word),
    ((c.setSpecial .scalel x).getSpecial .scalel).toNat = x.toNat % 2 ^ 16 ∧
    (∀ r : SpecialReg, r = .resAdv ∨ r = .resUsed ∨ r = .resDenyBank ∨ r = .resDenyNet ∨ r = .resDenyPwr →
      (c.setSpecial r x).getSpecial r = x ∧ ∀ q : SpecialReg, q ≠ r → (c.setSpecial r x).getSpecial q = c.getSpecial q) ∧
    (let f := ((c.setSpecial .fpctl x).getSpecial .fpctl).toNat
     f % 8 = (if x.toNat % 8 < 5 then x.toNat % 8 else 0) ∧ f / 8 % 2 = x.toNat / 8 % 2 ∧ f / 2 ^ 4 % 2 ^ 4 = 0 ∧ f / 2 ^ 8 = x.toNat / 2 ^ 8 % 2 ^ 8) ∧
    (let u := c.setSpecial .pstat x
     u = { c with sp := { c.sp with wconf := u.sp.wconf } } ∧ u.sp.wconf = (c.sp.wconf && !x.getLsbD 0) ∧
       (u.getSpecial .pstat).toNat / 2 = (c.getSpecial .pstat).toNat / 2) ∧
    (∀ k : TReg, ((c.setSpecial (.ttbase k) x).getSpecial (.ttbase k)).toNat = x.toNat % 2 ^ 32) ∧
    (c.raised = 0 → (c.setSpecial .fpstat x).sp.fpstat = c.sp.fpstat &&& ~~~(x.setWidth 8)) ∧
    (c.sp.handler = false → c.setSpecial .xcause x = c ∧ c.setSpecial .xvalue x = c ∧ c.setSpecial .xpc x = c) ∧
    (c.sp.handler = true → (c.setSpecial .xvalue x).getSpecial .xvalue = x ∧ ((c.setSpecial .xpc x).getSpecial .xpc).toNat = x.toNat % 2 ^ 17) ∧
    (∀ r : SpecialReg, r = .latprof ∨ r = .clk ∨ r = .rank ∨ r = .coord ∨ r = .svpad ∨ (∃ j, r = .slice j) → c.setSpecial r x = c)

/-- R130, R131, R133 to R140: the system operations, and what a write of a special register leaves. That WAITA charges no bank port is log 37. -/
def Obligations.SystemResults : Prop := Claims.SystemOperations ∧ Claims.SpecialRegisterWrites

/-! ### The S slot: token trees -/

/-- R191 to R194, R198: TTCLR empties a tree and TTNODE makes one node valid at c + 1; TTLDP loads its range in the cycle after its last line is read;
TTMASK to a mask register gives 128 bits of the ancestor set and TTINFO its word, at latency 2. The tree unit is busy for a cycle and one more for each line. -/
def Sys2Proof.Claims.TreeResults : Prop :=
  ∀ (s : State) (id : Nat) (k : Slot), Issuing s id k → Unbound s id → ∀ (t : TReg) (b c : SSrc) (x : SX) (d : SReg) (m : MReg) (hi : Bool),
    let co := s.core id
    let q := (co.ss c).toNat % 2 ^ 8
    let p := (co.ss b).toNat
    let busy (n : Nat) (c : Core) : Core := { c with treeFree := co.ic + n + 1 }
    let act (n : Nat) (a : Act) (c : Core) : Core := { c with acts := c.acts ++ [(co.ic + n, co.ic, a)] }
    let r := sxVal co x
    let lines := lineStarts p (8 * rangeCount r)
    exec (.ttclr t) s = .next (s.setCore id (busy 0 (act 1 (.tree t Tree.empty) co))) ∧
    exec (.ttnode t b c) s = .next (s.setCore id (busy 0 (act 1 (.tree t ((co.tt[t]).put (p % 2 ^ 8) ⟨p / 2 ^ 8 % 2 ^ 8, (co.ss c).toNat % 2 ^ 32⟩)) co))) ∧
    ((∀ l ∈ lines, Readable s id l 64) → ∃ u, exec (.ttldp t b x) s = .next u ∧ (u.core id).treeFree = co.ic + lines.length + 1 ∧
      (u.core id).acts = co.acts ++ [(co.ic + lines.length + 1, co.ic,
        .tree t ((co.tt[t]).load (rangeFirst r) ((List.range (rangeCount r)).map fun i => s.mem.read (spadKey id (p + 8 * i)) 8)))]) ∧
    exec (.ttmask t c (.toMask m hi)) s = .next (s.setCore id (busy 0 { co with flights := co.flights ++
      [inFlight co k (.m m) 2 ((co.tt[t]).anc q / 2 ^ (128 * hi.toNat) % 2 ^ 128) 0 (2 ^ 128 - 1)] })) ∧
    exec (.ttinfo d t c) s = .next (s.setCore id (busy 0 { co with flights := co.flights ++
      [inFlight co k (.s d) 2 ((co.tt[t]).info (co.sp.ttbase[t]).toNat (co.ss c).toNat % 2 ^ 64)] }))

/-- R194 to R197: TTMASK to memory, TTPOS, TTPATH and TTPRUNE write their rows from the destination address up, a line a cycle from c + 1: the ancestor sets
(32 bytes a node), the positions (4 bytes a node), the path from the root (8 bytes a node), the list of moves; TTPRUNE then holds the path alone. -/
def Sys2Proof.Claims.TreeMemoryOutput : Prop :=
  ∀ (s : State) (id : Nat) (k : Slot), Issuing s id k → Unbound s id → ∀ (t : TReg) (b c : SSrc) (half : Bool),
    let co := s.core id
    let tr := co.tt[t]
    let base := (co.sp.ttbase[t]).toNat
    let r := co.ss c
    let q := (co.ss c).toNat % 2 ^ 8
    let path := tr.path q
    let out (i : Instr) (bs : List Byte) : Prop := ∃ u, exec i s = .next u ∧ newPuts co (u.core id) = putBytes (spadKey id (co.ss b).toNat) bs ∧
      (∀ z, u.mem.byte z = s.mem.byte z) ∧ (u.core id).flights = co.flights
    out (.ttmask t c (.toMem b false half)) ((List.range (rangeCount r)).flatMap fun i => bytesOf 32 (tr.anc (rangeFirst r + i))) ∧
    out (.ttmask t c (.toMem b true half)) ((List.range (rangeCount r)).flatMap fun i => (List.range 128).flatMap fun j =>
      if tr.anc (rangeFirst r + i) / 2 ^ (128 * half.toNat + j) % 2 = 1 then [0x00, 0x00] else [0x80, 0xFF]) ∧
    out (.ttpos t b c) ((List.range (rangeCount r)).flatMap fun i => bytesOf 4 (tr.pos base (rangeFirst r + i))) ∧
    out (.ttpath t b c) (path.flatMap fun j => bytesOf 8 (j + 2 ^ 8 + 2 ^ 32 * tr.token j)) ∧
    out (.ttprune t b c) (moveList ((base + 2 ^ 32 - tr.cl) % 2 ^ 32) path) ∧
    (∃ u, exec (.ttprune t b c) s = .next u ∧ (u.core id).acts = co.acts ++ [(co.ic + 1, co.ic, .tree t (tr.pruned path)),
      (co.ic + 1, co.ic, .ttbase t (BitVec.ofNat 32 ((base + 2 ^ 32 - tr.cl) % 2 ^ 32 + path.length)))])

/-- R189: the ancestor set of a valid node holds exactly the nodes of its path. -/
def Sys2Proof.Claims.AncestorSets : Prop := ∀ (t : Tree) (q j : Nat), (t.anc q).testBit j = decide (j ∈ t.path q)

/-- R189, R191 to R198: what the tree operations answer, what they write to memory, and the ancestor set they rest on. -/
def Obligations.TreeResults : Prop := Claims.TreeResults ∧ Claims.TreeMemoryOutput ∧ Claims.AncestorSets

/-! ### The V slots -/

/-- R141 to R143, R145: the integer operations act element by element at latency 2: an active element wraps, or saturates where SAT is 1, an inactive one
is zero under ZM and kept otherwise, and nothing but the one result changes. -/
def Sys2Proof.Claims.VectorIntegerElements : Prop :=
  ∀ (s : State) (id : Nat) (k : Slot), Issuing s id k → Unbound s id → ∀ (t : ITy) (d : VReg) (b c : VSrc) (xv : Option IntX) (dm : DMask),
    let co := s.core id
    let w := ityW t
    let el (x : VSrc) (i : Nat) : Int := elemInt t (co.vv x) i
    let gives (i : Instr) (k' : DMask) (f : Int → Int → Int) (sat : Bool) : Prop := ∃ val mask fl,
      exec i s = .next (s.setCore id { co with flights := co.flights ++ [inFlight co k (.v d) 2 val fl mask] }) ∧
      ∀ j, j < 2048 / w → if co.active (dmReg k') w j = true then
          mask / 2 ^ (w * j) % 2 ^ w = 2 ^ w - 1 ∧ val / 2 ^ (w * j) % 2 ^ w = wrapNat w
            (if sat then max (intMin (itySigned t) w) (min (intMax (itySigned t) w) (f (el b j) (el c j))) else f (el b j) (el c j))
        else if dmZero k' = true then mask / 2 ^ (w * j) % 2 ^ w = 2 ^ w - 1 ∧ val / 2 ^ (w * j) % 2 ^ w = 0
        else mask / 2 ^ (w * j) % 2 ^ w = 0
    gives (.vadd t d b c xv) (ixMask xv) (fun x y => x + y) (ixSat xv) ∧ gives (.vsub t d b c xv) (ixMask xv) (fun x y => x - y) (ixSat xv) ∧
    gives (.vmul t d b c xv) (ixMask xv) (fun x y => x * y) (ixSat xv) ∧ gives (.vmulh t d b c dm) dm (fun x y => x * y / 2 ^ w) false ∧
    gives (.vmin t d b c dm) dm min false ∧ gives (.vmax t d b c dm) dm max false

/-- R145: the logic operations, the shifts (counts modulo the element width) and the absolute value, element by element at latency 2. -/
def Sys2Proof.Claims.VectorBitElements : Prop :=
  ∀ (s : State) (id : Nat) (k : Slot), Issuing s id k → Unbound s id → ∀ (t : ElemW) (d : VReg) (b c : VSrc) (xv : Option IntX) (dm : DMask) (n : BitVec 16),
    let co := s.core id
    let w := elemBits t
    let el (x : VSrc) (i : Nat) : Nat := elemAt w (co.vv x) i
    let gives (i : Instr) (k' : DMask) (f : Nat → Nat) : Prop := ∃ val mask fl,
      exec i s = .next (s.setCore id { co with flights := co.flights ++ [inFlight co k (.v d) 2 val fl mask] }) ∧
      ∀ j, j < 2048 / w → if co.active (dmReg k') w j = true then mask / 2 ^ (w * j) % 2 ^ w = 2 ^ w - 1 ∧ val / 2 ^ (w * j) % 2 ^ w = f j
        else mask / 2 ^ (w * j) % 2 ^ w = (if dmZero k' then 2 ^ w - 1 else 0) ∧ val / 2 ^ (w * j) % 2 ^ w = 0
    let sar (x n : Nat) : Nat := wrapNat w (sextNat w x / 2 ^ n)
    let abs (x : Int) : Int := if x < 0 then -x else x
    gives (.vand t d b c dm) dm (fun j => el b j &&& el c j) ∧ gives (.vor t d b c dm) dm (fun j => el b j ||| el c j) ∧
    gives (.vxor t d b c dm) dm (fun j => el b j ^^^ el c j) ∧
    gives (.vshl t d b (.reg c)) none (fun j => el b j * 2 ^ (el c j % w) % 2 ^ w) ∧ gives (.vshr t d b (.reg c)) none (fun j => el b j / 2 ^ (el c j % w)) ∧
    gives (.vsar t d b (.reg c)) none (fun j => sar (el b j) (el c j % w)) ∧
    gives (.vshl t d b (.imm n dm)) dm (fun j => el b j * 2 ^ (n.toNat % w) % 2 ^ w) ∧ gives (.vshr t d b (.imm n dm)) dm (fun j => el b j / 2 ^ (n.toNat % w)) ∧
    gives (.vsar t d b (.imm n dm)) dm (fun j => sar (el b j) (n.toNat % w)) ∧
    gives (.vabs t d b xv) (ixMask xv) (fun j => wrapNat w (let a := abs (sextNat w (el b j)); if ixSat xv then min a (2 ^ (w - 1) - 1) else a))

/-- R141 to R145: the integer and bitwise vector operations, element by element. -/
def Obligations.VectorIntegerResults : Prop := Claims.VectorIntegerElements ∧ Claims.VectorBitElements

/-- R148, R149, R31: the floating-point operations act element by element, at latency 4 and the unary ones at latency 6, each active element rounded in the
instruction's mode; in mode SR a 32-bit element takes the next draw of its own lane's generator. -/
def Sys2Proof.Claims.VectorFloatElements : Prop :=
  ∀ (s : State) (id : Nat) (k : Slot), Issuing s id k → Unbound s id → ∀ (t : FTy) (d : VReg) (b c : VSrc) (xv : Option FltX) (dm : DMask),
    let co := s.core id
    let w := ftyW t
    let f := ftyFmt t
    let el (x : VSrc) (i : Nat) : Nat := elemAt w (co.vv x) i
    let gives (i : Instr) (lat : Nat) (k' : DMask) (r : Rnd) (g : Mode → Nat → Nat × Flags) : Prop := ∃ val mask fl gens, ∃ md : Nat → Mode,
      exec i s = .next (s.setCore id { co with flights := co.flights ++ [inFlight co k (.v d) lat val fl mask], gens }) ∧
      (r ≠ .sr → gens = co.gens ∧ ∀ j, md j = (modeAt r co.gens 0).1) ∧
      (r = .sr → w = 32 → ∀ j, j < 64 → md j = .sr (draw co.gens (genBase k + j)).1) ∧
      ∀ j, j < 2048 / w → if co.active (dmReg k') w j = true then mask / 2 ^ (w * j) % 2 ^ w = 2 ^ w - 1 ∧ val / 2 ^ (w * j) % 2 ^ w = (g (md j) j).1 % 2 ^ w
        else mask / 2 ^ (w * j) % 2 ^ w = (if dmZero k' then 2 ^ w - 1 else 0) ∧ val / 2 ^ (w * j) % 2 ^ w = 0
    let r := co.fxRnd xv
    gives (.vfadd t d b c xv) 4 (fxMask xv) r (fun md j => f.fadd co.ftz md (el b j) (el c j)) ∧
    gives (.vfsub t d b c xv) 4 (fxMask xv) r (fun md j => f.fsub co.ftz md (el b j) (el c j)) ∧
    gives (.vfmul t d b c xv) 4 (fxMask xv) r (fun md j => f.fmul co.ftz md (el b j) (el c j)) ∧
    gives (.vffma t d b c xv) 4 (fxMask xv) r (fun md j => f.ffma co.ftz md (el b j) (el c j) (el (.v d) j)) ∧
    gives (.vfmin t d b c dm) 4 dm .rne (fun _ j => f.minmax co.ftz false (el b j) (el c j)) ∧
    gives (.vfmax t d b c dm) 4 dm .rne (fun _ j => f.minmax co.ftz true (el b j) (el c j)) ∧
    gives (.vfrcp t d b xv) 6 (fxMask xv) r (fun md j => f.unary co.ftz md .rcp (el b j)) ∧
    gives (.vfrsq t d b xv) 6 (fxMask xv) r (fun md j => f.unary co.ftz md .rsq (el b j)) ∧
    gives (.vfexp2 t d b xv) 6 (fxMask xv) r (fun md j => f.unary co.ftz md .exp2 (el b j)) ∧
    gives (.vflog2 t d b xv) 6 (fxMask xv) r (fun md j => f.unary co.ftz md .log2 (el b j))

/-- R146, R149: a compare writes the mask bits of its active elements at latency 2 (4 for floating point): two bits for a 32-bit element, one for a 16-bit
one, and for 8-bit elements the conjunction of two; bits of inactive elements are zero under ZM and kept otherwise. -/
def Sys2Proof.Claims.VectorCompareMasks : Prop :=
  ∀ (s : State) (id : Nat) (k : Slot), Issuing s id k → Unbound s id → ∀ (t : ElemW) (ft : FTy) (d : MReg) (b c : VSrc) (xv : CmpX) (fx : FCmpX),
    let co := s.core id
    let first (w j : Nat) : Nat := if w = 32 then j / 2 else if w = 16 then j else 2 * j
    let gives (i : Instr) (lat w : Nat) (k' : DMask) (f : Nat → Bool) : Prop := ∃ val mask fl,
      exec i s = .next (s.setCore id { co with flights := co.flights ++ [inFlight co k (.m d) lat val fl mask] }) ∧
      ∀ j, j < 128 → if co.active (dmReg k') w (first w j) = true then
          mask.testBit j = true ∧ val.testBit j = (f (first w j) && (w != 8 || f (2 * j + 1)))
        else mask.testBit j = dmZero k' ∧ val.testBit j = false
    let w := elemBits t
    let p (x : VSrc) (i : Nat) : Nat := elemAt w (co.vv x) i
    gives (.vcmp t d b c xv) 2 w xv.msk (fun i => condHolds xv.cc (sextNat w (p b i)) (sextNat w (p c i)) (p b i) (p c i)) ∧
    gives (.vfcmp ft d b c fx) 4 (ftyW ft) fx.msk
      (fun i => ((ftyFmt ft).fcmp co.ftz fx.cc (elemAt (ftyW ft) (co.vv b) i) (elemAt (ftyW ft) (co.vv c) i)).1)

/-- R31, R146, R148, R149: the floating-point vector operations, and the compares into mask registers. -/
def Obligations.VectorFloatResults : Prop := Claims.VectorFloatElements ∧ Claims.VectorCompareMasks

/-- R147, R161, R162: VSEL, VBCAST, VPERM, VSHUF and VSLIDE move whole elements at latency 2: each element of the result is the element the rule names. -/
def Sys2Proof.Claims.VectorMoves : Prop :=
  ∀ (s : State) (id : Nat) (k : Slot), Issuing s id k → Unbound s id → ∀ (t : ElemW) (d : VReg) (b c : VSrc) (a : VSSrc) (m : MReg) (dm : DMask)
      (sh : Option ShufX) (n : BitVec 16) (rot : Bool),
    let co := s.core id
    let w := elemBits t
    let len := 2048 / w
    let el (x : VSrc) (i : Nat) : Nat := elemAt w (co.vv x) i
    let gives (i : Instr) (k' : DMask) (f : Nat → Nat) : Prop := ∃ val mask,
      exec i s = .next (s.setCore id { co with flights := co.flights ++ [inFlight co k (.v d) 2 val 0 mask] }) ∧
      ∀ j, j < len → if co.active (dmReg k') w j = true then mask / 2 ^ (w * j) % 2 ^ w = 2 ^ w - 1 ∧ val / 2 ^ (w * j) % 2 ^ w = f j
        else mask / 2 ^ (w * j) % 2 ^ w = (if dmZero k' then 2 ^ w - 1 else 0) ∧ val / 2 ^ (w * j) % 2 ^ w = 0
    let sel := (sh.map (·.sel)).getD .ziplo
    let slid (rot : Bool) (k : Int) (j : Nat) : Nat :=
      if rot then el b (((j : Int) + k) % len).toNat else if 0 ≤ (j : Int) + k ∧ (j : Int) + k < len then el b ((j : Int) + k).toNat else 0
    gives (.vsel t d b c m) none (fun j => if co.active (some m) w j = true then el b j else el c j) ∧
    gives (.vbcast t d a dm) dm (fun _ => (co.ss (vsToS a)).toNat % 2 ^ w) ∧
    gives (.vperm t d b c dm) dm (fun j => el b (el c j % len)) ∧
    gives (.vshuf t d b c sh) (sh.bind (·.msk)) (fun j => match sel with
      | .ziplo => el (if j % 2 = 1 then c else b) (j / 2)
      | .ziphi => el (if j % 2 = 1 then c else b) (len / 2 + j / 2)
      | .even => if j < len / 2 then el b (2 * j) else el c (2 * j - len)
      | .odd => if j < len / 2 then el b (2 * j + 1) else el c (2 * j + 1 - len)) ∧
    gives (.vslide t d b (.reg a)) none (slid false (co.ss (vsToS a)).toInt) ∧ gives (.vslide t d b (.imm n dm rot)) dm (slid rot n.toInt)

/-- R161, R168: VEXT and VINS move one element, VPOPM counts mask bits, VBTEST and VBSET test and set bits of a 2,048-bit map by 16-bit indexes less a base;
all at latency 2. Mask bits of elements that VBTEST's mask leaves out are zero under ZM and kept otherwise. -/
def Sys2Proof.Claims.VectorSingleElements : Prop :=
  ∀ (s : State) (id : Nat) (k : Slot), Issuing s id k → Unbound s id → ∀ (t : ElemW) (d : VReg) (sd : SReg) (b c : VSrc) (a : VSSrc) (m : MReg) (n : BitVec 7) (x : IdxX)
      (bx : Option BitX),
    let co := s.core id
    let w := elemBits t
    let idx := (match x with | .reg r => (co.ss (vsToS r)).toNat | .imm i => i.toNat) % (2048 / w)
    let base := bitBase bx
    let key (j : Nat) : Nat := elemAt 16 (co.vv c) j
    let live (j : Nat) : Bool := co.active (dmReg (bx.bind (·.msk))) 16 j
    exec (.vext t sd b x) s = .next (fly s id k (.s sd) 2 (elemAt w (co.vv b) idx)) ∧
    exec (.vins t d a x) s = .next (s.setCore id { co with flights := co.flights ++
      [inFlight co k (.v d) 2 ((co.ss (vsToS a)).toNat % 2 ^ w * 2 ^ (w * idx)) 0 ((2 ^ w - 1) * 2 ^ (w * idx))] }) ∧
    exec (.vpopm sd m) s = .next (fly s id k (.s sd) 2 ((List.range 128).filter fun i => (co.m[m]).getLsbD i).length) ∧
    (∃ val mask, exec (.vbtest m b c bx) s = .next (s.setCore id { co with flights := co.flights ++ [inFlight co k (.m m) 2 val 0 mask] }) ∧
      ∀ j, j < 128 → if live j = true then mask.testBit j = true ∧
          val.testBit j = (decide (base ≤ key j) && decide (key j - base < 2048) && (co.vv b).getLsbD (key j - base))
        else mask.testBit j = dmZero (bx.bind (·.msk)) ∧ val.testBit j = false) ∧
    (∃ val, exec (.vbset d b c bx) s = .next (fly s id k (.v d) 2 val) ∧
      ∀ i, i < 2048 → val.testBit i = ((co.vv b).getLsbD i || (List.range 128).any fun j => live j && key j == base + i))

/-- R147, R161, R162, R168: moves between and within vector registers. -/
def Obligations.VectorMoves : Prop := Claims.VectorMoves ∧ Claims.VectorSingleElements

/-- R48: node `p` of level `n` of the pairwise tree: the combination of its two subtrees, the one that has an element where only one has, none where neither has. -/
def Sys2Proof.Claims.pairTree (comb : Nat → Nat → Nat) (el : Nat → Option Nat) : Nat → Nat → Option Nat
  | 0, p => el p
  | n + 1, p =>
    match pairTree comb el n (2 * p), pairTree comb el n (2 * p + 1) with
    | some x, some y => some (comb x y)
    | some x, none => some x
    | none, y => y
/-- R49: the running value over the elements included so far, the first entering as it is, and the identity before it. -/
def Sys2Proof.Claims.running {α : Type} (comb : α → α → α) (ident : α) : List α → α
  | [] => ident
  | a :: rest => rest.foldl comb a
/-- The integer of a type that a pattern stands for. -/
def Sys2Proof.Claims.ofPattern (t : ITy) (p : Nat) : Int := if itySigned t then sextNat (ityW t) p else (p : Int)

/-- R163 to R165: VCMPX (latency 2) puts the element with the lesser key of each pair into the place its block's direction says, equal keys staying where they are
(log 28); VTOPK (8) gives the position of the active element of each rank below its count, lower positions first on a tie, and 0xFFFF elsewhere. Both raise NV for a
signalling NaN among the elements they rank, and change nothing else. -/
def Sys2Proof.Claims.VectorRanking : Prop :=
  ∀ (s : State) (id : Nat) (k : Slot), Issuing s id k → Unbound s id → ∀ (t : ATy) (d : VReg) (b : VSrc) (cx : CmpxX) (tx : TopkX),
    let co := s.core id
    let w := atyW t
    let n := 2048 / w
    let el (i : Nat) : Nat := elemAt w (co.vv b) i
    let key (i : Nat) : Int := (atyKey t (el i)).1
    let snan (i : Nat) : Bool := (atyKey t (el i)).2
    let out (v i : Nat) : Nat := v / 2 ^ (w * i) % 2 ^ w
    let live (i : Nat) : Bool := co.active tx.msk w i
    let before (m i : Nat) : Bool := decide (if tx.low then key m < key i else key i < key m) || (key m == key i && decide (m < i))
    let rank (i : Nat) : Nat := ((List.range n).filter fun m => live m && before m i).length
    (∃ v, exec (.vcmpx t d b cx) s = .next (fly s id k (.v d) 2 v (if (List.range n).any snan then fNV else 0)) ∧
      (2 ^ cx.j.val < n → 2 * 2 ^ cx.j.val ≤ 2 ^ cx.k.val → 2 ^ cx.k.val ≤ n → ∀ i, i < n → i / 2 ^ cx.j.val % 2 = 0 →
        let j := i + 2 ^ cx.j.val
        let asc : Bool := (i / 2 ^ cx.k.val % 2 == 0) != cx.desc
        let swap : Bool := if asc then decide (key j < key i) else decide (key i < key j)
        out v i = (if swap then el j else el i) ∧ out v j = (if swap then el i else el j))) ∧
    ∃ v, exec (.vtopk t d b tx) s = .next (fly s id k (.v d) 8 v (if (List.range n).any (fun i => live i && snan i) then fNV else 0)) ∧
      (1 ≤ tx.k.toNat → tx.k.toNat ≤ min n 128 → ∀ r, r < 128 → v / 2 ^ (16 * r) % 2 ^ 16 =
        if r < tx.k.toNat then ((List.range n).find? fun i => live i && rank i == r).getD 0xFFFF else 0xFFFF)

/-- R166, R167, R48, R49: VRED answers at latency 5 and VSCAN at 6, and nothing else changes but, in mode SR, the generators. An integer VRED is the exact sum, or the
combination of the active elements of its type; a floating one is the pairwise tree. Element `i` of a VSCAN is the running value over the active elements up to `i`, an
integer sum wrapping or saturating at each step. The values of floating results in mode SR are not stated here. -/
def Sys2Proof.Claims.ReductionsAndScans : Prop :=
  ∀ (s : State) (id : Nat) (k : Slot), Issuing s id k → Unbound s id → ∀ (t : ATy) (d : VReg) (sd : SReg) (b : VSrc) (rx : RedX) (sx : ScanX),
    let co := s.core id
    let w := atyW t
    let n := 2048 / w
    let el (i : Nat) : Nat := elemAt w (co.vv b) i
    let live (q : SMask) (m : Nat) : List Nat := (List.range m).filter fun i => co.active q w i
    let gives (i : Instr) (dst : Dest) (lat : Nat) (r : Rnd) (ok : Nat → Prop) : Prop := ∃ val fl gens,
      exec i s = .next (s.setCore id { co with flights := co.flights ++ [inFlight co k dst lat val fl], gens }) ∧ (r ≠ .sr → gens = co.gens) ∧ ok val
    let least (it : ITy) := intMin (itySigned it) w
    let most (it : ITy) := intMax (itySigned it) w
    let ident (it : ITy) : RedOp → Int | .max => least it | .min => most it | .and => ofPattern it (2 ^ w - 1) | _ => 0
    let pats (it : ITy) (f : Nat → Nat → Nat) (x y : Int) : Int := ofPattern it (f (wrapNat w x) (wrapNat w y))
    let join (it : ITy) (add : Int → Int → Int) : RedOp → Int → Int → Int
      | .add => add | .max => max | .min => min | .and => pats it (· &&& ·) | .or => pats it (· ||| ·) | .xor => pats it (· ^^^ ·)
    let added (it : ITy) (sat : Bool) (x y : Int) : Int := if sat then max (least it) (min (most it) (x + y)) else ofPattern it (wrapNat w (x + y))
    let flt (f : FFmt) (op : RedOp) (r : Rnd) (x y : Nat) : Nat :=
      (match op with | .max => f.minmax co.ftz true x y | .min => f.minmax co.ftz false x y | _ => f.fadd co.ftz (modeAt r co.gens 0).1 x y).1
    let fident (f : FFmt) : RedOp → Nat | .max => f.signed true f.infPat | .min => f.infPat | _ => 0
    let isFlt (op : RedOp) : Prop := op = .add ∨ op = .max ∨ op = .min
    gives (.vred t sd b rx) (.s sd) 5 (co.rnd rx.rnd) (fun v =>
      (∀ it, atyKind t = .inl it → v = (BitVec.ofInt 64 (running (join it (· + ·) rx.op) (ident it rx.op) ((live rx.msk n).map fun i => ofPattern it (el i)))).toNat) ∧
      ∀ f, atyKind t = .inr f → isFlt rx.op → co.rnd rx.rnd ≠ .sr → v = ((pairTree (flt f rx.op (co.rnd rx.rnd))
        (fun i => if co.active rx.msk w i then some (el i) else none) (Nat.log2 n) 0).getD (fident f rx.op)) % 2 ^ 64) ∧
    gives (.vscan t d b sx) (.v d) 6 (co.rnd sx.rnd) (fun v => ∀ i, i < n →
      (∀ it, atyKind t = .inl it → v / 2 ^ (w * i) % 2 ^ w =
        wrapNat w (running (join it (added it sx.sat) sx.op) (ident it sx.op) ((live sx.msk (i + 1)).map fun j => ofPattern it (el j)))) ∧
      ∀ f, atyKind t = .inr f → isFlt sx.op → co.rnd sx.rnd ≠ .sr → v / 2 ^ (w * i) % 2 ^ w =
        running (flt f sx.op (co.rnd sx.rnd)) (fident f sx.op) ((live sx.msk (i + 1)).map el) % 2 ^ w)

/-- R163 to R167, R48, R49: sorting, ranking, reductions and scans. -/
def Obligations.VectorReductions : Prop := Claims.VectorRanking ∧ Claims.ReductionsAndScans

/-- R150 to R156, R44, R45: the conversions and block operations answer at latency 3: VCVT element by element from the selected part; VDEQ each element of its
block; VXPAND the expanded elements with their scales, and zero after the last block; VQUANT whole blocks of the elements quantised under the scale SCALEL holds, those that
are not active as pattern 0, with the scale field (0xFF00 of a poisoned scale, 0 of a zero one), and zero after the last block; VMXEXP the scale of the active elements into
SCALEL and no latch: 0xFF00 with NV where one is not finite, 0 where none differs from zero, else the exponent of the greatest, raised by 1 under HEAD and kept within 1 to 254;
VPBOOK replaces the pattern book at c + 1. In mode SR a 32-bit element takes the next draw of its own lane's generator (R31, R143). -/
def Obligations.VectorConversions : Prop :=
  ∀ (s : State) (id : Nat) (k : Slot), Issuing s id k → Unbound s id → ∀ (d : VReg) (b : VSrc) (cv : VCvtX) (mx : MxExpX) (qx : QuantX) (dx : DeqX) (px : XpandX),
    let co := s.core id
    let x := co.vv b
    let gives (i : Instr) (r : Rnd) (w : Nat) (ok : (Nat → Mode) → Nat → Nat → Prop) : Prop := ∃ val mask fl gens, ∃ md : Nat → Mode,
      exec i s = .next (s.setCore id { co with flights := co.flights ++ [inFlight co k (.v d) 3 val fl mask], gens }) ∧
      (r ≠ .sr → gens = co.gens ∧ ∀ j, md j = (modeAt r co.gens 0).1) ∧
      (r = .sr → w = 32 → ∀ j, j < 64 → md j = .sr (draw co.gens (genBase k + j)).1) ∧ ok md val mask
    let wt := numW cv.dst
    let m := 2048 / max (numW cv.src) wt
    let wd := ftyW dx.t
    gives (.vcvt d b cv) (co.rnd cv.rnd) wt (fun md val mask => ∀ j, j < m →
      let e := (if wt < numW cv.src then cv.part.val * m else 0) + j
      if co.active (dmReg cv.msk) wt e = true then mask / 2 ^ (wt * e) % 2 ^ wt = 2 ^ wt - 1 ∧ val / 2 ^ (wt * e) % 2 ^ wt =
        (convert cv.src cv.dst co.ftz cv.sat (md e) (elemAt (numW cv.src) x ((if numW cv.src < wt then cv.part.val * m else 0) + j))).1 % 2 ^ wt
      else mask / 2 ^ (wt * e) % 2 ^ wt = (if dmZero cv.msk then 2 ^ wt - 1 else 0)) ∧
    gives (.vdeq d b dx) (co.rnd dx.rnd) wd (fun md val _ => ∀ j, j < 2048 / wd → co.active (dmReg dx.msk) wd j = true →
      val / 2 ^ (wd * j) % 2 ^ wd = (deqElem co.book (ftyFmt dx.t) co.ftz (md j) dx.f (blockScale dx.f x (j / 32)) (blockElem dx.f x (j / 32) (j % 32))).1 % 2 ^ wd) ∧
    let wq := ftyW qx.t
    let bq := mxBits qx.f
    let sq := co.sp.scalel.toNat
    gives (.vquant d b qx) (co.rnd qx.rnd) wq (fun md val mask => mask = 2 ^ 2048 - 1 ∧ val < 2 ^ ((32 * bq + 16) * (2048 / wq / 32)) ∧
      ∀ j, j < 2048 / wq / 32 → val / 2 ^ ((32 * bq + 16) * j + 32 * bq) % 2 ^ 16 = (if sq / 256 = 255 then 0xFF00 else if sq / 256 = 0 then 0 else sq) ∧
        ∀ i, i < 32 → val / 2 ^ ((32 * bq + 16) * j + bq * i) % 2 ^ bq = if co.active qx.msk wq (32 * j + i) = true then
          (quantElem co.book ((ftyFmt qx.t).readZ co.ftz (elemAt wq x (32 * j + i))) sq qx.f (md (32 * j + i))).1 % 2 ^ bq else 0) ∧
    gives (.vxpand d b px) .rne 0 (fun _ val mask => mask = 2 ^ 2048 - 1 ∧ val < 2 ^ (272 * (px.cm1.val + 1)) ∧ ∀ j i, j ≤ px.cm1.val → i < 32 →
      val / 2 ^ (272 * j + 8 * i) % 2 ^ 8 = expandElem co.book px.f (blockElem px.f x j i) ∧ val / 2 ^ (272 * j + 256) % 2 ^ 16 = blockScale px.f x j) ∧
    (let fm := ftyFmt mx.t
     let xs := ((List.range (2048 / fm.width)).filter fun i => co.active mx.msk fm.width i).map fun i => fm.readZ co.ftz (elemAt fm.width x i)
     let finite : Prop := ∀ v ∈ xs, ∃ y, v = FVal.fin y
     ∃ val fl, exec (.vmxexp b mx) s = .next (s.setCore id { co with flights := co.flights ++ [inFlight co k .scalel 3 val fl 0xFFFF false] }) ∧
       (¬ finite → val = 0xFF00 ∧ fl = fNV) ∧ (finite → fl = 0) ∧ (finite → (∀ y, FVal.fin y ∈ xs → y.isZero = true) → val = 0) ∧
       ∀ y, finite → FVal.fin y ∈ xs → y.isZero = false → (∀ z, FVal.fin z ∈ xs → z.isZero = false → z.log2 ≤ y.log2) →
         (val : Int) = 256 * max 1 (min 254 (y.log2 + 127 + (if mx.head then 1 else 0)))) ∧
    exec (.vpbook b) s = .next (s.setCore id { co with acts := co.acts ++ [(co.ic + 1, co.ic, .book (bytesOf 16 x.toNat) k co.ic)] })

/-- R158: VLD brings 256, 16 or 64 bytes into a v, m or w register at the load latency, elements that its mask leaves out zero under ZM and kept otherwise,
and changes no byte of memory; VST puts down exactly the bytes of its active elements for the next cycle and writes no register. -/
def Sys2Proof.Claims.VectorLoadsAndStores : Prop :=
  ∀ (s : State) (id : Nat) (k : Slot), Issuing s id k → Unbound s id → ∀ (b : VSSrc) (x : OffX) (r : VReg) (m : MReg) (w : WReg) (dm : DMask) (sm : SMask) (t : ElemW) (a : VSrc),
    let co := s.core id
    let ea := (co.ss (vsToS b) + (match x with | .reg o => co.ss (vsToS o) | .imm i => i.signExtend 64)).toNat
    let key := spadKey id ea
    let lat := if co.sp.compat then 4 else 6
    let loads (i : Instr) (d : Dest) (n val mask : Nat) : Prop := Readable s id ea n → ∃ u, exec i s = .next u ∧ (∀ z, u.mem.byte z = s.mem.byte z) ∧
      (u.core id).flights = co.flights ++ [inFlight co k d lat val 0 mask]
    let stores (i : Instr) (p : List PutByte) : Prop := ∃ u, exec i s = .next u ∧ newPuts co (u.core id) = p ∧
      (∀ w ∈ (u.core id).writes.drop co.writes.length, w.1 = co.ic + 1) ∧ (∀ z, u.mem.byte z = s.mem.byte z) ∧ (u.core id).flights = co.flights
    let act (q : Option MReg) : Nat := co.activeBits q (elemBits t)
    let kept (q : Option MReg) (i : Nat) : Nat := act q / 2 ^ (8 * i) % 2 ^ 8
    loads (.vld (.v r dm t) b x) (.v r) 256 (s.mem.read key 256 &&& act (dmReg dm)) (if dmZero dm then 2 ^ 2048 - 1 else act (dmReg dm)) ∧
    loads (.vld (.m m) b x) (.m m) 16 (s.mem.read key 16) (2 ^ 128 - 1) ∧ loads (.vld (.w w) b x) (.w w) 64 (s.mem.read key 64) (2 ^ 512 - 1) ∧
    stores (.vst (.v a sm t) b x) ((List.range 256).filterMap fun i =>
      if kept sm i = 0 then none else some (key + i, BitVec.ofNat 8 ((co.vv a).toNat / 2 ^ (8 * i)), BitVec.ofNat 8 (kept sm i))) ∧
    stores (.vst (.m m) b x) (putBytes key (bytesOf 16 (co.m[m]).toNat)) ∧ stores (.vst (.w w) b x) (putBytes key (bytesOf 64 (co.w[w]).toNat))

/-- R159, R160: a gather reads each active element at base + index times the element size and brings it at the gather latency (8, or 6 under L4); a scatter
puts each active element there, four cycles of bank writes ahead and visible after the third; the nibble form counts nibbles. -/
def Sys2Proof.Claims.GatherAndScatter : Prop :=
  ∀ (s : State) (id : Nat) (k : Slot), Issuing s id k → Unbound s id → ∀ (t : ElemW) (d : VReg) (b : VSSrc) (a c : VSrc) (dm : DMask) (sm : SMask),
    let co := s.core id
    let w := elemBits t
    let iw := if w = 32 then 32 else 16
    let base := co.ss (vsToS b)
    let ea (j : Nat) : Nat := (base.toNat + elemAt iw (co.vv c) j * (w / 8)) % 2 ^ 64
    let na (j : Nat) : Nat := (2 * base.toNat + elemAt 16 (co.vv c) j) % 2 ^ 65
    ((∀ j, j < 2048 / iw → co.active (dmReg dm) w j = true → Readable s id (ea j) (w / 8)) →
      ∃ u val mask, exec (.vldx t d b c dm) s = .next u ∧ (∀ z, u.mem.byte z = s.mem.byte z) ∧
        (u.core id).flights = co.flights ++ [inFlight co k (.v d) (if co.sp.compat then 6 else 8) val 0 mask] ∧
        ∀ j, j < 2048 / iw → if co.active (dmReg dm) w j = true then
            mask / 2 ^ (w * j) % 2 ^ w = 2 ^ w - 1 ∧ val / 2 ^ (w * j) % 2 ^ w = s.mem.read (spadKey id (ea j)) (w / 8)
          else mask / 2 ^ (w * j) % 2 ^ w = (if dmZero dm then 2 ^ w - 1 else 0)) ∧
    (∃ u, exec (.vstx t a b c sm) s = .next u ∧ (∀ z, u.mem.byte z = s.mem.byte z) ∧ (u.core id).flights = co.flights ∧
      (u.core id).writes = co.writes ++ [(co.ic + 3, .put (((List.range (2048 / iw)).filter fun j => co.active sm w j).flatMap fun j =>
        putBytes (spadKey id (ea j)) (bytesOf (w / 8) (elemAt w (co.vv a) j))))]) ∧
    (∃ u, exec (.vstxN4 a b c sm) s = .next u ∧ (∀ z, u.mem.byte z = s.mem.byte z) ∧ (u.core id).flights = co.flights ∧
      (u.core id).writes = co.writes ++ [(co.ic + 3, .put (((List.range 128).filter fun j => co.active sm 16 j).map fun j =>
        (spadKey id (na j / 2), BitVec.ofNat 8 (elemAt 16 (co.vv a) j % 16 * 16 ^ (na j % 2)), if na j % 2 = 0 then 0x0F else 0xF0)))])

/-- R158 to R160: vector loads and stores, gathers and scatters. -/
def Obligations.VectorMemory : Prop := Claims.VectorLoadsAndStores ∧ Claims.GatherAndScatter

/-- R169: VMOVA moves 64 accumulators into a register at latency 3, masked by 32-bit elements, and the active elements of a register into accumulators at
c + 1. R170, R173: VSBIND binds a port to a walk at c + 1, a reading port with its first unit filled, and VSUNBIND frees it. -/
def Sys2Proof.Claims.AccumulatorsAndPorts : Prop :=
  ∀ (s : State) (id : Nat) (k : Slot), Issuing s id k → Unbound s id → ∀ (d : VReg) (b : VSSrc) (a : VSrc) (dm : DMask) (sm : SMask) (p : Port) (w : WReg) (r : VReg),
    let co := s.core id
    let i := (co.ss (vsToS b)).toNat % 65536
    ((view s id k).accFault i 64 = (0, 0) → ∃ u val mask, exec (.vmovaGet d b dm) s = .next u ∧ (∀ z, u.mem.byte z = s.mem.byte z) ∧
      (u.core id).flights = co.flights ++ [inFlight co k (.v d) 3 val 0 mask] ∧
      ∀ j, j < 64 → if co.active (dmReg dm) 32 j = true then mask / 2 ^ (32 * j) % 2 ^ 32 = 2 ^ 32 - 1 ∧ val / 2 ^ (32 * j) % 2 ^ 32 = s.mem.read (accKey id (i + j)) 4
        else mask / 2 ^ (32 * j) % 2 ^ 32 = (if dmZero dm then 2 ^ 32 - 1 else 0)) ∧
    exec (.vmovaPut a b sm) s = .next (s.setCore id { co with acts := co.acts ++ [(co.ic + 1, co.ic,
      .accs (((List.range 64).filter fun j => co.active sm 32 j).map fun j => (i + j, elemAt 32 (co.vv a) j)) k)] }) ∧
    ((view s id k).bindTraps (co.w[w]) = [] →
      (∃ u, exec (.vsbind p w true) s = .next u ∧ (u.core id).acts = co.acts ++ [(co.ic + 1, co.ic, .bind p (.walk true (co.w[w]) 0 [] 1))]) ∧
      (∃ u, exec (.vsbind p w false) s = .next u ∧
        (u.core id).acts = co.acts ++ [(co.ic + 1, co.ic, .bind p (.walk false (co.w[w]) 0 [fillOf s.mem id (co.w[w]) 0 co.ic] 1))])) ∧
    exec (.vsunbind r) s = .next (s.setCore id { co with acts := co.acts ++ (if 28 ≤ r.val then [(co.ic + 1, co.ic, .unbind (Fin.ofNat 4 (r.val - 28)))] else []) })

/-- R171: an operand that is a port bound for reading is the unit under its cursor, filled earlier; the operation marks the port popped, and when the bundle has
issued the cursor stands one unit further. -/
def Sys2Proof.Claims.ReadPortPops : Prop :=
  ∀ (s : State) (id : Nat) (k : Slot), Issuing s id k → ∀ (p : Port) (w : BitVec 512) (unit next : Nat) (f : Fill) (filled : List Fill) (d : VReg),
    (∀ q : Port, (s.core id).ports[q] = if q = p then some (.walk false w unit (f :: filled) next) else none) → f.unit = unit → f.pend = 0 → d.val < 28 →
    (s.core id).popped = [] → f.data < 2 ^ 2048 →
    ∃ u, exec (.vand .b32 d (.v (Fin.ofNat 32 (28 + p.val))) (.v (Fin.ofNat 32 (28 + p.val))) none) s = .next u ∧
      (u.core id).flights = (s.core id).flights ++ [inFlight (s.core id) k (.v d) 2 f.data] ∧ (u.core id).popped = [p.val] ∧
      ∃ fs nx, ((u.applyPops id false).core id).ports[p] = some (.walk false w (unit + 1) fs nx)

/-- R169 to R173: accumulators and stream ports. -/
def Obligations.AccumulatorsAndPorts : Prop := Claims.AccumulatorsAndPorts ∧ Claims.ReadPortPops

/-! ### Directional vectors -/

/-- R174 to R188, R175: a directional result lands in its d register at latency 6 and in the norm file at 7; DLD brings direction and norm at the load latency
and one more; DSETN sets both parts at 1, both together (log 28); DTO (4) gives each active element, or the zeros of the zero code, rounded to its format; DDOT (4), DNORM (1) and
DCMPZ (2) read them; DDOTV (20) gives 64 dot products with directions in memory, each rounded once to FP32, or zeros for the zero code. The weights of DLERP are log 28 (DEDUCED). -/
def Sys2Proof.Claims.DirectionalResults : Prop :=
  ∀ (s : State) (id : Nat) (k : Slot), Issuing s id k → Unbound s id → ∀ (d b c : DReg) (x : VSrc) (h : Half16) (y : Option (BitVec 16)) (j : BitVec 16) (a e : VSSrc)
      (sd : SReg) (v : VReg) (tx : DtoX),
    let co := s.core id
    let ld := if co.sp.compat then 4 else 6
    let dir (r : DReg) : VWord × Nat := (co.d[r], (co.n[r]).toNat)
    let pair (l1 l2 : Nat) (r : DirRes) (latch : Bool) : List Flight :=
      [inFlight co k (.dir d) l1 (packDir r.dir) r.flags (2 ^ 2048 - 1) latch, inFlight co k (.norm d) l2 r.norm 0 0xFFFF false]
    let gives (i : Instr) (f : List Flight) : Prop := exec i s = .next (s.setCore id { co with flights := co.flights ++ f })
    let sa (r : VSSrc) : Nat := (co.ss (vsToS r)).toNat
    gives (.dadd d b c y) (pair 6 7 (weightedSum [((dir b).1, (dir b).2, false, 0), ((dir c).1, (dir c).2, false, (y.getD 0).toInt)]) true) ∧
    gives (.dsub d b c y) (pair 6 7 (weightedSum [((dir b).1, (dir b).2, false, 0), ((dir c).1, (dir c).2, true, (y.getD 0).toInt)]) true) ∧
    gives (.dscale d b (.imm j)) (pair 6 7 (scaleRes false (dir b).1 (dir b).2 j.toInt) true) ∧
    gives (.dscale d b (.reg a)) (pair 6 7 (scaleRes false (dir b).1 (dir b).2 (sextNat 16 (sa a))) true) ∧
    gives (.dneg d b) (pair 6 7 (scaleRes true (dir b).1 (dir b).2 0) true) ∧
    gives (.dlerp d b c j) (pair 6 7 (lerpDir [((dir b).1, (dir b).2, 0x8000 - j.toNat), ((dir c).1, (dir c).2, j.toNat)]) true) ∧
    gives (.dfrom d x h) (pair 6 7 (dfromRes ((List.range 128).map fun i => (if h = .f16 then FFmt.f16 else FFmt.bf16).readZ co.ftz (elemAt 16 (co.vv x) i))) true) ∧
    gives (.dsetn d a) (pair 1 1 (dsetnRes (dir d).1 (sa a % 65536)) false) ∧
    gives (.dnorm sd b) [inFlight co k (.s sd) 1 (dir b).2] ∧
    gives (.ddot sd b c) [inFlight co k (.s sd) 4 ((ddotRes (dir b).1 (dir b).2 (dir c).1 (dir c).2).1 % 2 ^ 64) (ddotRes (dir b).1 (dir b).2 (dir c).1 (dir c).2).2] ∧
    gives (.dcmpz sd b) [inFlight co k (.s sd) 2 ((isZeroCode (dir b).2).toNat + 2 * (!confDir (dirElems (dir b).1) (dir b).2).toNat)] ∧
    (let wt := ftyW tx.t
     ∃ val mask fl gens, ∃ md : Nat → Mode, exec (.dto v b tx) s = .next (s.setCore id { co with flights := co.flights ++ [inFlight co k (.v v) 4 val fl mask], gens }) ∧
      (co.rnd tx.rnd ≠ .sr → gens = co.gens ∧ ∀ i, md i = (modeAt (co.rnd tx.rnd) co.gens 0).1) ∧
      (co.rnd tx.rnd = .sr → wt = 32 → ∀ i, i < 64 → md i = .sr (draw co.gens (genBase k + i)).1) ∧
      ∀ i, i < 2048 / wt → if co.active (dmReg tx.msk) wt i = true then mask / 2 ^ (wt * i) % 2 ^ wt = 2 ^ wt - 1 ∧
          val / 2 ^ (wt * i) % 2 ^ wt = (if (dir b).2 = 0x8000 then 0
            else (dtoElem (ftyFmt tx.t) co.ftz (md i) (sextNat 16 (elemAt 16 (dir b).1 (if wt = 32 then 64 * tx.hi.toNat + i else i))) (dir b).2).1 % 2 ^ wt)
        else mask / 2 ^ (wt * i) % 2 ^ wt = (if dmZero tx.msk then 2 ^ wt - 1 else 0) ∧ val / 2 ^ (wt * i) % 2 ^ wt = 0) ∧
    (Readable s id (sa a) 256 → Readable s id (sa e / 64 * 64) 64 → ∃ u, exec (.dld d a e) s = .next u ∧ (∀ z, u.mem.byte z = s.mem.byte z) ∧ (u.core id).flights = co.flights ++
      pair ld (ld + 1) (dldRes (BitVec.ofNat 2048 (s.mem.read (spadKey id (sa a)) 256)) (s.mem.read (spadKey id (sa e)) 2)) true) ∧
    (∃ u, exec (.dst b a e) s = .next u ∧ (u.core id).writes = co.writes ++ [(co.ic + 1, .put (putBytes (spadKey id (sa a)) (bytesOf 256 (dir b).1.toNat) ++
      putBytes (spadKey id (sa e)) (bytesOf 2 (dir b).2)))] ∧ (∀ z, u.mem.byte z = s.mem.byte z) ∧ (u.core id).flights = co.flights) ∧
    (Readable s id (sa a) 16384 → ∃ u val, exec (.ddotv v b a) s = .next u ∧ (∀ z, u.mem.byte z = s.mem.byte z) ∧
      (u.core id).flights = co.flights ++ [inFlight co k (.v v) 20 val] ∧
      ∀ i, i < 64 → val / 2 ^ (32 * i) % 2 ^ 32 = if (dir b).2 = 0x8000 then 0 else (FFmt.f32.round false .rne ((Exact.ofInt (dotDir (dirElems (dir b).1)
        (dirElems (BitVec.ofNat 2048 (s.mem.read (spadKey id (sa a + 256 * i)) 256))))).scale (-30))).1 % 2 ^ 32)

/-- R174, R176 to R178, R184: norm 0x8000 is the code of the zero direction, which conforms when every component is 0; renormalising nothing but zeros gives it; a
scaled conforming direction keeps its components; a norm out of range saturates to 0x7FFF or 0x8001. -/
def Sys2Proof.Claims.ZeroDirection : Prop :=
  (∀ xs : List Int, confDir xs 0x8000 = xs.all (· == 0)) ∧ (∀ fl : Flags, (zeroDir fl).norm = 0x8000 ∧ confDir (zeroDir fl).dir 0x8000 = true) ∧
  (∀ (us : List Int) (ue m : Int), sumSq us = 0 → renorm us ue m = zeroDir 0) ∧ (∀ norm : Nat, isZeroCode norm = true ↔ norm = 0x8000) ∧
  (∀ (x : VWord) (norm : Nat) (k : Int), confDir (dirElems x) norm = true → norm ≠ 0x8000 → (scaleRes false x norm k).dir = dirElems x) ∧
  (∀ q : Int, -32767 ≤ q → q ≤ 32767 → q78 q = (wrapNat 16 q, 0)) ∧ (∀ q : Int, 32767 < q → (q78 q).1 = 0x7FFF) ∧ (∀ q : Int, q < -32767 → (q78 q).1 = 0x8001)

/-- R174 to R188: the directional operations, the zero direction among them. The weights of DLERP and the joint landing of DSETN are log 28. -/
def Obligations.DirectionalResults : Prop := Claims.DirectionalResults ∧ Claims.ZeroDirection

/-! ### The M slot -/

namespace Sys2Proof.Claims
/-- Element `q` of row `r` of the tile at `a`, of a format with `k` elements a row, and the scale of its block `j` (R202). -/
def tileElem (s : State) (id a : Nat) (f : MatFmt) (k r q : Nat) : Nat :=
  s.mem.read (spadKey id (a + 64 + r * k * planeBits f / 8)) (k * planeBits f / 8) / 2 ^ (planeBits f * q) % 2 ^ planeBits f
def tileScale (s : State) (id a : Nat) (g : MxFmt) (rows k r j : Nat) : Nat :=
  s.mem.read (spadKey id (a + 64 + pad64 (rows * k * mxBits g / 8) + 2 * (r * k / 32 + j))) 2
/-- R46: a cell of two block formats: block by block, the exact sum of the products, scaled, rounded once and added. `extra` is the scale of an adapter (R210). -/
def mxCell (s : State) (id : Nat) (x y : MxFmt) (extra : List Nat) (ta tb m n k i j acc : Nat) : Nat :=
  let book := (s.core id).book
  (List.range (k / 32)).foldl (fun c q => fadd32 c (blockValue x y
    (((List.range 32).map fun e => mxInt book x (tileElem s id ta (.mx x) k i (32 * q + e)) * mxInt book y (tileElem s id tb (.mx y) k j (32 * q + e))).foldl (· + ·) 0)
    (tileScale s id ta x m k i q :: tileScale s id tb y n k j q :: extra))) acc
/-- R47: a cell of two BF16 tiles: groups of 16 products, each summed exactly within its window and added. -/
def bf16Cell (s : State) (id ta tb k i j acc : Nat) : Nat :=
  (List.range (k / 16)).foldl (fun c q => fadd32 c (groupValue ((List.range 16).map fun e =>
    (mulVal (FFmt.bf16.read (tileElem s id ta .bf16 k i (16 * q + e))) (FFmt.bf16.read (tileElem s id tb .bf16 k j (16 * q + e)))).1))) acc
/-- The end of a matrix operation of some beats among the results in flight, with the error its operands met (R207). -/
def matrixEnd (c : Core) (beats : Nat) (e : Nat × Nat) (fl : Flags) : Flight := { inFlight c 3 .matrix beats 0 fl 0 false with pend := e.1, addr := e.2 }
/-- The accumulators of an output of `m` times `n` cells with their new values (R205): each cell from its old value, or from +0 under ZI. -/
def outValues (s : State) (id m n ab : Nat) (zi : Bool) (cell : Nat → Nat → Nat → Nat) : List (Nat × Nat) :=
  (List.range m).flatMap fun i => (List.range n).map fun j =>
    (accIndex ab n i j, cell i j (if zi then 0 else s.mem.read (accKey id (accIndex ab n i j)) 4))
/-- R208: where the core beside lies in the domain, the tile is on its way there, and comes no earlier than three cycles and one for each of its lines. -/
def Forwarded (s u : State) (id : Nat) (l : Launch) (east : Bool) (h : HReg) (a n : Nat) (shadows : List Nat) : Prop :=
  let x := coreX id + east.toNat
  let y := coreY id + (!east).toNat
  x < l.x0 + l.width → y < l.y0 + l.height →
    (⟨id, s.clock + 3 + n / 64, h, s.mem.bytes (spadKey id a) n, shadows, none⟩ : Forward) ∈ (u.core (coreId (coreZ id) x y)).forwards
end Sys2Proof.Claims

/-- R205 to R208: MMA on valid hoops that hold the tiles it pops (two in one hoop, the first for A, where both operands name it), whose headers fit, keeps the matrix unit
busy for its beats. Where no line and no accumulator it reads has an error (R71, R262; the order in which tiles and accumulators are looked at is log 29), the new values of its M times N accumulators, by R46 or R47, are put in place at c + 1, each hoop
is popped when the beats end, and a tile goes east or south in the domain where FWA or FWB says so. Where one has, the error stands at the end of the beats and nothing is
written, popped or forwarded. No byte of memory changes at issue. -/
def Obligations.MatrixMultiply : Prop :=
  ∀ (s : State) (id : Nat) (k : Slot), Issuing s id k → Unbound s id → ∀ (a : SReg) (xm : XM), (Instr.mma a xm).wf = true →
    let co := s.core id
    let m := shapeM xm.shape.val
    let n := shapeN xm.shape.val
    let kk := shapeK xm.fa xm.fb xm.shape.val
    let beats := m / 16 * (n / 16) * ceilDiv kk (pairShape xm.fa xm.fb).1
    let ab := (xm.abase.toNat + (co.ss (.s a)).toNat) % 4096
    let ha := co.h[xm.ha]
    let hb := co.h[xm.hb]
    let v := view s id k
    let sb := if xm.ha = xm.hb then hb.head + 1 else hb.head
    let ta := ha.tileAt ha.head
    let tb := hb.tileAt sb
    let na := tileBytes xm.fa m kk
    let nb := tileBytes xm.fb n kk
    let cell (i j acc : Nat) : Nat := match xm.fa, xm.fb with | .mx x, .mx y => mxCell s id x y [] ta tb m n kk i j acc | _, _ => bf16Cell s id ta tb kk i j acc
    ha.valid = true → hb.valid = true → (if xm.ha = xm.hb then 2 else 1) ≤ ha.fill → 1 ≤ hb.fill →
    v.tileTraps ta xm.fa m kk ha.tile xm.ha.val 0 = [] → v.tileTraps tb xm.fb n kk hb.tile xm.hb.val 1 = [] →
    let e := firstFault [v.tileFault ta na, v.tileFault tb nb, v.accRangeFault (16 * ab) (m * n) xm.zi]
    ∃ u, exec (.mma a xm) s = .next u ∧ (∀ z, u.mem.byte z = s.mem.byte z) ∧ (u.core id).flights = co.flights ++ [matrixEnd co beats e 0] ∧
      (u.core id).matrix = some ⟨co.ic + beats, [(16 * ab, m * n)], [xm.ha.val, xm.hb.val]⟩ ∧
      (e.1 ≠ 0 → (u.core id).acts = co.acts ∧ ∀ j, (u.core j).forwards = (s.core j).forwards) ∧
      (e.1 = 0 → (u.core id).acts = co.acts ++ [(co.ic + 1, co.ic, .accs (outValues s id m n ab xm.zi cell) k), (co.ic + beats, co.ic, .pop xm.ha 1), (co.ic + beats, co.ic, .pop xm.hb 1)] ∧
        ∀ l, s.launchOf id = some l → (xm.fwa = true → Forwarded s u id l true xm.ha ta na (co.shadowOf xm.ha (ha.head % (ha.count + 1)))) ∧
          (xm.fwb = true → Forwarded s u id l false xm.hb tb nb (co.shadowOf xm.hb (sb % (hb.count + 1)))))

/-- R209, R210, R280: for a handle whose entry is valid and whose adapter tile's header fits, the check of a row group passes with that entry where its tag is the tile's shadow and the
entry's owner; where it differs from either it passes with a violation of kind 1 that names the handle and the tags; and considering an MMAS whose groups all pass so finds the first of
their violations, or none. -/
def Sys2Proof.Claims.SegmentedOperandCheck : Prop :=
  (∀ (v : View) (ta n sh g shadow : Nat) (fa : MxFmt) (ha : HReg) (e : Handle),
    let w := v.readSpad (ta + 32 + 4 * g) 4
    let hd := w % 65536
    (v.c.handles.find? fun x => x.1 == hd % 4096).map (·.2) = some e → e.valid = true → hd < 4096 → e.fmt ≤ 3 →
    v.tileTraps e.addr (.mx (mxOfCode e.fmt)) n (shapeK (.mx fa) (.mx (mxOfCode e.fmt)) sh) (2 ^ 20 - e.addr) ha.val 1 = [] →
    (w / 65536 = shadow → w / 65536 = e.owner → v.segCheck ta fa ha n sh g shadow = .entry e none) ∧
    (w / 65536 ≠ shadow ∨ w / 65536 ≠ e.owner → ∃ x, v.segCheck ta fa ha n sh g shadow = .entry e (some x) ∧ x.kind = 1 ∧ x.handle = hd ∧ x.tag = w / 65536 ∧ x.shadow = shadow ∧
      x.owner = e.owner)) ∧
  ∀ (s : State) (id : Nat) (k : Slot), s.cur = .slot id k false → (s.core id).resumeCaps = [] → ∀ (a : SReg) (xm : XMS) (es : Nat → Handle) (vs : Nat → Option Violation),
    let co := s.core id
    let m := shapeM xm.shape.val
    let ha := co.h[xm.ha]
    let ta := ha.tileAt ha.head
    let v := view s id k
    ha.valid = true → 1 ≤ ha.fill → v.segHeader ta xm.fa m xm.ha.val = [] →
    (∀ g, g < m / 16 → v.segCheck ta xm.fa xm.ha (shapeN xm.shape.val) xm.shape.val g ((co.shadowOf xm.ha (ha.head % (ha.count + 1))).getD g 0) = .entry (es g) (vs g)) →
    ∃ u l, exec (.mmas a xm) s = .next u ∧ u.mem = s.mem ∧ (u.core id).looked = co.looked ++ [l] ∧ l.violation = (List.range (m / 16)).findSome? vs

/-- R209, R210: MMAS on a valid hoop that holds a tile, whose row groups all pass their checks, each with an entry of its own and all asking for one K, keeps the matrix unit busy for the beats of its
groups. Where nothing it reads has an error (R71, R262; the order of header, K and accumulator errors is log 29), the values of its accumulators, each row by the adapter tile and the scale of its group's entry, are put in place at c + 1, the hoop is popped when
the beats end, and FWA sends the tile east. Where something has, the error stands at the end and nothing is written, popped or forwarded. -/
def Sys2Proof.Claims.SegmentedMultiply : Prop :=
  ∀ (s : State) (id : Nat) (k : Slot), Issuing s id k → Unbound s id → ∀ (a : SReg) (xm : XMS) (es : Nat → Handle) (kk : Nat),
    let co := s.core id
    let m := shapeM xm.shape.val
    let n := shapeN xm.shape.val
    let ha := co.h[xm.ha]
    let ta := ha.tileAt ha.head
    let ab := (xm.abase.toNat + (co.ss (.s a)).toNat) % 4096
    let v := view s id k
    let sh := co.shadowOf xm.ha (ha.head % (ha.count + 1))
    let fb (g : Nat) : MxFmt := mxOfCode (es g).fmt
    let groups := List.range (m / 16)
    let beats := (groups.map fun g => n / 16 * ceilDiv kk (pairShape (.mx xm.fa) (.mx (fb g))).1).foldl (· + ·) 0
    let na := tileBytes (.mx xm.fa) m kk
    let nb (g : Nat) := tileBytes (.mx (fb g)) n kk
    let cell (i j acc : Nat) : Nat := mxCell s id xm.fa (fb (i / 16)) [(es (i / 16)).scale] ta (es (i / 16)).addr m n kk i j acc
    ha.valid = true → 1 ≤ ha.fill → v.segHeader ta xm.fa m xm.ha.val = [] →
    (∀ g, g < m / 16 → v.segCheck ta xm.fa xm.ha n xm.shape.val g (sh.getD g 0) = .entry (es g) none ∧ shapeK (.mx xm.fa) (.mx (fb g)) xm.shape.val = kk) →
    v.tileTraps ta (.mx xm.fa) m kk ha.tile xm.ha.val 0 = [] →
    let e := firstFault (v.tileFault ta na :: groups.map (fun g => v.tileFault (es g).addr (nb g)) ++ [v.accRangeFault (16 * ab) (m * n) xm.zi])
    ∃ u, exec (.mmas a xm) s = .next u ∧ (∀ z, u.mem.byte z = s.mem.byte z) ∧ (u.core id).flights = co.flights ++ [matrixEnd co beats e 0] ∧
      (u.core id).matrix = some ⟨co.ic + beats, [(16 * ab, m * n)], [xm.ha.val]⟩ ∧
      (e.1 ≠ 0 → (u.core id).acts = co.acts ∧ ∀ j, (u.core j).forwards = (s.core j).forwards) ∧
      (e.1 = 0 → (u.core id).acts = co.acts ++ [(co.ic + 1, co.ic, .accs (outValues s id m n ab xm.zi cell) k), (co.ic + beats, co.ic, .pop xm.ha 1)] ∧
        ∀ l, s.launchOf id = some l → xm.fwa = true → Forwarded s u id l true xm.ha ta na sh)

/-- R209, R210, R280: the segmented multiply and the checks of its operand. -/
def Obligations.SegmentedMultiply : Prop := Claims.SegmentedMultiply ∧ Claims.SegmentedOperandCheck

/-- R211, R213: MCLR clears its accumulators when its cycles end, one for every 256 and at least one; MPOP, on a valid hoop that holds its tiles, pops them at c + 1. The matrix unit is busy
until then, and nothing else changes. -/
def Sys2Proof.Claims.MatrixClearAndPop : Prop :=
  ∀ (s : State) (id : Nat) (k : Slot), Issuing s id k → Unbound s id → ∀ (a : SReg) (x : SX) (h : HReg) (n : BitVec 7),
    let co := s.core id
    let i := (co.ss (.s a)).toNat % 65536
    let cnt := min (zxVal co x).toNat 65536
    let beats := max 1 ((cnt + 255) / 256)
    let does (n : Nat) (y : Act) (accs : List (Nat × Nat)) (hoops : List Nat) : State := s.setCore id { co with
      flights := co.flights ++ [matrixEnd co n (0, 0) 0], acts := co.acts ++ [(co.ic + n, co.ic, y)], matrix := some ⟨co.ic + n, accs, hoops⟩ }
    exec (.mclr a x) s = .next (does beats (.accZero i cnt) [(i, cnt)] []) ∧
    ((co.h[h]).valid = true → n.toNat ≤ (co.h[h]).fill → n.toNat ≤ (co.h[h]).count + 1 → exec (.mpop h n) s = .next (does 1 (.pop h n.toNat) [] [h.val]))

/-- R212: MDRAIN converts its runs of 32 accumulators, sampled at issue, and writes the bytes in lines of 64 from its address up, line j in the write phase of c + 3 + j; CLR clears the accumulators at
c + 1; the matrix unit is busy for three cycles and one for each line, and the conversions' flags stand at its end. Where an accumulator it reads has an error, that stands there
and nothing is written or cleared (R71, R262, R207: log 29). -/
def Sys2Proof.Claims.MatrixDrain : Prop :=
  ∀ (s : State) (id : Nat) (k : Slot), Issuing s id k → Unbound s id → ∀ (a b : SReg) (xd : XD),
    let co := s.core id
    let runs := xd.nb.toNat + 1
    let lines := (runBytes xd.fmt * runs + 63) / 64
    let ea := (co.ss (.s a)).toNat
    let j := (co.ss (.s b)).toNat % 65536
    let e := (view s id k).accRangeFault j (32 * runs) false
    let run (q : Nat) := drainRun co.book xd.fmt xd.uscl co.sp.scalel.toNat (co.drainMode xd.rnd) ((List.range 32).map fun i => s.mem.read (accKey id ((j + 32 * q + i) % 65536)) 4)
    let bs := (List.range runs).flatMap fun q => (run q).1
    let fl := ((List.range runs).map fun q => (run q).2).foldl (· ||| ·) (0 : Flags)
    ∃ u, exec (.mdrain a b xd) s = .next u ∧ (∀ z, u.mem.byte z = s.mem.byte z) ∧ bs.length = runBytes xd.fmt * runs ∧
      (u.core id).matrix = some ⟨co.ic + (3 + lines), [(j, 32 * runs)], []⟩ ∧ (u.core id).flights = co.flights ++ [matrixEnd co (3 + lines) e (if e.1 = 0 then fl else 0)] ∧
      (u.core id).writes = co.writes ++ (if e.1 = 0 then (List.range lines).map fun q => (co.ic + (3 + q), .put (putBytes (spadKey id (ea + 64 * q)) ((bs.drop (64 * q)).take 64))) else []) ∧
      (u.core id).acts = co.acts ++ (if xd.clr = true ∧ e.1 = 0 then [(co.ic + 1, co.ic, .accZero j (32 * runs))] else [])

/-- R212, R262: the flags of a drain whose L lines are written are raised in the issue cycle c + 2 + L, one cycle before its end; before, nothing of it lands, and after, its end without flags. -/
def Sys2Proof.Claims.DrainFlags : Prop :=
  ∀ (c : Core) (lines : Nat) (e : Nat × Nat) (fl : Flags), fl ≠ 0 →
    let f := matrixEnd c (3 + lines) e fl
    (∀ t, t < c.ic + 2 + lines → f.at t = (none, some f)) ∧ f.at (c.ic + 2 + lines) = (some { f with due := c.ic + 2 + lines, pend := 0 }, some { f with flags := 0 }) ∧
    ∀ t, c.ic + 3 + lines ≤ t → ({ f with flags := 0 } : Flight).at t = (some { f with flags := 0 }, none)

/-- R214: MTRANS, on valid hoops of which the first holds a tile of its shape and the second's tiles hold the output, keeps the matrix unit busy for its beats and then pops its source and puts out
the transpose: a BF16 tile whose header names its rows and columns and is zero elsewhere (log 29), whose element (c, r) is element (r, c) of the source, and whose shadows hold the launch's tenant. Where a line it reads has an
error, that stands at the end and nothing is popped or put out. -/
def Sys2Proof.Claims.MatrixTranspose : Prop :=
  ∀ (s : State) (id : Nat) (k : Slot), Issuing s id k → Unbound s id → ∀ (h g : HReg) (xt : XT) (l : Launch), s.launchOf id = some l →
    let co := s.core id
    let v := view s id k
    let rows := 16 * (xt.rm1.val + 1)
    let cols := 16 * (xt.cm1.val + 1)
    let ta := (co.h[h]).tileAt (co.h[h]).head
    let beats := rows / 16 * (cols / 16)
    let e := v.tileFault ta (tileBytes .bf16 rows cols)
    (co.h[h]).valid = true → (co.h[g]).valid = true → 1 ≤ (co.h[h]).fill → v.tileTraps ta .bf16 rows cols (co.h[h]).tile h.val 0 = [] → tileBytes .bf16 cols rows ≤ (co.h[g]).tile →
    ∃ u, exec (.mtrans h g xt) s = .next u ∧ (∀ z, u.mem.byte z = s.mem.byte z) ∧ (u.core id).matrix = some ⟨co.ic + beats, [], [h.val, g.val]⟩ ∧
      (u.core id).flights = co.flights ++ [matrixEnd co beats e 0] ∧ (e.1 ≠ 0 → (u.core id).acts = co.acts) ∧
      (e.1 = 0 → ∃ tile, (u.core id).acts = co.acts ++ [(co.ic + beats, co.ic, .pop h 1), (co.ic + beats, co.ic, .transOut g tile (List.replicate 8 l.tenant))] ∧
        tile.length = tileBytes .bf16 cols rows ∧ natOf (tile.take 64) = 4 + 2 ^ 8 * (cols / 16 - 1) + 2 ^ 16 * (rows / 16 - 1) ∧
        ∀ c r, c < cols → r < rows → natOf ((tile.drop (64 + 2 * (c * rows + r))).take 2) = s.mem.read (spadKey id (ta + 64 + 2 * (r * cols + c))) 2)

/-- R211 to R214: clearing, draining, popping and transposing. How accumulator errors stand is log 29 (R71, R262). -/
def Obligations.MatrixMaintenance : Prop := Claims.MatrixClearAndPop ∧ Claims.MatrixDrain ∧ Claims.DrainFlags ∧ Claims.MatrixTranspose

/-! ### The C slot -/

/-- The operation answers a next state in which one command stands at the end of its engine's queue: engine 1 for the second C slot, else engine 0. Its
identifier is the slot's result one issue cycle later. No other core and no byte of memory changes. -/
def Sys2Proof.Claims.Queues (s : State) (id : Nat) (k : Slot) (kind : CmdKind) (dst src : BitVec 512) (arrival fault : Option Nat) (after : List Nat) (out : Out) : Prop :=
  let c := s.core id
  let e : Fin 2 := if k = 5 then 1 else 0
  ∃ u cmd, out = .next u ∧ cmd.id = 2 ^ 15 * e.val + (c.engines[e]).nextQ % 2 ^ 15 ∧ cmd.kind = kind ∧ cmd.dst = dst ∧ cmd.src = src ∧ cmd.arrival = arrival ∧
    cmd.fault = fault ∧ cmd.after = after ∧ cmd.started = false ∧ cmd.bytes = 0 ∧ (∀ j, j ≠ id → u.core j = s.core j) ∧ u.mem = s.mem ∧
    (let e' := { c.engines[e] with queue := (c.engines[e]).queue ++ [cmd], nextQ := (c.engines[e]).nextQ + 1 }
     u.core id = { c with flights := c.flights ++ [inFlight c k .nowhere 1 cmd.id], engines := c.engines.set e e' })

/-- R215 to R217: the four data commands enter the queue with their walks and their arrival word, which lies in this core's scratchpad or in that of the
core a KIND 1 destination names, with the fault code of the checks. -/
def Sys2Proof.Claims.DataCommandsQueue : Prop :=
  ∀ (s : State) (id : Nat) (k : Slot), Issuing s id k → Unbound s id → ∀ (a b : WReg) (r : SSrc) (x : SX),
    let c := s.core id
    let arr (w : BitVec 512) : Option Nat := some (spadKey (if fieldOf (w.setWidth 64) 48 4 = 1 then walkCore w else id) (zxVal c x).toNat)
    let goes (kind : CmdKind) (dst src : BitVec 512) := Queues s id k kind dst src (arr dst) (dataCode kind dst src c.sp.handler false) c.fences
    goes .cpy (c.w[a]) (c.w[b]) (exec (.cpy a b x) s) ∧
    goes (.cgath (c.w[b + 1])) (c.w[a]) (c.w[b]) (exec (.cgath a b x) s) ∧
    goes (.cscat (c.w[a + 1])) (c.w[a]) (c.w[b]) (exec (.cscat a b x) s) ∧
    goes (.cfill (c.ss r).toNat) (c.w[a]) 0 (exec (.cfill a r x) s)

/-- R217 and Table 7.11, for walks that are well formed (no reserved bit, at most the defined sizes, no hoop target): CPY with unequal element sizes or unequal
counts is code 0x02, a KIND of 4 or more, or KIND 3 outside the handler, is code 0x03; and CPY of two alike walks of KIND 0 to 2 has no code. That the lowest of several codes is kept, and that an index walk of other than two dimensions is code 0x01, is log 31 (DEDUCED). -/
def Sys2Proof.Claims.DataCommandChecks : Prop :=
  ∀ (d e : BitVec 512) (handler : Bool), walkMalformed d 1 = false → walkMalformed e 0 = false →
    (walkEsize d ≠ walkEsize e ∨ walkCount d ≠ walkCount e → dataCode .cpy d e handler false = some 2) ∧
    (walkEsize d = walkEsize e → walkCount d = walkCount e → 4 ≤ walkKind d ∨ 4 ≤ walkKind e ∨ (handler = false ∧ walkKind e = 3) → dataCode .cpy d e handler false = some 3) ∧
    (walkEsize d = walkEsize e → walkCount d = walkCount e → walkPaged d = 0 → walkPaged e = 0 → walkKind d ≤ 2 → walkKind e ≤ 2 → dataCode .cpy d e handler false = none) ∧
    (3 < walkEsize d → ∀ v, dataCode (.cfill v) d e handler false = some 1) ∧
    (∀ x : BitVec 512, walkDims e ≠ 2 → dataCode (.cgath x) d e handler false = some 1) ∧ (∀ x : BitVec 512, walkDims d ≠ 2 → dataCode (.cscat x) d e handler false = some 1)

/-- R215 to R217, Table 7.11: the copy commands that move data, and what refuses them. The lowest of several codes and code 0x01 for DIMS other than 2 are log 31. -/
def Obligations.DataCommandsQueue : Prop := Claims.DataCommandsQueue ∧ Claims.DataCommandChecks

/-- R215, R224 to R226: the hints, CFENCE, CATOM and the four KV commands enter the queue. CFENCE waits for every command outstanding at its issue; a CATOM
whose address is not a multiple of its width, and a KV command whose reference is not a multiple of 8 (log 31), carry code 0x05; a compare-and-swap reads its replacement at
bytes 24 to 31 of its record, and carries code 0x08 or 0x09 where that has an uncorrectable word or a mismatched line. -/
def Sys2Proof.Claims.OtherCommandsQueue : Prop :=
  ∀ (s : State) (id : Nat) (k : Slot), Issuing s id k → Unbound s id → ∀ (a b d : SSrc) (x : SX) (hint : Option (BitVec 3)) (dx : Option DemoX) (sc : Scope) (xa : XA),
    let c := s.core id
    let n (r : SSrc) := (c.ss r).toNat
    let goes (kind : CmdKind) (arrival fault : Option Nat) := Queues s id k kind 0 0 arrival fault c.fences
    let kv (kind : CmdKind) (arr : Nat) := goes kind (some (spadKey id arr)) (if n a % 8 = 0 then none else some 5)
    goes (.cprom (n a) (n b) (hint.getD 0).toNat) none none (exec (.cprom a b hint) s) ∧
    goes (.cdemo (n a) (n b) ((dx.map fun y => y.urg.toNat).getD 0) ((dx.map fun y => y.fmt.val).getD 0)) none none (exec (.cdemo a b dx) s) ∧
    Queues s id k (.cfence sc) 0 0 none none (c.engines.toList.flatMap fun e => e.queue.map (·.id)) (exec (.cfence sc) s) ∧
    (let cas := xa.at_.op = .cas
     let bad := if cas then (s.mem.spadFault id (n a + 24) 8).1 else 0
     let read : State := if cas then { s with mem := s.mem.scrub (spadKey id (n a + 24)) 8 } else s
     Queues read id k (.catom xa.at_ xa.scope (spadKey id (n a)) (n b) (n d) (s.mem.read (spadKey id (n a + 24)) 8)) 0 0 (some (spadKey id (n a)))
      (if n b % stwBytes xa.at_.width ≠ 0 then some 5 else if bad = 0x0E then some 8 else if bad = 0x0F then some 9 else none) c.fences (exec (.catom a b d xa) s)) ∧
    kv (.kvapp (n a) (n b)) (zxVal c x).toNat (exec (.kvapp a b x) s) ∧ kv (.kvrel (n a)) (n b) (exec (.kvrel a b) s) ∧
    kv (.kvpin (n a)) (n b) (exec (.kvpin a b) s) ∧ kv (.kvunpin (n a)) (n b) (exec (.kvunpin a b) s)

/-- R221 to R223, Table 7.13, R98: CHOOP reads the image and installs it at c + 1; CARM and SAT act in the write phase of c + 1, where CARM leaves an arrival
word with its count 0 and SAT changes its word; CSTAT answers at latency 1; CCANCEL acts at c + 1; CDEAL outside a porter program records ILLOP, reason 7. That CHOOP and CARM charge no bank port is log 37. -/
def Sys2Proof.Claims.ImmediateCommands : Prop :=
  ∀ (s : State) (id : Nat) (k : Slot), Issuing s id k → Unbound s id → ∀ (h : HReg) (a b d : SSrc) (x : SX) (r : SReg) (w : WReg) (xa : AtX),
    let c := s.core id
    let n (r : SSrc) := (c.ss r).toNat
    let im := s.mem.read (spadKey id (n b)) 16
    let f (p m : Nat) := im / 2 ^ p % 2 ^ m
    (Readable s id (n b) 16 → ∃ u, exec (.choop h b) s = .next u ∧ (∀ z, u.mem.byte z = s.mem.byte z) ∧ (∀ j, j ≠ id → u.core j = s.core j) ∧
      u.core id = { c with acts := c.acts ++ [(c.ic + 1, c.ic, .hoop h ⟨f 0 20, f 20 10, f 32 8, 0, 0, 0, true⟩)] }) ∧
    exec (.carm a b x) s = .next (s.setCore id { c with writes := c.writes ++ [(c.ic + 1, .carm (spadKey id (n a)) (n b % 2 ^ 32) ((zxVal c x).toNat % 2 ^ 32))] }) ∧
    exec (.cstat r b) s = .next (fly s id k (.s r) 1 (c.cmdStatus (n b % 2 ^ 16) % 2 ^ 64)) ∧
    exec (.ccancel a) s = .next (s.setCore id { c with acts := c.acts ++ [(c.ic + 1, c.ic, .cancel (n a % 2 ^ 16))] }) ∧
    (∃ u, exec (.sat a b d xa) s = .next u ∧ u.mem = s.mem ∧
      (u.core id).writes = c.writes ++ [(c.ic + 1, .sat (spadKey id (n b)) xa (n d) (n a) c.ic k)] ∧
      (xa.ret = true → ∀ q, a = .s q → (u.core id).flights = c.flights ++ [inFlight c k (.s q) c.ldLat 0])) ∧
    (∃ u, exec (.cdeal w b) s = .next u ∧ u.mem = s.mem ∧ u.core id = c) ∧
    (∀ t : State, t.cur = .slot id k false → (t.core id).resumeCaps = [] → ∃ u l, exec (.cdeal w b) t = .next u ∧
      (u.core id).looked = (t.core id).looked ++ [l] ∧ l.slot = k ∧ (7, 0, 0) ∈ l.illop)

/-- R215, R221 to R226: the other commands of the C slot, queued or done at once. The code of a misaligned KV reference is log 31, the bank ports of CHOOP and CARM log 37. -/
def Obligations.OtherCommandsQueue : Prop := Claims.OtherCommandsQueue ∧ Claims.ImmediateCommands

/-- R222: what the write phase makes of a SAT: the old value goes to the result in flight and the new one to memory, when no error is met; all other bytes stay.
The sum wraps, the smaller and larger are signed or unsigned as named, SWAP and CAS store the operand, CAS only on equality. -/
def Sys2Proof.Claims.ScratchpadAtomics : Prop :=
  (∀ (s : State) (id key b a issued : Nat) (x : AtX) (k : Slot), s.mem.wf = true → s.mem.spadFault id (key - spadKey id 0) (stwBytes x.width) = (0, 0) →
    let n := stwBytes x.width
    let r := atomicNew x (s.mem.read key n) b a
    let t := s.doSat id key x b a issued k
    t.mem.read key n = r.1 % 2 ^ (8 * n) ∧ (∀ z, z < key ∨ key + n ≤ z → t.mem.byte z = s.mem.byte z) ∧
    (∀ f ∈ (s.core id).flights, f.issued = issued → f.slot = k → ∃ g ∈ (t.core id).flights, g.dest = f.dest ∧ g.due = f.due ∧ g.value = s.mem.read key n)) ∧
  ∀ (o b a : BitVec 64) (ret : Bool),
    let at_ (op : AtOp) := (atomicNew ⟨op, .b64, ret⟩ o.toNat b.toNat a.toNat).1
    at_ .add = (o + b).toNat ∧ at_ .and = (o &&& b).toNat ∧ at_ .or = (o ||| b).toNat ∧ at_ .xor = (o ^^^ b).toNat ∧ at_ .swap = b.toNat ∧
    at_ .max = (if b.sle o then o else b).toNat ∧ at_ .min = (if o.sle b then o else b).toNat ∧ at_ .maxw = max o.toNat b.toNat ∧ at_ .minw = min o.toNat b.toNat ∧
    at_ .cas = (if o = a then b else o).toNat

/-- R285 to R289: a group barrier lands nothing. XCHG reserves the message path for four cycles and lands at latency 20: element j, of 128 bits, is the
slice this core's position names of the operand of the member at position j of the cluster, if that lies in the domain and carries the exchange, and else 0.
XMAX lands at latency 18 the SCALEL of each member of the row that carries it in its 16-bit element, 0 for the others, and their maximum in SCALEL. -/
def Obligations.GroupOperations : Prop :=
  ∀ (s : State) (id : Nat) (k : Slot), Issuing s id k → Unbound s id → ∀ (g : Fin 4) (d : VReg) (b : VSrc) (l : Launch), s.launchOf id = some l →
    let c := s.core id
    let mine := 4 * (coreY id % 4) + coreX id % 4
    let peer (j : Nat) := coreId (coreZ id) (coreX id / 4 * 4 + j % 4) (coreY id / 4 * 4 + j / 4)
    let path (l : List Nat) := c.msgPath ++ l.map (c.ic + ·)
    exec (.gbar g) s = .next (s.setCore id c) ∧
    (∃ x, exec (.xchg d b) s = .next (s.setCore id { c with flights := c.flights ++ [inFlight c k (.v d) 20 x], msgPath := path [0, 1, 2, 3] }) ∧
      ∀ j, j < 16 → x / 2 ^ (128 * j) % 2 ^ 128 =
        (if peer j = id then (c.vv b).toNat else if l.holds (peer j) = true then (s.core (peer j)).xchgValue else 0) / 2 ^ (128 * mine) % 2 ^ 128) ∧
    (∃ x y, exec (.xmax d) s = .next (s.setCore id { c with flights := c.flights ++ [inFlight c k (.v d) 18 x, inFlight c k .scalel 18 y (latch := false)], msgPath := path [0] }) ∧
      let el (j : Nat) : Nat := let m := coreId (coreZ id) (l.x0 + j) (coreY id); if (s.core m).carriesXmax = true ∨ m = id then (s.core m).sp.scalel.toNat else 0
      (∀ j, j < l.width → j < 128 → x / 2 ^ (16 * j) % 2 ^ 16 = el j) ∧ (∀ j, j < l.width → el j ≤ y) ∧ (y = 0 ∨ ∃ j, j < l.width ∧ y = el j))

/-- R294, Table 10.4: a send reserves the message path for four cycles and sends the vector's four messages; CHSEND_TRY does so only where it is ready, and
answers in a predicate. A receive takes four messages and lands them as one vector at latency 2; CHRECV_TRY takes them only if four are there, and answers. -/
def Sys2Proof.Claims.ChannelData : Prop :=
  ∀ (s : State) (id : Nat) (k : Slot), Issuing s id k → Unbound s id → ∀ (a : VSrc) (p : Pred) (d : VReg) (ch : Chan),
    let c := s.core id
    let path := c.msgPath ++ [c.ic, c.ic + 1, c.ic + 2, c.ic + 3]
    let ready := (s.endpoint id ch).resend = [] ∧ 4 ≤ (s.endpoint id ch).sendAllow ∧ ((s.endpoint id ch).tagged → (s.endpoint id ch).retained.length ≤ 59)
    let ms := c.msgsLeft ch
    let got := inFlight c k (.v d) 2 (joinMsgs (ms.take 4))
    let took : List Take := c.taken ++ [⟨ch.val, 4, none⟩]
    exec (.chsend a ch) s = .next ((s.setCore id { c with msgPath := path }).sendVector id ch (c.vv a).toNat) ∧
    (ready → exec (.chsendTry p a ch) s =
      .next ((s.setCore id { c with msgPath := path, flights := c.flights ++ [inFlight c k (.p p) 1 1] }).sendVector id ch (c.vv a).toNat)) ∧
    (¬ ready → exec (.chsendTry p a ch) s = .next (s.setCore id { c with msgPath := path, flights := c.flights ++ [inFlight c k (.p p) 1 0] })) ∧
    exec (.chrecv d ch) s = .next (s.setCore id { c with flights := c.flights ++ [got], taken := took }) ∧
    exec (.chrecvTry p d ch) s = .next (s.setCore id (if 4 ≤ ms.length then
      { c with flights := c.flights ++ [inFlight c k (.p p) 1 1, { got with latch := false }], taken := took }
      else { c with flights := c.flights ++ [inFlight c k (.p p) 1 0] }))

/-- R293, R298, R283: sending four messages on a PATH 0 endpoint without TAGGED spends four allowances, and puts message i on the timed plane for the peer's
endpoint, visible i cycles after the 2 cycles and the hops; on a TAGGED endpoint they stay retained, each with its source over the low tag bits. -/
def Sys2Proof.Claims.SendingMessages : Prop :=
  ∀ (s : State) (id : Nat) (ch : Chan) (x pc pe : Nat),
    let e := (s.core id).endpoints[ch]
    let m (i : Nat) := x / 2 ^ (512 * i) % 2 ^ 512
    let t := s.sendVector id ch x
    e.path = 0 → e.peer = some (pc, pe) →
    ((t.core id).endpoints[ch]).sendAllow = e.sendAllow - 4 ∧ t.mem = s.mem ∧ t.pending = s.pending ∧
    (e.tagged = false → ((t.core id).endpoints[ch]).retained = e.retained ∧
      t.wires = s.wires ++ (List.range 4).map fun i => (s.clock + 2 + hops id pc + i, Instr.channelMessageArrival, EvArg.msg pc pe (m i))) ∧
    (e.tagged = true → ∃ ms, ((t.core id).endpoints[ch]).retained = e.retained ++ ms ∧ ms.length = 4 ∧
      ∀ i, i < 4 → ms.getD i 0 % 2 ^ 480 = m i % 2 ^ 480 ∧ ms.getD i 0 / 2 ^ 480 % 2 ^ 11 = id % 2 ^ 11 ∧ ms.getD i 0 / 2 ^ 491 % 2 ^ 21 = m i / 2 ^ 491 % 2 ^ 21)

/-- R299: while its bundle is considered, an alternation picks the first ready endpoint of its set after the pointer, or after the pick of an earlier slot, and none where none
is ready; at issue it answers the number of the endpoint picked so, and 16 for none, and the pointer moves there. -/
def Sys2Proof.Claims.Alternation : Prop :=
  ∀ (s : State) (id : Nat) (k : Slot), (s.core id).resumeCaps = [] → Unbound s id → ∀ (d : SReg) (b : SSrc),
    let c := s.core id
    let on (n : Nat) : Prop := ((c.ss b).toNat).testBit n = true ∧ s.altReady id n = true
    let start := ((c.looked.filterMap fun l => l.pick).getLast?).getD c.altPtr
    let picks (p : Option Nat) : Prop := (p = none ∧ ∀ m, m < 16 → ¬ on m) ∨ ∃ i, i < 16 ∧ p = some ((start + 1 + i) % 16) ∧ on ((start + 1 + i) % 16) ∧ ∀ j, j < i → ¬ on ((start + 1 + j) % 16)
    let seen := c.looked.find? fun l => l.slot == k
    (s.cur = .slot id k false → seen = none → ∀ i, i = Instr.chalt d b ∨ i = Instr.chaltTry d b →
      ∃ u l, exec i s = .next u ∧ u.mem = s.mem ∧ (u.core id).looked = c.looked ++ [l] ∧ l.slot = k ∧ picks l.pick) ∧
    (s.cur = .slot id k true → ∃ p, (∀ l, seen = some l → p = l.pick) ∧ (seen = none → picks p) ∧
      let t := s.setCore id { c with flights := c.flights ++ [inFlight c k (.s d) 1 (p.getD 16 % 2 ^ 64)], altPtr := p.getD c.altPtr }
      exec (.chalt d b) s = .next t ∧ exec (.chaltTry d b) s = .next t)

/-- R295 to R300: grants, bindings, seals and acknowledgements take effect at c + 1, and nothing lands. -/
def Sys2Proof.Claims.ChannelControl : Prop :=
  ∀ (s : State) (id : Nat) (k : Slot), Issuing s id k → Unbound s id → ∀ (ch : Chan) (x : SX) (p : Port) (b : SSrc),
    let c := s.core id
    let act (a : Act) : Out := .next (s.setCore id { c with acts := c.acts ++ [(c.ic + 1, c.ic, a)] })
    exec (.chgrant ch x) s = act (.grant ch (zxVal c x).toNat) ∧ exec (.chbind p ch) s = act (.bind p (.chan ch)) ∧
    exec (.chseal ch) s = act (.seal ch) ∧ exec (.chack ch b) s = act (.ack ch ((c.ss b).toNat % 2 ^ 32))

/-- R295 to R300: granting, binding, sealing and acknowledging, and receiving from whichever channel has a message. -/
def Obligations.ChannelControl : Prop := Claims.ChannelControl ∧ Claims.Alternation

/-- R295, Table 10.5: data operations on an endpoint of the wrong MODE are found to trap with CHANNEL, reason 1, and the grant that would pass 63 with
reason 2; an acknowledgement on an endpoint that is not TAGGED with reason 5, an empty alternation set with reason 4. R285: a send without room waits. -/
def Sys2Proof.Claims.ChannelTraps : Prop :=
  ∀ (s : State) (id : Nat) (k : Slot), s.cur = .slot id k false → (s.core id).resumeCaps = [] → ∀ (a : VSrc) (d : VReg) (r : SReg) (b : SSrc) (ch : Chan) (x : SX),
    let c := s.core id
    let e := c.endpoints[ch]
    let trap (n ch : Nat) : Nat × Nat × Nat := (4, 0x09, n + 16 * ch + 256 * k.val)
    let finds (i : Instr) (P : Looked → Prop) : Prop := ∃ l, (∃ u, exec i s = .next u ∧ u.mem = s.mem ∧ (u.core id).looked = c.looked ++ [l] ∧ (u.core id).flights = c.flights) ∧ l.slot = k ∧ P l
    (e.mode ≠ 1 → finds (.chsend a ch) fun l => trap 1 ch.val ∈ l.traps) ∧ (e.mode ≠ 2 → finds (.chrecv d ch) fun l => trap 1 ch.val ∈ l.traps) ∧
    (e.mode = 1 → (s.endpoint id ch).sendAllow < 4 → finds (.chsend a ch) fun l => l.traps = [] ∧ l.wait = some 4) ∧
    (e.mode = 2 → (c.msgsLeft ch).length < 4 → finds (.chrecv d ch) fun l => l.traps = [] ∧ l.wait = some 4) ∧
    (e.mode = 2 → 63 < e.grantOut + e.msgs.length + (zxVal c x).toNat → finds (.chgrant ch x) fun l => trap 2 ch.val ∈ l.traps) ∧
    (e.mode = 2 → e.tagged = false → finds (.chack ch b) fun l => trap 5 ch.val ∈ l.traps) ∧
    ((c.ss b).toNat % 2 ^ 16 = 0 → finds (.chalt r b) fun l => trap 4 0 ∈ l.traps)

/-- R283, R293 to R295, R298: receiving from and sending into a channel, and where that traps. -/
def Obligations.ChannelData : Prop := Claims.ChannelData ∧ Claims.SendingMessages ∧ Claims.ChannelTraps

/-! ### Landing, the write phase, and what an issue leaves -/

/-- R53, R57, R58: when a result with no error and no flags lands, its register takes the masked bits of the value, except that s0 and p0 stay; every other
register stays; and the slot's latch takes the value of its first destination, and only then. -/
def Sys2Proof.Claims.ResultsLand : Prop :=
  ∀ (c : Core) (id : Nat) (win : Bool) (f : Flight), f.pend = 0 → f.flags = 0 → f.push = false →
    let t := c.landOne id win f
    let put {n : Nat} (old : BitVec n) (b : Nat) : Bool := if f.mask.testBit b then f.value.testBit b else old.getLsbD b
    (∀ (q : SReg) b, b < 64 → (t.s[q]).getLsbD b = if f.dest = .s q ∧ q ≠ 0 then put (c.s[q]) b else (c.s[q]).getLsbD b) ∧
    (∀ q : Pred, t.p[q] = if f.dest = .p q ∧ q ≠ 0 ∧ f.mask.testBit 0 then decide (f.value % 2 = 1) else c.p[q]) ∧
    (∀ (q : VReg) b, b < 2048 → (t.v[q]).getLsbD b = if f.dest = .v q then put (c.v[q]) b else (c.v[q]).getLsbD b) ∧
    (∀ (q : DReg) b, b < 2048 → (t.d[q]).getLsbD b = if f.dest = .dir q then put (c.d[q]) b else (c.d[q]).getLsbD b) ∧
    (∀ (q : DReg) b, b < 16 → (t.n[q]).getLsbD b = if f.dest = .norm q then put (c.n[q]) b else (c.n[q]).getLsbD b) ∧
    (∀ (q : MReg) b, b < 128 → (t.m[q]).getLsbD b = if f.dest = .m q then put (c.m[q]) b else (c.m[q]).getLsbD b) ∧
    (∀ (q : WReg) b, b < 512 → (t.w[q]).getLsbD b = if f.dest = .w q then put (c.w[q]) b else (c.w[q]).getLsbD b) ∧
    (∀ b, b < 16 → t.sp.scalel.getLsbD b = if f.dest = .scalel then put c.sp.scalel b else c.sp.scalel.getLsbD b) ∧ t.sp = { c.sp with scalel := t.sp.scalel } ∧
    (f.latch = false → t.ls = c.ls ∧ t.lv0 = c.lv0 ∧ t.lv1 = c.lv1 ∧ t.lc0 = c.lc0 ∧ t.lc1 = c.lc1) ∧
    (f.latch = true → (f.slot = 0 → ∀ (q : SReg) b, b < 64 → f.dest = .s q → t.ls.getLsbD b = put (c.s[q]) b) ∧ (f.slot = 1 → ∀ q : VReg, f.dest = .v q → t.lv0 = t.v[q]) ∧
      (f.slot = 2 → ∀ q : VReg, f.dest = .v q → t.lv1 = t.v[q]) ∧ (f.slot = 4 → f.dest = .nowhere → t.lc0 = BitVec.ofNat 64 f.value) ∧
      (f.slot = 5 → f.dest = .nowhere → t.lc1 = BitVec.ofNat 64 f.value)) ∧
    t.tt = c.tt ∧ t.h = c.h ∧ t.pc = c.pc ∧ t.causes = c.causes

/-- R35, R36, R71, R262: a landing result's flags are accumulated in FPSTAT, and one enabled in FPCTL leaves cause 0x0B with the enabled flags and the slot, as does one whose
FPTRAP was deferred; a result that read an uncorrectable word or a mismatched line writes nothing, and leaves its cause with the address and the slot. -/
def Sys2Proof.Claims.FlagsAndErrorsLand : Prop :=
  ∀ (c : Core) (id : Nat) (win : Bool) (f : Flight),
    let t := c.landOne id win f
    let en : BitVec 8 := f.flags &&& BitVec.ofNat 8 (c.sp.fpctl.toNat / 256)
    (f.pend = 0 → f.push = false → t.sp.fpstat = c.sp.fpstat ||| f.flags ∧
      t.causes = c.causes ++ (if en = 0 then [] else [⟨0x0B, en.toNat + 256 * f.slot.val, true⟩])) ∧
    (f.pend ≠ 0 → f.pend ≠ 0x0B → t = { c with causes := c.causes ++ [⟨f.pend, f.addr % 2 ^ 20 + 2 ^ 24 * f.slot.val, true⟩] }) ∧
    (f.pend = 0x0B → f.push = false → t.sp.fpstat = c.sp.fpstat ||| f.flags ∧
      t.causes = c.causes ++ [⟨0x0B, (if en = 0 then f.flags else en).toNat + 256 * f.slot.val, true⟩])

/-- R35, R36, R53, R57, R58, R71, R262: a result lands, with its flags or its error. -/
def Obligations.ResultsLand : Prop := Claims.ResultsLand ∧ Claims.FlagsAndErrorsLand

/-- R61, R70, R80: what the write phase does. The bytes a store named read back, in this order, and every other byte of memory stays; CARM leaves its target, a
count of 0 and its generation, and drops the unreported copy faults of that arrival word; and the memory keeps its canonical form. -/
def Sys2Proof.Claims.StoresCommit : Prop :=
  ∀ (s : State) (id key : Nat), s.mem.wf = true →
    (∀ bs : List Byte, let t := s.doWrite id (.put (putBytes key bs))
      (∀ i (h : i < bs.length), t.mem.byte (key + i) = bs[i]) ∧ (∀ z, z < key ∨ key + bs.length ≤ z → t.mem.byte z = s.mem.byte z) ∧ t.mem.wf = true ∧ t.cores = s.cores) ∧
    (∀ target gen, let t := s.doWrite id (.carm key target gen)
      t.mem.read key 16 = target % 2 ^ 32 + 2 ^ 64 * (gen % 2 ^ 32) ∧ (∀ z, z < key ∨ key + 16 ≤ z → t.mem.byte z = s.mem.byte z) ∧ t.mem.wf = true ∧
      (t.core id).faults = (s.core id).faults.filter fun f => f.arrival ≠ some key)

/-- R61, R70, R80, R222: what the write phase does with stores, arrival words and atomics of the scratchpad. -/
def Obligations.StoresAndAtomicsCommit : Prop := Claims.StoresCommit ∧ Claims.ScratchpadAtomics

/-- R57, R61: for EVERY instruction in a slot, considered or issued, a next state holds the same bytes of memory, and every core the same registers, latches,
special registers, hoops, trees, pattern book and program counter: results, stores and unit effects come later. Of another core only the tiles forwarded to it change. -/
def Obligations.IssueLeavesRegisters : Prop :=
  ∀ (i : Instr) (s u : State) (id : Nat) (k : Slot) (b : Bool), s.cur = .slot id k b → exec i s = .next u →
    (∀ z, u.mem.byte z = s.mem.byte z) ∧ ∀ j,
      let c := s.core j
      let d := u.core j
      d.s = c.s ∧ d.v = c.v ∧ d.d = c.d ∧ d.n = c.n ∧ d.m = c.m ∧ d.p = c.p ∧ d.w = c.w ∧ d.h = c.h ∧ d.tt = c.tt ∧ d.sp = c.sp ∧ d.ls = c.ls ∧ d.lc0 = c.lc0 ∧
      d.lc1 = c.lc1 ∧ d.lv0 = c.lv0 ∧ d.lv1 = c.lv1 ∧ d.pc = c.pc ∧ d.book = c.book ∧ (j ≠ id → d = { c with forwards := d.forwards })

/-- R270: a slot with a capture record takes every operand from the record, whatever the registers, latches, ports and hoops hold: each reader of an operand, of an s, v, m, p, w or h
source, of the last of an s|imm form and of a directional source with its norm, gives the record's value of its position. -/
def Sys2Proof.Claims.CapturedOperands : Prop :=
  ∀ (v : View) (y : Capture), v.cap = some y → ∀ pos : Nat,
    let op := y.ops.getD pos 0
    (∀ x : SSrc, v.s pos x = BitVec.ofNat 64 op) ∧ (∀ x : VSSrc, v.vs pos x = BitVec.ofNat 64 op) ∧ (∀ x : VSrc, v.v pos x = BitVec.ofNat 2048 op) ∧
    (∀ x : MReg, v.m pos x = BitVec.ofNat 128 op) ∧ (∀ x : Pred, v.p pos x = decide (op % 2 = 1)) ∧ (∀ x : WReg, v.w pos x = BitVec.ofNat 512 op) ∧
    (∀ x : HReg, v.h pos x = Hoop.ofWord op) ∧ (∀ x : DReg, v.d pos x = (BitVec.ofNat 2048 op, y.norms.getD pos 0 % 65536)) ∧
    (∀ x : SSrc, v.x pos (.reg x) = BitVec.ofNat 64 op ∧ v.xz pos (.reg x) = BitVec.ofNat 64 op) ∧ ∀ i, v.x pos (.imm i) = i.signExtend 64 ∧ v.xz pos (.imm i) = i.zeroExtend 64

/-- R270: so a resumed operation of each operand kind issues with the record's values and pops nothing, be its sources registers, latches or bound ports: ADD and MUL (s and latches), VAND (v, or a unit
popped before the boundary), VPOPM (m), PNOT (p), DNORM (the norm of d), CFILL (w, s) and MPOP (h). Nothing else of the state changes. -/
def Sys2Proof.Claims.CapturedIssue : Prop :=
  ∀ (s : State) (id : Nat) (k : Slot) (y : Capture), s.cur = .slot id k true → (s.core id).resumeCaps = [(k.val, y)] →
    ∀ (d : SReg) (b c : SSrc) (vd : VReg) (vb vc : VSrc) (m : MReg) (p q : Pred) (dr : DReg) (w : WReg) (h : HReg) (n : BitVec 7),
    let co := s.core id
    let op (n : Nat) := y.ops.getD n 0
    let sop (n : Nat) := BitVec.ofNat 64 (op n)
    let hoop := Hoop.ofWord (op 0)
    let dst := BitVec.ofNat 512 (op 0)
    exec (.add d b c) s = .next (fly s id k (.s d) 1 (sop 1 + sop 2).toNat) ∧ exec (.mul d b (.reg c)) s = .next (fly s id k (.s d) 3 (sop 1 * sop 2).toNat) ∧
    (vd.val < 28 → exec (.vand .b32 vd vb vc none) s = .next (fly s id k (.v vd) 2 (BitVec.ofNat 2048 (op 1) &&& BitVec.ofNat 2048 (op 2)).toNat)) ∧
    exec (.vpopm d m) s = .next (fly s id k (.s d) 2 ((List.range 128).filter fun i => (op 1).testBit i).length) ∧
    exec (.pnot p q) s = .next (fly s id k (.p p) 1 (decide (op 1 % 2 = 0)).toNat) ∧
    exec (.dnorm d dr) s = .next (fly s id k (.s d) 1 (y.norms.getD 1 0 % 65536)) ∧
    Claims.Queues s id k (.cfill (sop 1).toNat) dst 0 (some (spadKey (if fieldOf (dst.setWidth 64) 48 4 = 1 then walkCore dst else id) (sop 2).toNat))
      (dataCode (.cfill (sop 1).toNat) dst 0 co.sp.handler false) co.fences (exec (.cfill w b (.reg c)) s) ∧
    (hoop.valid = true → n.toNat ≤ hoop.fill → n.toNat ≤ hoop.count + 1 → exec (.mpop h n) s = .next (s.setCore id { co with
      flights := co.flights ++ [matrixEnd co 1 (0, 0) 0], acts := co.acts ++ [(co.ic + 1, co.ic, .pop h n.toNat)], matrix := some ⟨co.ic + 1, [], [h.val]⟩ }))

/-- R87, R270: a slot with a capture record takes its predicate from the record too: it issues when the captured predicate is true and not when that is false, whatever the predicate register holds. -/
def Sys2Proof.Claims.CapturedPredicates : Prop :=
  ∀ (c : Core) (id : Nat) (k : Slot) (y : Capture) (r : RawSlot) (i : Instr) (issue : Bool), c.resumeCaps = [(k.val, y)] → (k, r) ∈ c.slotsDue → slotInstr (k, r) = .ok i →
    (Item.slot id k issue r ∈ c.slotItems id true issue ↔ y.pred = true) ∧ (Item.slot id k issue r ∈ c.slotItems id false issue ↔ y.pred = false)

/-- R274: a write of XSTAT in the handler starts the context engine, bit 32 a save and else bit 33 a load, but for one that runs; elsewhere it starts nothing. -/
def Sys2Proof.Claims.ContextStarts : Prop :=
  ∀ (s : State) (id : Nat) (k : Slot), Issuing s id k → Unbound s id → ∀ b : SSrc,
    let c := s.core id
    let x := c.ss b
    let c' := { c with acts := c.acts ++ [(c.ic + 1, c.ic, .special .xstat x)] }
    exec (.movts .xstat b) s = .next (
      if c.sp.handler ∧ c.ctxBusy = none ∧ x.getLsbD 32 then (s.setCore id { c' with ctxBusy := some .save }).post .csave (.core id)
      else if c.sp.handler ∧ c.ctxBusy = none ∧ x.getLsbD 33 then (s.setCore id { c' with ctxBusy := some .load }).post .cload (.core id)
      else s.setCore id c')

/-- R87, R270, R274: captured operands and predicates, and the start of the context engine. -/
def Obligations.CapturesAndContexts : Prop := Claims.CapturedOperands ∧ Claims.CapturedIssue ∧ Claims.CapturedPredicates ∧ Claims.ContextStarts

/-! ### Tinkers -/

namespace Sys2Proof.Claims
/-- The barrel has chosen thread `t` of core `id` for a vacancy. -/
def Chosen (s : State) (id : Nat) (t : Fin 64) : Prop := ∃ z, s.cur = .tinker id t.val z
/-- A register of a thread's window, as its operation reads it in this clock cycle (R231). -/
def treg (s : State) (id : Nat) (t : Fin 64) (pos : Nat) (x : TOp) : Word :=
  (s.core id).tread t (((s.core id).threads[t]).base + x.toNat) s.clock (readSalt s.clock id t.val pos)
/-- What a tinker operation leaves: results with their latencies, the registers a later completion writes, the cycles after which it is complete if that is
fixed, its lookahead if it is marked L, what it waits for, and where the thread goes on. -/
structure Effect where
  lands : List (TOp × Nat × Word) := []
  dests : List TOp := []
  done : Option Nat := some 1
  la : Option Nat := none
  kind : Option TWaitKind := none
  pc : Option Nat := none
/-- The operation answers a next state in which the thread goes on at its next word, with the operation incomplete until its results land. No byte of memory and
no other core changes; `f` says what else changes of its own core. -/
def TinkDoes (s : State) (id : Nat) (t : Fin 64) (e : Effect) (f : Core → Core) (out : Out) : Prop :=
  let c := s.core id
  let h := c.threads[t]
  ∃ u p, out = .next u ∧ (∀ z, u.mem.byte z = s.mem.byte z) ∧ (∀ j, j ≠ id → u.core j = s.core j) ∧
    (p : TPending).seq = h.seq ∧ p.l = e.la.isSome ∧ p.la = e.la.getD 0 ∧ p.dests = e.lands.map (fun l => l.1.toNat) ++ e.dests.map (·.toNat) ∧
    p.due = e.done.map (s.clock + ·) ∧ p.kind = e.kind ∧ p.pc = h.pc ∧ p.base = h.base ∧ p.orphan = false ∧
    (let h' := { h with seq := h.seq + 1, pend := h.pend ++ [p], pc := (e.pc.getD (h.pc + h.opBytes)) % 2 ^ 48, fetched := none }
     let fl := e.lands.map fun l => (⟨h.base + l.1.toNat, l.2.2, s.clock + l.2.1, t.val, p.order⟩ : TFlight)
     u.core id = f { c with threads := c.threads.set t h', tflights := c.tflights ++ fl })
/-- One result and nothing else. -/
def TinkGives (s : State) (id : Nat) (t : Fin 64) (a : TOp) (lat : Nat) (la : Option Nat) (x : Word) (out : Out) : Prop :=
  TinkDoes s id t { lands := [(a, lat, x)], done := some lat, la } (fun c => c) out
end Sys2Proof.Claims

/-- R237, R113, R114: the integer operations on two registers, at latency 1, products 3, divisions 18. -/
def Sys2Proof.Claims.TinkerIntegers : Prop :=
  ∀ (s : State) (id : Nat) (t : Fin 64), Chosen s id t → ∀ (a b c d : TOp) (la : BitVec 4) (cc : ICond),
    let p := treg s id t 1 b
    let q := treg s id t 2 c
    let l := some la.toNat
    let gives := TinkGives s id t a
    gives 1 none (p + q) (exec (.tAdd a b c) s) ∧ gives 1 none (p - q) (exec (.tSub a b c) s) ∧ gives 3 l (p * q) (exec (.tMul la a b c) s) ∧
    gives 3 l (BitVec.ofInt 64 (p.toInt * q.toInt / 2 ^ 64)) (exec (.tMulh la a b c) s) ∧ gives 3 l (BitVec.ofNat 64 (p.toNat * q.toNat / 2 ^ 64)) (exec (.tMulhW la a b c) s) ∧
    gives 18 l (if q = 0 then BitVec.allOnes 64 else p.sdiv q) (exec (.tDiv la a b c) s) ∧ gives 18 l (if q = 0 then BitVec.allOnes 64 else p / q) (exec (.tDivW la a b c) s) ∧
    gives 18 l (if q = 0 then p else p.srem q) (exec (.tRem la a b c) s) ∧ gives 18 l (if q = 0 then p else p % q) (exec (.tRemW la a b c) s) ∧
    gives 1 none (p &&& q) (exec (.tAnd a b c) s) ∧ gives 1 none (p ||| q) (exec (.tOr a b c) s) ∧ gives 1 none (p ^^^ q) (exec (.tXor a b c) s) ∧
    gives 1 none (p &&& ~~~q) (exec (.tAndn a b c) s) ∧ gives 1 none (p <<< count6 q) (exec (.tShl a b c) s) ∧ gives 1 none (p >>> count6 q) (exec (.tShr a b c) s) ∧
    gives 1 none (p.sshiftRight (count6 q)) (exec (.tSar a b c) s) ∧ gives 1 none (p.rotateRight (count6 q)) (exec (.tRot a b c) s) ∧
    gives 1 none (if p.sle q then p else q) (exec (.tMin a b c) s) ∧ gives 1 none (if p.ule q then p else q) (exec (.tMinW a b c) s) ∧
    gives 1 none (if p.sle q then q else p) (exec (.tMax a b c) s) ∧ gives 1 none (if p.ule q then q else p) (exec (.tMaxW a b c) s) ∧
    gives 1 none (BitVec.ofNat 64 (leadingZeros p)) (exec (.tClz a b) s) ∧ gives 1 none (BitVec.ofNat 64 (ones p)) (exec (.tPopc a b) s) ∧
    gives 1 none (if treg s id t 3 d = 0 then q else p) (exec (.tSel a b c d) s) ∧ gives 1 none (if condWord cc p q then 1 else 0) (exec (.tCmp cc a b c) s)

/-- R237: the same operations with an immediate, extended with its sign, or with zeros where the operation is unsigned; and the bit-field operations. -/
def Sys2Proof.Claims.TinkerImmediates : Prop :=
  ∀ (s : State) (id : Nat) (t : Fin 64), Chosen s id t → ∀ (a b : TOp) (la : BitVec 4) (cc : ICond) (imm : BitVec 32) (g : BitField),
    let p := treg s id t 1 b
    let q : Word := imm.signExtend 64
    let z : Word := imm.zeroExtend 64
    let l := some la.toNat
    let n := g.wm1.val + 1
    let m := BitVec.ofNat 64 ((2 ^ n - 1) * 2 ^ g.pos.val)
    let gives := TinkGives s id t a
    gives 1 none (p - q) (exec (.tSubImm a b imm) s) ∧ gives 1 none (p + q) (exec (.tAddi a b imm) s) ∧ gives 3 l (p * q) (exec (.tMulImm la a b imm) s) ∧
    gives 3 l (BitVec.ofInt 64 (p.toInt * q.toInt / 2 ^ 64)) (exec (.tMulhImm la a b imm) s) ∧ gives 3 l (BitVec.ofNat 64 (p.toNat * z.toNat / 2 ^ 64)) (exec (.tMulhWImm la a b imm) s) ∧
    gives 18 l (if q = 0 then BitVec.allOnes 64 else p.sdiv q) (exec (.tDivImm la a b imm) s) ∧
    gives 18 l (if z = 0 then BitVec.allOnes 64 else p / z) (exec (.tDivWImm la a b imm) s) ∧
    gives 18 l (if q = 0 then p else p.srem q) (exec (.tRemImm la a b imm) s) ∧ gives 18 l (if z = 0 then p else p % z) (exec (.tRemWImm la a b imm) s) ∧
    gives 1 none (p &&& q) (exec (.tAndImm a b imm) s) ∧ gives 1 none (p ||| q) (exec (.tOrImm a b imm) s) ∧ gives 1 none (p ^^^ q) (exec (.tXorImm a b imm) s) ∧
    gives 1 none (p &&& ~~~q) (exec (.tAndnImm a b imm) s) ∧ gives 1 none (p <<< count6 q) (exec (.tShlImm a b imm) s) ∧ gives 1 none (p >>> count6 q) (exec (.tShrImm a b imm) s) ∧
    gives 1 none (p.sshiftRight (count6 q)) (exec (.tSarImm a b imm) s) ∧ gives 1 none (p.rotateRight (count6 q)) (exec (.tRotImm a b imm) s) ∧
    gives 1 none (if p.sle q then p else q) (exec (.tMinImm a b imm) s) ∧ gives 1 none (if p.ule z then p else z) (exec (.tMinWImm a b imm) s) ∧
    gives 1 none (if p.sle q then q else p) (exec (.tMaxImm a b imm) s) ∧ gives 1 none (if p.ule z then z else p) (exec (.tMaxWImm a b imm) s) ∧
    gives 1 none q (exec (.tLi a imm) s) ∧
    gives 1 none (if g.sx ∧ fieldOf p g.pos.val n / 2 ^ g.wm1.val % 2 = 1 then BitVec.ofInt 64 ((fieldOf p g.pos.val n : Int) - 2 ^ n)
      else BitVec.ofNat 64 (fieldOf p g.pos.val n)) (exec (.tBfx a b g) s) ∧
    gives 1 none ((treg s id t 0 a &&& ~~~m) ||| ((p <<< g.pos.val) &&& m)) (exec (.tBfi a b g) s) ∧
    gives 1 none (if condWord cc p (if condUnsigned cc then z else q) then 1 else 0) (exec (.tCmpImm cc a b imm) s)

/-- R113, R114, R237: the integer operations of a tinker, with registers and with immediates. -/
def Obligations.TinkerIntegers : Prop := Claims.TinkerIntegers ∧ Claims.TinkerImmediates

/-- R246 to R248: TBR's five forms; TWAIT counts down and answers the new count; TSIG signals at the end of the cycle; TCMPX answers whether it exchanged, and
its two registers in order; TEXIT without a flag word, TREL, TFENCE, SPAWN, JOIN and STEAL stay incomplete until their work is done. -/
def Obligations.TinkerControl : Prop :=
  ∀ (s : State) (id : Nat) (t : Fin 64), Chosen s id t → ∀ (a b c : TOp) (la : BitVec 4) (off : BitVec 32) (sc : Scope),
    let h := (s.core id).threads[t]
    let rel := wrapNat 48 ((h.pc : Int) + off.toInt)
    let does := TinkDoes s id t
    let x := treg s id t 0 a
    let y := treg s id t 1 b
    let z := treg s id t 2 c
    let same : Core → Core := fun k => k
    does { pc := if x ≠ 0 then some rel else none } same (exec (.tbr (.nz a off)) s) ∧ does { pc := if x = 0 then some rel else none } same (exec (.tbr (.z a off)) s) ∧
    does { pc := some rel } same (exec (.tbr (.al off)) s) ∧
    does { pc := some rel, lands := [(a, 1, BitVec.ofNat 64 ((h.pc + 8) % 2 ^ 48))] } same (exec (.tbr (.link a off)) s) ∧
    (wrapNat 48 ((x.toNat : Int) + off.toInt) % 4 = 0 → does { pc := some (wrapNat 48 ((x.toNat : Int) + off.toInt)) } same (exec (.tbr (.ind a off)) s)) ∧
    (∃ f, does { lands := [(a, 1, BitVec.ofNat 64 (h.count - 1))] } f (exec (.twait a) s) ∧ ∀ k : Core, ((f k).threads[t]).count = (k.threads[t]).count - 1) ∧
    does {} (fun k => { k with signals := k.signals ++ [Fin.ofNat 64 x.toNat] }) (exec (.tsig a) s) ∧
    (b ≠ c → does { lands := (a, 2, if z.slt y then 1 else 0) :: (if z.slt y then [(b, 2, z), (c, 2, y)] else [(b, 2, y), (c, 2, z)]), done := some 2, la := some la.toNat }
      same (exec (.tcmpx la a b c) s)) ∧
    (b = c → does { lands := [(a, 2, 0), (b, 2, y)], done := some 2, la := some la.toNat } same (exec (.tcmpx la a b c) s)) ∧
    (x = 0 → does { done := none, kind := some (.release true none .core false) } same (exec (.texit a) s)) ∧
    (x ≠ 0 → (s.core id).badRange x.toNat 8 = false → x.toNat % 8 = 0 → does { done := none, kind := some (.release true (some x.toNat) .core false) } same (exec (.texit a) s)) ∧
    ((s.core id).badRange x.toNat 8 = false → x.toNat % 8 = 0 → does { done := none, kind := some (.release false (some x.toNat) sc false) } same (exec (.trel a sc) s)) ∧
    does { done := none, kind := some .fence } same (exec (.tfence sc) s) ∧
    (x.toNat % 64 = 0 → y.toNat % 4 = 0 → x.toNat < 2 ^ 48 → does { done := none, kind := some (.spawn x.toNat (y.toNat % 2 ^ 48) 0 0 0 0) } same (exec (.spawn a b) s)) ∧
    (x.toNat % 64 = 0 → x.toNat < 2 ^ 48 → does { dests := [b], done := none, kind := some (.join x.toNat b 0 0 0 0) } same (exec (.join a b) s)) ∧
    does { dests := [a], done := none, la := some la.toNat, kind := some (.steal a (y.toNat % 4)) } same (exec (.steal la a b) s)

/-- R240, R245: a scratchpad load lands after 6 cycles; a store and an atomic are written in their own cycle; TACQ loads its flag word and drops the clean lines; a
channel send gives its line to the endpoint as one message. All for an access in range, aligned and free of errors. -/
def Sys2Proof.Claims.TinkerScratchpad : Prop :=
  ∀ (s : State) (id : Nat) (t : Fin 64), Chosen s id t → ∀ (a b c : TOp) (la : BitVec 4) (imm : BitVec 32) (ty : LdTy) (w : StW) (xa : AtX) (sc : Scope) (ch : Chan),
    let k := s.core id
    let does := TinkDoes s id t
    let x := treg s id t 0 a
    let y := treg s id t 1 b
    let ea := (y.toNat + (treg s id t 2 c).toNat) % 2 ^ 64
    let ei := (y.toNat + (imm.signExtend 64).toNat) % 2 ^ 64
    let ok (p n : Nat) : Prop := k.badRange p n = false ∧ p % n = 0 ∧ Readable s id p n
    let load (p : Nat) : Effect := { lands := [(a, 6, extendLd ty (s.mem.read (spadKey id p) (ldBytes ty)))], done := some 6, la := some la.toNat }
    let store (p : Nat) (bs : List Byte) : Core → Core := fun r => { r with twrites := r.twrites ++ [.put (putBytes (spadKey id p) bs)] }
    let n := stwBytes w
    let na := nibbleAddr y imm.toInt
    let m := stwBytes xa.width
    let old := s.mem.read (spadKey id y.toNat) m
    (ok ea (ldBytes ty) → does (load ea) (fun r => r) (exec (.tldSp la ty a b c) s)) ∧ (ok ei (ldBytes ty) → does (load ei) (fun r => r) (exec (.tldSpImm la ty a b imm) s)) ∧
    (k.badRange ea n = false → ea % n = 0 → does {} (store ea (bytesOf n x.toNat)) (exec (.tstSp w a b c) s)) ∧
    (k.badRange ei n = false → ei % n = 0 → does {} (store ei (bytesOf n x.toNat)) (exec (.tstSpImm w a b imm) s)) ∧
    (k.badRange (na / 2) 1 = false → does {} (fun r => { r with twrites := r.twrites ++ [.put [(spadKey id (na / 2), BitVec.ofNat 8 (x.toNat % 16 * 16 ^ (na % 2)), if na % 2 = 0 then 0x0F else 0xF0)]] })
      (exec (.tstSpN4 a b imm) s)) ∧
    (ok y.toNat m → does { lands := if xa.ret then [(a, 6, BitVec.ofNat 64 old)] else [], done := some (if xa.ret then 6 else 1), la := if xa.ret then some la.toNat else none }
      (store y.toNat (bytesOf m (atomicNew xa old (treg s id t 2 c).toNat x.toNat).1)) (exec (.tSat la a b c xa) s)) ∧
    (ok x.toNat 8 → does { lands := [(a, 6, BitVec.ofNat 64 (s.mem.read (spadKey id x.toNat) 8))], done := some 6, la := some la.toNat }
      (fun r => { r with cache := r.cache.filter fun l => l.dirty ≠ 0 }) (exec (.tacq la a sc) s)) ∧
    (ok x.toNat 64 → (k.endpoints[ch]).mode = 1 → ∃ u v, exec (.tChsend a ch) s = .next u ∧ u = v.sendMsgs id ch [s.mem.read (spadKey id x.toNat) 64] ∧
      TinkDoes s id t {} (fun r => r) (.next v))

/-- R241, R242, R244: a device load that hits lands after 8 cycles, and a store that hits changes and marks its bytes of the line; on a miss, or on a line whose page does not
permit the access, either waits for its line, which is asked for; TCACHE and TCATOM wait for their work. All for an aligned address below 2^48 and a line with its check value. That a line whose page does not permit the access
makes it wait and be asked for again is log 42. -/
def Sys2Proof.Claims.TinkerDeviceMemory : Prop :=
  ∀ (s : State) (id : Nat) (t : Fin 64), Chosen s id t → ∀ (a b c : TOp) (la : BitVec 4) (imm : BitVec 32) (ty : LdTy) (w : StW) (xa : XA) (op : CacheOp),
    let k := s.core id
    let does := TinkDoes s id t
    let x := treg s id t 0 a
    let y := treg s id t 1 b
    let same : Core → Core := fun r => r
    let asks (va : Nat) (out : Out) : Prop := ∀ u, out = .next u → (.tinkerCacheFill, .line id (va / 64 * 64)) ∈ u.pending
    let loads (va : Nat) (out : Out) : Prop := va < 2 ^ 48 → va % ldBytes ty = 0 →
      (∀ l, k.cache.find? (fun e => e.line == va / 64 * 64) = some l → l.rd = true → l.cv = 0 →
        does { lands := [(a, 8, extendLd ty (l.data / 2 ^ (8 * (va % 64)) % 2 ^ (8 * ldBytes ty)))], done := some 8, la := some la.toNat } same out) ∧
      ((∀ l, k.cache.find? (fun e => e.line == va / 64 * 64) = some l → l.rd = false) → asks va out ∧ does { dests := [a], done := none, la := some la.toNat, kind := some (.load ty a va) } same out)
    let stores (va : Nat) (out : Out) : Prop := va < 2 ^ 48 → va % stwBytes w = 0 →
      (∀ l, k.cache.find? (fun e => e.line == va / 64 * 64) = some l → l.wr = true → ∃ f l', does {} f out ∧ (∀ r : Core, f r = { r with cache := r.cache.map fun e => if e.line = l.line then l' else e }) ∧
        l'.line = l.line ∧ (∀ i, i < stwBytes w → l'.dirty.testBit (va % 64 + i) = true ∧ l'.data / 2 ^ (8 * (va % 64 + i)) % 256 = x.toNat / 2 ^ (8 * i) % 256) ∧
        ∀ j, j < va % 64 ∨ va % 64 + stwBytes w ≤ j → l'.dirty.testBit j = l.dirty.testBit j ∧ l'.data / 2 ^ (8 * j) % 256 = l.data / 2 ^ (8 * j) % 256) ∧
      ((∀ l, k.cache.find? (fun e => e.line == va / 64 * 64) = some l → l.wr = false) → asks va out ∧ does { done := none, kind := some (.store (stwBytes w) va x.toNat) } same out)
    let ea := (y.toNat + (treg s id t 2 c).toNat) % 2 ^ 64
    let ei := (y.toNat + (imm.signExtend 64).toNat) % 2 ^ 64
    let wait : TWaitKind := .atomic xa.at_ a y.toNat (treg s id t 2 c).toNat x.toNat
    let catom : Effect := { dests := if xa.at_.ret then [a] else [], done := none, la := if xa.at_.ret then some la.toNat else none, kind := some wait }
    loads ea (exec (.tld la ty a b c) s) ∧ loads ei (exec (.tldImm la ty a b imm) s) ∧ stores ea (exec (.tst w a b c) s) ∧ stores ei (exec (.tstImm w a b imm) s) ∧
    (op.val < 3 ∨ x.toNat < 2 ^ 48 → does { done := none, kind := some (.cache op (x.toNat / 64 * 64)) } same (exec (.tcache a op) s)) ∧
    (y.toNat < 2 ^ 48 → y.toNat % stwBytes xa.at_.width = 0 → does catom same (exec (.tCatom la a b c xa) s))

/-- R240 to R245: loads, stores and ordering of a tinker, in the scratchpad and in device memory. -/
def Obligations.TinkerMemory : Prop := Claims.TinkerScratchpad ∧ Claims.TinkerDeviceMemory

/-- R231, R232, R247, R249: tinker results and signals at the end of the clock cycle in which they are due: the last issued of several results due on one entry stands, and a
living thread's count rises to at most 255; and a thread whose access leaves the scratchpad, is misaligned, or lies at 2^48 or above parks at its word with code 2, 3 or 4. -/
def Obligations.TinkerLandingAndParking : Prop :=
  (∀ (s : State) (id : Nat), swf 0 (s.core id).trf = true → (s.core id).twrites = [] → ∀ e,
    let c := s.core id
    let u := (s.endTinkers id).core id
    sget 0 u.trf e = (((c.tflights.filter fun f => f.entry == e && decide (f.due ≤ s.clock)).getLast?.map (·.value)).getD (sget 0 c.trf e)) ∧
    u.tflights = c.tflights.filter (fun f => decide (s.clock < f.due)) ∧ u.signals = [] ∧
    (∀ t, c.signals = [t] → (c.threads[t]).status ≠ .dead → (u.threads[t]).count = min 255 ((c.threads[t]).count + 1))) ∧
  ∀ (s : State) (id : Nat) (t : Fin 64), Chosen s id t → ∀ (a b : TOp) (la : BitVec 4) (imm : BitVec 32) (ty : LdTy) (w : StW),
    let k := s.core id
    let h := k.threads[t]
    let ei := ((treg s id t 1 b).toNat + (imm.signExtend 64).toNat) % 2 ^ 64
    let parks (code addr : Nat) (out : Out) : Prop :=
      ∃ u, out = .next u ∧ u.mem = s.mem ∧ u.core id = { k with threads := k.threads.set t { h with status := .parked code 0 (addr % 2 ^ 48) false, fetched := none } }
    -- code 4 is a translation fault of reason 4, which the core's station records (R314, R316)
    let beyond (out : Out) : Prop := ∃ u, out = .next u ∧ u.mem = s.mem ∧ u.core id = { k with threads := k.threads.set t { h with status := .parked 4 0 (ei % 2 ^ 48) false, fetched := none } } ∧
      (u.station (nodeOf id)).written = ((s.station (nodeOf id)).written + 1) % 2 ^ 32
    h.status ≠ .dead →
    (k.badRange ei (ldBytes ty) = true → parks 2 ei (exec (.tldSpImm la ty a b imm) s)) ∧
    (k.badRange ei (stwBytes w) = false → ei % stwBytes w ≠ 0 → parks 3 ei (exec (.tstSpImm w a b imm) s)) ∧
    (2 ^ 48 ≤ ei → beyond (exec (.tldImm la ty a b imm) s) ∧ beyond (exec (.tstImm w a b imm) s)) ∧
    ((treg s id t 0 a).toNat % 64 ≠ 0 → parks 9 (treg s id t 0 a).toNat (exec (.spawn a b) s) ∧ parks 9 (treg s id t 0 a).toNat (exec (.join a b) s))

/-! ### Events of a core -/

namespace Sys2Proof.Claims
/-- An event runs, with what it happens at. -/
abbrev At (s : State) (a : EvArg) : Prop := s.cur = .event a
/-- The state of one core after an event that answers a next state. -/
def leadsTo (i : Instr) (s : State) (P : State → Prop) : Prop := ∃ u, exec i s = .next u ∧ P u
/-- Nothing of the module but one core, and what waits, changes. -/
def onlyCore (s u : State) (id : Nat) : Prop := (∀ j, j ≠ id → u.core j = s.core j) ∧ u.mem = s.mem ∧ u.clock = s.clock ∧ u.launches = s.launches
end Sys2Proof.Claims

/-- R52, R57, R63, R282: a cycle of the main clock advances the clock; what travelled on the timed plane and is due now waits and runs first; then, for each launch that runs with no
core in its handler, the results due land on its cores, its running cores consider their bundles, unless one of them is frozen, and the launch decides. With the power off nothing changes. -/
def Obligations.ClockCycle : Prop :=
  ∀ s : State, At s .unit →
    (s.power = false → exec .mainClockCycle s = .next s) ∧
    (s.power = true → (∀ l ∈ s.launches, s.handlerCores l = []) → leadsTo .mainClockCycle s fun u =>
      let due := s.wires.filter fun w => decide (w.1 ≤ s.clock + 1)
      let goes (l : Launch) := l.started && (l.phase == .running || l.phase == .preempting || l.phase == .retiring)
      u.clock = s.clock + 1 ∧ u.wires = s.wires.filter (fun w => decide (s.clock + 1 < w.1)) ∧ u.pending = s.pending ++ due.map (·.2) ∧ u.cores = s.cores ∧ u.mem = s.mem ∧
      u.agenda = due.map (fun w => Item.event w.2.1 w.2.2) ++
        (s.launches.filter goes).flatMap (fun l => l.cores.map (fun c => Item.sys (.land c)) ++
          (if s.domainFrozen l then [] else (l.cores.filter fun c => (s.core c).run == .running).map fun c => Item.sys (.consider c)) ++
          [Item.sys (.decide l.id)]) ++ s.agenda)

/-- R264, R266, R277: the handler is entered once no release of the core's primary waits; memory and unit effects already issued are then complete. XCAUSE, XVALUE and XPC take the cause, its value
and the bundle's address; XSTAT keeps EAGERCF and takes MORE, PREEN, the folded bundles owed and the captures; HANDLER is 1; fetch goes to SVPAD.ENTRY; what is outstanding is held. The
architected registers stay as the effects left them. While a release waits, those effects complete and the handler is not entered. A core that has frozen holds its whole state and enters no
handler (R277). -/
def Sys2Proof.Claims.HandlerEntry : Prop :=
  ∀ (s : State) (id : Nat) (t : Trap) (e : Entry) (l : Launch), At s (.trap id t) → (s.core id).entry = some e → s.launchOf id = some l → l.ownHandler = true →
    (isFrozen (s.core id).run = true → exec .trapEntry s = .next s) ∧
    (isFrozen (s.core id).run = false → (s.core id).releases.any (fun r => r.thread.isNone) = true → exec .trapEntry s = .next (s.drainHeld id)) ∧
    (isFrozen (s.core id).run = false → (s.core id).releases.any (fun r => r.thread.isNone) = false → leadsTo .trapEntry s fun u =>
      let c := (s.drainCore id).core id
      let k := u.core id
      k.sp.xcause.toNat = (e.cause.code + 2 ^ 8 * e.cause.land.toNat) % 2 ^ 64 ∧ k.sp.xvalue.toNat = e.cause.value % 2 ^ 64 ∧ k.sp.xpc.toNat = c.pc % 2 ^ 64 ∧
      k.sp.handler = true ∧ k.pc = c.sp.svpad.toNat ∧ k.owed = 0 ∧
      k.sp.xstat.toNat % 2 = c.sp.xstat.toNat % 2 ∧ k.sp.xstat.toNat / 2 % 2 = e.more.toNat ∧ k.sp.xstat.toNat / 4 % 2 = c.sp.preen.toNat ∧
      (c.owed < 64 → k.sp.xstat.toNat / 2 ^ 8 % 2 ^ 6 = c.owed) ∧
      k.saved = some { at_ := c.ic, pc := c.pc, owed := c.owed, transfers := c.transfers, loops := c.loops, replay := c.flights.filter (fun f => decide (c.ic ≤ f.due)), matrix := c.matBusy, msgPath := (s.core id).msgPath.filter fun m => decide (c.ic ≤ m) } ∧
      k.flights = [] ∧ k.entry = none ∧ k.s = c.s ∧ k.v = c.v ∧ k.d = c.d ∧ k.m = c.m ∧ k.p = c.p ∧ k.w = c.w ∧ k.h = c.h ∧ k.ls = c.ls ∧ k.lv0 = c.lv0 ∧
      k.sp.fpstat = c.sp.fpstat ∧ k.sp.fpctl = c.sp.fpctl ∧ ∀ j, j ≠ id → u.core j = (s.drainCore id).core j)

/-- R270: the return goes to XPC, out of the handler, with the folded bundles that XSTAT.OWED names; where XSTAT says that no frame was written, the results held land, and the
transfers, loops and matrix beats go on, as they stood at the boundary. The reservations of the message path go on with those of the handler's last bundles (R283). The fields of XSTAT stay. -/
def Sys2Proof.Claims.HandlerReturn : Prop :=
  ∀ (s : State) (id : Nat) (sv : Saved),
    let c := (s.drainCore id).core id
    let u := (s.resumeCore id).core id
    c.saved = some sv →
    u.pc = c.sp.xpc.toNat % 2 ^ 17 ∧ u.sp.handler = false ∧ u.owed = c.sp.xstat.toNat / 2 ^ 8 % 2 ^ 6 ∧ u.saved = none ∧ u.eretPending = false ∧ u.s = c.s ∧ u.v = c.v ∧
    u.sp.fpstat = c.sp.fpstat ∧ u.sp.xstat = c.sp.xstat &&& 0x8_003F_3F07 ∧ u.msgPath = (s.core id).pathAfter sv ∧
    (c.sp.xstat.getLsbD 2 = false → u.ic = sv.at_ ∧ u.flights = sv.replay ∧ u.transfers = sv.transfers ∧ u.loops = sv.loops ∧ u.matrix = sv.matrix)

/-- R264, R266, R270: entering the resident handler, and returning from it. -/
def Obligations.HandlerEntryAndReturn : Prop := Claims.HandlerEntry ∧ Claims.HandlerReturn

/-- R271, R273, R274, R275, R323: WATCHDOG and PREEMPT leave causes 0x13 and 0x0D at every core of their launch, PREEMPT once its porter runs have ended. CSAVE waits until nothing of the core is on its way, then
writes the image, accumulators and registers among it, into the buffer XVALUE names, empties the tinker cache and is done; CLOAD with a good image brings the saved registers back, else it is
rejected; and when the context engine is done with a load, XSTAT's error bit says whether it was rejected; a save leaves that bit. -/
def Obligations.SupervisorEvents : Prop :=
  (∀ (s : State) (l : Launch), At s (.launch l.id) → s.launches.find? (fun k => k.id == l.id) = some l →
    leadsTo .watchdog s (fun u => u.mem = s.mem ∧ (∀ c ∈ l.cores, (s.core c).run = .running → ∃ w, ⟨0x13, w, false⟩ ∈ (u.core c).causes) ∧ ∀ c, c ∉ l.cores → u.core c = s.core c) ∧
    (l.phase = .running → l.started = true → (∀ c ∈ l.cores, (s.core c).run = .running) → s.runsOf l.ctag = true → exec .preempt s = .next s) ∧
    (l.phase = .running → l.started = true → (∀ c ∈ l.cores, (s.core c).run = .running) → s.runsOf l.ctag = false → leadsTo .preempt s fun u =>
      u.mem = s.mem ∧ (∀ c ∈ l.cores, (⟨0x0D, sget 0 l.buffers c % 2 ^ 48, false⟩ : Cause) ∈ (u.core c).causes) ∧ (∀ c, c ∉ l.cores → u.core c = s.core c) ∧
      ∃ k ∈ u.launches, k.id = l.id ∧ k.phase = .preempting)) ∧
  (∀ (s : State) (id : Nat) (l : Launch), At s (.core id) → s.launchOf id = some l → s.mem.wf = true →
    let c := s.core id
    let buf := c.sp.xvalue.toNat % 2 ^ 48
    (c.ctxBusy = some .save → c.settled = false → exec .csave s = .next s) ∧
    (c.ctxBusy = some .save → c.settled = true → c.dirtyLines = [] → leadsTo .csave s fun u => u.core id = { c with cache := [] } ∧ (∀ j, j ≠ id → u.core j = s.core j) ∧
      (.contextEngineDone, .core id) ∈ u.pending ∧ (∀ i, i < 0x4_0000 → u.mem.byte (buf + 0x10_0000 + i) = s.mem.byte (accKey id 0 + i)) ∧
      (∀ z, z < buf + 0x10_0000 ∨ buf + 0x19_0000 ≤ z → u.mem.byte z = s.mem.byte z) ∧
      ∀ r : SReg, u.mem.read (buf + 0x14_0000 + 8 * r.val) 8 = (c.s[r]).toNat) ∧
    ((s.core id).ctxBusy = some .load → ∀ h, s.imageIn buf l.id id = some h → leadsTo .cload s fun u =>
      (u.core id).s = h.core.s ∧ (u.core id).v = h.core.v ∧ (u.core id).d = h.core.d ∧ (u.core id).m = h.core.m ∧ (u.core id).p = h.core.p ∧ (u.core id).w = h.core.w ∧
      (u.core id).sp = h.core.sp ∧ (u.core id).pc = c.pc ∧ (u.core id).run = c.run ∧ (.contextEngineDone, .core id) ∈ u.pending) ∧
    ((s.core id).ctxBusy = some .load → s.imageIn buf l.id id = none → leadsTo .cload s fun u => u.core id = { c with ctxBusy := some .rejected } ∧ (.contextEngineDone, .core id) ∈ u.pending)) ∧
  ∀ (s : State) (id : Nat) (l : Launch) (run : CtxRun), At s (.core id) → s.launchOf id = some l → l.ownHandler = true → (s.core id).ctxBusy = some run →
    leadsTo .contextEngineDone s fun u => onlyCore s u id ∧ (u.core id).ctxBusy = none ∧
      (u.core id).sp.xstat.getLsbD 35 = (match run with | .save => (s.core id).sp.xstat.getLsbD 35 | .load => false | .rejected => true) ∧ ∀ b, b < 64 → b ≠ 35 → (u.core id).sp.xstat.getLsbD b = (s.core id).sp.xstat.getLsbD b

namespace Sys2Proof.Claims
/-- `n` bytes counted into an arrival word that held `w` leave `x` (R80). -/
def Counted (w x n : Nat) : Prop :=
  let count := w / 2 ^ 32 % 2 ^ 32 + n
  let target := w % 2 ^ 32
  let gen := w / 2 ^ 64 % 2 ^ 32
  x % 2 ^ 32 = target ∧
  (target ≠ 0 → x / 2 ^ 32 % 2 ^ 32 = count % target ∧ x / 2 ^ 64 % 2 ^ 32 = (gen + count / target) % 2 ^ 32 ∧ x / 2 ^ 96 = w / 2 ^ 96) ∧
  (target = 0 → x / 2 ^ 64 % 2 ^ 32 = gen ∧ (count < 2 ^ 32 → x / 2 ^ 32 % 2 ^ 32 = count ∧ x / 2 ^ 96 = w / 2 ^ 96) ∧ (2 ^ 32 ≤ count → x / 2 ^ 32 % 2 ^ 32 = 2 ^ 32 - 1 ∧ x / 2 ^ 96 % 2 = 1))
end Sys2Proof.Claims

/-- R133, R79, R208, R214, R220, R221, R303: a release that is due, with its bank free, adds 1 to its word (a word with an uncorrectable error is left as it is, the model's choice of log 23); a full tile of a
command is pushed once its ring has room and no earlier command of its engine pushes into a full one (R303), and nothing of a command that has faulted; a forwarded tile whose ring was replaced meanwhile is written where it began (R221); a forwarded tile that has come is pushed where it fits and there is room, waits where there is none, and is
cause 0x08 where it does not fit; and a transposed tile is pushed once there is room. -/
def Obligations.ReleasesAndTiles : Prop :=
  (∀ (s : State) (id : Nat) (r : Release), At s (.core id) → (s.core id).releases = [r] → r.thread = none → s.mem.wf = true →
    let c := s.core id
    (r.notBefore < c.ic ∨ (c.issuing = true ∧ r.notBefore = c.ic)) → r.cmds = [] → c.portsUsed = [] → leadsTo .flagrelAdd s fun u => (u.core id).releases = [] ∧
      (s.mem.bad2 (spadKey id r.addr) 8 = none → u.mem.read (spadKey id r.addr) 8 = (s.mem.read (spadKey id r.addr) 8 + 1) % 2 ^ 64) ∧
      (s.mem.bad2 (spadKey id r.addr) 8 ≠ none → u.mem = s.mem) ∧ (∀ z, z < spadKey id r.addr ∨ spadKey id r.addr + 8 ≤ z → u.mem.byte z = s.mem.byte z) ∧
      (u.core id).s = c.s ∧ ∀ j, j ≠ id → u.core j = s.core j) ∧
  (∀ (s : State) (id e : Nat) (k : Cmd) (h : HReg) (b : TileBuf), At s (.asker (.engine id e k.id)) → s.cmdOf (.engine id e k.id) = some k → k.kind = .cpy → walkHoop k.dst = some h →
    k.tiles = [(id, b)] → s.mem.wf = true →
    let d := (s.core id).h[h]
    (k.fault ≠ none → leadsTo .hoopPush s fun u => u.mem = s.mem ∧ (u.core id).h = (s.core id).h ∧ (u.cmdOf (.engine id e k.id)).map (·.tiles) = some []) ∧
    (k.fault = none → b.full = true → b.stale = false → d.count + 1 ≤ d.fill → exec .hoopPush s = .next s) ∧ (k.fault = none → s.heldUp (.engine id e k.id) = true → exec .hoopPush s = .next s) ∧
    (k.fault = none → s.heldUp (.engine id e k.id) = false → b.full = true → b.stale = false → d.fill < d.count + 1 → k.arrival = none → leadsTo .hoopPush s fun u => (u.cmdOf (.engine id e k.id)).map (·.tiles) = some [] ∧ ((u.core id).h[h]).fill = d.fill + 1 ∧ ((u.core id).h[h]).tail = (d.tail + 1) % (d.count + 1) ∧
      (∀ i (hi : i < b.bytes.length), u.mem.byte (spadKey id (d.base + d.tail % (d.count + 1) * (64 * (d.lines + 1))) + i) = b.bytes[i])) ∧
    (∀ w, k.fault = none → s.heldUp (.engine id e k.id) = false → b.full = true → b.stale = false → d.fill < d.count + 1 → k.arrival = some (spadKey id w) → s.mem.bad2 (spadKey id w) 16 = none →
      (let at_ := d.base + d.tail % (d.count + 1) * (64 * (d.lines + 1)); w + 16 ≤ at_ ∨ at_ + b.bytes.length ≤ w) → leadsTo .hoopPush s fun u => ((u.core id).h[h]).fill = d.fill + 1 ∧
        Claims.Counted (s.mem.read (spadKey id w) 16) (u.mem.read (spadKey id w) 16) b.bytes.length ∧ (u.cmdOf (.engine id e k.id)).map (·.bytes) = some (k.bytes + b.bytes.length))) ∧
  (∀ (s : State) (id : Nat) (f : Forward), At s (.core id) → (s.core id).forwards = [f] → f.at_ ≤ s.clock → s.mem.wf = true →
    let d := (s.core id).h[f.hoop]
    (∀ a, f.stale = some a → leadsTo .tileForwardArrival s fun u => (u.core id).forwards = [] ∧ (u.core id).h = (s.core id).h ∧
      (∀ i (hi : i < f.tile.length), u.mem.byte (spadKey id a + i) = f.tile[i]) ∧ ∀ z, z < spadKey id a ∨ spadKey id a + f.tile.length ≤ z → u.mem.byte z = s.mem.byte z) ∧
    (f.stale = none → f.tile.length ≤ 64 * (d.lines + 1) → d.valid = true → d.fill < d.count + 1 → leadsTo .tileForwardArrival s fun u => (u.core id).forwards = [] ∧ ((u.core id).h[f.hoop]).fill = d.fill + 1) ∧
    (f.stale = none → f.tile.length ≤ 64 * (d.lines + 1) → d.valid = true → d.count + 1 ≤ d.fill → exec .tileForwardArrival s = .next s) ∧
    (f.stale = none → 64 * (d.lines + 1) < f.tile.length → leadsTo .tileForwardArrival s fun u => u.mem = s.mem ∧ (u.core id).forwards = [] ∧ (u.core id).h = (s.core id).h ∧
      (u.core id).causes = (s.core id).causes ++ [⟨0x08, 8 + 16 * f.hoop.val + (if coreY f.source = coreY id then 0 else 128), false⟩])) ∧
  ∀ (s : State) (id : Nat) (h : HReg) (tile : List Byte) (sh : List Nat), At s (.core id) → (s.core id).trans = some (h, tile, sh) →
    ((s.core id).h[h].fill < (s.core id).h[h].count + 1 → leadsTo .transposePush s fun u => (u.core id).trans = none ∧ ((u.core id).h[h]).fill = ((s.core id).h[h]).fill + 1) ∧
    ((s.core id).h[h].count + 1 ≤ (s.core id).h[h].fill → exec .transposePush s = .next s)

/-- R80, R216, R217, R389: an element of a copy between scratchpad places lands at its destination and is counted into the command's arrival word; every other byte stays, and no register changes. -/
def Sys2Proof.Claims.ElementCopied : Prop :=
  ∀ (s : State) (id : Nat) (k : Cmd) (e x y : Nat), At s (.cmd id k.id) → s.cmdOf (engineCmd id k.id) = some k → k.kind = .cpy → k.started = true → k.fault = none → s.heldUp (engineCmd id k.id) = false → s.mem.wf = true → e ≤ 5 →
    walkKind k.dst = 0 → walkKind k.src = 0 → walkPaged k.dst = 0 → walkPaged k.src = 0 → walkHoop k.dst = none → walkEsize k.dst = e → walkEsize k.src = e → walkDims k.src ≤ 6 → walkDims k.dst ≤ 6 →
    let n := 2 ^ e
    let c := s.core id
    k.off % n = 0 → k.off < k.total → c.writes = [] → walkAt k.src (k.off / n) = (x : Nat) → walkAt k.dst (k.off / n) = (y : Nat) → x % n = 0 → y % n = 0 → x + n ≤ 0x10_0000 → y + n ≤ 0x10_0000 →
    (c.sp.preen = true → k.handler = false → x + n ≤ 0xF_C000 ∧ y + n ≤ 0xF_C000) → s.mem.devError (spadKey id x) n true = (0, 0) →
    (k.arrival = none → leadsTo .arrivalWordUpdate s fun u => u.mem.read (spadKey id y) n = s.mem.read (spadKey id x) n ∧ (∀ z, z < spadKey id y ∨ spadKey id y + n ≤ z → u.mem.byte z = s.mem.byte z) ∧
      u.cmdOf (engineCmd id k.id) = some { k with off := k.off + n, bytes := k.bytes + n } ∧ (u.core id).s = c.s) ∧
    (∀ a, k.arrival = some (spadKey id a) → a % 16 = 0 → (a + 16 ≤ y ∨ y + n ≤ a) → s.mem.bad2 (spadKey id a) 16 = none → leadsTo .arrivalWordUpdate s fun u =>
      let w := s.mem.read (spadKey id a) 16
      u.mem.read (spadKey id y) n = s.mem.read (spadKey id x) n ∧ Claims.Counted w (u.mem.read (spadKey id a) 16) n ∧
      (∀ z, (z < spadKey id y ∨ spadKey id y + n ≤ z) → (z < spadKey id a ∨ spadKey id a + 16 ≤ z) → u.mem.byte z = s.mem.byte z) ∧
      u.cmdOf (engineCmd id k.id) = some { k with off := k.off + n, bytes := k.bytes + n, fault := if w % 2 ^ 32 = 0 ∧ 2 ^ 32 ≤ w / 2 ^ 32 % 2 ^ 32 + n then some 0x0A else none } ∧ (u.core id).s = c.s)

/-- R219 to R221: a finished command leaves its queue, with its status and count kept; what a fence, a CFENCE or a release waited for is complete; a faulted one leaves a copy fault, and sets ERR of its arrival word,
where the fault is reported. -/
def Sys2Proof.Claims.CommandsEnd : Prop :=
  ∀ (s : State) (id : Nat) (k : Cmd), At s (.cmd id k.id) →
    let e : Fin 2 := Fin.ofNat 2 (k.id / 2 ^ 15)
    let c := s.core id
    (c.engines[e]).queue.find? (fun x => x.id == k.id) = some k → (c.cmdDone k = false → exec .copyCommandComplete s = .next s) ∧
    (c.cmdDone k = true → s.mem.wf = true → leadsTo .copyCommandComplete s fun u =>
      let d := u.core id
      let q := d.engines[e]
      q.queue.map (·.id) = ((c.engines[e]).queue.map (·.id)).filter (· != k.id) ∧ (∀ x ∈ q.queue, k.id ∉ x.after) ∧ d.fences = c.fences.filter (· != k.id) ∧ (∀ r ∈ d.releases, k.id ∉ r.cmds) ∧
      q.history = ⟨k.id, k.fault.isSome, k.fault.getD 0, k.bytes⟩ :: (c.engines[e]).history.filter (fun x => x.id != k.id) ∧ d.s = c.s ∧
      (k.fault = none → u.mem = s.mem ∧ d.faults = c.faults) ∧
      (∀ code, k.fault = some code → (k.arrival = none → u.mem = s.mem ∧ d.faults = c.faults ++ [⟨k.id, code, none⟩]) ∧
        ∀ j a, k.arrival = some (spadKey j a) → j < 2048 → a < 2 ^ 20 → (u.core j).faults = (s.core j).faults ++ [⟨k.id, code, some (spadKey j a)⟩] ∧
          (∀ z, z < spadKey j a ∨ spadKey j a + 16 ≤ z → u.mem.byte z = s.mem.byte z) ∧
          (s.mem.bad2 (spadKey j a) 16 = none → u.mem.read (spadKey j a) 16 % 2 ^ 96 = s.mem.read (spadKey j a) 16 % 2 ^ 96 ∧ u.mem.read (spadKey j a) 16 / 2 ^ 96 % 2 = 1)))

/-- R218, R220, R318: when the recall of a line completes, its owner's write is in memory, the line is free and what waited runs again, in the order of its arrival; a command's bytes are then visible and counted; and a command
that has faulted writes nothing more. A line that a tier move owns stays owned until the move ends. -/
def Sys2Proof.Claims.RecallsComplete : Prop :=
  ∀ (s : State) (line : Nat) (o : Owned), At s (.memLine line) → s.ownerOf line = some o → o.cv = none → s.mem.wf = true →
    let m := s.mem.putDev o.puts
    let ends (u : State) : Prop := u.owned = s.owned.filter (fun x => x.line != line) ∧ u.agenda = o.waiting.map (fun e => Item.event e.2.1 e.2.2) ++ s.agenda
    (∀ n, o.owner = .move n → exec .recallComplete s = .next s) ∧
    (∀ uid, o.owner = .host uid → leadsTo .recallComplete s fun u => u.mem = m ∧ ends u ∧ u.cores = s.cores) ∧
    ∀ (id e : Nat) (k : Cmd), let a : Asker := .engine id e k.id
      o.owner = .cmd a → s.cmdOf a = some k →
      (k.fault ≠ none → leadsTo .recallComplete s fun u => u.mem = s.mem ∧ ends u ∧ u.cmdOf a = some { k with owned := k.owned - 1 }) ∧
      (k.fault = none → k.arrival = none → leadsTo .recallComplete s fun u => u.mem = m ∧ ends u ∧ u.cmdOf a = some { k with owned := k.owned - 1, bytes := k.bytes + o.count }) ∧
      (∀ j w, k.fault = none → k.arrival = some (spadKey j w) → m.bad2 (spadKey j w) 16 = none → leadsTo .recallComplete s fun u => ends u ∧ Claims.Counted (m.read (spadKey j w) 16) (u.mem.read (spadKey j w) 16) o.count ∧
        (∀ z, z < spadKey j w ∨ spadKey j w + 16 ≤ z → u.mem.byte z = m.byte z) ∧ (u.cmdOf a).map (fun x => (x.owned, x.bytes)) = some (k.owned - 1, k.bytes + o.count))

/-! ### Events of tinkers, channels and the memory system -/

namespace Sys2Proof.Claims
/-- A request for `n` bytes at a virtual address is granted at once: its station translates it and the porter of the line serves it, nothing being owned. -/
def Granted (s s' : State) (r : Req) (va kind n pa : Nat) (l : TLeaf) : Prop := s.translate r va kind = (s, .ok (pa, l)) ∧ s.reach r pa n = (s', .ok ())
/-- A request for the 64-byte line that holds a virtual address is granted at once. -/
def LineGranted (s s' : State) (r : Req) (va kind pa : Nat) (l : TLeaf) : Prop := s.translate r va kind = (s, .ok (pa + va % 64, l)) ∧ s.reach r pa 64 = (s', .ok ()) ∧ s'.cores = s.cores
end Sys2Proof.Claims

/-- R215, R218, R224, R303, R311, R317, R398: what a porter does for a command. A CATOM whose page and porter let it go on changes its word as its operator says, leaves the old value in its record where it has .ret, and counts 8 bytes into it. An element of a
copy into device memory takes ownership of its line with the following elements of that line that can be moved with it, once for all of them, and they are written when that line is recalled (R218, R398). A command that has not
started starts first, and none goes on while an earlier one of its engine pushes into a full hoop (R303). -/
def Sys2Proof.Claims.PorterRequests : Prop :=
  ∀ (s s' : State) (id e pa : Nat) (k : Cmd) (l : TLeaf), let a : Asker := .engine id e k.id
    let ev : Ev := (.porterRequest, .asker a)
    At s (.asker a) → s.cmdOf a = some k → k.fault = none → s'.mem.wf = true →
    (∀ x sc q va b sv, k.kind = .catom x sc q va b sv → k.finished = false → (s.heldUp a = true → exec .porterRequest s = .next s) ∧
      (s.heldUp a = false → k.started = false → s.mayStart a k = true → exec .porterRequest s = .next (s.putCmd a { k with started := true })) ∧
      (s.heldUp a = false → k.started = false → s.mayStart a k = false → exec .porterRequest s = .next s)) ∧ (s.heldUp a = false →
    (∀ x sc p va b sv, k.kind = .catom x sc (spadKey id p) va b sv → k.finished = false → k.started = true → k.arrival = some (spadKey id p) →
      let n := stwBytes x.width
      let rec_ := spadKey id p
      let old := s'.mem.read pa n
      Granted s s' (s.reqOf a ev) va 3 n pa l → s'.cores = s.cores → (∀ i, i < n → roByte (pa + i) = false) → s'.mem.devError pa n true = (0, 0) → s'.mem.bad2 rec_ 16 = none → (pa + n ≤ rec_ ∨ rec_ + 32 ≤ pa) → leadsTo .porterRequest s fun u =>
        u.mem.read pa n = (atomicNew x old b sv).1 % 2 ^ (8 * n) ∧ (x.ret = true → u.mem.read (rec_ + 16) 8 = old) ∧ Claims.Counted (s'.mem.read rec_ 16) (u.mem.read rec_ 16) 8 ∧
        (∀ z, (z < pa ∨ pa + n ≤ z) → (z < rec_ ∨ rec_ + (if x.ret then 24 else 16) ≤ z) → u.mem.byte z = s'.mem.byte z) ∧ (u.cmdOf a).map (fun y => (y.finished, y.bytes)) = some (true, k.bytes + 8)) ∧
    ∀ w x y : Nat, k.kind = .cpy → k.started = true → w ≤ 5 → walkKind k.dst = 2 → walkKind k.src = 0 → walkPaged k.dst = 0 → walkPaged k.src = 0 → walkEsize k.dst = w → walkEsize k.src = w → walkDims k.src ≤ 6 → walkDims k.dst ≤ 6 →
      let n := 2 ^ w
      let key := spadKey id x
      let line := pa / 64 * 64
      let s2 : State := { s.usePorts (keyCore key) key n false with mem := s.mem.scrub key n }
      let bs := putBytes pa (s.mem.bytes key n)
      k.off % n = 0 → k.off < k.total → (s.core id).writes = [] → (s.core id).sp.preen = false → walkAt k.src (k.off / n) = (x : Nat) → walkAt k.dst (k.off / n) = (y : Nat) → x % n = 0 → y % n = 0 → x + n ≤ 0x10_0000 → y < 2 ^ 48 →
      s.mem.devError key n true = (0, 0) → Granted s2 s' (s.reqOf a ev) y 1 n pa l → pa % n = 0 → s'.cores = s2.cores → s'.slicesFull [line] = false →
      (k.off + n = k.total → leadsTo .porterRequest s fun u => u.owned = s'.owned ++ [⟨line, .cmd a, bs, none, n, []⟩] ∧ (.recallComplete, .memLine line) ∈ u.pending ∧ u.mem = s'.mem ∧
        u.cmdOf a = some { k with off := k.off + n, owned := k.owned + 1 }) ∧
      ∀ (s3 : State) (rest : List PutByte), s'.gather a (s.reqOf a ev) k line 64 (k.off / n + 1) = (s3, .ok rest) → (s3.cmdOf a).isSome = true → leadsTo .porterRequest s fun u =>
        u.owned = s3.owned ++ [⟨line, .cmd a, bs ++ rest, none, n + rest.length, []⟩] ∧ (.recallComplete, .memLine line) ∈ u.pending ∧ u.mem = s3.mem ∧
        u.cmdOf a = some { k with off := k.off + n + rest.length, owned := k.owned + 1 })

/-- R80, R216 to R221, R224, R317, R318, R389: how commands go on and end. -/
def Obligations.CopyProgress : Prop := Claims.ElementCopied ∧ Claims.PorterRequests ∧ Claims.CommandsEnd ∧ Claims.RecallsComplete

/-- R241: a fill that is granted, with room in the line's set, puts the line's 64 bytes in the tinker cache, and the load that waits for it completes with them. A write-back that is granted puts the dirty bytes, and
only those, into device memory, but for those of a group record's read-only fields (R12, R412), and leaves the line clean. -/
def Sys2Proof.Claims.TinkerCacheEvents : Prop :=
  (∀ (s s' : State) (id line pa : Nat) (l : TLeaf), At s (.line id line) → (s.core id).line line = none → line % 64 = 0 →
    let c := s.core id
    let r := s.coreReq id (.tinkerCacheFill, .line id line)
    (c.cache.filter fun x => cacheSet x.line == cacheSet line).length < 8 → l.state = 0 → s'.mem.devError pa 64 false = (0, 0) →
    let data := natOf (s'.mem.bytes pa 64)
    let line' : CacheLine := ⟨line, data, 0, s'.mem.cvOf pa, l.permits r.tenant 0, l.permits r.tenant 1⟩
    (LineGranted s s' r line 0 pa l → c.waitingFor line = [] → leadsTo .tinkerCacheFill s fun u => (u.core id).cache = c.cache ++ [line'] ∧ (∀ z, u.mem.byte z = s'.mem.byte z) ∧ (u.core id).trf = c.trf) ∧
    (∀ (t : Fin 64) p ty a va, c.waitingFor line = [(t.val, p)] → p.kind = some (.load ty a va) → p.mem = some (true, va, ldBytes ty) → va / 64 * 64 = line → LineGranted s s' r va 0 pa l →
      l.permits r.tenant 0 = true → s'.mem.cvOf pa = 0 → leadsTo .tinkerCacheFill s fun u => (u.core id).cache = c.cache ++ [line'] ∧ (∀ z, u.mem.byte z = s'.mem.byte z) ∧
        (u.core id).tflights = insertResult c.tflights ⟨p.base + a.toNat, extendLd ty (data / 2 ^ (8 * (va % 64)) % 2 ^ (8 * ldBytes ty)), s'.clock, t.val, p.order⟩ ∧
        ((u.core id).threads[t]).pend = ((c.threads[t]).pend).filter fun q => q.seq != p.seq)) ∧
  ∀ (s s' : State) (id line pa : Nat) (l : TLeaf) (e : CacheLine), At s (.line id line) → (s.core id).line line = some e → e.dirty ≠ 0 → e.line = line → line % 64 = 0 →
    Granted s s' (s.coreReq id (.tinkerWriteback, .line id line)) line 1 64 pa l → s'.mem.wf = true →
    leadsTo .tinkerWriteback s fun u =>
      (∀ i, i < 64 → u.mem.byte (pa + i) = if e.dirty.testBit i = true ∧ roByte (pa + i) = false then BitVec.ofNat 8 (e.data / 2 ^ (8 * i)) else s'.mem.byte (pa + i)) ∧
      (∀ z, z < pa ∨ pa + 64 ≤ z → u.mem.byte z = s'.mem.byte z) ∧ ∀ x ∈ (u.core id).cache, x.line = line → x.dirty = 0

/-- R235: a fetch whose line is in the instruction cache takes the word from there, whatever memory holds; one that is granted reads its line, keeps it, and takes the word from it. A word that decodes within its window is the
thread's next operation, and one that does not parks the thread with code 1. That the instruction cache answers whatever memory holds is log 35. -/
def Sys2Proof.Claims.TinkerFetches : Prop :=
  ∀ (s : State) (id : Nat) (t : Fin 64), At s (.thread id t.val) →
    let c := s.core id
    let h := c.threads[t]
    let line := h.pc / 64 * 64
    let cut (data : Nat) : BitVec 32 := BitVec.ofNat 32 (data / 2 ^ (8 * (h.pc % 64)))
    let takes (w : BitVec 32) (P : State → Prop) : Prop :=
      (∀ i, decodeTinker w 0 = .ok i → outsideWindow w.toNat 0 h.size = false → leadsTo .tinkerInstructionFetch s fun u => (u.core id).threads[t] = { h with fetched := some (w, 0) } ∧ P u) ∧
      (∀ x, decodeTinker w 0 = .error x → leadsTo .tinkerInstructionFetch s fun u => (u.core id).threads[t] = { h with status := .parked 1 x.1 (h.pc % 2 ^ 48) false, fetched := none } ∧ P u)
    h.status = .ready → h.fetched = none → h.leaving = false →
    (∀ x, c.icache.find? (fun l => l.1 == line) = some x → tinkerHasExt (cut x.2) = false → takes (cut x.2) fun u => u.mem = s.mem ∧ (u.core id).icache = c.icache) ∧
    (∀ s' pa l, c.icache.find? (fun l => l.1 == line) = none → LineGranted s s' (s.coreReq id (.tinkerInstructionFetch, .thread id t.val)) h.pc 2 pa l → l.state = 0 → s'.mem.devError pa 64 true = (0, 0) →
      let data := natOf (s'.mem.bytes pa 64)
      tinkerHasExt (cut data) = false → takes (cut data) fun u => (∀ z, u.mem.byte z = s'.mem.byte z) ∧ (line, data) ∈ (u.core id).icache)

/-- R243, R247, R250, R255, R311, R312 to R315: an operation of a thread that is waiting completes when its turn comes: a fence or a TREL without a word once every earlier operation has, a STEAL with the frame it finds, whose line
leaves the cache, or with 0; and a TEXIT ends its thread, but for one that is parked. A walk caches its leaf once and answers those whose page it is; one that fails is logged. -/
def Sys2Proof.Claims.ThreadRequests : Prop :=
  (∀ (s : State) (id : Nat) (t : Fin 64) (p : TPending), At s (.asker (.thread id t.val p.seq)) →
    let h := (s.core id).threads[t]
    h.op p.seq = some p →
    let first : Prop := h.pend.any (fun q => decide (q.seq < p.seq) && q.orphan == p.orphan) = false
    (p.kind = some .fence → first → leadsTo .porterRequest s fun u =>
      u.mem = s.mem ∧ (u.core id).threads[t] = { h with pend := h.pend.filter fun q => q.seq != p.seq } ∧ (u.core id).tflights = (s.core id).tflights) ∧
    (∀ sc, p.kind = some (.release true none sc false) → first → leadsTo .porterRequest s fun u =>
      u.mem = s.mem ∧ ((u.core id).threads[t]).pend = (h.pend.filter fun q => q.seq != p.seq) ∧ (h.status = .ready → ((u.core id).threads[t]).status = .dead) ∧
      ∀ code reason addr told, h.status = .parked code reason addr told → ((u.core id).threads[t]).status = h.status) ∧
    (∀ a lv l s1, p.kind = some (.steal a lv) → s.launchOf id = some l →
      let gives (x : Word) (u : State) : Prop := u.mem = s1.mem ∧ (u.core id).tflights = insertResult (s1.core id).tflights ⟨p.base + a.toNat, x, s1.clock, t.val, p.order⟩
      (s.stealFrom l id (min lv l.stealDom) = (s1, none) → leadsTo .porterRequest s (gives 0)) ∧
      (∀ f, s.stealFrom l id (min lv l.stealDom) = (s1, some f) → leadsTo .porterRequest s fun u => gives (BitVec.ofNat 64 f) u ∧ (u.core id).line f = none))) ∧
  ∀ (s : State) (n : Nat) (q : TransReq) (w : Walk), At s (.walk n q) → n < 128 → s.walks = [w] → w.station = n → w.space = q.space → w.page = q.va / 2 ^ 16 →
    let page := q.va / 2 ^ 16
    let res := s.walkTables q.space (page * 2 ^ 16)
    leadsTo .translationWalk s fun u => u.walks = [] ∧ (∀ z, u.mem.byte z = s.mem.byte z) ∧ u.cores = s.cores ∧
      u.agenda = w.waiting.map (fun x => Item.event x.ev.1 x.ev.2) ++ s.agenda ∧
      u.answers = s.answers ++ (w.waiting.filter fun x => s.samePage q.space page x.req.va).map (fun x => { ev := x.ev, space := q.space, page := x.req.va / 2 ^ 16, res }) ∧
      (∀ l a, res = .leaf l a → ((s.station n).find q.space (page * 2 ^ 16) = none → ⟨q.space, page * 2 ^ 16, l, a⟩ ∈ (u.station n).entries) ∧
        ((s.station n).find q.space (page * 2 ^ 16) ≠ none → (u.station n).entries = (s.station n).entries)) ∧
      (∀ reason level x, res = .fault reason level → w.waiting = [x] → x.req.va / 2 ^ 16 = page → (u.station n).written = ((s.station n).written + 1) % 2 ^ 32)

/-- R235, R241, R243, R247, R255, R311 to R315: fills, write-backs and fetches of tinkers, what completes a waiting operation, and walks. -/
def Obligations.ThreadEvents : Prop := Claims.TinkerCacheEvents ∧ Claims.TinkerFetches ∧ Claims.ThreadRequests

/-- R313 to R316, R332, R336: what a station answers. An address of 2^48 or more is reason 4; a cached leaf without the permission, or of another owner and not shared for reading, is a violation; one whose state does not allow its
address is reason 3, and a write or atomic to a format page reason 6; otherwise the page's address with the offset within it. The address of a page not cached waits for a walk. The fault log takes a record for each refusal. -/
def Obligations.Translation : Prop :=
  ∀ (s : State) (r : Req) (va kind : Nat), kind < 4 → s.answers = [] →
    let logged (u : State) : Prop := (u.station r.station).written = ((s.station r.station).written + 1) % 2 ^ 32 ∧ u.mem = s.mem ∧ u.cores = s.cores
    (2 ^ 48 ≤ va → ∃ u, s.translate r va kind = (u, .fault 4) ∧ logged u) ∧
    (va < 2 ^ 48 → ∀ e, (s.station r.station).find r.space va = some e →
      let allowed : Prop := e.leaf.perms.testBit kind = true ∧ (r.tenant = e.leaf.owner ∨ (e.leaf.shared = true ∧ kind = 0))
      (¬ allowed → ∃ u, s.translate r va kind = (u, .viol va) ∧ logged u) ∧
      (allowed → s.stateOk e.leaf va = false → ∃ u, s.translate r va kind = (u, .fault 3) ∧ logged u) ∧
      (allowed → s.stateOk e.leaf va = true → isFormat e.leaf.state = true → kind % 2 = 1 → ∃ u, s.translate r va kind = (u, .fault 6) ∧ logged u) ∧
      (allowed → s.stateOk e.leaf va = true → isFormat e.leaf.state = false ∨ kind % 2 = 0 → s.translate r va kind = (s, .ok (e.leaf.page + va % 2 ^ e.leaf.size, e.leaf)))) ∧
    (va < 2 ^ 48 → (s.station r.station).find r.space va = none → ∃ u w, s.translate r va kind = (u, .wait) ∧ w ∈ u.walks ∧ w.station = r.station ∧ w.space = r.space ∧ s.samePage r.space w.page va = true ∧
      (∃ x ∈ w.waiting, x.ev = r.ev ∧ x.req.va = va) ∧ u.mem = s.mem ∧ u.cores = s.cores)

/-- R293, R297, R298: a message that is the next of its endpoint lowers the allowances out and is queued, or is refused by a sealed endpoint; allowances that come are added; an acknowledgement releases the oldest retained message with its tag.
That a refused message stands in its sender's resend queue in the step of its arrival is log 35. -/
def Obligations.ChannelArrivals : Prop :=
  ∀ (s : State) (name ep m n tag : Nat), ep < 16 → s.here name = true →
    let id := name % 2 ^ 11
    let ch : Chan := Fin.ofNat 16 ep
    let e := (s.core id).endpoints[ch]
    (At s (.msg name ep m) → s.firstMsg name ep m = true → e.mode = 2 → e.peer ≠ none → e.sealed = false → leadsTo .channelMessageArrival s fun u =>
      onlyCore s u id ∧ (u.core id).endpoints[ch] = { e with grantOut := e.grantOut - 1, msgs := e.msgs ++ [m] }) ∧
    (At s (.msg name ep m) → s.firstMsg name ep m = true → e.mode = 2 → e.peer ≠ none → e.sealed = true → leadsTo .channelMessageArrival s fun u =>
      u.mem = s.mem ∧ ((u.core id).endpoints[ch]).msgs = e.msgs ∧ ((u.core id).endpoints[ch]).grantOut = e.grantOut - 1 ∧
      ∀ j (k : Chan), let g := (s.core j).endpoints[k]
        j ≠ id → g.peer = some (name, ep) → g.mode = 1 → g.path ≠ 2 → ((u.core j).endpoints[k]).resend = g.resend ++ [m] ∧ ((u.core j).endpoints[k]).sendAllow = g.sendAllow) ∧
    (At s (.msg name ep m) → s.firstMsg name ep m = false → exec .channelMessageArrival s = .next s) ∧
    (At s (.allow name ep n) → e.resend = [] → leadsTo .allowanceArrival s fun u => onlyCore s u id ∧ (u.core id).endpoints[ch] = { e with sendAllow := e.sendAllow + n }) ∧
    (At s (.ack name ep tag) → leadsTo .ackArrival s fun u => onlyCore s u id ∧
      (∀ a x b, e.retained = a ++ x :: b → x / 2 ^ 480 % 2 ^ 32 = tag → (∀ y ∈ a, y / 2 ^ 480 % 2 ^ 32 ≠ tag) → (u.core id).endpoints[ch] = { e with retained := a ++ b }))

/-- R320: a run starts while the go word is above RUNS, with RUNS counted, q0 zero and the other registers loaded from the run block; none starts while the go word is not above RUNS, or while the context's launch
leaves the device. A run block that cannot be read ends the run with the fault's code. -/
def Sys2Proof.Claims.RunsStart : Prop :=
  ∀ (s s1 : State) (p ctag : Nat) (c : PCtx) (go : List Byte), At s (.porter p ctag) → p < 512 →
    (s.runsBarred ctag = true → leadsTo .porterRunStart s fun u => u.mem = s.mem ∧ u.porters = s.porters ∧ u.cores = s.cores) ∧
    (s.runsBarred ctag = false → s.resident p ctag = some s1 → s1.ctx p ctag = some c → c.frozen = none → c.run = none → c.prog = true →
      ∀ sg : State, s1.ctxRead p ctag c.gova 8 (.porterRunStart, .porter p ctag) = (sg, .ok go) → sg.ctx p ctag = some c →
      (natOf go ≤ c.runs.toNat → leadsTo .porterRunStart s fun u => u.mem = sg.mem ∧ u.ctx p ctag = some c) ∧
      ∀ s2 : State, c.runs.toNat < natOf go → sg.running p < 6 → s2.ctx p ctag = some c →
        (∀ b, sg.runBlock p ctag c.runva (.porterRunStart, .porter p ctag) 10 = (s2, .ok b) → leadsTo .porterRunStart s fun u => u.mem = s2.mem ∧ u.cores = s2.cores ∧ ∃ r : Run,
          u.ctx p ctag = some { c with runs := c.runs + 1, run := some r } ∧ r.q[(0 : Fin 16)] = 0 ∧ (∀ i : Fin 16, i ≠ 0 → r.q[i] = BitVec.ofNat 64 (natOf b / 2 ^ (64 * i.val))) ∧
          (∀ i : Fin 8, r.w[i] = BitVec.ofNat 512 (natOf b / 2 ^ (1024 + 512 * i.val))) ∧ r.next = 0 ∧ r.steps = [] ∧ r.ended = false ∧ r.fault = none) ∧
        (∀ code, sg.runBlock p ctag c.runva (.porterRunStart, .porter p ctag) 10 = (s2, .fault code) → leadsTo .porterRunStart s fun u => u.mem = s2.mem ∧ ∃ r : Run,
          u.ctx p ctag = some { c with runs := c.runs + 1, run := some r } ∧ r.steps = [] ∧ r.ended = true ∧ r.fault = some (code, 0)))

/-- R322: the end of a run raises the status word's count, with the fault and its step if there was one, by a write of its context (to a place that is no read-only field of a group record). -/
def Sys2Proof.Claims.RunsEnd : Prop :=
  ∀ (s s' : State) (p ctag a : Nat) (c : PCtx) (r : Run) (l : TLeaf), At s (.porter p ctag) → s.ctx p ctag = some c → c.run = some r → r.ended = true → r.steps = [] → c.frozen = none →
    Granted s s' (s.reqOf (.step p ctag r.next) (.porterRunEnd, .porter p ctag)) c.statva 1 16 a l → (s'.ctx p ctag).isSome = true → s'.mem.wf = true → s'.mem.bad2 a 16 = none → (∀ i, i < 16 → roByte (a + i) = false) →
    leadsTo .porterRunEnd s fun u => (u.ctx p ctag).map (·.run) = some none ∧ u.cores = s'.cores ∧
      u.mem.read a 8 = (s'.mem.read a 8 + 1) % 2 ^ 64 ∧ (r.fault = none → u.mem.read (a + 8) 8 = s'.mem.read (a + 8) 8) ∧
      (∀ code step, r.fault = some (code, step) → u.mem.read (a + 8) 1 = code % 2 ^ 8 ∧ u.mem.read (a + 9) 1 = step % 2 ^ 8 ∧ (u.mem.read (a + 10) 1) % 2 = 1) ∧
      ∀ z, z < a ∨ a + 16 ≤ z → u.mem.byte z = s'.mem.byte z

/-- R337, R338: a tier move takes a frame, marks its page as moving and owns its lines; one that finds no frame is dropped and counted; when it ends, the page is in its new frame, the
leaf names it, the frame it left is on its stack, nothing of it is owned, and no station holds its page. -/
def Sys2Proof.Claims.TierMoves : Prop :=
  ∀ (s : State) (m : Move), At s (.num m.id) → s.moves = [m] →
    let rec_ := s.mgmt.smrbase + 128 * m.space
    let cnt := rec_ + (if m.promote then 8 else 24)
    let e := s.tableEntry m.leafAt
    (m.started = false → s.owned = [] → e % 4 = 3 → entryAddr e = m.src → e / 2 ^ 8 % 2 ^ 8 = m.srcState → s.mem.wf = true →
      (s.mem.read cnt 4 = 0 → leadsTo .tierMove s fun u => u.moves = [] ∧ u.cores = s.cores ∧ u.mem.read (rec_ + 48) 8 = (s.mem.read (rec_ + 48) 8 + 1) % 2 ^ 64 ∧
        ∀ z, z < rec_ + 48 ∨ rec_ + 56 ≤ z → u.mem.byte z = s.mem.byte z) ∧
      (s.mem.read cnt 4 ≠ 0 → leadsTo .tierMove s fun u => (∃ dst, u.moves = [{ m with started := true, dst }]) ∧ u.owned.map (·.line) = (List.range 1024).map (fun i => m.src + 64 * i) ∧
        u.mem.read (m.leafAt + 1) 1 = 8 ∧ (m.leafAt + 1 < cnt ∨ cnt + 4 ≤ m.leafAt + 1 → u.mem.read cnt 4 = s.mem.read cnt 4 - 1))) ∧
    (m.started = true → s.mem.wf = true →
      let near := isNear m.src
      let count := rec_ + (if near then 8 else 24)
      let n := s.mem.read count 4
      let slot := s.smr m.space (if near then 0 else 128) 48 + 8 * n
      let apart (a k b j : Nat) : Prop := a + k ≤ b ∨ b + j ≤ a
      (near = true ∨ isFar m.src = true) → apart rec_ 128 m.leafAt 16 → apart rec_ 128 m.dst 65536 → apart rec_ 128 slot 8 → apart m.leafAt 16 m.dst 65536 → apart m.leafAt 16 slot 8 → apart m.dst 65536 slot 8 →
      leadsTo .tierMove s fun u => u.mem.read (m.leafAt + 1) 1 = m.newState % 2 ^ 8 ∧ u.mem.read (m.leafAt + 2) 5 = m.dst / 2 ^ 8 % 2 ^ 40 ∧ u.mem.read slot 8 = m.src % 2 ^ 64 ∧ u.mem.read count 4 = (n + 1) % 2 ^ 32 ∧
        ((m.promote = true → isFormat m.srcState = false) → (m.promote = false → m.fmt = 0) → ∀ i, i < 65536 → u.mem.byte (m.dst + i) = s.mem.byte (m.src + i))) ∧
    (m.started = true → leadsTo .tierMove s fun u => u.moves = [] ∧ u.cores = s.cores ∧ u.owned = s.owned.filter (fun o => o.owner != .move m.id) ∧
      ∀ p ∈ u.stations, ∀ x ∈ p.2.entries, x.space ≠ m.space ∨ x.va / 2 ^ 16 ≠ m.va / 2 ^ 16)

/-- R320, R322, R337, R338: porter programs and tier moves. -/
def Obligations.PorterPrograms : Prop := Claims.RunsStart ∧ Claims.RunsEnd ∧ Claims.TierMoves

/-! ### The host port and the command processor -/

/-- R352, R353, R358: the record of a completion goes to its ring while the ring has room, its function is not frozen and none of its queue is held: it holds the command's identifier, the status and the phase of
this round, and raises the queue's vector where the command asked for it and the vector is the function's (log 44). Otherwise it is held. -/
def Sys2Proof.Claims.CompletionRecords : Prop :=
  ∀ (s : State) (c : Completion), s.mem.wf = true →
    let q := s.queue c.q
    let n := 2 ^ (q.cqsize + 4)
    let key := 2 ^ 47 + (q.cqbase + 32 * (q.cqcount % n)) % 2 ^ 64
    let u := s.report c
    (q.cqused < n → (s.fn q.fn).frozen = none → s.held.all (fun h => h.q != c.q) = true → c.cid < 2 ^ 32 → u.mem.read key 4 = c.cid ∧ u.mem.read (key + 4) 1 = c.status % 2 ^ 8 ∧
      u.mem.read (key + 6) 1 = 1 - q.cqcount / n % 2 ∧ (∀ z, z < key ∨ key + 32 ≤ z → u.mem.byte z = s.mem.byte z) ∧ (u.queue c.q).cqused = q.cqused + 1 ∧ (u.queue c.q).cqcount = q.cqcount + 1 ∧
      (c.irq = true → vecOwned q.fn q.vec = true → q.vec ∈ u.pba) ∧ u.held = s.held) ∧
    (n ≤ q.cqused → u.held = s.held ++ [c] ∧ u.mem = s.mem)

/-- R351 to R353: SQTAIL fetches the commands up to the tail; INLGO submits the window, and the ring's indices stay; CQHEAD frees the records consumed; EN enables and disables; a disabled queue, or a page that is not the
function's, ignores its doorbells (a disabled queue: log 38). -/
def Sys2Proof.Claims.Doorbells : Prop :=
  ∀ (s : State) (q f v : Nat), At s (.queue q f v) → q < 64 → f < 17 →
    let x := s.queue q
    let ring := 2 ^ (min x.sqsize 8 + 4)
    let open_ : Prop := (s.fn f).frozen = none ∧ (f = 0 ∨ x.fn = f)
    let known (body : Nat) (i : Instr) : Prop := cmdInstr (body % 256) = some i ∧ body / 2 ^ 10 % 2 ^ 22 = 0 ∧ (body % 256 < 0x10 ∨ x.fn = 0)
    let ring0 := s.mem.read (2 ^ 47 + (x.sqbase + 128 * (x.sqhead % ring)) % 2 ^ 64) 128
    (s.ready = true → open_ → x.en = true → (v % 2 ^ 16 + ring - x.sqhead % ring) % ring = 1 → ∀ i, known ring0 i → leadsTo .sqtail s fun u => ∃ k, u.cmds = s.cmds ++ [k] ∧ k.q = q ∧ k.body = ring0 ∧
      k.started = false ∧ k.by_ = f ∧ k.since = s.tick ∧ k.uid = s.nextUid ∧ (i, .num k.uid) ∈ u.pending ∧ (u.queue q).sqhead = (x.sqhead + 1) % ring) ∧
    (x.en = false → exec .sqtail s = .next s ∧ exec .inlgo s = .next s) ∧ (s.ready = true → (s.fn f).frozen ≠ none → exec .cqhead s = .next s) ∧
    (s.ready = true → open_ → x.en = true → v % 2 = 1 → ∀ i, known x.inline i → leadsTo .inlgo s fun u => ∃ k, u.cmds = s.cmds ++ [k] ∧ k.q = q ∧ k.body = x.inline ∧ k.by_ = f ∧ k.since = s.tick ∧ (i, .num k.uid) ∈ u.pending ∧ u.queues = s.queues) ∧
    (s.ready = true → open_ → s.held = [] → leadsTo .cqhead s fun u => let n := 2 ^ (x.cqsize + 4)
      u.mem = s.mem ∧ u.queue q = { x with cqused := x.cqused - (v % 2 ^ 16 % n + n - (x.cqcount - x.cqused) % n) % n }) ∧
    (s.power = true → open_ → v % 2 = 1 → leadsTo .queueEn s fun u => u.queue q = { x with en := true } ∧ u.cmds = s.cmds ∧ u.mem = s.mem) ∧
    (s.power = true → open_ → v % 2 = 0 → leadsTo .queueEn s fun u => (u.queue q).en = false ∧ ∀ k ∈ u.cmds, k.q = q → k.started = true)

/-- R400: a BAR 2 write of the function that submitted a command, delivered before the doorbell or INLGO that submitted it, is performed before the command starts. -/
def Sys2Proof.Claims.EarlierWrites : Prop :=
  ∀ (s : State) (k : HostCmd) (a : HostAccess), a ∈ s.bar2 → a.data.isSome = true → a.fn = k.by_ → a.since < k.since → s.chosen k = false

/-- R351 to R353, R358, R400: doorbells, the BAR 2 writes before them, and completion records. -/
def Obligations.QueuesAndCompletions : Prop := Claims.Doorbells ∧ Claims.EarlierWrites ∧ Claims.CompletionRecords

/-- R350, R351, R354, R355, R349, R389: register writes of the PF reach queue pages and management registers; a VF's write of a protected field freezes it; registers read as they stand, those only written as zero, and a frozen
function's reads are not served; a BAR 2 access waits behind those of its function, then a write puts its bytes and a read answers them, poisoned where a line fails its check; none is served while the device is not ready, the
function is frozen, or beyond the BAR; a write leaves the read-only fields of a group record (R12, R412); and a function's reset disables its queues and retires its launches as failed. That FN 17 to 31 leaves FN as it is, and
which registers BAR 0 reads answer, is log 44; poison and the bound of 4 KiB on an access are log 40. -/
def Obligations.RegistersAndWindows : Prop :=
  (∀ (s : State) (q v : Nat), s.power = true → (s.fn 0).frozen = none → q < 64 →
    let o := 0x10_0000 + 4096 * q
    (At s (.reg 0 o v) → leadsTo .registerWrite s fun u => u.queue q = { s.queue q with sqbase := v % 2 ^ 64 }) ∧
    (At s (.reg 0 (o + 8) v) → leadsTo .registerWrite s fun u => (let fn := v / 2 ^ 6 % 32
       let x := { s.queue q with sqsize := v % 16, prio := v / 2 ^ 4 % 4 }
       (fn ≤ 16 → u.queue q = { x with fn }) ∧ (16 < fn → u.queue q = x)) ∧
      u.agenda = .event .queueEn (.queue q 0 (v / 2 ^ 11 % 2)) :: s.agenda) ∧
    (At s (.reg 0 (o + 0x40) v) → leadsTo .registerWrite s fun u => u.agenda = .event .sqtail (.queue q 0 (v % 2 ^ 64)) :: s.agenda ∧ u.queues = s.queues) ∧
    (At s (.reg 0 0x1000 v) → s.launches = [] → leadsTo .registerWrite s fun u => u.mgmt = { s.mgmt with sptbase := v % 2 ^ 48 }) ∧
    (At s (.reg 0 0x1000 v) → s.launches ≠ [] → leadsTo .registerWrite s fun u => u = s)) ∧
  (∀ (s : State) (f q v : Nat), At s (.reg f 0x010 v) → 0 < f → f < 17 → s.power = true → (s.fn f).frozen = none → ((List.range 64).filter fun q => (s.queue q).fn == f) = [q] →
    leadsTo .registerWrite s fun u => (u.fn f).frozen ≠ none ∧ u.queues = s.queues) ∧
  (∀ (s s' : State) (f off n pa : Nat) (l : TLeaf) (d : Option (List Byte)), f < 17 → 0 < n → off % 4096 + n ≤ 4096 →
    let a : HostAccess := ⟨f, off, n, d, s.tick⟩
    let i : Instr := if d.isSome then .bar2Write else .bar2Read
    let g := s.fn f
    let refused : Prop := s.ready = false ∨ g.frozen ≠ none ∨ 2 ^ (30 + min g.bar 6) < off + n
    let kind := if d.isSome then 1 else 0
    (match d with | some b => At s (.bytes f off b) ∧ b.length = n | none => At s (.reg f off n)) →
    let s0 : State := { (match d with | some b => s.unpost i (.bytes f off b) | none => s.unpost i (.reg f off n)) with bar2 := s.bar2 ++ [a] }
    let r : Req := { ev := (i, .num f), station := 0, space := g.space, tenant := g.tenant, ctag := 0, who := 0 }
    (refused → leadsTo i s fun u => u.mem = s.mem ∧ u.hostReads = s.hostReads ++ (if d.isSome then [] else [⟨f, off, none, false⟩])) ∧
    (¬ refused → s.bar2.any (fun x => x.fn == f) = true → leadsTo i s fun u => u.mem = s.mem ∧ u.hostReads = s.hostReads ∧ u.bar2 = s.bar2 ++ [a]) ∧
    (¬ refused → s.bar2.any (fun x => x.fn == f) = false → Granted s0 s' r (g.win * 2 ^ 30 + off) kind n pa l →
      (∀ b, d = some b → s'.mem.wf = true → leadsTo i s fun u => (∀ j (h : j < b.length), u.mem.byte (pa + j) = if roByte (pa + j) then s'.mem.byte (pa + j) else b[j]) ∧ ∀ z, z < pa ∨ pa + b.length ≤ z → u.mem.byte z = s'.mem.byte z) ∧
      (d = none → l.state = 0 → s'.mem.failing l pa n = [] → leadsTo i s fun u => u.hostReads = s'.hostReads ++ [⟨f, off, some (s'.mem.bytes pa n), false⟩] ∧ ∀ z, u.mem.byte z = s'.mem.byte z) ∧
      (∀ x, d = none → l.state = 0 → s'.mem.failing l pa n = [x] → leadsTo i s fun u => u.hostReads = s'.hostReads ++ [⟨f, off, some (s'.mem.bytes pa n), true⟩] ∧ u.outerr = x % 2 ^ 48 ∧ 0 ∈ u.pba))) ∧
  (∀ (s : State) (q : Nat), s.power = true → (s.fn 0).frozen = none → q < 64 →
    let x := s.queue q
    let o := 0x10_0000 + 4096 * q
    s.registerRead 0 0 = some 0x0000_2600_0000_4E59 ∧ s.registerRead 0 0x018 = some s.outerr ∧ s.registerRead 0 0x1028 = some s.mgmt.fzcount ∧ s.registerRead 0 o = some x.sqbase ∧ s.registerRead 0 (o + 0x048) = some x.sqhead ∧
      s.registerRead 0 (o + 0x040) = some 0 ∧ s.registerRead 0 (o + 0x010) = some (x.qspace + 2 ^ 16 * x.qtenant) ∧ ∀ f, (s.fn f).frozen ≠ none → s.registerRead f o = none) ∧
  ∀ (s : State) (f : Nat), At s (.num f) → 0 < f → f < 17 → s.power = true →
    ((s.fn f).frozen = none → s.cmds = [] → (s.launches.map (·.id)).Nodup → leadsTo .functionLevelReset s fun u => u.mem = s.mem ∧ (∀ q, q < 64 → u.queue q = if (s.queue q).fn = f then { s.queue q with en := false } else s.queue q) ∧
      ∀ l ∈ s.launches, l.fn = f → l.phase ≠ .saved → ∃ k ∈ u.launches, k.id = l.id ∧ k.phase = .retiring ∧ k.failure.isSome) ∧
    ((s.fn f).frozen ≠ none → exec .functionLevelReset s = .next s)

/-- R318, R359, R363, R364, R361, R366, R276: a LAUNCH that is refused completes with its status; one that fits takes the first rectangle; its broadcast starts every core with its launch values; a resumed launch starts in its handlers with
cause 0x0D; and a launch that retires gives its cores back cleared. A graph's nodes start when their predecessors have retired, and are placed like launches. While a line that the command processor must read is owned, a launch and a node wait for its
recall (R318). -/
def Obligations.LaunchLife : Prop :=
  (∀ (s : State) (k : HostCmd), At s (.num k.uid) → s.hostCmd k.uid = some k → s.chosen k = true →
    (s.launches.find? (fun l => l.uid == k.uid && l.graph.isNone) = none →
      (∀ n, s.standing (s.queue k.q) k.uid k.body = .refused n → exec .cmdLaunch s = .next (((s.logRefusal (s.queue k.q) k.body n).startCmd k).finishCmd k ⟨n, 0, 0, 0, 0⟩)) ∧
      (∀ r t tag, s.standing (s.queue k.q) k.uid k.body = .fits r t → s.freeCtag = some tag → leadsTo .cmdLaunch s fun u => ∃ l, u.launches = s.launches ++ [l] ∧ l.phase = .placing ∧ l.cores = r.cores ∧ l.uid = k.uid ∧
        l.ctag = tag ∧ l.started = false ∧ l.space = k.body / 2 ^ 160 % 2 ^ 16 ∧ l.tenant = k.body / 2 ^ 176 % 2 ^ 16 ∧ l.tinkers = k.body / 2 ^ 152 % 2 ^ 7)) ∧
    (∀ g, k.started = false → s.graphRecord (s.queue k.q) k.uid (k.field 15 8) = some g → leadsTo .cmdGraph s fun u =>
      ∀ n, n < g.nodes.length → g.preds.getD n 0 = 0 → (.graphNodeStart, .node k.uid n) ∈ u.pending) ∧
    (k.started = false → s.graphRecord (s.queue k.q) k.uid (k.field 15 8) = none →
      exec .cmdGraph s = .next (((s.logGraph (s.queue k.q) (k.field 15 8)).startCmd k).finishCmd k ⟨1, 0, 0, 0, 0⟩))) ∧
  (∀ (s : State) (uid n tag : Nat) (g : Graph) (k : HostCmd) (r : Rect) (t : LaunchTables), At s (.node uid n) → s.graphOf uid = some g → s.hostCmd uid = some k → g.uid = uid →
    s.launches.find? (fun l => l.graph == some (uid, n)) = none → g.ready n = true →
    (s.recordBad (s.queue k.q) (g.bodies.getD n 0) = false → s.launchBusy (g.bodies.getD n 0) = true → exec .graphNodeStart s = .next s) ∧ (s.launchBusy (g.bodies.getD n 0) = false →
    s.standing (s.queue k.q) k.uid (g.bodies.getD n 0) = .fits r t → s.freeCtag = some tag → leadsTo .graphNodeStart s fun u => ∃ l, u.launches = s.launches ++ [l] ∧ l.phase = .placing ∧ l.graph = some (uid, n) ∧ l.cores = r.cores)) ∧
  (∀ (s : State) (l : Launch) (t : LaunchTables), At s (.num l.uid) → (∃ k, s.hostCmd l.uid = some k) → s.launches = [l] → l.graph = none → l.phase = .placing → (s.launchBusy l.body = true → exec .cmdLaunch s = .next s) ∧ (s.launchBusy l.body = false → s.launchTables l.body = some t → s.resolves l = true →
    l.groupSlot = none → l.cores.Nodup → s.mem.wf = true → (∀ c ∈ l.cores, c < 2048) → leadsTo .cmdLaunch s fun u => (∃ m ∈ u.launches, m.id = l.id ∧ m.phase = .running ∧ m.started = true) ∧
      ∀ i (h : i < l.cores.length), let c := u.core l.cores[i]
        c.run = .running ∧ c.pc = 0 ∧ c.launch = l.id ∧ (∀ r : SReg, c.s[r] = 0) ∧ (∀ r : VReg, c.v[r] = 0) ∧ (∀ r : MReg, c.m[r] = BitVec.allOnes 128) ∧ (∀ r : Pred, c.p[r] = (r == 0)) ∧
        c.sp.fpctl = 0 ∧ c.sp.fpstat = 0 ∧ c.sp.clk = 0 ∧ c.sp.handler = false ∧ c.sp.preen = l.preen ∧ c.sp.compat = l.l4 ∧ c.sp.scalel = 0x7F00 ∧ c.sp.srseed = 0x2545F491 ∧
        c.sp.rank.toNat = (i + 2 ^ 16 * (l.width * l.height)) % 2 ^ 64 ∧ u.mem.read (spadKey l.cores[i] 0) 256 = t.shape % 2 ^ 2048)) ∧
  (∀ (s : State) (l : Launch), At s (.launch l.id) → s.launches = [l] → l.groupSlot = none → l.phase = .saved → s.canResume l = true → l.ownHandler = true → l.cores.Nodup → leadsTo .launchResume s fun u =>
    (∃ m ∈ u.launches, m.id = l.id ∧ m.phase = .running) ∧ ∀ c ∈ l.cores, (u.core c).run = .running ∧ (u.core c).sp.handler = true ∧ (u.core c).pc = 0x1_F000 ∧ (u.core c).sp.xcause = 0x0D) ∧
  ∀ (s : State) (l : Launch), At s (.launch l.id) → s.launches = [l] → l.phase = .retiring → l.groupSlot = none → (∀ c ∈ l.cores, (s.core c).outstandingCmds = [] ∧ (s.core c).dirtyLines = []) → s.runsOf l.ctag = false →
    l.graph = none → s.hostCmd l.uid = none → leadsTo .launchRetire s fun u => u.launches = [] ∧ ∀ c ∈ l.cores, (u.core c).run = .idle ∧ (∀ r : SReg, (u.core c).s[r] = 0) ∧ (u.core c).code = (s.core c).code

/-- R362, R367 to R373, R327, R344, R379: what the other commands do when their turn has come, and how they end. -/
def Obligations.HostCommands : Prop :=
  ∀ (s : State) (k : HostCmd), At s (.num k.uid) → s.hostCmd k.uid = some k →
    let st (n : Nat) : Failure := ⟨n, 0, 0, 0, 0⟩
    let fn := (s.queue k.q).fn
    let field (hi lo : Nat) := k.body / 2 ^ (8 * lo) % 2 ^ (8 * (hi - lo) + 8)
    let tok := field 15 8 % 2 ^ 12
    let goes : Prop := s.chosen k = true ∧ k.started = false
    let t := s.startCmd k
    let written : Prop := k.off = 0 → s.writersCopy k = false ∧ s.writersDirty = []
    -- SIGNAL raises its token to the value, once every earlier command of its queue has completed
    (k.started = true → s.earlierDone k = true → exec .cmdSignal s = .next (({ s with tokens := sput 0 s.tokens tok (max (sget 0 s.tokens tok) (field 23 16)) } : State).finishCmd k (st 0))) ∧
    (goes → fn = 0 → exec .cmdSignal s = .next t) ∧
    (goes → fn ≠ 0 → Config.tokenFn tok ≠ fn → exec .cmdSignal s = .next ((t.freezeFn fn tok).finishCmd k (st 1)) ∧ exec .cmdWait s = .next ((t.freezeFn fn tok).finishCmd k (st 1))) ∧
    (goes → fn ≠ 0 → Config.tokenFn tok = fn → exec .cmdSignal s = .next t ∧ exec .cmdWait s = .next (t.finishCmd k (st 0))) ∧
    -- WAIT completes when it can start
    (goes → fn = 0 → exec .cmdWait s = .next (t.finishCmd k (st 0))) ∧
    -- COPY waits until what wrote its buffers is in memory, moves the bytes between two host buffers a piece at a time, and ends when all of them are moved
    (goes → field 31 24 ≤ 2 ^ 40 → leadsTo .cmdCopy s fun u => u.mem = s.mem ∧ (u.hostCmd k.uid).map (fun x => (x.started, x.off, x.behind)) = some (true, k.off, s.writers.flatMap fun c => (s.core c).outstandingCmds.map fun i => (c, i))) ∧
    (goes → 2 ^ 40 < field 31 24 → exec .cmdCopy s = .next (t.finishCmd k (st 1))) ∧
    (k.started = true → k.off = 0 → s.writersCopy k = true → exec .cmdCopy s = .next s) ∧
    (k.started = true → written → k.off = field 31 24 → exec .cmdCopy s = .next (s.finishCmd k (st 0))) ∧
    (let a := field 15 8 + k.off
     let d := field 23 16 + k.off
     let n := min (field 31 24 - k.off) (min (64 - a % 64) (64 - d % 64))
     let src := 2 ^ 47 + a % 2 ^ 63
     let dst := 2 ^ 47 + d % 2 ^ 63
     k.started = true → written → k.off < field 31 24 → a / 2 ^ 63 % 2 = 1 → d / 2 ^ 63 % 2 = 1 → s.mem.devError src n (decide (n < 64)) = (0, 0) → s.mem.wf = true →
     leadsTo .cmdCopy s fun u => (∀ i, i < n → u.mem.byte (dst + i) = s.mem.byte (src + i)) ∧ (∀ z, z < dst ∨ dst + n ≤ z → u.mem.byte z = s.mem.byte z) ∧ u.hostCmd k.uid = some { k with off := k.off + n }) ∧
    -- PARTITION: refused, nothing to do, or the sequence begins; at its end STKROLE has the new number
    (goes → badPartition (field 15 8) = true → leadsTo .cmdPartition s fun u => u.stkN = s.stkN ∧ u.stkBusy = s.stkBusy ∧ u.sequence = s.sequence ∧ u.cores = s.cores ∧ ∃ v : State, u = v.finishCmd k (st 1)) ∧
    (goes → badPartition (field 15 8) = false → field 15 8 % 16 = s.stkN → exec .cmdPartition s = .next (t.finishCmd k (st 0))) ∧
    (goes → badPartition (field 15 8) = false → field 15 8 % 16 ≠ s.stkN → leadsTo .cmdPartition s fun u => u.stkBusy = true ∧ u.stkN = s.stkN ∧ ∃ q, u.sequence = some q ∧ q.uid = k.uid ∧ q.new = field 15 8 % 16 ∧ q.checkpoint = false) ∧
    (∀ q, k.started = true → s.sequence = some q → q.uid = k.uid → q.step = 2 → q.new ≤ s.stkN → s.owned = [] → leadsTo .cmdPartition s fun u => u.stkN = q.new ∧ u.stkBusy = false ∧ u.sequence = none) ∧
    -- CHECKPOINT begins; it drains the device, and while work goes on it waits
    (∀ q, k.started = true → s.sequence = some q → q.uid = k.uid → q.step = 1 → s.toDrain = [] → s.runsToEnd = [] → exec .cmdCheckpoint s = .next { s with sequence := some { q with step := 2 } }) ∧
    (goes → field 23 16 / 2 ^ 5 % 8 = 0 → field 23 16 / 2 ^ 32 = 0 → leadsTo .cmdCheckpoint s fun u => u.mem = s.mem ∧ ∃ q, u.sequence = some q ∧ q.uid = k.uid ∧ q.checkpoint = true ∧ q.dest = field 15 8) ∧
    (∀ q, k.started = true → s.sequence = some q → q.uid = k.uid → q.step = 2 → q.checkpoint = true → s.quiet = false → exec .cmdCheckpoint s = .next s) ∧
    (∀ q, k.started = true → s.sequence = some q → q.uid = k.uid → q.step = 2 → q.checkpoint = true → s.quiet = true → leadsTo .cmdCheckpoint s fun u => u.sequence = none ∧ u.cores = s.cores) ∧
    -- FREEZE_CLEAR: an unknown record is refused, and a core frozen for anything but a trap in its handler goes on
    (goes → field 15 12 = 0 → field 23 16 ≤ 1 → t.frozenBy (field 11 8) = none → exec .cmdFreezeClear s = .next (t.finishCmd k (st 1))) ∧
    (∀ id v hd, goes → field 15 12 = 0 → field 23 16 = 0 → t.frozenBy (field 11 8) = some (.core id v hd) → v.kind ≠ 4 → leadsTo .cmdFreezeClear s fun u =>
      (u.core id).run = (if hd then .halted else .running) ∧ (u.core id).held = none ∧ (u.core id).s = (s.core id).s ∧ u.cmds.find? (fun x => x.uid == k.uid) = none) ∧
    -- INVAL empties the stations of a space, or of all, and ends when no line of it is owned
    (goes → leadsTo .cmdInval s fun u => u.mem = s.mem ∧ ∀ p ∈ u.stations, ∀ e ∈ p.2.entries, field 9 8 ≠ 0xFFFF ∧ e.space ≠ field 9 8) ∧
    (k.started = true → s.owned = [] → exec .cmdInval s = .next (s.finishCmd k (st 0))) ∧
    -- HTSET copies its entries into the slot and binds the space
    (let slot := field 11 10
     let n := field 15 14
     let dst := s.mgmt.htbase + 65536 * slot + 16 * field 13 12
     goes → slot ≤ 511 → field 13 12 + n ≤ 4096 → 0 < n → s.hasMemory (field 23 16) = true → s.hasMemory (field 23 16 + 16 * n - 1) = true → s.owned = [] → s.mem.wf = true → leadsTo .cmdHtset s fun u => ∃ v : State, u = v.finishCmd k (st 0) ∧
       (∀ i, i < 16 * n → v.mem.byte (dst + i) = s.mem.byte (field 23 16 + i)) ∧ (∀ z, z < dst ∨ dst + 16 * n ≤ z → v.mem.byte z = s.mem.byte z) ∧ (v.slots.find? fun x => x.1 == field 9 8) = some (field 9 8, slot)) ∧
    -- ATTEST writes its report and its signature
    (goes → s.mem.wf = true → leadsTo .cmdAttest s fun u => ∃ v : State, u = v.finishCmd k (st 0) ∧ let rep := s.report256 (field 39 8)
      let sig := edSign (bytesOf 57 Config.deviceKey) rep
      (∀ i (h : i < rep.length), v.mem.byte (2 ^ 47 + field 47 40 + i) = rep[i]) ∧ ∀ i (h : i < sig.length), v.mem.byte (2 ^ 47 + field 47 40 + rep.length + i) = sig[i])

/-! ### Power, heat, errors -/

/-- R375 to R378, R380, R381, R71, R309, R404: bring-up that succeeds makes the device ready, with the strata and versions it found and device memory all zero; a failing step leaves FAIL and FAILCODE, with what the steps before it did.
Power loss, and the critical limit, leave nothing but configuration flash. Allowances are kept between 29 and 34, and at 29 once the warning limit is reached, which writes an event. A bit error marks its word, or goes unseen by
it and fails the line's check value; and a failed link may lose flits from then on. -/
def Obligations.PowerAndErrors : Prop :=
  (∀ (s : State) (b : BringUp), At s (.bringUp b) → s.ready = false → s.fail = false →
    (b.failStep = none → 1 ≤ b.strata → b.strata ≤ 8 → s.rollback ≤ b.fwver → s.mem.wf = true → leadsTo .powerGood s fun u => u.power = true ∧ u.ready = true ∧ u.fail = false ∧ u.stkN = b.strata ∧
      u.modnum = b.modnum % 2 ^ 13 ∧ u.fwver = b.fwver % 2 ^ 16 ∧ u.cfgver = b.cfgver % 2 ^ 16 ∧ u.rollback = b.fwver ∧ (∀ a, a < 2 ^ 47 → u.mem.byte a = 0) ∧ ∀ a, 2 ^ 47 ≤ a → u.mem.byte a = s.mem.byte a) ∧
    (∀ k, b.failStep = some k → k ≤ 5 → exec .powerGood s = .next { s with power := true, fail := true, failcode := k }) ∧
    (∀ k, b.failStep = some k → 6 ≤ k → 1 ≤ b.strata → b.strata ≤ 8 → s.rollback ≤ b.fwver → s.mem.wf = true → leadsTo .powerGood s fun u => u.power = true ∧ u.ready = false ∧ u.fail = true ∧ u.failcode = k ∧ u.stkN = b.strata ∧
      u.fwver = b.fwver % 2 ^ 16 ∧ u.cfgver = b.cfgver % 2 ^ 16 ∧ u.rollback = b.fwver ∧ (k = 6 → u.mem = s.mem) ∧ (6 < k → ∀ a, a < 2 ^ 47 → u.mem.byte a = 0)) ∧
    (b.failStep = none → b.fwver < s.rollback → exec .powerGood s = .next { s with power := true, fail := true, failcode := 5 })) ∧
  (∀ (s : State) (i : Instr), i = .powerLoss ∨ i = .thermalCritical → At s .unit → s.mem.wf = true → leadsTo i s fun u => u.power = false ∧ u.ready = false ∧ u.cores = [] ∧ u.launches = [] ∧ u.cmds = [] ∧ u.pending = [] ∧ u.wires = [] ∧
    u.queues = State.reset.queues ∧ u.mgmt = State.reset.mgmt ∧ u.rollback = s.rollback ∧ (∀ a, a < 2 ^ 47 → u.mem.byte a = 0) ∧ ∀ a, 2 ^ 47 ≤ a → u.mem.byte a = s.mem.byte a) ∧
  (∀ (s : State) (n : Nat), At s (.num n) → s.power = true → leadsTo .tokenAllowanceUpdate s fun u => u = { s with allowance := u.allowance } ∧ 29 ≤ u.allowance ∧ u.allowance ≤ 34 ∧
    (s.thermal = true → u.allowance = 29) ∧ (s.thermal = false → 29 ≤ n → n ≤ 34 → u.allowance = n)) ∧
  (∀ s : State, At s .unit → s.power = true → s.mem.wf = true → leadsTo .thermalWarning s fun u =>
    let key := 2 ^ 47 + (s.mgmt.evqbase + 64 * (s.evqCount % (s.mgmt.evqsize + 1))) % 2 ^ 64
    u.thermal = true ∧ u.allowance = 29 ∧ u.evqCount = s.evqCount + 1 ∧ 2 ∈ u.pba ∧ u.cores = s.cores ∧ u.mem.read key 1 = 4 ∧ u.mem.read (key + 1) 1 = 1 - s.evqCount / (s.mgmt.evqsize + 1) % 2 ∧
    ∀ z, z < key ∨ key + 64 ≤ z → u.mem.byte z = s.mem.byte z) ∧
  (∀ (s : State) (a b : Nat), let w := a / 8 * 8
    (At s (.bit (.single a b)) → w ∉ s.mem.ecc1 → w ∉ s.mem.ecc2 → leadsTo .bitError s fun u => w ∈ u.mem.ecc1 ∧ u.mem.ecc2 = s.mem.ecc2 ∧ u.mem.cells = s.mem.cells ∧ u.cores = s.cores) ∧
    (At s (.bit (.single a b)) → w ∈ s.mem.ecc1 → leadsTo .bitError s fun u => w ∈ u.mem.ecc2 ∧ w ∉ u.mem.ecc1 ∧ (w ∉ s.mem.ecc2 → u.internalErr = true ∧ 0 ∈ u.pba)) ∧
    (At s (.bit (.double a)) → leadsTo .bitError s fun u => w ∈ u.mem.ecc2 ∧ (w ∉ s.mem.ecc2 → u.internalErr = true ∧ 0 ∈ u.pba) ∧ w ∉ u.mem.ecc1 ∧ u.mem.cells = s.mem.cells ∧ u.cores = s.cores) ∧
    (At s (.bit (.silent a b)) → s.mem.wf = true → leadsTo .bitError s fun u => u.mem.byte a = s.mem.byte a ^^^ BitVec.ofNat 8 (2 ^ (b % 8)) ∧ (∀ z, z ≠ a → u.mem.byte z = s.mem.byte z) ∧ u.mem.ecc2 = s.mem.ecc2)) ∧
  ∀ (s : State) (p : Nat), At s (.num p) → p < 18 → exec .linkFailure s = .next { s with linkDown := true }

/-! ### The fabric -/

namespace Sys2Proof.Claims
/-- A flit of a type has arrived at a port of a ready module, passes its checks, and is one that its link takes: it is not behind a flit that failed and is still to come again (R404). -/
def Arrived (s : State) (ty : Nat) (x : Flit) : Prop :=
  At s (.flit x) ∧ x.port < 18 ∧ s.ready = true ∧ flitOk x.bytes = true ∧ (s.linkIn x.port).takes (flitSeq x.bytes) = true ∧ flitHead x.bytes % 16 = ty
/-- The types of flits with the events of their arrival. -/
def flitTypes : List (Nat × Instr) :=
  [(1, .msgFlit), (2, .grantFlit), (3, .ackFlit), (4, .refuseFlit), (5, .stepFlit), (6, .abortFlit), (7, .finalFlit), (8, .agreedFlit), (9, .readyFlit), (10, .dataFlit), (11, .gangpreFlit)]
end Sys2Proof.Claims

/-- R404, R408 to R410: a flit that comes before the module is ready does nothing. One whose CRC fails is lost and its link waits for it: until its LSEQ comes again, what comes on that link is not taken, and of other links nothing changes. A flit
taken that has a reserved type or a nonzero zero field does nothing more. A message with a new tag is delivered to an open endpoint, lowers GRANTOUT and is seen; one seen before is not delivered
again. A GRANT gives allowances to the sending end; an ACK releases the oldest retained message with its tag, a REFUSE moves it to the resend queue; and a message unacknowledged for RTOUS goes out again. DATA writes its line, or waits for the recall of a line that is owned (R318); the read-only fields of a group record stay (R12, R412).
Where a stream is placed is a constant of the machine (log 21). -/
def Obligations.RoutedFlits : Prop :=
  (∀ (s : State) (x : Flit) (p : Nat × Instr), p ∈ flitTypes → At s (.flit x) → x.port < 18 → (s.ready = false → exec p.2 s = .next s) ∧
    (s.ready = true → swf LinkIn.reset s.links = true → let l := s.linkIn x.port
      let onlyLink (y : LinkIn) (u : State) : Prop := u = { s with links := u.links } ∧ u.linkIn x.port = y ∧ ∀ q, q ≠ x.port → u.linkIn q = s.linkIn q
      (crcOk x.bytes = false → leadsTo p.2 s (onlyLink { l with retry := true })) ∧
      (crcOk x.bytes = true → l.retry = true → l.next ≠ flitSeq x.bytes → exec p.2 s = .next s) ∧
      (crcOk x.bytes = true → l.takes (flitSeq x.bytes) = true → flitOk x.bytes = false ∨ flitHead x.bytes % 16 ≠ p.1 → leadsTo p.2 s (onlyLink ⟨(flitSeq x.bytes + 1) % 256, false⟩)) ∧
      (l.takes (flitSeq x.bytes) = true ↔ (l.retry = true → l.next = flitSeq x.bytes)))) ∧
  (∀ (s : State) (x : Flit), Arrived s 1 x → flitHead x.bytes / 2 ^ 4 % 4 = 1 → bits (s.routeEntry (flitRoute x.bytes)) 47 47 = 0 →
    let h := flitRoute x.bytes
    let r := s.route h
    let m := flitSlotData x.bytes 0 % 2 ^ 512
    let tag := messageTag m
    (∀ core ch, s.routeEnd h 2 = .here core ch → ((s.core core).ep ch).sealed = false → tag ∉ r.seen → tag ∉ r.prevSeen → r.seen.length < 4096 → leadsTo .msgFlit s fun u =>
      ((u.core core).ep ch).msgs = ((s.core core).ep ch).msgs ++ [m] ∧ ((u.core core).ep ch).grantOut = ((s.core core).ep ch).grantOut - 1 ∧ (u.route h).seen = r.seen ++ [tag] ∧ u.mem = s.mem ∧
      u.outFlits = s.outFlits ∧ (u.core core).s = (s.core core).s ∧ ∀ j, j ≠ core → u.core j = s.core j) ∧
    (∀ core ch, s.routeEnd h 2 = .here core ch → tag ∈ r.seen ∨ tag ∈ r.prevSeen → tag ∉ r.acked → leadsTo .msgFlit s fun u =>
      ((u.core core).ep ch).msgs = ((s.core core).ep ch).msgs ∧ u.route h = r ∧ u.mem = s.mem ∧ u.outFlits = s.outFlits)) ∧
  (∀ (s : State) (x : Flit) (core : Nat) (ch : Chan), Arrived s 2 x → let h := flitRoute x.bytes
    s.routeEnd h 1 = .here core ch → (s.route ((s.core core).ep ch).routeOf).resend = [] → leadsTo .grantFlit s fun u => onlyCore s u core ∧ u.routes = s.routes ∧ u.outFlits = s.outFlits ∧
      ((u.core core).ep ch).sendAllow = ((s.core core).ep ch).sendAllow + flitHead x.bytes / 2 ^ 112 % 2 ^ 8) ∧
  (∀ (s : State) (x : Flit) (a b : List (Nat × Nat)) (m c : Nat), let h := flitRoute x.bytes
    let t := flitWord x.bytes 0
    flitHead x.bytes / 2 ^ 112 % 2 ^ 8 = 1 → swf Route.empty s.routes = true → (s.route h).retained = a ++ (m, c) :: b → messageTag m = t → (∀ y ∈ a, messageTag y.1 ≠ t) →
    (Arrived s 3 x → leadsTo .ackFlit s fun u => (u.route h).retained = a ++ b ∧ (u.route h).resend = (s.route h).resend ∧ u.mem = s.mem ∧ u.cores = s.cores) ∧
    (Arrived s 4 x → (∀ core ch, s.routeEnd h 1 ≠ .here core ch) → (m, c) ∉ a → leadsTo .refuseFlit s fun u => (u.route h).retained = a ++ b ∧ (u.route h).resend = (s.route h).resend ++ [m] ∧ u.mem = s.mem ∧ u.cores = s.cores)) ∧
  (∀ (s : State) (h : Nat), At s (.num h) → h < 65536 →
    let us := s.routeEntry h / 2 ^ 64 % 2 ^ 32
    let limit := (if us = 0 then 100 else us) * mhz s.stkN
    ((s.route h).retained = [] → (s.route h).resend = [] → exec .retransmissionTimeout s = .next (s.unpost .retransmissionTimeout (.num h))) ∧
    (∀ m c, (s.route h).retained = [(m, c)] → limit ≤ s.clock - c → s.linkDown = false → leadsTo .retransmissionTimeout s fun u =>
      u.outFlits.length = s.outFlits.length + 1 ∧ (u.route h).retained = [(withStep (s.stepOf h) m, s.clock)] ∧ u.mem = s.mem ∧ u.cores = s.cores) ∧
    (∀ m c, (s.route h).retained = [(m, c)] → s.clock - c < limit → swf Route.empty s.routes = true → leadsTo .retransmissionTimeout s fun u => u.outFlits = s.outFlits ∧ u.route h = s.route h)) ∧
  ∀ (s : State) (x : Flit), Arrived s 10 x → flitHead x.bytes / 2 ^ 4 % 4 = 1 → s.routeEntry (flitRoute x.bytes) % 2 = 1 → s.mem.wf = true → s.peerLines = [] →
    let a := (Config.streamBase (flitRoute x.bytes) + 4 * (flitDesc x.bytes 0 / 4)) / 64 * 64
    s.hasMemory a = true → (s.ownerOf a = none → leadsTo .dataFlit s fun u => u.peerLines = [] ∧
      (∀ i, i < 64 → u.mem.byte (a + i) = if roByte (a + i) then s.mem.byte (a + i) else BitVec.ofNat 8 (flitSlotData x.bytes 0 / 2 ^ (8 * i))) ∧
      (∀ z, z < a ∨ a + 64 ≤ z → u.mem.byte z = s.mem.byte z) ∧ u.cores = s.cores) ∧
      (s.ownerOf a ≠ none → leadsTo .dataFlit s fun u => u.mem = s.mem ∧ u.cores = s.cores ∧ (∃ y, u.peerLines = [y] ∧ y.line = a ∧ y.data = flitSlotData x.bytes 0) ∧
        ∃ o, u.ownerOf a = some o ∧ ∃ w ∈ o.waiting, w.2 = (.dataFlit, .num (flitRoute x.bytes)))

/-- R412 to R416: STEP is kept for its member; an ABORT sets ABORTED, CAUSE and ABORTER, raises cause 0x12 at every core of the member launch that has not halted and closes the commit word, and a second one is answered with the same FINAL; FINALs are
collected, and the collector sends the least as AGREED, which reaches the group record; a member that cannot be reached is silent; READY of every member opens the gate, and after an abort a launch at its gate retires with status 5; GANGPRE pre-empts the member's launch; a slice that ends
with its launch running counts an overrun. -/
def Obligations.GroupTraffic : Prop :=
  (∀ (s : State) (x : Flit) (m : Nat), s.memberOf (flitGroup x.bytes) (flitSrc x.bytes) = some m → s.mem.wf = true →
    let g := flitGroup x.bytes
    let v := flitHead x.bytes / 2 ^ 64 % 2 ^ 48
    let y := s.group g
    (Arrived s 5 x → v ≠ 0 → leadsTo .stepFlit s fun u => sget 0 (u.group g).steps m = v ∧ (u.group g).commit = y.commit ∧ u.mem = s.mem ∧ u.cores = s.cores) ∧
    (Arrived s 6 x → y.closed = true → exec .abortFlit s = .next ((s.linkGood x.port (flitSeq x.bytes)).sendGroup g m 7 y.commit [])) ∧
    (∀ l, Arrived s 6 x → y.closed = false → s.launches = [l] → l.groupSlot = some g → l.phase = .running → leadsTo .abortFlit s fun u => (u.group g).closed = true ∧
      u.mem.read (groupAddr g + 22) 1 = 1 ∧ u.mem.read (groupAddr g + 23) 3 = flitWord x.bytes 0 % 2 ^ 8 + 2 ^ 8 * m ∧
      ∀ c ∈ l.cores, (s.core c).run ≠ .halted → (s.core c).run ≠ .complete → (⟨0x12, g + 2 ^ 8 * m, false⟩ : Cause) ∈ (u.core c).causes) ∧
    (Arrived s 7 x → leadsTo .finalFlit s fun u => (u.group g).finals.find? (fun f => f.1 == m) = some (m, v) ∧
      (y.closed = true → y.agreed = none → s.actingAborter g = s.selfIndex g → m ≠ s.selfIndex g → (∀ k ∈ s.members g, k = s.selfIndex g ∨ k = m ∨ (y.finals.find? fun f => f.1 == k).isSome) →
        ∃ a, (u.group g).agreed = some a ∧ a ≤ y.commit ∧ a ≤ v ∧ (∀ k ∈ s.members g, ∀ f, k ≠ m → k ≠ s.selfIndex g → (y.finals.find? fun f => f.1 == k) = some f → a ≤ f.2) ∧ u.mem.read (groupAddr g + 16) 6 = a % 2 ^ 48)) ∧
    (Arrived s 8 x → y.closed = true → y.agreed = none → leadsTo .agreedFlit s fun u => (u.group g).agreed = some v ∧ u.mem.read (groupAddr g + 16) 6 = v ∧
      ∀ z, z < groupAddr g + 16 ∨ groupAddr g + 22 ≤ z → u.mem.byte z = s.mem.byte z) ∧
    (∀ l, Arrived s 9 x → flitWord x.bytes 0 = s.groupTable g % 2 ^ 32 → s.launches = [l] → l.groupSlot = some g → l.phase = .gate false →
      let e := flitWord x.bytes 1 + 2 ^ 32 * flitWord x.bytes 2
      (y.closed = true → leadsTo .readyFlit s fun u => ∃ k ∈ u.launches, k.id = l.id ∧ k.phase = .retiring ∧ ∃ f, k.failure = some f ∧ f.status = 5) ∧
      (y.closed = false → l.epoch ≤ e → e ≠ 0 → (∀ k ∈ s.members g, k ≠ m → l.epoch ≤ sget 0 y.readies k) → swf 0 y.readies = true → leadsTo .readyFlit s fun u => ∃ k ∈ u.launches, k.id = l.id ∧ k.phase = .running ∧ k.started = true ∧ k.released = s.clock) ∧
      (y.closed = false → e < l.epoch → e ≠ 0 → leadsTo .readyFlit s fun u => u.launches = s.launches ∧ sget 0 (u.group g).readies m = e)) ∧
    (∀ l, Arrived s 11 x → s.launches = [l] → l.groupSlot = some g → l.preen = true → l.started = true → l.phase = .running → (∀ c ∈ l.cores, (s.core c).live = true) → s.runsOf l.ctag = false →
      leadsTo .gangpreFlit s fun u => (.preempt, .launch l.id) ∈ u.pending ∧ u.mem = s.mem)) ∧
  (∀ (s : State) (g m : Nat), At s (.member g m) → g < 256 → m < 4608 → s.ready = true → m < s.memberCount g → m ≠ s.selfIndex g → leadsTo .memberUnreachable s fun u => m ∈ (u.group g).silent ∧ (u.group g).closed = true) ∧
  ∀ (s : State) (l : Launch) (g : Nat), At s (.launch l.id) → s.launches.find? (fun k => k.id == l.id) = some l → l.groupSlot = some g → s.mem.wf = true →
    (l.phase ≠ .running → exec .sliceEnd s = .next (s.unpost .sliceEnd (.launch l.id))) ∧
    (l.phase = .running → s.clock < l.released + s.sliceUs g * mhz s.stkN → exec .sliceEnd s = .next s) ∧
    (l.phase = .running → l.released + s.sliceUs g * mhz s.stkN ≤ s.clock → leadsTo .sliceEnd s fun u => u.mem.read (groupAddr g + 40) 8 = (s.mem.read (groupAddr g + 40) 8 + 1) % 2 ^ 64 ∧
      (∀ z, z < groupAddr g + 40 ∨ groupAddr g + 48 ≤ z → u.mem.byte z = s.mem.byte z) ∧ (∃ k ∈ u.launches, k.id = l.id ∧ k.sliceOver = true ∧ k.phase = .running) ∧ u.cores = s.cores)

/-! ### Some rules by themselves -/

/-- R30: a write of SRSEED sets every generator from the seed, a state that would be zero becoming 1, and a read returns the last seed written; at launch the seed is 0x2545_F491. The write takes place as its own event when the MOVTS
takes effect. -/
def Obligations.SeedWrites : Prop :=
  (∀ (s : State) (id : Nat) (v : BitVec 32), At s (.seed id v) → leadsTo .srseedWrite s fun u => onlyCore s u id ∧ (u.core id).getSpecial .srseed = v.zeroExtend 64 ∧
    (∀ g : Fin 129, (u.core id).gens[g] = (let x := v ^^^ BitVec.ofNat 32 (0x9E3779B9 * (g.val + 1)); if x = 0 then 1 else x)) ∧ (u.core id).s = (s.core id).s ∧ (u.core id).pc = (s.core id).pc) ∧
  (∀ (s : State) (id : Nat) (k : Slot), Issuing s id k → Unbound s id → ∀ d : SReg, exec (.movs d .srseed) s = .next (fly s id k (.s d) 1 (s.core id).sp.srseed.toNat)) ∧
  (∀ (s : State) (id : Nat) (x : Word), (s.doAct id (.special .srseed x)).agenda = .event .srseedWrite (.seed id (x.setWidth 32)) :: s.agenda) ∧
  Core.reset.getSpecial .srseed = 0x2545F491 ∧ ∀ g : Fin 129, Core.reset.gens[g] = (let x := 0x2545F491#32 ^^^ BitVec.ofNat 32 (0x9E3779B9 * (g.val + 1)); if x = 0 then 1 else x)

/-- R248: TCMPX compares as signed 64-bit integers; if tB is greater, tB and tC exchange and tA is 1, else they keep their values and tA is 0; all land at c + 2. A field A equal to B or to C is ILLOP, reason 3; when B is C, no swap occurs. -/
def Obligations.TinkerCompareExchange : Prop :=
  (∀ (s : State) (id : Nat) (t : Fin 64), Chosen s id t → ∀ (a b c : TOp) (la : BitVec 4),
    let y := treg s id t 1 b
    let z := treg s id t 2 c
    (b ≠ c → z.slt y = true → TinkDoes s id t { lands := [(a, 2, 1), (b, 2, z), (c, 2, y)], done := some 2, la := some la.toNat } (fun k => k) (exec (.tcmpx la a b c) s)) ∧
    (b ≠ c → z.slt y = false → TinkDoes s id t { lands := [(a, 2, 0), (b, 2, y), (c, 2, z)], done := some 2, la := some la.toNat } (fun k => k) (exec (.tcmpx la a b c) s)) ∧
    (b = c → TinkDoes s id t { lands := [(a, 2, 0), (b, 2, y)], done := some 2, la := some la.toNat } (fun k => k) (exec (.tcmpx la a b c) s))) ∧
  ∀ (a b c : TOp) (la : BitVec 4), (a = b ∨ a = c → (mapT ⟨0x30, la, a, b, c, none⟩).result = .error (3, a.toNat)) ∧
    (a ≠ b → a ≠ c → (mapT ⟨0x30, la, a, b, c, none⟩).result = .ok (.tcmpx la a b c))

/-- R85: a bundle whose words would extend past 0x1_FFFF, by its own length or because the flow reached the end of code memory, is ILLBUNDLE; one that decodes lies wholly within. -/
def Obligations.BundlesInCodeMemory : Prop :=
  ∀ (c : Core) (a : Nat),
    (∀ b, c.bundleAt a = .ok b → a + 4 ≤ b.next ∧ b.next ≤ 0x2_0000) ∧ (0x2_0000 < a + 4 → ∃ r, c.bundleAt a = .error r) ∧
    (∀ hd, c.codeWord a = some hd → 0x2_0000 < a + 4 + 4 * ((List.range 12).filter fun i => hd.getLsbD i).length → ∃ r, c.bundleAt a = .error r) ∧
    (∀ r, c.owed = 0 → c.bundleAt c.pc = .error r → c.bundleError = some r)

/-- R356: every freeze record, of a core, of a porter's context or of a function, is written at slot FZCOUNT mod 256 of the freeze log, with its KIND in its first byte; FZCOUNT increases by 1 and PF vector 1 is raised. The log lies in device
memory here, the event queue in the host's. -/
def Obligations.FreezeLog : Prop :=
  ∀ s : State, s.mem.wf = true → s.mgmt.fzbase + 2 ^ 14 ≤ 2 ^ 47 →
    let slot := s.mgmt.fzbase + 64 * (s.mgmt.fzcount % 256)
    let logged (u : State) (kind : Nat) : Prop := u.mgmt = { s.mgmt with fzcount := (s.mgmt.fzcount + 1) % 2 ^ 32 } ∧ 1 ∈ u.pba ∧ u.mem.read slot 1 = kind ∧
      ∀ z, z < slot ∨ slot + 64 ≤ z → z < 2 ^ 47 → u.mem.byte z = s.mem.byte z
    (∀ f a, f < 17 → (s.fn f).frozen = none → logged (s.freezeFn f a) 6 ∧ ((s.freezeFn f a).fn f).frozen = some s.mgmt.fzcount) ∧
    (∀ p t step a c, s.ctx p t = some c → c.frozen = none → logged (s.freezeCtx p t step a) 5 ∧ ∃ d, (s.freezeCtx p t step a).ctx p t = some d ∧ d.frozen = some s.mgmt.fzcount) ∧
    (∀ id v, (s.core id).writes = [] → (s.core id).acts = [] → (s.core id).run = .running → (∀ l, s.launchOf id = some l → l.groupSlot = none) →
      logged (s.freezeCore id v) (v.kind % 2 ^ 8) ∧ ((s.freezeCore id v).core id).run = .frozen v false ∧ (id, s.mgmt.fzcount) ∈ (s.freezeCore id v).coreFreeze)

/-! ### Encodings -/

/-- The actions of the hardware, which no program word names. Every other row of the opcode table is an operation of a primary slot or of a tinker. -/
def Sys2Proof.Claims.events : List Instr :=
  [.srseedWrite, .csave, .cload, .tinkerCacheFill, .tinkerWriteback, .flagrelAdd, .hoopPush, .tileForwardArrival, .transposePush, .arrivalWordUpdate, .copyCommandComplete,
   .trapEntry, .watchdog, .preempt, .channelMessageArrival, .allowanceArrival, .ackArrival, .porterRequest, .translationWalk, .recallComplete, .porterRunStart, .porterRunEnd,
   .tierMove, .sqtail, .cqhead, .inlgo, .queueEn, .registerWrite, .bar2Read, .bar2Write, .functionLevelReset, .cmdLaunch, .cmdGraph, .graphNodeStart, .cmdCopy, .cmdSignal,
   .cmdWait, .cmdPartition, .cmdCheckpoint, .cmdFreezeClear, .cmdInval, .cmdHtset, .cmdAttest, .launchRetire, .launchResume, .powerGood, .powerLoss, .tokenAllowanceUpdate,
   .thermalWarning, .thermalCritical, .msgFlit, .grantFlit, .ackFlit, .refuseFlit, .stepFlit, .abortFlit, .finalFlit, .agreedFlit, .readyFlit, .dataFlit, .gangpreFlit,
   .retransmissionTimeout, .memberUnreachable, .sliceEnd, .mainClockCycle, .tinkerInstructionFetch, .contextEngineDone, .bitError, .linkFailure]

/-- R81 to R98 and the tables of 03: for every well-formed operation of a primary slot and every predicate, the words of its encoding decode to it, under the same predicate, with no bit of a field lost; and every
operation of the opcode table that is neither an event nor a tinker operation has such words, under every predicate. -/
def Obligations.SlotRoundTrip : Prop :=
  (∀ i : Instr, i ∉ Claims.events → encT i = none → ∀ q : Pred, (encSlot q i).isSome = true) ∧ ∀ (i : Instr) (q : Pred) (k : SlotClass) (r : RawSlot), encSlot q i = some (k, r) → i.wf = true →
    rawOf r.word r.ext = r ∧ r.q = q ∧ (parseSlot k (rawOf r.word r.ext)).result = .ok i ∧ encode i q = r.word :: r.ext.toList

/-- R99, R100: for every well-formed tinker operation the words of its encoding decode to it, the extension word being there exactly where the tinker word says so; no operation has both a slot and a tinker encoding, every one
that has no slot encoding and is no event has a tinker encoding, and events have neither. -/
def Obligations.TinkerRoundTrip : Prop :=
  (∀ i : Instr, i ∉ Claims.events → (∀ q : Pred, encSlot q i = none) → (encT i).isSome = true) ∧ (∀ i ∈ Claims.events, encT i = none ∧ ∀ q : Pred, encSlot q i = none) ∧
  (∀ (i : Instr) (r : RawT), encT i = some r → i.wf = true → tinkerHasExt r.word = r.ext.isSome ∧ decodeTinker r.word (r.ext.getD 0) = .ok i ∧ ∀ q, encode i q = r.word :: r.ext.toList) ∧
  ∀ (i : Instr) (q : Pred), encSlot q i = none ∨ encT i = none

/-- Words written out from the tables of 03, and what they hold: fields from the most significant on. OP, PRED, A, B, C of a slot word (Table 3.2); OP, LA, A, B, C of a tinker word (Table 3.11); reserved bits, RUN and the presence bits of a
bundle's header (Table 3.1). -/
def Obligations.WrittenOutWords : Prop :=
  (parseSlot .s (rawOf 0b00000001_010_0000011_0000001_0000010#32 none)).result = .ok (.add 3 (.s 1) (.s 2)) ∧ (rawOf 0b00000001_010_0000011_0000001_0000010#32 none).q = 2 ∧
  (parseSlot .s (rawOf 0b00000010_000_0000011_0000001_0000010#32 none)).result = .ok (.sub 3 (.s 1) (.reg (.s 2))) ∧
  decodeTinker 0b0000001_0000_0000101_0000110_0000111#32 0 = .ok (.tAdd 5 6 7) ∧
  decodeTinker 0b0000011_0000_0000101_0000110_0000000#32 0xFFFFFFFF#32 = .ok (.tAddi 5 6 0xFFFFFFFF#32) ∧
  (∃ e, decodeTinker 0b0000000_0000_0000101_0000110_0000111#32 0 = .error e) ∧
  (∃ e, (parseSlot .s (rawOf 0b11111111_000_0000000_0000000_0000000#32 none)).result = .error e) ∧
  decodeBundle (fun a => if a = 0 then some 0b1000000000000_0_000000_000000_000001#32 else some 0) false 0 = .error 1 ∧
  decodeBundle (fun a => if a = 0 then some 0b0000000000000_1_000000_000000_000001#32 else some 0) false 0 = .error 2 ∧
  decodeBundle (fun a => if a = 0 then some 0b0000000000000_0_000000_000010_000001#32 else some 0) false 0 = .error 3 ∧
  decodeBundle (fun a => if a = 0 then some 0b0000000000000_0_000101_000000_000001#32 else some 0) true 0 = .ok { run := 5, compat := false, slots := [(0, ⟨0, 0, 0, 0, 0, none⟩)], next := 8 } ∧
  decodeTableWord 32 0b0000001_0000_0000101_0000110_0000111 = some (.tAdd 5 6 7)

/-! ### Steps -/

/-- R82, R86, R87, R263: the slots of a bundle that issue are those whose words decode and whose predicate is true, in slot order; in a folded bundle there are none. -/
def Sys2Proof.Claims.SlotsThatIssue : Prop :=
  ∀ (c : Core) (id : Nat), c.resumeCaps = [] →
    (c.owed ≠ 0 → c.slotItems id true true = []) ∧
    (c.owed = 0 → ∀ b, c.bundleAt c.pc = .ok b →
      (∀ (k : Slot) (r : RawSlot), Item.slot id k true r ∈ c.slotItems id true true ↔
        (k, r) ∈ b.slots ∧ (∃ i, (parseSlot (classOf k) r).result = .ok i) ∧ (r.q = 0 ∨ c.p[r.q] = true)) ∧
      (c.slotItems id true true).length ≤ b.slots.length)

/-- A step runs the decoded instruction. Where the next item holds the words of a slot, of a tinker operation, or an event, and the words decode to an instruction, the step is exec of that instruction, with the item taken away, the count of
steps advanced and the agent said; where the agenda is empty, it first takes one of the actions the machine may take next (log 1, the model's own). Considering a core puts the slots of the bundle at its program counter on the agenda; before them, for each slot that does not decode, nearby words
that do, whose faults may have a lower reason (R102, log 43). -/
def Obligations.StepRunsDecoded : Prop :=
  (∀ (s : State) (id : Nat) (k : Slot) (b : Bool) (r : RawSlot) (rest : List Item) (i : Instr), s.agenda = .slot id k b r :: rest → (parseSlot (classOf k) r).result = .ok i →
    step s = exec i { s with agenda := rest, tick := s.tick + 1, cur := .slot id k b }) ∧
  (∀ (s : State) (id t : Nat) (k : Slot) (w e : BitVec 32) (rest : List Item) (i : Instr), s.agenda = .tinker id t k w e :: rest → decodeTinker w e = .ok i →
    step s = exec i { s with agenda := rest, tick := s.tick + 1, cur := .tinker id t k }) ∧
  (∀ (s : State) (i : Instr) (a : EvArg) (rest : List Item), s.agenda = .event i a :: rest → step s = exec i { s with agenda := rest, tick := s.tick + 1, cur := .event a }) ∧
  (∀ (s : State) (k : Sys) (rest : List Item), s.agenda = .sys k :: rest → step s = .next (({ s with agenda := rest, tick := s.tick + 1 } : State).runSys k)) ∧
  (∀ (s : State) (i : Instr) (a : EvArg), s.agenda = [] → s.choices[Config.pick s.tick % s.choices.length]? = some (.event i a) →
    step s = exec i { s.choose with agenda := [], tick := s.tick + 1, cur := .event a }) ∧
  (∀ (s : State) (nbits w : Nat) (i : Instr), decodeTableWord nbits w = some i → ∃ k,
    step (s.withFetchWord nbits w) = exec i { s.withFetchWord nbits w with agenda := [], tick := s.tick + 1, cur := .tinker fetchCore 0 k }) ∧
  (∀ (s : State) (id : Nat), ∃ l0 l1 l2, (s.runSys (.consider id)).agenda = l0 ++ l1 ++ [.sys (.clear id)] ++ l2 ++ s.agenda ∧
    (∀ x ∈ l1 ++ l2, ∃ k r, x = .slot id k false r ∧ ∃ b, (s.core id).bundleAt (s.core id).pc = .ok b ∧ (k, r) ∈ b.slots) ∧
    ∀ x ∈ l0, ∃ k r, x = .slot id k false r ∧ ∃ b w e, (s.core id).bundleAt (s.core id).pc = .ok b ∧ (k, w) ∈ b.slots ∧ (parseSlot (classOf k) w).result = .error e) ∧
  Claims.SlotsThatIssue

/-! ### Reset, and what every step keeps -/

/-- R375, R376, R73, R53, R30, R33, R44, R52: right after power-good the device is not ready; memory is zero, nothing is placed and nothing waits; and every core has its launch values. -/
def Obligations.ResetState : Prop :=
  let s := State.reset
  s.power = true ∧ s.ready = false ∧ s.fail = false ∧ (∀ a, s.mem.byte a = 0) ∧ s.mem.wf = true ∧ s.launches = [] ∧ s.cmds = [] ∧ s.pending = [] ∧ s.agenda = [] ∧ (∀ q, q < 64 → (s.queue q).en = false) ∧
  ∀ id, let c := s.core id
    c.run = .idle ∧ c.pc = 0 ∧ (∀ r : SReg, c.s[r] = 0) ∧ (∀ r : VReg, c.v[r] = 0) ∧ (∀ r : DReg, c.d[r] = 0 ∧ c.n[r] = 0x8000) ∧ (∀ r : WReg, c.w[r] = 0) ∧ (∀ r : MReg, c.m[r] = BitVec.allOnes 128) ∧ (∀ r : Pred, c.p[r] = (r == 0)) ∧
    (∀ r : HReg, ((c.h)[r]).valid = false) ∧ c.ls = 0 ∧ c.lv0 = 0 ∧ c.lv1 = 0 ∧ c.lc0 = 0 ∧ c.lc1 = 0 ∧ c.sp.fpctl = 0 ∧ c.sp.fpstat = 0 ∧ c.sp.scalel = 0x7F00 ∧ c.sp.srseed = 0x2545F491 ∧ c.sp.svpad = 0x1F000 ∧
    c.sp.handler = false ∧ c.book = (List.range 16).map (fun k => BitVec.ofNat 8 (16 * k)) ∧ (∀ t : TReg, c.tt[t] = Tree.empty) ∧ ∀ p : Port, c.ports[p] = none

/-- Memory keeps its canonical form (strictly rising addresses, no byte listed that reads as an unlisted one) through every step, whatever instruction, event or clock work it runs. -/
def Obligations.MemoryStaysCanonical : Prop :=
  ∀ s u : State, s.mem.wf = true → step s = .next u → u.mem.wf = true
end

