-- ==== Sys2Proof/Laws/State.lean ====
section
/-! SUPPORT. What each update of a state changes and leaves: one lemma a field and update, and how a core reads after one is put back. -/
namespace Sys2Proof.Machine
/-! ### A core put back -/
@[simp] theorem State.setCore_mem (s : State) (id : Nat) (c : Core) : (s.setCore id c).mem = s.mem := rfl
@[simp] theorem State.setCore_launches (s : State) (id : Nat) (c : Core) : (s.setCore id c).launches = s.launches := rfl
@[simp] theorem State.setCore_clock (s : State) (id : Nat) (c : Core) : (s.setCore id c).clock = s.clock := rfl
@[simp] theorem State.setCore_tick (s : State) (id : Nat) (c : Core) : (s.setCore id c).tick = s.tick := rfl
@[simp] theorem State.setCore_agenda (s : State) (id : Nat) (c : Core) : (s.setCore id c).agenda = s.agenda := rfl
@[simp] theorem State.setCore_pending (s : State) (id : Nat) (c : Core) : (s.setCore id c).pending = s.pending := rfl
@[simp] theorem State.setCore_inputs (s : State) (id : Nat) (c : Core) : (s.setCore id c).inputs = s.inputs := rfl
@[simp] theorem State.setCore_wires (s : State) (id : Nat) (c : Core) : (s.setCore id c).wires = s.wires := rfl
@[simp] theorem State.setCore_cur (s : State) (id : Nat) (c : Core) : (s.setCore id c).cur = s.cur := rfl
@[simp] theorem State.setCore_power (s : State) (id : Nat) (c : Core) : (s.setCore id c).power = s.power := rfl
@[simp] theorem State.setCore_ready (s : State) (id : Nat) (c : Core) : (s.setCore id c).ready = s.ready := rfl
@[simp] theorem State.setCore_fail (s : State) (id : Nat) (c : Core) : (s.setCore id c).fail = s.fail := rfl
@[simp] theorem State.setCore_failcode (s : State) (id : Nat) (c : Core) : (s.setCore id c).failcode = s.failcode := rfl
@[simp] theorem State.setCore_fwver (s : State) (id : Nat) (c : Core) : (s.setCore id c).fwver = s.fwver := rfl
@[simp] theorem State.setCore_cfgver (s : State) (id : Nat) (c : Core) : (s.setCore id c).cfgver = s.cfgver := rfl
@[simp] theorem State.setCore_rollback (s : State) (id : Nat) (c : Core) : (s.setCore id c).rollback = s.rollback := rfl
@[simp] theorem State.setCore_outerr (s : State) (id : Nat) (c : Core) : (s.setCore id c).outerr = s.outerr := rfl
@[simp] theorem State.setCore_stkN (s : State) (id : Nat) (c : Core) : (s.setCore id c).stkN = s.stkN := rfl
@[simp] theorem State.setCore_stkBusy (s : State) (id : Nat) (c : Core) : (s.setCore id c).stkBusy = s.stkBusy := rfl
@[simp] theorem State.setCore_modnum (s : State) (id : Nat) (c : Core) : (s.setCore id c).modnum = s.modnum := rfl
@[simp] theorem State.setCore_allowance (s : State) (id : Nat) (c : Core) : (s.setCore id c).allowance = s.allowance := rfl
@[simp] theorem State.setCore_thermal (s : State) (id : Nat) (c : Core) : (s.setCore id c).thermal = s.thermal := rfl
@[simp] theorem State.setCore_mgmt (s : State) (id : Nat) (c : Core) : (s.setCore id c).mgmt = s.mgmt := rfl
@[simp] theorem State.setCore_evqCount (s : State) (id : Nat) (c : Core) : (s.setCore id c).evqCount = s.evqCount := rfl
@[simp] theorem State.setCore_fns (s : State) (id : Nat) (c : Core) : (s.setCore id c).fns = s.fns := rfl
@[simp] theorem State.setCore_msix (s : State) (id : Nat) (c : Core) : (s.setCore id c).msix = s.msix := rfl
@[simp] theorem State.setCore_pba (s : State) (id : Nat) (c : Core) : (s.setCore id c).pba = s.pba := rfl
@[simp] theorem State.setCore_queues (s : State) (id : Nat) (c : Core) : (s.setCore id c).queues = s.queues := rfl
@[simp] theorem State.setCore_cmds (s : State) (id : Nat) (c : Core) : (s.setCore id c).cmds = s.cmds := rfl
@[simp] theorem State.setCore_nextUid (s : State) (id : Nat) (c : Core) : (s.setCore id c).nextUid = s.nextUid := rfl
@[simp] theorem State.setCore_served (s : State) (id : Nat) (c : Core) : (s.setCore id c).served = s.served := rfl
@[simp] theorem State.setCore_held (s : State) (id : Nat) (c : Core) : (s.setCore id c).held = s.held := rfl
@[simp] theorem State.setCore_tokens (s : State) (id : Nat) (c : Core) : (s.setCore id c).tokens = s.tokens := rfl
@[simp] theorem State.setCore_slots (s : State) (id : Nat) (c : Core) : (s.setCore id c).slots = s.slots := rfl
@[simp] theorem State.setCore_buffers (s : State) (id : Nat) (c : Core) : (s.setCore id c).buffers = s.buffers := rfl
@[simp] theorem State.setCore_graphs (s : State) (id : Nat) (c : Core) : (s.setCore id c).graphs = s.graphs := rfl
@[simp] theorem State.setCore_sequence (s : State) (id : Nat) (c : Core) : (s.setCore id c).sequence = s.sequence := rfl
@[simp] theorem State.setCore_nextLaunch (s : State) (id : Nat) (c : Core) : (s.setCore id c).nextLaunch = s.nextLaunch := rfl
@[simp] theorem State.setCore_hidden (s : State) (id : Nat) (c : Core) : (s.setCore id c).hidden = s.hidden := rfl
@[simp] theorem State.setCore_coreFreeze (s : State) (id : Nat) (c : Core) : (s.setCore id c).coreFreeze = s.coreFreeze := rfl
@[simp] theorem State.setCore_clusterQ (s : State) (id : Nat) (c : Core) : (s.setCore id c).clusterQ = s.clusterQ := rfl
@[simp] theorem State.setCore_stratumQ (s : State) (id : Nat) (c : Core) : (s.setCore id c).stratumQ = s.stratumQ := rfl
@[simp] theorem State.setCore_aside (s : State) (id : Nat) (c : Core) : (s.setCore id c).aside = s.aside := rfl
@[simp] theorem State.setCore_stations (s : State) (id : Nat) (c : Core) : (s.setCore id c).stations = s.stations := rfl
@[simp] theorem State.setCore_walks (s : State) (id : Nat) (c : Core) : (s.setCore id c).walks = s.walks := rfl
@[simp] theorem State.setCore_answers (s : State) (id : Nat) (c : Core) : (s.setCore id c).answers = s.answers := rfl
@[simp] theorem State.setCore_owned (s : State) (id : Nat) (c : Core) : (s.setCore id c).owned = s.owned := rfl
@[simp] theorem State.setCore_moves (s : State) (id : Nat) (c : Core) : (s.setCore id c).moves = s.moves := rfl
@[simp] theorem State.setCore_nextMove (s : State) (id : Nat) (c : Core) : (s.setCore id c).nextMove = s.nextMove := rfl
@[simp] theorem State.setCore_porters (s : State) (id : Nat) (c : Core) : (s.setCore id c).porters = s.porters := rfl
@[simp] theorem State.setCore_routes (s : State) (id : Nat) (c : Core) : (s.setCore id c).routes = s.routes := rfl
@[simp] theorem State.setCore_groups (s : State) (id : Nat) (c : Core) : (s.setCore id c).groups = s.groups := rfl
@[simp] theorem State.setCore_outFlits (s : State) (id : Nat) (c : Core) : (s.setCore id c).outFlits = s.outFlits := rfl
@[simp] theorem State.setCore_links (s : State) (id : Nat) (c : Core) : (s.setCore id c).links = s.links := rfl
@[simp] theorem State.setCore_peerLines (s : State) (id : Nat) (c : Core) : (s.setCore id c).peerLines = s.peerLines := rfl
@[simp] theorem State.setCore_linkDown (s : State) (id : Nat) (c : Core) : (s.setCore id c).linkDown = s.linkDown := rfl
@[simp] theorem State.setCore_bar2 (s : State) (id : Nat) (c : Core) : (s.setCore id c).bar2 = s.bar2 := rfl
@[simp] theorem State.setCore_hostReads (s : State) (id : Nat) (c : Core) : (s.setCore id c).hostReads = s.hostReads := rfl
@[simp] theorem State.setCore_epWrites (s : State) (id : Nat) (c : Core) : (s.setCore id c).epWrites = s.epWrites := rfl
@[simp] theorem State.setCore_internalErr (s : State) (id : Nat) (c : Core) : (s.setCore id c).internalErr = s.internalErr := rfl
@[simp] theorem State.setCore_cores (s : State) (id : Nat) (c : Core) : (s.setCore id c).cores = kput s.cores id c := rfl
@[simp] theorem State.updCore_mem (s : State) (id : Nat) (f : Core → Core) : (s.updCore id f).mem = s.mem := rfl
@[simp] theorem State.updCore_launches (s : State) (id : Nat) (f : Core → Core) : (s.updCore id f).launches = s.launches := rfl
@[simp] theorem State.updCore_clock (s : State) (id : Nat) (f : Core → Core) : (s.updCore id f).clock = s.clock := rfl
@[simp] theorem State.updCore_tick (s : State) (id : Nat) (f : Core → Core) : (s.updCore id f).tick = s.tick := rfl
@[simp] theorem State.updCore_agenda (s : State) (id : Nat) (f : Core → Core) : (s.updCore id f).agenda = s.agenda := rfl
@[simp] theorem State.updCore_pending (s : State) (id : Nat) (f : Core → Core) : (s.updCore id f).pending = s.pending := rfl
@[simp] theorem State.updCore_inputs (s : State) (id : Nat) (f : Core → Core) : (s.updCore id f).inputs = s.inputs := rfl
@[simp] theorem State.updCore_wires (s : State) (id : Nat) (f : Core → Core) : (s.updCore id f).wires = s.wires := rfl
@[simp] theorem State.updCore_cur (s : State) (id : Nat) (f : Core → Core) : (s.updCore id f).cur = s.cur := rfl
@[simp] theorem State.updCore_power (s : State) (id : Nat) (f : Core → Core) : (s.updCore id f).power = s.power := rfl
@[simp] theorem State.updCore_ready (s : State) (id : Nat) (f : Core → Core) : (s.updCore id f).ready = s.ready := rfl
@[simp] theorem State.updCore_fail (s : State) (id : Nat) (f : Core → Core) : (s.updCore id f).fail = s.fail := rfl
@[simp] theorem State.updCore_failcode (s : State) (id : Nat) (f : Core → Core) : (s.updCore id f).failcode = s.failcode := rfl
@[simp] theorem State.updCore_fwver (s : State) (id : Nat) (f : Core → Core) : (s.updCore id f).fwver = s.fwver := rfl
@[simp] theorem State.updCore_cfgver (s : State) (id : Nat) (f : Core → Core) : (s.updCore id f).cfgver = s.cfgver := rfl
@[simp] theorem State.updCore_rollback (s : State) (id : Nat) (f : Core → Core) : (s.updCore id f).rollback = s.rollback := rfl
@[simp] theorem State.updCore_outerr (s : State) (id : Nat) (f : Core → Core) : (s.updCore id f).outerr = s.outerr := rfl
@[simp] theorem State.updCore_stkN (s : State) (id : Nat) (f : Core → Core) : (s.updCore id f).stkN = s.stkN := rfl
@[simp] theorem State.updCore_stkBusy (s : State) (id : Nat) (f : Core → Core) : (s.updCore id f).stkBusy = s.stkBusy := rfl
@[simp] theorem State.updCore_modnum (s : State) (id : Nat) (f : Core → Core) : (s.updCore id f).modnum = s.modnum := rfl
@[simp] theorem State.updCore_allowance (s : State) (id : Nat) (f : Core → Core) : (s.updCore id f).allowance = s.allowance := rfl
@[simp] theorem State.updCore_thermal (s : State) (id : Nat) (f : Core → Core) : (s.updCore id f).thermal = s.thermal := rfl
@[simp] theorem State.updCore_mgmt (s : State) (id : Nat) (f : Core → Core) : (s.updCore id f).mgmt = s.mgmt := rfl
@[simp] theorem State.updCore_evqCount (s : State) (id : Nat) (f : Core → Core) : (s.updCore id f).evqCount = s.evqCount := rfl
@[simp] theorem State.updCore_fns (s : State) (id : Nat) (f : Core → Core) : (s.updCore id f).fns = s.fns := rfl
@[simp] theorem State.updCore_msix (s : State) (id : Nat) (f : Core → Core) : (s.updCore id f).msix = s.msix := rfl
@[simp] theorem State.updCore_pba (s : State) (id : Nat) (f : Core → Core) : (s.updCore id f).pba = s.pba := rfl
@[simp] theorem State.updCore_queues (s : State) (id : Nat) (f : Core → Core) : (s.updCore id f).queues = s.queues := rfl
@[simp] theorem State.updCore_cmds (s : State) (id : Nat) (f : Core → Core) : (s.updCore id f).cmds = s.cmds := rfl
@[simp] theorem State.updCore_nextUid (s : State) (id : Nat) (f : Core → Core) : (s.updCore id f).nextUid = s.nextUid := rfl
@[simp] theorem State.updCore_served (s : State) (id : Nat) (f : Core → Core) : (s.updCore id f).served = s.served := rfl
@[simp] theorem State.updCore_held (s : State) (id : Nat) (f : Core → Core) : (s.updCore id f).held = s.held := rfl
@[simp] theorem State.updCore_tokens (s : State) (id : Nat) (f : Core → Core) : (s.updCore id f).tokens = s.tokens := rfl
@[simp] theorem State.updCore_slots (s : State) (id : Nat) (f : Core → Core) : (s.updCore id f).slots = s.slots := rfl
@[simp] theorem State.updCore_buffers (s : State) (id : Nat) (f : Core → Core) : (s.updCore id f).buffers = s.buffers := rfl
@[simp] theorem State.updCore_graphs (s : State) (id : Nat) (f : Core → Core) : (s.updCore id f).graphs = s.graphs := rfl
@[simp] theorem State.updCore_sequence (s : State) (id : Nat) (f : Core → Core) : (s.updCore id f).sequence = s.sequence := rfl
@[simp] theorem State.updCore_nextLaunch (s : State) (id : Nat) (f : Core → Core) : (s.updCore id f).nextLaunch = s.nextLaunch := rfl
@[simp] theorem State.updCore_hidden (s : State) (id : Nat) (f : Core → Core) : (s.updCore id f).hidden = s.hidden := rfl
@[simp] theorem State.updCore_coreFreeze (s : State) (id : Nat) (f : Core → Core) : (s.updCore id f).coreFreeze = s.coreFreeze := rfl
@[simp] theorem State.updCore_clusterQ (s : State) (id : Nat) (f : Core → Core) : (s.updCore id f).clusterQ = s.clusterQ := rfl
@[simp] theorem State.updCore_stratumQ (s : State) (id : Nat) (f : Core → Core) : (s.updCore id f).stratumQ = s.stratumQ := rfl
@[simp] theorem State.updCore_aside (s : State) (id : Nat) (f : Core → Core) : (s.updCore id f).aside = s.aside := rfl
@[simp] theorem State.updCore_stations (s : State) (id : Nat) (f : Core → Core) : (s.updCore id f).stations = s.stations := rfl
@[simp] theorem State.updCore_walks (s : State) (id : Nat) (f : Core → Core) : (s.updCore id f).walks = s.walks := rfl
@[simp] theorem State.updCore_answers (s : State) (id : Nat) (f : Core → Core) : (s.updCore id f).answers = s.answers := rfl
@[simp] theorem State.updCore_owned (s : State) (id : Nat) (f : Core → Core) : (s.updCore id f).owned = s.owned := rfl
@[simp] theorem State.updCore_moves (s : State) (id : Nat) (f : Core → Core) : (s.updCore id f).moves = s.moves := rfl
@[simp] theorem State.updCore_nextMove (s : State) (id : Nat) (f : Core → Core) : (s.updCore id f).nextMove = s.nextMove := rfl
@[simp] theorem State.updCore_porters (s : State) (id : Nat) (f : Core → Core) : (s.updCore id f).porters = s.porters := rfl
@[simp] theorem State.updCore_routes (s : State) (id : Nat) (f : Core → Core) : (s.updCore id f).routes = s.routes := rfl
@[simp] theorem State.updCore_groups (s : State) (id : Nat) (f : Core → Core) : (s.updCore id f).groups = s.groups := rfl
@[simp] theorem State.updCore_outFlits (s : State) (id : Nat) (f : Core → Core) : (s.updCore id f).outFlits = s.outFlits := rfl
@[simp] theorem State.updCore_links (s : State) (id : Nat) (f : Core → Core) : (s.updCore id f).links = s.links := rfl
@[simp] theorem State.updCore_peerLines (s : State) (id : Nat) (f : Core → Core) : (s.updCore id f).peerLines = s.peerLines := rfl
@[simp] theorem State.updCore_linkDown (s : State) (id : Nat) (f : Core → Core) : (s.updCore id f).linkDown = s.linkDown := rfl
@[simp] theorem State.updCore_bar2 (s : State) (id : Nat) (f : Core → Core) : (s.updCore id f).bar2 = s.bar2 := rfl
@[simp] theorem State.updCore_hostReads (s : State) (id : Nat) (f : Core → Core) : (s.updCore id f).hostReads = s.hostReads := rfl
@[simp] theorem State.updCore_epWrites (s : State) (id : Nat) (f : Core → Core) : (s.updCore id f).epWrites = s.epWrites := rfl
@[simp] theorem State.updCore_internalErr (s : State) (id : Nat) (f : Core → Core) : (s.updCore id f).internalErr = s.internalErr := rfl

/-- A key reads what was put. -/
theorem sget_kput_self {α : Type} (d : α) (l : List (Nat × α)) (a : Nat) (x : α) : sget d (kput l a x) a = x := by
  induction l with
  | nil => simp [kput, sget]
  | cons e rest ih =>
    obtain ⟨k, v⟩ := e
    simp only [kput]
    split
    · simp [sget]
    · split
      · simp [sget]
      · simp [sget, *]
/-- Every other key reads as before. -/
theorem sget_kput_other {α : Type} (d : α) (l : List (Nat × α)) (a b : Nat) (x : α) (h : b ≠ a) : sget d (kput l a x) b = sget d l b := by
  induction l with
  | nil => simp [kput, sget, h]
  | cons e rest ih =>
    obtain ⟨k, v⟩ := e
    simp only [kput]
    split
    · simp only [sget, h, if_false]; split <;> (try split) <;> (try split) <;> first | rfl | omega
    · split
      · subst_vars; simp [sget, h]
      · simp [sget, ih]
@[simp] theorem State.core_setCore_self (s : State) (id : Nat) (c : Core) : (s.setCore id c).core id = c := sget_kput_self _ _ _ _
theorem State.core_setCore_other (s : State) (id j : Nat) (c : Core) (h : j ≠ id) : (s.setCore id c).core j = s.core j := sget_kput_other _ _ _ _ _ h
@[simp] theorem State.core_updCore_self (s : State) (id : Nat) (f : Core → Core) : (s.updCore id f).core id = f (s.core id) := sget_kput_self _ _ _ _
theorem State.core_updCore_other (s : State) (id j : Nat) (f : Core → Core) (h : j ≠ id) : (s.updCore id f).core j = s.core j := sget_kput_other _ _ _ _ _ h
/-- Putting the same core back twice is putting it back once. -/
theorem kput_kput {α : Type} (l : List (Nat × α)) (a : Nat) (x y : α) : kput (kput l a x) a y = kput l a y := by
  induction l with
  | nil => simp [kput]
  | cons e rest ih =>
    obtain ⟨k, v⟩ := e
    by_cases h1 : a < k
    · simp [kput, h1]
    · by_cases h2 : a = k
      · simp [kput, h2]
      · simp [kput, h1, h2, ih]
@[simp] theorem State.setCore_setCore (s : State) (id : Nat) (c d : Core) : (s.setCore id c).setCore id d = s.setCore id d := by
  simp [State.setCore, kput_kput]
@[simp] theorem State.updCore_setCore (s : State) (id : Nat) (c : Core) (f : Core → Core) : (s.setCore id c).updCore id f = s.setCore id (f c) := by
  simp [State.updCore]
@[simp] theorem State.updCore_updCore (s : State) (id : Nat) (f g : Core → Core) : (s.updCore id f).updCore id g = s.updCore id (fun c => g (f c)) := by
  simp [State.updCore]

/-! ### Actions that wait -/
@[simp] theorem State.postEach_mem (s : State) (i : Instr) (a : EvArg) : (s.postEach i a).mem = s.mem := rfl
@[simp] theorem State.postEach_cores (s : State) (i : Instr) (a : EvArg) : (s.postEach i a).cores = s.cores := rfl
@[simp] theorem State.postEach_launches (s : State) (i : Instr) (a : EvArg) : (s.postEach i a).launches = s.launches := rfl
@[simp] theorem State.postEach_clock (s : State) (i : Instr) (a : EvArg) : (s.postEach i a).clock = s.clock := rfl
@[simp] theorem State.postEach_tick (s : State) (i : Instr) (a : EvArg) : (s.postEach i a).tick = s.tick := rfl
@[simp] theorem State.postEach_agenda (s : State) (i : Instr) (a : EvArg) : (s.postEach i a).agenda = s.agenda := rfl
@[simp] theorem State.postEach_inputs (s : State) (i : Instr) (a : EvArg) : (s.postEach i a).inputs = s.inputs := rfl
@[simp] theorem State.postEach_wires (s : State) (i : Instr) (a : EvArg) : (s.postEach i a).wires = s.wires := rfl
@[simp] theorem State.postEach_cur (s : State) (i : Instr) (a : EvArg) : (s.postEach i a).cur = s.cur := rfl
@[simp] theorem State.postEach_power (s : State) (i : Instr) (a : EvArg) : (s.postEach i a).power = s.power := rfl
@[simp] theorem State.postEach_ready (s : State) (i : Instr) (a : EvArg) : (s.postEach i a).ready = s.ready := rfl
@[simp] theorem State.postEach_fail (s : State) (i : Instr) (a : EvArg) : (s.postEach i a).fail = s.fail := rfl
@[simp] theorem State.postEach_failcode (s : State) (i : Instr) (a : EvArg) : (s.postEach i a).failcode = s.failcode := rfl
@[simp] theorem State.postEach_fwver (s : State) (i : Instr) (a : EvArg) : (s.postEach i a).fwver = s.fwver := rfl
@[simp] theorem State.postEach_cfgver (s : State) (i : Instr) (a : EvArg) : (s.postEach i a).cfgver = s.cfgver := rfl
@[simp] theorem State.postEach_rollback (s : State) (i : Instr) (a : EvArg) : (s.postEach i a).rollback = s.rollback := rfl
@[simp] theorem State.postEach_outerr (s : State) (i : Instr) (a : EvArg) : (s.postEach i a).outerr = s.outerr := rfl
@[simp] theorem State.postEach_stkN (s : State) (i : Instr) (a : EvArg) : (s.postEach i a).stkN = s.stkN := rfl
@[simp] theorem State.postEach_stkBusy (s : State) (i : Instr) (a : EvArg) : (s.postEach i a).stkBusy = s.stkBusy := rfl
@[simp] theorem State.postEach_modnum (s : State) (i : Instr) (a : EvArg) : (s.postEach i a).modnum = s.modnum := rfl
@[simp] theorem State.postEach_allowance (s : State) (i : Instr) (a : EvArg) : (s.postEach i a).allowance = s.allowance := rfl
@[simp] theorem State.postEach_thermal (s : State) (i : Instr) (a : EvArg) : (s.postEach i a).thermal = s.thermal := rfl
@[simp] theorem State.postEach_mgmt (s : State) (i : Instr) (a : EvArg) : (s.postEach i a).mgmt = s.mgmt := rfl
@[simp] theorem State.postEach_evqCount (s : State) (i : Instr) (a : EvArg) : (s.postEach i a).evqCount = s.evqCount := rfl
@[simp] theorem State.postEach_fns (s : State) (i : Instr) (a : EvArg) : (s.postEach i a).fns = s.fns := rfl
@[simp] theorem State.postEach_msix (s : State) (i : Instr) (a : EvArg) : (s.postEach i a).msix = s.msix := rfl
@[simp] theorem State.postEach_pba (s : State) (i : Instr) (a : EvArg) : (s.postEach i a).pba = s.pba := rfl
@[simp] theorem State.postEach_queues (s : State) (i : Instr) (a : EvArg) : (s.postEach i a).queues = s.queues := rfl
@[simp] theorem State.postEach_cmds (s : State) (i : Instr) (a : EvArg) : (s.postEach i a).cmds = s.cmds := rfl
@[simp] theorem State.postEach_nextUid (s : State) (i : Instr) (a : EvArg) : (s.postEach i a).nextUid = s.nextUid := rfl
@[simp] theorem State.postEach_served (s : State) (i : Instr) (a : EvArg) : (s.postEach i a).served = s.served := rfl
@[simp] theorem State.postEach_held (s : State) (i : Instr) (a : EvArg) : (s.postEach i a).held = s.held := rfl
@[simp] theorem State.postEach_tokens (s : State) (i : Instr) (a : EvArg) : (s.postEach i a).tokens = s.tokens := rfl
@[simp] theorem State.postEach_slots (s : State) (i : Instr) (a : EvArg) : (s.postEach i a).slots = s.slots := rfl
@[simp] theorem State.postEach_buffers (s : State) (i : Instr) (a : EvArg) : (s.postEach i a).buffers = s.buffers := rfl
@[simp] theorem State.postEach_graphs (s : State) (i : Instr) (a : EvArg) : (s.postEach i a).graphs = s.graphs := rfl
@[simp] theorem State.postEach_sequence (s : State) (i : Instr) (a : EvArg) : (s.postEach i a).sequence = s.sequence := rfl
@[simp] theorem State.postEach_nextLaunch (s : State) (i : Instr) (a : EvArg) : (s.postEach i a).nextLaunch = s.nextLaunch := rfl
@[simp] theorem State.postEach_hidden (s : State) (i : Instr) (a : EvArg) : (s.postEach i a).hidden = s.hidden := rfl
@[simp] theorem State.postEach_coreFreeze (s : State) (i : Instr) (a : EvArg) : (s.postEach i a).coreFreeze = s.coreFreeze := rfl
@[simp] theorem State.postEach_clusterQ (s : State) (i : Instr) (a : EvArg) : (s.postEach i a).clusterQ = s.clusterQ := rfl
@[simp] theorem State.postEach_stratumQ (s : State) (i : Instr) (a : EvArg) : (s.postEach i a).stratumQ = s.stratumQ := rfl
@[simp] theorem State.postEach_aside (s : State) (i : Instr) (a : EvArg) : (s.postEach i a).aside = s.aside := rfl
@[simp] theorem State.postEach_stations (s : State) (i : Instr) (a : EvArg) : (s.postEach i a).stations = s.stations := rfl
@[simp] theorem State.postEach_walks (s : State) (i : Instr) (a : EvArg) : (s.postEach i a).walks = s.walks := rfl
@[simp] theorem State.postEach_answers (s : State) (i : Instr) (a : EvArg) : (s.postEach i a).answers = s.answers := rfl
@[simp] theorem State.postEach_owned (s : State) (i : Instr) (a : EvArg) : (s.postEach i a).owned = s.owned := rfl
@[simp] theorem State.postEach_moves (s : State) (i : Instr) (a : EvArg) : (s.postEach i a).moves = s.moves := rfl
@[simp] theorem State.postEach_nextMove (s : State) (i : Instr) (a : EvArg) : (s.postEach i a).nextMove = s.nextMove := rfl
@[simp] theorem State.postEach_porters (s : State) (i : Instr) (a : EvArg) : (s.postEach i a).porters = s.porters := rfl
@[simp] theorem State.postEach_routes (s : State) (i : Instr) (a : EvArg) : (s.postEach i a).routes = s.routes := rfl
@[simp] theorem State.postEach_groups (s : State) (i : Instr) (a : EvArg) : (s.postEach i a).groups = s.groups := rfl
@[simp] theorem State.postEach_outFlits (s : State) (i : Instr) (a : EvArg) : (s.postEach i a).outFlits = s.outFlits := rfl
@[simp] theorem State.postEach_links (s : State) (i : Instr) (a : EvArg) : (s.postEach i a).links = s.links := rfl
@[simp] theorem State.postEach_peerLines (s : State) (i : Instr) (a : EvArg) : (s.postEach i a).peerLines = s.peerLines := rfl
@[simp] theorem State.postEach_linkDown (s : State) (i : Instr) (a : EvArg) : (s.postEach i a).linkDown = s.linkDown := rfl
@[simp] theorem State.postEach_bar2 (s : State) (i : Instr) (a : EvArg) : (s.postEach i a).bar2 = s.bar2 := rfl
@[simp] theorem State.postEach_hostReads (s : State) (i : Instr) (a : EvArg) : (s.postEach i a).hostReads = s.hostReads := rfl
@[simp] theorem State.postEach_epWrites (s : State) (i : Instr) (a : EvArg) : (s.postEach i a).epWrites = s.epWrites := rfl
@[simp] theorem State.postEach_internalErr (s : State) (i : Instr) (a : EvArg) : (s.postEach i a).internalErr = s.internalErr := rfl
@[simp] theorem State.dropOne_mem (s : State) (i : Instr) (a : EvArg) : (s.dropOne i a).mem = s.mem := rfl
@[simp] theorem State.dropOne_cores (s : State) (i : Instr) (a : EvArg) : (s.dropOne i a).cores = s.cores := rfl
@[simp] theorem State.dropOne_launches (s : State) (i : Instr) (a : EvArg) : (s.dropOne i a).launches = s.launches := rfl
@[simp] theorem State.dropOne_clock (s : State) (i : Instr) (a : EvArg) : (s.dropOne i a).clock = s.clock := rfl
@[simp] theorem State.dropOne_tick (s : State) (i : Instr) (a : EvArg) : (s.dropOne i a).tick = s.tick := rfl
@[simp] theorem State.dropOne_agenda (s : State) (i : Instr) (a : EvArg) : (s.dropOne i a).agenda = s.agenda := rfl
@[simp] theorem State.dropOne_inputs (s : State) (i : Instr) (a : EvArg) : (s.dropOne i a).inputs = s.inputs := rfl
@[simp] theorem State.dropOne_wires (s : State) (i : Instr) (a : EvArg) : (s.dropOne i a).wires = s.wires := rfl
@[simp] theorem State.dropOne_cur (s : State) (i : Instr) (a : EvArg) : (s.dropOne i a).cur = s.cur := rfl
@[simp] theorem State.dropOne_power (s : State) (i : Instr) (a : EvArg) : (s.dropOne i a).power = s.power := rfl
@[simp] theorem State.dropOne_ready (s : State) (i : Instr) (a : EvArg) : (s.dropOne i a).ready = s.ready := rfl
@[simp] theorem State.dropOne_fail (s : State) (i : Instr) (a : EvArg) : (s.dropOne i a).fail = s.fail := rfl
@[simp] theorem State.dropOne_failcode (s : State) (i : Instr) (a : EvArg) : (s.dropOne i a).failcode = s.failcode := rfl
@[simp] theorem State.dropOne_fwver (s : State) (i : Instr) (a : EvArg) : (s.dropOne i a).fwver = s.fwver := rfl
@[simp] theorem State.dropOne_cfgver (s : State) (i : Instr) (a : EvArg) : (s.dropOne i a).cfgver = s.cfgver := rfl
@[simp] theorem State.dropOne_rollback (s : State) (i : Instr) (a : EvArg) : (s.dropOne i a).rollback = s.rollback := rfl
@[simp] theorem State.dropOne_outerr (s : State) (i : Instr) (a : EvArg) : (s.dropOne i a).outerr = s.outerr := rfl
@[simp] theorem State.dropOne_stkN (s : State) (i : Instr) (a : EvArg) : (s.dropOne i a).stkN = s.stkN := rfl
@[simp] theorem State.dropOne_stkBusy (s : State) (i : Instr) (a : EvArg) : (s.dropOne i a).stkBusy = s.stkBusy := rfl
@[simp] theorem State.dropOne_modnum (s : State) (i : Instr) (a : EvArg) : (s.dropOne i a).modnum = s.modnum := rfl
@[simp] theorem State.dropOne_allowance (s : State) (i : Instr) (a : EvArg) : (s.dropOne i a).allowance = s.allowance := rfl
@[simp] theorem State.dropOne_thermal (s : State) (i : Instr) (a : EvArg) : (s.dropOne i a).thermal = s.thermal := rfl
@[simp] theorem State.dropOne_mgmt (s : State) (i : Instr) (a : EvArg) : (s.dropOne i a).mgmt = s.mgmt := rfl
@[simp] theorem State.dropOne_evqCount (s : State) (i : Instr) (a : EvArg) : (s.dropOne i a).evqCount = s.evqCount := rfl
@[simp] theorem State.dropOne_fns (s : State) (i : Instr) (a : EvArg) : (s.dropOne i a).fns = s.fns := rfl
@[simp] theorem State.dropOne_msix (s : State) (i : Instr) (a : EvArg) : (s.dropOne i a).msix = s.msix := rfl
@[simp] theorem State.dropOne_pba (s : State) (i : Instr) (a : EvArg) : (s.dropOne i a).pba = s.pba := rfl
@[simp] theorem State.dropOne_queues (s : State) (i : Instr) (a : EvArg) : (s.dropOne i a).queues = s.queues := rfl
@[simp] theorem State.dropOne_cmds (s : State) (i : Instr) (a : EvArg) : (s.dropOne i a).cmds = s.cmds := rfl
@[simp] theorem State.dropOne_nextUid (s : State) (i : Instr) (a : EvArg) : (s.dropOne i a).nextUid = s.nextUid := rfl
@[simp] theorem State.dropOne_served (s : State) (i : Instr) (a : EvArg) : (s.dropOne i a).served = s.served := rfl
@[simp] theorem State.dropOne_held (s : State) (i : Instr) (a : EvArg) : (s.dropOne i a).held = s.held := rfl
@[simp] theorem State.dropOne_tokens (s : State) (i : Instr) (a : EvArg) : (s.dropOne i a).tokens = s.tokens := rfl
@[simp] theorem State.dropOne_slots (s : State) (i : Instr) (a : EvArg) : (s.dropOne i a).slots = s.slots := rfl
@[simp] theorem State.dropOne_buffers (s : State) (i : Instr) (a : EvArg) : (s.dropOne i a).buffers = s.buffers := rfl
@[simp] theorem State.dropOne_graphs (s : State) (i : Instr) (a : EvArg) : (s.dropOne i a).graphs = s.graphs := rfl
@[simp] theorem State.dropOne_sequence (s : State) (i : Instr) (a : EvArg) : (s.dropOne i a).sequence = s.sequence := rfl
@[simp] theorem State.dropOne_nextLaunch (s : State) (i : Instr) (a : EvArg) : (s.dropOne i a).nextLaunch = s.nextLaunch := rfl
@[simp] theorem State.dropOne_hidden (s : State) (i : Instr) (a : EvArg) : (s.dropOne i a).hidden = s.hidden := rfl
@[simp] theorem State.dropOne_coreFreeze (s : State) (i : Instr) (a : EvArg) : (s.dropOne i a).coreFreeze = s.coreFreeze := rfl
@[simp] theorem State.dropOne_clusterQ (s : State) (i : Instr) (a : EvArg) : (s.dropOne i a).clusterQ = s.clusterQ := rfl
@[simp] theorem State.dropOne_stratumQ (s : State) (i : Instr) (a : EvArg) : (s.dropOne i a).stratumQ = s.stratumQ := rfl
@[simp] theorem State.dropOne_aside (s : State) (i : Instr) (a : EvArg) : (s.dropOne i a).aside = s.aside := rfl
@[simp] theorem State.dropOne_stations (s : State) (i : Instr) (a : EvArg) : (s.dropOne i a).stations = s.stations := rfl
@[simp] theorem State.dropOne_walks (s : State) (i : Instr) (a : EvArg) : (s.dropOne i a).walks = s.walks := rfl
@[simp] theorem State.dropOne_answers (s : State) (i : Instr) (a : EvArg) : (s.dropOne i a).answers = s.answers := rfl
@[simp] theorem State.dropOne_owned (s : State) (i : Instr) (a : EvArg) : (s.dropOne i a).owned = s.owned := rfl
@[simp] theorem State.dropOne_moves (s : State) (i : Instr) (a : EvArg) : (s.dropOne i a).moves = s.moves := rfl
@[simp] theorem State.dropOne_nextMove (s : State) (i : Instr) (a : EvArg) : (s.dropOne i a).nextMove = s.nextMove := rfl
@[simp] theorem State.dropOne_porters (s : State) (i : Instr) (a : EvArg) : (s.dropOne i a).porters = s.porters := rfl
@[simp] theorem State.dropOne_routes (s : State) (i : Instr) (a : EvArg) : (s.dropOne i a).routes = s.routes := rfl
@[simp] theorem State.dropOne_groups (s : State) (i : Instr) (a : EvArg) : (s.dropOne i a).groups = s.groups := rfl
@[simp] theorem State.dropOne_outFlits (s : State) (i : Instr) (a : EvArg) : (s.dropOne i a).outFlits = s.outFlits := rfl
@[simp] theorem State.dropOne_links (s : State) (i : Instr) (a : EvArg) : (s.dropOne i a).links = s.links := rfl
@[simp] theorem State.dropOne_peerLines (s : State) (i : Instr) (a : EvArg) : (s.dropOne i a).peerLines = s.peerLines := rfl
@[simp] theorem State.dropOne_linkDown (s : State) (i : Instr) (a : EvArg) : (s.dropOne i a).linkDown = s.linkDown := rfl
@[simp] theorem State.dropOne_bar2 (s : State) (i : Instr) (a : EvArg) : (s.dropOne i a).bar2 = s.bar2 := rfl
@[simp] theorem State.dropOne_hostReads (s : State) (i : Instr) (a : EvArg) : (s.dropOne i a).hostReads = s.hostReads := rfl
@[simp] theorem State.dropOne_epWrites (s : State) (i : Instr) (a : EvArg) : (s.dropOne i a).epWrites = s.epWrites := rfl
@[simp] theorem State.dropOne_internalErr (s : State) (i : Instr) (a : EvArg) : (s.dropOne i a).internalErr = s.internalErr := rfl
@[simp] theorem State.unpost_mem (s : State) (i : Instr) (a : EvArg) : (s.unpost i a).mem = s.mem := rfl
@[simp] theorem State.unpost_cores (s : State) (i : Instr) (a : EvArg) : (s.unpost i a).cores = s.cores := rfl
@[simp] theorem State.unpost_launches (s : State) (i : Instr) (a : EvArg) : (s.unpost i a).launches = s.launches := rfl
@[simp] theorem State.unpost_clock (s : State) (i : Instr) (a : EvArg) : (s.unpost i a).clock = s.clock := rfl
@[simp] theorem State.unpost_tick (s : State) (i : Instr) (a : EvArg) : (s.unpost i a).tick = s.tick := rfl
@[simp] theorem State.unpost_agenda (s : State) (i : Instr) (a : EvArg) : (s.unpost i a).agenda = s.agenda := rfl
@[simp] theorem State.unpost_inputs (s : State) (i : Instr) (a : EvArg) : (s.unpost i a).inputs = s.inputs := rfl
@[simp] theorem State.unpost_wires (s : State) (i : Instr) (a : EvArg) : (s.unpost i a).wires = s.wires := rfl
@[simp] theorem State.unpost_cur (s : State) (i : Instr) (a : EvArg) : (s.unpost i a).cur = s.cur := rfl
@[simp] theorem State.unpost_power (s : State) (i : Instr) (a : EvArg) : (s.unpost i a).power = s.power := rfl
@[simp] theorem State.unpost_ready (s : State) (i : Instr) (a : EvArg) : (s.unpost i a).ready = s.ready := rfl
@[simp] theorem State.unpost_fail (s : State) (i : Instr) (a : EvArg) : (s.unpost i a).fail = s.fail := rfl
@[simp] theorem State.unpost_failcode (s : State) (i : Instr) (a : EvArg) : (s.unpost i a).failcode = s.failcode := rfl
@[simp] theorem State.unpost_fwver (s : State) (i : Instr) (a : EvArg) : (s.unpost i a).fwver = s.fwver := rfl
@[simp] theorem State.unpost_cfgver (s : State) (i : Instr) (a : EvArg) : (s.unpost i a).cfgver = s.cfgver := rfl
@[simp] theorem State.unpost_rollback (s : State) (i : Instr) (a : EvArg) : (s.unpost i a).rollback = s.rollback := rfl
@[simp] theorem State.unpost_outerr (s : State) (i : Instr) (a : EvArg) : (s.unpost i a).outerr = s.outerr := rfl
@[simp] theorem State.unpost_stkN (s : State) (i : Instr) (a : EvArg) : (s.unpost i a).stkN = s.stkN := rfl
@[simp] theorem State.unpost_stkBusy (s : State) (i : Instr) (a : EvArg) : (s.unpost i a).stkBusy = s.stkBusy := rfl
@[simp] theorem State.unpost_modnum (s : State) (i : Instr) (a : EvArg) : (s.unpost i a).modnum = s.modnum := rfl
@[simp] theorem State.unpost_allowance (s : State) (i : Instr) (a : EvArg) : (s.unpost i a).allowance = s.allowance := rfl
@[simp] theorem State.unpost_thermal (s : State) (i : Instr) (a : EvArg) : (s.unpost i a).thermal = s.thermal := rfl
@[simp] theorem State.unpost_mgmt (s : State) (i : Instr) (a : EvArg) : (s.unpost i a).mgmt = s.mgmt := rfl
@[simp] theorem State.unpost_evqCount (s : State) (i : Instr) (a : EvArg) : (s.unpost i a).evqCount = s.evqCount := rfl
@[simp] theorem State.unpost_fns (s : State) (i : Instr) (a : EvArg) : (s.unpost i a).fns = s.fns := rfl
@[simp] theorem State.unpost_msix (s : State) (i : Instr) (a : EvArg) : (s.unpost i a).msix = s.msix := rfl
@[simp] theorem State.unpost_pba (s : State) (i : Instr) (a : EvArg) : (s.unpost i a).pba = s.pba := rfl
@[simp] theorem State.unpost_queues (s : State) (i : Instr) (a : EvArg) : (s.unpost i a).queues = s.queues := rfl
@[simp] theorem State.unpost_cmds (s : State) (i : Instr) (a : EvArg) : (s.unpost i a).cmds = s.cmds := rfl
@[simp] theorem State.unpost_nextUid (s : State) (i : Instr) (a : EvArg) : (s.unpost i a).nextUid = s.nextUid := rfl
@[simp] theorem State.unpost_served (s : State) (i : Instr) (a : EvArg) : (s.unpost i a).served = s.served := rfl
@[simp] theorem State.unpost_held (s : State) (i : Instr) (a : EvArg) : (s.unpost i a).held = s.held := rfl
@[simp] theorem State.unpost_tokens (s : State) (i : Instr) (a : EvArg) : (s.unpost i a).tokens = s.tokens := rfl
@[simp] theorem State.unpost_slots (s : State) (i : Instr) (a : EvArg) : (s.unpost i a).slots = s.slots := rfl
@[simp] theorem State.unpost_buffers (s : State) (i : Instr) (a : EvArg) : (s.unpost i a).buffers = s.buffers := rfl
@[simp] theorem State.unpost_graphs (s : State) (i : Instr) (a : EvArg) : (s.unpost i a).graphs = s.graphs := rfl
@[simp] theorem State.unpost_sequence (s : State) (i : Instr) (a : EvArg) : (s.unpost i a).sequence = s.sequence := rfl
@[simp] theorem State.unpost_nextLaunch (s : State) (i : Instr) (a : EvArg) : (s.unpost i a).nextLaunch = s.nextLaunch := rfl
@[simp] theorem State.unpost_hidden (s : State) (i : Instr) (a : EvArg) : (s.unpost i a).hidden = s.hidden := rfl
@[simp] theorem State.unpost_coreFreeze (s : State) (i : Instr) (a : EvArg) : (s.unpost i a).coreFreeze = s.coreFreeze := rfl
@[simp] theorem State.unpost_clusterQ (s : State) (i : Instr) (a : EvArg) : (s.unpost i a).clusterQ = s.clusterQ := rfl
@[simp] theorem State.unpost_stratumQ (s : State) (i : Instr) (a : EvArg) : (s.unpost i a).stratumQ = s.stratumQ := rfl
@[simp] theorem State.unpost_aside (s : State) (i : Instr) (a : EvArg) : (s.unpost i a).aside = s.aside := rfl
@[simp] theorem State.unpost_stations (s : State) (i : Instr) (a : EvArg) : (s.unpost i a).stations = s.stations := rfl
@[simp] theorem State.unpost_walks (s : State) (i : Instr) (a : EvArg) : (s.unpost i a).walks = s.walks := rfl
@[simp] theorem State.unpost_answers (s : State) (i : Instr) (a : EvArg) : (s.unpost i a).answers = s.answers := rfl
@[simp] theorem State.unpost_owned (s : State) (i : Instr) (a : EvArg) : (s.unpost i a).owned = s.owned := rfl
@[simp] theorem State.unpost_moves (s : State) (i : Instr) (a : EvArg) : (s.unpost i a).moves = s.moves := rfl
@[simp] theorem State.unpost_nextMove (s : State) (i : Instr) (a : EvArg) : (s.unpost i a).nextMove = s.nextMove := rfl
@[simp] theorem State.unpost_porters (s : State) (i : Instr) (a : EvArg) : (s.unpost i a).porters = s.porters := rfl
@[simp] theorem State.unpost_routes (s : State) (i : Instr) (a : EvArg) : (s.unpost i a).routes = s.routes := rfl
@[simp] theorem State.unpost_groups (s : State) (i : Instr) (a : EvArg) : (s.unpost i a).groups = s.groups := rfl
@[simp] theorem State.unpost_outFlits (s : State) (i : Instr) (a : EvArg) : (s.unpost i a).outFlits = s.outFlits := rfl
@[simp] theorem State.unpost_links (s : State) (i : Instr) (a : EvArg) : (s.unpost i a).links = s.links := rfl
@[simp] theorem State.unpost_peerLines (s : State) (i : Instr) (a : EvArg) : (s.unpost i a).peerLines = s.peerLines := rfl
@[simp] theorem State.unpost_linkDown (s : State) (i : Instr) (a : EvArg) : (s.unpost i a).linkDown = s.linkDown := rfl
@[simp] theorem State.unpost_bar2 (s : State) (i : Instr) (a : EvArg) : (s.unpost i a).bar2 = s.bar2 := rfl
@[simp] theorem State.unpost_hostReads (s : State) (i : Instr) (a : EvArg) : (s.unpost i a).hostReads = s.hostReads := rfl
@[simp] theorem State.unpost_epWrites (s : State) (i : Instr) (a : EvArg) : (s.unpost i a).epWrites = s.epWrites := rfl
@[simp] theorem State.unpost_internalErr (s : State) (i : Instr) (a : EvArg) : (s.unpost i a).internalErr = s.internalErr := rfl
@[simp] theorem State.post_mem (s : State) (i : Instr) (a : EvArg) : (s.post i a).mem = s.mem := by unfold State.post; split <;> rfl
@[simp] theorem State.post_cores (s : State) (i : Instr) (a : EvArg) : (s.post i a).cores = s.cores := by unfold State.post; split <;> rfl
@[simp] theorem State.post_launches (s : State) (i : Instr) (a : EvArg) : (s.post i a).launches = s.launches := by unfold State.post; split <;> rfl
@[simp] theorem State.post_clock (s : State) (i : Instr) (a : EvArg) : (s.post i a).clock = s.clock := by unfold State.post; split <;> rfl
@[simp] theorem State.post_tick (s : State) (i : Instr) (a : EvArg) : (s.post i a).tick = s.tick := by unfold State.post; split <;> rfl
@[simp] theorem State.post_agenda (s : State) (i : Instr) (a : EvArg) : (s.post i a).agenda = s.agenda := by unfold State.post; split <;> rfl
@[simp] theorem State.post_inputs (s : State) (i : Instr) (a : EvArg) : (s.post i a).inputs = s.inputs := by unfold State.post; split <;> rfl
@[simp] theorem State.post_wires (s : State) (i : Instr) (a : EvArg) : (s.post i a).wires = s.wires := by unfold State.post; split <;> rfl
@[simp] theorem State.post_cur (s : State) (i : Instr) (a : EvArg) : (s.post i a).cur = s.cur := by unfold State.post; split <;> rfl
@[simp] theorem State.post_power (s : State) (i : Instr) (a : EvArg) : (s.post i a).power = s.power := by unfold State.post; split <;> rfl
@[simp] theorem State.post_ready (s : State) (i : Instr) (a : EvArg) : (s.post i a).ready = s.ready := by unfold State.post; split <;> rfl
@[simp] theorem State.post_fail (s : State) (i : Instr) (a : EvArg) : (s.post i a).fail = s.fail := by unfold State.post; split <;> rfl
@[simp] theorem State.post_failcode (s : State) (i : Instr) (a : EvArg) : (s.post i a).failcode = s.failcode := by unfold State.post; split <;> rfl
@[simp] theorem State.post_fwver (s : State) (i : Instr) (a : EvArg) : (s.post i a).fwver = s.fwver := by unfold State.post; split <;> rfl
@[simp] theorem State.post_cfgver (s : State) (i : Instr) (a : EvArg) : (s.post i a).cfgver = s.cfgver := by unfold State.post; split <;> rfl
@[simp] theorem State.post_rollback (s : State) (i : Instr) (a : EvArg) : (s.post i a).rollback = s.rollback := by unfold State.post; split <;> rfl
@[simp] theorem State.post_outerr (s : State) (i : Instr) (a : EvArg) : (s.post i a).outerr = s.outerr := by unfold State.post; split <;> rfl
@[simp] theorem State.post_stkN (s : State) (i : Instr) (a : EvArg) : (s.post i a).stkN = s.stkN := by unfold State.post; split <;> rfl
@[simp] theorem State.post_stkBusy (s : State) (i : Instr) (a : EvArg) : (s.post i a).stkBusy = s.stkBusy := by unfold State.post; split <;> rfl
@[simp] theorem State.post_modnum (s : State) (i : Instr) (a : EvArg) : (s.post i a).modnum = s.modnum := by unfold State.post; split <;> rfl
@[simp] theorem State.post_allowance (s : State) (i : Instr) (a : EvArg) : (s.post i a).allowance = s.allowance := by unfold State.post; split <;> rfl
@[simp] theorem State.post_thermal (s : State) (i : Instr) (a : EvArg) : (s.post i a).thermal = s.thermal := by unfold State.post; split <;> rfl
@[simp] theorem State.post_mgmt (s : State) (i : Instr) (a : EvArg) : (s.post i a).mgmt = s.mgmt := by unfold State.post; split <;> rfl
@[simp] theorem State.post_evqCount (s : State) (i : Instr) (a : EvArg) : (s.post i a).evqCount = s.evqCount := by unfold State.post; split <;> rfl
@[simp] theorem State.post_fns (s : State) (i : Instr) (a : EvArg) : (s.post i a).fns = s.fns := by unfold State.post; split <;> rfl
@[simp] theorem State.post_msix (s : State) (i : Instr) (a : EvArg) : (s.post i a).msix = s.msix := by unfold State.post; split <;> rfl
@[simp] theorem State.post_pba (s : State) (i : Instr) (a : EvArg) : (s.post i a).pba = s.pba := by unfold State.post; split <;> rfl
@[simp] theorem State.post_queues (s : State) (i : Instr) (a : EvArg) : (s.post i a).queues = s.queues := by unfold State.post; split <;> rfl
@[simp] theorem State.post_cmds (s : State) (i : Instr) (a : EvArg) : (s.post i a).cmds = s.cmds := by unfold State.post; split <;> rfl
@[simp] theorem State.post_nextUid (s : State) (i : Instr) (a : EvArg) : (s.post i a).nextUid = s.nextUid := by unfold State.post; split <;> rfl
@[simp] theorem State.post_served (s : State) (i : Instr) (a : EvArg) : (s.post i a).served = s.served := by unfold State.post; split <;> rfl
@[simp] theorem State.post_held (s : State) (i : Instr) (a : EvArg) : (s.post i a).held = s.held := by unfold State.post; split <;> rfl
@[simp] theorem State.post_tokens (s : State) (i : Instr) (a : EvArg) : (s.post i a).tokens = s.tokens := by unfold State.post; split <;> rfl
@[simp] theorem State.post_slots (s : State) (i : Instr) (a : EvArg) : (s.post i a).slots = s.slots := by unfold State.post; split <;> rfl
@[simp] theorem State.post_buffers (s : State) (i : Instr) (a : EvArg) : (s.post i a).buffers = s.buffers := by unfold State.post; split <;> rfl
@[simp] theorem State.post_graphs (s : State) (i : Instr) (a : EvArg) : (s.post i a).graphs = s.graphs := by unfold State.post; split <;> rfl
@[simp] theorem State.post_sequence (s : State) (i : Instr) (a : EvArg) : (s.post i a).sequence = s.sequence := by unfold State.post; split <;> rfl
@[simp] theorem State.post_nextLaunch (s : State) (i : Instr) (a : EvArg) : (s.post i a).nextLaunch = s.nextLaunch := by unfold State.post; split <;> rfl
@[simp] theorem State.post_hidden (s : State) (i : Instr) (a : EvArg) : (s.post i a).hidden = s.hidden := by unfold State.post; split <;> rfl
@[simp] theorem State.post_coreFreeze (s : State) (i : Instr) (a : EvArg) : (s.post i a).coreFreeze = s.coreFreeze := by unfold State.post; split <;> rfl
@[simp] theorem State.post_clusterQ (s : State) (i : Instr) (a : EvArg) : (s.post i a).clusterQ = s.clusterQ := by unfold State.post; split <;> rfl
@[simp] theorem State.post_stratumQ (s : State) (i : Instr) (a : EvArg) : (s.post i a).stratumQ = s.stratumQ := by unfold State.post; split <;> rfl
@[simp] theorem State.post_aside (s : State) (i : Instr) (a : EvArg) : (s.post i a).aside = s.aside := by unfold State.post; split <;> rfl
@[simp] theorem State.post_stations (s : State) (i : Instr) (a : EvArg) : (s.post i a).stations = s.stations := by unfold State.post; split <;> rfl
@[simp] theorem State.post_walks (s : State) (i : Instr) (a : EvArg) : (s.post i a).walks = s.walks := by unfold State.post; split <;> rfl
@[simp] theorem State.post_answers (s : State) (i : Instr) (a : EvArg) : (s.post i a).answers = s.answers := by unfold State.post; split <;> rfl
@[simp] theorem State.post_owned (s : State) (i : Instr) (a : EvArg) : (s.post i a).owned = s.owned := by unfold State.post; split <;> rfl
@[simp] theorem State.post_moves (s : State) (i : Instr) (a : EvArg) : (s.post i a).moves = s.moves := by unfold State.post; split <;> rfl
@[simp] theorem State.post_nextMove (s : State) (i : Instr) (a : EvArg) : (s.post i a).nextMove = s.nextMove := by unfold State.post; split <;> rfl
@[simp] theorem State.post_porters (s : State) (i : Instr) (a : EvArg) : (s.post i a).porters = s.porters := by unfold State.post; split <;> rfl
@[simp] theorem State.post_routes (s : State) (i : Instr) (a : EvArg) : (s.post i a).routes = s.routes := by unfold State.post; split <;> rfl
@[simp] theorem State.post_groups (s : State) (i : Instr) (a : EvArg) : (s.post i a).groups = s.groups := by unfold State.post; split <;> rfl
@[simp] theorem State.post_outFlits (s : State) (i : Instr) (a : EvArg) : (s.post i a).outFlits = s.outFlits := by unfold State.post; split <;> rfl
@[simp] theorem State.post_links (s : State) (i : Instr) (a : EvArg) : (s.post i a).links = s.links := by unfold State.post; split <;> rfl
@[simp] theorem State.post_peerLines (s : State) (i : Instr) (a : EvArg) : (s.post i a).peerLines = s.peerLines := by unfold State.post; split <;> rfl
@[simp] theorem State.post_linkDown (s : State) (i : Instr) (a : EvArg) : (s.post i a).linkDown = s.linkDown := by unfold State.post; split <;> rfl
@[simp] theorem State.post_bar2 (s : State) (i : Instr) (a : EvArg) : (s.post i a).bar2 = s.bar2 := by unfold State.post; split <;> rfl
@[simp] theorem State.post_hostReads (s : State) (i : Instr) (a : EvArg) : (s.post i a).hostReads = s.hostReads := by unfold State.post; split <;> rfl
@[simp] theorem State.post_epWrites (s : State) (i : Instr) (a : EvArg) : (s.post i a).epWrites = s.epWrites := by unfold State.post; split <;> rfl
@[simp] theorem State.post_internalErr (s : State) (i : Instr) (a : EvArg) : (s.post i a).internalErr = s.internalErr := by unfold State.post; split <;> rfl
@[simp] theorem State.push_mem (s : State) (l : List Item) : (s.push l).mem = s.mem := rfl
@[simp] theorem State.push_cores (s : State) (l : List Item) : (s.push l).cores = s.cores := rfl
@[simp] theorem State.push_launches (s : State) (l : List Item) : (s.push l).launches = s.launches := rfl
@[simp] theorem State.push_clock (s : State) (l : List Item) : (s.push l).clock = s.clock := rfl
@[simp] theorem State.push_tick (s : State) (l : List Item) : (s.push l).tick = s.tick := rfl
@[simp] theorem State.push_pending (s : State) (l : List Item) : (s.push l).pending = s.pending := rfl
@[simp] theorem State.push_inputs (s : State) (l : List Item) : (s.push l).inputs = s.inputs := rfl
@[simp] theorem State.push_wires (s : State) (l : List Item) : (s.push l).wires = s.wires := rfl
@[simp] theorem State.push_cur (s : State) (l : List Item) : (s.push l).cur = s.cur := rfl
@[simp] theorem State.push_power (s : State) (l : List Item) : (s.push l).power = s.power := rfl
@[simp] theorem State.push_ready (s : State) (l : List Item) : (s.push l).ready = s.ready := rfl
@[simp] theorem State.push_fail (s : State) (l : List Item) : (s.push l).fail = s.fail := rfl
@[simp] theorem State.push_failcode (s : State) (l : List Item) : (s.push l).failcode = s.failcode := rfl
@[simp] theorem State.push_fwver (s : State) (l : List Item) : (s.push l).fwver = s.fwver := rfl
@[simp] theorem State.push_cfgver (s : State) (l : List Item) : (s.push l).cfgver = s.cfgver := rfl
@[simp] theorem State.push_rollback (s : State) (l : List Item) : (s.push l).rollback = s.rollback := rfl
@[simp] theorem State.push_outerr (s : State) (l : List Item) : (s.push l).outerr = s.outerr := rfl
@[simp] theorem State.push_stkN (s : State) (l : List Item) : (s.push l).stkN = s.stkN := rfl
@[simp] theorem State.push_stkBusy (s : State) (l : List Item) : (s.push l).stkBusy = s.stkBusy := rfl
@[simp] theorem State.push_modnum (s : State) (l : List Item) : (s.push l).modnum = s.modnum := rfl
@[simp] theorem State.push_allowance (s : State) (l : List Item) : (s.push l).allowance = s.allowance := rfl
@[simp] theorem State.push_thermal (s : State) (l : List Item) : (s.push l).thermal = s.thermal := rfl
@[simp] theorem State.push_mgmt (s : State) (l : List Item) : (s.push l).mgmt = s.mgmt := rfl
@[simp] theorem State.push_evqCount (s : State) (l : List Item) : (s.push l).evqCount = s.evqCount := rfl
@[simp] theorem State.push_fns (s : State) (l : List Item) : (s.push l).fns = s.fns := rfl
@[simp] theorem State.push_msix (s : State) (l : List Item) : (s.push l).msix = s.msix := rfl
@[simp] theorem State.push_pba (s : State) (l : List Item) : (s.push l).pba = s.pba := rfl
@[simp] theorem State.push_queues (s : State) (l : List Item) : (s.push l).queues = s.queues := rfl
@[simp] theorem State.push_cmds (s : State) (l : List Item) : (s.push l).cmds = s.cmds := rfl
@[simp] theorem State.push_nextUid (s : State) (l : List Item) : (s.push l).nextUid = s.nextUid := rfl
@[simp] theorem State.push_served (s : State) (l : List Item) : (s.push l).served = s.served := rfl
@[simp] theorem State.push_held (s : State) (l : List Item) : (s.push l).held = s.held := rfl
@[simp] theorem State.push_tokens (s : State) (l : List Item) : (s.push l).tokens = s.tokens := rfl
@[simp] theorem State.push_slots (s : State) (l : List Item) : (s.push l).slots = s.slots := rfl
@[simp] theorem State.push_buffers (s : State) (l : List Item) : (s.push l).buffers = s.buffers := rfl
@[simp] theorem State.push_graphs (s : State) (l : List Item) : (s.push l).graphs = s.graphs := rfl
@[simp] theorem State.push_sequence (s : State) (l : List Item) : (s.push l).sequence = s.sequence := rfl
@[simp] theorem State.push_nextLaunch (s : State) (l : List Item) : (s.push l).nextLaunch = s.nextLaunch := rfl
@[simp] theorem State.push_hidden (s : State) (l : List Item) : (s.push l).hidden = s.hidden := rfl
@[simp] theorem State.push_coreFreeze (s : State) (l : List Item) : (s.push l).coreFreeze = s.coreFreeze := rfl
@[simp] theorem State.push_clusterQ (s : State) (l : List Item) : (s.push l).clusterQ = s.clusterQ := rfl
@[simp] theorem State.push_stratumQ (s : State) (l : List Item) : (s.push l).stratumQ = s.stratumQ := rfl
@[simp] theorem State.push_aside (s : State) (l : List Item) : (s.push l).aside = s.aside := rfl
@[simp] theorem State.push_stations (s : State) (l : List Item) : (s.push l).stations = s.stations := rfl
@[simp] theorem State.push_walks (s : State) (l : List Item) : (s.push l).walks = s.walks := rfl
@[simp] theorem State.push_answers (s : State) (l : List Item) : (s.push l).answers = s.answers := rfl
@[simp] theorem State.push_owned (s : State) (l : List Item) : (s.push l).owned = s.owned := rfl
@[simp] theorem State.push_moves (s : State) (l : List Item) : (s.push l).moves = s.moves := rfl
@[simp] theorem State.push_nextMove (s : State) (l : List Item) : (s.push l).nextMove = s.nextMove := rfl
@[simp] theorem State.push_porters (s : State) (l : List Item) : (s.push l).porters = s.porters := rfl
@[simp] theorem State.push_routes (s : State) (l : List Item) : (s.push l).routes = s.routes := rfl
@[simp] theorem State.push_groups (s : State) (l : List Item) : (s.push l).groups = s.groups := rfl
@[simp] theorem State.push_outFlits (s : State) (l : List Item) : (s.push l).outFlits = s.outFlits := rfl
@[simp] theorem State.push_links (s : State) (l : List Item) : (s.push l).links = s.links := rfl
@[simp] theorem State.push_peerLines (s : State) (l : List Item) : (s.push l).peerLines = s.peerLines := rfl
@[simp] theorem State.push_linkDown (s : State) (l : List Item) : (s.push l).linkDown = s.linkDown := rfl
@[simp] theorem State.push_bar2 (s : State) (l : List Item) : (s.push l).bar2 = s.bar2 := rfl
@[simp] theorem State.push_hostReads (s : State) (l : List Item) : (s.push l).hostReads = s.hostReads := rfl
@[simp] theorem State.push_epWrites (s : State) (l : List Item) : (s.push l).epWrites = s.epWrites := rfl
@[simp] theorem State.push_internalErr (s : State) (l : List Item) : (s.push l).internalErr = s.internalErr := rfl
@[simp] theorem State.wire_mem (s : State) (t : Nat) (i : Instr) (a : EvArg) : (s.wire t i a).mem = s.mem := rfl
@[simp] theorem State.wire_cores (s : State) (t : Nat) (i : Instr) (a : EvArg) : (s.wire t i a).cores = s.cores := rfl
@[simp] theorem State.wire_launches (s : State) (t : Nat) (i : Instr) (a : EvArg) : (s.wire t i a).launches = s.launches := rfl
@[simp] theorem State.wire_clock (s : State) (t : Nat) (i : Instr) (a : EvArg) : (s.wire t i a).clock = s.clock := rfl
@[simp] theorem State.wire_tick (s : State) (t : Nat) (i : Instr) (a : EvArg) : (s.wire t i a).tick = s.tick := rfl
@[simp] theorem State.wire_agenda (s : State) (t : Nat) (i : Instr) (a : EvArg) : (s.wire t i a).agenda = s.agenda := rfl
@[simp] theorem State.wire_pending (s : State) (t : Nat) (i : Instr) (a : EvArg) : (s.wire t i a).pending = s.pending := rfl
@[simp] theorem State.wire_inputs (s : State) (t : Nat) (i : Instr) (a : EvArg) : (s.wire t i a).inputs = s.inputs := rfl
@[simp] theorem State.wire_cur (s : State) (t : Nat) (i : Instr) (a : EvArg) : (s.wire t i a).cur = s.cur := rfl
@[simp] theorem State.wire_power (s : State) (t : Nat) (i : Instr) (a : EvArg) : (s.wire t i a).power = s.power := rfl
@[simp] theorem State.wire_ready (s : State) (t : Nat) (i : Instr) (a : EvArg) : (s.wire t i a).ready = s.ready := rfl
@[simp] theorem State.wire_fail (s : State) (t : Nat) (i : Instr) (a : EvArg) : (s.wire t i a).fail = s.fail := rfl
@[simp] theorem State.wire_failcode (s : State) (t : Nat) (i : Instr) (a : EvArg) : (s.wire t i a).failcode = s.failcode := rfl
@[simp] theorem State.wire_fwver (s : State) (t : Nat) (i : Instr) (a : EvArg) : (s.wire t i a).fwver = s.fwver := rfl
@[simp] theorem State.wire_cfgver (s : State) (t : Nat) (i : Instr) (a : EvArg) : (s.wire t i a).cfgver = s.cfgver := rfl
@[simp] theorem State.wire_rollback (s : State) (t : Nat) (i : Instr) (a : EvArg) : (s.wire t i a).rollback = s.rollback := rfl
@[simp] theorem State.wire_outerr (s : State) (t : Nat) (i : Instr) (a : EvArg) : (s.wire t i a).outerr = s.outerr := rfl
@[simp] theorem State.wire_stkN (s : State) (t : Nat) (i : Instr) (a : EvArg) : (s.wire t i a).stkN = s.stkN := rfl
@[simp] theorem State.wire_stkBusy (s : State) (t : Nat) (i : Instr) (a : EvArg) : (s.wire t i a).stkBusy = s.stkBusy := rfl
@[simp] theorem State.wire_modnum (s : State) (t : Nat) (i : Instr) (a : EvArg) : (s.wire t i a).modnum = s.modnum := rfl
@[simp] theorem State.wire_allowance (s : State) (t : Nat) (i : Instr) (a : EvArg) : (s.wire t i a).allowance = s.allowance := rfl
@[simp] theorem State.wire_thermal (s : State) (t : Nat) (i : Instr) (a : EvArg) : (s.wire t i a).thermal = s.thermal := rfl
@[simp] theorem State.wire_mgmt (s : State) (t : Nat) (i : Instr) (a : EvArg) : (s.wire t i a).mgmt = s.mgmt := rfl
@[simp] theorem State.wire_evqCount (s : State) (t : Nat) (i : Instr) (a : EvArg) : (s.wire t i a).evqCount = s.evqCount := rfl
@[simp] theorem State.wire_fns (s : State) (t : Nat) (i : Instr) (a : EvArg) : (s.wire t i a).fns = s.fns := rfl
@[simp] theorem State.wire_msix (s : State) (t : Nat) (i : Instr) (a : EvArg) : (s.wire t i a).msix = s.msix := rfl
@[simp] theorem State.wire_pba (s : State) (t : Nat) (i : Instr) (a : EvArg) : (s.wire t i a).pba = s.pba := rfl
@[simp] theorem State.wire_queues (s : State) (t : Nat) (i : Instr) (a : EvArg) : (s.wire t i a).queues = s.queues := rfl
@[simp] theorem State.wire_cmds (s : State) (t : Nat) (i : Instr) (a : EvArg) : (s.wire t i a).cmds = s.cmds := rfl
@[simp] theorem State.wire_nextUid (s : State) (t : Nat) (i : Instr) (a : EvArg) : (s.wire t i a).nextUid = s.nextUid := rfl
@[simp] theorem State.wire_served (s : State) (t : Nat) (i : Instr) (a : EvArg) : (s.wire t i a).served = s.served := rfl
@[simp] theorem State.wire_held (s : State) (t : Nat) (i : Instr) (a : EvArg) : (s.wire t i a).held = s.held := rfl
@[simp] theorem State.wire_tokens (s : State) (t : Nat) (i : Instr) (a : EvArg) : (s.wire t i a).tokens = s.tokens := rfl
@[simp] theorem State.wire_slots (s : State) (t : Nat) (i : Instr) (a : EvArg) : (s.wire t i a).slots = s.slots := rfl
@[simp] theorem State.wire_buffers (s : State) (t : Nat) (i : Instr) (a : EvArg) : (s.wire t i a).buffers = s.buffers := rfl
@[simp] theorem State.wire_graphs (s : State) (t : Nat) (i : Instr) (a : EvArg) : (s.wire t i a).graphs = s.graphs := rfl
@[simp] theorem State.wire_sequence (s : State) (t : Nat) (i : Instr) (a : EvArg) : (s.wire t i a).sequence = s.sequence := rfl
@[simp] theorem State.wire_nextLaunch (s : State) (t : Nat) (i : Instr) (a : EvArg) : (s.wire t i a).nextLaunch = s.nextLaunch := rfl
@[simp] theorem State.wire_hidden (s : State) (t : Nat) (i : Instr) (a : EvArg) : (s.wire t i a).hidden = s.hidden := rfl
@[simp] theorem State.wire_coreFreeze (s : State) (t : Nat) (i : Instr) (a : EvArg) : (s.wire t i a).coreFreeze = s.coreFreeze := rfl
@[simp] theorem State.wire_clusterQ (s : State) (t : Nat) (i : Instr) (a : EvArg) : (s.wire t i a).clusterQ = s.clusterQ := rfl
@[simp] theorem State.wire_stratumQ (s : State) (t : Nat) (i : Instr) (a : EvArg) : (s.wire t i a).stratumQ = s.stratumQ := rfl
@[simp] theorem State.wire_aside (s : State) (t : Nat) (i : Instr) (a : EvArg) : (s.wire t i a).aside = s.aside := rfl
@[simp] theorem State.wire_stations (s : State) (t : Nat) (i : Instr) (a : EvArg) : (s.wire t i a).stations = s.stations := rfl
@[simp] theorem State.wire_walks (s : State) (t : Nat) (i : Instr) (a : EvArg) : (s.wire t i a).walks = s.walks := rfl
@[simp] theorem State.wire_answers (s : State) (t : Nat) (i : Instr) (a : EvArg) : (s.wire t i a).answers = s.answers := rfl
@[simp] theorem State.wire_owned (s : State) (t : Nat) (i : Instr) (a : EvArg) : (s.wire t i a).owned = s.owned := rfl
@[simp] theorem State.wire_moves (s : State) (t : Nat) (i : Instr) (a : EvArg) : (s.wire t i a).moves = s.moves := rfl
@[simp] theorem State.wire_nextMove (s : State) (t : Nat) (i : Instr) (a : EvArg) : (s.wire t i a).nextMove = s.nextMove := rfl
@[simp] theorem State.wire_porters (s : State) (t : Nat) (i : Instr) (a : EvArg) : (s.wire t i a).porters = s.porters := rfl
@[simp] theorem State.wire_routes (s : State) (t : Nat) (i : Instr) (a : EvArg) : (s.wire t i a).routes = s.routes := rfl
@[simp] theorem State.wire_groups (s : State) (t : Nat) (i : Instr) (a : EvArg) : (s.wire t i a).groups = s.groups := rfl
@[simp] theorem State.wire_outFlits (s : State) (t : Nat) (i : Instr) (a : EvArg) : (s.wire t i a).outFlits = s.outFlits := rfl
@[simp] theorem State.wire_links (s : State) (t : Nat) (i : Instr) (a : EvArg) : (s.wire t i a).links = s.links := rfl
@[simp] theorem State.wire_peerLines (s : State) (t : Nat) (i : Instr) (a : EvArg) : (s.wire t i a).peerLines = s.peerLines := rfl
@[simp] theorem State.wire_linkDown (s : State) (t : Nat) (i : Instr) (a : EvArg) : (s.wire t i a).linkDown = s.linkDown := rfl
@[simp] theorem State.wire_bar2 (s : State) (t : Nat) (i : Instr) (a : EvArg) : (s.wire t i a).bar2 = s.bar2 := rfl
@[simp] theorem State.wire_hostReads (s : State) (t : Nat) (i : Instr) (a : EvArg) : (s.wire t i a).hostReads = s.hostReads := rfl
@[simp] theorem State.wire_epWrites (s : State) (t : Nat) (i : Instr) (a : EvArg) : (s.wire t i a).epWrites = s.epWrites := rfl
@[simp] theorem State.wire_internalErr (s : State) (t : Nat) (i : Instr) (a : EvArg) : (s.wire t i a).internalErr = s.internalErr := rfl
@[simp] theorem State.setLaunch_mem (s : State) (l : Launch) : (s.setLaunch l).mem = s.mem := rfl
@[simp] theorem State.setLaunch_cores (s : State) (l : Launch) : (s.setLaunch l).cores = s.cores := rfl
@[simp] theorem State.setLaunch_clock (s : State) (l : Launch) : (s.setLaunch l).clock = s.clock := rfl
@[simp] theorem State.setLaunch_tick (s : State) (l : Launch) : (s.setLaunch l).tick = s.tick := rfl
@[simp] theorem State.setLaunch_agenda (s : State) (l : Launch) : (s.setLaunch l).agenda = s.agenda := rfl
@[simp] theorem State.setLaunch_pending (s : State) (l : Launch) : (s.setLaunch l).pending = s.pending := rfl
@[simp] theorem State.setLaunch_inputs (s : State) (l : Launch) : (s.setLaunch l).inputs = s.inputs := rfl
@[simp] theorem State.setLaunch_wires (s : State) (l : Launch) : (s.setLaunch l).wires = s.wires := rfl
@[simp] theorem State.setLaunch_cur (s : State) (l : Launch) : (s.setLaunch l).cur = s.cur := rfl
@[simp] theorem State.setLaunch_power (s : State) (l : Launch) : (s.setLaunch l).power = s.power := rfl
@[simp] theorem State.setLaunch_ready (s : State) (l : Launch) : (s.setLaunch l).ready = s.ready := rfl
@[simp] theorem State.setLaunch_fail (s : State) (l : Launch) : (s.setLaunch l).fail = s.fail := rfl
@[simp] theorem State.setLaunch_failcode (s : State) (l : Launch) : (s.setLaunch l).failcode = s.failcode := rfl
@[simp] theorem State.setLaunch_fwver (s : State) (l : Launch) : (s.setLaunch l).fwver = s.fwver := rfl
@[simp] theorem State.setLaunch_cfgver (s : State) (l : Launch) : (s.setLaunch l).cfgver = s.cfgver := rfl
@[simp] theorem State.setLaunch_rollback (s : State) (l : Launch) : (s.setLaunch l).rollback = s.rollback := rfl
@[simp] theorem State.setLaunch_outerr (s : State) (l : Launch) : (s.setLaunch l).outerr = s.outerr := rfl
@[simp] theorem State.setLaunch_stkN (s : State) (l : Launch) : (s.setLaunch l).stkN = s.stkN := rfl
@[simp] theorem State.setLaunch_stkBusy (s : State) (l : Launch) : (s.setLaunch l).stkBusy = s.stkBusy := rfl
@[simp] theorem State.setLaunch_modnum (s : State) (l : Launch) : (s.setLaunch l).modnum = s.modnum := rfl
@[simp] theorem State.setLaunch_allowance (s : State) (l : Launch) : (s.setLaunch l).allowance = s.allowance := rfl
@[simp] theorem State.setLaunch_thermal (s : State) (l : Launch) : (s.setLaunch l).thermal = s.thermal := rfl
@[simp] theorem State.setLaunch_mgmt (s : State) (l : Launch) : (s.setLaunch l).mgmt = s.mgmt := rfl
@[simp] theorem State.setLaunch_evqCount (s : State) (l : Launch) : (s.setLaunch l).evqCount = s.evqCount := rfl
@[simp] theorem State.setLaunch_fns (s : State) (l : Launch) : (s.setLaunch l).fns = s.fns := rfl
@[simp] theorem State.setLaunch_msix (s : State) (l : Launch) : (s.setLaunch l).msix = s.msix := rfl
@[simp] theorem State.setLaunch_pba (s : State) (l : Launch) : (s.setLaunch l).pba = s.pba := rfl
@[simp] theorem State.setLaunch_queues (s : State) (l : Launch) : (s.setLaunch l).queues = s.queues := rfl
@[simp] theorem State.setLaunch_cmds (s : State) (l : Launch) : (s.setLaunch l).cmds = s.cmds := rfl
@[simp] theorem State.setLaunch_nextUid (s : State) (l : Launch) : (s.setLaunch l).nextUid = s.nextUid := rfl
@[simp] theorem State.setLaunch_served (s : State) (l : Launch) : (s.setLaunch l).served = s.served := rfl
@[simp] theorem State.setLaunch_held (s : State) (l : Launch) : (s.setLaunch l).held = s.held := rfl
@[simp] theorem State.setLaunch_tokens (s : State) (l : Launch) : (s.setLaunch l).tokens = s.tokens := rfl
@[simp] theorem State.setLaunch_slots (s : State) (l : Launch) : (s.setLaunch l).slots = s.slots := rfl
@[simp] theorem State.setLaunch_buffers (s : State) (l : Launch) : (s.setLaunch l).buffers = s.buffers := rfl
@[simp] theorem State.setLaunch_graphs (s : State) (l : Launch) : (s.setLaunch l).graphs = s.graphs := rfl
@[simp] theorem State.setLaunch_sequence (s : State) (l : Launch) : (s.setLaunch l).sequence = s.sequence := rfl
@[simp] theorem State.setLaunch_nextLaunch (s : State) (l : Launch) : (s.setLaunch l).nextLaunch = s.nextLaunch := rfl
@[simp] theorem State.setLaunch_hidden (s : State) (l : Launch) : (s.setLaunch l).hidden = s.hidden := rfl
@[simp] theorem State.setLaunch_coreFreeze (s : State) (l : Launch) : (s.setLaunch l).coreFreeze = s.coreFreeze := rfl
@[simp] theorem State.setLaunch_clusterQ (s : State) (l : Launch) : (s.setLaunch l).clusterQ = s.clusterQ := rfl
@[simp] theorem State.setLaunch_stratumQ (s : State) (l : Launch) : (s.setLaunch l).stratumQ = s.stratumQ := rfl
@[simp] theorem State.setLaunch_aside (s : State) (l : Launch) : (s.setLaunch l).aside = s.aside := rfl
@[simp] theorem State.setLaunch_stations (s : State) (l : Launch) : (s.setLaunch l).stations = s.stations := rfl
@[simp] theorem State.setLaunch_walks (s : State) (l : Launch) : (s.setLaunch l).walks = s.walks := rfl
@[simp] theorem State.setLaunch_answers (s : State) (l : Launch) : (s.setLaunch l).answers = s.answers := rfl
@[simp] theorem State.setLaunch_owned (s : State) (l : Launch) : (s.setLaunch l).owned = s.owned := rfl
@[simp] theorem State.setLaunch_moves (s : State) (l : Launch) : (s.setLaunch l).moves = s.moves := rfl
@[simp] theorem State.setLaunch_nextMove (s : State) (l : Launch) : (s.setLaunch l).nextMove = s.nextMove := rfl
@[simp] theorem State.setLaunch_porters (s : State) (l : Launch) : (s.setLaunch l).porters = s.porters := rfl
@[simp] theorem State.setLaunch_routes (s : State) (l : Launch) : (s.setLaunch l).routes = s.routes := rfl
@[simp] theorem State.setLaunch_groups (s : State) (l : Launch) : (s.setLaunch l).groups = s.groups := rfl
@[simp] theorem State.setLaunch_outFlits (s : State) (l : Launch) : (s.setLaunch l).outFlits = s.outFlits := rfl
@[simp] theorem State.setLaunch_links (s : State) (l : Launch) : (s.setLaunch l).links = s.links := rfl
@[simp] theorem State.setLaunch_peerLines (s : State) (l : Launch) : (s.setLaunch l).peerLines = s.peerLines := rfl
@[simp] theorem State.setLaunch_linkDown (s : State) (l : Launch) : (s.setLaunch l).linkDown = s.linkDown := rfl
@[simp] theorem State.setLaunch_bar2 (s : State) (l : Launch) : (s.setLaunch l).bar2 = s.bar2 := rfl
@[simp] theorem State.setLaunch_hostReads (s : State) (l : Launch) : (s.setLaunch l).hostReads = s.hostReads := rfl
@[simp] theorem State.setLaunch_epWrites (s : State) (l : Launch) : (s.setLaunch l).epWrites = s.epWrites := rfl
@[simp] theorem State.setLaunch_internalErr (s : State) (l : Launch) : (s.setLaunch l).internalErr = s.internalErr := rfl
@[simp] theorem State.updRoute_mem (s : State) (h : Nat) (f : Route → Route) : (s.updRoute h f).mem = s.mem := rfl
@[simp] theorem State.updRoute_cores (s : State) (h : Nat) (f : Route → Route) : (s.updRoute h f).cores = s.cores := rfl
@[simp] theorem State.updRoute_launches (s : State) (h : Nat) (f : Route → Route) : (s.updRoute h f).launches = s.launches := rfl
@[simp] theorem State.updRoute_clock (s : State) (h : Nat) (f : Route → Route) : (s.updRoute h f).clock = s.clock := rfl
@[simp] theorem State.updRoute_tick (s : State) (h : Nat) (f : Route → Route) : (s.updRoute h f).tick = s.tick := rfl
@[simp] theorem State.updRoute_agenda (s : State) (h : Nat) (f : Route → Route) : (s.updRoute h f).agenda = s.agenda := rfl
@[simp] theorem State.updRoute_pending (s : State) (h : Nat) (f : Route → Route) : (s.updRoute h f).pending = s.pending := rfl
@[simp] theorem State.updRoute_inputs (s : State) (h : Nat) (f : Route → Route) : (s.updRoute h f).inputs = s.inputs := rfl
@[simp] theorem State.updRoute_wires (s : State) (h : Nat) (f : Route → Route) : (s.updRoute h f).wires = s.wires := rfl
@[simp] theorem State.updRoute_cur (s : State) (h : Nat) (f : Route → Route) : (s.updRoute h f).cur = s.cur := rfl
@[simp] theorem State.updRoute_power (s : State) (h : Nat) (f : Route → Route) : (s.updRoute h f).power = s.power := rfl
@[simp] theorem State.updRoute_ready (s : State) (h : Nat) (f : Route → Route) : (s.updRoute h f).ready = s.ready := rfl
@[simp] theorem State.updRoute_fail (s : State) (h : Nat) (f : Route → Route) : (s.updRoute h f).fail = s.fail := rfl
@[simp] theorem State.updRoute_failcode (s : State) (h : Nat) (f : Route → Route) : (s.updRoute h f).failcode = s.failcode := rfl
@[simp] theorem State.updRoute_fwver (s : State) (h : Nat) (f : Route → Route) : (s.updRoute h f).fwver = s.fwver := rfl
@[simp] theorem State.updRoute_cfgver (s : State) (h : Nat) (f : Route → Route) : (s.updRoute h f).cfgver = s.cfgver := rfl
@[simp] theorem State.updRoute_rollback (s : State) (h : Nat) (f : Route → Route) : (s.updRoute h f).rollback = s.rollback := rfl
@[simp] theorem State.updRoute_outerr (s : State) (h : Nat) (f : Route → Route) : (s.updRoute h f).outerr = s.outerr := rfl
@[simp] theorem State.updRoute_stkN (s : State) (h : Nat) (f : Route → Route) : (s.updRoute h f).stkN = s.stkN := rfl
@[simp] theorem State.updRoute_stkBusy (s : State) (h : Nat) (f : Route → Route) : (s.updRoute h f).stkBusy = s.stkBusy := rfl
@[simp] theorem State.updRoute_modnum (s : State) (h : Nat) (f : Route → Route) : (s.updRoute h f).modnum = s.modnum := rfl
@[simp] theorem State.updRoute_allowance (s : State) (h : Nat) (f : Route → Route) : (s.updRoute h f).allowance = s.allowance := rfl
@[simp] theorem State.updRoute_thermal (s : State) (h : Nat) (f : Route → Route) : (s.updRoute h f).thermal = s.thermal := rfl
@[simp] theorem State.updRoute_mgmt (s : State) (h : Nat) (f : Route → Route) : (s.updRoute h f).mgmt = s.mgmt := rfl
@[simp] theorem State.updRoute_evqCount (s : State) (h : Nat) (f : Route → Route) : (s.updRoute h f).evqCount = s.evqCount := rfl
@[simp] theorem State.updRoute_fns (s : State) (h : Nat) (f : Route → Route) : (s.updRoute h f).fns = s.fns := rfl
@[simp] theorem State.updRoute_msix (s : State) (h : Nat) (f : Route → Route) : (s.updRoute h f).msix = s.msix := rfl
@[simp] theorem State.updRoute_pba (s : State) (h : Nat) (f : Route → Route) : (s.updRoute h f).pba = s.pba := rfl
@[simp] theorem State.updRoute_queues (s : State) (h : Nat) (f : Route → Route) : (s.updRoute h f).queues = s.queues := rfl
@[simp] theorem State.updRoute_cmds (s : State) (h : Nat) (f : Route → Route) : (s.updRoute h f).cmds = s.cmds := rfl
@[simp] theorem State.updRoute_nextUid (s : State) (h : Nat) (f : Route → Route) : (s.updRoute h f).nextUid = s.nextUid := rfl
@[simp] theorem State.updRoute_served (s : State) (h : Nat) (f : Route → Route) : (s.updRoute h f).served = s.served := rfl
@[simp] theorem State.updRoute_held (s : State) (h : Nat) (f : Route → Route) : (s.updRoute h f).held = s.held := rfl
@[simp] theorem State.updRoute_tokens (s : State) (h : Nat) (f : Route → Route) : (s.updRoute h f).tokens = s.tokens := rfl
@[simp] theorem State.updRoute_slots (s : State) (h : Nat) (f : Route → Route) : (s.updRoute h f).slots = s.slots := rfl
@[simp] theorem State.updRoute_buffers (s : State) (h : Nat) (f : Route → Route) : (s.updRoute h f).buffers = s.buffers := rfl
@[simp] theorem State.updRoute_graphs (s : State) (h : Nat) (f : Route → Route) : (s.updRoute h f).graphs = s.graphs := rfl
@[simp] theorem State.updRoute_sequence (s : State) (h : Nat) (f : Route → Route) : (s.updRoute h f).sequence = s.sequence := rfl
@[simp] theorem State.updRoute_nextLaunch (s : State) (h : Nat) (f : Route → Route) : (s.updRoute h f).nextLaunch = s.nextLaunch := rfl
@[simp] theorem State.updRoute_hidden (s : State) (h : Nat) (f : Route → Route) : (s.updRoute h f).hidden = s.hidden := rfl
@[simp] theorem State.updRoute_coreFreeze (s : State) (h : Nat) (f : Route → Route) : (s.updRoute h f).coreFreeze = s.coreFreeze := rfl
@[simp] theorem State.updRoute_clusterQ (s : State) (h : Nat) (f : Route → Route) : (s.updRoute h f).clusterQ = s.clusterQ := rfl
@[simp] theorem State.updRoute_stratumQ (s : State) (h : Nat) (f : Route → Route) : (s.updRoute h f).stratumQ = s.stratumQ := rfl
@[simp] theorem State.updRoute_aside (s : State) (h : Nat) (f : Route → Route) : (s.updRoute h f).aside = s.aside := rfl
@[simp] theorem State.updRoute_stations (s : State) (h : Nat) (f : Route → Route) : (s.updRoute h f).stations = s.stations := rfl
@[simp] theorem State.updRoute_walks (s : State) (h : Nat) (f : Route → Route) : (s.updRoute h f).walks = s.walks := rfl
@[simp] theorem State.updRoute_answers (s : State) (h : Nat) (f : Route → Route) : (s.updRoute h f).answers = s.answers := rfl
@[simp] theorem State.updRoute_owned (s : State) (h : Nat) (f : Route → Route) : (s.updRoute h f).owned = s.owned := rfl
@[simp] theorem State.updRoute_moves (s : State) (h : Nat) (f : Route → Route) : (s.updRoute h f).moves = s.moves := rfl
@[simp] theorem State.updRoute_nextMove (s : State) (h : Nat) (f : Route → Route) : (s.updRoute h f).nextMove = s.nextMove := rfl
@[simp] theorem State.updRoute_porters (s : State) (h : Nat) (f : Route → Route) : (s.updRoute h f).porters = s.porters := rfl
@[simp] theorem State.updRoute_groups (s : State) (h : Nat) (f : Route → Route) : (s.updRoute h f).groups = s.groups := rfl
@[simp] theorem State.updRoute_outFlits (s : State) (h : Nat) (f : Route → Route) : (s.updRoute h f).outFlits = s.outFlits := rfl
@[simp] theorem State.updRoute_links (s : State) (h : Nat) (f : Route → Route) : (s.updRoute h f).links = s.links := rfl
@[simp] theorem State.updRoute_peerLines (s : State) (h : Nat) (f : Route → Route) : (s.updRoute h f).peerLines = s.peerLines := rfl
@[simp] theorem State.updRoute_linkDown (s : State) (h : Nat) (f : Route → Route) : (s.updRoute h f).linkDown = s.linkDown := rfl
@[simp] theorem State.updRoute_bar2 (s : State) (h : Nat) (f : Route → Route) : (s.updRoute h f).bar2 = s.bar2 := rfl
@[simp] theorem State.updRoute_hostReads (s : State) (h : Nat) (f : Route → Route) : (s.updRoute h f).hostReads = s.hostReads := rfl
@[simp] theorem State.updRoute_epWrites (s : State) (h : Nat) (f : Route → Route) : (s.updRoute h f).epWrites = s.epWrites := rfl
@[simp] theorem State.updRoute_internalErr (s : State) (h : Nat) (f : Route → Route) : (s.updRoute h f).internalErr = s.internalErr := rfl
@[simp] theorem State.updGroup_mem (s : State) (g : Nat) (f : Group → Group) : (s.updGroup g f).mem = s.mem := rfl
@[simp] theorem State.updGroup_cores (s : State) (g : Nat) (f : Group → Group) : (s.updGroup g f).cores = s.cores := rfl
@[simp] theorem State.updGroup_launches (s : State) (g : Nat) (f : Group → Group) : (s.updGroup g f).launches = s.launches := rfl
@[simp] theorem State.updGroup_clock (s : State) (g : Nat) (f : Group → Group) : (s.updGroup g f).clock = s.clock := rfl
@[simp] theorem State.updGroup_tick (s : State) (g : Nat) (f : Group → Group) : (s.updGroup g f).tick = s.tick := rfl
@[simp] theorem State.updGroup_agenda (s : State) (g : Nat) (f : Group → Group) : (s.updGroup g f).agenda = s.agenda := rfl
@[simp] theorem State.updGroup_pending (s : State) (g : Nat) (f : Group → Group) : (s.updGroup g f).pending = s.pending := rfl
@[simp] theorem State.updGroup_inputs (s : State) (g : Nat) (f : Group → Group) : (s.updGroup g f).inputs = s.inputs := rfl
@[simp] theorem State.updGroup_wires (s : State) (g : Nat) (f : Group → Group) : (s.updGroup g f).wires = s.wires := rfl
@[simp] theorem State.updGroup_cur (s : State) (g : Nat) (f : Group → Group) : (s.updGroup g f).cur = s.cur := rfl
@[simp] theorem State.updGroup_power (s : State) (g : Nat) (f : Group → Group) : (s.updGroup g f).power = s.power := rfl
@[simp] theorem State.updGroup_ready (s : State) (g : Nat) (f : Group → Group) : (s.updGroup g f).ready = s.ready := rfl
@[simp] theorem State.updGroup_fail (s : State) (g : Nat) (f : Group → Group) : (s.updGroup g f).fail = s.fail := rfl
@[simp] theorem State.updGroup_failcode (s : State) (g : Nat) (f : Group → Group) : (s.updGroup g f).failcode = s.failcode := rfl
@[simp] theorem State.updGroup_fwver (s : State) (g : Nat) (f : Group → Group) : (s.updGroup g f).fwver = s.fwver := rfl
@[simp] theorem State.updGroup_cfgver (s : State) (g : Nat) (f : Group → Group) : (s.updGroup g f).cfgver = s.cfgver := rfl
@[simp] theorem State.updGroup_rollback (s : State) (g : Nat) (f : Group → Group) : (s.updGroup g f).rollback = s.rollback := rfl
@[simp] theorem State.updGroup_outerr (s : State) (g : Nat) (f : Group → Group) : (s.updGroup g f).outerr = s.outerr := rfl
@[simp] theorem State.updGroup_stkN (s : State) (g : Nat) (f : Group → Group) : (s.updGroup g f).stkN = s.stkN := rfl
@[simp] theorem State.updGroup_stkBusy (s : State) (g : Nat) (f : Group → Group) : (s.updGroup g f).stkBusy = s.stkBusy := rfl
@[simp] theorem State.updGroup_modnum (s : State) (g : Nat) (f : Group → Group) : (s.updGroup g f).modnum = s.modnum := rfl
@[simp] theorem State.updGroup_allowance (s : State) (g : Nat) (f : Group → Group) : (s.updGroup g f).allowance = s.allowance := rfl
@[simp] theorem State.updGroup_thermal (s : State) (g : Nat) (f : Group → Group) : (s.updGroup g f).thermal = s.thermal := rfl
@[simp] theorem State.updGroup_mgmt (s : State) (g : Nat) (f : Group → Group) : (s.updGroup g f).mgmt = s.mgmt := rfl
@[simp] theorem State.updGroup_evqCount (s : State) (g : Nat) (f : Group → Group) : (s.updGroup g f).evqCount = s.evqCount := rfl
@[simp] theorem State.updGroup_fns (s : State) (g : Nat) (f : Group → Group) : (s.updGroup g f).fns = s.fns := rfl
@[simp] theorem State.updGroup_msix (s : State) (g : Nat) (f : Group → Group) : (s.updGroup g f).msix = s.msix := rfl
@[simp] theorem State.updGroup_pba (s : State) (g : Nat) (f : Group → Group) : (s.updGroup g f).pba = s.pba := rfl
@[simp] theorem State.updGroup_queues (s : State) (g : Nat) (f : Group → Group) : (s.updGroup g f).queues = s.queues := rfl
@[simp] theorem State.updGroup_cmds (s : State) (g : Nat) (f : Group → Group) : (s.updGroup g f).cmds = s.cmds := rfl
@[simp] theorem State.updGroup_nextUid (s : State) (g : Nat) (f : Group → Group) : (s.updGroup g f).nextUid = s.nextUid := rfl
@[simp] theorem State.updGroup_served (s : State) (g : Nat) (f : Group → Group) : (s.updGroup g f).served = s.served := rfl
@[simp] theorem State.updGroup_held (s : State) (g : Nat) (f : Group → Group) : (s.updGroup g f).held = s.held := rfl
@[simp] theorem State.updGroup_tokens (s : State) (g : Nat) (f : Group → Group) : (s.updGroup g f).tokens = s.tokens := rfl
@[simp] theorem State.updGroup_slots (s : State) (g : Nat) (f : Group → Group) : (s.updGroup g f).slots = s.slots := rfl
@[simp] theorem State.updGroup_buffers (s : State) (g : Nat) (f : Group → Group) : (s.updGroup g f).buffers = s.buffers := rfl
@[simp] theorem State.updGroup_graphs (s : State) (g : Nat) (f : Group → Group) : (s.updGroup g f).graphs = s.graphs := rfl
@[simp] theorem State.updGroup_sequence (s : State) (g : Nat) (f : Group → Group) : (s.updGroup g f).sequence = s.sequence := rfl
@[simp] theorem State.updGroup_nextLaunch (s : State) (g : Nat) (f : Group → Group) : (s.updGroup g f).nextLaunch = s.nextLaunch := rfl
@[simp] theorem State.updGroup_hidden (s : State) (g : Nat) (f : Group → Group) : (s.updGroup g f).hidden = s.hidden := rfl
@[simp] theorem State.updGroup_coreFreeze (s : State) (g : Nat) (f : Group → Group) : (s.updGroup g f).coreFreeze = s.coreFreeze := rfl
@[simp] theorem State.updGroup_clusterQ (s : State) (g : Nat) (f : Group → Group) : (s.updGroup g f).clusterQ = s.clusterQ := rfl
@[simp] theorem State.updGroup_stratumQ (s : State) (g : Nat) (f : Group → Group) : (s.updGroup g f).stratumQ = s.stratumQ := rfl
@[simp] theorem State.updGroup_aside (s : State) (g : Nat) (f : Group → Group) : (s.updGroup g f).aside = s.aside := rfl
@[simp] theorem State.updGroup_stations (s : State) (g : Nat) (f : Group → Group) : (s.updGroup g f).stations = s.stations := rfl
@[simp] theorem State.updGroup_walks (s : State) (g : Nat) (f : Group → Group) : (s.updGroup g f).walks = s.walks := rfl
@[simp] theorem State.updGroup_answers (s : State) (g : Nat) (f : Group → Group) : (s.updGroup g f).answers = s.answers := rfl
@[simp] theorem State.updGroup_owned (s : State) (g : Nat) (f : Group → Group) : (s.updGroup g f).owned = s.owned := rfl
@[simp] theorem State.updGroup_moves (s : State) (g : Nat) (f : Group → Group) : (s.updGroup g f).moves = s.moves := rfl
@[simp] theorem State.updGroup_nextMove (s : State) (g : Nat) (f : Group → Group) : (s.updGroup g f).nextMove = s.nextMove := rfl
@[simp] theorem State.updGroup_porters (s : State) (g : Nat) (f : Group → Group) : (s.updGroup g f).porters = s.porters := rfl
@[simp] theorem State.updGroup_routes (s : State) (g : Nat) (f : Group → Group) : (s.updGroup g f).routes = s.routes := rfl
@[simp] theorem State.updGroup_outFlits (s : State) (g : Nat) (f : Group → Group) : (s.updGroup g f).outFlits = s.outFlits := rfl
@[simp] theorem State.updGroup_links (s : State) (g : Nat) (f : Group → Group) : (s.updGroup g f).links = s.links := rfl
@[simp] theorem State.updGroup_peerLines (s : State) (g : Nat) (f : Group → Group) : (s.updGroup g f).peerLines = s.peerLines := rfl
@[simp] theorem State.updGroup_linkDown (s : State) (g : Nat) (f : Group → Group) : (s.updGroup g f).linkDown = s.linkDown := rfl
@[simp] theorem State.updGroup_bar2 (s : State) (g : Nat) (f : Group → Group) : (s.updGroup g f).bar2 = s.bar2 := rfl
@[simp] theorem State.updGroup_hostReads (s : State) (g : Nat) (f : Group → Group) : (s.updGroup g f).hostReads = s.hostReads := rfl
@[simp] theorem State.updGroup_epWrites (s : State) (g : Nat) (f : Group → Group) : (s.updGroup g f).epWrites = s.epWrites := rfl
@[simp] theorem State.updGroup_internalErr (s : State) (g : Nat) (f : Group → Group) : (s.updGroup g f).internalErr = s.internalErr := rfl
@[simp] theorem State.updFn_mem (s : State) (n : Nat) (g : Fn → Fn) : (s.updFn n g).mem = s.mem := rfl
@[simp] theorem State.updFn_cores (s : State) (n : Nat) (g : Fn → Fn) : (s.updFn n g).cores = s.cores := rfl
@[simp] theorem State.updFn_launches (s : State) (n : Nat) (g : Fn → Fn) : (s.updFn n g).launches = s.launches := rfl
@[simp] theorem State.updFn_clock (s : State) (n : Nat) (g : Fn → Fn) : (s.updFn n g).clock = s.clock := rfl
@[simp] theorem State.updFn_tick (s : State) (n : Nat) (g : Fn → Fn) : (s.updFn n g).tick = s.tick := rfl
@[simp] theorem State.updFn_agenda (s : State) (n : Nat) (g : Fn → Fn) : (s.updFn n g).agenda = s.agenda := rfl
@[simp] theorem State.updFn_pending (s : State) (n : Nat) (g : Fn → Fn) : (s.updFn n g).pending = s.pending := rfl
@[simp] theorem State.updFn_inputs (s : State) (n : Nat) (g : Fn → Fn) : (s.updFn n g).inputs = s.inputs := rfl
@[simp] theorem State.updFn_wires (s : State) (n : Nat) (g : Fn → Fn) : (s.updFn n g).wires = s.wires := rfl
@[simp] theorem State.updFn_cur (s : State) (n : Nat) (g : Fn → Fn) : (s.updFn n g).cur = s.cur := rfl
@[simp] theorem State.updFn_power (s : State) (n : Nat) (g : Fn → Fn) : (s.updFn n g).power = s.power := rfl
@[simp] theorem State.updFn_ready (s : State) (n : Nat) (g : Fn → Fn) : (s.updFn n g).ready = s.ready := rfl
@[simp] theorem State.updFn_fail (s : State) (n : Nat) (g : Fn → Fn) : (s.updFn n g).fail = s.fail := rfl
@[simp] theorem State.updFn_failcode (s : State) (n : Nat) (g : Fn → Fn) : (s.updFn n g).failcode = s.failcode := rfl
@[simp] theorem State.updFn_fwver (s : State) (n : Nat) (g : Fn → Fn) : (s.updFn n g).fwver = s.fwver := rfl
@[simp] theorem State.updFn_cfgver (s : State) (n : Nat) (g : Fn → Fn) : (s.updFn n g).cfgver = s.cfgver := rfl
@[simp] theorem State.updFn_rollback (s : State) (n : Nat) (g : Fn → Fn) : (s.updFn n g).rollback = s.rollback := rfl
@[simp] theorem State.updFn_outerr (s : State) (n : Nat) (g : Fn → Fn) : (s.updFn n g).outerr = s.outerr := rfl
@[simp] theorem State.updFn_stkN (s : State) (n : Nat) (g : Fn → Fn) : (s.updFn n g).stkN = s.stkN := rfl
@[simp] theorem State.updFn_stkBusy (s : State) (n : Nat) (g : Fn → Fn) : (s.updFn n g).stkBusy = s.stkBusy := rfl
@[simp] theorem State.updFn_modnum (s : State) (n : Nat) (g : Fn → Fn) : (s.updFn n g).modnum = s.modnum := rfl
@[simp] theorem State.updFn_allowance (s : State) (n : Nat) (g : Fn → Fn) : (s.updFn n g).allowance = s.allowance := rfl
@[simp] theorem State.updFn_thermal (s : State) (n : Nat) (g : Fn → Fn) : (s.updFn n g).thermal = s.thermal := rfl
@[simp] theorem State.updFn_mgmt (s : State) (n : Nat) (g : Fn → Fn) : (s.updFn n g).mgmt = s.mgmt := rfl
@[simp] theorem State.updFn_evqCount (s : State) (n : Nat) (g : Fn → Fn) : (s.updFn n g).evqCount = s.evqCount := rfl
@[simp] theorem State.updFn_msix (s : State) (n : Nat) (g : Fn → Fn) : (s.updFn n g).msix = s.msix := rfl
@[simp] theorem State.updFn_pba (s : State) (n : Nat) (g : Fn → Fn) : (s.updFn n g).pba = s.pba := rfl
@[simp] theorem State.updFn_queues (s : State) (n : Nat) (g : Fn → Fn) : (s.updFn n g).queues = s.queues := rfl
@[simp] theorem State.updFn_cmds (s : State) (n : Nat) (g : Fn → Fn) : (s.updFn n g).cmds = s.cmds := rfl
@[simp] theorem State.updFn_nextUid (s : State) (n : Nat) (g : Fn → Fn) : (s.updFn n g).nextUid = s.nextUid := rfl
@[simp] theorem State.updFn_served (s : State) (n : Nat) (g : Fn → Fn) : (s.updFn n g).served = s.served := rfl
@[simp] theorem State.updFn_held (s : State) (n : Nat) (g : Fn → Fn) : (s.updFn n g).held = s.held := rfl
@[simp] theorem State.updFn_tokens (s : State) (n : Nat) (g : Fn → Fn) : (s.updFn n g).tokens = s.tokens := rfl
@[simp] theorem State.updFn_slots (s : State) (n : Nat) (g : Fn → Fn) : (s.updFn n g).slots = s.slots := rfl
@[simp] theorem State.updFn_buffers (s : State) (n : Nat) (g : Fn → Fn) : (s.updFn n g).buffers = s.buffers := rfl
@[simp] theorem State.updFn_graphs (s : State) (n : Nat) (g : Fn → Fn) : (s.updFn n g).graphs = s.graphs := rfl
@[simp] theorem State.updFn_sequence (s : State) (n : Nat) (g : Fn → Fn) : (s.updFn n g).sequence = s.sequence := rfl
@[simp] theorem State.updFn_nextLaunch (s : State) (n : Nat) (g : Fn → Fn) : (s.updFn n g).nextLaunch = s.nextLaunch := rfl
@[simp] theorem State.updFn_hidden (s : State) (n : Nat) (g : Fn → Fn) : (s.updFn n g).hidden = s.hidden := rfl
@[simp] theorem State.updFn_coreFreeze (s : State) (n : Nat) (g : Fn → Fn) : (s.updFn n g).coreFreeze = s.coreFreeze := rfl
@[simp] theorem State.updFn_clusterQ (s : State) (n : Nat) (g : Fn → Fn) : (s.updFn n g).clusterQ = s.clusterQ := rfl
@[simp] theorem State.updFn_stratumQ (s : State) (n : Nat) (g : Fn → Fn) : (s.updFn n g).stratumQ = s.stratumQ := rfl
@[simp] theorem State.updFn_aside (s : State) (n : Nat) (g : Fn → Fn) : (s.updFn n g).aside = s.aside := rfl
@[simp] theorem State.updFn_stations (s : State) (n : Nat) (g : Fn → Fn) : (s.updFn n g).stations = s.stations := rfl
@[simp] theorem State.updFn_walks (s : State) (n : Nat) (g : Fn → Fn) : (s.updFn n g).walks = s.walks := rfl
@[simp] theorem State.updFn_answers (s : State) (n : Nat) (g : Fn → Fn) : (s.updFn n g).answers = s.answers := rfl
@[simp] theorem State.updFn_owned (s : State) (n : Nat) (g : Fn → Fn) : (s.updFn n g).owned = s.owned := rfl
@[simp] theorem State.updFn_moves (s : State) (n : Nat) (g : Fn → Fn) : (s.updFn n g).moves = s.moves := rfl
@[simp] theorem State.updFn_nextMove (s : State) (n : Nat) (g : Fn → Fn) : (s.updFn n g).nextMove = s.nextMove := rfl
@[simp] theorem State.updFn_porters (s : State) (n : Nat) (g : Fn → Fn) : (s.updFn n g).porters = s.porters := rfl
@[simp] theorem State.updFn_routes (s : State) (n : Nat) (g : Fn → Fn) : (s.updFn n g).routes = s.routes := rfl
@[simp] theorem State.updFn_groups (s : State) (n : Nat) (g : Fn → Fn) : (s.updFn n g).groups = s.groups := rfl
@[simp] theorem State.updFn_outFlits (s : State) (n : Nat) (g : Fn → Fn) : (s.updFn n g).outFlits = s.outFlits := rfl
@[simp] theorem State.updFn_links (s : State) (n : Nat) (g : Fn → Fn) : (s.updFn n g).links = s.links := rfl
@[simp] theorem State.updFn_peerLines (s : State) (n : Nat) (g : Fn → Fn) : (s.updFn n g).peerLines = s.peerLines := rfl
@[simp] theorem State.updFn_linkDown (s : State) (n : Nat) (g : Fn → Fn) : (s.updFn n g).linkDown = s.linkDown := rfl
@[simp] theorem State.updFn_bar2 (s : State) (n : Nat) (g : Fn → Fn) : (s.updFn n g).bar2 = s.bar2 := rfl
@[simp] theorem State.updFn_hostReads (s : State) (n : Nat) (g : Fn → Fn) : (s.updFn n g).hostReads = s.hostReads := rfl
@[simp] theorem State.updFn_epWrites (s : State) (n : Nat) (g : Fn → Fn) : (s.updFn n g).epWrites = s.epWrites := rfl
@[simp] theorem State.updFn_internalErr (s : State) (n : Nat) (g : Fn → Fn) : (s.updFn n g).internalErr = s.internalErr := rfl
@[simp] theorem State.updQueue_mem (s : State) (q : Nat) (f : Queue → Queue) : (s.updQueue q f).mem = s.mem := rfl
@[simp] theorem State.updQueue_cores (s : State) (q : Nat) (f : Queue → Queue) : (s.updQueue q f).cores = s.cores := rfl
@[simp] theorem State.updQueue_launches (s : State) (q : Nat) (f : Queue → Queue) : (s.updQueue q f).launches = s.launches := rfl
@[simp] theorem State.updQueue_clock (s : State) (q : Nat) (f : Queue → Queue) : (s.updQueue q f).clock = s.clock := rfl
@[simp] theorem State.updQueue_tick (s : State) (q : Nat) (f : Queue → Queue) : (s.updQueue q f).tick = s.tick := rfl
@[simp] theorem State.updQueue_agenda (s : State) (q : Nat) (f : Queue → Queue) : (s.updQueue q f).agenda = s.agenda := rfl
@[simp] theorem State.updQueue_pending (s : State) (q : Nat) (f : Queue → Queue) : (s.updQueue q f).pending = s.pending := rfl
@[simp] theorem State.updQueue_inputs (s : State) (q : Nat) (f : Queue → Queue) : (s.updQueue q f).inputs = s.inputs := rfl
@[simp] theorem State.updQueue_wires (s : State) (q : Nat) (f : Queue → Queue) : (s.updQueue q f).wires = s.wires := rfl
@[simp] theorem State.updQueue_cur (s : State) (q : Nat) (f : Queue → Queue) : (s.updQueue q f).cur = s.cur := rfl
@[simp] theorem State.updQueue_power (s : State) (q : Nat) (f : Queue → Queue) : (s.updQueue q f).power = s.power := rfl
@[simp] theorem State.updQueue_ready (s : State) (q : Nat) (f : Queue → Queue) : (s.updQueue q f).ready = s.ready := rfl
@[simp] theorem State.updQueue_fail (s : State) (q : Nat) (f : Queue → Queue) : (s.updQueue q f).fail = s.fail := rfl
@[simp] theorem State.updQueue_failcode (s : State) (q : Nat) (f : Queue → Queue) : (s.updQueue q f).failcode = s.failcode := rfl
@[simp] theorem State.updQueue_fwver (s : State) (q : Nat) (f : Queue → Queue) : (s.updQueue q f).fwver = s.fwver := rfl
@[simp] theorem State.updQueue_cfgver (s : State) (q : Nat) (f : Queue → Queue) : (s.updQueue q f).cfgver = s.cfgver := rfl
@[simp] theorem State.updQueue_rollback (s : State) (q : Nat) (f : Queue → Queue) : (s.updQueue q f).rollback = s.rollback := rfl
@[simp] theorem State.updQueue_outerr (s : State) (q : Nat) (f : Queue → Queue) : (s.updQueue q f).outerr = s.outerr := rfl
@[simp] theorem State.updQueue_stkN (s : State) (q : Nat) (f : Queue → Queue) : (s.updQueue q f).stkN = s.stkN := rfl
@[simp] theorem State.updQueue_stkBusy (s : State) (q : Nat) (f : Queue → Queue) : (s.updQueue q f).stkBusy = s.stkBusy := rfl
@[simp] theorem State.updQueue_modnum (s : State) (q : Nat) (f : Queue → Queue) : (s.updQueue q f).modnum = s.modnum := rfl
@[simp] theorem State.updQueue_allowance (s : State) (q : Nat) (f : Queue → Queue) : (s.updQueue q f).allowance = s.allowance := rfl
@[simp] theorem State.updQueue_thermal (s : State) (q : Nat) (f : Queue → Queue) : (s.updQueue q f).thermal = s.thermal := rfl
@[simp] theorem State.updQueue_mgmt (s : State) (q : Nat) (f : Queue → Queue) : (s.updQueue q f).mgmt = s.mgmt := rfl
@[simp] theorem State.updQueue_evqCount (s : State) (q : Nat) (f : Queue → Queue) : (s.updQueue q f).evqCount = s.evqCount := rfl
@[simp] theorem State.updQueue_fns (s : State) (q : Nat) (f : Queue → Queue) : (s.updQueue q f).fns = s.fns := rfl
@[simp] theorem State.updQueue_msix (s : State) (q : Nat) (f : Queue → Queue) : (s.updQueue q f).msix = s.msix := rfl
@[simp] theorem State.updQueue_pba (s : State) (q : Nat) (f : Queue → Queue) : (s.updQueue q f).pba = s.pba := rfl
@[simp] theorem State.updQueue_cmds (s : State) (q : Nat) (f : Queue → Queue) : (s.updQueue q f).cmds = s.cmds := rfl
@[simp] theorem State.updQueue_nextUid (s : State) (q : Nat) (f : Queue → Queue) : (s.updQueue q f).nextUid = s.nextUid := rfl
@[simp] theorem State.updQueue_served (s : State) (q : Nat) (f : Queue → Queue) : (s.updQueue q f).served = s.served := rfl
@[simp] theorem State.updQueue_held (s : State) (q : Nat) (f : Queue → Queue) : (s.updQueue q f).held = s.held := rfl
@[simp] theorem State.updQueue_tokens (s : State) (q : Nat) (f : Queue → Queue) : (s.updQueue q f).tokens = s.tokens := rfl
@[simp] theorem State.updQueue_slots (s : State) (q : Nat) (f : Queue → Queue) : (s.updQueue q f).slots = s.slots := rfl
@[simp] theorem State.updQueue_buffers (s : State) (q : Nat) (f : Queue → Queue) : (s.updQueue q f).buffers = s.buffers := rfl
@[simp] theorem State.updQueue_graphs (s : State) (q : Nat) (f : Queue → Queue) : (s.updQueue q f).graphs = s.graphs := rfl
@[simp] theorem State.updQueue_sequence (s : State) (q : Nat) (f : Queue → Queue) : (s.updQueue q f).sequence = s.sequence := rfl
@[simp] theorem State.updQueue_nextLaunch (s : State) (q : Nat) (f : Queue → Queue) : (s.updQueue q f).nextLaunch = s.nextLaunch := rfl
@[simp] theorem State.updQueue_hidden (s : State) (q : Nat) (f : Queue → Queue) : (s.updQueue q f).hidden = s.hidden := rfl
@[simp] theorem State.updQueue_coreFreeze (s : State) (q : Nat) (f : Queue → Queue) : (s.updQueue q f).coreFreeze = s.coreFreeze := rfl
@[simp] theorem State.updQueue_clusterQ (s : State) (q : Nat) (f : Queue → Queue) : (s.updQueue q f).clusterQ = s.clusterQ := rfl
@[simp] theorem State.updQueue_stratumQ (s : State) (q : Nat) (f : Queue → Queue) : (s.updQueue q f).stratumQ = s.stratumQ := rfl
@[simp] theorem State.updQueue_aside (s : State) (q : Nat) (f : Queue → Queue) : (s.updQueue q f).aside = s.aside := rfl
@[simp] theorem State.updQueue_stations (s : State) (q : Nat) (f : Queue → Queue) : (s.updQueue q f).stations = s.stations := rfl
@[simp] theorem State.updQueue_walks (s : State) (q : Nat) (f : Queue → Queue) : (s.updQueue q f).walks = s.walks := rfl
@[simp] theorem State.updQueue_answers (s : State) (q : Nat) (f : Queue → Queue) : (s.updQueue q f).answers = s.answers := rfl
@[simp] theorem State.updQueue_owned (s : State) (q : Nat) (f : Queue → Queue) : (s.updQueue q f).owned = s.owned := rfl
@[simp] theorem State.updQueue_moves (s : State) (q : Nat) (f : Queue → Queue) : (s.updQueue q f).moves = s.moves := rfl
@[simp] theorem State.updQueue_nextMove (s : State) (q : Nat) (f : Queue → Queue) : (s.updQueue q f).nextMove = s.nextMove := rfl
@[simp] theorem State.updQueue_porters (s : State) (q : Nat) (f : Queue → Queue) : (s.updQueue q f).porters = s.porters := rfl
@[simp] theorem State.updQueue_routes (s : State) (q : Nat) (f : Queue → Queue) : (s.updQueue q f).routes = s.routes := rfl
@[simp] theorem State.updQueue_groups (s : State) (q : Nat) (f : Queue → Queue) : (s.updQueue q f).groups = s.groups := rfl
@[simp] theorem State.updQueue_outFlits (s : State) (q : Nat) (f : Queue → Queue) : (s.updQueue q f).outFlits = s.outFlits := rfl
@[simp] theorem State.updQueue_links (s : State) (q : Nat) (f : Queue → Queue) : (s.updQueue q f).links = s.links := rfl
@[simp] theorem State.updQueue_peerLines (s : State) (q : Nat) (f : Queue → Queue) : (s.updQueue q f).peerLines = s.peerLines := rfl
@[simp] theorem State.updQueue_linkDown (s : State) (q : Nat) (f : Queue → Queue) : (s.updQueue q f).linkDown = s.linkDown := rfl
@[simp] theorem State.updQueue_bar2 (s : State) (q : Nat) (f : Queue → Queue) : (s.updQueue q f).bar2 = s.bar2 := rfl
@[simp] theorem State.updQueue_hostReads (s : State) (q : Nat) (f : Queue → Queue) : (s.updQueue q f).hostReads = s.hostReads := rfl
@[simp] theorem State.updQueue_epWrites (s : State) (q : Nat) (f : Queue → Queue) : (s.updQueue q f).epWrites = s.epWrites := rfl
@[simp] theorem State.updQueue_internalErr (s : State) (q : Nat) (f : Queue → Queue) : (s.updQueue q f).internalErr = s.internalErr := rfl
@[simp] theorem State.putHostCmd_mem (s : State) (k : HostCmd) : (s.putHostCmd k).mem = s.mem := rfl
@[simp] theorem State.putHostCmd_cores (s : State) (k : HostCmd) : (s.putHostCmd k).cores = s.cores := rfl
@[simp] theorem State.putHostCmd_launches (s : State) (k : HostCmd) : (s.putHostCmd k).launches = s.launches := rfl
@[simp] theorem State.putHostCmd_clock (s : State) (k : HostCmd) : (s.putHostCmd k).clock = s.clock := rfl
@[simp] theorem State.putHostCmd_tick (s : State) (k : HostCmd) : (s.putHostCmd k).tick = s.tick := rfl
@[simp] theorem State.putHostCmd_agenda (s : State) (k : HostCmd) : (s.putHostCmd k).agenda = s.agenda := rfl
@[simp] theorem State.putHostCmd_pending (s : State) (k : HostCmd) : (s.putHostCmd k).pending = s.pending := rfl
@[simp] theorem State.putHostCmd_inputs (s : State) (k : HostCmd) : (s.putHostCmd k).inputs = s.inputs := rfl
@[simp] theorem State.putHostCmd_wires (s : State) (k : HostCmd) : (s.putHostCmd k).wires = s.wires := rfl
@[simp] theorem State.putHostCmd_cur (s : State) (k : HostCmd) : (s.putHostCmd k).cur = s.cur := rfl
@[simp] theorem State.putHostCmd_power (s : State) (k : HostCmd) : (s.putHostCmd k).power = s.power := rfl
@[simp] theorem State.putHostCmd_ready (s : State) (k : HostCmd) : (s.putHostCmd k).ready = s.ready := rfl
@[simp] theorem State.putHostCmd_fail (s : State) (k : HostCmd) : (s.putHostCmd k).fail = s.fail := rfl
@[simp] theorem State.putHostCmd_failcode (s : State) (k : HostCmd) : (s.putHostCmd k).failcode = s.failcode := rfl
@[simp] theorem State.putHostCmd_fwver (s : State) (k : HostCmd) : (s.putHostCmd k).fwver = s.fwver := rfl
@[simp] theorem State.putHostCmd_cfgver (s : State) (k : HostCmd) : (s.putHostCmd k).cfgver = s.cfgver := rfl
@[simp] theorem State.putHostCmd_rollback (s : State) (k : HostCmd) : (s.putHostCmd k).rollback = s.rollback := rfl
@[simp] theorem State.putHostCmd_outerr (s : State) (k : HostCmd) : (s.putHostCmd k).outerr = s.outerr := rfl
@[simp] theorem State.putHostCmd_stkN (s : State) (k : HostCmd) : (s.putHostCmd k).stkN = s.stkN := rfl
@[simp] theorem State.putHostCmd_stkBusy (s : State) (k : HostCmd) : (s.putHostCmd k).stkBusy = s.stkBusy := rfl
@[simp] theorem State.putHostCmd_modnum (s : State) (k : HostCmd) : (s.putHostCmd k).modnum = s.modnum := rfl
@[simp] theorem State.putHostCmd_allowance (s : State) (k : HostCmd) : (s.putHostCmd k).allowance = s.allowance := rfl
@[simp] theorem State.putHostCmd_thermal (s : State) (k : HostCmd) : (s.putHostCmd k).thermal = s.thermal := rfl
@[simp] theorem State.putHostCmd_mgmt (s : State) (k : HostCmd) : (s.putHostCmd k).mgmt = s.mgmt := rfl
@[simp] theorem State.putHostCmd_evqCount (s : State) (k : HostCmd) : (s.putHostCmd k).evqCount = s.evqCount := rfl
@[simp] theorem State.putHostCmd_fns (s : State) (k : HostCmd) : (s.putHostCmd k).fns = s.fns := rfl
@[simp] theorem State.putHostCmd_msix (s : State) (k : HostCmd) : (s.putHostCmd k).msix = s.msix := rfl
@[simp] theorem State.putHostCmd_pba (s : State) (k : HostCmd) : (s.putHostCmd k).pba = s.pba := rfl
@[simp] theorem State.putHostCmd_queues (s : State) (k : HostCmd) : (s.putHostCmd k).queues = s.queues := rfl
@[simp] theorem State.putHostCmd_nextUid (s : State) (k : HostCmd) : (s.putHostCmd k).nextUid = s.nextUid := rfl
@[simp] theorem State.putHostCmd_served (s : State) (k : HostCmd) : (s.putHostCmd k).served = s.served := rfl
@[simp] theorem State.putHostCmd_held (s : State) (k : HostCmd) : (s.putHostCmd k).held = s.held := rfl
@[simp] theorem State.putHostCmd_tokens (s : State) (k : HostCmd) : (s.putHostCmd k).tokens = s.tokens := rfl
@[simp] theorem State.putHostCmd_slots (s : State) (k : HostCmd) : (s.putHostCmd k).slots = s.slots := rfl
@[simp] theorem State.putHostCmd_buffers (s : State) (k : HostCmd) : (s.putHostCmd k).buffers = s.buffers := rfl
@[simp] theorem State.putHostCmd_graphs (s : State) (k : HostCmd) : (s.putHostCmd k).graphs = s.graphs := rfl
@[simp] theorem State.putHostCmd_sequence (s : State) (k : HostCmd) : (s.putHostCmd k).sequence = s.sequence := rfl
@[simp] theorem State.putHostCmd_nextLaunch (s : State) (k : HostCmd) : (s.putHostCmd k).nextLaunch = s.nextLaunch := rfl
@[simp] theorem State.putHostCmd_hidden (s : State) (k : HostCmd) : (s.putHostCmd k).hidden = s.hidden := rfl
@[simp] theorem State.putHostCmd_coreFreeze (s : State) (k : HostCmd) : (s.putHostCmd k).coreFreeze = s.coreFreeze := rfl
@[simp] theorem State.putHostCmd_clusterQ (s : State) (k : HostCmd) : (s.putHostCmd k).clusterQ = s.clusterQ := rfl
@[simp] theorem State.putHostCmd_stratumQ (s : State) (k : HostCmd) : (s.putHostCmd k).stratumQ = s.stratumQ := rfl
@[simp] theorem State.putHostCmd_aside (s : State) (k : HostCmd) : (s.putHostCmd k).aside = s.aside := rfl
@[simp] theorem State.putHostCmd_stations (s : State) (k : HostCmd) : (s.putHostCmd k).stations = s.stations := rfl
@[simp] theorem State.putHostCmd_walks (s : State) (k : HostCmd) : (s.putHostCmd k).walks = s.walks := rfl
@[simp] theorem State.putHostCmd_answers (s : State) (k : HostCmd) : (s.putHostCmd k).answers = s.answers := rfl
@[simp] theorem State.putHostCmd_owned (s : State) (k : HostCmd) : (s.putHostCmd k).owned = s.owned := rfl
@[simp] theorem State.putHostCmd_moves (s : State) (k : HostCmd) : (s.putHostCmd k).moves = s.moves := rfl
@[simp] theorem State.putHostCmd_nextMove (s : State) (k : HostCmd) : (s.putHostCmd k).nextMove = s.nextMove := rfl
@[simp] theorem State.putHostCmd_porters (s : State) (k : HostCmd) : (s.putHostCmd k).porters = s.porters := rfl
@[simp] theorem State.putHostCmd_routes (s : State) (k : HostCmd) : (s.putHostCmd k).routes = s.routes := rfl
@[simp] theorem State.putHostCmd_groups (s : State) (k : HostCmd) : (s.putHostCmd k).groups = s.groups := rfl
@[simp] theorem State.putHostCmd_outFlits (s : State) (k : HostCmd) : (s.putHostCmd k).outFlits = s.outFlits := rfl
@[simp] theorem State.putHostCmd_links (s : State) (k : HostCmd) : (s.putHostCmd k).links = s.links := rfl
@[simp] theorem State.putHostCmd_peerLines (s : State) (k : HostCmd) : (s.putHostCmd k).peerLines = s.peerLines := rfl
@[simp] theorem State.putHostCmd_linkDown (s : State) (k : HostCmd) : (s.putHostCmd k).linkDown = s.linkDown := rfl
@[simp] theorem State.putHostCmd_bar2 (s : State) (k : HostCmd) : (s.putHostCmd k).bar2 = s.bar2 := rfl
@[simp] theorem State.putHostCmd_hostReads (s : State) (k : HostCmd) : (s.putHostCmd k).hostReads = s.hostReads := rfl
@[simp] theorem State.putHostCmd_epWrites (s : State) (k : HostCmd) : (s.putHostCmd k).epWrites = s.epWrites := rfl
@[simp] theorem State.putHostCmd_internalErr (s : State) (k : HostCmd) : (s.putHostCmd k).internalErr = s.internalErr := rfl
@[simp] theorem State.core_postEach (s : State) (i : Instr) (a : EvArg) (j : Nat) : (s.postEach i a).core j = s.core j := by simp [State.core]
@[simp] theorem State.core_dropOne (s : State) (i : Instr) (a : EvArg) (j : Nat) : (s.dropOne i a).core j = s.core j := by simp [State.core]
@[simp] theorem State.core_unpost (s : State) (i : Instr) (a : EvArg) (j : Nat) : (s.unpost i a).core j = s.core j := by simp [State.core]
@[simp] theorem State.core_post (s : State) (i : Instr) (a : EvArg) (j : Nat) : (s.post i a).core j = s.core j := by simp [State.core]
@[simp] theorem State.core_push (s : State) (l : List Item) (j : Nat) : (s.push l).core j = s.core j := rfl
@[simp] theorem State.core_wire (s : State) (t : Nat) (i : Instr) (a : EvArg) (j : Nat) : (s.wire t i a).core j = s.core j := rfl
@[simp] theorem State.core_setLaunch (s : State) (l : Launch) (j : Nat) : (s.setLaunch l).core j = s.core j := rfl

/-! ### A fold of updates -/
/-- What every step of a fold keeps, the fold keeps. -/
theorem foldl_keeps {σ α β : Type} (g : σ → α → σ) (p : σ → β) (h : ∀ s x, p (g s x) = p s) (l : List α) (s : σ) : p (l.foldl g s) = p s := by
  induction l generalizing s with
  | nil => rfl
  | cons x xs ih => simp [List.foldl, ih, h]
theorem foldl_inv {σ α : Type} (g : σ → α → σ) (p : σ → Prop) (h : ∀ s x, p s → p (g s x)) (l : List α) (s : σ) (hs : p s) : p (l.foldl g s) := by
  induction l generalizing s with
  | nil => exact hs
  | cons x xs ih => exact ih _ (h _ _ hs)

end Sys2Proof.Machine
end

