-- ==== Sys2Proof/Laws/Memory.lean ====
section
/-! SUPPORT. The bytes of memory: every memory operation keeps the canonical form, a write is read back, and every other byte stays. -/
namespace Sys2Proof.Machine

/-! ### Sparse data -/

variable {α : Type} [DecidableEq α]

theorem swfFrom_weaken (d : α) (l : List (Nat × α)) (a b : Option Nat) (hab : ∀ x, a = some x → ∃ y, b = some y ∧ x ≤ y) (h : swfFrom d b l = true) :
    swfFrom d a l = true := by
  cases l with
  | nil => rfl
  | cons e rest =>
    obtain ⟨k, v⟩ := e
    simp only [swfFrom, Bool.and_eq_true] at h ⊢
    refine ⟨⟨?_, h.1.2⟩, h.2⟩
    cases a with
    | none => rfl
    | some x =>
      obtain ⟨y, hy, hxy⟩ := hab x rfl
      subst hy
      have := h.1.1
      simp at this ⊢
      omega
theorem swfFrom_none (d : α) (l : List (Nat × α)) (a : Option Nat) (h : swfFrom d a l = true) : swfFrom d none l = true :=
  swfFrom_weaken d l none a (by simp) h

/-- A key below every listed one reads as the default. -/
theorem sget_below (d : α) (l : List (Nat × α)) (lo a : Nat) (h : swfFrom d (some lo) l = true) (ha : a ≤ lo) : sget d l a = d := by
  cases l with
  | nil => rfl
  | cons e rest =>
    obtain ⟨k, v⟩ := e
    simp only [swfFrom, Bool.and_eq_true, decide_eq_true_eq] at h
    have hk := h.1.1
    simp only [sget]
    rw [if_neg (by omega), if_pos (by omega)]

/-- Writing keeps the canonical form. -/
theorem swfFrom_sput (d : α) (l : List (Nat × α)) (lo : Option Nat) (a : Nat) (x : α) (hlo : ∀ y, lo = some y → y < a) (h : swfFrom d lo l = true) :
    swfFrom d lo (sput d l a x) = true := by
  induction l generalizing lo with
  | nil =>
    simp only [sput]
    split
    · rfl
    · cases lo with
      | none => simp [swfFrom, *]
      | some y => simp [swfFrom, hlo y rfl, *]
  | cons e rest ih =>
    obtain ⟨k, v⟩ := e
    have h0 := h
    simp only [swfFrom, Bool.and_eq_true] at h
    simp only [sput]
    split
    · split
      · exact h0
      · rename_i h1 h2
        simp only [swfFrom, Bool.and_eq_true]
        refine ⟨⟨?_, by simpa using h2⟩, ⟨⟨by simpa using h1, h.1.2⟩, h.2⟩⟩
        cases lo with
        | none => rfl
        | some y => simpa using hlo y rfl
    · split
      · split
        · refine swfFrom_weaken d rest lo (some k) ?_ h.2
          intro y hy; subst hy
          exact ⟨k, rfl, by have := h.1.1; simp at this; omega⟩
        · rename_i h1 h2 h3
          simp only [swfFrom, Bool.and_eq_true]
          subst h2
          exact ⟨⟨h.1.1, by simpa using h3⟩, h.2⟩
      · rename_i h1 h2
        simp only [swfFrom, Bool.and_eq_true]
        refine ⟨h.1, ih (some k) ?_ h.2⟩
        intro y hy; cases hy; omega
theorem swf_sput (d : α) (l : List (Nat × α)) (a : Nat) (x : α) (h : swf d l = true) : swf d (sput d l a x) = true :=
  swfFrom_sput d l none a x (by simp) h

/-- A key reads what was written. -/
theorem sget_sput_self (d : α) (l : List (Nat × α)) (a : Nat) (x : α) (lo : Option Nat) (h : swfFrom d lo l = true) : sget d (sput d l a x) a = x := by
  induction l generalizing lo with
  | nil => simp only [sput]; split <;> simp [sget, *]
  | cons e rest ih =>
    obtain ⟨k, v⟩ := e
    have h0 := h
    simp only [swfFrom, Bool.and_eq_true] at h
    simp only [sput]
    split
    · rename_i h1
      split
      · rename_i h2
        simp only [sget, h2]
        rw [if_neg (by omega), if_pos h1]
      · simp [sget]
    · split
      · rename_i h1 h2
        split
        · rename_i h3
          subst h2
          rw [h3]
          exact sget_below d rest a a h.2 (Nat.le_refl _)
        · simp [sget]
      · rename_i h1 h2
        simp only [sget]
        rw [if_neg h2, if_neg h1]
        exact ih (some k) h.2
/-- Every other key reads as before. -/
theorem sget_sput_other (d : α) (l : List (Nat × α)) (a b : Nat) (x : α) (lo : Option Nat) (h : swfFrom d lo l = true) (hab : b ≠ a) :
    sget d (sput d l a x) b = sget d l b := by
  induction l generalizing lo with
  | nil => simp only [sput]; split <;> simp [sget, hab]
  | cons e rest ih =>
    obtain ⟨k, v⟩ := e
    simp only [swfFrom, Bool.and_eq_true] at h
    simp only [sput]
    split
    · rename_i h1
      split
      · rfl
      · simp only [sget, if_neg hab]
        split
        · rw [if_neg (by omega), if_pos (by omega)]
        · rfl
    · split
      · rename_i h1 h2
        split
        · subst h2
          simp only [sget, if_neg hab]
          split
          · exact sget_below d rest a b h.2 (by omega)
          · rfl
        · subst h2
          simp [sget, hab]
      · simp only [sget]
        rw [ih (some k) h.2]

/-- Dropping entries keeps the canonical form. -/
theorem swfFrom_filter (d : α) (p : Nat × α → Bool) (l : List (Nat × α)) (lo : Option Nat) (h : swfFrom d lo l = true) : swfFrom d lo (l.filter p) = true := by
  induction l generalizing lo with
  | nil => rfl
  | cons e rest ih =>
    obtain ⟨k, v⟩ := e
    have h0 := h
    simp only [swfFrom, Bool.and_eq_true] at h
    simp only [List.filter]
    split
    · simp only [swfFrom, Bool.and_eq_true]
      exact ⟨h.1, ih (some k) h.2⟩
    · refine swfFrom_weaken d _ lo (some k) ?_ (ih (some k) h.2)
      intro y hy; subst hy
      exact ⟨k, rfl, by have := h.1.1; simp at this; omega⟩
theorem swf_filter (d : α) (p : Nat × α → Bool) (l : List (Nat × α)) (h : swf d l = true) : swf d (l.filter p) = true := swfFrom_filter d p l none h

end Sys2Proof.Machine

namespace Sys2Proof.Machine

/-! ### Memory -/

theorem Memory.wf_setBits (m : Memory) (a : Nat) (b k : Byte) (h : m.wf = true) : (m.setBits a b k).wf = true := swf_sput _ _ _ _ h
theorem Memory.wf_setAll (bs : List PutByte) (m : Memory) (h : m.wf = true) : (m.setAll bs).wf = true := by
  induction bs generalizing m with
  | nil => exact h
  | cons e rest ih =>
    obtain ⟨a, b, k⟩ := e
    exact ih _ (m.wf_setBits a b k h)
theorem Memory.wf_put (m : Memory) (bs : List PutByte) (h : m.wf = true) : (m.put bs).wf = true := Memory.wf_setAll bs m h
theorem Memory.wf_write (m : Memory) (a n x : Nat) (h : m.wf = true) : (m.write a n x).wf = true := m.wf_put _ h
theorem Memory.wf_putLine (m : Memory) (line : Nat) (bs : List Byte) (cv : Nat) (h : m.wf = true) : (m.putLine line bs cv).wf = true := m.wf_put _ h
theorem Memory.wf_scrub (m : Memory) (a n : Nat) (h : m.wf = true) : (m.scrub a n).wf = true := h
theorem Memory.wf_scrubs (l : List (Nat × Nat)) (m : Memory) (h : m.wf = true) : (l.foldl (fun (m : Memory) r => m.scrub r.1 r.2) m).wf = true :=
  foldl_inv (fun (m : Memory) (r : Nat × Nat) => m.scrub r.1 r.2) (fun m => Memory.wf m = true) (fun m r hm => m.wf_scrub r.1 r.2 hm) l m h
theorem Memory.wf_zero (m : Memory) (lo hi : Nat) (h : m.wf = true) : (m.zero lo hi).wf = true := swf_filter _ _ _ h
theorem Memory.wf_inject (m : Memory) (e : BitErr) (h : m.wf = true) : (m.inject e).wf = true := by
  cases e with
  | single a b => simp only [Memory.inject]; split; exact h; split <;> exact h
  | double a => exact h
  | silent a b => exact m.wf_setBits _ _ _ h
theorem Memory.wf_empty : Memory.empty.wf = true := by decide
/-- Correcting reads change no byte. -/
@[simp] theorem Memory.byte_scrub (m : Memory) (a n b : Nat) : (m.scrub a n).byte b = m.byte b := rfl
theorem Memory.byte_scrubs (l : List (Nat × Nat)) (m : Memory) (b : Nat) : (l.foldl (fun (m : Memory) r => m.scrub r.1 r.2) m).byte b = m.byte b :=
  foldl_keeps (fun (m : Memory) (r : Nat × Nat) => m.scrub r.1 r.2) (fun m => Memory.byte m b) (fun _ _ => rfl) l m

/-- The byte a masked write leaves. -/
theorem Memory.byte_setBits_self (m : Memory) (a : Nat) (b k : Byte) (h : m.wf = true) :
    (m.setBits a b k).byte a = ((m.byte a &&& ~~~k) ||| (b &&& k)) := sget_sput_self _ _ _ _ none h
theorem Memory.byte_setBits_other (m : Memory) (a c : Nat) (b k : Byte) (h : m.wf = true) (hc : c ≠ a) : (m.setBits a b k).byte c = m.byte c :=
  sget_sput_other _ _ _ _ _ none h hc
/-- A write leaves every byte it does not name. -/
theorem Memory.byte_setAll_other (bs : List PutByte) (m : Memory) (c : Nat) (h : m.wf = true) (hc : ∀ p ∈ bs, p.1 ≠ c) : (m.setAll bs).byte c = m.byte c := by
  induction bs generalizing m with
  | nil => rfl
  | cons e rest ih =>
    obtain ⟨a, b, k⟩ := e
    rw [Memory.setAll, ih _ (m.wf_setBits a b k h) (fun p hp => hc p (List.mem_cons_of_mem _ hp))]
    exact m.byte_setBits_other a c b k h (fun e => hc (a, b, k) List.mem_cons_self e.symm)
theorem Memory.byte_put_other (m : Memory) (bs : List PutByte) (c : Nat) (h : m.wf = true) (hc : ∀ p ∈ bs, p.1 ≠ c) : (m.put bs).byte c = m.byte c :=
  Memory.byte_setAll_other bs m c h hc
/-- Whole bytes are read back. -/
theorem Memory.byte_setAll_putBytes (bs : List Byte) (m : Memory) (a i : Nat) (h : m.wf = true) (hi : i < bs.length) :
    (m.setAll (putBytes a bs)).byte (a + i) = bs[i] := by
  induction bs generalizing m a i with
  | nil => simp at hi
  | cons b rest ih =>
    rw [putBytes, Memory.setAll]
    cases i with
    | zero =>
      rw [Memory.byte_setAll_other]
      · have e : b &&& 255#8 = b := BitVec.and_allOnes
        simp [Memory.byte_setBits_self _ _ _ _ h, e]
      · exact m.wf_setBits _ _ _ h
      · intro p hp
        have : ∀ (l : List Byte) (a0 : Nat), p ∈ putBytes a0 l → a0 ≤ p.1 := by
          intro l
          induction l with
          | nil => intro a0 hp; simp [putBytes] at hp
          | cons c l ihl =>
            intro a0 hp
            simp only [putBytes, List.mem_cons] at hp
            rcases hp with rfl | hp
            · exact Nat.le_refl _
            · have := ihl (a0 + 1) hp; omega
        have := this rest (a + 1) hp
        omega
    | succ i =>
      have := ih (m.setBits a b 255) (a + 1) i (m.wf_setBits _ _ _ h) (by simpa using hi)
      simpa [Nat.add_assoc, Nat.add_comm 1 i] using this
theorem Memory.byte_put_putBytes (m : Memory) (bs : List Byte) (a i : Nat) (h : m.wf = true) (hi : i < bs.length) :
    (m.put (putBytes a bs)).byte (a + i) = bs[i] := Memory.byte_setAll_putBytes bs m a i h hi

/-! ### Writes of device memory by software: fields of a group record that only the fabric unit writes stay -/

theorem Memory.wf_putDev (m : Memory) (bs : List PutByte) (h : m.wf = true) : (m.putDev bs).wf = true := m.wf_put _ h
theorem Memory.wf_writeDev (m : Memory) (a n x : Nat) (h : m.wf = true) : (m.writeDev a n x).wf = true := m.wf_put _ h
theorem Memory.wf_putLineDev (m : Memory) (line : Nat) (bs : List Byte) (cv : Nat) (h : m.wf = true) : (m.putLineDev line bs cv).wf = true := by
  unfold Memory.putLineDev
  split
  · exact m.wf_putDev _ h
  · exact m.wf_putLine _ _ _ h
theorem Memory.wf_scrubRead (m : Memory) (l : TLeaf) (pa n : Nat) (h : m.wf = true) : (m.scrubRead l pa n).wf = true := h
theorem Memory.wf_putAccs (id : Nat) (l : List (Nat × Nat)) (m : Memory) (h : m.wf = true) : (m.putAccs id l).wf = true := by
  induction l generalizing m with
  | nil => exact h
  | cons e rest ih => exact ih _ (m.wf_write _ _ _ h)

/-- Where no byte is such a field, the write is a plain one. -/
theorem Memory.putDev_eq (m : Memory) (bs : List PutByte) (h : ∀ p ∈ bs, roByte p.1 = false) : m.putDev bs = m.put bs := by
  have : bs.map shutByte = bs := by
    rw [List.map_congr_left (g := id) fun p hp => by simp [shutByte, h p hp]]
    simp
  simp [Memory.putDev, this]
/-- Every byte that is not listed stays. -/
theorem Memory.byte_putDev_other (m : Memory) (bs : List PutByte) (c : Nat) (h : m.wf = true) (hc : ∀ p ∈ bs, p.1 ≠ c) : (m.putDev bs).byte c = m.byte c := by
  refine m.byte_put_other _ c h ?_
  simp only [List.mem_map, forall_exists_index, and_imp, forall_apply_eq_imp_iff₂]
  intro p hp
  unfold shutByte
  split <;> exact hc p hp
/-- A byte of such a field keeps its value, whatever is written to it. -/
theorem Memory.byte_setBits_zero (m : Memory) (a : Nat) (b : Byte) (h : m.wf = true) : (m.setBits a b 0).byte a = m.byte a := by
  rw [m.byte_setBits_self a b 0 h]
  have h0 : ~~~(0 : Byte) = BitVec.allOnes 8 := by decide
  rw [h0, BitVec.and_allOnes]
  simp
theorem Memory.byte_setAll_shut (bs : List PutByte) (m : Memory) (c : Nat) (h : m.wf = true) (hc : roByte c = true) :
    (m.setAll (bs.map shutByte)).byte c = m.byte c := by
  induction bs generalizing m with
  | nil => rfl
  | cons p rest ih =>
    simp only [List.map_cons, Memory.setAll]
    rw [ih _ (m.wf_setBits _ _ _ h)]
    by_cases hp : p.1 = c
    · subst hp
      simpa [shutByte, hc] using m.byte_setBits_zero p.1 p.2.1 h
    · refine m.byte_setBits_other _ _ _ _ h ?_
      unfold shutByte
      split <;> exact fun e => hp e.symm
theorem Memory.byte_putDev_shut (m : Memory) (bs : List PutByte) (c : Nat) (h : m.wf = true) (hc : roByte c = true) : (m.putDev bs).byte c = m.byte c :=
  Memory.byte_setAll_shut bs m c h hc

/-! ### Context images -/

theorem Memory.wf_blit (m : Memory) (a : Nat) (bs : List Byte) (h : m.wf = true) : (m.blit a bs).wf = true := by
  refine foldl_inv _ (fun m => Memory.wf m = true) ?_ _ _ (m.wf_zero _ _ h)
  intro m e hm
  split
  · exact hm
  · exact swf_sput _ _ _ _ hm
theorem Memory.wf_copyRegion (m : Memory) (src dst n : Nat) (h : m.wf = true) : (m.copyRegion src dst n).wf = true :=
  foldl_inv _ (fun l => swf unwritten l = true) (fun _ _ hl => swf_sput _ _ _ _ hl) _ _ (m.wf_zero _ _ h)
theorem Memory.wf_hostPart (m : Memory) (h : m.wf = true) : m.hostPart.wf = true := m.wf_zero _ _ h

end Sys2Proof.Machine
end

