-- ==== Sys2Proof/Laws/Ops.lean ====
section
/-! SUPPORT. What each shared operation does, said once: operands, a primary operation at its issue, a tinker operation at its issue, landing. -/
namespace Sys2Proof.Machine

/-! ### Operands without captures or bound ports -/

/-- No stream port of a core is bound. -/
def Core.unbound (c : Core) : Prop := ∀ p : Port, c.ports[p] = none

theorem Core.binding_unbound (c : Core) (h : c.unbound) (r : VReg) : c.binding r = none := by
  unfold Core.binding
  split
  · rfl
  · simp [h _]
theorem Core.vv_unbound (c : Core) (h : c.unbound) (r : VReg) : c.vv (.v r) = c.v[r] := by
  simp [Core.vv, c.binding_unbound h]
theorem Core.portsRead_unbound (c : Core) (h : c.unbound) (srcs : List (Nat × Src)) : c.portsRead srcs = [] := by
  unfold Core.portsRead
  simp only [List.filterMap_eq_nil_iff]
  intro x _
  split
  · simp [c.binding_unbound h]
  · rfl

@[simp] theorem View.s_live (st : State) (id : Nat) (c : Core) (k : Slot) (pos : Nat) (x : SSrc) : (View.mk st id c k none).s pos x = c.ss x := by
  simp [View.s, View.val, Core.srcValue]
@[simp] theorem View.vs_live (st : State) (id : Nat) (c : Core) (k : Slot) (pos : Nat) (x : VSSrc) : (View.mk st id c k none).vs pos x = c.ss (vsToS x) := by
  simp [View.vs]
@[simp] theorem View.v_live (st : State) (id : Nat) (c : Core) (k : Slot) (pos : Nat) (x : VSrc) : (View.mk st id c k none).v pos x = c.vv x := by
  simp [View.v, View.val, Core.srcValue]
@[simp] theorem View.m_live (st : State) (id : Nat) (c : Core) (k : Slot) (pos : Nat) (r : MReg) : (View.mk st id c k none).m pos r = c.m[r] := by
  simp [View.m, View.val, Core.srcValue]
@[simp] theorem View.w_live (st : State) (id : Nat) (c : Core) (k : Slot) (pos : Nat) (r : WReg) : (View.mk st id c k none).w pos r = c.w[r] := by
  simp [View.w, View.val, Core.srcValue]
@[simp] theorem View.p_live (st : State) (id : Nat) (c : Core) (k : Slot) (pos : Nat) (r : Pred) : (View.mk st id c k none).p pos r = c.pr r := by
  simp only [View.p, View.val, Core.srcValue]
  cases c.pr r <;> rfl
@[simp] theorem View.d_live (st : State) (id : Nat) (c : Core) (k : Slot) (pos : Nat) (r : DReg) : (View.mk st id c k none).d pos r = (c.d[r], (c.n[r]).toNat) := by
  have h : (c.n[r]).toNat < 65536 := (c.n[r]).isLt
  simp only [View.d, View.val, Core.srcValue, BitVec.ofNat_toNat, BitVec.setWidth_eq]
  rw [Nat.mod_eq_of_lt h]

/-! ### A primary operation -/

/-- What a slot sees of the state in which its bundle issues, with no captured operands. -/
abbrev viewOf (s : State) (id : Nat) (k : Slot) : View := ⟨s, id, s.core id, k, none⟩

/-- A bundle that issues does what the plan of its slot says, always. -/
theorem primOp_issue (srcs : List (Nat × Src)) (body : View → Plan) (s : State) (id : Nat) (k : Slot) (h : s.cur = .slot id k true) (hc : (s.core id).resumeCaps = []) :
    primOp srcs body s =
      .next ((body (viewOf s id k)).updS
        ({ s with mem := (body (viewOf s id k)).scrub.foldl (fun (m : Memory) (r : Nat × Nat) => m.scrub r.1 r.2) s.mem }.setCore id
          ((s.core id).issue k none srcs (body (viewOf s id k))))) := by
  simp [primOp, h, hc, viewOf]
/-- A bundle that is considered leaves a record of what was found, and nothing else of the machine changes. -/
theorem primOp_look (srcs : List (Nat × Src)) (body : View → Plan) (s : State) (id : Nat) (k : Slot) (h : s.cur = .slot id k false) (hc : (s.core id).resumeCaps = []) :
    primOp srcs body s = .next (s.setCore id ((s.core id).look k none srcs (body (viewOf s id k)))) := by
  simp [primOp, h, hc, viewOf]
/-- A primary operation answers a next state in any slot. -/
theorem primOp_goes (srcs : List (Nat × Src)) (body : View → Plan) (s : State) (id : Nat) (k : Slot) (b : Bool) (h : s.cur = .slot id k b) :
    ∃ t, primOp srcs body s = .next t := by
  cases b <;> simp [primOp, h]

/-- The flights of a plan when no port is bound. -/
def Land.flight (l : Land) (c : Core) (k : Slot) : Flight :=
  { dest := l.dest, value := l.val, mask := l.mask, due := c.ic + l.lat, issued := c.ic, slot := k, latch := l.latch && !c.sp.handler, flags := l.flags,
    pend := l.pend, addr := if l.pend = 0 then 0 else l.addr, push := false }
theorem Core.flightsOf_unbound (c : Core) (h : c.unbound) (k : Slot) (srcs : List (Nat × Src)) (p : Plan) :
    c.flightsOf k srcs p = p.lands.map fun l => l.flight c k := by
  unfold Core.flightsOf
  apply List.map_congr_left
  intro l _
  simp only [Core.popFault, c.portsRead_unbound h, List.filterMap_nil, firstFault, List.find?_nil, Option.getD_none, Land.flight]
  congr 1
  · split <;> simp_all
  · split
    · simp [c.binding_unbound h]
    · rfl
theorem Core.markPops_unbound (c : Core) (h : c.unbound) (srcs : List (Nat × Src)) : c.markPops srcs none = c := by
  simp [Core.markPops, c.portsRead_unbound h]
theorem Core.popFault_unbound (c : Core) (h : c.unbound) (srcs : List (Nat × Src)) : c.popFault srcs = (0, 0) := by
  simp [Core.popFault, c.portsRead_unbound h, firstFault]
@[simp] theorem Plan.unfed_none (p : Plan) : p.unfed (0, 0) = p := by simp [Plan.unfed]
/-- Issue when no port is bound. -/
theorem Core.issue_unbound (c : Core) (h : c.unbound) (k : Slot) (srcs : List (Nat × Src)) (p : Plan) (ht : p.take = none)
    (hu : ∀ x : Core, (p.upd x).ports = x.ports) : c.issue k none srcs p = p.upd
      { c with demand := c.demand ++ p.demand.map (fun d => (c.ic + d.1, d.2.1, d.2.2)), msgPath := c.msgPath ++ p.msgPath.map (c.ic + ·),
               flights := c.flights ++ p.lands.map (fun l => l.flight c k), acts := c.acts ++ p.acts.map (fun a => (c.ic + a.1, c.ic, a.2)),
               writes := c.writes ++ p.writes.map (fun w => (c.ic + w.1, w.2)), gens := p.gens.getD c.gens } := by
  unfold Core.issue
  simp only [Option.isSome_none, Bool.false_eq_true, if_false, c.popFault_unbound h, Plan.unfed_none, ht]
  have h1 : c.portDemand srcs = [] := by simp [Core.portDemand, c.portsRead_unbound h]
  rw [h1, c.flightsOf_unbound h]
  have h3 : ∀ x : Core, x.ports = c.ports → (p.upd x).unbound := fun x hx q => by rw [hu, hx]; exact h q
  rw [Core.markPops_unbound]
  · simp
  · exact h3 _ rfl

/-- What a slot that issues does when no port is bound: the plan, said whole. -/
theorem primOp_unbound (srcs : List (Nat × Src)) (body : View → Plan) (s : State) (id : Nat) (k : Slot) (h : s.cur = .slot id k true)
    (hc : (s.core id).resumeCaps = []) (hu : (s.core id).unbound) (ht : (body (viewOf s id k)).take = none)
    (hp : ∀ x, ((body (viewOf s id k)).upd x).ports = x.ports) :
    primOp srcs body s = .next (let p := body (viewOf s id k)
      let c := s.core id
      p.updS ({ s with mem := p.scrub.foldl (fun (m : Memory) (r : Nat × Nat) => m.scrub r.1 r.2) s.mem }.setCore id (p.upd
        { c with demand := c.demand ++ p.demand.map (fun (d : Nat × Bool × Nat) => (c.ic + d.1, d.2.1, d.2.2)),
                 msgPath := c.msgPath ++ p.msgPath.map (c.ic + ·), flights := c.flights ++ p.lands.map (fun (l : Land) => l.flight c k),
                 acts := c.acts ++ p.acts.map (fun (a : Nat × Act) => (c.ic + a.1, c.ic, a.2)),
                 writes := c.writes ++ p.writes.map (fun (w : Nat × WOp) => (c.ic + w.1, w.2)), gens := p.gens.getD c.gens }))) := by
  rw [primOp_issue _ _ s id k h hc, Core.issue_unbound _ hu _ _ _ ht hp]

end Sys2Proof.Machine
end

