-- ==== Sys2Proof/Laws/Dispatch.lean ====
section
/-! SUPPORT. The dispatch: one lemma an arm, saying which meaning it calls. -/
namespace Sys2Proof.Machine

@[simp] theorem exec_add (s : State) : ∀ d b c, exec (.add d b c) s = execAdd d b c s := fun _ _ _ => rfl
@[simp] theorem exec_sub (s : State) : ∀ d b x, exec (.sub d b x) s = execSub d b x s := fun _ _ _ => rfl
@[simp] theorem exec_addi (s : State) : ∀ d b imm, exec (.addi d b imm) s = execAddi d b imm s := fun _ _ _ => rfl
@[simp] theorem exec_mul (s : State) : ∀ d b x, exec (.mul d b x) s = execMul d b x s := fun _ _ _ => rfl
@[simp] theorem exec_mulh (s : State) : ∀ d b x, exec (.mulh d b x) s = execMulh d b x s := fun _ _ _ => rfl
@[simp] theorem exec_mulhW (s : State) : ∀ d b x, exec (.mulhW d b x) s = execMulhW d b x s := fun _ _ _ => rfl
@[simp] theorem exec_div (s : State) : ∀ d b x, exec (.div d b x) s = execDiv d b x s := fun _ _ _ => rfl
@[simp] theorem exec_divW (s : State) : ∀ d b x, exec (.divW d b x) s = execDivW d b x s := fun _ _ _ => rfl
@[simp] theorem exec_rem (s : State) : ∀ d b x, exec (.rem d b x) s = execRem d b x s := fun _ _ _ => rfl
@[simp] theorem exec_remW (s : State) : ∀ d b x, exec (.remW d b x) s = execRemW d b x s := fun _ _ _ => rfl
@[simp] theorem exec_and (s : State) : ∀ d b x, exec (.and d b x) s = execAnd d b x s := fun _ _ _ => rfl
@[simp] theorem exec_or (s : State) : ∀ d b x, exec (.or d b x) s = execOr d b x s := fun _ _ _ => rfl
@[simp] theorem exec_xor (s : State) : ∀ d b x, exec (.xor d b x) s = execXor d b x s := fun _ _ _ => rfl
@[simp] theorem exec_andn (s : State) : ∀ d b x, exec (.andn d b x) s = execAndn d b x s := fun _ _ _ => rfl
@[simp] theorem exec_shl (s : State) : ∀ d b x, exec (.shl d b x) s = execShl d b x s := fun _ _ _ => rfl
@[simp] theorem exec_shr (s : State) : ∀ d b x, exec (.shr d b x) s = execShr d b x s := fun _ _ _ => rfl
@[simp] theorem exec_sar (s : State) : ∀ d b x, exec (.sar d b x) s = execSar d b x s := fun _ _ _ => rfl
@[simp] theorem exec_rot (s : State) : ∀ d b x, exec (.rot d b x) s = execRot d b x s := fun _ _ _ => rfl
@[simp] theorem exec_clz (s : State) : ∀ d b, exec (.clz d b) s = execClz d b s := fun _ _ => rfl
@[simp] theorem exec_popc (s : State) : ∀ d b, exec (.popc d b) s = execPopc d b s := fun _ _ => rfl
@[simp] theorem exec_min (s : State) : ∀ d b x, exec (.min d b x) s = execMin d b x s := fun _ _ _ => rfl
@[simp] theorem exec_minW (s : State) : ∀ d b x, exec (.minW d b x) s = execMinW d b x s := fun _ _ _ => rfl
@[simp] theorem exec_max (s : State) : ∀ d b x, exec (.max d b x) s = execMax d b x s := fun _ _ _ => rfl
@[simp] theorem exec_maxW (s : State) : ∀ d b x, exec (.maxW d b x) s = execMaxW d b x s := fun _ _ _ => rfl
@[simp] theorem exec_sel (s : State) : ∀ d b c k, exec (.sel d b c k) s = execSel d b c k s := fun _ _ _ _ => rfl
@[simp] theorem exec_li (s : State) : ∀ d imm, exec (.li d imm) s = execLi d imm s := fun _ _ => rfl
@[simp] theorem exec_adda (s : State) : ∀ d b x, exec (.adda d b x) s = execAdda d b x s := fun _ _ _ => rfl
@[simp] theorem exec_bfx (s : State) : ∀ d b f, exec (.bfx d b f) s = execBfx d b f s := fun _ _ _ => rfl
@[simp] theorem exec_bfi (s : State) : ∀ d b f, exec (.bfi d b f) s = execBfi d b f s := fun _ _ _ => rfl
@[simp] theorem exec_cmp (s : State) : ∀ cc d b x, exec (.cmp cc d b x) s = execCmp cc d b x s := fun _ _ _ _ => rfl
@[simp] theorem exec_pand (s : State) : ∀ d b c, exec (.pand d b c) s = execPand d b c s := fun _ _ _ => rfl
@[simp] theorem exec_por (s : State) : ∀ d b c, exec (.por d b c) s = execPor d b c s := fun _ _ _ => rfl
@[simp] theorem exec_pxor (s : State) : ∀ d b c, exec (.pxor d b c) s = execPxor d b c s := fun _ _ _ => rfl
@[simp] theorem exec_pnot (s : State) : ∀ d b, exec (.pnot d b) s = execPnot d b s := fun _ _ => rfl
@[simp] theorem exec_sfadd (s : State) : ∀ d b c rnd, exec (.sfadd d b c rnd) s = execSfadd d b c rnd s := fun _ _ _ _ => rfl
@[simp] theorem exec_sfmul (s : State) : ∀ d b c rnd, exec (.sfmul d b c rnd) s = execSfmul d b c rnd s := fun _ _ _ _ => rfl
@[simp] theorem exec_sffma (s : State) : ∀ d b c rnd, exec (.sffma d b c rnd) s = execSffma d b c rnd s := fun _ _ _ _ => rfl
@[simp] theorem exec_sfmin (s : State) : ∀ d b c, exec (.sfmin d b c) s = execSfmin d b c s := fun _ _ _ => rfl
@[simp] theorem exec_sfmax (s : State) : ∀ d b c, exec (.sfmax d b c) s = execSfmax d b c s := fun _ _ _ => rfl
@[simp] theorem exec_sfcvt (s : State) : ∀ d b f, exec (.sfcvt d b f) s = execSfcvt d b f s := fun _ _ _ => rfl
@[simp] theorem exec_sfcmp (s : State) : ∀ cc d b c, exec (.sfcmp cc d b c) s = execSfcmp cc d b c s := fun _ _ _ _ => rfl
@[simp] theorem exec_lds (s : State) : ∀ t d b x, exec (.lds t d b x) s = execLds t d b x s := fun _ _ _ _ => rfl
@[simp] theorem exec_sts (s : State) : ∀ n a b x, exec (.sts n a b x) s = execSts n a b x s := fun _ _ _ _ => rfl
@[simp] theorem exec_stsN4 (s : State) : ∀ a b imm, exec (.stsN4 a b imm) s = execStsN4 a b imm s := fun _ _ _ => rfl
@[simp] theorem exec_br (s : State) : ∀ t, exec (.br t) s = execBr t s := fun _ => rfl
@[simp] theorem exec_brc (s : State) : ∀ a imm, exec (.brc a imm) s = execBrc a imm s := fun _ _ => rfl
@[simp] theorem exec_call (s : State) : ∀ t, exec (.call t) s = execCall t s := fun _ => rfl
@[simp] theorem exec_loop (s : State) : ∀ a imm, exec (.loop a imm) s = execLoop a imm s := fun _ _ => rfl
@[simp] theorem exec_waita (s : State) : ∀ a b, exec (.waita a b) s = execWaita a b s := fun _ _ => rfl
@[simp] theorem exec_flagacq (s : State) : ∀ a sc, exec (.flagacq a sc) s = execFlagacq a sc s := fun _ _ => rfl
@[simp] theorem exec_flagrel (s : State) : ∀ a sc, exec (.flagrel a sc) s = execFlagrel a sc s := fun _ _ => rfl
@[simp] theorem exec_fence (s : State) : ∀ sc, exec (.fence sc) s = execFence sc s := fun _ => rfl
@[simp] theorem exec_movs (s : State) : ∀ d sp, exec (.movs d sp) s = execMovs d sp s := fun _ _ => rfl
@[simp] theorem exec_movts (s : State) : ∀ sp b, exec (.movts sp b) s = execMovts sp b s := fun _ _ => rfl
@[simp] theorem exec_trap (s : State) : ∀ n, exec (.trap n) s = execTrap n s := fun _ => rfl
@[simp] theorem exec_tcreate (s : State) : ∀ a b c, exec (.tcreate a b c) s = execTcreate a b c s := fun _ _ _ => rfl
@[simp] theorem exec_tkill (s : State) : ∀ a, exec (.tkill a) s = execTkill a s := fun _ => rfl
@[simp] theorem exec_ttclr (s : State) : ∀ k, exec (.ttclr k) s = execTtclr k s := fun _ => rfl
@[simp] theorem exec_ttnode (s : State) : ∀ k b c, exec (.ttnode k b c) s = execTtnode k b c s := fun _ _ _ => rfl
@[simp] theorem exec_ttldp (s : State) : ∀ k b x, exec (.ttldp k b x) s = execTtldp k b x s := fun _ _ _ => rfl
@[simp] theorem exec_ttmask (s : State) : ∀ k c x, exec (.ttmask k c x) s = execTtmask k c x s := fun _ _ _ => rfl
@[simp] theorem exec_ttpos (s : State) : ∀ k b c, exec (.ttpos k b c) s = execTtpos k b c s := fun _ _ _ => rfl
@[simp] theorem exec_ttpath (s : State) : ∀ k b c, exec (.ttpath k b c) s = execTtpath k b c s := fun _ _ _ => rfl
@[simp] theorem exec_ttprune (s : State) : ∀ k b c, exec (.ttprune k b c) s = execTtprune k b c s := fun _ _ _ => rfl
@[simp] theorem exec_ttinfo (s : State) : ∀ d k c, exec (.ttinfo d k c) s = execTtinfo d k c s := fun _ _ _ => rfl
@[simp] theorem exec_vadd (s : State) : ∀ t d b c xv, exec (.vadd t d b c xv) s = execVadd t d b c xv s := fun _ _ _ _ _ => rfl
@[simp] theorem exec_vsub (s : State) : ∀ t d b c xv, exec (.vsub t d b c xv) s = execVsub t d b c xv s := fun _ _ _ _ _ => rfl
@[simp] theorem exec_vmul (s : State) : ∀ t d b c xv, exec (.vmul t d b c xv) s = execVmul t d b c xv s := fun _ _ _ _ _ => rfl
@[simp] theorem exec_vmulh (s : State) : ∀ t d b c xv, exec (.vmulh t d b c xv) s = execVmulh t d b c xv s := fun _ _ _ _ _ => rfl
@[simp] theorem exec_vmin (s : State) : ∀ t d b c xv, exec (.vmin t d b c xv) s = execVmin t d b c xv s := fun _ _ _ _ _ => rfl
@[simp] theorem exec_vmax (s : State) : ∀ t d b c xv, exec (.vmax t d b c xv) s = execVmax t d b c xv s := fun _ _ _ _ _ => rfl
@[simp] theorem exec_vand (s : State) : ∀ t d b c xv, exec (.vand t d b c xv) s = execVand t d b c xv s := fun _ _ _ _ _ => rfl
@[simp] theorem exec_vor (s : State) : ∀ t d b c xv, exec (.vor t d b c xv) s = execVor t d b c xv s := fun _ _ _ _ _ => rfl
@[simp] theorem exec_vxor (s : State) : ∀ t d b c xv, exec (.vxor t d b c xv) s = execVxor t d b c xv s := fun _ _ _ _ _ => rfl
@[simp] theorem exec_vshl (s : State) : ∀ t d b x, exec (.vshl t d b x) s = execVshl t d b x s := fun _ _ _ _ => rfl
@[simp] theorem exec_vshr (s : State) : ∀ t d b x, exec (.vshr t d b x) s = execVshr t d b x s := fun _ _ _ _ => rfl
@[simp] theorem exec_vsar (s : State) : ∀ t d b x, exec (.vsar t d b x) s = execVsar t d b x s := fun _ _ _ _ => rfl
@[simp] theorem exec_vabs (s : State) : ∀ t d b xv, exec (.vabs t d b xv) s = execVabs t d b xv s := fun _ _ _ _ => rfl
@[simp] theorem exec_vcmp (s : State) : ∀ t d b c xv, exec (.vcmp t d b c xv) s = execVcmp t d b c xv s := fun _ _ _ _ _ => rfl
@[simp] theorem exec_vsel (s : State) : ∀ t d b c k, exec (.vsel t d b c k) s = execVsel t d b c k s := fun _ _ _ _ _ => rfl
@[simp] theorem exec_vfadd (s : State) : ∀ t d b c xv, exec (.vfadd t d b c xv) s = execVfadd t d b c xv s := fun _ _ _ _ _ => rfl
@[simp] theorem exec_vfsub (s : State) : ∀ t d b c xv, exec (.vfsub t d b c xv) s = execVfsub t d b c xv s := fun _ _ _ _ _ => rfl
@[simp] theorem exec_vfmul (s : State) : ∀ t d b c xv, exec (.vfmul t d b c xv) s = execVfmul t d b c xv s := fun _ _ _ _ _ => rfl
@[simp] theorem exec_vffma (s : State) : ∀ t d b c xv, exec (.vffma t d b c xv) s = execVffma t d b c xv s := fun _ _ _ _ _ => rfl
@[simp] theorem exec_vfmin (s : State) : ∀ t d b c xv, exec (.vfmin t d b c xv) s = execVfmin t d b c xv s := fun _ _ _ _ _ => rfl
@[simp] theorem exec_vfmax (s : State) : ∀ t d b c xv, exec (.vfmax t d b c xv) s = execVfmax t d b c xv s := fun _ _ _ _ _ => rfl
@[simp] theorem exec_vfrcp (s : State) : ∀ t d b xv, exec (.vfrcp t d b xv) s = execVfrcp t d b xv s := fun _ _ _ _ => rfl
@[simp] theorem exec_vfrsq (s : State) : ∀ t d b xv, exec (.vfrsq t d b xv) s = execVfrsq t d b xv s := fun _ _ _ _ => rfl
@[simp] theorem exec_vfexp2 (s : State) : ∀ t d b xv, exec (.vfexp2 t d b xv) s = execVfexp2 t d b xv s := fun _ _ _ _ => rfl
@[simp] theorem exec_vflog2 (s : State) : ∀ t d b xv, exec (.vflog2 t d b xv) s = execVflog2 t d b xv s := fun _ _ _ _ => rfl
@[simp] theorem exec_vfcmp (s : State) : ∀ t d b c xv, exec (.vfcmp t d b c xv) s = execVfcmp t d b c xv s := fun _ _ _ _ _ => rfl
@[simp] theorem exec_vcvt (s : State) : ∀ d b xv, exec (.vcvt d b xv) s = execVcvt d b xv s := fun _ _ _ => rfl
@[simp] theorem exec_vmxexp (s : State) : ∀ a xv, exec (.vmxexp a xv) s = execVmxexp a xv s := fun _ _ => rfl
@[simp] theorem exec_vquant (s : State) : ∀ d b xv, exec (.vquant d b xv) s = execVquant d b xv s := fun _ _ _ => rfl
@[simp] theorem exec_vdeq (s : State) : ∀ d b xv, exec (.vdeq d b xv) s = execVdeq d b xv s := fun _ _ _ => rfl
@[simp] theorem exec_vxpand (s : State) : ∀ d b xv, exec (.vxpand d b xv) s = execVxpand d b xv s := fun _ _ _ => rfl
@[simp] theorem exec_vpbook (s : State) : ∀ a, exec (.vpbook a) s = execVpbook a s := fun _ => rfl
@[simp] theorem exec_vld (s : State) : ∀ d b x, exec (.vld d b x) s = execVld d b x s := fun _ _ _ => rfl
@[simp] theorem exec_vst (s : State) : ∀ a b x, exec (.vst a b x) s = execVst a b x s := fun _ _ _ => rfl
@[simp] theorem exec_vldx (s : State) : ∀ t d b c xv, exec (.vldx t d b c xv) s = execVldx t d b c xv s := fun _ _ _ _ _ => rfl
@[simp] theorem exec_vstx (s : State) : ∀ t a b c xv, exec (.vstx t a b c xv) s = execVstx t a b c xv s := fun _ _ _ _ _ => rfl
@[simp] theorem exec_vstxN4 (s : State) : ∀ a b c xv, exec (.vstxN4 a b c xv) s = execVstxN4 a b c xv s := fun _ _ _ _ => rfl
@[simp] theorem exec_vbcast (s : State) : ∀ t d b xv, exec (.vbcast t d b xv) s = execVbcast t d b xv s := fun _ _ _ _ => rfl
@[simp] theorem exec_vext (s : State) : ∀ t d b x, exec (.vext t d b x) s = execVext t d b x s := fun _ _ _ _ => rfl
@[simp] theorem exec_vins (s : State) : ∀ t d b x, exec (.vins t d b x) s = execVins t d b x s := fun _ _ _ _ => rfl
@[simp] theorem exec_vperm (s : State) : ∀ t d b c xv, exec (.vperm t d b c xv) s = execVperm t d b c xv s := fun _ _ _ _ _ => rfl
@[simp] theorem exec_vshuf (s : State) : ∀ t d b c xv, exec (.vshuf t d b c xv) s = execVshuf t d b c xv s := fun _ _ _ _ _ => rfl
@[simp] theorem exec_vslide (s : State) : ∀ t d b x, exec (.vslide t d b x) s = execVslide t d b x s := fun _ _ _ _ => rfl
@[simp] theorem exec_vpopm (s : State) : ∀ d b, exec (.vpopm d b) s = execVpopm d b s := fun _ _ => rfl
@[simp] theorem exec_vbtest (s : State) : ∀ d b c xv, exec (.vbtest d b c xv) s = execVbtest d b c xv s := fun _ _ _ _ => rfl
@[simp] theorem exec_vbset (s : State) : ∀ d b c xv, exec (.vbset d b c xv) s = execVbset d b c xv s := fun _ _ _ _ => rfl
@[simp] theorem exec_vcmpx (s : State) : ∀ t d b xv, exec (.vcmpx t d b xv) s = execVcmpx t d b xv s := fun _ _ _ _ => rfl
@[simp] theorem exec_vtopk (s : State) : ∀ t d b xv, exec (.vtopk t d b xv) s = execVtopk t d b xv s := fun _ _ _ _ => rfl
@[simp] theorem exec_vred (s : State) : ∀ t d b xv, exec (.vred t d b xv) s = execVred t d b xv s := fun _ _ _ _ => rfl
@[simp] theorem exec_vscan (s : State) : ∀ t d b xv, exec (.vscan t d b xv) s = execVscan t d b xv s := fun _ _ _ _ => rfl
@[simp] theorem exec_vmovaGet (s : State) : ∀ d b xv, exec (.vmovaGet d b xv) s = execVmovaGet d b xv s := fun _ _ _ => rfl
@[simp] theorem exec_vmovaPut (s : State) : ∀ a b xv, exec (.vmovaPut a b xv) s = execVmovaPut a b xv s := fun _ _ _ => rfl
@[simp] theorem exec_vsbind (s : State) : ∀ a b wr, exec (.vsbind a b wr) s = execVsbind a b wr s := fun _ _ _ => rfl
@[simp] theorem exec_vsunbind (s : State) : ∀ a, exec (.vsunbind a) s = execVsunbind a s := fun _ => rfl
@[simp] theorem exec_dfrom (s : State) : ∀ d b xv, exec (.dfrom d b xv) s = execDfrom d b xv s := fun _ _ _ => rfl
@[simp] theorem exec_dto (s : State) : ∀ d b xv, exec (.dto d b xv) s = execDto d b xv s := fun _ _ _ => rfl
@[simp] theorem exec_dld (s : State) : ∀ d b c, exec (.dld d b c) s = execDld d b c s := fun _ _ _ => rfl
@[simp] theorem exec_dst (s : State) : ∀ a b c, exec (.dst a b c) s = execDst a b c s := fun _ _ _ => rfl
@[simp] theorem exec_dadd (s : State) : ∀ d b c xv, exec (.dadd d b c xv) s = execDadd d b c xv s := fun _ _ _ _ => rfl
@[simp] theorem exec_dsub (s : State) : ∀ d b c xv, exec (.dsub d b c xv) s = execDsub d b c xv s := fun _ _ _ _ => rfl
@[simp] theorem exec_dscale (s : State) : ∀ d b x, exec (.dscale d b x) s = execDscale d b x s := fun _ _ _ => rfl
@[simp] theorem exec_dneg (s : State) : ∀ d b, exec (.dneg d b) s = execDneg d b s := fun _ _ => rfl
@[simp] theorem exec_ddot (s : State) : ∀ d b c, exec (.ddot d b c) s = execDdot d b c s := fun _ _ _ => rfl
@[simp] theorem exec_ddotv (s : State) : ∀ d b c, exec (.ddotv d b c) s = execDdotv d b c s := fun _ _ _ => rfl
@[simp] theorem exec_dnorm (s : State) : ∀ d b, exec (.dnorm d b) s = execDnorm d b s := fun _ _ => rfl
@[simp] theorem exec_dsetn (s : State) : ∀ d b, exec (.dsetn d b) s = execDsetn d b s := fun _ _ => rfl
@[simp] theorem exec_dlerp (s : State) : ∀ d b c t, exec (.dlerp d b c t) s = execDlerp d b c t s := fun _ _ _ _ => rfl
@[simp] theorem exec_dcmpz (s : State) : ∀ d b, exec (.dcmpz d b) s = execDcmpz d b s := fun _ _ => rfl
@[simp] theorem exec_mma (s : State) : ∀ a xm, exec (.mma a xm) s = execMma a xm s := fun _ _ => rfl
@[simp] theorem exec_mmas (s : State) : ∀ a xm, exec (.mmas a xm) s = execMmas a xm s := fun _ _ => rfl
@[simp] theorem exec_mclr (s : State) : ∀ a x, exec (.mclr a x) s = execMclr a x s := fun _ _ => rfl
@[simp] theorem exec_mdrain (s : State) : ∀ a b xd, exec (.mdrain a b xd) s = execMdrain a b xd s := fun _ _ _ => rfl
@[simp] theorem exec_mpop (s : State) : ∀ a n, exec (.mpop a n) s = execMpop a n s := fun _ _ => rfl
@[simp] theorem exec_mtrans (s : State) : ∀ a b xt, exec (.mtrans a b xt) s = execMtrans a b xt s := fun _ _ _ => rfl
@[simp] theorem exec_cpy (s : State) : ∀ a b x, exec (.cpy a b x) s = execCpy a b x s := fun _ _ _ => rfl
@[simp] theorem exec_cgath (s : State) : ∀ a b x, exec (.cgath a b x) s = execCgath a b x s := fun _ _ _ => rfl
@[simp] theorem exec_cscat (s : State) : ∀ a b x, exec (.cscat a b x) s = execCscat a b x s := fun _ _ _ => rfl
@[simp] theorem exec_cfill (s : State) : ∀ a b x, exec (.cfill a b x) s = execCfill a b x s := fun _ _ _ => rfl
@[simp] theorem exec_cprom (s : State) : ∀ a b xi, exec (.cprom a b xi) s = execCprom a b xi s := fun _ _ _ => rfl
@[simp] theorem exec_cdemo (s : State) : ∀ a b xi, exec (.cdemo a b xi) s = execCdemo a b xi s := fun _ _ _ => rfl
@[simp] theorem exec_choop (s : State) : ∀ a b, exec (.choop a b) s = execChoop a b s := fun _ _ => rfl
@[simp] theorem exec_cdeal (s : State) : ∀ a b, exec (.cdeal a b) s = execCdeal a b s := fun _ _ => rfl
@[simp] theorem exec_carm (s : State) : ∀ a b x, exec (.carm a b x) s = execCarm a b x s := fun _ _ _ => rfl
@[simp] theorem exec_cstat (s : State) : ∀ d b, exec (.cstat d b) s = execCstat d b s := fun _ _ => rfl
@[simp] theorem exec_ccancel (s : State) : ∀ a, exec (.ccancel a) s = execCcancel a s := fun _ => rfl
@[simp] theorem exec_cfence (s : State) : ∀ sc, exec (.cfence sc) s = execCfence sc s := fun _ => rfl
@[simp] theorem exec_catom (s : State) : ∀ a b c xa, exec (.catom a b c xa) s = execCatom a b c xa s := fun _ _ _ _ => rfl
@[simp] theorem exec_sat (s : State) : ∀ a b c xa, exec (.sat a b c xa) s = execSat a b c xa s := fun _ _ _ _ => rfl
@[simp] theorem exec_kvapp (s : State) : ∀ a b x, exec (.kvapp a b x) s = execKvapp a b x s := fun _ _ _ => rfl
@[simp] theorem exec_kvrel (s : State) : ∀ a b, exec (.kvrel a b) s = execKvrel a b s := fun _ _ => rfl
@[simp] theorem exec_kvpin (s : State) : ∀ a b, exec (.kvpin a b) s = execKvpin a b s := fun _ _ => rfl
@[simp] theorem exec_kvunpin (s : State) : ∀ a b, exec (.kvunpin a b) s = execKvunpin a b s := fun _ _ => rfl
@[simp] theorem exec_gbar (s : State) : ∀ g, exec (.gbar g) s = execGbar g s := fun _ => rfl
@[simp] theorem exec_xchg (s : State) : ∀ d b, exec (.xchg d b) s = execXchg d b s := fun _ _ => rfl
@[simp] theorem exec_xmax (s : State) : ∀ d, exec (.xmax d) s = execXmax d s := fun _ => rfl
@[simp] theorem exec_chsend (s : State) : ∀ a ch, exec (.chsend a ch) s = execChsend a ch s := fun _ _ => rfl
@[simp] theorem exec_chsendTry (s : State) : ∀ d b ch, exec (.chsendTry d b ch) s = execChsendTry d b ch s := fun _ _ _ => rfl
@[simp] theorem exec_chrecv (s : State) : ∀ d ch, exec (.chrecv d ch) s = execChrecv d ch s := fun _ _ => rfl
@[simp] theorem exec_chrecvTry (s : State) : ∀ d b ch, exec (.chrecvTry d b ch) s = execChrecvTry d b ch s := fun _ _ _ => rfl
@[simp] theorem exec_chalt (s : State) : ∀ d b, exec (.chalt d b) s = execChalt d b s := fun _ _ => rfl
@[simp] theorem exec_chaltTry (s : State) : ∀ d b, exec (.chaltTry d b) s = execChaltTry d b s := fun _ _ => rfl
@[simp] theorem exec_chgrant (s : State) : ∀ ch x, exec (.chgrant ch x) s = execChgrant ch x s := fun _ _ => rfl
@[simp] theorem exec_chbind (s : State) : ∀ a ch, exec (.chbind a ch) s = execChbind a ch s := fun _ _ => rfl
@[simp] theorem exec_chseal (s : State) : ∀ ch, exec (.chseal ch) s = execChseal ch s := fun _ => rfl
@[simp] theorem exec_chack (s : State) : ∀ ch b, exec (.chack ch b) s = execChack ch b s := fun _ _ => rfl
@[simp] theorem exec_tAdd (s : State) : ∀ a b c, exec (.tAdd a b c) s = execTAdd a b c s := fun _ _ _ => rfl
@[simp] theorem exec_tSub (s : State) : ∀ a b c, exec (.tSub a b c) s = execTSub a b c s := fun _ _ _ => rfl
@[simp] theorem exec_tSubImm (s : State) : ∀ a b imm, exec (.tSubImm a b imm) s = execTSubImm a b imm s := fun _ _ _ => rfl
@[simp] theorem exec_tAddi (s : State) : ∀ a b imm, exec (.tAddi a b imm) s = execTAddi a b imm s := fun _ _ _ => rfl
@[simp] theorem exec_tMul (s : State) : ∀ la a b c, exec (.tMul la a b c) s = execTMul la a b c s := fun _ _ _ _ => rfl
@[simp] theorem exec_tMulImm (s : State) : ∀ la a b imm, exec (.tMulImm la a b imm) s = execTMulImm la a b imm s := fun _ _ _ _ => rfl
@[simp] theorem exec_tMulh (s : State) : ∀ la a b c, exec (.tMulh la a b c) s = execTMulh la a b c s := fun _ _ _ _ => rfl
@[simp] theorem exec_tMulhImm (s : State) : ∀ la a b imm, exec (.tMulhImm la a b imm) s = execTMulhImm la a b imm s := fun _ _ _ _ => rfl
@[simp] theorem exec_tMulhW (s : State) : ∀ la a b c, exec (.tMulhW la a b c) s = execTMulhW la a b c s := fun _ _ _ _ => rfl
@[simp] theorem exec_tMulhWImm (s : State) : ∀ la a b imm, exec (.tMulhWImm la a b imm) s = execTMulhWImm la a b imm s := fun _ _ _ _ => rfl
@[simp] theorem exec_tDiv (s : State) : ∀ la a b c, exec (.tDiv la a b c) s = execTDiv la a b c s := fun _ _ _ _ => rfl
@[simp] theorem exec_tDivImm (s : State) : ∀ la a b imm, exec (.tDivImm la a b imm) s = execTDivImm la a b imm s := fun _ _ _ _ => rfl
@[simp] theorem exec_tDivW (s : State) : ∀ la a b c, exec (.tDivW la a b c) s = execTDivW la a b c s := fun _ _ _ _ => rfl
@[simp] theorem exec_tDivWImm (s : State) : ∀ la a b imm, exec (.tDivWImm la a b imm) s = execTDivWImm la a b imm s := fun _ _ _ _ => rfl
@[simp] theorem exec_tRem (s : State) : ∀ la a b c, exec (.tRem la a b c) s = execTRem la a b c s := fun _ _ _ _ => rfl
@[simp] theorem exec_tRemImm (s : State) : ∀ la a b imm, exec (.tRemImm la a b imm) s = execTRemImm la a b imm s := fun _ _ _ _ => rfl
@[simp] theorem exec_tRemW (s : State) : ∀ la a b c, exec (.tRemW la a b c) s = execTRemW la a b c s := fun _ _ _ _ => rfl
@[simp] theorem exec_tRemWImm (s : State) : ∀ la a b imm, exec (.tRemWImm la a b imm) s = execTRemWImm la a b imm s := fun _ _ _ _ => rfl
@[simp] theorem exec_tAnd (s : State) : ∀ a b c, exec (.tAnd a b c) s = execTAnd a b c s := fun _ _ _ => rfl
@[simp] theorem exec_tAndImm (s : State) : ∀ a b imm, exec (.tAndImm a b imm) s = execTAndImm a b imm s := fun _ _ _ => rfl
@[simp] theorem exec_tOr (s : State) : ∀ a b c, exec (.tOr a b c) s = execTOr a b c s := fun _ _ _ => rfl
@[simp] theorem exec_tOrImm (s : State) : ∀ a b imm, exec (.tOrImm a b imm) s = execTOrImm a b imm s := fun _ _ _ => rfl
@[simp] theorem exec_tXor (s : State) : ∀ a b c, exec (.tXor a b c) s = execTXor a b c s := fun _ _ _ => rfl
@[simp] theorem exec_tXorImm (s : State) : ∀ a b imm, exec (.tXorImm a b imm) s = execTXorImm a b imm s := fun _ _ _ => rfl
@[simp] theorem exec_tAndn (s : State) : ∀ a b c, exec (.tAndn a b c) s = execTAndn a b c s := fun _ _ _ => rfl
@[simp] theorem exec_tAndnImm (s : State) : ∀ a b imm, exec (.tAndnImm a b imm) s = execTAndnImm a b imm s := fun _ _ _ => rfl
@[simp] theorem exec_tShl (s : State) : ∀ a b c, exec (.tShl a b c) s = execTShl a b c s := fun _ _ _ => rfl
@[simp] theorem exec_tShlImm (s : State) : ∀ a b imm, exec (.tShlImm a b imm) s = execTShlImm a b imm s := fun _ _ _ => rfl
@[simp] theorem exec_tShr (s : State) : ∀ a b c, exec (.tShr a b c) s = execTShr a b c s := fun _ _ _ => rfl
@[simp] theorem exec_tShrImm (s : State) : ∀ a b imm, exec (.tShrImm a b imm) s = execTShrImm a b imm s := fun _ _ _ => rfl
@[simp] theorem exec_tSar (s : State) : ∀ a b c, exec (.tSar a b c) s = execTSar a b c s := fun _ _ _ => rfl
@[simp] theorem exec_tSarImm (s : State) : ∀ a b imm, exec (.tSarImm a b imm) s = execTSarImm a b imm s := fun _ _ _ => rfl
@[simp] theorem exec_tRot (s : State) : ∀ a b c, exec (.tRot a b c) s = execTRot a b c s := fun _ _ _ => rfl
@[simp] theorem exec_tRotImm (s : State) : ∀ a b imm, exec (.tRotImm a b imm) s = execTRotImm a b imm s := fun _ _ _ => rfl
@[simp] theorem exec_tClz (s : State) : ∀ a b, exec (.tClz a b) s = execTClz a b s := fun _ _ => rfl
@[simp] theorem exec_tPopc (s : State) : ∀ a b, exec (.tPopc a b) s = execTPopc a b s := fun _ _ => rfl
@[simp] theorem exec_tMin (s : State) : ∀ a b c, exec (.tMin a b c) s = execTMin a b c s := fun _ _ _ => rfl
@[simp] theorem exec_tMinImm (s : State) : ∀ a b imm, exec (.tMinImm a b imm) s = execTMinImm a b imm s := fun _ _ _ => rfl
@[simp] theorem exec_tMinW (s : State) : ∀ a b c, exec (.tMinW a b c) s = execTMinW a b c s := fun _ _ _ => rfl
@[simp] theorem exec_tMinWImm (s : State) : ∀ a b imm, exec (.tMinWImm a b imm) s = execTMinWImm a b imm s := fun _ _ _ => rfl
@[simp] theorem exec_tMax (s : State) : ∀ a b c, exec (.tMax a b c) s = execTMax a b c s := fun _ _ _ => rfl
@[simp] theorem exec_tMaxImm (s : State) : ∀ a b imm, exec (.tMaxImm a b imm) s = execTMaxImm a b imm s := fun _ _ _ => rfl
@[simp] theorem exec_tMaxW (s : State) : ∀ a b c, exec (.tMaxW a b c) s = execTMaxW a b c s := fun _ _ _ => rfl
@[simp] theorem exec_tMaxWImm (s : State) : ∀ a b imm, exec (.tMaxWImm a b imm) s = execTMaxWImm a b imm s := fun _ _ _ => rfl
@[simp] theorem exec_tSel (s : State) : ∀ a b c d, exec (.tSel a b c d) s = execTSel a b c d s := fun _ _ _ _ => rfl
@[simp] theorem exec_tLi (s : State) : ∀ a imm, exec (.tLi a imm) s = execTLi a imm s := fun _ _ => rfl
@[simp] theorem exec_tBfx (s : State) : ∀ a b f, exec (.tBfx a b f) s = execTBfx a b f s := fun _ _ _ => rfl
@[simp] theorem exec_tBfi (s : State) : ∀ a b f, exec (.tBfi a b f) s = execTBfi a b f s := fun _ _ _ => rfl
@[simp] theorem exec_tCmp (s : State) : ∀ cc a b c, exec (.tCmp cc a b c) s = execTCmp cc a b c s := fun _ _ _ _ => rfl
@[simp] theorem exec_tCmpImm (s : State) : ∀ cc a b imm, exec (.tCmpImm cc a b imm) s = execTCmpImm cc a b imm s := fun _ _ _ _ => rfl
@[simp] theorem exec_tcmpx (s : State) : ∀ la a b c, exec (.tcmpx la a b c) s = execTcmpx la a b c s := fun _ _ _ _ => rfl
@[simp] theorem exec_tbr (s : State) : ∀ x, exec (.tbr x) s = execTbr x s := fun _ => rfl
@[simp] theorem exec_texit (s : State) : ∀ a, exec (.texit a) s = execTexit a s := fun _ => rfl
@[simp] theorem exec_twait (s : State) : ∀ a, exec (.twait a) s = execTwait a s := fun _ => rfl
@[simp] theorem exec_tsig (s : State) : ∀ a, exec (.tsig a) s = execTsig a s := fun _ => rfl
@[simp] theorem exec_tld (s : State) : ∀ la t a b c, exec (.tld la t a b c) s = execTld la t a b c s := fun _ _ _ _ _ => rfl
@[simp] theorem exec_tldImm (s : State) : ∀ la t a b imm, exec (.tldImm la t a b imm) s = execTldImm la t a b imm s := fun _ _ _ _ _ => rfl
@[simp] theorem exec_tldSp (s : State) : ∀ la t a b c, exec (.tldSp la t a b c) s = execTldSp la t a b c s := fun _ _ _ _ _ => rfl
@[simp] theorem exec_tldSpImm (s : State) : ∀ la t a b imm, exec (.tldSpImm la t a b imm) s = execTldSpImm la t a b imm s := fun _ _ _ _ _ => rfl
@[simp] theorem exec_tst (s : State) : ∀ n a b c, exec (.tst n a b c) s = execTst n a b c s := fun _ _ _ _ => rfl
@[simp] theorem exec_tstImm (s : State) : ∀ n a b imm, exec (.tstImm n a b imm) s = execTstImm n a b imm s := fun _ _ _ _ => rfl
@[simp] theorem exec_tstSp (s : State) : ∀ n a b c, exec (.tstSp n a b c) s = execTstSp n a b c s := fun _ _ _ _ => rfl
@[simp] theorem exec_tstSpImm (s : State) : ∀ n a b imm, exec (.tstSpImm n a b imm) s = execTstSpImm n a b imm s := fun _ _ _ _ => rfl
@[simp] theorem exec_tstSpN4 (s : State) : ∀ a b imm, exec (.tstSpN4 a b imm) s = execTstSpN4 a b imm s := fun _ _ _ => rfl
@[simp] theorem exec_tacq (s : State) : ∀ la a sc, exec (.tacq la a sc) s = execTacq la a sc s := fun _ _ _ => rfl
@[simp] theorem exec_trel (s : State) : ∀ a sc, exec (.trel a sc) s = execTrel a sc s := fun _ _ => rfl
@[simp] theorem exec_tfence (s : State) : ∀ sc, exec (.tfence sc) s = execTfence sc s := fun _ => rfl
@[simp] theorem exec_tcache (s : State) : ∀ a op, exec (.tcache a op) s = execTcache a op s := fun _ _ => rfl
@[simp] theorem exec_spawn (s : State) : ∀ a b, exec (.spawn a b) s = execSpawn a b s := fun _ _ => rfl
@[simp] theorem exec_join (s : State) : ∀ a b, exec (.join a b) s = execJoin a b s := fun _ _ => rfl
@[simp] theorem exec_steal (s : State) : ∀ la a b, exec (.steal la a b) s = execSteal la a b s := fun _ _ _ => rfl
@[simp] theorem exec_tChsend (s : State) : ∀ a ch, exec (.tChsend a ch) s = execTChsend a ch s := fun _ _ => rfl
@[simp] theorem exec_tCatom (s : State) : ∀ la a b c xa, exec (.tCatom la a b c xa) s = execTCatom la a b c xa s := fun _ _ _ _ _ => rfl
@[simp] theorem exec_tSat (s : State) : ∀ la a b c xa, exec (.tSat la a b c xa) s = execTSat la a b c xa s := fun _ _ _ _ _ => rfl
@[simp] theorem exec_nop (s : State) : exec .nop s = execNop s := rfl
@[simp] theorem exec_ret (s : State) : exec .ret s = execRet s := rfl
@[simp] theorem exec_halt (s : State) : exec .halt s = execHalt s := rfl
@[simp] theorem exec_eret (s : State) : exec .eret s = execEret s := rfl
@[simp] theorem exec_srseedWrite (s : State) : exec .srseedWrite s = execSrseedWrite s := rfl
@[simp] theorem exec_csave (s : State) : exec .csave s = execCsave s := rfl
@[simp] theorem exec_cload (s : State) : exec .cload s = execCload s := rfl
@[simp] theorem exec_tinkerCacheFill (s : State) : exec .tinkerCacheFill s = execTinkerCacheFill s := rfl
@[simp] theorem exec_tinkerWriteback (s : State) : exec .tinkerWriteback s = execTinkerWriteback s := rfl
@[simp] theorem exec_flagrelAdd (s : State) : exec .flagrelAdd s = execFlagrelAdd s := rfl
@[simp] theorem exec_hoopPush (s : State) : exec .hoopPush s = execHoopPush s := rfl
@[simp] theorem exec_tileForwardArrival (s : State) : exec .tileForwardArrival s = execTileForwardArrival s := rfl
@[simp] theorem exec_transposePush (s : State) : exec .transposePush s = execTransposePush s := rfl
@[simp] theorem exec_arrivalWordUpdate (s : State) : exec .arrivalWordUpdate s = execArrivalWordUpdate s := rfl
@[simp] theorem exec_copyCommandComplete (s : State) : exec .copyCommandComplete s = execCopyCommandComplete s := rfl
@[simp] theorem exec_trapEntry (s : State) : exec .trapEntry s = execTrapEntry s := rfl
@[simp] theorem exec_watchdog (s : State) : exec .watchdog s = execWatchdog s := rfl
@[simp] theorem exec_preempt (s : State) : exec .preempt s = execPreempt s := rfl
@[simp] theorem exec_channelMessageArrival (s : State) : exec .channelMessageArrival s = execChannelMessageArrival s := rfl
@[simp] theorem exec_allowanceArrival (s : State) : exec .allowanceArrival s = execAllowanceArrival s := rfl
@[simp] theorem exec_ackArrival (s : State) : exec .ackArrival s = execAckArrival s := rfl
@[simp] theorem exec_porterRequest (s : State) : exec .porterRequest s = execPorterRequest s := rfl
@[simp] theorem exec_translationWalk (s : State) : exec .translationWalk s = execTranslationWalk s := rfl
@[simp] theorem exec_recallComplete (s : State) : exec .recallComplete s = execRecallComplete s := rfl
@[simp] theorem exec_porterRunStart (s : State) : exec .porterRunStart s = execPorterRunStart s := rfl
@[simp] theorem exec_porterRunEnd (s : State) : exec .porterRunEnd s = execPorterRunEnd s := rfl
@[simp] theorem exec_tierMove (s : State) : exec .tierMove s = execTierMove s := rfl
@[simp] theorem exec_sqtail (s : State) : exec .sqtail s = execSqtail s := rfl
@[simp] theorem exec_cqhead (s : State) : exec .cqhead s = execCqhead s := rfl
@[simp] theorem exec_inlgo (s : State) : exec .inlgo s = execInlgo s := rfl
@[simp] theorem exec_queueEn (s : State) : exec .queueEn s = execQueueEn s := rfl
@[simp] theorem exec_registerWrite (s : State) : exec .registerWrite s = execRegisterWrite s := rfl
@[simp] theorem exec_bar2Read (s : State) : exec .bar2Read s = execBar2Read s := rfl
@[simp] theorem exec_bar2Write (s : State) : exec .bar2Write s = execBar2Write s := rfl
@[simp] theorem exec_functionLevelReset (s : State) : exec .functionLevelReset s = execFunctionLevelReset s := rfl
@[simp] theorem exec_cmdLaunch (s : State) : exec .cmdLaunch s = execCmdLaunch s := rfl
@[simp] theorem exec_cmdGraph (s : State) : exec .cmdGraph s = execCmdGraph s := rfl
@[simp] theorem exec_graphNodeStart (s : State) : exec .graphNodeStart s = execGraphNodeStart s := rfl
@[simp] theorem exec_cmdCopy (s : State) : exec .cmdCopy s = execCmdCopy s := rfl
@[simp] theorem exec_cmdSignal (s : State) : exec .cmdSignal s = execCmdSignal s := rfl
@[simp] theorem exec_cmdWait (s : State) : exec .cmdWait s = execCmdWait s := rfl
@[simp] theorem exec_cmdPartition (s : State) : exec .cmdPartition s = execCmdPartition s := rfl
@[simp] theorem exec_cmdCheckpoint (s : State) : exec .cmdCheckpoint s = execCmdCheckpoint s := rfl
@[simp] theorem exec_cmdFreezeClear (s : State) : exec .cmdFreezeClear s = execCmdFreezeClear s := rfl
@[simp] theorem exec_cmdInval (s : State) : exec .cmdInval s = execCmdInval s := rfl
@[simp] theorem exec_cmdHtset (s : State) : exec .cmdHtset s = execCmdHtset s := rfl
@[simp] theorem exec_cmdAttest (s : State) : exec .cmdAttest s = execCmdAttest s := rfl
@[simp] theorem exec_launchRetire (s : State) : exec .launchRetire s = execLaunchRetire s := rfl
@[simp] theorem exec_launchResume (s : State) : exec .launchResume s = execLaunchResume s := rfl
@[simp] theorem exec_powerGood (s : State) : exec .powerGood s = execPowerGood s := rfl
@[simp] theorem exec_powerLoss (s : State) : exec .powerLoss s = execPowerLoss s := rfl
@[simp] theorem exec_tokenAllowanceUpdate (s : State) : exec .tokenAllowanceUpdate s = execTokenAllowanceUpdate s := rfl
@[simp] theorem exec_thermalWarning (s : State) : exec .thermalWarning s = execThermalWarning s := rfl
@[simp] theorem exec_thermalCritical (s : State) : exec .thermalCritical s = execThermalCritical s := rfl
@[simp] theorem exec_msgFlit (s : State) : exec .msgFlit s = execMsgFlit s := rfl
@[simp] theorem exec_grantFlit (s : State) : exec .grantFlit s = execGrantFlit s := rfl
@[simp] theorem exec_ackFlit (s : State) : exec .ackFlit s = execAckFlit s := rfl
@[simp] theorem exec_refuseFlit (s : State) : exec .refuseFlit s = execRefuseFlit s := rfl
@[simp] theorem exec_stepFlit (s : State) : exec .stepFlit s = execStepFlit s := rfl
@[simp] theorem exec_abortFlit (s : State) : exec .abortFlit s = execAbortFlit s := rfl
@[simp] theorem exec_finalFlit (s : State) : exec .finalFlit s = execFinalFlit s := rfl
@[simp] theorem exec_agreedFlit (s : State) : exec .agreedFlit s = execAgreedFlit s := rfl
@[simp] theorem exec_readyFlit (s : State) : exec .readyFlit s = execReadyFlit s := rfl
@[simp] theorem exec_dataFlit (s : State) : exec .dataFlit s = execDataFlit s := rfl
@[simp] theorem exec_gangpreFlit (s : State) : exec .gangpreFlit s = execGangpreFlit s := rfl
@[simp] theorem exec_retransmissionTimeout (s : State) : exec .retransmissionTimeout s = execRetransmissionTimeout s := rfl
@[simp] theorem exec_memberUnreachable (s : State) : exec .memberUnreachable s = execMemberUnreachable s := rfl
@[simp] theorem exec_sliceEnd (s : State) : exec .sliceEnd s = execSliceEnd s := rfl
@[simp] theorem exec_mainClockCycle (s : State) : exec .mainClockCycle s = execMainClockCycle s := rfl
@[simp] theorem exec_tinkerInstructionFetch (s : State) : exec .tinkerInstructionFetch s = execTinkerInstructionFetch s := rfl
@[simp] theorem exec_contextEngineDone (s : State) : exec .contextEngineDone s = execContextEngineDone s := rfl
@[simp] theorem exec_bitError (s : State) : exec .bitError s = execBitError s := rfl
@[simp] theorem exec_linkFailure (s : State) : exec .linkFailure s = execLinkFailure s := rfl

end Sys2Proof.Machine
end

