-- ==== Sys2Proof/Laws/Flits.lean ====
section
/-! SUPPORT. The flits the module closes with their CRC pass the checks of a receiver (R404). -/
namespace Sys2Proof.Machine

/-! ### The CRC is a 32-bit number -/

theorem crc32cBit_lt {c : Nat} (h : c < 2 ^ 32) : crc32cBit c < 2 ^ 32 := by
  unfold crc32cBit
  split
  · exact Nat.xor_lt_two_pow (by omega) (by decide)
  · omega
theorem crc32cByte_lt {c : Nat} (b : Byte) (h : c < 2 ^ 32) : crc32cByte c b < 2 ^ 32 := by
  have hb : b.toNat < 2 ^ 32 := by have := b.isLt; omega
  have h0 := Nat.xor_lt_two_pow h hb
  unfold crc32cByte
  iterate 8 apply crc32cBit_lt
  exact h0
theorem crc32c_lt (bs : List Byte) : crc32c bs < 2 ^ 32 := by
  have h : ∀ (l : List Byte) (c : Nat), c < 2 ^ 32 → l.foldl crc32cByte c < 2 ^ 32 := by
    intro l
    induction l with
    | nil => exact fun c hc => hc
    | cons b l ih => exact fun c hc => ih _ (crc32cByte_lt b hc)
  exact Nat.xor_lt_two_pow (h bs _ (by decide)) (by decide)
theorem natOf_bytesOf4 (x : Nat) : natOf (bytesOf 4 x) = x % 2 ^ 32 := by
  simp [natOf, bytesOf, BitVec.toNat_ofNat]
  omega

/-- A closed flit of 252 bytes passes its checks where its header and its zero bytes do. -/
theorem flitOk_close (bs : List Byte) (h : bs.length = 252)
    (hh : bits (flitHead bs) 3 0 ≤ 11 ∧ flitZeros bs = true) :
    flitOk (closeFlit bs) = true := by
  obtain ⟨h1, h2⟩ := hh
  have e0 : flitHead (closeFlit bs) = flitHead bs := by
    unfold flitHead closeFlit
    rw [List.take_append_of_le_length (by omega)]
  have e1 : (closeFlit bs).drop 252 = bytesOf 4 (crc32c bs) := by rw [closeFlit, ← h, List.drop_left]
  have e2 : (closeFlit bs).take 252 = bs := by rw [closeFlit, ← h, List.take_left]
  have e4 : (closeFlit bs).length = 256 := by simp [closeFlit, bytesOf, h]
  have e5 : crc32c bs % 2 ^ 32 = crc32c bs := Nat.mod_eq_of_lt (crc32c_lt bs)
  simp only [flitOk, crcOk, e0, e1, e2, e4, natOf_bytesOf4, e5, h2, h1, beq_self_eq_true, decide_true, Bool.and_self]

end Sys2Proof.Machine
end

