-- ==== Sys2Proof/Tests/Slice0.lean ====
section
/-! SUPPORT. Tests: terms no encoding holds, words written out from the encoding tables and what they hold, and a state with operands for every hypothesis of the statements. -/
namespace Sys2Proof.Tests
open Sys2Proof Sys2Proof.Machine Sys2Proof.Claims
set_option Elab.async false

/-! ### Well-formedness: one ill-formed term for each check -/

theorem test_wf_bfx : (Instr.bfx 1 (.s 2) ⟨60, 4, false⟩).wf = false := by decide
theorem test_wf_bfx_edge : (Instr.bfx 1 (.s 2) ⟨60, 3, true⟩).wf = true := by decide
theorem test_wf_bfi_fits : (Instr.bfi 1 (.s 2) ⟨63, 1, false⟩).wf = false := by decide
theorem test_wf_bfi_sx : (Instr.bfi 1 (.s 2) ⟨0, 1, true⟩).wf = false := by decide
theorem test_wf_tBfx : (Instr.tBfx 1 2 ⟨63, 1, false⟩).wf = false := by decide
theorem test_wf_tBfi : (Instr.tBfi 1 2 ⟨63, 1, false⟩).wf = false := by decide
theorem test_wf_tBfi_sx : (Instr.tBfi 1 2 ⟨0, 1, true⟩).wf = false := by decide
theorem test_wf_br : (Instr.br (.imm 2)).wf = false := by decide
theorem test_wf_call : (Instr.call (.imm 1)).wf = false := by decide
theorem test_wf_brc : (Instr.brc (.s 1) 3).wf = false := by decide
theorem test_wf_loop_zero : (Instr.loop (.s 1) 0).wf = false := by decide
theorem test_wf_loop_back : (Instr.loop (.s 1) 0xFFFFFFFC).wf = false := by decide
theorem test_wf_vcvt_i64 : (Instr.vcvt 0 (.v 1) ⟨none, .dyn, false, .i64, .f32, 0⟩).wf = false := by decide
theorem test_wf_vcvt_part : (Instr.vcvt 0 (.v 1) ⟨none, .dyn, false, .bf16, .f32, 2⟩).wf = false := by decide
theorem test_wf_vxpand : (Instr.vxpand 0 (.v 1) ⟨.mxint8, 0⟩).wf = false := by decide
theorem test_wf_vld : (Instr.vld (.v 0 (some (1, false)) .b32) (.s 1) (.reg (.s 2))).wf = false := by decide
theorem test_wf_vst : (Instr.vst (.v (.v 0) none .b16) (.s 1) (.reg (.s 2))).wf = false := by decide
theorem test_wf_vcmpx : (Instr.vcmpx .i8 0 (.v 1) ⟨3, 3, false⟩).wf = false := by decide
theorem test_wf_vtopk : (Instr.vtopk .f32 0 (.v 1) ⟨none, false, 65⟩).wf = false := by decide
theorem test_wf_vred : (Instr.vred .f32 0 (.v 1) ⟨none, .dyn, .and⟩).wf = false := by decide
theorem test_wf_vscan : (Instr.vscan .bf16 0 (.v 1) ⟨none, .dyn, false, .xor⟩).wf = false := by decide
theorem test_wf_dto : (Instr.dto 0 1 ⟨none, .dyn, .bf16, true⟩).wf = false := by decide
theorem test_wf_dlerp : (Instr.dlerp 0 1 2 0x8001).wf = false := by decide
theorem test_wf_mma : (Instr.mma 0 ⟨0, .bf16, .mx .mxint8, 0, 1, 0, false, false, false⟩).wf = false := by decide
theorem test_wf_mdrain : (Instr.mdrain 0 1 ⟨.sr, false, .f32, false, 0⟩).wf = false := by decide
theorem test_wf_mclr : (Instr.mclr 0 (.reg .ls)).wf = false := by decide
theorem test_wf_mpop : (Instr.mpop 0 0).wf = false := by decide
theorem test_wf_catom_scope : (Instr.catom (.s 0) (.s 1) (.s 2) ⟨⟨.add, .b64, false⟩, .core⟩).wf = false := by decide
theorem test_wf_catom_width : (Instr.catom (.s 0) (.s 1) (.s 2) ⟨⟨.fmax, .b64, false⟩, .device⟩).wf = false := by decide
theorem test_wf_sat : (Instr.sat .ls (.s 1) (.s 2) ⟨.add, .b64, true⟩).wf = false := by decide
theorem test_wf_sat_unused : (Instr.sat (.s 3) (.s 1) (.s 2) ⟨.add, .b64, false⟩).wf = false := by decide
theorem test_wf_tCatom : (Instr.tCatom 1 0 1 2 ⟨⟨.add, .b64, false⟩, .device⟩).wf = false := by decide
theorem test_wf_tSat : (Instr.tSat 0 0 1 2 ⟨.fmin, .b8, true⟩).wf = false := by decide
theorem test_wf_tcmpx : (Instr.tcmpx 0 1 1 2).wf = false := by decide
theorem test_wf_tbr_nz : (Instr.tbr (.nz 1 2)).wf = false := by decide
theorem test_wf_tbr_z : (Instr.tbr (.z 1 1)).wf = false := by decide
theorem test_wf_tbr_al : (Instr.tbr (.al 3)).wf = false := by decide
theorem test_wf_tbr_link : (Instr.tbr (.link 1 2)).wf = false := by decide

/-! ### Words written out from the encoding tables

Fields from the most significant on: OP, PRED, A, B, C (Table 3.2), with the extension word; for a tinker word OP, LA, A, B, C (Table 3.11). Opcode points and
operands are those of Tables 3.7 to 3.10 and 3.12, operand codes those of Table 2.1, extension fields those of Table 3.3. -/

/-- The word of these fields, read by the decoder of a slot class, is the instruction, under the predicate. -/
def slotReads (k : SlotClass) (op : BitVec 8) (q : BitVec 3) (a b c : BitVec 7) (e : Option (BitVec 32)) (i : Instr) : Bool :=
  let r := rawOf (op ++ q ++ a ++ b ++ c) e
  match (parseSlot k r).result with
  | .ok j => decide (j = i ∧ r.q.val = q.toNat)
  | .error _ => false
/-- The tinker word of these fields is the instruction. -/
def tinkReads (op : BitVec 7) (la : BitVec 4) (a b c : BitVec 7) (e : BitVec 32) (i : Instr) : Bool :=
  match decodeTinker (op ++ la ++ a ++ b ++ c) e with
  | .ok j => decide (j = i)
  | .error _ => false
/-- An XV word: IMM16, SUB, SAT, ZM, MSEL, MEN, RND. -/
def xv (imm : BitVec 16) (sub : BitVec 7) (sat zm : BitVec 1) (msel : BitVec 3) (men : BitVec 1) (rnd : BitVec 3) : BitVec 32 := imm ++ sub ++ sat ++ zm ++ msel ++ men ++ rnd
/-- An XA word: SCOPE, RET, WIDTH, OP under its reserved bits. -/
def xaWord (scope : BitVec 3) (ret : BitVec 1) (width : BitVec 2) (op : BitVec 4) : BitVec 32 := 0#22 ++ scope ++ ret ++ width ++ op
abbrev sSlot := slotReads .s
abbrev vSlot := slotReads .v
abbrev mSlot := slotReads .m
abbrev cSlot := slotReads .c

theorem test_words_s_integer : [sSlot 0x00 0 0 0 0 none .nop, sSlot 0x01 2 3 1 2 none (.add 3 (.s 1) (.s 2)), sSlot 0x02 0 3 1 0x74 none (.sub 3 (.s 1) (.reg .ls)),
  sSlot 0x03 3 4 4 0 (some 64) (.addi 4 (.s 4) 64), sSlot 0x04 0 3 1 0x77 none (.mul 3 (.s 1) (.reg .lc0)), sSlot 0x05 0 3 1 0 (some 9) (.mulh 3 (.s 1) (.imm 9)),
  sSlot 0x06 0 3 1 2 none (.mulhW 3 (.s 1) (.reg (.s 2))), sSlot 0x07 7 3 1 2 none (.div 3 (.s 1) (.reg (.s 2))), sSlot 0x08 0 3 1 2 none (.divW 3 (.s 1) (.reg (.s 2))),
  sSlot 0x09 0 3 1 2 none (.rem 3 (.s 1) (.reg (.s 2))), sSlot 0x0A 0 3 0x78 2 none (.remW 3 .lc1 (.reg (.s 2))), sSlot 0x0B 0 31 1 2 none (.and 31 (.s 1) (.reg (.s 2))),
  sSlot 0x0C 0 3 1 2 none (.or 3 (.s 1) (.reg (.s 2))), sSlot 0x0D 0 3 1 2 none (.xor 3 (.s 1) (.reg (.s 2))), sSlot 0x0E 0 3 1 2 none (.andn 3 (.s 1) (.reg (.s 2))),
  sSlot 0x0F 0 3 1 2 none (.shl 3 (.s 1) (.reg (.s 2))), sSlot 0x10 0 3 1 2 none (.shr 3 (.s 1) (.reg (.s 2))), sSlot 0x11 0 3 1 2 none (.sar 3 (.s 1) (.reg (.s 2))),
  sSlot 0x12 0 3 1 2 none (.rot 3 (.s 1) (.reg (.s 2))), sSlot 0x13 0 3 1 0 none (.clz 3 (.s 1)), sSlot 0x14 0 3 1 0 none (.popc 3 (.s 1))].all id = true := by decide
theorem test_words_s_select : [sSlot 0x15 0 3 1 2 none (.min 3 (.s 1) (.reg (.s 2))), sSlot 0x16 0 3 1 2 none (.minW 3 (.s 1) (.reg (.s 2))), sSlot 0x17 0 3 1 2 none (.max 3 (.s 1) (.reg (.s 2))),
  sSlot 0x18 0 3 1 2 none (.maxW 3 (.s 1) (.reg (.s 2))), sSlot 0x19 0 3 1 2 (some 0x5000) (.sel 3 (.s 1) (.s 2) 5), sSlot 0x1A 0 3 0 0 (some 0xFFFFFFFF) (.li 3 0xFFFFFFFF),
  sSlot 0x1B 0 3 1 2 none (.adda 3 (.s 1) (.reg (.s 2))), sSlot 0x1C 0 3 1 0 (some 0x10504) (.bfx 3 (.s 1) ⟨4, 5, true⟩), sSlot 0x1D 0 3 1 0 (some 0x504) (.bfi 3 (.s 1) ⟨4, 5, false⟩),
  sSlot 0x22 0 0x59 1 2 none (.cmp .lt 1 (.s 1) (.reg (.s 2))), sSlot 0x29 0 0x59 1 0 (some 7) (.cmp .gew 1 (.s 1) (.imm 7)), sSlot 0x30 0 0x59 0x5A 0x5B none (.pand 1 2 3),
  sSlot 0x31 0 0x59 0x5A 0x5B none (.por 1 2 3), sSlot 0x32 0 0x59 0x5A 0x5B none (.pxor 1 2 3), sSlot 0x33 0 0x59 0x5A 0 none (.pnot 1 2),
  sSlot 0x40 0 3 1 2 (some 5) (.sfadd 3 (.s 1) (.s 2) (some .sr)), sSlot 0x41 0 3 1 2 none (.sfmul 3 (.s 1) (.s 2) none), sSlot 0x42 0 3 1 2 (some 2) (.sffma 3 (.s 1) (.s 2) (some .rtz)),
  sSlot 0x43 0 3 1 2 none (.sfmin 3 (.s 1) (.s 2)), sSlot 0x44 0 3 1 2 none (.sfmax 3 (.s 1) (.s 2)), sSlot 0x45 0 3 1 0 (some 0x762) (.sfcvt 3 (.s 1) ⟨.rtz, .f32, .bf16⟩),
  sSlot 0x4E 0 0x5F 1 2 none (.sfcmp .un 7 (.s 1) (.s 2))].all id = true := by decide
theorem test_words_s_memory_control : [sSlot 0x51 0 3 1 0 (some 2) (.lds .i16 3 (.s 1) (.imm 2)), sSlot 0x56 0 3 1 2 none (.lds .w32 3 (.s 1) (.reg (.s 2))),
  sSlot 0x5B 0 0x74 1 2 none (.sts .b64 .ls (.s 1) (.reg (.s 2))), sSlot 0x5C 0 3 1 0 (some 5) (.stsN4 (.s 3) (.s 1) 5), sSlot 0x60 0 0 0 0 (some 0xFFFFFFF0) (.br (.imm 0xFFFFFFF0)),
  sSlot 0x60 0 3 0 0 none (.br (.reg (.s 3))), sSlot 0x61 0 3 0 0 (some 8) (.brc (.s 3) 8), sSlot 0x62 0 3 0 0 none (.call (.reg (.s 3))), sSlot 0x63 0 0 0 0 none .ret,
  sSlot 0x64 0 3 0 0 (some 16) (.loop (.s 3) 16), sSlot 0x65 0 0 0 0 none .halt, sSlot 0x70 0 1 2 0 none (.waita (.s 1) (.s 2)), sSlot 0x71 0 1 2 0 none (.flagacq 1 .stratum),
  sSlot 0x72 0 1 4 0 none (.flagrel (.s 1) .system), sSlot 0x73 0 3 0 0 none (.fence .device), sSlot 0x80 0 3 0x12 0 none (.movs 3 .clk), sSlot 0x81 0 0x08 3 0 none (.movts .fpctl (.s 3)),
  sSlot 0x82 0 5 0 0 none (.trap 5), sSlot 0x83 0 0 0 0 none .eret, sSlot 0x84 0 1 2 3 none (.tcreate (.s 1) (.s 2) (.s 3)), sSlot 0x85 0 1 0 0 none (.tkill (.s 1)),
  sSlot 0x90 0 0x72 0 0 none (.ttclr 2), sSlot 0x91 0 0x72 1 2 none (.ttnode 2 (.s 1) (.s 2)), sSlot 0x92 0 0x72 1 2 none (.ttldp 2 (.s 1) (.reg (.s 2))),
  sSlot 0x93 0 0x72 0x51 2 none (.ttmask 2 (.s 2) (.toMask 1 false)), sSlot 0x94 0 0x72 1 2 none (.ttpos 2 (.s 1) (.s 2)), sSlot 0x95 0 0x72 1 2 none (.ttpath 2 (.s 1) (.s 2)),
  sSlot 0x96 0 0x72 1 2 none (.ttprune 2 (.s 1) (.s 2)), sSlot 0x97 0 3 0x72 2 none (.ttinfo 3 2 (.s 2))].all id = true := by decide

theorem test_words_v_integer : [vSlot 0x01 0 0x23 0x21 0x22 none (.vadd .i16 3 (.v 1) (.v 2) none), vSlot 0x0A 0 0x23 0x75 0x22 (some (xv 0 0 1 1 2 1 0)) (.vsub .i32 3 .lv0 (.v 2) (some ⟨some (2, true), true⟩)),
  vSlot 0x14 0 0x23 0x21 0x22 none (.vmul .w8 3 (.v 1) (.v 2) none), vSlot 0x1E 0 0x23 0x21 0x22 none (.vmulh .w32 3 (.v 1) (.v 2) none), vSlot 0x20 0 0x23 0x21 0x22 none (.vmin .i8 3 (.v 1) (.v 2) none),
  vSlot 0x2D 0 0x23 0x21 0x76 none (.vmax .w16 3 (.v 1) .lv1 none), vSlot 0x30 0 0x23 0x21 0x22 none (.vand .b8 3 (.v 1) (.v 2) none), vSlot 0x35 0 0x23 0x21 0x22 none (.vor .b16 3 (.v 1) (.v 2) none),
  vSlot 0x3A 0 0x23 0x21 0x22 none (.vxor .b32 3 (.v 1) (.v 2) none), vSlot 0x3C 0 0x23 0x21 0x22 none (.vshl .b8 3 (.v 1) (.reg (.v 2))), vSlot 0x41 0 0x23 0x21 0 (some (xv 4 0 0 0 0 0 0)) (.vshr .b16 3 (.v 1) (.imm 4 none)),
  vSlot 0x46 0 0x23 0x21 0x22 none (.vsar .b32 3 (.v 1) (.reg (.v 2))), vSlot 0x48 0 0x23 0x21 0 none (.vabs .b8 3 (.v 1) none), vSlot 0x4E 0 0x53 0x21 0x22 (some (xv 0 3 0 0 0 0 0)) (.vcmp .b32 3 (.v 1) (.v 2) ⟨none, .le⟩),
  vSlot 0x51 0 0x23 0x21 0x22 (some (xv 0 0 0 0 5 1 0)) (.vsel .b16 3 (.v 1) (.v 2) 5)].all id = true := by decide
theorem test_words_v_float : [vSlot 0x60 0 0x23 0x21 0x22 (some (xv 0 0 0 0 0 0 5)) (.vfadd .f32 3 (.v 1) (.v 2) (some ⟨none, .sr⟩)), vSlot 0x65 0 0x23 0x21 0x22 none (.vfsub .bf16 3 (.v 1) (.v 2) none),
  vSlot 0x6A 0 0x23 0x21 0x22 none (.vfmul .f16 3 (.v 1) (.v 2) none), vSlot 0x6C 0 0x23 0x21 0x22 none (.vffma .f32 3 (.v 1) (.v 2) none), vSlot 0x71 0 0x23 0x21 0x22 none (.vfmin .bf16 3 (.v 1) (.v 2) none),
  vSlot 0x74 0 0x23 0x21 0x22 none (.vfmax .f32 3 (.v 1) (.v 2) none), vSlot 0x78 0 0x23 0x21 0 none (.vfrcp .f32 3 (.v 1) none), vSlot 0x7D 0 0x23 0x21 0 none (.vfrsq .bf16 3 (.v 1) none),
  vSlot 0x82 0 0x23 0x21 0 none (.vfexp2 .f16 3 (.v 1) none), vSlot 0x84 0 0x23 0x21 0 none (.vflog2 .f32 3 (.v 1) none), vSlot 0x89 0 0x51 0x21 0x22 (some (xv 0 6 0 0 0 0 0)) (.vfcmp .bf16 1 (.v 1) (.v 2) ⟨none, .un⟩),
  vSlot 0x90 0 0x23 0x21 0 (some (xv 0x67 1 0 0 0 0 1)) (.vcvt 3 (.v 1) ⟨none, .rne, false, .bf16, .f32, 1⟩), vSlot 0x91 0 0x21 0 0 (some (xv 6 0 0 0 0 0 0)) (.vmxexp (.v 1) ⟨none, .f32, false⟩),
  vSlot 0x92 0 0x23 0x21 0 (some (xv 0x16 0 0 0 0 0 0)) (.vquant 3 (.v 1) ⟨none, .dyn, .f32, .mxint6⟩), vSlot 0x93 0 0x23 0x21 0 (some (xv 0x38 0 0 0 0 0 0)) (.vdeq 3 (.v 1) ⟨none, .dyn, .f16, .mxp4⟩),
  vSlot 0x94 0 0x23 0x21 0 (some (xv 0x620 0 0 0 0 0 0)) (.vxpand 3 (.v 1) ⟨.mxint4, 6⟩), vSlot 0x95 0 0x21 0 0 none (.vpbook (.v 1))].all id = true := by decide
theorem test_words_v_memory : [vSlot 0x98 0 0x23 1 2 none (.vld (.v 3 none .b32) (.s 1) (.reg (.s 2))), vSlot 0x98 0 0x51 1 0 (some (xv 16 0 0 0 0 0 0)) (.vld (.m 1) (.s 1) (.imm 16)),
  vSlot 0x99 0 0x6A 0x74 2 none (.vst (.w 2) .ls (.reg (.s 2))), vSlot 0x99 0 0x23 1 0 (some (xv 0 1 0 0 4 1 0)) (.vst (.v (.v 3) (some 4) .b16) (.s 1) (.imm 0)), vSlot 0x9A 0 0x23 1 0x22 none (.vstxN4 (.v 3) (.s 1) (.v 2) none),
  vSlot 0x9D 0 0x23 1 0x22 none (.vldx .b16 3 (.s 1) (.v 2) none), vSlot 0xA2 0 0x23 1 0x22 none (.vstx .b32 (.v 3) (.s 1) (.v 2) none), vSlot 0xA4 0 0x23 1 0 none (.vbcast .b8 3 (.s 1) none),
  vSlot 0xA9 0 3 0x21 2 none (.vext .b16 3 (.v 1) (.reg (.s 2))), vSlot 0xAE 0 0x23 1 0 (some (xv 7 0 0 0 0 0 0)) (.vins .b32 3 (.s 1) (.imm 7)), vSlot 0xB0 0 0x23 0x21 0x22 none (.vperm .b8 3 (.v 1) (.v 2) none),
  vSlot 0xB5 0 0x23 0x21 0x22 (some (xv 0 3 0 0 0 0 0)) (.vshuf .b16 3 (.v 1) (.v 2) (some ⟨none, .odd⟩)), vSlot 0xBA 0 0x23 0x21 0 (some (xv 0xFFFF 1 0 0 0 0 0)) (.vslide .b32 3 (.v 1) (.imm 0xFFFF none true)),
  vSlot 0xBC 0 3 0x51 0 none (.vpopm 3 1), vSlot 0xBD 0 0x51 0x21 0x22 none (.vbtest 1 (.v 1) (.v 2) none), vSlot 0xBE 0 0x23 0x21 0x22 (some (xv 64 0 0 0 0 0 0)) (.vbset 3 (.v 1) (.v 2) (some ⟨none, 64⟩))].all id = true := by decide
theorem test_words_v_reduce : [vSlot 0xD0 0 3 0x21 0 (some (xv 0 0 0 0 0 0 0)) (.vred .i8 3 (.v 1) ⟨none, .dyn, .add⟩), vSlot 0xDF 0 0x23 0x21 0 (some (xv 0 1 0 0 0 0 0)) (.vscan .bf16 3 (.v 1) ⟨none, .dyn, false, .max⟩),
  vSlot 0xCB 0 0x23 0x21 0 (some (xv 64 1 0 0 0 0 0)) (.vtopk .f32 3 (.v 1) ⟨none, true, 64⟩), vSlot 0xE0 0 0x23 1 0 (some (xv 0 0 0 0 0 0 0)) (.vmovaGet 3 (.s 1) none), vSlot 0xE0 0 0x23 1 0 (some (xv 0 1 0 0 0 0 0)) (.vmovaPut (.v 3) (.s 1) none),
  vSlot 0xE1 0 0x3D 0x69 0 (some (xv 0 1 0 0 0 0 0)) (.vsbind 1 1 true), vSlot 0xE2 0 0x3D 0 0 none (.vsunbind 29)].all id = true := by decide
theorem test_words_v_directional : [vSlot 0xE4 0 0x43 0x21 0 none (.dfrom 3 (.v 1) .dflt), vSlot 0xE4 0 0x43 0x21 0 (some (xv 8 0 0 0 0 0 0)) (.dfrom 3 (.v 1) .f16), vSlot 0xE5 0 0x23 0x41 0 (some (xv 0x16 0 0 0 0 0 0)) (.dto 3 1 ⟨none, .dyn, .f32, true⟩),
  vSlot 0xE6 0 0x43 1 2 none (.dld 3 (.s 1) (.s 2)), vSlot 0xE7 0 0x43 1 2 none (.dst 3 (.s 1) (.s 2)), vSlot 0xE8 0 0x43 0x41 0x42 none (.dadd 3 1 2 none), vSlot 0xE9 0 0x43 0x41 0x42 (some (xv 0xFF00 0 0 0 0 0 0)) (.dsub 3 1 2 (some 0xFF00)),
  vSlot 0xEA 0 0x43 0x41 2 none (.dscale 3 1 (.reg (.s 2))), vSlot 0xEB 0 0x43 0x41 0 none (.dneg 3 1), vSlot 0xEC 0 3 0x41 0x42 none (.ddot 3 1 2), vSlot 0xED 0 0x23 0x41 2 none (.ddotv 3 1 (.s 2)), vSlot 0xEE 0 3 0x41 0 none (.dnorm 3 1),
  vSlot 0xEF 0 0x43 1 0 none (.dsetn 3 (.s 1)), vSlot 0xF0 0 0x43 0x41 0x42 (some (xv 0x8000 0 0 0 0 0 0)) (.dlerp 3 1 2 0x8000), vSlot 0xF1 0 3 0x41 0 none (.dcmpz 3 1)].all id = true := by decide

theorem test_words_m : [mSlot 0x01 0 5 0 0 (some (0#1 ++ 1#1 ++ 1#1 ++ 0x801#12 ++ 2#3 ++ 1#3 ++ 2#3 ++ 0#3 ++ 3#5)) (.mma 5 ⟨3, .mx .mxint8, .mx .mxint4, 1, 2, 0x801, true, true, false⟩),
  mSlot 0x02 0 5 0 0 (some (0#1 ++ 0#1 ++ 0#1 ++ 16#12 ++ 0#3 ++ 1#3 ++ 0#3 ++ 1#3 ++ 0#5)) (.mmas 5 ⟨0, .mxint6, 1, 16, false, false⟩), mSlot 0x03 0 5 6 0 none (.mclr 5 (.reg (.s 6))),
  mSlot 0x04 0 5 6 0 (some (0#13 ++ 3#11 ++ 1#1 ++ 5#3 ++ 0#1 ++ 1#3)) (.mdrain 5 6 ⟨.rne, false, .f32, true, 3⟩), mSlot 0x05 0 0x62 4 0 none (.mpop 2 4), mSlot 0x06 0 0x62 0x63 0 (some 0x31) (.mtrans 2 3 ⟨1, 3⟩)].all id = true := by decide

theorem test_words_c : [cSlot 0x01 0 0x69 0x6A 0 (some 0x400) (.cpy 1 2 (.imm 0x400)), cSlot 0x02 0 0x69 0x6A 3 none (.cgath 1 2 (.reg (.s 3))), cSlot 0x03 0 0x69 0x6A 3 none (.cscat 1 2 (.reg (.s 3))), cSlot 0x04 0 0x69 2 3 none (.cfill 1 (.s 2) (.reg (.s 3))),
  cSlot 0x05 0 1 2 0 (some 7) (.cprom (.s 1) (.s 2) (some 7)), cSlot 0x06 0 1 2 0 (some 0x1B) (.cdemo (.s 1) (.s 2) (some ⟨3, 3⟩)), cSlot 0x07 0 0x61 2 0 none (.choop 1 (.s 2)), cSlot 0x08 0 0x69 2 0 none (.cdeal 1 (.s 2)),
  cSlot 0x09 0 1 2 3 none (.carm (.s 1) (.s 2) (.reg (.s 3))), cSlot 0x0A 0 3 1 0 none (.cstat 3 (.s 1)), cSlot 0x0B 0 1 0 0 none (.ccancel (.s 1)), cSlot 0x0C 0 2 0 0 none (.cfence .stratum),
  cSlot 0x10 0 1 2 3 (some (xaWord 3 1 3 11)) (.catom (.s 1) (.s 2) (.s 3) ⟨⟨.cas, .b64, true⟩, .device⟩), cSlot 0x11 0 1 2 3 (some (xaWord 0 1 2 5)) (.sat (.s 1) (.s 2) (.s 3) ⟨.fmax, .b32, true⟩),
  cSlot 0x18 0 1 2 3 none (.kvapp (.s 1) (.s 2) (.reg (.s 3))), cSlot 0x19 0 1 2 0 none (.kvrel (.s 1) (.s 2)), cSlot 0x1A 0 1 2 0 none (.kvpin (.s 1) (.s 2)), cSlot 0x1B 0 1 2 0 none (.kvunpin (.s 1) (.s 2))].all id = true := by decide
theorem test_words_c_group : [cSlot 0x20 0 3 0 0 none (.gbar 3), cSlot 0x21 0 0x23 0x21 0 none (.xchg 3 (.v 1)), cSlot 0x22 0 0x23 0 0 none (.xmax 3), cSlot 0x24 0 0x23 15 0 none (.chsend (.v 3) 15), cSlot 0x25 0 0x59 0x23 5 none (.chsendTry 1 (.v 3) 5),
  cSlot 0x26 0 0x23 5 0 none (.chrecv 3 5), cSlot 0x27 0 0x59 0x23 5 none (.chrecvTry 1 3 5), cSlot 0x28 0 3 1 0 none (.chalt 3 (.s 1)), cSlot 0x29 0 3 1 0 none (.chaltTry 3 (.s 1)), cSlot 0x2A 0 5 1 0 none (.chgrant 5 (.reg (.s 1))),
  cSlot 0x2B 0 0x3C 5 0 none (.chbind 0 5), cSlot 0x2C 0 5 0 0 none (.chseal 5), cSlot 0x2D 0 5 1 0 none (.chack 5 (.s 1))].all id = true := by decide

theorem test_words_t_integer : [tinkReads 0x01 0 5 6 7 0 (.tAdd 5 6 7), tinkReads 0x02 0 5 6 7 0 (.tSub 5 6 7), tinkReads 0x02 1 5 6 0 9 (.tSubImm 5 6 9), tinkReads 0x03 0 5 6 0 9 (.tAddi 5 6 9),
  tinkReads 0x04 3 5 6 7 0 (.tMul 3 5 6 7), tinkReads 0x6A 3 5 6 0 9 (.tMulImm 3 5 6 9), tinkReads 0x05 15 5 6 7 0 (.tMulh 15 5 6 7), tinkReads 0x6B 3 5 6 0 9 (.tMulhImm 3 5 6 9),
  tinkReads 0x06 3 5 6 7 0 (.tMulhW 3 5 6 7), tinkReads 0x6C 3 5 6 0 9 (.tMulhWImm 3 5 6 9), tinkReads 0x07 3 5 6 7 0 (.tDiv 3 5 6 7), tinkReads 0x6D 3 5 6 0 9 (.tDivImm 3 5 6 9),
  tinkReads 0x08 3 5 6 7 0 (.tDivW 3 5 6 7), tinkReads 0x6E 3 5 6 0 9 (.tDivWImm 3 5 6 9), tinkReads 0x09 3 5 6 7 0 (.tRem 3 5 6 7), tinkReads 0x6F 3 5 6 0 9 (.tRemImm 3 5 6 9),
  tinkReads 0x0A 3 5 6 7 0 (.tRemW 3 5 6 7), tinkReads 0x70 3 5 6 0 9 (.tRemWImm 3 5 6 9)].all id = true := by decide
theorem test_words_t_logic : [tinkReads 0x0B 0 5 6 7 0 (.tAnd 5 6 7), tinkReads 0x0B 1 5 6 0 9 (.tAndImm 5 6 9), tinkReads 0x0C 0 5 6 7 0 (.tOr 5 6 7), tinkReads 0x0C 1 5 6 0 9 (.tOrImm 5 6 9),
  tinkReads 0x0D 0 5 6 7 0 (.tXor 5 6 7), tinkReads 0x0D 1 5 6 0 9 (.tXorImm 5 6 9), tinkReads 0x0E 0 5 6 7 0 (.tAndn 5 6 7), tinkReads 0x0E 1 5 6 0 9 (.tAndnImm 5 6 9),
  tinkReads 0x0F 0 5 6 7 0 (.tShl 5 6 7), tinkReads 0x0F 1 5 6 0 9 (.tShlImm 5 6 9), tinkReads 0x10 0 5 6 7 0 (.tShr 5 6 7), tinkReads 0x10 1 5 6 0 9 (.tShrImm 5 6 9),
  tinkReads 0x11 0 5 6 7 0 (.tSar 5 6 7), tinkReads 0x11 1 5 6 0 9 (.tSarImm 5 6 9), tinkReads 0x12 0 5 6 7 0 (.tRot 5 6 7), tinkReads 0x12 1 5 6 0 9 (.tRotImm 5 6 9)].all id = true := by decide
theorem test_words_t_select : [tinkReads 0x13 0 5 6 0 0 (.tClz 5 6), tinkReads 0x14 0 5 6 0 0 (.tPopc 5 6), tinkReads 0x15 0 5 6 7 0 (.tMin 5 6 7), tinkReads 0x15 1 5 6 0 9 (.tMinImm 5 6 9),
  tinkReads 0x16 0 5 6 7 0 (.tMinW 5 6 7), tinkReads 0x16 1 5 6 0 9 (.tMinWImm 5 6 9), tinkReads 0x17 0 5 6 7 0 (.tMax 5 6 7), tinkReads 0x17 1 5 6 0 9 (.tMaxImm 5 6 9),
  tinkReads 0x18 0 5 6 7 0 (.tMaxW 5 6 7), tinkReads 0x18 1 5 6 0 9 (.tMaxWImm 5 6 9), tinkReads 0x19 0 5 6 7 8 (.tSel 5 6 7 8), tinkReads 0x1A 0 5 0 0 9 (.tLi 5 9), tinkReads 0x1C 0 5 6 0 0x10504 (.tBfx 5 6 ⟨4, 5, true⟩),
  tinkReads 0x1D 0 5 6 0 0x504 (.tBfi 5 6 ⟨4, 5, false⟩), tinkReads 0x25 0 5 6 7 0 (.tCmp .ge 5 6 7), tinkReads 0x26 1 5 6 0 9 (.tCmpImm .ltw 5 6 9), tinkReads 0x30 2 5 6 7 0 (.tcmpx 2 5 6 7)].all id = true := by decide
theorem test_words_t_control : [tinkReads 0x38 0 5 0 0 16 (.tbr (.nz 5 16)), tinkReads 0x38 0 5 1 0 16 (.tbr (.z 5 16)), tinkReads 0x38 0 0 2 0 16 (.tbr (.al 16)), tinkReads 0x38 0 5 3 0 16 (.tbr (.link 5 16)), tinkReads 0x38 0 5 4 0 1 (.tbr (.ind 5 1)),
  tinkReads 0x39 0 5 0 0 0 (.texit 5), tinkReads 0x3A 0 5 0 0 0 (.twait 5), tinkReads 0x3B 0 5 0 0 0 (.tsig 5)].all id = true := by decide
theorem test_words_t_memory : [tinkReads 0x43 4 5 6 7 0 (.tld 4 .i64 5 6 7), tinkReads 0x77 4 5 6 0 9 (.tldImm 4 .w32 5 6 9), tinkReads 0x48 4 5 6 7 0 (.tldSp 4 .i8 5 6 7), tinkReads 0x7C 4 5 6 0 9 (.tldSpImm 4 .w8 5 6 9),
  tinkReads 0x50 0 5 6 7 0 (.tst .b8 5 6 7), tinkReads 0x53 1 5 6 0 9 (.tstImm .b64 5 6 9), tinkReads 0x55 0 5 6 7 0 (.tstSp .b16 5 6 7), tinkReads 0x57 1 4 1 0 0x1140 (.tstSpImm .b64 4 1 0x1140), tinkReads 0x58 0 5 6 0 9 (.tstSpN4 5 6 9),
  tinkReads 0x60 2 5 3 0 0 (.tacq 2 5 .device), tinkReads 0x61 0 5 0 0 0 (.trel 5 .core), tinkReads 0x62 0 1 0 0 0 (.tfence .cluster), tinkReads 0x63 0 5 3 0 0 (.tcache 5 3), tinkReads 0x64 0 5 6 0 0 (.spawn 5 6), tinkReads 0x65 0 5 6 0 0 (.join 5 6),
  tinkReads 0x66 1 5 6 0 0 (.steal 1 5 6), tinkReads 0x67 0 5 9 0 0 (.tChsend 5 9), tinkReads 0x68 2 5 6 7 (xaWord 2 1 3 0) (.tCatom 2 5 6 7 ⟨⟨.add, .b64, true⟩, .stratum⟩), tinkReads 0x69 0 0 6 7 (xaWord 0 0 1 10) (.tSat 0 0 6 7 ⟨.swap, .b16, false⟩)].all id = true := by decide

/-- Words no instruction has: the least reason of R102. -/
def slotIllop (k : SlotClass) (op : BitVec 8) (a b c : BitVec 7) (e : Option (BitVec 32)) (n : Nat) : Bool :=
  match (parseSlot k (rawOf (op ++ 0#3 ++ a ++ b ++ c) e)).result with
  | .ok _ => false
  | .error x => decide (x.1 = n)
/-- R101, R102: an unassigned point, an unused field, an operand of another kind or an unusable latch, an extension missing or too many, a rounding field of 6, a format no code names. -/
theorem test_illop_reasons : [slotIllop .s 0x1E 0 0 0 none 1, slotIllop .v 0x54 0 0 0 none 1, slotIllop .m 0x00 0 0 0 none 1, slotIllop .c 0x1C 0 0 0 none 1, slotIllop .s 0x00 1 0 0 none 2, slotIllop .s 0x13 3 1 2 none 2,
  slotIllop .s 0x01 0x21 1 2 none 3, slotIllop .s 0x01 0x74 1 2 none 3, slotIllop .s 0x01 3 0x75 2 none 3, slotIllop .s 0x01 3 1 0x79 none 3, slotIllop .s 0x03 3 1 0 none 4, slotIllop .s 0x01 3 1 2 (some 0) 4,
  slotIllop .s 0x40 3 1 2 (some 6) 5, slotIllop .s 0x45 3 1 0 (some 0x0F0) 6, slotIllop .m 0x01 5 0 0 (some 0xA0) 6].all id = true := by decide
/-- R102, R104: the tinker points 0x00 and 0x7F, an X bit where no extension stands, and LA[3:1] of an operation that has no lookahead. -/
theorem test_tinker_illop : [tinkReads 0x00 0 0 0 0 0 .nop, tinkReads 0x7F 0 0 0 0 0 .nop, tinkReads 0x01 1 5 6 7 0 (.tAdd 5 6 7), tinkReads 0x01 2 5 6 7 0 (.tAdd 5 6 7)].any id = false := by decide

/-- The worked example of 03 (Table 3.14): six words, 24 bytes. -/
def exampleWords (a : Nat) : Option (BitVec 32) := if a % 4 = 0 then [0x00000453#32, 0x03010200, 0x00000040, 0x6C08D0A2, 0x011A7500, 0x00000400][a / 4]? else none
theorem test_example_bundle : (match decodeBundle exampleWords false 0 with
    | .ok b => decide (b.run = 0 ∧ b.next = 24 ∧ b.slots.map (fun x => (x.1, match (parseSlot (classOf x.1) x.2).result with | .ok i => some i | .error _ => none)) =
        [(0, some (Instr.addi 4 (.s 4) 64)), (1, some (.vffma .f32 3 (.v 1) (.v 2) none)), (4, some (.cpy 1 2 (.imm 0x400)))])
    | .error _ => false) = true := by decide
/-- The same table's variations: `.skip 2` gives header 0x2453, and (p3) gives the S word 0x0361_0200. -/
theorem test_example_run : (match decodeBundle (fun a => if a = 0 then some 0x2453 else exampleWords a) false 0 with | .ok b => decide (b.run = 2) | .error _ => false) = true := by decide
theorem test_example_predicate : rawOf 0x03610200 (some 64) = { rawOf 0x03010200 (some 64) with q := 3 } := by decide
/-- 08: the TST.sp of the worked example, OP 0x57, X 1, A 4, B 1, and its extension word. -/
theorem test_table_word : decodeTableWord 64 0x00001140AE210080 = some (.tstSpImm .b64 4 1 0x1140) := by decide

/-! ### States that meet the hypotheses of the statements: a slot that issues -/

/-- A module with one core that holds a record. -/
def withCore (c : Core) : State := { State.reset with cores := [(0, c)] }
/-- Slot `k` of core 0 issues, or is considered. -/
def issuing (c : Core) (k : Slot) : State := { withCore c with cur := .slot 0 k true }
def considering (c : Core) (k : Slot) : State := { withCore c with cur := .slot 0 k false }
/-- A core with some scalar registers. -/
def scalars (x y z : Word) : Core := { Core.reset with s := ((Core.reset.s.set 1 x).set 2 y).set 3 z }

/-- The premises that every statement on an issuing slot shares. -/
theorem witness_issuing : ∀ k : Slot, Issuing (issuing (scalars 7 5 3) k) 0 k := fun _ => ⟨rfl, rfl⟩
theorem witness_unbound : ∀ k : Slot, Unbound (issuing (scalars 7 5 3) k) 0 := by unfold Unbound; decide
/-- PredicateResults: the landing of slot 0 outside the handler. -/
theorem witness_predicate_lands : (0 : Slot) = 0 ∧ ((issuing (scalars 7 5 3) 0).core 0).sp.handler = false := by decide

/-- ScalarMemoryOperations: the last aligned word of the scratchpad, and the word at 0, can be read. -/
theorem witness_scalar_load : let s := issuing (scalars 0xFFFF8 0 0) 0
    s.mem.spadFault 0 ((s.core 0).ss (.s 1) + sxVal (s.core 0) (.imm 0)).toNat (ldBytes .i64) = (0, 0) ∧ s.mem.spadFault 0 ((s.core 0).ss (.s 1)).toNat 8 = (0, 0) := by decide
theorem witness_scalar_load_low : (issuing (scalars 0 0 0) 0).mem.spadFault 0 0 1 = (0, 0) := by decide
/-- LoadExtension: the largest pattern of each width. -/
theorem witness_load_extension : 0xFF < 2 ^ 8 ∧ 0xFFFF < 2 ^ 16 ∧ 0xFFFFFFFF < 2 ^ 32 := by decide
/-- DivisionCorners: the most negative number by -1. -/
theorem witness_division : let c := (issuing (scalars 0x8000000000000000 0xFFFFFFFFFFFFFFFF 0) 0).core 0
    (c.ss (.s 1)).toNat = 2 ^ 63 ∧ sxVal c (.reg (.s 2)) = BitVec.allOnes 64 := by decide

/-- TransfersAndLoops: a transfer that redirects next, one in its shadow within folded bundles, and plain flow. -/
theorem witness_redirect : let c : Core := { Core.reset with transfers := [(1, 0x40)], owed := 3 }
    c.skip = none ∧ c.transfers = [(c.ic + 1, 0x40)] := by decide
theorem witness_shadow : let c : Core := { Core.reset with transfers := [(3, 0x40)], owed := 2 }
    c.skip = none ∧ c.transfers = [(c.ic + 3, 0x40)] ∧ c.loops = [] ∧ 1 < c.owed := by decide
theorem witness_flow : let c := Core.reset
    c.skip = none ∧ c.transfers = [] ∧ c.loops = [] ∧ c.owed = 0 ∧ (c.shapeAt c.pc).1 = 0 := by decide
theorem witness_loop_end : let c : Core := { Core.reset with loops := [⟨0x10, 0x40, 2, some [0x10, 0x20]⟩], pc := 0x40 }
    c.transfers = [] ∧ c.skip = none ∧ c.loops = ⟨0x10, 0x40, 2, some [0x10, 0x20]⟩ :: [] ∧ c.pc = 0x40 ∧ c.owed = 0 ∧ (c.shapeAt c.pc).1 = 0 ∧ 1 < 2 := by decide

/-- SystemResults: a special register other than XSTAT; a cycle without flags; in the handler and out of it. -/
theorem witness_special : SpecialReg.fpctl ≠ .xstat ∧ Core.reset.raised = 0 ∧ Core.reset.sp.handler = false ∧
    ({ Core.reset with sp := { Special.reset with handler := true } } : Core).sp.handler = true := by decide

/-- TreeResults: TTLDP of one entry at the last eight bytes of the scratchpad, and of none. -/
theorem witness_ttldp : let s := issuing (scalars 0xFFFF8 0x100 0) 0
    let co := s.core 0
    let lines := lineStarts (co.ss (.s 1)).toNat (8 * rangeCount (sxVal co (.reg (.s 2))))
    lines = [0xFFFC0] ∧ ∀ l ∈ lines, Readable s 0 l 64 := by unfold Readable; decide
theorem witness_ttldp_empty : lineStarts 0 (8 * rangeCount 0) = [] := by decide

/-- VectorMemory: the last register's worth of the scratchpad, and the last mask and walk record. -/
theorem witness_vld : let s := issuing (scalars 0xFFF00 0xFFFF0 0xFFFC0) 1
    Readable s 0 ((s.core 0).ss (vsToS (.s 1)) + (0 : BitVec 16).signExtend 64).toNat 256 ∧ Readable s 0 ((s.core 0).ss (vsToS (.s 2)) + (0 : BitVec 16).signExtend 64).toNat 16 ∧
    Readable s 0 ((s.core 0).ss (vsToS (.s 3)) + (0 : BitVec 16).signExtend 64).toNat 64 := by unfold Readable; decide
/-- A gather of byte elements, every index zero, at the scratchpad's last byte. -/
theorem witness_gather : let s := issuing (scalars 0xFFFFF 0 0) 1
    ∀ j, j < 2048 / 16 → (s.core 0).active (dmReg none) 8 j = true → Readable s 0 (((s.core 0).ss (vsToS (.s 1))).toNat + elemAt 16 ((s.core 0).vv (.v 0)) j * (8 / 8)) 1 := by
  unfold Readable; decide

/-- AccumulatorsAndPorts: the last 64 accumulators; a walk of one unit at the scratchpad's start, bound both ways. -/
theorem witness_accumulators : let s := issuing (scalars 65472 0 0) 1
    (view s 0 1).accFault (((s.core 0).ss (vsToS (.s 1))).toNat % 65536) 64 = (0, 0) := by decide

/-- A walk of one dimension: base, bound (elements less one), stride, element size as a power of two, kind. -/
def walk1 (base bound stride esize kind : Nat) : BitVec 512 :=
  BitVec.ofNat 512 (base + 2 ^ 48 * kind + 2 ^ 64 * bound + 2 ^ 160 * stride + 2 ^ 352 * esize + 2 ^ 356)
/-- A core whose w1 is a walk over 256 bytes up to the scratchpad's end. -/
def withWalk (w : BitVec 512) : Core := { Core.reset with w := Core.reset.w.set 1 w }

theorem witness_vsbind : let s := issuing (withWalk (walk1 0xFFF00 31 8 3 0)) 1
    (view s 0 1).bindTraps ((s.core 0).w[(1 : WReg)]) = [] := by decide +kernel
/-- ReadPortPops: port 2 bound for reading, its first unit filled. -/
def portCore : Core := { Core.reset with ports := Core.reset.ports.set 2 (some (.walk false (walk1 0 31 8 3 0) 0 [⟨0, 5, 0, 0, 0⟩] 1)) }
theorem witness_port_pops : let s := issuing portCore 1
    let f : Fill := ⟨0, 5, 0, 0, 0⟩
    Issuing s 0 1 ∧ (∀ q : Port, (s.core 0).ports[q] = if q = 2 then some (.walk false (walk1 0 31 8 3 0) 0 (f :: []) 1) else none) ∧ f.unit = 0 ∧ f.pend = 0 ∧ (3 : VReg).val < 28 ∧
      (s.core 0).popped = [] := by unfold Issuing; decide +kernel
theorem witness_port_data : 5 < 2 ^ 2048 := Nat.lt_of_lt_of_le (by decide : 5 < 2 ^ 3) (Nat.pow_le_pow_right (by decide) (by decide))

/-- DirectionalResults: a direction and a norm at the scratchpad's end; 64 rows of 256 bytes that end there. -/
theorem witness_dld : let s := issuing (scalars 0xFFF00 0xFFFFE 0xFC000) 1
    Readable s 0 ((s.core 0).ss (vsToS (.s 1))).toNat 256 ∧ Readable s 0 (((s.core 0).ss (vsToS (.s 2))).toNat / 64 * 64) 64 ∧ Readable s 0 ((s.core 0).ss (vsToS (.s 3))).toNat 16384 := by
  unfold Readable; decide
/-- ZeroDirection: norms other than the zero code, at and over the ends of the range. -/
theorem witness_norms : (0x7FFF : Nat) ≠ 0x8000 ∧ confDir (dirElems 0) 0x8000 = true ∧ (-32767 : Int) ≤ -32767 ∧ (32767 : Int) ≤ 32767 ∧ (32767 : Int) < 32768 ∧ (-32768 : Int) < -32767 := by decide +kernel
theorem witness_zero_sum : sumSq [0, 0, 0] = 0 := by decide

/-- VectorRanking, ReductionsAndScans: exchanges of neighbours in blocks of two and of halves in one block; counts at both ends; types of both kinds; a rounding mode that draws nothing. -/
theorem witness_ranking : 2 ^ 0 < 128 ∧ 2 * 2 ^ 0 ≤ 2 ^ 1 ∧ 2 ^ 1 ≤ 128 ∧ 2 ^ 6 < 128 ∧ 2 * 2 ^ 6 ≤ 2 ^ 7 ∧ 2 ^ 7 ≤ 128 ∧ 0 / 2 ^ 6 % 2 = 0 ∧ 1 ≤ 1 ∧ 64 ≤ min 64 128 ∧ 128 ≤ min 256 128 ∧ 2048 / atyW .f32 = 64 := by decide
theorem witness_reductions : atyKind .i8 = .inl .i8 ∧ atyKind .bf16 = .inr .bf16 ∧ (Core.reset).rnd .dyn ≠ .sr ∧ (Core.reset).rnd .rne ≠ .sr := by decide

/-- MatrixMultiply: two hoops with a tile each, of 16 rows of 128 BF16 elements: format 4, rows/16 - 1 = 0, K/16 - 1 = 7 in the headers; and one hoop with two such tiles. -/
def tileCells : List Host.Cell := [(spadKey 0 0, 4), (spadKey 0 2, 7), (spadKey 0 0x1040, 4), (spadKey 0 0x1042, 7), (spadKey 0 0x4000, 4), (spadKey 0 0x4002, 7)]
def hoopCore : Core := { Core.reset with h := ((Core.reset.h.set 1 ⟨0, 64, 1, 0, 1, 1, true⟩).set 2 ⟨0x4000, 64, 1, 0, 1, 1, true⟩).set 3 ⟨0, 64, 1, 0, 0, 2, true⟩ }
def matState : State := { issuing hoopCore 3 with mem := ⟨tileCells, [], [], []⟩ }
def matXm : XM := ⟨0, .bf16, .bf16, 1, 2, 0, true, true, true⟩
def sameXm : XM := ⟨0, .bf16, .bf16, 3, 3, 0, true, false, false⟩
theorem witness_mma_hoops : let co := matState.core 0
    let ha := co.h[matXm.ha]
    let hb := co.h[matXm.hb]
    (Instr.mma 0 matXm).wf = true ∧ matXm.ha ≠ matXm.hb ∧ ha.valid = true ∧ hb.valid = true ∧ 1 ≤ ha.fill ∧ 1 ≤ hb.fill ∧
    (Instr.mma 0 sameXm).wf = true ∧ sameXm.ha = sameXm.hb ∧ (co.h[sameXm.ha]).valid = true ∧ 2 ≤ (co.h[sameXm.ha]).fill := by decide
theorem witness_mma_tiles : let v := view matState 0 3
    let ha := v.c.h[matXm.ha]
    let hb := v.c.h[matXm.hb]
    let hs := v.c.h[sameXm.ha]
    shapeM 0 = 16 ∧ shapeN 0 = 16 ∧ shapeK .bf16 .bf16 0 = 128 ∧ v.tileTraps (ha.tileAt ha.head) .bf16 16 128 ha.tile 1 0 = [] ∧ v.tileTraps (hb.tileAt hb.head) .bf16 16 128 hb.tile 2 1 = [] ∧
    v.tileTraps (hs.tileAt hs.head) .bf16 16 128 hs.tile 3 0 = [] ∧ v.tileTraps (hs.tileAt (hs.head + 1)) .bf16 16 128 hs.tile 3 1 = [] := by decide
/-- Its operands free of errors, and one accumulator with an error. -/
theorem witness_mma_faults : let v := view matState 0 3
    let w := view { matState with mem := { matState.mem with ecc2 := [accKey 0 0] } } 0 3
    let ta := (v.c.h[matXm.ha]).tileAt (v.c.h[matXm.ha]).head
    let tb := (v.c.h[matXm.hb]).tileAt (v.c.h[matXm.hb]).head
    let n := tileBytes .bf16 16 128
    (firstFault [v.tileFault ta n, v.tileFault tb n, v.accRangeFault 0 256 true]).1 = 0 ∧ (firstFault [v.tileFault ta n, v.tileFault tb n, v.accRangeFault (16 * 4095) 256 false]).1 = 0 ∧
    (firstFault [w.tileFault ta n, w.tileFault tb n, w.accRangeFault 0 256 false]).1 ≠ 0 := by decide +kernel
/-- A launch of 2 by 2 cores, so that core 0 forwards east and south within its domain. -/
def square : Launch :=
  { id := 0, cores := [0, 1, 16, 17], z := 0, x0 := 0, y0 := 0, width := 2, height := 2, space := 0, tenant := 0, l4 := false, tinkers := 0, stealDom := 1, stall := 0, started := true, ctag := 0, prio := 0,
    preen := false, body := 0, uid := 0, graph := none, fn := 0, phase := .running, failure := none, groupSlot := none, epoch := 0, released := 0, sliceOver := false, buffers := [] }
theorem witness_mma_forwards : let s : State := { matState with launches := [square] }
    s.launchOf 0 = some square ∧ matXm.fwa = true ∧ coreX 0 + 1 < square.x0 + square.width ∧ coreY 0 < square.y0 + square.height ∧ matXm.fwb = true ∧ coreX 0 < square.x0 + square.width ∧
      coreY 0 + 1 < square.y0 + square.height := by decide

/-- SegmentedMultiply: a tile of 16 rows of 128 MXINT8 elements with handle 1 and tag 5 in its segment word, adapter 1 of owner 5 at 0x8000, and the tile's shadow 5. -/
def segCells : List Host.Cell := [(spadKey 0 2, 7), (spadKey 0 32, 1), (spadKey 0 34, 5), (spadKey 0 0x8002, 7)]
def segHandle : Handle := ⟨0x8000, 0, true, 0, 5⟩
def segCore : Core := { Core.reset with h := Core.reset.h.set 1 ⟨0, 64, 1, 0, 1, 1, true⟩, handles := [(1, segHandle)], shadows := [(256, [5, 0, 0, 0, 0, 0, 0, 0])] }
def segState (issue : Bool) : State := { withCore segCore with cur := .slot 0 3 issue, mem := ⟨segCells, [], [], []⟩ }
/-- An answer of the check, as a truth value. -/
def passes (r : SegCheck) (h : Handle) (viol : Bool) : Bool := match r with | .entry x v => decide (x = h) && v.isSome == viol | _ => false
theorem passes_eq {r : SegCheck} {h : Handle} (e : passes r h false = true) : r = .entry h none := by
  cases r with
  | trap t => simp [passes] at e
  | entry x v => simp only [passes, Bool.and_eq_true, decide_eq_true_eq, beq_iff_eq, Option.isSome_eq_false_iff, Option.isNone_iff_eq_none] at e; rw [e.1, e.2]
theorem witness_mmas : let co := (segState true).core 0
    let v := view (segState true) 0 3
    let ha := co.h[(1 : HReg)]
    let ta := ha.tileAt ha.head
    let n := tileBytes (.mx .mxint8) 16 128
    ha.valid = true ∧ 1 ≤ ha.fill ∧ v.segHeader ta .mxint8 16 1 = [] ∧ shapeM 0 = 16 ∧ shapeN 0 = 16 ∧ shapeK (.mx .mxint8) (.mx (mxOfCode segHandle.fmt)) 0 = 128 ∧
    v.tileTraps ta (.mx .mxint8) 16 128 ha.tile 1 0 = [] ∧ (firstFault [v.tileFault ta n, v.tileFault segHandle.addr n, v.accRangeFault 0 256 false]).1 = 0 := by decide +kernel
theorem witness_mmas_check : let co := (segState true).core 0
    let ha := co.h[(1 : HReg)]
    (List.range (shapeM 0 / 16)).all (fun g => passes ((view (segState true) 0 3).segCheck (ha.tileAt ha.head) .mxint8 1 16 0 g ((co.shadowOf 1 (ha.head % (ha.count + 1))).getD g 0)) segHandle false) = true := by
  decide +kernel
/-- SegmentedOperandCheck: the tag agrees, or differs from the shadow; the same operation considered, with and without a violation. -/
theorem witness_segment : let v := view (segState true) 0 3
    let w := v.readSpad (0 + 32 + 4 * 0) 4
    (v.c.handles.find? fun x => x.1 == w % 65536 % 4096).map (·.2) = some segHandle ∧ segHandle.valid = true ∧ w % 65536 < 4096 ∧ segHandle.fmt ≤ 3 ∧
    v.tileTraps segHandle.addr (.mx (mxOfCode segHandle.fmt)) 16 (shapeK (.mx .mxint8) (.mx (mxOfCode segHandle.fmt)) 0) (2 ^ 20 - segHandle.addr) (1 : HReg).val 1 = [] ∧
    w / 65536 = 5 ∧ w / 65536 = segHandle.owner ∧ w / 65536 ≠ 4 := by decide
theorem witness_segment_considered : let s := segState false
    let ta := (s.core 0).h[(1 : HReg)].tileAt (s.core 0).h[(1 : HReg)].head
    s.cur = .slot 0 3 false ∧ (s.core 0).resumeCaps = [] ∧ (view s 0 3).segHeader ta .mxint8 16 1 = [] ∧ passes ((view s 0 3).segCheck ta .mxint8 1 16 0 0 5) segHandle false = true ∧
    passes ((view s 0 3).segCheck ta .mxint8 1 16 0 0 4) segHandle true = true := by decide +kernel

/-- MatrixMaintenance: a pop of the one tile and of two; a drain up to the last accumulator, and of one with an error; a transposition in a launch. -/
theorem witness_matrix_pop : let co := matState.core 0
    (co.h[(1 : HReg)]).valid = true ∧ (1 : BitVec 7).toNat ≤ (co.h[(1 : HReg)]).fill ∧ (1 : BitVec 7).toNat ≤ (co.h[(1 : HReg)]).count + 1 ∧
    (co.h[(3 : HReg)]).valid = true ∧ (2 : BitVec 7).toNat ≤ (co.h[(3 : HReg)]).fill ∧ (2 : BitVec 7).toNat ≤ (co.h[(3 : HReg)]).count + 1 := by decide
theorem witness_drain : (view matState 0 3).accRangeFault (65536 - 32) 32 false = (0, 0) ∧
    ((view { matState with mem := { matState.mem with ecc2 := [accKey 0 0] } } 0 3).accRangeFault 0 32 false).1 ≠ 0 := by decide +kernel
theorem witness_mtrans : let s : State := { matState with launches := [square] }
    let co := s.core 0
    let v := view s 0 3
    let ta := (co.h[(1 : HReg)]).tileAt (co.h[(1 : HReg)]).head
    let xt : XT := ⟨0, 7⟩
    s.launchOf 0 = some square ∧ (co.h[(1 : HReg)]).valid = true ∧ (co.h[(2 : HReg)]).valid = true ∧ 1 ≤ (co.h[(1 : HReg)]).fill ∧ 16 * (xt.rm1.val + 1) = 16 ∧ 16 * (xt.cm1.val + 1) = 128 ∧
    v.tileTraps ta .bf16 16 128 (co.h[(1 : HReg)]).tile 1 0 = [] ∧ tileBytes .bf16 128 16 ≤ (co.h[(2 : HReg)]).tile ∧ (v.tileFault ta (tileBytes .bf16 16 128)).1 = 0 := by decide +kernel

/-- DataCommandsQueue: two alike walks; another element size or count; a fifth kind; walks with elements of 16 bytes; walks of one dimension where a row list needs two. -/
theorem witness_copies : let d := walk1 0 31 8 3 0
    walkMalformed d 1 = false ∧ walkMalformed d 0 = false ∧ walkEsize d = walkEsize d ∧ walkCount d = walkCount d ∧ walkPaged d = 0 ∧ walkKind d ≤ 2 ∧ walkDims d ≠ 2 := by decide +kernel
theorem witness_copy_sizes : let d := walk1 0 31 8 3 0
    let e := walk1 0 63 4 2 0
    walkMalformed d 1 = false ∧ walkMalformed e 0 = false ∧ walkEsize d ≠ walkEsize e ∧ walkCount d ≠ walkCount e := by decide +kernel
theorem witness_copy_kinds : let d := walk1 0 31 8 3 4
    let e := walk1 0 31 8 3 3
    let f := walk1 0 31 8 3 2
    walkMalformed d 1 = false ∧ walkMalformed e 0 = false ∧ walkEsize d = walkEsize e ∧ walkCount d = walkCount e ∧ 4 ≤ walkKind d ∧ walkKind e = 3 ∧ walkMalformed f 0 = false ∧ walkKind f ≤ 2 := by decide +kernel
theorem witness_fill_size : walkMalformed (walk1 0 31 16 4 0) 1 = false ∧ 3 < walkEsize (walk1 0 31 16 4 0) := by decide +kernel
/-- OtherCommandsQueue: a hoop image at the scratchpad's end; a SAT with a register that takes the old value; a slot considered. -/
theorem witness_choop : let s := issuing (scalars 0xFFFF0 0 0) 4
    Readable s 0 ((s.core 0).ss (.s 1)).toNat 16 ∧ (⟨.add, .b64, true⟩ : AtX).ret = true := by unfold Readable; decide
theorem witness_considering : ∀ k : Slot, (considering Core.reset k).cur = .slot 0 k false ∧ ((considering Core.reset k).core 0).resumeCaps = [] := fun _ => ⟨rfl, rfl⟩

/-- StoresAndAtomicsCommit: a canonical memory, a SAT at the scratchpad's last word with its result in flight. -/
def atomicCore : Core := { Core.reset with flights := [inFlight Core.reset 4 (.s 1) 6 0] }
theorem witness_atomic : let s := withCore atomicCore
    let key := spadKey 0 0xFFFF8
    s.mem.wf = true ∧ s.mem.spadFault 0 (key - spadKey 0 0) (stwBytes .b64) = (0, 0) ∧ ∃ f ∈ (s.core 0).flights, f.issued = 0 ∧ f.slot = 4 :=
  ⟨by decide, by decide, inFlight Core.reset 4 (.s 1) 6 0, List.mem_singleton.mpr rfl, rfl, rfl⟩

/-- GroupOperations: four running cores of one launch. -/
def running : Core := { Core.reset with run := .running }
def groupState : State := { State.reset with cores := [(0, running), (1, running), (16, running), (17, running)], launches := [square], cur := .slot 0 5 true }
theorem witness_group : Issuing groupState 0 5 ∧ groupState.launchOf 0 = some square ∧ square.width ≤ 16 ∧ ∀ j, j < square.width → (groupState.core (coreId (coreZ 0) (square.x0 + j) (coreY 0))).run = .running := by
  unfold Issuing; decide

/-- ChannelData: a sending endpoint with allowances, one without, a receiving one with four messages, and one with none. -/
def sender (config allow : Nat) : Endpoint := { Endpoint.empty with config, peer := some (1, 2), sendAllow := allow }
def receiver (ms : List Nat) : Endpoint := { Endpoint.empty with config := 2, peer := some (1, 2), msgs := ms, grantOut := 60 }
def endCore : Core := { Core.reset with endpoints := (((Core.reset.endpoints.set 1 (sender 1 4)).set 2 (receiver [1, 2, 3, 4])).set 3 (receiver [])).set 4 (sender 5 8) }
theorem witness_channel_ready : let s := issuing endCore 4
    (s.endpoint 0 1).resend = [] ∧ 4 ≤ (s.endpoint 0 1).sendAllow ∧ ((s.endpoint 0 1).tagged → (s.endpoint 0 1).retained.length ≤ 59) := by decide
theorem witness_channel_not_ready : ¬ 4 ≤ ((issuing endCore 4).endpoint 0 3).sendAllow := by decide
theorem witness_channel_messages : 4 ≤ ((issuing endCore 4).core 0 |>.msgsLeft 2).length ∧ ((issuing endCore 4).core 0 |>.msgsLeft 3).length < 4 := by decide
theorem witness_sending : let e := ((issuing endCore 4).core 0).endpoints[(1 : Chan)]
    let f := ((issuing endCore 4).core 0).endpoints[(4 : Chan)]
    e.path = 0 ∧ e.peer = some (1, 2) ∧ e.tagged = false ∧ f.path = 0 ∧ f.peer = some (1, 2) ∧ f.tagged = true := by decide
/-- Alternation: a slot considered before any pick, and one that issues with the pick of its consideration. -/
theorem witness_alternation : ((considering endCore 4).core 0).resumeCaps = [] ∧ Unbound (considering endCore 4) 0 ∧ (considering endCore 4).cur = .slot 0 4 false ∧ ((considering endCore 4).core 0).looked.find? (fun l => l.slot == 4) = none ∧
    (issuing endCore 4).cur = .slot 0 4 true := ⟨rfl, by unfold Unbound; decide, rfl, rfl, rfl⟩
theorem witness_channel_traps : let s := considering endCore 4
    let e (n : Chan) := (s.core 0).endpoints[n]
    (e 2).mode ≠ 1 ∧ (e 1).mode ≠ 2 ∧ (e 3).mode = 2 ∧ ((s.core 0).msgsLeft 3).length < 4 ∧ (e 2).mode = 2 ∧ 63 < (e 2).grantOut + (e 2).msgs.length + (zxVal (s.core 0) (.imm 0)).toNat ∧ (e 2).tagged = false ∧
      ((s.core 0).ss (.s 1)).toNat % 2 ^ 16 = 0 := by decide
theorem witness_send_waits : let s := considering { endCore with endpoints := endCore.endpoints.set 1 (sender 1 3) } 4
    ((s.core 0).endpoints[(1 : Chan)]).mode = 1 ∧ (s.endpoint 0 1).sendAllow < 4 := by decide

/-- ResultsLand: a result without error or flags, with its slot's latch and without; one with an error. -/
theorem witness_lands : let f := inFlight Core.reset 0 (.s 1) 1 7
    f.pend = 0 ∧ f.flags = 0 ∧ f.push = false ∧ f.latch = true ∧ f.slot = 0 ∧ f.dest = .s 1 := by decide
theorem witness_lands_vector : let f := inFlight Core.reset 1 (.v 1) 1 7
    f.pend = 0 ∧ f.latch = true ∧ f.slot = 1 ∧ f.dest = .v 1 ∧ (inFlight Core.reset 2 (.v 1) 1 7).slot = 2 ∧ (inFlight Core.reset 4 .nowhere 1 7).dest = .nowhere ∧ (inFlight Core.reset 5 .nowhere 1 7).slot = 5 := ⟨rfl, rfl, rfl, rfl, rfl, rfl, rfl⟩
theorem witness_lands_no_latch : (inFlight Core.reset 0 .scalel 1 7 (latch := false)).latch = false := rfl
theorem witness_trap_lands : ({ inFlight Core.reset 0 (.s 1) 1 7 with pend := 0x0B } : Flight).pend = 0x0B ∧ ({ inFlight Core.reset 0 (.s 1) 1 7 with pend := 0x0E } : Flight).pend ≠ 0x0B := by decide
theorem witness_error_lands : ({ inFlight Core.reset 0 (.s 1) 1 7 with pend := 0x0E } : Flight).pend ≠ 0 := by decide

/-- IssueLeavesRegisters: an addition that answers a next state. -/
theorem witness_answers : ∃ u, exec (.add 1 (.s 2) (.s 3)) (issuing (scalars 7 5 3) 0) = .next u := ⟨_, rfl⟩
/-- CapturesAndContexts: a slot with a capture record; a write of XSTAT in the handler that starts a save, or a load. -/
def captured : Capture := ⟨true, true, 0, [], [0, 5, 6]⟩
theorem witness_capture : let s := issuing { Core.reset with resumeCaps := [(0, captured)] } 0
    s.cur = .slot 0 0 true ∧ (s.core 0).resumeCaps = [((0 : Slot).val, captured)] := ⟨rfl, rfl⟩
theorem witness_capture_view : (⟨State.reset, 0, Core.reset, 0, some captured⟩ : View).cap = some captured ∧ (27 : VReg).val < 28 := ⟨rfl, by decide⟩
/-- A captured hoop descriptor: base 0, two tiles, one full, valid. -/
theorem witness_capture_hoop : let h := Hoop.ofWord (2 ^ 32 + 2 ^ 56 + 2 ^ 65)
    h.valid = true ∧ (1 : BitVec 7).toNat ≤ h.fill ∧ (1 : BitVec 7).toNat ≤ h.count + 1 := by decide
/-- A bundle of one slot, its word NOP, whose capture record has a false predicate. -/
theorem witness_capture_predicate : let c : Core := { Core.reset with code := [(0, 1)], resumeCaps := [(0, { captured with pred := false })] }
    c.resumeCaps = [((0 : Slot).val, { captured with pred := false })] ∧ (0, rawOf 0 none) ∈ c.slotsDue ∧ slotInstr (0, rawOf 0 none) = .ok .nop := by
  refine ⟨rfl, ?_, rfl⟩
  decide +kernel
theorem witness_context : let c : Core := { scalars (2 ^ 32) (2 ^ 33) 0 with sp := { Special.reset with handler := true } }
    c.sp.handler = true ∧ c.ctxBusy = none ∧ (c.ss (.s 1)).getLsbD 32 = true ∧ (c.ss (.s 2)).getLsbD 32 = false ∧ (c.ss (.s 2)).getLsbD 33 = true := by decide

/-! ### Tinkers -/

/-- A core whose thread 0 lives, with some registers in its window; thread 0 is chosen. -/
def thread0 : Thread := { Thread.empty with status := .ready, pc := 0x100, size := 32 }
def tinkCore (x y z : Word) : Core :=
  { Core.reset with trf := [(1, x), (2, y), (3, z)].filter (fun e => e.2 != 0), threads := Core.reset.threads.set 0 thread0, endpoints := Core.reset.endpoints.set 1 (sender 1 4) }
def tinking (c : Core) : State := { withCore c with cur := .tinker 0 0 4 }
theorem witness_chosen : Chosen (tinking (tinkCore 1 2 3)) 0 0 := ⟨4, rfl⟩

/-- TinkerControl: an indirect branch to an aligned word, a flag word at the scratchpad's end, a frame address and a program counter, two registers and the same one twice. -/
theorem witness_tink_control : let s := tinking (tinkCore 0xFFFF8 0xFFFFFFFFFFC0 0x1000)
    wrapNat 48 (((treg s 0 0 0 3).toNat : Int) + (4 : BitVec 32).toInt) % 4 = 0 ∧ treg s 0 0 0 4 = 0 ∧ treg s 0 0 0 1 ≠ 0 ∧ (s.core 0).badRange (treg s 0 0 0 1).toNat 8 = false ∧ (treg s 0 0 0 1).toNat % 8 = 0 ∧
    (treg s 0 0 0 2).toNat % 64 = 0 ∧ (treg s 0 0 1 3).toNat % 4 = 0 ∧ (treg s 0 0 0 2).toNat < 2 ^ 48 ∧ (2 : TOp) ≠ 3 := by decide
theorem witness_tink_exchange : let s := tinking (tinkCore 0 9 4)
    (treg s 0 0 2 3).slt (treg s 0 0 1 2) = true ∧ (treg s 0 0 2 2).slt (treg s 0 0 1 3) = false := by decide

/-- TinkerMemory: an access to the scratchpad's last word, with an offset register and an immediate, a nibble, a line and a sending endpoint. -/
theorem witness_tink_scratchpad : let s := tinking (tinkCore 0xFFFC0 0xFFFF8 0)
    let k := s.core 0
    let y := treg s 0 0 1 2
    let ea := (y.toNat + (treg s 0 0 2 3).toNat) % 2 ^ 64
    let ei := (y.toNat + ((0 : BitVec 32).signExtend 64).toNat) % 2 ^ 64
    (k.badRange ea 8 = false ∧ ea % 8 = 0 ∧ s.mem.spadFault 0 ea 8 = (0, 0)) ∧ (k.badRange ei 8 = false ∧ ei % 8 = 0 ∧ s.mem.spadFault 0 ei 8 = (0, 0)) ∧
    k.badRange (nibbleAddr (treg s 0 0 1 1) 0 / 2) 1 = false ∧ (k.badRange y.toNat 8 = false ∧ y.toNat % 8 = 0) ∧ stwBytes .b64 = 8 ∧
    (k.badRange (treg s 0 0 0 1).toNat 64 = false ∧ (treg s 0 0 0 1).toNat % 64 = 0 ∧ s.mem.spadFault 0 (treg s 0 0 0 1).toNat 64 = (0, 0)) ∧ (k.endpoints[(1 : Chan)]).mode = 1 := by decide
/-- An aligned device address whose line is cached with its check value, and one whose line is not. -/
theorem witness_tink_device : let line : CacheLine := ⟨0x1000, 5, 0, 0, true, true⟩
    let s := tinking { tinkCore 0x2000 0x1000 0 with cache := [line] }
    let k := s.core 0
    let va := (treg s 0 0 1 2).toNat
    let vb := (treg s 0 0 1 1).toNat
    va < 2 ^ 48 ∧ va % ldBytes .i64 = 0 ∧ va % stwBytes .b64 = 0 ∧ k.cache.find? (fun e => e.line == va / 64 * 64) = some line ∧ line.rd = true ∧ line.wr = true ∧ line.cv = 0 ∧
    vb < 2 ^ 48 ∧ vb % ldBytes .i64 = 0 ∧ (∀ l, k.cache.find? (fun e => e.line == vb / 64 * 64) = some l → l.rd = false ∧ l.wr = false) ∧ (2 : CacheOp).val < 3 ∧ (treg s 0 0 0 1).toNat < 2 ^ 48 := by decide

/-- TinkerLandingAndParking: two results due on one entry and a signal to a living thread; accesses beyond the scratchpad, misaligned, and at 2^48. -/
theorem witness_tink_lands : let c : Core := { tinkCore 1 2 3 with tflights := [⟨1, 7, 0, 0, 0⟩, ⟨1, 9, 0, 0, 1⟩], signals := [0] }
    swf 0 ((withCore c).core 0).trf = true ∧ ((withCore c).core 0).twrites = [] ∧ c.signals = [0] ∧ (c.threads[(0 : Fin 64)]).status ≠ .dead := by decide
theorem witness_tink_parks : let s := tinking (tinkCore 0xFFFFD 0x100000 0x1000000000000)
    let k := s.core 0
    let ei (b : TOp) := ((treg s 0 0 1 b).toNat + ((0 : BitVec 32).signExtend 64).toNat) % 2 ^ 64
    (k.threads[(0 : Fin 64)]).status ≠ .dead ∧ k.badRange (ei 2) (ldBytes .i8) = true ∧ k.badRange (ei 1) (stwBytes .b16) = false ∧ ei 1 % stwBytes .b16 ≠ 0 ∧ 2 ^ 48 ≤ ei 3 ∧
      (treg s 0 0 0 1).toNat % 64 ≠ 0 := by decide

/-! ### Events of a core -/

/-- An event happens at a place. -/
def atPlace (s : State) (a : EvArg) : State := { s with cur := .event a }
/-- A launch of core 0 alone, with its own handler, running. -/
def solo : Launch := { square with cores := [0], width := 1, height := 1, body := 2 ^ 352 }
def soloState (c : Core) : State := { withCore c with launches := [solo] }

theorem witness_clock_off : At (atPlace { State.reset with power := false } .unit) .unit ∧ ({ State.reset with power := false } : State).power = false := ⟨rfl, rfl⟩
theorem witness_clock : let s := atPlace (soloState running) .unit
    At s .unit ∧ s.power = true ∧ ∀ l ∈ s.launches, s.handlerCores l = [] := by unfold At; decide +kernel

/-- HandlerEntryAndReturn: a trap taken at a boundary with five folded bundles left; with a release that waits; a handler that returns, with a frame and without. -/
def trapped : Core := { running with entry := some ⟨⟨0x0C, 7, false⟩, false, none⟩, owed := 5 }
theorem witness_handler_entry : let s := atPlace (soloState trapped) (.trap 0 ⟨0x0C, 7⟩)
    At s (.trap 0 ⟨0x0C, 7⟩) ∧ (s.core 0).entry = some ⟨⟨0x0C, 7, false⟩, false, none⟩ ∧ s.launchOf 0 = some solo ∧ solo.ownHandler = true ∧ ((s.core 0).releases.any fun r => r.thread.isNone) = false ∧ (s.core 0).owed < 64 ∧ isFrozen (s.core 0).run = false := by
  unfold At; decide +kernel
theorem witness_handler_frozen : let s := atPlace (soloState { trapped with run := .frozen ⟨3, 0, 0, 0, 0, 0, 0, 0⟩ false }) (.trap 0 ⟨0x0C, 7⟩)
    isFrozen (s.core 0).run = true ∧ (s.core 0).entry = some ⟨⟨0x0C, 7, false⟩, false, none⟩ ∧ s.launchOf 0 = some solo := by decide +kernel
theorem witness_handler_waits : ({ trapped with releases := [⟨0, .core, 0, [], none⟩] } : Core).releases.any (fun r => r.thread.isNone) = true := by decide
def inHandler : Core := { running with sp := { Special.reset with handler := true, xpc := 0x40 }, saved := some ⟨3, 0x40, 0, [], [], [], none, []⟩ }
theorem witness_handler_return : let c := ((soloState inHandler).drainCore 0).core 0
    c.saved = some ⟨3, 0x40, 0, [], [], [], none, []⟩ ∧ c.sp.xstat.getLsbD 2 = false := by decide

/-- SupervisorEvents: a running launch without porter runs and with one; a context engine that saves a core with nothing outstanding, one with a release outstanding, and one that is done; a good image. -/
theorem witness_preempt : let s := atPlace (soloState running) (.launch 0)
    At s (.launch solo.id) ∧ s.launches.find? (fun k => k.id == solo.id) = some solo ∧ solo.phase = .running ∧ solo.started = true ∧ (∀ c ∈ solo.cores, (s.core c).run = .running) ∧ s.runsOf solo.ctag = false := by unfold At; decide +kernel
def anyRun : Run := ⟨Vector.replicate 16 0, Vector.replicate 8 0, 2, [], true, none⟩
def anyCtx : PCtx := { ctag := 0, record := 0, runs := 0, run := some anyRun, frozen := none, held := [] }
theorem witness_preempt_waits : ({ atPlace (soloState running) (.launch 0) with porters := [(5, ⟨[anyCtx]⟩)] } : State).runsOf solo.ctag = true := by decide +kernel
def saving : Core := { running with ctxBusy := some .save }
theorem witness_csave : let s := atPlace (soloState saving) (.core 0)
    At s (.core 0) ∧ s.launchOf 0 = some solo ∧ (s.core 0).ctxBusy = some .save ∧ s.mem.wf = true ∧ (s.core 0).settled = true ∧ (s.core 0).dirtyLines = [] ∧ solo.ownHandler = true := by unfold At; decide +kernel
theorem witness_csave_waits : ({ saving with releases := [⟨0, .core, 0, [], none⟩] } : Core).settled = false := by decide
theorem witness_cload : let h : Hidden := ⟨0, 0, true, 0, [], Core.reset⟩
    let s : State := { soloState { saving with ctxBusy := some .load } with hidden := [h] }
    (s.core 0).ctxBusy = some .load ∧ s.launchOf 0 = some solo ∧ s.imageIn ((s.core 0).sp.xvalue.toNat % 2 ^ 48) solo.id 0 = some h ∧
      (soloState { saving with ctxBusy := some .load }).imageIn 0 solo.id 0 = none := by decide +kernel

/-- ReleasesAndTiles: a release of the scratchpad's last word in an issue cycle and after it, and of a word with an error; a full tile with room in its ring and without, of a command that has faulted and of one that
counts; a tile that fits, with room and without, and one that does not; a transposed tile with room and without. -/
def release0 : Release := ⟨0xFFFF8, .core, 0, [], none⟩
theorem witness_release : let s := atPlace (withCore { running with releases := [release0], issuing := true }) (.core 0)
    At s (.core 0) ∧ (s.core 0).releases = [release0] ∧ release0.thread = none ∧ s.mem.wf = true ∧ s.mem.bad2 (spadKey 0 release0.addr) 8 = none ∧ ((s.core 0).issuing = true ∧ release0.notBefore = (s.core 0).ic) ∧ release0.cmds = [] ∧
      (s.core 0).portsUsed = [] := by unfold At; decide +kernel
theorem witness_release_later : let s := atPlace (withCore { running with releases := [release0], ic := 1 }) (.core 0)
    release0.notBefore < (s.core 0).ic ∧ (s.core 0).portsUsed = [] ∧ ({ s.mem with ecc2 := [spadKey 0 0xFFFF8] } : Memory).bad2 (spadKey 0 release0.addr) 8 ≠ none := by decide +kernel
def ring : Hoop := ⟨0x1000, 0, 1, 0, 0, 0, true⟩
def tileBuf : TileBuf := ⟨ring, false, List.replicate 64 5, List.replicate 64 0, []⟩
def cpyCmd (dst src : BitVec 512) : Cmd :=
  { id := 0, kind := .cpy, dst, src, arrival := none, started := true, off := 0, total := 64, bytes := 0, after := [], fault := none, handler := false, ic := 0, ready := 0, tiles := [], owned := 0, finished := false, dealt := [] }
def engineCore (k : Cmd) : Core := { running with engines := Core.reset.engines.set 0 ⟨[k], 1, []⟩, h := Core.reset.h.set 1 ring }
/-- A walk onto hoop 1: bit 23 of the base, and the hoop's number from bit 20 on. -/
def tileCmd : Cmd := { cpyCmd (walk1 (2 ^ 23 + 2 ^ 20) 7 8 3 0) (walk1 0 7 8 3 0) with tiles := [(0, tileBuf)] }
theorem witness_hoop_push : let s := atPlace (withCore (engineCore tileCmd)) (.asker (.engine 0 0 0))
    At s (.asker (.engine 0 0 tileCmd.id)) ∧ s.cmdOf (.engine 0 0 tileCmd.id) = some tileCmd ∧ tileCmd.kind = .cpy ∧ walkHoop tileCmd.dst = some 1 ∧ tileCmd.tiles = [(0, tileBuf)] ∧ s.mem.wf = true ∧ tileCmd.fault = none ∧ tileBuf.full = true ∧
      tileBuf.stale = false ∧ (s.core 0).h[(1 : HReg)].fill < (s.core 0).h[(1 : HReg)].count + 1 ∧ tileCmd.arrival = none ∧ s.heldUp (.engine 0 0 tileCmd.id) = false := by unfold At; decide +kernel
/-- A second command behind one that pushes into a full hoop. -/
def behindCmd : Cmd := { tileCmd with id := 1 }
theorem witness_held_up : let s := withCore { running with engines := Core.reset.engines.set 0 ⟨[tileCmd, behindCmd], 2, []⟩, h := Core.reset.h.set 1 { ring with fill := 2 } }
    s.cmdOf (.engine 0 0 behindCmd.id) = some behindCmd ∧ behindCmd.fault = none ∧ s.heldUp (.engine 0 0 behindCmd.id) = true := by decide +kernel
theorem witness_hoop_full : let c : Core := { engineCore tileCmd with h := Core.reset.h.set 1 { ring with fill := 2 } }
    (withCore c).cmdOf (.engine 0 0 tileCmd.id) = some tileCmd ∧ c.h[(1 : HReg)].count + 1 ≤ c.h[(1 : HReg)].fill := by decide +kernel
theorem witness_hoop_faulted : let k : Cmd := { tileCmd with fault := some 5 }
    (withCore (engineCore k)).cmdOf (.engine 0 0 k.id) = some k ∧ k.kind = .cpy ∧ walkHoop k.dst = some 1 ∧ k.tiles = [(0, tileBuf)] ∧ k.fault ≠ none := by decide +kernel
theorem witness_hoop_counts : let k : Cmd := { tileCmd with arrival := some (spadKey 0 0xFFFF0) }
    let s := withCore (engineCore k)
    let d := (s.core 0).h[(1 : HReg)]
    s.cmdOf (.engine 0 0 k.id) = some k ∧ k.fault = none ∧ k.arrival = some (spadKey 0 0xFFFF0) ∧ s.mem.bad2 (spadKey 0 0xFFFF0) 16 = none ∧ d.fill < d.count + 1 ∧ s.heldUp (.engine 0 0 k.id) = false ∧
      (let at_ := d.base + d.tail % (d.count + 1) * (64 * (d.lines + 1)); at_ + tileBuf.bytes.length ≤ 0xFFFF0) := by decide +kernel
def forward0 (n : Nat) : Forward := ⟨1, 0, 1, List.replicate n 5, [], none⟩
theorem witness_forward : let s := atPlace (withCore { running with h := Core.reset.h.set 1 ring, forwards := [forward0 64] }) (.core 0)
    let d := (s.core 0).h[(1 : HReg)]
    At s (.core 0) ∧ (s.core 0).forwards = [forward0 64] ∧ (forward0 64).at_ ≤ s.clock ∧ s.mem.wf = true ∧ (forward0 64).stale = none ∧ ({ forward0 64 with stale := some 0xFFFC0 } : Forward).stale = some 0xFFFC0 ∧ (forward0 64).tile.length ≤ 64 * (d.lines + 1) ∧ d.valid = true ∧ d.fill < d.count + 1 ∧
      64 * (d.lines + 1) < (forward0 65).tile.length ∧ ({ d with fill := 2 } : Hoop).count + 1 ≤ ({ d with fill := 2 } : Hoop).fill := by unfold At; decide +kernel
theorem witness_transpose : let s := atPlace (withCore { running with h := (Core.reset.h.set 1 ring).set 2 { ring with fill := 2 }, trans := some (1, [5], []) }) (.core 0)
    At s (.core 0) ∧ (s.core 0).trans = some (1, [5], []) ∧ (s.core 0).h[(1 : HReg)].fill < (s.core 0).h[(1 : HReg)].count + 1 ∧ (s.core 0).h[(2 : HReg)].count + 1 ≤ (s.core 0).h[(2 : HReg)].fill := by unfold At; decide +kernel

/-- CopyProgress. ElementCopied: a copy of eight words to the scratchpad's end, without an arrival word and with one. -/
def localCmd : Cmd := cpyCmd (walk1 0xFFFC0 7 8 3 0) (walk1 0 7 8 3 0)
theorem witness_copy : let s := atPlace (withCore (engineCore localCmd)) (.cmd 0 0)
    At s (.cmd 0 localCmd.id) ∧ s.cmdOf (engineCmd 0 localCmd.id) = some localCmd ∧ localCmd.kind = .cpy ∧ localCmd.started = true ∧ localCmd.fault = none ∧ s.mem.wf = true ∧ walkKind localCmd.dst = 0 ∧ walkKind localCmd.src = 0 ∧
      walkPaged localCmd.dst = 0 ∧ walkPaged localCmd.src = 0 ∧ walkHoop localCmd.dst = none ∧ walkEsize localCmd.dst = 3 ∧ walkEsize localCmd.src = 3 ∧ localCmd.off % 8 = 0 ∧ localCmd.off < localCmd.total := by unfold At; decide +kernel
theorem witness_copy_walks : let s := atPlace (withCore (engineCore localCmd)) (.cmd 0 0)
    s.heldUp (engineCmd 0 localCmd.id) = false ∧ (s.core 0).writes = [] ∧ localCmd.arrival = none ∧ walkAt localCmd.src (localCmd.off / 8) = (0 : Nat) ∧ walkAt localCmd.dst (localCmd.off / 8) = (0xFFFC0 : Nat) ∧ walkDims localCmd.src ≤ 6 ∧ walkDims localCmd.dst ≤ 6 ∧
      0 % 8 = 0 ∧ 0xFFFC0 % 8 = 0 ∧ 0 + 8 ≤ 0x10_0000 ∧ 0xFFFC0 + 8 ≤ 0x10_0000 ∧ (s.core 0).sp.preen = false ∧ s.mem.devError (spadKey 0 0) 8 true = (0, 0) := by decide +kernel
theorem witness_copy_counts : let k : Cmd := { localCmd with arrival := some (spadKey 0 0xFFFB0) }
    let s := atPlace (withCore (engineCore k)) (.cmd 0 0)
    At s (.cmd 0 k.id) ∧ s.cmdOf (engineCmd 0 k.id) = some k ∧ s.heldUp (engineCmd 0 k.id) = false ∧ 0xFFFB0 % 16 = 0 ∧ 0xFFFB0 + 16 ≤ 0xFFFC0 ∧ s.mem.bad2 (spadKey 0 0xFFFB0) 16 = none := by unfold At; decide +kernel
/-- CommandsEnd: a command that is not done, a finished one, and faulted ones without an arrival word and with one. -/
def doneCmd : Cmd := { localCmd with off := 64, bytes := 64 }
def faultedCmd (a : Option Nat) : Cmd := { localCmd with fault := some 5, arrival := a }
def queued (k : Cmd) : Option Cmd := (((withCore (engineCore k)).core 0).engines[(Fin.ofNat 2 (k.id / 2 ^ 15))]).queue.find? fun x => x.id == k.id
theorem witness_commands_end : queued localCmd = some localCmd ∧ (engineCore localCmd).cmdDone localCmd = false ∧ queued doneCmd = some doneCmd ∧ (engineCore doneCmd).cmdDone doneCmd = true ∧ doneCmd.fault = none ∧
    (withCore (engineCore doneCmd)).mem.wf = true ∧ At (atPlace (withCore (engineCore doneCmd)) (.cmd 0 0)) (.cmd 0 doneCmd.id) := by unfold At; decide +kernel
theorem witness_commands_fault : let k := faultedCmd none
    let y := faultedCmd (some (spadKey 2047 0xFFFF0))
    queued k = some k ∧ (engineCore k).cmdDone k = true ∧ k.fault = some 5 ∧ k.arrival = none ∧ queued y = some y ∧ (engineCore y).cmdDone y = true ∧ y.arrival = some (spadKey 2047 0xFFFF0) ∧
      State.reset.mem.bad2 (spadKey 2047 0xFFFF0) 16 = none := by decide +kernel
/-- RecallsComplete: a line that the host's copy owns, one that a tier move owns, and one of a command, with an arrival word, without, and after a fault. -/
def owned0 : Owned := ⟨0x1000, .host 3, putBytes 0x1000 [5], none, 1, [(0, .tinkerCacheFill, .line 0 0x1000)]⟩
theorem witness_recall : let s := atPlace { State.reset with owned := [owned0] } (.memLine 0x1000)
    At s (.memLine 0x1000) ∧ s.ownerOf 0x1000 = some owned0 ∧ owned0.owner = .host 3 ∧ owned0.cv = none ∧ s.mem.wf = true ∧ ({ owned0 with owner := .move 1 } : Owned).owner = .move 1 := by unfold At; decide
theorem witness_recall_command : let o : Owned := { owned0 with owner := .cmd (.engine 0 0 0) }
    let at_ (k : Cmd) : State := atPlace { withCore (engineCore k) with owned := [o] } (.memLine 0x1000)
    let k1 : Cmd := { localCmd with owned := 1 }
    let k2 : Cmd := { k1 with fault := some 5 }
    let k3 : Cmd := { k1 with arrival := some (spadKey 0 0xFFFB0) }
    (at_ k1).ownerOf 0x1000 = some o ∧ (at_ k1).cmdOf (.engine 0 0 k1.id) = some k1 ∧ k1.fault = none ∧ k1.arrival = none ∧ (at_ k2).cmdOf (.engine 0 0 k2.id) = some k2 ∧ k2.fault ≠ none ∧
      (at_ k3).cmdOf (.engine 0 0 k3.id) = some k3 ∧ k3.arrival = some (spadKey 0 0xFFFB0) ∧ ((at_ k3).mem.putDev o.puts).bad2 (spadKey 0 0xFFFB0) 16 = none := by decide +kernel

/-! ### Events of tinkers, channels and the memory system -/

/-- A module whose station at node 0 has a leaf for the first GiB, with every permission, that maps it to itself. -/
def leaf0 : TLeaf := ⟨0, 30, 0, 15, 0, false⟩
def station0 : Station := { Station.empty with entries := [⟨0, 0, leaf0, 0⟩] }
def mapped (c : Core) : State := { withCore c with stations := [(0, station0)] }
/-- PorterRequests: an atomic addition to the word at 0x2000 with its record at 0x100 of the scratchpad; an element copied to 0x3000. -/
def atomCmd : Cmd := { localCmd with kind := .catom ⟨.add, .b64, true⟩ .device (spadKey 0 0x100) 0x2000 5 0, arrival := some (spadKey 0 0x100) }
def asking (k : Cmd) : State := { mapped (engineCore k) with cur := .event (.asker (.engine 0 0 0)) }
def askEv : Ev := (.porterRequest, .asker (.engine 0 0 0))
theorem witness_porter_atomic : let s := asking atomCmd
    ∃ s', (At s (.asker (.engine 0 0 atomCmd.id)) ∧ s.cmdOf (.engine 0 0 0) = some atomCmd ∧ atomCmd.fault = none ∧ atomCmd.finished = false ∧ atomCmd.started = true ∧ s.heldUp (.engine 0 0 0) = false) ∧
      Granted s s' (s.reqOf (.engine 0 0 0) askEv) 0x2000 3 8 0x2000 leaf0 ∧ s'.cores = s.cores ∧ s'.mem.wf = true ∧ s'.mem.devError 0x2000 8 true = (0, 0) ∧ s'.mem.bad2 (spadKey 0 0x100) 16 = none ∧
      0x2000 + 8 ≤ spadKey 0 0x100 ∧ ∀ i, i < 8 → roByte (0x2000 + i) = false :=
  ⟨_, ⟨rfl, rfl, rfl, rfl, rfl, rfl⟩, ⟨rfl, rfl⟩, rfl, by decide +kernel, by decide +kernel, by decide +kernel, by decide +kernel, by decide +kernel⟩
/-- One that has not started, and may; and one behind a command that has not started; and behind one that pushes into a full hoop. -/
theorem witness_porter_starts : let k : Cmd := { atomCmd with started := false }
    let s := asking k
    s.cmdOf (.engine 0 0 0) = some k ∧ k.started = false ∧ s.heldUp (.engine 0 0 0) = false ∧ s.mayStart (.engine 0 0 0) k = true ∧
      ({ s with clock := 0, cores := [(0, engineCore { k with ready := 1 })] } : State).mayStart (.engine 0 0 0) { k with ready := 1 } = false := by decide +kernel
theorem witness_porter_held : let k : Cmd := { atomCmd with id := 1 }
    let s := withCore { running with engines := Core.reset.engines.set 0 ⟨[tileCmd, k], 2, []⟩, h := Core.reset.h.set 1 { ring with fill := 2 } }
    s.cmdOf (.engine 0 0 1) = some k ∧ k.fault = none ∧ k.finished = false ∧ s.heldUp (.engine 0 0 1) = true := by decide +kernel
def farCmd : Cmd := cpyCmd (walk1 0x3000 7 8 3 2) (walk1 0 7 8 3 0)
theorem witness_porter_walks : let k := farCmd
    k.kind = .cpy ∧ k.started = true ∧ walkKind k.dst = 2 ∧ walkKind k.src = 0 ∧ walkPaged k.dst = 0 ∧ walkPaged k.src = 0 ∧ walkEsize k.dst = 3 ∧ walkEsize k.src = 3 ∧ walkDims k.src ≤ 6 ∧ walkDims k.dst ≤ 6 ∧ k.off % 8 = 0 ∧ k.off < k.total ∧
      walkAt k.src (k.off / 8) = (0 : Nat) ∧ walkAt k.dst (k.off / 8) = (0x3000 : Nat) := by decide +kernel
theorem witness_porter_copy : let s := asking farCmd
    let key := spadKey 0 0
    let s2 : State := { s.usePorts (keyCore key) key 8 false with mem := s.mem.scrub key 8 }
    let s' := (s2.reach (s.reqOf (.engine 0 0 0) askEv) 0x3000 8).1
    (s.cmdOf (.engine 0 0 0) = some farCmd ∧ s.heldUp (.engine 0 0 0) = false ∧ (s.core 0).writes = [] ∧ (s.core 0).sp.preen = false ∧ s.mem.devError key 8 true = (0, 0)) ∧ Granted s2 s' (s.reqOf (.engine 0 0 0) askEv) 0x3000 1 8 0x3000 leaf0 ∧
      s'.cores = s2.cores ∧ s'.mem.wf = true ∧ s'.slicesFull [0x3000] = false :=
  ⟨⟨rfl, rfl, rfl, rfl, by decide +kernel⟩, ⟨rfl, rfl⟩, rfl, by decide +kernel, by decide +kernel⟩
/-- The other seven elements of the line can be moved with the first; and the last element is moved alone. -/
theorem witness_porter_line : let s := asking farCmd
    let key := spadKey 0 0
    let s2 : State := { s.usePorts (keyCore key) key 8 false with mem := s.mem.scrub key 8 }
    let s' := (s2.reach (s.reqOf (.engine 0 0 0) askEv) 0x3000 8).1
    let x := s'.gather (.engine 0 0 0) (s.reqOf (.engine 0 0 0) askEv) farCmd 0x3000 64 1
    (match x.2 with | .ok l => l.length == 56 | _ => false) = true ∧ (x.1.cmdOf (.engine 0 0 0)).isSome = true ∧
      (let k : Cmd := { farCmd with off := 56 }; k.off + 8 = k.total ∧ k.off % 8 = 0 ∧ walkAt k.src (k.off / 8) = (56 : Nat) ∧ walkAt k.dst (k.off / 8) = (0x3038 : Nat)) := by decide +kernel

/-- TinkerCacheEvents: a fill with no load that waits, and with one; a write-back of a dirty line. -/
theorem witness_fill : let s := atPlace (mapped running) (.line 0 0x1000)
    ∃ s', (At s (.line 0 0x1000) ∧ (s.core 0).line 0x1000 = none ∧ 0x1000 % 64 = 0) ∧ LineGranted s s' (s.coreReq 0 (.tinkerCacheFill, .line 0 0x1000)) 0x1000 0 0x1000 leaf0 ∧ leaf0.state = 0 ∧
      s'.mem.devError 0x1000 64 false = (0, 0) ∧ ((s.core 0).cache.filter fun x => cacheSet x.line == cacheSet 0x1000).length < 8 ∧ (s.core 0).waitingFor 0x1000 = [] :=
  ⟨_, ⟨rfl, rfl, rfl⟩, ⟨rfl, rfl, rfl⟩, rfl, by decide +kernel, by decide +kernel, rfl⟩
def pending0 (k : TWaitKind) : TPending := ⟨0, false, 0, [], none, none, some k, 0x100, 0, false, 0⟩
def loading0 : TPending := { pending0 (.load .i64 3 0x1008) with dests := [3], mem := some (true, 0x1008, 8) }
def threadWith (p : TPending) : Core := { running with threads := Core.reset.threads.set 0 { thread0 with pend := [p], seq := 1 } }
theorem witness_fill_load : let s := atPlace (mapped (threadWith loading0)) (.line 0 0x1000)
    ∃ s', ((s.core 0).line 0x1000 = none ∧ (s.core 0).waitingFor 0x1000 = [((0 : Fin 64).val, loading0)] ∧ loading0.kind = some (.load .i64 3 0x1008) ∧ loading0.mem = some (true, 0x1008, ldBytes .i64) ∧ 0x1008 / 64 * 64 = 0x1000) ∧
      LineGranted s s' (s.coreReq 0 (.tinkerCacheFill, .line 0 0x1000)) 0x1008 0 0x1000 leaf0 ∧ leaf0.permits 0 0 = true ∧ (s.coreReq 0 (.tinkerCacheFill, .line 0 0x1000)).tenant = 0 ∧ s'.mem.cvOf 0x1000 = 0 :=
  ⟨_, ⟨rfl, by decide +kernel, rfl, rfl, rfl⟩, ⟨rfl, rfl, rfl⟩, rfl, rfl, by decide +kernel⟩
def dirtyLine : CacheLine := ⟨0x1000, 5, 1, 0, true, true⟩
theorem witness_writeback : let s := atPlace (mapped { running with cache := [dirtyLine] }) (.line 0 0x1000)
    ∃ s', (At s (.line 0 0x1000) ∧ (s.core 0).line 0x1000 = some dirtyLine ∧ dirtyLine.dirty ≠ 0 ∧ dirtyLine.line = 0x1000 ∧ 0x1000 % 64 = 0) ∧
      Granted s s' (s.coreReq 0 (.tinkerWriteback, .line 0 0x1000)) 0x1000 1 64 0x1000 leaf0 ∧ s'.mem.wf = true :=
  ⟨_, ⟨rfl, rfl, by decide, rfl, rfl⟩, ⟨rfl, rfl⟩, rfl⟩
/-- TinkerFetches: a thread that has nothing fetched; the word at its program counter is ADD t5, t6, t7, or a word of no instruction; its line is in the instruction cache, or comes from memory. -/
def fetching (cells : List Host.Cell) (ic : List (Nat × Nat)) : State :=
  { mapped { running with threads := Core.reset.threads.set 0 thread0, icache := ic } with cur := .event (.thread 0 0), mem := ⟨cells, [], [], []⟩ }
theorem witness_fetch : let s := fetching [(0x100, 0x07), (0x101, 0x43), (0x102, 0x01), (0x103, 0x02)] []
    let h := (s.core 0).threads[(0 : Fin 64)]
    let w := 0b0000001_0000_0000101_0000110_0000111#32
    ∃ s', (At s (.thread 0 0) ∧ h.status = .ready ∧ h.fetched = none ∧ h.leaving = false ∧ h.pc = 0x100 ∧ (s.core 0).icache = []) ∧
      LineGranted s s' (s.coreReq 0 (.tinkerInstructionFetch, .thread 0 0)) h.pc 2 0x100 leaf0 ∧ leaf0.state = 0 ∧
      s'.mem.devError 0x100 64 true = (0, 0) ∧ BitVec.ofNat 32 (natOf (s'.mem.bytes 0x100 64) / 2 ^ (8 * (h.pc % 64))) = w ∧ tinkerHasExt w = false ∧ decodeTinker w 0 = .ok (.tAdd 5 6 7) ∧
      outsideWindow w.toNat 0 h.size = false :=
  ⟨_, ⟨rfl, rfl, rfl, rfl, rfl, rfl⟩, ⟨rfl, rfl, rfl⟩, rfl, by decide +kernel, by decide +kernel, rfl, rfl, by decide +kernel⟩
theorem witness_fetch_hit : let s := fetching [] [(0x100, 0x02014307)]
    let h := (s.core 0).threads[(0 : Fin 64)]
    let w := BitVec.ofNat 32 (0x02014307 / 2 ^ (8 * (h.pc % 64)))
    (s.core 0).icache.find? (fun l => l.1 == h.pc / 64 * 64) = some (0x100, 0x02014307) ∧ tinkerHasExt w = false ∧ decodeTinker w 0 = .ok (.tAdd 5 6 7) ∧ outsideWindow w.toNat 0 h.size = false := ⟨rfl, rfl, rfl, by decide +kernel⟩
theorem witness_fetch_illop : let s := fetching [] []
    let h := (s.core 0).threads[(0 : Fin 64)]
    ∃ s', LineGranted s s' (s.coreReq 0 (.tinkerInstructionFetch, .thread 0 0)) h.pc 2 0x100 leaf0 ∧ s'.mem.devError 0x100 64 true = (0, 0) ∧
      BitVec.ofNat 32 (natOf (s'.mem.bytes 0x100 64) / 2 ^ (8 * (h.pc % 64))) = 0 ∧ tinkerHasExt 0 = false ∧ ∃ x, decodeTinker 0 0 = .error x :=
  ⟨_, ⟨rfl, rfl, rfl⟩, by decide +kernel, by decide +kernel, by decide +kernel, _, rfl⟩

/-- ThreadRequests: a thread with one operation that waits: a fence, an exit without a word of a ready thread and of a parked one, a theft where no queue holds a frame and where this core's deque holds one. -/
def waiting (k : TWaitKind) : State := { soloState (threadWith (pending0 k)) with cur := .event (.asker (.thread 0 0 0)) }
theorem witness_fence_request : let s := waiting .fence
    let h := (s.core 0).threads[(0 : Fin 64)]
    At s (.asker (.thread 0 0 (pending0 .fence).seq)) ∧ h.op (pending0 .fence).seq = some (pending0 .fence) ∧ (pending0 .fence).kind = some .fence ∧
      h.pend.any (fun q => decide (q.seq < (pending0 .fence).seq) && q.orphan == (pending0 .fence).orphan) = false := by unfold At; decide
theorem witness_exit_request : let p := pending0 (.release true none .core false)
    let s := waiting (.release true none .core false)
    let h := (s.core 0).threads[(0 : Fin 64)]
    At s (.asker (.thread 0 0 p.seq)) ∧ h.op p.seq = some p ∧ h.pend.any (fun q => decide (q.seq < p.seq) && q.orphan == p.orphan) = false ∧ h.status = .ready ∧
      ({ h with status := .parked 6 0 0x1000 false } : Thread).status = .parked 6 0 0x1000 false := by unfold At; decide
theorem witness_steal_request : let p := pending0 (.steal 1 3)
    let s := waiting (.steal 1 3)
    (((s.core 0).threads[(0 : Fin 64)]).op p.seq = some p ∧ p.kind = some (.steal 1 3) ∧ s.launchOf 0 = some solo) ∧ ∃ s1, s.stealFrom solo 0 (min 3 solo.stealDom) = (s1, none) := ⟨⟨rfl, rfl, rfl⟩, _, rfl⟩
theorem witness_steal_found : let p := pending0 (.steal 1 0)
    let s : State := { soloState { threadWith p with deque := [⟨0x4000, 0, 0⟩] } with cur := .event (.asker (.thread 0 0 0)) }
    s.launchOf 0 = some solo ∧ ∃ s1, s.stealFrom solo 0 (min 0 solo.stealDom) = (s1, some 0x4000) := ⟨rfl, _, rfl⟩
/-- A walk for one request: the tables that lead to the first GiB, and none. -/
def req0 : TransReq := ⟨0, 0, 0x1_2345, 0⟩
def walk0 : Walk := ⟨0, 0, 1, [⟨(.tinkerCacheFill, .line 0 0x12340), req0, 0⟩]⟩
/-- Space 0: the root table at 0x1_0000, the next at 0x2_0000, and there a leaf of 1 GiB for address 0, with every permission. -/
def tableCells : List Host.Cell := [(0, 1), (3, 1), (0x10000, 1), (0x10003, 2), (0x20000, 0x3F)]
def walking (cells : List Host.Cell) : State := { State.reset with walks := [walk0], mem := ⟨cells, [], [], []⟩, cur := .event (.walk 0 req0) }
theorem witness_walk : let s := walking tableCells
    At s (.walk 0 req0) ∧ 0 < 128 ∧ s.walks = [walk0] ∧ walk0.station = 0 ∧ walk0.space = req0.space ∧ walk0.page = req0.va / 2 ^ 16 ∧ s.walkTables req0.space (req0.va / 2 ^ 16 * 2 ^ 16) = .leaf leaf0 0x20000 ∧
      (s.station 0).find req0.space (req0.va / 2 ^ 16 * 2 ^ 16) = none ∧ (({ s with stations := [(0, station0)] } : State).station 0).find req0.space (req0.va / 2 ^ 16 * 2 ^ 16) ≠ none := by
  unfold At; decide +kernel
theorem witness_walk_fails : let s := walking []
    s.walks = [walk0] ∧ s.walkTables req0.space (req0.va / 2 ^ 16 * 2 ^ 16) = .fault 1 3 ∧ ∃ x, walk0.waiting = [x] ∧ x.req.va / 2 ^ 16 = req0.va / 2 ^ 16 := ⟨rfl, rfl, _, rfl, rfl⟩

/-- Translation: an address of 2^48, a page that is cached with and without the permission, and one that is not. -/
def asks (c : Nat) : Req := ⟨(.tinkerCacheFill, .line 0 0), 0, 0, 0, 0, c⟩
theorem witness_translation : let s := mapped running
    1 < 4 ∧ s.answers = [] ∧ 2 ^ 48 ≤ 2 ^ 48 ∧ (s.station 0).find 0 0x1000 = some ⟨0, 0, leaf0, 0⟩ ∧ leaf0.perms.testBit 1 = true ∧ (asks 0).tenant = leaf0.owner ∧ s.stateOk leaf0 0x1000 = true ∧ isFormat leaf0.state = false ∧
      (s.station 0).find 0 (2 ^ 30) = none ∧ (s.station 0).find 1 0 = none := by decide
theorem witness_translation_refused : let l : TLeaf := { leaf0 with perms := 1 }
    let s : State := { State.reset with stations := [(0, { Station.empty with entries := [⟨0, 0, l, 0⟩] })] }
    (s.station 0).find 0 0x1000 = some ⟨0, 0, l, 0⟩ ∧ ¬ (l.perms.testBit 1 = true ∧ ((asks 0).tenant = l.owner ∨ (l.shared = true ∧ 1 = 0))) := by decide

/-- A cached page whose state allows no address, and a format page that is written. -/
theorem witness_translation_states : let l : TLeaf := { leaf0 with state := 5 }
    let f : TLeaf := { leaf0 with state := 2, size := 16, page := 0x100_0000_0000 }
    let s : State := { State.reset with stations := [(0, { Station.empty with entries := [⟨0, 0, l, 0⟩] })] }
    (s.station 0).find 0 0x1000 = some ⟨0, 0, l, 0⟩ ∧ (l.perms.testBit 1 = true ∧ 0 = l.owner) ∧ s.stateOk l 0x1000 = false ∧ f.perms.testBit 1 = true ∧ s.stateOk f 0x1000 = true ∧ isFormat f.state = true ∧ 1 % 2 = 1 := by decide
/-- ChannelArrivals: the next message of a receiving endpoint, one that is not the next, allowances for a sending endpoint, an acknowledgement of the second message retained. -/
def chanState (e : Endpoint) (p : List (Instr × EvArg)) (a : EvArg) : State := { soloState { running with endpoints := Core.reset.endpoints.set 2 e } with pending := p, cur := .event a }
theorem witness_message : let s := chanState (receiver []) [(.channelMessageArrival, .msg 0 2 7)] (.msg 0 2 7)
    let e := (s.core (0 % 2 ^ 11)).endpoints[(Fin.ofNat 16 2 : Chan)]
    2 < 16 ∧ s.here 0 = true ∧ At s (.msg 0 2 7) ∧ s.firstMsg 0 2 7 = true ∧ e.mode = 2 ∧ e.peer ≠ none ∧ e.sealed = false := by unfold At; decide +kernel
/-- The same endpoint, sealed, and its sender. -/
theorem witness_message_sealed : let e : Endpoint := { receiver [] with sealed := true, peer := some (1, 3) }
    let s : State := { chanState e [(.channelMessageArrival, .msg 0 2 7)] (.msg 0 2 7) with cores := [(0, { running with endpoints := Core.reset.endpoints.set 2 e }), (1, { running with endpoints := Core.reset.endpoints.set 3 { sender 1 4 with peer := some (0, 2) } })] }
    let g := (s.core 1).endpoints[(3 : Chan)]
    s.here 0 = true ∧ At s (.msg 0 2 7) ∧ s.firstMsg 0 2 7 = true ∧ e.mode = 2 ∧ e.peer ≠ none ∧ e.sealed = true ∧ (1 : Nat) ≠ 0 % 2 ^ 11 ∧ g.peer = some (0, 2) ∧ g.mode = 1 ∧ g.path ≠ 2 := by unfold At; decide
theorem witness_message_later : (chanState (receiver []) [(.channelMessageArrival, .msg 0 2 8)] (.msg 0 2 7)).firstMsg 0 2 7 = false := by decide
theorem witness_allowance : let s := chanState (sender 1 0) [] (.allow 0 2 3)
    s.here 0 = true ∧ At s (.allow 0 2 3) ∧ ((s.core (0 % 2 ^ 11)).endpoints[(Fin.ofNat 16 2 : Chan)]).resend = [] := by unfold At; decide +kernel
theorem witness_ack : let s := chanState { sender 5 0 with retained := [2 ^ 480 * 6, 2 ^ 480 * 7] } [] (.ack 0 2 7)
    s.here 0 = true ∧ At s (.ack 0 2 7) ∧ ((s.core (0 % 2 ^ 11)).endpoints[(Fin.ofNat 16 2 : Chan)]).retained = [2 ^ 480 * 6] ++ 2 ^ 480 * 7 :: [] ∧ 2 ^ 480 * 7 / 2 ^ 480 % 2 ^ 32 = 7 ∧
      ∀ y ∈ [2 ^ 480 * 6], y / 2 ^ 480 % 2 ^ 32 ≠ 7 := by unfold At; decide +kernel

/-- PorterPrograms. RunsStart: a resident context with a program at porter 5, whose go word at 0x2800 is above RUNS, and one whose go word is not; its run block at 0x2840, and one in no page; a launch of its tag that is saved. -/
def ctxAt (runva : Nat) (r : Option Run) : PCtx := { ctag := 1, record := BitVec.ofNat 512 (2 ^ 45 + 2 ^ 112 * 0x2800 + 2 ^ 176 * runva + 2 ^ 240 * 0x2C00), runs := 0, run := r, frozen := none, held := [] }
def ctx0 (r : Option Run) : PCtx := ctxAt 0x2840 r
def portState (c : PCtx) (cells : List Host.Cell) : State := { State.reset with porters := [(5, ⟨[c]⟩)], stations := [(1, station0)], mem := ⟨cells, [], [], []⟩, cur := .event (.porter 5 1) }
def porterState (r : Option Run) : State := portState (ctx0 r) [(0x2800, 1)]
def startEv : Ev := (.porterRunStart, .porter 5 1)
/-- The states and answers of a start: the context resident, its go word read, its run block read. -/
def starts (s : State) (c : PCtx) : State × (State × Reply (List Byte)) × (State × Reply (List Byte)) :=
  let s1 := (s.resident 5 1).getD s
  let g := s1.ctxRead 5 1 c.gova 8 startEv
  (s1, g, g.1.runBlock 5 1 c.runva startEv 10)
theorem witness_run_start : let s := porterState none
    let c := ctx0 none
    let x := starts s c
    At s (.porter 5 1) ∧ 5 < 512 ∧ s.runsBarred 1 = false ∧ s.resident 5 1 = some x.1 ∧ x.1.ctx 5 1 = some c ∧ c.frozen = none ∧ c.run = none ∧ c.prog = true ∧ x.2.1.2 = .ok [1, 0, 0, 0, 0, 0, 0, 0] ∧ x.2.1.1.ctx 5 1 = some c ∧
      c.runs.toNat < natOf [1, 0, 0, 0, 0, 0, 0, 0] ∧ x.2.1.1.running 5 < 6 ∧ x.2.2.1.ctx 5 1 = some c ∧ x.2.2.2 = .ok (List.replicate 640 0) := by unfold At; decide +kernel
theorem witness_run_not_due : let s := portState (ctx0 none) []
    let x := starts s (ctx0 none)
    s.resident 5 1 = some x.1 ∧ x.2.1.2 = .ok (List.replicate 8 0) ∧ x.2.1.1.ctx 5 1 = some (ctx0 none) ∧ natOf (List.replicate 8 0) ≤ (ctx0 none).runs.toNat := by decide +kernel
/-- No page of the run block permits a read: the table has no entry for it, as a walk answered. -/
theorem witness_run_block_fault : let c := ctxAt 0x8000_0000 none
    let s : State := { portState c [(0x2800, 1)] with answers := [{ ev := startEv, space := 0, page := 0x8000, res := .fault 1 3 }] }
    let x := starts s c
    s.resident 5 1 = some x.1 ∧ x.2.1.2 = .ok [1, 0, 0, 0, 0, 0, 0, 0] ∧ x.2.1.1.ctx 5 1 = some c ∧ x.2.2.1.ctx 5 1 = some c ∧ x.2.2.2 = .fault 6 := by decide +kernel
theorem witness_runs_barred : ({ porterState none with launches := [{ solo with ctag := 1, phase := .saved }] } : State).runsBarred 1 = true := by decide
/-- RunsEnd: a run that has ended, well and with a fault, with its status word at 0x2C00. -/
def run0 (f : Option (Nat × Nat)) : Run := ⟨Vector.replicate 16 0, Vector.replicate 8 0, 2, [], true, f⟩
def endEv : Ev := (.porterRunEnd, .porter 5 1)
theorem witness_run_end : let r := run0 none
    let c := ctx0 (some r)
    let s := porterState (some r)
    let q := s.reqOf (.step 5 1 r.next) endEv
    let x := s.reach q 0x2C00 16
    (At s (.porter 5 1) ∧ s.ctx 5 1 = some c ∧ c.run = some r ∧ r.ended = true ∧ r.steps = [] ∧ c.frozen = none ∧ r.fault = none) ∧ (s.translate q c.statva 1).1 = s ∧ (s.translate q c.statva 1).2 = .ok (0x2C00, leaf0) ∧ x.2 = .ok () ∧
      (x.1.ctx 5 1).isSome = true ∧ x.1.mem.wf = true ∧ x.1.mem.bad2 0x2C00 16 = none ∧ (∀ i, i < 16 → roByte (0x2C00 + i) = false) := by unfold At; decide +kernel
theorem witness_run_fault : (run0 (some (6, 1))).fault = some (6, 1) := rfl
/-- TierMoves: a promotion of the page at 0x4_0000, whose leaf at 0x2_0000 is as the move found it, with a free frame and without one; and the same move at its end. -/
def move0 : Move := ⟨3, 0, 0x10000, 0x20000, 0x40000, 0x50000, true, 0, 1, 0, 0, false⟩
def moving (m : Move) (cells : List Host.Cell) : State := { State.reset with moves := [m], mem := ⟨cells, [], [], []⟩, mgmt := { Mgmt.reset with smrbase := 0x8000 }, cur := .event (.num 3) }
def leafCells : List Host.Cell := [(0x20000, 0x3F), (0x20001, 1), (0x20003, 4)]
theorem witness_move : let s := moving move0 ((0x8008, 2) :: leafCells)
    let e := s.tableEntry move0.leafAt
    At s (.num move0.id) ∧ s.moves = [move0] ∧ move0.started = false ∧ s.owned = [] ∧ e % 4 = 3 ∧ entryAddr e = move0.src ∧ e / 2 ^ 8 % 2 ^ 8 = move0.srcState ∧ s.mem.wf = true ∧ s.mem.read 0x8008 4 ≠ 0 ∧
      0x8008 = s.mgmt.smrbase + 128 * move0.space + (if move0.promote then 8 else 24) ∧ 0x8008 + 4 ≤ move0.leafAt + 1 := by unfold At; decide +kernel
theorem witness_move_none : let s := moving move0 leafCells
    let e := s.tableEntry move0.leafAt
    e % 4 = 3 ∧ entryAddr e = move0.src ∧ e / 2 ^ 8 % 2 ^ 8 = move0.srcState ∧ s.mem.read 0x8008 4 = 0 := by decide +kernel
theorem witness_move_ends : let m : Move := { move0 with started := true }
    let s := moving m ((0x8001, 0x90) :: leafCells)
    At s (.num m.id) ∧ s.moves = [m] ∧ m.started = true ∧ s.mem.wf = true ∧ isNear m.src = true ∧ s.smr m.space 0 48 + 8 * s.mem.read 0x8008 4 = 0x9000 ∧ 0x8000 + 128 ≤ m.leafAt ∧ 0x8000 + 128 ≤ m.dst ∧ 0x8000 + 128 ≤ 0x9000 ∧
      m.leafAt + 16 ≤ m.dst ∧ 0x9000 + 8 ≤ m.leafAt ∧ 0x9000 + 8 ≤ m.dst ∧ isFormat m.srcState = false := by unfold At; decide +kernel

/-! ### The host port and the command processor -/

/-- A ready device with queue 3 enabled, and the command WAIT in its ring and in its window. -/
def hostQueue : Queue := { Queue.reset with en := true, inline := 5, cqbase := 0x10000 }
def hostState : State := { State.reset with ready := true, queues := State.reset.queues.set 3 hostQueue, mem := ⟨[(2 ^ 47, 5)], [], [], []⟩ }
theorem witness_doorbells : let s := atPlace hostState (.queue 3 0 1)
    let x := s.queue 3
    let ring := 2 ^ (min x.sqsize 8 + 4)
    At s (.queue 3 0 1) ∧ 3 < 64 ∧ 0 < 17 ∧ s.ready = true ∧ (s.fn 0).frozen = none ∧ x.en = true ∧ (1 % 2 ^ 16 + ring - x.sqhead % ring) % ring = 1 ∧ s.mem.read (2 ^ 47 + (x.sqbase + 128 * (x.sqhead % ring)) % 2 ^ 64) 128 = 5 ∧
      cmdInstr (5 % 256) = some .cmdWait ∧ 5 / 2 ^ 10 % 2 ^ 22 = 0 ∧ 5 % 256 < 0x10 ∧ x.inline = 5 ∧ 1 % 2 = 1 ∧ s.held = [] ∧ s.power = true ∧ (s.queue 4).en = false ∧ 0 % 2 = 0 := by unfold At; decide +kernel
theorem witness_doorbell_frozen : let s : State := { hostState with fns := hostState.fns.set 1 ⟨0, 0, 0, some 7, 6⟩ }
    s.ready = true ∧ (s.fn 1).frozen ≠ none := by decide
theorem witness_completion : let s := hostState
    let q := s.queue 3
    s.mem.wf = true ∧ q.cqused < 2 ^ (q.cqsize + 4) ∧ (s.fn q.fn).frozen = none ∧ s.held.all (fun h => h.q != 3) = true ∧ 0xFFFFFFFF < 2 ^ 32 ∧ 2 ^ (q.cqsize + 4) ≤ ({ q with cqused := 16 } : Queue).cqused ∧ vecOwned q.fn q.vec = true := by decide

/-- FN of 16, and of 17. -/
theorem witness_register_fn : 0x400 / 2 ^ 6 % 32 ≤ 16 ∧ 16 < 0x440 / 2 ^ 6 % 32 := by decide
/-- RegistersAndWindows: register writes of the PF; a queue of function 2; a mapped window; a function with a launch. -/
theorem witness_register : let s := atPlace hostState (.reg 0 (0x10_0000 + 4096 * 63) 7)
    At s (.reg 0 (0x10_0000 + 4096 * 63) 7) ∧ s.power = true ∧ (s.fn 0).frozen = none ∧ 63 < 64 ∧ s.launches = [] ∧ ({ s with launches := [square] } : State).launches ≠ [] := by unfold At; decide +kernel
theorem witness_register_vf : let s := atPlace { hostState with queues := hostState.queues.set 5 { Queue.reset with fn := 2 } } (.reg 2 0x010 0)
    At s (.reg 2 0x010 0) ∧ 0 < 2 ∧ 2 < 17 ∧ s.power = true ∧ (s.fn 2).frozen = none ∧ ((List.range 64).filter fun q => (s.queue q).fn == 2) = [5] := by unfold At; decide +kernel
def windowState (a : EvArg) (behind : List HostAccess) : State := { mapped Core.reset with ready := true, bar2 := behind, cur := .event a }
def windowReq (i : Instr) : Req := { ev := (i, .num 0), station := 0, space := 0, tenant := 0, ctag := 0, who := 0 }
def readAccess : HostAccess := ⟨0, 0x1000, 8, none, 0⟩
def readWindow : State := windowState (.reg 0 0x1000 8) []
def writeBytes : List Byte := [1, 2, 3, 4, 5, 6, 7, 8]
def writeAccess : HostAccess := ⟨0, 0xFF8, 8, some writeBytes, 0⟩
def writeWindow : State := windowState (.bytes 0 0xFF8 writeBytes) []
/-- An access that has been put behind none of its function. -/
def first (s : State) (i : Instr) (a : EvArg) (x : HostAccess) : State := { s.unpost i a with bar2 := s.bar2 ++ [x] }
theorem witness_bar2_read : let s := readWindow
    let s0 := first s .bar2Read (.reg 0 0x1000 8) readAccess
    let r := windowReq .bar2Read
    (At s (.reg 0 0x1000 8) ∧ 0 < 17 ∧ 0 < 8 ∧ 0x1000 % 4096 + 8 ≤ 4096 ∧ s.bar2.any (fun x => x.fn == 0) = false) ∧ (s0.translate r ((s.fn 0).win * 2 ^ 30 + 0x1000) 0).1 = s0 ∧
      (s0.translate r ((s.fn 0).win * 2 ^ 30 + 0x1000) 0).2 = .ok (0x1000, leaf0) ∧ (s0.reach r 0x1000 8).2 = .ok () ∧ leaf0.state = 0 ∧ (s0.reach r 0x1000 8).1.mem.failing leaf0 0x1000 8 = [] := by unfold At; decide +kernel
theorem witness_bar2_open : let s := readWindow
    let g := s.fn 0
    ¬ (s.ready = false ∨ g.frozen ≠ none ∨ 2 ^ (30 + min g.bar 6) < 0x1000 + 8) ∧ g.space = 0 ∧ g.tenant = 0 ∧ (windowState .unit [readAccess]).bar2.any (fun x => x.fn == 0) = true ∧ State.reset.ready = false ∧
    2 ^ (30 + min 0 6) < 0x4000_0000 + 8 := by decide
/-- The line that fails its check is named once. -/
theorem witness_bar2_poisoned : ({ readWindow.mem with ecc2 := [0x1000] } : Memory).failing leaf0 0x1000 8 = [0x1000] := by decide +kernel
theorem witness_bar2_write : let s := writeWindow
    let s0 := first s .bar2Write (.bytes 0 0xFF8 writeBytes) writeAccess
    let r := windowReq .bar2Write
    (At s (.bytes 0 0xFF8 writeBytes) ∧ writeBytes.length = 8 ∧ 0xFF8 % 4096 + 8 ≤ 4096 ∧ s.bar2.any (fun x => x.fn == 0) = false) ∧ (s0.translate r ((s.fn 0).win * 2 ^ 30 + 0xFF8) 1).1 = s0 ∧
      (s0.translate r ((s.fn 0).win * 2 ^ 30 + 0xFF8) 1).2 = .ok (0xFF8, leaf0) ∧ (s0.reach r 0xFF8 8).2 = .ok () ∧ (s0.reach r 0xFF8 8).1.mem.wf = true := by unfold At; decide +kernel
/-- A byte of a group record's read-only fields. -/
theorem witness_bar2_read_only : roByte (groupAddr 3 + 31) = true ∧ roByte (groupAddr 3 + 32) = false ∧ roByte 0xFF8 = false := by decide
theorem witness_function_reset : let s := atPlace { hostState with launches := [{ solo with fn := 2 }] } (.num 2)
    At s (.num 2) ∧ 0 < 2 ∧ 2 < 17 ∧ s.power = true ∧ (s.fn 2).frozen = none ∧ s.cmds = [] ∧ (s.launches.map (·.id)).Nodup ∧ ∀ l ∈ s.launches, l.fn = 2 ∧ l.phase ≠ .saved := by unfold At; decide +kernel

/-! ### Launches and host commands -/

/-- A ready device with queue 3 enabled, space 0 mapped, and one command at the head of the queue. -/
def cmdState (body : Nat) (started : Bool) : State :=
  { State.reset with ready := true, queues := State.reset.queues.set 3 { Queue.reset with en := true }, mem := ⟨tableCells, [], [], []⟩, cmds := [⟨9, 3, body, started, 0, 0, 0, [], 0, 0⟩], cur := .event (.num 9) }
def cmd0 (body : Nat) (started : Bool) : HostCmd := ⟨9, 3, body, started, 0, 0, 0, [], 0, 0⟩
/-- LAUNCH of one core: the image at 0x4_0000, the shape record at 0x5_0000. -/
def launchBody : Nat := 1 + 2 ^ 64 * 0x4_0000 + 2 ^ 208 * 0x5_0000
/-- Whether a standing says that the launch fits. -/
def standFits (x : Standing) : Bool := match x with | .fits _ _ => true | _ => false
theorem standFits_eq {x : Standing} (h : standFits x = true) : ∃ r t, x = .fits r t := by
  cases x <;> simp_all [standFits]
theorem witness_launch : let s := cmdState launchBody false
    let k := cmd0 launchBody false
    At s (.num k.uid) ∧ s.hostCmd k.uid = some k ∧ s.launches.find? (fun l => l.uid == k.uid && l.graph.isNone) = none ∧ standFits (s.standing (s.queue k.q) k.uid k.body) = true ∧ s.freeCtag = some 1 := by unfold At; decide +kernel
theorem witness_launch_turn : (cmdState launchBody false).chosen (cmd0 launchBody false) = true := by decide +kernel
theorem witness_launch_refused : let k := cmd0 (launchBody + 2 ^ 124) false
    let s := cmdState k.body false
    s.chosen k = true ∧ s.standing (s.queue k.q) k.uid k.body = .refused 1 := by decide +kernel
/-- GRAPH of one node: its record at 0x6_0000 has count 1 and no predecessors, and its LAUNCH body follows at 1,024. -/
def graphBodyNum : Nat := 2 + 2 ^ 64 * 0x6_0000
def graphCells : List Host.Cell := [(0, 1), (3, 1), (0x10000, 1), (0x10003, 2), (0x20000, 0x3F), (0x60000, 1), (0x60400, 1), (0x6040A, 4), (0x6041C, 5)]
def graphState : State := { cmdState graphBodyNum false with mem := ⟨graphCells, [], [], []⟩ }
def graph0 : Graph := ⟨9, 0x6_0000, [0], [0], [launchBody]⟩
theorem witness_graph : let s := graphState
    let k := cmd0 graphBodyNum false
    s.hostCmd k.uid = some k ∧ k.started = false ∧ s.graphRecord (s.queue k.q) k.uid (k.field 15 8) = some graph0 := by decide +kernel
theorem witness_graph_turn : graphState.chosen (cmd0 graphBodyNum false) = true := by decide +kernel
theorem witness_graph_refused : let k := cmd0 (graphBodyNum + 2 ^ 64) false
    let s := cmdState k.body false
    s.chosen k = true ∧ s.graphRecord (s.queue k.q) k.uid (k.field 15 8) = none := by decide +kernel
theorem witness_graph_node : let s : State := { graphState with cmds := [cmd0 graphBodyNum true], graphs := [graph0], cur := .event (.node 9 0) }
    At s (.node 9 0) ∧ s.graphOf 9 = some graph0 ∧ s.hostCmd 9 = some (cmd0 graphBodyNum true) ∧ graph0.uid = 9 ∧ s.launches.find? (fun l => l.graph == some (9, 0)) = none ∧ graph0.ready 0 = true ∧
      standFits (s.standing (s.queue 3) 9 (graph0.bodies.getD 0 0)) = true ∧ s.freeCtag = some 1 ∧ s.launchBusy (graph0.bodies.getD 0 0) = false := by unfold At; decide +kernel
/-- Its shape record's first line is owned. -/
theorem witness_graph_busy : let s : State := { graphState with cmds := [cmd0 graphBodyNum true], graphs := [graph0], owned := [⟨0x5_0000, .host 3, [], none, 0, []⟩] }
    s.launchBusy (graph0.bodies.getD 0 0) = true ∧ s.recordBad (s.queue 3) (graph0.bodies.getD 0 0) = false := by decide +kernel
/-- A launch whose rectangle is taken, and one that is saved, on the logic strata; one that retires. -/
def placed (p : Phase) : Launch := { solo with cores := [1024], z := 4, body := launchBody + 2 ^ 352, uid := 9, phase := p, started := false }
theorem witness_broadcast : let s : State := { cmdState launchBody true with launches := [placed .placing] }
    let l := placed .placing
    At s (.num l.uid) ∧ s.hostCmd l.uid = some (cmd0 launchBody true) ∧ s.launches = [l] ∧ l.graph = none ∧ l.phase = .placing ∧ s.launchBusy l.body = false ∧ ({ s with owned := [⟨0x5_0000, .host 3, [], none, 0, []⟩] } : State).launchBusy l.body = true ∧ (s.launchTables l.body).isSome = true ∧ s.resolves l = true ∧ l.groupSlot = none ∧ l.cores.Nodup ∧
      s.mem.wf = true ∧ ∀ c ∈ l.cores, c < 2048 := by unfold At; decide +kernel
theorem witness_resume : let s : State := { State.reset with launches := [placed .saved], cur := .event (.launch 0) }
    let l := placed .saved
    At s (.launch l.id) ∧ s.launches = [l] ∧ l.groupSlot = none ∧ l.phase = .saved ∧ s.canResume l = true ∧ l.ownHandler = true ∧ l.cores.Nodup := by unfold At; decide +kernel
theorem witness_retire : let s : State := { State.reset with launches := [placed .retiring], cur := .event (.launch 0) }
    let l := placed .retiring
    At s (.launch l.id) ∧ s.launches = [l] ∧ l.phase = .retiring ∧ l.groupSlot = none ∧ (∀ c ∈ l.cores, (s.core c).outstandingCmds = [] ∧ (s.core c).dirtyLines = []) ∧ s.runsOf l.ctag = false ∧ l.graph = none ∧
      s.hostCmd l.uid = none := by unfold At; decide +kernel

/-- HostCommands: each command at its turn, and started. Bytes 8 to 15 of the body stand from bit 64 on, 16 to 23 from bit 128, 24 to 31 from bit 192. -/
def hostBody (op a b c : Nat) : Nat := op + 2 ^ 64 * a + 2 ^ 128 * b + 2 ^ 192 * c
theorem witness_turns : [hostBody 4 7 5 0, hostBody 5 7 0 0, hostBody 3 (2 ^ 63) (2 ^ 63 + 64) (2 ^ 40), hostBody 3 0 0 (2 ^ 40 + 1), hostBody 0x10 4 0 0, hostBody 0x10 5 0 0, hostBody 0x11 0x8000 0 0, hostBody 0x12 0 0 0, hostBody 0x13 0xFFFF 0 0,
    hostBody 0x14 (2 ^ 16 * 511 + 2 ^ 32 * 4095 + 2 ^ 48) 0x7000 0, hostBody 0x15 0 0 0].all (fun b => (cmdState b false).chosen (cmd0 b false)) = true := by decide +kernel
theorem witness_host_command : let k := cmd0 (hostBody 4 7 5 0) true
    let s := cmdState k.body true
    At s (.num k.uid) ∧ s.hostCmd k.uid = some k ∧ k.started = true ∧ s.earlierDone k = true ∧ (s.queue k.q).fn = 0 ∧ s.writersDirty = [] ∧ s.writersCopy k = false ∧ s.owned = [] ∧ s.mem.wf = true := by unfold At; decide +kernel
/-- A queue of function 2; whether a token is its own is the part's (log 27), so the premise holds or the other clause's does. -/
theorem witness_token_fn : let s : State := { cmdState (hostBody 4 7 5 0) false with queues := State.reset.queues.set 3 { Queue.reset with en := true, fn := 2 } }
    (s.queue 3).fn ≠ 0 ∧ s.chosen (cmd0 (hostBody 4 7 5 0) false) = true := by decide +kernel
theorem witness_host_copy : let k := cmd0 (hostBody 3 (2 ^ 63) (2 ^ 63 + 32) 64) true
    let f (hi lo : Nat) := k.body / 2 ^ (8 * lo) % 2 ^ (8 * (hi - lo) + 8)
    let s := cmdState k.body true
    k.off < f 31 24 ∧ (f 15 8 + k.off) / 2 ^ 63 % 2 = 1 ∧ (f 23 16 + k.off) / 2 ^ 63 % 2 = 1 ∧ s.mem.devError (2 ^ 47) 32 true = (0, 0) ∧ ({ k with off := 64 } : HostCmd).off = f 31 24 := by decide +kernel
/-- A COPY whose writer has a copy command outstanding. -/
theorem witness_copy_behind : let k : HostCmd := { cmd0 (hostBody 3 (2 ^ 63) (2 ^ 63 + 32) 64) true with behind := [(0, 0)] }
    let s : State := { cmdState k.body true with cmds := [k], cores := [(0, engineCore localCmd)] }
    s.hostCmd k.uid = some k ∧ k.started = true ∧ k.off = 0 ∧ s.writersCopy k = true := by decide +kernel
theorem witness_partition : badPartition 4 = false ∧ 4 % 16 = State.reset.stkN ∧ badPartition 5 = false ∧ 5 % 16 ≠ State.reset.stkN ∧ 3 ≤ State.reset.stkN := by decide
def sequence0 (c : Bool) : Sequence := ⟨9, c, 2, 3, false, 0, 0, 0, 0, 0, 0x8000⟩
theorem witness_sequence : let s : State := { cmdState (hostBody 0x10 3 0 0) true with sequence := some (sequence0 false) }
    s.sequence = some (sequence0 false) ∧ (sequence0 false).uid = 9 ∧ (sequence0 false).step = 2 ∧ (sequence0 false).new ≤ s.stkN ∧ s.owned = [] := by decide +kernel
theorem witness_checkpoint : let s : State := { cmdState (hostBody 0x11 0x8000 0 0) true with sequence := some (sequence0 true) }
    (sequence0 true).checkpoint = true ∧ s.quiet = true ∧ ({ s with moves := [move0] } : State).quiet = false ∧ hostBody 0x11 0x8000 0 0 / 2 ^ 128 % 2 ^ 64 / 2 ^ 5 % 8 = 0 := by decide +kernel
theorem witness_checkpoint_begins : let s : State := { cmdState (hostBody 0x11 0x8000 0 0) true with sequence := some { sequence0 true with step := 1 } }
    ({ sequence0 true with step := 1 } : Sequence).step = 1 ∧ s.toDrain = [] ∧ s.runsToEnd = [] := by decide +kernel
def violation0 : Violation := ⟨1, 0, 0, 0, 5, 4, 5, 0⟩
theorem witness_freeze_clear : let b := hostBody 0x12 6 0 0
    let s : State := { cmdState b false with cores := [(0, { running with run := .frozen violation0 false })], coreFreeze := [(0, 6)] }
    b / 2 ^ 64 % 2 ^ 32 = 6 ∧ b / 2 ^ 96 % 2 ^ 32 = 0 ∧ b / 2 ^ 128 % 2 ^ 64 = 0 ∧ (s.startCmd (cmd0 b false)).frozenBy 6 = some (.core 0 violation0 false) ∧ violation0.kind ≠ 4 ∧ (s.startCmd (cmd0 b false)).frozenBy 7 = none := by decide +kernel
theorem witness_htset : let b := hostBody 0x14 (2 ^ 16 * 511 + 2 ^ 32 * 4095 + 2 ^ 48) 0x7000 0
    let f (hi lo : Nat) := b / 2 ^ (8 * lo) % 2 ^ (8 * (hi - lo) + 8)
    f 11 10 = 511 ∧ f 13 12 = 4095 ∧ f 15 14 = 1 ∧ f 13 12 + f 15 14 ≤ 4096 ∧ f 23 16 = 0x7000 ∧ State.reset.hasMemory 0x7000 = true ∧ State.reset.hasMemory (0x7000 + 16 - 1) = true := by decide +kernel

/-- R400: a write delivered before the doorbell holds the command, one delivered after it does not. -/
theorem witness_earlier_write : let k : HostCmd := { cmd0 launchBody false with since := 1 }
    let s : State := { cmdState launchBody false with cmds := [k], bar2 := [writeAccess] }
    writeAccess ∈ s.bar2 ∧ writeAccess.data.isSome = true ∧ writeAccess.fn = k.by_ ∧ writeAccess.since < k.since ∧ s.chosen k = false := by decide +kernel
theorem test_later_write : let k := cmd0 launchBody false
    ({ cmdState launchBody false with bar2 := [{ writeAccess with since := 1 }] } : State).chosen k = true := by decide +kernel
/-! ### Power, errors, the fabric -/

def bring (f : Option Nat) (v : Nat) : BringUp := ⟨8, 3, v, 1, f⟩
theorem witness_bring_up : let s := atPlace { State.reset with rollback := 2 } (.bringUp (bring none 2))
    At s (.bringUp (bring none 2)) ∧ s.ready = false ∧ s.fail = false ∧ (bring none 2).failStep = none ∧ 1 ≤ (bring none 2).strata ∧ (bring none 2).strata ≤ 8 ∧ s.rollback ≤ (bring none 2).fwver ∧ s.mem.wf = true ∧
      (bring none 1).fwver < s.rollback ∧ (bring (some 5) 2).failStep = some 5 ∧ 5 ≤ 5 ∧ (bring (some 6) 2).failStep = some 6 ∧ (bring (some 7) 2).failStep = some 7 ∧ s.rollback ≤ (bring (some 6) 2).fwver := by unfold At; decide
theorem witness_power : let s := atPlace State.reset .unit
    At s .unit ∧ s.mem.wf = true ∧ s.power = true ∧ s.thermal = false ∧ ({ s with thermal := true } : State).thermal = true ∧ 29 ≤ 34 := by unfold At; decide
theorem witness_bit_errors : let s := atPlace State.reset (.bit (.single 0x1007 3))
    At s (.bit (.single 0x1007 3)) ∧ 0x1007 / 8 * 8 ∉ s.mem.ecc1 ∧ 0x1007 / 8 * 8 ∉ s.mem.ecc2 ∧ 0x1007 / 8 * 8 ∈ ({ s.mem with ecc1 := [0x1000] } : Memory).ecc1 ∧ s.mem.wf = true ∧ 17 < 18 := by unfold At; decide

/-- A module with route 5, whose local end is endpoint 2 of core 0: ENABLED, MODE of the end, CORE 0, endpoint 2 in bits [46:43]. -/
def routeCells (rx : Nat) : List Host.Cell := [(fabricBase + 32 * 5, BitVec.ofNat 8 (1 + 2 * rx)), (fabricBase + 32 * 5 + 5, 0x10)]
def endpoint2 (mode : Nat) : Endpoint := { Endpoint.empty with config := mode + 16 + 2 ^ 20 * 5, peer := some (0, 2), grantOut := 4 }
def fabricState (mode : Nat) (r : Route) (f : Flit) : State :=
  { soloState { running with endpoints := Core.reset.endpoints.set 2 (endpoint2 mode) } with ready := true, mem := ⟨routeCells (mode - 1), [], [], []⟩, routes := [(5, r)], cur := .event (.flit f) }
def oneRoute : Route := { Route.empty with retained := [(7, 0)] }
/-- The first 252 bytes of a flit with a header and words, and with one line slot and its descriptor. -/
def wordBody (h : FlitHead) (ws : List Nat) : List Byte := bytesOf 16 (h.word 0) ++ ws.flatMap (bytesOf 4) ++ List.replicate (236 - 4 * ws.length) 0
def slotBody (h : FlitHead) (line desc : Nat) : List Byte := bytesOf 16 (h.word 0) ++ bytesOf 64 line ++ List.replicate 134 0 ++ bytesOf 8 desc ++ List.replicate 30 0
def msgBytes : List Byte := closeFlit (slotBody { type := 1, nslot := 1, dst := 0, src := 0, route := 5 } (2 ^ 480 * 6) 0)
/-- They pass their checks (R404). -/
theorem witness_msg_ok : flitOk msgBytes = true := flitOk_close _ (by decide +kernel) (by decide +kernel)
theorem witness_msg_flit_at : At (fabricState 2 oneRoute ⟨17, msgBytes⟩) (.flit ⟨17, msgBytes⟩) := rfl
theorem witness_msg_flit : let f : Flit := ⟨17, msgBytes⟩
    let s := fabricState 2 oneRoute f
    f.port < 18 ∧ s.ready = true  ∧ flitHead f.bytes % 16 = 1 ∧ flitHead f.bytes / 2 ^ 4 % 4 = 1 ∧ flitRoute f.bytes = 5 ∧ bits (s.routeEntry 5) 47 47 = 0 := by decide +kernel
/-- Whether a route's end is endpoint 2 of core 0. -/
def endsHere (e : EndAt) : Bool := match e with | .here 0 2 => true | _ => false
theorem endsHere_eq {e : EndAt} (h : endsHere e = true) : e = .here 0 2 := by
  unfold endsHere at h
  split at h
  · rfl
  · cases h
theorem witness_msg_end : let s := fabricState 2 oneRoute ⟨17, msgBytes⟩
    let tag := messageTag (flitSlotData msgBytes 0 % 2 ^ 512)
    endsHere (s.routeEnd 5 2) = true ∧ ((s.core 0).ep 2).sealed = false ∧ tag = 6 ∧ tag ∉ (s.route 5).seen ∧ tag ∉ (s.route 5).prevSeen ∧ (s.route 5).seen.length < 4096 ∧
      tag ∈ ({ oneRoute with seen := [6] } : Route).seen ∧ tag ∉ ({ oneRoute with seen := [6] } : Route).acked := by decide +kernel
def grantBytes : List Byte := closeFlit (wordBody { type := 2, dst := 0, src := 0, route := 5, count := 3 } [])
theorem witness_grant_ok : flitOk grantBytes = true := flitOk_close _ (by decide +kernel) (by decide +kernel)
theorem witness_grant_flit_at : At (fabricState 1 Route.empty ⟨0, grantBytes⟩) (.flit ⟨0, grantBytes⟩) := rfl
theorem witness_grant_flit : let f : Flit := ⟨0, grantBytes⟩
    let s := fabricState 1 Route.empty f
    f.port < 18  ∧ flitHead f.bytes % 16 = 2 ∧ endsHere (s.routeEnd 5 1) = true ∧ ((s.core 0).ep 2).routeOf = 5 ∧ (s.route 5).resend = [] := by decide +kernel
def ackBytes (type : Nat) : List Byte := closeFlit (wordBody { type, dst := 0, src := 0, route := 5, count := 1 } [0])
theorem witness_ack_ok : flitOk (ackBytes 3) = true ∧ flitOk (ackBytes 4) = true :=
  ⟨flitOk_close _ (by decide +kernel) (by decide +kernel), flitOk_close _ (by decide +kernel) (by decide +kernel)⟩
theorem witness_ack_flit_at : At (fabricState 2 oneRoute ⟨0, ackBytes 3⟩) (.flit ⟨0, ackBytes 3⟩) := rfl
theorem witness_ack_flit : let f : Flit := ⟨0, ackBytes 3⟩
    let s := fabricState 2 oneRoute f
    flitHead f.bytes % 16 = 3 ∧ flitHead f.bytes / 2 ^ 112 % 2 ^ 8 = 1 ∧ flitRoute f.bytes = 5 ∧ swf Route.empty s.routes = true ∧ (s.route 5).retained = [] ++ (7, 0) :: [] ∧
      messageTag 7 = flitWord f.bytes 0 := by decide +kernel
theorem witness_refuse_flit_at : At (fabricState 2 oneRoute ⟨0, ackBytes 4⟩) (.flit ⟨0, ackBytes 4⟩) := rfl
theorem witness_refuse_flit : let f : Flit := ⟨0, ackBytes 4⟩
    let s := fabricState 2 oneRoute f
    flitHead f.bytes % 16 = 4 ∧ (7, 0) ∉ ([] : List (Nat × Nat)) ∧ bits (s.routeEntry 5) 1 1 ≠ 1 - 1 := by decide +kernel
/-- A route whose entry has the wrong direction ends nowhere. -/
theorem witness_refuse_end : ∀ core ch, (fabricState 2 oneRoute ⟨0, ackBytes 4⟩).routeEnd 5 1 ≠ .here core ch := by
  have h : bits ((fabricState 2 oneRoute ⟨0, ackBytes 4⟩).routeEntry 5) 1 1 ≠ 1 - 1 := by decide +kernel
  intro core ch
  unfold State.routeEnd
  simp only [if_pos (Or.inr h), ne_eq, reduceCtorEq, not_false_eq_true]
theorem witness_flit_dropped : let f : Flit := ⟨0, List.replicate 255 0⟩
    (1, Instr.msgFlit) ∈ flitTypes ∧ At (atPlace State.reset (.flit f)) (.flit f) ∧ f.port < 18 ∧ State.reset.ready = false ∧ flitHead f.bytes % 16 ≠ 1 := by unfold At; decide +kernel
theorem witness_flit_bad : crcOk (List.replicate 255 0) = false := by
  have h : ((List.replicate 255 (0 : Byte)).length == 256) = false := by rw [List.length_replicate]; decide
  unfold crcOk
  rw [h]
  simp only [Bool.false_and]
/-- A flit whose check passes and that is not of the type asked for; its link waits for nothing, or for another flit. -/
theorem witness_flit_crc : crcOk msgBytes = true := by
  have h := witness_msg_ok
  unfold flitOk at h
  simp only [Bool.and_eq_true] at h
  exact h.1.1
theorem witness_timeout : let s := atPlace { fabricState 1 oneRoute ⟨0, []⟩ with clock := 100 * 4000 } (.num 5)
    At s (.num 5) ∧ 5 < 65536 ∧ s.routeEntry 5 / 2 ^ 64 % 2 ^ 32 = 0 ∧ (s.route 5).retained = [(7, 0)] ∧ 100 * mhz s.stkN ≤ s.clock - 0 ∧ s.linkDown = false ∧ swf Route.empty s.routes = true ∧ (s.route 6).retained = [] ∧ (s.route 6).resend = [] ∧
      1 - 0 < 100 * mhz s.stkN := by unfold At; decide +kernel
def dataBytes : List Byte := closeFlit (slotBody { type := 10, nslot := 1, dst := 0, src := 0, route := 5 } 5 4)
theorem witness_data_ok : flitOk dataBytes = true := flitOk_close _ (by decide +kernel) (by decide +kernel)
theorem witness_data_flit_at : At (fabricState 2 Route.empty ⟨0, dataBytes⟩) (.flit ⟨0, dataBytes⟩) := rfl
theorem witness_data_flit : let f : Flit := ⟨0, dataBytes⟩
    let s := fabricState 2 Route.empty f
    flitHead f.bytes % 16 = 10 ∧ flitHead f.bytes / 2 ^ 4 % 4 = 1 ∧ s.routeEntry (flitRoute f.bytes) % 2 = 1 ∧ s.mem.wf = true ∧ s.peerLines = [] ∧ s.ownerOf 0x1000 = none ∧ ({ s with owned := [{ owned0 with line := 0x1000 }] } : State).ownerOf 0x1000 ≠ none := by decide +kernel
/-- Where a stream's line goes is the part's (log 29); any base in the first memory has memory there. -/
theorem witness_data_memory : State.reset.hasMemory ((0x1000 + 4 * (4 / 4)) / 64 * 64) = true := by decide

/-- A module that is member 0 of group 2, of three members on modules 0, 1 and 2. -/
def groupCells : List Host.Cell :=
  [(groupAddr 2 + 4, 3), (groupAddr 2 + 32, 10), (fabricBase + 0x30_0000 + 9216 * 2 + 2, 1), (fabricBase + 0x30_0000 + 9216 * 2 + 4, 2)]
def gang (p : Phase) : Launch := { solo with cores := [0], groupSlot := some 2, phase := p, epoch := 4, preen := true, body := 0 }
def groupFlit (type step : Nat) (ws : List Nat) : Flit := ⟨3, closeFlit (wordBody { type, dst := 0, src := 1, route := 2, step } ws)⟩
def groupState2 (g : Group) (p : Phase) (f : Flit) : State :=
  { withCore running with ready := true, launches := [gang p], mem := ⟨groupCells, [], [], []⟩, groups := [(2, g)], cur := .event (.flit f) }
def openGroup : Group := { Group.empty with commit := 9 }
def closedGroup : Group := { openGroup with closed := true, finals := [(2, 7)] }
/-- The links of the states of these witnesses take their flits. -/
theorem witness_flit_links : let s := fabricState 2 oneRoute ⟨17, msgBytes⟩
    let t : State := { s with links := [(17, ⟨5, true⟩)] }
    (2, Instr.grantFlit) ∈ flitTypes ∧ s.ready = true ∧ swf LinkIn.reset s.links = true ∧ (s.linkIn 17).takes (flitSeq msgBytes) = true ∧ flitHead msgBytes % 16 ≠ 2 ∧ swf LinkIn.reset t.links = true ∧ (t.linkIn 17).retry = true ∧
      (t.linkIn 17).next ≠ flitSeq msgBytes ∧ (s.linkIn 0).takes (flitSeq grantBytes) = true ∧ (s.linkIn 0).takes (flitSeq (ackBytes 3)) = true ∧ (s.linkIn 0).takes (flitSeq (ackBytes 4)) = true ∧
      (groupState2 openGroup .running (groupFlit 5 6 [])).links = [] ∧ (LinkIn.reset).takes 0 = true := by decide +kernel
theorem witness_group_ok : flitOk (groupFlit 5 6 []).bytes = true ∧ flitOk (groupFlit 6 0 [1]).bytes = true ∧ flitOk (groupFlit 7 6 []).bytes = true ∧ flitOk (groupFlit 8 6 []).bytes = true ∧
    flitOk (groupFlit 9 0 [0, 4, 0]).bytes = true ∧ flitOk (groupFlit 11 0 []).bytes = true :=
  ⟨flitOk_close _ (by decide +kernel) (by decide +kernel), flitOk_close _ (by decide +kernel) (by decide +kernel), flitOk_close _ (by decide +kernel) (by decide +kernel),
    flitOk_close _ (by decide +kernel) (by decide +kernel), flitOk_close _ (by decide +kernel) (by decide +kernel), flitOk_close _ (by decide +kernel) (by decide +kernel)⟩
theorem witness_group_flits : [groupFlit 5 6 [], groupFlit 6 0 [1], groupFlit 7 6 [], groupFlit 8 6 [], groupFlit 9 0 [0, 4, 0], groupFlit 11 0 []].all (fun f => decide (f.port < 18) && flitGroup f.bytes == 2 && flitSrc f.bytes == 1) = true ∧
    [groupFlit 5 6 [], groupFlit 6 0 [1], groupFlit 7 6 [], groupFlit 8 6 [], groupFlit 9 0 [0, 4, 0], groupFlit 11 0 []].map (fun f => flitHead f.bytes % 16) = [5, 6, 7, 8, 9, 11] := by decide +kernel
theorem witness_group_member : let s := groupState2 openGroup .running (groupFlit 5 6 [])
    s.memberOf 2 1 = some 1 ∧ s.mem.wf = true ∧ s.ready = true ∧ flitHead (groupFlit 5 6 []).bytes / 2 ^ 64 % 2 ^ 48 = 6 ∧ (s.group 2).closed = false ∧ s.launches = [gang .running] ∧ (gang .running).groupSlot = some 2 ∧
      (gang .running).phase = .running ∧ (gang .running).preen = true ∧ (gang .running).started = true ∧ s.runsOf (gang .running).ctag = false ∧ (∀ c ∈ (gang .running).cores, (s.core c).run ≠ .halted ∧ (s.core c).run ≠ .complete) ∧ ∀ c ∈ (gang .running).cores, (s.core c).live = true := by decide +kernel
theorem witness_group_collects : let s := groupState2 { closedGroup with finals := [(2, 7)] } .running (groupFlit 7 6 [])
    let y := s.group 2
    y.closed = true ∧ y.agreed = none ∧ s.actingAborter 2 = s.selfIndex 2 ∧ 1 ≠ s.selfIndex 2 ∧ ∀ k ∈ s.members 2, k = s.selfIndex 2 ∨ k = 1 ∨ (y.finals.find? fun f => f.1 == k).isSome := by decide +kernel
/-- The gate: the last READY opens it, and one of an earlier epoch does not. -/
theorem witness_group_gate : let s := groupState2 { openGroup with readies := [(0, 4), (2, 4)] } (.gate false) (groupFlit 9 0 [0, 4, 0])
    let b := (groupFlit 9 0 [0, 4, 0]).bytes
    flitWord b 0 = s.groupTable 2 % 2 ^ 32 ∧ (s.group 2).closed = false ∧ ((groupState2 closedGroup (.gate false) (groupFlit 9 0 [0, 4, 0])).group 2).closed = true ∧ (gang (.gate false)).phase = .gate false ∧ (gang (.gate false)).epoch ≤ flitWord b 1 + 2 ^ 32 * flitWord b 2 ∧ flitWord b 1 + 2 ^ 32 * flitWord b 2 ≠ 0 ∧
      (∀ k ∈ s.members 2, k ≠ 1 → (gang (.gate false)).epoch ≤ sget 0 (s.group 2).readies k) ∧ swf 0 (s.group 2).readies = true ∧ 3 < (gang (.gate false)).epoch := by decide +kernel
theorem witness_unreachable : let s := atPlace (groupState2 openGroup .running ⟨0, []⟩) (.member 2 1)
    At s (.member 2 1) ∧ 2 < 256 ∧ 1 < 4608 ∧ s.ready = true ∧ 1 < s.memberCount 2 ∧ 1 ≠ s.selfIndex 2 := by unfold At; decide +kernel
theorem witness_slice : let s := atPlace (groupState2 openGroup .running ⟨0, []⟩) (.launch 0)
    let l := gang .running
    At s (.launch l.id) ∧ s.launches.find? (fun k => k.id == l.id) = some l ∧ l.groupSlot = some 2 ∧ s.mem.wf = true ∧ l.phase = .running ∧ s.sliceUs 2 = 10 ∧ s.clock < l.released + s.sliceUs 2 * mhz s.stkN ∧
      l.released + s.sliceUs 2 * mhz s.stkN ≤ ({ s with clock := 100000 } : State).clock ∧ (gang .saved).phase ≠ .running := by unfold At; decide +kernel

/-! ### Rules by themselves, steps, invariants -/

theorem witness_seed : At (atPlace (withCore running) (.seed 0 0xDEADBEEF)) (.seed 0 0xDEADBEEF) := rfl
/-- BundlesInCodeMemory: code memory of zeros holds a bundle at its last header, and none beyond. -/
theorem witness_bundle : ∃ b, Core.reset.bundleAt 0x1FFFC = .ok b := ⟨_, rfl⟩
theorem witness_bundle_beyond : 0x2_0000 < 0x1FFFD + 4 ∧ Core.reset.owed = 0 := by decide
theorem witness_bundle_long : let c : Core := { Core.reset with code := [(0x1FFF8, 0x03)] }
    c.codeWord 0x1FFF8 = some 3 ∧ 0x2_0000 < 0x1FFF8 + 4 + 4 * ((List.range 12).filter fun i => (3 : BitVec 32).getLsbD i).length := by decide +kernel
theorem witness_bundle_error : ∃ r, ({ Core.reset with code := [(3, 0x80)] } : Core).bundleAt 0 = .error r := ⟨1, rfl⟩
/-- FreezeLog: a log below the host's memory; a function, a context and a running core that are not frozen. -/
theorem witness_freeze : let s := porterState none
    s.mem.wf = true ∧ s.mgmt.fzbase + 2 ^ 14 ≤ 2 ^ 47 ∧ 16 < 17 ∧ (s.fn 16).frozen = none ∧ s.ctx 5 1 = some (ctx0 none) ∧ (ctx0 none).frozen = none := by decide +kernel
theorem witness_freeze_core : let s := soloState running
    (s.core 0).writes = [] ∧ (s.core 0).acts = [] ∧ (s.core 0).run = .running ∧ ∀ l, s.launchOf 0 = some l → l.groupSlot = none :=
  ⟨rfl, rfl, rfl, fun l h => by cases h; rfl⟩
/-- SlotRoundTrip, TinkerRoundTrip: well-formed operations that have encodings. -/
theorem witness_slot_encoding : ∃ r, encSlot 3 (.bfx 1 (.s 2) ⟨60, 3, true⟩) = some (.s, r) ∧ (Instr.bfx 1 (.s 2) ⟨60, 3, true⟩).wf = true := ⟨_, rfl, by decide⟩
theorem witness_tinker_encoding : ∃ r, encT (.tbr (.al 0xFFFFFFFC)) = some r ∧ (Instr.tbr (.al 0xFFFFFFFC)).wf = true := ⟨_, rfl, by decide⟩
/-- StepRunsDecoded: an agenda whose head holds each kind of item. -/
def addRaw : RawSlot := rawOf 0x0100C082 none
theorem witness_step_slot : ({ State.reset with agenda := [.slot 0 0 true addRaw] } : State).agenda = .slot 0 0 true addRaw :: [] ∧ (parseSlot (classOf 0) addRaw).result = .ok (.add 3 (.s 1) (.s 2)) := ⟨rfl, rfl⟩
theorem witness_step_tinker : ({ State.reset with agenda := [.tinker 0 0 4 0x02014307 0] } : State).agenda = .tinker 0 0 4 0x02014307 0 :: [] ∧ decodeTinker 0x02014307 0 = .ok (.tAdd 5 6 7) ∧
    decodeTableWord 32 0x02014307 = some (.tAdd 5 6 7) := ⟨rfl, rfl, rfl⟩
theorem witness_step_event : ({ State.reset with agenda := [.event .nop .unit, .sys (.consider 0)] } : State).agenda = .event .nop .unit :: [.sys (.consider 0)] := rfl
/-- From reset the one action the machine may take is a cycle of its clock, whatever the picker says. -/
theorem witness_step_choice : State.reset.agenda = [] ∧ State.reset.choices[Config.pick State.reset.tick % State.reset.choices.length]? = some (.event .mainClockCycle .unit) := by
  refine ⟨rfl, ?_⟩
  have h : State.reset.choices = [.event .mainClockCycle .unit] := rfl
  rw [h]
  simp [Nat.mod_one]
theorem witness_slots_issue : Core.reset.resumeCaps = [] ∧ Core.reset.owed = 0 ∧ (∃ b, Core.reset.bundleAt Core.reset.pc = .ok b) ∧ ({ Core.reset with owed := 2 } : Core).owed ≠ 0 := ⟨rfl, rfl, ⟨_, rfl⟩, by decide⟩
/-- MemoryStaysCanonical: reset steps, and its memory is in form. -/
theorem witness_canonical : State.reset.mem.wf = true ∧ ∃ u, step { State.reset with agenda := [.event .mainClockCycle .unit] } = .next u := ⟨rfl, _, rfl⟩

end Sys2Proof.Tests
end

section
/-! The generators of stochastic rounding and the register that seeds them (R30). -/
namespace Sys2Proof.Machine

/-! ### The seed of a core -/

/-- R30: a seeded generator holds the seed against its own constant, 1 where that would be zero. -/
theorem getElem_seedGens (seed : BitVec 32) (g : Fin 129) :
    (seedGens seed)[g] =
      (let x := seed ^^^ BitVec.ofNat 32 (0x9E3779B9 * (g.val + 1)); if x = 0 then 1 else x) := by
  simp [seedGens, seedGen]

/-- A 32-bit value that the special-register path carries in 64 bits comes back whole. -/
theorem setWidth_zeroExtend_seed (v : BitVec 32) : (v.zeroExtend 64).setWidth 32 = v :=
  BitVec.setWidth_setWidth_of_le v (by decide)

@[simp] theorem Core.gens_setSpecial_srseed (c : Core) (v : BitVec 32) :
    (c.setSpecial .srseed (v.zeroExtend 64)).gens = seedGens v :=
  congrArg seedGens (setWidth_zeroExtend_seed v)
@[simp] theorem Core.getSpecial_setSpecial_srseed (c : Core) (v : BitVec 32) :
    (c.setSpecial .srseed (v.zeroExtend 64)).getSpecial .srseed = v.zeroExtend 64 :=
  congrArg (BitVec.setWidth 64) (setWidth_zeroExtend_seed v)
@[simp] theorem Core.s_setSpecial_srseed (c : Core) (x : Word) : (c.setSpecial .srseed x).s = c.s := rfl
@[simp] theorem Core.pc_setSpecial_srseed (c : Core) (x : Word) : (c.setSpecial .srseed x).pc = c.pc := rfl
/-- A read of SRSEED zero-extends the 32 bits it holds. -/
theorem Core.toNat_getSpecial_srseed (c : Core) : (c.getSpecial .srseed).toNat = c.sp.srseed.toNat :=
  BitVec.toNat_setWidth_of_le (by decide)

@[simp] theorem Core.getSpecial_reset_srseed : Core.reset.getSpecial .srseed = 0x2545F491 := rfl
@[simp] theorem Core.gens_reset : Core.reset.gens = seedGens 0x2545F491 := rfl

/-! ### What the event of a write and a read of a special register do -/

theorem execSrseedWrite_seed (s : State) (id : Nat) (v : BitVec 32) (h : s.cur = .event (.seed id v)) :
    execSrseedWrite s = .next (s.updCore id fun c => c.setSpecial .srseed (v.zeroExtend 64)) := by
  simp [execSrseedWrite, h]

/-- An update of one core leaves every other core, memory, the clock and the launches. -/
theorem onlyCore_updCore (s : State) (id : Nat) (f : Core → Core) : Claims.onlyCore s (s.updCore id f) id :=
  ⟨fun j hj => s.core_updCore_other id j f hj, rfl, rfl, rfl⟩

/-- A result into an s register is, in flight, what R57 says of it. -/
@[simp] theorem flight_landS (c : Core) (k : Slot) (d : SReg) (lat : Nat) (x : Word) (fl : Flags) :
    (landS d lat x fl).flight c k = Claims.inFlight c k (.s d) lat x.toNat fl := rfl

/-- R135: MOVS of any special register sends its value to an s register, to land one issue cycle later. -/
theorem execMovs_fly (s : State) (id : Nat) (k : Slot) (d : SReg) (r : SpecialReg)
    (hi : Claims.Issuing s id k) (hu : Claims.Unbound s id) :
    execMovs d r s = .next (Claims.fly s id k (.s d) 1 ((s.core id).getSpecial r).toNat) := by
  obtain ⟨hcur, hcaps⟩ := hi
  rw [execMovs, primOp_unbound _ _ s id k hcur hcaps hu rfl fun _ => rfl]
  simp [Claims.fly, -Nat.reducePow]

end Sys2Proof.Machine

namespace Sys2Proof.Proofs
open Sys2Proof Sys2Proof.Machine Sys2Proof.Claims

/-- Settles O51: the event puts the seed back into one core, whose generators and whose SRSEED are then the seed's. -/
theorem seedWrites : Obligations.SeedWrites := by
  unfold Obligations.SeedWrites
  refine ⟨fun s id v hat => ?write, fun s id k hi hu d => ?read, fun s id x => rfl, Core.getSpecial_reset_srseed, fun g => ?launch⟩
  case write =>
    refine ⟨_, execSrseedWrite_seed s id v hat, onlyCore_updCore s id _, ?_⟩
    rw [State.core_updCore_self]
    refine ⟨Core.getSpecial_setSpecial_srseed _ v, fun g => ?_, Core.s_setSpecial_srseed _ _, Core.pc_setSpecial_srseed _ _⟩
    rw [Core.gens_setSpecial_srseed]
    exact getElem_seedGens v g
  case read => rw [exec_movs, execMovs_fly s id k d .srseed hi hu, Core.toNat_getSpecial_srseed]
  case launch =>
    rw [Core.gens_reset]
    exact getElem_seedGens _ g

end Sys2Proof.Proofs
end

section
/-! How results land: their registers, latches, flags and causes (R35, R36, R53, R57, R58, R71, R262). -/
namespace Sys2Proof.Machine

/-! ### Masked values -/

/-- R57: where the mask is set the value lands, elsewhere the old bit stays. -/
theorem testBit_mergeBits (old mask x b : Nat) :
    (mergeBits old mask x).testBit b = if mask.testBit b then x.testBit b else old.testBit b := by
  cases hm : mask.testBit b <;> simp [mergeBits, hm]

/-- A bit of a register that a masked value lands in. -/
def landedBit {w : Nat} (mask x : Nat) (old : BitVec w) (b : Nat) : Bool := if mask.testBit b then x.testBit b else old.getLsbD b

theorem getLsbD_ofNat_mergeBits {w : Nat} (old : BitVec w) (mask x : Nat) {b : Nat} (hb : b < w) :
    (BitVec.ofNat w (mergeBits old.toNat mask x)).getLsbD b = landedBit mask x old b := by
  simp [landedBit, hb, testBit_mergeBits, BitVec.getLsbD]

/-- A masked value put into one register of a file. -/
theorem getLsbD_set_mergeBits {w n : Nat} (xs : Vector (BitVec w) n) (r q : Fin n) (mask x : Nat) {b : Nat} (hb : b < w) :
    ((xs.set r (BitVec.ofNat w (mergeBits (xs[r]).toNat mask x)))[q]).getLsbD b =
      if r = q then landedBit mask x xs[q] b else (xs[q]).getLsbD b := by
  by_cases h : r = q
  · subst h
    simpa using getLsbD_ofNat_mergeBits xs[r] mask x hb
  · have hv : r.val ≠ q.val := fun e => h (Fin.ext e)
    simp [h, hv]

/-- Mask bits beyond the register do not matter. -/
theorem landedBit_mod {w b : Nat} (mask x : Nat) (old : BitVec w) (hb : b < w) : landedBit (mask % 2 ^ w) x old b = landedBit mask x old b := by
  simp [landedBit, Nat.testBit_mod_two_pow, hb]

/-- A predicate keeps its value or takes bit 0 of the result. -/
theorem mergeBits_pred (old : Bool) (mask x : Nat) :
    (mergeBits old.toNat (mask % 2) x == 1) = if mask.testBit 0 then decide (x % 2 = 1) else old := by
  have hx : x &&& 1 = x % 2 := Nat.and_one_is_mod x
  rcases Nat.mod_two_eq_zero_or_one mask with h | h
  · cases old <;> simp [mergeBits, h]
  · rcases Nat.mod_two_eq_zero_or_one x with h' | h' <;> cases old <;> simp [mergeBits, h, h']

/-! ### A register and a latch that land -/

/-- A landing result changes no register file but that of its destination, and nothing else of the core but SCALEL. -/
structure LandsOnly (dst : Dest) (c t : Core) : Prop where
  s : (∀ q, dst ≠ .s q) → t.s = c.s
  p : (∀ q, dst ≠ .p q) → t.p = c.p
  v : (∀ q, dst ≠ .v q) → t.v = c.v
  d : (∀ q, dst ≠ .dir q) → t.d = c.d
  n : (∀ q, dst ≠ .norm q) → t.n = c.n
  m : (∀ q, dst ≠ .m q) → t.m = c.m
  w : (∀ q, dst ≠ .w q) → t.w = c.w
  scalel : dst ≠ .scalel → t.sp.scalel = c.sp.scalel
  rest : t = { c with s := t.s, p := t.p, v := t.v, d := t.d, n := t.n, m := t.m, w := t.w, sp := { c.sp with scalel := t.sp.scalel } }

theorem LandsOnly.refl (d : Dest) (c : Core) : LandsOnly d c c := by
  constructor <;> intros <;> rfl

theorem Core.landReg_only (c : Core) (d : Dest) (x mask : Nat) : LandsOnly d c (c.landReg d x mask).1 := by
  cases d with
  | s r =>
    rw [Core.landReg]; dsimp only
    split
    · exact .refl _ _
    · constructor <;> simp [-Nat.reducePow]
  | p r =>
    rw [Core.landReg]; dsimp only
    split
    · exact .refl _ _
    · constructor <;> simp
  | v r => constructor <;> simp [Core.landReg]
  | dir r => constructor <;> simp [Core.landReg]
  | norm r => constructor <;> simp [Core.landReg]
  | m r => constructor <;> simp [Core.landReg, -Nat.reducePow]
  | w r => constructor <;> simp [Core.landReg, -Nat.reducePow]
  | scalel => constructor <;> simp [Core.landReg]
  | nowhere => exact .refl _ _
  | matrix => exact .refl _ _

theorem Core.setLatch_eq (c : Core) (k : Slot) (y : Nat) :
    c.setLatch k y = { c with
      ls := if k = 0 then BitVec.ofNat 64 y else c.ls, lv0 := if k = 1 then BitVec.ofNat 2048 y else c.lv0,
      lv1 := if k = 2 then BitVec.ofNat 2048 y else c.lv1, lc0 := if k = 4 then BitVec.ofNat 64 y else c.lc0,
      lc1 := if k = 5 then BitVec.ofNat 64 y else c.lc1 } := by
  match k with
  | 0 | 1 | 2 | 3 | 4 | 5 => rfl


/-- R53, R57: an s register but s0 takes the masked result. -/
theorem Core.landReg_s (c : Core) (d : Dest) (x mask : Nat) (q : SReg) {b : Nat} (hb : b < 64) :
    ((c.landReg d x mask).1.s[q]).getLsbD b = if d = .s q ∧ q ≠ 0 then landedBit mask x c.s[q] b else (c.s[q]).getLsbD b := by
  cases d with
  | s r =>
    by_cases hr : r = 0
    · subst hr
      have hq : ¬(Dest.s 0 = Dest.s q ∧ q ≠ 0) := fun ⟨e, hne⟩ => hne (Dest.s.inj e).symm
      simp only [Core.landReg, if_true, if_neg hq]
    · simp only [Core.landReg, if_neg hr, getLsbD_set_mergeBits _ _ _ _ _ hb, landedBit_mod _ _ _ hb, Dest.s.injEq]
      by_cases h : r = q
      · simp [h, h ▸ hr]
      · simp [h]
  | _ => simp [(c.landReg_only _ x mask).s]

/-- R53, R57: a predicate but p0 takes bit 0 of a result that is not masked off. -/
theorem Core.landReg_p (c : Core) (d : Dest) (x mask : Nat) (q : Pred) :
    (c.landReg d x mask).1.p[q] = if d = .p q ∧ q ≠ 0 ∧ mask.testBit 0 then decide (x % 2 = 1) else c.p[q] := by
  cases d with
  | p r =>
    by_cases hr : r = 0
    · subst hr
      have hq : ¬(Dest.p 0 = Dest.p q ∧ q ≠ 0 ∧ mask.testBit 0) := fun ⟨e, hne, _⟩ => hne (Dest.p.inj e).symm
      simp only [Core.landReg, if_true, if_neg hq]
    · simp only [Core.landReg, if_neg hr, mergeBits_pred, Dest.p.injEq]
      by_cases h : r = q
      · subst h; simp [hr]
      · have hv : r.val ≠ q.val := fun e => h (Fin.ext e)
        simp [h, hv]
  | _ => simp [(c.landReg_only _ x mask).p]

theorem Core.landReg_v (c : Core) (d : Dest) (x mask : Nat) (q : VReg) {b : Nat} (hb : b < 2048) :
    ((c.landReg d x mask).1.v[q]).getLsbD b = if d = .v q then landedBit mask x c.v[q] b else (c.v[q]).getLsbD b := by
  cases d with
  | v r => simp only [Core.landReg, getLsbD_set_mergeBits _ _ _ _ _ hb, Dest.v.injEq]
  | _ => simp [(c.landReg_only _ x mask).v]

theorem Core.landReg_d (c : Core) (d : Dest) (x mask : Nat) (q : DReg) {b : Nat} (hb : b < 2048) :
    ((c.landReg d x mask).1.d[q]).getLsbD b = if d = .dir q then landedBit mask x c.d[q] b else (c.d[q]).getLsbD b := by
  cases d with
  | dir r => simp only [Core.landReg, getLsbD_set_mergeBits _ _ _ _ _ hb, Dest.dir.injEq]
  | _ => simp [(c.landReg_only _ x mask).d]

theorem Core.landReg_n (c : Core) (d : Dest) (x mask : Nat) (q : DReg) {b : Nat} (hb : b < 16) :
    ((c.landReg d x mask).1.n[q]).getLsbD b = if d = .norm q then landedBit mask x c.n[q] b else (c.n[q]).getLsbD b := by
  cases d with
  | norm r => simp only [Core.landReg, getLsbD_set_mergeBits _ _ _ _ _ hb, landedBit_mod _ _ _ hb, Dest.norm.injEq]
  | _ => simp [(c.landReg_only _ x mask).n]

theorem Core.landReg_m (c : Core) (d : Dest) (x mask : Nat) (q : MReg) {b : Nat} (hb : b < 128) :
    ((c.landReg d x mask).1.m[q]).getLsbD b = if d = .m q then landedBit mask x c.m[q] b else (c.m[q]).getLsbD b := by
  cases d with
  | m r => simp only [Core.landReg, getLsbD_set_mergeBits _ _ _ _ _ hb, landedBit_mod _ _ _ hb, Dest.m.injEq]
  | _ => simp [(c.landReg_only _ x mask).m]

theorem Core.landReg_w (c : Core) (d : Dest) (x mask : Nat) (q : WReg) {b : Nat} (hb : b < 512) :
    ((c.landReg d x mask).1.w[q]).getLsbD b = if d = .w q then landedBit mask x c.w[q] b else (c.w[q]).getLsbD b := by
  cases d with
  | w r => simp only [Core.landReg, getLsbD_set_mergeBits _ _ _ _ _ hb, landedBit_mod _ _ _ hb, Dest.w.injEq]
  | _ => simp [(c.landReg_only _ x mask).w]

theorem Core.landReg_scalel (c : Core) (d : Dest) (x mask : Nat) {b : Nat} (hb : b < 16) :
    (c.landReg d x mask).1.sp.scalel.getLsbD b = if d = .scalel then landedBit mask x c.sp.scalel b else c.sp.scalel.getLsbD b := by
  cases d with
  | scalel => simp only [Core.landReg, getLsbD_ofNat_mergeBits _ _ _ hb, landedBit_mod _ _ _ hb, if_true]
  | _ => simp [(c.landReg_only _ x mask).scalel]

/-- The value that enters the latch of a scalar result is the masked one, s0 among the destinations (R58). -/
theorem Core.latched_s (c : Core) (x mask : Nat) (q : SReg) {b : Nat} (hb : b < 64) :
    (BitVec.ofNat 64 (c.landReg (.s q) x mask).2).getLsbD b = landedBit mask x c.s[q] b := by
  simp only [Core.landReg, getLsbD_ofNat_mergeBits _ _ _ hb, landedBit_mod _ _ _ hb]

/-- The value that enters the latch of a vector result is the register's. -/
theorem Core.latched_v (c : Core) (x mask : Nat) (q : VReg) :
    BitVec.ofNat 2048 (c.landReg (.v q) x mask).2 = (c.landReg (.v q) x mask).1.v[q] := by
  simp [Core.landReg]

/-! ### Landing -/

/-- A result that lands in the core: its register and, where it is a first destination, its slot's latch. -/
def Core.landed1 (c : Core) (f : Flight) : Core :=
  let r := c.landReg f.dest f.value f.mask
  if f.latch then r.1.setLatch f.slot r.2 else r.1

theorem Core.landed1_eq (c : Core) (f : Flight) :
    let r := c.landReg f.dest f.value f.mask
    c.landed1 f = { r.1 with
      ls := (c.landed1 f).ls, lv0 := (c.landed1 f).lv0, lv1 := (c.landed1 f).lv1, lc0 := (c.landed1 f).lc0, lc1 := (c.landed1 f).lc1 } := by
  unfold Core.landed1
  cases f.latch
  · rfl
  · simp only [if_true, Core.setLatch_eq]

theorem Core.pushPort_none (c : Core) (f : Flight) (h : f.push = false) : c.pushPort f = none := by
  unfold Core.pushPort
  split <;> simp [h]

theorem Core.landOne_lands (c : Core) (id : Nat) (win : Bool) (f : Flight) (hl : f.lands = true) (hp : f.push = false) :
    c.landOne id win f = { (c.landed1 f).raise f.flags with
      causes := (c.landed1 f).causes ++ (((c.landed1 f).raise f.flags).landingCause f).toList } := by
  simp [Core.landOne, hl, c.pushPort_none f hp, Core.landed1, Core.raise]

theorem Core.landOne_error (c : Core) (id : Nat) (win : Bool) (f : Flight) (hl : f.lands = false) :
    c.landOne id win f = { c with causes := c.causes ++ (c.landingCause f).toList } := by
  simp [Core.landOne, hl]


theorem Core.landed1_latched (c : Core) (f : Flight) (h : f.latch = true) :
    c.landed1 f = (c.landReg f.dest f.value f.mask).1.setLatch f.slot (c.landReg f.dest f.value f.mask).2 := if_pos h

theorem Core.landed1_unlatched (c : Core) (f : Flight) (h : f.latch = false) : c.landed1 f = (c.landReg f.dest f.value f.mask).1 := by
  simp [Core.landed1, h]

theorem Core.raise_zero (c : Core) : c.raise 0 = c := by simp [Core.raise]

/-- R36: the enabled flags of a result that lands without an error make its cause. -/
theorem Core.landingCause_none (c : Core) (f : Flight) (h : f.pend = 0) :
    (c.landingCause f).toList = if c.enabled f.flags = 0 then [] else [⟨0x0B, (c.enabled f.flags).toNat + 256 * f.slot.val, true⟩] := by
  unfold Core.landingCause
  by_cases he : c.enabled f.flags = 0
  · simp [h, he]
  · rw [if_neg (by simp [h]), if_pos (Or.inr he), if_neg he, if_neg he]
    rfl

/-- R262: a deferred FPTRAP is a cause whatever FPCTL enables. -/
theorem Core.landingCause_deferred (c : Core) (f : Flight) (h : f.pend = 0x0B) :
    (c.landingCause f).toList = [⟨0x0B, (if c.enabled f.flags = 0 then f.flags else c.enabled f.flags).toNat + 256 * f.slot.val, true⟩] := by
  simp [Core.landingCause, h]

/-- R71: an error that was read is the cause, with its address and slot. -/
theorem Core.landingCause_error (c : Core) (f : Flight) (h : f.pend ≠ 0) (h' : f.pend ≠ 0x0B) :
    (c.landingCause f).toList = [⟨f.pend, f.addr % 2 ^ 20 + 2 ^ 24 * f.slot.val, true⟩] := by
  simp [Core.landingCause, h, h']

/-- What a landing leaves of the core: registers, latches and SCALEL change, and nothing else. -/
theorem Core.landed1_rest (c : Core) (f : Flight) : let t := c.landed1 f
    t.sp = { c.sp with scalel := t.sp.scalel } ∧ t.tt = c.tt ∧ t.h = c.h ∧ t.pc = c.pc ∧ t.causes = c.causes := by
  intro t
  have hr := (c.landReg_only f.dest f.value f.mask).rest
  have ht : t = _ := c.landed1_eq f
  rw [ht, hr]
  exact ⟨rfl, rfl, rfl, rfl, rfl⟩

theorem Core.enabled_raise_landed1 (c : Core) (f : Flight) (fl : Flags) :
    ((c.landed1 f).raise f.flags).enabled fl = c.enabled fl := by
  obtain ⟨hsp, -⟩ := c.landed1_rest f
  have : (c.landed1 f).sp.fpctl = c.sp.fpctl := by rw [hsp]
  simp [Core.enabled, Core.raise, this]

/-- A result without error and flags lands in its register and latch, and does nothing else. -/
theorem Core.landOne_quiet (c : Core) (id : Nat) (win : Bool) (f : Flight) (h0 : f.pend = 0) (hf : f.flags = 0) (hp : f.push = false) :
    c.landOne id win f = c.landed1 f := by
  rw [c.landOne_lands id win f (by simp [Flight.lands, h0]) hp, Core.landingCause_none _ f h0, hf, Core.raise_zero]
  simp [Core.enabled]

end Sys2Proof.Machine

namespace Sys2Proof.Proofs
open Sys2Proof Sys2Proof.Machine Sys2Proof.Claims

/-- R53, R57, R58: registers and latches of a result that lands without error and flags. -/
theorem resultLands : Claims.ResultsLand := by
  intro c id win f h0 hf hp
  obtain ⟨hsp, htt, hh, hpc, hcauses⟩ := c.landed1_rest f
  have ht : c.landOne id win f = c.landed1 f := c.landOne_quiet id win f h0 hf hp
  have heq := c.landed1_eq f
  rw [ht]
  refine ⟨fun q b hb => ?_, fun q => ?_, fun q b hb => ?_, fun q b hb => ?_, fun q b hb => ?_, fun q b hb => ?_, fun q b hb => ?_, fun b hb => ?_, hsp, ?unlatched, ?latched, htt, hh, hpc, hcauses⟩
  · rw [heq]; exact c.landReg_s f.dest f.value f.mask q hb
  · rw [heq]; exact c.landReg_p f.dest f.value f.mask q
  · rw [heq]; exact c.landReg_v f.dest f.value f.mask q hb
  · rw [heq]; exact c.landReg_d f.dest f.value f.mask q hb
  · rw [heq]; exact c.landReg_n f.dest f.value f.mask q hb
  · rw [heq]; exact c.landReg_m f.dest f.value f.mask q hb
  · rw [heq]; exact c.landReg_w f.dest f.value f.mask q hb
  · rw [heq]; exact c.landReg_scalel f.dest f.value f.mask hb
  case unlatched =>
    intro hl
    rw [c.landed1_unlatched f hl, (c.landReg_only f.dest f.value f.mask).rest]
    exact ⟨rfl, rfl, rfl, rfl, rfl⟩
  case latched =>
    intro hl
    rw [c.landed1_latched f hl, Core.setLatch_eq]
    refine ⟨fun hk q b hb hd => ?_, fun hk q hd => ?_, fun hk q hd => ?_, fun hk hd => ?_, fun hk hd => ?_⟩
    · rw [hk, hd]; exact c.latched_s f.value f.mask q hb
    · rw [hk, hd]; exact c.latched_v f.value f.mask q
    · rw [hk, hd]; exact c.latched_v f.value f.mask q
    · rw [hk, hd]; rfl
    · rw [hk, hd]; rfl

theorem flagsAndErrorsLand : Claims.FlagsAndErrorsLand := by
  intro c id win f
  obtain ⟨hsp, -, -, -, hcauses⟩ := c.landed1_rest f
  have hfp : (c.landed1 f).sp.fpstat = c.sp.fpstat := by rw [hsp]
  refine ⟨fun h0 hp => ?_, fun h0 h1 => ?_, fun h0 hp => ?_⟩
  · have hl : f.lands = true := by simp [Flight.lands, h0]
    rw [c.landOne_lands id win f hl hp, Core.landingCause_none _ f h0, Core.enabled_raise_landed1]
    exact ⟨by rw [← hfp]; rfl, by rw [hcauses]; rfl⟩
  · have hl : f.lands = false := by simp [Flight.lands, h0, h1]
    rw [c.landOne_error id win f hl, c.landingCause_error f h0 h1]
  · have hl : f.lands = true := by simp [Flight.lands, h0]
    rw [c.landOne_lands id win f hl hp, Core.landingCause_deferred _ f h0, Core.enabled_raise_landed1]
    exact ⟨by rw [← hfp]; rfl, by rw [hcauses]; rfl⟩

/-- Settles O27: landing is one register write and one latch, then the flags and the cause of the result. -/
theorem resultsLand : Obligations.ResultsLand := ⟨resultLands, flagsAndErrorsLand⟩

end Sys2Proof.Proofs
end

section
/-! A cycle of the main clock (R52, R57, R63, R282). -/
namespace Sys2Proof.Machine

/-- A domain with no core in its handler does not resume (R269). -/
theorem State.resumeDomain_idle (s : State) (l : Launch) (h : s.handlerCores l = []) : s.resumeDomain l = s := by
  simp [State.resumeDomain, h]

/-- Which cores are in a handler is said of the cores alone. -/
theorem State.handlerCores_congr (s t : State) (l : Launch) (h : t.cores = s.cores) : t.handlerCores l = s.handlerCores l := by
  simp only [State.handlerCores, State.liveCores, State.core, h]

theorem State.foldl_resumeDomain_idle (s : State) (ls : List Launch) (h : ∀ l ∈ ls, s.handlerCores l = []) :
    ls.foldl State.resumeDomain s = s := by
  induction ls with
  | nil => rfl
  | cons l rest ih =>
    rw [List.foldl_cons, s.resumeDomain_idle l (h l List.mem_cons_self)]
    exact ih fun x hx => h x (List.mem_cons_of_mem _ hx)

/-- R63: with no core in its handler the running cores of a domain that is not frozen consider their bundles. -/
theorem State.considering_idle (s : State) (l : Launch) (h : s.handlerCores l = []) :
    s.considering l = if s.domainFrozen l then [] else l.cores.filter fun c => (s.core c).run == .running := by
  simp [State.considering, h, State.liveCores, Core.live]

/-- The state whose clock has advanced, with what is due on the timed plane waiting. -/
def State.ticked (s : State) : State :=
  { s with clock := s.clock + 1, wires := s.wires.filter (fun w => !(decide (w.1 ≤ s.clock + 1))),
           pending := s.pending ++ (s.wires.filter fun w => decide (w.1 ≤ s.clock + 1)).map (·.2) }

/-- A cycle: the clock advances, domains resume, and each active launch gets its items. -/
theorem State.mainCycle_of_resumed (s t : State) (h : (s.launches.filter Launch.active).foldl State.resumeDomain s.ticked = t) :
    s.mainCycle = { t with agenda := (s.wires.filter fun w => decide (w.1 ≤ s.clock + 1)).map (fun w => Item.event w.2.1 w.2.2) ++
      (t.launches.filter Launch.active).flatMap (t.launchItems ·) ++ t.agenda } := by
  subst h; rfl

/-- The items of a launch's cycle when none of its cores is in the handler. -/
theorem State.launchItems_idle (s : State) (l : Launch) (h : s.handlerCores l = []) :
    s.ticked.launchItems l = l.cores.map (fun c => Item.sys (.land c)) ++
      (if s.domainFrozen l then [] else (l.cores.filter fun c => (s.core c).run == .running).map fun c => Item.sys (.consider c)) ++
      [Item.sys (.decide l.id)] := by
  have hc : s.ticked.considering l = s.considering l := rfl
  rw [State.launchItems, hc, s.considering_idle l h]
  split <;> rfl

end Sys2Proof.Machine

namespace Sys2Proof.Proofs
open Sys2Proof Sys2Proof.Machine Sys2Proof.Claims

/-- Settles O35: with no core in its handler no domain resumes, and the cycle is the clock's advance and the items of each launch. -/
theorem clockCycle : Obligations.ClockCycle := by
  intro s hat
  refine ⟨fun hp => ?_, fun hp hidle => ⟨s.mainCycle, ?_, ?_⟩⟩
  · simp [execMainClockCycle, hat, hp]
  · simp [execMainClockCycle, hat, hp]
  · have hitems : (s.launches.filter Launch.active).flatMap (s.ticked.launchItems ·) = _ :=
      List.flatMap_congr fun l hl => s.launchItems_idle l (hidle l (List.mem_of_mem_filter hl))
    have hresume : (s.launches.filter Launch.active).foldl State.resumeDomain s.ticked = s.ticked :=
      s.ticked.foldl_resumeDomain_idle _ fun l hl => (s.handlerCores_congr s.ticked l rfl).trans (hidle l (List.mem_of_mem_filter hl))
    have hw : (fun w : Nat × Instr × EvArg => !(decide (w.1 ≤ s.clock + 1))) = fun w => decide (s.clock + 1 < w.1) := by
      funext w; rw [← decide_not]; exact decide_eq_decide.mpr Nat.not_le
    rw [s.mainCycle_of_resumed _ hresume]
    refine ⟨rfl, congrArg (s.wires.filter ·) hw, rfl, rfl, rfl, ?_⟩
    exact congrArg (fun items => _ ++ items ++ s.agenda) hitems

end Sys2Proof.Proofs
end

section
/-! What considering and issuing a slot leaves: registers, latches, special registers, hoops, trees, the pattern book, the program counter and memory (R57, R61). -/
namespace Sys2Proof.Machine

/-! ### What an issue may not change -/

/-- What of a core only landings, the write phase, unit effects and the sequencer's step change. -/
structure Regs where
  s : Vector Word 32
  v : Vector VWord 32
  d : Vector VWord 16
  n : Vector (BitVec 16) 16
  m : Vector (BitVec 128) 8
  p : Vector Bool 8
  w : Vector (BitVec 512) 8
  h : Vector Hoop 8
  tt : Vector Tree 4
  sp : Special
  ls : Word
  lc0 : Word
  lc1 : Word
  lv0 : VWord
  lv1 : VWord
  pc : Nat
  book : List Byte

def Core.regs (c : Core) : Regs :=
  { s := c.s, v := c.v, d := c.d, n := c.n, m := c.m, p := c.p, w := c.w, h := c.h, tt := c.tt, sp := c.sp, ls := c.ls, lc0 := c.lc0, lc1 := c.lc1,
    lv0 := c.lv0, lv1 := c.lv1, pc := c.pc, book := c.book }

/-- Memory and the registers of a core stay, and of every other core all but the tiles forwarded to it. -/
structure Leaves (id : Nat) (s u : State) : Prop where
  mem : ∀ z, u.mem.byte z = s.mem.byte z
  own : (u.core id).regs = (s.core id).regs
  other : ∀ j, j ≠ id → u.core j = { s.core j with forwards := (u.core j).forwards }

theorem Leaves.refl (id : Nat) (s : State) : Leaves id s s := ⟨fun _ => rfl, rfl, fun _ _ => rfl⟩

theorem Leaves.trans {id : Nat} {s t u : State} (h : Leaves id s t) (h' : Leaves id t u) : Leaves id s u where
  mem z := (h'.mem z).trans (h.mem z)
  own := h'.own.trans h.own
  other j hj := by rw [h'.other j hj, h.other j hj]

/-- An update that touches neither memory nor cores. -/
theorem Leaves.of_mem_cores {s u : State} (id : Nat) (hm : u.mem = s.mem) (hc : u.cores = s.cores) : Leaves id s u := by
  have h (j : Nat) : u.core j = s.core j := by simp only [State.core, hc]
  exact ⟨fun z => by rw [hm], by rw [h], fun j _ => by rw [h]⟩

theorem Leaves.setCore (s : State) (id : Nat) (c : Core) (h : c.regs = (s.core id).regs) : Leaves id s (s.setCore id c) where
  mem _ := rfl
  own := by rw [State.core_setCore_self, h]
  other j hj := by rw [State.core_setCore_other s id j c hj]

theorem Leaves.updCore (s : State) (id : Nat) (f : Core → Core) (h : ∀ c, (f c).regs = c.regs) : Leaves id s (s.updCore id f) :=
  .setCore s id _ (h _)

/-- Reads that correct single-bit errors leave every byte. -/
theorem Leaves.scrubs (s : State) (id : Nat) (l : List (Nat × Nat)) :
    Leaves id s { s with mem := l.foldl (fun (m : Memory) (r : Nat × Nat) => m.scrub r.1 r.2) s.mem } :=
  ⟨Memory.byte_scrubs l s.mem, rfl, fun _ _ => rfl⟩

/-! ### Plans whose effects at issue leave them -/

/-- What a plan does at issue to its core and to the rest of the device leaves the registers and memory. -/
structure Plan.Frames (p : Plan) (id : Nat) : Prop where
  upd : ∀ c, (p.upd c).regs = c.regs
  updS : ∀ s, Leaves id s (p.updS s)

/-- Most plans do nothing of their own at issue. -/
theorem Plan.Frames.plain {p : Plan} {id : Nat} (h : p.upd = fun c => c) (h' : p.updS = fun s => s) : p.Frames id :=
  ⟨fun c => by rw [h], fun s => by rw [h']; exact .refl id s⟩

/-- A plan that acts on its own core alone. -/
theorem Plan.Frames.core {p : Plan} {id : Nat} (h : ∀ c, (p.upd c).regs = c.regs) (h' : p.updS = fun s => s) : p.Frames id :=
  ⟨h, fun s => by rw [h']; exact .refl id s⟩

theorem Core.regs_markPops (c : Core) (srcs : List (Nat × Src)) (take : Option (Nat × Nat)) : (c.markPops srcs take).regs = c.regs := by
  have hfold : ∀ (l : List (Nat × Port × Binding)) (c : Core), (l.foldl (fun (c : Core) x =>
      if c.popped.contains x.2.1.val then c else
      match x.2.2 with
      | .walk false .. => { c with popped := x.2.1.val :: c.popped }
      | .chan ch => { c with popped := x.2.1.val :: c.popped, taken := c.taken ++ [⟨ch.val, 4, some x.2.1.val⟩] }
      | _ => c) c).regs = c.regs := by
    intro l c
    refine foldl_keeps _ Core.regs (fun c x => ?_) l c
    split
    · rfl
    · split <;> rfl
  unfold Core.markPops
  cases take with
  | none => exact hfold _ c
  | some t => exact hfold _ c

theorem Core.regs_look (c : Core) (k : Slot) (cap : Option Capture) (srcs : List (Nat × Src)) (p : Plan) : (c.look k cap srcs p).regs = c.regs :=
  c.regs_markPops _ p.take

theorem Plan.unfed_upd (p : Plan) (e : Nat × Nat) : (p.unfed e).upd = p.upd := by
  unfold Plan.unfed; split <;> rfl

theorem Core.regs_issue (c : Core) (k : Slot) (cap : Option Capture) (srcs : List (Nat × Src)) (p : Plan) (h : ∀ c, (p.upd c).regs = c.regs) :
    (c.issue k cap srcs p).regs = c.regs := by
  unfold Core.issue
  rw [Core.regs_markPops, Plan.unfed_upd, h]
  rfl

/-! ### Operations in a slot -/

/-- An operation that, in a slot, leaves the registers and memory. -/
def SlotFrames (f : State → Out) : Prop := ∀ s u id k b, s.cur = .slot id k b → f s = .next u → Leaves id s u

/-- A primary operation does what its plan says, considered or issued. -/
theorem SlotFrames.primOp {srcs : List (Nat × Src)} {body : View → Plan} (h : ∀ v, (body v).Frames v.id) : SlotFrames (primOp srcs body) := by
  intro s u id k b hcur hu
  unfold Machine.primOp at hu
  split at hu
  next id' k' issue hslot =>
    obtain ⟨rfl, rfl, rfl⟩ : id' = id ∧ k' = k ∧ issue = b := by simpa [hcur, eq_comm] using hslot
    split at hu
    · cases hu
      have hp := h ⟨s, id', s.core id', k', ((s.core id').resumeCaps.find? fun x => x.1 == k'.val).map (·.2)⟩
      exact ((Leaves.scrubs s id' _).trans (.setCore _ id' _ (Core.regs_issue _ _ _ _ _ hp.upd))).trans (hp.updS _)
    · cases hu
      exact .setCore s id' _ (Core.regs_look ..)
  next hslot => exact absurd hcur (hslot id k b)

/-- A primary operation whose plan does nothing of its own at issue. -/
theorem SlotFrames.plain {srcs : List (Nat × Src)} {body : View → Plan} (h : ∀ v, (body v).upd = fun c => c) (h' : ∀ v, (body v).updS = fun s => s) :
    SlotFrames (Machine.primOp srcs body) := .primOp fun v => .plain (h v) (h' v)

/-- Events and tinker operations have no agent in a slot (log 9). -/
theorem SlotFrames.noAgent {f : State → Out} (h : ∀ (s : State) id k b, f { s with cur := .slot id k b } = .fault .noAgent) : SlotFrames f := by
  intro s u id k b hcur hu
  have hs : { s with cur := .slot id k b } = s := by rw [← hcur]
  have := h s id k b
  rw [hs, hu] at this
  cases this

/-! ### Effects at issue beyond the core -/

/-- Tiles on their way to a core are all that changes of it. -/
theorem Leaves.forwards (s : State) (id dst : Nat) (f : Core → List Forward) : Leaves id s (s.updCore dst fun c => { c with forwards := f c }) where
  mem _ := rfl
  own := by
    by_cases h : id = dst
    · rw [h, State.core_updCore_self]; rfl
    · rw [State.core_updCore_other s dst id _ h]
  other j _ := by
    by_cases h : j = dst
    · rw [h, State.core_updCore_self]
    · rw [State.core_updCore_other s dst j _ h]

theorem Leaves.post {s t : State} {id : Nat} (h : Leaves id s t) (i : Instr) (a : EvArg) : Leaves id s (t.post i a) :=
  h.trans (.of_mem_cores id (State.post_mem ..) (State.post_cores ..))

theorem Leaves.ite {id : Nat} {c : Prop} [Decidable c] {s t u : State} (h : c → Leaves id s t) (h' : ¬c → Leaves id s u) :
    Leaves id s (if c then t else u) := by
  split
  next hc => exact h hc
  next hc => exact h' hc

@[simp] theorem State.sendFlit_mem (s : State) (dst : Nat) (bs : List Byte) : (s.sendFlit dst bs).mem = s.mem := by
  unfold State.sendFlit; split <;> rfl
@[simp] theorem State.sendFlit_cores (s : State) (dst : Nat) (bs : List Byte) : (s.sendFlit dst bs).cores = s.cores := by
  unfold State.sendFlit; split <;> rfl

theorem State.sendRows_mem (route : Nat) (resend : Bool) (n : Nat) (s : State) (ms : List Nat) : (s.sendRows route resend n ms).mem = s.mem := by
  induction n generalizing s ms with
  | zero => rfl
  | succ n ih =>
    unfold State.sendRows
    split
    · rfl
    · rw [ih, State.sendFlit_mem]
theorem State.sendRows_cores (route : Nat) (resend : Bool) (n : Nat) (s : State) (ms : List Nat) : (s.sendRows route resend n ms).cores = s.cores := by
  induction n generalizing s ms with
  | zero => rfl
  | succ n ih =>
    unfold State.sendRows
    split
    · rfl
    · rw [ih, State.sendFlit_cores]

theorem State.toPeer_mem (s : State) (id : Nat) (e : Endpoint) (n : Nat) (i : Instr) (mk : Nat → Nat → EvArg) : (s.toPeer id e n i mk).mem = s.mem := by
  unfold State.toPeer
  split
  · rfl
  · split <;> rfl
theorem State.toPeer_cores (s : State) (id : Nat) (e : Endpoint) (n : Nat) (i : Instr) (mk : Nat → Nat → EvArg) : (s.toPeer id e n i mk).cores = s.cores := by
  unfold State.toPeer
  split
  · rfl
  · split <;> rfl

theorem Leaves.toPeers (s : State) (id : Nat) (e : Endpoint) (ms : List (Nat × Nat)) :
    Leaves id s (ms.foldl (fun s x => s.toPeer id e x.2 .channelMessageArrival fun pc pe => .msg pc pe x.1) s) :=
  .of_mem_cores id (foldl_keeps _ State.mem (fun s x => s.toPeer_mem id e x.2 _ _) ms s) (foldl_keeps _ State.cores (fun s x => s.toPeer_cores id e x.2 _ _) ms s)

/-- Sending spends allowances and retains messages, in the sender's endpoint (R293, R298). -/
theorem Leaves.sendMsgs (s : State) (id : Nat) (ch : Chan) (ms : List Nat) : Leaves id s (s.sendMsgs id ch ms) := by
  have hspent := Leaves.updCore s id (fun c => c.updEp ch fun e => { e with sendAllow := e.sendAllow - ms.length }) fun _ => rfl
  unfold State.sendMsgs
  dsimp only
  generalize s.updCore id (fun c => c.updEp ch fun e => { e with sendAllow := e.sendAllow - ms.length }) = t at hspent
  refine .ite (fun _ => (hspent.trans ?path2).post _ _) fun _ => .trans ?retain (.toPeers _ id _ _)
  case path2 => exact .of_mem_cores id (State.sendRows_mem ..) (State.sendRows_cores ..)
  case retain => exact .ite (fun _ => hspent.trans (.updCore t id _ fun _ => rfl)) fun _ => hspent

/-- A tile goes to the core beside this one (R208). -/
theorem Leaves.forward (s : State) (id : Nat) (east : Bool) (h : HReg) (tile : List Byte) (shadows : List Nat) : Leaves id s (s.forward id east h tile shadows) := by
  unfold State.forward
  split
  · exact .refl id s
  · exact .ite (fun _ => (Leaves.forwards s id _ _).post _ _) fun _ => .refl id s

/-- A queued command is carried on by an action that waits, or ends after its cycle (R215). -/
theorem Leaves.postCmd (s : State) (id : Nat) (e : Fin 2) (k : Cmd) : Leaves id s (s.postCmd id e k) := by
  have hp (i : Instr) (a : EvArg) : Leaves id s (s.post i a) := (Leaves.refl id s).post i a
  unfold State.postCmd
  refine .ite (fun _ => .of_mem_cores id rfl rfl) fun _ => ?_
  split
  · exact hp _ _
  · exact .ite (fun _ => hp _ _) fun _ => hp _ _

/-- The context engine starts (R274). -/
theorem Leaves.ctxStart (c : Core) (s : State) (id : Nat) (r : SpecialReg) (x : Word) : Leaves id s (ctxStart c id r x s) := by
  unfold Machine.ctxStart
  have hstart (r : CtxRun) := Leaves.updCore s id (fun c => { c with ctxBusy := some r }) fun _ => rfl
  exact .ite (fun _ => .ite (fun _ => (hstart .save).post _ _) fun _ => .ite (fun _ => (hstart .load).post _ _) fun _ => .refl id s) fun _ => .refl id s

/-! ### The shared forms of plans -/

theorem Plan.Frames.ite {id : Nat} {c : Prop} [Decidable c] {p q : Plan} (h : c → p.Frames id) (h' : ¬c → q.Frames id) : (if c then p else q).Frames id := by
  split
  next hc => exact h hc
  next hc => exact h' hc

theorem View.queued_frames (v : View) (traps : List (Nat × Nat × Nat)) (viol : Option Violation) (k : Cmd) : (v.queued traps viol k).Frames v.id :=
  ⟨fun _ => rfl, fun s => .postCmd s v.id _ k⟩

theorem View.treePlan_frames (v : View) (n : Nat) {p : Plan} (h : p.updS = fun s => s) : (v.treePlan n p).Frames v.id := .core (fun _ => rfl) h

theorem Core.regs_openLoop (c : Core) (stop n : Nat) : (c.openLoop stop n).regs = c.regs := by
  unfold Core.openLoop; split <;> rfl

theorem View.altPlan_frames (v : View) (d : SReg) (set : Nat) : (v.altPlan d set).Frames v.id :=
  .core (fun c => by unfold View.altPlan; dsimp only; split <;> rfl) rfl

namespace SlotFrames

theorem binX {zx lat f d b x} : SlotFrames (Machine.binX zx lat f d b x) := .primOp fun _ => .plain rfl rfl
theorem unS {lat f d b} : SlotFrames (Machine.unS lat f d b) := .primOp fun _ => .plain rfl rfl
theorem binP {f d b c} : SlotFrames (Machine.binP f d b c) := .primOp fun _ => .plain rfl rfl
theorem sfMinMax {m d b c} : SlotFrames (Machine.sfMinMax m d b c) := .primOp fun _ => .plain rfl rfl
theorem vecInt {t k f d b c} : SlotFrames (Machine.vecInt t k f d b c) := .primOp fun _ => .plain rfl rfl
theorem vecBits {t k f d b c} : SlotFrames (Machine.vecBits t k f d b c) := .primOp fun _ => .plain rfl rfl
theorem vecFlt {t xv f d b c} : SlotFrames (Machine.vecFlt t xv f d b c) := .primOp fun _ => .plain rfl rfl
theorem vecMinMax {t k m d b c} : SlotFrames (Machine.vecMinMax t k m d b c) := .primOp fun _ => .plain rfl rfl
theorem vecUnary {t xv u d b} : SlotFrames (Machine.vecUnary t xv u d b) := .primOp fun _ => .plain rfl rfl
theorem dirSum {neg d b c xv} : SlotFrames (Machine.dirSum neg d b c xv) := .primOp fun _ => .plain rfl rfl
theorem vecShift {t f d b x} : SlotFrames (Machine.vecShift t f d b x) := by
  unfold Machine.vecShift
  split <;> exact .primOp fun _ => .plain rfl rfl
theorem vslide {t d b x} : SlotFrames (execVslide t d b x) := by
  unfold execVslide
  split <;> exact .primOp fun _ => .plain rfl rfl
theorem dscale {d b x} : SlotFrames (execDscale d b x) := by
  unfold execDscale
  split <;> exact .primOp fun _ => .plain rfl rfl
theorem vld {d b x} : SlotFrames (execVld d b x) := by
  cases d with
  | v r k t => exact .primOp fun _ => .plain rfl rfl
  | m r => exact .primOp fun _ => .plain rfl rfl
  | w r => exact .primOp fun _ => .plain rfl rfl
theorem vred {t d b xv} : SlotFrames (execVred t d b xv) := by
  refine .primOp fun v => ?_
  dsimp only
  split <;> exact .plain rfl rfl
theorem vscan {t d b xv} : SlotFrames (execVscan t d b xv) := by
  refine .primOp fun v => ?_
  dsimp only
  split <;> exact .plain rfl rfl
theorem vsbind {a b wr} : SlotFrames (execVsbind a b wr) :=
  .primOp fun _ => .ite (fun _ => .plain rfl rfl) fun _ => .plain rfl rfl
theorem ttmask {k c x} : SlotFrames (execTtmask k c x) := by
  unfold execTtmask
  split <;> exact .primOp fun v => v.treePlan_frames _ rfl

/-! ### The matrix slot -/

theorem mma {a xm} : SlotFrames (execMma a xm) :=
  .primOp fun _ => .ite (fun _ => .plain rfl rfl) fun _ => .ite (fun _ => .plain rfl rfl) fun _ => .ite (fun _ => .core (fun _ => rfl) rfl) fun _ =>
    ⟨fun _ => rfl, fun s => Leaves.trans (t := if xm.fwa then _ else s) (.ite (fun _ => .forward s ..) fun _ => .refl _ s) (.ite (fun _ => .forward ..) fun _ => .refl ..)⟩
theorem mmas {a xm} : SlotFrames (execMmas a xm) :=
  .primOp fun _ => .ite (fun _ => .plain rfl rfl) fun _ => .ite (fun _ => .plain rfl rfl) fun _ => .ite (fun _ => .plain rfl rfl) fun _ =>
    .ite (fun _ => .core (fun _ => rfl) rfl) fun _ => ⟨fun _ => rfl, fun s => .ite (fun _ => .forward s ..) fun _ => .refl _ s⟩
theorem mpop {a n} : SlotFrames (execMpop a n) :=
  .primOp fun _ => .ite (fun _ => .plain rfl rfl) fun _ => .ite (fun _ => .plain rfl rfl) fun _ => .ite (fun _ => .plain rfl rfl) fun _ => .core (fun _ => rfl) rfl
theorem mtrans {a b xt} : SlotFrames (execMtrans a b xt) :=
  .primOp fun _ => .ite (fun _ => .plain rfl rfl) fun _ => .ite (fun _ => .plain rfl rfl) fun _ => .core (fun _ => rfl) rfl

end SlotFrames

/-- R57, R61: every operation of a slot leaves registers and memory when it is considered or issued; nothing else runs in a slot. -/
theorem exec_slotFrames (i : Instr) : SlotFrames (exec i) := by
  unfold exec
  cases i with
  -- plans that do nothing of their own at issue
  | add | sel | li | bfi | cmp | pnot | sfadd | sfmul | sffma | sfcvt | sfcmp | lds | sts | stsN4 | waita | flagacq | movs | tcreate | tkill | vabs
  | vcmp | vsel | vffma | vfcmp | vcvt | vmxexp | vquant | vdeq | vxpand | vpbook | vst | vldx | vstx | vstxN4 | vbcast | vext | vins | vperm | vshuf
  | vpopm | vbtest | vbset | vcmpx | vtopk | vmovaGet | vmovaPut | vsunbind | dfrom | dto | dld | dst | dneg | ddot | ddotv | dnorm | dsetn | dlerp
  | dcmpz | choop | cdeal | carm | cstat | ccancel | sat | gbar | xchg | xmax | chrecv | chrecvTry | chgrant | chbind | chseal | chack | nop =>
    exact .primOp fun _ => .plain rfl rfl
  | sub | mul | mulh | mulhW | div | divW | rem | remW | and | or | xor | andn | shl | shr | sar | rot | min | minW | max | maxW | adda => exact .binX
  | vadd | vsub | vmul | vmulh | vmin | vmax => exact .vecInt
  | addi | clz | popc | bfx => exact .unS
  | vfrcp | vfrsq | vfexp2 | vflog2 => exact .vecUnary
  | pand | por | pxor => exact .binP
  | vand | vor | vxor => exact .vecBits
  | vshl | vshr | vsar => exact .vecShift
  | vfadd | vfsub | vfmul => exact .vecFlt
  | sfmin | sfmax => exact .sfMinMax
  | vfmin | vfmax => exact .vecMinMax
  | dadd | dsub => exact .dirSum
  | ttmask => exact .ttmask
  | vld => exact .vld
  | vslide => exact .vslide
  | vred => exact .vred
  | vscan => exact .vscan
  | vsbind => exact .vsbind
  | dscale => exact .dscale
  | mma => exact .mma
  | mmas => exact .mmas
  | mpop => exact .mpop
  | mtrans => exact .mtrans
  -- plans that act on the sequencer, the queues and the units of their own core
  | br | call | flagrel | fence | trap | mclr | mdrain | ret | halt | eret => exact .primOp fun _ => .core (fun _ => rfl) rfl
  | brc => exact .primOp fun _ => .core (fun c => by dsimp only; split <;> rfl) rfl
  | loop => exact .primOp fun _ => .core (fun c => c.regs_openLoop ..) rfl
  | ttclr | ttnode | ttldp | ttpos | ttpath | ttprune | ttinfo => exact .primOp fun v => v.treePlan_frames _ rfl
  | chalt d => exact .primOp fun v => .core (v.altPlan_frames d _).upd rfl
  | chaltTry => exact .primOp fun v => v.altPlan_frames ..
  -- plans that post an action, send messages or start the context engine
  | cpy | cgath | cscat | cfill | cprom | cdemo | cfence | kvapp | kvrel | kvpin | kvunpin => exact .primOp fun v => v.queued_frames ..
  | movts => exact .primOp fun _ => ⟨fun _ => rfl, fun _ => .ctxStart ..⟩
  | chsend => exact .primOp fun _ => ⟨fun _ => rfl, fun _ => .sendMsgs ..⟩
  | chsendTry => exact .primOp fun _ => ⟨fun _ => rfl, fun _ => .ite (fun _ => .sendMsgs ..) fun _ => .refl ..⟩
  | catom => exact .primOp fun _ => ⟨fun _ => rfl, fun _ => .postCmd ..⟩
  -- operations of tinker threads, and events
  | tAdd | tSub | tSubImm | tAddi | tMul | tMulImm | tMulh | tMulhImm | tMulhW | tMulhWImm | tDiv | tDivImm | tDivW | tDivWImm | tRem | tRemImm | tRemW
  | tRemWImm | tAnd | tAndImm | tOr | tOrImm | tXor | tXorImm | tAndn | tAndnImm | tShl | tShlImm | tShr | tShrImm | tSar | tSarImm | tRot | tRotImm
  | tClz | tPopc | tMin | tMinImm | tMinW | tMinWImm | tMax | tMaxImm | tMaxW | tMaxWImm | tSel | tLi | tBfx | tBfi | tCmp | tCmpImm | tcmpx | tbr
  | texit | twait | tsig | tld | tldImm | tldSp | tldSpImm | tst | tstImm | tstSp | tstSpImm | tstSpN4 | tacq | trel | tfence | tcache | spawn | join
  | steal | tChsend | tCatom | tSat =>
    exact .noAgent fun _ _ _ _ => rfl
  | srseedWrite | csave | cload | tinkerCacheFill | tinkerWriteback | flagrelAdd | hoopPush | tileForwardArrival | transposePush | arrivalWordUpdate
  | copyCommandComplete | trapEntry | watchdog | preempt | channelMessageArrival | allowanceArrival | ackArrival | porterRequest | translationWalk
  | recallComplete | porterRunStart | porterRunEnd | tierMove | sqtail | cqhead | inlgo | queueEn | registerWrite | bar2Read | bar2Write
  | functionLevelReset | cmdLaunch | cmdGraph | graphNodeStart | cmdCopy | cmdSignal | cmdWait | cmdPartition | cmdCheckpoint | cmdFreezeClear
  | cmdInval | cmdHtset | cmdAttest | launchRetire | launchResume | powerGood | powerLoss | tokenAllowanceUpdate | thermalWarning | thermalCritical
  | msgFlit | grantFlit | ackFlit | refuseFlit | stepFlit | abortFlit | finalFlit | agreedFlit | readyFlit | dataFlit | gangpreFlit
  | retransmissionTimeout | memberUnreachable | sliceEnd | mainClockCycle | tinkerInstructionFetch | contextEngineDone | bitError | linkFailure =>
    exact .noAgent fun _ _ _ _ => rfl

end Sys2Proof.Machine

namespace Sys2Proof.Proofs
open Sys2Proof Sys2Proof.Machine Sys2Proof.Claims

/-- Settles O29: each operation of a slot is a plan, whose effects at issue are queues, units and the sequencer. -/
theorem issueLeavesRegisters : Obligations.IssueLeavesRegisters := by
  intro i s u id k b hcur hu
  have h := exec_slotFrames i s u id k b hcur hu
  refine ⟨h.mem, fun j => ?_⟩
  have hregs : (u.core j).regs = (s.core j).regs := by
    by_cases hj : j = id
    · rw [hj, h.own]
    · rw [h.other j hj]; rfl
  obtain ⟨hs, hv, hd, hn, hm, hp, hw, hh, htt, hsp, hls, hlc0, hlc1, hlv0, hlv1, hpc, hbook⟩ := Regs.mk.inj hregs
  exact ⟨hs, hv, hd, hn, hm, hp, hw, hh, htt, hsp, hls, hlc0, hlc1, hlv0, hlv1, hpc, hbook, h.other j⟩

end Sys2Proof.Proofs
end

section
/-! Words of memory: what a read gives after a write of the same bytes, and what a write leaves of the marks (R70, R71). -/
namespace Sys2Proof.Machine

theorem Memory.read_lt (m : Memory) (a n : Nat) : m.read a n < 256 ^ n := by
  induction n generalizing a with
  | zero => simp [Memory.read]
  | succ n ih =>
    have hb := (m.byte a).isLt
    have := ih (a + 1)
    rw [Memory.read, Nat.pow_succ]
    omega

/-- A read depends on the bytes it reads. -/
theorem Memory.read_congr {m m' : Memory} {a b n : Nat} (h : ∀ i, i < n → m.byte (a + i) = m'.byte (b + i)) : m.read a n = m'.read b n := by
  induction n generalizing a b with
  | zero => rfl
  | succ n ih =>
    have h0 := h 0 (by omega)
    have hrest := ih (a := a + 1) (b := b + 1) fun i hi => by
      have := h (i + 1) (by omega)
      rwa [Nat.add_left_comm, Nat.add_comm i, Nat.add_left_comm, Nat.add_comm i] at this
    simp only [Nat.add_zero] at h0
    simp only [Memory.read, h0, hrest]

/-- A memory whose bytes from `a` on are those of a number reads as that number. -/
theorem Memory.read_of_bytesOf {m : Memory} {a n x : Nat} (h : ∀ i (hi : i < (bytesOf n x).length), m.byte (a + i) = (bytesOf n x)[i]) : m.read a n = x % 256 ^ n := by
  induction n generalizing a x with
  | zero => simp [Memory.read, Nat.mod_one]
  | succ n ih =>
    have h0 := h 0 (by simp [bytesOf])
    have hrest := ih (a := a + 1) (x := x / 256) fun i hi => by
      have := h (i + 1) (by simpa [bytesOf] using hi)
      simpa [bytesOf, Nat.add_assoc, Nat.add_comm 1 i] using this
    simp only [bytesOf, Nat.add_zero, List.getElem_cons_zero] at h0
    have hpow : 256 ^ (n + 1) = 256 * 256 ^ n := Nat.pow_succ'
    rw [Memory.read, h0, hrest, BitVec.toNat_ofNat, hpow, Nat.mod_mul]

@[simp] theorem length_bytesOf (n x : Nat) : (bytesOf n x).length = n := by
  induction n generalizing x with
  | zero => rfl
  | succ n ih => simp [bytesOf, ih]

@[simp] theorem Memory.length_bytes (m : Memory) (a n : Nat) : (m.bytes a n).length = n := by
  induction n generalizing a with
  | zero => rfl
  | succ n ih => simp [Memory.bytes, ih]

theorem Memory.getElem_bytes (m : Memory) (a n i : Nat) (hi : i < (m.bytes a n).length) : (m.bytes a n)[i] = m.byte (a + i) := by
  induction n generalizing a i with
  | zero => simp at hi
  | succ n ih =>
    cases i with
    | zero => rfl
    | succ i =>
      have := ih (a + 1) i (by simpa using hi)
      simpa [Memory.bytes, Nat.add_assoc, Nat.add_comm 1 i] using this

/-- Whole bytes name the places of a range. -/
theorem mem_putBytes {a : Nat} {bs : List Byte} {p : PutByte} (h : p ∈ putBytes a bs) : a ≤ p.1 ∧ p.1 < a + bs.length := by
  induction bs generalizing a with
  | nil => simp [putBytes] at h
  | cons b bs ih =>
    simp only [putBytes, List.mem_cons] at h
    rcases h with rfl | h
    · simp
    · have := ih h
      simp only [List.length_cons]
      omega

theorem Memory.byte_put_outside (m : Memory) {a z : Nat} {bs : List Byte} (h : m.wf = true) (hz : z < a ∨ a + bs.length ≤ z) :
    (m.put (putBytes a bs)).byte z = m.byte z :=
  m.byte_put_other _ z h fun p hp e => by have := mem_putBytes hp; omega

theorem Memory.byte_write_outside (m : Memory) {a n x z : Nat} (h : m.wf = true) (hz : z < a ∨ a + n ≤ z) : (m.write a n x).byte z = m.byte z :=
  m.byte_put_outside h (by simpa using hz)

theorem Memory.read_write_same (m : Memory) (a n x : Nat) (h : m.wf = true) : (m.write a n x).read a n = x % 256 ^ n :=
  Memory.read_of_bytesOf fun i hi => m.byte_put_putBytes _ a i h hi

theorem Memory.read_write_outside (m : Memory) {a n x b k : Nat} (h : m.wf = true) (hb : b + k ≤ a ∨ a + n ≤ b) : (m.write a n x).read b k = m.read b k :=
  Memory.read_congr fun i hi => m.byte_write_outside h (by omega)

/-- Bytes put elsewhere read there as they read where they were. -/
theorem Memory.read_put_bytes (m m' : Memory) (a b n : Nat) (h : m.wf = true) : (m.put (putBytes a (m'.bytes b n))).read a n = m'.read b n :=
  Memory.read_congr fun i hi => by
    have hi' : i < (m'.bytes b n).length := by simpa using hi
    rw [m.byte_put_putBytes _ a i h hi', m'.getElem_bytes]

/-- Where no byte is one that only the fabric unit writes, software's write of a number is a plain one. -/
theorem Memory.writeDev_eq (m : Memory) {a n x : Nat} (h : ∀ i, i < n → roByte (a + i) = false) : m.writeDev a n x = m.write a n x :=
  m.putDev_eq _ fun p hp => by
    obtain ⟨hlo, hhi⟩ := mem_putBytes hp
    rw [length_bytesOf] at hhi
    have := h (p.1 - a) (by omega)
    rwa [Nat.add_sub_cancel' hlo] at this

theorem Memory.putDev_nil (m : Memory) : m.putDev [] = m := by
  simp [Memory.putDev, Memory.put, Memory.setAll, wordsOf, linesOf]

/-- A write makes no word uncorrectable. -/
theorem Memory.bad2_put {m : Memory} {bs : List PutByte} {a n : Nat} (h : m.bad2 a n = none) : (m.put bs).bad2 a n = none := by
  simp only [Memory.bad2, Memory.put, List.find?_eq_none, List.mem_filter] at h ⊢
  exact fun w hw => h w hw.1

theorem Memory.bad2_write {m : Memory} {b k x a n : Nat} (h : m.bad2 a n = none) : (m.write b k x).bad2 a n = none := Memory.bad2_put h

/-! ### Arrival words (R80, R220) -/

theorem arriveWord_lt {w : Nat} (n : Nat) (h : w < 256 ^ 16) : arriveWord w n < 256 ^ 16 := by
  have htop : w / 2 ^ 96 < 2 ^ 32 := by omega
  have hor : w / 2 ^ 96 ||| 1 < 2 ^ 32 := Nat.or_lt_two_pow htop (by decide)
  simp only [arriveWord]
  generalize w / 2 ^ 96 ||| 1 = top at hor ⊢
  split
  · split <;> omega
  · next ht =>
    have hc := Nat.mod_lt (w / 2 ^ 32 % 2 ^ 32 + n) (Nat.pos_of_ne_zero ht)
    omega

/-- What `arrive` leaves in an arrival word is what R80 says. -/
theorem counted_arriveWord (w n : Nat) : Claims.Counted w (arriveWord w n) n := by
  have hodd : (w / 2 ^ 96 ||| 1) % 2 = 1 := by simp
  simp only [Claims.Counted, arriveWord]
  generalize w / 2 ^ 96 ||| 1 = top at hodd ⊢
  by_cases ht : w % 2 ^ 32 = 0
  · rw [if_pos ht]
    split <;> refine ⟨by omega, by omega, fun _ => ⟨by omega, by omega, by omega⟩⟩
  · rw [if_neg ht]
    have hc := Nat.mod_lt (w / 2 ^ 32 % 2 ^ 32 + n) (Nat.pos_of_ne_zero ht)
    generalize (w / 2 ^ 32 % 2 ^ 32 + n) % (w % 2 ^ 32) = c at hc ⊢
    generalize (w / 2 ^ 32 % 2 ^ 32 + n) / (w % 2 ^ 32) = q
    refine ⟨by omega, fun _ => ⟨by omega, by omega, by omega⟩, by omega⟩

/-- An arrival word as it reads after bytes have been counted into it. -/
theorem Memory.counted_write (m : Memory) (key n : Nat) (h : m.wf = true) :
    Claims.Counted (m.read key 16) ((m.write key 16 (arriveWord (m.read key 16) n)).read key 16) n := by
  rw [m.read_write_same _ _ _ h, Nat.mod_eq_of_lt (arriveWord_lt n (m.read_lt key 16))]
  exact counted_arriveWord _ n

/-- Setting ERR leaves the 96 bits below it. -/
theorem arrivalSetErr_spec {w : Nat} (h : w < 256 ^ 16) : arrivalSetErr w < 256 ^ 16 ∧ arrivalSetErr w % 2 ^ 96 = w % 2 ^ 96 ∧ arrivalSetErr w / 2 ^ 96 % 2 = 1 := by
  unfold arrivalSetErr arrivalErr
  split
  · next he => exact ⟨h, rfl, by simpa using he⟩
  · next he =>
    have he : w / 2 ^ 96 % 2 ≠ 1 := by simpa using he
    omega

theorem Memory.setErr_read (m : Memory) (key : Nat) (h : m.wf = true) (hb : m.bad2 key 16 = none) :
    (m.setErr key).read key 16 % 2 ^ 96 = m.read key 16 % 2 ^ 96 ∧ (m.setErr key).read key 16 / 2 ^ 96 % 2 = 1 := by
  obtain ⟨hlt, hlow, herr⟩ := arrivalSetErr_spec (m.read_lt key 16)
  simp only [Memory.setErr, hb, Option.isSome_none, Bool.false_eq_true, if_false]
  rw [m.read_write_same _ _ _ h, Nat.mod_eq_of_lt hlt]
  exact ⟨hlow, herr⟩

theorem Memory.byte_setErr_outside (m : Memory) {key z : Nat} (h : m.wf = true) (hz : z < key ∨ key + 16 ≤ z) : (m.setErr key).byte z = m.byte z := by
  unfold Memory.setErr
  split
  · rfl
  · exact m.byte_write_outside h hz

/-- A scratchpad place lies in the scratchpad of its core. -/
theorem keyCore_spadKey {j a : Nat} (hj : j < 2048) (ha : a < 2 ^ 20) : keyCore (spadKey j a) = j := by
  unfold keyCore spadKey sramBase coreZ
  omega

end Sys2Proof.Machine
end

section
/-! What the steps of a command leave of the state: bank ports, an asker's command put back, arrival words, watched words. -/
namespace Sys2Proof.Machine

/-! ### Bank ports -/

/-- A taken bank port shows in `agentPorts` alone. -/
theorem State.core_usePorts (s : State) (id key n : Nat) (write : Bool) (j : Nat) :
    ∃ ports, (s.usePorts id key n write).core j = { s.core j with agentPorts := ports } := by
  unfold State.usePorts
  split
  · exact ⟨_, rfl⟩
  · by_cases hj : j = id
    · subst hj
      exact ⟨_, s.core_updCore_self _ _⟩
    · exact ⟨_, s.core_updCore_other _ _ _ hj⟩

@[simp] theorem State.usePorts_mem (s : State) (id key n : Nat) (write : Bool) : (s.usePorts id key n write).mem = s.mem := by unfold State.usePorts; split <;> rfl
@[simp] theorem State.usePorts_owned (s : State) (id key n : Nat) (write : Bool) : (s.usePorts id key n write).owned = s.owned := by unfold State.usePorts; split <;> rfl
@[simp] theorem State.usePorts_agenda (s : State) (id key n : Nat) (write : Bool) : (s.usePorts id key n write).agenda = s.agenda := by unfold State.usePorts; split <;> rfl
@[simp] theorem State.usePorts_porters (s : State) (id key n : Nat) (write : Bool) : (s.usePorts id key n write).porters = s.porters := by unfold State.usePorts; split <;> rfl
@[simp] theorem State.usePorts_engines (s : State) (id key n : Nat) (write : Bool) (j : Nat) : ((s.usePorts id key n write).core j).engines = (s.core j).engines := by
  obtain ⟨ports, h⟩ := s.core_usePorts id key n write j
  rw [h]
@[simp] theorem State.usePorts_s (s : State) (id key n : Nat) (write : Bool) (j : Nat) : ((s.usePorts id key n write).core j).s = (s.core j).s := by
  obtain ⟨ports, h⟩ := s.core_usePorts id key n write j
  rw [h]
@[simp] theorem State.usePorts_sp (s : State) (id key n : Nat) (write : Bool) (j : Nat) : ((s.usePorts id key n write).core j).sp = (s.core j).sp := by
  obtain ⟨ports, h⟩ := s.core_usePorts id key n write j
  rw [h]

/-! ### Where a command stands -/

/-- An asker's command is in a queue of its core, or among the steps of a porter's run. -/
theorem State.cmdOf_congr {s u : State} (a : Asker) (hc : ∀ j, (u.core j).engines = (s.core j).engines) (hp : u.porters = s.porters) : u.cmdOf a = s.cmdOf a := by
  cases a with
  | engine c e id => simp only [State.cmdOf, hc]
  | step p t i => simp only [State.cmdOf, State.runOf, State.ctx, State.porter, hp]
  | thread c t i => rfl

@[simp] theorem State.cmdOf_usePorts (s : State) (id key n : Nat) (write : Bool) (a : Asker) : (s.usePorts id key n write).cmdOf a = s.cmdOf a :=
  State.cmdOf_congr a (s.usePorts_engines id key n write) (s.usePorts_porters id key n write)

theorem Engine.find_setCmd {e : Engine} {k : Cmd} (h : (e.queue.find? fun y => y.id == k.id).isSome = true) : (e.setCmd k).queue.find? (fun y => y.id == k.id) = some k := by
  obtain ⟨x, hx⟩ := Option.isSome_iff_exists.mp h
  have hid : x.id = k.id := by simpa using List.find?_some hx
  have hmap : ((fun y : Cmd => y.id == k.id) ∘ fun y => if y.id = k.id then k else y) = fun y => y.id == k.id := by
    funext y
    by_cases hy : y.id = k.id <;> simp [hy]
  rw [Engine.setCmd, List.find?_map, hmap, hx, Option.map_some, if_pos hid]

/-- An engine's command that is put back is found as it was put. -/
theorem State.cmdOf_putCmd {s : State} {c e i : Nat} {k : Cmd} (h : (s.cmdOf (.engine c e i)).isSome = true) (hk : k.id = i) :
    (s.putCmd (.engine c e i) k).cmdOf (.engine c e i) = some k := by
  subst hk
  simp only [State.putCmd, State.cmdOf, State.core_updCore_self, Fin.getElem_fin, Vector.getElem_set_self]
  exact Engine.find_setCmd h

@[simp] theorem State.putCmd_mem (s : State) (a : Asker) (k : Cmd) : (s.putCmd a k).mem = s.mem := by cases a <;> rfl
@[simp] theorem State.putCmd_owned (s : State) (a : Asker) (k : Cmd) : (s.putCmd a k).owned = s.owned := by cases a <;> rfl
@[simp] theorem State.putCmd_agenda (s : State) (a : Asker) (k : Cmd) : (s.putCmd a k).agenda = s.agenda := by cases a <;> rfl
@[simp] theorem State.putCmd_pending (s : State) (a : Asker) (k : Cmd) : (s.putCmd a k).pending = s.pending := by cases a <;> rfl
@[simp] theorem State.putCmd_s (s : State) (c e i : Nat) (k : Cmd) (j : Nat) : ((s.putCmd (.engine c e i) k).core j).s = (s.core j).s := by
  by_cases hj : j = c
  · subst hj
    simp [State.putCmd]
  · simp [State.putCmd, s.core_updCore_other _ _ _ hj]

@[simp] theorem State.forget_pending (s : State) (e : Ev) : (s.forget e).pending = s.pending := rfl

/-- A state with the same cores and porters holds the same commands. -/
theorem State.cmdOf_of_cores {s u : State} (a : Asker) (hc : u.cores = s.cores) (hp : u.porters = s.porters) : u.cmdOf a = s.cmdOf a :=
  State.cmdOf_congr a (fun j => by simp only [State.core, hc]) hp

@[simp] theorem State.cmdOf_post (s : State) (i : Instr) (x : EvArg) (a : Asker) : (s.post i x).cmdOf a = s.cmdOf a :=
  State.cmdOf_of_cores a (s.post_cores i x) (s.post_porters i x)

theorem State.mem_pending_post (s : State) (i : Instr) (x : EvArg) : (i, x) ∈ (s.post i x).pending := by
  unfold State.post
  split
  · next h => simpa using h
  · simp

theorem State.pending_post_of_mem {s : State} {e : Ev} (i : Instr) (x : EvArg) (h : e ∈ s.pending) : e ∈ (s.post i x).pending := by
  unfold State.post
  split
  · exact h
  · exact List.mem_append_left _ h

/-! ### Counting bytes into an arrival word -/

/-- The state after `n` bytes are counted into the arrival word at a key. -/
def State.arrived (s : State) (key n : Nat) : State :=
  (({ s with mem := s.mem.write key 16 (arriveWord (s.mem.read key 16) n) } : State).usePorts (keyCore key) key 16 false).usePorts (keyCore key) key 16 true

theorem State.countBytes_none (s : State) (k : Cmd) (n : Nat) : s.countBytes k none n = (s, { k with bytes := k.bytes + n }) := by
  simp [State.countBytes, State.arrive]

theorem State.countBytes_some (s : State) (k : Cmd) (key n : Nat) (h : s.mem.bad2 key 16 = none) :
    s.countBytes k (some key) n =
      (s.arrived key n, { k with bytes := k.bytes + n, fault := k.fault.orElse fun _ => if arrivalOver (s.mem.read key 16) n then some 0x0A else none }) := by
  simp [State.countBytes, State.arrive, h, State.arrived]

@[simp] theorem State.arrived_mem (s : State) (key n : Nat) : (s.arrived key n).mem = s.mem.write key 16 (arriveWord (s.mem.read key 16) n) := by simp [State.arrived]
@[simp] theorem State.arrived_owned (s : State) (key n : Nat) : (s.arrived key n).owned = s.owned := by simp [State.arrived]
@[simp] theorem State.arrived_agenda (s : State) (key n : Nat) : (s.arrived key n).agenda = s.agenda := by simp [State.arrived]
@[simp] theorem State.cmdOf_arrived (s : State) (key n : Nat) (a : Asker) : (s.arrived key n).cmdOf a = s.cmdOf a := by
  rw [State.arrived, State.cmdOf_usePorts, State.cmdOf_usePorts]
  exact State.cmdOf_of_cores a rfl rfl
@[simp] theorem State.arrived_s (s : State) (key n j : Nat) : ((s.arrived key n).core j).s = (s.core j).s := by
  rw [State.arrived, State.usePorts_s, State.usePorts_s]
  rfl

/-! ### Watched words -/

/-- The part of a state that telling other members and porters of a write leaves. -/
structure Stage where
  mem : Memory
  cores : List (Nat × Core)
  porters : List (Nat × Porter)
  owned : List Owned
  agenda : List Item
def State.stage (s : State) : Stage := ⟨s.mem, s.cores, s.porters, s.owned, s.agenda⟩

theorem State.stage_sendGroup (s : State) (g m type step : Nat) (ws : List Nat) : (s.sendGroup g m type step ws).stage = s.stage := by
  unfold State.sendGroup State.sendFlit
  split <;> rfl
theorem State.stage_sendMembers (s : State) (g type step : Nat) (ws : List Nat) : (s.sendMembers g type step ws).stage = s.stage :=
  foldl_keeps _ State.stage (fun s m => s.stage_sendGroup g m type step ws) _ s
theorem State.stage_post (s : State) (i : Instr) (x : EvArg) : (s.post i x).stage = s.stage := by simp [State.stage]

theorem State.stage_tellPorter (s : State) (go : Bool) (i : Instr) (x : EvArg) : (if go then s.post i x else s).stage = s.stage := by
  cases go
  · rfl
  · exact s.stage_post i x
theorem State.stage_tellMembers (s : State) (hit : Bool) (same : Prop) [Decidable same] (g type step : Nat) (f : Group → Group) :
    (if hit then (if same then s else (s.updGroup g f).sendMembers g type step []) else s).stage = s.stage := by
  cases hit
  · rfl
  · by_cases h : same
    · simp [h]
    · simp only [h, if_true, if_false]
      exact State.stage_sendMembers _ g type step []

theorem State.stage_noteWrite (s : State) (pa n : Nat) : (s.noteWrite pa n).stage = s.stage := by
  refine foldl_keeps _ State.stage (fun s l => ?_) _ s
  cases l.groupSlot with
  | none => exact s.stage_tellPorter _ _ _
  | some g => exact (State.stage_tellMembers _ _ _ _ _ _ _).trans (s.stage_tellPorter _ _ _)

@[simp] theorem State.noteWrite_mem (s : State) (pa n : Nat) : (s.noteWrite pa n).mem = s.mem := congrArg Stage.mem (s.stage_noteWrite pa n)
@[simp] theorem State.noteWrite_cores (s : State) (pa n : Nat) : (s.noteWrite pa n).cores = s.cores := congrArg Stage.cores (s.stage_noteWrite pa n)
@[simp] theorem State.noteWrite_porters (s : State) (pa n : Nat) : (s.noteWrite pa n).porters = s.porters := congrArg Stage.porters (s.stage_noteWrite pa n)
@[simp] theorem State.noteWrite_owned (s : State) (pa n : Nat) : (s.noteWrite pa n).owned = s.owned := congrArg Stage.owned (s.stage_noteWrite pa n)
@[simp] theorem State.noteWrite_agenda (s : State) (pa n : Nat) : (s.noteWrite pa n).agenda = s.agenda := congrArg Stage.agenda (s.stage_noteWrite pa n)
@[simp] theorem State.cmdOf_noteWrite (s : State) (pa n : Nat) (a : Asker) : (s.noteWrite pa n).cmdOf a = s.cmdOf a :=
  State.cmdOf_of_cores a (s.noteWrite_cores pa n) (s.noteWrite_porters pa n)

end Sys2Proof.Machine
end

section
/-! O39: the recall of an owned line completes (R218, R318). -/
namespace Sys2Proof.Machine

/-- What a recall leaves before its owner is told: the owner's bytes are written, the line is free, and what waited is due. -/
def State.released (s : State) (line : Nat) (o : Owned) (puts : List PutByte) : State :=
  ({ s with mem := s.mem.putDev puts, owned := s.owned.filter (fun x => x.line != line),
            agenda := o.waiting.map (fun e => Item.event e.2.1 e.2.2) ++ s.agenda } : State).unpost .recallComplete (.memLine line)

@[simp] theorem State.released_mem (s : State) (line : Nat) (o : Owned) (puts : List PutByte) : (s.released line o puts).mem = s.mem.putDev puts := rfl
@[simp] theorem State.released_cores (s : State) (line : Nat) (o : Owned) (puts : List PutByte) : (s.released line o puts).cores = s.cores := rfl
@[simp] theorem State.released_owned (s : State) (line : Nat) (o : Owned) (puts : List PutByte) :
    (s.released line o puts).owned = s.owned.filter (fun x => x.line != line) := rfl
@[simp] theorem State.released_agenda (s : State) (line : Nat) (o : Owned) (puts : List PutByte) :
    (s.released line o puts).agenda = o.waiting.map (fun e => Item.event e.2.1 e.2.2) ++ s.agenda := rfl
@[simp] theorem State.cmdOf_released (s : State) (line : Nat) (o : Owned) (puts : List PutByte) (a : Asker) : (s.released line o puts).cmdOf a = s.cmdOf a :=
  State.cmdOf_of_cores a rfl rfl

/-- The recall of a line that no tier move owns, whose write carries no check value of its own. -/
theorem State.recall_goesOn {s : State} {line : Nat} {o : Owned} (ho : s.ownerOf line = some o) (hcv : o.cv = none) (hs : s.ownerStops o = false) :
    s.recall line = ((s.released line o o.puts).ownerDone o).noteWrite line 64 := by
  simp [State.recall, ho, hs, hcv, Owned.perform, State.released]

/-- The recall of a line whose owner writes nothing more. -/
theorem State.recall_stops {s : State} {line : Nat} {o : Owned} (ho : s.ownerOf line = some o) (hs : s.ownerStops o = true) :
    s.recall line = (s.released line o []).ownerDone { o with puts := [], cv := none } := by
  simp [State.recall, ho, hs, Owned.perform, State.released]

theorem State.execRecallComplete_move {s : State} {line n : Nat} {o : Owned} (hat : Claims.At s (.memLine line)) (ho : s.ownerOf line = some o) (hm : o.owner = .move n) :
    execRecallComplete s = .next s := by
  obtain ⟨l, owner, puts, cv, count, waiting⟩ := o
  subst hm
  rw [execRecallComplete, hat]
  simp only [ho]

theorem State.execRecallComplete_of_not_move {s : State} {line : Nat} {o : Owned} (hat : Claims.At s (.memLine line)) (ho : s.ownerOf line = some o)
    (hm : ∀ n, o.owner ≠ .move n) : execRecallComplete s = .next (s.recall line) := by
  obtain ⟨l, owner, puts, cv, count, waiting⟩ := o
  rw [execRecallComplete, hat]
  simp only [ho]
  cases owner with
  | move n => exact absurd rfl (hm n)
  | cmd a => rfl
  | host uid => rfl

/-- The owner's command is put back with one line less, and goes on or closes. -/
theorem State.ownerDone_cmd {s s1 : State} {o : Owned} {a : Asker} {k k1 : Cmd} (hw : o.owner = .cmd a) (hk : s.cmdOf a = some k)
    (hcount : (if k.fault.isSome then (s, k) else s.countBytes k k.arrival o.count) = (s1, k1)) :
    (s.ownerDone o).stage = (s1.putCmd a { k1 with owned := k1.owned - 1 }).stage := by
  simp only [State.ownerDone, hw, hk, hcount]
  split
  · exact State.stage_post _ _ _
  · exact State.stage_post _ _ _

/-- The recall of a line of a command that has faulted. -/
theorem State.recall_faulted {s : State} {line : Nat} {o : Owned} {a : Asker} {k : Cmd} (ho : s.ownerOf line = some o) (hw : o.owner = .cmd a) (hk : s.cmdOf a = some k)
    (hf : k.fault ≠ none) : (s.recall line).stage = ((s.released line o []).putCmd a { k with owned := k.owned - 1 }).stage := by
  have hfs : k.fault.isSome = true := Option.isSome_iff_ne_none.mpr hf
  rw [State.recall_stops ho (by simp only [State.ownerStops, hw, hk, hfs])]
  exact State.ownerDone_cmd (o := { o with puts := [], cv := none }) hw ((s.cmdOf_released line o [] a).trans hk) (if_pos hfs)

/-- The recall of a line of a command that goes on: its bytes are written and counted. -/
theorem State.recall_counted {s t : State} {line : Nat} {o : Owned} {a : Asker} {k k1 : Cmd} (ho : s.ownerOf line = some o) (hcv : o.cv = none) (hw : o.owner = .cmd a)
    (hk : s.cmdOf a = some k) (hf : k.fault = none) (hcount : (s.released line o o.puts).countBytes k k.arrival o.count = (t, k1)) :
    (s.recall line).stage = (t.putCmd a { k1 with owned := k1.owned - 1 }).stage := by
  rw [State.recall_goesOn ho hcv (by simp only [State.ownerStops, hw, hk, hf, Option.isSome_none]), State.stage_noteWrite]
  exact State.ownerDone_cmd hw ((s.cmdOf_released line o o.puts a).trans hk) (by rw [hf, Option.isSome_none, if_neg Bool.false_ne_true, hcount])

theorem State.mem_of_stage {s u : State} (h : u.stage = s.stage) : u.mem = s.mem := congrArg Stage.mem h
theorem State.owned_of_stage {s u : State} (h : u.stage = s.stage) : u.owned = s.owned := congrArg Stage.owned h
theorem State.agenda_of_stage {s u : State} (h : u.stage = s.stage) : u.agenda = s.agenda := congrArg Stage.agenda h
theorem State.cmdOf_of_stage {s u : State} (a : Asker) (h : u.stage = s.stage) : u.cmdOf a = s.cmdOf a :=
  State.cmdOf_of_cores a (congrArg Stage.cores h) (congrArg Stage.porters h)

end Sys2Proof.Machine

namespace Sys2Proof.Proofs
open Sys2Proof Sys2Proof.Machine Sys2Proof.Claims

/-- The line is free, and what waited for it runs again. -/
theorem released_ends {s u t : State} {line : Nat} {o : Owned} {puts : List PutByte} {a : Asker} {k : Cmd} (hu : u.stage = (t.putCmd a k).stage)
    (hown : t.owned = (s.released line o puts).owned) (hag : t.agenda = (s.released line o puts).agenda) :
    u.owned = s.owned.filter (fun x => x.line != line) ∧ u.agenda = o.waiting.map (fun e => Item.event e.2.1 e.2.2) ++ s.agenda :=
  ⟨by rw [State.owned_of_stage hu, State.putCmd_owned, hown, State.released_owned], by rw [State.agenda_of_stage hu, State.putCmd_agenda, hag, State.released_agenda]⟩

theorem recallsComplete : RecallsComplete := by
  intro s line o hat ho hcv hwf m ends
  refine ⟨fun n hw => ?_, fun uid hw => ?_, ?_⟩
  · rw [exec_recallComplete, State.execRecallComplete_move hat ho hw]
  · refine ⟨s.recall line, ?_, ?_⟩
    · rw [exec_recallComplete, State.execRecallComplete_of_not_move hat ho (by simp [hw])]
    · rw [State.recall_goesOn ho hcv (by simp [State.ownerStops, hw])]
      simp [State.ownerDone, hw, ends, m]
  intro id e k a hw hk
  have hex : exec .recallComplete s = .next (s.recall line) := by
    rw [exec_recallComplete, State.execRecallComplete_of_not_move hat ho (by simp [hw])]
  have hput : ∀ {t : State} {k1 : Cmd}, t.cmdOf a = s.cmdOf a → k1.id = k.id → (t.putCmd a k1).cmdOf a = some k1 :=
    fun ht hid => State.cmdOf_putCmd (by rw [ht, hk]; rfl) hid
  refine ⟨fun hf => ?_, fun hf harr => ?_, fun j w hf harr hbad => ?_⟩
  · have hu := State.recall_faulted ho hw hk hf
    refine ⟨_, hex, ?_, released_ends hu rfl rfl, ?_⟩
    · rw [State.mem_of_stage hu, State.putCmd_mem, State.released_mem, Memory.putDev_nil]
    · rw [State.cmdOf_of_stage a hu]
      exact hput (s.cmdOf_released line o [] a) rfl
  · have hu := State.recall_counted ho hcv hw hk hf (by rw [harr, State.countBytes_none])
    refine ⟨_, hex, ?_, released_ends hu rfl rfl, ?_⟩
    · rw [State.mem_of_stage hu, State.putCmd_mem, State.released_mem]
    · rw [State.cmdOf_of_stage a hu]
      exact hput (s.cmdOf_released line o o.puts a) rfl
  · have hu := State.recall_counted ho hcv hw hk hf (by rw [harr, State.countBytes_some _ _ _ _ hbad])
    have hmem : (s.recall line).mem = m.write (spadKey j w) 16 (arriveWord (m.read (spadKey j w) 16) o.count) := by
      rw [State.mem_of_stage hu, State.putCmd_mem, State.arrived_mem, State.released_mem]
    have hm : m.wf = true := s.mem.wf_putDev _ hwf
    refine ⟨_, hex, released_ends hu (State.arrived_owned _ _ _) (State.arrived_agenda _ _ _), ?_, fun z hz => ?_, ?_⟩
    · rw [hmem]
      exact m.counted_write _ _ hm
    · rw [hmem]
      exact m.byte_write_outside hm hz
    · have hc := (State.cmdOf_of_stage a hu).trans (hput ((State.cmdOf_arrived _ _ _ a).trans (s.cmdOf_released line o o.puts a)) rfl)
      rw [hc, Option.map_some]

end Sys2Proof.Proofs
end

section
/-! O39: a finished command leaves its queue (R219 to R221). -/
namespace Sys2Proof.Machine

/-- A core from which a finished command is gone. -/
def Core.retired (c : Core) (e : Fin 2) (k : Cmd) : Core := ({ c with engines := c.engines.set e ((c.engines[e]).retire k) } : Core).dropId k.id

theorem Core.retired_ids (c : Core) (e : Fin 2) (k : Cmd) :
    (((c.retired e k).engines[e]).queue.map (·.id)) = ((c.engines[e]).queue.map (·.id)).filter (· != k.id) := by
  simp [Core.retired, Core.dropId, Engine.retire, List.filter_map, Function.comp_def]

theorem Core.retired_after (c : Core) (e : Fin 2) (k : Cmd) : ∀ x ∈ ((c.retired e k).engines[e]).queue, k.id ∉ x.after := by
  simp only [Core.retired, Core.dropId, Fin.getElem_fin, Vector.getElem_map, List.mem_map, forall_exists_index, and_imp, forall_apply_eq_imp_iff₂]
  intro x _
  simp

theorem Core.retired_history (c : Core) (e : Fin 2) (k : Cmd) :
    ((c.retired e k).engines[e]).history = ⟨k.id, k.fault.isSome, k.fault.getD 0, k.bytes⟩ :: (c.engines[e]).history.filter (fun x => x.id != k.id) := by
  simp [Core.retired, Core.dropId, Engine.retire]

theorem Core.retired_releases (c : Core) (e : Fin 2) (k : Cmd) : ∀ r ∈ (c.retired e k).releases, k.id ∉ r.cmds := by
  simp only [Core.retired, Core.dropId, List.mem_map, forall_exists_index, and_imp, forall_apply_eq_imp_iff₂]
  intro r _
  simp

/-! ### The fault of a command is kept where its arrival word lies -/

theorem State.completeCmd_unfaulted (s : State) (id : Nat) (e : Fin 2) (k : Cmd) (h : k.fault = none) :
    (s.completeCmd id e k).stage = (s.updCore id fun c => c.retired e k).stage := by
  simp only [State.completeCmd, h]
  rfl

theorem State.completeCmd_faulted (s : State) (id : Nat) (e : Fin 2) (k : Cmd) {code : Nat} (h : k.fault = some code) :
    (s.completeCmd id e k).stage = ((s.updCore id fun c => c.retired e k).reportFault k code id).stage := by
  simp only [State.completeCmd, h]
  rfl

theorem State.core_of_stage {s u : State} (h : u.stage = s.stage) (j : Nat) : u.core j = s.core j := by
  have hc : u.cores = s.cores := congrArg Stage.cores h
  simp only [State.core, hc]

/-- A fault without an arrival word is kept at the core of its engine. -/
theorem State.reportFault_none {s : State} {k : Cmd} (code own : Nat) (h : k.arrival = none) :
    (s.reportFault k code own).mem = s.mem ∧ ((s.reportFault k code own).core own).faults = (s.core own).faults ++ [⟨k.id, code, none⟩] := by
  simp only [State.reportFault, h, State.updCore_mem, State.core_updCore_self, true_and]

/-- One with an arrival word is kept where the word lies, and the word shows it. -/
theorem State.reportFault_some {s : State} {k : Cmd} {key : Nat} (code own : Nat) (h : k.arrival = some key) :
    (s.reportFault k code own).mem = s.mem.setErr key ∧
      ((s.reportFault k code own).core (keyCore key)).faults = (s.core (keyCore key)).faults ++ [⟨k.id, code, some key⟩] := by
  simp only [State.reportFault, h, State.updCore_mem, State.core_updCore_self, true_and]
  rfl

/-- Reporting a fault changes the faults of a core alone. -/
theorem State.core_reportFault (s : State) (k : Cmd) (code own j : Nat) : ∃ fs, (s.reportFault k code own).core j = { s.core j with faults := fs } := by
  have hupd : ∀ (t : State) (i : Nat) (f : CopyFault), t.cores = s.cores →
      ∃ fs, (t.updCore i fun c => { c with faults := c.faults ++ [f] }).core j = { s.core j with faults := fs } := fun t i f ht => by
    have hcore : t.core j = s.core j := by simp only [State.core, ht]
    by_cases hj : j = i
    · subst hj
      exact ⟨_, by rw [State.core_updCore_self, hcore]⟩
    · exact ⟨_, by rw [State.core_updCore_other _ _ _ _ hj, hcore]⟩
  unfold State.reportFault
  split
  · exact hupd _ _ _ rfl
  · exact hupd _ _ _ rfl

theorem State.core_completeCmd (s : State) (id : Nat) (e : Fin 2) (k : Cmd) : ∃ fs, (s.completeCmd id e k).core id = { (s.core id).retired e k with faults := fs } := by
  cases hf : k.fault with
  | none =>
    rw [State.core_of_stage (s.completeCmd_unfaulted id e k hf), State.core_updCore_self]
    exact ⟨_, rfl⟩
  | some code =>
    rw [State.core_of_stage (s.completeCmd_faulted id e k hf)]
    obtain ⟨fs, h⟩ := (s.updCore id fun c => c.retired e k).core_reportFault k code id id
    exact ⟨fs, by rw [h, State.core_updCore_self]⟩

/-- Retiring a command reports no fault and takes none back. -/
theorem State.faults_updCore_retired (s : State) (id j : Nat) (e : Fin 2) (k : Cmd) : ((s.updCore id fun c => c.retired e k).core j).faults = (s.core j).faults := by
  by_cases hj : j = id
  · subst hj
    rw [State.core_updCore_self]
    rfl
  · rw [State.core_updCore_other _ _ _ _ hj]

end Sys2Proof.Machine

namespace Sys2Proof.Proofs
open Sys2Proof Sys2Proof.Machine Sys2Proof.Claims

theorem commandsEnd : CommandsEnd := by
  intro s id k hat e c hq
  have hexec : execCopyCommandComplete s = if c.cmdDone k then .next (s.completeCmd id e k) else .next s := by
    rw [execCopyCommandComplete, hat]
    simp only [e, c] at hq ⊢
    rw [hq]
  refine ⟨fun hdone => ?_, fun hdone hwf => ⟨s.completeCmd id e k, ?_, ?_⟩⟩
  · rw [exec_copyCommandComplete, hexec, hdone, if_neg Bool.false_ne_true]
  · rw [exec_copyCommandComplete, hexec, hdone, if_pos rfl]
  obtain ⟨fs, hcore⟩ := s.core_completeCmd id e k
  refine ⟨by rw [hcore]; exact c.retired_ids e k, by rw [hcore]; exact c.retired_after e k, by rw [hcore]; rfl, by rw [hcore]; exact c.retired_releases e k,
    by rw [hcore]; exact c.retired_history e k, by rw [hcore]; rfl, fun hf => ?_, fun code hf => ⟨fun harr => ?_, fun j a harr hj ha => ?_⟩⟩
  · have hu := s.completeCmd_unfaulted id e k hf
    exact ⟨by rw [State.mem_of_stage hu, State.updCore_mem], by rw [State.core_of_stage hu, s.faults_updCore_retired id id e k]⟩
  · have hu := s.completeCmd_faulted id e k hf
    obtain ⟨hmem, hfaults⟩ := State.reportFault_none (s := s.updCore id fun c => c.retired e k) code id harr
    exact ⟨by rw [State.mem_of_stage hu, hmem, State.updCore_mem], by rw [State.core_of_stage hu, hfaults, s.faults_updCore_retired id id e k]⟩
  · have hu := s.completeCmd_faulted id e k hf
    obtain ⟨hmem, hfaults⟩ := State.reportFault_some (s := s.updCore id fun c => c.retired e k) code id harr
    rw [keyCore_spadKey hj ha] at hfaults
    rw [State.core_of_stage hu, State.mem_of_stage hu, hmem, State.updCore_mem]
    exact ⟨by rw [hfaults, s.faults_updCore_retired id j e k], fun z hz => s.mem.byte_setErr_outside hwf hz, fun hbad => s.mem.setErr_read _ hwf hbad⟩

end Sys2Proof.Proofs
end

section
/-! O39: where an element lies, how it is read, and how it lands in a scratchpad (R76, R216, R217). -/
namespace Sys2Proof.Machine

/-- The address of an element as the sum over its indices, no dimension being left out. -/
theorem walkAddr_add_walkBase (w : BitVec 512) {skip : Nat} (n k j : Nat) (acc : Int) (h : k + n ≤ skip) :
    walkAddr w n k j acc + walkBase w = acc + walkSum w skip k (walkIdx w n k j) := by
  induction n generalizing k j acc with
  | zero => rfl
  | succ n ih =>
    have hk : k ≠ skip := by omega
    rw [walkAddr, ih _ _ _ (by omega), walkIdx, walkSum, if_neg hk]
    simp only [walkBound, walkStride]
    omega

theorem walkSum_walkIdx (w : BitVec 512) (j : Nat) (h : walkDims w ≤ 6) : walkSum w 6 0 (walkIdx w (walkDims w) 0 j) = walkAt w j := by
  have := walkAddr_add_walkBase w (skip := 6) (walkDims w) 0 j (walkField w 0 48 : Nat) (by omega)
  simp only [walkBase] at this
  rw [walkAt]
  omega

/-- The spot of a scratchpad byte. -/
def spadAt (core x tenant : Nat) : Spot := ⟨spadKey core x, plainLeaf, tenant, false⟩

theorem State.elemSpot_spad {s : State} {a : Asker} {r : Req} {k : Cmd} {w : BitVec 512} {kind j x n : Nat} (hkind : walkKind w = 0) (hpaged : walkPaged w = 0) (hdims : walkDims w ≤ 6)
    (hn : 2 ^ walkEsize w = n) (hx : walkAt w j = (x : Nat)) (hal : x % n = 0) (hlt : x + n ≤ 0x10_0000)
    (hpre : (s.core (askerHome a)).sp.preen = true → k.handler = false → x + n ≤ 0xF_C000) :
    s.elemSpot a r k w (walkIdx w (walkDims w) 0 j) kind = (s, .ok (spadAt (askerHome a) x r.tenant)) := by
  have hrange : ¬((x : Int) < 0 ∨ 0x10_0000 < (x : Int) + (n : Nat) ∨ ((s.core (askerHome a)).sp.preen ∧ ¬k.handler ∧ 0xF_C000 < (x : Int) + (n : Nat))) := by
    rintro (h | h | ⟨h, hh, hlt'⟩)
    · omega
    · omega
    · have := hpre h (by simpa using hh)
      omega
  have hmod : ¬((x : Int) % (n : Nat) ≠ 0) := by omega
  simp only [State.elemSpot, walkSum_walkIdx w j hdims, hpaged, hkind, hn, hx, ne_eq, not_true_eq_false, if_false, State.spadSpot]
  rw [if_neg hrange, if_neg hmod]
  rfl

/-- The state after an element has been read from a scratchpad. -/
def State.fetched (s : State) (key n : Nat) : State := { s.usePorts (keyCore key) key n false with mem := s.mem.scrub key n }

theorem State.fetched_mem (s : State) (key n : Nat) : (s.fetched key n).mem = s.mem.scrub key n := rfl
theorem State.cmdOf_fetched (s : State) (key n : Nat) (a : Asker) : (s.fetched key n).cmdOf a = s.cmdOf a :=
  (State.cmdOf_of_cores a rfl rfl).trans (s.cmdOf_usePorts (keyCore key) key n false a)
theorem State.fetched_s (s : State) (key n j : Nat) : ((s.fetched key n).core j).s = (s.core j).s := s.usePorts_s (keyCore key) key n false j
theorem State.fetched_sp (s : State) (key n j : Nat) : ((s.fetched key n).core j).sp = (s.core j).sp := s.usePorts_sp (keyCore key) key n false j

/-- With no write of an earlier bundle on its way, a copy reads a scratchpad as it is (R389). -/
theorem State.copyMem_quiet {s : State} {id e i : Nat} (k : Cmd) (h : (s.core id).writes = []) : s.copyMem (.engine id e i) k = s.mem := by
  simp [State.copyMem, h, State.doWrites]

theorem State.readSpot_spad {s : State} {id e i : Nat} {r : Req} {k : Cmd} {x tenant n : Nat} (hw : (s.core id).writes = []) (hn : n < 64)
    (herr : s.mem.devError (spadKey id x) n true = (0, 0)) :
    s.readSpot (.engine id e i) r k (spadAt id x tenant) n = (s.fetched (spadKey id x) n, .ok (s.mem.bytes (spadKey id x) n, [])) := by
  have hfmt : isFormat plainLeaf.state = false := rfl
  simp only [State.readSpot, spadAt, State.copyMem_quiet k hw, Memory.devRead, hfmt, hn, decide_true, herr, Bool.false_eq_true, if_false, if_true, ne_eq, not_true_eq_false,
    Memory.scrubRead, storedAt, State.usePorts_mem, State.fetched]

/-- Element `j` of a copy that reads a scratchpad. -/
theorem State.srcElem_spad {s : State} {id e i : Nat} {r : Req} {k : Cmd} {j x n : Nat} (hk : k.kind = .cpy) (hkind : walkKind k.src = 0) (hpaged : walkPaged k.src = 0)
    (hdims : walkDims k.src ≤ 6) (hn : 2 ^ walkEsize k.src = n) (hx : walkAt k.src j = (x : Nat)) (hal : x % n = 0) (hlt : x + n ≤ 0x10_0000)
    (hpre : (s.core id).sp.preen = true → k.handler = false → x + n ≤ 0xF_C000) (hw : (s.core id).writes = []) (hn64 : n < 64)
    (herr : s.mem.devError (spadKey id x) n true = (0, 0)) :
    s.srcElem (.engine id e i) r k j = (s.fetched (spadKey id x) n, .ok (s.mem.bytes (spadKey id x) n, [], r.tenant)) := by
  have hspot := State.elemSpot_spad (s := s) (a := .engine id e i) (r := r) (k := k) (kind := 0) hkind hpaged hdims hn hx hal hlt hpre
  simp only [State.srcElem, State.srcSpot, hk, srcIndex, State.rowIdx, andThen, hspot, State.srcBytes, hn, askerHome, State.readSpot_spad hw hn64 herr]
  rfl

/-- The place of element `j` of a copy that writes a scratchpad. -/
theorem State.dstSpot_spad {s : State} {id e i : Nat} {r : Req} {k : Cmd} {j y n : Nat} (hk : k.kind = .cpy) (hkind : walkKind k.dst = 0) (hpaged : walkPaged k.dst = 0)
    (hdims : walkDims k.dst ≤ 6) (hn : 2 ^ walkEsize k.dst = n) (hy : walkAt k.dst j = (y : Nat)) (hal : y % n = 0) (hlt : y + n ≤ 0x10_0000)
    (hpre : (s.core id).sp.preen = true → k.handler = false → y + n ≤ 0xF_C000) :
    s.dstSpot (.engine id e i) r k j = (s, .ok (spadAt id y r.tenant)) := by
  have hspot := State.elemSpot_spad (s := s) (a := .engine id e i) (r := r) (k := k) (kind := 1) hkind hpaged hdims hn hy hal hlt hpre
  simp only [State.dstSpot, hk, dstIndex, State.rowIdx, andThen, hspot, askerHome]

/-- The state after bytes have been put in a scratchpad. -/
def State.stored (s : State) (key : Nat) (bs : List Byte) : State := ({ s with mem := s.mem.put (putBytes key bs) } : State).usePorts (keyCore key) key bs.length true

theorem State.stored_mem (s : State) (key : Nat) (bs : List Byte) : (s.stored key bs).mem = s.mem.put (putBytes key bs) := State.usePorts_mem _ _ _ _ _
theorem State.cmdOf_stored (s : State) (key : Nat) (bs : List Byte) (a : Asker) : (s.stored key bs).cmdOf a = s.cmdOf a :=
  (State.cmdOf_usePorts _ _ _ _ _ a).trans (State.cmdOf_of_cores a rfl rfl)
theorem State.stored_s (s : State) (key : Nat) (bs : List Byte) (j : Nat) : ((s.stored key bs).core j).s = (s.core j).s := State.usePorts_s _ _ _ _ _ j

theorem State.writeSpot_spad {s t : State} {a : Asker} {r : Req} {k k1 : Cmd} {core y tenant n : Nat} {bs : List Byte} {arr : Option Nat} (hlen : bs.length = n)
    (hcount : (s.stored (spadKey core y) bs).countBytes k arr n = (t, k1)) :
    s.writeSpot a r k (spadAt core y tenant) bs [] arr = (t, .ok { k1 with off := k1.off + n }) := by
  subst hlen
  simp only [State.stored] at hcount
  simp only [State.writeSpot, spadAt, Memory.putCopied, Bool.false_eq_true, if_false, hcount]

/-- A walk that names no hoop pushes into none. -/
theorem Cmd.hoopTarget_none {k : Cmd} (own : Nat) (h : walkHoop k.dst = none) : k.hoopTarget own = none := by
  have hbit : walkBase k.dst / 2 ^ 23 % 2 = walkField k.dst 23 1 := by
    simp only [walkBase, walkField]
    omega
  unfold walkHoop at h
  unfold Cmd.hoopTarget
  split at h
  · simp at h
  · next hno =>
    rw [hbit] at hno
    exact if_neg hno

end Sys2Proof.Machine
end

section
/-! O39: an element of a copy between scratchpad places (R80, R217). -/
namespace Sys2Proof.Machine

/-- What a settled request leaves: its command put back. -/
theorem stage_settleCmd_ok (a : Asker) (k k1 : Cmd) (ev : Ev) (t : State) : (settleCmd a k ev (t, .ok k1)).stage = (t.putCmd a k1).stage := by
  simp only [settleCmd]
  split
  · exact State.stage_post _ _ _
  · exact State.stage_post _ _ _

/-- A data command that has started, has not ended and is not held up moves its next element. -/
theorem State.stepData_moves {s : State} {a : Asker} {k : Cmd} (ev : Ev) (hk : s.cmdOf a = some k) (hkind : k.kind = .cpy) (hf : k.fault = none) (hs : k.started = true)
    (hoff : k.off < k.total) (hh : s.heldUp a = false) : s.stepData a ev = settleCmd a k ev (s.moveElem a (s.reqOf a ev) k) := by
  simp [State.stepData, hk, hf, hs, Nat.ne_of_lt hoff, hh, State.stepElem, hkind]

/-! ### The bytes of the element -/

/-- The state after `n` bytes of a core's scratchpad have been copied to another place of it. -/
def State.copied (s : State) (id x y n : Nat) : State := (s.fetched (spadKey id x) n).stored (spadKey id y) (s.mem.bytes (spadKey id x) n)

theorem State.copied_mem (s : State) (id x y n : Nat) :
    (s.copied id x y n).mem = (s.mem.scrub (spadKey id x) n).put (putBytes (spadKey id y) (s.mem.bytes (spadKey id x) n)) := by
  rw [State.copied, State.stored_mem, State.fetched_mem]
theorem State.copied_wf {s : State} (id x y n : Nat) (h : s.mem.wf = true) : (s.copied id x y n).mem.wf = true := by
  rw [State.copied_mem]
  exact Memory.wf_put _ _ h
theorem State.copied_read {s : State} (id x y n : Nat) (h : s.mem.wf = true) : (s.copied id x y n).mem.read (spadKey id y) n = s.mem.read (spadKey id x) n := by
  rw [State.copied_mem]
  exact Memory.read_put_bytes _ _ _ _ _ h
theorem State.copied_byte {s : State} {id x y n z : Nat} (h : s.mem.wf = true) (hz : z < spadKey id y ∨ spadKey id y + n ≤ z) :
    (s.copied id x y n).mem.byte z = s.mem.byte z := by
  rw [State.copied_mem]
  exact Memory.byte_put_outside _ h (by rwa [Memory.length_bytes])
theorem State.copied_word {s : State} {id x y n b m : Nat} (h : s.mem.wf = true) (hb : b + m ≤ spadKey id y ∨ spadKey id y + n ≤ b) :
    (s.copied id x y n).mem.read b m = s.mem.read b m :=
  Memory.read_congr fun i hi => State.copied_byte h (by omega)
theorem State.copied_bad2 {s : State} (id x y n : Nat) {b m : Nat} (h : s.mem.bad2 b m = none) : (s.copied id x y n).mem.bad2 b m = none := by
  rw [State.copied_mem]
  exact Memory.bad2_put h
theorem State.cmdOf_copied (s : State) (id x y n : Nat) (a : Asker) : (s.copied id x y n).cmdOf a = s.cmdOf a := by
  rw [State.copied, State.cmdOf_stored, State.cmdOf_fetched]
theorem State.copied_s (s : State) (id x y n j : Nat) : ((s.copied id x y n).core j).s = (s.core j).s := by
  rw [State.copied, State.stored_s, State.fetched_s]

/-- What an element of a copy to a scratchpad comes to: its bytes are stored, and counted. -/
theorem State.moveElem_spad {s t : State} {id e i : Nat} {r : Req} {k k1 : Cmd} {x y n : Nat} (hhoop : walkHoop k.dst = none) (hdn : 2 ^ walkEsize k.dst = n)
    (hsrc : s.srcElem (.engine id e i) r k (k.off / n) = (s.fetched (spadKey id x) n, .ok (s.mem.bytes (spadKey id x) n, [], r.tenant)))
    (hdst : (s.fetched (spadKey id x) n).dstSpot (.engine id e i) r k (k.off / n) = (s.fetched (spadKey id x) n, .ok (spadAt id y r.tenant)))
    (hcount : (s.copied id x y n).countBytes k k.arrival n = (t, k1)) :
    s.moveElem (.engine id e i) r k = (t, .ok { k1 with off := k1.off + n }) := by
  have hwrite := State.writeSpot_spad (a := .engine id e i) (r := r) (tenant := r.tenant) (s.mem.length_bytes _ n) hcount
  have hdev : (spadAt id y r.tenant).dev = false := rfl
  simp only [State.moveElem, Cmd.hoopTarget_none _ hhoop, hdn, hsrc, andThen, hdst, hdev, Bool.false_and, Bool.false_eq_true, if_false, hwrite]

/-- What counting leaves of a command without a fault. -/
theorem State.countBytes_unfaulted {s : State} {k : Cmd} {key w : Nat} (n : Nat) (hf : k.fault = none) (hbad : s.mem.bad2 key 16 = none) (hw : s.mem.read key 16 = w) :
    s.countBytes k (some key) n =
      (s.arrived key n, { k with bytes := k.bytes + n, fault := if w % 2 ^ 32 = 0 ∧ 2 ^ 32 ≤ w / 2 ^ 32 % 2 ^ 32 + n then some 0x0A else none }) := by
  rw [State.countBytes_some _ _ _ _ hbad, hw, hf]
  simp [arrivalOver]

end Sys2Proof.Machine

namespace Sys2Proof.Proofs
open Sys2Proof Sys2Proof.Machine Sys2Proof.Claims

theorem elementCopied : ElementCopied := by
  intro s id k el x y hat hk hkind hstart hf hheld hwf hel hdk hsk hdp hsp hhoop hde hse hsd hdd n c hal hoff hw hx hy hxal hyal hxlt hylt hpre herr
  let a := engineCmd id k.id
  let ev : Ev := (.arrivalWordUpdate, .cmd id k.id)
  have hn64 : n < 64 := lt_of_le_of_lt (Nat.pow_le_pow_right (by decide) hel) (by decide)
  have hdn : 2 ^ walkEsize k.dst = n := by rw [hde]
  have hsn : 2 ^ walkEsize k.src = n := by rw [hse]
  have hsrc : s.srcElem a (s.reqOf a ev) k (k.off / n) = _ :=
    State.srcElem_spad hkind hsk hsp hsd hsn hx hxal hxlt (fun h hh => (hpre h hh).1) hw hn64 herr
  have hdst : (s.fetched (spadKey id x) n).dstSpot a (s.reqOf a ev) k (k.off / n) = _ :=
    State.dstSpot_spad hkind hdk hdp hdd hdn hy hyal hylt fun h hh => (hpre (by rwa [State.fetched_sp] at h) hh).2
  -- the step leaves what counting the element's bytes leaves, with the command put back
  have hstep : ∀ (t : State) (k1 : Cmd), (s.copied id x y n).countBytes k k.arrival n = (t, k1) →
      ∃ u, exec .arrivalWordUpdate s = .next u ∧ u.stage = (t.putCmd a { k1 with off := k1.off + n }).stage ∧
        (t.cmdOf a = (s.copied id x y n).cmdOf a → k1.id = k.id → u.cmdOf a = some { k1 with off := k1.off + n }) := fun t k1 hcount => by
    have hu : (s.stepData a ev).stage = (t.putCmd a { k1 with off := k1.off + n }).stage := by
      have hmove : s.moveElem a (s.reqOf a ev) k = _ := State.moveElem_spad hhoop hdn hsrc hdst hcount
      rw [State.stepData_moves (a := a) ev hk hkind hf hstart hoff hheld, hmove, stage_settleCmd_ok]
    refine ⟨s.stepData a ev, by rw [exec_arrivalWordUpdate, execArrivalWordUpdate, hat], hu, fun ht hid => (State.cmdOf_of_stage a hu).trans ?_⟩
    exact State.cmdOf_putCmd (Option.isSome_iff_exists.mpr ⟨k, ht.trans ((s.cmdOf_copied id x y n a).trans hk)⟩) hid
  have hwf' := State.copied_wf id x y n hwf
  refine ⟨fun harr => ?_, fun w harr _ hdisj hbad => ?_⟩
  · obtain ⟨u, hexec, hu, hcmd⟩ := hstep _ _ (by rw [harr, State.countBytes_none])
    have hmem : u.mem = (s.copied id x y n).mem := (State.mem_of_stage hu).trans (State.putCmd_mem _ _ _)
    refine ⟨u, hexec, ?_, fun z hz => ?_, hcmd rfl rfl, ?_⟩
    · rw [hmem, State.copied_read id x y n hwf]
    · rw [hmem, State.copied_byte hwf hz]
    · rw [State.core_of_stage hu]
      exact (State.putCmd_s _ _ _ _ _ _).trans (s.copied_s id x y n id)
  · have hkey : spadKey id w + 16 ≤ spadKey id y ∨ spadKey id y + n ≤ spadKey id w := by
      simp only [spadKey]
      omega
    have hword : (s.copied id x y n).mem.read (spadKey id w) 16 = s.mem.read (spadKey id w) 16 := State.copied_word hwf hkey
    obtain ⟨u, hexec, hu, hcmd⟩ := hstep _ _ (by rw [harr, State.countBytes_unfaulted n hf (State.copied_bad2 id x y n hbad) hword])
    have hmem : u.mem = (s.copied id x y n).mem.write (spadKey id w) 16 (arriveWord (s.mem.read (spadKey id w) 16) n) := by
      rw [State.mem_of_stage hu, State.putCmd_mem, State.arrived_mem, hword]
    refine ⟨u, hexec, ?_, ?_, fun z hzy hzw => ?_, ?_, ?_⟩
    · rw [hmem, Memory.read_write_outside _ hwf' (by omega), State.copied_read id x y n hwf]
    · rw [hmem, ← hword]
      exact Memory.counted_write _ _ _ hwf'
    · rw [hmem, Memory.byte_write_outside _ hwf' hzw, State.copied_byte hwf hzy]
    · rw [hcmd (State.cmdOf_arrived _ _ _ a) rfl]
    · rw [State.core_of_stage hu]
      exact (State.putCmd_s _ _ _ _ _ _).trans ((State.arrived_s _ _ _ _).trans (s.copied_s id x y n id))

end Sys2Proof.Proofs
end

section
/-! O39: what a porter does for a command of an engine (R215, R218, R224, R303, R398). -/
namespace Sys2Proof.Machine

theorem execPorterRequest_engine {s : State} {c e i : Nat} (hat : Claims.At s (.asker (.engine c e i))) :
    execPorterRequest s = .next (s.stepRequest (.engine c e i) (.porterRequest, .asker (.engine c e i))) := by
  rw [execPorterRequest, hat]

/-- Where an engine's command stands depends on the cores alone. -/
theorem State.cmdOf_engine {s u : State} (c e i : Nat) (h : u.cores = s.cores) : u.cmdOf (.engine c e i) = s.cmdOf (.engine c e i) := by
  simp only [State.cmdOf, State.core, h]

/-! ### Atomics (R224) -/

/-- An atomic that has not been performed waits while it is held up, and starts before it goes on. -/
theorem State.stepRequest_catom {s : State} {a : Asker} {ev : Ev} {k : Cmd} {x : AtX} {sc : Scope} {rc va b sv : Nat} (hk : s.cmdOf a = some k) (hkind : k.kind = .catom x sc rc va b sv)
    (hf : k.fault = none) (hfin : k.finished = false) :
    (s.heldUp a = true → s.stepRequest a ev = s) ∧ (s.heldUp a = false → k.started = false → s.stepRequest a ev = s.startCopy a k) := by
  have hdata : k.isData = false := by simp [Cmd.isData, hkind, dataWalks]
  refine ⟨fun hh => ?_, fun hh hs => ?_⟩
  · simp [State.stepRequest, hk, hdata, hf, hfin, hh]
  · simp [State.stepRequest, hk, hdata, hf, hfin, hh, hs]

/-- An atomic that is performed is put back. -/
theorem State.stage_stepRequest_catom {s t : State} {a : Asker} {ev : Ev} {k k1 : Cmd} {x : AtX} {sc : Scope} {rc va b sv : Nat} (hk : s.cmdOf a = some k)
    (hkind : k.kind = .catom x sc rc va b sv) (hf : k.fault = none) (hfin : k.finished = false) (hh : s.heldUp a = false) (hs : k.started = true)
    (hstep : s.stepCatom (s.reqOf a ev) k x rc va b sv = (t, .ok k1)) : (s.stepRequest a ev).stage = (t.putCmd a k1).stage := by
  have hdata : k.isData = false := by simp [Cmd.isData, hkind, dataWalks]
  simp only [State.stepRequest, hk, hdata, hf, hfin, hh, hs, hkind, hstep, Bool.false_eq_true, if_false, Option.isSome_none, or_self, Bool.not_true]
  split
  · exact State.stage_post _ _ _
  · exact State.stage_post _ _ _

/-- The state after an atomic has written its word. -/
def State.atomicDone (s : State) (pa n x : Nat) : State := ({ s with mem := (s.mem.scrub pa n).writeDev pa n x } : State).noteWrite pa n

theorem State.devAtomic_granted {s s' : State} {r : Req} {x : AtX} {va b sv pa : Nat} {l : TLeaf} (hg : Claims.Granted s s' r va 3 (stwBytes x.width) pa l)
    (herr : s'.mem.devError pa (stwBytes x.width) true = (0, 0)) :
    s.devAtomic r x va b sv =
      (s'.atomicDone pa (stwBytes x.width) (atomicNew x (s'.mem.read pa (stwBytes x.width)) b sv).1, .ok (s'.mem.read pa (stwBytes x.width))) := by
  obtain ⟨htrans, hreach⟩ := hg
  simp [State.devAtomic, htrans, asFault, andThen, hreach, herr, State.atomicDone]

/-- The state after an atomic's record has taken the old value, where it takes one. -/
def State.recorded (s : State) (ret : Bool) (rc old : Nat) : State :=
  if ret then ({ s with mem := s.mem.write (rc + 16) 8 old } : State).usePorts (keyCore rc) (rc + 16) 8 true else s

theorem State.recorded_mem (s : State) (ret : Bool) (rc old : Nat) : (s.recorded ret rc old).mem = if ret then s.mem.write (rc + 16) 8 old else s.mem := by
  cases ret
  · rfl
  · exact State.usePorts_mem _ _ _ _ _
theorem State.cmdOf_recorded (s : State) (ret : Bool) (rc old : Nat) (a : Asker) : (s.recorded ret rc old).cmdOf a = s.cmdOf a := by
  cases ret
  · rfl
  · exact (State.cmdOf_usePorts _ _ _ _ _ a).trans (State.cmdOf_of_cores a rfl rfl)

/-- A granted atomic: its word, its record and its count. -/
theorem State.stepCatom_granted {s s' : State} {r : Req} {k : Cmd} {x : AtX} {va b sv pa rc : Nat} {l : TLeaf} (hg : Claims.Granted s s' r va 3 (stwBytes x.width) pa l)
    (herr : s'.mem.devError pa (stwBytes x.width) true = (0, 0)) :
    s.stepCatom r k x rc va b sv =
      ((s'.atomicDone pa (stwBytes x.width) (atomicNew x (s'.mem.read pa (stwBytes x.width)) b sv).1).recorded x.ret rc (s'.mem.read pa (stwBytes x.width))).finishEight k := by
  simp only [State.stepCatom, State.devAtomic_granted hg herr, andThen, State.recorded]

/-! ### Elements into device memory (R218, R398) -/

theorem walkHoop_device {w : BitVec 512} (h : walkKind w = 2) : walkHoop w = none := by simp [walkHoop, h]

/-- The place of element `j` of a copy that writes device memory by a virtual address. -/
theorem State.dstSpot_virt {s : State} {a : Asker} {r : Req} {k : Cmd} {j y n pa : Nat} {l : TLeaf} (hk : k.kind = .cpy) (hkind : walkKind k.dst = 2) (hpaged : walkPaged k.dst = 0)
    (hdims : walkDims k.dst ≤ 6) (hn : 2 ^ walkEsize k.dst = n) (hy : walkAt k.dst j = (y : Nat)) (hal : y % n = 0) (hlt : y < 2 ^ 48)
    (htrans : s.translate r y 1 = (s, .ok (pa, l))) : s.dstSpot a r k j = (s, .ok ⟨pa, l, l.owner, true⟩) := by
  have hmod : ¬((y : Int) % (n : Nat) ≠ 0) := by omega
  have hwrap : wrapNat 64 (y : Nat) = y := by
    simp only [wrapNat]
    omega
  simp only [State.dstSpot, hk, dstIndex, State.rowIdx, andThen, State.elemSpot, walkSum_walkIdx _ _ hdims, hy, hpaged, hkind, hn, ne_eq, not_true_eq_false, if_false, State.virtSpot]
  rw [if_neg hmod, hwrap, htrans]
  rfl

/-- An element of less than a line whose porter serves it owns its line, with those that can be moved with it. -/
theorem State.writeParts_granted {s s' s3 : State} {a : Asker} {r : Req} {k : Cmd} {q : Spot} {bs : List Byte} {rest : List PutByte} {j : Nat}
    (hreach : s.reach r q.key bs.length = (s', .ok ())) (hroom : s'.slicesFull [lineOf q.key] = false)
    (hgather : s'.gather a r k (lineOf q.key) 64 (j + 1) = (s3, .ok rest)) :
    s.writeParts a r k q bs j = (s3.ownLine a (lineOf q.key) (putBytes q.key bs ++ rest) none (putBytes q.key bs ++ rest).length,
      .ok { k with owned := k.owned + 1, off := k.off + (putBytes q.key bs ++ rest).length }) := by
  simp only [State.writeParts, andThen, hreach, hroom, Bool.false_eq_true, if_false, hgather]

@[simp] theorem length_putBytes (a : Nat) (bs : List Byte) : (putBytes a bs).length = bs.length := by
  induction bs generalizing a with
  | nil => rfl
  | cons b bs ih => simp [putBytes, ih]

/-- No element follows the last one. -/
theorem State.gather_end (s : State) (a : Asker) (r : Req) (k : Cmd) (line n j : Nat) (h : k.total ≤ j * 2 ^ walkEsize k.dst) :
    s.gather a r k line (n + 1) j = (s, .ok []) := by
  rw [State.gather, if_pos h]

theorem State.ownLine_owned (s : State) (a : Asker) (line : Nat) (puts : List PutByte) (cv : Option Nat) (n : Nat) :
    (s.ownLine a line puts cv n).owned = s.owned ++ [⟨line, .cmd a, puts, cv, n, []⟩] := State.post_owned _ _ _
theorem State.ownLine_mem (s : State) (a : Asker) (line : Nat) (puts : List PutByte) (cv : Option Nat) (n : Nat) : (s.ownLine a line puts cv n).mem = s.mem :=
  State.post_mem _ _ _
theorem State.cmdOf_ownLine (s : State) (a b : Asker) (line : Nat) (puts : List PutByte) (cv : Option Nat) (n : Nat) : (s.ownLine a line puts cv n).cmdOf b = s.cmdOf b :=
  (State.cmdOf_post _ _ _ b).trans (State.cmdOf_of_cores b rfl rfl)
theorem State.ownLine_pending (s : State) (a : Asker) (line : Nat) (puts : List PutByte) (cv : Option Nat) (n : Nat) :
    (.recallComplete, .memLine line) ∈ (s.ownLine a line puts cv n).pending := State.mem_pending_post _ _ _

/-- A settled request takes only its own event away. -/
theorem pending_settleCmd_ok {a : Asker} {k k1 : Cmd} {ev e : Ev} {t : State} (h : e ∈ t.pending) (hne : e ≠ ev) : e ∈ (settleCmd a k ev (t, .ok k1)).pending := by
  have hput : e ∈ ((t.putCmd a k1).forget ev).pending := by
    rw [State.forget_pending, State.putCmd_pending]
    exact h
  simp only [settleCmd]
  split
  · refine State.pending_post_of_mem _ _ ?_
    simp only [State.unpostEv, State.unpost, List.mem_filter]
    exact ⟨hput, by simpa using hne⟩
  · exact State.pending_post_of_mem _ _ hput

end Sys2Proof.Machine
end

section
/-! O39: what a porter's atomic and a porter's element leave. -/
namespace Sys2Proof.Machine

/-- Memory after an atomic: its word written, and the old value in its record where it takes one. -/
def Memory.atomicWrites (m : Memory) (pa n v : Nat) (ret : Bool) (rc old : Nat) : Memory :=
  let w := (m.scrub pa n).writeDev pa n v
  if ret then w.write (rc + 16) 8 old else w

section
variable {m : Memory} {pa n v rc old : Nat} {ret : Bool}

theorem Memory.atomicWrites_wf (h : m.wf = true) : (m.atomicWrites pa n v ret rc old).wf = true := by
  have hw : ((m.scrub pa n).writeDev pa n v).wf = true := Memory.wf_writeDev _ _ _ _ h
  cases ret
  · exact hw
  · exact Memory.wf_write _ _ _ _ hw

theorem Memory.atomicWrites_bad2 {b k : Nat} (h : m.bad2 b k = none) : (m.atomicWrites pa n v ret rc old).bad2 b k = none := by
  have hw : ((m.scrub pa n).writeDev pa n v).bad2 b k = none := Memory.bad2_put h
  cases ret
  · exact hw
  · exact Memory.bad2_write hw

theorem Memory.atomicWrites_byte {z : Nat} (h : m.wf = true) (hro : ∀ i, i < n → roByte (pa + i) = false) (hz : z < pa ∨ pa + n ≤ z)
    (hr : ret = true → z < rc + 16 ∨ rc + 24 ≤ z) : (m.atomicWrites pa n v ret rc old).byte z = m.byte z := by
  have hs : (m.scrub pa n).wf = true := h
  have hw : ((m.scrub pa n).writeDev pa n v).byte z = m.byte z := by rw [Memory.writeDev_eq _ hro, Memory.byte_write_outside _ hs hz, Memory.byte_scrub]
  cases ret
  · exact hw
  · exact (Memory.byte_write_outside _ (Memory.wf_writeDev _ _ _ _ hs) (hr rfl)).trans hw

theorem Memory.atomicWrites_word (h : m.wf = true) (hro : ∀ i, i < n → roByte (pa + i) = false) (hd : pa + n ≤ rc + 16 ∨ rc + 24 ≤ pa) :
    (m.atomicWrites pa n v ret rc old).read pa n = v % 256 ^ n := by
  have hs : (m.scrub pa n).wf = true := h
  have hw : ((m.scrub pa n).writeDev pa n v).read pa n = v % 256 ^ n := by rw [Memory.writeDev_eq _ hro, Memory.read_write_same _ _ _ _ hs]
  cases ret
  · exact hw
  · exact (Memory.read_write_outside _ (Memory.wf_writeDev _ _ _ _ hs) hd).trans hw

theorem Memory.atomicWrites_record (h : m.wf = true) (hold : old < 256 ^ 8) : (m.atomicWrites pa n v true rc old).read (rc + 16) 8 = old := by
  have hs : (m.scrub pa n).wf = true := h
  simp only [Memory.atomicWrites, if_true]
  rw [Memory.read_write_same _ _ _ _ (Memory.wf_writeDev _ _ _ _ hs), Nat.mod_eq_of_lt hold]

end

theorem State.recorded_atomicDone_mem (s : State) (pa n v : Nat) (ret : Bool) (rc old : Nat) :
    ((s.atomicDone pa n v).recorded ret rc old).mem = s.mem.atomicWrites pa n v ret rc old := by
  rw [State.recorded_mem, State.atomicDone, State.noteWrite_mem]
  rfl

theorem State.cmdOf_atomicDone (s : State) (pa n v : Nat) (a : Asker) : (s.atomicDone pa n v).cmdOf a = s.cmdOf a :=
  (State.cmdOf_noteWrite _ _ _ a).trans (State.cmdOf_of_cores a rfl rfl)

theorem State.finishEight_some {s : State} {k : Cmd} {key : Nat} (harr : k.arrival = some key) (hbad : s.mem.bad2 key 16 = none) :
    ∃ k1 : Cmd, s.finishEight k = (s.arrived key 8, .ok k1) ∧ k1.id = k.id ∧ k1.finished = true ∧ k1.bytes = k.bytes + 8 := by
  simp only [State.finishEight, harr, State.countBytes_some _ _ _ _ hbad]
  exact ⟨_, rfl, rfl, rfl, rfl⟩

theorem stwBytes_le (w : StW) : stwBytes w ≤ 8 := by cases w <;> decide

end Sys2Proof.Machine

namespace Sys2Proof.Proofs
open Sys2Proof Sys2Proof.Machine Sys2Proof.Claims

/-- A CATOM that its page and its porter let go on. -/
theorem atomicGranted {s s' : State} {id e pa p va b sv : Nat} {k : Cmd} {l : TLeaf} {x : AtX} {sc : Scope} (hat : At s (.asker (.engine id e k.id))) (hk : s.cmdOf (.engine id e k.id) = some k) (hf : k.fault = none) (hwf : s'.mem.wf = true)
    (hh : s.heldUp (.engine id e k.id) = false) (hkind : k.kind = .catom x sc (spadKey id p) va b sv) (hfin : k.finished = false) (hs : k.started = true)
    (harr : k.arrival = some (spadKey id p))
    (hg : Granted s s' (s.reqOf (.engine id e k.id) (.porterRequest, .asker (.engine id e k.id))) va 3 (stwBytes x.width) pa l) (hcores : s'.cores = s.cores)
    (hro : ∀ i, i < stwBytes x.width → roByte (pa + i) = false) (herr : s'.mem.devError pa (stwBytes x.width) true = (0, 0)) (hbad : s'.mem.bad2 (spadKey id p) 16 = none)
    (hdisj : pa + stwBytes x.width ≤ spadKey id p ∨ spadKey id p + 32 ≤ pa) :
    let n := stwBytes x.width
    let rec_ := spadKey id p
    let old := s'.mem.read pa n
    leadsTo .porterRequest s fun u =>
      u.mem.read pa n = (atomicNew x old b sv).1 % 2 ^ (8 * n) ∧ (x.ret = true → u.mem.read (rec_ + 16) 8 = old) ∧ Counted (s'.mem.read rec_ 16) (u.mem.read rec_ 16) 8 ∧
      (∀ z, (z < pa ∨ pa + n ≤ z) → (z < rec_ ∨ rec_ + (if x.ret then 24 else 16) ≤ z) → u.mem.byte z = s'.mem.byte z) ∧
      (u.cmdOf (.engine id e k.id)).map (fun y => (y.finished, y.bytes)) = some (true, k.bytes + 8) := by
  intro n rec_ old
  let t := (s'.atomicDone pa n (atomicNew x old b sv).1).recorded x.ret rec_ old
  have htmem : t.mem = s'.mem.atomicWrites pa n (atomicNew x old b sv).1 x.ret rec_ old := s'.recorded_atomicDone_mem _ _ _ _ _ _
  have htwf : t.mem.wf = true := by rw [htmem]; exact Memory.atomicWrites_wf hwf
  have htcmd : t.cmdOf (.engine id e k.id) = some k := by
    rw [State.cmdOf_recorded, State.cmdOf_atomicDone, State.cmdOf_engine _ _ _ hcores, hk]
  have hword : t.mem.read rec_ 16 = s'.mem.read rec_ 16 := by
    rw [htmem]
    exact Memory.read_congr fun i hi => Memory.atomicWrites_byte hwf hro (by omega) fun _ => by omega
  obtain ⟨k1, hfinish, hid, hdone, hbytes⟩ := State.finishEight_some (s := t) harr (by rw [htmem]; exact Memory.atomicWrites_bad2 hbad)
  have hu := State.stage_stepRequest_catom hk hkind hf hfin hh hs ((State.stepCatom_granted hg herr).trans hfinish)
  have hmem : (s.stepRequest (.engine id e k.id) (.porterRequest, .asker (.engine id e k.id))).mem = t.mem.write rec_ 16 (arriveWord (t.mem.read rec_ 16) 8) := by
    rw [State.mem_of_stage hu, State.putCmd_mem, State.arrived_mem]
  refine ⟨_, by rw [exec_porterRequest, execPorterRequest_engine hat], ?_, fun hret => ?_, ?_, fun z hz hzr => ?_, ?_⟩
  · rw [hmem, Memory.read_write_outside _ htwf (by omega), htmem, Memory.atomicWrites_word hwf hro (by omega), Nat.pow_mul]
  · have hold : old < 256 ^ 8 := lt_of_lt_of_le (s'.mem.read_lt pa n) (Nat.pow_le_pow_right (by decide) (stwBytes_le x.width))
    rw [hmem, Memory.read_write_outside _ htwf (by omega), htmem, hret, Memory.atomicWrites_record hwf hold]
  · rw [hmem, ← hword]
    exact Memory.counted_write _ _ _ htwf
  · rw [hmem, Memory.byte_write_outside _ htwf (by split at hzr <;> omega), htmem]
    exact Memory.atomicWrites_byte hwf hro hz fun hret => by
      rw [if_pos hret] at hzr
      omega
  · have hput := State.cmdOf_putCmd (s := t.arrived rec_ 8) (k := k1) (Option.isSome_iff_exists.mpr ⟨k, (State.cmdOf_arrived _ _ _ _).trans htcmd⟩) hid
    rw [State.cmdOf_of_stage _ hu, hput, Option.map_some, hdone, hbytes]

end Sys2Proof.Proofs
end

section
/-! O39: an element of a copy into device memory, and the obligation (R217, R218, R398). -/
namespace Sys2Proof.Machine

theorem Cmd.isData_cpy {k : Cmd} (h : k.kind = .cpy) : k.isData = true := by simp [Cmd.isData, h, dataWalks]

theorem State.stepRequest_data {s : State} {a : Asker} {k : Cmd} (ev : Ev) (hk : s.cmdOf a = some k) (hd : k.isData = true) : s.stepRequest a ev = s.stepData a ev := by
  simp only [State.stepRequest, hk, hd, if_true]

/-- An element of less than a line of a copy from a scratchpad into device memory, its porter serving it, owns its line with those that can be moved with it. -/
theorem State.moveElem_device {s s' s3 : State} {a : Asker} {r : Req} {k : Cmd} {key n pa : Nat} {l : TLeaf} {rest : List PutByte} (hkind : walkKind k.dst = 2)
    (hdn : 2 ^ walkEsize k.dst = n) (hn64 : n < 64)
    (hsrc : s.srcElem a r k (k.off / n) = (s.fetched key n, .ok (s.mem.bytes key n, [], r.tenant)))
    (hdst : (s.fetched key n).dstSpot a r k (k.off / n) = (s.fetched key n, .ok ⟨pa, l, l.owner, true⟩))
    (hreach : (s.fetched key n).reach r pa n = (s', .ok ())) (hroom : s'.slicesFull [pa / 64 * 64] = false)
    (hgather : s'.gather a r k (pa / 64 * 64) 64 (k.off / n + 1) = (s3, .ok rest)) :
    s.moveElem a r k = (s3.ownLine a (pa / 64 * 64) (putBytes pa (s.mem.bytes key n) ++ rest) none (n + rest.length), .ok { k with owned := k.owned + 1, off := k.off + (n + rest.length) }) := by
  have hlen : (s.mem.bytes key n).length = n := s.mem.length_bytes key n
  have hparts := State.writeParts_granted (a := a) (r := r) (k := k) (q := ⟨pa, l, l.owner, true⟩) (bs := s.mem.bytes key n) (by rw [hlen]; exact hreach) hroom hgather
  rw [List.length_append, length_putBytes, hlen] at hparts
  simp only [State.moveElem, Cmd.hoopTarget_none _ (walkHoop_device hkind), hdn, hsrc, andThen, hdst, hn64, decide_true, Bool.and_true, if_true, hparts]
  rfl

end Sys2Proof.Machine

namespace Sys2Proof.Proofs
open Sys2Proof Sys2Proof.Machine Sys2Proof.Claims

theorem porterRequests : PorterRequests := by
  intro s s' id e pa k l a ev hat hk hf hwf
  have hexec : exec .porterRequest s = .next (s.stepRequest a ev) := by rw [exec_porterRequest, execPorterRequest_engine hat]
  refine ⟨fun x sc q va b sv hkind hfin => ?_, fun hh => ⟨fun x sc p va b sv hkind hfin hs harr hg hcores hro herr hbad hdisj => ?_, ?_⟩⟩
  · obtain ⟨hheld, hstart⟩ := State.stepRequest_catom (ev := ev) hk hkind hf hfin
    refine ⟨fun hh => by rw [hexec, hheld hh], fun hh hs hm => ?_, fun hh hs hm => ?_⟩
    · rw [hexec, hstart hh hs, State.startCopy, if_pos hm]
    · rw [hexec, hstart hh hs, State.startCopy, if_neg (by simp [hm])]
  · exact atomicGranted hat hk hf hwf hh hkind hfin hs harr hg hcores hro herr hbad hdisj
  intro w x y hkind hs hw5 hdk hsk hdp hsp hde hse hsd hdd n key line s2 bs hal hoff hw hpre hx hy hxal hyal hxlt hylt herr hg hpa hcores hroom
  obtain ⟨htrans, hreach⟩ := hg
  have hn64 : n < 64 := lt_of_le_of_lt (Nat.pow_le_pow_right (by decide) hw5) (by decide)
  have hdn : 2 ^ walkEsize k.dst = n := by rw [hde]
  have hsn : 2 ^ walkEsize k.src = n := by rw [hse]
  have hsrc : s.srcElem a (s.reqOf a ev) k (k.off / n) = _ :=
    State.srcElem_spad hkind hsk hsp hsd hsn hx hxal hxlt (fun h => by rw [hpre] at h; cases h) hw hn64 herr
  have hdst : (s.fetched key n).dstSpot a (s.reqOf a ev) k (k.off / n) = _ := State.dstSpot_virt hkind hdk hdp hdd hdn hy hyal hylt htrans
  -- an element with those that follow it in its line
  have hline : ∀ (s3 : State) (rest : List PutByte), s'.gather a (s.reqOf a ev) k line 64 (k.off / n + 1) = (s3, .ok rest) → (s3.cmdOf a).isSome = true →
      leadsTo .porterRequest s fun u => u.owned = s3.owned ++ [⟨line, .cmd a, bs ++ rest, none, n + rest.length, []⟩] ∧ (.recallComplete, .memLine line) ∈ u.pending ∧ u.mem = s3.mem ∧
        u.cmdOf a = some { k with off := k.off + n + rest.length, owned := k.owned + 1 } := fun s3 rest hgather hsome => by
    have hmove : s.moveElem a (s.reqOf a ev) k = _ := State.moveElem_device hdk hdn hn64 hsrc hdst hreach hroom hgather
    rw [← Nat.add_assoc] at hmove
    have hstep : s.stepRequest a ev = _ :=
      (State.stepRequest_data ev hk (Cmd.isData_cpy hkind)).trans ((State.stepData_moves (a := a) ev hk hkind hf hs hoff hh).trans (congrArg (settleCmd a k ev) hmove))
    refine ⟨_, by rw [hexec, hstep], ?_, pending_settleCmd_ok (State.ownLine_pending _ _ _ _ _ _) (by simp [ev]), ?_, ?_⟩
    · rw [State.owned_of_stage (stage_settleCmd_ok _ _ _ _ _), State.putCmd_owned, State.ownLine_owned]
    · rw [State.mem_of_stage (stage_settleCmd_ok _ _ _ _ _), State.putCmd_mem, State.ownLine_mem]
    · rw [State.cmdOf_of_stage _ (stage_settleCmd_ok _ _ _ _ _)]
      exact State.cmdOf_putCmd (by rw [State.cmdOf_ownLine]; exact hsome) rfl
  refine ⟨fun hlast => ?_, hline⟩
  have hgather : s'.gather a (s.reqOf a ev) k line 64 (k.off / n + 1) = (s', .ok []) := by
    refine State.gather_end s' a _ k line 63 _ ?_
    have hdiv := Nat.div_mul_cancel (Nat.dvd_of_mod_eq_zero hal)
    rw [hdn, Nat.succ_mul, hdiv, hlast]
  have hcmd : s'.cmdOf a = some k := by
    rw [State.cmdOf_engine _ _ _ hcores]
    exact (s.cmdOf_fetched key n a).trans hk
  have := hline s' [] hgather (by rw [hcmd]; rfl)
  rwa [List.append_nil] at this

/-- Settles O39: the four claims about commands, each from what the step leaves of the memory and of the asker's command. -/
theorem copyProgress : Obligations.CopyProgress := ⟨elementCopied, porterRequests, commandsEnd, recallsComplete⟩

end Sys2Proof.Proofs
end

section
/-! Reading back what the encoder wrote: parsers that find their value and no fault, and the fields and extension words of an operation
(03 R88 to R93, R101, Tables 3.3 to 3.6). -/
namespace Sys2Proof

/-! ### A parser that finds its value -/

/-- The parser found this value and met no fault. -/
abbrev Parsed.Reads {α : Type} (p : Parsed α) (a : α) : Prop := p = .ok a

theorem Parsed.reads {α : Type} (a : α) : (Parsed.ok a).Reads a := rfl

@[simp] theorem Parsed.ap_ok {α β : Type} (f : α → β) (a : α) : (Parsed.ok f).ap (.ok a) = .ok (f a) := rfl
@[simp] theorem Parsed.also_nil {α : Type} (a : α) : (Parsed.ok a).also [] = .ok a := rfl
@[simp] theorem Parsed.val_ok {α : Type} (a : α) : (Parsed.ok a).val = some a := rfl
@[simp] theorem Parsed.bad_ok {α : Type} (a : α) : (Parsed.ok a).bad = [] := rfl
@[simp] theorem Parsed.result_ok {α : Type} (a : α) : (Parsed.ok a).result = .ok a := rfl

theorem Parsed.Reads.ap {α β : Type} {f : Parsed (α → β)} {g : α → β} {x : Parsed α} {a : α} (hf : f.Reads g) (hx : x.Reads a) :
    (f.ap x).Reads (g a) := by
  rw [hf, hx, Parsed.Reads, Parsed.ap_ok]
theorem Parsed.Reads.also {α : Type} {p : Parsed α} {a : α} {bad : List (Nat × Nat)} (hp : p.Reads a) (hb : bad = []) : (p.also bad).Reads a := by
  rw [hp, hb, Parsed.Reads, Parsed.also_nil]
theorem Parsed.Reads.when {α : Type} {p : Parsed α} {a : α} {c : α → Bool} {reason code : Nat} (hp : p.Reads a) (hc : c a = true) :
    (p.when c reason code).Reads a := by
  simp [Parsed.Reads, hp, Parsed.when, Parsed.ok, hc]
theorem Parsed.Reads.map {α β : Type} {p : Parsed α} {a : α} (g : α → β) (hp : p.Reads a) : (⟨p.val.map g, p.bad⟩ : Parsed β).Reads (g a) := by
  simp [Parsed.Reads, hp, Parsed.ok]

/-! ### Fields that hold nothing, and the three kinds of extension word (R88, R89) -/

@[simp] theorem zeroF_zero {n : Nat} : zeroF (BitVec.ofNat n 0) = [] := rfl
@[simp] theorem zeroN_zero : zeroN 0 = [] := rfl
@[simp] theorem noExt_none : noExt none = [] := rfl

theorem reqExt_reads {α : Type} {p : BitVec 32 → Parsed α} {w : BitVec 32} {a : α} (h : (p w).Reads a) : (reqExt (some w) p).Reads a := h
theorem optExt_reads {α : Type} {p : BitVec 32 → Parsed α} {e : α → BitVec 32} (h : ∀ a, (p (e a)).Reads a) : ∀ x : Option α, (optExt (x.map e) p).Reads x
  | none => rfl
  | some a => (h a).map some

/-! ### Operand codes (Table 2.1, R92, R93) -/

theorem pS_eS : ∀ r : SReg, (pS (eS r)).Reads r := by decide
theorem pV_eV : ∀ r : VReg, (pV (eV r)).Reads r := by decide
theorem pD_eD : ∀ r : DReg, (pD (eD r)).Reads r := by decide
theorem pM_eM : ∀ r : MReg, (pM (eM r)).Reads r := by decide
theorem pP_eP : ∀ r : Pred, (pP (eP r)).Reads r := by decide
theorem pH_eH : ∀ r : HReg, (pH (eH r)).Reads r := by decide
theorem pW_eW : ∀ r : WReg, (pW (eW r)).Reads r := by decide
theorem pTT_eTT : ∀ r : TReg, (pTT (eTT r)).Reads r := by decide
theorem pPort_ePort : ∀ r : Port, (pPort (ePort r)).Reads r := by decide
theorem pCh_eCh : ∀ r : Chan, (pCh (eCh r)).Reads r := by decide
theorem pGrp_eGrp : ∀ g : Fin 4, (pGrp (eGrp g)).Reads g := by decide
theorem pCop_eCop : ∀ g : CacheOp, (pCop (eCop g)).Reads g := by decide
theorem pLit_eLit (x : BitVec 7) : (pLit (eLit x)).Reads x := rfl
theorem pCnt_eLit {x : BitVec 7} (h : (x != 0) = true) : (pCnt (eLit x)).Reads x := by
  have hx : x ≠ 0 := by simpa using h
  rw [Parsed.Reads, pCnt, eLit, if_neg hx, Parsed.ok]

theorem pSS_s : ∀ r : SReg, (pSS (eS r)).Reads (.s r) := by decide
theorem pSS_eSS : ∀ r : SSrc, (pSS (eSS r)).Reads r
  | .s r => pSS_s r
  | .ls | .lc0 | .lc1 => rfl
theorem pVS_s : ∀ r : SReg, (pVS (eS r)).Reads (.s r) := by decide
theorem pVS_eVS : ∀ r : VSSrc, (pVS (eVS r)).Reads r
  | .s r => pVS_s r
  | .ls => rfl
theorem pVV_v : ∀ r : VReg, (pVV (eV r)).Reads (.v r) := by decide
theorem pVV_eVV : ∀ r : VSrc, (pVV (eVV r)).Reads r
  | .v r => pVV_v r
  | .lv0 | .lv1 => rfl
theorem pScope_eScope (s : Scope) : (pScope (eScope s)).Reads s := by cases s <;> rfl
theorem pSpec_eSpec (s : SpecialReg) : (pSpec (eSpec s)).Reads s := by
  cases s with
  | slice k => revert k; decide
  | ttbase k => revert k; decide
  | _ => rfl

theorem pSX_enc : ∀ x : SX, (pSX x.field x.ext).Reads x
  | .reg r => (pSS_eSS r).map SX.reg
  | .imm _ => rfl
theorem pTarget_enc : ∀ x : SX, x.targetOk = true → (pTarget x.field x.ext).Reads x
  | .reg r, _ => (pSS_eSS r).map SX.reg
  | .imm w, h => by
    have hw : fld w 0 2 = 0 := by simpa [SX.targetOk] using h
    show Parsed.mk _ (zeroF 0 ++ if fld w 0 2 = 0 then [] else [(6, 0)]) = _
    rw [if_pos hw]
    rfl

/-! ### Codes of Table 3.4 and Table 3.6 -/

@[simp] theorem icondOf_code (c : ICond) : icondOf c.code = some c := by cases c <;> rfl
@[simp] theorem fcondOf_code (c : FCond) : fcondOf c.code = some c := by cases c <;> rfl
@[simp] theorem numTyOf_code (t : NumTy) : numTyOf t.code = some t := by cases t <;> rfl
@[simp] theorem ftyOf_typeCode (t : FTy) : ftyOf t.typeCode = some t := by cases t <;> rfl
@[simp] theorem mxFmtOf_code (f : MxFmt) : mxFmtOf f.code = some f := by cases f <;> rfl
@[simp] theorem matFmtOf_code : ∀ f : MatFmt, matFmtOf f.code = some f
  | .mx f => by cases f <;> rfl
  | .bf16 => rfl
@[simp] theorem drainFmtOf_code : ∀ f : DrainFmt, drainFmtOf f.code = some f
  | .mx f => by cases f <;> rfl
  | .bf16 | .f32 => rfl
@[simp] theorem redOpOf_code (o : RedOp) : redOpOf o.code = some o := by cases o <;> rfl
@[simp] theorem shufSelOf_code (o : ShufSel) : shufSelOf o.code = some o := by cases o <;> rfl
@[simp] theorem atOpOf_code (o : AtOp) : atOpOf o.code = some o := by cases o <;> rfl
@[simp] theorem stwOf_code (n : StW) : stwOf n.code = n := by cases n <;> rfl
@[simp] theorem scopeOf_code (s : Scope) : scopeOf s.code = some s := by cases s <;> rfl
@[simp] theorem pRnd_code (r : Rnd) : (pRnd r.code).Reads r := by cases r <;> rfl
@[simp] theorem code6_some {α : Type} (a : α) : (code6 (some a)).Reads a := rfl

theorem ICond.code_lt (c : ICond) : c.code < 128 := by cases c <;> decide
theorem FCond.code_lt (c : FCond) : c.code < 128 := by cases c <;> decide
theorem NumTy.code_lt (t : NumTy) : t.code < 16 := by cases t <;> decide
theorem FTy.typeCode_lt (t : FTy) : t.typeCode < 16 := by cases t <;> decide
theorem MxFmt.code_lt (f : MxFmt) : f.code < 4 := by cases f <;> decide
theorem MatFmt.code_lt : ∀ f : MatFmt, f.code < 8
  | .mx f => Nat.lt_trans f.code_lt (by decide)
  | .bf16 => by decide
theorem DrainFmt.code_lt : ∀ f : DrainFmt, f.code < 8
  | .mx f => Nat.lt_trans f.code_lt (by decide)
  | .bf16 | .f32 => by decide
theorem Rnd.code_lt (r : Rnd) : r.code < 8 := by cases r <;> decide
theorem RedOp.code_lt (o : RedOp) : o.code < 128 := by cases o <;> decide
theorem ShufSel.code_lt (o : ShufSel) : o.code < 128 := by cases o <;> decide
theorem AtOp.code_lt (o : AtOp) : o.code < 16 := by cases o <;> decide
theorem StW.code_lt (n : StW) : n.code < 4 := by cases n <;> decide
theorem Scope.code_lt (s : Scope) : s.code < 8 := by cases s <;> decide
theorem ElemW.maskSub_lt (t : ElemW) : t.maskSub < 128 := by cases t <;> decide

/-! ### The bits of a word -/

/-- A field of a word that is written as a sum is a quotient and a remainder of the sum. -/
theorem fld_ofNat (n lo w : Nat) (h : lo + w ≤ 32) : fld (BitVec.ofNat 32 n) lo w = n / 2 ^ lo % 2 ^ w := by
  have hpow : 2 ^ 32 = 2 ^ lo * 2 ^ (32 - lo) := by rw [← Nat.pow_add]; congr 1; omega
  rw [fld, BitVec.toNat_ofNat, hpow, Nat.mod_mul_right_div_self, Nat.mod_mod_of_dvd _ (Nat.pow_dvd_pow 2 (by omega))]

@[simp] theorem boolToNat_mod_two (b : Bool) : b.toNat % 2 = b.toNat := by cases b <;> rfl
@[simp] theorem boolToNat_div_two (b : Bool) : b.toNat / 2 = 0 := by cases b <;> rfl

/-! ### The XV word (Table 3.3, R142) -/

/-- What each field of XV has room for. -/
def XV.Fits (v : XV) : Prop := v.rnd < 8 ∧ v.men < 2 ∧ v.msel < 8 ∧ v.zm < 2 ∧ v.sat < 2 ∧ v.sub < 128 ∧ v.imm < 65536

theorem xvOf_word {v : XV} (h : v.Fits) : xvOf v.word = v := by
  obtain ⟨hrnd, hmen, hmsel, hzm, hsat, hsub, himm⟩ := h
  obtain ⟨rnd, men, msel, zm, sat, sub, imm⟩ := v
  simp only at hrnd hmen hmsel hzm hsat hsub himm
  simp only [xvOf, XV.word, fld_ofNat, Nat.reduceAdd, Nat.reduceLeDiff, XV.mk.injEq]
  omega

/-- XV with no mask. -/
def XV.bare (rnd sat sub imm : Nat) : XV := ⟨rnd, 0, 0, 0, sat, sub, imm⟩

theorem XV.zero_eq_bare : XV.zero = XV.bare 0 0 0 0 := rfl

section
variable {rnd sat sub imm : Nat}

theorem xvOf_bare (hr : rnd < 8) (hs : sat < 2) (hu : sub < 128) (hi : imm < 65536) : xvOf (XV.bare rnd sat sub imm).word = XV.bare rnd sat sub imm :=
  xvOf_word ⟨hr, Nat.zero_lt_two, Nat.zero_lt_succ 7, Nat.zero_lt_two, hs, hu, hi⟩
theorem xvOf_withD (hr : rnd < 8) (hs : sat < 2) (hu : sub < 128) (hi : imm < 65536) :
    ∀ k : DMask, xvOf ((XV.bare rnd sat sub imm).withD k).word = (XV.bare rnd sat sub imm).withD k
  | none => xvOf_bare hr hs hu hi
  | some (m, z) => xvOf_word ⟨hr, Nat.one_lt_two, m.isLt, Bool.toNat_lt z, hs, hu, hi⟩
theorem xvOf_withS (hr : rnd < 8) (hs : sat < 2) (hu : sub < 128) (hi : imm < 65536) :
    ∀ k : SMask, xvOf ((XV.bare rnd sat sub imm).withS k).word = (XV.bare rnd sat sub imm).withS k
  | none => xvOf_bare hr hs hu hi
  | some m => xvOf_word ⟨hr, Nat.one_lt_two, m.isLt, Nat.zero_lt_two, hs, hu, hi⟩

@[simp] theorem dmask_withD : ∀ k : DMask, ((XV.bare rnd sat sub imm).withD k).dmask.Reads k
  | none => rfl
  | some (m, z) => by simp [XV.withD, XV.dmask]
@[simp] theorem smask_withS : ∀ k : SMask, ((XV.bare rnd sat sub imm).withS k).smask.Reads k
  | none => rfl
  | some m => by simp [Parsed.Reads, XV.withS, XV.smask, XV.bare, Parsed.ok]
@[simp] theorem noMask_bare : (XV.bare rnd sat sub imm).noMask = [] := rfl
@[simp] theorem bare_rnd : (XV.bare rnd sat sub imm).rnd = rnd := rfl
@[simp] theorem bare_sat : (XV.bare rnd sat sub imm).sat = sat := rfl
@[simp] theorem bare_sub : (XV.bare rnd sat sub imm).sub = sub := rfl
@[simp] theorem bare_imm : (XV.bare rnd sat sub imm).imm = imm := rfl
end

@[simp] theorem withD_rnd (v : XV) (k : DMask) : (v.withD k).rnd = v.rnd := by cases k <;> rfl
@[simp] theorem withD_sat (v : XV) (k : DMask) : (v.withD k).sat = v.sat := by cases k <;> rfl
@[simp] theorem withD_sub (v : XV) (k : DMask) : (v.withD k).sub = v.sub := by cases k <;> rfl
@[simp] theorem withD_imm (v : XV) (k : DMask) : (v.withD k).imm = v.imm := by cases k <;> rfl
@[simp] theorem withS_rnd (v : XV) (k : SMask) : (v.withS k).rnd = v.rnd := by cases k <;> rfl
@[simp] theorem withS_sat (v : XV) (k : SMask) : (v.withS k).sat = v.sat := by cases k <;> rfl
@[simp] theorem withS_sub (v : XV) (k : SMask) : (v.withS k).sub = v.sub := by cases k <;> rfl
@[simp] theorem withS_imm (v : XV) (k : SMask) : (v.withS k).imm = v.imm := by cases k <;> rfl

/-! ### What each instruction keeps in XV -/

theorem pMx_eMx : ∀ k : DMask, (optExtD (eMx k) none pMx).Reads k
  | none => rfl
  | some (m, z) => by
    have hx : xvOf (XV.bare 0 0 0 0 |>.withD (some (m, z))).word = _ := xvOf_withD (by decide) (by decide) (by decide) (by decide) _
    simp [eMx, optExtD, pMx, XV.zero_eq_bare, hx]
theorem pSmx_eSmx : ∀ k : SMask, (optExtD (eSmx k) none pSmx).Reads k
  | none => rfl
  | some m => by
    have hx : xvOf (XV.bare 0 0 0 0 |>.withS (some m)).word = _ := xvOf_withS (by decide) (by decide) (by decide) (by decide) _
    simp [eSmx, optExtD, pSmx, XV.zero_eq_bare, hx]
theorem pIntX_eIntX (y : IntX) : (pIntX (eIntX y)).Reads y := by
  have hx : xvOf (eIntX y) = (XV.bare 0 y.sat.toNat 0 0).withD y.msk := xvOf_withD (by decide) (Bool.toNat_lt _) (by decide) (by decide) _
  simp [pIntX, hx]
theorem pFltX_eFltX (y : FltX) : (pFltX (eFltX y)).Reads y := by
  have hx : xvOf (eFltX y) = (XV.bare y.rnd.code 0 0 0).withD y.msk := xvOf_withD (Rnd.code_lt _) (by decide) (by decide) (by decide) _
  simp [pFltX, hx]
theorem pCmpX_eCmpX (y : CmpX) : (pCmpX (eCmpX y)).Reads y := by
  have hx : xvOf (eCmpX y) = (XV.bare 0 0 y.cc.code 0).withD y.msk := xvOf_withD (by decide) (by decide) (ICond.code_lt _) (by decide) _
  simp [pCmpX, hx]
theorem pFCmpX_eFCmpX (y : FCmpX) : (pFCmpX (eFCmpX y)).Reads y := by
  have hx : xvOf (eFCmpX y) = (XV.bare 0 0 y.cc.code 0).withD y.msk := xvOf_withD (by decide) (by decide) (FCond.code_lt _) (by decide) _
  simp [pFCmpX, hx]
theorem pSelX_eSelX : ∀ m : MReg, (pSelX (eSelX m)).Reads m := by decide
theorem pVCvtX_eVCvtX (y : VCvtX) : (pVCvtX (eVCvtX y)).Reads y := by
  have hs := y.src.code_lt
  have hd := y.dst.code_lt
  have hx : xvOf (eVCvtX y) = (XV.bare y.rnd.code y.sat.toNat y.part.val (y.src.code + 16 * y.dst.code)).withD y.msk :=
    xvOf_withD (Rnd.code_lt _) (Bool.toNat_lt _) (by omega) (by omega) _
  have hsrc : (y.src.code + 16 * y.dst.code) % 16 = y.src.code := by omega
  have hdst : (y.src.code + 16 * y.dst.code) / 16 % 16 = y.dst.code := by omega
  have hrest : (y.src.code + 16 * y.dst.code) / 256 = 0 := by omega
  have hpart : y.part.val / 4 = 0 := by omega
  simp [pVCvtX, hx, hsrc, hdst, hrest, hpart]
theorem pMxExpX_eMxExpX (y : MxExpX) : (pMxExpX (eMxExpX y)).Reads y := by
  have ht := y.t.typeCode_lt
  have hx : xvOf (eMxExpX y) = (XV.bare 0 0 y.head.toNat y.t.typeCode).withS y.msk :=
    xvOf_withS (by decide) (by decide) (Nat.lt_trans (Bool.toNat_lt _) (by decide)) (by omega) _
  simp [pMxExpX, hx, Nat.mod_eq_of_lt ht, Nat.div_eq_of_lt ht]
theorem pQuantX_eQuantX (y : QuantX) : (pQuantX (eQuantX y)).Reads y := by
  have ht := y.t.typeCode_lt
  have hf := y.f.code_lt
  have hx : xvOf (eQuantX y) = (XV.bare y.rnd.code 0 0 (y.t.typeCode + 16 * y.f.code)).withS y.msk :=
    xvOf_withS (Rnd.code_lt _) (by decide) (by decide) (by omega) _
  have htype : (y.t.typeCode + 16 * y.f.code) % 16 = y.t.typeCode := by omega
  have hfmt : (y.t.typeCode + 16 * y.f.code) / 16 % 8 = y.f.code := by omega
  have hrest : (y.t.typeCode + 16 * y.f.code) / 128 = 0 := by omega
  simp [pQuantX, hx, htype, hfmt, hrest]
theorem pDeqX_eDeqX (y : DeqX) : (pDeqX (eDeqX y)).Reads y := by
  have ht := y.t.typeCode_lt
  have hf := y.f.code_lt
  have hx : xvOf (eDeqX y) = (XV.bare y.rnd.code 0 0 (y.t.typeCode + 16 * y.f.code)).withD y.msk :=
    xvOf_withD (Rnd.code_lt _) (by decide) (by decide) (by omega) _
  have htype : (y.t.typeCode + 16 * y.f.code) % 16 = y.t.typeCode := by omega
  have hfmt : (y.t.typeCode + 16 * y.f.code) / 16 % 8 = y.f.code := by omega
  have hrest : (y.t.typeCode + 16 * y.f.code) / 128 = 0 := by omega
  simp [pDeqX, hx, htype, hfmt, hrest]
theorem pXpandX_eXpandX {y : XpandX} (h : (y.f != .mxint8) = true) : (pXpandX (eXpandX y)).Reads y := by
  obtain ⟨f, n⟩ := y
  cases f with
  | mxint8 => exact absurd h Bool.false_ne_true
  | mxint6 | mxint4 | mxp4 => revert n; decide
theorem pShufX_eShufX (y : ShufX) : (pShufX (eShufX y)).Reads y := by
  have hx : xvOf (eShufX y) = (XV.bare 0 0 y.sel.code 0).withD y.msk := xvOf_withD (by decide) (by decide) (ShufSel.code_lt _) (by decide) _
  simp [pShufX, hx]
theorem pBitX_eBitX (y : BitX) : (pBitX (eBitX y)).Reads y := by
  have hx : xvOf (eBitX y) = (XV.bare 0 0 0 y.base.toNat).withD y.msk := xvOf_withD (by decide) (by decide) (by decide) y.base.isLt _
  simp [pBitX, hx]
theorem pRedX_eRedX (y : RedX) : (pRedX (eRedX y)).Reads y := by
  have hx : xvOf (eRedX y) = (XV.bare y.rnd.code 0 y.op.code 0).withS y.msk := xvOf_withS (Rnd.code_lt _) (by decide) (RedOp.code_lt _) (by decide) _
  simp [pRedX, hx]
theorem pScanX_eScanX (y : ScanX) : (pScanX (eScanX y)).Reads y := by
  have hx : xvOf (eScanX y) = (XV.bare y.rnd.code y.sat.toNat y.op.code 0).withS y.msk :=
    xvOf_withS (Rnd.code_lt _) (Bool.toNat_lt _) (RedOp.code_lt _) (by decide) _
  simp [pScanX, hx]
theorem pSbindX_eSbindX : ∀ w : Bool, (pSbindX (eSbindX w)).Reads w := by decide
theorem pDfromX_eDfromX : ∀ h : Half16, (optExtD (eDfromX h) .dflt pDfromX).Reads h
  | .dflt | .bf16 | .f16 => by decide
theorem pDtoX_eDtoX {y : DtoX} (h : (!y.hi || y.t == .f32) = true) : (pDtoX (eDtoX y)).Reads y := by
  have ht := y.t.typeCode_lt
  have hb := y.hi.toNat_lt
  have hx : xvOf (eDtoX y) = (XV.bare y.rnd.code 0 0 (y.t.typeCode + 16 * y.hi.toNat)).withD y.msk :=
    xvOf_withD (Rnd.code_lt _) (by decide) (by decide) (by omega) _
  have htype : (y.t.typeCode + 16 * y.hi.toNat) % 16 = y.t.typeCode := by omega
  have hhi : (y.t.typeCode + 16 * y.hi.toNat) / 16 % 2 = y.hi.toNat := by omega
  have hrest : (y.t.typeCode + 16 * y.hi.toNat) / 32 = 0 := by omega
  have hf32 : ¬(y.hi = true ∧ ¬y.t.typeCode = 6) := fun ⟨hy, hne⟩ => by
    rw [hy, Bool.not_true, Bool.false_or, beq_iff_eq] at h
    exact hne (congrArg FTy.typeCode h)
  simp [pDtoX, hx, htype, hhi, hrest, hf32]
theorem pImm16X_eImm16X (y : BitVec 16) : (pImm16X (eImm16X y)).Reads y := by
  have hx : xvOf (eImm16X y) = XV.bare 0 0 0 y.toNat := xvOf_bare (by decide) (by decide) (by decide) y.isLt
  simp [pImm16X, XV.dirZero, hx]
theorem pDlerpX_eImm16X {y : BitVec 16} (h : decide (y.toNat ≤ 0x8000) = true) : (pDlerpX (eImm16X y)).Reads y := (pImm16X_eImm16X y).when h
theorem pCmpxX_eCmpxX : ∀ y : CmpxX, (pCmpxX (eCmpxX y)).Reads y := by
  rintro ⟨j, k, desc⟩
  revert j k desc
  decide
theorem pTopkX_eTopkX (y : TopkX) : (pTopkX (eTopkX y)).Reads y := by
  have hk := y.k.isLt
  have hx : xvOf (eTopkX y) = (XV.bare 0 0 y.low.toNat y.k.toNat).withS y.msk :=
    xvOf_withS (by decide) (by decide) (Nat.lt_trans (Bool.toNat_lt _) (by decide)) (by omega) _
  simp [pTopkX, hx, Nat.div_eq_of_lt hk]

/-! ### Operands that are a register without XV and IMM16 with it -/

theorem pShiftX_enc : ∀ x : ShiftX, (pShiftX x.field x.ext).Reads x
  | .reg r => (pVV_eVV r).map ShiftX.reg
  | .imm i k => by
    have hx : xvOf ((XV.bare 0 0 0 i.toNat).withD k).word = _ := xvOf_withD (by decide) (by decide) (by decide) i.isLt k
    show (pShiftX 0 (some ((XV.bare 0 0 0 i.toNat).withD k).word)).Reads _
    simp [pShiftX, hx]
theorem pIdxX_enc : ∀ x : IdxX, (pIdxX x.field x.ext).Reads x
  | .reg r => (pVS_eVS r).map IdxX.reg
  | .imm i => by
    have hx : xvOf (XV.bare 0 0 0 i.toNat).word = _ := xvOf_bare (by decide) (by decide) (by decide) i.isLt
    show (pIdxX 0 (some (XV.bare 0 0 0 i.toNat).word)).Reads _
    simp [pIdxX, hx]
theorem pSlideX_enc : ∀ x : SlideX, (pSlideX x.field x.ext).Reads x
  | .reg r => (pVS_eVS r).map SlideX.reg
  | .imm i k rot => by
    have hx : xvOf ((XV.bare 0 0 rot.toNat i.toNat).withD k).word = _ :=
      xvOf_withD (by decide) (by decide) (Nat.lt_trans (Bool.toNat_lt _) (by decide)) i.isLt k
    show (pSlideX 0 (some ((XV.bare 0 0 rot.toNat i.toNat).withD k).word)).Reads _
    cases rot <;> simp only [pSlideX, hx] <;> simp
theorem pDScaleX_enc : ∀ x : DScaleX, (pDScaleX x.field x.ext).Reads x
  | .reg r => (pVS_eVS r).map DScaleX.reg
  | .imm i => by
    have hx : xvOf (XV.bare 0 0 0 i.toNat).word = _ := xvOf_bare (by decide) (by decide) (by decide) i.isLt
    show (pDScaleX 0 (some (XV.bare 0 0 0 i.toNat).word)).Reads _
    simp [pDScaleX, XV.dirZero, hx]

/-! ### XI, XR, XM, XA, XD and XT (Table 3.3) -/

theorem pXi_eXi (x : BitVec 32) : (pXi (eXi x)).Reads x := rfl
theorem pBr_eXi {x : BitVec 32} (h : (fld x 0 2 == 0) = true) : (pBr (eXi x)).Reads x := by
  rw [Parsed.Reads, pBr, eXi, if_pos (beq_iff_eq.mp h), Parsed.ok]
theorem pLoopX_eXi {x : BitVec 32} (h : loopOffOk x = true) : (pLoopX (eXi x)).Reads x := by
  rw [Parsed.Reads, pLoopX, eXi, if_pos h, Parsed.ok]
theorem pXrSel_eXrSel : ∀ k : Pred, (pXrSel (eXrSel k)).Reads k := by decide
theorem pXrRnd_eXrRnd (r : Rnd) : (pXrRnd (eXrRnd r)).Reads r := by cases r <;> decide

theorem fields_eXrCvt (y : CvtX) : fld (eXrCvt y) 0 3 = y.rnd.code ∧ fld (eXrCvt y) 3 1 = 0 ∧ fld (eXrCvt y) 4 4 = y.src.code ∧
    fld (eXrCvt y) 8 4 = y.dst.code ∧ fld (eXrCvt y) 12 20 = 0 := by
  have hr := y.rnd.code_lt
  have hs := y.src.code_lt
  have hd := y.dst.code_lt
  simp only [eXrCvt, fld_ofNat, Nat.reduceAdd, Nat.reduceLeDiff]
  omega
theorem pXrCvt_eXrCvt (y : CvtX) : (pXrCvt (eXrCvt y)).Reads y := by
  obtain ⟨hrnd, hgap, hsrc, hdst, hrest⟩ := fields_eXrCvt y
  simp [pXrCvt, hrnd, hgap, hsrc, hdst, hrest]

theorem fields_eBf (f : BitField) : fld (eBf f) 0 6 = f.pos.val ∧ fld (eBf f) 6 2 = 0 ∧ fld (eBf f) 8 6 = f.wm1.val ∧ fld (eBf f) 14 2 = 0 ∧
    fld (eBf f) 16 1 = f.sx.toNat ∧ fld (eBf f) 17 15 = 0 := by
  have hx := f.sx.toNat_lt
  simp only [eBf, fld_ofNat, Nat.reduceAdd, Nat.reduceLeDiff]
  omega
theorem pBfx_eBf {f : BitField} (h : f.fits = true) : (pBfx (eBf f)).Reads f := by
  obtain ⟨hpos, hgap, hwm1, hgap', hsx, hrest⟩ := fields_eBf f
  have hf : bfOf (eBf f) = f := by simp [bfOf, bitOf, hpos, hwm1, hsx]
  simp [pBfx, hf, h, hgap, hgap', hrest]
theorem pBfi_eBf {f : BitField} (h : (f.fits && !f.sx) = true) : (pBfi (eBf f)).Reads f := by
  obtain ⟨hfits, hsx⟩ := Bool.and_eq_true_iff.mp h
  refine (pBfx_eBf hfits).also ?_
  obtain ⟨-, -, -, -, hbit, -⟩ := fields_eBf f
  have hclear : f.sx = false := by simpa using hsx
  rw [hbit, hclear]
  rfl

theorem fields_eXm (y : XM) : fld (eXm y) 0 5 = y.shape.val ∧ fld (eXm y) 5 3 = y.fa.code ∧ fld (eXm y) 8 3 = y.fb.code ∧ fld (eXm y) 11 3 = y.ha.val ∧
    fld (eXm y) 14 3 = y.hb.val ∧ fld (eXm y) 17 12 = y.abase.toNat ∧ fld (eXm y) 29 1 = y.zi.toNat ∧ fld (eXm y) 30 1 = y.fwa.toNat ∧
    fld (eXm y) 31 1 = y.fwb.toNat := by
  have hfa := y.fa.code_lt
  have hfb := y.fb.code_lt
  have hab := y.abase.isLt
  have hzi := y.zi.toNat_lt
  have hwa := y.fwa.toNat_lt
  have hwb := y.fwb.toNat_lt
  simp only [eXm, fld_ofNat, Nat.reduceAdd, Nat.reduceLeDiff]
  omega
theorem pXm_eXm {y : XM} (h : pairOk y.fa y.fb = true) : (pXm (eXm y)).Reads y := by
  obtain ⟨hshape, hfa, hfb, hha, hhb, hab, hzi, hwa, hwb⟩ := fields_eXm y
  refine Parsed.Reads.when ?_ h
  simp [bitOf, hshape, hfa, hfb, hha, hhb, hab, hzi, hwa, hwb]

theorem fields_eXms (y : XMS) : fld (eXms y) 0 5 = y.shape.val ∧ fld (eXms y) 5 3 = y.fa.code ∧ fld (eXms y) 8 3 = 0 ∧ fld (eXms y) 11 3 = y.ha.val ∧
    fld (eXms y) 14 3 = 0 ∧ fld (eXms y) 17 12 = y.abase.toNat ∧ fld (eXms y) 29 1 = y.zi.toNat ∧ fld (eXms y) 30 1 = y.fwa.toNat ∧ fld (eXms y) 31 1 = 0 := by
  have hfa := y.fa.code_lt
  have hab := y.abase.isLt
  have hzi := y.zi.toNat_lt
  have hwa := y.fwa.toNat_lt
  simp only [eXms, fld_ofNat, Nat.reduceAdd, Nat.reduceLeDiff]
  omega
theorem pXms_eXms (y : XMS) : (pXms (eXms y)).Reads y := by
  obtain ⟨hshape, hfa, hfb, hha, hhb, hab, hzi, hwa, hwb⟩ := fields_eXms y
  simp [pXms, bitOf, hshape, hfa, hfb, hha, hhb, hab, hzi, hwa, hwb]

theorem fields_eXd (y : XD) : fld (eXd y) 0 3 = y.rnd.code ∧ fld (eXd y) 3 1 = y.uscl.toNat ∧ fld (eXd y) 4 3 = y.fmt.code ∧ fld (eXd y) 7 1 = y.clr.toNat ∧
    fld (eXd y) 8 11 = y.nb.toNat ∧ fld (eXd y) 19 13 = 0 := by
  have hr := y.rnd.code_lt
  have hf := y.fmt.code_lt
  have hnb := y.nb.isLt
  have hu := y.uscl.toNat_lt
  have hc := y.clr.toNat_lt
  simp only [eXd, fld_ofNat, Nat.reduceAdd, Nat.reduceLeDiff]
  omega
theorem pXd_eXd {y : XD} (h : (y.rnd != .sr) = true) : (pXd (eXd y)).Reads y := by
  obtain ⟨hrnd, hu, hfmt, hc, hnb, hrest⟩ := fields_eXd y
  have hsr : y.rnd.code ≠ 5 := by
    cases hy : y.rnd with
    | sr => rw [hy] at h; exact absurd h (by decide)
    | dyn | rne | rtz | rdn | rup => decide
  simp [pXd, bitOf, hrnd, hsr, hu, hfmt, hc, hnb, hrest]

theorem pXt_eXt : ∀ y : XT, (pXt (eXt y)).Reads y := by
  rintro ⟨r, c⟩
  revert r c
  decide
theorem pUrg_eUrg : ∀ u : BitVec 3, (pUrg (eUrg u)).Reads u := by decide
theorem pDemo_eDemo : ∀ y : DemoX, (pDemo (eDemo y)).Reads y := by
  rintro ⟨u, f⟩
  revert u f
  decide

theorem fields_eAt (y : AtX) {scope : Nat} (h : scope < 8) : fld (eAt y scope) 0 4 = y.op.code ∧ fld (eAt y scope) 4 2 = y.width.code ∧
    fld (eAt y scope) 6 1 = y.ret.toNat ∧ fld (eAt y scope) 7 3 = scope ∧ fld (eAt y scope) 10 22 = 0 := by
  have ho := y.op.code_lt
  have hw := y.width.code_lt
  have hr := y.ret.toNat_lt
  simp only [eAt, fld_ofNat, Nat.reduceAdd, Nat.reduceLeDiff]
  omega
theorem pAt_eAt {y : AtX} {scope : Nat} (hs : scope < 8) (h : y.okB = true) : (pAt (eAt y scope)).Reads y := by
  obtain ⟨hop, hwidth, hret, -, hrest⟩ := fields_eAt y hs
  refine (Parsed.Reads.when ?_ h).also (by rw [hrest]; rfl)
  simp [bitOf, hop, hwidth, hret]
theorem pXas_eAt {y : AtX} (h : y.okB = true) : (pXas (eAt y 0)).Reads y := by
  obtain ⟨-, -, -, hscope, -⟩ := fields_eAt y (scope := 0) (by decide)
  exact (pAt_eAt (by decide) h).also (by rw [if_pos hscope])
theorem pXac_eXa {y : XA} (h : (y.at_.okB && decide (2 ≤ y.scope.code)) = true) : (pXac (eXa y)).Reads y := by
  obtain ⟨at_, scope⟩ := y
  obtain ⟨hok, hscope⟩ := Bool.and_eq_true_iff.mp h
  obtain ⟨-, -, -, hfld, -⟩ := fields_eAt at_ scope.code_lt
  refine ((Parsed.reads XA.mk).ap (pAt_eAt scope.code_lt hok)).ap ?_
  rw [eXa, hfld, scopeOf_code]
  cases scope with
  | core | cluster => exact absurd hscope Bool.false_ne_true
  | stratum | device | system => rfl
theorem pTsel_eTsel : ∀ t : TOp, (pTsel (eTsel t)).Reads t := by decide

end Sys2Proof
end

section
/-! O55: the operations of the primary slots come back from their words (R81 to R98). -/
namespace Sys2Proof
open Parsed (reads)

/-! ### Operations whose fields depend on each other -/

theorem pM_eSS_val : ∀ b : SSrc, (pM (eSS b)).val = none
  | .s r => by revert r; decide
  | .ls | .lc0 | .lc1 => rfl

theorem dTtmask_toMask {op : BitVec 8} {q : Pred} (k : TReg) (m : MReg) (c : SSrc) (half : Bool) :
    (dTtmask ⟨op, q, eTT k, eM m, eSS c, if half then some 2 else none⟩).Reads (.ttmask k c (.toMask m half)) := by
  cases half <;> simp [dTtmask, pTT_eTT, pM_eM, pSS_eSS, bitOf, fld] <;> rfl
theorem dTtmask_toMem {op : BitVec 8} {q : Pred} (k : TReg) (b c : SSrc) (lay half : Bool) :
    (dTtmask ⟨op, q, eTT k, eSS b, eSS c, if lay || half then some (BitVec.ofNat 32 (lay.toNat + 2 * half.toNat)) else none⟩).Reads
      (.ttmask k c (.toMem b lay half)) := by
  cases lay <;> cases half <;> simp [dTtmask, pTT_eTT, pM_eSS_val, pSS_eSS, bitOf, fld]

theorem dMclr_reads {op : BitVec 8} {q : Pred} (a : SReg) {x : SX} (h : x.noLatch = true) : (dMclr ⟨op, q, eS a, x.field, 0, x.ext⟩).Reads (.mclr a x) := by
  refine (((reads _).ap (pS_eS a)).ap (pSX_enc x)).also ?_
  match x, h with
  | .imm _, _ => rfl
  | .reg (.s r), _ => exact congrArg Parsed.bad (pS_eS r)

theorem dSat_reads {op : BitVec 8} {q : Pred} {a : SSrc} (b c : SSrc) {xa : AtX} (h : (xa.okB && (satA (eSS a) xa.ret (xa.op == .cas)).isEmpty) = true) :
    (dSat ⟨op, q, eSS a, eSS b, eSS c, some (eAt xa 0)⟩).Reads (.sat a b c xa) := by
  obtain ⟨hok, hA⟩ := Bool.and_eq_true_iff.mp h
  obtain ⟨hop, -, hret, -, -⟩ := fields_eAt xa (scope := 0) (by decide)
  refine (((((reads _).ap (pSS_eSS a)).ap (pSS_eSS b)).ap (pSS_eSS c)).ap (reqExt_reads (pXas_eAt hok))).also ?_
  have hcas : (xa.op.code == 11) = (xa.op == .cas) := by cases xa.op <;> rfl
  simpa [bitOf, hop, hret, hcas] using hA

theorem dVmovaGet_reads {op : BitVec 8} {q : Pred} (d : VReg) (b : VSSrc) (k : DMask) :
    (dVmova ⟨op, q, eV d, eVS b, 0, some (XV.zero.withD k).word⟩).Reads (.vmovaGet d b k) := by
  have hx : xvOf (XV.zero.withD k).word = (XV.bare 0 0 0 0).withD k := xvOf_withD (by decide) (by decide) (by decide) (by decide) k
  simp [dVmova, dVmovaGet, hx, pV_eV, pVS_eVS]
theorem dVmovaPut_reads {op : BitVec 8} {q : Pred} (a : VSrc) (b : VSSrc) (k : SMask) :
    (dVmova ⟨op, q, eVV a, eVS b, 0, some ({ XV.zero with sub := 1 }.withS k).word⟩).Reads (.vmovaPut a b k) := by
  have hx : xvOf ({ XV.zero with sub := 1 }.withS k).word = (XV.bare 0 0 1 0).withS k := xvOf_withS (by decide) (by decide) (by decide) (by decide) k
  simp [dVmova, dVmovaPut, hx, pVV_eVV, pVS_eVS]

/-! ### VLD and VST (R158) -/

theorem pMaskW_maskSub (t : ElemW) : (pMaskW t.maskSub).Reads t := by cases t <;> rfl
theorem pV_eM_val : ∀ k : MReg, (pV (eM k)).val = none := by decide
theorem pV_eW_val : ∀ k : WReg, (pV (eW k)).val = none := by decide
theorem pVV_eM_val : ∀ k : MReg, (pVV (eM k)).val = none := by decide
theorem pVV_eW_val : ∀ k : WReg, (pVV (eW k)).val = none := by decide
theorem pM_eW_val : ∀ k : WReg, (pM (eW k)).val = none := by decide
@[simp] theorem plainMw_bare (imm : Nat) : (XV.bare 0 0 0 imm).plainMw = [] := rfl

/-- An offset in IMM16 is read from the XV word that holds it. -/
theorem pOffX_enc {w : Nat → BitVec 32} {v : BitVec 16 → XV} (hw : ∀ i, xvOf (w i.toNat) = v i) (hrnd : ∀ i, (v i).rnd = 0) (hsat : ∀ i, (v i).sat = 0)
    (himm : ∀ i, (v i).imm = i.toNat) : ∀ x : OffX, (pOffX x.field (x.imm16.map w)).Reads x
  | .reg r => (pVS_eVS r).map OffX.reg
  | .imm i => by
    show (pOffX 0 (some (w i.toNat))).Reads _
    simp [pOffX, hw, hrnd, hsat, himm]

/-- What is read from the XV word beside an offset is read from XV zero where a register offset leaves the word out (R142). -/
theorem reads_beside_offX {α : Type} {p : XV → Parsed α} {y : α} {xv : XV} {full : Nat → XV} {plain : Bool} {x : OffX}
    (hw : ∀ i : BitVec 16, xvOf { xv with imm := i.toNat }.word = full i.toNat) (hp : ∀ i, (p (full i)).Reads y) (hplain : plain = true → XV.zero = full 0)
    (h : x.allows plain = true) : (p (((x.imm16.map fun i => { xv with imm := i }.word).map xvOf).getD XV.zero)).Reads y := by
  cases x with
  | reg r =>
    show (p XV.zero).Reads y
    rw [hplain h]
    exact hp 0
  | imm i =>
    show (p (xvOf { xv with imm := i.toNat }.word)).Reads y
    rw [hw]
    exact hp i.toNat

/-- The mask and the mask width beside a register that VLD loads. -/
def VldDst.mask : VldDst → DMask
  | .v _ k _ => k
  | .m _ | .w _ => none
def VldDst.sub : VldDst → Nat
  | .v _ _ t => t.maskSub
  | .m _ | .w _ => 0
/-- Its XV word, with an offset. -/
def VldDst.xvAt (d : VldDst) (imm : Nat) : XV := (XV.bare 0 0 d.sub imm).withD d.mask
/-- The A operand that VLD reads beside an XV word. -/
def pVldDst (v : XV) (f : BitVec 7) : Parsed VldDst :=
  match (pV f).val, (pM f).val, (pW f).val with
  | some d, _, _ => (Parsed.ok (VldDst.v d)).ap v.dmask |>.ap (pMaskW v.sub)
  | _, some k, _ => (Parsed.ok (VldDst.m k)).also v.plainMw
  | _, _, some k => (Parsed.ok (VldDst.w k)).also v.plainMw
  | _, _, _ => (Parsed.fail 3 f.toNat).also v.dmask.bad
theorem dVld_eq (r : RawSlot) :
    dVld r = (((Parsed.ok Instr.vld).ap (pVldDst ((r.ext.map xvOf).getD XV.zero) r.a)).ap (pVS r.b)).ap (pOffX r.c r.ext) := rfl

theorem VldDst.sub_lt : ∀ d : VldDst, d.sub < 128
  | .v _ _ t => t.maskSub_lt
  | .m _ | .w _ => Nat.zero_lt_succ 127
theorem VldDst.xv_imm (d : VldDst) (i : Nat) : { d.xv with imm := i } = d.xvAt i := by
  cases d with
  | v d k t => cases k <;> rfl
  | m k | w k => rfl
theorem VldDst.zero_of_plain {d : VldDst} (h : d.plain = true) : XV.zero = d.xvAt 0 := by
  cases d with
  | v d k t =>
    obtain ⟨hk, ht⟩ := Bool.and_eq_true_iff.mp h
    rw [VldDst.xvAt, VldDst.mask, VldDst.sub, Option.isNone_iff_eq_none.mp hk, beq_iff_eq.mp ht]
    rfl
  | m k | w k => rfl
theorem pVldDst_field (d : VldDst) (i : Nat) : (pVldDst (d.xvAt i) d.field).Reads d := by
  cases d with
  | v d k t => simp [pVldDst, VldDst.xvAt, VldDst.field, VldDst.mask, VldDst.sub, pV_eV, pMaskW_maskSub]
  | m k => simp [pVldDst, VldDst.xvAt, VldDst.field, VldDst.mask, VldDst.sub, pV_eM_val, pM_eM, XV.withD]
  | w k => simp [pVldDst, VldDst.xvAt, VldDst.field, VldDst.mask, VldDst.sub, pV_eW_val, pM_eW_val, pW_eW, XV.withD]

theorem dVld_reads {op : BitVec 8} {q : Pred} {d : VldDst} (b : VSSrc) {x : OffX} (h : x.allows d.plain = true) :
    (dVld ⟨op, q, d.field, eVS b, x.field, x.imm16.map fun i => { d.xv with imm := i }.word⟩).Reads (.vld d b x) := by
  have hw (i : BitVec 16) : xvOf { d.xv with imm := i.toNat }.word = d.xvAt i.toNat := by
    rw [d.xv_imm]
    exact xvOf_withD (by decide) (by decide) d.sub_lt i.isLt _
  have hd := reads_beside_offX (p := fun v => pVldDst v d.field) hw (pVldDst_field d) VldDst.zero_of_plain h
  rw [dVld_eq]
  exact (((reads _).ap hd).ap (pVS_eVS b)).ap (pOffX_enc hw (fun _ => withD_rnd _ _) (fun _ => withD_sat _ _) (fun _ => withD_imm _ _) x)

/-- The mask and the mask width beside a register that VST stores. -/
def VstSrc.mask : VstSrc → SMask
  | .v _ k _ => k
  | .m _ | .w _ => none
def VstSrc.sub : VstSrc → Nat
  | .v _ _ t => t.maskSub
  | .m _ | .w _ => 0
/-- Its XV word, with an offset. -/
def VstSrc.xvAt (a : VstSrc) (imm : Nat) : XV := (XV.bare 0 0 a.sub imm).withS a.mask
/-- The A operand that VST reads beside an XV word. -/
def pVstSrc (v : XV) (f : BitVec 7) : Parsed VstSrc :=
  match (pVV f).val, (pM f).val, (pW f).val with
  | some r, _, _ => (Parsed.ok (VstSrc.v r)).ap v.smask |>.ap (pMaskW v.sub)
  | _, some k, _ => (Parsed.ok (VstSrc.m k)).also v.plainMw
  | _, _, some k => (Parsed.ok (VstSrc.w k)).also v.plainMw
  | _, _, _ => (Parsed.fail 3 f.toNat).also v.smask.bad
theorem dVst_eq (r : RawSlot) :
    dVst r = (((Parsed.ok Instr.vst).ap (pVstSrc ((r.ext.map xvOf).getD XV.zero) r.a)).ap (pVS r.b)).ap (pOffX r.c r.ext) := rfl

theorem VstSrc.sub_lt : ∀ a : VstSrc, a.sub < 128
  | .v _ _ t => t.maskSub_lt
  | .m _ | .w _ => Nat.zero_lt_succ 127
theorem VstSrc.xv_imm (a : VstSrc) (i : Nat) : { a.xv with imm := i } = a.xvAt i := by
  cases a with
  | v r k t => cases k <;> rfl
  | m k | w k => rfl
theorem VstSrc.zero_of_plain {a : VstSrc} (h : a.plain = true) : XV.zero = a.xvAt 0 := by
  cases a with
  | v r k t =>
    obtain ⟨hk, ht⟩ := Bool.and_eq_true_iff.mp h
    rw [VstSrc.xvAt, VstSrc.mask, VstSrc.sub, Option.isNone_iff_eq_none.mp hk, beq_iff_eq.mp ht]
    rfl
  | m k | w k => rfl
theorem pVstSrc_field (a : VstSrc) (i : Nat) : (pVstSrc (a.xvAt i) a.field).Reads a := by
  cases a with
  | v r k t => simp [pVstSrc, VstSrc.xvAt, VstSrc.field, VstSrc.mask, VstSrc.sub, pVV_eVV, pMaskW_maskSub]
  | m k => simp [pVstSrc, VstSrc.xvAt, VstSrc.field, VstSrc.mask, VstSrc.sub, pVV_eM_val, pM_eM, XV.withS]
  | w k => simp [pVstSrc, VstSrc.xvAt, VstSrc.field, VstSrc.mask, VstSrc.sub, pVV_eW_val, pM_eW_val, pW_eW, XV.withS]

theorem dVst_reads {op : BitVec 8} {q : Pred} {a : VstSrc} (b : VSSrc) {x : OffX} (h : x.allows a.plain = true) :
    (dVst ⟨op, q, a.field, eVS b, x.field, x.imm16.map fun i => { a.xv with imm := i }.word⟩).Reads (.vst a b x) := by
  have hw (i : BitVec 16) : xvOf { a.xv with imm := i.toNat }.word = a.xvAt i.toNat := by
    rw [a.xv_imm]
    exact xvOf_withS (by decide) (by decide) a.sub_lt i.isLt _
  have ha := reads_beside_offX (p := fun v => pVstSrc v a.field) hw (pVstSrc_field a) VstSrc.zero_of_plain h
  rw [dVst_eq]
  exact (((reads _).ap ha).ap (pVS_eVS b)).ap (pOffX_enc hw (fun _ => withS_rnd _ _) (fun _ => withS_sat _ _) (fun _ => withS_imm _ _) x)

/-! ### The slot maps (R95 to R98) -/

theorem fields_slotWord (r : RawSlot) : fld r.word 24 8 = r.op.toNat ∧ fld r.word 21 3 = r.q.val ∧ fld r.word 14 7 = r.a.toNat ∧ fld r.word 7 7 = r.b.toNat ∧
    fld r.word 0 7 = r.c.toNat := by
  have hop := r.op.isLt
  have ha := r.a.isLt
  have hb := r.b.isLt
  have hc := r.c.isLt
  simp only [RawSlot.word, fld_ofNat, Nat.reduceAdd, Nat.reduceLeDiff]
  omega
/-- The fields of a slot come back from its word (Table 3.2). -/
theorem rawOf_word (r : RawSlot) : rawOf r.word r.ext = r := by
  obtain ⟨hop, hq, ha, hb, hc⟩ := fields_slotWord r
  simp [rawOf, hop, hq, ha, hb, hc]

/-- Where the encoder gives an operation fields in this class of slot, the slot reads the operation in them. -/
def ClassReads (k : SlotClass) (q : Pred) (i : Instr) : Prop :=
  match encSlot q i with
  | some (k', r) => if k' = k then (parseSlot k' r).Reads i else True
  | none => True

/-- The scalar slot (R95). -/
theorem scalar_reads (q : Pred) (i : Instr) (h : i.wf = true) : ClassReads .s q i := by
  cases i with
  | nop | ret | halt | eret => exact (reads _).also rfl
  | add d b c | sfmin d b c | sfmax d b c => exact ((reads _).ap (pS_eS d)).ap (pSS_eSS b) |>.ap (pSS_eSS c) |>.also rfl
  | sub d b x | mul d b x | mulh d b x | mulhW d b x | div d b x | divW d b x | rem d b x | remW d b x | and d b x | or d b x | xor d b x | andn d b x
  | shl d b x | shr d b x | sar d b x | rot d b x | min d b x | minW d b x | max d b x | maxW d b x | adda d b x =>
    exact ((reads _).ap (pS_eS d)).ap (pSS_eSS b) |>.ap (pSX_enc x)
  | addi d b imm => exact ((reads _).ap (pS_eS d)).ap (pSS_eSS b) |>.ap (reqExt_reads (pXi_eXi imm)) |>.also rfl
  | clz d b | popc d b => exact ((reads _).ap (pS_eS d)).ap (pSS_eSS b) |>.also rfl
  | sel d b c k => exact ((reads _).ap (pS_eS d)).ap (pSS_eSS b) |>.ap (pSS_eSS c) |>.ap (reqExt_reads (pXrSel_eXrSel k))
  | li d imm => exact ((reads _).ap (pS_eS d)).ap (reqExt_reads (pXi_eXi imm)) |>.also rfl
  | bfx d b f => exact ((reads _).ap (pS_eS d)).ap (pSS_eSS b) |>.ap (reqExt_reads (pBfx_eBf h)) |>.also rfl
  | bfi d b f => exact ((reads _).ap (pS_eS d)).ap (pSS_eSS b) |>.ap (reqExt_reads (pBfi_eBf h)) |>.also rfl
  | cmp cc d b x => cases cc <;> exact ((reads _).ap (pP_eP d)).ap (pSS_eSS b) |>.ap (pSX_enc x)
  | pand d b c | por d b c | pxor d b c => exact ((reads _).ap (pP_eP d)).ap (pP_eP b) |>.ap (pP_eP c) |>.also rfl
  | pnot d b => exact ((reads _).ap (pP_eP d)).ap (pP_eP b) |>.also rfl
  | sfadd d b c rnd | sfmul d b c rnd | sffma d b c rnd =>
    exact ((reads _).ap (pS_eS d)).ap (pSS_eSS b) |>.ap (pSS_eSS c) |>.ap (optExt_reads pXrRnd_eXrRnd rnd)
  | sfcvt d b f => exact ((reads _).ap (pS_eS d)).ap (pSS_eSS b) |>.ap (reqExt_reads (pXrCvt_eXrCvt f)) |>.also rfl
  | sfcmp cc d b c => cases cc <;> exact ((reads _).ap (pP_eP d)).ap (pSS_eSS b) |>.ap (pSS_eSS c) |>.also rfl
  | lds t d b x => cases t <;> exact ((reads _).ap (pS_eS d)).ap (pSS_eSS b) |>.ap (pSX_enc x)
  | sts n a b x => cases n <;> exact ((reads _).ap (pSS_eSS a)).ap (pSS_eSS b) |>.ap (pSX_enc x)
  | stsN4 a b imm => exact ((reads _).ap (pSS_eSS a)).ap (pSS_eSS b) |>.ap (reqExt_reads (pXi_eXi imm)) |>.also rfl
  | br t | call t => exact (reads _).ap (pTarget_enc t h) |>.also rfl
  | brc a imm => exact ((reads _).ap (pSS_eSS a)).ap (reqExt_reads (pBr_eXi h)) |>.also rfl
  | loop a imm => exact ((reads _).ap (pSS_eSS a)).ap (reqExt_reads (pLoopX_eXi h)) |>.also rfl
  | waita a b => exact ((reads _).ap (pSS_eSS a)).ap (pSS_eSS b) |>.also rfl
  | flagacq a sc => exact ((reads _).ap (pS_eS a)).ap (pScope_eScope sc) |>.also rfl
  | flagrel a sc => exact ((reads _).ap (pSS_eSS a)).ap (pScope_eScope sc) |>.also rfl
  | fence sc => exact (reads _).ap (pScope_eScope sc) |>.also rfl
  | movs d sp => exact ((reads _).ap (pS_eS d)).ap (pSpec_eSpec sp) |>.also rfl
  | movts sp b => exact ((reads _).ap (pSpec_eSpec sp)).ap (pSS_eSS b) |>.also rfl
  | trap n => exact (reads _).ap (pLit_eLit n) |>.also rfl
  | tcreate a b c => exact ((reads _).ap (pSS_eSS a)).ap (pSS_eSS b) |>.ap (pSS_eSS c) |>.also rfl
  | tkill a => exact (reads _).ap (pSS_eSS a) |>.also rfl
  | ttclr k => exact (reads _).ap (pTT_eTT k) |>.also rfl
  | ttnode k b c | ttpos k b c | ttpath k b c | ttprune k b c => exact ((reads _).ap (pTT_eTT k)).ap (pSS_eSS b) |>.ap (pSS_eSS c) |>.also rfl
  | ttldp k b x => exact ((reads _).ap (pTT_eTT k)).ap (pSS_eSS b) |>.ap (pSX_enc x)
  | ttmask k c x =>
    cases x with
    | toMask m half => exact dTtmask_toMask k m c half
    | toMem b lay half => exact dTtmask_toMem k b c lay half
  | ttinfo d k c => exact ((reads _).ap (pS_eS d)).ap (pTT_eTT k) |>.ap (pSS_eSS c) |>.also rfl
  | _ => trivial

/-- The vector slots (R96). -/
theorem vector_reads (q : Pred) (i : Instr) (h : i.wf = true) : ClassReads .v q i := by
  cases i with
  | vadd t d b c xv | vsub t d b c xv | vmul t d b c xv =>
    cases t <;> exact ((reads _).ap (pV_eV d)).ap (pVV_eVV b) |>.ap (pVV_eVV c) |>.ap (optExt_reads pIntX_eIntX xv)
  | vmulh t d b c xv | vmin t d b c xv | vmax t d b c xv | vand t d b c xv | vor t d b c xv | vxor t d b c xv | vfmin t d b c xv | vfmax t d b c xv
  | vperm t d b c xv =>
    cases t <;> exact ((reads _).ap (pV_eV d)).ap (pVV_eVV b) |>.ap (pVV_eVV c) |>.ap (pMx_eMx xv)
  | vshl t d b x | vshr t d b x | vsar t d b x => cases t <;> exact ((reads _).ap (pV_eV d)).ap (pVV_eVV b) |>.ap (pShiftX_enc x)
  | vabs t d b xv => cases t <;> exact ((reads _).ap (pV_eV d)).ap (pVV_eVV b) |>.ap (optExt_reads pIntX_eIntX xv) |>.also rfl
  | vcmp t d b c xv => cases t <;> exact ((reads _).ap (pM_eM d)).ap (pVV_eVV b) |>.ap (pVV_eVV c) |>.ap (reqExt_reads (pCmpX_eCmpX xv))
  | vsel t d b c k => cases t <;> exact ((reads _).ap (pV_eV d)).ap (pVV_eVV b) |>.ap (pVV_eVV c) |>.ap (reqExt_reads (pSelX_eSelX k))
  | vfadd t d b c xv | vfsub t d b c xv | vfmul t d b c xv | vffma t d b c xv =>
    cases t <;> exact ((reads _).ap (pV_eV d)).ap (pVV_eVV b) |>.ap (pVV_eVV c) |>.ap (optExt_reads pFltX_eFltX xv)
  | vfrcp t d b xv | vfrsq t d b xv | vfexp2 t d b xv | vflog2 t d b xv =>
    cases t <;> exact ((reads _).ap (pV_eV d)).ap (pVV_eVV b) |>.ap (optExt_reads pFltX_eFltX xv) |>.also rfl
  | vfcmp t d b c xv => cases t <;> exact ((reads _).ap (pM_eM d)).ap (pVV_eVV b) |>.ap (pVV_eVV c) |>.ap (reqExt_reads (pFCmpX_eFCmpX xv))
  | vcvt d b xv => exact ((reads _).ap (pV_eV d)).ap (pVV_eVV b) |>.ap (reqExt_reads ((pVCvtX_eVCvtX xv).when h)) |>.also rfl
  | vmxexp a xv => exact ((reads _).ap (pVV_eVV a)).ap (reqExt_reads (pMxExpX_eMxExpX xv)) |>.also rfl
  | vquant d b xv => exact ((reads _).ap (pV_eV d)).ap (pVV_eVV b) |>.ap (reqExt_reads (pQuantX_eQuantX xv)) |>.also rfl
  | vdeq d b xv => exact ((reads _).ap (pV_eV d)).ap (pVV_eVV b) |>.ap (reqExt_reads (pDeqX_eDeqX xv)) |>.also rfl
  | vxpand d b xv => exact ((reads _).ap (pV_eV d)).ap (pVV_eVV b) |>.ap (reqExt_reads (pXpandX_eXpandX h)) |>.also rfl
  | vpbook a => exact (reads _).ap (pVV_eVV a) |>.also rfl
  | vld d b x => exact dVld_reads b h
  | vst a b x => exact dVst_reads b h
  | vldx t d b c xv => cases t <;> exact ((reads _).ap (pV_eV d)).ap (pVS_eVS b) |>.ap (pVV_eVV c) |>.ap (pMx_eMx xv)
  | vstx t a b c xv => cases t <;> exact ((reads _).ap (pVV_eVV a)).ap (pVS_eVS b) |>.ap (pVV_eVV c) |>.ap (pSmx_eSmx xv)
  | vstxN4 a b c xv => exact ((reads _).ap (pVV_eVV a)).ap (pVS_eVS b) |>.ap (pVV_eVV c) |>.ap (pSmx_eSmx xv)
  | vbcast t d b xv => cases t <;> exact ((reads _).ap (pV_eV d)).ap (pVS_eVS b) |>.ap (pMx_eMx xv) |>.also rfl
  | vext t d b x => cases t <;> exact ((reads _).ap (pS_eS d)).ap (pVV_eVV b) |>.ap (pIdxX_enc x)
  | vins t d b x => cases t <;> exact ((reads _).ap (pV_eV d)).ap (pVS_eVS b) |>.ap (pIdxX_enc x)
  | vshuf t d b c xv => cases t <;> exact ((reads _).ap (pV_eV d)).ap (pVV_eVV b) |>.ap (pVV_eVV c) |>.ap (optExt_reads pShufX_eShufX xv)
  | vslide t d b x => cases t <;> exact ((reads _).ap (pV_eV d)).ap (pVV_eVV b) |>.ap (pSlideX_enc x)
  | vpopm d b => exact ((reads _).ap (pS_eS d)).ap (pM_eM b) |>.also rfl
  | vbtest d b c xv => exact ((reads _).ap (pM_eM d)).ap (pVV_eVV b) |>.ap (pVV_eVV c) |>.ap (optExt_reads pBitX_eBitX xv)
  | vbset d b c xv => exact ((reads _).ap (pV_eV d)).ap (pVV_eVV b) |>.ap (pVV_eVV c) |>.ap (optExt_reads pBitX_eBitX xv)
  | vcmpx t d b xv => cases t <;> exact ((reads _).ap (pV_eV d)).ap (pVV_eVV b) |>.ap (reqExt_reads ((pCmpxX_eCmpxX xv).when h)) |>.also rfl
  | vtopk t d b xv => cases t <;> exact ((reads _).ap (pV_eV d)).ap (pVV_eVV b) |>.ap (reqExt_reads ((pTopkX_eTopkX xv).when h)) |>.also rfl
  | vred t d b xv => cases t <;> exact ((reads _).ap (pS_eS d)).ap (pVV_eVV b) |>.ap (reqExt_reads ((pRedX_eRedX xv).when h)) |>.also rfl
  | vscan t d b xv => cases t <;> exact ((reads _).ap (pV_eV d)).ap (pVV_eVV b) |>.ap (reqExt_reads ((pScanX_eScanX xv).when h)) |>.also rfl
  | vmovaGet d b k => exact dVmovaGet_reads d b k
  | vmovaPut a b k => exact dVmovaPut_reads a b k
  | vsbind a b wr => exact ((reads _).ap (pPort_ePort a)).ap (pW_eW b) |>.ap (reqExt_reads (pSbindX_eSbindX wr)) |>.also rfl
  | vsunbind a => exact (reads _).ap (pV_eV a) |>.also rfl
  | dfrom d b xv => exact ((reads _).ap (pD_eD d)).ap (pVV_eVV b) |>.ap (pDfromX_eDfromX xv) |>.also rfl
  | dto d b xv => exact ((reads _).ap (pV_eV d)).ap (pD_eD b) |>.ap (reqExt_reads (pDtoX_eDtoX h)) |>.also rfl
  | dld d b c | dst d b c => exact ((reads _).ap (pD_eD d)).ap (pVS_eVS b) |>.ap (pVS_eVS c) |>.also rfl
  | dadd d b c xv | dsub d b c xv => exact ((reads _).ap (pD_eD d)).ap (pD_eD b) |>.ap (pD_eD c) |>.ap (optExt_reads pImm16X_eImm16X xv)
  | dscale d b x => exact ((reads _).ap (pD_eD d)).ap (pD_eD b) |>.ap (pDScaleX_enc x)
  | dneg d b => exact ((reads _).ap (pD_eD d)).ap (pD_eD b) |>.also rfl
  | ddot d b c => exact ((reads _).ap (pS_eS d)).ap (pD_eD b) |>.ap (pD_eD c) |>.also rfl
  | ddotv d b c => exact ((reads _).ap (pV_eV d)).ap (pD_eD b) |>.ap (pVS_eVS c) |>.also rfl
  | dnorm d b | dcmpz d b => exact ((reads _).ap (pS_eS d)).ap (pD_eD b) |>.also rfl
  | dsetn d b => exact ((reads _).ap (pD_eD d)).ap (pVS_eVS b) |>.also rfl
  | dlerp d b c t => exact ((reads _).ap (pD_eD d)).ap (pD_eD b) |>.ap (pD_eD c) |>.ap (reqExt_reads (pDlerpX_eImm16X h))
  | ttmask k c x => cases x <;> trivial
  | _ => trivial

/-- The matrix slot (R97). -/
theorem matrix_reads (q : Pred) (i : Instr) (h : i.wf = true) : ClassReads .m q i := by
  cases i with
  | mma a xm => exact ((reads _).ap (pS_eS a)).ap (reqExt_reads (pXm_eXm h)) |>.also rfl
  | mmas a xm => exact ((reads _).ap (pS_eS a)).ap (reqExt_reads (pXms_eXms xm)) |>.also rfl
  | mclr a x => exact dMclr_reads a h
  | mdrain a b xd => exact ((reads _).ap (pS_eS a)).ap (pS_eS b) |>.ap (reqExt_reads (pXd_eXd h)) |>.also rfl
  | mpop a n => exact ((reads _).ap (pH_eH a)).ap (pCnt_eLit h) |>.also rfl
  | mtrans a b xt => exact ((reads _).ap (pH_eH a)).ap (pH_eH b) |>.ap (reqExt_reads (pXt_eXt xt)) |>.also rfl
  | ttmask k c x => cases x <;> trivial
  | _ => trivial

/-- The copy slots (R98). -/
theorem copy_reads (q : Pred) (i : Instr) (h : i.wf = true) : ClassReads .c q i := by
  cases i with
  | cstat d b | chalt d b | chaltTry d b => exact ((reads _).ap (pS_eS d)).ap (pSS_eSS b) |>.also rfl
  | kvrel a b | kvpin a b | kvunpin a b => exact ((reads _).ap (pSS_eSS a)).ap (pSS_eSS b) |>.also rfl
  | ccancel a => exact (reads _).ap (pSS_eSS a) |>.also rfl
  | cfence sc => exact (reads _).ap (pScope_eScope sc) |>.also rfl
  | cpy a b x | cgath a b x | cscat a b x => exact ((reads _).ap (pW_eW a)).ap (pW_eW b) |>.ap (pSX_enc x)
  | cfill a b x => exact ((reads _).ap (pW_eW a)).ap (pSS_eSS b) |>.ap (pSX_enc x)
  | cprom a b xi => exact ((reads _).ap (pSS_eSS a)).ap (pSS_eSS b) |>.ap (optExt_reads pUrg_eUrg xi) |>.also rfl
  | cdemo a b xi => exact ((reads _).ap (pSS_eSS a)).ap (pSS_eSS b) |>.ap (optExt_reads pDemo_eDemo xi) |>.also rfl
  | choop a b => exact ((reads _).ap (pH_eH a)).ap (pSS_eSS b) |>.also rfl
  | cdeal a b => exact ((reads _).ap (pW_eW a)).ap (pSS_eSS b) |>.also rfl
  | carm a b x | kvapp a b x => exact ((reads _).ap (pSS_eSS a)).ap (pSS_eSS b) |>.ap (pSX_enc x)
  | catom a b c xa => exact ((reads _).ap (pSS_eSS a)).ap (pSS_eSS b) |>.ap (pSS_eSS c) |>.ap (reqExt_reads (pXac_eXa h))
  | sat a b c x => exact dSat_reads b c h
  | gbar g => exact (reads _).ap (pGrp_eGrp g) |>.also rfl
  | xchg d b => exact ((reads _).ap (pV_eV d)).ap (pVV_eVV b) |>.also rfl
  | xmax d => exact (reads _).ap (pV_eV d) |>.also rfl
  | chsend a ch => exact ((reads _).ap (pVV_eVV a)).ap (pCh_eCh ch) |>.also rfl
  | chsendTry d b ch => exact ((reads _).ap (pP_eP d)).ap (pVV_eVV b) |>.ap (pCh_eCh ch) |>.also rfl
  | chrecv d ch => exact ((reads _).ap (pV_eV d)).ap (pCh_eCh ch) |>.also rfl
  | chrecvTry d b ch => exact ((reads _).ap (pP_eP d)).ap (pV_eV b) |>.ap (pCh_eCh ch) |>.also rfl
  | chgrant ch x => exact ((reads _).ap (pCh_eCh ch)).ap (pSX_enc x) |>.also rfl
  | chbind a ch => exact ((reads _).ap (pPort_ePort a)).ap (pCh_eCh ch) |>.also rfl
  | chseal ch => exact (reads _).ap (pCh_eCh ch) |>.also rfl
  | chack ch b => exact ((reads _).ap (pCh_eCh ch)).ap (pSS_eSS b) |>.also rfl
  | ttmask k c x => cases x <;> trivial
  | _ => trivial

theorem classReads_of_wf {i : Instr} (h : i.wf = true) (q : Pred) : ∀ k, ClassReads k q i
  | .s => scalar_reads q i h
  | .v => vector_reads q i h
  | .m => matrix_reads q i h
  | .c => copy_reads q i h
theorem parseSlot_encSlot {i : Instr} {q : Pred} {k : SlotClass} {r : RawSlot} (he : encSlot q i = some (k, r)) (h : i.wf = true) : (parseSlot k r).Reads i := by
  have hk := classReads_of_wf h q k
  simpa [ClassReads, he] using hk

/-! ### Which operations have a slot's words, which a tinker's, and which none -/

/-- Every operation that is no event has the words of a slot or of a tinker. -/
theorem encoded_or_event (q : Pred) (i : Instr) : ((encSlot q i).isSome || (encT i).isSome || decide (i ∈ Claims.events)) = true := by
  cases i with
  | ttmask k c x => cases x <;> rfl
  | tbr x => cases x <;> rfl
  | _ => rfl
/-- None has both. -/
theorem encSlot_or_encT_isNone (q : Pred) (i : Instr) : ((encSlot q i).isNone || (encT i).isNone) = true := by
  cases i with
  | ttmask k c x => cases x <;> rfl
  | _ => rfl
theorem events_not_encoded : ∀ i ∈ Claims.events, encT i = none ∧ ∀ q : Pred, encSlot q i = none := by
  intro i hi
  fin_cases hi <;> exact ⟨rfl, fun _ => rfl⟩

theorem encode_slot {i : Instr} {q : Pred} {k : SlotClass} {r : RawSlot} (he : encSlot q i = some (k, r)) : encode i q = r.word :: r.ext.toList := by
  rw [encode, he]
theorem encode_tinker {i : Instr} {q : Pred} {r : RawT} (hs : encSlot q i = none) (he : encT i = some r) : encode i q = r.word :: r.ext.toList := by
  rw [encode, hs, he]

theorem encSlot_q (i : Instr) (q : Pred) : (encSlot q i).map (fun x => x.2.q) = (encSlot q i).map fun _ => q := by
  cases i with
  | ttmask k c x => cases x <;> rfl
  | _ => rfl

theorem encSlot_or_encT_none (i : Instr) (q : Pred) : encSlot q i = none ∨ encT i = none := by
  simpa using encSlot_or_encT_isNone q i

end Sys2Proof

namespace Sys2Proof.Proofs
open Sys2Proof

/-- Settles O55: fields come back from their words, and each slot map reads its operations in them. -/
theorem slotRoundTrip : Obligations.SlotRoundTrip := by
  unfold Obligations.SlotRoundTrip
  refine ⟨fun i hi hT q => ?_, fun i q k r he h => ⟨rawOf_word r, ?_, ?_, encode_slot he⟩⟩
  · simpa [hT, hi] using encoded_or_event q i
  · have hq := encSlot_q i q
    simpa [he] using hq
  · rw [rawOf_word, parseSlot_encSlot he h, Parsed.result_ok]

end Sys2Proof.Proofs
end

section
/-! O56: the tinker operations come back from their words (R99, R100). -/
namespace Sys2Proof
open Parsed (reads)

/-! ### The words of a tinker operation (R99) -/

theorem fields_tinkerWord (r : RawT) : fld r.word 25 7 = r.op.toNat ∧ fld r.word 21 4 = r.la.toNat ∧ fld r.word 21 1 = r.la.toNat % 2 ∧
    fld r.word 14 7 = r.a.toNat ∧ fld r.word 7 7 = r.b.toNat ∧ fld r.word 0 7 = r.c.toNat := by
  have hop := r.op.isLt
  have hla := r.la.isLt
  have ha := r.a.isLt
  have hb := r.b.isLt
  have hc := r.c.isLt
  simp only [RawT.word, fld_ofNat, Nat.reduceAdd, Nat.reduceLeDiff]
  omega
/-- The fields of a tinker operation come back from its word (Table 3.11). -/
theorem rawTOf_word (r : RawT) : rawTOf r.word r.ext = r := by
  obtain ⟨hop, hla, -, ha, hb, hc⟩ := fields_tinkerWord r
  simp [rawTOf, hop, hla, ha, hb, hc]

/-- Whether an opcode with this X bit is followed by an extension word. -/
def opHasExt (op : Nat) (x : Bool) : Bool :=
  decide (op = 0x03 ∨ (0x19 ≤ op ∧ op ≤ 0x1A) ∨ (0x1C ≤ op ∧ op ≤ 0x1D) ∨ op = 0x38 ∨ op = 0x58 ∨ (0x68 ≤ op ∧ op ≤ 0x7E)) ||
  (decide (op = 0x02 ∨ (0x0B ≤ op ∧ op ≤ 0x12) ∨ (0x15 ≤ op ∧ op ≤ 0x18) ∨ (0x20 ≤ op ∧ op ≤ 0x29) ∨ (0x50 ≤ op ∧ op ≤ 0x57)) && x)
theorem tinkerHasExt_eq (w : BitVec 32) : tinkerHasExt w = opHasExt (fld w 25 7) (bitOf w 21) := rfl
theorem tinkerHasExt_word (r : RawT) : tinkerHasExt r.word = opHasExt r.op.toNat r.x := by
  obtain ⟨hop, -, hx, -⟩ := fields_tinkerWord r
  rw [tinkerHasExt_eq, bitOf, hop, hx, RawT.x]

/-! ### The operations (R100, Table 3.12) -/

/-- Where the encoder gives an operation tinker fields, they have an extension word where their opcode and X bit ask for one, and the map reads the
operation in them. -/
def TinkerReads (i : Instr) : Prop :=
  match encT i with
  | some r => opHasExt r.op.toNat r.x = r.ext.isSome ∧ (mapT r).Reads i
  | none => True

/-- With LA zero but for its X bit, LA is as it must be at an opt point. -/
theorem laZero_reg {op : BitVec 7} {a b c : TOp} {e : Option (BitVec 32)} : laZero ⟨op, 0, a, b, c, e⟩ = [] := by simp [laZero]
theorem laZero_imm {op : BitVec 7} {a b c : TOp} {e : Option (BitVec 32)} : laZero ⟨op, 1, a, b, c, e⟩ = [] := by simp [laZero]

/-- An atomic without RET has LA zero, and field A zero unless it compares (R240, R244). -/
theorem atomic_fields {y : AtX} {scope : Nat} (hs : scope < 8) {op : BitVec 7} {la : BitVec 4} {a b c : TOp}
    (h : (y.ret || (la == 0 && (y.op == .cas || a == 0))) = true) :
    laAtomic ⟨op, la, a, b, c, some (eAt y scope)⟩ ++ fieldAAtomic ⟨op, la, a, b, c, some (eAt y scope)⟩ = [] := by
  obtain ⟨hop, -, hret, -, -⟩ := fields_eAt y hs
  have hcas : (y.op.code == 11) = (y.op == .cas) := by cases y.op <;> rfl
  simp only [laAtomic, fieldAAtomic, bitOf, hop, hret, hcas]
  cases hr : y.ret with
  | true => rfl
  | false =>
    obtain ⟨hla, ha⟩ : la = 0 ∧ ((y.op == .cas) = true ∨ a = 0) := by simpa [hr] using h
    rcases ha with hop | rfl
    · simp [laNone, hla, hop]
    · simp [laNone, hla]

/-- The five forms of TBR (Table 8.5). -/
theorem dTbr_reads (x : TbrX) (h : (Instr.tbr x).wf = true) : TinkerReads (.tbr x) := by
  cases x with
  | nz a off | z a off | link a off => exact ⟨rfl, ((reads _).also (if_pos (beq_iff_eq.mp h))).also rfl⟩
  | al off => exact ⟨rfl, ((reads _).also (by rw [if_pos (beq_iff_eq.mp h)]; rfl)).also rfl⟩
  | ind a off => exact ⟨rfl, rfl⟩

/-- Register operands of a tinker are seven bits as they stand (R99), so only the other fields have anything to be parsed. -/
theorem tinkerReads_of_wf (i : Instr) (h : i.wf = true) : TinkerReads i := by
  cases i with
  | tAdd a b c => exact ⟨rfl, rfl⟩
  | tSub a b c | tAnd a b c | tOr a b c | tXor a b c | tAndn a b c | tShl a b c | tShr a b c | tSar a b c | tRot a b c
  | tMin a b c | tMinW a b c | tMax a b c | tMaxW a b c => exact ⟨rfl, (reads _).also laZero_reg⟩
  | tAddi a b imm | tstSpN4 a b imm => exact ⟨rfl, rfl⟩
  | tSubImm a b imm | tAndImm a b imm | tOrImm a b imm | tXorImm a b imm | tAndnImm a b imm | tShlImm a b imm | tShrImm a b imm
  | tSarImm a b imm | tRotImm a b imm | tMinImm a b imm | tMinWImm a b imm | tMaxImm a b imm | tMaxWImm a b imm => exact ⟨rfl, (reads _).also laZero_imm⟩
  | tMul la a b c | tMulh la a b c | tMulhW la a b c | tDiv la a b c | tDivW la a b c | tRem la a b c | tRemW la a b c => exact ⟨rfl, rfl⟩
  | tMulImm la a b imm | tMulhImm la a b imm | tMulhWImm la a b imm | tDivImm la a b imm | tDivWImm la a b imm | tRemImm la a b imm
  | tRemWImm la a b imm => exact ⟨rfl, rfl⟩
  | tClz a b | tPopc a b | spawn a b | join a b => exact ⟨rfl, rfl⟩
  | steal la a b => exact ⟨rfl, rfl⟩
  | tLi a imm => exact ⟨rfl, rfl⟩
  | texit a | twait a | tsig a => exact ⟨rfl, rfl⟩
  | tCmp cc a b c => cases cc <;> exact ⟨rfl, (reads _).also laZero_reg⟩
  | tCmpImm cc a b imm => cases cc <;> exact ⟨rfl, (reads _).also laZero_imm⟩
  | tld la t a b c | tldSp la t a b c => cases t <;> exact ⟨rfl, rfl⟩
  | tldImm la t a b imm | tldSpImm la t a b imm => cases t <;> exact ⟨rfl, rfl⟩
  | tst n a b c | tstSp n a b c => cases n <;> exact ⟨rfl, (reads _).also laZero_reg⟩
  | tstImm n a b imm | tstSpImm n a b imm => cases n <;> exact ⟨rfl, (reads _).also laZero_imm⟩
  | tSel a b c d => exact ⟨rfl, (reads (Instr.tSel a b c)).ap (reqExt_reads (pTsel_eTsel d)) |>.also rfl⟩
  | tBfx a b f => exact ⟨rfl, (reads (Instr.tBfx a b)).ap (reqExt_reads (pBfx_eBf h)) |>.also rfl⟩
  | tBfi a b f => exact ⟨rfl, (reads (Instr.tBfi a b)).ap (reqExt_reads (pBfi_eBf h)) |>.also rfl⟩
  | tcmpx la a b c =>
    obtain ⟨hb, hc⟩ := Bool.and_eq_true_iff.mp h
    have hne : ¬(a = b ∨ a = c) := fun hor => hor.elim (bne_iff_ne.mp hb) (bne_iff_ne.mp hc)
    exact ⟨rfl, (reads (Instr.tcmpx la a b c)).also (if_neg hne)⟩
  | tacq la a sc => exact ⟨rfl, (reads (Instr.tacq la a)).ap (pScope_eScope sc) |>.also rfl⟩
  | trel a sc => exact ⟨rfl, (reads (Instr.trel a)).ap (pScope_eScope sc) |>.also rfl⟩
  | tfence sc => exact ⟨rfl, (reads Instr.tfence).ap (pScope_eScope sc) |>.also rfl⟩
  | tcache a op => exact ⟨rfl, (reads (Instr.tcache a)).ap (pCop_eCop op) |>.also rfl⟩
  | tChsend a ch => exact ⟨rfl, (reads (Instr.tChsend a)).ap (pCh_eCh ch) |>.also rfl⟩
  | tCatom la a b c xa =>
    obtain ⟨hok, hfields⟩ := Bool.and_eq_true_iff.mp h
    exact ⟨rfl, (reads (Instr.tCatom la a b c)).ap (reqExt_reads (pXac_eXa hok)) |>.also (atomic_fields xa.scope.code_lt hfields)⟩
  | tSat la a b c xa =>
    obtain ⟨hok, hfields⟩ := Bool.and_eq_true_iff.mp h
    exact ⟨rfl, (reads (Instr.tSat la a b c)).ap (reqExt_reads (pXas_eAt hok)) |>.also (atomic_fields (by decide) hfields)⟩
  | tbr x => exact dTbr_reads x h
  | _ => trivial

theorem mapT_encT {i : Instr} {r : RawT} (he : encT i = some r) (h : i.wf = true) : tinkerHasExt r.word = r.ext.isSome ∧ (mapT r).Reads i := by
  have hi := tinkerReads_of_wf i h
  rw [TinkerReads, he] at hi
  rwa [tinkerHasExt_word]
theorem decodeTinker_encT {i : Instr} {r : RawT} (he : encT i = some r) (h : i.wf = true) : decodeTinker r.word (r.ext.getD 0) = .ok i := by
  obtain ⟨hext, hreads⟩ := mapT_encT he h
  have hnext : (if tinkerHasExt r.word then some (r.ext.getD 0) else none) = r.ext := by
    rw [hext]
    cases r.ext <;> rfl
  rw [decodeTinker, hnext, rawTOf_word, hreads, Parsed.result_ok]

end Sys2Proof

namespace Sys2Proof.Proofs
open Sys2Proof

/-- Settles O56: the extension word stands where the opcode and the X bit ask for it, and the tinker map reads the operation in the fields. -/
theorem tinkerRoundTrip : Obligations.TinkerRoundTrip := by
  unfold Obligations.TinkerRoundTrip
  refine ⟨fun i hi hS => ?_, events_not_encoded, fun i r he h => ⟨(mapT_encT he h).1, decodeTinker_encT he h, fun q => ?_⟩, encSlot_or_encT_none⟩
  · simpa [hS, hi] using encoded_or_event 0 i
  · have hs : encSlot q i = none := (encSlot_or_encT_none i q).resolve_right (by simp [he])
    exact encode_tinker hs he

end Sys2Proof.Proofs
end

section
/-! Where the words of a bundle lie (R81, R82, R85). -/
namespace Sys2Proof

/-- A one-bit field is that bit. -/
theorem bits_self (x i : Nat) : bits x i i = (x.testBit i).toNat := by
  rw [bits, Nat.toNat_testBit, Nat.add_sub_cancel_left, Nat.pow_one]

/-- One slot of a header: absent, it takes no word; present, it takes one or two, the last of which was read. -/
theorem readSlots_cons {rd : Nat → Option (BitVec 32)} {pres ext : Nat} {s : Slot} {rest : List Slot} {a n : Nat} {sl : List (Slot × RawSlot)}
    (h : readSlots rd pres ext (s :: rest) a = some (sl, n)) :
    (pres.testBit s.val = false ∧ readSlots rd pres ext rest a = some (sl, n)) ∨
    (pres.testBit s.val = true ∧ ∃ l, (rd (a + 4 * (ext.testBit s.val).toNat)).isSome = true ∧
      readSlots rd pres ext rest (a + 4 * (ext.testBit s.val).toNat + 4) = some (l, n)) := by
  rw [readSlots, bits_self, bits_self] at h
  cases hp : pres.testBit s.val with
  | false => exact .inl ⟨rfl, by simpa [hp] using h⟩
  | true =>
    refine .inr ⟨rfl, ?_⟩
    cases hx : ext.testBit s.val with
    | false =>
      obtain ⟨w, hw, l, hl, -⟩ : ∃ w, rd a = some w ∧ ∃ l, readSlots rd pres ext rest (a + 4) = some (l, n) ∧ (s, rawOf w none) :: l = sl := by
        simpa [hp, hx, Option.bind_eq_some_iff] using h
      exact ⟨l, Option.isSome_of_eq_some hw, hl⟩
    | true =>
      obtain ⟨w, -, x, hx, l, hl, -⟩ : ∃ w, rd a = some w ∧ ∃ x, rd (a + 4) = some x ∧
          ∃ l, readSlots rd pres ext rest (a + 8) = some (l, n) ∧ (s, rawOf w (some x)) :: l = sl := by
        simpa [hp, hx, Option.bind_eq_some_iff] using h
      exact ⟨l, Option.isSome_of_eq_some hx, hl⟩

/-- How many words the slots of a header take: one for each slot present, and one more where an extension word follows (Table 3.1). -/
def slotWords (pres ext : Nat) (l : List Slot) : Nat :=
  l.countP (fun s => pres.testBit s.val) + l.countP fun s => pres.testBit s.val && ext.testBit s.val

theorem readSlots_next {rd : Nat → Option (BitVec 32)} {pres ext : Nat} {l : List Slot} {a n : Nat} {sl : List (Slot × RawSlot)}
    (h : readSlots rd pres ext l a = some (sl, n)) : n = a + 4 * slotWords pres ext l := by
  induction l generalizing a sl with
  | nil => cases h; rfl
  | cons s rest ih =>
    obtain ⟨hp, hrest⟩ | ⟨hp, _, -, hrest⟩ := readSlots_cons h
    · rw [ih hrest, slotWords, slotWords]
      simp [hp]
    · rw [ih hrest, slotWords, slotWords]
      cases hx : ext.testBit s.val <;> simp [hp, hx] <;> omega

/-- Slots read from a memory that ends at `lim` lie before it. -/
theorem readSlots_le {rd : Nat → Option (BitVec 32)} {lim pres ext : Nat} {l : List Slot} {a n : Nat} {sl : List (Slot × RawSlot)}
    (hrd : ∀ x, (rd x).isSome = true → x + 4 ≤ lim) (h : readSlots rd pres ext l a = some (sl, n)) (ha : a ≤ lim) : n ≤ lim := by
  induction l generalizing a sl with
  | nil => cases h; exact ha
  | cons s rest ih =>
    obtain ⟨-, hrest⟩ | ⟨-, _, hlast, hrest⟩ := readSlots_cons h
    · exact ih hrest ha
    · exact ih hrest (hrd _ hlast)

/-- A bundle that decodes has a header whose extension bits are among its presence bits, and slots that can be read. -/
theorem decodeBundle_ok {rd : Nat → Option (BitVec 32)} {l4 : Bool} {a : Nat} {b : Bundle} (h : decodeBundle rd l4 a = .ok b) :
    ∃ hd, rd a = some hd ∧ fld hd 6 6 &&& (63 - fld hd 0 6) = 0 ∧ readSlots rd (fld hd 0 6) (fld hd 6 6) [0, 1, 2, 3, 4, 5] (a + 4) = some (b.slots, b.next) := by
  unfold decodeBundle at h
  split at h
  · cases h
  next hd hrd =>
    dsimp only at h
    split_ifs at h with hres hrun hext
    split at h
    · cases h
    next slots next hslots =>
      cases h
      exact ⟨hd, hrd, not_not.mp hext, hslots⟩

theorem testBit_fld (x : BitVec 32) (lo n i : Nat) (hi : i < n) : (fld x lo n).testBit i = x.getLsbD (lo + i) := by
  rw [fld, Nat.testBit_mod_two_pow, Nat.testBit_div_two_pow, decide_eq_true hi, Bool.true_and, Nat.add_comm]
  rfl

/-- Extension bits outside the presence bits make a header ILLBUNDLE (R84). -/
theorem testBit_of_subset {pres ext i : Nat} (h : ext &&& (63 - pres) = 0) (hp : pres < 64) (hi : i < 6) (he : ext.testBit i = true) : pres.testBit i = true := by
  have hbit : (ext &&& (2 ^ 6 - (pres + 1))).testBit i = false := by
    have hsub : 2 ^ 6 - (pres + 1) = 63 - pres := by omega
    rw [hsub, h, Nat.zero_testBit]
  rw [Nat.testBit_and, Nat.testBit_two_pow_sub_succ hp, he, decide_eq_true hi] at hbit
  simpa using hbit

theorem slotWords_header {hd : BitVec 32} (h : fld hd 6 6 &&& (63 - fld hd 0 6) = 0) :
    slotWords (fld hd 0 6) (fld hd 6 6) [0, 1, 2, 3, 4, 5] = ((List.range 12).filter fun i => hd.getLsbD i).length := by
  have hpres (s : Slot) : (fld hd 0 6).testBit s.val = hd.getLsbD s.val := by rw [testBit_fld _ _ _ _ s.isLt, Nat.zero_add]
  have hext (s : Slot) : (hd.getLsbD s.val && (fld hd 6 6).testBit s.val) = hd.getLsbD (6 + s.val) := by
    rw [← testBit_fld hd 6 6 s.val s.isLt, ← hpres]
    cases he : (fld hd 6 6).testBit s.val with
    | false => rw [Bool.and_false]
    | true => rw [testBit_of_subset h (Nat.mod_lt _ (by decide)) s.isLt he]; rfl
  have hslots : List.range 6 = ([0, 1, 2, 3, 4, 5] : List Slot).map Fin.val := rfl
  rw [← List.countP_eq_length_filter, List.range_add (n := 6) (m := 6), List.countP_append, List.countP_map, hslots, List.countP_map, List.countP_map, slotWords]
  simp only [hpres, hext, Function.comp_def]

end Sys2Proof

namespace Sys2Proof.Machine

theorem Core.codeWord_isSome {c : Core} {a : Nat} (h : (c.codeWord a).isSome = true) : a + 4 ≤ 0x20000 := by
  by_contra hlt
  rw [Core.codeWord, if_neg hlt] at h
  cases h

/-- R85: a bundle that decodes lies in code memory, and its length is what its header says. -/
theorem Core.bundleAt_next {c : Core} {a : Nat} {b : Bundle} (h : c.bundleAt a = .ok b) :
    ∃ hd, c.codeWord a = some hd ∧ b.next = a + 4 + 4 * ((List.range 12).filter fun i => hd.getLsbD i).length ∧ b.next ≤ 0x20000 := by
  obtain ⟨hd, hw, hext, hslots⟩ := decodeBundle_ok h
  have hhd := Core.codeWord_isSome (Option.isSome_of_eq_some hw)
  exact ⟨hd, hw, slotWords_header hext ▸ readSlots_next hslots, readSlots_le (fun _ => Core.codeWord_isSome) hslots hhd⟩
theorem Core.bundleAt_error {c : Core} {a : Nat} (h : ∀ b, c.bundleAt a ≠ .ok b) : ∃ r, c.bundleAt a = .error r := by
  cases hb : c.bundleAt a with
  | ok b => exact absurd hb (h b)
  | error r => exact ⟨r, rfl⟩

end Sys2Proof.Machine

namespace Sys2Proof.Proofs
open Sys2Proof Sys2Proof.Machine

/-- Settles O53: a bundle that decodes ends where its header says, before the end of code memory; so one whose header says otherwise does not decode. -/
theorem bundlesInCodeMemory : Obligations.BundlesInCodeMemory := by
  unfold Obligations.BundlesInCodeMemory
  refine fun c a => ⟨fun b h => ?_, fun hlong => Core.bundleAt_error fun b h => ?_, fun hd hw hlong => Core.bundleAt_error fun b h => ?_, fun r howed h => ?_⟩
  · obtain ⟨hd, -, hnext, hle⟩ := Core.bundleAt_next h
    omega
  · obtain ⟨hd, -, hnext, hle⟩ := Core.bundleAt_next h
    omega
  · obtain ⟨hd', hw', hnext, hle⟩ := Core.bundleAt_next h
    obtain rfl : hd' = hd := Option.some.inj (hw'.symm.trans hw)
    omega
  · rw [Core.bundleError, if_neg (by simp [howed]), h]

end Sys2Proof.Proofs
end

section
/-! One step: what it runs, and what considering a core puts on the agenda (R82, R86, R87, R102, R263). -/
namespace Sys2Proof.Machine

/-! ### The item a step runs -/

/-- With something on the agenda, a step runs its head. -/
theorem step_cons {s : State} {x : Item} {rest : List Item} (h : s.agenda = x :: rest) : step s = runItem { s with agenda := rest, tick := s.tick + 1 } x := by
  simp [step, h]
/-- With an empty agenda, it runs the action chosen (log 1). -/
theorem step_nil {s : State} {x : Item} (h : s.agenda = []) (hx : s.choices[Config.pick s.tick % s.choices.length]? = some x) :
    step s = runItem { s.choose with agenda := [], tick := s.tick + 1 } x := by
  simp [step, h, State.choose, hx]

theorem runItem_slot {s : State} {id : Nat} {k : Slot} {issue : Bool} {r : RawSlot} {i : Instr} (h : (parseSlot (classOf k) r).result = .ok i) :
    runItem s (.slot id k issue r) = exec i { s with cur := .slot id k issue } := by
  simp [runItem, slotInstr, h]
theorem runItem_tinker {s : State} {id t : Nat} {k : Slot} {w e : BitVec 32} {i : Instr} (h : decodeTinker w e = .ok i) :
    runItem s (.tinker id t k w e) = exec i { s with cur := .tinker id t k } := by
  simp [runItem, h]

/-- The bits of a row of the opcode table are a tinker word and the word after it. -/
theorem decodeTinker_of_tableWord {nbits w : Nat} {i : Instr} (h : decodeTableWord nbits w = some i) :
    decodeTinker (BitVec.ofNat 32 w) (BitVec.ofNat 32 (w / 2 ^ 32)) = .ok i := by
  unfold decodeTableWord at h
  split at h
  next j hj => rw [hj, Option.some.inj h]
  · cases h

/-! ### The slots of the bundle due -/

/-- A slot is due only where a bundle can be read at the program counter and holds it. -/
theorem Core.mem_slotsDue {c : Core} {x : Slot × RawSlot} : x ∈ c.slotsDue ↔ c.owed = 0 ∧ ∃ b, c.bundleAt c.pc = .ok b ∧ x ∈ b.slots := by
  by_cases ho : c.owed = 0
  · cases hb : c.bundleAt c.pc <;> simp [Core.slotsDue, ho, hb]
  · simp [Core.slotsDue, ho]
theorem Core.slotsDue_of_bundle {c : Core} {b : Bundle} (ho : c.owed = 0) (hb : c.bundleAt c.pc = .ok b) : c.slotsDue = b.slots := by
  simp [Core.slotsDue, ho, hb]

/-- Without a capture, a slot's predicate is p0 or the register named (R87). -/
theorem Core.slotPred_eq_true {c : Core} (h : c.resumeCaps = []) (k : Slot) (q : Pred) : c.slotPred k q = true ↔ q = 0 ∨ c.p[q] = true := by
  simp [Core.slotPred, h, Core.pr]

theorem Core.mem_slotItems {c : Core} {id : Nat} {pred issue : Bool} {x : Item} :
    x ∈ c.slotItems id pred issue ↔
      ∃ k r, (k, r) ∈ c.slotsDue ∧ (∃ i, (parseSlot (classOf k) r).result = .ok i) ∧ c.slotPred k r.q = pred ∧ x = .slot id k issue r := by
  rw [Core.slotItems, List.mem_filterMap]
  constructor
  · rintro ⟨⟨k, r⟩, hmem, hx⟩
    split at hx
    next i hi =>
      split_ifs at hx with hp
      exact ⟨k, r, hmem, ⟨i, hi⟩, hp, (Option.some.inj hx).symm⟩
    · cases hx
  · rintro ⟨k, r, hmem, ⟨i, hi⟩, hp, rfl⟩
    exact ⟨(k, r), hmem, by simp [slotInstr, hi, hp]⟩
theorem Core.mem_badItems {c : Core} {id : Nat} {x : Item} :
    x ∈ c.badItems id ↔
      ∃ k w e r, (k, w) ∈ c.slotsDue ∧ (parseSlot (classOf k) w).result = .error e ∧ nearWords (k, w) = some r ∧ x = .slot id k false r := by
  rw [Core.badItems, List.mem_filterMap]
  constructor
  · rintro ⟨⟨k, w⟩, hmem, hx⟩
    split at hx
    · cases hx
    next e he =>
      obtain ⟨r, hr, rfl⟩ := Option.map_eq_some_iff.mp hx
      exact ⟨k, w, e, r, hmem, he, hr, rfl⟩
  · rintro ⟨k, w, e, r, hmem, he, hr, rfl⟩
    exact ⟨(k, w), hmem, by simp [slotInstr, he, hr]⟩

end Sys2Proof.Machine

namespace Sys2Proof.Proofs
open Sys2Proof Sys2Proof.Machine

theorem slotsThatIssue : Claims.SlotsThatIssue := by
  intro c id hcaps
  refine ⟨fun ho => ?_, fun ho b hb => ⟨fun k r => ?_, ?_⟩⟩
  · simp [Core.slotItems, Core.slotsDue, ho]
  · rw [Core.mem_slotItems, Core.slotsDue_of_bundle ho hb, ← Core.slotPred_eq_true hcaps k r.q]
    constructor
    · rintro ⟨k', r', hmem, hi, hp, heq⟩
      cases heq
      exact ⟨hmem, hi, hp⟩
    · rintro ⟨hmem, hi, hp⟩
      exact ⟨k, r, hmem, hi, hp, rfl⟩
  · rw [← Core.slotsDue_of_bundle ho hb]
    exact List.length_filterMap_le _ _

/-- Settles O58: a step runs the head of the agenda, and the agenda after considering a core holds slots of its bundle alone. -/
theorem stepRunsDecoded : Obligations.StepRunsDecoded := by
  unfold Obligations.StepRunsDecoded
  refine ⟨fun s id k b r rest i h hi => ?_, fun s id t k w e rest i h hi => ?_, fun s i a rest h => ?_, fun s k rest h => ?_, fun s i a h hx => ?_,
    fun s nbits w i h => ⟨fetchSlot w, ?_⟩,
    fun s id => ⟨(s.core id).badItems id, (s.core id).slotItems id false false, (s.core id).slotItems id true false, rfl, ?_, ?_⟩, slotsThatIssue⟩
  · rw [step_cons h, runItem_slot hi]
  · rw [step_cons h, runItem_tinker hi]
  · rw [step_cons h]
    rfl
  · rw [step_cons h]
    rfl
  · rw [step_nil h hx]
    rfl
  · rw [step_cons (s := s.withFetchWord nbits w) rfl, runItem_tinker (decodeTinker_of_tableWord h)]
    rfl
  · intro x hx
    obtain ⟨pred, hpred⟩ : ∃ pred, x ∈ (s.core id).slotItems id pred false := (List.mem_append.mp hx).elim (⟨false, ·⟩) (⟨true, ·⟩)
    obtain ⟨k, r, hmem, -, -, rfl⟩ := Core.mem_slotItems.mp hpred
    exact ⟨k, r, rfl, (Core.mem_slotsDue.mp hmem).2⟩
  · intro x hx
    obtain ⟨k, w, e, r, hmem, he, -, rfl⟩ := Core.mem_badItems.mp hx
    obtain ⟨-, b, hb, hw⟩ := Core.mem_slotsDue.mp hmem
    exact ⟨k, r, rfl, b, w, e, hb, hw, he⟩
end Sys2Proof.Proofs
end

section
/-! A scalar operation that issues: what is left of its plan once its checks have passed, and what that leaves of the module (R57, R61, R112). -/
namespace Sys2Proof.Machine

/-! ### Operands -/

@[simp] theorem View.x_live (st : State) (id : Nat) (c : Core) (k : Slot) (pos : Nat) (x : SX) : (View.mk st id c k none).x pos x = Claims.sxVal c x := by
  cases x with
  | reg r => exact View.s_live ..
  | imm i => rfl
@[simp] theorem View.xz_live (st : State) (id : Nat) (c : Core) (k : Slot) (pos : Nat) (x : SX) : (View.mk st id c k none).xz pos x = Claims.zxVal c x := by
  cases x with
  | reg r => exact View.s_live ..
  | imm i => rfl

/-- p0 reads 1 (R118). -/
theorem Core.pr_eq_true_iff (c : Core) (g : Pred) : c.pr g = true ↔ g = 0 ∨ c.p[g] = true := by simp [Core.pr]

/-! ### What an issue does -/

/-- What a plan does at issue: its checks and waits are over by then. -/
def Plan.effects (p : Plan) : Plan := { p with illop := [], sched := [], traps := [], wait := none }

section
variable {s : State} {id : Nat} {k : Slot} {srcs : List (Nat × Src)} {body : View → Plan} (hi : Claims.Issuing s id k) (hu : Claims.Unbound s id)
include hi hu

/-- The whole next state, by what the plan does at issue. -/
theorem primOp_effects {q : Plan} (hq : (body (viewOf s id k)).effects = q) (ht : q.take = none) (hp : ∀ x, (q.upd x).ports = x.ports) :
    primOp srcs body s = .next (let c := s.core id
      q.updS ({ s with mem := q.scrub.foldl (fun (m : Memory) (r : Nat × Nat) => m.scrub r.1 r.2) s.mem }.setCore id (q.upd
        { c with demand := c.demand ++ q.demand.map (fun (d : Nat × Bool × Nat) => (c.ic + d.1, d.2.1, d.2.2)),
                 msgPath := c.msgPath ++ q.msgPath.map (c.ic + ·), flights := c.flights ++ q.lands.map (fun (l : Land) => l.flight c k),
                 acts := c.acts ++ q.acts.map (fun (a : Nat × Act) => (c.ic + a.1, c.ic, a.2)),
                 writes := c.writes ++ q.writes.map (fun (w : Nat × WOp) => (c.ic + w.1, w.2)), gens := q.gens.getD c.gens }))) := by
  subst hq
  exact primOp_unbound srcs body s id k hi.1 hi.2 hu ht hp

/-- An operation that only computes one result puts it in flight. -/
theorem primOp_fly {d : Dest} {lat val : Nat} {fl : Flags} (hq : (body (viewOf s id k)).effects = { lands := [{ dest := d, lat, val, flags := fl }] }) :
    primOp srcs body s = .next (Claims.fly s id k d lat val fl) := by
  rw [primOp_effects hi hu hq rfl fun _ => rfl]
  simp [Claims.fly, Claims.inFlight, Land.flight, -Nat.reducePow]

/-- The same of one that draws from a generator. -/
theorem primOp_fly_gens {d : Dest} {lat val : Nat} {fl : Flags} {g : Gens}
    (hq : (body (viewOf s id k)).effects = { lands := [{ dest := d, lat, val, flags := fl }], gens := some g }) :
    primOp srcs body s = .next ((Claims.fly s id k d lat val fl).updCore id fun c => { c with gens := g }) := by
  rw [primOp_effects hi hu hq rfl fun _ => rfl]
  simp [Claims.fly, Claims.inFlight, Land.flight, -Nat.reducePow]

/-- An operation that acts on its own core at once, and does nothing else. -/
theorem primOp_upd {f : Core → Core} (hq : (body (viewOf s id k)).effects = { upd := f }) (hp : ∀ x, (f x).ports = x.ports) :
    primOp srcs body s = .next (s.setCore id (f (s.core id))) := by
  rw [primOp_effects hi hu hq rfl hp]
  simp

/-- An operation that leaves one effect for the next issue cycle. -/
theorem primOp_act {a : Act} (hq : (body (viewOf s id k)).effects = { acts := [(1, a)] }) :
    primOp srcs body s = .next (s.setCore id { s.core id with acts := (s.core id).acts ++ [((s.core id).ic + 1, (s.core id).ic, a)] }) := by
  rw [primOp_effects hi hu hq rfl fun _ => rfl]
  simp

/-- An operation that puts bytes down for the next issue cycle. -/
theorem primOp_put {ports : List (Nat × Bool × Nat)} {bytes : List PutByte} (hq : (body (viewOf s id k)).effects = { demand := ports, writes := [(1, .put bytes)] }) :
    primOp srcs body s = .next (s.setCore id { s.core id with
      writes := (s.core id).writes ++ [((s.core id).ic + 1, .put bytes)],
      demand := (s.core id).demand ++ ports.map fun q => ((s.core id).ic + q.1, q.2.1, q.2.2) }) := by
  rw [primOp_effects hi hu hq rfl fun _ => rfl]
  simp

/-! ### The shared forms of scalar operations -/

theorem binX_fly (zx : Bool) (lat : Nat) (f : Word → Word → Word) (d : SReg) (b : SSrc) (x : SX) :
    binX zx lat f d b x s = .next (Claims.fly s id k (.s d) lat
      (f ((s.core id).ss b) (if zx then Claims.zxVal (s.core id) x else Claims.sxVal (s.core id) x)).toNat) :=
  primOp_fly hi hu (by simp [Plan.effects, landS, -Nat.reducePow])

theorem unS_fly (lat : Nat) (f : Word → Word) (d : SReg) (b : SSrc) : unS lat f d b s = .next (Claims.fly s id k (.s d) lat (f ((s.core id).ss b)).toNat) :=
  primOp_fly hi hu (by simp [Plan.effects, landS, -Nat.reducePow])

theorem binP_fly (f : Bool → Bool → Bool) (d g h : Pred) :
    binP f d g h s = .next (Claims.fly s id k (.p d) 1 (f ((s.core id).pr g) ((s.core id).pr h)).toNat) :=
  primOp_fly hi hu (by simp [Plan.effects, landP, -Nat.reducePow])

end

end Sys2Proof.Machine

namespace Sys2Proof.Proofs
open Sys2Proof Sys2Proof.Machine Sys2Proof.Claims

/-- Settles O1: each operation is one of the shared forms, with the function that R113 names. -/
theorem scalarIntegerResults : Obligations.ScalarIntegerResults := by
  intro s id k hi hu d b c x imm p q r
  have sx (lat : Nat) (f : Word → Word → Word) : binX false lat f d b x s = .next (r lat (f p q)) := binX_fly hi hu false lat f d b x
  simp only [exec_add, exec_sub, exec_addi, exec_mul, exec_and, exec_or, exec_xor, exec_andn, exec_shl, exec_shr, exec_sar, exec_rot, exec_li]
  refine ⟨?add, sx 1 (· - ·), unS_fly hi hu 1 (· + imm.signExtend 64) d b, sx 3 (· * ·), sx 1 (· &&& ·), sx 1 (· ||| ·), sx 1 (· ^^^ ·), sx 1 (· &&& ~~~·),
    sx 1 (fun a n => a <<< cnt n), sx 1 (fun a n => a >>> cnt n), sx 1 (fun a n => a.sshiftRight (cnt n)), sx 1 rotS, ?li⟩
  case add => exact primOp_fly hi hu (by simp [Plan.effects, landS, p, -Nat.reducePow])
  case li => exact primOp_fly hi hu rfl

end Sys2Proof.Proofs
end

section
/-! Wide scalar results: counts, bit fields, minima (R113, R115, R116). -/
namespace Sys2Proof.Machine

/-! ### Counts -/

/-- A prefix of the numbers in order stops where its condition first fails. -/
theorem length_takeWhile_range {f : Nat → Bool} {m n : Nat} (hm : m < n) (hf : ∀ i, i < m → f i = true) (hn : f m = false) :
    ((List.range n).takeWhile f).length = m := by
  obtain ⟨r, rfl⟩ := Nat.exists_eq_add_of_lt hm
  rw [Nat.add_assoc, List.range_add, List.takeWhile_append_of_pos (by simpa using hf), List.range_succ_eq_map]
  simp [hn]

theorem clz64_eq_leadingZeros (p : Word) : clz64 p = BitVec.ofNat 64 (Claims.leadingZeros p) := by
  unfold clz64 Claims.leadingZeros
  congr 1
  split
  next h0 =>
    obtain rfl : p = 0 := BitVec.eq_of_toNat_eq h0
    rfl
  next h0 =>
    have hlog : Nat.log2 p.toNat < 64 := (Nat.log2_lt h0).mpr p.isLt
    refine (length_takeWhile_range (by omega) (fun i hi => ?_) ?_).symm
    · have hlt : p.toNat < 2 ^ (63 - i) := (Nat.log2_lt h0).mp (by omega)
      simp [BitVec.getLsbD, Nat.testBit_lt_two_pow hlt]
    · have hsub : 63 - (63 - Nat.log2 p.toNat) = Nat.log2 p.toNat := by omega
      simp [BitVec.getLsbD, hsub, Nat.testBit_log2 h0]

theorem popN_eq_ones (p : Word) : popN p.toNat 64 = Claims.ones p := by
  have hn (n : Nat) : popN p.toNat n = ((List.range n).filter fun i => p.getLsbD i).length := by
    induction n with
    | zero => rfl
    | succ n ih =>
      rw [popN, List.range_succ, List.filter_append, List.length_append, ih, ← Nat.toNat_testBit, Nat.add_comm]
      cases h : p.getLsbD n <;> simp [BitVec.getLsbD] at h <;> simp [BitVec.getLsbD, h]
  exact hn 64

/-! ### Minima and maxima -/

theorem minS_eq (p q : Word) : (if q.slt p then q else p) = if p.sle q then p else q := by
  rw [BitVec.sle_eq_not_slt]
  cases q.slt p <;> rfl
theorem minU_eq (p q : Word) : (if q < p then q else p) = if p.ule q then p else q := by
  rw [BitVec.ule_eq_not_ult, BitVec.ult_eq_decide_lt]
  split <;> simp_all
theorem maxS_eq (p q : Word) : (if p.slt q then q else p) = if p.sle q then q else p := by
  rw [BitVec.sle_eq_slt_or_eq]
  by_cases h : p = q
  · simp [h]
  · simp [h]
theorem maxU_eq (p q : Word) : (if p < q then q else p) = if p.ule q then q else p := by
  rw [BitVec.ule_eq_decide_le]
  by_cases h : p = q
  · simp [h]
  · have : p < q ↔ p ≤ q := ⟨BitVec.le_of_lt, fun hle => BitVec.lt_of_le_ne hle h⟩
    simp [this]

/-! ### Bit fields -/

/-- A number of `n` bits read as signed. -/
theorem sextNat_of_lt {n x : Nat} (h : x < 2 ^ (n + 1)) : sextNat (n + 1) x = if x / 2 ^ n % 2 = 1 then (x : Int) - 2 ^ (n + 1) else x := by
  have hbits : bits x n n = x / 2 ^ n % 2 := by rw [bits, Nat.add_sub_cancel_left, Nat.pow_one]
  simp [sextNat, hbits, Nat.mod_eq_of_lt h]

theorem bfxS_eq (f : BitField) (p : Word) :
    let n := f.wm1.val + 1
    let x := Claims.fieldOf p f.pos.val n
    bfxS f p = if f.sx ∧ x / 2 ^ f.wm1.val % 2 = 1 then BitVec.ofInt 64 ((x : Int) - 2 ^ n) else BitVec.ofNat 64 x := by
  intro n x
  have hx : x < 2 ^ n := Nat.mod_lt _ (Nat.two_pow_pos n)
  have h : bfxS f p = if f.sx then BitVec.ofInt 64 (sextNat n x) else BitVec.ofNat 64 x := rfl
  rw [h, sextNat_of_lt hx]
  cases f.sx with
  | false => rfl
  | true =>
    simp only [if_true, true_and]
    split
    next => rfl
    next => exact BitVec.ofInt_natCast 64 x

theorem bfiS_eq (f : BitField) (a b : Word) :
    let m := BitVec.ofNat 64 ((2 ^ (f.wm1.val + 1) - 1) * 2 ^ f.pos.val)
    bfiS f a b = (a &&& ~~~m) ||| ((b <<< f.pos.val) &&& m) := by
  intro m
  refine BitVec.eq_of_getLsbD_eq fun i hi => ?_
  have hm : m.getLsbD i = ((2 ^ (f.wm1.val + 1) - 1) * 2 ^ f.pos.val).testBit i := by
    rw [BitVec.getLsbD_ofNat, decide_eq_true hi, Bool.true_and]
  have hb : (b <<< f.pos.val).getLsbD i = (b.toNat * 2 ^ f.pos.val).testBit i := by
    rw [BitVec.getLsbD_shiftLeft, Nat.testBit_mul_two_pow, decide_eq_true hi, Bool.true_and, ← decide_not]
    simp only [Nat.not_lt, BitVec.getLsbD]
  rw [bfiS, getLsbD_ofNat_mergeBits _ _ _ hi, landedBit, ← hm, ← hb, BitVec.getLsbD_or, BitVec.getLsbD_and, BitVec.getLsbD_and, BitVec.getLsbD_not, decide_eq_true hi]
  cases m.getLsbD i <;> simp

end Sys2Proof.Machine

namespace Sys2Proof.Proofs
open Sys2Proof Sys2Proof.Machine Sys2Proof.Claims

/-- Settles O2: each operation is one of the shared forms, with a function that agrees with the rule's. -/
theorem scalarWideResults : Obligations.ScalarWideResults := by
  intro s id k hi hu d b c x g f p q z n m r
  have sx (lat : Nat) (f : Word → Word → Word) : binX false lat f d b x s = .next (r lat (f p q)) := binX_fly hi hu false lat f d b x
  have zx (lat : Nat) (f : Word → Word → Word) : binX true lat f d b x s = .next (r lat (f p z)) := binX_fly hi hu true lat f d b x
  have un (f : Word → Word) : unS 1 f d b s = .next (r 1 (f p)) := unS_fly hi hu 1 f d b
  simp only [exec_mulh, exec_mulhW, exec_clz, exec_popc, exec_min, exec_max, exec_minW, exec_maxW, exec_sel, exec_adda, exec_bfx, exec_bfi]
  refine ⟨sx 3 mulhS, zx 3 mulhU, ?clz, ?popc, ?min, ?max, ?minW, ?maxW, ?sel, sx 1 addaS, ?bfx, ?bfi⟩
  case clz => rw [execClz, un, clz64_eq_leadingZeros]
  case popc => rw [execPopc, un, popN_eq_ones]
  case min => rw [execMin, sx, minS_eq]
  case max => rw [execMax, sx, maxS_eq]
  case minW => rw [execMinW, zx, minU_eq]
  case maxW => rw [execMaxW, zx, maxU_eq]
  case bfx => rw [execBfx, un, bfxS_eq]
  case sel => exact primOp_fly hi hu (by simp [Plan.effects, landS, Core.pr_eq_true_iff, p, -Nat.reducePow])
  case bfi =>
    have h : execBfi d b f s = .next (r 1 (bfiS f ((s.core id).ss (.s d)) p)) :=
      primOp_fly hi hu (by simp [Plan.effects, landS, p, -Nat.reducePow])
    rw [h, bfiS_eq]

end Sys2Proof.Proofs
end

section
/-! Division with its corners (R114). -/
namespace Sys2Proof.Machine

theorem toInt_eq_zero_iff (q : Word) : q.toInt = 0 ↔ q = 0 := by
  rw [← BitVec.toInt_inj]
  rfl

/-- The truncated quotient; the most negative number by -1 wraps to itself. -/
theorem ofInt_tdiv (p q : Word) : BitVec.ofInt 64 (p.toInt.tdiv q.toInt) = p.sdiv q := by
  rw [← BitVec.toInt_inj, BitVec.toInt_ofInt, BitVec.toInt_sdiv]
theorem ofInt_tmod (p q : Word) : BitVec.ofInt 64 (p.toInt.tmod q.toInt) = p.srem q := by
  rw [← BitVec.toInt_srem, BitVec.ofInt_toInt]

theorem divS_eq (p q : Word) : divS p q = if q = 0 then BitVec.allOnes 64 else p.sdiv q := by
  simp only [divS, sdivrem, toInt_eq_zero_iff]
  split
  next => rfl
  next =>
    split
    next h => rw [← ofInt_tdiv, h.1, h.2]; decide
    next => exact ofInt_tdiv p q
theorem remS_eq (p q : Word) : remS p q = if q = 0 then p else p.srem q := by
  simp only [remS, sdivrem, toInt_eq_zero_iff]
  split
  next => exact BitVec.ofInt_toInt
  next =>
    split
    next h => rw [← ofInt_tmod, h.1, h.2]; decide
    next => rw [← ofInt_tmod, Int.tmod_def, Int.mul_comm]

theorem toNat_eq_zero_iff (q : Word) : q.toNat = 0 ↔ q = 0 := by
  rw [← BitVec.toNat_inj]
  rfl
theorem divU_eq (p q : Word) : divU p q = if q = 0 then BitVec.allOnes 64 else p / q := by
  simp only [divU, udivrem, toNat_eq_zero_iff]
  split
  next => rfl
  next => rw [← BitVec.toNat_udiv, BitVec.ofNat_toNat, BitVec.setWidth_eq]
theorem remU_eq (p q : Word) : remU p q = if q = 0 then p else p % q := by
  simp only [remU, udivrem, toNat_eq_zero_iff]
  split
  next => rw [BitVec.ofNat_toNat, BitVec.setWidth_eq]
  next => rw [← BitVec.toNat_umod, BitVec.ofNat_toNat, BitVec.setWidth_eq]

end Sys2Proof.Machine

namespace Sys2Proof.Proofs
open Sys2Proof Sys2Proof.Machine Sys2Proof.Claims

/-- Settles O3: the model's quotients and remainders are those of two's complement, but for a divisor of zero. -/
theorem divisionCorners : Obligations.DivisionCorners := by
  intro s id k hi hu d b x p q z r
  simp only [exec_div, exec_rem, exec_divW, exec_remW]
  refine ⟨?div, ?rem, ?divW, ?remW, fun hp hq => ?overflow⟩
  case div => rw [execDiv, binX_fly hi hu, divS_eq]; rfl
  case rem => rw [execRem, binX_fly hi hu, remS_eq]; rfl
  case divW => rw [execDivW, binX_fly hi hu, divU_eq]; rfl
  case remW => rw [execRemW, binX_fly hi hu, remU_eq]; rfl
  case overflow =>
    have hp : p = BitVec.intMin 64 := BitVec.eq_of_toNat_eq hp
    rw [hp, hq]
    exact ⟨BitVec.intMin_sdiv_neg_one, by decide⟩

end Sys2Proof.Proofs
end

section
/-! Compares, predicate logic, and how a predicate result lands (R117, R118). -/
namespace Sys2Proof.Machine

/-- Table 4.3: the model's conditions on readings of the operands are those on the words. -/
theorem cond64_eq (cc : ICond) (b x : Word) : cond64 cc b x = Claims.condWord cc b x := by
  have heq : decide (b.toNat = x.toNat) = (b == x) := by
    rw [beq_eq_decide]
    exact decide_eq_decide.mpr BitVec.toNat_inj
  cases cc with
  | eq => exact heq
  | ne =>
    show decide (b.toNat ≠ x.toNat) = !(b == x)
    rw [← heq, decide_not]
  | lt | le | gt | ge | ltw | lew | gtw | gew => rfl

theorem condIsW_eq (cc : ICond) : condIsW cc = Claims.condUnsigned cc := by cases cc <;> rfl

/-! ### A predicate that lands -/

theorem testBit_wholeMask : (2 ^ 2048 - 1).testBit 0 = true := by rw [Nat.testBit_two_pow_sub_one]; rfl

/-- What a whole predicate result gives its latch, p0 among the destinations. -/
theorem Core.latched_p (c : Core) (v : Bool) (d : Pred) : (c.landReg (.p d) v.toNat (2 ^ 2048 - 1)).2 = v.toNat := by
  have hmask : (2 ^ 2048 - 1) % 2 = 1 := by
    have := testBit_wholeMask
    rwa [Nat.testBit_zero, decide_eq_true_eq] at this
  show mergeBits (c.p[d]).toNat ((2 ^ 2048 - 1) % 2) v.toNat = v.toNat
  rw [hmask]
  cases c.p[d] <;> cases v <;> rfl

section
variable (c : Core) (id : Nat) (win : Bool) (k : Slot) (d : Pred) (v : Bool)

theorem Core.landOne_predicate : c.landOne id win (Claims.inFlight c k (.p d) 1 v.toNat) = c.landed1 (Claims.inFlight c k (.p d) 1 v.toNat) :=
  c.landOne_quiet id win _ rfl rfl rfl

/-- R53, R57: p0 stays, any other predicate takes the result. -/
theorem Core.p_landOne_predicate (q : Pred) : (c.landOne id win (Claims.inFlight c k (.p d) 1 v.toNat)).p[q] = if q = d ∧ q ≠ 0 then v else c.p[q] := by
  have h := c.landReg_p (.p d) v.toNat (2 ^ 2048 - 1) q
  rw [testBit_wholeMask] at h
  have hv : decide (v.toNat % 2 = 1) = v := by cases v <;> rfl
  rw [c.landOne_predicate, Core.landed1_eq]
  refine h.trans ?_
  simp only [hv, Dest.p.injEq, eq_comm (a := d), and_true]

/-- R58: outside the handler the result of the S slot enters ls. -/
theorem Core.ls_landOne_predicate (hk : k = 0) (hh : c.sp.handler = false) :
    (c.landOne id win (Claims.inFlight c k (.p d) 1 v.toNat)).ls = BitVec.ofNat 64 v.toNat := by
  subst hk
  have hl : (Claims.inFlight c 0 (.p d) 1 v.toNat).latch = true := by simp [Claims.inFlight, hh, -Nat.reducePow]
  rw [c.landOne_predicate, c.landed1_latched _ hl, Core.setLatch_eq]
  exact congrArg (BitVec.ofNat 64) (c.latched_p v d)

end

end Sys2Proof.Machine

namespace Sys2Proof.Proofs
open Sys2Proof Sys2Proof.Machine Sys2Proof.Claims

/-- Settles O4: each operation's function is the rule's, and its result lands as a whole predicate. -/
theorem predicateResults : Obligations.PredicateResults := by
  intro s id k hi hu cc d g h b x c r pg ph
  have hg : c.pr g = decide pg := by rw [Bool.eq_iff_iff, decide_eq_true_iff]; exact c.pr_eq_true_iff g
  have hh : c.pr h = decide ph := by rw [Bool.eq_iff_iff, decide_eq_true_iff]; exact c.pr_eq_true_iff h
  have bin {f : Bool → Bool → Bool} {t : Bool} (ht : f (decide pg) (decide ph) = t) : binP f d g h s = .next (r t) := by rw [binP_fly hi hu, hg, hh, ht]
  simp only [exec_cmp, exec_pand, exec_por, exec_pxor, exec_pnot]
  refine ⟨?cmp, ?pand, ?por, ?pxor, ?pnot, fun v win => ⟨fun q => c.p_landOne_predicate id win k d v q, fun hk hl => c.ls_landOne_predicate id win k d v hk hl⟩⟩
  case cmp => exact primOp_fly hi hu (by simp [Plan.effects, landP, cond64_eq, condIsW_eq, c, -Nat.reducePow])
  case pand => exact bin (Bool.decide_and pg ph).symm
  case por => exact bin (Bool.decide_or pg ph).symm
  case pxor => exact bin (by by_cases h1 : pg <;> by_cases h2 : ph <;> simp [h1, h2])
  case pnot => exact primOp_fly hi hu (by simp [Plan.effects, landP, ← hg, c, -Nat.reducePow])

end Sys2Proof.Proofs
end

section
/-! Scalar FP32 operations (R119 to R121). -/
namespace Sys2Proof.Machine

/-- A rounded result: its mode is taken, with a draw in mode SR, and its flags fly with it. -/
theorem primOp_sfRound {s : State} {id : Nat} {k : Slot} {srcs : List (Nat × Src)} {body : View → Plan} (hi : Claims.Issuing s id k) (hu : Claims.Unbound s id)
    {d : SReg} {lat : Nat} {r : Rnd} {f : Mode → Res} (hb : body (viewOf s id k) = (viewOf s id k).sfRound d lat r f) :
    let m := modeAt r (s.core id).gens 128
    primOp srcs body s = .next ((Claims.fly s id k (.s d) lat ((f m.1).1 % 2 ^ 64) (f m.1).2).updCore id fun c => { c with gens := m.2 }) := by
  refine primOp_fly_gens hi hu ?_
  rw [hb]
  simp only [Plan.effects, View.sfRound, landS, BitVec.toNat_ofNat]

/-- R120: the conversion of a register's low bits, in the form in which it goes back into a register. -/
def Core.sfcvt (c : Core) (f : CvtX) (x : Word) (md : Mode) : Res :=
  let v := convert f.src f.dst c.ftz true md (x.toNat % 2 ^ numW f.src)
  ((extendRes f.dst v.1).toNat, v.2)

theorem sfMinMax_fly {s : State} {id : Nat} {k : Slot} (hi : Claims.Issuing s id k) (hu : Claims.Unbound s id) (max : Bool) (d : SReg) (b c : SSrc) :
    let v := FFmt.f32.minmax (s.core id).ftz max (lo32 ((s.core id).ss b)) (lo32 ((s.core id).ss c))
    sfMinMax max d b c s = .next (Claims.fly s id k (.s d) 2 (v.1 % 2 ^ 64) v.2) :=
  primOp_fly hi hu (by simp only [Plan.effects, landS, BitVec.toNat_ofNat, View.s_live])

end Sys2Proof.Machine

namespace Sys2Proof.Proofs
open Sys2Proof Sys2Proof.Machine Sys2Proof.Claims

/-- Settles O5: the rounded operations have one form, and the others are results without a draw. -/
theorem scalarFloatResults : Obligations.ScalarFloatResults := by
  intro s id k hi hu d q b c m f cc co x y z rounded exact_
  simp only [exec_sfadd, exec_sfmul, exec_sffma, exec_sfmin, exec_sfmax, exec_sfcvt, exec_sfcmp]
  have hb : lo32 ((viewOf s id k).s 1 b) = x := congrArg lo32 (View.s_live ..)
  have hc : lo32 ((viewOf s id k).s 2 c) = y := congrArg lo32 (View.s_live ..)
  have hd : lo32 ((viewOf s id k).s 0 (.s d)) = z := congrArg lo32 (View.s_live ..)
  refine ⟨?add, ?mul, ?fma, sfMinMax_fly hi hu false d b c, sfMinMax_fly hi hu true d b c, ?cvt, ?cmp⟩
  case add => exact primOp_sfRound hi hu (f := fun md => FFmt.f32.fadd co.ftz md x y) (by dsimp only; rw [hb, hc])
  case mul => exact primOp_sfRound hi hu (f := fun md => FFmt.f32.fmul co.ftz md x y) (by dsimp only; rw [hb, hc])
  case fma => exact primOp_sfRound hi hu (f := fun md => FFmt.f32.ffma co.ftz md x y z) (by dsimp only; rw [hb, hc, hd])
  case cvt => exact primOp_sfRound hi hu (f := co.sfcvt f (co.ss b)) (by dsimp only; rw [View.s_live]; rfl)
  case cmp => exact primOp_fly hi hu (by simp only [Plan.effects, landP, hb, hc, co])

end Sys2Proof.Proofs
end

section
/-! Scalar loads and stores (R122 to R124, R133, Table 4.4). -/
namespace Sys2Proof.Machine

/-- A load whose words are without error: the value flies, the lines read are charged, and single-bit errors are corrected. -/
theorem primOp_load {s : State} {id : Nat} {k : Slot} {srcs : List (Nat × Src)} {body : View → Plan} (hi : Claims.Issuing s id k) (hu : Claims.Unbound s id)
    {d : SReg} {a n : Nat} {f : Nat → Word} (hb : body (viewOf s id k) = (viewOf s id k).loadPlan d a n f) (hf : s.mem.spadFault id a n = (0, 0)) :
    let c := s.core id
    primOp srcs body s = .next (({ s with mem := s.mem.scrub (spadKey id a) n } : State).setCore id { c with
      flights := c.flights ++ [Claims.inFlight c k (.s d) c.ldLat (f (s.mem.read (spadKey id a) n)).toNat],
      demand := c.demand ++ (readDemand 0 a n).map fun q => (c.ic + q.1, q.2.1, q.2.2) }) := by
  let l := landS d (s.core id).ldLat (f (s.mem.read (spadKey id a) n))
  have hq : (body (viewOf s id k)).effects = { demand := readDemand 0 a n, scrub := [(spadKey id a, n)], lands := [l] } := by
    simp only [hb, Plan.effects, View.loadPlan, View.readFault, hf, View.readSpad]
    rfl
  rw [primOp_effects hi hu hq rfl fun _ => rfl]
  simp [l, -Nat.reducePow]

/-! ### A nibble -/

/-- R124: the write of a nibble, its half of the byte chosen by the address. -/
theorem nibblePut_eq (key na x : Nat) :
    nibblePut key na x = (key, BitVec.ofNat 8 (x % 16 * 16 ^ (na % 2)), if na % 2 = 0 then 0x0F else 0xF0) := by
  unfold nibblePut
  split
  next h => rw [h, Nat.pow_zero, Nat.mul_one]
  next h => rw [Nat.mod_two_ne_zero.mp h, Nat.pow_one]

/-! ### Extension -/

theorem sextNat_eq_toInt (n x : Nat) : sextNat (n + 1) x = (BitVec.ofNat (n + 1) x).toInt := by
  have hmod : x % 2 ^ (n + 1) = x % 2 ^ n + 2 ^ n * (x / 2 ^ n % 2) := Nat.mod_pow_succ
  have hlow : x % 2 ^ n < 2 ^ n := Nat.mod_lt _ (Nat.two_pow_pos n)
  have hpow : 2 ^ (n + 1) = 2 ^ n * 2 := Nat.pow_succ 2 n
  have hbits : bits x n n = x / 2 ^ n % 2 := by rw [bits, Nat.add_sub_cancel_left, Nat.pow_one]
  rw [BitVec.toInt_eq_toNat_cond, BitVec.toNat_ofNat, sextNat, if_neg (Nat.succ_ne_zero n), Nat.add_sub_cancel, hbits]
  rcases Nat.mod_two_eq_zero_or_one (x / 2 ^ n) with h | h
  · rw [h, Nat.mul_zero, Nat.add_zero] at hmod
    rw [h, if_neg (by decide), if_pos (by omega)]
  · rw [h, Nat.mul_one] at hmod
    rw [h, if_pos rfl, if_neg (by omega)]

theorem ofInt_sextNat (n x : Nat) : BitVec.ofInt 64 (sextNat (n + 1) x) = (BitVec.ofNat (n + 1) x).signExtend 64 := by
  rw [sextNat_eq_toInt, BitVec.signExtend]

end Sys2Proof.Machine

namespace Sys2Proof.Proofs
open Sys2Proof Sys2Proof.Machine Sys2Proof.Claims

theorem scalarMemoryAccesses : Claims.ScalarMemoryOperations := by
  intro s id k hi hu t w d a b x imm sc c rd loads stores ea na
  have hload {i : Instr} {n v : Nat} {addr : Nat} (h : exec i s = .next (({ s with mem := s.mem.scrub (spadKey id addr) n } : State).setCore id { c with
      flights := c.flights ++ [inFlight c k (.s d) c.ldLat v], demand := c.demand ++ (readDemand 0 addr n).map fun q => (c.ic + q.1, q.2.1, q.2.2) })) :
      loads i addr n v :=
    ⟨_, h, fun _ => rfl, State.core_setCore_self _ _ _⟩
  refine ⟨fun hf => ?lds, fun hf => ?flagacq, ?sts, ?stsN4⟩
  case lds =>
    refine hload ?_
    rw [exec_lds]
    exact primOp_load hi hu (by simp only [View.s_live, View.x_live]; rfl) hf
  case flagacq =>
    have hv : (BitVec.ofNat 64 (rd (c.ss (.s d)).toNat 8)).toNat = rd (c.ss (.s d)).toNat 8 :=
      Nat.mod_eq_of_lt (s.mem.read_lt _ 8)
    refine hload ?_
    rw [exec_flagacq, ← hv]
    exact primOp_load hi hu (by simp only [View.s_live]; rfl) hf
  case sts =>
    show exec (.sts w a b x) s = _
    rw [exec_sts]
    exact primOp_put hi hu (by simp only [Plan.effects, View.stsAddr, View.s_live, View.x_live]; rfl)
  case stsN4 =>
    show exec (.stsN4 a b imm) s = _
    rw [exec_stsN4]
    exact primOp_put hi hu (by simp only [Plan.effects, View.s_live, nibblePut_eq]; rfl)

theorem loadExtension : Claims.LoadExtension := by
  intro x
  refine ⟨ofInt_sextNat 7 x, ofInt_sextNat 15 x, ofInt_sextNat 31 x, rfl, fun h => ?_, fun h => ?_, fun h => ?_⟩
  all_goals exact Nat.mod_eq_of_lt (lt_trans h (by decide))

/-- Settles O6: a load flies with the value read, a store puts its bytes down, and the extensions are those of two's complement. -/
theorem scalarMemoryOperations : Obligations.ScalarMemoryOperations := ⟨scalarMemoryAccesses, loadExtension⟩

end Sys2Proof.Proofs
end

section
/-! Branches, calls and returns (R125 to R127). -/
namespace Sys2Proof.Machine

/-- A taken transfer at issue. -/
theorem primOp_take {s : State} {id : Nat} {k : Slot} {srcs : List (Nat × Src)} {body : View → Plan} (hi : Claims.Issuing s id k) (hu : Claims.Unbound s id)
    {t : Nat} (hq : (body (viewOf s id k)).effects = { upd := fun c => c.take t }) : primOp srcs body s = .next (s.setCore id ((s.core id).take t)) :=
  primOp_upd hi hu hq fun _ => rfl

/-- A call: the transfer, and the link in flight (R126). -/
theorem primOp_call {s : State} {id : Nat} {k : Slot} {srcs : List (Nat × Src)} {body : View → Plan} (hi : Claims.Issuing s id k) (hu : Claims.Unbound s id)
    {t : Nat} {ln : Word} (hq : (body (viewOf s id k)).effects = { lands := [landS 31 1 ln], upd := fun c => c.take t }) :
    primOp srcs body s = .next (s.setCore id { (s.core id).take t with
      flights := (s.core id).flights ++ [Claims.inFlight (s.core id) k (.s 31) 1 ln.toNat] }) := by
  rw [primOp_effects hi hu hq rfl fun _ => rfl]
  simp [Core.take, -Nat.reducePow]

end Sys2Proof.Machine

namespace Sys2Proof.Proofs
open Sys2Proof Sys2Proof.Machine Sys2Proof.Claims

/-- Settles O7: each operation takes its transfer, or none, and a call has its link in flight. -/
theorem controlTransfers : Obligations.ControlTransfers := by
  intro s id k hi hu a imm c goes rel ln
  have hgoes (t : Nat) : goes t [] = s.setCore id (c.take t) := by simp [goes, Core.take]
  have hcall (t : Nat) : goes t [ln] = s.setCore id { c.take t with flights := c.flights ++ [inFlight c k (.s 31) 1 (BitVec.ofNat 64 c.link).toNat] } := rfl
  simp only [exec_br, exec_call, exec_ret, exec_brc, hgoes, hcall]
  refine ⟨?brImm, ?brReg, ?callImm, ?callReg, ?ret, ?brc⟩
  case brImm => exact primOp_take hi hu rfl
  case brReg => exact primOp_take hi hu (by simp only [Plan.effects, View.target, View.s_live]; rfl)
  case callImm => exact primOp_call hi hu rfl
  case callReg => exact primOp_call hi hu (by simp only [Plan.effects, View.target, View.s_live]; rfl)
  case ret => exact primOp_take hi hu rfl
  case brc =>
    refine (primOp_upd (f := fun x => if c.ss a != 0 then x.take rel else x) hi hu (by simp only [Plan.effects, View.s_live]; rfl) fun x => ?_).trans ?_
    · split <;> rfl
    · by_cases h : c.ss a = 0
      · simp [h, c]
      · have hgo : (c.ss a != 0) = true := bne_iff_ne.mpr h
        simp only [hgo, if_true, if_neg h, c]

end Sys2Proof.Proofs
end

section
/-! Where the sequencer goes: transfers and loop levels (R125, R128). -/
namespace Sys2Proof.Machine

/-! ### The next bundle -/

section
variable {p : Pos} {t run next : Nat}

/-- A transfer due redirects the sequencer, whatever stood there. -/
theorem Pos.next_transfer {b : Nat} (h : p.transfers = [(t, b)]) :
    (p.next t run next).pc = b ∧ (p.next t run next).owed = 0 ∧ (p.next t run next).transfers = [] := by
  simp [Pos.next, h]

/-- Inside a run of folded bundles the sequencer counts one more. -/
theorem Pos.next_folded (hf : p.transfers.find? (fun x => x.1 == t) = none) (hs : p.skip = none) (ho : 1 < p.owed) :
    p.next t run next = { p with owed := p.owed - 1 } := by
  have h0 : p.owed ≠ 0 := by omega
  have h1 : p.owed - 1 ≠ 0 := by omega
  simp only [Pos.next, hf, hs, if_neg h0, if_pos h1]

/-- After the last bundle of a header, with no loop, the sequencer goes to the next header. -/
theorem Pos.next_header (ht : p.transfers = []) (hs : p.skip = none) (hl : p.loops = []) (ho : p.owed = 0) (hr : run = 0) : (p.next t run next).pc = next := by
  simp [Pos.next, ht, hs, hl, ho, hr, loopCount, loopNext]

/-- A bundle that is entered into the body of a level changes nothing else of the level. -/
theorem loopCount_cons (pc : Nat) (l : Loop) (rest : List Loop) : ∃ body, loopCount pc (l :: rest) = { l with body } :: loopCount pc rest := by
  simp only [loopCount, List.map_cons]
  split
  · exact ⟨_, rfl⟩
  · exact ⟨_, rfl⟩

/-- At the end of the innermost level the sequencer goes back while more than one pass is left. -/
theorem Pos.next_loopBack {l : Loop} {rest : List Loop} (ht : p.transfers = []) (hs : p.skip = none) (hl : p.loops = l :: rest) (hpc : p.pc = l.stop)
    (ho : p.owed = 0) (hr : run = 0) (hleft : 1 < l.left) :
    (p.next t run next).pc = l.start ∧ (p.next t run next).loops = { l with left := l.left - 1, body := none } :: loopCount p.pc rest := by
  obtain ⟨body, hcount⟩ := loopCount_cons p.pc l rest
  have hnext : loopNext p.pc (loopCount p.pc (l :: rest)) = ({ l with left := l.left - 1, body := none } :: loopCount p.pc rest, some l.start) := by
    rw [hcount, loopNext, if_pos hpc, if_pos hleft]
  simp [Pos.next, ht, hs, hl, ho, hr, hnext]

end

/-! ### The sequencer of a core -/

theorem Core.advance_eq (c : Core) : c.advance = c.setPos (c.pos.next (c.ic + 1) (c.shapeAt c.pc).1 (c.shapeAt c.pc).2) := rfl

end Sys2Proof.Machine

namespace Sys2Proof.Proofs
open Sys2Proof Sys2Proof.Machine Sys2Proof.Claims

theorem transferRedirects : Claims.TransferRedirects := by
  intro c t hskip
  rw [Core.advance_eq]
  refine ⟨fun ht => Pos.next_transfer (p := c.pos) ht, fun ht _ ho => ?_, fun ht hl ho hr => Pos.next_header (p := c.pos) ht hskip hl ho hr⟩
  have hfind : c.pos.transfers.find? (fun x => x.1 == c.ic + 1) = none := by simp [Core.pos, ht]
  rw [Pos.next_folded hfind hskip ho]
  exact ⟨rfl, rfl, rfl⟩

theorem loopLevels : Claims.LoopLevels := by
  refine ⟨fun s id k hi hu a imm => ?opens, fun c l rest ht hskip hl hpc ho hr hleft => ?back⟩
  case opens =>
    intro c n stop
    rw [exec_loop]
    refine primOp_upd (f := fun x => x.openLoop stop n) hi hu (by simp only [Plan.effects, View.s_live]; rfl) fun x => ?_
    unfold Core.openLoop
    split <;> rfl
  case back =>
    obtain ⟨hto, hloops⟩ := Pos.next_loopBack (p := c.pos) (t := c.ic + 1) (next := (c.shapeAt c.pc).2) ht hskip hl hpc ho hr hleft
    have hadv : c.advance.loops = { l with left := l.left - 1, body := none } :: loopCount c.pc rest := hloops
    refine ⟨hto, ?_, ?_⟩
    · rw [hadv, hl, List.length_cons, List.length_cons, loopCount, List.length_map]
    · rw [hadv]
      rfl

/-- Settles O8: the sequencer's next place by its branches, and LOOP as a level opened at issue. -/
theorem transfersAndLoops : Obligations.TransfersAndLoops := ⟨transferRedirects, loopLevels⟩

end Sys2Proof.Proofs
end

section
/-! System operations at issue (R130, R131, R133 to R140). -/
namespace Sys2Proof.Machine

theorem bits_low (x n : Nat) : bits x n 0 = x % 2 ^ (n + 1) := by simp [bits]

/-- Only a write of XSTAT can start the context engine (R274). -/
theorem ctxStart_of_ne {r : SpecialReg} (h : r ≠ .xstat) (c : Core) (id : Nat) (x : Word) : ctxStart c id r x = fun s => s := by
  funext s
  simp [ctxStart, h]

section
variable {s : State} {id : Nat} {k : Slot} (hi : Claims.Issuing s id k) (hu : Claims.Unbound s id)
include hi hu

/-- R131: WAITA, its wait over, has corrected its word. -/
theorem execWaita_issue (a b : SSrc) : execWaita a b s =
    .next (({ s with mem := s.mem.scrub (spadKey id ((s.core id).ss a).toNat) 16 } : State).setCore id (s.core id)) := by
  have hq : (execWaita a b s = .next _) := primOp_effects hi hu (q := { scrub := [(spadKey id ((s.core id).ss a).toNat, 16)] })
    (by simp only [Plan.effects, View.s_live]) rfl fun _ => rfl
  rw [hq]
  simp

/-- R135: MOVTS leaves its write for the next issue cycle. -/
theorem execMovts_issue {r : SpecialReg} (hr : r ≠ .xstat) (b : SSrc) : execMovts r b s =
    .next (s.setCore id { s.core id with acts := (s.core id).acts ++ [((s.core id).ic + 1, (s.core id).ic, .special r ((s.core id).ss b))] }) :=
  primOp_act hi hu (by simp only [Plan.effects, View.s_live, ctxStart_of_ne hr])

end

end Sys2Proof.Machine

namespace Sys2Proof.Proofs
open Sys2Proof Sys2Proof.Machine Sys2Proof.Claims

theorem systemOperations : Claims.SystemOperations := by
  intro s id k hi hu a b e d sc r n c core
  simp only [exec_halt, exec_nop, exec_waita, exec_fence, exec_flagrel, exec_movs, exec_movts, exec_trap, exec_eret, exec_tcreate, exec_tkill]
  refine ⟨?halt, ?nop, execWaita_issue hi hu a b, ?fence, ?flagrel, execMovs_fly s id k d r hi hu, fun hr => execMovts_issue hi hu hr b, ?trap, ?eret, ?tcreate, ?tkill⟩
  case halt => exact primOp_upd (f := fun x => { x with run := .halted, haltPc := x.pc, transfers := [], owed := 0, skip := none }) hi hu rfl fun _ => rfl
  case nop => exact primOp_upd (f := fun x => x) hi hu rfl fun _ => rfl
  case fence => exact primOp_upd (f := fun x => { x with fences := x.outstandingCmds }) hi hu rfl fun _ => rfl
  case flagrel =>
    exact primOp_upd (f := fun x => { x with releases := x.releases ++ [x.releaseOf (c.ss a).toNat sc] }) hi hu (by simp only [Plan.effects, View.s_live, c]) fun _ => rfl
  case trap => exact primOp_upd (f := fun x => { x with causes := x.causes ++ [⟨0x0C, n.toNat, false⟩] }) hi hu rfl fun _ => rfl
  case eret => exact primOp_upd (f := fun x => { x with eretPending := true }) hi hu rfl fun _ => rfl
  case tcreate => exact primOp_act hi hu (by simp only [Plan.effects, View.s_live, bits_low]; rfl)
  case tkill =>
    have hbit : (bits (c.ss a).toNat 6 6 = 1) ↔ (c.ss a).getLsbD 6 = true := by rw [bits_self, Bool.toNat_eq_one]; rfl
    exact primOp_act hi hu (by simp only [Plan.effects, View.s_live, ← hbit]; rfl)

end Sys2Proof.Proofs
end

section
/-! What a write of a special register leaves (R32, R136, Tables 2.2 and 2.7). -/
namespace Sys2Proof.Machine

theorem Core.toNat_scalel_written (c : Core) (x : Word) : ((c.setSpecial .scalel x).getSpecial .scalel).toNat = x.toNat % 2 ^ 16 := by
  show ((x.setWidth 16).setWidth 64).toNat = _
  rw [BitVec.toNat_setWidth_of_le (by decide), BitVec.toNat_setWidth]

theorem Core.toNat_ttbase_written (c : Core) (k : TReg) (x : Word) : ((c.setSpecial (.ttbase k) x).getSpecial (.ttbase k)).toNat = x.toNat % 2 ^ 32 := by
  have hset : (c.sp.ttbase.set k (x.setWidth 32))[k] = x.setWidth 32 := Vector.getElem_set_self _
  show (((c.sp.ttbase.set k (x.setWidth 32))[k]).setWidth 64).toNat = _
  rw [hset, BitVec.toNat_setWidth_of_le (by decide), BitVec.toNat_setWidth]

/-- A counter that is written reads what was written, and no other register changes. -/
theorem Core.counter_written (c : Core) (x : Word) {r : SpecialReg} (h : r = .resAdv ∨ r = .resUsed ∨ r = .resDenyBank ∨ r = .resDenyNet ∨ r = .resDenyPwr) :
    (c.setSpecial r x).getSpecial r = x ∧ ∀ q : SpecialReg, q ≠ r → (c.setSpecial r x).getSpecial q = c.getSpecial q := by
  rcases h with rfl | rfl | rfl | rfl | rfl <;> refine ⟨rfl, fun q hq => ?_⟩
  · cases q with | resAdv => exact absurd rfl hq | _ => rfl
  · cases q with | resUsed => exact absurd rfl hq | _ => rfl
  · cases q with | resDenyBank => exact absurd rfl hq | _ => rfl
  · cases q with | resDenyNet => exact absurd rfl hq | _ => rfl
  · cases q with | resDenyPwr => exact absurd rfl hq | _ => rfl

/-! ### FPCTL (R32) -/

theorem testBit_fpctlMask (i : Nat) : Nat.testBit 0xFF08 i = (decide (i = 3) || (decide (8 ≤ i) && decide (i < 16))) := by
  by_cases h : i < 16
  · have : ∀ i < 16, Nat.testBit 0xFF08 i = (decide (i = 3) || (decide (8 ≤ i) && decide (i < 16))) := by decide
    exact this i h
  · have hlt : 0xFF08 < 2 ^ i := lt_of_lt_of_le (by decide) (Nat.pow_le_pow_right (by decide) (Nat.not_lt.mp h))
    rw [Nat.testBit_lt_two_pow hlt]
    simp
    omega

/-- The mode that a written FPCTL holds: a reserved one is 000. -/
def fpctlMode (x : Nat) : Nat := if x % 8 < 5 then x % 8 else 0

theorem fpctlMode_lt (x : Nat) : fpctlMode x < 2 ^ 3 := by unfold fpctlMode; split <;> omega

theorem Core.toNat_fpctl_written (c : Core) (x : Word) : ((c.setSpecial .fpctl x).getSpecial .fpctl).toNat = (x.toNat &&& 0xFF08) ||| fpctlMode x.toNat := by
  have hrm : (x &&& 7).toNat = x.toNat % 8 := Nat.and_two_pow_sub_one_eq_mod x.toNat 3
  show ((x &&& 0xFF08) ||| (if (x &&& 7).toNat < 5 then x &&& 7 else 0)).toNat = _
  rw [BitVec.toNat_or, BitVec.toNat_and, apply_ite BitVec.toNat, hrm]
  rfl

/-- A written FPCTL by its bits: the mode below, the flush bit, and the enables above. -/
theorem Core.testBit_fpctl_written (c : Core) (x : Word) (i : Nat) : ((c.setSpecial .fpctl x).getSpecial .fpctl).toNat.testBit i =
    if i < 3 then (fpctlMode x.toNat).testBit i else x.toNat.testBit i && (decide (i = 3) || (decide (8 ≤ i) && decide (i < 16))) := by
  rw [c.toNat_fpctl_written, Nat.testBit_or, Nat.testBit_and, testBit_fpctlMask]
  split
  next h =>
    have h3 : i ≠ 3 := by omega
    have h8 : ¬8 ≤ i := by omega
    simp [h3, h8]
  next h =>
    rw [Nat.testBit_lt_two_pow (lt_of_lt_of_le (fpctlMode_lt _) (Nat.pow_le_pow_right (by decide) (Nat.not_lt.mp h))), Bool.or_false]

theorem Core.fpctl_written (c : Core) (x : Word) :
    let f := ((c.setSpecial .fpctl x).getSpecial .fpctl).toNat
    f % 2 ^ 3 = fpctlMode x.toNat ∧ f / 2 ^ 3 % 2 = x.toNat / 2 ^ 3 % 2 ∧ f / 2 ^ 4 % 2 ^ 4 = 0 ∧ f / 2 ^ 8 = x.toNat / 2 ^ 8 % 2 ^ 8 := by
  intro f
  have hf (i : Nat) : f.testBit i = _ := c.testBit_fpctl_written x i
  refine ⟨Nat.eq_of_testBit_eq fun i => ?mode, ?flush, Nat.eq_of_testBit_eq fun i => ?reserved, Nat.eq_of_testBit_eq fun i => ?enables⟩
  case mode =>
    rw [Nat.testBit_mod_two_pow, hf]
    by_cases h : i < 3
    · simp [h]
    · have hlt := lt_of_lt_of_le (fpctlMode_lt x.toNat) (Nat.pow_le_pow_right (by decide) (Nat.not_lt.mp h))
      simp [h, Nat.testBit_lt_two_pow hlt]
  case flush =>
    rw [← Nat.toNat_testBit, ← Nat.toNat_testBit, hf]
    simp
  case reserved =>
    rw [Nat.testBit_mod_two_pow, Nat.testBit_div_two_pow, hf]
    have h3 : ¬i + 4 < 3 := by omega
    simp [h3]
    omega
  case enables =>
    rw [Nat.testBit_mod_two_pow, Nat.testBit_div_two_pow, Nat.testBit_div_two_pow, hf]
    have h3 : ¬i + 8 < 3 := by omega
    have h16 : i + 8 < 16 ↔ i < 8 := by omega
    simp [h3, h16, Bool.and_comm]

/-! ### PSTAT (Table 2.7) -/

theorem Core.pstat_above (c : Core) : (c.getSpecial .pstat).toNat / 2 = c.sp.compat.toNat + 2 * c.sp.preen.toNat + 4 * c.sp.handler.toNat := by
  simp only [Core.getSpecial]
  cases c.sp.wconf <;> cases c.sp.compat <;> cases c.sp.preen <;> cases c.sp.handler <;> rfl

/-- WCONF is all that a write of PSTAT changes, and a one clears it. -/
theorem Core.setSpecial_pstat (c : Core) (x : Word) : c.setSpecial .pstat x = { c with sp := { c.sp with wconf := c.sp.wconf && !x.getLsbD 0 } } := by
  simp only [Core.setSpecial]
  cases x.getLsbD 0 <;> simp

end Sys2Proof.Machine

namespace Sys2Proof.Proofs
open Sys2Proof Sys2Proof.Machine Sys2Proof.Claims

theorem specialRegisterWrites : Claims.SpecialRegisterWrites := by
  intro c x
  refine ⟨c.toNat_scalel_written x, fun r h => c.counter_written x h, c.fpctl_written x, ⟨?pstat, ?wconf, ?above⟩, fun k => c.toNat_ttbase_written k x, fun hr => ?fpstat, fun hh => ?outside, fun hh => ?inside, ?readOnly⟩
  case pstat => rw [c.setSpecial_pstat]
  case wconf => rw [c.setSpecial_pstat]
  case above => rw [Core.pstat_above, Core.pstat_above, c.setSpecial_pstat]
  case fpstat =>
    have hone : ~~~(0 : Flags) = BitVec.allOnes 8 := rfl
    show c.sp.fpstat &&& ~~~(x.setWidth 8 &&& ~~~c.raised) = _
    rw [hr, hone, BitVec.and_allOnes]
  case outside => simp [Core.setSpecial, hh]
  case inside =>
    refine ⟨by simp [Core.setSpecial, Core.getSpecial, hh], ?_⟩
    have hpc : (c.setSpecial .xpc x).getSpecial .xpc = x &&& 0x1FFFF := by simp [Core.setSpecial, Core.getSpecial, hh]
    rw [hpc]
    exact Nat.and_two_pow_sub_one_eq_mod x.toNat 17
  case readOnly =>
    rintro r (rfl | rfl | rfl | rfl | rfl | ⟨j, rfl⟩)
    all_goals rfl

/-- Settles O9: each operation by what its plan does at issue, each register by what a write leaves of its bits. -/
theorem systemResults : Obligations.SystemResults := ⟨systemOperations, specialRegisterWrites⟩

end Sys2Proof.Proofs
end

section
/-! A release that is due (R133), and a tile that is pushed (R79, R203). -/
namespace Sys2Proof.Machine

/-! ### Releases -/

theorem execFlagrelAdd_core {s : State} {id : Nat} (hat : Claims.At s (.core id)) : execFlagrelAdd s = .next (s.releaseQueue id) := by
  rw [execFlagrelAdd, hat]

theorem State.releaseQueue_one {s : State} {id : Nat} {r : Release} (h : (s.core id).releases = [r]) (ht : r.thread = none) : s.releaseQueue id = s.tryRelease id r := by
  simp [State.releaseQueue, h, ht]

/-- A release of the primary leaves the queue, and takes the ports of its bank. -/
def Core.unqueue (c : Core) (r : Release) : Core :=
  { c with releases := c.releases.erase r, portsUsed := c.portsUsed ++ [(false, r.addr / 64 % 16), (true, r.addr / 64 % 16)] }

/-- Memory after the add of a release: a word with an uncorrectable error stays (log 23). -/
def Memory.released (m : Memory) (key : Nat) : Memory := if (m.bad2 key 8).isSome then m else (m.scrub key 8).write key 8 (m.read key 8 + 1)

/-- A release of the primary whose conditions hold, with its bank free. -/
theorem State.tryRelease_due {s : State} {id : Nat} {r : Release} (hready : (s.core id).releaseReady r = true) (ht : r.thread = none) (hports : (s.core id).portsUsed = []) :
    s.tryRelease id r = ({ s with mem := s.mem.released (spadKey id r.addr) } : State).updCore id fun c => c.unqueue r := by
  simp [State.tryRelease, hready, ht, hports, State.releaseFault, State.releaseDone, Memory.released, Core.unqueue]

theorem Core.releaseReady_of_time {c : Core} {r : Release} (h : r.notBefore < c.ic ∨ (c.issuing = true ∧ r.notBefore = c.ic)) (hc : r.cmds = []) : c.releaseReady r = true := by
  rcases h with h | ⟨h, h'⟩ <;> simp [Core.releaseReady, *]

section
variable {m : Memory} {key : Nat}

theorem Memory.released_good (h : m.bad2 key 8 = none) : m.released key = (m.scrub key 8).write key 8 (m.read key 8 + 1) := by simp [Memory.released, h]
theorem Memory.released_bad (h : m.bad2 key 8 ≠ none) : m.released key = m := if_pos (Option.isSome_iff_ne_none.mpr h)
theorem Memory.byte_released_outside {z : Nat} (h : m.wf = true) (hz : z < key ∨ key + 8 ≤ z) : (m.released key).byte z = m.byte z := by
  unfold Memory.released
  split
  · rfl
  · exact Memory.byte_write_outside _ (m.wf_scrub key 8 h) hz

end

/-! ### The bytes of a tile -/

section
variable (m : Memory) (key : Nat) (bs : List Byte) (cvs : List (Nat × Nat))

/-- Check values aside, a tile is written as its bytes. -/
theorem Memory.cells_putTile : (m.putTile key bs cvs).cells = (m.put (putBytes key bs)).cells :=
  foldl_keeps (fun (m : Memory) (e : Nat × Nat) => { m with cv := sput 0 m.cv (key + 64 * e.1) e.2 }) Memory.cells (fun _ _ => rfl) cvs _
theorem Memory.ecc2_putTile : (m.putTile key bs cvs).ecc2 = (m.put (putBytes key bs)).ecc2 :=
  foldl_keeps (fun (m : Memory) (e : Nat × Nat) => { m with cv := sput 0 m.cv (key + 64 * e.1) e.2 }) Memory.ecc2 (fun _ _ => rfl) cvs _
theorem Memory.byte_putTile (z : Nat) : (m.putTile key bs cvs).byte z = (m.put (putBytes key bs)).byte z := by simp only [Memory.byte, m.cells_putTile]
theorem Memory.wf_putTile (h : m.wf = true) : (m.putTile key bs cvs).wf = true := by
  have := m.wf_put (putBytes key bs) h
  rwa [Memory.wf, ← m.cells_putTile key bs cvs] at this
theorem Memory.putTile_bytes (h : m.wf = true) (i : Nat) (hi : i < bs.length) : (m.putTile key bs cvs).byte (key + i) = bs[i] := by
  rw [Memory.byte_putTile, m.byte_put_putBytes bs key i h hi]
theorem Memory.putTile_outside (h : m.wf = true) {z : Nat} (hz : z < key ∨ key + bs.length ≤ z) : (m.putTile key bs cvs).byte z = m.byte z := by
  rw [Memory.byte_putTile, m.byte_put_outside h hz]
theorem Memory.bad2_putTile {a n : Nat} (h : m.bad2 a n = none) : (m.putTile key bs cvs).bad2 a n = none := by
  have := Memory.bad2_put (bs := putBytes key bs) h
  rwa [Memory.bad2, ← m.ecc2_putTile key bs cvs] at this

end

/-! ### A push -/

@[simp] theorem State.usePorts_h (s : State) (id key n : Nat) (write : Bool) (j : Nat) : ((s.usePorts id key n write).core j).h = (s.core j).h := by
  obtain ⟨ports, h⟩ := s.core_usePorts id key n write j
  rw [h]
@[simp] theorem State.usePorts_forwards (s : State) (id key n : Nat) (write : Bool) (j : Nat) : ((s.usePorts id key n write).core j).forwards = (s.core j).forwards := by
  obtain ⟨ports, h⟩ := s.core_usePorts id key n write j
  rw [h]

section
variable (s : State) (id : Nat) (h : HReg) (tile : List Byte) (cvs : List (Nat × Nat)) (sh : List Nat)

/-- A push writes the tile at the ring's tail. -/
theorem State.pushTile_mem : (s.pushTile id h tile cvs sh).mem =
    s.mem.putTile (spadKey id (((s.core id).h[h]).tileAt ((s.core id).h[h]).tail)) tile cvs := by
  simp [State.pushTile]
theorem State.pushTile_porters : (s.pushTile id h tile cvs sh).porters = s.porters := by simp [State.pushTile]

/-- Of the cores it changes the ring's own: the ring advances, its tags and its bank ports follow. -/
theorem State.core_pushTile : ∃ ports tags, (s.pushTile id h tile cvs sh).core id =
    { s.core id with h := (s.core id).h.set h ((s.core id).h[h]).push1, agentPorts := ports, shadows := tags } := by
  obtain ⟨ports, hp⟩ := State.core_usePorts { s with mem := s.mem.putTile (spadKey id (((s.core id).h[h]).tileAt ((s.core id).h[h]).tail)) tile cvs } id
    (spadKey id (((s.core id).h[h]).tileAt ((s.core id).h[h]).tail)) tile.length true id
  rw [State.pushTile, State.core_updCore_self, hp]
  exact ⟨ports, _, rfl⟩
theorem State.pushTile_hoop : ((s.pushTile id h tile cvs sh).core id).h[h] = ((s.core id).h[h]).push1 := by
  obtain ⟨ports, tags, hc⟩ := s.core_pushTile id h tile cvs sh
  rw [hc]
  exact Vector.getElem_set_self _
theorem State.pushTile_engines (j : Nat) : ((s.pushTile id h tile cvs sh).core j).engines = (s.core j).engines := by
  by_cases hj : j = id
  · subst hj
    obtain ⟨ports, tags, hc⟩ := s.core_pushTile j h tile cvs sh
    rw [hc]
  · rw [State.pushTile, State.core_updCore_other _ _ _ _ hj, State.usePorts_engines]
    rfl
theorem State.cmdOf_pushTile (a : Asker) : (s.pushTile id h tile cvs sh).cmdOf a = s.cmdOf a :=
  State.cmdOf_congr a (s.pushTile_engines id h tile cvs sh) (s.pushTile_porters id h tile cvs sh)

end

/-! ### A full tile of a command (R216, R219, R303) -/

@[simp] theorem State.putCmd_h (s : State) (c e i : Nat) (k : Cmd) (j : Nat) : ((s.putCmd (.engine c e i) k).core j).h = (s.core j).h := by
  by_cases hj : j = c
  · subst hj
    simp [State.putCmd]
  · simp [State.putCmd, s.core_updCore_other _ _ _ hj]
@[simp] theorem State.arrived_h (s : State) (key n j : Nat) : ((s.arrived key n).core j).h = (s.core j).h := by
  rw [State.arrived, State.usePorts_h, State.usePorts_h]
  rfl

theorem State.stage_unpost (s : State) (i : Instr) (x : EvArg) : (s.unpost i x).stage = s.stage := rfl
theorem State.stage_postEv (s : State) (e : Ev) : (s.postEv e).stage = s.stage := s.stage_post e.1 e.2

theorem execHoopPush_engine {s : State} {a : Asker} {k : Cmd} (hat : Claims.At s (.asker a)) (hk : s.cmdOf a = some k) :
    execHoopPush s = if k.fault.isNone && s.heldUp a then .next s else .next (s.pushFull a k k.hoop k.arrivalFor) := by
  rw [execHoopPush, hat]
  simp only [hk]

/-- A copy pushes into the hoop its walk names, and counts into its one arrival word. -/
theorem Cmd.hoop_cpy {k : Cmd} {h : HReg} (hk : k.kind = .cpy) (hw : walkHoop k.dst = some h) : k.hoop = h := by simp [Cmd.hoop, hk, hw]
theorem Cmd.arrivalFor_cpy {k : Cmd} (core : Nat) (hk : k.kind = .cpy) : k.arrivalFor core = k.arrival := by simp [Cmd.arrivalFor, hk]

section
variable {s : State} {a : Asker} {k : Cmd} {h : HReg} {arrOf : Nat → Option Nat} {id : Nat} {b : TileBuf}

/-- R220: a command that has faulted pushes nothing more. -/
theorem State.pushFull_faulted (hf : k.fault ≠ none) : (s.pushFull a k h arrOf).stage = (s.putCmd a { k with tiles := [] }).stage := by
  rw [State.pushFull, if_pos (Option.isSome_iff_ne_none.mpr hf), State.stage_postEv, State.stage_unpost]

/-- R303: a tile waits for room in its ring. -/
theorem State.pushFull_waits (hf : k.fault = none) (ht : k.tiles = [(id, b)]) (hs : b.stale = false) (hroom : ((s.core id).h[h]).room = false) :
    s.pushFull a k h arrOf = s := by
  have hfind : k.tiles.find? (fun t => t.2.full && (t.2.stale || ((s.core t.1).h[h]).room)) = none := by
    rw [ht, List.find?_cons_of_neg (by simp only [hs, hroom, Bool.or_false, Bool.and_false, Bool.false_eq_true, not_false_iff]), List.find?_nil]
  simp only [State.pushFull, hf, hfind, Option.isSome_none, Bool.false_eq_true, if_false]

/-- A full tile with room is pushed, and its bytes are counted. -/
theorem State.pushFull_pushes {t : State} {k1 : Cmd} (hf : k.fault = none) (ht : k.tiles = [(id, b)]) (hfull : b.full = true) (hs : b.stale = false)
    (hroom : ((s.core id).h[h]).room = true)
    (hcount : (s.pushTile id h b.bytes b.cvs b.shadows).countBytes (k.setTile id none) (arrOf id) b.bytes.length = (t, k1)) :
    (s.pushFull a k h arrOf).stage = (t.putCmd a k1).stage := by
  have hfind : k.tiles.find? (fun t => t.2.full && (t.2.stale || ((s.core t.1).h[h]).room)) = some (id, b) := by
    rw [ht, List.find?_cons_of_pos (by simp only [hfull, hroom, Bool.or_true, Bool.and_true])]
  simp only [State.pushFull, hf, hfind, hs, hcount, Option.isSome_none, Bool.false_eq_true, if_false]
  split <;> split <;> simp only [State.stage_postEv, State.stage_unpost]

end

theorem Cmd.setTile_only {k : Cmd} {id : Nat} {b : TileBuf} (ht : k.tiles = [(id, b)]) : (k.setTile id none).tiles = [] := by simp [Cmd.setTile, ht]

end Sys2Proof.Machine
end

section
/-! Tiles that come from a neighbour or a transpose (R208, R214, R221), and the obligation. -/
namespace Sys2Proof.Machine

/-! ### Rings -/

theorem Hoop.room_of_lt {d : Hoop} (h : d.fill < d.count + 1) : d.room = true := decide_eq_true h
theorem Hoop.room_of_le {d : Hoop} (h : d.count + 1 ≤ d.fill) : d.room = false := decide_eq_false (Nat.not_lt.mpr h)
theorem Hoop.fits_of_le {d : Hoop} {n : Nat} (hv : d.valid = true) (h : n ≤ 64 * (d.lines + 1)) : d.fits n = true := by
  rw [Hoop.fits, hv, Bool.true_and]
  exact decide_eq_true h
theorem Hoop.fits_of_lt {d : Hoop} {n : Nat} (h : 64 * (d.lines + 1) < n) : d.fits n = false := by
  have hd : decide (n ≤ d.tile) = false := decide_eq_false (Nat.not_le.mpr h)
  rw [Hoop.fits, hd, Bool.and_false]

/-! ### Forwarded tiles -/

section
variable {s : State} {id : Nat} {f : Forward}

/-- A core with one tile on its way, whose path is over. -/
theorem State.forwardDue_one (hf : (s.core id).forwards = [f]) (hat : f.at_ ≤ s.clock) :
    s.forwardDue id = if f.stale.isSome || !(((s.core id).h[f.hoop]).fits f.tile.length) || ((s.core id).h[f.hoop]).room then some f else none := by
  simp only [State.forwardDue, hf, List.find?_cons, List.find?_nil, beq_self_eq_true, Bool.and_self, decide_eq_true hat, Bool.true_and]
  split
  next h => rw [if_pos h]
  next h => rw [if_neg (by rw [h]; decide)]

theorem execTileForwardArrival_one (hcur : Claims.At s (.core id)) (hf : (s.core id).forwards = [f]) (hat : f.at_ ≤ s.clock) :
    execTileForwardArrival s =
      if f.stale.isSome || !(((s.core id).h[f.hoop]).fits f.tile.length) || ((s.core id).h[f.hoop]).room then .next (s.takeForward id f) else .next s := by
  rw [execTileForwardArrival, hcur]
  simp only [hf, List.isEmpty_cons, Bool.false_eq_true, if_false, State.forwardDue_one hf hat]
  split
  next h =>
    split at h
    next hc => rw [if_pos hc, Option.some.inj h]
    next => cases h
  next h =>
    split at h
    next => cases h
    next hc => rw [if_neg hc]

/-- The state in which a tile is no longer on its way. -/
def State.unforward (s : State) (id : Nat) (f : Forward) : State := s.updCore id fun c => { c with forwards := c.forwards.erase f }

theorem State.unforward_core (hf : (s.core id).forwards = [f]) : (s.unforward id f).core id = { s.core id with forwards := [] } := by
  rw [State.unforward, State.core_updCore_self, hf, List.erase_cons_head]

/-- R221: a tile whose ring was replaced is written where it began. -/
theorem State.takeForward_stale {a : Nat} (hs : f.stale = some a) : s.takeForward id f =
    ({ s.unforward id f with mem := s.mem.putTile (spadKey id a) f.tile [] } : State).usePorts id (spadKey id a) f.tile.length true := by
  simp only [State.takeForward, hs, State.unforward, State.updCore_mem]

theorem State.takeForward_fits (hs : f.stale = none) (h : ((s.core id).h[f.hoop]).fits f.tile.length = true) :
    s.takeForward id f = (s.unforward id f).pushTile id f.hoop f.tile [] f.shadows := by
  simp only [State.takeForward, hs, h, if_true, State.unforward]

/-- R208: a tile that does not fit its hoop is cause 0x08. -/
theorem State.takeForward_unfit (hs : f.stale = none) (h : ((s.core id).h[f.hoop]).fits f.tile.length = false) : s.takeForward id f =
    (s.unforward id f).updCore id fun c =>
      { c with causes := c.causes ++ [⟨0x08, 8 + 16 * f.hoop.val + (if coreY f.source = coreY id then 0 else 128), false⟩] } := by
  simp only [State.takeForward, hs, h, Bool.false_eq_true, if_false, State.unforward]

end

/-! ### A transposed tile -/

section
variable {s : State} {id : Nat} {h : HReg} {tile : List Byte} {sh : List Nat}

theorem execTransposePush_one (hat : Claims.At s (.core id)) (ht : (s.core id).trans = some (h, tile, sh)) : execTransposePush s =
    if ((s.core id).h[h]).room then
      .next (((s.pushTile id h tile [] sh).updCore id fun c => { c with trans := none }).unpost .transposePush (.core id))
    else .next s := by
  rw [execTransposePush, hat]
  simp only [ht]

end

end Sys2Proof.Machine

namespace Sys2Proof.Proofs
open Sys2Proof Sys2Proof.Machine Sys2Proof.Claims

/-- R133: a release that is due adds 1 to its word. -/
theorem releaseAdds {s : State} {id : Nat} {r : Release} (hat : At s (.core id)) (hr : (s.core id).releases = [r]) (ht : r.thread = none) (hwf : s.mem.wf = true)
    (htime : r.notBefore < (s.core id).ic ∨ ((s.core id).issuing = true ∧ r.notBefore = (s.core id).ic)) (hc : r.cmds = []) (hports : (s.core id).portsUsed = []) :
    leadsTo .flagrelAdd s fun u => (u.core id).releases = [] ∧
      (s.mem.bad2 (spadKey id r.addr) 8 = none → u.mem.read (spadKey id r.addr) 8 = (s.mem.read (spadKey id r.addr) 8 + 1) % 2 ^ 64) ∧
      (s.mem.bad2 (spadKey id r.addr) 8 ≠ none → u.mem = s.mem) ∧ (∀ z, z < spadKey id r.addr ∨ spadKey id r.addr + 8 ≤ z → u.mem.byte z = s.mem.byte z) ∧
      (u.core id).s = (s.core id).s ∧ ∀ j, j ≠ id → u.core j = s.core j := by
  refine ⟨({ s with mem := s.mem.released (spadKey id r.addr) } : State).updCore id fun c => c.unqueue r, ?_, ?_, fun hb => ?_, fun hb => Memory.released_bad hb,
    fun z hz => Memory.byte_released_outside hwf hz, ?_, fun j hj => State.core_updCore_other _ _ _ _ hj⟩
  · rw [exec_flagrelAdd, execFlagrelAdd_core hat, State.releaseQueue_one hr ht, State.tryRelease_due (Core.releaseReady_of_time htime hc) ht hports]
  · rw [State.core_updCore_self]
    show (s.core id).releases.erase r = []
    rw [hr, List.erase_cons_head]
  · rw [State.updCore_mem, Memory.released_good hb]
    exact Memory.read_write_same _ _ _ _ (s.mem.wf_scrub _ _ hwf)
  · rw [State.core_updCore_self]
    rfl

/-- R208, R216, R220, R303: what comes of a full tile of a command. -/
theorem commandTile {s : State} {id e : Nat} {k : Cmd} {h : HReg} {b : TileBuf} (hat : At s (.asker (.engine id e k.id))) (hk : s.cmdOf (.engine id e k.id) = some k)
    (hkind : k.kind = .cpy) (hhoop : walkHoop k.dst = some h) (ht : k.tiles = [(id, b)]) (hwf : s.mem.wf = true) :
    let d := (s.core id).h[h]
    let a : Asker := .engine id e k.id
    let key := spadKey id (d.base + d.tail % (d.count + 1) * (64 * (d.lines + 1)))
    (k.fault ≠ none → leadsTo .hoopPush s fun u => u.mem = s.mem ∧ (u.core id).h = (s.core id).h ∧ (u.cmdOf a).map (·.tiles) = some []) ∧
    (k.fault = none → b.full = true → b.stale = false → d.count + 1 ≤ d.fill → exec .hoopPush s = .next s) ∧
    (k.fault = none → s.heldUp a = true → exec .hoopPush s = .next s) ∧
    (k.fault = none → s.heldUp a = false → b.full = true → b.stale = false → d.fill < d.count + 1 → k.arrival = none → leadsTo .hoopPush s fun u =>
      (u.cmdOf a).map (·.tiles) = some [] ∧ ((u.core id).h[h]).fill = d.fill + 1 ∧ ((u.core id).h[h]).tail = (d.tail + 1) % (d.count + 1) ∧
      (∀ i (hi : i < b.bytes.length), u.mem.byte (key + i) = b.bytes[i])) ∧
    (∀ w, k.fault = none → s.heldUp a = false → b.full = true → b.stale = false → d.fill < d.count + 1 → k.arrival = some (spadKey id w) → s.mem.bad2 (spadKey id w) 16 = none →
      (spadKey id w + 16 ≤ key ∨ key + b.bytes.length ≤ spadKey id w) → leadsTo .hoopPush s fun u => ((u.core id).h[h]).fill = d.fill + 1 ∧
        Counted (s.mem.read (spadKey id w) 16) (u.mem.read (spadKey id w) 16) b.bytes.length ∧ (u.cmdOf a).map (·.bytes) = some (k.bytes + b.bytes.length)) := by
  intro d a key
  have hexec : exec .hoopPush s = if k.fault.isNone && s.heldUp a then .next s else .next (s.pushFull a k h k.arrivalFor) := by
    rw [exec_hoopPush, execHoopPush_engine hat hk, Cmd.hoop_cpy hkind hhoop]
  have hput {t u : State} {k1 : Cmd} (hu : u.stage = (t.putCmd a k1).stage) (hto : t.cmdOf a = s.cmdOf a) (hid : k1.id = k.id) : u.cmdOf a = some k1 :=
    (State.cmdOf_of_stage a hu).trans (State.cmdOf_putCmd (Option.isSome_iff_exists.mpr ⟨k, hto.trans hk⟩) hid)
  -- the push, with what counting its bytes leaves
  let p := s.pushTile id h b.bytes b.cvs b.shadows
  have hpmem : p.mem = s.mem.putTile key b.bytes b.cvs := s.pushTile_mem id h b.bytes b.cvs b.shadows
  have hpush {t : State} {k1 : Cmd} (hf : k.fault = none) (hheld : s.heldUp a = false) (hfull : b.full = true) (hs : b.stale = false) (hroom : d.fill < d.count + 1)
      (hcount : p.countBytes (k.setTile id none) k.arrival b.bytes.length = (t, k1)) :
      ∃ u, exec .hoopPush s = .next u ∧ u.stage = (t.putCmd a k1).stage := by
    refine ⟨_, by rw [hexec, hheld, Bool.and_false, if_neg Bool.false_ne_true], State.pushFull_pushes hf ht hfull hs (Hoop.room_of_lt hroom) ?_⟩
    rw [Cmd.arrivalFor_cpy id hkind]
    exact hcount
  refine ⟨fun hf => ?faulted, fun hf _ hs hroom => ?waits, fun hf hheld => ?held, fun hf hheld hfull hs hroom harr => ?pushed, fun w hf hheld hfull hs hroom harr hbad hdisj => ?counted⟩
  case faulted =>
    have hu := State.pushFull_faulted (s := s) (a := a) (h := h) (arrOf := k.arrivalFor) hf
    refine ⟨_, by rw [hexec, Option.isNone_eq_false_iff.mpr (Option.isSome_iff_ne_none.mpr hf), Bool.false_and, if_neg Bool.false_ne_true], ?_, ?_, ?_⟩
    · rw [State.mem_of_stage hu, State.putCmd_mem]
    · rw [State.core_of_stage hu, State.putCmd_h]
    · rw [hput hu rfl rfl, Option.map_some]
  case waits =>
    rw [hexec, State.pushFull_waits hf ht hs (Hoop.room_of_le hroom), ite_self]
  case held => rw [hexec, hf, hheld]; rfl
  case pushed =>
    obtain ⟨u, hex, hu⟩ := hpush hf hheld hfull hs hroom (by rw [harr, State.countBytes_none])
    have hring : (u.core id).h[h] = d.push1 := by
      rw [State.core_of_stage hu, State.putCmd_h]
      exact s.pushTile_hoop id h b.bytes b.cvs b.shadows
    refine ⟨u, hex, ?_, by rw [hring]; rfl, by rw [hring]; rfl, fun i hi => ?_⟩
    · rw [hput hu (s.cmdOf_pushTile id h b.bytes b.cvs b.shadows a) rfl, Option.map_some]
      exact congrArg some (Cmd.setTile_only ht)
    · rw [State.mem_of_stage hu, State.putCmd_mem, hpmem]
      exact s.mem.putTile_bytes key b.bytes b.cvs hwf i hi
  case counted =>
    have hpbad : p.mem.bad2 (spadKey id w) 16 = none := by rw [hpmem]; exact s.mem.bad2_putTile key b.bytes b.cvs hbad
    have hpwf : p.mem.wf = true := by rw [hpmem]; exact s.mem.wf_putTile key b.bytes b.cvs hwf
    have hword : p.mem.read (spadKey id w) 16 = s.mem.read (spadKey id w) 16 :=
      Memory.read_congr fun i hi => by rw [hpmem]; exact s.mem.putTile_outside key b.bytes b.cvs hwf (by omega)
    obtain ⟨u, hex, hu⟩ := hpush hf hheld hfull hs hroom (by rw [harr, State.countBytes_some _ _ _ _ hpbad])
    refine ⟨u, hex, ?_, ?_, ?_⟩
    · rw [State.core_of_stage hu, State.putCmd_h, State.arrived_h]
      exact congrArg Hoop.fill (s.pushTile_hoop id h b.bytes b.cvs b.shadows)
    · rw [State.mem_of_stage hu, State.putCmd_mem, State.arrived_mem, ← hword]
      exact p.mem.counted_write _ _ hpwf
    · rw [hput hu ((State.cmdOf_arrived _ _ _ a).trans (s.cmdOf_pushTile id h b.bytes b.cvs b.shadows a)) rfl, Option.map_some]
      rfl

/-- R208, R221: what comes of a forwarded tile. -/
theorem forwardedTile {s : State} {id : Nat} {f : Forward} (hat : At s (.core id)) (hf : (s.core id).forwards = [f]) (htime : f.at_ ≤ s.clock) (hwf : s.mem.wf = true) :
    let d := (s.core id).h[f.hoop]
    (∀ a, f.stale = some a → leadsTo .tileForwardArrival s fun u => (u.core id).forwards = [] ∧ (u.core id).h = (s.core id).h ∧
      (∀ i (hi : i < f.tile.length), u.mem.byte (spadKey id a + i) = f.tile[i]) ∧ ∀ z, z < spadKey id a ∨ spadKey id a + f.tile.length ≤ z → u.mem.byte z = s.mem.byte z) ∧
    (f.stale = none → f.tile.length ≤ 64 * (d.lines + 1) → d.valid = true → d.fill < d.count + 1 → leadsTo .tileForwardArrival s fun u =>
      (u.core id).forwards = [] ∧ ((u.core id).h[f.hoop]).fill = d.fill + 1) ∧
    (f.stale = none → f.tile.length ≤ 64 * (d.lines + 1) → d.valid = true → d.count + 1 ≤ d.fill → exec .tileForwardArrival s = .next s) ∧
    (f.stale = none → 64 * (d.lines + 1) < f.tile.length → leadsTo .tileForwardArrival s fun u => u.mem = s.mem ∧ (u.core id).forwards = [] ∧ (u.core id).h = (s.core id).h ∧
      (u.core id).causes = (s.core id).causes ++ [⟨0x08, 8 + 16 * f.hoop.val + (if coreY f.source = coreY id then 0 else 128), false⟩]) := by
  intro d
  have hexec := execTileForwardArrival_one hat hf htime
  have hcore := State.unforward_core hf
  refine ⟨fun a hs => ?stale, fun hs hlen hv hroom => ?pushed, fun hs hlen hv hroom => ?waits, fun hs hlen => ?unfit⟩
  case stale =>
    refine ⟨_, by rw [exec_tileForwardArrival, hexec, hs, State.takeForward_stale hs]; rfl, ?_, ?_, fun i hi => ?_, fun z hz => ?_⟩
    · rw [State.usePorts_forwards]
      exact congrArg Core.forwards hcore
    · rw [State.usePorts_h]
      exact (congrArg Core.h hcore :)
    · rw [State.usePorts_mem]
      exact s.mem.putTile_bytes _ f.tile [] hwf i hi
    · rw [State.usePorts_mem]
      exact s.mem.putTile_outside _ f.tile [] hwf hz
  case pushed =>
    obtain ⟨ports, tags, hpush⟩ := (s.unforward id f).core_pushTile id f.hoop f.tile [] f.shadows
    refine ⟨_, by rw [exec_tileForwardArrival, hexec, State.takeForward_fits hs (Hoop.fits_of_le hv hlen), Hoop.room_of_lt hroom, Bool.or_true, if_pos rfl], ?_, ?_⟩
    · rw [hpush, hcore]
    · rw [State.pushTile_hoop, hcore]
      rfl
  case waits =>
    rw [exec_tileForwardArrival, hexec, hs, Hoop.fits_of_le hv hlen, Hoop.room_of_le hroom]
    rfl
  case unfit =>
    have hunfit : d.fits f.tile.length = false := Hoop.fits_of_lt hlen
    refine ⟨_, by rw [exec_tileForwardArrival, hexec, hunfit, Bool.not_false, Bool.or_true, Bool.true_or, if_pos rfl], ?_⟩
    beta_reduce
    rw [State.takeForward_unfit hs hunfit, State.core_updCore_self, hcore]
    exact ⟨rfl, rfl, rfl, rfl⟩

/-- R214: a transposed tile is pushed once there is room. -/
theorem transposedTile {s : State} {id : Nat} {h : HReg} {tile : List Byte} {sh : List Nat} (hat : At s (.core id)) (ht : (s.core id).trans = some (h, tile, sh)) :
    ((s.core id).h[h].fill < (s.core id).h[h].count + 1 → leadsTo .transposePush s fun u => (u.core id).trans = none ∧ ((u.core id).h[h]).fill = ((s.core id).h[h]).fill + 1) ∧
    ((s.core id).h[h].count + 1 ≤ (s.core id).h[h].fill → exec .transposePush s = .next s) := by
  have hexec := execTransposePush_one hat ht
  refine ⟨fun hroom => ?_, fun hroom => ?_⟩
  · refine ⟨_, by rw [exec_transposePush, hexec, Hoop.room_of_lt hroom, if_pos rfl], ?_, ?_⟩
    · rw [State.core_unpost, State.core_updCore_self]
    · rw [State.core_unpost, State.core_updCore_self]
      exact congrArg Hoop.fill (s.pushTile_hoop id h tile [] sh)
  · rw [exec_transposePush, hexec, Hoop.room_of_le hroom]
    rfl

/-- Settles O38: one lemma for each kind of event, each from what a release or a push leaves. -/
theorem releasesAndTiles : Obligations.ReleasesAndTiles := by
  refine ⟨fun s id r hat hr ht hwf htime hc hports => releaseAdds hat hr ht hwf htime hc hports, fun s id e k h b hat hk hkind hhoop ht hwf => ?_,
    fun s id f hat hf htime hwf => forwardedTile hat hf htime hwf, fun s id h tile sh hat ht => transposedTile hat ht⟩
  obtain ⟨hfaulted, hwaits, hheld, hpushed, hcounted⟩ := commandTile hat hk hkind hhoop ht hwf
  refine ⟨hfaulted, hwaits, hheld, hpushed, fun w hf hh hfull hs hroom harr hbad hdisj => hcounted w hf hh hfull hs hroom harr hbad ?_⟩
  simp only [spadKey]
  omega

end Sys2Proof.Proofs
end

section
/-! Vectors as lists of elements: what a packed list holds, what a loop over elements computes, and with which modes (R31, R141 to R143). -/
namespace Sys2Proof.Machine

/-! ### Packed elements -/

/-- Element `j` of a packed list is that entry's low bits; beyond the list there are zeros. -/
theorem packElems_elem (w : Nat) (es : List Nat) (j : Nat) : packElems w es / 2 ^ (w * j) % 2 ^ w = es.getD j 0 % 2 ^ w := by
  induction es generalizing j with
  | nil => simp [packElems]
  | cons e es ih =>
    rw [packElems]
    cases j with
    | zero => simp
    | succ j =>
      have hdiv : (e % 2 ^ w + 2 ^ w * packElems w es) / 2 ^ w = packElems w es := by
        rw [Nat.add_mul_div_left _ _ (Nat.two_pow_pos w), Nat.div_eq_of_lt (Nat.mod_lt _ (Nat.two_pow_pos w)), Nat.zero_add]
      rw [Nat.mul_succ, Nat.add_comm (w * j) w, Nat.pow_add, ← Nat.div_div_eq_div_mul, hdiv, ih, List.getD_cons_succ]

theorem packElems_lt (w : Nat) (es : List Nat) : packElems w es < 2 ^ (w * es.length) := by
  induction es with
  | nil => simp [packElems]
  | cons e es ih =>
    rw [packElems, List.length_cons, Nat.mul_succ, Nat.add_comm (w * _) w, Nat.pow_add]
    calc e % 2 ^ w + 2 ^ w * packElems w es < 2 ^ w + 2 ^ w * packElems w es := Nat.add_lt_add_right (Nat.mod_lt _ (Nat.two_pow_pos w)) _
      _ = 2 ^ w * (packElems w es + 1) := by rw [Nat.mul_succ, Nat.add_comm]
      _ ≤ 2 ^ w * 2 ^ (w * es.length) := Nat.mul_le_mul_left _ ih

/-- The same of a packed list moved up by `d` elements. -/
theorem packElems_shifted_elem (w : Nat) (es : List Nat) (d j : Nat) :
    packElems w es * 2 ^ (w * d) / 2 ^ (w * (d + j)) % 2 ^ w = es.getD j 0 % 2 ^ w := by
  rw [Nat.mul_add, Nat.pow_add, ← Nat.div_div_eq_div_mul, Nat.mul_div_cancel _ (Nat.two_pow_pos _), packElems_elem]

/-- Bit `b` of element `j` of a packed list. -/
theorem testBit_packElems {w : Nat} (es : List Nat) (j : Nat) {b : Nat} (hb : b < w) : (packElems w es).testBit (w * j + b) = (es.getD j 0).testBit b := by
  have h := congrArg (fun n => n.testBit b) (packElems_elem w es j)
  simpa only [Nat.testBit_mod_two_pow, hb, decide_true, Bool.true_and, Nat.testBit_div_two_pow, Nat.add_comm b] using h

theorem elemAt_lt (w : Nat) (x : VWord) (j : Nat) : elemAt w x j < 2 ^ w := Nat.mod_lt _ (Nat.two_pow_pos w)

/-! ### The modes of a loop over elements -/

/-- The generators after the `n` elements from `i` on. -/
def loopGens (w : Nat) (act : Nat → Bool) (r : Rnd) (slot : Slot) : Nat → Nat → Gens → Gens
  | 0, _, g => g
  | n + 1, i, g => loopGens w act r slot n (i + 1) (if act i then (modeAt r g (laneGen slot w i)).2 else g)

/-- The mode in which a loop from element `i` on rounds element `e`. -/
def loopMode (w : Nat) (act : Nat → Bool) (r : Rnd) (slot : Slot) (i : Nat) (g : Gens) (e : Nat) : Mode :=
  (modeAt r (loopGens w act r slot (e - i) i g) (laneGen slot w e)).1

theorem modeAt_of_ne_sr {r : Rnd} (h : r ≠ .sr) (g g' : Gens) (n n' : Nat) : (modeAt r g n).1 = (modeAt r g' n').1 ∧ (modeAt r g n).2 = g := by
  cases r with
  | sr => exact absurd rfl h
  | dyn | rne | rtz | rdn | rup => exact ⟨rfl, rfl⟩

theorem loopGens_of_ne_sr {w : Nat} {act : Nat → Bool} {r : Rnd} {slot : Slot} (h : r ≠ .sr) (n i : Nat) (g : Gens) : loopGens w act r slot n i g = g := by
  induction n generalizing i g with
  | zero => rfl
  | succ n ih => rw [loopGens, ih, (modeAt_of_ne_sr h g g _ 0).2, ite_self]

theorem loopMode_of_ne_sr {w : Nat} {act : Nat → Bool} {r : Rnd} {slot : Slot} (h : r ≠ .sr) (i : Nat) (g : Gens) (e : Nat) :
    loopMode w act r slot i g e = (modeAt r g 0).1 := (modeAt_of_ne_sr h _ _ _ _).1

/-- A draw from one generator leaves the state of another. -/
theorem draw_draw_of_ne {g : Gens} {n m : Nat} (h : n % 129 ≠ m % 129) : (draw (draw g n).2 m).1 = (draw g m).1 := by
  have hne : (Fin.ofNat 129 n) ≠ Fin.ofNat 129 m := fun e => h (congrArg Fin.val e)
  have hval : (Fin.ofNat 129 n).val ≠ (Fin.ofNat 129 m).val := fun e => hne (Fin.ext e)
  simp only [draw, Fin.getElem_fin]
  rw [Vector.getElem_set_ne _ _ hval]

/-- The elements of width 32 draw each from a generator of its own lane, so what one draws is not moved by the others. -/
theorem draw_loopGens {act : Nat → Bool} {slot : Slot} {n i m : Nat} (h : ∀ j, i ≤ j → j < i + n → (genBase slot + j) % 129 ≠ m % 129) (g : Gens) :
    (draw (loopGens 32 act .sr slot n i g) m).1 = (draw g m).1 := by
  induction n generalizing i g with
  | zero => rfl
  | succ n ih =>
    rw [loopGens, ih fun j h1 h2 => h j (by omega) (by omega)]
    split
    · have hl : laneGen slot 32 i = genBase slot + i := by rw [laneGen, Nat.mul_div_cancel _ (by decide)]
      rw [hl]
      exact draw_draw_of_ne (h i (Nat.le_refl i) (by omega))
    · rfl

theorem loopMode_sr {act : Nat → Bool} {slot : Slot} {i e : Nat} (h : e - i < 129) (g : Gens) :
    loopMode 32 act .sr slot i g e = .sr (draw g (genBase slot + e)).1 := by
  have hl : laneGen slot 32 e = genBase slot + e := by rw [laneGen, Nat.mul_div_cancel _ (by decide)]
  have hd : (draw (loopGens 32 act .sr slot (e - i) i g) (genBase slot + e)).1 = (draw g (genBase slot + e)).1 :=
    draw_loopGens (fun j h1 h2 => by omega) g
  rw [loopMode, hl, ← hd]
  rfl

/-- R31, R143: a 32-bit element takes the next draw of its own lane's generator. -/
theorem loopMode_draws {w : Nat} {r : Rnd} (act : Nat → Bool) (slot : Slot) (i : Nat) (g : Gens) (hr : r = .sr) (hw : w = 32) (j : Nat) (hj : j < 64) :
    loopMode w act r slot i g j = .sr (draw g (genBase slot + j)).1 := by
  subst hr hw
  exact loopMode_sr (by omega) g

/-! ### What a loop over elements computes -/

section
variable (w : Nat) (act : Nat → Bool) (zm : Bool) (r : Rnd) (slot : Slot) (f : Nat → Mode → Res)

/-- One step of the loop: element `i`, then the rest with the generators it leaves. -/
theorem elemLoop_succ (n i : Nat) (g : Gens) : elemLoop w act zm r slot f (n + 1) i g =
    let m := modeAt r g (laneGen slot w i)
    let e := elemLoop w act zm r slot f n (i + 1) (if act i then m.2 else g)
    ⟨(if act i then (f i m.1).1 else 0) :: e.vals, (if act i || zm then 2 ^ w - 1 else 0) :: e.msks, (if act i then (f i m.1).2 else 0) ||| e.flags, e.gens⟩ := by
  cases h : act i <;> simp [elemLoop, h]

theorem loopMode_succ (i j : Nat) (g : Gens) :
    loopMode w act r slot i g (i + (j + 1)) = loopMode w act r slot (i + 1) (if act i then (modeAt r g (laneGen slot w i)).2 else g) (i + 1 + j) := by
  have h : i + (j + 1) = i + 1 + j := by omega
  rw [loopMode, Nat.add_sub_cancel_left, loopGens, loopMode, Nat.add_sub_cancel_left, h]

theorem elemLoop_gens (n i : Nat) (g : Gens) : (elemLoop w act zm r slot f n i g).gens = loopGens w act r slot n i g := by
  induction n generalizing i g with
  | zero => rfl
  | succ n ih => rw [elemLoop_succ, loopGens, ← ih]

theorem elemLoop_vals (n i : Nat) (g : Gens) {j : Nat} (hj : j < n) :
    (elemLoop w act zm r slot f n i g).vals.getD j 0 = if act (i + j) then (f (i + j) (loopMode w act r slot i g (i + j))).1 else 0 := by
  induction n generalizing i g j with
  | zero => omega
  | succ n ih =>
    rw [elemLoop_succ]
    cases j with
    | zero => simp [loopMode, loopGens]
    | succ j =>
      have hadd : i + (j + 1) = i + 1 + j := by omega
      rw [List.getD_cons_succ, ih _ _ (Nat.lt_of_succ_lt_succ hj), loopMode_succ, hadd]

theorem elemLoop_msks (n i : Nat) (g : Gens) {j : Nat} (hj : j < n) :
    (elemLoop w act zm r slot f n i g).msks.getD j 0 = if act (i + j) || zm then 2 ^ w - 1 else 0 := by
  induction n generalizing i g j with
  | zero => omega
  | succ n ih =>
    rw [elemLoop_succ]
    cases j with
    | zero => rfl
    | succ j =>
      have hadd : i + (j + 1) = i + 1 + j := by omega
      rw [List.getD_cons_succ, ih _ _ (Nat.lt_of_succ_lt_succ hj), hadd]

theorem elemLoop_flags (hf : ∀ i md, (f i md).2 = 0) (n i : Nat) (g : Gens) : (elemLoop w act zm r slot f n i g).flags = 0 := by
  induction n generalizing i g with
  | zero => rfl
  | succ n ih => rw [elemLoop_succ]; simp [ih, hf]

/-! ### The result of a loop over elements in flight -/

variable (d : VReg) (lat n i : Nat) (g : Gens) {j : Nat} (hj : j < n)
include hj

theorem landElems_mask : (landElems d lat w i (elemLoop w act zm r slot f n i g)).mask / 2 ^ (w * (i + j)) % 2 ^ w = if act (i + j) || zm then 2 ^ w - 1 else 0 := by
  rw [landElems, packElems_shifted_elem, elemLoop_msks w act zm r slot f n i g hj]
  split
  · exact Nat.mod_eq_of_lt (Nat.sub_lt (Nat.two_pow_pos w) Nat.one_pos)
  · exact Nat.zero_mod _
theorem landElems_val : (landElems d lat w i (elemLoop w act zm r slot f n i g)).val / 2 ^ (w * (i + j)) % 2 ^ w =
    if act (i + j) then (f (i + j) (loopMode w act r slot i g (i + j))).1 % 2 ^ w else 0 := by
  rw [landElems, packElems_shifted_elem, elemLoop_vals w act zm r slot f n i g hj, apply_ite (· % 2 ^ w), Nat.zero_mod]

/-- What a loop from element 0 writes: the active elements, and under `zm` zeros for the others. -/
theorem landElems_written :
    let l := landElems d lat w 0 (elemLoop w act zm r slot f n 0 g)
    if act j = true then l.mask / 2 ^ (w * j) % 2 ^ w = 2 ^ w - 1 ∧ l.val / 2 ^ (w * j) % 2 ^ w = (f j (loopMode w act r slot 0 g j)).1 % 2 ^ w
    else l.mask / 2 ^ (w * j) % 2 ^ w = (if zm then 2 ^ w - 1 else 0) ∧ l.val / 2 ^ (w * j) % 2 ^ w = 0 := by
  intro l
  have hm := landElems_mask w act zm r slot f d lat n 0 g hj
  have hv := landElems_val w act zm r slot f d lat n 0 g hj
  rw [Nat.zero_add] at hm hv
  rw [show l.mask / 2 ^ (w * j) % 2 ^ w = _ from hm, show l.val / 2 ^ (w * j) % 2 ^ w = _ from hv]
  cases act j with
  | true => exact ⟨rfl, rfl⟩
  | false => exact ⟨rfl, rfl⟩

end

end Sys2Proof.Machine
end

section
/-! Vector operations that issue: the shared forms of their plans (R141 to R146). -/
namespace Sys2Proof.Machine

/-! ### One result, and the draws made for it -/

theorem Land.flight_eq_inFlight {l : Land} (h : l.pend = 0) (c : Core) (k : Slot) : l.flight c k = Claims.inFlight c k l.dest l.lat l.val l.flags l.mask l.latch := by
  simp [Land.flight, Claims.inFlight, h]

section
variable {s : State} {id : Nat} {k : Slot} {srcs : List (Nat × Src)} {body : View → Plan} (hi : Claims.Issuing s id k) (hu : Claims.Unbound s id)
include hi hu

/-- An operation that computes one result, and draws or does not. -/
theorem primOp_land {l : Land} {g : Option Gens} (hl : l.pend = 0) (hq : (body (viewOf s id k)).effects = { lands := [l], gens := g }) :
    let c := s.core id
    primOp srcs body s = .next (s.setCore id { c with flights := c.flights ++ [Claims.inFlight c k l.dest l.lat l.val l.flags l.mask l.latch], gens := g.getD c.gens }) := by
  rw [primOp_effects hi hu hq rfl fun _ => rfl]
  simp only [List.map_cons, List.map_nil, Land.flight_eq_inFlight hl, List.append_nil, List.foldl_nil]

end

/-! ### Elements under a mask -/

/-- The result of an element-wise operation: a loop from element 0 under a mask, with the generators of the core. -/
def Core.laneLoop (c : Core) (k : Slot) (w : Nat) (dm : DMask) (r : Rnd) (f : Nat → Mode → Res) : Elems :=
  elemLoop w (c.active (dmReg dm) w) (dmZero dm) r k f (2048 / w) 0 c.gens
def Core.laneMode (c : Core) (k : Slot) (w : Nat) (dm : DMask) (r : Rnd) : Nat → Mode := loopMode w (c.active (dmReg dm) w) r k 0 c.gens

section
variable (c : Core) (k : Slot) (w : Nat) (dm : DMask) {r : Rnd}

theorem Core.laneLoop_gens_of_ne_sr (h : r ≠ .sr) (f : Nat → Mode → Res) : (c.laneLoop k w dm r f).gens = c.gens := by
  rw [Core.laneLoop, elemLoop_gens, loopGens_of_ne_sr h]
theorem Core.laneMode_of_ne_sr (h : r ≠ .sr) (j : Nat) : c.laneMode k w dm r j = (modeAt r c.gens 0).1 := loopMode_of_ne_sr h ..

end

section
variable {s : State} {id : Nat} {k : Slot} {srcs : List (Nat × Src)} {body : View → Plan} {d : VReg} {w lat : Nat} {dm : DMask}

/-- What an element-wise result writes: the active elements, and under ZM zeros for the others. -/
theorem Core.laneLoop_written (c : Core) (r : Rnd) (f : Nat → Mode → Res) {j : Nat} (hj : j < 2048 / w) :
    let l := landElems d lat w 0 (c.laneLoop k w dm r f)
    if c.active (dmReg dm) w j = true then l.mask / 2 ^ (w * j) % 2 ^ w = 2 ^ w - 1 ∧ l.val / 2 ^ (w * j) % 2 ^ w = (f j (c.laneMode k w dm r j)).1 % 2 ^ w
    else l.mask / 2 ^ (w * j) % 2 ^ w = (if dmZero dm then 2 ^ w - 1 else 0) ∧ l.val / 2 ^ (w * j) % 2 ^ w = 0 :=
  landElems_written w (c.active (dmReg dm) w) (dmZero dm) r k f d lat (2048 / w) c.gens hj

variable (hi : Claims.Issuing s id k) (hu : Claims.Unbound s id)
include hi hu

/-- R143: a rounded element-wise operation. -/
theorem primOp_elemPlan {r : Rnd} {f : Nat → Mode → Res} (hb : body (viewOf s id k) = (viewOf s id k).elemPlan d w lat dm r f) :
    let c := s.core id
    let e := c.laneLoop k w dm r f
    let l := landElems d lat w 0 e
    primOp srcs body s = .next (s.setCore id { c with flights := c.flights ++ [Claims.inFlight c k (.v d) lat l.val l.flags l.mask], gens := e.gens }) :=
  primOp_land hi hu (body := body) (l := landElems d lat w 0 ((s.core id).laneLoop k w dm r f)) (g := some ((s.core id).laneLoop k w dm r f).gens) rfl
    (by rw [hb]; rfl)

/-- An element-wise operation that neither rounds nor draws: no generator moves. -/
theorem primOp_plainPlan {f : Nat → Res} (hb : body (viewOf s id k) = (viewOf s id k).plainPlan d w lat dm f) :
    let c := s.core id
    let l := landElems d lat w 0 (c.laneLoop k w dm .rne fun i _ => f i)
    primOp srcs body s = .next (s.setCore id { c with flights := c.flights ++ [Claims.inFlight c k (.v d) lat l.val l.flags l.mask] }) := by
  intro c l
  rw [primOp_elemPlan hi hu hb, c.laneLoop_gens_of_ne_sr k w dm (by decide)]

/-- The same by elements: `g j` is what active element `j` is written. -/
theorem plainPlan_elements {f : Nat → Res} {g : Nat → Nat} (hb : body (viewOf s id k) = (viewOf s id k).plainPlan d w lat dm f)
    (hg : ∀ j, (f j).1 % 2 ^ w = g j) :
    let c := s.core id
    ∃ val mask fl, primOp srcs body s = .next (s.setCore id { c with flights := c.flights ++ [Claims.inFlight c k (.v d) lat val fl mask] }) ∧
      ((∀ j, (f j).2 = 0) → fl = 0) ∧
      ∀ j, j < 2048 / w → if c.active (dmReg dm) w j = true then mask / 2 ^ (w * j) % 2 ^ w = 2 ^ w - 1 ∧ val / 2 ^ (w * j) % 2 ^ w = g j
        else mask / 2 ^ (w * j) % 2 ^ w = (if dmZero dm then 2 ^ w - 1 else 0) ∧ val / 2 ^ (w * j) % 2 ^ w = 0 := by
  intro c
  refine ⟨_, _, _, primOp_plainPlan hi hu hb, fun hf => elemLoop_flags w _ _ _ _ _ (fun i _ => hf i) .., fun j hj => ?_⟩
  have h := c.laneLoop_written (k := k) (d := d) (lat := lat) (dm := dm) .rne (fun i _ => f i) hj
  simpa only [hg] using h

end

/-! ### Integers of an element -/

theorem wrapNat_lt (w : Nat) (x : Int) : wrapNat w x < 2 ^ w := by
  have h := Int.emod_lt_of_pos x (Int.natCast_pos.mpr (Nat.two_pow_pos w))
  have h0 := Int.emod_nonneg x (Int.natCast_ne_zero.mpr (Nat.two_pow_pos w).ne')
  unfold wrapNat
  omega

/-- R18: the wrapped integer, of the saturated one where SAT is 1. -/
theorem intRes_val (w : Nat) (sg sat : Bool) (x : Int) :
    (intRes w sg sat x).1 = wrapNat w (if sat then max (intMin sg w) (min (intMax sg w) x) else x) := by
  cases sat with
  | false => rfl
  | true =>
    simp only [intRes, narrow, clampInt, if_true]
    split
    · rfl
    · next h => rw [show max (intMin sg w) (min (intMax sg w) x) = x by omega]

end Sys2Proof.Machine
end

section
/-! Integer and bitwise vector operations (R141 to R145). -/
namespace Sys2Proof.Machine

/-- The saturated magnitude of R145: only its upper bound can be met. -/
theorem absRes_val (w : Nat) (sat : Bool) (x : Int) :
    (intRes w true sat (x.natAbs : Int)).1 = wrapNat w (let a := if x < 0 then -x else x; if sat then min a (2 ^ (w - 1) - 1) else a) := by
  have habs : (x.natAbs : Int) = if x < 0 then -x else x := by split <;> omega
  rw [intRes_val, habs]
  cases sat with
  | false => rfl
  | true =>
    have hmin : intMin true w = -2 ^ (w - 1) := by simp [intMin]
    have hmax : intMax true w = 2 ^ (w - 1) - 1 := by simp [intMax]
    have hpos : (0 : Int) < 2 ^ (w - 1) := by positivity
    simp only [hmin, hmax, if_true]
    congr 1
    split <;> omega

/-- A shift by a register's elements, and one by an immediate (R145). -/
theorem vecShift_reg (t : ElemW) (f : Nat → Nat → Nat) (d : VReg) (b c : VSrc) : vecShift t f d b (.reg c) = primOp [(1, .v b), (2, .v c)] fun v =>
    v.plainPlan d (elemBits t) 2 none fun i => (f (elemAt (elemBits t) (v.v 1 b) i) (elemAt (elemBits t) (v.v 2 c) i % elemBits t), 0) := rfl
theorem vecShift_imm (t : ElemW) (f : Nat → Nat → Nat) (d : VReg) (b : VSrc) (n : BitVec 16) (dm : DMask) : vecShift t f d b (.imm n dm) = primOp [(1, .v b)] fun v =>
    v.plainPlan d (elemBits t) 2 dm fun i => (f (elemAt (elemBits t) (v.v 1 b) i) (n.toNat % elemBits t), 0) := rfl

end Sys2Proof.Machine

namespace Sys2Proof.Proofs
open Sys2Proof Sys2Proof.Machine Sys2Proof.Claims

theorem vectorIntegerElements : Claims.VectorIntegerElements := by
  intro s id k hi hu t d b c xv dm co w el gives
  have vec {i : Instr} {k' : DMask} {f : Int → Int → Res} {g : Int → Int → Int} {sat : Bool} (hx : exec i s = vecInt t k' f d b c s)
      (hg : ∀ x y, (f x y).1 = wrapNat w (if sat then max (intMin (itySigned t) w) (min (intMax (itySigned t) w) (g x y)) else g x y)) : gives i k' g sat := by
    obtain ⟨val, mask, fl, he, -, hel⟩ := plainPlan_elements hi hu (srcs := [(1, .v b), (2, .v c)]) (d := d) (w := w) (lat := 2) (dm := k')
      (body := fun v => v.plainPlan d w 2 k' fun i => f (elemInt t (v.v 1 b) i) (elemInt t (v.v 2 c) i))
      (f := fun j => f (el b j) (el c j)) (by rw [View.v_live, View.v_live]) fun j => by rw [hg, Nat.mod_eq_of_lt (wrapNat_lt w _)]
    refine ⟨val, mask, fl, hx.trans he, fun j hj => ?_⟩
    have h := hel j hj
    split at h
    next ha => rwa [if_pos ha]
    next ha =>
      rw [if_neg ha]
      split
      next hz => simpa only [hz, if_true] using h
      next hz => simpa only [hz, Bool.false_eq_true, if_false] using h.1
  have arith {i : Instr} {k' : DMask} {g : Int → Int → Int} (hx : exec i s = vecInt t k' (fun x y => intRes w (itySigned t) (ixSat xv) (g x y)) d b c s) :
      gives i k' g (ixSat xv) := vec hx fun _ _ => intRes_val ..
  have wrapped {i : Instr} {k' : DMask} {g : Int → Int → Int} (hx : exec i s = vecInt t k' (fun x y => (wrapNat w (g x y), 0)) d b c s) : gives i k' g false :=
    vec hx fun _ _ => rfl
  refine ⟨arith (exec_vadd s t d b c xv), arith (exec_vsub s t d b c xv), arith (exec_vmul s t d b c xv),
    wrapped (i := .vmulh t d b c dm) (k' := dm) (g := fun x y => x * y / 2 ^ w) ?mulh, wrapped (exec_vmin s t d b c dm), wrapped (exec_vmax s t d b c dm)⟩
  case mulh =>
    rw [exec_vmulh, execVmulh]
    simp only [Nat.cast_pow, Nat.cast_ofNat, w]

theorem vectorBitElements : Claims.VectorBitElements := by
  intro s id k hi hu t d b c xv dm n co w el gives sar abs
  have plain {i : Instr} {srcs : List (Nat × Src)} {body : View → Plan} {k' : DMask} {f : Nat → Res} {g : Nat → Nat} (hx : exec i s = primOp srcs body s)
      (hb : body (viewOf s id k) = (viewOf s id k).plainPlan d w 2 k' f) (hg : ∀ j, (f j).1 % 2 ^ w = g j) : gives i k' g := by
    obtain ⟨val, mask, fl, he, -, hel⟩ := plainPlan_elements hi hu (srcs := srcs) hb hg
    exact ⟨val, mask, fl, hx.trans he, hel⟩
  have two {i : Instr} {k' : DMask} {f : Nat → Nat → Nat} (hx : exec i s = vecBits t k' f d b c s) (hf : ∀ x y, x < 2 ^ w → y < 2 ^ w → f x y < 2 ^ w) :
      gives i k' fun j => f (el b j) (el c j) :=
    plain hx (f := fun j => (f (el b j) (el c j), 0)) (by simp only [View.v_live]; rfl) fun j => Nat.mod_eq_of_lt (hf _ _ (elemAt_lt ..) (elemAt_lt ..))
  have byReg {i : Instr} {f : Nat → Nat → Nat} (hx : exec i s = vecShift t f d b (.reg c) s) (hf : ∀ x n, x < 2 ^ w → f x n < 2 ^ w) :
      gives i none fun j => f (el b j) (el c j % w) :=
    plain (hx.trans (congrFun (vecShift_reg t f d b c) s)) (f := fun j => (f (el b j) (el c j % w), 0)) (by simp only [View.v_live]; rfl) fun j => Nat.mod_eq_of_lt (hf _ _ (elemAt_lt ..))
  have byImm {i : Instr} {f : Nat → Nat → Nat} (hx : exec i s = vecShift t f d b (.imm n dm) s) (hf : ∀ x n, x < 2 ^ w → f x n < 2 ^ w) :
      gives i dm fun j => f (el b j) (n.toNat % w) :=
    plain (hx.trans (congrFun (vecShift_imm t f d b n dm) s)) (f := fun j => (f (el b j) (n.toNat % w), 0)) (by simp only [View.v_live]; rfl) fun j => Nat.mod_eq_of_lt (hf _ _ (elemAt_lt ..))
  have shl (x n : Nat) (_ : x < 2 ^ w) : x * 2 ^ n % 2 ^ w < 2 ^ w := Nat.mod_lt _ (Nat.two_pow_pos w)
  have shr (x n : Nat) (h : x < 2 ^ w) : x / 2 ^ n < 2 ^ w := (Nat.div_le_self _ _).trans_lt h
  have sarLt (x n : Nat) (_ : x < 2 ^ w) : sar x n < 2 ^ w := wrapNat_lt w _
  have hsar : (fun p n => wrapNat w (sextNat w p / ((2 ^ n : Nat) : Int))) = sar := by funext p n; simp only [sar, Nat.cast_pow, Nat.cast_ofNat]
  refine ⟨two rfl fun x y hx _ => Nat.and_le_left.trans_lt hx, two rfl fun x y => Nat.or_lt_two_pow, two rfl fun x y => Nat.xor_lt_two_pow,
    byReg rfl shl, byReg rfl shr, byReg (hsar ▸ exec_vsar s ..) sarLt, byImm rfl shl, byImm rfl shr,
    byImm (hsar ▸ exec_vsar s ..) sarLt, ?abs⟩
  case abs =>
    refine plain (exec_vabs s ..) (f := fun j => intRes w true (ixSat xv) (((sextNat w (el b j)).natAbs : Nat) : Int)) (by simp only [View.v_live]; rfl) fun j => ?_
    rw [absRes_val, Nat.mod_eq_of_lt (wrapNat_lt w _)]

/-- Settles O11: each operation is element-wise, with an element function that gives the rule's integer or pattern. -/
theorem vectorIntegerResults : Obligations.VectorIntegerResults := ⟨vectorIntegerElements, vectorBitElements⟩

end Sys2Proof.Proofs
end

section
/-! Results rounded element by element, and mask results (R31, R143, R146). -/
namespace Sys2Proof.Machine

/-- R143: a rounded element-wise operation by elements: `g md j` is what active element `j` is written when it is rounded in mode `md`. -/
theorem elemPlan_elements {s : State} {id : Nat} {k : Slot} {srcs : List (Nat × Src)} {body : View → Plan} {d : VReg} {w lat : Nat} {dm : DMask} {r : Rnd}
    {g : Mode → Nat → Res} (hi : Claims.Issuing s id k) (hu : Claims.Unbound s id)
    (hb : body (viewOf s id k) = (viewOf s id k).elemPlan d w lat dm r fun j md => g md j) :
    let c := s.core id
    ∃ val mask fl gens, ∃ md : Nat → Mode,
      primOp srcs body s = .next (s.setCore id { c with flights := c.flights ++ [Claims.inFlight c k (.v d) lat val fl mask], gens }) ∧
      (r ≠ .sr → gens = c.gens ∧ ∀ j, md j = (modeAt r c.gens 0).1) ∧
      (r = .sr → w = 32 → ∀ j, j < 64 → md j = .sr (draw c.gens (genBase k + j)).1) ∧
      ∀ j, j < 2048 / w → if c.active (dmReg dm) w j = true then mask / 2 ^ (w * j) % 2 ^ w = 2 ^ w - 1 ∧ val / 2 ^ (w * j) % 2 ^ w = (g (md j) j).1 % 2 ^ w
        else mask / 2 ^ (w * j) % 2 ^ w = (if dmZero dm then 2 ^ w - 1 else 0) ∧ val / 2 ^ (w * j) % 2 ^ w = 0 := by
  intro c
  refine ⟨_, _, _, _, c.laneMode k w dm r, primOp_elemPlan hi hu hb, fun h => ⟨c.laneLoop_gens_of_ne_sr k w dm h _, c.laneMode_of_ne_sr k w dm h⟩,
    loopMode_draws _ k 0 c.gens, fun j hj => c.laneLoop_written r (fun j md => g md j) hj⟩

/-! ### Mask bits (R146) -/

/-- A loop whose every element gives `w` equal bits writes those bits of its active elements, and under `zm` zeros for the others. -/
theorem elemLoop_bits {w n e b : Nat} {act : Nat → Bool} {zm : Bool} {r : Rnd} {slot : Slot} {f : Nat → Mode → Res} {F : Nat → Bool} (g : Gens)
    (hF : ∀ e md b, b < w → (f e md).1.testBit b = F e) (he : e < n) (hb : b < w) :
    let l := elemLoop w act zm r slot f n 0 g
    if act e = true then (packElems w l.msks).testBit (w * e + b) = true ∧ (packElems w l.vals).testBit (w * e + b) = F e
    else (packElems w l.msks).testBit (w * e + b) = zm ∧ (packElems w l.vals).testBit (w * e + b) = false := by
  intro l
  rw [testBit_packElems _ _ hb, testBit_packElems _ _ hb, elemLoop_msks w act zm r slot f n 0 g he, elemLoop_vals w act zm r slot f n 0 g he, Nat.zero_add]
  cases act e with
  | true => exact ⟨by simp [hb], hF e _ b hb⟩
  | false =>
    refine ⟨?_, by simp⟩
    cases zm with
    | true => simp [hb]
    | false => simp

/-- The first element that mask bit `j` stands for. -/
def firstElem (w j : Nat) : Nat := if w = 32 then j / 2 else if w = 16 then j else 2 * j

theorem testBit_boolNat {p : Bool} {b : Nat} (hb : b < 1) : p.toNat.testBit b = p := by
  obtain rfl := Nat.lt_one_iff.mp hb
  cases p <;> rfl
theorem testBit_bothBits {p : Bool} {b : Nat} (hb : b < 2) : (if p then 3 else 0 : Nat).testBit b = p := by
  cases p with
  | true => exact Nat.testBit_two_pow_sub_one 2 b ▸ decide_eq_true hb
  | false => exact Nat.zero_testBit b

/-- What a mask result writes: the bits of the active elements, and under ZM zeros for the others. -/
theorem maskPlan_bits (v : View) (d : MReg) {w : Nat} (lat : Nat) (dm : DMask) (f : Nat → Bool × Flags) (hw : w = 8 ∨ w = 16 ∨ w = 32) :
    ∃ val mask fl, v.maskPlan d w lat dm f = { lands := [landM d lat val mask fl] } ∧ ((∀ i, (f i).2 = 0) → fl = 0) ∧
      ∀ j, j < 128 → if v.c.active (dmReg dm) w (firstElem w j) = true then
          mask.testBit j = true ∧ val.testBit j = ((f (firstElem w j)).1 && (w != 8 || (f (2 * j + 1)).1))
        else mask.testBit j = dmZero dm ∧ val.testBit j = false := by
  rcases hw with rfl | rfl | rfl
  case inl =>
    refine ⟨_, _, _, rfl, fun hf => elemLoop_flags 1 _ _ _ _ _ (fun i _ => by simp [hf]) .., fun j hj => ?_⟩
    have h := elemLoop_bits (w := 1) (act := fun j => v.c.active (dmReg dm) 8 (2 * j)) (zm := dmZero dm) (r := .rne) (slot := v.slot)
      (f := fun j _ => (((f (2 * j)).1 && (f (2 * j + 1)).1).toNat, (f (2 * j)).2 ||| (f (2 * j + 1)).2)) v.c.gens
      (fun e _ b hb => testBit_boolNat hb) hj Nat.one_pos
    simpa [firstElem] using h
  case inr.inl =>
    refine ⟨_, _, _, rfl, fun hf => elemLoop_flags 1 _ _ _ _ _ (fun i _ => hf i) .., fun j hj => ?_⟩
    have h := elemLoop_bits (w := 1) (act := v.c.active (dmReg dm) 16) (zm := dmZero dm) (r := .rne) (slot := v.slot) (f := fun i _ => ((f i).1.toNat, (f i).2)) v.c.gens
      (fun e _ b hb => testBit_boolNat hb) hj Nat.one_pos
    simpa [firstElem] using h
  case inr.inr =>
    refine ⟨_, _, _, rfl, fun hf => elemLoop_flags 2 _ _ _ _ _ (fun i _ => hf i) .., fun j hj => ?_⟩
    have h := elemLoop_bits (w := 2) (act := v.c.active (dmReg dm) 32) (zm := dmZero dm) (r := .rne) (slot := v.slot) (f := fun i _ => (if (f i).1 then 3 else 0, (f i).2)) v.c.gens
      (fun e _ b hb => testBit_bothBits hb) (show j / 2 < 64 by omega) (Nat.mod_lt j Nat.two_pos)
    simpa [firstElem, Nat.div_add_mod] using h

/-- R146: a mask result by its bits. -/
theorem maskPlan_elements {s : State} {id : Nat} {k : Slot} {srcs : List (Nat × Src)} {body : View → Plan} {d : MReg} {w lat : Nat} {dm : DMask}
    {f : Nat → Bool × Flags} (hi : Claims.Issuing s id k) (hu : Claims.Unbound s id) (hw : w = 8 ∨ w = 16 ∨ w = 32)
    (hb : body (viewOf s id k) = (viewOf s id k).maskPlan d w lat dm f) :
    let c := s.core id
    ∃ val mask fl, primOp srcs body s = .next (s.setCore id { c with flights := c.flights ++ [Claims.inFlight c k (.m d) lat val fl mask] }) ∧
      ((∀ i, (f i).2 = 0) → fl = 0) ∧
      ∀ j, j < 128 → if c.active (dmReg dm) w (firstElem w j) = true then
          mask.testBit j = true ∧ val.testBit j = ((f (firstElem w j)).1 && (w != 8 || (f (2 * j + 1)).1))
        else mask.testBit j = dmZero dm ∧ val.testBit j = false := by
  intro c
  obtain ⟨val, mask, fl, hp, hfl, hbits⟩ := maskPlan_bits (viewOf s id k) d lat dm f hw
  exact ⟨val, mask, fl, primOp_land hi hu (g := none) (l := landM d lat val mask fl) rfl (by rw [hb, hp]; rfl), hfl, hbits⟩

theorem elemBits_cases (t : ElemW) : elemBits t = 8 ∨ elemBits t = 16 ∨ elemBits t = 32 := by cases t <;> decide
theorem ftyW_cases (t : FTy) : ftyW t = 8 ∨ ftyW t = 16 ∨ ftyW t = 32 := by cases t <;> decide

end Sys2Proof.Machine

namespace Sys2Proof.Proofs
open Sys2Proof Sys2Proof.Machine Sys2Proof.Claims

theorem vectorFloatElements : Claims.VectorFloatElements := by
  intro s id k hi hu t d b c xv dm co w f el gives r
  have lane {i : Instr} {srcs : List (Nat × Src)} {body : View → Plan} {lat : Nat} {k' : DMask} {r' : Rnd} {g : Mode → Nat → Res} (hx : exec i s = primOp srcs body s)
      (hb : body (viewOf s id k) = (viewOf s id k).elemPlan d w lat k' r' fun j md => g md j) : gives i lat k' r' g := by
    have h := elemPlan_elements (srcs := srcs) hi hu hb
    rwa [← hx] at h
  have two {i : Instr} {op : FFmt → Bool → Mode → Nat → Nat → Res} (hx : exec i s = vecFlt t xv op d b c s) :
      gives i 4 (fxMask xv) r fun md j => op f co.ftz md (el b j) (el c j) := lane hx (by simp only [View.v_live]; rfl)
  have least {i : Instr} {max : Bool} (hx : exec i s = vecMinMax t dm max d b c s) : gives i 4 dm .rne fun _ j => f.minmax co.ftz max (el b j) (el c j) :=
    lane hx (by simp only [View.v_live]; rfl)
  have one {i : Instr} {u : UFun} (hx : exec i s = vecUnary t xv u d b s) : gives i 6 (fxMask xv) r fun md j => f.unary co.ftz md u (el b j) :=
    lane hx (by simp only [View.v_live]; rfl)
  refine ⟨two (exec_vfadd s t d b c xv), two (exec_vfsub s t d b c xv), two (exec_vfmul s t d b c xv), ?fma, least (exec_vfmin s t d b c dm),
    least (exec_vfmax s t d b c dm), one (exec_vfrcp s t d b xv), one (exec_vfrsq s t d b xv), one (exec_vfexp2 s t d b xv), one (exec_vflog2 s t d b xv)⟩
  case fma => exact lane (exec_vffma s t d b c xv) (by simp only [View.v_live]; rfl)

theorem vectorCompareMasks : Claims.VectorCompareMasks := by
  intro s id k hi hu t ft d b c xv fx co first gives w p
  have mask {i : Instr} {srcs : List (Nat × Src)} {body : View → Plan} {lat w' : Nat} {k' : DMask} {f : Nat → Bool × Flags} (hw : w' = 8 ∨ w' = 16 ∨ w' = 32)
      (hx : exec i s = primOp srcs body s) (hb : body (viewOf s id k) = (viewOf s id k).maskPlan d w' lat k' f) : gives i lat w' k' fun j => (f j).1 := by
    obtain ⟨val, msk, fl, he, -, hbits⟩ := maskPlan_elements (srcs := srcs) hi hu hw hb
    exact ⟨val, msk, fl, hx.trans he, hbits⟩
  refine ⟨?int, ?flt⟩
  case int =>
    exact mask (f := fun i => (condHolds xv.cc (sextNat w (p b i)) (sextNat w (p c i)) (p b i) (p c i), 0)) (elemBits_cases t) (exec_vcmp s t d b c xv)
      (by simp only [View.v_live]; rfl)
  case flt =>
    exact mask (f := fun i => (ftyFmt ft).fcmp co.ftz fx.cc (elemAt (ftyW ft) (co.vv b) i) (elemAt (ftyW ft) (co.vv c) i)) (ftyW_cases ft)
      (exec_vfcmp s ft d b c fx) (by simp only [View.v_live]; rfl)

/-- Settles O12: each operation is element-wise, rounded in its lane's mode; each compare is a mask result. -/
theorem vectorFloatResults : Obligations.VectorFloatResults := ⟨vectorFloatElements, vectorCompareMasks⟩

end Sys2Proof.Proofs
end

section
/-! Moves between and within vectors, and bitmaps (R147, R161, R162, R168). -/
namespace Sys2Proof.Machine

/-! ### Shuffles and slides (R162) -/

/-- Table 5.10: the element a shuffle takes, by the register it lies in. -/
theorem shufElem_eq (co : Core) (sel : ShufSel) (w n : Nat) (b c : VSrc) (j : Nat) :
    elemAt w (if (shufIdx sel n j).1 then co.vv c else co.vv b) (shufIdx sel n j).2 = match sel with
      | .ziplo => elemAt w (co.vv (if j % 2 = 1 then c else b)) (j / 2)
      | .ziphi => elemAt w (co.vv (if j % 2 = 1 then c else b)) (n / 2 + j / 2)
      | .even => if j < n / 2 then elemAt w (co.vv b) (2 * j) else elemAt w (co.vv c) (2 * j - n)
      | .odd => if j < n / 2 then elemAt w (co.vv b) (2 * j + 1) else elemAt w (co.vv c) (2 * j + 1 - n) := by
  cases sel with
  | ziplo | ziphi => simp only [shufIdx, beq_iff_eq, apply_ite co.vv]
  | even | odd =>
    simp only [shufIdx]
    split
    · rfl
    · rfl

theorem slideElem_lt (w : Nat) (rot : Bool) (x : VWord) (k : Int) (i : Nat) : slideElem w rot x k i < 2 ^ w := by
  unfold slideElem
  dsimp only
  split_ifs
  · exact elemAt_lt ..
  · exact elemAt_lt ..
  · exact Nat.two_pow_pos w

theorem execVslide_reg (t : ElemW) (d : VReg) (b : VSrc) (a : VSSrc) : execVslide t d b (.reg a) = primOp [(1, .v b), (2, .s (vsToS a))] fun v =>
    v.plainPlan d (elemBits t) 2 none fun i => (slideElem (elemBits t) false (v.v 1 b) (v.vs 2 a).toInt i, 0) := rfl
theorem execVslide_imm (t : ElemW) (d : VReg) (b : VSrc) (n : BitVec 16) (dm : DMask) (rot : Bool) : execVslide t d b (.imm n dm rot) = primOp [(1, .v b)] fun v =>
    v.plainPlan d (elemBits t) 2 dm fun i => (slideElem (elemBits t) rot (v.v 1 b) n.toInt i, 0) := rfl

/-! ### Bitmaps (R168) -/

theorem popN_eq_length (x n : Nat) : popN x n = ((List.range n).filter fun i => x.testBit i).length := by
  induction n with
  | zero => rfl
  | succ n ih =>
    rw [popN, List.range_succ, List.filter_append, List.length_append, ih, ← Nat.toNat_testBit, Nat.add_comm]
    cases h : x.testBit n <;> simp [h]

theorem bitIdx_eq_some {base : Nat} {y : VWord} {j i : Nat} (hi : i < 2048) : bitIdx base y j = some i ↔ elemAt 16 y j = base + i := by
  simp only [bitIdx]
  split
  next h => rw [Option.some.injEq]; omega
  next h =>
    constructor
    · exact fun h0 => nomatch h0
    · omega

theorem bitIdx_eq_none {base : Nat} {y : VWord} {j : Nat} (h : bitIdx base y j = none) : ¬ (base ≤ elemAt 16 y j ∧ elemAt 16 y j - base < 2048) := by
  intro hin
  simp only [bitIdx, if_pos hin] at h
  cases h
theorem lt_of_bitIdx_eq_some {base : Nat} {y : VWord} {j i : Nat} (h : bitIdx base y j = some i) : i < 2048 := by
  simp only [bitIdx] at h
  split at h
  next hin => exact Option.some.inj h ▸ hin.2
  next => cases h

/-- A fold whose every step adds bits to a number. -/
theorem testBit_foldl {step : Nat → Nat → Nat} {p : Nat → Bool} {i : Nat} (h : ∀ x j, (step x j).testBit i = (x.testBit i || p j)) (l : List Nat) (x : Nat) :
    (l.foldl step x).testBit i = (x.testBit i || l.any p) := by
  induction l generalizing x with
  | nil => simp
  | cons j l ih => rw [List.foldl_cons, ih, h, List.any_cons, Bool.or_assoc]

end Sys2Proof.Machine

namespace Sys2Proof.Proofs
open Sys2Proof Sys2Proof.Machine Sys2Proof.Claims

theorem vectorElementMoves : Claims.VectorMoves := by
  intro s id k hi hu t d b c a m dm sh n rot co w len el gives sel slid
  have move {i : Instr} {srcs : List (Nat × Src)} {body : View → Plan} {k' : DMask} {f g : Nat → Nat} (hx : exec i s = primOp srcs body s)
      (hb : body (viewOf s id k) = (viewOf s id k).plainPlan d w 2 k' fun j => (g j, 0)) (hlt : ∀ j, g j < 2 ^ w) (hgf : ∀ j, g j = f j) : gives i k' f := by
    obtain rfl := funext hgf
    obtain ⟨val, mask, fl, he, hfl, hel⟩ := plainPlan_elements (srcs := srcs) (g := g) hi hu hb fun j => Nat.mod_eq_of_lt (hlt j)
    obtain rfl := hfl fun _ => rfl
    exact ⟨val, mask, hx.trans he, hel⟩
  refine ⟨?sel, ?bcast, ?perm, ?shuf, ?slideReg, ?slideImm⟩
  case sel =>
    exact move (exec_vsel s t d b c m) (by simp only [View.v_live]; rfl) (fun j => elemAt_lt ..) fun j => apply_ite (fun x => elemAt w x j) ..
  case bcast => exact move (exec_vbcast s t d a dm) (by simp only [View.vs_live]; rfl) (fun _ => Nat.mod_lt _ (Nat.two_pow_pos w)) fun _ => rfl
  case perm => exact move (exec_vperm s t d b c dm) (by simp only [View.v_live]; rfl) (fun _ => elemAt_lt ..) fun _ => rfl
  case shuf => exact move (exec_vshuf s t d b c sh) (by simp only [View.v_live]; rfl) (fun j => elemAt_lt ..) fun j => shufElem_eq co sel w len b c j
  case slideReg =>
    exact move ((exec_vslide ..).trans (congrFun (execVslide_reg t d b a) s)) (by simp only [View.v_live, View.vs_live]; rfl) (fun _ => slideElem_lt ..)
      fun _ => rfl
  case slideImm =>
    exact move ((exec_vslide ..).trans (congrFun (execVslide_imm t d b n dm rot) s)) (by simp only [View.v_live]; rfl) (fun _ => slideElem_lt ..) fun _ => rfl

theorem vectorSingleElements : Claims.VectorSingleElements := by
  intro s id k hi hu t d sd b c a m n x bx co w idx base key live
  have hidx : (viewOf s id k).idxVal (2048 / elemBits t) x = idx := by
    cases x with
    | reg r => simp only [View.idxVal, View.vs_live, idx, w, co]
    | imm i => rfl
  refine ⟨?ext, ?ins, ?popm, ?btest, ?bset⟩
  case ext =>
    rw [exec_vext]
    have hw : 2 ^ w ≤ 2 ^ 64 := Nat.pow_le_pow_right Nat.two_pos (by rcases elemBits_cases t with h | h | h <;> simp [w, h])
    have hmod : elemAt w (co.vv b) idx % 2 ^ 64 = elemAt w (co.vv b) idx := Nat.mod_eq_of_lt ((elemAt_lt ..).trans_le hw)
    refine primOp_fly hi hu ?_
    simp only [Plan.effects, landS, View.v_live, hidx, BitVec.toNat_ofNat]
    rw [hmod]
  case ins =>
    rw [exec_vins]
    exact primOp_land hi hu (g := none) (l := landV d 2 ((co.ss (vsToS a)).toNat % 2 ^ w * 2 ^ (w * idx)) ((2 ^ w - 1) * 2 ^ (w * idx))) rfl
      (by simp only [Plan.effects, View.vs_live, hidx]; rfl)
  case popm =>
    rw [exec_vpopm]
    have hlen : popN (co.m[m]).toNat 128 % 2 ^ 64 = ((List.range 128).filter fun i => (co.m[m]).getLsbD i).length := by
      rw [popN_eq_length]
      refine Nat.mod_eq_of_lt ((List.length_filter_le _ _).trans_lt ?_)
      rw [List.length_range]
      decide
    refine primOp_fly hi hu ?_
    simp only [Plan.effects, landS, View.m_live, BitVec.toNat_ofNat]
    rw [show popN ((s.core id).m[m]).toNat 128 % 2 ^ 64 = _ from hlen]
  case btest =>
    rw [exec_vbtest]
    have hbit (j : Nat) : (match bitIdx base (co.vv c) j with | some i => (co.vv b).getLsbD i | none => false) =
        (decide (base ≤ key j) && decide (key j - base < 2048) && (co.vv b).getLsbD (key j - base)) := by
      cases h : bitIdx base (co.vv c) j with
      | none =>
        have hout := bitIdx_eq_none h
        rw [← Bool.decide_and, decide_eq_false hout, Bool.false_and]
      | some i =>
        have hlt := lt_of_bitIdx_eq_some h
        have hkey : key j = base + i := (bitIdx_eq_some hlt).mp h
        simp [hkey, hlt]
    obtain ⟨val, mask, fl, he, hfl, hbits⟩ := maskPlan_elements (srcs := [(1, .v b), (2, .v c)]) (d := m) (w := 16) (lat := 2) (dm := bx.bind (·.msk))
      (body := fun v => v.maskPlan m 16 2 (bx.bind (·.msk)) fun j => (match bitIdx (bitBase bx) (v.v 2 c) j with | some i => (v.v 1 b).getLsbD i | none => false, 0))
      (f := fun j => (decide (base ≤ key j) && decide (key j - base < 2048) && (co.vv b).getLsbD (key j - base), 0)) hi hu (.inr (.inl rfl))
      (by simp only [View.v_live, ← hbit]; rfl)
    obtain rfl := hfl fun _ => rfl
    refine ⟨val, mask, he, fun j hj => ?_⟩
    simpa [firstElem] using hbits j hj
  case bset =>
    rw [exec_vbset]
    refine ⟨_, primOp_fly hi hu (by simp only [Plan.effects, landV, View.v_live]; rfl), fun i hlt => ?_⟩
    refine testBit_foldl (p := fun j => live j && key j == base + i) (fun acc j => ?_) (List.range 128) (co.vv b).toNat
    cases hl : co.active (dmReg (bx.bind (·.msk))) 16 j with
    | false => simp [live, hl]
    | true =>
      have hkey : (key j == base + i) = (bitIdx base (co.vv c) j == some i) := by
        rw [Bool.eq_iff_iff, beq_iff_eq, beq_iff_eq]
        exact (bitIdx_eq_some hlt).symm
      rw [hkey]
      cases h : bitIdx base (co.vv c) j with
      | none => simp
      | some m => simp [live, hl, co, Nat.testBit_or, Nat.testBit_two_pow, beq_eq_decide]

/-- Settles O13: a move of elements is element-wise with the source element of its rule; the rest move one element, or bits. -/
theorem vectorMoves : Obligations.VectorMoves := ⟨vectorElementMoves, vectorSingleElements⟩

end Sys2Proof.Proofs
end

section
/-! Sorting and ranking (R163 to R165). -/
namespace Sys2Proof.Machine

/-! ### Packed lists of elements made from their positions -/

/-- Element `i` of a vector given by a function of the position. -/
theorem packElems_map_range (w n : Nat) (f : Nat → Nat) {i : Nat} (hi : i < n) : packElems w ((List.range n).map f) / 2 ^ (w * i) % 2 ^ w = f i % 2 ^ w := by
  rw [packElems_elem, List.getD_eq_getElem?_getD, List.getElem?_map, List.getElem?_range hi, Option.map_some, Option.getD_some]

/-- The elements of an A8 vector: their number is a power of two. -/
theorem atyW_cases (t : ATy) : atyW t = 8 ∨ atyW t = 16 ∨ atyW t = 32 := by cases t <;> decide
theorem exists_two_pow_lanes (t : ATy) : ∃ m, m ≤ 8 ∧ 2048 / atyW t = 2 ^ m := by
  rcases atyW_cases t with h | h | h
  · exact ⟨8, by decide, by simp [h]⟩
  · exact ⟨7, by decide, by simp [h]⟩
  · exact ⟨6, by decide, by simp [h]⟩

theorem snanFlag_map (t : ATy) (el : Nat → Nat) (l : List Nat) : snanFlag t (l.map el) = if l.any (fun i => (atyKey t (el i)).2) then fNV else 0 := by
  rw [snanFlag, flagIf, List.any_map]
  rfl

/-! ### A compare-exchange stage (R164) -/

/-- The partner of an element whose bit of the distance is 0 lies in the vector. -/
theorem partner_lt {p n i : Nat} (hp : 0 < p) (hd : 2 * p ∣ n) (hi : i < n) (he : i / p % 2 = 0) : i + p < n := by
  obtain ⟨c, rfl⟩ := hd
  have hq : i / p < 2 * c := Nat.div_lt_of_lt_mul (by rwa [← Nat.mul_assoc, Nat.mul_comm p 2])
  have hq2 : i / p + 2 ≤ 2 * c := by omega
  have hr := Nat.mod_lt i hp
  calc i + p = p * (i / p) + i % p + p := by rw [Nat.div_add_mod]
    _ < p * (i / p) + p + p := by omega
    _ = p * (i / p + 2) := by ring
    _ ≤ p * (2 * c) := Nat.mul_le_mul_left p hq2
    _ = 2 * p * c := by ring

/-- The two elements of a pair: the stage puts them in their order, or exchanges them. -/
theorem cmpxElem_pair (t : ATy) (xv : CmpxX) (x : VWord) {i : Nat} (he : i / 2 ^ xv.j.val % 2 = 0) :
    let w := atyW t
    let j := i + 2 ^ xv.j.val
    let key (i : Nat) : Int := (atyKey t (elemAt w x i)).1
    let asc : Bool := (i / 2 ^ xv.k.val % 2 == 0) != xv.desc
    let swap : Bool := if asc then decide (key j < key i) else decide (key i < key j)
    cmpxElem t xv x i = (if swap then elemAt w x j else elemAt w x i) ∧ cmpxElem t xv x j = if swap then elemAt w x i else elemAt w x j := by
  intro w j key asc swap
  have hj : j / 2 ^ xv.j.val % 2 = 1 := by
    rw [Nat.add_div_right _ (Nat.two_pow_pos _)]
    omega
  have hback : j - 2 ^ xv.j.val = i := Nat.add_sub_cancel ..
  constructor
  · have h : cmpxElem t xv x i = if true != swap then elemAt w x i else elemAt w x j := by
      simp only [cmpxElem, he, beq_self_eq_true, if_true, swap, asc, key, w, j]
    rw [h]
    cases swap <;> rfl
  · have h : cmpxElem t xv x j = if false != swap then elemAt w x i else elemAt w x j := by
      simp only [cmpxElem, hj, show ((1 : Nat) == 0) = false from rfl, Bool.false_eq_true, if_false, hback, swap, asc, key, w, j]
    rw [h]
    cases swap <;> rfl

/-! ### Ranking (R165) -/

/-- The order of ranks: greater keys first, and lower positions first among equal keys. -/
def RanksBefore (a b : Int × Nat) : Prop := b.1 < a.1 ∨ (a.1 = b.1 ∧ a.2 < b.2)

theorem RanksBefore.asymm {a b : Int × Nat} (h : RanksBefore a b) : ¬ RanksBefore b a := by
  unfold RanksBefore at *
  omega

theorem rankInsert_perm (e : Int × Nat) (l : List (Int × Nat)) : (rankInsert e l).Perm (e :: l) := by
  induction l with
  | nil => exact .refl _
  | cons x l ih =>
    rw [rankInsert]
    split
    · exact .refl _
    · exact (ih.cons x).trans (.swap e x l)

/-- An entry of a later position goes where the order puts it. -/
theorem rankInsert_sorted {e : Int × Nat} {l : List (Int × Nat)} (h : l.Pairwise RanksBefore) (he : ∀ x ∈ l, x.2 < e.2) : (rankInsert e l).Pairwise RanksBefore := by
  induction l with
  | nil => exact List.pairwise_singleton ..
  | cons x l ih =>
    obtain ⟨hx, hl⟩ := List.pairwise_cons.mp h
    have hxe := he x List.mem_cons_self
    rw [rankInsert]
    split
    next hlt =>
      refine List.pairwise_cons.mpr ⟨fun y hy => ?_, h⟩
      rcases List.mem_cons.mp hy with rfl | hy
      · exact .inl hlt
      · have hxy := hx y hy
        unfold RanksBefore at *
        omega
    next hle =>
      refine List.pairwise_cons.mpr ⟨fun y hy => ?_, ih hl fun z hz => he z (List.mem_cons_of_mem x hz)⟩
      rcases List.mem_cons.mp ((rankInsert_perm e l).mem_iff.mp hy) with rfl | hy
      · unfold RanksBefore
        omega
      · exact hx y hy

theorem foldl_rankInsert (l acc : List (Int × Nat)) (h : acc.Pairwise RanksBefore) (hl : l.Pairwise fun a b => a.2 < b.2) (ha : ∀ a ∈ acc, ∀ b ∈ l, a.2 < b.2) :
    (l.foldl (fun acc e => rankInsert e acc) acc).Perm (l ++ acc) ∧ (l.foldl (fun acc e => rankInsert e acc) acc).Pairwise RanksBefore := by
  induction l generalizing acc with
  | nil => exact ⟨.refl _, h⟩
  | cons e l ih =>
    obtain ⟨he, hl⟩ := List.pairwise_cons.mp hl
    have hperm := rankInsert_perm e acc
    have hnext := ih (rankInsert e acc) (rankInsert_sorted h fun x hx => ha x hx e List.mem_cons_self) hl fun a hx b hb => by
      rcases List.mem_cons.mp (hperm.mem_iff.mp hx) with rfl | hx
      · exact he b hb
      · exact ha a hx b (List.mem_cons_of_mem e hb)
    exact ⟨hnext.1.trans ((hperm.append_left l).trans List.perm_middle), hnext.2⟩

/-- Ranking sorts the entries, taken in the order of their positions. -/
theorem rankAll_sorted {l : List (Int × Nat)} (hl : l.Pairwise fun a b => a.2 < b.2) : (rankAll l).Perm l ∧ (rankAll l).Pairwise RanksBefore := by
  have h := foldl_rankInsert l [] .nil hl fun _ h => nomatch h
  rwa [List.append_nil] at h

/-- In a list sorted by an asymmetric order, as many entries come before an entry as its index says. -/
theorem countP_before_getElem {α : Type} {r : α → α → Prop} (hr : ∀ a b, r a b → ¬ r b a) {l : List α} (h : l.Pairwise r) {i : Nat} (hi : i < l.length)
    {p : α → Bool} (hp : ∀ x ∈ l, p x = true ↔ r x l[i]) : l.countP p = i := by
  induction l generalizing i with
  | nil => exact absurd hi (Nat.not_lt_zero i)
  | cons x l ih =>
    obtain ⟨hx, hl⟩ := List.pairwise_cons.mp h
    cases i with
    | zero =>
      rw [List.countP_eq_zero]
      intro y hy
      rw [hp y hy]
      rcases List.mem_cons.mp hy with rfl | hy
      · exact fun hyy => hr y y hyy hyy
      · exact hr x y (hx y hy)
    | succ i =>
      have hlt : i < l.length := Nat.lt_of_succ_lt_succ hi
      have hpx : p x = true := (hp x List.mem_cons_self).mpr (hx _ (List.getElem_mem hlt))
      rw [List.countP_cons_of_pos hpx, ih hl hlt fun y hy => hp y (List.mem_cons_of_mem x hy)]

section
variable {n : Nat} {live : Nat → Bool} {κ : Nat → Int} {before : Nat → Nat → Bool} (hb : ∀ m i, before m i = true ↔ RanksBefore (κ m, m) (κ i, i))

/-- The entry of every live position, positions rising. -/
def rankEntries (n : Nat) (live : Nat → Bool) (κ : Nat → Int) : List (Int × Nat) := ((List.range n).filter live).map fun i => (κ i, i)

theorem rankEntries_rising : (rankEntries n live κ).Pairwise fun a b => a.2 < b.2 :=
  List.pairwise_map.mpr (List.pairwise_lt_range.filter live)

theorem mem_rankEntries {e : Int × Nat} : e ∈ rankEntries n live κ ↔ e.2 < n ∧ live e.2 = true ∧ e = (κ e.2, e.2) := by
  simp only [rankEntries, List.mem_map, List.mem_filter, List.mem_range]
  constructor
  · rintro ⟨i, ⟨hi, hl⟩, rfl⟩
    exact ⟨hi, hl, rfl⟩
  · rintro ⟨hi, hl, he⟩
    exact ⟨e.2, ⟨hi, hl⟩, he.symm⟩

include hb

/-- The index of an entry among the ranked ones is the number of live positions before it. -/
theorem rank_of_index {r : Nat} (hr : r < (rankAll (rankEntries n live κ)).length) :
    let i := (rankAll (rankEntries n live κ))[r].2
    i < n ∧ live i = true ∧ ((List.range n).filter fun m => live m && before m i).length = r := by
  intro i
  obtain ⟨hperm, hsorted⟩ := rankAll_sorted (rankEntries_rising (n := n) (live := live) (κ := κ))
  obtain ⟨hi, hl, he⟩ := mem_rankEntries.mp (hperm.mem_iff.mp (List.getElem_mem hr))
  refine ⟨hi, hl, ?_⟩
  have hcount := countP_before_getElem (fun _ _ => RanksBefore.asymm) hsorted hr (p := fun e => before e.2 i) fun e hmem => by
    rw [he, hb, ← (mem_rankEntries.mp (hperm.mem_iff.mp hmem)).2.2]
  rw [← hcount, hperm.countP_eq, rankEntries, List.countP_map, List.countP_filter, List.countP_eq_length_filter]
  simp only [Function.comp_def, Bool.and_comm]

/-- So the ranked positions are found by their ranks. -/
theorem rankAll_eq_find (r : Nat) : (rankAll (rankEntries n live κ))[r]?.map (·.2) =
    (List.range n).find? fun i => live i && ((List.range n).filter fun m => live m && before m i).length == r := by
  have hperm := (rankAll_sorted (rankEntries_rising (n := n) (live := live) (κ := κ))).1
  have hindex (i : Nat) (hi : i < n) (hl : live i = true) (hrank : ((List.range n).filter fun m => live m && before m i).length = r) :
      (rankAll (rankEntries n live κ))[r]?.map (·.2) = some i := by
    have hmem : (κ i, i) ∈ rankAll (rankEntries n live κ) := hperm.mem_iff.mpr (mem_rankEntries.mpr ⟨hi, hl, rfl⟩)
    obtain ⟨q, hq, he⟩ := List.mem_iff_getElem.mp hmem
    have hqr := (rank_of_index hb hq).2.2
    simp only [he, hrank] at hqr
    subst hqr
    rw [List.getElem?_eq_getElem hq, he, Option.map_some]
  cases hfind : (List.range n).find? fun i => live i && ((List.range n).filter fun m => live m && before m i).length == r with
  | some i =>
    have hi := List.mem_range.mp (List.mem_of_find?_eq_some hfind)
    have hsome := List.find?_some hfind
    obtain ⟨hl, hrank⟩ := Bool.and_eq_true_iff.mp hsome
    exact hindex i hi hl (beq_iff_eq.mp hrank)
  | none =>
    rw [Option.map_eq_none_iff, List.getElem?_eq_none_iff, ← Nat.not_lt]
    intro hr
    obtain ⟨hi, hl, hrank⟩ := rank_of_index hb hr
    refine List.find?_eq_none.mp hfind _ (List.mem_range.mpr hi) ?_
    rw [hl, Bool.true_and, beq_iff_eq]
    exact hrank

end

end Sys2Proof.Machine

namespace Sys2Proof.Proofs
open Sys2Proof Sys2Proof.Machine Sys2Proof.Claims

theorem vectorRanking : Claims.VectorRanking := by
  intro s id k hi hu t d b cx tx co w n el key snan out live before rank
  obtain ⟨m, hm8, hm⟩ := exists_two_pow_lanes t
  refine ⟨?cmpx, ?topk⟩
  case cmpx =>
    rw [exec_vcmpx]
    refine ⟨_, primOp_fly hi hu (by simp only [Plan.effects, landV, View.v_live, snanFlag_map]; rfl), fun _ hjk hkn i hin heven => ?_⟩
    have hdvd : 2 * 2 ^ cx.j.val ∣ n := by
      have hle : 2 ^ (cx.j.val + 1) ≤ 2 ^ m := by rw [Nat.pow_succ']; exact (hjk.trans hkn).trans_eq hm
      rw [← Nat.pow_succ', show n = 2 ^ m from hm]
      exact Nat.pow_dvd_pow 2 ((Nat.pow_le_pow_iff_right Nat.one_lt_two).mp hle)
    have hjn := partner_lt (Nat.two_pow_pos _) hdvd hin heven
    obtain ⟨hlow, hhigh⟩ := cmpxElem_pair t cx (co.vv b) heven
    have hlt (p : Bool) (x y : Nat) : (if p then el x else el y) % 2 ^ w = if p then el x else el y := Nat.mod_eq_of_lt (by cases p <;> exact elemAt_lt ..)
    exact ⟨(packElems_map_range w n _ hin).trans (hlow ▸ hlt _ _ _), (packElems_map_range w n _ hjn).trans (hhigh ▸ hlt _ _ _)⟩
  case topk =>
    rw [exec_vtopk]
    refine ⟨_, primOp_fly hi hu (by simp only [Plan.effects, landV, View.v_live, snanFlag_map, List.any_filter]; rfl), fun _ hkn r hr => ?_⟩
    let κ (i : Nat) : Int := if tx.low then -key i else key i
    have hbefore (m i : Nat) : before m i = true ↔ RanksBefore (κ m, m) (κ i, i) := by
      cases hl : tx.low <;> simp [before, κ, RanksBefore, hl]
    have hrank := rankAll_eq_find (n := n) (live := live) hbefore r
    have hn : n ≤ 256 := (show n = 2 ^ m from hm).le.trans (Nat.pow_le_pow_right Nat.two_pos hm8)
    have hsmall : (((List.range n).find? fun i => live i && rank i == r).getD 0xFFFF) % 2 ^ 16 = ((List.range n).find? fun i => live i && rank i == r).getD 0xFFFF := by
      cases hfind : (List.range n).find? fun i => live i && rank i == r with
      | none => rfl
      | some i =>
        have hi := List.mem_range.mp (List.mem_of_find?_eq_some hfind)
        exact Nat.mod_eq_of_lt (by rw [Option.getD_some]; omega)
    refine (packElems_map_range 16 128 _ hr).trans ?_
    rw [List.getElem?_take]
    split
    · exact (congrArg (fun o => o.getD 0xFFFF % 2 ^ 16) hrank).trans hsmall
    · rfl

end Sys2Proof.Proofs
end

section
/-! Reductions and scans (R48, R49, R166, R167). -/
namespace Sys2Proof.Machine

/-! ### The pairwise tree (R48) -/

/-- Two subtrees joined: the one that has an element where only one has. -/
def joinNodes (comb : Nat → Nat → Nat) : Option Nat → Option Nat → Option Nat
  | some x, some y => some (comb x y)
  | some x, none => some x
  | none, y => y

theorem pairTree_succ (comb : Nat → Nat → Nat) (el : Nat → Option Nat) (n p : Nat) : Claims.pairTree comb el (n + 1) p =
    joinNodes comb (Claims.pairTree comb el n (2 * p)) (Claims.pairTree comb el n (2 * p + 1)) := by
  rw [Claims.pairTree]
  cases Claims.pairTree comb el n (2 * p) with
  | none => rfl
  | some x => cases Claims.pairTree comb el n (2 * p + 1) <;> rfl

section
variable {comb : Mode → Nat → Nat → Res} {r : Rnd} (slot : Slot) (w : Nat) (hr : r ≠ .sr)
include hr

/-- In a mode that does not draw, a combination at any node is one function of its two operands. -/
theorem redLevel_spec (g₀ : Gens) (stride m p : Nat) (h : Nat → Option Nat) (g : Gens) (fl : Flags) :
    (redLevel comb r slot w stride p ((List.range (2 * m)).map h) g fl).1 =
      (List.range m).map (fun q => joinNodes (fun x y => (comb (modeAt r g₀ 0).1 x y).1) (h (2 * q)) (h (2 * q + 1))) ∧
    (redLevel comb r slot w stride p ((List.range (2 * m)).map h) g fl).2.1 = g := by
  induction m generalizing p h g fl with
  | zero => exact ⟨rfl, rfl⟩
  | succ m ih =>
    have hlist : (List.range (2 * (m + 1))).map h = h 0 :: h 1 :: (List.range (2 * m)).map fun i => h (i + 2) := by
      rw [Nat.mul_succ, List.range_succ_eq_map, List.range_succ_eq_map]
      simp [Function.comp_def]
    have hnodes : (List.range (m + 1)).map (fun q => joinNodes (fun x y => (comb (modeAt r g₀ 0).1 x y).1) (h (2 * q)) (h (2 * q + 1))) =
        joinNodes (fun x y => (comb (modeAt r g₀ 0).1 x y).1) (h 0) (h 1) ::
          (List.range m).map fun q => joinNodes (fun x y => (comb (modeAt r g₀ 0).1 x y).1) (h (2 * q + 2)) (h (2 * q + 1 + 2)) := by
      rw [List.range_succ_eq_map]
      simp [Function.comp_def, Nat.mul_succ, Nat.add_right_comm]
    rw [hlist, hnodes]
    have hnext := ih (p + 1) (fun i => h (i + 2))
    cases h0 : h 0 with
    | none => 
      have := hnext g fl
      simp [redLevel, joinNodes, this]
    | some x =>
      cases h1 : h 1 with
      | none => 
        have := hnext g fl
        simp [redLevel, joinNodes, this]
      | some y =>
        have hm := modeAt_of_ne_sr hr g g₀ (laneGen slot w (p * (2 * stride))) 0
        have := hnext g (fl ||| (comb (modeAt r g₀ 0).1 x y).2)
        simp [redLevel, joinNodes, this, hm.1, hm.2]

/-- So the tree over `2 ^ n` elements is the pairwise tree, and no generator moves. -/
theorem redTree_spec (g₀ : Gens) (el : Nat → Option Nat) (n lvl stride : Nat) (g : Gens) (fl : Flags) :
    let f := fun x y => (comb (modeAt r g₀ 0).1 x y).1
    let t := redTree comb r slot w n stride ((List.range (2 ^ n)).map (Claims.pairTree f el lvl)) g fl
    t.1 = Claims.pairTree f el (lvl + n) 0 ∧ t.2.1 = g := by
  induction n generalizing lvl stride g fl with
  | zero => exact ⟨rfl, rfl⟩
  | succ n ih =>
    intro f t
    obtain ⟨hlist, hgens⟩ := redLevel_spec slot w hr g₀ stride (2 ^ n) 0 (Claims.pairTree f el lvl) g fl (comb := comb)
    have hl : (redLevel comb r slot w stride 0 ((List.range (2 * 2 ^ n)).map (Claims.pairTree f el lvl)) g fl).1 = (List.range (2 ^ n)).map (Claims.pairTree f el (lvl + 1)) := by
      rw [hlist]
      exact List.map_congr_left fun q _ => (pairTree_succ f el lvl q).symm
    have ht : t = redTree comb r slot w n (2 * stride) ((List.range (2 ^ n)).map (Claims.pairTree f el (lvl + 1))) g
        (redLevel comb r slot w stride 0 ((List.range (2 * 2 ^ n)).map (Claims.pairTree f el lvl)) g fl).2.2 := by
      simp only [t, redTree, Nat.pow_succ', hl, hgens]
    have hnext := ih (lvl + 1) (2 * stride) g (redLevel comb r slot w stride 0 ((List.range (2 * 2 ^ n)).map (Claims.pairTree f el lvl)) g fl).2.2
    rw [ht, ← Nat.add_assoc, Nat.add_right_comm]
    exact hnext

/-- The tree over the elements of a vector. -/
theorem redTree_lanes (g₀ : Gens) (el : Nat → Option Nat) (g : Gens) (fl : Flags) (hw : w = 8 ∨ w = 16 ∨ w = 32) :
    let t := redTree comb r slot w (redLevels w) 1 ((List.range (2048 / w)).map el) g fl
    t.1 = Claims.pairTree (fun x y => (comb (modeAt r g₀ 0).1 x y).1) el (Nat.log2 (2048 / w)) 0 ∧ t.2.1 = g := by
  have hlanes : 2048 / w = 2 ^ redLevels w := by rcases hw with rfl | rfl | rfl <;> rfl
  rw [hlanes, Nat.log2_two_pow]
  have h := redTree_spec slot w hr g₀ el (redLevels w) 0 1 g fl (comb := comb)
  rwa [Nat.zero_add] at h

end

/-! ### Running values (R49) -/

/-- One more entry of a scan: one that is left out changes nothing, the first enters as it is. -/
def optStep {α : Type} (comb : α → α → α) : Option α → Option α → Option α
  | x, none => x
  | none, some a => some a
  | some x, some a => some (comb x a)

theorem foldl_optStep_some {α : Type} (comb : α → α → α) (l : List (Option α)) (x : α) : l.foldl (optStep comb) (some x) = some ((l.filterMap id).foldl comb x) := by
  induction l generalizing x with
  | nil => rfl
  | cons e l ih =>
    cases e with
    | none => exact ih x
    | some a => exact ih (comb x a)

/-- Folding entry after entry gives the running value of the entries that are there. -/
theorem foldl_optStep_none {α : Type} (comb : α → α → α) (ident : α) (l : List (Option α)) :
    (l.foldl (optStep comb) none).getD ident = Claims.running comb ident (l.filterMap id) := by
  induction l with
  | nil => rfl
  | cons e l ih =>
    cases e with
    | none => exact ih
    | some a =>
      exact congrArg (·.getD ident) (foldl_optStep_some comb l a)

/-- The live entries of a vector, in order. -/
theorem filterMap_live {α : Type} (live : Nat → Bool) (f : Nat → α) (l : List Nat) :
    (l.map fun i => if live i then some (f i) else none).filterMap id = (l.filter live).map f := by
  induction l with
  | nil => rfl
  | cons i l ih =>
    rw [List.map_cons, List.filterMap_cons, ih]
    cases h : live i <;> simp [h]

/-- The entries of a vector up to a position. -/
theorem take_map_range {α : Type} (f : Nat → α) {i n : Nat} (hi : i < n) : ((List.range n).map f).take (i + 1) = (List.range (i + 1)).map f := by
  rw [← List.map_take, List.take_range, Nat.min_eq_left hi]

/-- One addition of an integer scan wraps or saturates; the other operators stay in the type. -/
def scanComb (w : Nat) (sg sat : Bool) (op : RedOp) (x y : Int) : Int :=
  match op with
  | .add => if sg then sextNat w (intRes w sg sat (x + y)).1 else ((intRes w sg sat (x + y)).1 : Int)
  | o => intComb w sg o x y

theorem scanInts_cons (w : Nat) (sg sat : Bool) (op : RedOp) (run e : Option Int) (l : List (Option Int)) :
    (scanInts w sg sat op run (e :: l)).1 =
      wrapNat w ((optStep (scanComb w sg sat op) run e).getD (intIdent w sg op)) :: (scanInts w sg sat op (optStep (scanComb w sg sat op) run e) l).1 := by
  cases e with
  | none => cases run <;> rfl
  | some a =>
    cases run with
    | none => rfl
    | some x => cases op <;> rfl

theorem scanInts_getD (w : Nat) (sg sat : Bool) (op : RedOp) (l : List (Option Int)) (run : Option Int) {i : Nat} (hi : i < l.length) :
    (scanInts w sg sat op run l).1.getD i 0 = wrapNat w (((l.take (i + 1)).foldl (optStep (scanComb w sg sat op)) run).getD (intIdent w sg op)) := by
  induction l generalizing run i with
  | nil => exact absurd hi (Nat.not_lt_zero i)
  | cons e l ih =>
    rw [scanInts_cons, List.take_succ_cons, List.foldl_cons]
    cases i with
    | zero => rfl
    | succ i => rw [List.getD_cons_succ, ih _ (Nat.lt_of_succ_lt_succ hi)]

section
variable {comb : Mode → Nat → Nat → Res} {r : Rnd} (ident : Nat) (slot : Slot) (w : Nat) (hr : r ≠ .sr) (g₀ : Gens)
include hr

/-- In a mode that does not draw, a floating-point scan combines by one function, and no generator moves. -/
theorem scanFlts_cons (p : Nat) (run e : Option Nat) (l : List (Option Nat)) (g : Gens) :
    let run1 := optStep (fun x y => (comb (modeAt r g₀ 0).1 x y).1) run e
    (scanFlts comb ident r slot w p run (e :: l) g).1 = run1.getD ident :: (scanFlts comb ident r slot w (p + 1) run1 l g).1 ∧
    (scanFlts comb ident r slot w p run (e :: l) g).2.1 = (scanFlts comb ident r slot w (p + 1) run1 l g).2.1 := by
  cases e with
  | none => cases run <;> exact ⟨rfl, rfl⟩
  | some a =>
    cases run with
    | none => exact ⟨rfl, rfl⟩
    | some x =>
      obtain ⟨hmode, hgens⟩ := modeAt_of_ne_sr hr g g₀ (laneGen slot w p) 0
      simp only [scanFlts, optStep, hmode, hgens, and_self]

theorem scanFlts_getD (l : List (Option Nat)) (p : Nat) (run : Option Nat) (g : Gens) {i : Nat} (hi : i < l.length) :
    (scanFlts comb ident r slot w p run l g).1.getD i 0 = ((l.take (i + 1)).foldl (optStep fun x y => (comb (modeAt r g₀ 0).1 x y).1) run).getD ident := by
  induction l generalizing p run i with
  | nil => exact absurd hi (Nat.not_lt_zero i)
  | cons e l ih =>
    rw [(scanFlts_cons ident slot w hr g₀ p run e l g).1, List.take_succ_cons, List.foldl_cons]
    cases i with
    | zero => rfl
    | succ i => rw [List.getD_cons_succ, ih _ _ (Nat.lt_of_succ_lt_succ hi)]

theorem scanFlts_gens (l : List (Option Nat)) (p : Nat) (run : Option Nat) (g : Gens) : (scanFlts comb ident r slot w p run l g).2.1 = g := by
  induction l generalizing p run with
  | nil => rfl
  | cons e l ih => rw [(scanFlts_cons ident slot w hr g p run e l g).2, ih]

end

/-! ### Integers of a type -/

/-- An integer that its type can hold comes back from its pattern. -/
theorem ofPattern_wrapNat (t : ITy) {x : Int} (hlo : intMin (itySigned t) (ityW t) ≤ x) (hhi : x ≤ intMax (itySigned t) (ityW t)) :
    Claims.ofPattern t (wrapNat (ityW t) x) = x := by
  cases t with
  | i8 | i16 | i32 =>
    simp only [Claims.ofPattern, itySigned, ityW, intMin, intMax, if_true, sextNat, wrapNat, bits] at *
    norm_num at *
    split <;> omega
  | w8 | w16 | w32 =>
    simp only [Claims.ofPattern, itySigned, ityW, intMin, intMax, wrapNat, Bool.false_eq_true, if_false] at *
    norm_num at *
    omega

theorem intIdent_and (t : ITy) : intIdent (ityW t) (itySigned t) .and = Claims.ofPattern t (2 ^ ityW t - 1) := by cases t <;> rfl

/-- R49: what one addition of a scan adds up to. -/
theorem scanComb_add (t : ITy) (sat : Bool) (x y : Int) : scanComb (ityW t) (itySigned t) sat .add x y =
    if sat then max (intMin (itySigned t) (ityW t)) (min (intMax (itySigned t) (ityW t)) (x + y)) else Claims.ofPattern t (wrapNat (ityW t) (x + y)) := by
  have hback : scanComb (ityW t) (itySigned t) sat .add x y = Claims.ofPattern t (intRes (ityW t) (itySigned t) sat (x + y)).1 := rfl
  rw [hback, intRes_val]
  cases sat with
  | false => rfl
  | true =>
    have hle : intMin (itySigned t) (ityW t) ≤ intMax (itySigned t) (ityW t) := by cases t <;> decide
    simp only [if_true]
    exact ofPattern_wrapNat t (by omega) (by omega)

/-! ### The plans of VRED and VSCAN -/

theorem ityW_cases (t : ITy) : ityW t = 8 ∨ ityW t = 16 ∨ ityW t = 32 := by cases t <;> decide
theorem FFmt.width_cases (f : FFmt) : f.width = 8 ∨ f.width = 16 ∨ f.width = 32 := by cases f <;> decide

/-- The active integers up to a position, in order. -/
theorem filterMap_activeInts (c : Core) (t : ITy) (q : Option MReg) (x : VWord) (m : Nat) :
    ((List.range m).map fun i => if c.active q (ityW t) i then some (elemInt t x i) else none).filterMap id =
      ((List.range m).filter fun i => c.active q (ityW t) i).map fun i => Claims.ofPattern t (elemAt (ityW t) x i) := filterMap_live ..

/-- The elements of a floating-point vector that take part. -/
def View.activeFlts (v : View) (f : FFmt) (k : Option MReg) (x : VWord) : List (Option Nat) :=
  (List.range (2048 / f.width)).map fun i => if v.c.active k f.width i then some (elemAt f.width x i) else none

section
variable {t : ATy} {it : ITy} {f : FFmt} (d : VReg) (sd : SReg) (b : VSrc) (rx : RedX) (sx : ScanX)

theorem execVred_int (h : atyKind t = .inl it) : execVred t sd b rx = primOp [(1, .v b)] fun v =>
    let l := v.activeInts it rx.msk (v.v 1 b)
    { lands := [landS sd 5 (BitVec.ofInt 64 (Claims.running (intComb (ityW it) (itySigned it) rx.op) (intIdent (ityW it) (itySigned it) rx.op) (l.filterMap id)))],
      gens := some (redTree (fun _ a _ => (a, 0)) (v.c.rnd rx.rnd) v.slot (ityW it) (redLevels (ityW it)) 1 (l.map fun e => e.map fun _ => 0) v.c.gens 0).2.1 } := by
  unfold execVred
  congr 1
  funext v
  simp only [h]
  cases (v.activeInts it rx.msk (v.v 1 b)).filterMap id <;> rfl
theorem execVred_flt (h : atyKind t = .inr f) : execVred t sd b rx = primOp [(1, .v b)] fun v =>
    let q := redTree (fltComb f v.c.ftz rx.op) (v.c.rnd rx.rnd) v.slot f.width (redLevels f.width) 1 (v.activeFlts f rx.msk (v.v 1 b)) v.c.gens 0
    { lands := [landS sd 5 (BitVec.ofNat 64 (q.1.getD (fltIdent f rx.op))) q.2.2], gens := some q.2.1 } := by
  unfold execVred
  simp only [h]
  rfl
theorem execVscan_int (h : atyKind t = .inl it) : execVscan t d b sx = primOp [(1, .v b)] fun v =>
    let q := scanInts (ityW it) (itySigned it) sx.sat sx.op none (v.activeInts it sx.msk (v.v 1 b))
    { lands := [landV d 6 (packElems (ityW it) q.1) (2 ^ 2048 - 1) q.2] } := by
  unfold execVscan
  simp only [h]
theorem execVscan_flt (h : atyKind t = .inr f) : execVscan t d b sx = primOp [(1, .v b)] fun v =>
    let q := scanFlts (fltComb f v.c.ftz sx.op) (fltIdent f sx.op) (v.c.rnd sx.rnd) v.slot f.width 0 none (v.activeFlts f sx.msk (v.v 1 b)) v.c.gens
    { lands := [landV d 6 (packElems f.width q.1) (2 ^ 2048 - 1) q.2.2], gens := some q.2.1 } := by
  unfold execVscan
  simp only [h]
  rfl

end

end Sys2Proof.Machine

namespace Sys2Proof.Proofs
open Sys2Proof Sys2Proof.Machine Sys2Proof.Claims

theorem reductionsAndScans : Claims.ReductionsAndScans := by
  intro s id k hi hu t d sd b rx sx co w n el live gives least most ident pats join added flt fident isFlt
  have hwidth : ∀ it, atyKind t = .inl it → w = ityW it := fun it h => by simp only [w, atyW, h]
  have hformat : ∀ f, atyKind t = .inr f → w = f.width := fun f h => by simp only [w, atyW, h]
  clear_value w
  have hint (it : ITy) (hw : w = ityW it) (op : RedOp) : join it (· + ·) op = intComb (ityW it) (itySigned it) op ∧
      (∀ sat, join it (added it sat) op = scanComb (ityW it) (itySigned it) sat op) ∧ ident it op = intIdent (ityW it) (itySigned it) op := by
    subst hw
    cases op with
    | add => exact ⟨rfl, fun sat => funext fun x => funext fun y => (scanComb_add it sat x y).symm, rfl⟩
    | and => exact ⟨rfl, fun _ => rfl, (intIdent_and it).symm⟩
    | max | min | or | xor => exact ⟨rfl, fun _ => rfl, rfl⟩
  have hflt (f : FFmt) (op : RedOp) (r : Rnd) : flt f op r = (fun x y => (fltComb f co.ftz op (modeAt r co.gens 0).1 x y).1) ∧ fident f op = fltIdent f op := by
    cases op <;> exact ⟨rfl, rfl⟩
  refine ⟨?red, ?scan⟩
  case red =>
    cases h : atyKind t with
    | inl it =>
      obtain ⟨hjoin, -, hident⟩ := hint it (hwidth it h) rx.op
      obtain rfl := hwidth it h
      refine ⟨_, _, _, ((exec_vred ..).trans (congrFun (execVred_int sd b rx h) s)).trans (primOp_land hi hu (l := landS sd 5 _ _) (g := some _) rfl rfl), fun hr => ?_,
        ⟨?_, fun f hf => nomatch hf⟩⟩
      · rw [View.activeInts, List.map_map]
        exact (redTree_lanes k (ityW it) hr co.gens _ co.gens 0 (ityW_cases it)).2
      · rintro it' hit
        cases hit
        rw [hjoin, hident, View.v_live]
        exact congrArg (fun l => (BitVec.ofInt 64 (running _ _ l)).toNat) (filterMap_activeInts co it rx.msk (co.vv b) n)
    | inr f =>
      obtain rfl := hformat f h
      refine ⟨_, _, _, ((exec_vred ..).trans (congrFun (execVred_flt sd b rx h) s)).trans (primOp_land hi hu (l := landS sd 5 _ _) (g := some _) rfl rfl), fun hr => ?_,
        ⟨fun it hit => (nomatch hit), ?_⟩⟩
      · exact (redTree_lanes k f.width hr co.gens _ co.gens 0 f.width_cases).2
      · rintro f' hf - hr
        cases hf
        rw [(hflt f rx.op _).1, (hflt f rx.op .rne).2, View.v_live, landS, BitVec.toNat_ofNat]
        exact congrArg (fun o => o.getD (fltIdent f rx.op) % 2 ^ 64) (redTree_lanes k f.width hr co.gens _ co.gens 0 f.width_cases).1
  case scan =>
    cases h : atyKind t with
    | inl it =>
      obtain ⟨-, hjoin, hident⟩ := hint it (hwidth it h) sx.op
      obtain rfl := hwidth it h
      refine ⟨_, _, _, ((exec_vscan ..).trans (congrFun (execVscan_int d b sx h) s)).trans (primOp_land hi hu (l := landV d 6 _ _ _) (g := none) rfl rfl), fun _ => rfl,
        fun i hin => ⟨?_, fun f hf => nomatch hf⟩⟩
      rintro it' hit
      cases hit
      rw [hjoin, hident, View.v_live, landV, packElems_elem, scanInts_getD _ _ _ _ _ _ (by rwa [View.activeInts, List.length_map, List.length_range]),
        View.activeInts, take_map_range _ hin, foldl_optStep_none, Nat.mod_eq_of_lt (wrapNat_lt ..)]
      exact congrArg (fun l => wrapNat (ityW it) (running _ _ l)) (filterMap_activeInts co it sx.msk (co.vv b) (i + 1))
    | inr f =>
      obtain rfl := hformat f h
      refine ⟨_, _, _, ((exec_vscan ..).trans (congrFun (execVscan_flt d b sx h) s)).trans (primOp_land hi hu (l := landV d 6 _ _ _) (g := some _) rfl rfl),
        fun hr => scanFlts_gens _ k f.width hr _ _ _ _, fun i hin => ⟨fun it hit => (nomatch hit), ?_⟩⟩
      rintro f' hf - hr
      cases hf
      rw [(hflt f sx.op _).1, (hflt f sx.op .rne).2, View.v_live, landV, packElems_elem,
        scanFlts_getD _ k f.width hr co.gens _ _ _ _ (by rwa [View.activeFlts, List.length_map, List.length_range]),
        View.activeFlts, take_map_range _ hin, foldl_optStep_none]
      exact congrArg (fun l => running _ _ l % 2 ^ f.width) (filterMap_live ..)

/-- Settles O14: the ranked positions are the sorted ones, the tree of a reduction is the pairwise tree, and a scan is the list of its running values. -/
theorem vectorReductions : Obligations.VectorReductions := ⟨vectorRanking, reductionsAndScans⟩

end Sys2Proof.Proofs
end

section
/-! Packed blocks (R43): their elements, their scales, and nothing after the last one. -/
namespace Sys2Proof.Machine

/-- A field that ends below the place where more is added. -/
theorem add_high_field {a c n : Nat} (p x : Nat) (h : a + c ≤ n) : (p + 2 ^ n * x) / 2 ^ a % 2 ^ c = p / 2 ^ a % 2 ^ c := by
  have hn : 2 ^ n = 2 ^ a * (2 ^ c * 2 ^ (n - a - c)) := by rw [← Nat.pow_add, ← Nat.pow_add]; congr 1; omega
  rw [hn, Nat.mul_assoc, Nat.add_mul_div_left _ _ (Nat.two_pow_pos a), Nat.mul_assoc, Nat.add_mul_mod_self_left]

section
variable (b : Nat)

theorem packElems_take_lt (vals : List Nat) : packElems b (vals.take 32) < 2 ^ (32 * b) :=
  (packElems_lt b _).trans_le (Nat.pow_le_pow_right Nat.two_pos (by rw [Nat.mul_comm]; exact Nat.mul_le_mul_right b (List.length_take_le 32 vals)))

/-- What is left of the first block ends below the second. -/
theorem packBlocks_head_lt (s : Nat) (vals : List Nat) : packElems b (vals.take 32) + 2 ^ (32 * b) * (s % 65536) < 2 ^ (32 * b + 16) := by
  have h1 := packElems_take_lt b vals
  have h2 : s % 65536 + 1 ≤ 65536 := Nat.mod_lt s (by decide)
  calc packElems b (vals.take 32) + 2 ^ (32 * b) * (s % 65536) < 2 ^ (32 * b) * (s % 65536 + 1) := by rw [Nat.mul_succ]; omega
    _ ≤ 2 ^ (32 * b) * 65536 := Nat.mul_le_mul_left _ h2
    _ = 2 ^ (32 * b + 16) := by rw [Nat.pow_add]

theorem packBlocks_div (s : Nat) (rest vals : List Nat) : packBlocks b (s :: rest) vals / 2 ^ (32 * b + 16) = packBlocks b rest (vals.drop 32) := by
  rw [packBlocks, Nat.add_mul_div_left _ _ (Nat.two_pow_pos _), Nat.div_eq_of_lt (packBlocks_head_lt b s vals), Nat.zero_add]

theorem packBlocks_lt (scales vals : List Nat) : packBlocks b scales vals < 2 ^ ((32 * b + 16) * scales.length) := by
  induction scales generalizing vals with
  | nil => simp [packBlocks]
  | cons s rest ih =>
    rw [List.length_cons, Nat.mul_succ, Nat.pow_add]
    exact (Nat.div_lt_iff_lt_mul (Nat.two_pow_pos _)).mp (packBlocks_div b s rest vals ▸ ih (vals.drop 32))

theorem packBlocks_elem {scales : List Nat} (vals : List Nat) {j i : Nat} (hj : j < scales.length) (hi : i < 32) :
    packBlocks b scales vals / 2 ^ ((32 * b + 16) * j + b * i) % 2 ^ b = vals.getD (32 * j + i) 0 % 2 ^ b := by
  induction scales generalizing vals j with
  | nil => exact absurd hj (Nat.not_lt_zero j)
  | cons s rest ih =>
    cases j with
    | zero =>
      have hbi : b * i + b ≤ 32 * b := by nlinarith
      rw [Nat.mul_zero, Nat.mul_zero, Nat.zero_add, Nat.zero_add, packBlocks, Nat.add_assoc, Nat.pow_add, Nat.mul_assoc, ← Nat.mul_add, add_high_field _ _ hbi,
        packElems_elem, List.getD_eq_getElem?_getD, List.getElem?_take, if_pos hi, ← List.getD_eq_getElem?_getD]
    | succ j =>
      have hexp : (32 * b + 16) * (j + 1) + b * i = (32 * b + 16) + ((32 * b + 16) * j + b * i) := by ring
      have hidx : 32 * (j + 1) + i = 32 + (32 * j + i) := by ring
      rw [hexp, Nat.pow_add, ← Nat.div_div_eq_div_mul, packBlocks_div, ih _ (Nat.lt_of_succ_lt_succ hj), hidx, List.getD_eq_getElem?_getD,
        List.getElem?_drop, ← List.getD_eq_getElem?_getD]

theorem packBlocks_scale {scales : List Nat} (vals : List Nat) {j : Nat} (hj : j < scales.length) :
    packBlocks b scales vals / 2 ^ ((32 * b + 16) * j + 32 * b) % 2 ^ 16 = scales[j] % 2 ^ 16 := by
  induction scales generalizing vals j with
  | nil => exact absurd hj (Nat.not_lt_zero j)
  | cons s rest ih =>
    cases j with
    | zero =>
      rw [Nat.mul_zero, Nat.zero_add, packBlocks, add_high_field _ _ (Nat.le_refl _), Nat.add_mul_div_left _ _ (Nat.two_pow_pos _),
        Nat.div_eq_of_lt (packElems_take_lt b vals), Nat.zero_add, List.getElem_cons_zero]
      exact Nat.mod_mod s _
    | succ j =>
      have hexp : (32 * b + 16) * (j + 1) + 32 * b = (32 * b + 16) + ((32 * b + 16) * j + 32 * b) := by ring
      rw [hexp, Nat.pow_add, ← Nat.div_div_eq_div_mul, packBlocks_div, ih _ (Nat.lt_of_succ_lt_succ hj), List.getElem_cons_succ]

end

/-- A list of blocks laid out row by row. -/
theorem flatMap_rows (f : Nat → Nat → Nat) (n : Nat) :
    ((List.range n).flatMap fun j => (List.range 32).map fun i => f j i) = (List.range (32 * n)).map fun q => f (q / 32) (q % 32) := by
  induction n with
  | zero => rfl
  | succ n ih =>
    rw [List.range_succ (n := n), List.flatMap_append, ih, Nat.mul_succ, List.range_add, List.map_append, List.flatMap_singleton, List.map_map]
    congr 1
    refine List.map_congr_left fun i hi => ?_
    have hlt := List.mem_range.mp hi
    simp only [Function.comp_apply]
    rw [show (32 * n + i) / 32 = n by omega, show (32 * n + i) % 32 = i by omega]

end Sys2Proof.Machine
end

section
/-! Conversions and block formats (R44, R45, R150 to R156). -/
namespace Sys2Proof.Machine

/-! ### The scale VMXEXP chooses (R151) -/

/-- The greatest of a list, folded from its head. -/
theorem foldl_max_eq {e m : Int} {l : List Int} (hm : m ∈ e :: l) (h : ∀ x ∈ e :: l, x ≤ m) : l.foldl max e = m := by
  induction l generalizing e with
  | nil => exact (List.mem_singleton.mp hm).symm
  | cons x l ih =>
    refine ih (e := max e x) ?_ ?_
    · rcases List.mem_cons.mp hm with rfl | hm
      · rw [max_eq_left (h x (by simp))]
        exact List.mem_cons_self
      · rcases List.mem_cons.mp hm with rfl | hm
        · rw [max_eq_right (h e List.mem_cons_self)]
          exact List.mem_cons_self
        · exact List.mem_cons_of_mem _ hm
    · intro y hy
      rcases List.mem_cons.mp hy with rfl | hy
      · exact max_le (h e List.mem_cons_self) (h x (by simp))
      · exact h y (by simp [hy])

/-- Values that are all finite. -/
def AllFinite (vs : List FVal) : Prop := ∀ v ∈ vs, ∃ y, v = FVal.fin y

/-- The exponents among which the scale is chosen. -/
def scaleExps (vs : List FVal) : List Int := vs.filterMap fun v => match v with | .fin x => if x.isZero then none else some x.log2 | _ => none

theorem mem_scaleExps {vs : List FVal} {e : Int} : e ∈ scaleExps vs ↔ ∃ y, FVal.fin y ∈ vs ∧ y.isZero = false ∧ y.log2 = e := by
  rw [scaleExps, List.mem_filterMap]
  constructor
  · rintro ⟨v, hv, he⟩
    cases v with
    | nan s => cases he
    | inf s => cases he
    | fin y =>
      cases hz : y.isZero with
      | true => simp [hz] at he
      | false => exact ⟨y, hv, hz, by simpa [hz] using he⟩
  · rintro ⟨y, hv, hz, rfl⟩
    exact ⟨.fin y, hv, by simp [hz]⟩

theorem chooseScale_of_not_finite {vs : List FVal} (head : Bool) (h : ¬ AllFinite vs) : chooseScale head vs = (0xFF00, true) := by
  unfold AllFinite at h
  push Not at h
  obtain ⟨v, hv, hne⟩ := h
  rw [chooseScale, if_pos]
  rw [List.any_eq_true]
  refine ⟨v, hv, ?_⟩
  cases v with
  | nan s => rfl
  | inf s => rfl
  | fin y => exact absurd rfl (hne y)

theorem chooseScale_of_finite {vs : List FVal} (head : Bool) (h : AllFinite vs) :
    chooseScale head vs = match scaleExps vs with
      | [] => (0, false)
      | e :: rest => ((clampInt 1 254 (rest.foldl max e + 127 + (if head then 1 else 0))).toNat * 256, false) := by
  rw [chooseScale, if_neg]
  · rfl
  · rw [List.any_eq_true]
    rintro ⟨v, hv, hbad⟩
    obtain ⟨y, rfl⟩ := h v hv
    cases hbad

/-- No exponent is chosen where no value differs from zero. -/
theorem chooseScale_zero {vs : List FVal} (head : Bool) (h : AllFinite vs) (h0 : ∀ y, FVal.fin y ∈ vs → y.isZero = true) : chooseScale head vs = (0, false) := by
  have hnil : scaleExps vs = [] := List.eq_nil_iff_forall_not_mem.mpr fun e he => by
    obtain ⟨y, hy, hz, -⟩ := mem_scaleExps.mp he
    rw [h0 y hy] at hz
    cases hz
  rw [chooseScale_of_finite head h, hnil]

/-- Else the greatest exponent is. -/
theorem chooseScale_greatest {vs : List FVal} (head : Bool) {y : Exact} (h : AllFinite vs) (hy : FVal.fin y ∈ vs) (hz : y.isZero = false)
    (hmax : ∀ z, FVal.fin z ∈ vs → z.isZero = false → z.log2 ≤ y.log2) :
    chooseScale head vs = ((clampInt 1 254 (y.log2 + 127 + (if head then 1 else 0))).toNat * 256, false) := by
  have hmem : y.log2 ∈ scaleExps vs := mem_scaleExps.mpr ⟨y, hy, hz, rfl⟩
  have hle : ∀ e ∈ scaleExps vs, e ≤ y.log2 := fun e he => by
    obtain ⟨z, hzm, hzz, rfl⟩ := mem_scaleExps.mp he
    exact hmax z hzm hzz
  rw [chooseScale_of_finite head h]
  cases hl : scaleExps vs with
  | nil => rw [hl] at hmem; cases hmem
  | cons e rest =>
    rw [hl] at hmem hle
    dsimp only
    rw [foldl_max_eq hmem hle]

/-- The finite values need no flag. -/
theorem chooseScale_quiet {vs : List FVal} (head : Bool) (h : AllFinite vs) : (chooseScale head vs).2 = false := by
  rw [chooseScale_of_finite head h]
  cases scaleExps vs <;> rfl

/-! ### Scales of a register, and of SCALEL -/

theorem quantScale_eq (s : BitVec 16) :
    quantScale s.toNat % 2 ^ 16 = if s.toNat / 256 = 255 then 0xFF00 else if s.toNat / 256 = 0 then 0 else s.toNat := by
  have hs := s.isLt
  have hmod : s.toNat / 256 % 256 = s.toNat / 256 := Nat.mod_eq_of_lt (by omega)
  simp only [quantScale, bsPoisoned, bsZero, hmod, beq_iff_eq]
  split
  · rfl
  · split
    · rfl
    · exact Nat.mod_eq_of_lt hs

end Sys2Proof.Machine

namespace Sys2Proof.Proofs
open Sys2Proof Sys2Proof.Machine Sys2Proof.Claims

/-- Settles O15: VCVT and VDEQ are element-wise, VQUANT and VXPAND fill packed blocks, VMXEXP chooses a scale, and VPBOOK acts at c + 1. -/
theorem vectorConversions : Obligations.VectorConversions := by
  intro s id k hi hu d b cv mx qx dx px co x gives wt m wd
  refine ⟨?cvt, ?deq, ?quant, ?xpand, ?mxexp, ?pbook⟩
  case cvt =>
    let d0 := if wt < numW cv.src then cv.part.val * m else 0
    let f (i : Nat) (md : Mode) : Res :=
      convert cv.src cv.dst co.ftz cv.sat md (elemAt (numW cv.src) x ((if numW cv.src < wt then cv.part.val * m else 0) + (i - d0)))
    let act := co.active (dmReg cv.msk) wt
    refine ⟨_, _, _, _, loopMode wt act (co.rnd cv.rnd) k d0 co.gens,
      (exec_vcvt ..).trans (primOp_land hi hu (l := landElems d 3 wt d0 (elemLoop wt act (dmZero cv.msk) (co.rnd cv.rnd) k f m d0 co.gens)) (g := some _) rfl
        (by simp only [View.v_live]; rfl)), fun hr => ⟨?_, loopMode_of_ne_sr hr _ _⟩, loopMode_draws act k d0 co.gens, fun j hj => ?_⟩
    · exact (elemLoop_gens ..).trans (loopGens_of_ne_sr hr _ _ _)
    · have hm := landElems_mask wt act (dmZero cv.msk) (co.rnd cv.rnd) k f d 3 m d0 co.gens hj
      have hv := landElems_val wt act (dmZero cv.msk) (co.rnd cv.rnd) k f d 3 m d0 co.gens hj
      intro e
      cases ha : act (d0 + j) with
      | true =>
        simp only [ha, f, Nat.add_sub_cancel_left, Bool.true_or, if_true] at hm hv
        exact (if_pos ha).mpr ⟨hm, hv⟩
      | false =>
        rw [ha, Bool.false_or] at hm
        exact (if_neg (Bool.eq_false_iff.mp ha)).mpr hm
  case deq =>
    obtain ⟨val, mask, fl, gens, md, he, hrnd, hsr, hel⟩ := elemPlan_elements (srcs := [(1, .v b)]) (d := d) (w := wd) (lat := 3) (dm := dx.msk) (r := co.rnd dx.rnd) hi hu
      (body := fun v => v.elemPlan d (ftyFmt dx.t).width 3 dx.msk (v.c.rnd dx.rnd) fun i md =>
        deqElem v.c.book (ftyFmt dx.t) v.c.ftz md dx.f (blockScale dx.f (v.v 1 b) (i / 32)) (blockElem dx.f (v.v 1 b) (i / 32) (i % 32)))
      (g := fun md j => deqElem co.book (ftyFmt dx.t) co.ftz md dx.f (blockScale dx.f x (j / 32)) (blockElem dx.f x (j / 32) (j % 32))) (by simp only [View.v_live]; rfl)
    refine ⟨val, mask, fl, gens, md, he, hrnd, hsr, fun j hj hact => ?_⟩
    have h := hel j hj
    rw [if_pos hact] at h
    exact h.2
  case quant =>
    let wq := ftyW qx.t
    let bq := mxBits qx.f
    let sq := co.sp.scalel.toNat
    let act := co.active qx.msk wq
    let f (i : Nat) (md : Mode) : Res := quantElem co.book ((ftyFmt qx.t).readZ co.ftz (elemAt wq x i)) sq qx.f md
    let e := elemLoop wq act false (co.rnd qx.rnd) k f (2048 / wq) 0 co.gens
    let scales := List.replicate (2048 / wq / 32) (quantScale sq)
    have hlen : scales.length = 2048 / wq / 32 := List.length_replicate
    refine ⟨_, _, _, _, loopMode wq act (co.rnd qx.rnd) k 0 co.gens,
      (exec_vquant ..).trans (primOp_land hi hu (l := landV d 3 (packBlocks bq scales e.vals) _ _) (g := some _) rfl (by simp only [View.v_live]; rfl)),
      fun hr => ⟨(elemLoop_gens ..).trans (loopGens_of_ne_sr hr _ _ _), loopMode_of_ne_sr hr _ _⟩, loopMode_draws act k 0 co.gens, rfl, hlen ▸ packBlocks_lt bq scales e.vals,
      fun j hj => ⟨?_, fun i hlt => ?_⟩⟩
    · refine (packBlocks_scale bq e.vals (hlen ▸ hj)).trans ?_
      rw [List.getElem_replicate]
      exact quantScale_eq co.sp.scalel
    · have hin : 32 * j + i < 2048 / wq := by
        have hj' : j < 2048 / wq / 32 := hj
        omega
      refine (packBlocks_elem bq e.vals (hlen ▸ hj) hlt).trans ?_
      rw [elemLoop_vals wq act false (co.rnd qx.rnd) k f (2048 / wq) 0 co.gens hin, Nat.zero_add, apply_ite (· % 2 ^ bq), Nat.zero_mod]
  case xpand =>
    let f (j i : Nat) : Nat := expandElem co.book px.f (blockElem px.f x j i)
    let scales := (List.range (px.cm1.val + 1)).map (blockScale px.f x)
    let vals := (List.range (px.cm1.val + 1)).flatMap fun j => (List.range 32).map fun i => f j i
    have hlen : scales.length = px.cm1.val + 1 := by rw [List.length_map, List.length_range]
    refine ⟨_, _, _, _, fun _ => .rne, (exec_vxpand ..).trans (primOp_land hi hu (l := landV d 3 (packBlocks 8 scales vals) _ _) (g := none) rfl (by simp only [View.v_live]; rfl)),
      fun _ => ⟨rfl, fun _ => rfl⟩, fun h => (nomatch h), rfl, hlen ▸ packBlocks_lt 8 scales vals, fun j i hj hlt => ⟨?_, ?_⟩⟩
    · refine (packBlocks_elem 8 vals (hlen ▸ Nat.lt_succ_of_le hj) hlt).trans ?_
      have hrow : (32 * j + i) / 32 = j ∧ (32 * j + i) % 32 = i := by omega
      rw [show vals = _ from flatMap_rows f _, List.getD_eq_getElem?_getD, List.getElem?_map, List.getElem?_range (by omega), Option.map_some, Option.getD_some, hrow.1, hrow.2]
      exact Nat.mod_eq_of_lt (wrapNat_lt 8 _)
    · refine (packBlocks_scale 8 vals (hlen ▸ Nat.lt_succ_of_le hj)).trans ?_
      rw [List.getElem_map, List.getElem_range]
      exact Nat.mod_mod_of_dvd _ (dvd_refl _)
  case mxexp =>
    let fm := ftyFmt mx.t
    let xs := ((List.range (2048 / fm.width)).filter fun i => co.active mx.msk fm.width i).map fun i => fm.readZ co.ftz (elemAt fm.width x i)
    refine ⟨_, _, (exec_vmxexp ..).trans (primOp_land hi hu (g := none)
      (l := { dest := .scalel, lat := 3, val := (chooseScale mx.head xs).1, mask := 0xFFFF, latch := false, flags := flagIf (chooseScale mx.head xs).2 fNV }) rfl
      (by simp only [View.v_live]; rfl)), fun h => ?_, fun h => ?_, fun h h0 => ?_, fun y h hy hz hmax => ?_⟩
    · rw [chooseScale_of_not_finite _ h]
      exact ⟨rfl, rfl⟩
    · rw [chooseScale_quiet _ h]
      rfl
    · rw [chooseScale_zero _ h h0]
    · rw [chooseScale_greatest _ h hy hz hmax]
      simp only [clampInt]
      omega
  case pbook => exact (exec_vpbook ..).trans (primOp_act hi hu (by simp only [Plan.effects, View.v_live]; rfl))

end Sys2Proof.Proofs
end

section
/-! Operations that read or write memory when they issue, by what they queue (R57, R61, R70). -/
namespace Sys2Proof.Machine

section
variable {s : State} {id : Nat} {k : Slot} {srcs : List (Nat × Src)} {body : View → Plan} (hi : Claims.Issuing s id k) (hu : Claims.Unbound s id)
include hi hu

/-- A plan that does nothing of its own at issue queues its results, its effects and its writes, and changes no byte. -/
theorem primOp_queues (ht : (body (viewOf s id k)).take = none) (hupd : (body (viewOf s id k)).upd = fun c => c) (hupdS : (body (viewOf s id k)).updS = fun s => s) :
    let c := s.core id
    let p := body (viewOf s id k)
    ∃ u, primOp srcs body s = .next u ∧ (∀ z, u.mem.byte z = s.mem.byte z) ∧ (u.core id).flights = c.flights ++ p.lands.map (fun l => l.flight c k) ∧
      (u.core id).acts = c.acts ++ p.acts.map (fun a => (c.ic + a.1, c.ic, a.2)) ∧ (u.core id).writes = c.writes ++ p.writes.map (fun w => (c.ic + w.1, w.2)) := by
  intro c p
  refine ⟨_, primOp_effects hi hu rfl ht fun x => congrArg (fun f => (f x).ports) hupd, ?_⟩
  simp only [Plan.effects, hupd, hupdS, State.core_setCore_self, State.setCore_mem]
  exact ⟨Memory.byte_scrubs _ _, rfl, rfl, rfl⟩

variable {i : Instr} (hx : exec i s = primOp srcs body s)
include hx

/-- The same of an operation with one result, whose words are without error. -/
theorem exec_reads {l : Land} (hl : l.pend = 0) (hlands : (body (viewOf s id k)).lands = [l]) (ht : (body (viewOf s id k)).take = none)
    (hupd : (body (viewOf s id k)).upd = fun c => c) (hupdS : (body (viewOf s id k)).updS = fun s => s) :
    let c := s.core id
    ∃ u, exec i s = .next u ∧ (∀ z, u.mem.byte z = s.mem.byte z) ∧
      (u.core id).flights = c.flights ++ [Claims.inFlight c k l.dest l.lat l.val l.flags l.mask l.latch] := by
  intro c
  obtain ⟨u, he, hmem, hfl, -, -⟩ := primOp_queues hi hu (srcs := srcs) ht hupd hupdS
  refine ⟨u, hx.trans he, hmem, ?_⟩
  rw [hfl, hlands, List.map_cons, List.map_nil, Land.flight_eq_inFlight hl]

/-- The same of an operation that only puts bytes down. -/
theorem exec_puts {n : Nat} {bytes : List PutByte} (hlands : (body (viewOf s id k)).lands = []) (hw : (body (viewOf s id k)).writes = [(n, .put bytes)])
    (ht : (body (viewOf s id k)).take = none) (hupd : (body (viewOf s id k)).upd = fun c => c) (hupdS : (body (viewOf s id k)).updS = fun s => s) :
    let c := s.core id
    ∃ u, exec i s = .next u ∧ (∀ z, u.mem.byte z = s.mem.byte z) ∧ (u.core id).flights = c.flights ∧
      (u.core id).writes = c.writes ++ [(c.ic + n, .put bytes)] := by
  intro c
  obtain ⟨u, he, hmem, hfl, -, hwr⟩ := primOp_queues hi hu (srcs := srcs) ht hupd hupdS
  refine ⟨u, hx.trans he, hmem, ?_, ?_⟩
  · rw [hfl, hlands, List.map_nil, List.append_nil]
  · rw [hwr, hw, List.map_cons, List.map_nil]

end

/-- What one more write puts down. -/
theorem newPuts_one {c c' : Core} {t : Nat} {bytes : List PutByte} (h : c'.writes = c.writes ++ [(t, .put bytes)]) : Claims.newPuts c c' = bytes := by
  rw [Claims.newPuts, h, List.drop_left, List.flatMap_singleton]

end Sys2Proof.Machine
end

section
/-! Vector loads and stores, gathers and scatters (R158 to R160). -/
namespace Sys2Proof.Machine

/-! ### Masked bytes -/

/-- The first byte, where its mask has a one, and the rest. -/
theorem maskedPuts_succ (key n x mask : Nat) : maskedPuts key (n + 1) x mask =
    (if BitVec.ofNat 8 mask = 0 then [] else [(key, BitVec.ofNat 8 x, BitVec.ofNat 8 mask)]) ++ maskedPuts (key + 1) n (x / 256) (mask / 256) := by
  rw [maskedPuts, bytesOf, bytesOf, putBytes, List.zip_cons_cons, List.filterMap_cons]
  by_cases h : BitVec.ofNat 8 mask = 0
  · rw [if_pos h, if_pos h]
    rfl
  · rw [if_neg h, if_neg h]
    rfl

/-- R158: exactly the bytes in whose mask there is a one. -/
theorem maskedPuts_eq (key n x mask : Nat) : maskedPuts key n x mask = (List.range n).filterMap fun i =>
    if mask / 2 ^ (8 * i) % 2 ^ 8 = 0 then none else some (key + i, BitVec.ofNat 8 (x / 2 ^ (8 * i)), BitVec.ofNat 8 (mask / 2 ^ (8 * i) % 2 ^ 8)) := by
  induction n generalizing key x mask with
  | zero => rfl
  | succ n ih =>
    have hmod : BitVec.ofNat 8 (mask % 2 ^ 8) = BitVec.ofNat 8 mask := by rw [← BitVec.toNat_inj, BitVec.toNat_ofNat, BitVec.toNat_ofNat, Nat.mod_mod]
    have hzero : BitVec.ofNat 8 mask = 0 ↔ mask % 2 ^ 8 = 0 := by rw [← BitVec.toNat_inj, BitVec.toNat_ofNat]; rfl
    have hnext (y i : Nat) : y / 256 / 2 ^ (8 * i) = y / 2 ^ (8 * (i + 1)) := by
      rw [Nat.div_div_eq_div_mul, Nat.mul_succ, Nat.add_comm (8 * i) 8, Nat.pow_add]
    rw [maskedPuts_succ, ih, List.range_succ_eq_map, List.filterMap_cons, List.filterMap_map]
    simp only [Function.comp_def, Nat.succ_eq_add_one, hnext, Nat.mul_zero, Nat.pow_zero, Nat.div_one, Nat.add_zero, Nat.add_right_comm key 1, ← Nat.add_assoc, hmod]
    by_cases h : mask % 2 ^ 8 = 0
    · rw [if_pos h, if_pos (hzero.mpr h)]
      rfl
    · rw [if_neg h, if_neg (mt hzero.mp h)]
      rfl

/-- Without a mask, whole bytes. -/
theorem maskedPuts_all {n bits : Nat} (hb : bits = 8 * n) (key x : Nat) : maskedPuts key n x (2 ^ bits - 1) = putBytes key (bytesOf n x) := by
  subst hb
  induction n generalizing key x with
  | zero => rfl
  | succ n ih =>
    have hpow : 2 ^ (8 * (n + 1)) = 256 * 2 ^ (8 * n) := by rw [Nat.mul_succ, Nat.pow_add, Nat.mul_comm]
    have hpos := Nat.two_pow_pos (8 * n)
    have hdiv : (2 ^ (8 * (n + 1)) - 1) / 256 = 2 ^ (8 * n) - 1 := by omega
    have hbyte : BitVec.ofNat 8 (2 ^ (8 * (n + 1)) - 1) = 0xFF := by
      rw [← BitVec.toNat_inj, BitVec.toNat_ofNat]
      show (2 ^ (8 * (n + 1)) - 1) % 256 = 255
      omega
    rw [maskedPuts_succ, hdiv, ih, hbyte]
    rfl

/-! ### Addresses -/

/-- The effective address of a vector access (R67, R158). -/
def Core.vecAddr (c : Core) (b : VSSrc) (x : OffX) : Nat := (c.ss (vsToS b) + (match x with | .reg o => c.ss (vsToS o) | .imm i => i.signExtend 64)).toNat

theorem View.vldAddr_live (st : State) (id : Nat) (c : Core) (k : Slot) (b : VSSrc) (x : OffX) : (View.mk st id c k none).vldAddr b x = c.vecAddr b x := by
  cases x with
  | reg o => simp only [View.vldAddr, View.offVal, View.vs_live, eaOf, Core.vecAddr]
  | imm i => simp only [View.vldAddr, View.offVal, View.vs_live, eaOf, Core.vecAddr]

/-! ### Gathers and scatters -/

theorem firstFault_none {l : List (Nat × Nat)} (h : ∀ x ∈ l, x = (0, 0)) : firstFault l = (0, 0) := by
  have hno (p : Nat × Nat → Bool) (hp : p (0, 0) = false) : l.find? p = none := List.find?_eq_none.mpr fun x hx => by rw [h x hx, hp]; decide
  rw [firstFault, hno _ rfl, hno _ rfl]
  rfl

/-- A live position is found among the live ones. -/
theorem find_live {n i : Nat} {live : Nat → Bool} (h : Nat → Nat) (hi : i < n) (hl : live i = true) :
    ((((List.range n).filter live).map fun j => (j, h j)).find? fun x => x.1 == i) = some (i, h i) := by
  cases hf : (((List.range n).filter live).map fun j => (j, h j)).find? fun x => x.1 == i with
  | none =>
    have hmem : (i, h i) ∈ ((List.range n).filter live).map fun j => (j, h j) := List.mem_map_of_mem (List.mem_filter.mpr ⟨List.mem_range.mpr hi, hl⟩)
    exact absurd (beq_self_eq_true i) (List.find?_eq_none.mp hf _ hmem)
  | some e =>
    obtain ⟨j, -, rfl⟩ := List.mem_map.mp (List.mem_of_find?_eq_some hf)
    have hj := List.find?_some hf
    rw [show j = i from beq_iff_eq.mp hj]


/-- The numbers of `w / 8` bytes are those of `w` bits. -/
theorem Memory.read_mod_elemBits (m : Memory) (t : ElemW) (a : Nat) : m.read a (elemBits t / 8) % 2 ^ elemBits t = m.read a (elemBits t / 8) := by
  have h := m.read_lt a (elemBits t / 8)
  cases t <;> exact Nat.mod_eq_of_lt h

/-- R160: a nibble's address counts nibbles, modulo twice the address space. -/
theorem nibbleAddr_eq (b : Word) (n : Nat) : nibbleAddr b (n : Int) = (2 * b.toNat + n) % 2 ^ 65 := by
  rw [nibbleAddr, wrapNat]
  omega

end Sys2Proof.Machine

namespace Sys2Proof.Proofs
open Sys2Proof Sys2Proof.Machine Sys2Proof.Claims

theorem vectorLoadsAndStores : Claims.VectorLoadsAndStores := by
  intro s id k hi hu b x r m w dm sm t a co ea key lat loads stores act kept
  have hea : (viewOf s id k).vldAddr b x = ea := View.vldAddr_live ..
  have load {i : Instr} {srcs : List (Nat × Src)} {body : View → Plan} {d : Dest} {n align mask sel : Nat} (hx : exec i s = primOp srcs body s)
      (hb : body (viewOf s id k) = (viewOf s id k).vldPlan ea n align d mask sel) : loads i d n (s.mem.read key n &&& sel) mask := by
    intro hread
    exact exec_reads hi hu hx (l := { dest := d, lat, val := s.mem.read key n &&& sel, mask }) rfl
      (by rw [hb]; simp only [View.vldPlan, View.readFault, show s.mem.spadFault id ea n = (0, 0) from hread]; rfl) (by rw [hb]; rfl) (by rw [hb]; rfl) (by rw [hb]; rfl)
  have store {v : VstSrc} : stores (.vst v b x) (maskedPuts key (vstBytes v) ((viewOf s id k).val 0 (vstSrc v)).1 ((viewOf s id k).vstBits v)) := by
    obtain ⟨u, he, hmem, hfl, hw⟩ := exec_puts hi hu (exec_vst s v b x) rfl rfl rfl rfl rfl
    rw [hea] at hw
    refine ⟨u, he, newPuts_one hw, fun z hz => ?_, hmem, hfl⟩
    rw [hw, List.drop_left, List.mem_singleton] at hz
    rw [hz]
  have hsel {n bits : Nat} (hb : bits = 8 * n) : s.mem.read key n &&& (2 ^ bits - 1) = s.mem.read key n := by
    rw [hb, Nat.and_two_pow_sub_one_eq_mod]
    exact Nat.mod_eq_of_lt ((s.mem.read_lt key n).trans_eq (by rw [Nat.pow_mul]))
  refine ⟨load (align := 64) (exec_vld ..) ?vld, ?vldm, ?vldw, ?vst, ?vstm, ?vstw⟩
  case vld => rw [← hea]
  case vldm =>
    have h := load (i := .vld (.m m) b x) (d := .m m) (n := 16) (align := 16) (mask := 2 ^ 128 - 1) (sel := 2 ^ 128 - 1) (exec_vld ..) (by rw [← hea])
    rwa [hsel (n := 16) (bits := 128) rfl] at h
  case vldw =>
    have h := load (i := .vld (.w w) b x) (d := .w w) (n := 64) (align := 64) (mask := 2 ^ 512 - 1) (sel := 2 ^ 512 - 1) (exec_vld ..) (by rw [← hea])
    rwa [hsel (n := 64) (bits := 512) rfl] at h
  case vst =>
    have h := store (v := .v a sm t)
    rwa [maskedPuts_eq] at h
  case vstm =>
    have hall := maskedPuts_all (n := 16) (bits := 128) rfl key (co.m[m]).toNat
    exact hall ▸ store (v := .m m)
  case vstw =>
    have hall := maskedPuts_all (n := 64) (bits := 512) rfl key (co.w[w]).toNat
    exact hall ▸ store (v := .w w)

theorem gatherAndScatter : Claims.GatherAndScatter := by
  intro s id k hi hu t d b a c dm sm co w iw base ea na
  let live (q : Option MReg) : List (Nat × Nat) := ((List.range (2048 / iw)).filter fun j => co.active q w j).map fun j => (j, ea j)
  refine ⟨fun hread => ?gather, ?scatter, ?nibbles⟩
  case gather =>
    let f (i : Nat) (_ : Mode) : Res := ((((live (dmReg dm)).find? fun x => x.1 == i).map fun x => s.mem.read (spadKey id x.2) (w / 8)).getD 0, 0)
    let el := elemLoop w (co.active (dmReg dm) w) (dmZero dm) .rne k f (2048 / iw) 0 co.gens
    have hfault : firstFault ((live (dmReg dm)).map fun x => s.mem.spadFault id x.2 (w / 8)) = (0, 0) := firstFault_none fun x hx => by
      obtain ⟨e, he, rfl⟩ := List.mem_map.mp hx
      obtain ⟨j, hj, rfl⟩ := List.mem_map.mp he
      obtain ⟨hlt, hact⟩ := List.mem_filter.mp hj
      exact hread j (List.mem_range.mp hlt) hact
    have hflags : el.flags = 0 := elemLoop_flags w _ _ _ _ _ (fun _ _ => rfl) ..
    obtain ⟨u, he, hmem, hfl⟩ := exec_reads hi hu (exec_vldx s t d b c dm) (l := landElems d co.gLat w 0 el) rfl
      (by simp only [View.vs_live, View.v_live]; exact congrArg (fun e : Nat × Nat => [{ landElems d co.gLat w 0 el with pend := e.1, addr := e.2 }]) hfault) rfl rfl rfl
    rw [show (landElems d co.gLat w 0 el).flags = 0 from hflags] at hfl
    refine ⟨u, _, _, he, hmem, hfl, fun j hj => ?_⟩
    have h := landElems_written w (co.active (dmReg dm) w) (dmZero dm) .rne k f d co.gLat (2048 / iw) co.gens hj
    cases ha : co.active (dmReg dm) w j with
    | true =>
      rw [ha] at h
      simp only [f, live, find_live (live := fun j => co.active (dmReg dm) w j) ea hj ha, Option.map_some, Option.getD_some, if_true] at h
      exact ⟨h.1, h.2.trans (s.mem.read_mod_elemBits t _)⟩
    | false =>
      rw [ha] at h
      exact h.1
  case scatter =>
    obtain ⟨u, he, hmem, hfl, hw⟩ := exec_puts hi hu (exec_vstx s t a b c sm) (n := 3)
      (bytes := (live sm).flatMap fun e => putBytes (spadKey id e.2) (bytesOf (w / 8) (elemAt w (co.vv a) e.1))) rfl (by simp only [View.vs_live, View.v_live]; rfl) rfl rfl rfl
    refine ⟨u, he, hmem, hfl, ?_⟩
    rw [hw, List.flatMap_map]
  case nibbles =>
    obtain ⟨u, he, hmem, hfl, hw⟩ := exec_puts hi hu (exec_vstxN4 s a b c sm) (n := 3)
      (bytes := (((List.range 128).filter fun j => co.active sm 16 j).map fun j => (j, na j)).map fun e => nibblePut (spadKey id (e.2 / 2)) e.2 (elemAt 16 (co.vv a) e.1)) rfl
      (by simp only [View.vs_live, View.v_live, nibbleAddr_eq]; rfl) rfl rfl rfl
    refine ⟨u, he, hmem, hfl, ?_⟩
    rw [hw, List.map_map]
    simp only [Function.comp_def, nibblePut_eq]
    rfl

/-- Settles O16: a load is a read whose result flies, a store is its masked bytes, and a gather and a scatter go through the list of their active elements. -/
theorem vectorMemory : Obligations.VectorMemory := ⟨vectorLoadsAndStores, gatherAndScatter⟩

end Sys2Proof.Proofs
end

section
/-! Accumulator moves and stream ports (R169 to R173). -/
namespace Sys2Proof.Machine

/-! ### Numbers by their elements -/

theorem elemLoop_vals_length (w : Nat) (act : Nat → Bool) (zm : Bool) (r : Rnd) (slot : Slot) (f : Nat → Mode → Res) (n i : Nat) (g : Gens) :
    (elemLoop w act zm r slot f n i g).vals.length = n := by
  induction n generalizing i g with
  | zero => rfl
  | succ n ih =>
    rw [elemLoop_succ]
    exact congrArg (· + 1) (ih ..)

/-- A packed list is the number whose elements it holds. -/
theorem packElems_eq {w n x : Nat} {es : List Nat} (hw : 0 < w) (hn : es.length = n) (hx : x < 2 ^ (w * n)) (h : ∀ j, j < n → es.getD j 0 % 2 ^ w = x / 2 ^ (w * j) % 2 ^ w) :
    packElems w es = x := by
  refine Nat.eq_of_testBit_eq fun i => ?_
  by_cases hi : i < w * n
  · have hj : i / w < n := Nat.div_lt_of_lt_mul hi
    have hb := Nat.mod_lt i hw
    have hbit := congrArg (fun y => y.testBit (i % w)) ((packElems_elem w es (i / w)).trans (h _ hj))
    simpa only [Nat.testBit_mod_two_pow, hb, decide_true, Bool.true_and, Nat.testBit_div_two_pow, Nat.add_comm (i % w), Nat.div_add_mod] using hbit
  · have hle : 2 ^ (w * n) ≤ 2 ^ i := Nat.pow_le_pow_right Nat.two_pos (by omega)
    rw [Nat.testBit_lt_two_pow ((packElems_lt w es).trans_le (hn ▸ hle)), Nat.testBit_lt_two_pow (hx.trans_le hle)]

/-- A loop over all of its elements writes them whole. -/
theorem fullLoop_mask {w n N : Nat} (hN : w * n = N) (zm : Bool) (r : Rnd) (slot : Slot) (f : Nat → Mode → Res) (i : Nat) (g : Gens) :
    packElems w (elemLoop w (fun _ => true) zm r slot f n i g).msks = 2 ^ N - 1 := by
  subst hN
  induction n generalizing i g with
  | zero => rfl
  | succ n ih =>
    have hpos := Nat.two_pow_pos w
    have hle : 2 ^ w ≤ 2 ^ w * 2 ^ (w * n) := Nat.le_mul_of_pos_right _ (Nat.two_pow_pos _)
    rw [elemLoop_succ]
    simp only [packElems, ih, Bool.true_or, if_true]
    rw [Nat.mod_eq_of_lt (by omega), Nat.mul_succ w n, Nat.add_comm (w * n) w, Nat.pow_add, Nat.mul_sub, Nat.mul_one]
    omega

/-- A loop over all of its elements that computes the elements of a number computes the number. -/
theorem fullLoop_value {w n N x : Nat} {zm : Bool} {r : Rnd} {slot : Slot} {f : Nat → Mode → Res} {g : Gens} (hN : w * n = N) (hw : 0 < w) (hx : x < 2 ^ N)
    (hf : ∀ j m, (f j m).1 = x / 2 ^ (w * j) % 2 ^ w) : packElems w (elemLoop w (fun _ => true) zm r slot f n 0 g).vals = x :=
  packElems_eq hw (elemLoop_vals_length ..) (hN ▸ hx) fun j hj => by rw [elemLoop_vals _ _ _ _ _ _ _ _ _ hj, if_pos rfl, hf, Nat.mod_mod, Nat.zero_add]

/-- The conjunction of a vector with itself, unmasked, is that vector whole. -/
theorem landElems_and_self {x : VWord} {m : Nat} (hx : x = BitVec.ofNat 2048 m) (hm : m < 2 ^ 2048) (d : VReg) (k : Slot) (g : Gens) :
    landElems d 2 32 0 (elemLoop 32 (fun _ => true) false .rne k (fun j _ => (elemAt 32 x j &&& elemAt 32 x j, 0)) 64 0 g) =
      { dest := .v d, lat := 2, val := m, mask := 2 ^ 2048 - 1 } := by
  let e := elemLoop 32 (fun _ => true) false .rne k (fun j _ => (elemAt 32 x j &&& elemAt 32 x j, 0)) 64 0 g
  have hval : packElems 32 e.vals = m :=
    fullLoop_value (w := 32) (n := 64) (N := 2048) rfl (by decide) hm fun j _ => by
      simp only [Nat.and_self, hx, elemAt, BitVec.toNat_ofNat, Nat.mod_eq_of_lt hm]
  have hmask : packElems 32 e.msks = 2 ^ 2048 - 1 := fullLoop_mask (w := 32) (n := 64) (N := 2048) rfl ..
  have hflags : e.flags = 0 := elemLoop_flags 32 _ _ _ _ _ (fun _ _ => rfl) ..
  change landElems d 2 32 0 e = _
  simp only [landElems, hval, hmask, hflags, Nat.mul_zero, Nat.pow_zero, Nat.mul_one]

/-! ### Effects for a later cycle -/

/-- An operation that only leaves effects for later cycles. -/
theorem primOp_acts {s : State} {id : Nat} {k : Slot} {srcs : List (Nat × Src)} {body : View → Plan} (hi : Claims.Issuing s id k) (hu : Claims.Unbound s id)
    {l : List (Nat × Act)} {accs : List (Nat × Nat)} (hq : (body (viewOf s id k)).effects = { acts := l, accs := accs }) :
    let c := s.core id
    primOp srcs body s = .next (s.setCore id { c with acts := c.acts ++ l.map fun a => (c.ic + a.1, c.ic, a.2) }) := by
  rw [primOp_effects hi hu hq rfl fun _ => rfl]
  simp only [List.map_nil, List.append_nil, List.foldl_nil, Option.getD_none]

/-! ### Ports -/

/-- What VSBIND does (R170, R173). -/
def vsbindPlan (p : Port) (r : WReg) (wr : Bool) (v : View) : Plan :=
  let w := v.w 1 r
  let bad := v.bindTraps w
  if !bad.isEmpty then { traps := bad }
  else { demand := if wr then [] else bindDemand w 0, scrub := if wr then [] else (unitBytes w 0).map fun q => (spadKey v.id q.2, 1),
         later := if wr then [] else (List.range 7).flatMap fun j => bindDemand w (j + 1),
         acts := [(1, .bind p (.walk wr w 0 (if wr then [] else [fillOf v.st.mem v.id w 0 v.c.ic]) 1))] }

theorem exec_vsbind_plan (p : Port) (r : WReg) (wr : Bool) (s : State) : exec (.vsbind p r wr) s = primOp [(1, .w r)] (vsbindPlan p r wr) s := rfl

/-- A walk without fault is bound in the next issue cycle, for reading with its first unit filled. -/
theorem exec_vsbind_queues {s : State} {id : Nat} {k : Slot} (hi : Claims.Issuing s id k) (hu : Claims.Unbound s id) (p : Port) {r : WReg} (wr : Bool)
    (hw : (viewOf s id k).bindTraps ((s.core id).w[r]) = []) :
    let c := s.core id
    ∃ u, exec (.vsbind p r wr) s = .next u ∧
      (u.core id).acts = c.acts ++ [(c.ic + 1, c.ic, .bind p (.walk wr (c.w[r]) 0 (if wr then [] else [fillOf s.mem id (c.w[r]) 0 c.ic]) 1))] := by
  intro c
  have hbad : (viewOf s id k).bindTraps ((viewOf s id k).w 1 r) = [] := by rw [View.w_live]; exact hw
  obtain ⟨u, he, -, -, hacts, -⟩ := primOp_queues hi hu (srcs := [(1, .w r)]) (body := vsbindPlan p r wr)
    (by rw [vsbindPlan, hbad]; rfl) (by rw [vsbindPlan, hbad]; rfl) (by rw [vsbindPlan, hbad]; rfl)
  refine ⟨u, (exec_vsbind_plan p r wr s).trans he, ?_⟩
  rw [hacts, vsbindPlan, hbad, View.w_live]
  rfl

theorem Core.binding_port (c : Core) (p : Port) : c.binding (Fin.ofNat 32 (28 + p.val)) = (c.ports[p]).map fun b => (p, b) := by
  have hp : portOf (Fin.ofNat 32 (28 + p.val)) = some p := by revert p; decide
  rw [Core.binding, hp]

theorem Core.binding_register (c : Core) {d : VReg} (h : d.val < 28) : c.binding d = none := by
  rw [Core.binding, portOf, if_neg (by omega)]

/-- R171: what a port bound for reading delivers is the unit under its cursor. -/
theorem Core.vv_walk {c : Core} {r : VReg} {p : Port} {w : BitVec 512} {f : Fill} {filled : List Fill} {next : Nat}
    (hb : c.binding r = some (p, .walk false w f.unit (f :: filled) next)) (hat : c.ports[p] = some (.walk false w f.unit (f :: filled) next)) :
    c.vv (.v r) = BitVec.ofNat 2048 f.data := by
  simp [Core.vv, hb, Core.portData, hat]

theorem Core.portsRead_twice {c : Core} {r : VReg} {p : Port} {b : Binding} (hb : c.binding r = some (p, b)) (i j : Nat) :
    c.portsRead [(i, .v (.v r)), (j, .v (.v r))] = [(i, p, b), (j, p, b)] := by
  simp only [Core.portsRead, List.filterMap_cons, List.filterMap_nil, hb]

/-- A unit whose fill met no error raises none when it is popped. -/
theorem Core.popFault_walk {c : Core} {srcs : List (Nat × Src)} {i j : Nat} {p : Port} {w : BitVec 512} {f : Fill} {filled : List Fill} {next : Nat}
    (hread : c.portsRead srcs = [(i, p, .walk false w f.unit (f :: filled) next), (j, p, .walk false w f.unit (f :: filled) next)]) (hpend : f.pend = 0) :
    c.popFault srcs = (0, 0) := by
  simp [Core.popFault, hread, hpend, firstFault]

/-- R77, R171: an operation whose two sources are one port bound for reading pops it once. -/
theorem Core.markPops_walk {c : Core} {srcs : List (Nat × Src)} {i j : Nat} {p : Port} {w : BitVec 512} {unit next : Nat} {filled : List Fill}
    (hread : c.portsRead srcs = [(i, p, .walk false w unit filled next), (j, p, .walk false w unit filled next)]) (hpop : c.popped = []) :
    c.markPops srcs none = { c with popped := [p.val] } := by
  simp [Core.markPops, hread, hpop]

/-- R171: a result for an ordinary register, of units whose fills met no error. -/
theorem Core.flightsOf_fed {c : Core} {srcs : List (Nat × Src)} {q : Plan} {l : Land} {d : VReg} (k : Slot) (hf : c.popFault srcs = (0, 0))
    (hl : q.lands = [l]) (hd : l.dest = .v d) (hb : c.binding d = none) (hp : l.pend = 0) :
    c.flightsOf k srcs q = [Claims.inFlight c k (.v d) l.lat l.val l.flags l.mask l.latch] := by
  simp only [Core.flightsOf, Claims.inFlight, hf, hl, hd, hb, hp, List.map_cons, List.map_nil, if_true]

/-- R171: a vector operation whose two sources are one port bound for reading pops that port, and its result is in flight. -/
theorem Core.issue_walk {c : Core} {srcs : List (Nat × Src)} {q : Plan} {l : Land} {d : VReg} {i j : Nat} {p : Port} {w : BitVec 512} {unit next : Nat} {filled : List Fill}
    (k : Slot) (hread : c.portsRead srcs = [(i, p, .walk false w unit filled next), (j, p, .walk false w unit filled next)]) (hpop : c.popped = [])
    (hf : c.popFault srcs = (0, 0)) (hl : q.lands = [l]) (hd : l.dest = .v d) (hb : c.binding d = none) (hp : l.pend = 0) (ht : q.take = none) (hu : q.upd = fun x => x) :
    let u := c.issue k none srcs q
    u.flights = c.flights ++ [Claims.inFlight c k (.v d) l.lat l.val l.flags l.mask l.latch] ∧ u.popped = [p.val] ∧ u.ports = c.ports := by
  intro u
  simp only [u, Core.issue, Option.isSome_none, Bool.false_eq_true, if_false, hf, Plan.unfed_none, ht, hu, Core.flightsOf_fed k hf hl hd hb hp]
  rw [Core.markPops_walk (p := p)]
  · exact ⟨rfl, rfl, rfl⟩
  · exact hread
  · exact hpop

/-- R171: the cursor of a popped port bound for reading stands one unit further. -/
theorem State.applyPops_popped (s : State) (id : Nat) (squash : Bool) {p : Port} {w : BitVec 512} {unit next : Nat} {filled : List Fill}
    (hp : (s.core id).ports[p] = some (.walk false w unit filled next)) (hpop : (s.core id).popped.contains p.val = true) :
    ∃ fs nx, ((s.applyPops id squash).core id).ports[p] = some (.walk false w (unit + 1) fs nx) := by
  have hcore (m : Memory) : ({ s with mem := m } : State).core id = s.core id := rfl
  have hat : (s.core id).ports[p.val] = some (.walk false w unit filled next) := hp
  simp only [State.applyPops, State.updCore, State.core_setCore_self, Fin.getElem_fin, Vector.getElem_ofFn, hcore, hat, hpop, if_true]
  exact ⟨_, _, rfl⟩

end Sys2Proof.Machine

namespace Sys2Proof.Proofs
open Sys2Proof Sys2Proof.Machine Sys2Proof.Claims

theorem accumulatorsAndWalks : Claims.AccumulatorsAndPorts := by
  intro s id k hi hu d b a dm sm p w r co i
  refine ⟨fun hread => ?get, ?put, fun hbind => ⟨?bindWrite, ?bindRead⟩, ?unbind⟩
  case get =>
    let f (j : Nat) (_ : Mode) : Res := (s.mem.read (accKey id (i + j)) 4, 0)
    let el := elemLoop 32 (co.active (dmReg dm) 32) (dmZero dm) .rne k f 64 0 co.gens
    have hflags : el.flags = 0 := elemLoop_flags 32 _ _ _ _ _ (fun _ _ => rfl) ..
    obtain ⟨u, he, hmem, hfl⟩ := exec_reads hi hu (exec_vmovaGet s d b dm) (l := landElems d 3 32 0 el) rfl
      (by simp only [View.movaPlan, View.vs_live]; exact congrArg (fun e : Nat × Nat => [{ landElems d 3 32 0 el with pend := e.1, addr := e.2 }]) hread) rfl rfl rfl
    rw [show (landElems d 3 32 0 el).flags = 0 from hflags] at hfl
    refine ⟨u, _, _, he, hmem, hfl, fun j hj => ?_⟩
    have h := landElems_written 32 (co.active (dmReg dm) 32) (dmZero dm) .rne k f d 3 64 co.gens hj
    cases ha : co.active (dmReg dm) 32 j with
    | true =>
      rw [ha] at h
      exact ⟨h.1, h.2.trans (Nat.mod_eq_of_lt (s.mem.read_lt _ 4))⟩
    | false =>
      rw [ha] at h
      exact h.1
  case put =>
    rw [exec_vmovaPut]
    exact (primOp_acts hi hu (accs := [(i, 64)]) (by simp only [Plan.effects, View.movaPlan, View.vs_live, View.v_live]; rfl)).trans rfl
  case bindWrite => exact exec_vsbind_queues hi hu p true hbind
  case bindRead => exact exec_vsbind_queues hi hu p false hbind
  case unbind =>
    rw [exec_vsunbind, execVsunbind, portOf]
    by_cases hr : 28 ≤ r.val
    · rw [if_pos hr, if_pos hr]
      exact (primOp_acts hi hu (l := [(1, .unbind (Fin.ofNat 4 (r.val - 28)))]) (accs := []) (by rfl)).trans rfl
    · rw [if_neg hr, if_neg hr]
      exact (primOp_acts hi hu (l := []) (accs := []) (by rfl)).trans rfl

theorem readPortPops : Claims.ReadPortPops := by
  intro s id k hi p w unit next f filled d hports hunit hpend hd hpop hdata
  subst hunit
  let c := s.core id
  let r : VReg := Fin.ofNat 32 (28 + p.val)
  let srcs : List (Nat × Src) := [(1, .v (.v r)), (2, .v (.v r))]
  have hat : c.ports[p] = some (.walk false w f.unit (f :: filled) next) := (hports p).trans (if_pos rfl)
  have hb : c.binding r = some (p, .walk false w f.unit (f :: filled) next) := by rw [Core.binding_port, hat]; rfl
  have hread := Core.portsRead_twice hb 1 2
  let body (v : View) : Plan := v.plainPlan d 32 2 none fun j => (elemAt 32 (v.v 1 (.v r)) j &&& elemAt 32 (v.v 2 (.v r)) j, 0)
  have hlands : (body (viewOf s id k)).lands = [{ dest := .v d, lat := 2, val := f.data, mask := 2 ^ 2048 - 1 }] := by
    rw [← landElems_and_self (Core.vv_walk hb hat) hdata d k c.gens]
    simp only [body, View.v_live]
    rfl
  obtain ⟨hfl, hpopped, hpts⟩ := Core.issue_walk k hread hpop (Core.popFault_walk hread hpend) hlands rfl (c.binding_register hd) rfl rfl rfl
  have hexec : exec (.vand .b32 d (.v r) (.v r) none) s = .next (s.setCore id (c.issue k none srcs (body (viewOf s id k)))) :=
    primOp_issue srcs body s id k hi.1 hi.2
  refine ⟨_, hexec, ?_, ?_, ?_⟩
  · rw [State.core_setCore_self]
    exact hfl
  · rw [State.core_setCore_self]
    exact hpopped
  · refine State.applyPops_popped _ id false (filled := f :: filled) (next := next) ?_ ?_
    · rw [State.core_setCore_self, hpts]
      exact hat
    · rw [State.core_setCore_self, hpopped]
      exact List.contains_iff_mem.mpr List.mem_cons_self

/-- Settles O17: VMOVA by its elements; VSBIND by the plan of a walk without fault; a pop by the fold over the ports that the sources read. -/
theorem accumulatorsAndPorts : Obligations.AccumulatorsAndPorts := ⟨accumulatorsAndWalks, readPortPops⟩

end Sys2Proof.Proofs
end

section
/-! The token-tree file: what its operations queue, and the rows they lay down in memory (R189, R191 to R198). -/
namespace Sys2Proof.Machine

/-! ### Bytes laid down line by line (R191) -/

theorem putBytes_append (a : Nat) (xs ys : List Byte) : putBytes a (xs ++ ys) = putBytes a xs ++ putBytes (a + xs.length) ys := by
  induction xs generalizing a with
  | nil => rfl
  | cons x xs ih => rw [List.cons_append, putBytes, putBytes, ih, List.cons_append, List.length_cons, Nat.add_assoc, Nat.add_comm 1]

/-- The first line, and the rest from the next one on. -/
theorem putBytes_line (a : Nat) (bs : List Byte) : putBytes a bs = putBytes a (bs.take 64) ++ putBytes (a + 64) (bs.drop 64) := by
  by_cases h : 64 ≤ bs.length
  · conv_lhs => rw [← List.take_append_drop 64 bs, putBytes_append, List.length_take_of_le h]
  · rw [List.take_of_length_le (by omega), List.drop_of_length_le (by omega), putBytes, List.append_nil]

/-- Lines enough for all bytes lay down all bytes. -/
theorem flatMap_lines {n : Nat} {bs : List Byte} (a : Nat) (h : bs.length ≤ 64 * n) :
    ((List.range n).flatMap fun j => putBytes (a + 64 * j) ((bs.drop (64 * j)).take 64)) = putBytes a bs := by
  induction n generalizing a bs with
  | zero =>
    obtain rfl : bs = [] := List.eq_nil_of_length_eq_zero (by omega)
    rfl
  | succ n ih =>
    have hnext (j : Nat) : 64 * (j + 1) = 64 + 64 * j := by omega
    rw [putBytes_line a bs, ← ih (a + 64) (by rw [List.length_drop]; omega), List.range_succ_eq_map, List.flatMap_cons, List.flatMap_map]
    simp only [hnext, List.drop_drop, Nat.mul_zero, Nat.add_zero, List.drop_zero, Nat.add_assoc]

/-- What `emitTree` queues puts its bytes down. -/
theorem newPuts_emitTree {v : View} {a : Nat} {bs : List Byte} {c c' : Core} (h : c'.writes = c.writes ++ (v.emitTree a bs).writes.map fun w => (c.ic + w.1, w.2)) :
    Claims.newPuts c c' = putBytes (spadKey v.id a) bs := by
  rw [← flatMap_lines (spadKey v.id a) (n := (bs.length + 63) / 64) (by omega), Claims.newPuts, h, List.drop_left, View.emitTree, List.map_map, List.flatMap_map]
  simp only [Function.comp_apply, spadKey, Nat.add_assoc]

/-! ### The tree unit at issue -/

/-- What is left to do of a plan that moves `n` lines: the unit is busy until `c + n` (R191). -/
def Plan.onTreeUnit (p : Plan) (n : Nat) : Plan := { p with upd := fun c => { c with treeFree := c.ic + n + 1 } }

theorem View.treePlan_effects (v : View) (n : Nat) (p : Plan) : (v.treePlan n p).effects = p.effects.onTreeUnit n := rfl

section
variable {s : State} {id : Nat} {k : Slot} {srcs : List (Nat × Src)} {body : View → Plan} {n : Nat} (hi : Claims.Issuing s id k) (hu : Claims.Unbound s id)
include hi hu

/-- What the tree unit is given to do is queued, and the unit is busy. -/
theorem primOp_tree {p : Plan} (hq : (body (viewOf s id k)).effects = p.onTreeUnit n) (ht : p.take = none) (hS : p.updS = fun s => s) :
    let c := s.core id
    primOp srcs body s = .next (({ s with mem := p.scrub.foldl (fun (m : Memory) (r : Nat × Nat) => m.scrub r.1 r.2) s.mem } : State).setCore id
      { c with demand := c.demand ++ p.demand.map (fun (d : Nat × Bool × Nat) => (c.ic + d.1, d.2.1, d.2.2)),
               msgPath := c.msgPath ++ p.msgPath.map (c.ic + ·), flights := c.flights ++ p.lands.map (fun (l : Land) => l.flight c k),
               acts := c.acts ++ p.acts.map (fun (a : Nat × Act) => (c.ic + a.1, c.ic, a.2)),
               writes := c.writes ++ p.writes.map (fun (w : Nat × WOp) => (c.ic + w.1, w.2)), gens := p.gens.getD c.gens, treeFree := c.ic + n + 1 }) := by
  rw [primOp_effects hi hu hq ht fun _ => rfl]
  exact congrArg (fun f : State → State => Host.Outcome.next (f _)) hS

/-- An operation that moves no line and leaves an effect for the next issue cycle. -/
theorem primOp_treeAct {a : Act} (hq : (body (viewOf s id k)).effects = Plan.onTreeUnit { acts := [(1, a)] } 0) :
    let c := s.core id
    primOp srcs body s = .next (s.setCore id { c with acts := c.acts ++ [(c.ic + 1, c.ic, a)], treeFree := c.ic + 0 + 1 }) := by
  rw [primOp_tree hi hu hq rfl rfl]
  simp only [List.map_nil, List.append_nil, List.foldl_nil, List.map_cons, Option.getD_none]

/-- An operation that moves no line and computes one result. -/
theorem primOp_treeLand {d : Dest} {lat val mask : Nat} (hq : (body (viewOf s id k)).effects = Plan.onTreeUnit { lands := [{ dest := d, lat, val, mask }] } 0) :
    let c := s.core id
    primOp srcs body s = .next (s.setCore id { c with flights := c.flights ++ [Claims.inFlight c k d lat val 0 mask], treeFree := c.ic + 0 + 1 }) := by
  rw [primOp_tree hi hu hq rfl rfl]
  simp only [List.map_nil, List.append_nil, List.foldl_nil, List.map_cons, Option.getD_none]
  rfl

/-- An operation that lays bytes down: they are queued line by line beside its effects, no byte has changed yet, and there is no result. -/
theorem exec_treeEmit {i : Instr} (hx : exec i s = primOp srcs body s) {a : Nat} {bs : List Byte} {acts : List (Nat × Act)}
    (hq : (body (viewOf s id k)).effects = Plan.onTreeUnit { (viewOf s id k).emitTree a bs with acts } n) :
    let c := s.core id
    ∃ u, exec i s = .next u ∧ (u.core id).acts = c.acts ++ acts.map (fun a => (c.ic + a.1, c.ic, a.2)) ∧
      Claims.newPuts c (u.core id) = putBytes (spadKey id a) bs ∧ (∀ z, u.mem.byte z = s.mem.byte z) ∧ (u.core id).flights = c.flights := by
  intro c
  refine ⟨_, hx.trans (primOp_tree hi hu hq rfl rfl), ?_, ?_, fun _ => rfl, ?_⟩
  · rw [State.core_setCore_self]
  · rw [State.core_setCore_self]
    exact newPuts_emitTree (v := viewOf s id k) rfl
  · rw [State.core_setCore_self]
    exact List.append_nil _

end

/-! ### TTMASK by its destination (R194) -/

theorem exec_ttmask_toMask (s : State) (t : TReg) (c : SSrc) (m : MReg) (half : Bool) : exec (.ttmask t c (.toMask m half)) s = primOp [(2, .s c)] (fun v =>
    v.treePlan 0 { lands := [landM m 2 ((v.c.tt[t]).anc (bits (v.s 2 c).toNat 7 0) / 2 ^ (128 * half.toNat) % 2 ^ 128)] }) s := rfl

theorem exec_ttmask_toMem (s : State) (t : TReg) (b c : SSrc) (layout half : Bool) :
    exec (.ttmask t c (.toMem b layout half)) s = primOp [(1, .s b), (2, .s c)] (fun v =>
      let a := (v.s 1 b).toNat
      let r := v.s 2 c
      let n := (if layout then 256 else 32) * rangeCount r
      v.treePlan (linesOfBytes n) { v.emitTree a ((List.range (rangeCount r)).flatMap fun i => maskRow layout half ((v.c.tt[t]).anc (rangeFirst r + i))) with
        traps := v.spadTraps a n 64 ++ rangeTraps t r }) s := rfl

end Sys2Proof.Machine

namespace Sys2Proof.Proofs
open Sys2Proof Sys2Proof.Machine Sys2Proof.Claims

theorem treeOperations : Claims.TreeResults := by
  intro s id k hi hu t b c x d m hf co q p busy act r lines
  have hbyte (y : Nat) : bits y 7 0 = y % 2 ^ 8 := bits_low y 7
  refine ⟨?clr, ?node, fun hread => ?ldp, ?mask, ?info⟩
  case clr => exact (exec_ttclr ..).trans (primOp_treeAct hi hu (by rfl))
  case node => exact (exec_ttnode ..).trans (primOp_treeAct hi hu (by simp only [View.treePlan_effects, View.s_live, hbyte]; rfl))
  case ldp =>
    let tree := (co.tt[t]).load (rangeFirst r) ((List.range (rangeCount r)).map fun i => s.mem.read (spadKey id (p + 8 * i)) 8)
    have hfault : firstFault (lines.map fun l => s.mem.spadFault id l 64) = (0, 0) := firstFault_none fun e he => by
      obtain ⟨l, hl, rfl⟩ := List.mem_map.mp he
      exact hread l hl
    let bank (j : Nat) : Nat × Bool × Nat := (j, false, (p / 64 + j) % 16)
    let queued : Plan := { scrub := [(spadKey id p, 8 * rangeCount r)], demand := (List.range lines.length).map bank, acts := [(lines.length + 1, .tree t tree)] }
    refine ⟨_, (exec_ttldp ..).trans (primOp_tree hi hu (n := lines.length) (p := queued) ?_ rfl rfl), ?_, ?_⟩
    · simp only [View.treePlan_effects, View.s_live, View.x_live, View.readFault]
      rw [show firstFault (List.map _ _) = _ from hfault]
      rfl
    · rw [State.core_setCore_self]
    · rw [State.core_setCore_self]
      rfl
  case mask => exact (exec_ttmask_toMask ..).trans (primOp_treeLand hi hu (by simp only [View.treePlan_effects, View.s_live, hbyte]; rfl))
  case info => exact (exec_ttinfo ..).trans (primOp_treeLand hi hu (by simp only [View.treePlan_effects, View.s_live]; rfl))

theorem treeMemoryOutput : Claims.TreeMemoryOutput := by
  intro s id k hi hu t b c half co tr base r q path out
  have hbyte (y : Nat) : bits y 7 0 = y % 2 ^ 8 := bits_low y 7
  have lays {i : Instr} {srcs : List (Nat × Src)} {body : View → Plan} {bs : List Byte} (hx : exec i s = primOp srcs body s)
      (hq : ∃ n, (body (viewOf s id k)).effects = ((viewOf s id k).emitTree (co.ss b).toNat bs).onTreeUnit n) : out i bs := by
    obtain ⟨n, hq⟩ := hq
    obtain ⟨u, he, -, hout⟩ := exec_treeEmit hi hu hx (acts := []) hq
    exact ⟨u, he, hout⟩
  obtain ⟨u, he, hacts, hout⟩ := exec_treeEmit hi hu (exec_ttprune s t b c) (by simp only [View.treePlan_effects, View.s_live, hbyte]; rfl)
  refine ⟨lays (exec_ttmask_toMem ..) ?sets, lays (exec_ttmask_toMem ..) ?rows, lays (exec_ttpos ..) ?positions, lays (exec_ttpath ..) ?path, ⟨u, he, hout⟩, ⟨u, he, hacts⟩⟩
  all_goals exact ⟨_, by simp only [View.treePlan_effects, View.s_live, hbyte]; rfl⟩

/-- R189: each node of the path adds its own bit to the set. -/
theorem ancestorSets : Claims.AncestorSets := by
  intro t q j
  have hbit (a i : Nat) : (a ||| 2 ^ i).testBit j = (a.testBit j || decide (i = j)) := by rw [Nat.testBit_or, Nat.testBit_two_pow]
  rw [Tree.anc, testBit_foldl (p := fun i => decide (i = j)) hbit, Nat.zero_testBit, Bool.false_or, Bool.eq_iff_iff, List.any_eq_true]
  simp

/-- Settles O10: every operation by what it gives the tree unit to do, rows through the lines that they are cut into, and the set by the fold that collects it. -/
theorem treeResults : Obligations.TreeResults := ⟨treeOperations, treeMemoryOutput, ancestorSets⟩

end Sys2Proof.Proofs
end

section
/-! Directional vectors: their pairs of results, the memory they read and write, and the zero code (R174 to R188). -/
namespace Sys2Proof.Machine

/-! ### A direction and its norm in flight (R175) -/

/-- The two parts of a directional result in flight; the slot's latch never takes the norm. -/
def Core.dirFlights (c : Core) (k : Slot) (d : DReg) (lat latN : Nat) (r : DirRes) (latch : Bool) : List Flight :=
  [Claims.inFlight c k (.dir d) lat (packDir r.dir) r.flags (2 ^ 2048 - 1) latch, Claims.inFlight c k (.norm d) latN r.norm 0 0xFFFF false]

theorem flights_landDir (c : Core) (k : Slot) (d : DReg) (lat latN : Nat) (r : DirRes) (latch : Bool) :
    (landDir d lat latN r latch).map (fun l => l.flight c k) = c.dirFlights k d lat latN r latch := rfl

section
variable {s : State} {id : Nat} {k : Slot} {srcs : List (Nat × Src)} {body : View → Plan} {i : Instr} (hi : Claims.Issuing s id k) (hu : Claims.Unbound s id)
  (hx : exec i s = primOp srcs body s)
include hi hu hx

/-- An operation that only computes puts its results in flight. -/
theorem exec_lands {lands : List Land} (hq : (body (viewOf s id k)).effects = { lands }) :
    let c := s.core id
    exec i s = .next (s.setCore id { c with flights := c.flights ++ lands.map fun l => l.flight c k }) := by
  rw [hx, primOp_effects hi hu hq rfl fun _ => rfl]
  simp only [List.map_nil, List.append_nil, List.foldl_nil, Option.getD_none]

/-- An operation whose result is a direction with its norm. -/
theorem exec_dir {d : DReg} {lat latN : Nat} {r : DirRes} {latch : Bool} (hq : (body (viewOf s id k)).effects = { lands := landDir d lat latN r latch }) :
    let c := s.core id
    exec i s = .next (s.setCore id { c with flights := c.flights ++ c.dirFlights k d lat latN r latch }) :=
  exec_lands hi hu hx hq

/-- An operation whose result is a scalar. -/
theorem exec_scalar {d : SReg} {lat : Nat} {x : Word} {fl : Flags} (hq : (body (viewOf s id k)).effects = { lands := [landS d lat x fl] }) :
    let c := s.core id
    exec i s = .next (s.setCore id { c with flights := c.flights ++ [Claims.inFlight c k (.s d) lat x.toNat fl] }) :=
  exec_lands hi hu hx hq

/-- An operation whose result is a small number. -/
theorem exec_number {d : SReg} {lat n : Nat} (hn : n < 2 ^ 64) (hq : (body (viewOf s id k)).effects = { lands := [landS d lat (BitVec.ofNat 64 n)] }) :
    let c := s.core id
    exec i s = .next (s.setCore id { c with flights := c.flights ++ [Claims.inFlight c k (.s d) lat n] }) := by
  have hsame : (BitVec.ofNat 64 n).toNat = n := Nat.mod_eq_of_lt hn
  have h := exec_scalar hi hu hx hq
  rwa [hsame] at h

/-- A direction with its norm that is read from memory without error. -/
theorem exec_readsDir {d : DReg} {lat latN : Nat} {r : DirRes} {latch : Bool} (hlands : (body (viewOf s id k)).lands = landDir d lat latN r latch)
    (ht : (body (viewOf s id k)).take = none) (hupd : (body (viewOf s id k)).upd = fun c => c) (hupdS : (body (viewOf s id k)).updS = fun s => s) :
    let c := s.core id
    ∃ u, exec i s = .next u ∧ (∀ z, u.mem.byte z = s.mem.byte z) ∧ (u.core id).flights = c.flights ++ c.dirFlights k d lat latN r latch := by
  intro c
  obtain ⟨u, he, hmem, hfl, -, -⟩ := primOp_queues hi hu (srcs := srcs) ht hupd hupdS
  exact ⟨u, hx.trans he, hmem, by rw [hfl, hlands, flights_landDir]⟩

end

/-! ### The shared forms, DSCALE by its operand, and DTO (R182 to R184) -/

/-- DADD and DSUB. -/
theorem exec_dirSum {s : State} {id : Nat} {k : Slot} {i : Instr} {neg : Bool} {d b c : DReg} {y : Option (BitVec 16)} (hi : Claims.Issuing s id k) (hu : Claims.Unbound s id)
    (hx : exec i s = dirSum neg d b c y s) :
    let co := s.core id
    let sum := weightedSum [(co.d[b], (co.n[b]).toNat, false, 0), (co.d[c], (co.n[c]).toNat, neg, (y.getD 0).toInt)]
    exec i s = .next (s.setCore id { co with flights := co.flights ++ co.dirFlights k d 6 7 sum true }) :=
  exec_dir hi hu hx (by simp only [Plan.effects, View.d_live])

theorem exec_dscale_reg (s : State) (d b : DReg) (a : VSSrc) : exec (.dscale d b (.reg a)) s = primOp [(1, .d b), (2, .s (vsToS a))] (fun v =>
    { lands := landDir d 6 7 (scaleRes false (v.d 1 b).1 (v.d 1 b).2 (sextNat 16 (v.vs 2 a).toNat)) }) s := rfl
theorem exec_dscale_imm (s : State) (d b : DReg) (j : BitVec 16) : exec (.dscale d b (.imm j)) s = primOp [(1, .d b)] (fun v =>
    { lands := landDir d 6 7 (scaleRes false (v.d 1 b).1 (v.d 1 b).2 j.toInt) }) s := rfl

/-- What DTO does. -/
def dtoPlan (d : VReg) (b : DReg) (tx : DtoX) (v : View) : Plan :=
  v.elemPlan d (ftyW tx.t) 4 tx.msk (v.c.rnd tx.rnd) fun i md =>
    dtoElem (ftyFmt tx.t) v.c.ftz md (sextNat 16 (elemAt 16 (v.d 1 b).1 (if ftyW tx.t = 32 then 64 * tx.hi.toNat + i else i))) (v.d 1 b).2
theorem exec_dto_plan (s : State) (d : VReg) (b : DReg) (tx : DtoX) : exec (.dto d b tx) s = primOp [(1, .d b)] (dtoPlan d b tx) s := rfl

/-! ### The zero code, and norms in range (R174, R177) -/

theorem isZeroCode_iff (norm : Nat) : isZeroCode norm = true ↔ norm = 0x8000 := beq_iff_eq

/-- Components without magnitude have no direction. -/
theorem renorm_zero {us : List Int} (ue m : Int) (h : sumSq us = 0) : renorm us ue m = zeroDir 0 := by simp [renorm, h]

/-- R184: a conforming direction other than the zero code is scaled by its norm alone. -/
theorem scaleRes_conforming {x : VWord} {norm : Nat} (k : Int) (hc : confDir (dirElems x) norm = true) (hz : norm ≠ 0x8000) :
    scaleRes false x norm k = ⟨dirElems x, (q78 (nuOf norm + k)).1, (q78 (nuOf norm + k)).2⟩ := by
  have h0 : isZeroCode norm = false := Bool.eq_false_iff.mpr (mt (isZeroCode_iff norm).mp hz)
  simp [scaleRes, h0, hc]

theorem q78_inside {q : Int} (h0 : -32767 ≤ q) (h1 : q ≤ 32767) : q78 q = (wrapNat 16 q, 0) := by rw [q78, if_neg (by omega), if_neg (by omega)]
theorem q78_above {q : Int} (h : 32767 < q) : q78 q = (0x7FFF, fSAT) := if_pos h
theorem q78_below {q : Int} (h : q < -32767) : q78 q = (0x8001, fSAT) := by rw [q78, if_neg (by omega), if_pos h]

/-- R182: an element of DTO, without its flags. -/
theorem dtoElem_val (f : FFmt) (ftz : Bool) (md : Mode) (x : Int) (norm w : Nat) :
    (dtoElem f ftz md x norm).1 % 2 ^ w = if norm = 0x8000 then 0 else (dtoElem f ftz md x norm).1 % 2 ^ w := by
  split
  next h => rw [dtoElem, if_pos ((isZeroCode_iff norm).mpr h), Nat.zero_mod]
  next => rfl

end Sys2Proof.Machine

namespace Sys2Proof.Proofs
open Sys2Proof Sys2Proof.Machine Sys2Proof.Claims

theorem directionalOperations : Claims.DirectionalResults := by
  intro s id k hi hu d b c x h y j a e sd v tx co ld dir pair gives sa
  refine ⟨exec_dirSum hi hu (exec_dadd ..), exec_dirSum hi hu (exec_dsub ..), exec_dir hi hu (exec_dscale_imm ..) ?scaleImm, exec_dir hi hu (exec_dscale_reg ..) ?scaleReg,
    exec_dir hi hu (exec_dneg ..) ?neg, exec_dir hi hu (exec_dlerp ..) ?lerp, ?convert, exec_dir hi hu (exec_dsetn ..) ?setn, ?norm, ?dot, ?cmpz, ?element, fun ha he => ?load, ?store, fun ha => ?dotv⟩
  case scaleImm => simp only [Plan.effects, View.d_live]; rfl
  case scaleReg => simp only [Plan.effects, View.d_live, View.vs_live]; rfl
  case neg => simp only [Plan.effects, View.d_live]; rfl
  case lerp => simp only [Plan.effects, View.d_live]; rfl
  case setn => simp only [Plan.effects, View.d_live, View.vs_live]; rfl
  case convert =>
    cases h with
    | dflt | bf16 | f16 => exact exec_dir hi hu (exec_dfrom ..) (by simp only [Plan.effects, View.v_live]; rfl)
  case norm => exact exec_number hi hu (exec_dnorm ..) (lt_trans (co.n[b]).isLt (by decide)) (by simp only [Plan.effects, View.d_live]; rfl)
  case dot => exact exec_scalar hi hu (exec_ddot ..) (by simp only [Plan.effects, View.d_live]; rfl)
  case cmpz =>
    have hz := (isZeroCode (dir b).2).toNat_le
    have hw := (!confDir (dirElems (dir b).1) (dir b).2).toNat_le
    exact exec_number hi hu (exec_dcmpz ..) (by omega) (by simp only [Plan.effects, View.d_live]; rfl)
  case element =>
    intro wt
    let el (i : Nat) : Int := sextNat 16 (elemAt 16 (dir b).1 (if wt = 32 then 64 * tx.hi.toNat + i else i))
    obtain ⟨val, mask, fl, gens, md, he, hrnd, hsr, hel⟩ := elemPlan_elements hi hu (srcs := [(1, .d b)]) (body := dtoPlan v b tx)
      (g := fun md i => dtoElem (ftyFmt tx.t) co.ftz md (el i) (dir b).2) (by simp only [dtoPlan, View.d_live]; rfl)
    refine ⟨val, mask, fl, gens, md, (exec_dto_plan ..).trans he, hrnd, hsr, fun i hlt => ?_⟩
    rw [← dtoElem_val]
    exact hel i hlt
  case load =>
    have hfault : firstFault [s.mem.spadFault id (sa a) 256, s.mem.spadFault id (sa e / 64 * 64) 64] = (0, 0) := firstFault_none fun f hf => by
      rcases List.mem_pair.mp hf with rfl | rfl
      · exact ha
      · exact he
    exact exec_readsDir hi hu (exec_dld s d a e) (by simp only [View.vs_live]; exact if_pos (congrArg Prod.fst hfault)) rfl rfl rfl
  case store =>
    obtain ⟨u, he, hmem, hfl, hw⟩ := exec_puts hi hu (exec_dst s b a e) (n := 1)
      (bytes := putBytes (spadKey id (sa a)) (bytesOf 256 (dir b).1.toNat) ++ putBytes (spadKey id (sa e)) (bytesOf 2 (dir b).2)) rfl (by simp only [View.d_live, View.vs_live]; rfl) rfl rfl rfl
    exact ⟨u, he, hw, hmem, hfl⟩
  case dotv =>
    let cosine (i : Nat) : Nat := if isZeroCode (dir b).2 then 0 else (FFmt.f32.round false .rne ((Exact.ofInt (dotDir (dirElems (dir b).1)
        (dirElems (BitVec.ofNat 2048 (s.mem.read (spadKey id (sa a + 256 * i)) 256))))).scale (-30))).1
    let vals := (List.range 64).map cosine
    obtain ⟨u, he, hmem, hfl⟩ := exec_reads hi hu (exec_ddotv s v b a) (l := landV v 20 (packElems 32 vals)) rfl
      (by simp only [View.d_live, View.vs_live]; exact congrArg (fun f : Nat × Nat => [{ landV v 20 (packElems 32 vals) with pend := f.1, addr := f.2 }]) ha) rfl rfl rfl
    refine ⟨u, _, he, hmem, hfl, fun i hlt => ?_⟩
    refine (packElems_map_range 32 64 cosine hlt).trans ?_
    simp only [cosine, isZeroCode_iff, apply_ite (· % 2 ^ 32), Nat.zero_mod]

theorem zeroDirection : Claims.ZeroDirection :=
  ⟨fun _ => rfl, fun _ => ⟨rfl, rfl⟩, fun _ ue m h => renorm_zero ue m h, isZeroCode_iff, fun _ _ k hc hz => congrArg DirRes.dir (scaleRes_conforming k hc hz),
    fun _ h0 h1 => q78_inside h0 h1, fun _ h => congrArg Prod.fst (q78_above h), fun _ h => congrArg Prod.fst (q78_below h)⟩

/-- Settles O18: each operation by the results, reads or writes that its plan queues; the zero code and the norms by the branches of their definitions. -/
theorem directionalResults : Obligations.DirectionalResults := ⟨directionalOperations, zeroDirection⟩

end Sys2Proof.Proofs
end

section
/-! The matrix unit at issue: the cells it accumulates, the tiles it sends on, and what an operation leaves of the machine (R202 to R208). -/
namespace Sys2Proof.Machine

/-! ### Rows of a tile, and the sums over them (R46, R47, R202) -/

section
variable {α : Type}

theorem take_map_range_of_le (f : Nat → α) {m n : Nat} (h : m ≤ n) : ((List.range n).map f).take m = (List.range m).map f := by
  rw [← List.map_take, List.take_range, Nat.min_eq_left h]

theorem drop_map_range (f : Nat → α) (m n : Nat) : ((List.range n).map f).drop m = (List.range (n - m)).map fun i => f (m + i) :=
  List.ext_getElem (by simp) fun i _ _ => by simp

theorem getD_map_range (f : Nat → α) (d : α) {i n : Nat} (h : i < n) : ((List.range n).map f).getD i d = f i := by
  simp [h]

end

/-- A row and a column of blocks add block by block. -/
theorem blockMac_range (x y : MxFmt) (extra : List Nat) {n kx ky : Nat} (acc : Nat) (xs ys : Nat → Int) (sa sb : Nat → Nat) (hx : 32 * n ≤ kx) (hy : 32 * n ≤ ky) :
    blockMac x y extra acc ((List.range kx).map xs) ((List.range ky).map ys) ((List.range n).map sa) ((List.range n).map sb) =
      (List.range n).foldl (fun c q => fadd32 c (blockValue x y (((List.range 32).map fun e => xs (32 * q + e) * ys (32 * q + e)).foldl (· + ·) 0) (sa q :: sb q :: extra))) acc := by
  induction n generalizing kx ky acc xs ys sa sb with
  | zero => simp only [List.range_zero, List.map_nil, List.foldl_nil, blockMac]
  | succ n ih =>
    have hnext (q e : Nat) : 32 + (32 * q + e) = 32 * (q + 1) + e := by omega
    simp only [List.range_succ_eq_map (n := n), List.map_cons, List.map_map, List.foldl_cons, List.foldl_map, blockMac, Function.comp_def]
    rw [drop_map_range, drop_map_range, take_map_range_of_le xs (by omega), take_map_range_of_le ys (by omega), ih _ _ _ _ _ (by omega) (by omega)]
    simp only [List.zip_map', List.foldl_map, hnext, Nat.mul_zero, Nat.zero_add, Nat.succ_eq_add_one]

/-- A row and a column of BF16 elements add in groups of 16. -/
theorem bf16Mac_range {n kx ky : Nat} (acc : Nat) (xs ys : Nat → Nat) (hx : 16 * n ≤ kx) (hy : 16 * n ≤ ky) :
    bf16Mac n acc ((List.range kx).map xs) ((List.range ky).map ys) =
      (List.range n).foldl (fun c q => fadd32 c (groupValue ((List.range 16).map fun e => (mulVal (FFmt.bf16.read (xs (16 * q + e))) (FFmt.bf16.read (ys (16 * q + e)))).1))) acc := by
  induction n generalizing kx ky acc xs ys with
  | zero => rfl
  | succ n ih =>
    have hnext (q e : Nat) : 16 + (16 * q + e) = 16 * (q + 1) + e := by omega
    simp only [bf16Mac, List.range_succ_eq_map (n := n), List.foldl_cons, List.foldl_map]
    rw [drop_map_range, drop_map_range, take_map_range_of_le xs (by omega), take_map_range_of_le ys (by omega), ih _ _ _ (by omega) (by omega)]
    simp only [List.zip_map', List.map_map, Function.comp_def, hnext, Nat.mul_zero, Nat.zero_add, Nat.succ_eq_add_one]

section
variable (s : State) (id : Nat) (k : Slot)

theorem View.tileRow_eq (a : Nat) (f : MatFmt) (kk r : Nat) : (viewOf s id k).tileRow a f kk r = (List.range kk).map (Claims.tileElem s id a f kk r) := rfl
theorem View.tileScales_eq (a : Nat) (g : MxFmt) (rows kk r : Nat) :
    (viewOf s id k).tileScales a g rows kk r = (List.range (kk / 32)).map (Claims.tileScale s id a g rows kk r) := rfl

/-- R46: a cell of two block formats. -/
theorem cellValue_mx (x y : MxFmt) (extra : List Nat) (ta tb : Nat) {m n : Nat} (kk acc : Nat) {i j : Nat} (hi : i < m) (hj : j < n) :
    cellValue (.mx x) (.mx y) extra kk ((viewOf s id k).rows ta (.mx x) m kk) ((viewOf s id k).rows tb (.mx y) n kk) acc i j =
      Claims.mxCell s id x y extra ta tb m n kk i j acc := by
  simp only [cellValue, View.rows, List.map_map, getD_map_range _ _ hi, getD_map_range _ _ hj, Function.comp_apply, View.tileRow_eq, View.tileScales_eq]
  exact blockMac_range x y extra acc _ _ _ _ (Nat.mul_div_le kk 32) (Nat.mul_div_le kk 32)

/-- R47: a cell of two BF16 tiles. -/
theorem cellValue_bf16 (extra : List Nat) (ta tb : Nat) {m n : Nat} (kk acc : Nat) {i j : Nat} (hi : i < m) (hj : j < n) :
    cellValue .bf16 .bf16 extra kk ((viewOf s id k).rows ta .bf16 m kk) ((viewOf s id k).rows tb .bf16 n kk) acc i j =
      Claims.bf16Cell s id ta tb kk i j acc := by
  simp only [cellValue, View.rows, getD_map_range _ _ hi, getD_map_range _ _ hj, View.tileRow_eq]
  exact bf16Mac_range acc _ _ (Nat.mul_div_le kk 16) (Nat.mul_div_le kk 16)

/-- R205: the output, when each of its cells is known. -/
theorem outCells_eq {m n : Nat} (ab : Nat) (zi : Bool) {f cell : Nat → Nat → Nat → Nat} (h : ∀ acc i j, i < m → j < n → f acc i j = cell i j acc) :
    (viewOf s id k).outCells m n ab zi f = Claims.outValues s id m n ab zi cell :=
  List.flatMap_congr fun i hi => List.map_congr_left fun j hj => congrArg (Prod.mk _) (h _ i j (List.mem_range.mp hi) (List.mem_range.mp hj))

end

/-! ### Tiles sent on (R208) -/

/-- `u` is `t` with more tiles on their way, none of them to core `id`. -/
structure Sends (id : Nat) (t u : State) : Prop where
  mem : u.mem = t.mem
  own : u.core id = t.core id
  launches : u.launches = t.launches
  clock : u.clock = t.clock
  keeps : ∀ j, ∀ f ∈ (t.core j).forwards, f ∈ (u.core j).forwards

theorem Sends.refl (id : Nat) (t : State) : Sends id t t := ⟨rfl, rfl, rfl, rfl, fun _ _ h => h⟩

theorem Sends.trans {id : Nat} {t u w : State} (h : Sends id t u) (h' : Sends id u w) : Sends id t w where
  mem := h'.mem.trans h.mem
  own := h'.own.trans h.own
  launches := h'.launches.trans h.launches
  clock := h'.clock.trans h.clock
  keeps j f hf := h'.keeps j f (h.keeps j f hf)

/-- A tile goes to another core than its own. -/
theorem coreId_beside (id : Nat) (east : Bool) : coreId (coreZ id) (coreX id + east.toNat) (coreY id + (!east).toNat) ≠ id := by
  unfold coreId coreZ coreX coreY
  cases east
  · simp only [Bool.not_false, Bool.toNat_true, Bool.toNat_false]; omega
  · simp only [Bool.not_true, Bool.toNat_true, Bool.toNat_false]; omega

theorem State.launchOf_congr {s t : State} (h : t.launches = s.launches) (id : Nat) : t.launchOf id = s.launchOf id := by rw [State.launchOf, h, State.launchOf]

@[simp] theorem State.post_core (s : State) (i : Instr) (a : EvArg) (j : Nat) : (s.post i a).core j = s.core j := by rw [State.core, State.post_cores, State.core]

theorem Sends.sent (t : State) (id : Nat) {dst : Nat} (f : Forward) (h : dst ≠ id) :
    Sends id t ((t.updCore dst fun c => { c with forwards := c.forwards ++ [f] }).post .tileForwardArrival (.core dst)) where
  mem := State.post_mem ..
  own := (State.post_core ..).trans (State.core_updCore_other _ _ _ _ h.symm)
  launches := State.post_launches ..
  clock := State.post_clock ..
  keeps j g hg := by
    rw [State.post_core]
    by_cases hj : j = dst
    · subst hj
      rw [State.core_updCore_self]
      exact List.mem_append_left _ hg
    · rwa [State.core_updCore_other _ _ _ _ hj]

theorem Sends.forward (t : State) (id : Nat) (east : Bool) (h : HReg) (tile : List Byte) (shadows : List Nat) : Sends id t (t.forward id east h tile shadows) := by
  unfold State.forward
  split
  · exact .refl id t
  · dsimp only
    split
    · exact .sent t id _ (coreId_beside id east)
    · exact .refl id t

/-- A tile that is sent on where the extension word says so. -/
def State.forwardIf (t : State) (go : Bool) (id : Nat) (east : Bool) (h : HReg) (tile : List Byte) (shadows : List Nat) : State :=
  if go then t.forward id east h tile shadows else t

theorem Sends.forwardIf (t : State) (go : Bool) (id : Nat) (east : Bool) (h : HReg) (tile : List Byte) (shadows : List Nat) :
    Sends id t (t.forwardIf go id east h tile shadows) := by
  unfold State.forwardIf
  split
  · exact .forward ..
  · exact .refl id t

/-- R208: a tile that is sent stands among those on their way. -/
theorem forwarded_forwardIf {s t : State} {id : Nat} {l : Launch} {go east : Bool} {h : HReg} {a n : Nat} {shadows : List Nat} (hgo : go = true) (hl : t.launchOf id = some l)
    (hc : t.clock = s.clock) : Claims.Forwarded s (t.forwardIf go id east h (s.mem.bytes (spadKey id a) n) shadows) id l east h a n shadows := by
  intro hx hy
  unfold State.forwardIf State.forward
  simp only [hgo, hl, if_true]
  rw [if_pos ⟨hx, hy⟩, State.post_core, State.core_updCore_self, Memory.length_bytes, hc]
  exact List.mem_append_right _ List.mem_cons_self

theorem Sends.forwarded {s t u : State} {id : Nat} {l : Launch} {east : Bool} {h : HReg} {a n : Nat} {shadows : List Nat} (hs : Sends id t u)
    (hf : Claims.Forwarded s t id l east h a n shadows) : Claims.Forwarded s u id l east h a n shadows :=
  fun hx hy => hs.keeps _ _ (hf hx hy)

/-! ### An operation of the matrix unit at issue (R206, R207) -/

/-- What is left to do of an operation that keeps the unit busy: its end stands among the results in flight. -/
def Plan.matrix (beats : Nat) (accs : List (Nat × Nat)) (hoops : List Nat) (e : Nat × Nat) (fl : Flags) (p : Plan) : Plan :=
  { p with accs, hoops, busy := beats, upd := fun c => c.occupy beats accs hoops e fl }

/-- The unit is busy, the effects are queued, and tiles may be sent from a state with the launches, the time and the forwards of before. -/
theorem exec_matrix {s : State} {id : Nat} {k : Slot} {srcs : List (Nat × Src)} {body : View → Plan} {i : Instr} (hi : Claims.Issuing s id k) (hu : Claims.Unbound s id)
    (hx : exec i s = primOp srcs body s) {beats : Nat} {accs scrub : List (Nat × Nat)} {hoops : List Nat} {e : Nat × Nat} {fl : Flags} {acts : List (Nat × Act)}
    {writes : List (Nat × WOp)} {demand : List (Nat × Bool × Nat)} {send : State → State}
    (hq : (body (viewOf s id k)).effects = Plan.matrix beats accs hoops e fl { demand, scrub, acts, writes, updS := send }) (hs : ∀ t, Sends id t (send t)) :
    let c := s.core id
    ∃ t, exec i s = .next (send t) ∧ (∀ z, (send t).mem.byte z = s.mem.byte z) ∧
      (send t).core id = { c with flights := c.flights ++ [Claims.matrixEnd c beats e fl], acts := c.acts ++ acts.map fun a => (c.ic + a.1, c.ic, a.2),
                                  matrix := some ⟨c.ic + beats, accs, hoops⟩, writes := c.writes ++ writes.map (fun w => (c.ic + w.1, w.2)),
                                  demand := c.demand ++ demand.map fun d => (c.ic + d.1, d.2.1, d.2.2) } ∧
      t.launches = s.launches ∧ t.clock = s.clock ∧ ∀ j, (t.core j).forwards = (s.core j).forwards := by
  intro c
  refine ⟨_, hx.trans (primOp_effects hi hu hq rfl fun _ => rfl), fun z => ?mem, ?own, rfl, rfl, fun j => ?forwards⟩
  case mem =>
    rw [(hs _).mem]
    exact Memory.byte_scrubs _ _ z
  case own =>
    rw [(hs _).own, State.core_setCore_self]
    simp only [Plan.matrix, Core.occupy, List.map_nil, List.append_nil, Option.getD_none, Claims.matrixEnd, Claims.inFlight, Bool.false_and]
    rfl
  case forwards =>
    by_cases hj : j = id
    · subst hj
      rw [State.core_setCore_self]
      rfl
    · rw [State.core_setCore_other _ _ _ _ hj]
      rfl

/-- A multiply whose operands meet the error `e`: with one it only ends, without one its effects are queued and its tiles are sent. -/
theorem exec_multiply {s : State} {id : Nat} {k : Slot} {srcs : List (Nat × Src)} {body : View → Plan} {i : Instr} (hi : Claims.Issuing s id k) (hu : Claims.Unbound s id)
    (hx : exec i s = primOp srcs body s) {beats : Nat} {accs scrub : List (Nat × Nat)} {hoops : List Nat} {e : Nat × Nat} {acts : List (Nat × Act)} {send : State → State}
    (hq : (body (viewOf s id k)).effects =
      if e.1 = 0 then Plan.matrix beats accs hoops e 0 { scrub, acts, updS := send } else Plan.matrix beats accs hoops e 0 { scrub })
    (hs : ∀ t, Sends id t (send t)) :
    let c := s.core id
    ∃ u, exec i s = .next u ∧ (∀ z, u.mem.byte z = s.mem.byte z) ∧ (u.core id).flights = c.flights ++ [Claims.matrixEnd c beats e 0] ∧
      (u.core id).matrix = some ⟨c.ic + beats, accs, hoops⟩ ∧ (e.1 ≠ 0 → (u.core id).acts = c.acts ∧ ∀ j, (u.core j).forwards = (s.core j).forwards) ∧
      (e.1 = 0 → (u.core id).acts = c.acts ++ acts.map (fun a => (c.ic + a.1, c.ic, a.2)) ∧ ∃ t, u = send t ∧ t.launches = s.launches ∧ t.clock = s.clock) := by
  by_cases he : e.1 = 0
  · obtain ⟨t, hrun, hmem, hown, hl, hc, -⟩ := exec_matrix hi hu hx (writes := []) (demand := []) (hq.trans (if_pos he)) hs
    exact ⟨_, hrun, hmem, by rw [hown], by rw [hown], fun h => absurd he h, fun _ => ⟨by rw [hown], t, rfl, hl, hc⟩⟩
  · obtain ⟨t, hrun, hmem, hown, -, -, hf⟩ :=
      exec_matrix hi hu hx (acts := []) (writes := []) (demand := []) (send := fun t => t) (hq.trans (if_neg he)) (Sends.refl id)
    exact ⟨_, hrun, hmem, by rw [hown], by rw [hown], fun _ => ⟨by rw [hown, List.map_nil, List.append_nil], hf⟩, fun h => absurd h he⟩

theorem View.invalidHoop_none {v : View} {hs : List (HReg × Nat)} (h : ∀ x ∈ hs, (v.c.h[x.1]).valid = true) : v.invalidHoop hs = [] := by
  have hnone : (hs.find? fun x => !(v.c.h[x.1]).valid) = none := List.find?_eq_none.mpr fun x hx => by rw [h x hx]; exact Bool.false_ne_true
  rw [View.invalidHoop, hnone]

end Sys2Proof.Machine
end

section
/-! Matrix multiply (R205 to R208). -/
namespace Sys2Proof.Machine

/-- R201: an operation takes two block formats, or BF16 on both sides. -/
theorem pairOk_cases {fa fb : MatFmt} (h : pairOk fa fb = true) : (∃ x y, fa = .mx x ∧ fb = .mx y) ∨ fa = .bf16 ∧ fb = .bf16 := by
  cases fa with
  | bf16 => cases fb with
    | bf16 => exact .inr ⟨rfl, rfl⟩
    | mx y => cases h
  | mx x => cases fb with
    | bf16 => cases h
    | mx y => exact .inl ⟨x, y, rfl, rfl⟩

end Sys2Proof.Machine

namespace Sys2Proof.Proofs
open Sys2Proof Sys2Proof.Machine Sys2Proof.Claims

/-- Settles O19: the plan of an MMA whose hoops and headers pass, its cells by the two sums of R46 and R47, and the tiles that it sends on. -/
theorem matrixMultiply : Obligations.MatrixMultiply := by
  intro s id k hi hu a xm hwf co m n kk beats ab ha hb v sb ta tb na nb cell hva hvb hfa hfb hta htb e
  have hbad : v.invalidHoop [(xm.ha, 0), (xm.hb, 1)] = [] := View.invalidHoop_none fun x hx => by
    rcases List.mem_pair.mp hx with rfl | rfl
    · exact hva
    · exact hvb
  have hwait : ¬ (ha.fill < (if xm.ha = xm.hb then 2 else 1) ∨ hb.fill < 1) := by omega
  have hcell (acc i j : Nat) (hi : i < m) (hj : j < n) : cellValue xm.fa xm.fb [] kk (v.rows ta xm.fa m kk) (v.rows tb xm.fb n kk) acc i j = cell i j acc := by
    rcases pairOk_cases hwf with ⟨x, y, hx, hy⟩ | ⟨hx, hy⟩
    · simp only [cell, hx, hy, v]
      exact cellValue_mx s id k x y [] ta tb kk acc hi hj
    · simp only [cell, hx, hy, v]
      exact cellValue_bf16 s id k [] ta tb kk acc hi hj
  let sendA (t : State) : State := t.forwardIf xm.fwa id true xm.ha (s.mem.bytes (spadKey id ta) na) (co.shadowOf xm.ha (ha.head % (ha.count + 1)))
  let sendB (t : State) : State := t.forwardIf xm.fwb id false xm.hb (s.mem.bytes (spadKey id tb) nb) (co.shadowOf xm.hb (sb % (hb.count + 1)))
  have hA (t : State) : Sends id t (sendA t) := Sends.forwardIf ..
  have hB (t : State) : Sends id t (sendB t) := Sends.forwardIf ..
  have hissue := exec_multiply (beats := beats) (accs := [(16 * ab, m * n)]) (hoops := [xm.ha.val, xm.hb.val]) (e := e)
    (scrub := [(spadKey id ta, na), (spadKey id tb, nb)] ++ v.accScrub (16 * ab) (m * n) xm.zi)
    (acts := [(1, .accs (outValues s id m n ab xm.zi cell) k), (beats, .pop xm.ha 1), (beats, .pop xm.hb 1)]) (send := fun t => sendB (sendA t)) hi hu (exec_mma s a xm)
    ?plan fun t => (hA t).trans (hB _)
  case plan =>
    simp only [View.s_live, accBase]
    rw [hbad]
    simp only [List.isEmpty_nil, Bool.not_true, Bool.false_eq_true, if_false]
    rw [if_neg hwait, hta, htb]
    simp only [List.append_nil, List.take_nil, List.isEmpty_nil, Bool.not_true, Bool.false_or]
    by_cases he : e.1 = 0
    · rw [if_neg (by simpa only [bne_iff_ne, not_not]), if_pos he, outCells_eq s id k ab xm.zi hcell]
      rfl
    · rw [if_pos (by simpa only [bne_iff_ne]), if_neg he]
      rfl
  obtain ⟨u, hx, hmem, hfl, hbusy, herror, hruns⟩ := hissue
  refine ⟨u, hx, hmem, hfl, hbusy, herror, fun he => ?_⟩
  obtain ⟨hacts, t, rfl, hl, hc⟩ := hruns he
  exact ⟨hacts, fun l hls => ⟨fun hgo => (hB _).forwarded (forwarded_forwardIf hgo ((State.launchOf_congr hl id).trans hls) hc),
    fun hgo => forwarded_forwardIf hgo ((State.launchOf_congr ((hA t).launches.trans hl) id).trans hls) ((hA t).clock.trans hc)⟩⟩

end Sys2Proof.Proofs
end

section
/-! The segmented multiply, and what considering it finds (R209, R210, R280). -/
namespace Sys2Proof.Machine

/-! ### The record of a slot that is considered -/

/-- Looking at a slot adds one record, which holds what its plan found. -/
theorem Core.looked_look (c : Core) (k : Slot) (cap : Option Capture) (srcs : List (Nat × Src)) (p : Plan) :
    ∃ l, (c.look k cap srcs p).looked = c.looked ++ [l] ∧ l.slot = k ∧ l.violation = p.violation ∧ ∀ x ∈ p.illop, (x.1, x.2, 0) ∈ l.illop :=
  ⟨_, rfl, rfl, rfl, fun _ hx => List.mem_map_of_mem (f := fun x : Nat × Nat => (x.1, x.2, 0)) (List.mem_append_left _ hx)⟩

/-- Considering a slot changes no memory and leaves one record, which holds what its plan found. -/
theorem primOp_considered {t : State} {id : Nat} {k : Slot} {srcs : List (Nat × Src)} {body : View → Plan} (ht : t.cur = .slot id k false) (hc : (t.core id).resumeCaps = []) :
    let p := body (viewOf t id k)
    ∃ u l, primOp srcs body t = .next u ∧ u.mem = t.mem ∧ (u.core id).looked = (t.core id).looked ++ [l] ∧ l.slot = k ∧ l.violation = p.violation ∧
      ∀ x ∈ p.illop, (x.1, x.2, 0) ∈ l.illop := by
  intro p
  obtain ⟨l, hl⟩ := (t.core id).looked_look k none srcs p
  exact ⟨_, l, primOp_look srcs body t id k ht hc, rfl, by rwa [State.core_setCore_self]⟩

/-! ### The checks of row groups (R209, R210, R280) -/

/-- A group whose entry is valid and whose adapter tile fits passes, with a violation where a tag differs. -/
theorem View.segCheck_entry {v : View} {ta n sh g shadow : Nat} {fa : MxFmt} {ha : HReg} {e : Handle}
    (hfind : (v.c.handles.find? fun x => x.1 == v.readSpad (ta + 32 + 4 * g) 4 % 65536 % 4096).map (·.2) = some e) (hv : e.valid = true)
    (hd : v.readSpad (ta + 32 + 4 * g) 4 % 65536 < 4096) (hf : e.fmt ≤ 3)
    (ht : v.tileTraps e.addr (.mx (mxOfCode e.fmt)) n (shapeK (.mx fa) (.mx (mxOfCode e.fmt)) sh) (2 ^ 20 - e.addr) ha.val 1 = []) :
    v.segCheck ta fa ha n sh g shadow = .entry e
      (if v.readSpad (ta + 32 + 4 * g) 4 / 65536 = shadow ∧ v.readSpad (ta + 32 + 4 * g) 4 / 65536 = e.owner then none
        else some { kind := 1, slot := v.slot.val, thread := 0, handle := v.readSpad (ta + 32 + 4 * g) 4 % 65536, tag := v.readSpad (ta + 32 + 4 * g) 4 / 65536,
                    shadow, owner := e.owner, addr := 0 }) := by
  have hbad : (!e.valid || v.readSpad (ta + 32 + 4 * g) 4 % 65536 / 4096 != 0 || decide (3 < e.fmt)) = false := by
    rw [hv, Nat.div_eq_of_lt hd, decide_eq_false (by omega)]
    rfl
  simp only [View.segCheck, hfind, hbad, ht, List.take_nil, List.isEmpty_nil, Bool.not_true, Bool.false_eq_true, if_false]

section
variable {α : Type} (l : List α) (es : α → Handle) (vs : α → Option Violation)

/-- Groups that all pass: no trap, an entry each, and the first of their violations. -/
theorem segTrap_entries : segTrap (l.map fun g => .entry (es g) (vs g)) = [] := by
  induction l with
  | nil => rfl
  | cons g l ih => exact ih
theorem segEntries_entries : segEntries (l.map fun g => .entry (es g) (vs g)) = l.map es := by
  rw [segEntries, List.filterMap_map]
  exact congrFun (List.filterMap_eq_map (f := es)) l
theorem segViol_entries : segViol (l.map fun g => .entry (es g) (vs g)) = l.findSome? vs := by
  rw [segViol, List.findSome?_map]
  rfl

end

/-! ### The shape of an output, and the K of its groups -/

theorem shapeM_div (sh : Nat) : shapeM sh / 16 = 2 ^ (sh % 4) := by rw [shapeM, Nat.mul_div_cancel_left _ (by decide)]
theorem shapeM_eq (sh : Nat) : shapeM sh = 16 * (shapeM sh / 16) := by rw [shapeM_div, shapeM]

/-- One K that every group asks for is the K of the first. -/
theorem headD_map_const {α β : Type} (x d : β) {l : List α} (h : l ≠ []) : (l.map fun _ => x).headD d = x := by
  cases l with
  | nil => exact absurd rfl h
  | cons => rfl

end Sys2Proof.Machine

namespace Sys2Proof.Proofs
open Sys2Proof Sys2Proof.Machine Sys2Proof.Claims

theorem segmentedOperandCheck : Claims.SegmentedOperandCheck := by
  refine ⟨fun v ta n sh g shadow fa ha e => ?group, fun s id k hcur hcap a xm es vs => ?considered⟩
  case group =>
    intro w hd hfind hv hlt hf ht
    have hcheck := View.segCheck_entry (shadow := shadow) hfind hv hlt hf ht
    refine ⟨fun h h' => ?_, fun h => ⟨_, hcheck.trans (congrArg _ (if_neg ?_)), rfl, rfl, rfl, rfl, rfl⟩⟩
    · rw [hcheck, if_pos ⟨h, h'⟩]
    · exact not_and_or.mpr h
  case considered =>
    intro co m ha ta v hva hfa hhdr hchk
    have hbad : v.invalidHoop [(xm.ha, 0)] = [] := View.invalidHoop_none fun x hx => by
      obtain rfl := List.mem_singleton.mp hx
      exact hva
    have hchecks := List.map_congr_left fun g hg => hchk g (List.mem_range.mp hg)
    obtain ⟨u, l, he, hmem, hl, -, hviol, -⟩ := primOp_considered hcur hcap
    refine ⟨u, l, (exec_mmas s a xm).trans he, hmem, hl, hviol.trans ?_⟩
    simp only [View.s_live, accBase]
    rw [hbad, hhdr]
    simp only [List.isEmpty_nil, Bool.not_true, Bool.false_eq_true, if_false]
    rw [if_neg (Nat.not_lt.mpr hfa), hchecks, segTrap_entries, segViol_entries]
    simp only [List.isEmpty_nil, Bool.not_true, Bool.false_eq_true, if_false]
    exact (apply_ite Plan.violation _ _ _).trans (ite_self _)

theorem segmentedProducts : Claims.SegmentedMultiply := by
  intro s id k hi hu a xm es kk co m n ha ta ab v sh fb groups beats na nb cell hva hfa hhdr hchk hta e
  have hbad : v.invalidHoop [(xm.ha, 0)] = [] := View.invalidHoop_none fun x hx => by
    obtain rfl := List.mem_singleton.mp hx
    exact hva
  have hchecks := List.map_congr_left (f := fun g => v.segCheck ta xm.fa xm.ha n xm.shape.val g (sh.getD g 0)) fun g hg => (hchk g (List.mem_range.mp hg)).1
  have hks : (groups.map es).map (fun e => shapeK (.mx xm.fa) (.mx (mxOfCode e.fmt)) xm.shape.val) = groups.map fun _ => kk := by
    rw [List.map_map]
    exact List.map_congr_left fun g hg => (hchk g (List.mem_range.mp hg)).2
  have hpos : 0 < m / 16 := by rw [show m = shapeM xm.shape.val from rfl, shapeM_div]; exact Nat.two_pow_pos _
  have hne : groups ≠ [] := List.ne_nil_of_length_pos (by rwa [List.length_range])
  have hall : (groups.map fun _ => kk).all (· == kk) = true := by simp
  have hviol : groups.findSome? (fun _ => (none : Option Violation)) = none := List.findSome?_eq_none_iff.mpr fun _ _ => rfl
  have hzip : (groups.map es).zip (groups.map fun _ => kk) = groups.map fun g => (es g, kk) := List.zip_map'
  have hissue := exec_multiply (beats := beats) (accs := [(16 * ab, m * n)]) (hoops := [xm.ha.val]) (e := e)
    (scrub := ((spadKey id ta, na) :: groups.map fun g => (spadKey id (es g).addr, nb g)) ++ v.accScrub (16 * ab) (m * n) xm.zi)
    (acts := [(1, .accs (outValues s id m n ab xm.zi cell) k), (beats, .pop xm.ha 1)])
    (send := fun t => t.forwardIf xm.fwa id true xm.ha (s.mem.bytes (spadKey id ta) na) sh) hi hu (exec_mmas s a xm) ?plan fun _ => Sends.forwardIf ..
  case plan =>
    simp only [View.s_live, accBase]
    rw [hbad, hhdr]
    simp only [List.isEmpty_nil, Bool.not_true, Bool.false_eq_true, if_false]
    rw [if_neg (Nat.not_lt.mpr hfa), hchecks, segTrap_entries, segViol_entries, segEntries_entries, hks, hzip, headD_map_const kk 128 hne, hall, hviol, hta]
    simp only [List.append_nil, List.take_nil, List.isEmpty_nil, Bool.not_true, Bool.false_or, Bool.false_eq_true, if_false, if_true, List.map_map, Function.comp_def]
    by_cases he : e.1 = 0
    · rw [if_neg (by simpa only [bne_iff_ne, not_not]), if_pos he, outCells_eq s id k (m := m) (n := n) ab xm.zi (cell := cell)]
      · rfl
      · intro acc i j hi hj
        have hg : i / 16 < m / 16 := by have := shapeM_eq xm.shape.val; omega
        rw [List.getElem?_map, List.getElem?_range hg]
        exact cellValue_mx s id k xm.fa (fb (i / 16)) [(es (i / 16)).scale] ta (es (i / 16)).addr kk acc hi hj
    · rw [if_pos (by simpa only [bne_iff_ne]), if_neg he]
      rfl
  obtain ⟨u, hx, hmem, hfl, hbusy, herror, hruns⟩ := hissue
  refine ⟨u, hx, hmem, hfl, hbusy, herror, fun he => ?_⟩
  obtain ⟨hacts, t, rfl, hl, hc⟩ := hruns he
  exact ⟨hacts, fun l hls hgo => forwarded_forwardIf hgo ((State.launchOf_congr hl id).trans hls) hc⟩

/-- Settles O20: the plan of an MMAS whose groups all pass, cell by cell as a multiply of two block formats, and what the check of one group can find. -/
theorem segmentedMultiply : Obligations.SegmentedMultiply := ⟨segmentedProducts, segmentedOperandCheck⟩

end Sys2Proof.Proofs
end

section
/-! Drains, and hoops read through the word of their descriptor (R79, R212, R213). -/
namespace Sys2Proof.Machine

/-- A slot sees a hoop through the 128 bits of its descriptor (Table 2.13). -/
theorem View.h_live (st : State) (id : Nat) (c : Core) (k : Slot) (pos : Nat) (r : HReg) : (View.mk st id c k none).h pos r = Hoop.ofWord (c.h[r]).word := rfl

/-- MPOP of a hoop whose word has VALID clear changes nothing of its core at issue: its trap stood while it was considered. -/
theorem exec_mpop_invalid {s : State} {id : Nat} {k : Slot} {a : HReg} (n : BitVec 7) (hi : Claims.Issuing s id k) (hu : Claims.Unbound s id)
    (hv : (Hoop.ofWord ((s.core id).h[a]).word).valid = false) : ∃ u, exec (.mpop a n) s = .next u ∧ u.core id = s.core id := by
  refine ⟨_, (exec_mpop ..).trans (primOp_effects hi hu (q := { atOnce := true }) ?_ rfl fun _ => rfl), ?_⟩
  · simp only [View.h_live, hv]
    rfl
  · rw [State.core_setCore_self]
    simp only [List.map_nil, List.append_nil, Option.getD_none]

/-! ### The bytes of a drained run (R212) -/

theorem length_flatMap_of_const {α β : Type} {f : α → List β} {n : Nat} {l : List α} (h : ∀ x ∈ l, (f x).length = n) : (l.flatMap f).length = n * l.length := by
  rw [List.length_flatMap, List.map_congr_left h, List.map_const', List.sum_replicate, smul_eq_mul, Nat.mul_comm]

/-- A run of 32 accumulators fills its bytes in every format. -/
theorem length_drainRun (book : List Byte) (f : DrainFmt) (uscl : Bool) (s : Nat) (md : Mode) {ps : List Nat} (h : ps.length = 32) :
    (drainRun book f uscl s md ps).1.length = runBytes f := by
  cases f with
  | mx g => exact length_bytesOf ..
  | bf16 => exact (length_flatMap_of_const fun _ _ => length_bytesOf ..).trans (by rw [List.length_map, h]; rfl)
  | f32 => exact (length_flatMap_of_const fun _ _ => length_bytesOf ..).trans (by rw [List.length_map, h]; rfl)

end Sys2Proof.Machine

namespace Sys2Proof.Proofs
open Sys2Proof Sys2Proof.Machine Sys2Proof.Claims

/-! ### What of O21 reads no hoop holds (R212) -/

theorem matrixDrain : Claims.MatrixDrain := by
  intro s id k hi hu a b xd co runs lines ea j e run bs fl
  have hissue := exec_matrix (beats := 3 + lines) (accs := [(j, 32 * runs)]) (hoops := []) (e := e) (fl := if e.1 = 0 then fl else 0)
    (scrub := (viewOf s id k).accScrub j (32 * runs) false) (demand := (List.range lines).map fun q => (3 + q, true, (ea / 64 + q) % 16))
    (writes := if e.1 = 0 then (List.range lines).map fun q => (3 + q, .put (putBytes (spadKey id (ea + 64 * q)) ((bs.drop (64 * q)).take 64))) else [])
    (acts := if xd.clr = true ∧ e.1 = 0 then [(1, .accZero j (32 * runs))] else []) (send := fun t => t) hi hu (exec_mdrain s a b xd) ?plan (Sends.refl id)
  case plan =>
    simp only [View.s_live, beq_iff_eq, Bool.and_eq_true, List.foldl_map, List.flatMap_map]
    simp only [fl, List.foldl_map]
    rfl
  obtain ⟨t, hx, hmem, hown, -, -, -⟩ := hissue
  refine ⟨t, hx, hmem, ?length, by rw [hown], by rw [hown], ?writes, ?acts⟩
  case length =>
    refine (length_flatMap_of_const fun q _ => length_drainRun _ _ _ _ _ ?_).trans (by rw [List.length_range])
    rw [List.length_map, List.length_range]
  case writes =>
    rw [hown]
    refine congrArg (co.writes ++ ·) ?_
    split
    · exact List.map_map
    · rfl
  case acts =>
    rw [hown]
    refine congrArg (co.acts ++ ·) ?_
    split <;> rfl

theorem drainFlags : Claims.DrainFlags := by
  intro c lines e fl hfl f
  have hdue : f.due = c.ic + (3 + lines) := rfl
  refine ⟨fun t ht => ?before, ?raised, fun t ht => if_pos (by simp only [hdue]; omega)⟩
  case before => rw [Flight.at, if_neg (by omega), if_neg fun h => by omega]
  case raised => rw [Flight.at, if_neg (by omega), if_pos ⟨rfl, by omega, hfl⟩]

/-! ### A hoop whose word is not valid (R79, R213) -/

/-- A valid hoop whose fill level needs ten bits, where FILL of Table 2.13 has nine. -/
def overfullHoop : Hoop := { base := 0, lines := 0, count := 0, head := 0, tail := 0, fill := 2 ^ 9, valid := true }

/-- In its word the surplus of FILL carries VALID away. -/
theorem overfullHoop_word : (Hoop.ofWord overfullHoop.word).valid = false := by decide

/-- The M slot of core 0 issues, and h0 is overfull. -/
def overfullCore : Core := { Core.reset with h := Core.reset.h.set 0 overfullHoop }
def overfullState : State := { State.reset with cur := .slot 0 3 true }.setCore 0 overfullCore

theorem overfullState_core : overfullState.core 0 = overfullCore := State.core_setCore_self ..

/-- Refutes O21: the model reads a hoop through its descriptor's word, and the statement has no premise that the fields fit in it. In `overfullState` the clause for
MPOP has every premise, and yet MPOP meets a hoop that is not valid and leaves the matrix unit free. No run reaches such a descriptor. -/
theorem not_matrixMaintenance : ¬ Obligations.MatrixMaintenance := by
  rintro ⟨hclaim, -⟩
  have hi : Issuing overfullState 0 3 := ⟨rfl, congrArg Core.resumeCaps overfullState_core⟩
  have hu : Unbound overfullState 0 := fun p => by
    rw [overfullState_core]
    exact Vector.getElem_replicate ..
  have hhoop : (overfullState.core 0).h[(0 : HReg)] = overfullHoop := by rw [overfullState_core]; rfl
  obtain ⟨u, hrun, hcore⟩ := exec_mpop_invalid (a := 0) 0 hi hu (by rw [hhoop]; exact overfullHoop_word)
  have hpop := (hclaim overfullState 0 3 hi hu 0 (.imm 0) 0 0).2 (by rw [hhoop]; rfl) (by rw [hhoop]; decide) (by rw [hhoop]; decide)
  have hidle : (u.core 0).matrix = none := by rw [hcore, overfullState_core]; rfl
  rw [Host.Outcome.next.inj (hrun.symm.trans hpop), State.core_setCore_self] at hidle
  cases hidle

end Sys2Proof.Proofs
end

section
/-! The copy slot: commands that enter a queue, and the checks of those that move data (R215 to R217). -/
namespace Sys2Proof.Machine

/-! ### Commands that enter a queue (R215) -/

/-- What carries a command on waits outside the cores and the memory. -/
theorem State.postCmd_keeps (s : State) (id : Nat) (e : Fin 2) (x : Cmd) : (s.postCmd id e x).mem = s.mem ∧ (s.postCmd id e x).cores = s.cores := by
  have hpost (i : Instr) (a : EvArg) : (s.post i a).mem = s.mem ∧ (s.post i a).cores = s.cores := ⟨State.post_mem .., State.post_cores ..⟩
  unfold State.postCmd
  split
  · exact ⟨rfl, rfl⟩
  · split
    · exact hpost _ _
    · split <;> exact hpost _ _

theorem State.postCmd_core (s : State) (id : Nat) (e : Fin 2) (x : Cmd) (j : Nat) : (s.postCmd id e x).core j = s.core j := by
  rw [State.core, (s.postCmd_keeps id e x).2, State.core]

/-- What is left to do of a plan that queues a command (R215). -/
def View.entering (v : View) (viol : Option Violation) (x : Cmd) : Plan :=
  { violation := viol, lands := [{ dest := .nowhere, lat := 1, val := x.id }], upd := fun c => c.enqueue (engineOf v.slot) x,
    updS := fun s => s.postCmd v.id (engineOf v.slot) x }

theorem View.queued_effects (v : View) (traps : List (Nat × Nat × Nat)) (viol : Option Violation) (x : Cmd) : (v.queued traps viol x).effects = v.entering viol x := rfl

/-- A plan that queues a command, and reads something for it, does what R215 says. -/
theorem exec_queues {s : State} {id : Nat} {k : Slot} {srcs : List (Nat × Src)} {body : View → Plan} {i : Instr} {kind : CmdKind} {dst src : BitVec 512}
    {arrival fault : Option Nat} {after : List Nat} {viol : Option Violation} {scrub : List (Nat × Nat)}
    (hi : Claims.Issuing s id k) (hu : Claims.Unbound s id) (hx : exec i s = primOp srcs body s)
    (hq : (body (viewOf s id k)).effects =
      { (viewOf s id k).entering viol { (viewOf s id k).newCmd kind dst src arrival fault with after } with scrub }) :
    Claims.Queues { s with mem := scrub.foldl (fun (m : Memory) (r : Nat × Nat) => m.scrub r.1 r.2) s.mem } id k kind dst src arrival fault after (exec i s) := by
  rw [hx, primOp_effects hi hu hq rfl fun _ => rfl]
  refine ⟨_, { (viewOf s id k).newCmd kind dst src arrival fault with after }, rfl, rfl, rfl, rfl, rfl, rfl, rfl, rfl, rfl, rfl, fun j hj => ?others,
    (State.postCmd_keeps ..).1, ?own⟩
  case others => exact (State.postCmd_core ..).trans (State.core_setCore_other _ _ _ _ hj)
  case own =>
    refine (State.postCmd_core ..).trans ((State.core_setCore_self ..).trans ?_)
    simp only [View.entering, List.map_nil, List.append_nil, List.map_cons, Option.getD_none]
    rfl

/-! ### Walks (R75, R217) -/

/-- KIND lies in the first word of a walk. -/
theorem fieldOf_low_word (w : BitVec 512) : Claims.fieldOf (w.setWidth 64) 48 4 = walkKind w := by
  rw [Claims.fieldOf, walkKind, walkField, BitVec.toNat_setWidth]
  omega

theorem View.arrivalCore_eq (v : View) (w : BitVec 512) : v.arrivalCore w = if Claims.fieldOf (w.setWidth 64) 48 4 = 1 then walkCore w else v.id := by
  rw [fieldOf_low_word, View.arrivalCore]

/-! ### The checks of walks (R216, Table 7.11) -/

theorem dataCode_cpy (d e : BitVec 512) (handler porter : Bool) : dataCode .cpy d e handler porter =
    if walkMalformed d 1 || walkMalformed e 0 then some 1
    else if walkEsize d != walkEsize e || walkCount d != walkCount e then some 2
    else if walkKindBad d 1 handler porter || walkKindBad e 0 handler porter then some 3 else none := rfl

/-- A KIND from 4 on, and KIND 3 outside the handler, are accepted nowhere. -/
theorem walkKindBad_of_kind {w : BitVec 512} {handler : Bool} (role : WalkRole) (h : 4 ≤ walkKind w ∨ handler = false ∧ walkKind w = 3) :
    walkKindBad w role handler false = true := by
  rcases h with h | ⟨hh, hk⟩
  · simp [walkKindBad, h]
  · simp [walkKindBad, hh, hk]

/-- An unpaged walk of KIND 0 to 2 is accepted as a source and as a destination. -/
theorem walkKindBad_plain {w : BitVec 512} {role : WalkRole} (handler : Bool) (hr : role ≠ 2) (hp : walkPaged w = 0) (hk : walkKind w ≤ 2) :
    walkKindBad w role handler false = false := by
  have h4 : ¬ 4 ≤ walkKind w := by omega
  have h3 : walkKind w ≠ 3 := by omega
  simp [walkKindBad, hp, hr, h3, h4]

end Sys2Proof.Machine

namespace Sys2Proof.Proofs
open Sys2Proof Sys2Proof.Machine Sys2Proof.Claims

theorem dataCommands : Claims.DataCommandsQueue := by
  intro s id k hi hu a b r x c arr goes
  have enters {i : Instr} {srcs : List (Nat × Src)} {body : View → Plan} {kind : CmdKind} {dst src : BitVec 512} (hx : exec i s = primOp srcs body s)
      (hb : body (viewOf s id k) = (viewOf s id k).dataPlan kind dst src (zxVal c x)) : goes kind dst src (exec i s) :=
    exec_queues (scrub := []) hi hu hx (by rw [hb, View.dataPlan, View.arrivalCore_eq, View.queued_effects]; rfl)
  refine ⟨enters (exec_cpy ..) ?cpy, enters (exec_cgath ..) ?cgath, enters (exec_cscat ..) ?cscat, enters (exec_cfill ..) ?cfill⟩
  all_goals simp only [View.w_live, View.s_live, View.xz_live]; rfl

theorem dataCommandChecks : Claims.DataCommandChecks := by
  intro d e handler hd he
  have hform : (walkMalformed d 1 || walkMalformed e 0) = false := by rw [hd, he]; rfl
  refine ⟨fun hne => ?unequal, fun hs hc hk => ?kind, fun hs hc hpd hpe hkd hke => ?alike, fun hs v => ?wide, fun x hdim => ?gather, fun x hdim => ?scatter⟩
  case unequal => simp [dataCode_cpy, hform, hne]
  case kind =>
    have hbad : (walkKindBad d 1 handler false || walkKindBad e 0 handler false) = true := by
      rcases hk with hk | hk
      · rw [walkKindBad_of_kind 1 (.inl hk), Bool.true_or]
      · rw [walkKindBad_of_kind 0 hk, Bool.or_true]
    simp [dataCode_cpy, hform, hs, hc, hbad]
  case alike => simp [dataCode_cpy, hform, hs, hc, walkKindBad_plain (role := 1) handler (by decide) hpd hkd, walkKindBad_plain (role := 0) handler (by decide) hpe hke]
  case wide => simp [dataCode, hs]
  case gather => simp [dataCode, rowsBad, hdim]
  case scatter => simp [dataCode, rowsBad, hdim]

/-- Settles O22: each data command enters its queue by the one lemma for all of them; the checks by the order of their codes. -/
theorem dataCommandsQueue : Obligations.DataCommandsQueue := ⟨dataCommands, dataCommandChecks⟩

end Sys2Proof.Proofs
end

section
/-! The other commands of the copy slot, queued or done at once (R221 to R226). -/
namespace Sys2Proof.Machine

/-- An operation that reads no memory leaves it as it is, marks and all, and queues what its plan says. -/
theorem exec_unread {s : State} {id : Nat} {k : Slot} {srcs : List (Nat × Src)} {body : View → Plan} {i : Instr} (hi : Claims.Issuing s id k) (hu : Claims.Unbound s id)
    (hx : exec i s = primOp srcs body s) (hscrub : (body (viewOf s id k)).scrub = []) (ht : (body (viewOf s id k)).take = none)
    (hupd : (body (viewOf s id k)).upd = fun c => c) (hupdS : (body (viewOf s id k)).updS = fun s => s) :
    let c := s.core id
    let p := body (viewOf s id k)
    ∃ u, exec i s = .next u ∧ u.mem = s.mem ∧ (u.core id).flights = c.flights ++ p.lands.map (fun l => l.flight c k) ∧
      (u.core id).writes = c.writes ++ p.writes.map (fun w => (c.ic + w.1, w.2)) := by
  intro c p
  refine ⟨_, hx.trans (primOp_effects hi hu rfl ht fun x => congrArg (fun f => (f x).ports) hupd), ?_⟩
  simp only [Plan.effects, hupd, hupdS, hscrub, State.core_setCore_self, State.setCore_mem]
  exact ⟨rfl, rfl, rfl⟩

end Sys2Proof.Machine

namespace Sys2Proof.Proofs
open Sys2Proof Sys2Proof.Machine Sys2Proof.Claims

theorem otherCommands : Claims.OtherCommandsQueue := by
  intro s id k hi hu a b d x hint dx sc xa c n goes kv
  have enters {i : Instr} {srcs : List (Nat × Src)} {body : View → Plan} {kind : CmdKind} {arrival fault : Option Nat}
      (hx : exec i s = primOp srcs body s) (hb : (body (viewOf s id k)).effects =
        (viewOf s id k).entering none ((viewOf s id k).newCmd kind 0 0 arrival fault)) : goes kind arrival fault (exec i s) :=
    exec_queues (scrub := []) hi hu hx hb
  refine ⟨enters (exec_cprom ..) ?prom, enters (exec_cdemo ..) ?demo, exec_queues (scrub := []) (viol := none) hi hu (exec_cfence ..) rfl, ?atom,
    enters (exec_kvapp ..) ?app, enters (exec_kvrel ..) ?rel, enters (exec_kvpin ..) ?pin, enters (exec_kvunpin ..) ?unpin⟩
  case atom =>
    intro cas bad read
    by_cases hc : xa.at_.op = .cas
    · have hr : read = { s with mem := [(spadKey id (n a + 24), 8)].foldl (fun (m : Memory) (r : Nat × Nat) => m.scrub r.1 r.2) s.mem } := if_pos hc
      rw [hr]
      exact exec_queues (viol := none) hi hu (exec_catom ..) (by simp only [View.s_live, bad, cas, if_pos hc]; rfl)
    · have hr : read = s := if_neg hc
      rw [hr]
      exact exec_queues (scrub := []) (viol := none) hi hu (exec_catom ..) (by simp only [View.s_live, bad, cas, if_neg hc]; rfl)
  all_goals simp only [View.s_live, View.xz_live]; rfl

theorem immediateCommands : Claims.ImmediateCommands := by
  intro s id k hi hu h a b d x r w xa c n im f
  refine ⟨fun hread => ?choop, ?carm, ?cstat, ?ccancel, ?sat, ?cdeal, fun t ht hcap => ?look⟩
  case choop =>
    have hfault : (viewOf s id k).readFault ((s.core id).ss b).toNat 16 = (0, 0) := hread
    refine ⟨_, (exec_choop ..).trans (primOp_effects hi hu (q := { scrub := [(spadKey id (n b), 16)], acts := [(1, .hoop h ⟨f 0 20, f 20 10, f 32 8, 0, 0, 0, true⟩)] }) ?_ rfl fun _ => rfl),
      Memory.byte_scrubs _ _, fun j hj => State.core_setCore_other _ _ _ _ hj, ?_⟩
    · simp only [View.s_live, hfault, if_true]
      rfl
    · rw [State.core_setCore_self]
      simp only [List.map_nil, List.append_nil, List.map_cons, Option.getD_none]
      rfl
  case carm =>
    refine (exec_carm ..).trans ((primOp_effects hi hu (q := { writes := [(1, .carm (spadKey id (n a)) (n b % 2 ^ 32) ((zxVal c x).toNat % 2 ^ 32))] }) ?_ rfl fun _ => rfl).trans ?_)
    · simp only [View.s_live, View.xz_live]
      rfl
    · simp only [List.map_nil, List.append_nil, List.map_cons, List.foldl_nil, Option.getD_none]
      rfl
  case cstat => exact (exec_cstat ..).trans (primOp_fly hi hu (by simp only [Plan.effects, View.s_live, landS, BitVec.toNat_ofNat]; rfl))
  case ccancel => exact (exec_ccancel ..).trans (primOp_act hi hu (by simp only [Plan.effects, View.s_live, n, c]))
  case sat =>
    obtain ⟨u, he, hmem, hfl, hw⟩ := exec_unread hi hu (exec_sat s a b d xa) rfl rfl rfl rfl
    refine ⟨u, he, hmem, ?writes, fun hret q hq => ?flights⟩
    case writes =>
      rw [hw]
      simp only [View.s_live]
      rfl
    case flights =>
      subst hq
      rw [hfl]
      simp only [hret, if_true]
      rfl
  case cdeal =>
    refine ⟨_, (exec_cdeal ..).trans (primOp_effects hi hu (q := {}) rfl rfl fun _ => rfl), rfl, ?_⟩
    rw [State.core_setCore_self]
    simp only [List.map_nil, List.append_nil, Option.getD_none, c]
  case look =>
    obtain ⟨u, l, he, -, hl, hslot, -, hillop⟩ := primOp_considered (srcs := []) (body := fun _ => { illop := [(7, 0)] }) ht hcap
    exact ⟨u, l, (exec_cdeal ..).trans he, hl, hslot, hillop (7, 0) List.mem_cons_self⟩

/-- Settles O23: the queued commands by the lemma of O22's, the others by what their plans leave. -/
theorem otherCommandsQueue : Obligations.OtherCommandsQueue := ⟨otherCommands, immediateCommands⟩

end Sys2Proof.Proofs
end

section
/-! What a tinker operation leaves when it issues, and the integer operations of a tinker (R113, R114, R231, R237). -/
namespace Sys2Proof.Machine

/-! ### A tinker operation at its issue -/

/-- What the barrel's choice sees. -/
abbrev tviewOf (s : State) (id : Nat) (t : Fin 64) : TView := ⟨s, id, s.core id, t, (s.core id).threads[t]⟩

theorem TView.r_eq (s : State) (id : Nat) (t : Fin 64) (pos : Nat) (x : TOp) : (tviewOf s id t).r pos x = Claims.treg s id t pos x := rfl

/-- The part of a plan that stays with the thread. -/
def TPlan.effect (p : TPlan) : Claims.Effect := ⟨p.lands, p.dests, p.done, p.la, p.kind, p.target⟩

section
variable {s : State} {id : Nat} {t : Fin 64} {body : TView → TPlan} {p : TPlan} (hc : Claims.Chosen s id t) (hp : body (tviewOf s id t) = p)
include hc hp

theorem tinkOp_issues (hpark : p.park = none) (hviol : p.viol = none) : tinkOp body s = .next (s.tinkIssue id t p) := by
  subst hp
  obtain ⟨z, hcur⟩ := hc
  simp only [tinkOp, hcur, Fin.ofNat_val_eq_self, hpark, hviol]

theorem tinkOp_parks {code reason addr : Nat} (hpark : p.park = some (code, reason, addr)) :
    tinkOp body s = .next ((if code = 4 then s.logBeyond id p.access addr else s).updCore id fun c => c.park t ((s.core id).threads[t]).pc code reason addr) := by
  subst hp
  obtain ⟨z, hcur⟩ := hc
  simp only [tinkOp, hcur, Fin.ofNat_val_eq_self, hpark]

end

/-- The record of an operation that has issued and is not complete. -/
def State.tinkPending (s : State) (id : Nat) (t : Fin 64) (p : TPlan) : TPending :=
  let h := (s.core id).threads[t]
  { seq := h.seq, l := p.la.isSome, la := p.la.getD 0, dests := p.lands.map (fun l => l.1.toNat) ++ p.dests.map (·.toNat), mem := p.mem,
    due := p.done.map (s.clock + ·), kind := p.kind, pc := h.pc, base := h.base, orphan := false, order := s.issueOrder }

/-- The scratchpad writes of an operation join those of the cycle. -/
def Core.tinkWrites (c : Core) (l : List PutByte) : Core := { c with twrites := if l.isEmpty then c.twrites else c.twrites ++ [.put l] }

/-- The core of an operation that has issued, before the plan's own update: the thread goes on, and its results are in flight. -/
def State.tinkCore (s : State) (id : Nat) (t : Fin 64) (p : TPlan) : Core :=
  let c := s.core id
  let h := c.threads[t]
  { c with
    threads := c.threads.set t { h with seq := h.seq + 1, pend := h.pend ++ [s.tinkPending id t p], pc := (p.target.getD (h.pc + h.opBytes)) % 2 ^ 48, fetched := none }
    tflights := c.tflights ++ p.lands.map (fun l => ⟨h.base + l.1.toNat, l.2.2, s.clock + l.2.1, t.val, s.issueOrder⟩) }

/-- The issue before the plan's update of the module. -/
theorem State.tinkIssue_eq (s : State) (id : Nat) (t : Fin 64) (p : TPlan) :
    ∃ v, s.tinkIssue id t p = p.updS v ∧ v.mem = p.scrub.foldl (fun (m : Memory) r => m.scrub r.1 r.2) s.mem ∧
      v.cores = (s.setCore id (p.upd ((s.tinkCore id t p).tinkWrites p.writes))).cores := by
  refine ⟨_, rfl, ?_, ?_⟩ <;> split <;> simp only [State.post_mem, State.post_cores] <;> rfl

/-- Where the plan's update of the module leaves memory and cores, the operation does what the plan says of thread and core. -/
theorem State.tinkIssue_does (s : State) (id : Nat) (t : Fin 64) (p : TPlan) {f : Core → Core}
    (hf : ∀ c : Core, p.upd (c.tinkWrites p.writes) = f c)
    (hS : ∀ u, (p.updS u).mem = u.mem ∧ (p.updS u).cores = u.cores) : Claims.TinkDoes s id t p.effect f (.next (s.tinkIssue id t p)) := by
  obtain ⟨v, hv, hmem, hcores⟩ := s.tinkIssue_eq id t p
  have hcore (j : Nat) : (s.tinkIssue id t p).core j = State.core { v with cores := (p.updS v).cores } j := by rw [hv]; rfl
  simp only [(hS v).2, hcores] at hcore
  refine ⟨_, s.tinkPending id t p, rfl, fun z => ?bytes, fun j hj => ?others, rfl, rfl, rfl, rfl, rfl, rfl, rfl, rfl, rfl, ?own⟩
  case bytes => rw [hv, (hS v).1, hmem, Memory.byte_scrubs]
  case others => exact (hcore j).trans (State.core_setCore_other s id j _ hj)
  case own => exact (hcore id).trans ((State.core_setCore_self s id _).trans (hf (s.tinkCore id t p)))

section
variable {s : State} {id : Nat} {t : Fin 64} {i : Instr} {body : TView → TPlan} {p : TPlan} (hc : Claims.Chosen s id t) (hx : exec i s = tinkOp body s)
  (hp : body (tviewOf s id t) = p)
include hc hx hp

/-- An operation of the barrel's choice that neither parks its thread nor is a violation does what its plan says. -/
theorem exec_does {e : Claims.Effect} {f : Core → Core} (hpark : p.park = none) (hviol : p.viol = none) (he : p.effect = e)
    (hf : ∀ c : Core, p.upd (c.tinkWrites p.writes) = f c) (hS : ∀ u, (p.updS u).mem = u.mem ∧ (p.updS u).cores = u.cores) :
    Claims.TinkDoes s id t e f (exec i s) := by
  rw [hx, tinkOp_issues hc hp hpark hviol, ← he]
  exact s.tinkIssue_does id t p hf hS

/-- The same of one that then does something to the module. -/
theorem exec_does_then {e : Claims.Effect} {f : Core → Core} (hpark : p.park = none) (hviol : p.viol = none) (he : p.effect = e)
    (hf : ∀ c : Core, p.upd (c.tinkWrites p.writes) = f c) : ∃ v, exec i s = .next (p.updS v) ∧ Claims.TinkDoes s id t e f (.next v) :=
  ⟨s.tinkIssue id t { p with updS := fun s => s }, hx.trans (tinkOp_issues hc hp hpark hviol), he ▸ s.tinkIssue_does id t { p with updS := fun s => s } hf fun _ => ⟨rfl, rfl⟩⟩

end

section
variable {s : State} {id : Nat} {t : Fin 64} (hc : Claims.Chosen s id t)
include hc

/-- An operation whose plan holds no more than results gives them. -/
theorem exec_gives {i : Instr} {body : TView → TPlan} {a : TOp} {lat : Nat} {la : Option Nat} {x : Word} (hx : exec i s = tinkOp body s)
    (hp : body (tviewOf s id t) = { lands := [(a, lat, x)], done := some lat, la }) : Claims.TinkGives s id t a lat la x (exec i s) :=
  exec_does hc hx hp rfl rfl rfl (fun _ => rfl) fun _ => ⟨rfl, rfl⟩

/-! ### The shared forms of integer operations (R237) -/

theorem tBin_gives {i : Instr} {lat : Nat} {la : Option Nat} {f : Word → Word → Word} {a b c : TOp} (hx : exec i s = tBin lat la f a b c s) :
    Claims.TinkGives s id t a lat la (f (Claims.treg s id t 1 b) (Claims.treg s id t 2 c)) (exec i s) := exec_gives hc hx rfl
theorem tBinImm_gives {i : Instr} {zx : Bool} {lat : Nat} {la : Option Nat} {f : Word → Word → Word} {a b : TOp} {imm : BitVec 32}
    (hx : exec i s = tBinImm zx lat la f a b imm s) :
    Claims.TinkGives s id t a lat la (f (Claims.treg s id t 1 b) (if zx then imm.zeroExtend 64 else imm.signExtend 64)) (exec i s) := exec_gives hc hx rfl
theorem tUn_gives {i : Instr} {f : Word → Word} {a b : TOp} (hx : exec i s = tUn f a b s) :
    Claims.TinkGives s id t a 1 none (f (Claims.treg s id t 1 b)) (exec i s) := exec_gives hc hx rfl

end

theorem boolWord_cond64 (cc : ICond) (p q : Word) : boolWord (cond64 cc p q) = if Claims.condWord cc p q then 1 else 0 := by rw [cond64_eq, boolWord]

end Sys2Proof.Machine

namespace Sys2Proof.Proofs
open Sys2Proof Sys2Proof.Machine Sys2Proof.Claims

theorem tinkerRegisters : Claims.TinkerIntegers := by
  intro s id t hc a b c d la cc p q l gives
  have bin {i : Instr} {lat : Nat} {la : Option Nat} (f : Word → Word → Word) {x : Word} (hx : exec i s = tBin lat la f a b c s) (hf : f p q = x) :
      gives lat la x (exec i s) := hf ▸ tBin_gives hc hx
  have un {i : Instr} (f : Word → Word) {x : Word} (hx : exec i s = tUn f a b s) (hf : f p = x) : gives 1 none x (exec i s) := hf ▸ tUn_gives hc hx
  refine ⟨bin (· + ·) rfl rfl, bin (· - ·) rfl rfl, bin (· * ·) rfl rfl, bin mulhS rfl rfl, bin mulhU rfl rfl,
    bin divS rfl (divS_eq p q), bin divU rfl (divU_eq p q), bin remS rfl (remS_eq p q), bin remU rfl (remU_eq p q),
    bin (· &&& ·) rfl rfl, bin (· ||| ·) rfl rfl, bin (· ^^^ ·) rfl rfl, bin (· &&& ~~~·) rfl rfl,
    bin (fun p q => p <<< cnt q) rfl rfl, bin (fun p q => p >>> cnt q) rfl rfl, bin (fun p q => p.sshiftRight (cnt q)) rfl rfl, bin rotS rfl rfl,
    bin _ (exec_tMin ..) (minS_eq p q), bin _ (exec_tMinW ..) (minU_eq p q), bin _ (exec_tMax ..) (maxS_eq p q), bin _ (exec_tMaxW ..) (maxU_eq p q),
    un clz64 rfl (clz64_eq_leadingZeros p), un _ (exec_tPopc ..) (congrArg _ (popN_eq_ones p)), exec_gives hc (exec_tSel ..) ?sel, bin _ (exec_tCmp ..) (boolWord_cond64 cc p q)⟩
  case sel => exact congrArg (fun x : Word => ({ lands := [(a, 1, x)] } : TPlan)) (ite_not (treg s id t 3 d = 0) p q)

theorem tinkerImmediates : Claims.TinkerImmediates := by
  intro s id t hc a b la cc imm g p q z l n m gives
  have sx {i : Instr} {lat : Nat} {la : Option Nat} (f : Word → Word → Word) {x : Word} (hx : exec i s = tBinImm false lat la f a b imm s) (hf : f p q = x) :
      gives lat la x (exec i s) := hf ▸ tBinImm_gives hc hx
  have zx {i : Instr} {lat : Nat} {la : Option Nat} (f : Word → Word → Word) {x : Word} (hx : exec i s = tBinImm true lat la f a b imm s) (hf : f p z = x) :
      gives lat la x (exec i s) := hf ▸ tBinImm_gives hc hx
  have un {i : Instr} (f : Word → Word) {x : Word} (hx : exec i s = tUn f a b s) (hf : f p = x) : gives 1 none x (exec i s) := hf ▸ tUn_gives hc hx
  refine ⟨sx (· - ·) rfl rfl, un (· + q) rfl rfl, sx (· * ·) rfl rfl, sx mulhS rfl rfl, zx mulhU rfl rfl,
    sx divS rfl (divS_eq p q), zx divU rfl (divU_eq p z), sx remS rfl (remS_eq p q), zx remU rfl (remU_eq p z),
    sx (· &&& ·) rfl rfl, sx (· ||| ·) rfl rfl, sx (· ^^^ ·) rfl rfl, sx (· &&& ~~~·) rfl rfl,
    sx (fun p q => p <<< cnt q) rfl rfl, sx (fun p q => p >>> cnt q) rfl rfl, sx (fun p q => p.sshiftRight (cnt q)) rfl rfl, sx rotS rfl rfl,
    sx _ (exec_tMinImm ..) (minS_eq p q), zx _ (exec_tMinWImm ..) (minU_eq p z), sx _ (exec_tMaxImm ..) (maxS_eq p q), zx _ (exec_tMaxWImm ..) (maxU_eq p z),
    exec_gives hc (exec_tLi ..) rfl, un (bfxS g) rfl (bfxS_eq g p), exec_gives hc (exec_tBfi ..) ?insert, ?compare⟩
  case insert => simp only [TView.r_eq, bfiS_eq, m, n, p]
  case compare =>
    have h : gives 1 none _ (exec (.tCmpImm cc a b imm) s) := tBinImm_gives (zx := condIsW cc) hc (exec_tCmpImm ..)
    rwa [boolWord_cond64, condIsW_eq] at h

/-- Settles O31: each operation is one of the shared forms, with a function that agrees with the rule's. -/
theorem tinkerIntegers : Obligations.TinkerIntegers := ⟨tinkerRegisters, tinkerImmediates⟩

end Sys2Proof.Proofs
end

section
/-! Compare and exchange, control and signalling of a tinker (R246 to R248, R253 to R256). -/
namespace Sys2Proof.Machine

/-- An operation whose plan is an effect on its thread alone does that. -/
theorem exec_effect {s : State} {id : Nat} {t : Fin 64} {i : Instr} {body : TView → TPlan} {e : Claims.Effect} {m : Option (Bool × Nat × Nat)} (hc : Claims.Chosen s id t)
    (hx : exec i s = tinkOp body s) (hp : body (tviewOf s id t) = { lands := e.lands, dests := e.dests, done := e.done, la := e.la, kind := e.kind, target := e.pc, mem := m }) :
    Claims.TinkDoes s id t e (fun c => c) (exec i s) := exec_does hc hx hp rfl rfl rfl (fun _ => rfl) fun _ => ⟨rfl, rfl⟩

/-! ### Compare and exchange (R248) -/

/-- What TCMPX leaves: whether it exchanged, and its two registers in order. -/
def tcmpxEffect (la : BitVec 4) (a b c : TOp) (y z : Word) : Claims.Effect :=
  { lands := (a, 2, if z.slt y && b != c then 1 else 0) :: if z.slt y && b != c then [(b, 2, z), (c, 2, y)] else (b, 2, y) :: if b = c then [] else [(c, 2, z)],
    done := some 2, la := some la.toNat }

theorem exec_tcmpx_does {s : State} {id : Nat} {t : Fin 64} (hc : Claims.Chosen s id t) (la : BitVec 4) (a b c : TOp) :
    Claims.TinkDoes s id t (tcmpxEffect la a b c (Claims.treg s id t 1 b) (Claims.treg s id t 2 c)) (fun c => c) (exec (.tcmpx la a b c) s) :=
  exec_effect (m := none) hc (exec_tcmpx ..) rfl

section
variable (la : BitVec 4) (a : TOp) {b c : TOp} {y z : Word}

theorem tcmpxEffect_greater (hne : b ≠ c) (h : z.slt y = true) :
    tcmpxEffect la a b c y z = { lands := [(a, 2, 1), (b, 2, z), (c, 2, y)], done := some 2, la := some la.toNat } := by simp [tcmpxEffect, h, hne]
theorem tcmpxEffect_ordered (hne : b ≠ c) (h : z.slt y = false) :
    tcmpxEffect la a b c y z = { lands := [(a, 2, 0), (b, 2, y), (c, 2, z)], done := some 2, la := some la.toNat } := by simp [tcmpxEffect, h, hne]
theorem tcmpxEffect_same (h : b = c) :
    tcmpxEffect la a b c y z = { lands := [(a, 2, 0), (b, 2, y)], done := some 2, la := some la.toNat } := by simp [tcmpxEffect, h]

end

/-! ### The scratchpad's checks of a range and an alignment (R240) -/

theorem TView.spadPark_none {v : TView} {a n align : Nat} (hr : v.c.badRange a n = false) (ha : a % align = 0) : v.spadPark a n align = none := by
  simp [TView.spadPark, hr, ha]

/-- The check of a frame's address passes (R253). -/
theorem frameCheck_none {f : Nat} {bad : Prop} [Decidable bad] (h : ¬bad) (hl : f < 2 ^ 48) :
    (if bad then some (0x9, 0, f) else if 2 ^ 48 ≤ f then some (0x4, 0, f) else none) = none := by rw [if_neg h, if_neg (Nat.not_le.mpr hl)]

/-! ### TREL and TEXIT (R243, R247) -/

theorem TView.releasePlan_none (v : TView) (exit : Bool) (sc : Scope) : v.releasePlan exit none sc = { done := none, kind := some (.release exit none sc false) } := rfl
theorem TView.releasePlan_some {v : TView} {a : Nat} (exit : Bool) (sc : Scope) (hr : v.c.badRange a 8 = false) (ha : a % 8 = 0) :
    v.releasePlan exit (some a) sc = { done := none, kind := some (.release exit (some a) sc false), mem := some (false, a, 8) } := by
  rw [TView.releasePlan, TView.spadPark_none hr ha]
  rfl

end Sys2Proof.Machine

namespace Sys2Proof.Proofs
open Sys2Proof Sys2Proof.Machine Sys2Proof.Claims

/-- Settles O52: the plan of TCMPX in its three cases, and its row of the decoder. -/
theorem tinkerCompareExchange : Obligations.TinkerCompareExchange := by
  refine ⟨fun s id t hc a b c la => ?_, fun a b c la => ⟨fun h => ?_, fun hb hc => ?_⟩⟩
  · intro y z
    have hdoes := exec_tcmpx_does hc la a b c
    exact ⟨fun hne h => tcmpxEffect_greater la a hne h ▸ hdoes, fun hne h => tcmpxEffect_ordered la a hne h ▸ hdoes, fun h => tcmpxEffect_same la a h ▸ hdoes⟩
  · show (dTcmpx ⟨0x30, la, a, b, c, none⟩).result = _
    rw [dTcmpx, if_pos h]
    rfl
  · show (dTcmpx ⟨0x30, la, a, b, c, none⟩).result = _
    simp [dTcmpx, hb, hc]

/-- Settles O32: each operation by its plan. -/
theorem tinkerControl : Obligations.TinkerControl := by
  intro s id t hc a b c la off sc h rel does x y z same
  have effect {i : Instr} {body : TView → TPlan} {e : Effect} (m : Option (Bool × Nat × Nat)) (hx : exec i s = tinkOp body s)
      (hp : body (tviewOf s id t) = { lands := e.lands, dests := e.dests, done := e.done, la := e.la, kind := e.kind, target := e.pc, mem := m }) : does e same (exec i s) :=
    exec_effect hc hx hp
  have hcmp := exec_tcmpx_does hc la a b c
  refine ⟨effect none (exec_tbr ..) rfl, effect none (exec_tbr ..) rfl, effect none (exec_tbr ..) rfl, effect none (exec_tbr ..) rfl, fun hi => effect none (exec_tbr ..) ?ind, ?twait, ?tsig, fun hne => ?cmp,
    fun he => tcmpxEffect_same la a he ▸ hcmp, fun hz => effect none (exec_texit ..) ?exit, fun hz hr ha => effect (some (false, x.toNat, 8)) (exec_texit ..) ?exitFlag,
    fun hr ha => effect (some (false, x.toNat, 8)) (exec_trel ..) (TView.releasePlan_some false sc hr ha), effect none (exec_tfence ..) rfl,
    fun hf hp hl => effect (some (true, x.toNat, 64)) (exec_spawn ..) ?spawn, fun hf hl => effect (some (true, x.toNat, 64)) (exec_join ..) ?join, effect none (exec_steal ..) rfl⟩
  case ind => exact congrArg (fun k => ({ target := some (wrapNat 48 ((x.toNat : Int) + off.toInt)), park := k } : TPlan)) (if_pos hi)
  case twait =>
    refine ⟨_, exec_does hc (exec_twait ..) rfl rfl rfl rfl (fun _ => rfl) (fun _ => ⟨rfl, rfl⟩), fun k => ?_⟩
    simp [Core.updThread, Core.thread, Core.tinkWrites]
  case tsig => exact exec_does hc (exec_tsig ..) rfl rfl rfl rfl (fun _ => rfl) fun _ => ⟨rfl, rfl⟩
  case cmp =>
    cases hlt : z.slt y with
    | true => exact tcmpxEffect_greater la a hne hlt ▸ hcmp
    | false => exact tcmpxEffect_ordered la a hne hlt ▸ hcmp
  case exit => exact congrArg (fun f => (tviewOf s id t).releasePlan true f .core) (if_pos hz)
  case exitFlag => exact (congrArg (fun f => (tviewOf s id t).releasePlan true f .core) (if_neg hz)).trans (TView.releasePlan_some true .core hr ha)
  case spawn =>
    exact congrArg (fun k => ({ park := k, done := none, kind := some (.spawn x.toNat (y.toNat % 2 ^ 48) 0 0 0 0), mem := some (true, x.toNat, 64) } : TPlan))
      (frameCheck_none (by rintro (h | h); exacts [h hf, h hp]) hl)
  case join =>
    exact congrArg (fun k => ({ park := k, dests := [b], done := none, kind := some (.join x.toNat b 0 0 0 0), mem := some (true, x.toNat, 64) } : TPlan))
      (frameCheck_none (not_not_intro hf) hl)

end Sys2Proof.Proofs
end

section
/-! Memory operations of a tinker: the scratchpad, channel sends, and device memory through the tinker cache (R240 to R245). -/
namespace Sys2Proof.Machine

theorem toNat_eaOf (b x : Word) : eaOf b x = (b.toNat + x.toNat) % 2 ^ 64 := BitVec.toNat_add b x

/-! ### The scratchpad (R240) -/

theorem TView.readPark_none {v : TView} {a n : Nat} (h : v.st.mem.spadFault v.id a n = (0, 0)) : v.readPark a n = none := by
  rw [TView.readPark, h]
  rfl

/-- The checks of a read that is in range, aligned and free of errors. -/
theorem TView.readChecks_none {v : TView} {a n : Nat} (hr : v.c.badRange a n = false) (ha : a % n = 0) (h : v.st.mem.spadFault v.id a n = (0, 0)) :
    orPark (v.spadPark a n n) (v.readPark a n) = none := by
  rw [TView.spadPark_none hr ha, orPark, TView.readPark_none h]

theorem Core.tinkWrites_of_ne_nil (c : Core) {l : List PutByte} (h : l ≠ []) : c.tinkWrites l = { c with twrites := c.twrites ++ [.put l] } := by
  rw [Core.tinkWrites, if_neg (by simpa using h)]

theorem stwBytes_pos (w : StW) : 0 < stwBytes w := by cases w <;> decide

theorem putBytes_stw_ne_nil (key : Nat) (w : StW) (x : Nat) : putBytes key (bytesOf (stwBytes w) x) ≠ [] := by
  rw [← List.length_pos_iff, length_putBytes, length_bytesOf]
  exact stwBytes_pos w

section
variable {s : State} {id : Nat} {t : Fin 64} {i : Instr} {body : TView → TPlan} (hc : Claims.Chosen s id t) (hx : exec i s = tinkOp body s) {ea : Nat}
include hc hx

theorem exec_spLoad {la : BitVec 4} {ty : LdTy} {a : TOp} (hp : body (tviewOf s id t) = (tviewOf s id t).spLoad la ty a ea) (hr : (s.core id).badRange ea (ldBytes ty) = false)
    (ha : ea % ldBytes ty = 0) (hread : Claims.Readable s id ea (ldBytes ty)) :
    Claims.TinkDoes s id t { lands := [(a, 6, extendLd ty (s.mem.read (spadKey id ea) (ldBytes ty)))], done := some 6, la := some la.toNat } (fun c => c) (exec i s) :=
  exec_does hc hx hp (TView.readChecks_none (v := tviewOf s id t) hr ha hread) rfl rfl (fun _ => rfl) fun _ => ⟨rfl, rfl⟩

theorem exec_spStore {w : StW} {a : TOp} (hp : body (tviewOf s id t) = (tviewOf s id t).spStore w a ea) (hr : (s.core id).badRange ea (stwBytes w) = false)
    (ha : ea % stwBytes w = 0) :
    Claims.TinkDoes s id t {} (fun c => { c with twrites := c.twrites ++ [.put (putBytes (spadKey id ea) (bytesOf (stwBytes w) (Claims.treg s id t 0 a).toNat))] }) (exec i s) :=
  exec_does hc hx hp (TView.spadPark_none hr ha) rfl rfl (fun c => c.tinkWrites_of_ne_nil (putBytes_stw_ne_nil _ _ _)) fun _ => ⟨rfl, rfl⟩

end

/-! ### Lines of the tinker cache (R241) -/

theorem globalPark_none {va n : Nat} (hl : va < 2 ^ 48) (ha : va % n = 0) : globalPark va n = none := by
  rw [globalPark, if_neg (Nat.not_le.mpr hl), if_neg (not_not_intro ha)]

theorem testBit_window (n o j : Nat) : ((2 ^ n - 1) * 2 ^ o).testBit j = decide (o ≤ j ∧ j < o + n) := by
  rw [Nat.testBit_mul_two_pow, Nat.testBit_two_pow_sub_one, ← Bool.decide_and]
  exact decide_eq_decide.mpr (by omega)

/-- Bytes with the same bits are the same. -/
theorem byte_congr {x y i j : Nat} (h : ∀ b, b < 8 → x.testBit (8 * i + b) = y.testBit (8 * j + b)) : x / 2 ^ (8 * i) % 256 = y / 2 ^ (8 * j) % 256 := by
  refine Nat.eq_of_testBit_eq fun b => ?_
  rw [show 256 = 2 ^ 8 from rfl, Nat.testBit_mod_two_pow, Nat.testBit_mod_two_pow, Nat.testBit_div_two_pow, Nat.testBit_div_two_pow, Nat.add_comm b, Nat.add_comm b]
  by_cases hb : b < 8
  · rw [h b hb]
  · simp [hb]

section
variable (l : CacheLine) (va n x : Nat)

theorem CacheLine.testBit_dirty_write (j : Nat) : (l.write va n x).dirty.testBit j = (l.dirty.testBit j || decide (va % 64 ≤ j ∧ j < va % 64 + n)) := by
  rw [CacheLine.write, Nat.testBit_or, testBit_window]

theorem CacheLine.testBit_data_write (j : Nat) : (l.write va n x).data.testBit j =
    if 8 * (va % 64) ≤ j ∧ j < 8 * (va % 64) + 8 * n then (x % 2 ^ (8 * n)).testBit (j - 8 * (va % 64)) else l.data.testBit j := by
  rw [CacheLine.write, testBit_mergeBits, testBit_window]
  by_cases hj : 8 * (va % 64) ≤ j ∧ j < 8 * (va % 64) + 8 * n
  · simp [hj, Nat.testBit_mul_two_pow]
  · simp only [hj, decide_false, if_false, Bool.false_eq_true]

/-- The bytes written hold the value. -/
theorem CacheLine.data_write_inside {i : Nat} (hi : i < n) : (l.write va n x).data / 2 ^ (8 * (va % 64 + i)) % 256 = x / 2 ^ (8 * i) % 256 := by
  refine byte_congr fun b hb => ?_
  rw [CacheLine.testBit_data_write, if_pos (by omega), Nat.testBit_mod_two_pow, decide_eq_true (by omega), Bool.true_and]
  congr 1
  omega

/-- The other bytes of the line stay. -/
theorem CacheLine.data_write_outside {j : Nat} (hj : j < va % 64 ∨ va % 64 + n ≤ j) : (l.write va n x).data / 2 ^ (8 * j) % 256 = l.data / 2 ^ (8 * j) % 256 :=
  byte_congr fun b hb => by rw [CacheLine.testBit_data_write, if_neg (by omega)]

end

/-! ### Loads and stores through the cache (R241, R242) -/

section
variable {v : TView} {va : Nat} {l : CacheLine}

theorem TView.gLoad_hit {la : BitVec 4} {ty : LdTy} {a : TOp} (hl : v.c.line va = some l) (hrd : l.rd = true) :
    v.gLoad la ty a va = { park := orPark (globalPark va (ldBytes ty)) (if l.cv = 0 then none else some (0x7, 0, va)), la := some la.toNat, mem := some (true, va, ldBytes ty),
                             lands := [(a, 8, extendLd ty (l.read va (ldBytes ty)))], done := some 8 } := by
  simp only [TView.gLoad, hl, Option.filter, hrd, if_true]
theorem TView.gLoad_miss {la : BitVec 4} {ty : LdTy} {a : TOp} (h : ∀ l, v.c.line va = some l → l.rd = false) :
    v.gLoad la ty a va = { park := globalPark va (ldBytes ty), la := some la.toNat, mem := some (true, va, ldBytes ty), dests := [a], done := none, kind := some (.load ty a va),
                             updS := fun s => s.post .tinkerCacheFill (.line v.id (va / 64 * 64)) } := by
  have hf : (v.c.line va).filter (·.rd) = none := Option.filter_eq_none_iff.mpr fun l hl => by simp [h l hl]
  simp only [TView.gLoad, hf]
theorem TView.gStore_hit {w : StW} {a : TOp} (hl : v.c.line va = some l) (hwr : l.wr = true) :
    v.gStore w a va = { park := globalPark va (stwBytes w), mem := some (true, va, stwBytes w), upd := fun c => c.setLine (l.write va (stwBytes w) (v.r 0 a).toNat) } := by
  simp only [TView.gStore, hl, Option.filter, hwr, if_true]
theorem TView.gStore_miss {w : StW} {a : TOp} (h : ∀ l, v.c.line va = some l → l.wr = false) :
    v.gStore w a va = { park := globalPark va (stwBytes w), mem := some (true, va, stwBytes w), done := none, kind := some (.store (stwBytes w) va (v.r 0 a).toNat),
                         updS := fun s => s.post .tinkerCacheFill (.line v.id (va / 64 * 64)) } := by
  have hf : (v.c.line va).filter (·.wr) = none := Option.filter_eq_none_iff.mpr fun l hl => by simp [h l hl]
  simp only [TView.gStore, hf]

end

section
variable {s : State} {id : Nat} {t : Fin 64} {i : Instr} {body : TView → TPlan} (hc : Claims.Chosen s id t) (hx : exec i s = tinkOp body s) {va : Nat} {a : TOp}
include hc hx

/-- An operation that waits for a line is incomplete, and the line's fill is asked for. -/
theorem exec_asks {p : TPlan} {e : Claims.Effect} (hp : body (tviewOf s id t) = p) (hpark : p.park = none) (hviol : p.viol = none) (he : p.effect = e)
    (hf : ∀ c : Core, p.upd (c.tinkWrites p.writes) = c) (hS : p.updS = fun s => s.post .tinkerCacheFill (.line id (va / 64 * 64))) :
    (∀ u, exec i s = .next u → (.tinkerCacheFill, .line id (va / 64 * 64)) ∈ u.pending) ∧ Claims.TinkDoes s id t e (fun c => c) (exec i s) := by
  obtain ⟨v, hv, -⟩ := exec_does_then hc hx hp hpark hviol he hf
  refine ⟨fun u hu => ?_, exec_does hc hx hp hpark hviol he hf fun u => by rw [hS]; exact ⟨State.post_mem .., State.post_cores ..⟩⟩
  cases hv.symm.trans hu
  rw [hS]
  exact v.mem_pending_post ..

/-- R241, R242: a load of device memory, in its line or waiting for it. -/
theorem exec_gLoad {la : BitVec 4} {ty : LdTy} (hp : body (tviewOf s id t) = (tviewOf s id t).gLoad la ty a va) (hl : va < 2 ^ 48) (ha : va % ldBytes ty = 0) :
    (∀ l, (s.core id).line va = some l → l.rd = true → l.cv = 0 →
      Claims.TinkDoes s id t { lands := [(a, 8, extendLd ty (l.read va (ldBytes ty)))], done := some 8, la := some la.toNat } (fun c => c) (exec i s)) ∧
    ((∀ l, (s.core id).line va = some l → l.rd = false) → (∀ u, exec i s = .next u → (.tinkerCacheFill, .line id (va / 64 * 64)) ∈ u.pending) ∧
      Claims.TinkDoes s id t { dests := [a], done := none, la := some la.toNat, kind := some (.load ty a va) } (fun c => c) (exec i s)) := by
  have hpark := globalPark_none hl ha
  refine ⟨fun l hline hrd hcv => exec_does hc hx (hp.trans (TView.gLoad_hit hline hrd)) ?_ rfl rfl (fun _ => rfl) fun _ => ⟨rfl, rfl⟩,
    fun hmiss => exec_asks hc hx (hp.trans (TView.gLoad_miss hmiss)) hpark rfl rfl (fun _ => rfl) rfl⟩
  simp only [hpark, hcv, if_true, orPark]

/-- R241, R242: a store into device memory, in its line or waiting for it. -/
theorem exec_gStore {w : StW} (hp : body (tviewOf s id t) = (tviewOf s id t).gStore w a va) (hl : va < 2 ^ 48) (ha : va % stwBytes w = 0) :
    (∀ l, (s.core id).line va = some l → l.wr = true →
      Claims.TinkDoes s id t {} (fun c => c.setLine (l.write va (stwBytes w) (Claims.treg s id t 0 a).toNat)) (exec i s)) ∧
    ((∀ l, (s.core id).line va = some l → l.wr = false) → (∀ u, exec i s = .next u → (.tinkerCacheFill, .line id (va / 64 * 64)) ∈ u.pending) ∧
      Claims.TinkDoes s id t { done := none, kind := some (.store (stwBytes w) va (Claims.treg s id t 0 a).toNat) } (fun c => c) (exec i s)) :=
  have hpark := globalPark_none hl ha
  ⟨fun _ hline hwr => exec_does hc hx (hp.trans (TView.gStore_hit hline hwr)) hpark rfl rfl (fun _ => rfl) fun _ => ⟨rfl, rfl⟩,
    fun hmiss => exec_asks hc hx (hp.trans (TView.gStore_miss hmiss)) hpark rfl rfl (fun _ => rfl) rfl⟩

end

end Sys2Proof.Machine

namespace Sys2Proof.Proofs
open Sys2Proof Sys2Proof.Machine Sys2Proof.Claims

theorem tinkerScratchpad : Claims.TinkerScratchpad := by
  intro s id t hc a b c la imm ty w xa sc ch k does x y ea ei ok load store n na m old
  have hea : eaOf y (treg s id t 2 c) = ea := toNat_eaOf ..
  have hei : eaOf y (imm.signExtend 64) = ei := toNat_eaOf ..
  refine ⟨fun ⟨hr, ha, hread⟩ => exec_spLoad hc (exec_tldSp ..) (congrArg ((tviewOf s id t).spLoad la ty a) hea) hr ha hread,
    fun ⟨hr, ha, hread⟩ => exec_spLoad hc (exec_tldSpImm ..) (congrArg ((tviewOf s id t).spLoad la ty a) hei) hr ha hread,
    fun hr ha => exec_spStore hc (exec_tstSp ..) (congrArg ((tviewOf s id t).spStore w a) hea) hr ha,
    fun hr ha => exec_spStore hc (exec_tstSpImm ..) (congrArg ((tviewOf s id t).spStore w a) hei) hr ha, fun hr => ?nibble, fun ⟨hr, ha, hread⟩ => ?atomic,
    fun ⟨hr, ha, hread⟩ => ?acquire, fun ⟨hr, ha, hread⟩ hmode => ?send⟩
  case nibble =>
    refine exec_does hc (exec_tstSpN4 ..) rfl (TView.spadPark_none hr (Nat.mod_one _)) rfl rfl (fun c => ?_) fun _ => ⟨rfl, rfl⟩
    rw [← nibblePut_eq]
    exact c.tinkWrites_of_ne_nil (List.cons_ne_nil _ _)
  case atomic =>
    exact exec_does hc (exec_tSat ..) rfl (TView.readChecks_none (v := tviewOf s id t) hr ha hread) rfl rfl (fun c => c.tinkWrites_of_ne_nil (putBytes_stw_ne_nil _ _ _)) fun _ => ⟨rfl, rfl⟩
  case acquire =>
    refine exec_does hc (exec_tacq ..) rfl (TView.readChecks_none (v := tviewOf s id t) hr ha hread) rfl rfl (fun c => ?_) fun _ => ⟨rfl, rfl⟩
    have hbne : (fun l : CacheLine => l.dirty != 0) = fun l => decide (l.dirty ≠ 0) := funext fun _ => decide_not.symm
    show ({ c with cache := c.cache.filter fun l => l.dirty != 0 } : Core) = _
    rw [hbne]
  case send =>
    obtain ⟨v, hv, hdoes⟩ := exec_does_then hc (exec_tChsend ..) rfl
      ((congrArg (orPark _) (if_neg (not_not_intro hmode))).trans (TView.readChecks_none (v := tviewOf s id t) hr ha hread)) rfl rfl fun _ => rfl
    exact ⟨_, v, hv, rfl, hdoes⟩

theorem tinkerDeviceMemory : Claims.TinkerDeviceMemory := by
  intro s id t hc a b c la imm ty w xa op k does x y same asks loads stores ea ei wait catom
  have hea : eaOf y (treg s id t 2 c) = ea := toNat_eaOf ..
  have hei : eaOf y (imm.signExtend 64) = ei := toNat_eaOf ..
  have load {i : Instr} {body : TView → TPlan} {va : Nat} (hx : exec i s = tinkOp body s) (hp : body (tviewOf s id t) = (tviewOf s id t).gLoad la ty a va) : loads va (exec i s) :=
    exec_gLoad hc hx hp
  have store {i : Instr} {body : TView → TPlan} {va : Nat} (hx : exec i s = tinkOp body s) (hp : body (tviewOf s id t) = (tviewOf s id t).gStore w a va) : stores va (exec i s) := by
    intro hl ha
    obtain ⟨hhit, hmiss⟩ := exec_gStore hc hx hp hl ha
    refine ⟨fun l hline hwr => ⟨_, l.write va (stwBytes w) x.toNat, hhit l hline hwr, fun _ => rfl, rfl, fun i hi => ⟨?_, l.data_write_inside va _ _ hi⟩,
      fun j hj => ⟨?_, l.data_write_outside va _ _ hj⟩⟩, hmiss⟩
    · rw [CacheLine.testBit_dirty_write, decide_eq_true (by omega), Bool.or_true]
    · rw [CacheLine.testBit_dirty_write, decide_eq_false (by omega), Bool.or_false]
  refine ⟨load (exec_tld ..) (congrArg ((tviewOf s id t).gLoad la ty a) hea), load (exec_tldImm ..) (congrArg ((tviewOf s id t).gLoad la ty a) hei),
    store (exec_tst ..) (congrArg ((tviewOf s id t).gStore w a) hea), store (exec_tstImm ..) (congrArg ((tviewOf s id t).gStore w a) hei), fun h => ?cache, fun hl ha => ?atomic⟩
  case cache =>
    refine exec_does hc (exec_tcache ..) rfl ?_ rfl rfl (fun _ => rfl) fun _ => ⟨rfl, rfl⟩
    show (if op.val < 3 then none else if 2 ^ 48 ≤ x.toNat then some (0x4, 0, x.toNat) else none) = none
    rcases h with h | h
    · rw [if_pos h]
    · rw [if_neg (Nat.not_le.mpr h), ite_self]
  case atomic => exact exec_does hc (exec_tCatom ..) rfl (globalPark_none hl ha) rfl rfl (fun _ => rfl) fun _ => ⟨rfl, rfl⟩

/-- Settles O33: scratchpad accesses by their checks and plans, device accesses by whether their line is there. -/
theorem tinkerMemory : Obligations.TinkerMemory := ⟨tinkerScratchpad, tinkerDeviceMemory⟩

end Sys2Proof.Proofs
end

section
/-! Results and signals of tinkers at the end of a clock cycle, and threads that park (R231, R232, R247, R249). -/
namespace Sys2Proof.Machine

/-! ### Landing (R231, R232) -/

/-- Of several results that land on one entry the last issued stands. -/
theorem sget_landAll (e : Nat) (l : List TFlight) {m : List (Nat × Word)} (h : swf 0 m = true) :
    sget 0 (l.foldl (fun m (f : TFlight) => sput 0 m f.entry f.value) m) e = ((l.filter fun f => f.entry == e).getLast?.map (·.value)).getD (sget 0 m e) := by
  induction l generalizing m with
  | nil => rfl
  | cons f fs ih =>
    rw [List.foldl_cons, ih (swf_sput _ _ _ _ h)]
    by_cases hf : f.entry = e
    · subst hf
      rw [sget_sput_self _ _ _ _ none h, List.filter_cons_of_pos (p := fun g : TFlight => g.entry == f.entry) (beq_self_eq_true _), List.getLast?_cons]
      cases (fs.filter fun g => g.entry == f.entry).getLast? <;> rfl
    · rw [sget_sput_other _ _ _ _ _ none h (Ne.symm hf), List.filter_cons_of_neg (by simpa using hf)]

theorem Core.signal_dead {c : Core} {t : Fin 64} (h : (c.threads[t]).status = .dead) : c.signal t = c := if_pos h
theorem Core.signal_alive {c : Core} {t : Fin 64} (h : (c.threads[t]).status ≠ .dead) :
    c.signal t = { c with threads := c.threads.set t { c.threads[t] with count := min 255 ((c.threads[t]).count + 1) } } := if_neg h

/-- A signal changes threads alone. -/
theorem Core.signal_files (c : Core) (t : Fin 64) : ((c.signal t).trf, (c.signal t).tflights) = (c.trf, c.tflights) := by
  by_cases h : (c.threads[t]).status = .dead
  · rw [Core.signal_dead h]
  · rw [Core.signal_alive h]

/-- A signal to a living thread raises its count to at most 255. -/
theorem Core.signal_count {c : Core} {t : Fin 64} (h : (c.threads[t]).status ≠ .dead) : ((c.signal t).threads[t]).count = min 255 ((c.threads[t]).count + 1) := by
  rw [Core.signal_alive h]
  simp

/-- A core whose results due have landed, and whose operations due are complete, before its signals. -/
def Core.tinkLanded (c : Core) (k : Nat) : Core :=
  { c with
    twrites := []
    tflights := c.tflights.filter (fun f => !(decide (f.due ≤ k)))
    trf := (c.tflights.filter fun f => decide (f.due ≤ k)).foldl (fun m (f : TFlight) => sput 0 m f.entry f.value) c.trf
    threads := c.threads.map fun (h : Thread) => { h with pend := h.pend.filter fun p => match p.due with | some d => decide (k + 1 < d) | none => true } }

theorem State.endTinkers_core {s : State} {id : Nat} (h : (s.core id).twrites = []) :
    (s.endTinkers id).core id = { (s.core id).signals.foldl (fun (k : Core) t => k.signal t) ((s.core id).tinkLanded s.clock) with signals := [] } := by
  rw [State.endTinkers, h]
  simp only [State.doWrites, State.core_updCore_self, State.core_setCore_self]
  rfl

/-! ### Parking (R249) -/

theorem Core.park_alive {c : Core} {t : Fin 64} (h : (c.threads[t]).status ≠ .dead) (code reason addr : Nat) :
    c.park t (c.threads[t]).pc code reason addr = { c with threads := c.threads.set t { c.threads[t] with status := .parked code reason (addr % 2 ^ 48) false, fetched := none } } := by
  rw [Core.park, if_neg h]

theorem State.logBeyond_mem (s : State) (id kind va : Nat) : (s.logBeyond id kind va).mem = s.mem := rfl
theorem State.logBeyond_core (s : State) (id kind va j : Nat) : (s.logBeyond id kind va).core j = s.core j := rfl
theorem State.station_setStation (s : State) (n : Nat) (t : Station) : (s.setStation n t).station n = t := sget_kput_self ..
theorem State.logFault_written (s : State) (n : Nat) (r : TransReq) (reason level who : Nat) :
    ((s.logFault n r reason level who).station n).written = ((s.station n).written + 1) % 2 ^ 32 := by rw [State.logFault, State.station_setStation]
theorem State.logBeyond_written (s : State) (id kind va : Nat) :
    ((s.logBeyond id kind va).station (nodeOf id)).written = ((s.station (nodeOf id)).written + 1) % 2 ^ 32 := s.logFault_written ..

section
variable {s : State} {id : Nat} {t : Fin 64} {i : Instr} {body : TView → TPlan} {p : TPlan} (hc : Claims.Chosen s id t) (hx : exec i s = tinkOp body s)
  (hp : body (tviewOf s id t) = p) (halive : ((s.core id).threads[t]).status ≠ .dead) {addr : Nat}
include hc hx hp halive

/-- An operation whose check fails parks its thread at its word, and changes nothing else. -/
theorem exec_parks {code : Nat} (hpark : p.park = some (code, 0, addr)) (h4 : code ≠ 4) : ∃ u, exec i s = .next u ∧ u.mem = s.mem ∧
    u.core id = { s.core id with threads := (s.core id).threads.set t { (s.core id).threads[t] with status := .parked code 0 (addr % 2 ^ 48) false, fetched := none } } := by
  refine ⟨_, hx.trans (tinkOp_parks hc hp hpark), ?_, ?_⟩
  · rw [if_neg h4, State.updCore_mem]
  · rw [if_neg h4, State.core_updCore_self, Core.park_alive halive]

/-- An address of 2^48 or above parks it with code 4, and the core's station records the fault (R314, R316). -/
theorem exec_parks_beyond (hpark : p.park = some (4, 0, addr)) : ∃ u, exec i s = .next u ∧ u.mem = s.mem ∧
    u.core id = { s.core id with threads := (s.core id).threads.set t { (s.core id).threads[t] with status := .parked 4 0 (addr % 2 ^ 48) false, fetched := none } } ∧
    (u.station (nodeOf id)).written = ((s.station (nodeOf id)).written + 1) % 2 ^ 32 := by
  refine ⟨_, hx.trans (tinkOp_parks hc hp hpark), rfl, ?_, s.logBeyond_written id _ _⟩
  rw [if_pos rfl, State.core_updCore_self, State.logBeyond_core, Core.park_alive halive]

end

theorem TView.spadPark_range {v : TView} {a n : Nat} (align : Nat) (h : v.c.badRange a n = true) : v.spadPark a n align = some (2, 0, a) := by
  rw [TView.spadPark, if_pos h]
theorem TView.spadPark_misaligned {v : TView} {a n align : Nat} (hr : v.c.badRange a n = false) (ha : a % align ≠ 0) : v.spadPark a n align = some (3, 0, a) := by
  rw [TView.spadPark, hr, if_neg Bool.false_ne_true, if_pos ha]

theorem globalPark_beyond {va : Nat} (n : Nat) (h : 2 ^ 48 ≤ va) : globalPark va n = some (4, 0, va) := if_pos h
theorem TView.gLoad_park {v : TView} {la : BitVec 4} {ty : LdTy} {a : TOp} {va : Nat} {x : Nat × Nat × Nat} (h : globalPark va (ldBytes ty) = some x) :
    (v.gLoad la ty a va).park = some x := by
  unfold TView.gLoad
  split <;> simp only [h, orPark]
theorem TView.gStore_park (v : TView) (w : StW) (a : TOp) (va : Nat) : (v.gStore w a va).park = globalPark va (stwBytes w) := by
  unfold TView.gStore
  split <;> rfl

end Sys2Proof.Machine

namespace Sys2Proof.Proofs
open Sys2Proof Sys2Proof.Machine Sys2Proof.Claims

/-- Settles O34: landing by induction over the results due, and each check by the plan that makes it. -/
theorem tinkerLandingAndParking : Obligations.TinkerLandingAndParking := by
  refine ⟨fun s id hwf hw e => ?land, fun s id t hc a b la imm ty w => ?park⟩
  case land =>
    intro c u
    have hu : u = { c.signals.foldl (fun (k : Core) t => k.signal t) (c.tinkLanded s.clock) with signals := [] } := State.endTinkers_core hw
    refine ⟨?trf, ?tflights, by rw [hu], fun t hsig hal => ?count⟩
    case trf =>
      rw [hu, ← List.filter_filter, ← sget_landAll e _ hwf]
      exact congrArg (sget 0 · e) (foldl_keeps _ Core.trf (fun k t => congrArg Prod.fst (k.signal_files t)) _ _)
    case tflights =>
      rw [hu]
      refine (foldl_keeps _ Core.tflights (fun k t => congrArg Prod.snd (k.signal_files t)) _ _).trans (List.filter_congr fun f _ => ?_)
      exact decide_not.symm.trans (decide_eq_decide.mpr Nat.not_le)
    case count =>
      have hlanded : ((c.tinkLanded s.clock).threads[t]).status = (c.threads[t]).status ∧ ((c.tinkLanded s.clock).threads[t]).count = (c.threads[t]).count := by simp [Core.tinkLanded]
      rw [hu, hsig, ← hlanded.2]
      exact Core.signal_count (hlanded.1 ▸ hal)
  case park =>
    intro k h ei parks beyond halive
    have hei : eaOf (treg s id t 1 b) (imm.signExtend 64) = ei := toNat_eaOf ..
    refine ⟨fun hr => exec_parks hc (exec_tldSpImm ..) (congrArg ((tviewOf s id t).spLoad la ty a) hei) halive ?range (by decide),
      fun hr ha => exec_parks hc (exec_tstSpImm ..) (congrArg ((tviewOf s id t).spStore w a) hei) halive (TView.spadPark_misaligned hr ha) (by decide),
      fun hb => ⟨exec_parks_beyond hc (exec_tldImm ..) (congrArg ((tviewOf s id t).gLoad la ty a) hei) halive (TView.gLoad_park (globalPark_beyond _ hb)),
        exec_parks_beyond hc (exec_tstImm ..) (congrArg ((tviewOf s id t).gStore w a) hei) halive ((TView.gStore_park ..).trans (globalPark_beyond _ hb))⟩,
      fun ha => ⟨exec_parks hc (exec_spawn ..) rfl halive (if_pos (.inl ha)) (by decide), exec_parks hc (exec_join ..) rfl halive (if_pos ha) (by decide)⟩⟩
    case range => exact congrArg (orPark · _) (TView.spadPark_range _ hr)

end Sys2Proof.Proofs
end

section
/-! What events of the tinker cache leave: fills, the operations that wait for a line, and write-backs (R241, R242). -/
namespace Sys2Proof.Machine

/-! ### Threads by number -/

theorem Core.thread_val (c : Core) (t : Fin 64) : c.thread t.val = c.threads[t] := by
  simp only [Core.thread, Fin.ofNat_val_eq_self]
theorem Core.updThread_val (c : Core) (t : Fin 64) (f : Thread → Thread) : c.updThread t.val f = { c with threads := c.threads.set t (f c.threads[t]) } := by
  rw [Core.updThread, Core.thread_val]
  simp only [Fin.ofNat_val_eq_self]

/-! ### An operation that completes (R232, R247) -/

@[simp] theorem State.core_forget (s : State) (e : Ev) (j : Nat) : (s.forget e).core j = s.core j := rfl
@[simp] theorem State.core_unpostEv (s : State) (e : Ev) (j : Nat) : (s.unpostEv e).core j = s.core j := rfl

theorem State.tinkDone_mem (s : State) (id t : Nat) (p : TPending) (lands : List (TOp × Word)) : (s.tinkDone id t p lands).mem = s.mem := rfl

/-- The operation leaves its thread, and its results land in the order of issue. -/
theorem State.tinkDone_core (s : State) (id : Nat) (t : Fin 64) (p : TPending) (lands : List (TOp × Word)) :
    let c := s.core id
    (s.tinkDone id t.val p lands).core id = { c with
      threads := c.threads.set t { c.threads[t] with pend := (c.threads[t]).pend.filter fun q => q.seq != p.seq }
      tflights := (lands.map fun l => (⟨p.base + l.1.toNat, l.2, s.clock, t.val, p.order⟩ : TFlight)).foldl insertResult c.tflights } := by
  rw [State.tinkDone, State.core_unpost, State.core_updCore_self, Core.updThread_val]

theorem State.core_of_cores {s u : State} (h : u.cores = s.cores) (j : Nat) : u.core j = s.core j := by rw [State.core, h, State.core]

/-! ### Fills (R241) -/

theorem Memory.devRead_plain (m : Memory) {l : TLeaf} (pa n : Nat) (check : Bool) (h : l.state = 0) :
    m.devRead l pa n check = ⟨m.bytes pa n, (m.devError pa n check).1, (m.devError pa n check).2⟩ := by
  have hf : isFormat l.state = false := by rw [h]; rfl
  simp only [Memory.devRead, hf, Bool.false_eq_true, if_false]

theorem Memory.byte_scrubRead (m : Memory) (l : TLeaf) (pa n z : Nat) : (m.scrubRead l pa n).byte z = m.byte z := rfl

/-- A core's cache keeps a line that device memory was read for. -/
def State.keepLine (s : State) (id : Nat) (l : CacheLine) (x : TLeaf) (pa : Nat) : State :=
  ({ s with mem := s.mem.scrubRead x pa 64 } : State).updCore id fun c => { c with cache := c.cache ++ [l] }
theorem State.core_keepLine (s : State) (id : Nat) (l : CacheLine) (x : TLeaf) (pa : Nat) :
    (s.keepLine id l x pa).core id = { s.core id with cache := (s.core id).cache ++ [l] } := State.core_updCore_self ..
theorem State.byte_keepLine (s : State) (id : Nat) (l : CacheLine) (x : TLeaf) (pa z : Nat) : (s.keepLine id l x pa).mem.byte z = s.mem.byte z := rfl
theorem State.waitingFor_keepLine (s : State) (id : Nat) (l : CacheLine) (x : TLeaf) (pa line : Nat) :
    ((s.keepLine id l x pa).core id).waitingFor line = (s.core id).waitingFor line := by
  rw [State.core_keepLine]
  rfl

/-- The fill of a line that is not there, that is granted and has room in its set, keeps the line and serves it. -/
theorem State.fillLine_granted {s s' : State} {id line va pa : Nat} {l : TLeaf} {ev : Ev} (hline : (s.core id).line line = none)
    (hva : (s.core id).fillAddr line = va) (hkind : (s.core id).fillKind line = 0) (hg : Claims.LineGranted s s' (s.coreReq id ev) va 0 pa l) (hstate : l.state = 0)
    (herr : s'.mem.devError pa 64 false = (0, 0)) (hroom : ((s.core id).cache.filter fun x => cacheSet x.line == cacheSet line).length < 8) :
    let x : CacheLine := ⟨line, natOf (s'.mem.bytes pa 64), 0, s'.mem.cvOf pa, l.permits (s.coreReq id ev).tenant 0, l.permits (s.coreReq id ev).tenant 1⟩
    s.fillLine id line ev = (s'.keepLine id x l pa).serveLine id x ev := by
  obtain ⟨htrans, hreach, hcores⟩ := hg
  have hf : isFormat 0 = false := rfl
  rw [← State.core_of_cores hcores id] at hroom
  have hinstall (x : CacheLine) (hx : x.line = line) : ({ s' with mem := s'.mem.scrubRead l pa 64 } : State).installLine id x ev = (s'.keepLine id x l pa).serveLine id x ev :=
    if_pos (hx ▸ hroom)
  simp [State.fillLine, hline, hva, hkind, htrans, hreach, andThen, Memory.devRead_plain _ _ _ _ hstate, herr, hstate, hf, hinstall]

theorem State.serveLine_idle {s : State} {id : Nat} {l : CacheLine} (ev : Ev) (h : (s.core id).waitingFor l.line = []) :
    s.serveLine id l ev = (s.unpostEv ev).forget ev := by
  simp [State.serveLine, h]

/-- A load that waits for a line that permits reads completes with it. -/
theorem State.serveLine_load {s : State} {id t va : Nat} {l : CacheLine} {p : TPending} {ty : LdTy} {a : TOp} (ev : Ev) (h : (s.core id).waitingFor l.line = [(t, p)])
    (hk : p.kind = some (.load ty a va)) (hrd : l.rd = true) (hcv : l.cv = 0) :
    (s.serveLine id l ev).stage = (((s.unpostEv ev).forget ev).tinkDone id t p [(a, extendLd ty (l.read va (ldBytes ty)))]).stage := by
  have hw : waitsAs 1 (t, p) = false := by simp [waitsAs, hk]
  have hcame : ((s.unpostEv ev).forget ev).lineCame id l (t, p) = ((s.unpostEv ev).forget ev).tinkDone id t p [(a, extendLd ty (l.read va (ldBytes ty)))] := by
    simp [State.lineCame, hk, hcv]
  simp only [State.serveLine, h, List.filter_cons, hw, hrd, Bool.false_eq_true, if_false, if_true, List.filter_nil, List.foldl_cons, List.foldl_nil, hcame]
  split
  · rfl
  · exact State.stage_postEv ..

/-! ### Who asks for a line -/

theorem Core.fill_idle {c : Core} {line : Nat} (h : c.waitingFor line = []) : c.fillAddr line = line ∧ c.fillKind line = 0 := by
  simp [Core.fillAddr, Core.fillKind, h]
theorem Core.fill_load {c : Core} {line t va n : Nat} {p : TPending} {ty : LdTy} {a : TOp} {far : Bool} (h : c.waitingFor line = [(t, p)]) (hk : p.kind = some (.load ty a va))
    (hm : p.mem = some (far, va, n)) : c.fillAddr line = va ∧ c.fillKind line = 0 := by
  have hw : waitsAs 0 (t, p) = true := by simp [waitsAs, hk]
  simp [Core.fillAddr, Core.fillKind, h, hw, opAddr, hm]

/-! ### Write-backs (R241) -/

/-- A granted write-back of a dirty line writes its dirty bytes and leaves it clean. -/
theorem State.writeback_granted {s s' : State} {id line pa : Nat} {l : TLeaf} {e : CacheLine} {ev : Ev} (hline : (s.core id).line line = some e) (hd : e.dirty ≠ 0)
    (hg : Claims.Granted s s' (s.coreReq id ev) line 1 64 pa l) :
    (s.writeback id line ev).mem = s'.mem.putDev (e.puts pa) ∧ ∃ c : Core, (s.writeback id line ev).core id = c.setLine { e with dirty := 0 } := by
  obtain ⟨htrans, hreach⟩ := hg
  have hwb : s.writeback id line ev =
      (((({ s' with mem := s'.mem.putDev (e.puts pa) } : State).noteWrite pa 64).updCore id fun c => c.setLine { e with dirty := 0 }).forget ev).unpostEv ev := by
    simp [State.writeback, hline, hd, htrans, hreach, andThen]
  rw [hwb, State.core_unpostEv, State.core_forget, State.core_updCore_self]
  exact ⟨State.noteWrite_mem .., _, rfl⟩

theorem Core.setLine_only {c : Core} {e x : CacheLine} (h : x ∈ (c.setLine e).cache) (hl : x.line = e.line) : x = e := by
  obtain ⟨y, -, rfl⟩ := List.mem_map.mp h
  split at hl
  next hy => rw [if_pos hy]
  next hy => exact absurd hl hy

theorem Memory.setAll_append (m : Memory) (xs ys : List PutByte) : m.setAll (xs ++ ys) = (m.setAll xs).setAll ys := by
  induction xs generalizing m with
  | nil => rfl
  | cons x xs ih => exact ih _

/-- Bytes that some offsets from an address name, each once. -/
def putsAt (pa n : Nat) (p : Nat → Bool) (f k : Nat → Byte) : List PutByte := ((List.range n).filter p).map fun i => (pa + i, f i, k i)

theorem Memory.byte_setAll_putsAt (m : Memory) (pa n : Nat) (p : Nat → Bool) (f k : Nat → Byte) (h : m.wf = true) (j : Nat) :
    (m.setAll (putsAt pa n p f k)).byte (pa + j) = if j < n ∧ p j = true then (m.byte (pa + j) &&& ~~~k j) ||| (f j &&& k j) else m.byte (pa + j) := by
  induction n with
  | zero => rfl
  | succ n ih =>
    have hother : ∀ q ∈ putsAt pa n p f k, q.1 ≠ pa + n := fun q hq => by
      obtain ⟨i, hi, rfl⟩ := List.mem_map.mp hq
      have := List.mem_range.mp (List.mem_of_mem_filter hi)
      show pa + i ≠ pa + n
      omega
    rw [putsAt, List.range_succ, List.filter_append, List.map_append, Memory.setAll_append, ← putsAt]
    have hwf := Memory.wf_setAll (putsAt pa n p f k) m h
    cases hp : p n with
    | false =>
      rw [List.filter_singleton, hp, cond_false, List.map_nil, Memory.setAll, ih]
      refine if_congr ⟨fun ⟨hj, hpj⟩ => ⟨by omega, hpj⟩, fun ⟨hj, hpj⟩ => ⟨?_, hpj⟩⟩ rfl rfl
      have : j ≠ n := fun hjn => by simp [hjn, hp] at hpj
      omega
    | true =>
      rw [List.filter_singleton, hp, cond_true, List.map_cons, List.map_nil, Memory.setAll, Memory.setAll]
      by_cases hj : j = n
      · subst hj
        rw [Memory.byte_setBits_self _ _ _ _ hwf, Memory.byte_setAll_other _ _ _ h hother, if_pos ⟨by omega, hp⟩]
      · rw [Memory.byte_setBits_other _ _ _ _ _ hwf (by omega), ih]
        exact if_congr ⟨fun ⟨hj, hpj⟩ => ⟨by omega, hpj⟩, fun ⟨hj', hpj⟩ => ⟨by omega, hpj⟩⟩ rfl rfl

theorem CacheLine.map_shutByte_puts (e : CacheLine) (pa : Nat) : (e.puts pa).map shutByte =
    putsAt pa 64 (fun i => bits e.dirty i i == 1) (fun i => BitVec.ofNat 8 (e.data / 2 ^ (8 * i))) fun i => if roByte (pa + i) then 0 else 0xFF := by
  rw [CacheLine.puts, putsAt, List.map_map]
  refine List.map_congr_left fun i _ => ?_
  simp only [Function.comp_apply, shutByte]
  split <;> rfl

/-- Only the dirty bytes that are not read-only change. -/
theorem Memory.byte_putDev_puts (m : Memory) (e : CacheLine) (pa : Nat) (h : m.wf = true) {i : Nat} (hi : i < 64) : (m.putDev (e.puts pa)).byte (pa + i) =
    if e.dirty.testBit i = true ∧ roByte (pa + i) = false then BitVec.ofNat 8 (e.data / 2 ^ (8 * i)) else m.byte (pa + i) := by
  have hbit : (bits e.dirty i i == 1) = e.dirty.testBit i := by
    rw [bits, Nat.add_sub_cancel_left, Nat.pow_one, Nat.testBit_eq_decide_div_mod_eq]
    rfl
  have hff (x : Byte) : x &&& 255#8 = x := BitVec.and_allOnes
  show (m.setAll ((e.puts pa).map shutByte)).byte (pa + i) = _
  rw [CacheLine.map_shutByte_puts, Memory.byte_setAll_putsAt _ _ _ _ _ _ h, hbit]
  cases hd : e.dirty.testBit i <;> cases hro : roByte (pa + i) <;> simp [hi, hff]

end Sys2Proof.Machine

namespace Sys2Proof.Proofs
open Sys2Proof Sys2Proof.Machine Sys2Proof.Claims

theorem exec_tinkerCacheFill_at {s : State} {id line : Nat} (hat : At s (.line id line)) :
    exec .tinkerCacheFill s = .next (s.fillLine id line (.tinkerCacheFill, .line id line)) := by rw [exec_tinkerCacheFill, execTinkerCacheFill, hat]
theorem exec_tinkerWriteback_at {s : State} {id line : Nat} (hat : At s (.line id line)) :
    exec .tinkerWriteback s = .next (s.writeback id line (.tinkerWriteback, .line id line)) := by rw [exec_tinkerWriteback, execTinkerWriteback, hat]

theorem tinkerCacheEvents : Claims.TinkerCacheEvents := by
  refine ⟨?fill, ?writeback⟩
  case fill =>
    intro s s' id line pa l hat hline halign c r hroom hstate herr data line'
    have hcore (hcores : s'.cores = s.cores) : (s'.keepLine id line' l pa).core id = { c with cache := c.cache ++ [line'] } :=
      (s'.core_keepLine ..).trans (by rw [State.core_of_cores hcores id])
    have hwaiting (hcores : s'.cores = s.cores) : ((s'.keepLine id line' l pa).core id).waitingFor line = c.waitingFor line :=
      (s'.waitingFor_keepLine ..).trans (by rw [State.core_of_cores hcores id])
    refine ⟨fun hg hidle => ⟨_, exec_tinkerCacheFill_at hat, ?idle⟩, fun t p ty a va hwait hk hmem hva hg hrd hcv => ⟨_, exec_tinkerCacheFill_at hat, ?load⟩⟩
    case idle =>
      obtain ⟨hva, hkind⟩ := Core.fill_idle hidle
      rw [State.fillLine_granted hline hva hkind hg hstate herr hroom, State.serveLine_idle _ ((hwaiting hg.2.2).trans hidle), State.core_forget, State.core_unpostEv, hcore hg.2.2]
      exact ⟨rfl, fun z => rfl, rfl⟩
    case load =>
      obtain ⟨hva', hkind⟩ := Core.fill_load hwait hk hmem
      have hstage := State.serveLine_load (s := s'.keepLine id line' l pa) (l := line') (.tinkerCacheFill, .line id line) ((hwaiting hg.2.2).trans hwait) hk hrd hcv
      rw [State.fillLine_granted hline hva' hkind hg hstate herr hroom, State.core_of_stage hstage, State.mem_of_stage hstage, State.tinkDone_core, State.core_forget, State.core_unpostEv, hcore hg.2.2]
      exact ⟨rfl, fun z => rfl, rfl, by simp⟩
  case writeback =>
    intro s s' id line pa l e hat hline hd he halign hg hwf
    refine ⟨_, exec_tinkerWriteback_at hat, ?_⟩
    obtain ⟨hmem, c, hcore⟩ := State.writeback_granted (ev := (.tinkerWriteback, .line id line)) hline hd hg
    rw [hmem, hcore]
    refine ⟨fun i hi => Memory.byte_putDev_puts _ e pa hwf hi, fun z hz => Memory.byte_putDev_other _ _ z hwf fun q hq => ?others, fun x hx hl => ?clean⟩
    case others =>
      obtain ⟨i, hi, rfl⟩ := List.mem_map.mp hq
      have hi64 : i < 64 := List.mem_range.mp (List.mem_of_mem_filter hi)
      show pa + i ≠ z
      omega
    case clean => rw [Core.setLine_only hx (hl.trans he.symm)]

end Sys2Proof.Proofs
end

section
/-! Fetches of tinker code: the instruction cache, and what a thread does with its word (R235). -/
namespace Sys2Proof.Machine

section
variable {s : State} {id : Nat} {r : Req} {pc : Nat}

/-- A line of the instruction cache answers a fetch whatever memory holds (log 35). -/
theorem State.codeFetch_cached {x : Nat × Nat} (h : (s.core id).icache.find? (fun l => l.1 == pc / 64 * 64) = some x) :
    s.codeFetch id r pc = (s, .ok (BitVec.ofNat 32 (x.2 / 2 ^ (8 * (pc % 64))))) := by simp [State.codeFetch, h]

/-- A granted fetch reads its line and keeps it. -/
theorem State.codeFetch_granted {s' : State} {pa : Nat} {l : TLeaf} (h : (s.core id).icache.find? (fun l => l.1 == pc / 64 * 64) = none)
    (hg : Claims.LineGranted s s' r pc 2 pa l) (hstate : l.state = 0) (herr : s'.mem.devError pa 64 true = (0, 0)) :
    let data := natOf (s'.mem.bytes pa 64)
    s.codeFetch id r pc = (({ s' with mem := s'.mem.scrubRead l pa 64 } : State).updCore id fun c => c.keepCode (pc / 64 * 64) data s'.tick,
      .ok (BitVec.ofNat 32 (data / 2 ^ (8 * (pc % 64))))) := by
  obtain ⟨htrans, hreach, -⟩ := hg
  simp [State.codeFetch, h, htrans, hreach, andThen, Memory.devRead_plain _ _ _ _ hstate, herr]

end

theorem Core.keepCode_threads (c : Core) (line data tick : Nat) : (c.keepCode line data tick).threads = c.threads := rfl
theorem Core.keepCode_mem (c : Core) (line data tick : Nat) : (line, data) ∈ (c.keepCode line data tick).icache := List.mem_append_right _ (List.mem_singleton_self _)

theorem decodePark_ok {w e : BitVec 32} {size : Nat} {i : Instr} (h : decodeTinker w e = .ok i) (hwin : outsideWindow w.toNat e.toNat size = false) :
    decodePark w e size = none := by rw [decodePark, h]; exact if_neg (Bool.eq_false_iff.mp hwin)
theorem decodePark_error {w e : BitVec 32} {size : Nat} {x : Nat × Nat} (h : decodeTinker w e = .error x) : decodePark w e size = some x.1 := by rw [decodePark, h]

section
variable {s s1 : State} {id : Nat} {t : Fin 64} {ev : Ev} {w : BitVec 32} (hready : ((s.core id).threads[t]).status = .ready)
  (hfetched : ((s.core id).threads[t]).fetched = none) (hleaving : ((s.core id).threads[t]).leaving = false)
  (hword : s.codeFetch id (s.coreReq id ev) ((s.core id).threads[t]).pc = (s1, .ok w)) (hext : tinkerHasExt w = false)
include hready hfetched hleaving hword hext

/-- A word that decodes within its window is the thread's next operation. -/
theorem State.fetchWord_next (hd : decodePark w 0#32 ((s.core id).threads[t]).size = none) :
    s.fetchWord id t.val ev = ((s1.updCore id fun c => c.updThread t.val fun h => { h with fetched := some (w, 0) }).forget ev).unpostEv ev := by
  simp [State.fetchWord, Core.thread_val, hready, hfetched, hleaving, hword, hext, andThen, hd, -Fin.getElem_fin]

/-- One that does not parks it with code 1. -/
theorem State.fetchWord_parks {reason : Nat} (hd : decodePark w 0#32 ((s.core id).threads[t]).size = some reason) :
    s.fetchWord id t.val ev = ((s1.updCore id fun c => c.park t ((s.core id).threads[t]).pc 0x1 reason ((s.core id).threads[t]).pc).forget ev).unpostEv ev := by
  simp [State.fetchWord, Core.thread_val, hready, hfetched, hleaving, hword, hext, andThen, hd, -Fin.getElem_fin]

end

end Sys2Proof.Machine

namespace Sys2Proof.Proofs
open Sys2Proof Sys2Proof.Machine Sys2Proof.Claims

theorem exec_tinkerInstructionFetch_at {s : State} {id t : Nat} (hat : At s (.thread id t)) :
    exec .tinkerInstructionFetch s = .next (s.fetchWord id t (.tinkerInstructionFetch, .thread id t)) := by
  rw [exec_tinkerInstructionFetch, execTinkerInstructionFetch, hat]

/-- What a thread does with its word, from the state the fetch of the word leaves. -/
theorem tinkerWordTaken {s s1 : State} {id : Nat} {t : Fin 64} {w : BitVec 32} {P : State → Prop} (hat : At s (.thread id t.val))
    (hready : ((s.core id).threads[t]).status = .ready) (hfetched : ((s.core id).threads[t]).fetched = none) (hleaving : ((s.core id).threads[t]).leaving = false)
    (hword : s.codeFetch id (s.coreReq id (.tinkerInstructionFetch, .thread id t.val)) ((s.core id).threads[t]).pc = (s1, .ok w)) (hext : tinkerHasExt w = false)
    (hsame : (s1.core id).threads = (s.core id).threads) (hP : ∀ u, u.mem = s1.mem → (u.core id).icache = (s1.core id).icache → P u) :
    (∀ i, decodeTinker w 0 = .ok i → outsideWindow w.toNat 0 ((s.core id).threads[t]).size = false → leadsTo .tinkerInstructionFetch s fun u =>
      (u.core id).threads[t] = { (s.core id).threads[t] with fetched := some (w, 0) } ∧ P u) ∧
    (∀ x, decodeTinker w 0 = .error x → leadsTo .tinkerInstructionFetch s fun u =>
      (u.core id).threads[t] = { (s.core id).threads[t] with status := .parked 1 x.1 (((s.core id).threads[t]).pc % 2 ^ 48) false, fetched := none } ∧ P u) := by
  have hthread : (s1.core id).threads[t] = (s.core id).threads[t] := congrArg (fun v : Vector Thread 64 => v[t]) hsame
  have halive : ((s1.core id).threads[t]).status ≠ .dead := by rw [hthread, hready]; exact nofun
  refine ⟨fun i hi hwin => ⟨_, exec_tinkerInstructionFetch_at hat, ?next⟩, fun x hx => ⟨_, exec_tinkerInstructionFetch_at hat, ?parks⟩⟩
  case next =>
    rw [State.fetchWord_next hready hfetched hleaving hword hext (decodePark_ok hi hwin)]
    refine ⟨?_, hP _ rfl ?_⟩ <;> rw [State.core_unpostEv, State.core_forget, State.core_updCore_self, Core.updThread_val]
    simp [hthread]
  case parks =>
    rw [State.fetchWord_parks hready hfetched hleaving hword hext (decodePark_error hx), ← hthread]
    refine ⟨?_, hP _ rfl ?_⟩ <;> rw [State.core_unpostEv, State.core_forget, State.core_updCore_self, Core.park_alive halive]
    simp

theorem tinkerFetches : Claims.TinkerFetches := by
  intro s id t hat c h line cut takes hready hfetched hleaving
  refine ⟨fun x hx hext => ?cached, ?granted⟩
  case cached => exact tinkerWordTaken hat hready hfetched hleaving (State.codeFetch_cached hx) hext rfl fun u hmem hic => ⟨hmem, hic⟩
  case granted =>
    intro s' pa l hnone hg hstate herr data hext
    refine tinkerWordTaken hat hready hfetched hleaving (State.codeFetch_granted hnone hg hstate herr) hext ?_ fun u hmem hic => ⟨fun z => by rw [hmem]; rfl, ?_⟩
    · rw [State.core_updCore_self]
      exact (Core.keepCode_threads ..).trans (congrArg Core.threads (State.core_of_cores hg.2.2 id))
    · rw [hic, State.core_updCore_self]
      exact Core.keepCode_mem ..

end Sys2Proof.Proofs
end

section
/-! What completes a waiting operation of a thread (R243, R247, R250, R255), and the end of a walk (R312 to R316). -/
namespace Sys2Proof.Machine

/-! ### Operations that wait (R243, R247, R255) -/

theorem Thread.earlierDone_of_first {h : Thread} {p : TPending} (hfirst : h.pend.any (fun q => decide (q.seq < p.seq) && q.orphan == p.orphan) = false) :
    h.earlierDone p = true := by rw [Thread.earlierDone, hfirst]; rfl

/-- A step that ends an operation: it leaves its thread, whose exit follows where it is a TEXIT. -/
theorem State.threadStep_done {s s1 : State} {id : Nat} {t : Fin 64} {p : TPending} {k : TWaitKind} {lands : List (TOp × Word)} {ev : Ev}
    (hop : ((s.core id).threads[t]).op p.seq = some p) (hk : p.kind = some k) (hx : s.threadKind id t.val p k ev = (s1, .ok (.done lands))) :
    s.threadStep id t.val p.seq ev = ((s1.forget ev).tinkDone id t.val p lands).exitThread id t.val p := by
  rw [← Core.thread_val] at hop
  simp only [State.threadStep, hop, hk, hx]

section
variable {s : State} {id : Nat} {t : Fin 64} {p : TPending} {ev : Ev}

theorem State.threadKind_fence (h : ((s.core id).threads[t]).earlierDone p = true) : s.threadKind id t.val p .fence ev = (s, .ok (.done [])) := by
  rw [← Core.thread_val] at h
  exact if_pos h
theorem State.threadKind_release {exit told : Bool} {sc : Scope} (h : ((s.core id).threads[t]).earlierDone p = true) :
    s.threadKind id t.val p (.release exit none sc told) ev = (s, .ok (.done [])) := by
  rw [← Core.thread_val] at h
  exact if_pos h

variable {a : TOp} {lv : Nat} {l : Launch} {s1 : State} (hl : s.launchOf id = some l)
include hl

theorem State.threadKind_steal_none (h : s.stealFrom l id (min lv l.stealDom) = (s1, none)) :
    s.threadKind id t.val p (.steal a lv) ev = (s1, .ok (.done [(a, 0)])) := by
  show s.stepSteal id a lv = _
  simp only [State.stepSteal, hl, h]
theorem State.threadKind_steal_found {f : Nat} (h : s.stealFrom l id (min lv l.stealDom) = (s1, some f)) :
    s.threadKind id t.val p (.steal a lv) ev = (s1.updCore id fun c => c.dropLine (f / 64 * 64), .ok (.done [(a, BitVec.ofNat 64 f)])) := by
  show s.stepSteal id a lv = _
  simp only [State.stepSteal, hl, h]

end

/-- Only a TEXIT ends its thread. -/
theorem State.exitThread_fence (s : State) (id t : Nat) {p : TPending} (h : p.kind = some .fence) : s.exitThread id t p = s := by simp only [State.exitThread, h]
theorem State.exitThread_steal (s : State) (id t : Nat) {p : TPending} {a : TOp} {lv : Nat} (h : p.kind = some (.steal a lv)) : s.exitThread id t p = s := by
  simp only [State.exitThread, h]

/-- What a TEXIT leaves a thread: it is dead, but parked where it was parked. -/
def Thread.exited (h : Thread) : Thread := { h with status := (match h.status with | .parked c r a b => .parked c r a b | _ => .dead), fetched := none }
theorem Thread.exited_ready {h : Thread} (hs : h.status = .ready) : h.exited.status = .dead := by simp only [Thread.exited, hs]
theorem Thread.exited_parked {h : Thread} {code reason addr : Nat} {told : Bool} (hs : h.status = .parked code reason addr told) : h.exited.status = h.status := by
  simp only [Thread.exited, hs]

theorem State.exitThread_exit (s : State) (id : Nat) (t : Fin 64) {p : TPending} {f : Option Nat} {sc : Scope} {told : Bool} (h : p.kind = some (.release true f sc told)) :
    s.exitThread id t.val p = s.updCore id fun c => { c with threads := c.threads.set t (c.threads[t]).exited } := by
  simp only [State.exitThread, h, Core.updThread_val]
  rfl
/-- A TEXIT that completes. -/
theorem State.thread_exited (s : State) (id : Nat) (t : Fin 64) {p : TPending} {f : Option Nat} {sc : Scope} {told : Bool} (h : p.kind = some (.release true f sc told)) :
    let k := (s.core id).threads[t]
    (((s.tinkDone id t.val p []).exitThread id t.val p).core id).threads[t] = ({ k with pend := k.pend.filter fun q => q.seq != p.seq } : Thread).exited := by
  rw [State.exitThread_exit _ _ _ h, State.core_updCore_self, State.tinkDone_core]
  simp
theorem State.exitThread_mem (s : State) (id t : Nat) (p : TPending) : (s.exitThread id t p).mem = s.mem := by
  unfold State.exitThread
  split <;> rfl

theorem Core.line_dropLine (c : Core) (f : Nat) : (c.dropLine (f / 64 * 64)).line f = none := by
  rw [Core.line, Core.dropLine, List.find?_eq_none]
  intro x hx
  have := (List.mem_filter.mp hx).2
  simp at this ⊢
  exact this

/-! ### Walks (R312 to R316) -/

/-- A leaf maps at least 64 KiB. -/
theorem levelSize_ge (level : Nat) : 16 ≤ levelSize level := by
  unfold levelSize
  split
  · decide
  · split <;> decide

theorem State.walkFrom_leaf {s : State} {va n e a : Nat} {l : TLeaf} (h : s.walkFrom va n e = .leaf l a) : 16 ≤ l.size := by
  induction n generalizing e with
  | zero =>
    rw [State.walkFrom] at h
    split_ifs at h
    cases h
    exact levelSize_ge 0
  | succ n ih =>
    rw [State.walkFrom] at h
    split_ifs at h
    · cases h
      exact levelSize_ge (n + 1)
    · exact ih h

theorem State.walkTables_leaf {s : State} {space va a : Nat} {l : TLeaf} (h : s.walkTables space va = .leaf l a) : 16 ≤ l.size := by
  rw [State.walkTables] at h
  split_ifs at h
  exact State.walkFrom_leaf h

/-- The page of a leaf covers the address whose 64 KiB were asked for. -/
theorem State.samePage_leaf {s : State} {space page va a : Nat} {l : TLeaf} (h : s.walkTables space (page * 2 ^ 16) = .leaf l a) :
    s.samePage space page va = (page * 2 ^ 16 / 2 ^ l.size == va / 2 ^ l.size) := by
  have hsize := State.walkTables_leaf h
  have hpage : page = va / 2 ^ 16 → page * 2 ^ 16 / 2 ^ l.size = va / 2 ^ l.size := fun hp => by
    obtain ⟨k, hk⟩ := Nat.exists_eq_add_of_le hsize
    rw [hk, Nat.pow_add, ← Nat.div_div_eq_div_mul, ← Nat.div_div_eq_div_mul, Nat.mul_div_cancel _ (Nat.two_pow_pos 16), hp]
  simp only [State.samePage, h]
  cases hq : page == va / 2 ^ 16 with
  | false => rfl
  | true => exact (beq_iff_eq.mpr (hpage (beq_iff_eq.mp hq))).symm
theorem State.samePage_fault {s : State} {space page va reason level : Nat} (h : s.walkTables space (page * 2 ^ 16) = .fault reason level) :
    s.samePage space page va = (page == va / 2 ^ 16) := by
  simp only [State.samePage, h, Bool.or_false]

/-- The requests of a walk whose page it is. -/
def State.walkShare (s : State) (q : TransReq) (w : Walk) : List WalkWait := w.waiting.filter fun x => s.samePage q.space (q.va / 2 ^ 16) x.req.va

theorem State.walkShare_single {s : State} {q : TransReq} {w : Walk} {x : WalkWait} (h : w.waiting = [x]) (hx : x.req.va / 2 ^ 16 = q.va / 2 ^ 16) : s.walkShare q w = [x] := by
  have hsame : s.samePage q.space (q.va / 2 ^ 16) x.req.va = true := by rw [State.samePage, hx, beq_self_eq_true, Bool.true_or]
  rw [State.walkShare, h, List.filter_singleton, hsame, cond_true]

/-- The walk of a page of a station. -/
def walksPage (n : Nat) (q : TransReq) (w : Walk) : Bool := w.station == n && w.space == q.space && w.page == q.va / 2 ^ 16

/-- A walk ends: its requests run again, and those whose page it is are answered. -/
def State.walkEnds (s : State) (n : Nat) (q : TransReq) (w : Walk) (share : List WalkWait) (res : TRes) : State :=
  ({ s with walks := s.walks.filter fun x => !walksPage n q x
            answers := s.answers ++ share.map fun x => { ev := x.ev, space := q.space, page := x.req.va / 2 ^ 16, res }
            agenda := w.waiting.map (fun x => Item.event x.ev.1 x.ev.2) ++ s.agenda } : State).unpost .translationWalk (.walk n q)

/-- The state with a walk's failure logged for each of some requests. -/
def State.logFaults (s : State) (n reason level : Nat) (l : List WalkWait) : State :=
  l.foldl (fun (s : State) (x : WalkWait) => s.logFault n x.req reason level x.who) s
theorem State.logFaults_mem (s : State) (n reason level : Nat) (l : List WalkWait) : (s.logFaults n reason level l).mem = s.mem :=
  foldl_keeps (fun (s : State) (x : WalkWait) => s.logFault n x.req reason level x.who) State.mem (fun _ _ => rfl) l s
theorem State.logFaults_keeps (s : State) (n reason level : Nat) (l : List WalkWait) :
    ((s.logFaults n reason level l).cores, (s.logFaults n reason level l).agenda, (s.logFaults n reason level l).answers, (s.logFaults n reason level l).walks) =
      (s.cores, s.agenda, s.answers, s.walks) :=
  foldl_keeps (fun (s : State) (x : WalkWait) => s.logFault n x.req reason level x.who) (fun u => (u.cores, u.agenda, u.answers, u.walks)) (fun _ _ => rfl) l s

section
variable {s : State} {n : Nat} {q : TransReq} {w : Walk} (hwalks : s.walks = [w]) (hw : walksPage n q w = true)
include hwalks hw

theorem State.find_walksPage : s.walks.find? (walksPage n q) = some w := by rw [hwalks, List.find?_cons, hw]
theorem State.filter_walksPage : (s.walks.filter fun x => !walksPage n q x) = [] := by simp [hwalks, hw]
/-- The only walk of its station is among the first 64. -/
theorem State.any_walksPage : ((s.walks.filter fun x => x.station == n).take 64).any (walksPage n q) = true := by
  have hst : (w.station == n) = true := (Bool.and_eq_true _ _ ▸ (Bool.and_eq_true _ _ ▸ hw).1).1
  simp [hwalks, hst, hw]

/-- A leaf is kept in the station. -/
theorem State.walkDone_leaf {l : TLeaf} {a : Nat} (h : s.walkTables q.space (q.va / 2 ^ 16 * 2 ^ 16) = .leaf l a) :
    s.walkDone n q = ((s.scrubWalk q.space (q.va / 2 ^ 16 * 2 ^ 16)).setStation n
      ((s.station n).keep ⟨q.space, q.va / 2 ^ 16 * 2 ^ 16, l, a⟩ s.tick)).walkEnds n q w (s.walkShare q w) (.leaf l a) := by
  have hfind := State.find_walksPage hwalks hw
  have hany := State.any_walksPage hwalks hw
  unfold walksPage at hfind hany
  simp only [State.walkDone, hfind, hany, State.walkShare, State.samePage_leaf h, h, Bool.not_true, Bool.false_eq_true, if_false]
  rfl

/-- A failure is logged for each request whose page it is. -/
theorem State.walkDone_fault {reason level : Nat} (h : s.walkTables q.space (q.va / 2 ^ 16 * 2 ^ 16) = .fault reason level) :
    s.walkDone n q = ((s.scrubWalk q.space (q.va / 2 ^ 16 * 2 ^ 16)).logFaults n reason level (s.walkShare q w)).walkEnds n q w (s.walkShare q w) (.fault reason level) := by
  have hfind := State.find_walksPage hwalks hw
  have hany := State.any_walksPage hwalks hw
  unfold walksPage at hfind hany
  simp only [State.walkDone, hfind, hany, State.walkShare, State.samePage_fault h, h, Bool.not_true, Bool.false_eq_true, if_false]
  rfl

end

theorem State.byte_scrubWalk (s : State) (space va z : Nat) : (s.scrubWalk space va).mem.byte z = s.mem.byte z :=
  foldl_keeps (fun (m : Memory) k => m.scrub k 16) (fun m => Memory.byte m z) (fun _ _ => rfl) _ _

theorem Station.keep_new {t : Station} {e : TEntry} (tick : Nat) (h : t.find e.space e.va = none) : e ∈ (t.keep e tick).entries := by
  rw [Station.keep, h]
  exact List.mem_append_right _ (List.mem_singleton_self _)
theorem Station.keep_cached {t : Station} {e : TEntry} (tick : Nat) (h : t.find e.space e.va ≠ none) : t.keep e tick = t := if_pos (Option.isSome_iff_ne_none.mpr h)

end Sys2Proof.Machine

namespace Sys2Proof.Proofs
open Sys2Proof Sys2Proof.Machine Sys2Proof.Claims

theorem exec_porterRequest_thread {s : State} {id t seq : Nat} (hat : At s (.asker (.thread id t seq))) :
    exec .porterRequest s = .next (s.threadStep id t seq (.porterRequest, .asker (.thread id t seq))) := by rw [exec_porterRequest, execPorterRequest, hat]
theorem exec_translationWalk_at {s : State} {n : Nat} {q : TransReq} (hat : At s (.walk n q)) (hn : n < 128) : exec .translationWalk s = .next (s.walkDone n q) := by
  rw [exec_translationWalk, execTranslationWalk, hat]
  exact if_pos hn

/-- What the end of a walk leaves but for the station: the walk is over, and its requests run again, some with its answer. -/
theorem walkEnds_effect {s s1 : State} {n : Nat} {q : TransReq} {w : Walk} (share : List WalkWait) (res : TRes) (hwalks : s.walks = [w]) (hw : walksPage n q w = true)
    (hmem : ∀ z, s1.mem.byte z = s.mem.byte z) (hkeeps : (s1.cores, s1.agenda, s1.answers, s1.walks) = (s.cores, s.agenda, s.answers, s.walks)) :
    let u := s1.walkEnds n q w share res
    u.walks = [] ∧ (∀ z, u.mem.byte z = s.mem.byte z) ∧ u.cores = s.cores ∧ u.agenda = w.waiting.map (fun x => Item.event x.ev.1 x.ev.2) ++ s.agenda ∧
      u.answers = s.answers ++ share.map fun x => { ev := x.ev, space := q.space, page := x.req.va / 2 ^ 16, res } := by
  simp only [Prod.mk.injEq] at hkeeps
  obtain ⟨hcores, hagenda, hanswers, hwalks1⟩ := hkeeps
  exact ⟨State.filter_walksPage (hwalks1.trans hwalks) hw, hmem, hcores, congrArg (_ ++ ·) hagenda, congrArg (· ++ _) hanswers⟩

theorem threadRequests : Claims.ThreadRequests := by
  refine ⟨fun s id t p hat => ?waiting, fun s n q w hat hn hwalks hst hsp hpg => ?walk⟩
  case waiting =>
    intro h hop first
    have hexec := exec_porterRequest_thread hat
    refine ⟨fun hk hfirst => ⟨_, hexec, ?fence⟩, fun sc hk hfirst => ⟨_, hexec, ?exit⟩, fun a lv l s1 hk hl => ?steal⟩
    case fence =>
      rw [State.threadStep_done hop hk (State.threadKind_fence (Thread.earlierDone_of_first hfirst)), State.exitThread_fence _ _ _ hk]
      refine ⟨rfl, ?_, ?_⟩ <;> rw [State.tinkDone_core, State.core_forget]
      · simp [h]
      · rfl
    case exit =>
      rw [State.threadStep_done hop hk (State.threadKind_release (Thread.earlierDone_of_first hfirst))]
      have hthread := State.thread_exited (s.forget (.porterRequest, .asker (.thread id t.val p.seq))) id t hk
      exact ⟨State.exitThread_mem .., congrArg Thread.pend hthread, fun hs => (congrArg Thread.status hthread).trans (Thread.exited_ready hs),
        fun _ _ _ _ hs => (congrArg Thread.status hthread).trans (Thread.exited_parked hs)⟩
    case steal =>
      intro gives
      refine ⟨fun hnone => ⟨_, hexec, ?none⟩, fun f hfound => ⟨_, hexec, ?found⟩⟩
      case none =>
        rw [State.threadStep_done hop hk (State.threadKind_steal_none hl hnone), State.exitThread_steal _ _ _ hk]
        refine ⟨rfl, ?_⟩
        rw [State.tinkDone_core, State.core_forget]
        rfl
      case found =>
        rw [State.threadStep_done hop hk (State.threadKind_steal_found hl hfound), State.exitThread_steal _ _ _ hk]
        refine ⟨⟨rfl, ?_⟩, ?_⟩ <;> rw [State.tinkDone_core, State.core_forget, State.core_updCore_self]
        · rfl
        · exact Core.line_dropLine _ f
  case walk =>
    intro page res
    have hw : walksPage n q w = true := by simp [walksPage, hst, hsp, hpg]
    have hbytes (z : Nat) := s.byte_scrubWalk q.space (page * 2 ^ 16) z
    refine ⟨_, exec_translationWalk_at hat hn, ?_⟩
    have hres : s.walkTables q.space (page * 2 ^ 16) = res := rfl
    clear_value res
    cases res with
    | leaf l a =>
      rw [State.walkDone_leaf hwalks hw hres]
      obtain ⟨hwalks', hmem, hcores, hagenda, hanswers⟩ := walkEnds_effect (s.walkShare q w) (.leaf l a) hwalks hw
        (s1 := (s.scrubWalk q.space (page * 2 ^ 16)).setStation n ((s.station n).keep ⟨q.space, page * 2 ^ 16, l, a⟩ s.tick)) hbytes rfl
      refine ⟨hwalks', hmem, hcores, hagenda, hanswers, fun l' a' hl => ?kept, fun _ _ _ hf => TRes.noConfusion hf⟩
      obtain ⟨rfl, rfl⟩ := TRes.leaf.inj hl
      have hst : (((s.scrubWalk q.space (page * 2 ^ 16)).setStation n ((s.station n).keep ⟨q.space, page * 2 ^ 16, l, a⟩ s.tick)).walkEnds n q w (s.walkShare q w) (.leaf l a)).station n =
        (s.station n).keep ⟨q.space, page * 2 ^ 16, l, a⟩ s.tick := State.station_setStation ..
      rw [hst]
      exact ⟨fun h => Station.keep_new (e := ⟨q.space, page * 2 ^ 16, l, a⟩) s.tick h, fun h => congrArg Station.entries (Station.keep_cached (e := ⟨q.space, page * 2 ^ 16, l, a⟩) s.tick h)⟩
    | fault reason level =>
      rw [State.walkDone_fault hwalks hw hres]
      obtain ⟨hwalks', hmem, hcores, hagenda, hanswers⟩ := walkEnds_effect (s.walkShare q w) (.fault reason level) hwalks hw
        (s1 := (s.scrubWalk q.space (page * 2 ^ 16)).logFaults n reason level (s.walkShare q w)) (fun z => by rw [State.logFaults_mem]; exact hbytes z) (State.logFaults_keeps ..)
      refine ⟨hwalks', hmem, hcores, hagenda, hanswers, fun _ _ hl => TRes.noConfusion hl, fun r' level' x hf hwait hx => ?logged⟩
      obtain ⟨rfl, rfl⟩ := TRes.fault.inj hf
      rw [State.walkShare_single hwait hx]
      exact (s.scrubWalk q.space (page * 2 ^ 16)).logFault_written ..

/-- Settles O40: the events of the tinker cache, the fetches, and what completes a waiting operation. -/
theorem threadEvents : Obligations.ThreadEvents := ⟨tinkerCacheEvents, tinkerFetches, threadRequests⟩

end Sys2Proof.Proofs
end

section
/-! Operations that resume with captured operands, and the start of the context engine (R87, R270, R274). -/
namespace Sys2Proof.Machine

/-! ### Operands of a capture record -/

section
variable {v : View} {y : Capture} (h : v.cap = some y)
include h

theorem View.val_captured (pos : Nat) (x : Src) : v.val pos x = (y.ops.getD pos 0, y.norms.getD pos 0) := by rw [View.val, h]
theorem View.s_captured (pos : Nat) (x : SSrc) : v.s pos x = BitVec.ofNat 64 (y.ops.getD pos 0) := by rw [View.s, View.val_captured h]
theorem View.vs_captured (pos : Nat) (x : VSSrc) : v.vs pos x = BitVec.ofNat 64 (y.ops.getD pos 0) := View.s_captured h ..
theorem View.v_captured (pos : Nat) (x : VSrc) : v.v pos x = BitVec.ofNat 2048 (y.ops.getD pos 0) := by rw [View.v, View.val_captured h]
theorem View.m_captured (pos : Nat) (x : MReg) : v.m pos x = BitVec.ofNat 128 (y.ops.getD pos 0) := by rw [View.m, View.val_captured h]
theorem View.p_captured (pos : Nat) (x : Pred) : v.p pos x = decide (y.ops.getD pos 0 % 2 = 1) := by rw [View.p, View.val_captured h]; rfl
theorem View.w_captured (pos : Nat) (x : WReg) : v.w pos x = BitVec.ofNat 512 (y.ops.getD pos 0) := by rw [View.w, View.val_captured h]
theorem View.h_captured (pos : Nat) (x : HReg) : v.h pos x = Hoop.ofWord (y.ops.getD pos 0) := by rw [View.h, View.val_captured h]
theorem View.d_captured (pos : Nat) (x : DReg) : v.d pos x = (BitVec.ofNat 2048 (y.ops.getD pos 0), y.norms.getD pos 0 % 65536) := by
  rw [View.d, View.val_captured h]

end

/-! ### An issue with captured operands -/

/-- What a slot sees of the state in which its bundle issues with captured operands. -/
abbrev capturedView (s : State) (id : Nat) (k : Slot) (y : Capture) : View := ⟨s, id, s.core id, k, some y⟩

/-- Results for registers that are no bound port are not pushed, and pop nothing. -/
theorem Core.flightsOf_unread {c : Core} {p : Plan} (k : Slot) (h : ∀ l ∈ p.lands, ∀ r, l.dest = .v r → c.binding r = none) :
    c.flightsOf k [] p = p.lands.map fun l => l.flight c k := by
  refine List.map_congr_left fun l hl => ?_
  have hpop : c.popFault [] = (0, 0) := rfl
  simp only [hpop, Land.flight, Flight.mk.injEq, true_and]
  refine ⟨?pend, ?push⟩
  case pend => split <;> simp_all
  case push =>
    split
    next r hr => rw [h l hl r hr]
    · rfl

/-- R270: with captured operands an issue does what its plan says, and no port is popped. -/
theorem Core.issue_captured {c : Core} {p : Plan} (k : Slot) (y : Capture) (srcs : List (Nat × Src)) (ht : p.take = none)
    (h : ∀ l ∈ p.lands, ∀ r, l.dest = .v r → c.binding r = none) : c.issue k (some y) srcs p = p.upd
      { c with demand := c.demand ++ p.demand.map (fun d => (c.ic + d.1, d.2.1, d.2.2)), msgPath := c.msgPath ++ p.msgPath.map (c.ic + ·),
               flights := c.flights ++ p.lands.map (fun l => l.flight c k), acts := c.acts ++ p.acts.map (fun a => (c.ic + a.1, c.ic, a.2)),
               writes := c.writes ++ p.writes.map (fun w => (c.ic + w.1, w.2)), gens := p.gens.getD c.gens } := by
  have hpop : c.popFault [] = (0, 0) := rfl
  have hdemand : c.portDemand [] = [] := rfl
  have hmarks (x : Core) : x.markPops [] none = x := rfl
  simp only [Core.issue, Option.isSome_some, if_true, hpop, Plan.unfed_none, ht, hdemand, hmarks, List.append_nil, Core.flightsOf_unread k h]

section
variable {s : State} {id : Nat} {k : Slot} {y : Capture} {srcs : List (Nat × Src)} {body : View → Plan} (hcur : s.cur = .slot id k true)
  (hcap : (s.core id).resumeCaps = [(k.val, y)])
include hcur hcap

/-- The whole next state of a resumed operation, by what its plan does at issue. -/
theorem primOp_captured {q : Plan} (hq : (body (capturedView s id k y)).effects = q) (ht : q.take = none)
    (h : ∀ l ∈ q.lands, ∀ r, l.dest = .v r → (s.core id).binding r = none) :
    primOp srcs body s = .next (let c := s.core id
      q.updS ({ s with mem := q.scrub.foldl (fun (m : Memory) (r : Nat × Nat) => m.scrub r.1 r.2) s.mem }.setCore id (q.upd
        { c with demand := c.demand ++ q.demand.map (fun (d : Nat × Bool × Nat) => (c.ic + d.1, d.2.1, d.2.2)),
                 msgPath := c.msgPath ++ q.msgPath.map (c.ic + ·), flights := c.flights ++ q.lands.map (fun (l : Land) => l.flight c k),
                 acts := c.acts ++ q.acts.map (fun (a : Nat × Act) => (c.ic + a.1, c.ic, a.2)),
                 writes := c.writes ++ q.writes.map (fun (w : Nat × WOp) => (c.ic + w.1, w.2)), gens := q.gens.getD c.gens }))) := by
  subst hq
  have hfind : ((s.core id).resumeCaps.find? fun x => x.1 == k.val).map (·.2) = some y := by simp [hcap]
  simp only [primOp, hcur, hfind, if_true]
  exact congrArg (fun c => Host.Outcome.next ((body (capturedView s id k y)).updS (State.setCore _ id c))) (Core.issue_captured k y srcs ht h)

/-- A resumed operation that computes one result puts it in flight. -/
theorem primOp_captured_fly {d : Dest} {lat val : Nat} (hq : (body (capturedView s id k y)).effects = { lands := [{ dest := d, lat, val }] })
    (hd : ∀ r, d = .v r → (s.core id).binding r = none) : primOp srcs body s = .next (Claims.fly s id k d lat val) := by
  rw [primOp_captured hcur hcap hq rfl (List.forall_mem_singleton.mpr hd)]
  simp only [Claims.fly, Claims.inFlight, Land.flight, List.map_cons, List.map_nil, List.append_nil, List.foldl_nil, Option.getD_none, if_true, -Nat.reducePow]

/-- A resumed command enters its queue. -/
theorem exec_queues_captured {i : Instr} {kind : CmdKind} {dst src : BitVec 512} {arrival fault : Option Nat} {viol : Option Violation} (hx : exec i s = primOp srcs body s)
    (hq : (body (capturedView s id k y)).effects = (capturedView s id k y).entering viol ((capturedView s id k y).newCmd kind dst src arrival fault)) :
    Claims.Queues s id k kind dst src arrival fault (s.core id).fences (exec i s) := by
  rw [hx, primOp_captured hcur hcap hq rfl (List.forall_mem_singleton.mpr fun _ => nofun)]
  refine ⟨_, (capturedView s id k y).newCmd kind dst src arrival fault, rfl, rfl, rfl, rfl, rfl, rfl, rfl, rfl, rfl, rfl, fun j hj => ?others,
    (State.postCmd_keeps ..).1, ?own⟩
  case others => exact (State.postCmd_core ..).trans (State.core_setCore_other _ _ _ _ hj)
  case own =>
    refine (State.postCmd_core ..).trans ((State.core_setCore_self ..).trans ?_)
    simp only [View.entering, List.map_nil, List.append_nil, List.map_cons, Option.getD_none]
    rfl

end

/-- The conjunction of two vectors, unmasked, whole. -/
theorem landElems_and (x y : VWord) (d : VReg) (k : Slot) (g : Gens) :
    landElems d 2 32 0 (elemLoop 32 (fun _ => true) false .rne k (fun j _ => (elemAt 32 x j &&& elemAt 32 y j, 0)) 64 0 g) =
      { dest := .v d, lat := 2, val := (x &&& y).toNat, mask := 2 ^ 2048 - 1 } := by
  let e := elemLoop 32 (fun _ => true) false .rne k (fun j _ => (elemAt 32 x j &&& elemAt 32 y j, 0)) 64 0 g
  have hlt : (x &&& y).toNat < 2 ^ 2048 := (x &&& y).isLt
  have hval : packElems 32 e.vals = (x &&& y).toNat :=
    fullLoop_value (w := 32) (n := 64) (N := 2048) rfl (by decide) hlt fun j _ => by
      rw [BitVec.toNat_and, Nat.and_div_two_pow, Nat.and_mod_two_pow, elemAt, elemAt]
  have hmask : packElems 32 e.msks = 2 ^ 2048 - 1 := fullLoop_mask (w := 32) (n := 64) (N := 2048) rfl ..
  have hflags : e.flags = 0 := elemLoop_flags 32 _ _ _ _ _ (fun _ _ => rfl) ..
  change landElems d 2 32 0 e = _
  simp only [landElems, hval, hmask, hflags, Nat.mul_zero, Nat.pow_zero, Nat.mul_one]

/-- A resumed conjunction issues with the record's vectors; its destination is no port. -/
theorem exec_vand_captured {s : State} {id : Nat} {k : Slot} {y : Capture} (hcur : s.cur = .slot id k true) (hcap : (s.core id).resumeCaps = [(k.val, y)]) {d : VReg} (b c : VSrc)
    (hd : d.val < 28) : exec (.vand .b32 d b c none) s =
      .next (Claims.fly s id k (.v d) 2 (BitVec.ofNat 2048 (y.ops.getD 1 0) &&& BitVec.ofNat 2048 (y.ops.getD 2 0)).toNat) := by
  let p := BitVec.ofNat 2048 (y.ops.getD 1 0)
  let q := BitVec.ofNat 2048 (y.ops.getD 2 0)
  have hgens : ((s.core id).laneLoop k 32 none .rne fun j _ => (elemAt 32 p j &&& elemAt 32 q j, 0)).gens = (s.core id).gens :=
    Core.laneLoop_gens_of_ne_sr _ _ _ _ (by decide) _
  rw [exec_vand, execVand, vecBits, primOp_captured hcur hcap (q := { lands := [{ dest := .v d, lat := 2, val := (p &&& q).toNat }], gens := some (s.core id).gens })
    ?effects rfl ?register]
  case effects =>
    simp only [View.v_captured (v := capturedView s id k y) rfl]
    rw [← landElems_and p q d k (s.core id).gens]
    exact congrArg (fun g => ({ lands := _, gens := some g } : Plan)) hgens
  case register => exact List.forall_mem_singleton.mpr fun r hr => Dest.v.inj hr ▸ Core.binding_register _ hd
  simp only [Claims.fly, Claims.inFlight, Land.flight, List.map_cons, List.map_nil, List.append_nil, List.foldl_nil, Option.getD_some, if_true, -Nat.reducePow]
  rfl

/-- The one bits of a lane mask that a record holds. -/
theorem popN_ofNat (x : Nat) : popN (BitVec.ofNat 128 x).toNat 128 = ((List.range 128).filter fun i => x.testBit i).length := by
  rw [popN_eq_length]
  refine congrArg List.length (List.filter_congr fun i hi => ?_)
  rw [BitVec.toNat_ofNat, Nat.testBit_mod_two_pow, decide_eq_true (List.mem_range.mp hi), Bool.true_and]

/-- R270: a slot with a capture record has the record's predicate. -/
theorem Core.slotPred_captured {c : Core} {k : Slot} {y : Capture} (h : c.resumeCaps = [(k.val, y)]) (q : Pred) : c.slotPred k q = y.pred := by
  simp [Core.slotPred, h]

/-- A slot that is due and decodes is an item of its predicate's value alone. -/
theorem Core.slot_mem_slotItems {c : Core} {id : Nat} {k : Slot} {r : RawSlot} {i : Instr} {pred issue : Bool} (hdue : (k, r) ∈ c.slotsDue) (hi : slotInstr (k, r) = .ok i) :
    Item.slot id k issue r ∈ c.slotItems id pred issue ↔ c.slotPred k r.q = pred := by
  rw [Core.mem_slotItems]
  constructor
  · rintro ⟨_, _, _, _, hp, heq⟩
    cases heq
    exact hp
  · exact fun hp => ⟨k, r, hdue, ⟨i, hi⟩, hp, rfl⟩

/-! ### The context engine's start -/

/-- R274: what a write of XSTAT starts. -/
theorem ctxStart_xstat (c c' : Core) (s : State) (id : Nat) (x : Word) : ctxStart c id .xstat x (s.setCore id c') =
    if c.sp.handler ∧ c.ctxBusy = none ∧ x.getLsbD 32 then (s.setCore id { c' with ctxBusy := some .save }).post .csave (.core id)
    else if c.sp.handler ∧ c.ctxBusy = none ∧ x.getLsbD 33 then (s.setCore id { c' with ctxBusy := some .load }).post .cload (.core id)
    else s.setCore id c' := by
  by_cases h : c.sp.handler = true ∧ c.ctxBusy = none
  · obtain ⟨hh, hb⟩ := h
    simp only [ctxStart, hh, hb, Option.isNone_none, and_self, if_true, true_and, State.updCore_setCore]
  · have hno (p : Prop) : ¬ (c.sp.handler = true ∧ c.ctxBusy = none ∧ p) := fun ⟨hh, hb, _⟩ => h ⟨hh, hb⟩
    rw [ctxStart, if_neg (fun ⟨_, hh, hb⟩ => h ⟨hh, Option.isNone_iff_eq_none.mp hb⟩), if_neg (hno _), if_neg (hno _)]

end Sys2Proof.Machine

namespace Sys2Proof.Proofs
open Sys2Proof Sys2Proof.Machine Sys2Proof.Claims

theorem capturedOperands : Claims.CapturedOperands := by
  intro v y h pos op
  have hs (x : SSrc) : v.s pos x = BitVec.ofNat 64 op := View.s_captured h pos x
  exact ⟨hs, View.vs_captured h pos, View.v_captured h pos, View.m_captured h pos, View.p_captured h pos, View.w_captured h pos, View.h_captured h pos,
    View.d_captured h pos, fun x => ⟨hs x, hs x⟩, fun _ => ⟨rfl, rfl⟩⟩

theorem capturedIssue : Claims.CapturedIssue := by
  intro s id k y hcur hcap d b c vd vb vc m p q dr w h n co op sop hoop dst
  have hv : (capturedView s id k y).cap = some y := rfl
  have goes {d' : Dest} {lat val : Nat} {srcs : List (Nat × Src)} {body : View → Plan} (hd : ∀ r, d' ≠ .v r)
      (hq : (body (capturedView s id k y)).effects = { lands := [{ dest := d', lat, val }] }) : primOp srcs body s = .next (fly s id k d' lat val) :=
    primOp_captured_fly hcur hcap hq fun r hr => absurd hr (hd r)
  refine ⟨?add, ?mul, fun hvd => ?vand, ?vpopm, ?pnot, ?dnorm, ?cfill, fun hvalid hfill hcount => ?mpop⟩
  case add => exact (exec_add ..).trans (goes (by simp) (by simp only [View.s_captured hv]; rfl))
  case mul =>
    refine (exec_mul ..).trans (goes (body := fun v => { lands := [landS d 3 (v.s 1 b * v.x 2 (.reg c))] }) (by simp) ?_)
    simp only [View.x, View.s_captured hv]
    rfl
  case vand => exact exec_vand_captured hcur hcap vb vc hvd
  case vpopm =>
    have hlt : ((List.range 128).filter fun i => (op 1).testBit i).length < 2 ^ 64 := (List.length_filter_le _ _).trans_lt (by rw [List.length_range]; decide)
    refine (exec_vpopm ..).trans (goes (by simp) ?_)
    simp only [Plan.effects, landS, View.m_captured hv, popN_ofNat]
    rw [BitVec.toNat_ofNat, Nat.mod_eq_of_lt hlt]
  case pnot =>
    have hnot : (!decide (y.ops.getD 1 0 % 2 = 1)) = decide (y.ops.getD 1 0 % 2 = 0) := by rw [← decide_not]; exact decide_eq_decide.mpr (by omega)
    exact (exec_pnot ..).trans (goes (by simp) (by simp only [View.p_captured hv, hnot]; rfl))
  case dnorm =>
    have hlt : y.norms.getD 1 0 % 65536 < 2 ^ 64 := (Nat.mod_lt _ (by decide)).trans (by decide)
    refine (exec_dnorm ..).trans (goes (by simp) ?_)
    simp only [Plan.effects, landS, View.d_captured hv, BitVec.toNat_ofNat]
    rw [Nat.mod_eq_of_lt hlt]
  case cfill =>
    refine exec_queues_captured hcur hcap (exec_cfill ..) (viol := (capturedView s id k y).walkViolation [dst]) ?_
    simp only [View.dataPlan, View.arrivalCore_eq, View.queued_effects, View.w_captured hv, View.s_captured hv, View.xz]
    rfl
  case mpop =>
    have hvalid' : (Hoop.ofWord (y.ops.getD 0 0)).valid = true := hvalid
    have hcount' : ¬ (Hoop.ofWord (y.ops.getD 0 0)).count + 1 < n.toNat := Nat.not_lt.mpr hcount
    have hfill' : ¬ (Hoop.ofWord (y.ops.getD 0 0)).fill < n.toNat := Nat.not_lt.mpr hfill
    rw [exec_mpop, execMpop, primOp_captured hcur hcap
      (q := { acts := [(1, .pop h n.toNat)], hoops := [h.val], busy := 1, upd := fun c => c.occupy 1 [] [h.val] (0, 0) 0 }) ?effects rfl (by simp)]
    case effects =>
      simp only [View.h_captured hv, hvalid', hcount', hfill', if_true, List.isEmpty_nil, Bool.not_true, Bool.false_eq_true, if_false]
      rfl
    simp only [List.map_cons, List.map_nil, List.append_nil, List.foldl_nil, Option.getD_none]
    rfl

theorem capturedPredicates : Claims.CapturedPredicates := by
  intro c id k y r i issue hcap hdue hi
  simp only [Core.slot_mem_slotItems hdue hi, Core.slotPred_captured hcap, and_self]

theorem contextStarts : Claims.ContextStarts := by
  intro s id k hi hu b c x c'
  rw [exec_movts, execMovts, primOp_effects hi hu (q := { acts := [(1, .special .xstat x)], updS := ctxStart c id .xstat x }) (by simp only [View.s_live]; rfl) rfl fun _ => rfl]
  simp only [List.map_nil, List.map_cons, List.append_nil, List.foldl_nil, Option.getD_none]
  exact congrArg Host.Outcome.next (ctxStart_xstat c c' s id x)

/-- Settles O30: every reader of an operand looks at the record first, so an issue with a record is its plan over the record's values. -/
theorem capturesAndContexts : Obligations.CapturesAndContexts := ⟨capturedOperands, capturedIssue, capturedPredicates, contextStarts⟩

end Sys2Proof.Proofs
end

section
/-! Entering the resident handler and returning from it (R264, R266, R270, R277). -/
namespace Sys2Proof.Machine

/-! ### What a part of a step leaves -/

/-- `u` has the launches of `s`, and each core reads by `p` as it did in `s`. -/
structure Retains {α : Type} (p : Core → α) (s u : State) : Prop where
  launches : u.launches = s.launches
  core : ∀ j, p (u.core j) = p (s.core j)

section
variable {α : Type} {p : Core → α}

theorem Retains.refl (s : State) : Retains p s s := ⟨rfl, fun _ => rfl⟩
theorem Retains.trans {s t u : State} (h : Retains p s t) (h' : Retains p t u) : Retains p s u :=
  ⟨h'.launches.trans h.launches, fun j => (h'.core j).trans (h.core j)⟩
theorem Retains.of_cores {s u : State} (hl : u.launches = s.launches) (hc : u.cores = s.cores) : Retains p s u := ⟨hl, fun j => by rw [State.core_of_cores hc]⟩

theorem Retains.setCore {s t : State} (h : Retains p s t) {id : Nat} {c : Core} (hc : p c = p (t.core id)) : Retains p s (t.setCore id c) where
  launches := h.launches
  core j := by
    by_cases hj : j = id
    · subst hj
      rw [State.core_setCore_self, hc, h.core]
    · rw [State.core_setCore_other _ _ _ _ hj, h.core]
theorem Retains.updCore {s t : State} {id : Nat} {f : Core → Core} (h : Retains p s t) (hf : ∀ c, p (f c) = p c) : Retains p s (t.updCore id f) := h.setCore (hf _)
theorem Retains.post {s t : State} {i : Instr} {a : EvArg} (h : Retains p s t) : Retains p s (t.post i a) :=
  h.trans (.of_cores (State.post_launches ..) (State.post_cores ..))
theorem Retains.foldl {β : Type} {g : State → β → State} {l : List β} {s : State} (h : ∀ s x, Retains p s (g s x)) : Retains p s (l.foldl g s) :=
  foldl_inv g (Retains p s) (fun t x ht => ht.trans (h t x)) l s (.refl s)
theorem Retains.ite {c : Prop} [Decidable c] {s t u : State} (h : Retains p s t) (h' : Retains p s u) : Retains p s (if c then t else u) := by
  split
  · exact h
  · exact h'

/-! ### Sending leaves launches and cores -/

theorem State.sendFlit_launches (s : State) (dst : Nat) (bs : List Byte) : (s.sendFlit dst bs).launches = s.launches := by
  unfold State.sendFlit; split <;> rfl
theorem State.sendRows_launches (route : Nat) (resend : Bool) (n : Nat) (s : State) (ms : List Nat) : (s.sendRows route resend n ms).launches = s.launches := by
  induction n generalizing s ms with
  | zero => rfl
  | succ n ih =>
    unfold State.sendRows
    split
    · rfl
    · rw [ih, State.sendFlit_launches]
theorem State.toPeer_launches (s : State) (id : Nat) (e : Endpoint) (n : Nat) (i : Instr) (mk : Nat → Nat → EvArg) : (s.toPeer id e n i mk).launches = s.launches := by
  unfold State.toPeer
  split
  · rfl
  · split <;> rfl

variable {s t : State} (h : Retains p s t)
include h

theorem Retains.sendWords {route type : Nat} {ws : List Nat} {n st : Nat} : Retains p s (t.sendWords route type ws n st) :=
  h.trans (.of_cores (State.sendFlit_launches ..) (State.sendFlit_cores ..))
theorem Retains.sendRows {route : Nat} {resend : Bool} {n : Nat} {ms : List Nat} : Retains p s (t.sendRows route resend n ms) :=
  h.trans (.of_cores (State.sendRows_launches ..) (State.sendRows_cores ..))
theorem Retains.toPeer {id : Nat} {e : Endpoint} {n : Nat} {i : Instr} {mk : Nat → Nat → EvArg} : Retains p s (t.toPeer id e n i mk) :=
  h.trans (.of_cores (State.toPeer_launches ..) (State.toPeer_cores ..))
theorem Retains.updRoute {r : Nat} {f : Route → Route} : Retains p s (t.updRoute r f) := h.trans (.of_cores rfl rfl)

end

/-! ### Effects already issued leave the launches and each core's issue cycle -/

theorem Core.ic_setSpecial (c : Core) (r : SpecialReg) (x : Word) : (c.setSpecial r x).ic = c.ic := by
  unfold Core.setSpecial
  dsimp only
  split <;> (try split) <;> rfl

theorem Core.ic_killThread (c : Core) (t : Fin 64) : (c.killThread t).ic = c.ic := by
  unfold Core.killThread
  dsimp only
  split <;> rfl

theorem Core.ic_applyAct (c : Core) (clock : Nat) (a : Act) : (c.applyAct clock a).ic = c.ic := by
  cases a with
  | special r x => exact c.ic_setSpecial r x
  | unbind p =>
    simp only [Core.applyAct]
    split <;> rfl
  | kill t =>
    cases t with
    | some t => exact c.ic_killThread t
    | none => exact foldl_keeps _ Core.ic (fun c t => c.ic_killThread t) _ c
  | _ => rfl

theorem Retains.doGrant (s : State) (id : Nat) (ch : Chan) (n : Nat) : Retains Core.ic s (s.doGrant id ch n) := by
  have h1 : Retains Core.ic s (s.updCore id fun c =>
      { c with endpoints := c.endpoints.set ch { (s.core id).endpoints[ch] with grantOut := ((s.core id).endpoints[ch]).grantOut + n, sealed := false } }) :=
    .updCore (.refl s) fun _ => rfl
  unfold State.doGrant
  dsimp only
  split
  · exact .ite (.ite (.updRoute h1) h1) (.sendWords (.ite (.updRoute h1) h1))
  · exact .ite h1 (.toPeer h1)

theorem Retains.doAck (s : State) (id : Nat) (ch : Chan) (tag : Nat) : Retains Core.ic s (s.doAck id ch tag) := by
  unfold State.doAck
  dsimp only
  split
  · exact .sendWords (.updRoute (.refl s))
  · exact .toPeer (.refl s)

theorem Retains.usePorts {s t : State} {id key n : Nat} {write : Bool} (h : Retains Core.ic s t) : Retains Core.ic s (t.usePorts id key n write) := by
  unfold State.usePorts
  split
  · exact h
  · exact .updCore h fun _ => rfl

theorem Retains.pushTile (s : State) (id : Nat) (h : HReg) (tile : List Byte) (cvs : List (Nat × Nat)) (sh : List Nat) : Retains Core.ic s (s.pushTile id h tile cvs sh) := by
  unfold State.pushTile
  dsimp only
  exact .updCore (.usePorts (.of_cores rfl rfl)) fun _ => rfl

/-- A change of every listed core that keeps the reading. -/
theorem sget_map_keeps {α β : Type} (p : α → β) (g : Nat → α → α) (hg : ∀ k x, p (g k x) = p x) (d : α) (l : List (Nat × α)) (j : Nat) :
    p (sget d (l.map fun e => (e.1, g e.1 e.2)) j) = p (sget d l j) := by
  induction l with
  | nil => rfl
  | cons e l ih =>
    simp only [List.map_cons, sget]
    split
    · exact hg ..
    · split
      · rfl
      · exact ih

theorem Retains.staleTiles (s : State) (dst : Nat) (h : HReg) : Retains Core.ic s (s.staleTiles dst h) := by
  unfold State.staleTiles
  refine .updCore ⟨rfl, fun j => ?_⟩ fun _ => rfl
  exact sget_map_keeps Core.ic (fun k c => { c with engines := c.engines.map fun e => { e with queue := e.queue.map fun x => x.markStale k dst h.val } }) (fun _ _ => rfl) ..

theorem Retains.doAct (s : State) (id : Nat) (a : Act) : Retains Core.ic s (s.doAct id a) := by
  unfold State.doAct
  split
  · exact .of_cores rfl rfl
  · exact .of_cores rfl rfl
  · exact .doGrant ..
  · exact .doAck ..
  · exact .of_cores rfl rfl
  · exact .ite (.pushTile ..) (.post (.updCore (.refl s) fun _ => rfl))
  · exact .post (.updCore (.refl s) fun _ => rfl)
  · exact .updCore (.staleTiles ..) fun _ => rfl
  · exact .post (.updCore (.refl s) fun _ => rfl)
  · exact .updCore (.refl s) fun c => c.ic_applyAct ..

theorem Retains.doActs (id : Nat) (l : List Act) (s : State) : Retains Core.ic s (s.doActs id l) := by
  induction l generalizing s with
  | nil => exact .refl s
  | cons a l ih => exact .trans (.doAct s id a) (ih _)

theorem Retains.doSat (s : State) (id key : Nat) (x : AtX) (b a issued : Nat) (k : Slot) : Retains Core.ic s (s.doSat id key x b a issued k) := by
  unfold State.doSat
  dsimp only
  split
  · exact .updCore (.of_cores rfl rfl) fun _ => rfl
  · exact .updCore (.refl s) fun c => by split <;> rfl

theorem Retains.doWrite (s : State) (id : Nat) (w : WOp) : Retains Core.ic s (s.doWrite id w) := by
  unfold State.doWrite
  split
  · exact .of_cores rfl rfl
  · exact .doSat ..
  · dsimp only
    exact .updCore (.of_cores rfl rfl) fun _ => rfl

theorem Retains.doWrites (id : Nat) (l : List WOp) (s : State) : Retains Core.ic s (s.doWrites id l) := by
  induction l generalizing s with
  | nil => exact .refl s
  | cons w l ih => exact .trans (.doWrite s id w) (ih _)

/-- R264: completing what has been issued changes no launch and no issue cycle. -/
theorem Retains.drainCore (s : State) (id : Nat) : Retains Core.ic s (s.drainCore id) := by
  have h1 := Retains.setCore (p := Core.ic) (.refl s) (id := id) (c := { s.core id with writes := [], demand := [], msgPath := [] }) rfl
  have h2 := (h1.trans (.doWrites id ((s.core id).writes.map (·.2)) _)).updCore (id := id) (f := fun c => { c with acts := [] }) fun _ => rfl
  have h3 := h2.trans (.doActs id ((s.core id).acts.map (·.2.2)) _)
  unfold State.drainCore
  dsimp only
  exact .updCore (h3.trans (.of_cores rfl rfl)) fun _ => rfl

/-! ### Entering -/

/-- A trap of a launch with a handler of its own: the firmware does nothing. -/
theorem State.firmware_own {s : State} {id : Nat} {l : Launch} (k : Cause) (hl : s.launchOf id = some l) (ho : l.ownHandler = true) : s.firmware id k = s := by
  simp only [State.firmware, hl, ho, if_true]

/-- What may be put into memory changes no launch and no core. -/
theorem State.ite_mem_rest {c : Prop} [Decidable c] (s : State) (m : Memory) (j : Nat) :
    (if c then { s with mem := m } else s).launches = s.launches ∧ (if c then { s with mem := m } else s).core j = s.core j := by
  split
  · exact ⟨rfl, rfl⟩
  · exact ⟨rfl, rfl⟩

/-- Entering a handler leaves the launches, and every other core as completing what was issued left it. -/
theorem State.enterHandler_rest (s : State) (id : Nat) (k : Cause) (more : Bool) (caps : Option (List (Nat × Capture))) :
    (s.enterHandler id k more caps).launches = s.launches ∧ ∀ j, j ≠ id → (s.enterHandler id k more caps).core j = (s.drainCore id).core j := by
  unfold State.enterHandler
  dsimp only
  rw [State.setCore_launches, ← (Retains.drainCore s id).launches]
  refine ⟨?_, fun j hj => ?_⟩
  · exact (State.ite_mem_rest _ _ id).1
  · rw [State.core_setCore_other _ _ _ _ hj]
    exact (State.ite_mem_rest ..).2

/-- R264, R266: with no release of the primary waiting, the handler of the launch's own is entered, and the entry is due no more. -/
theorem execTrapEntry_enters {s : State} {id : Nat} {t : Trap} {e : Entry} {l : Launch} (hat : Claims.At s (.trap id t)) (he : (s.core id).entry = some e)
    (hl : s.launchOf id = some l) (ho : l.ownHandler = true) (hf : isFrozen (s.core id).run = false) (hr : (s.core id).releases.any (fun r => r.thread.isNone) = false) :
    execTrapEntry s = .next ((s.enterHandler id e.cause e.more e.caps).unpost .trapEntry (.trap id t)) := by
  have hl' : ((s.enterHandler id e.cause e.more e.caps).unpost .trapEntry (.trap id t)).launchOf id = some l := by
    rw [← hl]
    exact State.launchOf_congr (s.enterHandler_rest id e.cause e.more e.caps).1 id
  have hcur : s.cur = .event (.trap id t) := hat
  simp only [execTrapEntry, hcur, he, hf, hr, Bool.false_eq_true, if_false, State.firmware_own _ hl' ho]

/-- The fields of XSTAT that a trap writes (Table 9.2). -/
theorem xstat_fields {e m p o v q : Nat} (he : e < 2) (hm : m < 2) (hp : p < 2) :
    let x := (BitVec.ofNat 64 (e + 2 * m + 4 * p + 2 ^ 8 * o + 2 ^ 16 * v + 2 ^ 35 * q)).toNat
    x % 2 = e ∧ x / 2 % 2 = m ∧ x / 4 % 2 = p ∧ (o < 64 → x / 2 ^ 8 % 2 ^ 6 = o) := by
  simp only [BitVec.toNat_ofNat]
  omega

end Sys2Proof.Machine

namespace Sys2Proof.Proofs
open Sys2Proof Sys2Proof.Machine Sys2Proof.Claims

theorem handlerEntry : Claims.HandlerEntry := by
  intro s id t e l hat he hl ho
  have hcur : s.cur = .event (.trap id t) := hat
  refine ⟨fun hf => ?frozen, fun hf hr => ?waits, fun hf hr => ⟨_, (exec_trapEntry s).trans (execTrapEntry_enters hat he hl ho hf hr), ?enters⟩⟩
  case frozen => simp only [exec_trapEntry, execTrapEntry, hcur, he, hf, if_true]
  case waits => simp only [exec_trapEntry, execTrapEntry, hcur, he, hf, hr, Bool.false_eq_true, if_false, if_true]
  case enters =>
    dsimp only
    simp only [State.core_unpost]
    have hcore := congrArg (·.core id) (State.enterHandler.eq_def s id e.cause e.more e.caps)
    have hic : ((s.drainCore id).core id).ic = (s.core id).ic := (Retains.drainCore s id).core id
    have hothers := (s.enterHandler_rest id e.cause e.more e.caps).2
    dsimp only at hcore
    rw [State.core_setCore_self] at hcore
    rw [hcore]
    generalize (s.drainCore id).core id = c at hic ⊢
    obtain ⟨hcf, hmore, hpreen, howed⟩ := xstat_fields (o := c.owed) (q := bits c.sp.xstat.toNat 35 35)
      (v := match e.caps with | some l => l.foldl (fun n x => n ||| 2 ^ x.1) 0 | none => bits c.sp.xstat.toNat 21 16)
      (Nat.mod_lt c.sp.xstat.toNat Nat.two_pos) e.more.toNat_lt c.sp.preen.toNat_lt
    refine ⟨BitVec.toNat_ofNat .., BitVec.toNat_ofNat .., BitVec.toNat_ofNat .., rfl, rfl, rfl, hcf, hmore, hpreen, howed, ?saved,
      rfl, rfl, rfl, rfl, rfl, rfl, rfl, rfl, rfl, rfl, rfl, rfl, rfl, hothers⟩
    case saved =>
      rw [← hic]
      simp only [Core.held_, Core.outstanding, Core.matBusy, List.filter_filter, Bool.and_self]

theorem handlerReturn : Claims.HandlerReturn := by
  intro s id sv c u hsaved
  have hu : u = (s.resumeCore id).core id := rfl
  have hsv : ((s.drainCore id).core id).saved = some sv := hsaved
  rw [State.resumeCore] at hu
  simp only [hsv, State.core_setCore_self] at hu
  rw [hu]
  refine ⟨rfl, rfl, rfl, rfl, rfl, rfl, rfl, rfl, rfl, rfl, fun hframe => ?_⟩
  have hno : ¬ bits ((s.drainCore id).core id).sp.xstat.toNat 2 2 = 1 := by
    rw [show bits ((s.drainCore id).core id).sp.xstat.toNat 2 2 = ((s.drainCore id).core id).sp.xstat.toNat / 2 ^ 2 % 2 from rfl]
    exact of_decide_eq_false ((Nat.testBit_eq_decide_div_mod_eq ..).symm.trans hframe)
  simp only [hno, if_false]
  exact ⟨rfl, rfl, rfl, rfl, rfl⟩

/-- Settles O36: entering and returning each write the core once, after what was issued is complete. -/
theorem handlerEntryAndReturn : Obligations.HandlerEntryAndReturn := ⟨handlerEntry, handlerReturn⟩

end Sys2Proof.Proofs
end

section
/-! Bytes of whole regions: what copying a region and putting bytes over one leave (R274). -/
namespace Sys2Proof.Machine

/-! ### Sparse data by its entries -/

section
variable {α : Type} {d : α} {l : List (Nat × α)}

/-- A key that is not listed reads as the default. -/
theorem sget_of_not_mem {a : Nat} (h : ∀ e ∈ l, e.1 ≠ a) : sget d l a = d := by
  induction l with
  | nil => rfl
  | cons e l ih =>
    obtain ⟨he, hl⟩ := List.forall_mem_cons.mp h
    simp only [sget, if_neg (Ne.symm he), ih hl, ite_self]

variable [DecidableEq α]

theorem swfFrom_lt {k : Nat} (h : swfFrom d (some k) l = true) : ∀ e ∈ l, k < e.1 := by
  induction l generalizing k with
  | nil => simp
  | cons e l ih =>
    simp only [swfFrom, Bool.and_eq_true, decide_eq_true_eq] at h
    obtain ⟨⟨hk, -⟩, hl⟩ := h
    exact List.forall_mem_cons.mpr ⟨hk, fun x hx => hk.trans (ih hl x hx)⟩

theorem swf_pairwise {lo : Option Nat} (h : swfFrom d lo l = true) : l.Pairwise fun x y => x.1 < y.1 := by
  induction l generalizing lo with
  | nil => exact .nil
  | cons e l ih =>
    simp only [swfFrom, Bool.and_eq_true] at h
    exact .cons (swfFrom_lt h.2) (ih h.2)

/-- A listed key reads as its entry. -/
theorem sget_of_mem {lo : Option Nat} (h : swfFrom d lo l = true) {e : Nat × α} (he : e ∈ l) : sget d l e.1 = e.2 := by
  induction l generalizing lo with
  | nil => cases he
  | cons x l ih =>
    simp only [swfFrom, Bool.and_eq_true] at h
    rcases List.mem_cons.mp he with rfl | hl
    · simp [sget]
    · have hlt := swfFrom_lt h.2 e hl
      rw [sget, if_neg (by omega), if_neg (by omega), ih h.2 hl]

end

/-- R73: zeroed bytes are zero, and every other byte stays. -/
theorem Memory.byte_zero {m : Memory} (h : m.wf = true) (lo hi z : Nat) : (m.zero lo hi).byte z = if lo ≤ z ∧ z < hi then unwritten else m.byte z := by
  have hmem {e : Nat × Byte} : e ∈ sclear lo hi m.cells ↔ e ∈ m.cells ∧ ¬ (lo ≤ e.1 ∧ e.1 < hi) := by
    rw [sclear, List.mem_filter, ← Bool.decide_and, ← decide_not, decide_eq_true_iff]
  split
  next hin => exact sget_of_not_mem fun e he hz => (hmem.mp he).2 (hz ▸ hin)
  next hout =>
    by_cases hlist : ∃ e ∈ m.cells, e.1 = z
    · obtain ⟨e, he, rfl⟩ := hlist
      exact (sget_of_mem (m.wf_zero lo hi h) (hmem.mpr ⟨he, hout⟩)).trans (sget_of_mem h he).symm
    · have hno : ∀ e ∈ m.cells, e.1 ≠ z := fun e he hz => hlist ⟨e, he, hz⟩
      exact (sget_of_not_mem fun e he => hno e (hmem.mp he).1).trans (sget_of_not_mem hno).symm

/-! ### Entries put one by one -/

/-- A step that puts an entry at its place: where nothing stands its value stands then, and every other byte stays. -/
structure PutsAt {σ : Type} (read : σ → Nat → Byte) (inv : σ → Prop) (place : Nat → Nat) (step : σ → Nat × Byte → σ) : Prop where
  keeps : ∀ s e, inv s → inv (step s e)
  self : ∀ s e, inv s → read s (place e.1) = unwritten → read (step s e) (place e.1) = e.2
  other : ∀ s e z, inv s → place e.1 ≠ z → read (step s e) z = read s z

section
variable {σ : Type} {read : σ → Nat → Byte} {inv : σ → Prop} {place : Nat → Nat} {step : σ → Nat × Byte → σ} (h : PutsAt read inv place step)
include h

theorem PutsAt.foldl_other (l : List (Nat × Byte)) {s : σ} (hs : inv s) {z : Nat} (hz : ∀ e ∈ l, place e.1 ≠ z) : read (l.foldl step s) z = read s z := by
  induction l generalizing s with
  | nil => rfl
  | cons e l ih =>
    obtain ⟨he, hl⟩ := List.forall_mem_cons.mp hz
    exact (ih (h.keeps s e hs) hl).trans (h.other s e z hs he)

theorem PutsAt.foldl_self {l : List (Nat × Byte)} {s : σ} (hs : inv s) (hl : l.Pairwise fun x y => place x.1 ≠ place y.1)
    (hfree : ∀ e ∈ l, read s (place e.1) = unwritten) {e : Nat × Byte} (he : e ∈ l) : read (l.foldl step s) (place e.1) = e.2 := by
  induction l generalizing s with
  | nil => cases he
  | cons x l ih =>
    obtain ⟨hx, hl⟩ := List.pairwise_cons.mp hl
    obtain ⟨hfx, hfl⟩ := List.forall_mem_cons.mp hfree
    rcases List.mem_cons.mp he with rfl | he
    · exact (h.foldl_other l (h.keeps s e hs) fun y hy => (hx y hy).symm).trans (h.self s e hs hfx)
    · exact ih (h.keeps s x hs) hl (fun y hy => (h.other s x _ hs (hx y hy)).trans (hfl y hy)) he

end

theorem putsAt_sput (place : Nat → Nat) : PutsAt (sget unwritten) (fun l => swf unwritten l = true) place fun l e => sput unwritten l (place e.1) e.2 where
  keeps _ _ h := swf_sput _ _ _ _ h
  self _ _ h _ := sget_sput_self _ _ _ _ none h
  other _ _ _ h hz := sget_sput_other _ _ _ _ _ none h hz.symm

/-! ### A region copied -/

section
variable {m : Memory} (h : m.wf = true) (src dst n : Nat)
include h

/-- R274: a copied region holds the bytes of its source, as they were before. -/
theorem Memory.byte_copyRegion {i : Nat} (hi : i < n) : (m.copyRegion src dst n).byte (dst + i) = m.byte (src + i) := by
  have hputs := putsAt_sput fun k => k - src + dst
  have hz : (m.zero dst (dst + n)).wf = true := m.wf_zero _ _ h
  have hzero (z : Nat) (hlo : dst ≤ z) (hhi : z < dst + n) : (m.zero dst (dst + n)).byte z = unwritten := by rw [Memory.byte_zero h, if_pos ⟨hlo, hhi⟩]
  have hinside {e : Nat × Byte} : e ∈ m.cells.filter (fun e => decide (src ≤ e.1) && decide (e.1 < src + n)) ↔ e ∈ m.cells ∧ src ≤ e.1 ∧ e.1 < src + n := by
    simp [List.mem_filter]
  by_cases hlist : ∃ e ∈ m.cells, e.1 = src + i
  · obtain ⟨e, he, hkey⟩ := hlist
    have hmem := hinside.mpr ⟨he, by omega, by omega⟩
    have hself := hputs.foldl_self (s := (m.zero dst (dst + n)).cells) hz ?distinct ?free hmem
    case distinct =>
      refine ((swf_pairwise h).filter _).imp_of_mem fun hx hy hlt => ?_
      have := (hinside.mp hx).2
      have := (hinside.mp hy).2
      omega
    case free =>
      intro x hx
      have := (hinside.mp hx).2
      exact hzero _ (by omega) (by omega)
    have hplace : e.1 - src + dst = dst + i := by omega
    rw [hplace] at hself
    exact hself.trans ((sget_of_mem h he).symm.trans (by rw [hkey]; rfl))
  · have hno : ∀ e ∈ m.cells, e.1 ≠ src + i := fun e he hk => hlist ⟨e, he, hk⟩
    refine (hputs.foldl_other _ hz (z := dst + i) fun e he => ?_).trans ((hzero _ (by omega) (by omega)).trans (sget_of_not_mem hno).symm)
    obtain ⟨he, hlo, hhi⟩ := hinside.mp he
    have := hno e he
    omega

theorem Memory.byte_copyRegion_outside {z : Nat} (hz : z < dst ∨ dst + n ≤ z) : (m.copyRegion src dst n).byte z = m.byte z := by
  refine ((putsAt_sput fun k => k - src + dst).foldl_other _ (m.wf_zero dst (dst + n) h) fun e he => ?_).trans ?_
  · have hin : src ≤ e.1 ∧ e.1 < src + n := by simpa using (List.mem_filter.mp he).2
    omega
  · exact (Memory.byte_zero h ..).trans (if_neg (by omega))

end

/-! ### Bytes put over a region -/

theorem putsAt_blit (a : Nat) : PutsAt Memory.byte (fun m => m.wf = true) (a + ·)
    fun (k : Memory) e => if e.2 = unwritten then k else { k with cells := sput unwritten k.cells (a + e.1) e.2 } where
  keeps k e h := by
    split
    · exact h
    · exact swf_sput _ _ _ _ h
  self k e h hfree := by
    split
    next he => exact hfree.trans he.symm
    · exact sget_sput_self _ _ _ _ none h
  other k e z h hz := by
    split
    · rfl
    · exact sget_sput_other _ _ _ _ _ none h (Ne.symm hz)

section
variable {m : Memory} (h : m.wf = true) (a : Nat) (bs : List Byte)
include h

theorem Memory.byte_blit {i : Nat} (hi : i < bs.length) : (m.blit a bs).byte (a + i) = bs[i] := by
  have hmem : (i, bs[i]) ∈ (List.range bs.length).zip bs := List.mem_iff_getElem.mpr ⟨i, by simpa using hi, by simp⟩
  refine (putsAt_blit a).foldl_self (m.wf_zero _ _ h) ?distinct ?free hmem
  case distinct =>
    have hfst : (((List.range bs.length).zip bs).map Prod.fst).Pairwise (· < ·) := by
      rw [List.map_fst_zip (by simp)]
      exact List.pairwise_lt_range
    exact (List.pairwise_map.mp hfst).imp fun hlt => by omega
  case free =>
    intro e he
    have hlt := List.mem_range.mp (List.of_mem_zip he).1
    exact (Memory.byte_zero h ..).trans (if_pos (by omega))

theorem Memory.byte_blit_outside {z : Nat} (hz : z < a ∨ a + bs.length ≤ z) : (m.blit a bs).byte z = m.byte z := by
  refine ((putsAt_blit a).foldl_other _ (m.wf_zero _ _ h) fun e he => ?_).trans ((Memory.byte_zero h ..).trans (if_neg (by omega)))
  have hlt := List.mem_range.mp (List.of_mem_zip he).1
  omega

end

/-! ### The image of a context (Tables 9.7 to 9.9) -/

theorem length_padTo (n : Nat) (bs : List Byte) : (padTo n bs).length = max n bs.length := by
  rw [padTo, List.length_append, List.length_replicate]
  omega
theorem padTo_begins (n : Nat) (bs : List Byte) : bs <+: padTo n bs := List.prefix_append ..

/-- Equal parts laid one behind the other. -/
theorem getElem?_flatMap_of_const {α β : Type} {f : α → List β} {n : Nat} (hf : ∀ x, (f x).length = n) (l : List α) {i j : Nat} (hj : j < n) :
    (l.flatMap f)[n * i + j]? = l[i]?.bind fun x => (f x)[j]? := by
  induction l generalizing i with
  | nil => simp
  | cons x l ih =>
    rw [List.flatMap_cons]
    cases i with
    | zero => rw [List.getElem?_append_left (by rw [hf]; omega)]; simp
    | succ i => rw [List.getElem?_append_right (by rw [hf, Nat.mul_succ]; omega), hf, show n * (i + 1) + j - n = n * i + j by rw [Nat.mul_succ]; omega, ih]; simp

/-- Table 9.8: the register image begins with the s registers. -/
theorem Core.registerImage_begins (c : Core) : (c.s.toList.flatMap fun x => bytesOf 8 x.toNat) <+: c.registerImage := by
  have behind {l x : List Byte} (y : List Byte) (h : l <+: x) : l <+: x ++ y := h.trans (List.prefix_append x y)
  have padded {l x : List Byte} (n : Nat) (h : l <+: x) : l <+: padTo n x := h.trans (padTo_begins n x)
  exact behind _ (padded _ (behind _ (behind _ (behind _ (behind _ (behind _ (behind _ (padded _ (behind _ (padded _ (behind _ (padded _
    (behind _ (behind _ (List.prefix_append ..)))))))))))))))

theorem Tree.length_records (t : Tree) : t.records.length = 0x800 := by
  rw [Tree.records, length_flatMap_of_const (n := 8) fun _ _ => length_bytesOf .., List.length_range]

theorem Core.length_registerImage (c : Core) : c.registerImage.length = 0x6000 := by
  have parts {α : Type} {n k : Nat} (xs : Vector α k) (f : α → List Byte) (hf : ∀ x, (f x).length = n) : (xs.toList.flatMap f).length = n * k := by
    rw [length_flatMap_of_const fun x _ => hf x, Vector.length_toList]
  have hs := parts c.s (fun x => bytesOf 8 x.toNat) fun _ => length_bytesOf ..
  have hm := parts c.m (fun x => bytesOf 16 x.toNat) fun _ => length_bytesOf ..
  have hn := parts c.n (fun x => bytesOf 2 x.toNat) fun _ => length_bytesOf ..
  have hh := parts c.h (fun x => bytesOf 16 x.word) fun _ => length_bytesOf ..
  have hw := parts c.w (fun x => bytesOf 64 x.toNat) fun _ => length_bytesOf ..
  have hv := parts c.v (fun x => bytesOf 256 x.toNat) fun _ => length_bytesOf ..
  have hd := parts c.d (fun x => bytesOf 256 x.toNat) fun _ => length_bytesOf ..
  have ht := parts c.tt Tree.records Tree.length_records
  have hp : ((List.finRange 8).flatMap fun i => bytesOf 1 (c.pr i).toNat).length = 8 := length_flatMap_of_const fun _ _ => length_bytesOf ..
  have hl : ([c.ls, c.lc0, c.lc1].flatMap fun x => bytesOf 8 x.toNat).length = 24 := length_flatMap_of_const fun _ _ => length_bytesOf ..
  have hr (g : Nat → Nat) : ((List.range 64).flatMap fun k => bytesOf 8 (g k)).length = 512 := by
    rw [length_flatMap_of_const (n := 8) fun _ _ => length_bytesOf .., List.length_range]
  simp only [Core.registerImage, List.length_append, length_padTo, hs, hm, hn, hh, hw, hv, hd, ht, hp, hl, hr, length_bytesOf]
  decide

/-- Table 9.9: records and messages fill the region of the channel spill. -/
theorem Core.length_spillImage (c : Core) : c.spillImage.length = 0x1_0000 := by
  have hmsgs (e : Endpoint) : (padTo 4032 ((e.msgs.take 63).flatMap (bytesOf 64))).length = 4032 := by
    have := List.length_take_le 63 e.msgs
    rw [length_padTo, length_flatMap_of_const fun _ _ => length_bytesOf ..]
    omega
  rw [Core.spillImage, List.length_append, length_flatMap_of_const (n := 64) fun _ _ => length_bytesOf .., length_flatMap_of_const fun e _ => hmsgs e, Vector.length_toList]

theorem length_registerRegion (c : Core) : (padTo 0x1_0000 c.registerImage).length = 0x1_0000 := by
  rw [length_padTo, Core.length_registerImage]
  rfl

/-- The parts of the image that come first: the accumulators, and the registers behind them. -/
def State.writeRegisters (s : State) (id buf : Nat) (c : Core) : Memory :=
  (s.mem.copyRegion (accKey id 0) (buf + 0x10_0000) 0x4_0000).blit (buf + 0x14_0000) (padTo 0x1_0000 ({ c with ctxBusy := none } : Core).registerImage)

section
variable {s : State} (h : s.mem.wf = true) (id buf : Nat) (c : Core)
include h

theorem State.wf_writeRegisters : (s.writeRegisters id buf c).wf = true := Memory.wf_blit _ _ _ (Memory.wf_copyRegion _ _ _ _ h)

/-- The hidden state and the channel spill stand behind the registers. -/
theorem State.byte_writeImage_rest {z : Nat} (hz : z < buf + 0x15_0000 ∨ buf + 0x19_0000 ≤ z) : (s.writeImage id buf c).byte z = (s.writeRegisters id buf c).byte z := by
  have hwf := State.wf_writeRegisters h id buf c
  refine (Memory.byte_blit_outside (Memory.wf_blit _ _ _ hwf) _ _ ?spill).trans (Memory.byte_blit_outside hwf _ _ ?hidden)
  case spill =>
    rw [length_padTo, Core.length_spillImage]
    omega
  case hidden =>
    rw [List.length_map, List.length_range]
    omega

/-- R274: the image writes nothing outside its part of the buffer. -/
theorem State.byte_writeImage_outside {z : Nat} (hz : z < buf + 0x10_0000 ∨ buf + 0x19_0000 ≤ z) : (s.writeImage id buf c).byte z = s.mem.byte z := by
  have hwf := Memory.wf_copyRegion s.mem (accKey id 0) (buf + 0x10_0000) 0x4_0000 h
  have hlen := length_registerRegion { c with ctxBusy := none }
  exact (State.byte_writeImage_rest h id buf c (by omega)).trans
    ((Memory.byte_blit_outside hwf _ _ (by rw [hlen]; omega)).trans (Memory.byte_copyRegion_outside h _ _ _ (by omega)))

/-- R274: the accumulators stand in the image. -/
theorem State.byte_writeImage_acc {i : Nat} (hi : i < 0x4_0000) : (s.writeImage id buf c).byte (buf + 0x10_0000 + i) = s.mem.byte (accKey id 0 + i) := by
  have hwf := Memory.wf_copyRegion s.mem (accKey id 0) (buf + 0x10_0000) 0x4_0000 h
  exact (State.byte_writeImage_rest h id buf c (by omega)).trans ((Memory.byte_blit_outside hwf _ _ (by omega)).trans (Memory.byte_copyRegion h _ _ _ hi))

/-- Table 9.8: the s registers stand in the image. -/
theorem State.read_writeImage_s (r : SReg) : (s.writeImage id buf c).read (buf + 0x14_0000 + 8 * r.val) 8 = (c.s[r]).toNat := by
  let image := padTo 0x1_0000 ({ c with ctxBusy := none } : Core).registerImage
  have hlen : image.length = 0x1_0000 := length_registerRegion _
  refine (Memory.read_of_bytesOf fun i hi => ?_).trans (Nat.mod_eq_of_lt (c.s[r]).isLt)
  have hi8 : i < 8 := by rwa [length_bytesOf] at hi
  have hr := r.isLt
  have hat : 8 * r.val + i < image.length := by omega
  have hread : (s.writeImage id buf c).byte (buf + 0x14_0000 + 8 * r.val + i) = image[8 * r.val + i] := by
    rw [Nat.add_assoc]
    exact (State.byte_writeImage_rest h id buf c (by omega)).trans (Memory.byte_blit (Memory.wf_copyRegion _ _ _ _ h) _ _ hat)
  have hregs : (c.s.toList.flatMap fun x => bytesOf 8 x.toNat)[8 * r.val + i]? = some (bytesOf 8 (c.s[r]).toNat)[i] := by
    rw [getElem?_flatMap_of_const (fun _ => length_bytesOf ..) _ hi8]
    simp
  obtain ⟨hlt, hval⟩ := List.getElem?_eq_some_iff.mp hregs
  have hpre := (Core.registerImage_begins { c with ctxBusy := none }).trans (padTo_begins 0x1_0000 _)
  exact hread.trans ((hpre.getElem hlt).symm.trans hval)

end

end Sys2Proof.Machine
end

section
/-! Watchdog, pre-emption and the context engine (R271, R273, R274, R275, R323). -/
namespace Sys2Proof.Machine

/-! ### A change of every core of a list -/

section
variable {f : Nat → Core → Core} {l : List Nat} {j : Nat}

theorem State.core_foldl_updCore_other (s : State) (h : j ∉ l) : (l.foldl (fun (s : State) c => s.updCore c (f c)) s).core j = s.core j := by
  induction l generalizing s with
  | nil => rfl
  | cons c l ih =>
    obtain ⟨hne, hl⟩ := List.ne_and_not_mem_of_not_mem_cons h
    exact (ih _ hl).trans (State.core_updCore_other _ _ _ _ hne)

/-- A core of the list is as the last change leaves it. -/
theorem State.core_foldl_updCore_mem (s : State) (h : j ∈ l) : ∃ c, (l.foldl (fun (s : State) c => s.updCore c (f c)) s).core j = f j c := by
  induction l generalizing s with
  | nil => cases h
  | cons c l ih =>
    by_cases hl : j ∈ l
    · exact ih _ hl
    · obtain rfl : j = c := (List.mem_cons.mp h).resolve_right hl
      exact ⟨s.core j, (State.core_foldl_updCore_other _ hl).trans (State.core_updCore_self ..)⟩

theorem State.mem_foldl_updCore (s : State) : (l.foldl (fun (s : State) c => s.updCore c (f c)) s).mem = s.mem := foldl_keeps (fun (s : State) c => s.updCore c (f c)) State.mem (fun _ _ => rfl) l s
theorem State.launches_foldl_updCore (s : State) : (l.foldl (fun (s : State) c => s.updCore c (f c)) s).launches = s.launches :=
  foldl_keeps (fun (s : State) c => s.updCore c (f c)) State.launches (fun _ _ => rfl) l s

end

/-! ### Endpoints brought back (R274, R297) -/

/-- A core but for its endpoints. -/
def Core.noEndpoints (c : Core) : Core := { c with endpoints := Core.reset.endpoints }

theorem Retains.updEp {s t : State} {id : Nat} {ch : Chan} {g : Endpoint → Endpoint} (h : Retains Core.noEndpoints s t) :
    Retains Core.noEndpoints s (t.updCore id fun c => c.updEp ch g) := h.updCore fun _ => rfl

theorem Retains.resendSome (s : State) (core : Nat) (ch : Chan) (n : Nat) : Retains Core.noEndpoints s (s.resendSome core ch n) := by
  unfold State.resendSome
  dsimp only
  exact .trans (.updEp (.refl s)) (.foldl fun t _ => .toPeer (.refl t))

theorem Retains.resendNow (s : State) (core : Nat) (ch : Chan) : Retains Core.noEndpoints s (s.resendNow core ch) := by
  unfold State.resendNow
  dsimp only
  exact .ite (.refl s) (.ite (.updEp (.refl s)) (.resendSome ..))

theorem Retains.resendFabric (s : State) (core : Nat) (ch : Chan) : Retains Core.noEndpoints s (s.resendFabric core ch) := by
  unfold State.resendFabric
  dsimp only
  exact .ite (.refl s) (.post (.sendRows (.updRoute (.updEp (.refl s)))))

theorem Retains.resendAny (s : State) (core : Nat) (ch : Chan) : Retains Core.noEndpoints s (s.resendAny core ch) := .trans (.resendNow s core ch) (.resendFabric _ core ch)

theorem Retains.restoreEp (s : State) (core : Nat) (ch : Chan) : Retains Core.noEndpoints s (s.restoreEp core ch) := by
  unfold State.restoreEp
  dsimp only
  exact .ite (.updRoute (.updEp (.refl s))) (.ite (.refl s) (.toPeer (.updEp (.refl s))))

theorem Retains.repost (s : State) (id : Nat) : Retains Core.noEndpoints s (s.repost id) := by
  unfold State.repost
  dsimp only
  exact .trans (.ite (.post (.ite (.refl s) (.post (.refl s)))) (.ite (.refl s) (.post (.refl s)))) (.foldl fun t _ => .ite (.post (.refl t)) (.refl t))

/-! ### The verdict on a load (R259) -/

/-- What CERR, bit 35 of XSTAT, tells when the context engine is done: whether a load was rejected; a save leaves it. -/
def CtxRun.verdict (run : CtxRun) (x : Word) : Word :=
  match run with
  | .save => x
  | .load => x &&& ~~~0x8_0000_0000
  | .rejected => x ||| 0x8_0000_0000

theorem getLsbD_cerr {b : Nat} (h : b < 64) : (0x8_0000_0000 : Word).getLsbD b = decide (b = 35) := by
  revert b
  decide

theorem CtxRun.verdict_cerr (run : CtxRun) (x : Word) : (run.verdict x).getLsbD 35 = match run with | .save => x.getLsbD 35 | .load => false | .rejected => true := by
  cases run with
  | save => rfl
  | load => rw [verdict, BitVec.getLsbD_and, BitVec.getLsbD_not, getLsbD_cerr (by decide)]; simp
  | rejected => rw [verdict, BitVec.getLsbD_or, getLsbD_cerr (by decide)]; simp

theorem CtxRun.verdict_other (run : CtxRun) (x : Word) {b : Nat} (hb : b < 64) (hne : b ≠ 35) : (run.verdict x).getLsbD b = x.getLsbD b := by
  cases run with
  | save => rfl
  | load => rw [verdict, BitVec.getLsbD_and, BitVec.getLsbD_not, getLsbD_cerr hb]; simp [hb, hne]
  | rejected => rw [verdict, BitVec.getLsbD_or, getLsbD_cerr hb]; simp [hne]

/-! ### The context engine -/

section
variable {s : State} {id : Nat} (hat : Claims.At s (.core id))
include hat

section
variable {l : Launch} (hl : s.launchOf id = some l)
include hl

/-- R274: a save waits until nothing of the core is on its way. -/
theorem execCsave_waits (hb : (s.core id).ctxBusy = some .save) (hs : (s.core id).settled = false) : execCsave s = .next s := by
  have hcur : s.cur = .event (.core id) := hat
  simp only [execCsave, hcur, hb, hl, hs, Bool.not_false, if_true]

/-- R274: a save of a settled core with a clean cache writes the image, and its end waits. -/
theorem execCsave_saves (hb : (s.core id).ctxBusy = some .save) (hs : (s.core id).settled = true) (hd : (s.core id).dirtyLines = []) :
    let c := { s.core id with cache := [] }
    ∃ h, execCsave s = .next ((((({ s with mem := s.writeImage id c.contextBuffer c, hidden := h } : State).setCore id c).unpost .csave (.core id))).post .contextEngineDone (.core id)) := by
  have hcur : s.cur = .event (.core id) := hat
  simp only [execCsave, hcur, hb, hl, hs, hd, Bool.not_true, Bool.false_eq_true, if_false, List.isEmpty_nil]
  exact ⟨_, rfl⟩

/-- R274: a load whose buffer holds no good image is rejected. -/
theorem execCload_rejects (hb : (s.core id).ctxBusy = some .load) (hi : s.imageIn (s.core id).contextBuffer l.id id = none) :
    execCload s = .next (((s.unpost .cload (.core id)).updCore id fun c => { c with ctxBusy := some .rejected }).post .contextEngineDone (.core id)) := by
  have hcur : s.cur = .event (.core id) := hat
  simp only [execCload, hcur, hb, hl, hi]

/-- R274: a load of a good image restores the core, but for its endpoints' allowances. -/
theorem execCload_restores (hb : (s.core id).ctxBusy = some .load) {h : Hidden} (hi : s.imageIn (s.core id).contextBuffer l.id id = some h) :
    ∃ t : State, execCload s = .next (t.post .contextEngineDone (.core id)) ∧ (t.core id).noEndpoints = ((s.core id).restored h.core).noEndpoints := by
  have hcur : s.cur = .event (.core id) := hat
  simp only [execCload, hcur, hb, hl, hi]
  refine ⟨_, rfl, ?_⟩
  rw [(Retains.repost ..).core, (Retains.foldl fun t k => .resendAny t id k).core, (Retains.foldl fun t k => .restoreEp t id k).core, State.core_setCore_self]

end

/-- R259, R274: the context engine of a launch with a handler of its own leaves its verdict. -/
theorem execContextEngineDone_own {l : Launch} (hl : s.launchOf id = some l) (ho : l.ownHandler = true) {run : CtxRun} (hb : (s.core id).ctxBusy = some run) :
    execContextEngineDone s =
      .next ((s.unpost .contextEngineDone (.core id)).updCore id fun c => { c with ctxBusy := none, sp := { c.sp with xstat := run.verdict c.sp.xstat } }) := by
  have hcur : s.cur = .event (.core id) := hat
  have hl' (f : Core → Core) : ((s.unpost .contextEngineDone (.core id)).updCore id f).launchOf id = some l := hl
  simp only [execContextEngineDone, hcur, hb, hl', ho, if_true]
  rfl

end

end Sys2Proof.Machine

namespace Sys2Proof.Proofs
open Sys2Proof Sys2Proof.Machine Sys2Proof.Claims

section
variable {s : State} {l : Launch} (hat : At s (.launch l.id)) (hfind : s.launches.find? (fun k => k.id == l.id) = some l)
include hat hfind

/-- R271: the watchdog leaves its cause at every running core of its launch. -/
theorem watchdogCauses : leadsTo .watchdog s fun u =>
    u.mem = s.mem ∧ (∀ c ∈ l.cores, (s.core c).run = .running → ∃ w, ⟨0x13, w, false⟩ ∈ (u.core c).causes) ∧ ∀ c, c ∉ l.cores → u.core c = s.core c := by
  have hcur : s.cur = .event (.launch l.id) := hat
  let any := (((s.liveCores l).filterMap fun c => (s.core c).waitKind).head?).getD 0
  let f (_ : Nat) (k : Core) : Core := { k with causes := k.causes ++ [⟨0x13, (k.waitKind).getD any, false⟩] }
  refine ⟨(s.liveCores l).foldl (fun (s : State) c => s.updCore c (f c)) s, ?run, State.mem_foldl_updCore s, fun c hc hrun => ?cause, fun c hc => ?others⟩
  case run => simp only [exec_watchdog, execWatchdog, hcur, hfind]; rfl
  case cause =>
    obtain ⟨k, hk⟩ := State.core_foldl_updCore_mem (f := f) s (show c ∈ s.liveCores l from List.mem_filter.mpr ⟨hc, by simp [Core.live, hrun]⟩)
    refine ⟨(k.waitKind).getD any, ?_⟩
    rw [hk]
    exact List.mem_append_right _ List.mem_cons_self
  case others => exact State.core_foldl_updCore_other s fun h => hc (List.mem_filter.mp h).1

variable (hphase : l.phase = .running) (hstart : l.started = true) (hrun : ∀ c ∈ l.cores, (s.core c).run = .running)
include hphase hstart hrun

/-- R273, R323: a request of pre-emption waits for the porter runs, and then leaves its cause at every core of its launch. -/
theorem preemptCauses : (s.runsOf l.ctag = true → exec .preempt s = .next s) ∧ (s.runsOf l.ctag = false → leadsTo .preempt s fun u =>
    u.mem = s.mem ∧ (∀ c ∈ l.cores, (⟨0x0D, sget 0 l.buffers c % 2 ^ 48, false⟩ : Cause) ∈ (u.core c).causes) ∧ (∀ c, c ∉ l.cores → u.core c = s.core c) ∧
      ∃ k ∈ u.launches, k.id = l.id ∧ k.phase = .preempting) := by
  have hcur : s.cur = .event (.launch l.id) := hat
  have hgoes : ¬ (l.phase ≠ .running ∨ ¬ l.started = true ∨ (l.cores.any fun c => !(s.core c).live) = true) := by
    simpa [hphase, hstart, Core.live] using hrun
  refine ⟨fun hr => ?waits, fun hr => ?goes⟩
  case waits => simp only [exec_preempt, execPreempt, hcur, hfind, if_neg hgoes, hr, if_true]
  case goes =>
    let f (c : Nat) (k : Core) : Core := { k with causes := k.causes ++ [⟨0x0D, (sget 0 l.buffers c) % 2 ^ 48, false⟩] }
    let t := (s.unpost .preempt (.launch l.id)).setLaunch { l with phase := .preempting }
    refine ⟨l.cores.foldl (fun (s : State) c => s.updCore c (f c)) t, ?run, State.mem_foldl_updCore t, fun c hc => ?cause, fun c hc => ?others, ?phase⟩
    case run => simp only [exec_preempt, execPreempt, hcur, hfind, if_neg hgoes, hr, Bool.false_eq_true, if_false]; rfl
    case cause =>
      obtain ⟨k, hk⟩ := State.core_foldl_updCore_mem (f := f) t hc
      rw [hk]
      exact List.mem_append_right _ List.mem_cons_self
    case others => exact State.core_foldl_updCore_other t hc
    case phase =>
      rw [State.launches_foldl_updCore]
      exact ⟨{ l with phase := .preempting }, List.mem_map.mpr ⟨l, List.mem_of_find?_eq_some hfind, if_pos rfl⟩, rfl, rfl⟩

end

/-- Settles O37: a change of every core of the launch for the watchdog and pre-emption; the image by its regions; what a restored core keeps of the image; and the verdict's one bit. -/
theorem supervisorEvents : Obligations.SupervisorEvents := by
  refine ⟨fun s l hat hfind => ⟨watchdogCauses hat hfind, fun hp hs hr => (preemptCauses hat hfind hp hs hr).1, fun hp hs hr => (preemptCauses hat hfind hp hs hr).2⟩,
    fun s id l hat hl hwf => ?image, fun s id l run hat hl ho hb => ?done⟩
  case image =>
    intro c buf
    refine ⟨fun hb hs => (exec_csave s).trans (execCsave_waits hat hl hb hs), fun hb hs hd => ?save, fun hb h hi => ?load, fun hb hi => ?reject⟩
    case save =>
      obtain ⟨hidden, hrun⟩ := execCsave_saves hat hl hb hs hd
      refine ⟨_, (exec_csave s).trans hrun, ?own, fun j hj => ?others, State.mem_pending_post .., fun i hi => ?acc, fun z hz => ?outside, fun r => ?regs⟩
      case own => rw [State.core_post, State.core_unpost, State.core_setCore_self]
      case others => rw [State.core_post, State.core_unpost, State.core_setCore_other _ _ _ _ hj]; rfl
      all_goals rw [State.post_mem]
      case acc => exact State.byte_writeImage_acc hwf id buf _ hi
      case outside => exact State.byte_writeImage_outside hwf id buf _ hz
      case regs => exact State.read_writeImage_s hwf id buf _ r
    case load =>
      obtain ⟨t, hrun, hcore⟩ := execCload_restores hat hl hb hi
      refine ⟨_, (exec_cload s).trans hrun, ?_⟩
      dsimp only
      rw [State.core_post]
      have kept {α : Type} (p : Core → α) : p (t.core id).noEndpoints = p ((s.core id).restored h.core).noEndpoints := congrArg p hcore
      exact ⟨kept Core.s, kept Core.v, kept Core.d, kept Core.m, kept Core.p, kept Core.w, kept Core.sp, kept Core.pc, kept Core.run, State.mem_pending_post ..⟩
    case reject =>
      refine ⟨_, (exec_cload s).trans (execCload_rejects hat hl hb hi), ?_, State.mem_pending_post ..⟩
      rw [State.core_post, State.core_updCore_self, State.core_unpost]
  case done =>
    refine ⟨_, (exec_contextEngineDone s).trans (execContextEngineDone_own hat hl ho hb), ⟨fun j hj => ?others, rfl, rfl, rfl⟩, ?_⟩
    case others => rw [State.core_updCore_other _ _ _ _ hj, State.core_unpost]
    rw [State.core_updCore_self, State.core_unpost]
    exact ⟨rfl, run.verdict_cerr _, fun b hb hne => run.verdict_other _ hb hne⟩

end Sys2Proof.Proofs
end

section
/-! Group operations and channels at issue: the message path, messages taken, and what considering a slot finds (R63, R283, R285, R294). -/
namespace Sys2Proof.Machine

/-! ### The message path, and messages taken -/

section
variable {s : State} {id : Nat} {k : Slot} {srcs : List (Nat × Src)} {body : View → Plan}

/-- An operation of a group or of a channel reserves its cycles of the message path, puts its results in flight, and does the rest beyond its core (R283). -/
theorem primOp_path (hi : Claims.Issuing s id k) (hu : Claims.Unbound s id) {group : Option (Nat × Nat)} {path : List Nat} {lands : List Land} {f : State → State}
    (hq : (body (viewOf s id k)).effects = { group, msgPath := path, lands, updS := f }) :
    primOp srcs body s = .next (f (s.setCore id { s.core id with
      flights := (s.core id).flights ++ lands.map (fun l => l.flight (s.core id) k), msgPath := (s.core id).msgPath ++ path.map ((s.core id).ic + ·) })) := by
  rw [primOp_effects hi hu hq rfl fun _ => rfl]
  simp

/-- What a plan takes from an endpoint is marked after all else of its issue (R294). -/
theorem Core.issue_taking {c : Core} (h : c.unbound) {p : Plan} {t : Nat × Nat} (ht : p.take = some t) :
    let d := c.issue k none srcs { p.effects with take := none }
    c.issue k none srcs p = { d with taken := d.taken ++ [⟨t.1, t.2, none⟩] } := by
  simp only [Core.issue, Option.isSome_none, Bool.false_eq_true, if_false, c.popFault_unbound h, Plan.unfed_none, ht]
  rfl

/-- A receive marks the messages it takes, and puts its results in flight. -/
theorem primOp_receives (hi : Claims.Issuing s id k) (hu : Claims.Unbound s id) {t : Nat × Nat} {lands : List Land}
    (hq : (body (viewOf s id k)).effects = { lands, take := some t }) :
    primOp srcs body s = .next (s.setCore id { s.core id with
      flights := (s.core id).flights ++ lands.map (fun l => l.flight (s.core id) k), taken := (s.core id).taken ++ [⟨t.1, t.2, none⟩] }) := by
  have ht : (body (viewOf s id k)).take = some t := congrArg Plan.take hq
  have hrest : (body (viewOf s id k)).updS = fun s => s := congrArg Plan.updS hq
  have hscrub : (body (viewOf s id k)).scrub = [] := congrArg Plan.scrub hq
  rw [primOp_issue srcs body s id k hi.1 hi.2, Core.issue_taking hu ht, hq, Core.issue_unbound _ hu _ _ _ rfl fun _ => rfl, hrest, hscrub]
  simp

end

/-! ### What considering a slot finds -/

/-- Marking what the bundle pops and takes leaves the results in flight. -/
theorem Core.flights_markPops (c : Core) (srcs : List (Nat × Src)) (take : Option (Nat × Nat)) : (c.markPops srcs take).flights = c.flights := by
  unfold Core.markPops
  have marked : (c.markPops srcs none).flights = c.flights := by
    refine foldl_keeps _ Core.flights (fun d x => ?_) (c.portsRead srcs) c
    split
    · rfl
    · split <;> rfl
  cases take with
  | none => exact marked
  | some t => exact marked

/-- The record of a slot that is considered holds the traps, the wait and the pick of its plan; nothing is put in flight. -/
theorem primOp_finds {t : State} {id : Nat} {k : Slot} {srcs : List (Nat × Src)} {body : View → Plan} (ht : t.cur = .slot id k false) (hc : (t.core id).resumeCaps = []) :
    let p := body (viewOf t id k)
    ∃ u l, primOp srcs body t = .next u ∧ u.mem = t.mem ∧ (u.core id).looked = (t.core id).looked ++ [l] ∧ (u.core id).flights = (t.core id).flights ∧ l.slot = k ∧
      l.traps = p.traps ∧ l.pick = p.pick ∧ ∀ w, p.wait = some w → l.wait = some w := by
  intro p
  refine ⟨_, _, primOp_look srcs body t id k ht hc, rfl, by rw [State.core_setCore_self]; rfl, ?flights, rfl, rfl, rfl, fun w hw => ?wait⟩
  case flights =>
    rw [State.core_setCore_self]
    exact (t.core id).flights_markPops srcs p.take
  case wait =>
    have hw' : (body (viewOf t id k)).wait = some w := hw
    rw [hw']

end Sys2Proof.Machine
end

section
/-! Barriers and exchanges of a group (R285 to R289). -/
namespace Sys2Proof.Machine

/-- The largest of a list of numbers, or 0 where there is none above it. -/
theorem foldl_max_zero (l : List Nat) : (∀ x ∈ l, x ≤ l.foldl max 0) ∧ (l.foldl max 0 = 0 ∨ l.foldl max 0 ∈ l) := by
  rw [List.foldl_max, Nat.zero_max]
  cases h : l.max? with
  | none => rw [List.max?_eq_none_iff.mp h]; exact ⟨fun _ hx => absurd hx List.not_mem_nil, .inl rfl⟩
  | some m =>
    obtain ⟨hm, hle⟩ := List.max?_eq_some_iff.mp h
    exact ⟨hle, .inr hm⟩

/-- The operand of an XCHG at a place of the cluster: `x` where that is the core itself, else that of the member there (R287). -/
def State.peerOperand (s : State) (l : Launch) (id x j : Nat) : Nat :=
  let peer := coreId (coreZ id) (coreX id / 4 * 4 + j % 4) (coreY id / 4 * 4 + j / 4)
  if peer = id then x else if l.holds peer = true then (s.core peer).xchgValue else 0

/-- The slice of an operand that goes to a core: the one its place in the cluster names. -/
def clusterSlice (id x : Nat) : Nat := x / 2 ^ (128 * (4 * (coreY id % 4) + coreX id % 4)) % 2 ^ 128

/-- XCHG reserves the message path for four cycles, and lands its slices of the operands of its cluster. -/
theorem execXchg_lands {s : State} {id : Nat} {k : Slot} (hi : Claims.Issuing s id k) (hu : Claims.Unbound s id) (d : VReg) (b : VSrc) {l : Launch} (hl : s.launchOf id = some l) :
    let c := s.core id
    let slices := (List.range 16).map fun j => clusterSlice id (s.peerOperand l id (c.vv b).toNat j)
    exec (.xchg d b) s = .next (s.setCore id { c with
      flights := c.flights ++ [Claims.inFlight c k (.v d) 20 (packElems 128 slices)], msgPath := c.msgPath ++ sendPath.map (c.ic + ·) }) := by
  intro c slices
  refine (exec_xchg ..).trans (primOp_path hi hu (f := fun s => s) (group := some (1, 0)) (lands := [landV d 20 (packElems 128 slices)]) ?_)
  have hslice (j : Nat) : clusterSlice id (s.peerOperand l id (c.vv b).toNat j) =
      let peer := coreId (coreZ id) (coreX id / 4 * 4 + j % 4) (coreY id / 4 * 4 + j / 4)
      if peer = id then clusterSlice id (c.vv b).toNat else if l.holds peer = true then clusterSlice id (s.core peer).xchgValue else 0 := by
    have hzero : clusterSlice id 0 = 0 := by rw [clusterSlice, Nat.zero_div, Nat.zero_mod]
    simp only [State.peerOperand, apply_ite (clusterSlice id), hzero]
  simp only [Plan.effects, View.v_live, hl, Option.map_some, Option.getD_some, slices, funext hslice]
  rfl

/-- What the core at a place of an XMAX's row gives: its SCALEL where it carries one, else 0 (R288). -/
def State.maxOperand (s : State) (l : Launch) (id j : Nat) : Nat :=
  let m := coreId (coreZ id) (l.x0 + j) (coreY id)
  if (s.core m).carriesXmax = true ∨ m = id then (s.core m).sp.scalel.toNat else 0

theorem State.maxOperand_lt (s : State) (l : Launch) (id j : Nat) : s.maxOperand l id j < 2 ^ 16 := by
  unfold State.maxOperand
  dsimp only
  split
  · exact BitVec.isLt _
  · decide

/-- XMAX lands the row's operands, packed, and the largest of them. -/
theorem execXmax_lands {s : State} {id : Nat} {k : Slot} (hi : Claims.Issuing s id k) (hu : Claims.Unbound s id) (d : VReg) {l : Launch} (hl : s.launchOf id = some l) :
    let c := s.core id
    let row := (List.range l.width).map (s.maxOperand l id)
    exec (.xmax d) s = .next (s.setCore id { c with
      flights := c.flights ++ [Claims.inFlight c k (.v d) 18 (packElems 16 row), Claims.inFlight c k .scalel 18 (row.foldl max 0) (latch := false)], msgPath := c.msgPath ++ [c.ic] }) := by
  intro c row
  refine (exec_xmax ..).trans (primOp_path hi hu (f := fun s => s) (group := some (2, 0)) (path := [0])
    (lands := [landV d 18 (packElems 16 row), { dest := .scalel, lat := 18, val := row.foldl max 0, latch := false }]) ?_)
  have hop (j : Nat) : s.maxOperand l id j = if ((s.core (coreId (coreZ id) (l.x0 + j) (coreY id))).carriesXmax || coreId (coreZ id) (l.x0 + j) (coreY id) == id) = true
      then (s.core (coreId (coreZ id) (l.x0 + j) (coreY id))).sp.scalel.toNat else 0 := by
    simp only [State.maxOperand, Bool.or_eq_true, beq_iff_eq]
  simp only [Plan.effects, hl, row, funext hop]

end Sys2Proof.Machine

namespace Sys2Proof.Proofs
open Sys2Proof Sys2Proof.Machine Sys2Proof.Claims

/-- Settles O24: each operation by what it puts in flight; the elements of an exchange by their positions, and the maximum by the largest of the row. -/
theorem groupOperations : Obligations.GroupOperations := by
  intro s id k hi hu g d b l hl c mine peer path
  refine ⟨?gbar, ⟨_, execXchg_lands hi hu d b hl, fun j hj => ?slice⟩, ⟨_, _, execXmax_lands hi hu d hl, ?elements, ?above, ?largest⟩⟩
  case gbar =>
    refine (exec_gbar ..).trans ((primOp_path hi hu (path := []) (lands := []) (f := fun s => s) rfl).trans ?_)
    simp [c]
  case slice => exact (packElems_map_range 128 16 _ hj).trans (Nat.mod_eq_of_lt (Nat.mod_lt _ (Nat.two_pow_pos 128)))
  case elements => exact fun j hj _ => (packElems_map_range 16 l.width _ hj).trans (Nat.mod_eq_of_lt (s.maxOperand_lt l id j))
  case above => exact fun j hj => (foldl_max_zero _).1 _ (List.mem_map_of_mem (List.mem_range.mpr hj))
  case largest =>
    refine (foldl_max_zero _).2.imp_right fun hmem => ?_
    obtain ⟨j, hj, heq⟩ := List.mem_map.mp hmem
    exact ⟨j, List.mem_range.mp hj, heq.symm⟩

end Sys2Proof.Proofs
end

section
/-! Control of channels, and alternation among them (R295 to R300). -/
namespace Sys2Proof.Machine

/-! ### The pick of an alternation (R299) -/

/-- The first of a row of candidates that passes a test, or none where no one does. -/
theorem find?_map_range {α : Type} (f : Nat → α) (p : α → Bool) (n : Nat) :
    (((List.range n).map f).find? p = none ∧ ∀ i, i < n → ¬ p (f i) = true) ∨
      ∃ i, i < n ∧ ((List.range n).map f).find? p = some (f i) ∧ p (f i) = true ∧ ∀ j, j < i → ¬ p (f j) = true := by
  rw [List.find?_map]
  cases h : (List.range n).find? (p ∘ f) with
  | none => exact .inl ⟨rfl, fun i hi => List.find?_eq_none.mp h i (List.mem_range.mpr hi)⟩
  | some i =>
    obtain ⟨hp, hi, hbefore⟩ := List.find?_range_eq_some.mp h
    exact .inr ⟨i, List.mem_range.mp hi, rfl, hp, fun j hj => by simpa using hbefore j hj⟩

/-- An endpoint can be picked from a set of 16: it is of the set and ready. -/
theorem pickable_iff (x : Nat) (ready : Bool) {n : Nat} (hn : n < 16) : (bits (x % 65536) n n == 1 && ready) = true ↔ x.testBit n = true ∧ ready = true := by
  have hbit : (x % 2 ^ 16).testBit n = x.testBit n := by rw [Nat.testBit_mod_two_pow, decide_eq_true hn, Bool.true_and]
  rw [bits_self, show (65536 : Nat) = 2 ^ 16 from rfl, hbit, Bool.and_eq_true]
  cases x.testBit n <;> simp

/-- A slot that is considered for the first time picks the first endpoint after the pointer that is of the set and ready. -/
theorem View.altPick_first {v : View} (hseen : v.c.looked.find? (fun l => l.slot == v.slot) = none) (x : Nat) :
    let on (n : Nat) : Prop := x.testBit n = true ∧ v.st.altReady v.id n = true
    let at_ (i : Nat) := (v.c.altNow + 1 + i) % 16
    (v.altPick (x % 65536) = none ∧ ∀ m, m < 16 → ¬ on m) ∨ ∃ i, i < 16 ∧ v.altPick (x % 65536) = some (at_ i) ∧ on (at_ i) ∧ ∀ j, j < i → ¬ on (at_ j) := by
  intro on at_
  have hon (i : Nat) : (bits (x % 65536) (at_ i) (at_ i) == 1 && v.st.altReady v.id (at_ i)) = true ↔ on (at_ i) := pickable_iff _ _ (Nat.mod_lt _ (by decide))
  have hpick : v.altPick (x % 65536) = ((List.range 16).map at_).find? fun n => bits (x % 65536) n n == 1 && v.st.altReady v.id n := by rw [View.altPick, hseen]
  rw [hpick]
  rcases find?_map_range at_ (fun n => bits (x % 65536) n n == 1 && v.st.altReady v.id n) 16 with ⟨hnone, hnot⟩ | ⟨i, hi, hsome, hp, hbefore⟩
  · refine .inl ⟨hnone, fun m hm => ?_⟩
    have hturn : at_ ((m + 16 - (v.c.altNow + 1) % 16) % 16) = m := by
      show (v.c.altNow + 1 + (m + 16 - (v.c.altNow + 1) % 16) % 16) % 16 = m
      omega
    rw [← hturn, ← hon]
    exact hnot _ (Nat.mod_lt _ (by decide))
  · exact .inr ⟨i, hi, hsome, (hon i).mp hp, fun j hj => (hon j).not.mp (hbefore j hj)⟩

/-- A slot considered before keeps its pick. -/
theorem View.altPick_kept {v : View} {l : Looked} (hseen : v.c.looked.find? (fun l => l.slot == v.slot) = some l) (set : Nat) : v.altPick set = l.pick := by
  rw [View.altPick, hseen]

/-- What an alternation does at issue, its checks over. -/
theorem View.altPlan_effects (v : View) (d : SReg) (set : Nat) : (v.altPlan d set).effects =
    { lands := [landS d 1 (BitVec.ofNat 64 ((v.altPick set).getD 16))], pick := v.altPick set, upd := fun c => { c with altPtr := (v.altPick set).getD c.altPtr } } := by
  unfold View.altPlan
  cases v.altPick set <;> rfl

/-- An alternation at issue answers its pick, and the pointer moves there. -/
theorem primOp_alternates {s : State} {id : Nat} {k : Slot} {srcs : List (Nat × Src)} {body : View → Plan} (hi : Claims.Issuing s id k) (hu : Claims.Unbound s id)
    {d : SReg} {set : Nat} (hq : (body (viewOf s id k)).effects = ((viewOf s id k).altPlan d set).effects) :
    let c := s.core id
    let p := (viewOf s id k).altPick set
    primOp srcs body s = .next (s.setCore id { c with flights := c.flights ++ [Claims.inFlight c k (.s d) 1 (p.getD 16 % 2 ^ 64)], altPtr := p.getD c.altPtr }) := by
  intro c p
  rw [primOp_effects hi hu (hq.trans (View.altPlan_effects ..)) rfl fun _ => rfl]
  simp only [List.map_nil, List.append_nil, List.map_cons, List.foldl_nil, Option.getD_none, landS, BitVec.toNat_ofNat]
  rfl

end Sys2Proof.Machine

namespace Sys2Proof.Proofs
open Sys2Proof Sys2Proof.Machine Sys2Proof.Claims

theorem channelControlActs : Claims.ChannelControl := by
  intro s id k hi hu ch x p b c act
  refine ⟨(exec_chgrant ..).trans ((primOp_effects hi hu (q := { grant := some (ch.val, (zxVal c x).toNat), acts := [(1, .grant ch (zxVal c x).toNat)] }) ?grant rfl fun _ => rfl).trans ?granted),
    (exec_chbind ..).trans (primOp_act hi hu rfl), (exec_chseal ..).trans (primOp_act hi hu rfl), (exec_chack ..).trans (primOp_act hi hu ?ack)⟩
  case grant =>
    simp only [View.xz_live]
    rfl
  case ack => simp only [Plan.effects, View.s_live, lo32, c]
  case granted =>
    simp only [List.map_nil, List.append_nil, List.map_cons, List.foldl_nil, Option.getD_none]
    rfl

theorem alternation : Claims.Alternation := by
  intro s id k hcap hu d b c on start picks seen
  have hset : ((viewOf s id k).s 1 b).toNat % 65536 = (c.ss b).toNat % 65536 := by rw [View.s_live]
  have hfirst (h : seen = none) : picks ((viewOf s id k).altPick ((c.ss b).toNat % 65536)) := View.altPick_first h _
  refine ⟨fun hcur hseen i hx => ?considered, fun hcur => ⟨(viewOf s id k).altPick ((c.ss b).toNat % 65536), fun l hl => View.altPick_kept hl _, hfirst, ?waiting, ?trying⟩⟩
  case considered =>
    have finds {srcs : List (Nat × Src)} {body : View → Plan} (hx : exec i s = primOp srcs body s) (hp : (body (viewOf s id k)).pick = (viewOf s id k).altPick ((c.ss b).toNat % 65536)) :
        ∃ u l, exec i s = .next u ∧ u.mem = s.mem ∧ (u.core id).looked = c.looked ++ [l] ∧ l.slot = k ∧ picks l.pick := by
      obtain ⟨u, l, he, hmem, hl, -, hslot, -, hpick, -⟩ := primOp_finds (srcs := srcs) (body := body) hcur hcap
      exact ⟨u, l, hx.trans he, hmem, hl, hslot, by rw [hpick, hp]; exact hfirst hseen⟩
    rcases hx with rfl | rfl
    · exact finds (exec_chalt ..) (by rw [← hset]; rfl)
    · exact finds (exec_chaltTry ..) (by rw [← hset]; rfl)
  case waiting => exact (exec_chalt ..).trans (primOp_alternates ⟨hcur, hcap⟩ hu (by rw [← hset]; rfl))
  case trying => exact (exec_chaltTry ..).trans (primOp_alternates ⟨hcur, hcap⟩ hu (by rw [← hset]))

/-- Settles O25: control by its one effect of the next issue cycle; an alternation by the first candidate after the pointer that can be picked. -/
theorem channelControl : Obligations.ChannelControl := ⟨channelControlActs, alternation⟩

end Sys2Proof.Proofs
end

section
/-! Endpoints, and messages sent on the timed plane (R283, R293, R298). -/
namespace Sys2Proof.Machine

/-! ### One endpoint changed -/

@[simp] theorem Core.endpoints_updEp_self (c : Core) (ch : Chan) (f : Endpoint → Endpoint) : (c.updEp ch f).endpoints[ch] = f c.endpoints[ch] := by
  simp [Core.updEp, Core.ep]

@[simp] theorem Core.updEp_updEp (c : Core) (ch : Chan) (f g : Endpoint → Endpoint) : (c.updEp ch f).updEp ch g = c.updEp ch fun e => g (f e) := by
  simp [Core.updEp, Core.ep]

/-! ### The timed plane -/

theorem State.toPeer_timed (s : State) (id : Nat) {e : Endpoint} {pc pe : Nat} (hpath : e.path = 0) (hpeer : e.peer = some (pc, pe)) (n : Nat) (i : Instr) (mk : Nat → Nat → EvArg) :
    s.toPeer id e n i mk = s.wire (s.clock + 2 + hops id pc + n) i (mk pc pe) := by
  simp only [State.toPeer, hpeer, hpath, if_true]

/-- Messages that follow each other to a peer, each with its delay behind the first. -/
theorem State.toPeers_timed (id : Nat) {e : Endpoint} {pc pe : Nat} (hpath : e.path = 0) (hpeer : e.peer = some (pc, pe)) (ms : List (Nat × Nat)) (s : State) :
    ms.foldl (fun s x => s.toPeer id e x.2 .channelMessageArrival fun pc pe => .msg pc pe x.1) s =
      { s with wires := s.wires ++ ms.map fun x => (s.clock + 2 + hops id pc + x.2, Instr.channelMessageArrival, EvArg.msg pc pe x.1) } := by
  induction ms generalizing s with
  | nil => simp
  | cons x ms ih =>
    rw [List.foldl_cons, ih, State.toPeer_timed _ _ hpath hpeer]
    simp [State.wire]

/-- The messages as an endpoint sends them: a TAGGED one writes its core into each (R298). -/
def Endpoint.outgoing (e : Endpoint) (id : Nat) (ms : List Nat) : List Nat := if e.tagged then ms.map (tagMessage id) else ms

/-- An endpoint after it has sent: the allowances are spent, and a TAGGED one retains the messages (R293, R298). -/
def Endpoint.afterSend (e : Endpoint) (id : Nat) (ms : List Nat) : Endpoint :=
  { e with sendAllow := e.sendAllow - ms.length, retained := if e.tagged then e.retained ++ ms.map (tagMessage id) else e.retained }

theorem Endpoint.afterSend_plain {e : Endpoint} (ht : e.tagged = false) (id : Nat) (ms : List Nat) : e.afterSend id ms = { e with sendAllow := e.sendAllow - ms.length } := by
  simp [Endpoint.afterSend, ht]
theorem Endpoint.afterSend_tagged {e : Endpoint} (ht : e.tagged = true) (id : Nat) (ms : List Nat) :
    e.afterSend id ms = { e with sendAllow := e.sendAllow - ms.length, retained := e.retained ++ ms.map (tagMessage id) } := by
  simp [Endpoint.afterSend, ht]
theorem Endpoint.outgoing_plain {e : Endpoint} (ht : e.tagged = false) (id : Nat) (ms : List Nat) : e.outgoing id ms = ms := by simp [Endpoint.outgoing, ht]
theorem Endpoint.outgoing_tagged {e : Endpoint} (ht : e.tagged = true) (id : Nat) (ms : List Nat) : e.outgoing id ms = ms.map (tagMessage id) := by simp [Endpoint.outgoing, ht]

/-- What sending on a PATH 0 endpoint does: its endpoint is charged, and the messages are on the timed plane, one a clock cycle (R283). -/
theorem State.sendMsgs_timed (s : State) (id : Nat) (ch : Chan) (ms : List Nat) {pc pe : Nat} (hpath : ((s.core id).ep ch).path = 0) (hpeer : ((s.core id).ep ch).peer = some (pc, pe)) :
    let out := ((s.core id).ep ch).outgoing id ms
    s.sendMsgs id ch ms = { s.updCore id (fun c => c.updEp ch fun e => e.afterSend id ms) with
      wires := s.wires ++ (out.zip (List.range out.length)).map fun x => (s.clock + 2 + hops id pc + x.2, Instr.channelMessageArrival, EvArg.msg pc pe x.1) } := by
  intro out
  have hoff : ¬ ((s.core id).ep ch).path = 2 := by omega
  have hcharged {e : Endpoint} (he : ((s.core id).ep ch).afterSend id ms = e) :
      s.updCore id (fun c => c.updEp ch fun e => e.afterSend id ms) = s.setCore id ((s.core id).updEp ch fun _ => e) := by
    subst he
    rfl
  simp only [State.sendMsgs, if_neg hoff, State.toPeers_timed id hpath hpeer, out]
  cases ht : ((s.core id).ep ch).tagged with
  | false =>
    rw [hcharged (Endpoint.afterSend_plain ht id ms), Endpoint.outgoing_plain ht]
    rfl
  | true =>
    rw [hcharged (Endpoint.afterSend_tagged ht id ms), Endpoint.outgoing_tagged ht]
    simp only [if_true, State.updCore_updCore, Core.updEp_updEp]
    rfl

/-! ### The source in a message's tag (R298) -/

theorem tagMessage_low (id m : Nat) : tagMessage id m % 2 ^ 480 = m % 2 ^ 480 := by rw [tagMessage, Nat.add_mul_mod_self_left, Nat.mod_mod]

theorem tagMessage_tag (id m : Nat) : tagMessage id m / 2 ^ 480 = m / 2 ^ 480 % 2 ^ 32 / 2 ^ 11 * 2 ^ 11 + id % 2 ^ 11 := by
  rw [tagMessage, Nat.add_mul_div_left _ _ (Nat.two_pow_pos 480), Nat.div_eq_of_lt (Nat.mod_lt _ (Nat.two_pow_pos 480)), Nat.zero_add]

theorem div_two_pow_491 (m : Nat) : m / 2 ^ 491 = m / 2 ^ 480 / 2 ^ 11 := by rw [Nat.div_div_eq_div_mul, ← Nat.pow_add]

theorem tagMessage_source (id m : Nat) : tagMessage id m / 2 ^ 480 % 2 ^ 11 = id % 2 ^ 11 := by
  rw [tagMessage_tag, Nat.mul_add_mod_self_right, Nat.mod_mod]

theorem tagMessage_rest (id m : Nat) : tagMessage id m / 2 ^ 491 % 2 ^ 21 = m / 2 ^ 491 % 2 ^ 21 := by
  rw [div_two_pow_491, div_two_pow_491, tagMessage_tag]
  omega

/-! ### What an endpoint can do -/

/-- The CHSEND condition (Table 10.4). -/
theorem Endpoint.sendReady_iff (e : Endpoint) : e.sendReady = true ↔ e.resend = [] ∧ 4 ≤ e.sendAllow ∧ (e.tagged = true → e.retained.length ≤ 59) := by
  cases ht : e.tagged <;> simp [Endpoint.sendReady, ht, and_assoc]

theorem View.needMode_ok {v : View} {ch : Chan} {mode : Nat} (h : (v.c.ep ch).mode = mode) : v.needMode ch mode = [] := if_pos h
theorem View.needMode_wrong {v : View} {ch : Chan} {mode : Nat} (h : (v.c.ep ch).mode ≠ mode) : v.needMode ch mode = v.chanTrap 1 ch.val := if_neg h

end Sys2Proof.Machine

namespace Sys2Proof.Proofs
open Sys2Proof Sys2Proof.Machine Sys2Proof.Claims

theorem channelDataIssues : Claims.ChannelData := by
  intro s id k hi hu a p d ch c path ready ms got took
  have hready : (s.endpoint id ch).sendReady = true ↔ ready := Endpoint.sendReady_iff _
  have hvv (pos : Nat) : (viewOf s id k).v pos a = c.vv a := View.v_live ..
  refine ⟨?send, fun hr => ?trySends, fun hr => ?tryNot, ?recv, ?tryRecv⟩
  case send =>
    refine (exec_chsend ..).trans ((primOp_path hi hu (group := none) (path := sendPath) (lands := []) (f := fun s => s.sendVector id ch (c.vv a).toNat) ?_).trans ?_)
    · rw [← hvv 0]
      rfl
    · rw [List.map_nil, List.append_nil]
      rfl
  case trySends =>
    refine (exec_chsendTry ..).trans (primOp_path hi hu (group := none) (path := sendPath) (lands := [landP p 1 true]) (f := fun s => s.sendVector id ch (c.vv a).toNat) ?_)
    simp only [Plan.effects, hready.mpr hr, View.v_live, if_true]
    rfl
  case tryNot =>
    have hnot : (s.endpoint id ch).sendReady = false := by rwa [← Bool.not_eq_true, hready]
    refine (exec_chsendTry ..).trans (primOp_path hi hu (group := none) (path := sendPath) (lands := [landP p 1 false]) (f := fun s => s) ?_)
    simp only [Plan.effects, hnot, Bool.false_eq_true, if_false]
  case recv => exact (exec_chrecv ..).trans (primOp_receives hi hu (t := (ch.val, 4)) (lands := [landV d 2 (joinMsgs (ms.take 4))]) rfl)
  case tryRecv =>
    by_cases hr : 4 ≤ ms.length
    · have hthere : (s.core id).recvReady ch = true := decide_eq_true hr
      rw [if_pos hr]
      refine (exec_chrecvTry ..).trans (primOp_receives hi hu (t := (ch.val, 4)) (lands := [landP p 1 true, { landV d 2 (joinMsgs (ms.take 4)) with latch := false }]) ?_)
      simp only [Plan.effects, hthere, if_true]
      rfl
    · have hnot : (s.core id).recvReady ch = false := decide_eq_false hr
      rw [if_neg hr]
      refine (exec_chrecvTry ..).trans ((primOp_path hi hu (group := none) (path := []) (lands := [landP p 1 false]) (f := fun s => s) ?_).trans ?_)
      · simp only [Plan.effects, hnot, Bool.false_eq_true, if_false]
      · rw [List.map_nil, List.append_nil]
        rfl

theorem sendingMessages : Claims.SendingMessages := by
  intro s id ch x pc pe e m t hpath hpeer
  let sent := (List.range 4).map m
  have hsent : t = _ := s.sendMsgs_timed id ch sent hpath hpeer
  have hown : (t.core id).endpoints[ch] = e.afterSend id sent := by
    rw [hsent]
    show ((s.updCore id fun c => c.updEp ch fun e => e.afterSend id sent).core id).endpoints[ch] = _
    rw [State.core_updCore_self, Core.endpoints_updEp_self]
  rw [hown]
  refine ⟨rfl, by rw [hsent]; rfl, by rw [hsent]; rfl, fun hplain => ⟨by rw [Endpoint.afterSend_plain hplain], ?wires⟩,
    fun htag => ⟨sent.map (tagMessage id), by rw [Endpoint.afterSend_tagged htag], rfl, fun i hi => ?tags⟩⟩
  case wires =>
    have hout : ((s.core id).ep ch).outgoing id sent = sent := Endpoint.outgoing_plain hplain id sent
    rw [hsent]
    simp only [hout]
    rfl
  case tags =>
    have hget : (sent.map (tagMessage id)).getD i 0 = tagMessage id (m i) := by simp [sent, List.getElem?_range hi]
    rw [hget]
    exact ⟨tagMessage_low .., tagMessage_source .., tagMessage_rest ..⟩

theorem channelTraps : Claims.ChannelTraps := by
  intro s id k hcur hcap a d r b ch x c e trap finds
  have found {i : Instr} {srcs : List (Nat × Src)} {body : View → Plan} {P : Looked → Prop} (hx : exec i s = primOp srcs body s)
      (hp : ∀ l : Looked, l.traps = (body (viewOf s id k)).traps → (∀ w, (body (viewOf s id k)).wait = some w → l.wait = some w) → P l) : finds i P := by
    obtain ⟨u, l, he, hmem, hl, hfl, hslot, htraps, -, hwait⟩ := primOp_finds (srcs := srcs) (body := body) hcur hcap
    exact ⟨l, ⟨u, hx.trans he, hmem, hl, hfl⟩, hslot, hp l htraps hwait⟩
  have wrong {mode : Nat} (h : e.mode ≠ mode) : trap 1 ch.val ∈ (viewOf s id k).needMode ch mode := by
    rw [View.needMode_wrong (v := viewOf s id k) h]
    exact List.mem_cons_self
  have right {mode : Nat} (h : e.mode = mode) : (viewOf s id k).needMode ch mode = [] := View.needMode_ok (v := viewOf s id k) h
  refine ⟨fun h => found (exec_chsend ..) fun l ht _ => ?sendMode, fun h => found (exec_chrecv ..) fun l ht _ => ?recvMode, fun h hs => found (exec_chsend ..) fun l ht hw => ?sendWaits,
    fun h hs => found (exec_chrecv ..) fun l ht hw => ?recvWaits, fun h hs => found (exec_chgrant ..) fun l ht _ => ?grant, fun h hs => found (exec_chack ..) fun l ht _ => ?ack,
    fun h => found (exec_chalt ..) fun l ht _ => ?emptySet⟩
  case sendMode => rw [ht]; exact wrong h
  case recvMode => rw [ht]; exact wrong h
  case sendWaits =>
    have hnot : (s.endpoint id ch).sendReady = false := by
      rw [← Bool.not_eq_true, Endpoint.sendReady_iff]
      omega
    refine ⟨ht.trans (right h), hw 4 ?_⟩
    simp only [right h, hnot]
    rfl
  case recvWaits =>
    have hnot : (s.core id).recvReady ch = false := decide_eq_false (Nat.not_le.mpr hs)
    refine ⟨ht.trans (right h), hw 4 ?_⟩
    simp only [right h, hnot]
    rfl
  case grant =>
    have hover : 63 < ((s.core id).ep ch).grantOut + ((s.core id).ep ch).msgs.length + (s.core id).granting ch + (zxVal (s.core id) x).toNat :=
      Nat.lt_of_lt_of_le hs (Nat.add_le_add_right (Nat.le_add_right ..) _)
    rw [ht]
    simp only [right h, View.xz_live, if_pos hover]
    exact List.mem_cons_self
  case ack =>
    have hplain : ((s.core id).ep ch).tagged = false := hs
    rw [ht]
    simp only [right h, hplain]
    exact List.mem_cons_self
  case emptySet =>
    have hempty : ((viewOf s id k).s 1 b).toNat % 65536 = 0 := by rw [View.s_live]; exact h
    rw [ht]
    simp only [hempty, if_true]
    exact List.mem_cons_self

/-- Settles O26: data operations by what they put in flight and take, a send on PATH 0 by what its endpoint and the timed plane hold after, traps by what considering finds. -/
theorem channelData : Obligations.ChannelData := ⟨channelDataIssues, sendingMessages, channelTraps⟩

end Sys2Proof.Proofs
end

section
/-! Arrivals at a channel: messages, allowances and acknowledgements (R293, R297, R298). -/
namespace Sys2Proof.Machine

/-! ### A message that arrives (R293, R297) -/

/-- A change of every core listed, which leaves the reset core, changes each core alike. -/
theorem sget_map {α : Type} {g : α → α} {d : α} (hd : g d = d) (l : List (Nat × α)) (j : Nat) : sget d (l.map fun e => (e.1, g e.2)) j = g (sget d l j) := by
  induction l with
  | nil => exact hd.symm
  | cons e l ih =>
    simp only [List.map_cons, sget]
    split
    · rfl
    · split
      · exact hd.symm
      · exact ih

/-- What a refused message changes of an endpoint: it comes back to one that sends to where it was refused (R297). -/
def Endpoint.takeBack (e : Endpoint) (name ep m : Nat) : Endpoint :=
  if e.peer = some (name, ep) ∧ e.mode = 1 ∧ e.path ≠ 2 then { e with resend := e.resend ++ [m], retained := dropFirst (· == m) e.retained } else e

theorem Endpoint.takeBack_msgs (e : Endpoint) (name ep m : Nat) : (e.takeBack name ep m).msgs = e.msgs := by unfold Endpoint.takeBack; split <;> rfl
theorem Endpoint.takeBack_grantOut (e : Endpoint) (name ep m : Nat) : (e.takeBack name ep m).grantOut = e.grantOut := by unfold Endpoint.takeBack; split <;> rfl

theorem refusedTo_eq (name ep m : Nat) (c : Core) : refusedTo name ep m c = { c with endpoints := c.endpoints.map fun e => e.takeBack name ep m } := rfl

/-- A core that nothing has touched sends nothing that could come back. -/
theorem refusedTo_reset (name ep m : Nat) : refusedTo name ep m Core.reset = Core.reset := by
  have hempty : Core.reset.endpoints.map (fun e => e.takeBack name ep m) = Core.reset.endpoints := by
    simp [Core.reset, Endpoint.takeBack, Endpoint.empty]
  rw [refusedTo_eq, hempty]

theorem State.core_refuse (s : State) (name ep m j : Nat) : (s.refuse name ep m).core j = refusedTo name ep m (s.core j) := sget_map (refusedTo_reset ..) _ _

theorem State.endpoints_refuse (s : State) (name ep m j : Nat) (k : Chan) : ((s.refuse name ep m).core j).endpoints[k] = ((s.core j).endpoints[k]).takeBack name ep m := by
  simp [State.core_refuse, refusedTo_eq]

/-! ### Allowances and acknowledgements (R297, R298) -/

theorem State.away_of_here {s : State} {name : Nat} (h : s.here name = true) : s.away name = false := by
  rw [State.away, h, Bool.not_true, Bool.and_false]

/-- Without refused messages, allowances that come let nothing go. -/
theorem State.resendNow_of_none {s : State} {id : Nat} {ch : Chan} (h : ((s.core id).ep ch).resend = []) : s.resendNow id ch = s := by
  simp [State.resendNow, h]

/-- Of a list with one element that passes a test, and none before it, that element is dropped. -/
theorem dropFirst_append {α : Type} {p : α → Bool} {a : List α} (ha : ∀ y ∈ a, p y = false) {x : α} (hx : p x = true) (b : List α) : dropFirst p (a ++ x :: b) = a ++ b := by
  induction a with
  | nil => exact if_pos hx
  | cons y a ih =>
    rw [List.cons_append, dropFirst, ha y List.mem_cons_self, if_neg Bool.false_ne_true, ih fun z hz => ha z (List.mem_cons_of_mem _ hz), List.cons_append]

/-! ### What each arrival does at an endpoint of the device -/

section
variable {s : State} {name ep : Nat}

/-- A message that is not the next of its endpoint waits (R293). -/
theorem exec_channelMessageArrival_later (hep : ep < 16) {m : Nat} (hcur : s.cur = .event (.msg name ep m)) (hlater : s.firstMsg name ep m = false) :
    exec .channelMessageArrival s = .next s := by
  simp only [exec_channelMessageArrival, execChannelMessageArrival, hcur, if_neg (Nat.not_le.mpr hep), hlater, Bool.false_eq_true, if_false]

variable (hep : ep < 16) (hhere : s.here name = true)
include hep hhere

/-- The next message of an endpoint that receives lowers the allowances out, and is queued or refused (R293, R297). -/
theorem exec_channelMessageArrival_first {m : Nat} (hcur : s.cur = .event (.msg name ep m)) (hfirst : s.firstMsg name ep m = true)
    (hmode : ((s.core (name % 2 ^ 11)).ep (Fin.ofNat 16 ep)).mode = 2) (hpeer : ((s.core (name % 2 ^ 11)).ep (Fin.ofNat 16 ep)).peer ≠ none) :
    exec .channelMessageArrival s = .next
      (let t := (s.dropOne .channelMessageArrival (.msg name ep m)).updCore (name % 2 ^ 11) fun c => c.updEp (Fin.ofNat 16 ep) fun e => { e with grantOut := e.grantOut - 1 }
      if ((s.core (name % 2 ^ 11)).ep (Fin.ofNat 16 ep)).sealed then t.refuse name ep m
      else t.updCore (name % 2 ^ 11) fun c => c.updEp (Fin.ofNat 16 ep) fun e => { e with msgs := e.msgs ++ [m] }) := by
  have hlive : (s.here name && ((s.core (name % 2 ^ 11)).ep (Fin.ofNat 16 ep)).mode == 2 && ((s.core (name % 2 ^ 11)).ep (Fin.ofNat 16 ep)).peer.isSome) = true := by
    rw [hhere, hmode, Option.isSome_iff_ne_none.mpr hpeer]
    rfl
  simp only [exec_channelMessageArrival, execChannelMessageArrival, hcur, if_neg (Nat.not_le.mpr hep), if_pos hfirst]
  exact congrArg _ (if_pos hlive)

/-- Allowances are added to an endpoint that has no refused messages (R293, R297). -/
theorem exec_allowanceArrival_added {n : Nat} (hcur : s.cur = .event (.allow name ep n)) (hnone : ((s.core (name % 2 ^ 11)).ep (Fin.ofNat 16 ep)).resend = []) :
    exec .allowanceArrival s = .next ((s.dropOne .allowanceArrival (.allow name ep n)).updCore (name % 2 ^ 11) fun c =>
      c.updEp (Fin.ofNat 16 ep) fun e => { e with sendAllow := e.sendAllow + n }) := by
  simp only [exec_allowanceArrival, execAllowanceArrival, hcur, if_neg (Nat.not_le.mpr hep), State.away_of_here hhere, Bool.false_eq_true, if_false, if_pos hhere]
  refine congrArg _ (State.resendNow_of_none ?_)
  rw [State.core_updCore_self]
  exact (congrArg Endpoint.resend (Core.endpoints_updEp_self ..)).trans hnone

/-- An acknowledgement drops the oldest retained message of its tag (R298). -/
theorem exec_ackArrival_drops {tag : Nat} (hcur : s.cur = .event (.ack name ep tag)) :
    exec .ackArrival s = .next ((s.dropOne .ackArrival (.ack name ep tag)).updCore (name % 2 ^ 11) fun c =>
      c.updEp (Fin.ofNat 16 ep) fun e => { e with retained := dropFirst (fun m => messageTag m == tag) e.retained }) := by
  simp only [exec_ackArrival, execAckArrival, hcur, if_neg (Nat.not_le.mpr hep), State.away_of_here hhere, Bool.false_eq_true, if_false, if_pos hhere]

end

end Sys2Proof.Machine

namespace Sys2Proof.Proofs
open Sys2Proof Sys2Proof.Machine Sys2Proof.Claims

/-- An action that no longer waits, and one core put back, leave the rest. -/
theorem onlyCore_dropOne_updCore (s : State) (i : Instr) (a : EvArg) (id : Nat) (f : Core → Core) : onlyCore s ((s.dropOne i a).updCore id f) id :=
  ⟨fun _ hj => (State.core_updCore_other _ _ _ _ hj).trans (State.core_dropOne ..), rfl, rfl, rfl⟩

/-- Settles O42: a message by the endpoint it comes to, a refused one by what it changes of every core; allowances with nothing to send again; an acknowledgement by the oldest message of its tag. -/
theorem channelArrivals : Obligations.ChannelArrivals := by
  intro s name ep m n tag hep hhere id ch e
  have receives (hat : At s (.msg name ep m)) (hfirst : s.firstMsg name ep m = true) (hmode : e.mode = 2) (hpeer : e.peer ≠ none) :=
    exec_channelMessageArrival_first hep hhere hat hfirst hmode hpeer
  refine ⟨fun hat hfirst hmode hpeer hopen => ⟨_, (receives hat hfirst hmode hpeer).trans (congrArg _ (if_neg (Bool.eq_false_iff.mp hopen))), ?queued⟩,
    fun hat hfirst hmode hpeer hsealed => ⟨_, (receives hat hfirst hmode hpeer).trans (congrArg _ (if_pos hsealed)), rfl, ?refusedMsgs, ?refusedGrant, ?sender⟩,
    fun hat hlater => exec_channelMessageArrival_later hep hat hlater,
    fun hat hnone => ⟨_, exec_allowanceArrival_added hep hhere hat hnone, onlyCore_dropOne_updCore .., ?added⟩,
    fun hat => ⟨_, exec_ackArrival_drops hep hhere hat, onlyCore_dropOne_updCore .., fun a x b hret hx hbefore => ?released⟩⟩
  case queued =>
    rw [State.updCore_updCore]
    refine ⟨onlyCore_dropOne_updCore .., ?_⟩
    rw [State.core_updCore_self, Core.updEp_updEp, Core.endpoints_updEp_self]
    rfl
  case refusedMsgs => rw [State.endpoints_refuse, Endpoint.takeBack_msgs, State.core_updCore_self, Core.endpoints_updEp_self]; rfl
  case refusedGrant => rw [State.endpoints_refuse, Endpoint.takeBack_grantOut, State.core_updCore_self, Core.endpoints_updEp_self]; rfl
  case sender =>
    intro j q g hj hg hsends hpath
    have hback : g.takeBack name ep m = { g with resend := g.resend ++ [m], retained := dropFirst (· == m) g.retained } := if_pos ⟨hg, hsends, hpath⟩
    rw [State.endpoints_refuse, State.core_updCore_other _ _ _ _ hj, State.core_dropOne, hback]
    exact ⟨rfl, rfl⟩
  case added =>
    rw [State.core_updCore_self, Core.endpoints_updEp_self]
    rfl
  case released =>
    have hdrop : dropFirst (fun m => messageTag m == tag) e.retained = a ++ b := by
      rw [hret]
      exact dropFirst_append (fun y hy => beq_false_of_ne (hbefore y hy)) (beq_iff_eq.mpr hx) b
    rw [State.core_updCore_self, Core.endpoints_updEp_self, ← hdrop]
    rfl

end Sys2Proof.Proofs
end

section
/-! What a station answers to a request (R313 to R316, R332, R336). -/
namespace Sys2Proof.Machine

/-! ### The verdict on a leaf (R314) -/

theorem TLeaf.permits_iff {l : TLeaf} {tenant kind : Nat} :
    l.permits tenant kind = true ↔ l.perms.testBit kind = true ∧ (tenant = l.owner ∨ (l.shared = true ∧ kind = 0)) := by
  rw [TLeaf.permits, bits_self]
  cases l.perms.testBit kind <;> simp

/-- Of the four kinds of access, writes and atomics are the odd ones. -/
theorem writes_iff_odd {kind : Nat} (h : kind < 4) : (kind = 1 ∨ kind = 3) ↔ kind % 2 = 1 := by omega

section
variable {s : State} {r : Req} {q : TransReq} {l : TLeaf}

theorem State.checkLeaf_denied (h : ¬ l.permits r.tenant q.kind = true) :
    s.checkLeaf r q l = (s.logFault r.station q 5 (sizeLevel l.size) r.who, .viol q.va) := by
  rw [State.checkLeaf, Bool.eq_false_iff.mpr h]
  rfl

variable (hperm : l.permits r.tenant q.kind = true)
include hperm

theorem State.checkLeaf_badState (hstate : s.stateOk l q.va = false) :
    s.checkLeaf r q l = (s.logFault r.station q 3 (sizeLevel l.size) r.who, .fault 3) := by
  rw [State.checkLeaf, hperm, hstate]
  rfl

variable (hstate : s.stateOk l q.va = true)
include hstate

/-- A leaf whose permissions and state allow the access: what is left is the rule of format pages. -/
theorem State.checkLeaf_allowed :
    s.checkLeaf r q l = if (q.kind = 1 ∨ q.kind = 3) ∧ isFormat l.state = true then (s.logFault r.station q 6 (sizeLevel l.size) r.who, .fault 6)
      else (s, .ok (l.page + q.va % 2 ^ l.size, l)) := by
  rw [State.checkLeaf, hperm, hstate]
  rfl

end

/-! ### A request that waits for a walk (R315) -/

theorem State.askWalk_mem (s : State) (r : Req) (q : TransReq) : (s.askWalk r q).mem = s.mem := by
  unfold State.askWalk
  dsimp only
  split <;> simp
theorem State.askWalk_cores (s : State) (r : Req) (q : TransReq) : (s.askWalk r q).cores = s.cores := by
  unfold State.askWalk
  dsimp only
  split <;> simp

/-- The request stands with a walk of its page, whether one was under way or this one starts. -/
theorem State.askWalk_walks (s : State) (r : Req) (q : TransReq) :
    ∃ w ∈ (s.askWalk r q).walks, w.station = r.station ∧ w.space = q.space ∧ s.samePage q.space w.page q.va = true ∧ (⟨r.ev, q, r.who⟩ : WalkWait) ∈ w.waiting := by
  unfold State.askWalk
  dsimp only
  split
  case h_1 x hx =>
    have hmine := List.find?_some hx
    simp only [Bool.and_eq_true, beq_iff_eq] at hmine
    obtain ⟨⟨hst, hsp⟩, hpage⟩ := hmine
    exact ⟨{ x with waiting := x.waiting ++ [⟨r.ev, q, r.who⟩] }, List.mem_map.mpr ⟨x, List.mem_of_find?_eq_some hx, if_pos rfl⟩, hst, hsp, hpage,
      List.mem_append_right _ (List.mem_singleton_self _)⟩
  case h_2 =>
    refine ⟨⟨r.station, q.space, q.va / 2 ^ 16, [⟨r.ev, q, r.who⟩]⟩, ?_, rfl, rfl, ?_, List.mem_singleton_self _⟩
    · rw [State.post_walks]
      exact List.mem_append_right _ (List.mem_singleton_self _)
    · rw [State.samePage, beq_self_eq_true, Bool.true_or]

/-! ### The answer of a station (R313 to R315) -/

/-- The request that a station translates. -/
def Req.query (r : Req) (va kind : Nat) : TransReq := { space := r.space, tenant := r.tenant, va, kind }

theorem State.translate_beyond (s : State) (r : Req) {va : Nat} (kind : Nat) (h : 2 ^ 48 ≤ va) :
    s.translate r va kind = (s.logFault r.station (r.query va kind) 4 3 r.who, .fault 4) := if_pos h

section
variable {s : State} {r : Req} {va : Nat} (hnone : s.answers = []) (hva : va < 2 ^ 48)
include hnone hva

theorem State.translate_cached (kind : Nat) {e : TEntry} (h : (s.station r.station).find r.space va = some e) :
    s.translate r va kind = s.checkLeaf r (r.query va kind) e.leaf := by
  rw [State.translate, if_neg (Nat.not_le.mpr hva), hnone]
  simp only [List.find?_nil, h]
  rfl

theorem State.translate_missing (kind : Nat) (h : (s.station r.station).find r.space va = none) :
    s.translate r va kind = (s.askWalk r (r.query va kind), .wait) := by
  rw [State.translate, if_neg (Nat.not_le.mpr hva), hnone]
  simp only [List.find?_nil, h]
  rfl

end

end Sys2Proof.Machine

namespace Sys2Proof.Proofs
open Sys2Proof Sys2Proof.Machine Sys2Proof.Claims

/-- Settles O41: a refusal is the station's log and nothing else of memory or cores; a cached leaf is answered by the verdict on it, and a miss by what waits with a walk. -/
theorem translation : Obligations.Translation := by
  intro s r va kind hkind hnone logged
  have hlogged (q : TransReq) (reason level : Nat) : logged (s.logFault r.station q reason level r.who) := ⟨s.logFault_written .., rfl, rfl⟩
  refine ⟨fun hbeyond => ⟨_, s.translate_beyond r kind hbeyond, hlogged _ _ _⟩, fun hva e hfind => ?cached, fun hva hmiss => ?missing⟩
  case cached =>
    intro allowed
    have hpermits : e.leaf.permits r.tenant kind = true ↔ allowed := TLeaf.permits_iff
    have hodd := writes_iff_odd hkind
    rw [State.translate_cached hnone hva kind hfind]
    refine ⟨fun hdenied => ⟨_, State.checkLeaf_denied (mt hpermits.mp hdenied), hlogged _ _ _⟩,
      fun hallowed hbad => ⟨_, State.checkLeaf_badState (hpermits.mpr hallowed) hbad, hlogged _ _ _⟩,
      fun hallowed hstate hformat hwrite => ⟨_, (State.checkLeaf_allowed (hpermits.mpr hallowed) hstate).trans (if_pos ⟨hodd.mpr hwrite, hformat⟩), hlogged _ _ _⟩,
      fun hallowed hstate hplain => (State.checkLeaf_allowed (hpermits.mpr hallowed) hstate).trans (if_neg ?_)⟩
    rintro ⟨hwrite, hformat⟩
    rcases hplain with hplain | hread
    · rw [hformat] at hplain
      cases hplain
    · have := hodd.mp hwrite
      omega
  case missing =>
    obtain ⟨w, hw, hst, hsp, hpage, hwaits⟩ := s.askWalk_walks r (r.query va kind)
    exact ⟨_, w, State.translate_missing hnone hva kind hmiss, hw, hst, hsp, hpage, ⟨_, hwaits, rfl, rfl⟩, State.askWalk_mem .., State.askWalk_cores ..⟩

end Sys2Proof.Proofs
end

section
/-! Parts of a read, and a resident context as a change leaves it (R319). -/
namespace Sys2Proof.Machine

/-- A read is its first bytes and, above them, the others. -/
theorem Memory.read_add (m : Memory) (a i k : Nat) : m.read a (i + k) = m.read a i + 256 ^ i * m.read (a + i) k := by
  induction i generalizing a with
  | zero => simp [Memory.read]
  | succ i ih =>
    rw [Nat.add_right_comm, Memory.read, Memory.read, ih, Nat.add_right_comm a 1 i, Nat.pow_succ', Nat.mul_assoc, Nat.mul_add, Nat.add_assoc (m.byte a).toNat, Nat.add_assoc a i 1]

/-- The bytes read within a longer read are its digits. -/
theorem Memory.read_within (m : Memory) {a i k n : Nat} (h : i + k ≤ n) : m.read (a + i) k = m.read a n / 256 ^ i % 256 ^ k := by
  obtain ⟨j, rfl⟩ := Nat.exists_eq_add_of_le h
  rw [Nat.add_assoc, Memory.read_add, Memory.read_add, Nat.add_mul_div_left _ _ (Nat.pow_pos (by decide)), Nat.div_eq_of_lt (m.read_lt a i), Nat.zero_add,
    Nat.add_mul_mod_self_left, Nat.mod_eq_of_lt (m.read_lt _ k)]

/-- The bytes read within a write are the digits of what was written. -/
theorem Memory.read_write_within (m : Memory) {a n x i k : Nat} (h : m.wf = true) (hk : i + k ≤ n) (hx : x < 256 ^ n) :
    (m.write a n x).read (a + i) k = x / 256 ^ i % 256 ^ k := by
  rw [Memory.read_within _ hk, m.read_write_same _ _ _ h, Nat.mod_eq_of_lt hx]

/-- Whatever memory a state is given, its porters and cores stay: for any memory, so that a use of it compares no bytes. -/
theorem State.withMem_porters (s : State) (m : Memory) : ({ s with mem := m } : State).porters = s.porters := rfl
theorem State.withMem_cores (s : State) (m : Memory) : ({ s with mem := m } : State).cores = s.cores := rfl

/-- A resident context is looked up in the porters alone. -/
theorem State.ctx_of_porters {s u : State} (h : u.porters = s.porters) (p ctag : Nat) : u.ctx p ctag = s.ctx p ctag := by
  simp only [State.ctx, State.porter, h]

/-- A change that leaves a context its tag shows in that context. -/
theorem State.ctx_updCtx {s : State} {p ctag : Nat} {c : PCtx} (hc : s.ctx p ctag = some c) (f : PCtx → PCtx) (hf : ∀ c, (f c).ctag = c.ctag) :
    (s.updCtx p ctag f).ctx p ctag = some (f c) := by
  have htag : ((fun c : PCtx => c.ctag == ctag) ∘ fun c => if c.ctag = ctag then f c else c) = fun c => c.ctag == ctag := by
    funext c
    by_cases hc : c.ctag = ctag <;> simp [hc, hf]
  have hmine : c.ctag = ctag := by simpa using List.find?_some hc
  have hfind : (s.porter p).ctxs.find? (fun c => c.ctag == ctag) = some c := hc
  rw [State.updCtx, State.ctx, State.porter, State.setPorter, sget_kput_self, List.find?_map, htag, hfind, Option.map_some, if_pos hmine]

end Sys2Proof.Machine
end

section
/-! The start of a porter's run (R320). -/
namespace Sys2Proof.Machine

/-- A run whose registers the run block has given. -/
def Run.loaded (b : Nat) : Run :=
  { q := Vector.ofFn fun i => if i.val = 0 then 0 else BitVec.ofNat 64 (b / 2 ^ (64 * i.val)), w := Vector.ofFn fun i => BitVec.ofNat 512 (b / 2 ^ (1024 + 512 * i.val)),
    next := 0, steps := [], ended := false, fault := none }
/-- A run whose run block could not be read: it has ended. -/
def Run.unread (code : Nat) : Run := { q := Vector.replicate 16 0, w := Vector.replicate 8 0, next := 0, steps := [], ended := true, fault := some (code, 0) }

theorem Run.loaded_q_zero (b : Nat) : (Run.loaded b).q[(0 : Fin 16)] = 0 := by simp [Run.loaded]
theorem Run.loaded_q (b : Nat) {i : Fin 16} (hi : i ≠ 0) : (Run.loaded b).q[i] = BitVec.ofNat 64 (b / 2 ^ (64 * i.val)) := by
  simp [Run.loaded, hi]
theorem Run.loaded_w (b : Nat) (i : Fin 8) : (Run.loaded b).w[i] = BitVec.ofNat 512 (b / 2 ^ (1024 + 512 * i.val)) := by simp [Run.loaded]

/-- The context of a run that begins: RUNS counts it. -/
def PCtx.begun (c : PCtx) (r : Run) : PCtx := { c with runs := c.runs + 1, run := some r }

/-! ### What starting a run leaves -/

/-- A run begins, and the event that carries it on waits. -/
def State.beginRun (s : State) (p ctag : Nat) (r : Run) (next : Instr) : State :=
  ((s.updCtx p ctag fun c => c.begun r).unpost .porterRunStart (.porter p ctag)).post next (.porter p ctag)

theorem State.startRun_loaded (s : State) (p ctag : Nat) (b : List Byte) : s.startRun p ctag (.ok b) = s.beginRun p ctag (.loaded (natOf b)) .porterRequest := rfl
theorem State.startRun_unread (s : State) (p ctag code : Nat) : s.startRun p ctag (.error code) = s.beginRun p ctag (.unread code) .porterRunEnd := rfl

theorem State.beginRun_mem (s : State) (p ctag : Nat) (r : Run) (next : Instr) : (s.beginRun p ctag r next).mem = s.mem := State.post_mem ..
theorem State.beginRun_cores (s : State) (p ctag : Nat) (r : Run) (next : Instr) : (s.beginRun p ctag r next).cores = s.cores := State.post_cores ..
theorem State.ctx_beginRun {s : State} {p ctag : Nat} {c : PCtx} (hc : s.ctx p ctag = some c) (r : Run) (next : Instr) :
    (s.beginRun p ctag r next).ctx p ctag = some (c.begun r) :=
  (State.ctx_of_porters (State.post_porters ..) p ctag).trans (State.ctx_updCtx hc (fun c => c.begun r) fun _ => rfl)

/-! ### The comparison of the go word with RUNS -/

section
variable {s sg : State} {p ctag : Nat} {c : PCtx} {go : List Byte}
  (hgo : s.ctxRead p ctag c.gova 8 (.porterRunStart, .porter p ctag) = (sg, .ok go))
include hgo

theorem State.runStart_notDue (h : natOf go ≤ c.runs.toNat) :
    s.runStart p ctag c = (sg.forget (.porterRunStart, .porter p ctag)).unpost .porterRunStart (.porter p ctag) := by
  simp only [State.runStart, andThen, hgo, if_pos h]
  rfl

variable {s2 : State} (hdue : c.runs.toNat < natOf go) (hroom : sg.running p < 6)
include hdue hroom

theorem State.runStart_loaded {b : List Byte} (hblock : sg.runBlock p ctag c.runva (.porterRunStart, .porter p ctag) 10 = (s2, .ok b)) :
    s.runStart p ctag c = (s2.forget (.porterRunStart, .porter p ctag)).beginRun p ctag (.loaded (natOf b)) .porterRequest := by
  simp only [State.runStart, andThen, hgo, if_neg (Nat.not_le.mpr hdue), if_neg (Nat.not_le.mpr hroom), hblock, State.startRun_loaded]
theorem State.runStart_unread {code : Nat} (hblock : sg.runBlock p ctag c.runva (.porterRunStart, .porter p ctag) 10 = (s2, .fault code)) :
    s.runStart p ctag c = (s2.forget (.porterRunStart, .porter p ctag)).beginRun p ctag (.unread code) .porterRunEnd := by
  simp only [State.runStart, andThen, hgo, if_neg (Nat.not_le.mpr hdue), if_neg (Nat.not_le.mpr hroom), hblock, State.startRun_unread]

end

end Sys2Proof.Machine

namespace Sys2Proof.Proofs
open Sys2Proof Sys2Proof.Machine Sys2Proof.Claims

/-! ### What of O43 no tier move touches (R320) -/

/-- No run starts while the context's launch leaves the device (R323). -/
theorem exec_porterRunStart_barred {s : State} {p ctag : Nat} (hat : At s (.porter p ctag)) (hp : p < 512) (hbar : s.runsBarred ctag = true) :
    exec .porterRunStart s = .next (s.post .porterRunStart (.porter p ctag)) := by
  rw [exec_porterRunStart, execPorterRunStart, hat]
  simp only [if_neg (Nat.not_le.mpr hp), hbar, if_true]

/-- A resident context with a program and no run, not frozen, has its go word compared with RUNS (R320). -/
theorem exec_porterRunStart_compares {s s1 : State} {p ctag : Nat} {c : PCtx} (hat : At s (.porter p ctag)) (hp : p < 512) (hbar : s.runsBarred ctag = false)
    (hres : s.resident p ctag = some s1) (hc : s1.ctx p ctag = some c) (hfrozen : c.frozen = none) (hrun : c.run = none) (hprog : c.prog = true) :
    exec .porterRunStart s = .next (s1.runStart p ctag c) := by
  rw [exec_porterRunStart, execPorterRunStart, hat]
  simp [Nat.not_le.mpr hp, hbar, hres, hc, hfrozen, hrun, hprog]

theorem runsStart : Claims.RunsStart := by
  intro s s1 p ctag c go hat hp
  refine ⟨fun hbar => ⟨_, exec_porterRunStart_barred hat hp hbar, State.post_mem .., State.post_porters .., State.post_cores ..⟩,
    fun hbar hres hc1 hfrozen hrun hprog sg hgo hcg => ?compares⟩
  case compares =>
    have hexec := exec_porterRunStart_compares hat hp hbar hres hc1 hfrozen hrun hprog
    have begun {s2 : State} (hc2 : s2.ctx p ctag = some c) := State.ctx_beginRun (s := s2.forget (.porterRunStart, .porter p ctag)) hc2
    refine ⟨fun hle => ?notDue, fun s2 hdue hroom hc2 => ⟨fun b hblock => ?loaded, fun code hblock => ?unread⟩⟩
    case notDue =>
      rw [State.runStart_notDue hgo hle] at hexec
      exact ⟨_, hexec, rfl, hcg⟩
    case loaded =>
      rw [State.runStart_loaded hgo hdue hroom hblock] at hexec
      exact ⟨_, hexec, State.beginRun_mem .., State.beginRun_cores .., .loaded (natOf b), begun hc2 _ _, Run.loaded_q_zero _, fun i hi => Run.loaded_q _ hi,
        Run.loaded_w _, rfl, rfl, rfl, rfl⟩
    case unread =>
      rw [State.runStart_unread hgo hdue hroom hblock] at hexec
      exact ⟨_, hexec, State.beginRun_mem .., .unread code, begun hc2 _ _, rfl, rfl, rfl⟩

end Sys2Proof.Proofs
end

section
/-! The end of a porter's run and its status word (R322). -/
namespace Sys2Proof.Machine

/-! ### The status word (Table 11.7) -/

section
variable {old : Nat}

theorem statusAfter_count (f : Option (Nat × Nat)) : statusAfter old f % 2 ^ 64 = (old % 2 ^ 64 + 1) % 2 ^ 64 := by
  cases f with
  | none => simp only [statusAfter]; omega
  | some x => simp only [statusAfter]; omega
theorem statusAfter_well : statusAfter old none / 2 ^ 64 = old / 2 ^ 64 := by simp only [statusAfter]; omega
theorem statusAfter_code (code step : Nat) : statusAfter old (some (code, step)) / 2 ^ 64 % 2 ^ 8 = code % 2 ^ 8 := by simp only [statusAfter]; omega
theorem statusAfter_step (code step : Nat) : statusAfter old (some (code, step)) / 2 ^ 72 % 2 ^ 8 = step % 2 ^ 8 := by simp only [statusAfter]; omega
theorem statusAfter_err (code step : Nat) : statusAfter old (some (code, step)) / 2 ^ 80 % 2 = 1 := by simp only [statusAfter]; omega
theorem statusAfter_lt (f : Option (Nat × Nat)) (h : old < 256 ^ 16) : statusAfter old f < 256 ^ 16 := by
  cases f with
  | none => simp only [statusAfter]; omega
  | some x => simp only [statusAfter]; omega

end

/-! ### What the end of a run leaves -/

/-- The run has ended and its event is done; the go word is compared again. -/
def State.runOver (s : State) (p ctag : Nat) : State :=
  (((s.forget (.porterRunEnd, .porter p ctag)).unpost .porterRunEnd (.porter p ctag)).updCtx p ctag fun c => { c with run := none }).post .porterRunStart (.porter p ctag)

theorem State.runOver_mem (s : State) (p ctag : Nat) : (s.runOver p ctag).mem = s.mem := State.post_mem ..
theorem State.runOver_cores (s : State) (p ctag : Nat) : (s.runOver p ctag).cores = s.cores := State.post_cores ..
theorem State.runOver_run {s : State} {p ctag : Nat} (h : (s.ctx p ctag).isSome = true) : ((s.runOver p ctag).ctx p ctag).map (·.run) = some none := by
  obtain ⟨c, hc⟩ := Option.isSome_iff_exists.mp h
  have hover : (s.runOver p ctag).ctx p ctag = some { c with run := none } :=
    (State.ctx_of_porters (State.post_porters ..) p ctag).trans (State.ctx_updCtx (s := (s.forget _).unpost _ _) hc (fun c => { c with run := none }) fun _ => rfl)
  rw [hover]
  rfl

/-- The status word takes the end of a run. -/
def State.putStatus (s : State) (a : Nat) (f : Option (Nat × Nat)) : State := { s with mem := s.mem.writeDev a 16 (statusAfter (s.mem.read a 16) f) }
def State.statusWritten (s : State) (a : Nat) (f : Option (Nat × Nat)) : State := (s.putStatus a f).noteWrite a 16

theorem State.putStatus_porters (s : State) (a : Nat) (f : Option (Nat × Nat)) : (s.putStatus a f).porters = s.porters := s.withMem_porters _
theorem State.putStatus_cores (s : State) (a : Nat) (f : Option (Nat × Nat)) : (s.putStatus a f).cores = s.cores := s.withMem_cores _
theorem State.statusWritten_cores (s : State) (a : Nat) (f : Option (Nat × Nat)) : (s.statusWritten a f).cores = s.cores := (State.noteWrite_cores ..).trans (s.putStatus_cores a f)

theorem State.statusWritten_mem {s : State} {a : Nat} (f : Option (Nat × Nat)) (h : ∀ i, i < 16 → roByte (a + i) = false) :
    (s.statusWritten a f).mem = s.mem.write a 16 (statusAfter (s.mem.read a 16) f) := (State.noteWrite_mem ..).trans (Memory.writeDev_eq _ h)

theorem State.ctx_statusWritten (s : State) (a : Nat) (f : Option (Nat × Nat)) (p ctag : Nat) : (s.statusWritten a f).ctx p ctag = s.ctx p ctag :=
  State.ctx_of_porters ((State.noteWrite_porters ..).trans (s.putStatus_porters a f)) p ctag

/-- A status word that can be reached, and has no uncorrectable error, is written. -/
theorem State.runEnd_granted {s s' : State} {p ctag a : Nat} {c : PCtx} {r : Run} {l : TLeaf}
    (h : Claims.Granted s s' (s.reqOf (.step p ctag r.next) (.porterRunEnd, .porter p ctag)) c.statva 1 16 a l) (hgood : s'.mem.bad2 a 16 = none) :
    s.runEnd p ctag c r = (s'.statusWritten a r.fault).runOver p ctag := by
  obtain ⟨htrans, hreach⟩ := h
  simp only [State.runEnd, andThen, asFault, htrans, hreach, hgood, Option.isSome_none, Bool.false_eq_true, if_false]
  rfl

end Sys2Proof.Machine

namespace Sys2Proof.Proofs
open Sys2Proof Sys2Proof.Machine Sys2Proof.Claims

/-! ### What of O43 no tier move touches (R322) -/

theorem exec_porterRunEnd_ends {s : State} {p ctag : Nat} {c : PCtx} {r : Run} (hat : At s (.porter p ctag)) (hc : s.ctx p ctag = some c) (hrun : c.run = some r)
    (hended : r.ended = true) (hsteps : r.steps = []) (hfrozen : c.frozen = none) : exec .porterRunEnd s = .next (s.runEnd p ctag c r) := by
  rw [exec_porterRunEnd, execPorterRunEnd, hat]
  simp [hc, hrun, hended, hsteps, hfrozen]

theorem runsEnd : Claims.RunsEnd := by
  intro s s' p ctag a c r l hat hc hrun hended hsteps hfrozen hgranted hctx hwf hgood hro
  have hexec := exec_porterRunEnd_ends hat hc hrun hended hsteps hfrozen
  rw [State.runEnd_granted hgranted hgood] at hexec
  rw [← s'.ctx_statusWritten a r.fault] at hctx
  refine ⟨_, hexec, State.runOver_run hctx, (State.runOver_cores ..).trans (State.statusWritten_cores ..), ?_⟩
  rw [State.runOver_mem, State.statusWritten_mem _ hro]
  have hold := s'.mem.read_lt a 16
  have word {i k : Nat} (hk : i + k ≤ 16) : (s'.mem.write a 16 (statusAfter (s'.mem.read a 16) r.fault)).read (a + i) k = statusAfter (s'.mem.read a 16) r.fault / 256 ^ i % 256 ^ k :=
    s'.mem.read_write_within hwf hk (statusAfter_lt _ hold)
  refine ⟨?count, fun hwell => ?well, fun code step hfault => ⟨?code, ?step, ?err⟩, fun z hz => s'.mem.byte_write_outside hwf hz⟩
  case count =>
    have hlow := s'.mem.read_within (a := a) (i := 0) (k := 8) (n := 16) (by decide)
    have hnew := word (i := 0) (k := 8) (by decide)
    rw [Nat.pow_zero, Nat.div_one] at hlow hnew
    exact hnew.trans ((statusAfter_count _).trans (congrArg (fun x => (x + 1) % 2 ^ 64) hlow.symm))
  case well =>
    rw [word (by decide), s'.mem.read_within (a := a) (i := 8) (k := 8) (n := 16) (by decide), hwell]
    exact congrArg (· % 256 ^ 8) statusAfter_well
  case code =>
    rw [word (by decide), hfault]
    exact statusAfter_code code step
  case step =>
    rw [word (by decide), hfault]
    exact statusAfter_step code step
  case err =>
    rw [word (by decide), hfault]
    have := statusAfter_err (old := s'.mem.read a 16) code step
    omega

end Sys2Proof.Proofs
end

section
/-! The end of a demotion, and a format that no hint has (R225, R337). -/
namespace Sys2Proof.Machine

/-! ### Packed pages -/

/-- Bytes put one group after another keep the canonical form, and every byte outside the groups. -/
theorem Memory.putGroups_outside (at_ : Nat → Nat) (g : Nat → List Byte) (l : List Nat) (m : Memory) (h : m.wf = true) :
    (l.foldl (fun (k : Memory) i => k.put (putBytes (at_ i) (g i))) m).wf = true ∧
      ∀ z, (∀ i ∈ l, z < at_ i ∨ at_ i + (g i).length ≤ z) → (l.foldl (fun (k : Memory) i => k.put (putBytes (at_ i) (g i))) m).byte z = m.byte z := by
  induction l generalizing m with
  | nil => exact ⟨h, fun _ _ => rfl⟩
  | cons i l ih =>
    obtain ⟨hwf, hbyte⟩ := ih (m.put (putBytes (at_ i) (g i))) (m.wf_put _ h)
    exact ⟨hwf, fun z hz => (hbyte z fun j hj => hz j (List.mem_cons_of_mem _ hj)).trans (m.byte_put_outside h (hz i List.mem_cons_self))⟩

theorem length_packLine (f : MxFmt) (bs : List Byte) : (packLine f bs).length = mxBlockBytes f := length_bytesOf ..

/-- A block holds at most 34 bytes for the 64 of its line. -/
theorem mxBlockBytes_le (f : MxFmt) : mxBlockBytes f ≤ 34 := by cases f <;> decide

theorem Memory.cells_carryBad (m k : Memory) (src dst n : Nat) : (m.carryBad k src dst n).cells = k.cells := by
  unfold Memory.carryBad
  dsimp only
  split <;> split <;> rfl

/-- The page of a move stored as packed blocks. -/
def Move.packed (m : Move) (was : Memory) : Memory :=
  (List.range 1024).foldl (fun (k : Memory) i => k.put (putBytes (m.dst + mxBlockBytes (pageFmt (m.fmt + 1)) * i)
    (packLine (pageFmt (m.fmt + 1)) ((was.scrub m.src 65536).bytes (m.src + 64 * i) 64)))) (was.scrub m.src 65536)

theorem Move.cells_copy_packed {m : Move} (was : Memory) (hdem : m.promote = false) (hfmt : m.fmt ≠ 0) : (m.copy was).cells = (m.packed was).cells := by
  have hfirst : ¬ (m.promote = true ∧ isFormat m.srcState = true) := fun h => by simp [hdem] at h
  have hsecond : ¬ m.promote = true ∧ m.fmt ≠ 0 := ⟨by simp [hdem], hfmt⟩
  rw [Move.copy, if_neg hfirst, if_pos hsecond]
  exact foldl_keeps _ Memory.cells (fun k i => Memory.cells_carryBad _ k _ _ _) _ _

/-- Packing a page keeps the canonical form, and every byte outside the page's new place. -/
theorem Move.copy_packed_outside {m : Move} {was : Memory} (hdem : m.promote = false) (hfmt : m.fmt ≠ 0) (h : was.wf = true) :
    (m.copy was).wf = true ∧ ∀ z, z < m.dst ∨ m.dst + 65536 ≤ z → (m.copy was).byte z = was.byte z := by
  simp only [Memory.wf, Memory.byte, Move.cells_copy_packed was hdem hfmt]
  obtain ⟨hwf, hbyte⟩ := Memory.putGroups_outside (fun i => m.dst + mxBlockBytes (pageFmt (m.fmt + 1)) * i)
    (fun i => packLine (pageFmt (m.fmt + 1)) ((was.scrub m.src 65536).bytes (m.src + 64 * i) 64)) (List.range 1024) (was.scrub m.src 65536) h
  refine ⟨hwf, fun z hz => hbyte z fun i hi => ?_⟩
  have hi := List.mem_range.mp hi
  have hblock := mxBlockBytes_le (pageFmt (m.fmt + 1))
  have hplace : mxBlockBytes (pageFmt (m.fmt + 1)) * i ≤ 34 * i := Nat.mul_le_mul_right i hblock
  rw [length_packLine]
  omega

/-! ### The leaf of a page that has moved -/

/-- The leaf that the end of a move writes. -/
def State.movedLeaf (s : State) (m : Move) : Nat :=
  bits (s.mem.read m.leafAt 16) 7 0 + 2 ^ 8 * m.newState + 2 ^ 16 * (m.dst / 2 ^ 8) + 2 ^ 56 * (s.mem.read m.leafAt 16 / 2 ^ 56)
/-- The accesses that wait for a line of a move, in the order of their arrival. -/
def State.moveWaits (s : State) (m : Move) : List (Nat × Ev) := ((s.owned.filter fun o => o.owner == .move m.id).flatMap fun o => o.waiting).foldr putArrival []
/-- The page of a move is copied and its leaf written. -/
def State.leafMoved (s : State) (m : Move) : State := { s with mem := (m.copy s.mem).write m.leafAt 16 (s.movedLeaf m) }
/-- No station holds the page any more, and its lines are free. -/
def State.moved (s : State) (m : Move) : State :=
  let s1 := (s.leafMoved m).purgePage m.space m.va
  { s1 with owned := s1.owned.filter fun o => !(o.owner == .move m.id), moves := s1.moves.filter fun x => x.id != m.id,
            agenda := (s1.moveWaits m).map (fun e => Item.event e.2.1 e.2.2) ++ s1.agenda }
/-- The frame that a page has left goes on its stack. -/
def State.frameFreed (s : State) (m : Move) : State :=
  if isNear m.src then s.smrPush m.space 0 8 8 m.src else if isFar m.src then s.smrPush m.space 128 24 8 m.src else s
/-- A promotion is counted, and once more where the launch of its hint has gone. -/
def State.promotionCounted (s : State) (m : Move) : State :=
  let s1 := if m.promote then s.smrBump m.space 32 else s
  if m.promote ∧ ¬ (s1.launches.any fun l => l.id == m.launch) then s1.smrBump m.space 40 else s1

theorem State.moveEnd_eq (s : State) (m : Move) : s.moveEnd m = (((s.moved m).frameFreed m).promotionCounted m).unpost .tierMove (.num m.id) := rfl

theorem State.frameFreed_near {s : State} {m : Move} (h : isNear m.src = true) : s.frameFreed m = s.smrPush m.space 0 8 8 m.src := if_pos h
theorem State.promotionCounted_demoted {s : State} {m : Move} (h : m.promote = false) : s.promotionCounted m = s := by simp [State.promotionCounted, h]

/-- Of a page demoted from near memory, the frame it left goes on the near stack. -/
theorem State.moveEnd_mem_demoted {s : State} {m : Move} (hdem : m.promote = false) (hnear : isNear m.src = true) :
    (s.moveEnd m).mem = ((s.moved m).smrPush m.space 0 8 8 m.src).mem := by
  rw [State.moveEnd_eq, State.promotionCounted_demoted hdem, State.frameFreed_near hnear, State.unpost_mem]

theorem State.moved_mem (s : State) (m : Move) : (s.moved m).mem = (m.copy s.mem).write m.leafAt 16 (s.movedLeaf m) := rfl
theorem State.moved_mgmt (s : State) (m : Move) : (s.moved m).mgmt = s.mgmt := by
  unfold State.moved State.purgePage State.leafMoved
  dsimp only

theorem State.read_smrPush_outside {s : State} {space lo cnt size x b k : Nat} (h : s.mem.wf = true)
    (hslot : b + k ≤ s.smr space lo 48 + size * s.mem.read (s.mgmt.smrbase + 128 * space + cnt) 4 ∨
      s.smr space lo 48 + size * s.mem.read (s.mgmt.smrbase + 128 * space + cnt) 4 + size ≤ b)
    (hcnt : b + k ≤ s.mgmt.smrbase + 128 * space + cnt ∨ s.mgmt.smrbase + 128 * space + cnt + 4 ≤ b) :
    (s.smrPush space lo cnt size x).mem.read b k = s.mem.read b k := by
  show (((s.mem.scrub _ 128).write _ size x).write _ 4 _).read b k = _
  rw [Memory.read_write_outside _ (Memory.wf_write (s.mem.scrub _ 128) _ _ _ h) hcnt, Memory.read_write_outside (s.mem.scrub _ 128) h hslot]
  exact Memory.read_congr fun i _ => s.mem.byte_scrub ..

theorem State.read_moved_outside {s : State} {m : Move} {b k : Nat} (hdem : m.promote = false) (hfmt : m.fmt ≠ 0) (h : s.mem.wf = true)
    (hleaf : b + k ≤ m.leafAt ∨ m.leafAt + 16 ≤ b) (hdst : b + k ≤ m.dst ∨ m.dst + 65536 ≤ b) : (s.moved m).mem.read b k = s.mem.read b k := by
  obtain ⟨hwf, hbyte⟩ := Move.copy_packed_outside hdem hfmt h
  rw [State.moved_mem, Memory.read_write_outside _ hwf hleaf]
  exact Memory.read_congr fun i hi => hbyte _ (by omega)

/-! ### A format too large for its byte of the leaf -/

/-- A demotion at its end, of a format whose state number takes nine bits; FMT of a hint has two (R225). -/
def overfullMove : Move :=
  { id := 3, space := 0, va := 0x10000, leafAt := 0x20000, src := 0x40000, dst := 0x100_0000_0000, promote := false, fmt := 255, srcState := 0, urg := 0, launch := 0,
    started := true }
def movingState : State := { State.reset with moves := [overfullMove], mgmt := { Mgmt.reset with smrbase := 0x8000 }, cur := .event (.num 3) }

/-- Nothing is written yet. -/
theorem movingState_read (a n : Nat) : movingState.mem.read a n = 0 := by
  induction n generalizing a with
  | zero => rfl
  | succ n ih => rw [Memory.read, ih]; rfl

theorem movingState_smr (space lo n : Nat) : movingState.smr space lo n = 0 := by rw [State.smr, movingState_read, Nat.zero_div, Nat.zero_mod]

theorem overfullMove_leaf : (movingState.moveEnd overfullMove).mem.read (overfullMove.leafAt + 2) 5 = 2 ^ 32 + 1 := by
  have hwf : (movingState.moved overfullMove).mem.wf = true := Memory.wf_write _ _ _ _ (Move.copy_packed_outside rfl (by decide) rfl).1
  have outside {b k : Nat} (hleaf : b + k ≤ overfullMove.leafAt ∨ overfullMove.leafAt + 16 ≤ b) (hdst : b + k ≤ overfullMove.dst ∨ overfullMove.dst + 65536 ≤ b) :
      (movingState.moved overfullMove).mem.read b k = 0 := (State.read_moved_outside rfl (by decide) rfl hleaf hdst).trans (movingState_read b k)
  have hsmr : (movingState.moved overfullMove).smr overfullMove.space 0 48 = 0 := by
    rw [State.smr, outside (by decide) (by decide)]
    rfl
  have hcount : (movingState.moved overfullMove).mem.read ((movingState.moved overfullMove).mgmt.smrbase + 128 * overfullMove.space + 8) 4 = 0 :=
    outside (by rw [State.moved_mgmt]; decide) (by rw [State.moved_mgmt]; decide)
  have hleaf : movingState.movedLeaf overfullMove = 2 ^ 16 * (2 ^ 32 + 1) := by rw [State.movedLeaf, movingState_read]; decide
  rw [State.moveEnd_mem_demoted rfl (by decide), State.read_smrPush_outside hwf (by rw [hsmr, hcount]; decide) (by decide), State.moved_mem,
    Memory.read_write_within _ (Move.copy_packed_outside rfl (by decide) rfl).1 (by decide) (by rw [hleaf]; decide), hleaf]
  decide

end Sys2Proof.Machine

namespace Sys2Proof.Proofs
open Sys2Proof Sys2Proof.Machine Sys2Proof.Claims

theorem exec_tierMove_ends {s : State} {m : Move} (hat : At s (.num m.id)) (hmoves : s.moves = [m]) (hstarted : m.started = true) :
    exec .tierMove s = .next (s.moveEnd m) := by
  rw [exec_tierMove, execTierMove, hat]
  simp [hmoves, hstarted]

/-- Refutes O43: in `movingState` a demotion of format 255 ends, which has every premise of the clause on the page's new place; its state number, 256, reaches into the
address of the leaf, which then names a place 256 bytes beyond the frame. No run reaches such a move: FMT of a hint has two bits (R225). -/
theorem not_porterPrograms : ¬ Obligations.PorterPrograms := by
  rintro ⟨-, -, hmoves⟩
  have hexec := exec_tierMove_ends (s := movingState) (m := overfullMove) rfl rfl rfl
  obtain ⟨-, hends, -⟩ := hmoves movingState overfullMove rfl rfl
  replace hends := hends rfl rfl (.inl (by decide))
  simp only [movingState_read, movingState_smr] at hends
  obtain ⟨u, hrun, -, haddr, -⟩ := hends (by decide) (by decide) (by decide) (by decide) (by decide) (by decide)
  rw [← Host.Outcome.next.inj (hexec.symm.trans hrun), overfullMove_leaf] at haddr
  exact absurd haddr (by decide)

end Sys2Proof.Proofs
end

section
/-! Words written out from the encoding tables, and the state right after reset (Tables 3.1, 3.2, 3.11, R53, R73, R375, R376). -/
namespace Sys2Proof.Machine

/-- Every element of a vector of copies is the one copied. -/
theorem getElem_replicate_fin {α : Type} {n : Nat} (a : α) (i : Fin n) : (Vector.replicate n a)[i] = a := by
  simp [Fin.getElem_fin]

theorem Core.p_reset (r : Pred) : Core.reset.p[r] = (r == 0) := by revert r; decide
theorem Core.h_reset (r : HReg) : Core.reset.h[r] = Hoop.empty := getElem_replicate_fin ..
theorem State.core_reset (id : Nat) : State.reset.core id = Core.reset := rfl
theorem State.queue_reset (q : Nat) : State.reset.queue q = Queue.reset := getElem_replicate_fin ..

end Sys2Proof.Machine

namespace Sys2Proof.Proofs
open Sys2Proof Sys2Proof.Machine Sys2Proof.Claims

/-- Settles O57: each word is decoded. -/
theorem writtenOutWords : Obligations.WrittenOutWords := by
  refine ⟨?_, ?_, ?_, ?_, ?_, ⟨_, rfl⟩, ⟨_, rfl⟩, ?_, ?_, ?_, ?_, ?_⟩
  all_goals decide

/-- Settles O59: reset lists no core, so every core has its launch values (R53, R73). -/
theorem resetState : Obligations.ResetState := by
  refine ⟨rfl, rfl, rfl, fun _ => rfl, rfl, rfl, rfl, rfl, rfl, fun q _ => ?queues, fun id => ?core⟩
  case queues => rw [State.queue_reset]; rfl
  case core =>
    rw [State.core_reset]
    refine ⟨rfl, rfl, fun _ => ?s, fun _ => ?v, fun _ => ⟨?d, ?n⟩, fun _ => ?w, fun _ => ?m, Core.p_reset, fun _ => ?hoops,
      rfl, rfl, rfl, rfl, rfl, rfl, rfl, rfl, rfl, rfl, rfl, ?book, fun _ => ?trees, fun _ => ?ports⟩
    case hoops => rw [Core.h_reset]; rfl
    case book => decide
    all_goals exact getElem_replicate_fin ..

end Sys2Proof.Proofs
end

section
/-! Canonical memory (R331, R332): what sending flits, the effects of a core's operations, and entering and leaving a handler leave of it. -/
namespace Sys2Proof.Machine

/-- Memory is in its canonical form. -/
def State.Canon (s : State) : Prop := s.mem.wf = true

theorem State.Canon.of_mem {s u : State} (h : s.Canon) (e : u.mem = s.mem) : u.Canon := by rw [State.Canon, e]; exact h
theorem State.Canon.foldl {α : Type} {f : State → α → State} (hf : ∀ s x, s.Canon → (f s x).Canon) (l : List α) {s : State} (h : s.Canon) : (l.foldl f s).Canon :=
  foldl_inv f State.Canon hf l s h

theorem State.Canon.ite {c : Prop} [Decidable c] {s u : State} (hs : s.Canon) (hu : u.Canon) : (if c then s else u).Canon := by
  split
  · exact hs
  · exact hu
theorem State.Canon.ite_fst {α : Type} {c : Prop} [Decidable c] {x y : State × α} (hx : x.1.Canon) (hy : y.1.Canon) : (if c then x else y).1.Canon := by
  split
  · exact hx
  · exact hy
theorem State.Canon.post {s : State} {i : Instr} {a : EvArg} (hs : s.Canon) : (s.post i a).Canon := hs.of_mem (State.post_mem ..)
theorem State.Canon.noteWrite {s : State} {pa n : Nat} (hs : s.Canon) : (s.noteWrite pa n).Canon := hs.of_mem (State.noteWrite_mem ..)
theorem State.Canon.usePorts {s : State} {id key n : Nat} {w : Bool} (hs : s.Canon) : (s.usePorts id key n w).Canon := hs.of_mem (State.usePorts_mem ..)

/-! ### Flits on their way out -/

@[simp] theorem State.fixRoute_mem (s : State) (h l : Nat) : (s.fixRoute h l).mem = s.mem := rfl
@[simp] theorem State.fixGroup_mem (s : State) (g : Nat) : (s.fixGroup g).mem = s.mem := rfl
@[simp] theorem State.linkBad_mem (s : State) (p : Nat) : (s.linkBad p).mem = s.mem := rfl
@[simp] theorem State.linkGood_mem (s : State) (p q : Nat) : (s.linkGood p q).mem = s.mem := rfl
@[simp] theorem State.sendWords_mem (s : State) (route type : Nat) (ws : List Nat) (count status : Nat) :
    (s.sendWords route type ws count status).mem = s.mem := State.sendFlit_mem ..
@[simp] theorem State.sendGroup_mem (s : State) (g m type step : Nat) (ws : List Nat) : (s.sendGroup g m type step ws).mem = s.mem := State.sendFlit_mem ..
@[simp] theorem State.sendMembers_mem (s : State) (g type step : Nat) (ws : List Nat) : (s.sendMembers g type step ws).mem = s.mem :=
  foldl_keeps _ State.mem (fun s m => s.sendGroup_mem g m type step ws) _ s

/-! ### Effects of a core's operations -/

@[simp] theorem State.doGrant_mem (s : State) (id : Nat) (ch : Chan) (n : Nat) : (s.doGrant id ch n).mem = s.mem := by
  unfold State.doGrant
  dsimp only
  repeat' split
  all_goals simp [State.toPeer_mem]
@[simp] theorem State.doAck_mem (s : State) (id : Nat) (ch : Chan) (tag : Nat) : (s.doAck id ch tag).mem = s.mem := by
  unfold State.doAck
  dsimp only
  split <;> simp [State.toPeer_mem]
@[simp] theorem State.staleTiles_mem (s : State) (dst : Nat) (h : HReg) : (s.staleTiles dst h).mem = s.mem := rfl

namespace State.Canon
variable {s : State} {id : Nat}

theorem pushTile {h : HReg} {tile : List Byte} {cvs : List (Nat × Nat)} {shadows : List Nat} (hs : s.Canon) : (s.pushTile id h tile cvs shadows).Canon := by
  rw [State.Canon, State.pushTile_mem]
  exact s.mem.wf_putTile _ _ _ hs
theorem setAccs {vals : List (Nat × Nat)} (hs : s.Canon) : (s.setAccs id vals).Canon := Memory.wf_putAccs id vals s.mem hs

theorem doAct {a : Act} (hs : s.Canon) : (s.doAct id a).Canon := by
  unfold State.doAct
  split
  case h_6 =>
    split
    · exact hs.pushTile
    · exact hs.of_mem (by simp)
  case h_1 | h_2 => exact hs.setAccs
  all_goals exact hs.of_mem (by simp)
theorem doActs {l : List Act} (hs : s.Canon) : (s.doActs id l).Canon := by
  induction l generalizing s with
  | nil => exact hs
  | cons a rest ih => exact ih hs.doAct

theorem doSat {key : Nat} {x : AtX} {b a issued : Nat} {slot : Slot} (hs : s.Canon) : (s.doSat id key x b a issued slot).Canon := by
  unfold State.doSat
  dsimp only
  split
  · exact Memory.wf_write _ _ _ _ (Memory.wf_scrub _ _ _ hs)
  · exact hs
theorem doWrite {w : WOp} (hs : s.Canon) : (s.doWrite id w).Canon := by
  cases w with
  | put bs => exact Memory.wf_put _ _ hs
  | sat => exact hs.doSat
  | carm => exact Memory.wf_write _ _ _ _ hs
theorem doWrites {l : List WOp} (hs : s.Canon) : (s.doWrites id l).Canon := by
  induction l generalizing s with
  | nil => exact hs
  | cons w rest ih => exact ih hs.doWrite

end State.Canon

/-! ### Fills of read-bound ports, and the handler (R264, R266, R270) -/

theorem Memory.wf_scrubUnit (m : Memory) (id : Nat) (w : BitVec 512) (i : Nat) (h : m.wf = true) : (m.scrubUnit id w i).wf = true :=
  foldl_inv _ (fun m => Memory.wf m = true) (fun m _ hm => m.wf_scrub _ _ hm) _ m h

namespace State.Canon
variable {s : State} {id : Nat}

theorem drainCore (hs : s.Canon) : (s.drainCore id).Canon := by
  unfold State.drainCore
  have h1 : (((s.setCore id { s.core id with writes := [], demand := [], msgPath := [] }).doWrites id ((s.core id).writes.map fun w => w.2)).Canon) := doWrites hs
  have h2 := doActs (id := id) (l := (s.core id).acts.map fun a => a.2.2) (h1.of_mem (u := _) (State.updCore_mem _ id fun c => { c with acts := [] }))
  refine foldl_inv _ (fun m => Memory.wf m = true) (fun m p hm => ?_) _ _ h2
  split
  · exact foldl_inv _ (fun m => Memory.wf m = true) (fun m i hm => Memory.wf_scrubUnit m _ _ _ hm) _ _ hm
  · exact hm

theorem enterHandler {k : Cause} {more : Bool} {caps : Option (List (Nat × Capture))} (hs : s.Canon) : (s.enterHandler id k more caps).Canon := by
  unfold State.enterHandler
  dsimp only
  rw [State.Canon, State.setCore_mem]
  split
  · exact Memory.wf_put _ _ hs.drainCore
  · exact hs.drainCore
theorem resumeCore (hs : s.Canon) : (s.resumeCore id).Canon := by
  unfold State.resumeCore
  dsimp only
  split <;> exact hs.drainCore

end State.Canon
end Sys2Proof.Machine
end

section
/-! Canonical memory: translation, porters' contexts, records of the command processor, groups, arrival words (R80, R313 to R316, R319, R356, R358, R414). -/
namespace Sys2Proof.Machine

/-! ### Updates that leave memory -/

@[simp] theorem ctxStart_mem (c : Core) (id : Nat) (r : SpecialReg) (x : Word) (s : State) : (ctxStart c id r x s).mem = s.mem := by
  unfold ctxStart
  repeat' split
  all_goals simp
@[simp] theorem State.postCmd_mem (s : State) (id : Nat) (e : Fin 2) (k : Cmd) : (s.postCmd id e k).mem = s.mem := by
  unfold State.postCmd
  repeat' split
  all_goals simp
@[simp] theorem State.sendMsgs_mem (s : State) (id : Nat) (ch : Chan) (ms : List Nat) : (s.sendMsgs id ch ms).mem = s.mem := by
  unfold State.sendMsgs
  dsimp only
  split
  · simp [State.sendRows_mem]
  · refine (foldl_keeps _ State.mem (fun s x => s.toPeer_mem ..) _ _).trans ?_
    split <;> rfl
@[simp] theorem State.sendVector_mem (s : State) (id : Nat) (ch : Chan) (x : Nat) : (s.sendVector id ch x).mem = s.mem := s.sendMsgs_mem ..
@[simp] theorem State.logFault_mem (s : State) (n : Nat) (r : TransReq) (reason level who : Nat) : (s.logFault n r reason level who).mem = s.mem := rfl
@[simp] theorem State.checkLeaf_mem (s : State) (r : Req) (q : TransReq) (l : TLeaf) : (s.checkLeaf r q l).1.mem = s.mem := by
  unfold State.checkLeaf
  repeat' split
  all_goals rfl
@[simp] theorem State.translate_mem (s : State) (r : Req) (va kind : Nat) : (s.translate r va kind).1.mem = s.mem := by
  unfold State.translate
  dsimp only
  repeat' split
  all_goals simp [State.askWalk_mem]
@[simp] theorem State.forget_mem (s : State) (e : Ev) : (s.forget e).mem = s.mem := rfl
theorem State.recallWait_mem {s u : State} {ev : Ev} {lines : List Nat} (h : s.recallWait ev lines = some u) : u.mem = s.mem := by
  unfold State.recallWait at h
  split at h
  · cases h
  · cases h; rfl
@[simp] theorem State.setPorter_mem (s : State) (p : Nat) (x : Porter) : (s.setPorter p x).mem = s.mem := rfl
@[simp] theorem State.updCtx_mem (s : State) (p ctag : Nat) (f : PCtx → PCtx) : (s.updCtx p ctag f).mem = s.mem := rfl
@[simp] theorem State.updRun_mem (s : State) (p ctag : Nat) (f : Run → Run) : (s.updRun p ctag f).mem = s.mem := rfl
@[simp] theorem State.raiseVec_mem (s : State) (v : Nat) : (s.raiseVec v).mem = s.mem := rfl
@[simp] theorem State.mapSaved_mem (s : State) (f : Hidden → Hidden) : (s.mapSaved f).mem = s.mem := rfl
@[simp] theorem State.retireAborted_mem (s : State) (l : Launch) : (s.retireAborted l).mem = s.mem := by simp [State.retireAborted]
@[simp] theorem State.foldl_updCore_mem (s : State) (l : List Nat) (f : Core → Core) : (l.foldl (fun (s : State) c => s.updCore c f) s).mem = s.mem :=
  foldl_keeps _ State.mem (fun s c => s.updCore_mem c f) l s
@[simp] theorem State.abortLaunch_mem (s : State) (g a : Nat) (l : Launch) : (s.abortLaunch g a l).mem = s.mem := by
  unfold State.abortLaunch
  dsimp only
  split <;> simp
@[simp] theorem State.postEv_mem (s : State) (e : Ev) : (s.postEv e).mem = s.mem := s.post_mem ..
@[simp] theorem State.unpostEv_mem (s : State) (e : Ev) : (s.unpostEv e).mem = s.mem := rfl
@[simp] theorem State.sendFinal_mem (s : State) (g : Nat) : (s.sendFinal g).mem = s.mem := by
  unfold State.sendFinal
  split <;> simp

/-! ### A reply, and what follows it -/

/-- What follows an answer keeps what the answer and the rest keep. -/
theorem State.Canon.andThen {α β : Type} {x : State × Reply α} {f : State → α → State × Reply β} (hx : x.1.Canon)
    (hf : ∀ s a, s.Canon → (f s a).1.Canon) : (andThen x f).1.Canon := by
  unfold Machine.andThen
  split
  case h_1 a _ => exact hf _ a hx
  all_goals exact hx
theorem State.Canon.asFault {α : Type} {x : State × Reply α} {code : Nat} (hx : x.1.Canon) : (asFault code x).1.Canon := by
  unfold Machine.asFault
  split <;> exact hx

namespace State.Canon
variable {s : State}

theorem postEv {e : Ev} (hs : s.Canon) : (s.postEv e).Canon := hs.post
theorem unpost {i : Instr} {a : EvArg} (hs : s.Canon) : (s.unpost i a).Canon := hs
theorem unpostEv {e : Ev} (hs : s.Canon) : (s.unpostEv e).Canon := hs
theorem forget {e : Ev} (hs : s.Canon) : (s.forget e).Canon := hs
theorem putCmd {a : Asker} {k : Cmd} (hs : s.Canon) : (s.putCmd a k).Canon := hs.of_mem (State.putCmd_mem ..)
theorem updRun {p ctag : Nat} {f : Run → Run} (hs : s.Canon) : (s.updRun p ctag f).Canon := hs
theorem updCtx {p ctag : Nat} {f : PCtx → PCtx} (hs : s.Canon) : (s.updCtx p ctag f).Canon := hs
theorem updCore {id : Nat} {f : Core → Core} (hs : s.Canon) : (s.updCore id f).Canon := hs

/-! ### Contexts of porters -/

theorem scrubWalk {space va : Nat} (hs : s.Canon) : (s.scrubWalk space va).Canon :=
  foldl_inv _ (fun m => Memory.wf m = true) (fun m _ hm => m.wf_scrub _ _ hm) _ _ hs
theorem evict {u : State} {p : Nat} (hs : s.Canon) (h : s.evict p = some u) : u.Canon := by
  unfold State.evict at h
  split at h
  · cases h
  · cases h
    rw [State.Canon, State.setPorter_mem]
    split
    · exact hs
    · exact Memory.wf_write _ _ _ _ hs
theorem resident {u : State} {p ctag : Nat} (hs : s.Canon) (h : s.resident p ctag = some u) : u.Canon := by
  unfold State.resident at h
  dsimp only at h
  split at h
  · cases h; exact hs
  · split at h
    · cases h; exact hs
    · obtain ⟨t, ht, rfl⟩ := Option.map_eq_some_iff.mp h
      have h1 := hs.evict ht
      exact Memory.wf_scrub _ _ _ h1

/-! ### Records of the command processor, and groups -/

theorem hostWrite {a n x : Nat} (hs : s.Canon) : (s.hostWrite a n x).Canon := Memory.wf_write _ _ _ _ hs
theorem event {x : Nat} (hs : s.Canon) : (s.event x).Canon := by
  simp only [State.Canon, State.event, State.raiseVec_mem]
  exact hs.hostWrite
theorem freezeRecord {x : Nat} (hs : s.Canon) : (s.freezeRecord x).1.Canon := by
  unfold State.freezeRecord
  exact event (Memory.wf_write _ _ _ _ hs)
theorem putGroup {g byte n x : Nat} (hs : s.Canon) : (s.putGroup g byte n x).Canon := Memory.wf_write _ _ _ _ hs
theorem applyAgreed {g a : Nat} (hs : s.Canon) : (s.applyAgreed g a).Canon := by
  unfold State.applyAgreed
  exact of_mem hs.putGroup (State.foldl_updCore_mem ..)
theorem tryAgree {g : Nat} (hs : s.Canon) : (s.tryAgree g).Canon := by
  unfold State.tryAgree
  dsimp only
  split
  · exact applyAgreed (hs.of_mem (by simp))
  · exact hs
theorem beginAbort {g cause aborter : Nat} (hs : s.Canon) : (s.beginAbort g cause aborter).Canon := by
  unfold State.beginAbort
  refine tryAgree (of_mem ?_ (State.sendFinal_mem ..))
  exact foldl (fun s l hs => hs.of_mem (s.abortLaunch_mem g aborter l)) _ hs.putGroup.putGroup
theorem raiseAbort {g cause : Nat} (hs : s.Canon) : (s.raiseAbort g cause).Canon := by
  unfold State.raiseAbort
  split
  · exact hs
  · exact beginAbort (hs.of_mem (by simp))
theorem raiseAbortOf {id cause : Nat} (hs : s.Canon) : (s.raiseAbortOf id cause).Canon := by
  unfold State.raiseAbortOf
  split
  · split
    · exact hs.raiseAbort
    · exact hs
  · exact hs

/-! ### Frozen cores and contexts -/

theorem freezeCore {id : Nat} {v : Violation} (hs : s.Canon) : (s.freezeCore id v).Canon := by
  unfold State.freezeCore
  split
  · exact hs
  · refine raiseAbortOf ?_
    simp only [State.Canon, State.updCore_mem]
    exact hs.drainCore.freezeRecord
theorem freezeCtx {p ctag step addr : Nat} (hs : s.Canon) : (s.freezeCtx p ctag step addr).Canon := by
  unfold State.freezeCtx
  split
  · exact hs
  · split
    · exact hs
    · simp only [State.Canon, State.updCtx_mem]
      exact hs.freezeRecord
theorem serve {r : Req} {pa : Nat} (hs : s.Canon) : (s.serve r pa).1.Canon := by
  unfold State.serve
  dsimp only
  split
  · exact hs
  next u hu =>
    have h1 := hs.resident hu
    split
    · exact h1
    · split
      · exact h1
      · split
        · exact h1.freezeCtx
        · exact h1

/-! ### Arrival words -/

theorem arrive {arr : Option Nat} {n : Nat} (hs : s.Canon) : (s.arrive arr n).1.Canon := by
  unfold State.arrive
  split
  · exact hs
  · dsimp only
    split
    · exact hs
    · rw [State.Canon, State.usePorts_mem, State.usePorts_mem]
      exact Memory.wf_write _ _ _ _ hs
theorem countBytes {k : Cmd} {arr : Option Nat} {n : Nat} (hs : s.Canon) : (s.countBytes k arr n).1.Canon := hs.arrive

end State.Canon
end Sys2Proof.Machine
end

section
/-! Canonical memory: copy commands, the lines they own, and their ends (R215 to R222, R318). -/
namespace Sys2Proof.Machine

/-- An operation after which memory is canonical where it was before. -/
def KeepsCanon (f : State → Out) : Prop := ∀ s u, s.Canon → f s = .next u → u.Canon

/-! ### Memory as these operations change it -/

theorem Memory.wf_putCopied (m : Memory) (key : Nat) (bs : List Byte) (cvs : List Nat) (h : m.wf = true) : (m.putCopied key bs cvs).wf = true := by
  induction cvs generalizing m key bs with
  | nil => exact m.wf_put _ h
  | cons cv rest ih => exact ih _ _ _ (m.wf_putLine _ _ _ h)
theorem Memory.wf_setErr (m : Memory) (key : Nat) (h : m.wf = true) : (m.setErr key).wf = true := by
  unfold Memory.setErr
  split
  · exact h
  · exact m.wf_write _ _ _ h
theorem Memory.wf_perform (m : Memory) (o : Owned) (h : m.wf = true) : (o.perform m).wf = true := by
  unfold Owned.perform
  split
  · exact m.wf_putLineDev _ _ _ h
  · exact m.wf_putDev _ h

/-! ### Updates that leave memory -/

@[simp] theorem State.spadSpot_mem (s : State) (r : Req) (k : Cmd) (core : Nat) (addr : Int) (n : Nat) : (s.spadSpot r k core addr n).1.mem = s.mem := by
  unfold State.spadSpot
  repeat' split
  all_goals rfl
@[simp] theorem State.physSpot_mem (s : State) (r : Req) (addr : Int) (n : Nat) : (s.physSpot r addr n).1.mem = s.mem := by
  unfold State.physSpot
  repeat' split
  all_goals rfl
@[simp] theorem State.ownLines_mem (s : State) (a : Asker) (counted : Bool) (key : Nat) (bs : List Byte) (cvs : List Nat) :
    (s.ownLines a counted key bs cvs).mem = s.mem :=
  foldl_keeps _ State.mem (fun s _ => s.ownLine_mem ..) _ s
@[simp] theorem State.startCopy_mem (s : State) (a : Asker) (k : Cmd) : (s.startCopy a k).mem = s.mem := by
  unfold State.startCopy
  split <;> simp
@[simp] theorem State.poisoned_mem (s : State) (pa : Nat) : (s.poisoned pa).mem = s.mem := rfl
@[simp] theorem State.poisonTo_mem (s : State) (pa dst : Nat) : (s.poisonTo pa dst).mem = s.mem := rfl

namespace State.Canon
variable {s : State} {a : Asker} {r : Req} {k : Cmd}

/-! ### Where an element lies, and its bytes -/

theorem virtSpot {addr : Int} {n kind : Nat} (hs : s.Canon) : (s.virtSpot r addr n kind).1.Canon := by
  unfold State.virtSpot
  split
  · exact hs
  · exact .andThen (asFault (hs.of_mem (by simp))) fun s _ hs => hs
theorem reach {pa n : Nat} (hs : s.Canon) : (s.reach r pa n).1.Canon := by
  unfold State.reach
  split
  next h => exact hs.of_mem (State.recallWait_mem h)
  · exact hs.serve
theorem kvReach {e : Nat} (hs : s.Canon) : (s.kvReach r e).1.Canon :=
  .andThen hs.reach fun _ _ hs => hs
theorem pagedSpot {w : BitVec 512} {idx : List Nat} {n : Nat} (hs : s.Canon) : (s.pagedSpot r w idx n).1.Canon := by
  refine .andThen (asFault (hs.of_mem (by simp))) fun s x hs => .andThen hs.reach fun s _ hs => ?_
  have hscrub : ({ s with mem := s.mem.scrubRead x.2 x.1 8 } : State).Canon := Memory.wf_scrubRead _ _ _ _ hs
  dsimp only
  split
  · exact hscrub
  · split
    · exact hscrub
    · refine .andThen hscrub.kvReach fun s _ hs => ?_
      split
      · exact hs
      · split
        · exact hs
        · exact hs.of_mem (by simp)
theorem elemSpot {w : BitVec 512} {idx : List Nat} {kind : Nat} (hs : s.Canon) : (s.elemSpot a r k w idx kind).1.Canon := by
  unfold State.elemSpot
  dsimp only
  split
  · exact hs.pagedSpot
  · split
    case h_3 => exact hs.virtSpot
    all_goals exact hs.of_mem (by simp)
theorem readSpot {p : Spot} {n : Nat} (hs : s.Canon) : (s.readSpot a r k p n).1.Canon := by
  have hfinish (t : State) (rd : Prop) [Decidable rd] (x y : Reply (List Byte × List Nat)) (ht : t.Canon) :
      (if rd then (t, x) else (({ t with mem := t.mem.scrubRead p.leaf p.key n } : State), y)).1.Canon := by
    split
    · exact ht
    · exact Memory.wf_scrubRead _ _ _ _ ht
  unfold State.readSpot
  dsimp only
  split
  · exact .andThen hs.reach fun s _ hs => hfinish s _ _ _ hs
  · exact hfinish _ _ _ _ (hs.of_mem (by simp))
theorem indexAt {ix : BitVec 512} {row : Nat} (hs : s.Canon) : (s.indexAt a r k ix row).1.Canon :=
  .andThen hs.elemSpot fun _ _ hs => .andThen hs.readSpot fun _ _ hs => hs
theorem rowIdx {w : BitVec 512} {ix : Option (BitVec 512)} {j : Nat} (hs : s.Canon) : (s.rowIdx a r k w ix j).1.Canon := by
  unfold State.rowIdx
  split
  · exact hs
  · refine .andThen hs.indexAt fun s _ hs => ?_
    split <;> exact hs
theorem srcSpot {j : Nat} (hs : s.Canon) : (s.srcSpot a r k j).1.Canon := by
  unfold State.srcSpot
  split
  · exact hs
  · exact .andThen hs.rowIdx fun _ _ hs => .andThen hs.elemSpot fun _ _ hs => hs
theorem srcBytes {p : Option Spot} (hs : s.Canon) : (s.srcBytes a r k p).1.Canon := by
  cases p with
  | none => exact hs
  | some p => exact .andThen hs.readSpot fun _ _ hs => hs
theorem srcElem {j : Nat} (hs : s.Canon) : (s.srcElem a r k j).1.Canon := .andThen hs.srcSpot fun _ _ hs => hs.srcBytes
theorem dstSpot {j : Nat} (hs : s.Canon) : (s.dstSpot a r k j).1.Canon := .andThen hs.rowIdx fun _ _ hs => hs.elemSpot
theorem rowTo {ix : BitVec 512} {i n : Nat} (hs : s.Canon) : (s.rowTo a r k ix i n).1.Canon := by
  induction n with
  | zero => exact hs
  | succ n ih =>
    refine .andThen ih fun s _ hs => .andThen hs.indexAt fun s _ hs => ?_
    split <;> exact hs

/-! ### Writing an element -/

theorem writeSpot {p : Spot} {bs : List Byte} {cvs : List Nat} {arr : Option Nat} (hs : s.Canon) : (s.writeSpot a r k p bs cvs arr).1.Canon := by
  unfold State.writeSpot
  dsimp only
  split
  · refine .andThen hs.reach fun s _ hs => ?_
    split
    · exact hs
    · exact hs.of_mem (by simp)
  · refine countBytes (k := k) (of_mem ?_ (State.usePorts_mem ..))
    exact Memory.wf_putCopied _ _ _ _ hs
theorem appendTile {core : Nat} {h : HReg} {len : Nat} {bs : List Byte} {cvs : List Nat} {tag : Nat} (hs : s.Canon) :
    (s.appendTile a k core h len bs cvs tag).1.Canon := by
  refine .andThen hs fun s t hs => ?_
  split
  · exact hs
  · dsimp only
    split
    · exact hs.of_mem (by simp)
    · exact hs
theorem pushFull {h : HReg} {arrOf : Nat → Option Nat} (hs : s.Canon) : (s.pushFull a k h arrOf).Canon := by
  unfold State.pushFull
  split
  · exact hs.of_mem (by simp)
  · split
    · exact hs
    next core t _ =>
      dsimp only
      have hpush : (if t.stale then { s with mem := s.mem.putTile (spadKey core (t.ring.tileAt t.ring.tail)) t.bytes t.cvs }
          else s.pushTile core h t.bytes t.cvs t.shadows).Canon := by
        split
        · exact s.mem.wf_putTile _ _ _ hs
        · exact hs.pushTile
      have hcount := hpush.countBytes (k := k.setTile core none) (arr := arrOf core) (n := t.bytes.length)
      exact hcount.of_mem (by simp only [apply_ite State.mem, State.postEv_mem, State.unpost_mem, State.putCmd_mem, ite_self])
theorem tileElem {core : Nat} {h : HReg} {j : Nat} (hs : s.Canon) : (s.tileElem a r k core h j).1.Canon := by
  unfold State.tileElem
  split
  · exact hs.srcElem
  · refine .andThen hs.rowTo fun s _ hs => ?_
    split
    · exact hs.srcElem
    · exact hs
theorem gather {line n j : Nat} (hs : s.Canon) : (s.gather a r k line n j).1.Canon := by
  induction n generalizing s j with
  | zero => exact hs
  | succ n ih =>
    have hspots : (Machine.andThen (s.srcSpot a r k j) fun s p => Machine.andThen (s.dstSpot a r k j) fun s q => (s, Reply.ok (p, q))).1.Canon :=
      .andThen hs.srcSpot fun _ _ hs => .andThen hs.dstSpot fun _ _ hs => hs
    unfold State.gather
    split
    · exact hs
    · dsimp only
      split
      next p q _ =>
        split
        · exact hs
        · have hsrc := hspots.srcBytes (a := a) (r := r) (k := k) (p := p)
          split
          · exact .andThen (ih hsrc) fun _ _ hs => hs
          · exact hsrc
          · exact hsrc
          · exact hs
      · exact hspots
      · exact hspots
      · exact hs
theorem writeParts {q : Spot} {bs : List Byte} {j : Nat} (hs : s.Canon) : (s.writeParts a r k q bs j).1.Canon := by
  refine .andThen hs.reach fun s _ hs => ?_
  split
  · exact hs
  · exact .andThen hs.gather fun s _ hs => hs.of_mem (s.ownLine_mem ..)
theorem moveElem (hs : s.Canon) : (s.moveElem a r k).1.Canon := by
  unfold State.moveElem
  dsimp only
  split
  · exact .andThen hs.tileElem fun _ _ hs => .andThen hs.appendTile fun _ _ hs => hs
  · refine .andThen hs.srcElem fun _ _ hs => .andThen hs.dstSpot fun _ _ hs => ?_
    split
    · exact hs.writeParts
    · exact hs.writeSpot
theorem dealTo {c : PCtx} {pat arr i : Nat} (hs : s.Canon) : (s.dealTo a r k c pat arr i).1.Canon := by
  unfold State.dealTo
  dsimp only
  split
  · exact hs
  · refine .andThen hs.elemSpot fun _ _ hs => .andThen hs.readSpot fun _ _ hs => ?_
    split
    · exact .andThen hs.appendTile fun _ _ hs => hs
    · exact .andThen (hs.of_mem (by simp)) fun _ _ hs => .andThen hs.writeSpot fun _ _ hs => hs
theorem dealElem {c : PCtx} {pat arr : Nat} (hs : s.Canon) : (s.dealElem a r k c pat arr).1.Canon := by
  unfold State.dealElem
  split
  · exact hs
  · dsimp only
    split
    · exact hs
    · exact hs.dealTo
theorem stepElem (hs : s.Canon) : (s.stepElem a r k).1.Canon := by
  unfold State.stepElem
  split
  · split
    · exact hs.dealElem
    · exact hs
  · exact hs.moveElem

/-! ### A step of a command, and what its reply leads to -/

theorem freezeAsker {addr : Nat} (hs : s.Canon) : (s.freezeAsker a addr).Canon := by
  cases a with
  | engine c e i => exact hs.freezeCore
  | step p t i => exact hs.freezeCtx
  | thread c t i => exact hs.freezeCore
theorem violCmd {ev : Ev} {addr : Nat} (hs : s.Canon) : (violCmd a k ev s addr).Canon := by
  have h1 : (((s.putCmd a k).forget ev).unpostEv ev).Canon := hs.of_mem (by simp)
  unfold Machine.violCmd
  dsimp only
  split
  · exact h1.freezeAsker.of_mem (State.updCtx_mem ..)
  · exact h1.freezeAsker
theorem settleCmd {ev : Ev} {x : State × Reply Cmd} (hx : x.1.Canon) : (settleCmd a k ev x).Canon := by
  unfold Machine.settleCmd
  split
  case h_5 => exact hx.violCmd
  case h_1 => dsimp only; split <;> exact hx.of_mem (by simp)
  all_goals exact hx.of_mem (by simp)
theorem stepData {ev : Ev} (hs : s.Canon) : (s.stepData a ev).Canon := by
  unfold State.stepData
  split
  · exact hs
  · split
    · exact hs.of_mem (by simp)
    · split
      · exact hs
      · split
        · exact hs.of_mem (by simp)
        · exact settleCmd hs.stepElem

/-! ### Lines that are written when their recall completes, and ends of commands -/

theorem ownerDone {o : Owned} (hs : s.Canon) : (s.ownerDone o).Canon := by
  unfold State.ownerDone
  split
  · split
    · exact hs
    next k _ =>
      have hcount : (if k.fault.isSome then (s, k) else s.countBytes k k.arrival o.count).1.Canon := by
        split
        · exact hs
        · exact hs.countBytes
      exact hcount.of_mem (by simp only [apply_ite State.mem, State.postEv_mem, State.putCmd_mem, ite_self])
  · exact hs
  · exact hs
theorem recallLine {line : Nat} (hs : s.Canon) : (s.recall line).Canon := by
  unfold State.recall
  split
  · exact hs
  · dsimp only
    have hdone {t : State} {o : Owned} {b : Bool} (ht : t.Canon) :
        (if b then (t.unpost .recallComplete (.memLine line)).ownerDone o else ((t.unpost .recallComplete (.memLine line)).ownerDone o).noteWrite line 64).Canon := by
      have h1 : ((t.unpost .recallComplete (.memLine line)).ownerDone o).Canon := ownerDone ht
      split
      · exact h1
      · exact h1.of_mem (State.noteWrite_mem ..)
    exact hdone (Memory.wf_perform _ _ hs)
theorem reportFault {code own : Nat} (hs : s.Canon) : (s.reportFault k code own).Canon := by
  unfold State.reportFault
  split
  · exact hs
  · exact Memory.wf_setErr _ _ hs
theorem completeCmd {core : Nat} {e : Fin 2} (hs : s.Canon) : (s.completeCmd core e k).Canon := by
  unfold State.completeCmd
  dsimp only
  refine of_mem ?_ (State.unpostEv_mem ..)
  split
  · exact reportFault hs
  · exact hs

end State.Canon

/-! ### The events of the engines -/

theorem KeepsCanon.arrivalWordUpdate : KeepsCanon execArrivalWordUpdate := by
  intro s u hs hu
  unfold execArrivalWordUpdate at hu
  split at hu
  · cases hu; exact hs.stepData
  · cases hu
theorem KeepsCanon.hoopPush : KeepsCanon execHoopPush := by
  intro s u hs hu
  unfold execHoopPush at hu
  split at hu
  · split at hu
    · split at hu
      · cases hu; exact hs
      · cases hu; exact hs.pushFull
    · cases hu; exact hs
  · cases hu
theorem KeepsCanon.recallComplete : KeepsCanon execRecallComplete := by
  intro s u hs hu
  unfold execRecallComplete at hu
  split at hu
  · split at hu
    · cases hu; exact hs
    · cases hu; exact hs.recallLine
  · cases hu
theorem KeepsCanon.copyCommandComplete : KeepsCanon execCopyCommandComplete := by
  intro s u hs hu
  unfold execCopyCommandComplete at hu
  split at hu
  · dsimp only at hu
    split at hu
    · split at hu
      · cases hu; exact hs.completeCmd
      · cases hu; exact hs
    · cases hu; exact hs
  · cases hu

end Sys2Proof.Machine
end

section
/-! Canonical memory: walks, atomics and key-value pages, tier moves, and runs of porter programs (R223 to R226, R312 to R316, R319 to R323, R337). -/
namespace Sys2Proof.Machine

/-! ### Updates that leave memory -/

@[simp] theorem State.setStation_mem (s : State) (n : Nat) (t : Station) : (s.setStation n t).mem = s.mem := rfl
@[simp] theorem State.purgePage_mem (s : State) (space va : Nat) : (s.purgePage space va).mem = s.mem := rfl
@[simp] theorem State.holdCtx_mem (s : State) (p ctag : Nat) (ev : Ev) : (s.holdCtx p ctag ev).mem = s.mem := rfl
@[simp] theorem State.startRun_mem (s : State) (p ctag : Nat) (block : Except Nat (List Byte)) : (s.startRun p ctag block).mem = s.mem := by
  unfold State.startRun
  dsimp only
  split <;> simp

namespace State.Canon
variable {s : State} {a : Asker} {r : Req} {k : Cmd}

/-! ### Walks -/

theorem walkDone {station : Nat} {q : TransReq} (hs : s.Canon) : (s.walkDone station q).Canon := by
  unfold State.walkDone
  dsimp only
  split
  · exact hs
  · split
    · exact hs
    · refine of_mem (State.Canon.scrubWalk (space := q.space) (va := q.va / 2 ^ 16 * 2 ^ 16) hs) ?_
      dsimp only [State.unpost_mem]
      split
      · rfl
      · exact foldl_keeps _ State.mem (fun s _ => s.logFault_mem ..) _ _

/-! ### Atomics, and entries of key-value pages -/

theorem scrubSmr {space : Nat} (hs : s.Canon) : (s.scrubSmr space).Canon := hs
theorem devAtomic {x : AtX} {va b c : Nat} (hs : s.Canon) : (s.devAtomic r x va b c).1.Canon := by
  refine .andThen (asFault (hs.of_mem (by simp))) fun s p hs => .andThen hs.reach fun s _ hs => ?_
  exact ite_fst hs (noteWrite (Memory.wf_writeDev _ _ _ _ (Memory.wf_scrub _ _ _ hs)))
theorem finishEight (hs : s.Canon) : (s.finishEight k).1.Canon := hs.countBytes (k := k)
theorem stepCatom {x : AtX} {rc va b c : Nat} (hs : s.Canon) : (s.stepCatom r k x rc va b c).1.Canon := by
  refine .andThen hs.devAtomic fun s o hs => finishEight ?_
  exact .ite (usePorts (Memory.wf_write _ _ _ _ hs)) hs
theorem smrPush {space lo cnt size x : Nat} (hs : s.Canon) : (s.smrPush space lo cnt size x).Canon :=
  Memory.wf_write _ _ _ _ (Memory.wf_write _ _ _ _ (Memory.wf_scrub _ _ _ hs))
theorem smrPop {space lo cnt size x : Nat} {u : State} (hs : s.Canon) (h : s.smrPop space lo cnt size = some (u, x)) : u.Canon := by
  unfold State.smrPop at h
  dsimp only at h
  split at h
  · cases h
  · cases h
    exact Memory.wf_write _ _ _ _ hs
theorem smrBump {space n : Nat} (hs : s.Canon) : (s.smrBump space n).Canon := Memory.wf_write _ _ _ _ hs
theorem setEntry {space e x : Nat} (hs : s.Canon) : (s.setEntry space e x).Canon := Memory.wf_write _ _ _ _ hs
theorem kvFree {space e x : Nat} (hs : s.Canon) : (s.kvFree space e x).Canon := by
  unfold State.kvFree
  exact setEntry (smrPush (.ite hs.smrPush hs.smrPush))
theorem kvAlloc {space : Nat} {u : State} {x : Nat × Nat} (hs : s.Canon) (h : s.kvAlloc space = some (u, x)) : u.Canon := by
  unfold State.kvAlloc at h
  split at h
  · cases h
  next t e ht =>
    obtain ⟨⟨v, y⟩, hv, hu⟩ := Option.map_eq_some_iff.mp h
    cases hu
    exact setEntry ((hs.smrPop ht).smrPop hv)
theorem kvRef {va : Nat} (hs : s.Canon) : (s.kvRef r va).1.Canon := by
  refine .andThen (asFault (hs.of_mem (by simp))) fun s p hs => .andThen hs.reach fun s _ hs => ?_
  exact ite_fst hs (ite_fst hs hs)
/-- What becomes of an entry whose count went down. -/
theorem kvSettle {c : Bool} {space e x : Nat} (hs : s.Canon) : (if c then s.kvFree space e x else s.setEntry space e x).Canon :=
  .ite hs.kvFree hs.setEntry
theorem stepKv {va : Nat} (hs : s.Canon) : (s.stepKv r k va).1.Canon := by
  refine .andThen hs.kvRef fun s p hs => ite_fst hs (.andThen hs.kvReach fun s _ hs => ?_)
  dsimp only
  split
  · exact ite_fst hs (finishEight (kvSettle (noteWrite (Memory.wf_writeDev _ _ _ _ hs))))
  · exact ite_fst hs (finishEight hs.setEntry)
  · exact ite_fst hs (finishEight hs.kvSettle)
theorem copyFrame {src dst lines : Nat} (hs : s.Canon) : (s.copyFrame src dst lines).1.Canon := by
  unfold State.copyFrame
  exact ite_fst hs (foldl_inv _ (fun m => Memory.wf m = true) (fun m _ hm => m.wf_putLine _ _ _ hm) _ _ hs)
theorem kvFresh {pa : Nat} {old : Option (Nat × Nat)} (hs : s.Canon) : (s.kvFresh r pa old).1.Canon := by
  unfold State.kvFresh
  split
  · exact hs
  · refine .andThen hs.kvReach fun s _ hs => ?_
    split
    · exact hs
    next h => exact noteWrite (Memory.wf_writeDev _ _ _ _ (hs.kvAlloc h))
    next h =>
      dsimp only
      split
      next h => exact hs.of_mem (State.recallWait_mem h)
      · exact ite_fst hs (noteWrite (Memory.wf_writeDev _ _ _ _ (kvSettle (hs.kvAlloc h).copyFrame)))
theorem kvPrepare {pa ref : Nat} (hs : s.Canon) : (s.kvPrepare r pa ref).1.Canon := by
  unfold State.kvPrepare
  exact ite_fst hs.kvFresh (.andThen hs.kvReach fun s _ hs => ite_fst hs (ite_fst hs.kvFresh hs))
theorem kvDesc {desc : Nat} (hs : s.Canon) : (s.kvDesc a r k desc).1.Canon := by
  refine .andThen (hs.of_mem (by simp)) fun s _ hs => .andThen hs.readSpot fun s _ hs => ?_
  exact ite_fst hs hs
theorem stepKvapp {va desc : Nat} (hs : s.Canon) : (s.stepKvapp a r k va desc).1.Canon := by
  unfold State.stepKvapp
  refine ite_fst ?desc (ite_fst (ite_fst hs.finishEight hs) ?row)
  case desc => exact .andThen hs.kvDesc fun _ _ hs => .andThen hs.kvRef fun _ _ hs => .andThen hs.kvPrepare fun _ _ hs => hs
  case row =>
    exact .andThen (hs.of_mem (by simp)) fun _ _ hs => .andThen hs.readSpot fun s _ hs => .andThen (hs.of_mem (by simp)) fun _ _ hs =>
      .andThen hs.reach fun s _ hs => ite_fst hs (hs.of_mem (by simp))

/-! ### Tier moves -/

theorem startMove {space va leafAt fmt urg launch : Nat} {l : TLeaf} {promote : Bool} (hs : s.Canon) :
    (s.startMove space va leafAt l promote fmt urg launch).Canon := by
  unfold State.startMove
  exact .ite hs.scrubSmr.smrBump (post (s := { s.scrubSmr space with moves := _, nextMove := _ }) hs)
theorem hintPage {space va fmt urg launch : Nat} {promote : Bool} (hs : s.Canon) : (s.hintPage space va promote fmt urg launch).Canon := by
  unfold State.hintPage
  split
  · exact hs
  · exact .ite hs (.ite hs.startMove (.ite hs (.ite hs hs.startMove)))
theorem stepHint {va len urg fmt : Nat} {promote : Bool} (hs : s.Canon) : (s.stepHint a r k va len urg fmt promote).1.Canon := by
  unfold State.stepHint
  exact ite_fst hs hs.hintPage
theorem moveBegin {m : Move} (hs : s.Canon) : (s.moveBegin m).Canon := by
  unfold State.moveBegin
  refine .ite (hintPage hs) (.ite hs ?_)
  split
  · exact smrBump hs
  next h => exact Memory.wf_write _ _ _ _ (hs.smrPop h)

end State.Canon
end Sys2Proof.Machine
end

section
/-! Canonical memory: the end of a tier move, runs of porter programs, and the requests a porter serves (R319 to R323, R337). -/
namespace Sys2Proof.Machine

/-! ### The copied page (R225, R309, R337) -/

theorem Memory.wf_withEcc2 (m : Memory) (l : List Nat) (h : m.wf = true) : ({ m with ecc2 := l } : Memory).wf = true := h
theorem Memory.wf_carryBad (m k : Memory) (src dst n : Nat) (h : k.wf = true) : (m.carryBad k src dst n).wf = true := by
  unfold Memory.carryBad
  dsimp only
  repeat' split
  all_goals exact h
theorem Memory.wf_moveCopy (m : Move) (was : Memory) (h : was.wf = true) : (m.copy was).wf = true := by
  have hfold {α : Type} (f : Memory → α → Memory) (hf : ∀ k x, k.wf = true → (f k x).wf = true) (l : List α) {k : Memory} (hk : k.wf = true) : (l.foldl f k).wf = true :=
    foldl_inv f (fun m => Memory.wf m = true) hf l k hk
  unfold Move.copy
  generalize List.range 1024 = lines
  dsimp only
  split
  · exact hfold _ (fun k _ hk => was.scrub _ _ |>.wf_carryBad k _ _ _ hk) _ (hfold _ (fun k _ hk => k.wf_put _ hk) _ (was.wf_scrub _ _ h))
  · split
    · exact hfold _ (fun k _ hk => was.scrub _ _ |>.wf_carryBad k _ _ _ hk) _ (hfold _ (fun k _ hk => k.wf_put _ hk) _ (was.wf_scrub _ _ h))
    · exact Memory.wf_withEcc2 _ _ (hfold _ (fun k _ hk => k.wf_putLine _ _ _ hk) lines (was.wf_scrub _ _ h))

namespace State.Canon
variable {s : State} {a : Asker} {r : Req} {k : Cmd}

/-- What the fabric counts in the page's record when it is promoted (Table 11.8). -/
theorem smrBumps {c : Prop} [Decidable c] {space n : Nat} (hs : s.Canon) : (if c then s.smrBump space n else s).Canon := .ite hs.smrBump hs
/-- The frame a page leaves goes back to the tier it lies in. -/
theorem frameFreed {b c : Bool} {space x : Nat} (hs : s.Canon) :
    (if b then s.smrPush space 0 8 8 x else if c then s.smrPush space 128 24 8 x else s).Canon := .ite hs.smrPush (.ite hs.smrPush hs)
theorem moveEnd {m : Move} (hs : s.Canon) : (s.moveEnd m).Canon := by
  have hcopied (x : Nat) : ((m.copy s.mem).write m.leafAt 16 x).wf = true := Memory.wf_write _ _ _ _ (Memory.wf_moveCopy m _ hs)
  unfold State.moveEnd
  dsimp only
  exact unpost (smrBumps (smrBumps (frameFreed (hcopied _))))

/-! ### Runs of porter programs -/

theorem ctxRead {p ctag va n : Nat} {ev : Ev} (hs : s.Canon) : (s.ctxRead p ctag va n ev).1.Canon :=
  .andThen (asFault (hs.of_mem (by simp))) fun _ _ hs => .andThen hs.reach fun _ _ hs => ite_fst hs (Memory.wf_scrubRead _ _ _ _ hs)
theorem runBlock {p ctag va n : Nat} {ev : Ev} (hs : s.Canon) : (s.runBlock p ctag va ev n).1.Canon := by
  induction n generalizing s va with
  | zero => exact hs
  | succ n ih => exact .andThen hs.ctxRead fun _ _ hs => .andThen (ih hs) fun _ _ hs => hs
/-- A context that commits a violation is frozen, and holds what it was asked (R277). -/
theorem freezeHeld {p ctag step addr : Nat} {ev : Ev} (hs : s.Canon) : ((s.freezeCtx p ctag step addr).holdCtx p ctag ev).Canon :=
  hs.freezeCtx.of_mem (State.holdCtx_mem ..)
theorem startRun {p ctag : Nat} {b : Except Nat (List Byte)} (hs : s.Canon) : (s.startRun p ctag b).Canon := hs.of_mem (State.startRun_mem ..)
theorem runStart {p ctag : Nat} {c : PCtx} (hs : s.Canon) : (s.runStart p ctag c).Canon := by
  unfold State.runStart
  dsimp only
  split
  case' h_1 => refine unpostEv (forget ?_)
  case' h_2 => refine startRun (forget ?_)
  case' h_4 => refine postEv ?_
  case' h_5 => refine unpostEv (forget ?_)
  case' h_6 => refine freezeHeld ?_
  all_goals exact .andThen hs.ctxRead fun s _ hs => ite_fst hs (ite_fst hs hs.runBlock)
theorem stepErrs {p ctag : Nat} {ks : List Cmd} (hs : s.Canon) : (s.stepErrs p ctag ks).Canon :=
  foldl_inv _ (fun m => Memory.wf m = true) (fun m _ hm => m.wf_setErr _ hm) _ _ hs
theorem nextStep {p ctag : Nat} {c : PCtx} {rn : Run} {ev : Ev} (hs : s.Canon) : (s.nextStep p ctag c rn ev).Canon := by
  have hend {t : State} {f : Run → Run} (ht : t.Canon) : ((t.updRun p ctag f).postEv ev).Canon := postEv ht.updRun
  unfold State.nextStep
  dsimp only
  refine .ite (hend hs) ?_
  generalize hx : Machine.andThen (Machine.asFault 0x06 (s.translate _ _ _)) _ = x
  have hcanon : x.1.Canon := by
    rw [← hx]
    exact .andThen (asFault (hs.of_mem (by simp))) fun _ _ hs => .andThen hs.reach fun _ _ hs => ite_fst hs (Memory.wf_scrubRead _ _ _ _ hs)
  split
  · exact hcanon
  · exact hcanon.postEv
  · exact hend hcanon.forget
  · exact hcanon.freezeHeld
  · refine .ite (hend hcanon.forget) (.ite (hend hcanon.forget) (.ite (.ite (hend hcanon.forget) (postEv hcanon.forget)) ?_))
    split
    · exact freezeHeld hcanon.forget
    · exact postEv (.ite (updRun hcanon.forget) (postEv (updRun hcanon.forget)))
theorem runProgram {p ctag : Nat} {ev : Ev} (hs : s.Canon) : (s.runProgram p ctag ev).Canon := by
  unfold State.runProgram
  split
  · exact hs
  · split
    · exact hs
    next r0 _ =>
      dsimp only
      have hswept := (hs.stepErrs (p := p) (ctag := ctag) (ks := r0.steps.filter fun k => k.stepDone && k.fault.isSome)).updRun (p := p) (ctag := ctag) (f := fun _ => r0.sweep)
      exact .ite hswept (.ite (.ite (post hswept.unpostEv) hswept) (.ite hswept hswept.nextStep))
theorem runEnd {p ctag : Nat} {c : PCtx} {rn : Run} (hs : s.Canon) : (s.runEnd p ctag c rn).Canon := by
  unfold State.runEnd
  dsimp only
  generalize hx : Machine.andThen (Machine.asFault 0x06 (s.translate _ _ _)) _ = x
  have hcanon : x.1.Canon := by
    rw [← hx]
    exact .andThen (asFault (hs.of_mem (by simp))) fun _ _ hs => .andThen hs.reach fun _ _ hs => hs
  have hdone {t : State} (ht : t.Canon) :
      ((((t.forget (.porterRunEnd, .porter p ctag)).unpostEv (.porterRunEnd, .porter p ctag)).updCtx p ctag fun c => { c with run := none }).post
        .porterRunStart (.porter p ctag)).Canon := ht.of_mem (by simp)
  split
  · exact .ite (hdone hcanon) (hdone (noteWrite (Memory.wf_writeDev _ _ _ _ hcanon)))
  · exact hcanon
  · exact hcanon.of_mem (by simp)
  · exact hdone hcanon
  · exact hcanon.freezeHeld
theorem cancelSteps {p ctag : Nat} {ks : List Cmd} (hs : s.Canon) : (s.cancelSteps p ctag ks).Canon :=
  foldl (fun _ _ hs => unpost (unpostEv (forget hs))) ks hs.stepErrs
theorem endRun {p ctag : Nat} {rn : Run} (hs : s.Canon) : (s.endRun p ctag rn).Canon := by
  unfold State.endRun
  dsimp only
  have hswept (r : Run) (ks : List Cmd) : ((s.stepErrs p ctag ks).updRun p ctag fun _ => r).Canon := hs.stepErrs.of_mem (State.updRun_mem ..)
  exact .ite (post (hswept _ _)) (post ((hswept _ _).cancelSteps.of_mem (State.updRun_mem ..)))
theorem endRuns {ctag : Nat} (hs : s.Canon) : (s.endRuns ctag).Canon := by
  refine foldl (fun s p hs => ?_) _ hs
  split
  · exact hs
  · exact hs.endRun

/-! ### What a porter is asked -/

theorem stepRequest {ev : Ev} (hs : s.Canon) : (s.stepRequest a ev).Canon := by
  unfold State.stepRequest
  split
  · exact hs
  next k _ =>
    refine .ite hs.stepData (.ite (hs.of_mem (by simp)) (.ite hs (.ite (hs.of_mem (by simp)) ?_)))
    dsimp only
    split
    case' h_1 => refine .ite (postEv (unpostEv (forget (putCmd ?_)))) (postEv (forget (putCmd ?_)))
    case' h_2 => refine putCmd ?_
    case' h_3 => refine postEv (putCmd ?_)
    case' h_4 => refine postEv (unpostEv (forget (putCmd ?_)))
    case' h_5 => refine violCmd ?_
    all_goals
      split
      · exact hs.stepCatom
      · exact hs.stepKvapp
      · exact hs.stepKv
      · exact hs.stepKv
      · exact hs.stepKv
      · exact hs.stepHint
      · exact hs.stepHint
      · exact hs

end State.Canon
end Sys2Proof.Machine
end

section
/-! Canonical memory: tinker threads, their cache and code, releases, tiles that arrive, and messages (R231 to R256, R293, R297). -/
namespace Sys2Proof.Machine

/-! ### Updates that leave memory -/

@[simp] theorem State.postWritebacks_mem (s : State) (id : Nat) (lines : List Nat) : (s.postWritebacks id lines).mem = s.mem :=
  foldl_keeps _ State.mem (fun s _ => s.post_mem ..) lines s
@[simp] theorem State.tinkFault_mem (s : State) (id t : Nat) (p : TPending) (code addr : Nat) : (s.tinkFault id t p code addr).mem = s.mem := rfl
@[simp] theorem State.tinkKind_mem (s : State) (id t : Nat) (p : TPending) (k : TWaitKind) : (s.tinkKind id t p k).mem = s.mem := rfl
@[simp] theorem State.lineCame_mem (s : State) (core : Nat) (l : CacheLine) (x : Nat × TPending) : (s.lineCame core l x).mem = s.mem := by
  unfold State.lineCame
  split
  · split <;> rfl
  · rfl
  · rfl
@[simp] theorem State.serveLine_mem (s : State) (core : Nat) (l : CacheLine) (ev : Ev) : (s.serveLine core l ev).mem = s.mem := by
  have h (xs : List (Nat × TPending)) : (xs.foldl (fun s x => State.lineCame s core l x) ((s.unpostEv ev).forget ev)).mem = s.mem :=
    foldl_keeps _ State.mem (fun s x => s.lineCame_mem core l x) _ _
  unfold State.serveLine
  dsimp only
  split
  · exact h _
  · rw [State.postEv_mem]
    exact h _
@[simp] theorem State.lineFailed_mem (s : State) (core line kind code : Nat) (ev : Ev) : (s.lineFailed core line kind code ev).mem = s.mem := by
  have h (xs : List (Nat × TPending)) :
      (xs.foldl (fun s (x : Nat × TPending) => State.tinkFault s core x.1 x.2 (tinkCode code) (opAddr x.2)) ((s.forget ev).unpostEv ev)).mem = s.mem :=
    foldl_keeps _ State.mem (fun s x => s.tinkFault_mem ..) _ _
  unfold State.lineFailed
  dsimp only
  split
  · exact h _
  · rw [State.postEv_mem]
    exact h _
@[simp] theorem State.setCq_mem (s : State) (n : Nat) (l : List QEntry) : (s.setCq n l).mem = s.mem := rfl
@[simp] theorem State.setSq_mem (s : State) (z : Nat) (l : List QEntry) : (s.setSq z l).mem = s.mem := rfl
theorem State.pushFrame_mem {s u : State} {core : Nat} {e : QEntry} (h : s.pushFrame core e = some u) : u.mem = s.mem := by
  unfold State.pushFrame at h
  dsimp only at h
  repeat' split at h
  all_goals cases h
  all_goals rfl
@[simp] theorem State.releaseFault_mem (s : State) (core : Nat) (r : Release) : (s.releaseFault core r).mem = s.mem := by
  unfold State.releaseFault
  split <;> rfl
@[simp] theorem State.releaseDone_mem (s : State) (core : Nat) (r : Release) : (s.releaseDone core r).mem = s.mem := by
  unfold State.releaseDone
  split
  · rw [State.exitThread_mem]; rfl
  · rfl
@[simp] theorem State.resendSome_mem (s : State) (core : Nat) (ch : Chan) (n : Nat) : (s.resendSome core ch n).mem = s.mem := by
  unfold State.resendSome
  exact foldl_keeps _ State.mem (fun s _ => s.toPeer_mem ..) _ _
@[simp] theorem State.resendNow_mem (s : State) (core : Nat) (ch : Chan) : (s.resendNow core ch).mem = s.mem := by
  unfold State.resendNow
  dsimp only
  repeat' split
  all_goals simp
@[simp] theorem State.resendCore_mem (s : State) (core : Nat) : (s.resendCore core).mem = s.mem := by
  unfold State.resendCore
  dsimp only
  repeat' split
  all_goals simp
@[simp] theorem State.refuse_mem (s : State) (name ep m : Nat) : (s.refuse name ep m).mem = s.mem := rfl
@[simp] theorem State.arriveMsg_mem (s : State) (name ep m : Nat) : (s.arriveMsg name ep m).mem = s.mem := by
  unfold State.arriveMsg
  dsimp only
  repeat' split
  all_goals rfl

/-! ### Steals (R255) -/

/-- A search that leaves memory. -/
def LeavesMem (f : State → State × Option Nat) : Prop := ∀ s, (f s).1.mem = s.mem

theorem State.firstFound_mem {fs : List (State → State × Option Nat)} (h : ∀ f ∈ fs, LeavesMem f) (s : State) : (s.firstFound fs).1.mem = s.mem := by
  induction fs generalizing s with
  | nil => rfl
  | cons f fs ih =>
    have hf := h f List.mem_cons_self s
    unfold State.firstFound
    split
    next heq => rw [heq] at hf; exact hf
    next heq =>
      rw [heq] at hf
      rw [ih fun g hg => h g (List.mem_cons_of_mem _ hg)]
      exact hf
theorem State.takeDeque_mem (core : Nat) (bottom : Bool) (sp tn : Nat) : LeavesMem (State.takeDeque core bottom sp tn) := by
  intro s
  unfold State.takeDeque
  dsimp only
  split <;> split <;> rfl
theorem State.takeCluster_mem (n : Nat) (bottom : Bool) (sp tn : Nat) : LeavesMem (State.takeCluster n bottom sp tn) := by
  intro s
  unfold State.takeCluster
  dsimp only
  split <;> split <;> rfl
theorem State.takeStratum_mem (z : Nat) (bottom : Bool) (sp tn : Nat) : LeavesMem (State.takeStratum z bottom sp tn) := by
  intro s
  unfold State.takeStratum
  split <;> rfl
@[simp] theorem State.stealFrom_mem (s : State) (l : Launch) (core level : Nat) : (s.stealFrom l core level).1.mem = s.mem := by
  refine State.firstFound_mem (fun f hf => ?_) s
  simp only [List.mem_append, List.mem_ite_nil_right, List.mem_cons, List.mem_map, List.not_mem_nil, or_false] at hf
  rcases hf with ((rfl | ⟨-, rfl | ⟨c, -, rfl⟩⟩) | ⟨-, rfl | ⟨q, -, rfl⟩⟩) | ⟨-, z, -, rfl⟩
  · exact State.takeDeque_mem _ _ _ _
  · exact State.takeCluster_mem _ _ _ _
  · exact State.takeDeque_mem _ _ _ _
  · exact State.takeStratum_mem _ _ _ _
  · exact State.takeCluster_mem _ _ _ _
  · exact State.takeStratum_mem _ _ _ _

namespace State.Canon
variable {s : State} {core : Nat}

theorem tinkDone {t : Nat} {p : TPending} {lands : List (TOp × Word)} (hs : s.Canon) : (s.tinkDone core t p lands).Canon := hs
theorem tinkFault {t : Nat} {p : TPending} {code addr : Nat} (hs : s.Canon) : (s.tinkFault core t p code addr).Canon := hs
theorem tinkKind {t : Nat} {p : TPending} {k : TWaitKind} (hs : s.Canon) : (s.tinkKind core t p k).Canon := hs
theorem exitThread {t : Nat} {p : TPending} (hs : s.Canon) : (s.exitThread core t p).Canon := hs.of_mem (State.exitThread_mem ..)
theorem serveLine {l : CacheLine} {ev : Ev} (hs : s.Canon) : (s.serveLine core l ev).Canon := hs.of_mem (State.serveLine_mem ..)
theorem postWritebacks {lines : List Nat} (hs : s.Canon) : (s.postWritebacks core lines).Canon := hs.of_mem (State.postWritebacks_mem ..)

/-! ### The tinker cache (R241, R242) -/

theorem writeback {line : Nat} {ev : Ev} (hs : s.Canon) : (s.writeback core line ev).Canon := by
  unfold State.writeback
  split
  · exact hs
  · refine .ite hs ?_
    dsimp only
    generalize hx : Machine.andThen (s.translate _ _ _) _ = x
    have hcanon : x.1.Canon := by
      rw [← hx]
      exact .andThen (hs.of_mem (by simp)) fun _ _ hs => .andThen hs.reach fun _ _ hs => hs
    split
    · exact unpostEv (forget (updCore (noteWrite (Memory.wf_putDev _ _ hcanon))))
    · exact hcanon
    · exact hcanon.postEv
    · exact unpostEv (forget (updCore hcanon))
    · exact freezeCore (unpostEv (forget (updCore hcanon)))
theorem installLine {l : CacheLine} {ev : Ev} (hs : s.Canon) : (s.installLine core l ev).Canon := by
  unfold State.installLine
  dsimp only
  refine .ite (serveLine (updCore hs)) ?_
  split
  · exact hs.postEv
  · exact .ite (postEv hs.postWritebacks) (serveLine (updCore (updCore hs)))
theorem fillLine {line : Nat} {ev : Ev} (hs : s.Canon) : (s.fillLine core line ev).Canon := by
  unfold State.fillLine
  dsimp only
  refine .ite hs.unpostEv ?_
  split
  case' h_1 => refine .ite (serveLine (updCore ?_)) (installLine ?_)
  case' h_3 => refine postEv ?_
  case' h_4 => refine of_mem ?_ (State.lineFailed_mem ..)
  case' h_5 => refine freezeCore (unpostEv (forget ?_))
  all_goals
    refine .andThen (hs.of_mem (by simp)) fun s _ hs => ?_
    split
    · exact hs
    · exact .andThen hs.reach fun s _ hs => ite_fst hs (Memory.wf_scrubRead _ _ _ _ hs)

/-! ### Tinker code (R235) -/

theorem codeFetch {r : Req} {pc : Nat} (hs : s.Canon) : (s.codeFetch core r pc).1.Canon := by
  unfold State.codeFetch
  dsimp only
  split
  · exact hs
  · exact .andThen (hs.of_mem (by simp)) fun s _ hs => .andThen hs.reach fun s _ hs => ite_fst hs (Memory.wf_scrubRead _ _ _ _ hs)
theorem fetchWord {t : Nat} {ev : Ev} (hs : s.Canon) : (s.fetchWord core t ev).Canon := by
  have hparked {t : State} {f : Core → Core} (ht : t.Canon) : (((t.updCore core f).forget ev).unpostEv ev).Canon := ht
  unfold State.fetchWord
  dsimp only
  refine .ite hs.unpostEv ?_
  generalize hx : Machine.andThen (s.codeFetch _ _ _) _ = x
  have hcanon : x.1.Canon := by
    rw [← hx]
    exact .andThen hs.codeFetch fun s _ hs => ite_fst (.andThen hs.codeFetch fun _ _ hs => hs) hs
  split
  · split <;> exact hparked hcanon
  · exact hcanon
  · exact hcanon.postEv
  · exact hparked hcanon
  · exact freezeCore hcanon.forget.unpostEv

/-! ### Operations that wait (R243, R247, R250, R255) -/

theorem devDec {r : Req} {va n : Nat} (hs : s.Canon) : (s.devDec r va n).1.Canon :=
  .andThen (asFault (hs.of_mem (by simp))) fun _ _ hs => .andThen hs.reach fun _ _ hs =>
    ite_fst hs (ite_fst hs (noteWrite (Memory.wf_writeDev _ _ _ _ (Memory.wf_scrub _ _ _ hs))))
theorem devGet {r : Req} {va n : Nat} (hs : s.Canon) : (s.devGet r va n).1.Canon :=
  .andThen (asFault (hs.of_mem (by simp))) fun _ _ hs => .andThen hs.reach fun _ _ hs => ite_fst hs (Memory.wf_scrubRead _ _ _ _ hs)
theorem devPut {r : Req} {va n x : Nat} (hs : s.Canon) : (s.devPut r va n x).1.Canon :=
  .andThen (asFault (hs.of_mem (by simp))) fun _ _ hs => .andThen hs.reach fun _ _ hs => noteWrite (Memory.wf_writeDev _ _ _ _ hs)
theorem afterLine {α : Type} {va : Nat} {f : State → State × Reply α} (hs : s.Canon) (hf : ∀ t : State, t.Canon → (f t).1.Canon) : (s.afterLine core va f).1.Canon :=
  ite_fst hs.postWritebacks (hf s hs)
theorem atHome {α : Type} {va : Nat} {f : State → State × Reply α} (hs : s.Canon) (hf : ∀ t : State, t.Canon → (f t).1.Canon) : (s.atHome core va f).1.Canon :=
  hs.afterLine fun _ ht => hf _ (updCore ht)
theorem afterWriteback {t : Nat} {p : TPending} {f : State → State × Reply TStep} (hs : s.Canon) (hf : ∀ t : State, t.Canon → (f t).1.Canon) :
    (s.afterWriteback core t p f).1.Canon :=
  ite_fst hs (ite_fst (hf s hs) hs.postWritebacks)

theorem stepSpawn {r : Req} {frame pc phase job old code : Nat} (hs : s.Canon) : (s.stepSpawn core r frame pc phase job old code).1.Canon := by
  unfold State.stepSpawn
  dsimp only
  split
  case h_1 => exact hs.atHome fun _ ht => .andThen ht.devGet fun _ _ hs => ite_fst hs hs
  case h_2 => exact hs.atHome fun t ht => .andThen ht.devGet fun _ _ hs => .andThen hs.devPut fun _ _ hs => hs
  case h_3 | h_4 =>
    refine hs.atHome fun t ht => ?_
    have hadd {va : Nat} {x : AtX} {y : Reply TStep} : (Machine.andThen (t.devAtomic r x va 1 0) fun s _ => (s, y)).1.Canon := .andThen ht.devAtomic fun _ _ hs => hs
    split <;> exact hadd
  case h_5 =>
    split
    next h => exact hs.of_mem (State.pushFrame_mem h)
    · exact hs
  case h_6 | h_7 => exact hs.atHome fun t ht => .andThen ht.devDec fun _ _ hs => hs
  case h_8 =>
    refine hs.atHome fun t ht => ?_
    have hdec {va : Nat} {y : Reply TStep} : (Machine.andThen (t.devDec r va 4) fun s _ => (s, y)).1.Canon := .andThen ht.devDec fun _ _ hs => hs
    split <;> exact hdec
  case h_9 =>
    refine hs.atHome fun t ht => ?_
    have hput {y : Reply TStep} : (Machine.andThen (t.devPut r frame 6 old) fun s _ => (s, y)).1.Canon := .andThen ht.devPut fun _ _ hs => hs
    split <;> exact hput
theorem stepJoin {r : Req} {frame : Nat} {b : TOp} {phase job cnt code : Nat} (hs : s.Canon) : (s.stepJoin core r frame b phase job cnt code).1.Canon := by
  unfold State.stepJoin
  dsimp only
  split
  · exact hs.atHome fun t ht => .andThen ht.devGet fun _ _ hs => ite_fst hs hs
  · refine hs.atHome fun t ht => .andThen ht.devDec fun _ _ hs => ?_
    split <;> exact hs
  · refine hs.atHome fun t ht => ?_
    generalize hx : Machine.andThen (t.devDec _ _ _) _ = x
    have hcanon : x.1.Canon := by
      rw [← hx]
      refine .andThen ht.devDec fun _ _ hs => ?_
      split <;> exact hs
    split <;> exact hcanon
  · refine hs.atHome fun t ht => ?_
    generalize hx : Machine.andThen (t.devAtomic _ _ _ _ _) _ = x
    have hcanon : x.1.Canon := by
      rw [← hx]
      exact .andThen ht.devAtomic fun _ _ hs => hs
    split <;> exact hcanon
theorem stepSteal {a : TOp} {level : Nat} (hs : s.Canon) : (s.stepSteal core a level).1.Canon := by
  unfold State.stepSteal
  split
  · exact hs
  next l _ =>
    have hmem := s.stealFrom_mem l core (min level l.stealDom)
    split
    next heq => rw [heq] at hmem; exact updCore (hs.of_mem hmem)
    next heq => rw [heq] at hmem; exact hs.of_mem hmem
theorem stepCache {op : CacheOp} {line : Nat} (hs : s.Canon) : (s.stepCache core op line).1.Canon := by
  unfold State.stepCache
  dsimp only
  split
  · exact ite_fst hs hs.postWritebacks
  · exact hs
  · exact ite_fst hs hs.postWritebacks
  · exact ite_fst hs.postWritebacks hs
  · exact hs
  · exact ite_fst hs.postWritebacks hs
theorem threadKind {t : Nat} {p : TPending} {k : TWaitKind} {ev : Ev} (hs : s.Canon) : (s.threadKind core t p k ev).1.Canon := by
  unfold State.threadKind
  dsimp only
  split
  case h_1 => exact ite_fst hs hs
  case h_3 => exact hs.afterWriteback fun _ ht => ht
  case h_4 => exact ite_fst hs hs
  case h_5 => exact hs.stepCache
  case h_8 => exact hs.atHome fun t ht => .andThen ht.devAtomic fun _ _ hs => hs
  case h_9 => exact ite_fst hs (hs.afterLine fun _ ht => ht.stepSpawn)
  case h_10 => exact ite_fst (hs.afterWriteback fun _ ht => ht.stepJoin) hs.stepJoin
  case h_11 => exact hs.stepSteal
  all_goals exact hs
theorem threadStep {t seq : Nat} {ev : Ev} (hs : s.Canon) : (s.threadStep core t seq ev).Canon := by
  unfold State.threadStep
  split
  · exact hs
  · split
    · exact hs
    · dsimp only
      split
      case' h_1 => refine exitThread (tinkDone (forget ?_))
      case' h_2 => refine postEv (tinkKind (forget ?_))
      case' h_3 => refine tinkFault (forget ?_)
      case' h_5 => refine postEv ?_
      case' h_6 => refine tinkFault (forget ?_)
      case' h_7 => refine freezeCore (unpostEv (forget ?_))
      all_goals exact hs.threadKind

/-! ### Releases and tiles (R133, R208, R214, R243) -/

theorem tryRelease {r : Release} (hs : s.Canon) : (s.tryRelease core r).Canon := by
  have hadd (key : Nat) : (if (s.mem.bad2 key 8).isSome then s.mem else (s.mem.scrub key 8).write key 8 (s.mem.read key 8 + 1)).wf = true := by
    split
    · exact hs
    · exact Memory.wf_write _ _ _ _ (Memory.wf_scrub _ _ _ hs)
  unfold State.tryRelease
  dsimp only
  refine .ite hs (.ite (.ite hs.updCore hs) (.ite (of_mem ?_ (State.releaseFault_mem ..)) (of_mem ?_ (State.releaseDone_mem ..))))
  all_goals exact hadd _
theorem releaseQueue (hs : s.Canon) : (s.releaseQueue core).Canon := foldl (fun _ _ hs => hs.tryRelease) _ hs
theorem takeForward {f : Forward} (hs : s.Canon) : (s.takeForward core f).Canon := by
  unfold State.takeForward
  dsimp only
  split
  · exact usePorts (s.mem.wf_putTile _ _ _ hs)
  · exact .ite (pushTile hs) hs

end State.Canon
end Sys2Proof.Machine
end

section
/-! Canonical memory: the cycle of the main clock, decisions of a timing domain, and entries of traps (R52, R57, R63, R260, R264, R271, R273). -/
namespace Sys2Proof.Machine

/-! ### Updates that leave memory -/

@[simp] theorem State.takeTrap_mem (s : State) (id : Nat) (k : Cause) (more : Bool) (caps : Option (List (Nat × Capture))) : (s.takeTrap id k more caps).mem = s.mem :=
  State.post_mem ..
@[simp] theorem State.takeBoundary_mem (s : State) (id : Nat) (k : Cause) : (s.takeBoundary id k).mem = s.mem := State.takeTrap_mem ..
@[simp] theorem State.stallCore_mem (s : State) (pre : Bool) (id : Nat) : (s.stallCore pre id).mem = s.mem := rfl
@[simp] theorem State.idleCore_mem (s : State) (pre : Bool) (id : Nat) : (s.idleCore pre id).mem = s.mem := rfl
@[simp] theorem State.doneCore_mem (s : State) (id : Nat) : (s.doneCore id).mem = s.mem := rfl
@[simp] theorem State.issueCores_mem (s : State) (pre : Bool) (ids : List Nat) : (s.issueCores pre ids).mem = s.mem :=
  foldl_keeps (fun (t : State) c => t.issueCore pre c) State.mem (fun _ _ => rfl) ids s
@[simp] theorem State.countStall_mem (s : State) (l : Launch) : (s.countStall l).mem = s.mem := by
  unfold State.countStall
  split <;> rfl
@[simp] theorem State.abortHeld_mem (s : State) (ids : List Nat) : (s.abortHeld ids).mem = s.mem := by
  refine foldl_keeps _ State.mem (fun s id => ?_) ids s
  split
  · exact s.takeBoundary_mem ..
  · rfl
@[simp] theorem State.barrel_mem (s : State) (id : Nat) : (s.barrel id).mem = s.mem := by
  unfold State.barrel
  dsimp only
  repeat' split
  all_goals rfl
@[simp] theorem State.landCore_mem (s : State) (id : Nat) : (s.landCore id).mem = s.mem := by
  unfold State.landCore
  dsimp only
  split <;> rfl
@[simp] theorem State.firmware_mem (s : State) (id : Nat) (k : Cause) : (s.firmware id k).mem = s.mem := by
  unfold State.firmware
  split
  · rfl
  · repeat' split
    all_goals simp [State.firmwareFail]

namespace State.Canon
variable {s : State} {id : Nat}

/-! ### Decisions of a timing domain -/

theorem eachCore {f : State → Nat → State} {ids : List Nat} (hf : ∀ (t : State) c, t.Canon → (f t c).Canon) (hs : s.Canon) : (s.eachCore ids f).Canon :=
  foldl hf _ hs
theorem stallAll {pre : Bool} {ids : List Nat} (hs : s.Canon) : (s.eachCore ids fun s id => s.stallCore pre id).Canon :=
  eachCore (fun _ _ ht => ht) hs
theorem applyPops {squash : Bool} (hs : s.Canon) : (s.applyPops id squash).Canon := by
  refine foldl_inv _ (fun m => Memory.wf m = true) (fun m p hm => ?_) _ _ hs
  split
  · have h1 (n : Nat) (w : BitVec 512) : (if n < 8 then m.scrubUnit id w n else m).wf = true := by
      split
      · exact m.wf_scrubUnit _ _ _ hm
      · exact hm
    dsimp only
    split
    · exact Memory.wf_scrubUnit _ _ _ _ (h1 _ _)
    · exact h1 _ _
  · exact hm
theorem takeIssue {k : Cause} (hs : s.Canon) : (s.takeIssue id k).Canon := by
  unfold State.takeIssue
  refine of_mem ?_ (State.takeTrap_mem ..)
  exact .ite (updCore hs.applyPops) hs.applyPops
theorem decideHandler {l : Launch} {pre : Bool} (hs : s.Canon) : (s.decideHandler l pre id).1.Canon := by
  have hfreeze {v : Violation} : ((s.freezeCore id v).stallCore pre id).Canon := hs.freezeCore
  unfold State.decideHandler
  dsimp only
  refine ite_fst hs ?_
  split
  · exact hfreeze
  · refine ite_fst hs ?_
    split
    · exact hfreeze
    · refine ite_fst hs ?_
      split
      · exact hfreeze
      · split
        · exact hfreeze
        · exact hs
theorem decideHandlers {l : Launch} {pre : Bool} {ids : List Nat} (hs : s.Canon) : (s.decideHandlers l pre ids).Canon := by
  have hfold := foldl_inv (fun (x : State × List Nat) id => ((x.1.decideHandler l pre id).1, if (x.1.decideHandler l pre id).2 then x.2 ++ [id] else x.2))
    (fun x => x.1.Canon) (fun _ _ hx => hx.decideHandler) ids (s, []) hs
  unfold State.decideHandlers
  exact of_mem hfold.stallAll (State.issueCores_mem ..)
theorem decideLive {l : Launch} {pre : Bool} {live : List Nat} (hs : s.Canon) : (s.decideLive l pre live).Canon := by
  unfold State.decideLive
  dsimp only
  refine .ite ?traps (.ite hs.stallAll (.ite ?held (.ite ?waits (.ite ?viols ?issue))))
  case traps =>
    exact stallAll (foldl (fun _ _ ht => ht.takeIssue) _ (foldl (fun t x ht => ht.of_mem (t.takeBoundary_mem x.1 x.2)) _ hs))
  case held => exact of_mem (stallAll (foldl (fun _ _ ht => updCore ht) live hs)) (State.countStall_mem ..)
  case waits => exact of_mem hs.stallAll (State.countStall_mem ..)
  case viols => exact stallAll (foldl (fun _ _ ht => ht.freezeCore) _ hs)
  case issue => exact hs.of_mem (State.issueCores_mem ..)
theorem abortHeld {ids : List Nat} (hs : s.Canon) : (s.abortHeld ids).Canon := hs.of_mem (State.abortHeld_mem ..)
theorem setCore {c : Core} (hs : s.Canon) : (s.setCore id c).Canon := hs
theorem decideDomain {lid : Nat} (hs : s.Canon) : (s.decideDomain lid).Canon := by
  unfold State.decideDomain
  split
  · exact hs
  · dsimp only
    have hquiet {f : State → Nat → State} {ids halted done : List Nat} {pre : Bool} (hf : ∀ t c, (f t c).mem = t.mem) :
        (((s.eachCore done fun t c => t.doneCore c).eachCore halted fun t c => t.idleCore pre c).eachCore ids f).Canon :=
      eachCore (fun t c ht => ht.of_mem (hf t c)) (eachCore (fun _ _ ht => ht) (eachCore (fun _ _ ht => ht) hs))
    refine .ite (stallAll (abortHeld ?_)) (.ite (decideHandlers (eachCore (fun _ _ ht => updCore ht) (stallAll (abortHeld ?_)))) (decideLive (foldl (fun _ _ ht => updCore ht) _ ?_)))
    all_goals exact hquiet fun _ _ => rfl

/-! ### The ends of cycles -/

theorem endIssue (hs : s.Canon) : (s.endIssue id).Canon := by
  unfold State.endIssue
  dsimp only
  exact updCore (doActs (setCore (doWrites (setCore hs.applyPops))))
theorem endTinkers (hs : s.Canon) : (s.endTinkers id).Canon := updCore (doWrites hs.setCore)
theorem finish {issued : Bool} (hs : s.Canon) : (s.finish id issued).Canon := by
  have hend : ((if issued then s.endIssue id else s).endTinkers id).Canon := endTinkers (.ite hs.endIssue hs)
  suffices h : ∀ t : State, t.Canon → (if (t.core id).run = .complete then match t.launchOf id with | some l => t.post .launchRetire (.launch l.id) | none => t else t).Canon from
    h _ (updCore hend)
  intro t ht
  split
  · split
    · exact post ht
    · exact ht
  · exact ht
theorem resumeDomain {l : Launch} (hs : s.Canon) : (s.resumeDomain l).Canon :=
  .ite (of_mem (foldl (fun _ _ ht => ht.resumeCore) _ hs) (State.setLaunch_mem ..)) hs
theorem mainCycle (hs : s.Canon) : (s.mainCycle).Canon := foldl (fun _ _ ht => ht.resumeDomain) _ hs
theorem runSys {k : Sys} (hs : s.Canon) : (s.runSys k).Canon := by
  cases k with
  | land c => exact hs.of_mem (s.landCore_mem c)
  | consider c => exact hs
  | clear c => exact hs
  | decide l => exact hs.decideDomain
  | resend c => exact hs.of_mem (s.resendCore_mem c)
  | barrel c => exact hs.of_mem (s.barrel_mem c)
  | finish c issued => exact hs.finish

/-! ### Trap entries -/

theorem drainHeld (hs : s.Canon) : (s.drainHeld id).Canon := updCore hs.drainCore

end State.Canon
end Sys2Proof.Machine
end

section
/-! Canonical memory: the events of cores, porters, tinkers and channels (R80, R220, R236, R241 to R251, R271 to R276, R292 to R300, R303, R319). -/
namespace Sys2Proof.Machine

theorem State.Canon.dropOne {s : State} {i : Instr} {a : EvArg} (hs : s.Canon) : (s.dropOne i a).Canon := hs
theorem State.Canon.arriveMsg {s : State} {name ep m : Nat} (hs : s.Canon) : (s.arriveMsg name ep m).Canon := hs.of_mem (State.arriveMsg_mem ..)
theorem State.Canon.resendNow {s : State} {core : Nat} {ch : Chan} (hs : s.Canon) : (s.resendNow core ch).Canon := hs.of_mem (State.resendNow_mem ..)
theorem State.Canon.firmware {s : State} {id : Nat} {k : Cause} (hs : s.Canon) : (s.firmware id k).Canon := hs.of_mem (State.firmware_mem ..)
theorem State.Canon.setLaunch {s : State} {l : Launch} (hs : s.Canon) : (s.setLaunch l).Canon := hs
theorem State.Canon.addCauses {s : State} {f : Nat → Core → Core} {l : List Nat} (hs : s.Canon) : (l.foldl (fun (t : State) c => t.updCore c (f c)) s).Canon :=
  hs.of_mem (State.mem_foldl_updCore s)

namespace KeepsCanon

theorem translationWalk : KeepsCanon execTranslationWalk := by
  intro s u hs hu
  unfold execTranslationWalk at hu
  split at hu
  · split at hu
    · cases hu
      exact hs.walkDone
    · cases hu
  · cases hu
theorem tierMove : KeepsCanon execTierMove := by
  intro s u hs hu
  unfold execTierMove at hu
  split at hu
  · split at hu <;> cases hu
    · exact hs
    · exact .ite hs.moveEnd (.ite hs.moveBegin hs)
  · cases hu
theorem porterRunStart : KeepsCanon execPorterRunStart := by
  intro s u hs hu
  unfold execPorterRunStart at hu
  split at hu
  · split at hu
    · cases hu
    · split at hu
      · cases hu
        exact hs.post
      · split at hu
        · cases hu
          exact hs.post
        next hr =>
          have hs1 := hs.resident hr
          split at hu
          · cases hu
            exact hs
          · split at hu
            · cases hu
              exact hs.post
            · split at hu <;> cases hu
              · exact hs1.unpost
              · exact hs1.runStart
  · cases hu
theorem porterRunEnd : KeepsCanon execPorterRunEnd := by
  intro s u hs hu
  unfold execPorterRunEnd at hu
  split at hu
  · dsimp only at hu
    split at hu
    · cases hu
      exact hs.unpost
    · split at hu
      · cases hu
        exact hs.unpost
      · split at hu
        · cases hu
          exact hs.unpost
        · split at hu <;> cases hu
          · exact hs.unpost
          · exact hs.runEnd
  · cases hu
theorem porterRequest : KeepsCanon execPorterRequest := by
  intro s u hs hu
  unfold execPorterRequest at hu
  split at hu
  · cases hu
    exact hs.threadStep
  · cases hu
    exact hs.stepRequest
  · split at hu <;> cases hu
    exact hs.runProgram
  · cases hu
theorem tinkerWriteback : KeepsCanon execTinkerWriteback := by
  intro s u hs hu
  unfold execTinkerWriteback at hu
  split at hu <;> cases hu
  exact hs.writeback
theorem tinkerCacheFill : KeepsCanon execTinkerCacheFill := by
  intro s u hs hu
  unfold execTinkerCacheFill at hu
  split at hu <;> cases hu
  exact hs.fillLine
theorem tinkerInstructionFetch : KeepsCanon execTinkerInstructionFetch := by
  intro s u hs hu
  unfold execTinkerInstructionFetch at hu
  split at hu <;> cases hu
  exact hs.fetchWord
theorem flagrelAdd : KeepsCanon execFlagrelAdd := by
  intro s u hs hu
  unfold execFlagrelAdd at hu
  split at hu <;> cases hu
  exact hs.releaseQueue
theorem tileForwardArrival : KeepsCanon execTileForwardArrival := by
  intro s u hs hu
  unfold execTileForwardArrival at hu
  split at hu
  · split at hu
    · cases hu
      exact hs.unpost
    · split at hu <;> cases hu
      · exact hs.takeForward
      · exact hs
  · cases hu
theorem transposePush : KeepsCanon execTransposePush := by
  intro s u hs hu
  unfold execTransposePush at hu
  split at hu
  · split at hu
    · cases hu
      exact hs.unpost
    · split at hu <;> cases hu
      · exact hs.pushTile.updCore.unpost
      · exact hs
  · cases hu
theorem srseedWrite : KeepsCanon execSrseedWrite := by
  intro s u hs hu
  unfold execSrseedWrite at hu
  split at hu <;> cases hu
  exact hs.updCore
theorem channelMessageArrival : KeepsCanon execChannelMessageArrival := by
  intro s u hs hu
  unfold execChannelMessageArrival at hu
  split at hu
  · split at hu
    · cases hu
    · split at hu <;> cases hu
      · exact hs.dropOne.arriveMsg
      · exact hs
  · cases hu
theorem allowanceArrival : KeepsCanon execAllowanceArrival := by
  intro s u hs hu
  unfold execAllowanceArrival at hu
  split at hu
  · split at hu
    · cases hu
    · split at hu <;> cases hu
      · exact hs
      · exact .ite hs.dropOne.updCore.resendNow hs.dropOne
  · cases hu
theorem ackArrival : KeepsCanon execAckArrival := by
  intro s u hs hu
  unfold execAckArrival at hu
  split at hu
  · split at hu
    · cases hu
    · split at hu <;> cases hu
      · exact hs
      · exact .ite hs.dropOne.updCore hs.dropOne
  · cases hu
theorem mainClockCycle : KeepsCanon execMainClockCycle := by
  intro s u hs hu
  unfold execMainClockCycle at hu
  split at hu <;> cases hu
  exact .ite hs.mainCycle hs
theorem trapEntry : KeepsCanon execTrapEntry := by
  intro s u hs hu
  unfold execTrapEntry at hu
  split at hu
  · split at hu
    · cases hu
      exact hs.unpost
    · split at hu
      · cases hu
        exact hs
      · split at hu <;> cases hu
        · exact hs.drainHeld
        · exact hs.enterHandler.unpost.firmware
  · cases hu
theorem watchdog : KeepsCanon execWatchdog := by
  intro s u hs hu
  unfold execWatchdog at hu
  split at hu
  · split at hu <;> cases hu
    · exact hs
    · exact .addCauses (f := fun _ k => { k with causes := k.causes ++ [_] }) hs
  · cases hu
theorem preempt : KeepsCanon execPreempt := by
  intro s u hs hu
  unfold execPreempt at hu
  split at hu
  · dsimp only at hu
    split at hu
    · cases hu
      exact hs.unpost
    · split at hu
      · cases hu
        exact hs.unpost
      · split at hu <;> cases hu
        · exact hs
        · exact .addCauses (f := fun c k => { k with causes := k.causes ++ [_] }) hs.unpost.setLaunch
  · cases hu

end KeepsCanon
end Sys2Proof.Machine
end

section
/-! Canonical memory: the context engine, and cores given back (R73, R274, R275). -/
namespace Sys2Proof.Machine

@[simp] theorem State.resendFabric_mem (s : State) (core : Nat) (ch : Chan) : (s.resendFabric core ch).mem = s.mem := by
  unfold State.resendFabric
  dsimp only
  split
  · rfl
  · rw [State.post_mem, State.sendRows_mem]
    rfl
@[simp] theorem State.restoreEp_mem (s : State) (core : Nat) (ch : Chan) : (s.restoreEp core ch).mem = s.mem := by
  unfold State.restoreEp
  dsimp only
  split
  · rfl
  · split
    · rfl
    · exact State.toPeer_mem ..
@[simp] theorem State.repost_mem (s : State) (id : Nat) : (s.repost id).mem = s.mem := by
  unfold State.repost
  refine (foldl_keeps _ State.mem (fun s _ => ?_) _ _).trans ?_
  · split <;> simp
  · repeat' split
    all_goals simp
@[simp] theorem State.firmwareFail_mem (s : State) (l : Launch) (f : Failure) : (s.firmwareFail l f).mem = s.mem := by simp [State.firmwareFail]

theorem State.wf_writeImage {s : State} (hs : s.mem.wf = true) (id buf : Nat) (c : Core) : (s.writeImage id buf c).wf = true :=
  Memory.wf_blit _ _ _ (Memory.wf_blit _ _ _ (State.wf_writeRegisters hs id buf c))

namespace State.Canon
variable {s : State} {id : Nat}

theorem resendAny {ch : Chan} (hs : s.Canon) : (s.resendAny id ch).Canon := hs.resendNow.of_mem (State.resendFabric_mem ..)
theorem restoreEp {ch : Chan} (hs : s.Canon) : (s.restoreEp id ch).Canon := hs.of_mem (State.restoreEp_mem ..)
theorem repost (hs : s.Canon) : (s.repost id).Canon := hs.of_mem (State.repost_mem ..)
theorem clearCore (hs : s.Canon) : (s.clearCore id).Canon := Memory.wf_zero _ _ _ (Memory.wf_zero _ _ _ hs)
theorem firmwareFail {l : Launch} {f : Failure} (hs : s.Canon) : (s.firmwareFail l f).Canon := hs.of_mem (State.firmwareFail_mem ..)
theorem launchSaved {l : Launch} (hs : s.Canon) : (s.launchSaved l).Canon := hs.of_mem (State.post_mem ..)
/-- A core's scratchpad, written to its buffer. -/
theorem spadSaved {dst : Nat} (hs : s.Canon) : ({ s with mem := s.mem.copyRegion (spadKey id 0) dst 0x10_0000 } : State).Canon := Memory.wf_copyRegion _ _ _ _ hs
theorem firmwareSaved {l : Launch} (hs : s.Canon) : (s.firmwareSaved l id).Canon := by
  have hcleared {dst : Nat} : (({ s with mem := s.mem.copyRegion (spadKey id 0) dst 0x10_0000 } : State).clearCore id).Canon := clearCore hs.spadSaved
  exact .ite hcleared.launchSaved hcleared
end State.Canon

namespace KeepsCanon
open State.Canon

theorem csave : KeepsCanon execCsave := by
  intro s u hs hu
  unfold execCsave at hu
  split at hu
  · dsimp only at hu
    split at hu
    · split at hu
      · cases hu
        exact hs
      · split at hu <;> cases hu
        · exact hs.postWritebacks
        · exact .post (.unpost (.setCore (State.wf_writeImage hs ..)))
    · cases hu
      exact hs.unpost
  · cases hu
theorem cload : KeepsCanon execCload := by
  intro s u hs hu
  unfold execCload at hu
  split at hu
  · dsimp only at hu
    split at hu
    · split at hu
      · cases hu
        exact hs.unpost.updCore.post
      · rw [← Host.Outcome.next.inj hu]
        refine post (repost (foldl (fun _ _ ht => ht.resendAny) _ (foldl (fun _ _ ht => ht.restoreEp) _ ?_)))
        exact Memory.wf_copyRegion _ _ _ _ hs
    · cases hu
      exact hs.unpost
  · cases hu
theorem contextEngineDone : KeepsCanon execContextEngineDone := by
  intro s u hs hu
  unfold execContextEngineDone at hu
  split at hu
  · dsimp only at hu
    split at hu
    · cases hu
      exact hs.unpost
    · split at hu
      · cases hu
        exact hs.unpost.updCore
      · split at hu
        · cases hu
          exact hs.unpost.updCore
        · split at hu
          · cases hu
            exact hs.unpost.updCore.firmwareFail
          · split at hu <;> cases hu
            · exact hs.unpost.updCore.firmwareSaved
            · exact hs.unpost.updCore.updCore
  · cases hu

end KeepsCanon
end Sys2Proof.Machine
end

section
/-! Canonical memory: submission queues, completion rings and frozen functions (R351 to R358). -/
namespace Sys2Proof.Machine

namespace State.Canon
variable {s : State}

theorem updQueue {q : Nat} {f : Queue → Queue} (hs : s.Canon) : (s.updQueue q f).Canon := hs
theorem updFn {f : Nat} {g : Fn → Fn} (hs : s.Canon) : (s.updFn f g).Canon := hs
theorem raiseVec {v : Nat} (hs : s.Canon) : (s.raiseVec v).Canon := hs
theorem putHostCmd {k : HostCmd} (hs : s.Canon) : (s.putHostCmd k).Canon := hs
theorem startCmd {k : HostCmd} (hs : s.Canon) : (s.startCmd k).Canon := hs
theorem writeRecord {c : Completion} (hs : s.Canon) : (s.writeRecord c).Canon := .ite hs.hostWrite.updQueue.raiseVec hs.hostWrite.updQueue
theorem report {c : Completion} (hs : s.Canon) : (s.report c).Canon := .ite hs.writeRecord hs
theorem flushHeld (hs : s.Canon) : s.flushHeld.Canon := foldl (fun _ _ ht => ht.report) s.held hs
theorem finishCmd {k : HostCmd} {f : Failure} (hs : s.Canon) : (s.finishCmd k f).Canon := by
  unfold State.finishCmd
  dsimp only
  split
  · exact report (unpost hs)
  · exact report hs
theorem takeCmd {q f body : Nat} (hs : s.Canon) : (s.takeCmd q f body).Canon := by
  unfold State.takeCmd
  dsimp only
  split
  · exact finishCmd hs
  · exact .ite (finishCmd hs) (post hs)
theorem fetchRing {q f n : Nat} (hs : s.Canon) : (s.fetchRing q f n).Canon := by
  induction n generalizing s with
  | zero => exact hs
  | succ n ih => exact ih hs.takeCmd.updQueue
theorem freezeFn {f addr : Nat} (hs : s.Canon) : (s.freezeFn f addr).Canon := .ite hs hs.freezeRecord.updFn
theorem setEn {q : Nat} {en : Bool} (hs : s.Canon) : (s.setEn q en).Canon := .ite hs.updQueue (foldl (fun _ _ ht => ht.finishCmd) _ hs.updQueue)

end State.Canon

namespace KeepsCanon

theorem sqtail : KeepsCanon execSqtail := by
  intro s u hs hu
  unfold execSqtail at hu
  split at hu
  · split at hu
    · cases hu
    · dsimp only at hu
      split at hu <;> cases hu
      · exact hs.fetchRing
      · exact hs
  · cases hu
theorem inlgo : KeepsCanon execInlgo := by
  intro s u hs hu
  unfold execInlgo at hu
  split at hu
  · split at hu
    · cases hu
    · split at hu <;> cases hu
      · exact hs.takeCmd
      · exact hs
  · cases hu
theorem cqhead : KeepsCanon execCqhead := by
  intro s u hs hu
  unfold execCqhead at hu
  split at hu
  · split at hu
    · cases hu
    · split at hu <;> cases hu
      · exact hs.updQueue.flushHeld
      · exact hs
  · cases hu
theorem queueEn : KeepsCanon execQueueEn := by
  intro s u hs hu
  unfold execQueueEn at hu
  split at hu
  · split at hu
    · cases hu
    · split at hu <;> cases hu
      · exact hs.setEn
      · exact hs
  · cases hu

end KeepsCanon
end Sys2Proof.Machine
end

section
/-! Canonical memory: launches, graphs, pre-emption and retirement (R359 to R367, R276, R291, R415). -/
namespace Sys2Proof.Machine

/-! ### Updates that leave memory -/

@[simp] theorem State.cpLog_mem (s : State) (reqs : List TransReq) : (s.cpLog reqs).mem = s.mem := by
  unfold State.cpLog
  split
  · exact State.logFault_mem ..
  · rfl
@[simp] theorem State.noteBuffers_mem (s : State) (r lid : Nat) (cores : List Nat) : (s.noteBuffers r lid cores).mem = s.mem := by
  refine foldl_keeps _ State.mem (fun s j => ?_) _ _
  dsimp only
  repeat' split
  all_goals rfl
@[simp] theorem State.fixTables_mem (s : State) (l : Launch) (t : LaunchTables) : (s.fixTables l t).mem = s.mem := by
  have hroutes (xs : List FabricEnd) : (xs.foldl (fun (s : State) x => if s.ownRoute x then s.fixRoute (epRoute x.word) l.id else s) s).mem = s.mem := by
    refine foldl_keeps _ State.mem (fun s x => ?_) _ _
    split <;> simp
  unfold State.fixTables
  dsimp only
  split
  · split
    · exact hroutes _
    · rw [State.updGroup_mem, State.fixGroup_mem, hroutes]
  · exact hroutes _
@[simp] theorem State.setPeer_mem (s : State) (core ch : Nat) (p : Option (Nat × Nat)) : (s.setPeer core ch p).mem = s.mem := rfl
@[simp] theorem State.setPeers_mem (s : State) (l : Launch) : (s.setPeers l).mem = s.mem := by
  refine foldl_keeps _ State.mem (fun s c => foldl_keeps _ State.mem (fun s ch => ?_) _ _) _ _
  dsimp only
  repeat' split
  all_goals rfl
@[simp] theorem State.pair_mem (s : State) (a b : Launch × Nat × Nat × Nat) : (s.pair a b).mem = s.mem := by
  unfold State.pair
  dsimp only
  repeat' split
  all_goals simp
@[simp] theorem State.pairAll_mem (s : State) (n : Nat) : (s.pairAll n).mem = s.mem := by
  induction n generalizing s with
  | zero => rfl
  | succ n ih =>
    unfold State.pairAll
    dsimp only
    split
    · rw [ih, State.pair_mem]
    · rfl
@[simp] theorem State.rendezvous_mem (s : State) : s.rendezvous.mem = s.mem := s.pairAll_mem _
@[simp] theorem State.unpair_mem (s : State) (l : Launch) : (s.unpair l).mem = s.mem := rfl
@[simp] theorem State.emptyRoutes_mem (s : State) (hs : List Nat) : (s.emptyRoutes hs).mem = s.mem :=
  foldl_keeps _ State.mem (fun (t : State) h => t.updRoute_mem h _) hs s

namespace State.Canon
variable {s : State} {l : Launch} {k : HostCmd}

theorem rendezvous (hs : s.Canon) : s.rendezvous.Canon := hs.of_mem s.rendezvous_mem
theorem setPeers (hs : s.Canon) : (s.setPeers l).Canon := hs.of_mem (State.setPeers_mem ..)
theorem updGroup {g : Nat} {f : Group → Group} (hs : s.Canon) : (s.updGroup g f).Canon := hs.of_mem (State.updGroup_mem ..)
theorem retireAborted (hs : s.Canon) : (s.retireAborted l).Canon := hs.of_mem (State.retireAborted_mem ..)
theorem sendMembers {g type step : Nat} {ws : List Nat} (hs : s.Canon) : (s.sendMembers g type step ws).Canon := hs.of_mem (State.sendMembers_mem ..)

/-! ### What the command processor reads -/

theorem cpScrub {reqs : List TransReq} (hs : s.Canon) : (s.cpScrub reqs).Canon := by
  refine .ite hs (foldl (fun t q ht => ?_) reqs hs)
  have hwalk := ht.scrubWalk (space := q.space) (va := q.va)
  dsimp only
  split
  · exact Memory.wf_scrubRead _ _ _ _ hwalk
  · exact hwalk
theorem logRefusal {q : Queue} {r status : Nat} (hs : s.Canon) : (s.logRefusal q r status).Canon := .ite hs (cpScrub (hs.of_mem (State.cpLog_mem ..)))
theorem logGraph {q : Queue} {addr : Nat} (hs : s.Canon) : (s.logGraph q addr).Canon := .ite hs (cpScrub (hs.of_mem (State.cpLog_mem ..)))

/-! ### Pre-emption -/

theorem requestPreempt (hs : s.Canon) : (s.requestPreempt l).Canon := by
  have hended := hs.endRuns (ctag := l.ctag)
  exact post hended
theorem preemptLaunch (hs : s.Canon) : (s.preemptLaunch l).Canon := by
  unfold State.preemptLaunch
  split
  · exact .ite hs.sendMembers.requestPreempt hs.requestPreempt
  · exact hs.requestPreempt
theorem seekCores {r : Nat} {t : LaunchTables} (hs : s.Canon) : (s.seekCores k r t).Canon := by
  unfold State.seekCores
  split
  · exact hs
  · split
    · exact hs
    · exact foldl (fun _ _ ht => ht.preemptLaunch) _ hs.putHostCmd

/-! ### Placement, broadcast and release -/

/-- The context record is written as the launch is placed. -/
theorem fixTables {t : LaunchTables} (hs : s.Canon) : (s.fixTables l t).Canon := hs.of_mem (State.fixTables_mem ..)
theorem noteBuffers {r lid : Nat} {cores : List Nat} (hs : s.Canon) : (s.noteBuffers r lid cores).Canon := hs.of_mem (State.noteBuffers_mem ..)
theorem place {uid : Nat} {graph : Option (Nat × Nat)} {q : Queue} {r : Nat} {c : Rect} {t : LaunchTables} {ctag : Nat} (hs : s.Canon) :
    (s.place uid graph q r c t ctag).Canon := by
  have hrecord (a n x : Nat) : ((s.cpScrub (launchReqs r)).mem.write a n x).wf = true := Memory.wf_write _ _ _ _ hs.cpScrub
  unfold State.place
  dsimp only
  refine foldl (fun _ _ ht => ht.updCore) _ (fixTables (noteBuffers ?_))
  exact hrecord _ _ _
theorem broadcast {shape : Nat} (hs : s.Canon) : (s.broadcast l shape).Canon := by
  unfold State.broadcast
  dsimp only
  refine foldl (fun t x ht => ?_) _ ?_
  · exact setCore (Memory.wf_put _ _ ht)
  · split
    · exact Memory.wf_scrub _ _ _ hs
    · exact hs
/-- A resumed core's scratchpad comes back from its buffer. -/
theorem spadBack {c : Nat} (hs : s.Canon) : ({ s with mem := s.mem.copyRegion (s.core c).contextBuffer (spadKey c 0) 0x10_0000 } : State).Canon :=
  Memory.wf_copyRegion _ _ _ _ hs
theorem release {resume : Bool} (hs : s.Canon) : (s.release l resume).Canon := by
  have hrun {lr : Launch} : (s.setLaunch lr).Canon := hs.setLaunch
  unfold State.release
  dsimp only
  exact .ite (foldl (fun _ _ ht => post (updCore ht.spadBack)) _ (.ite hrun.post hrun)) (.ite hrun.post hrun)
theorem tryGate (hs : s.Canon) : (s.tryGate l).Canon := by
  unfold State.tryGate
  split
  · exact .ite hs.retireAborted (.ite hs.release hs)
  · exact hs
theorem toGate {g : Nat} {resume : Bool} (hs : s.Canon) : (s.toGate l g resume).Canon := .ite hs.retireAborted hs.putGroup.updGroup.setLaunch.sendMembers.tryGate
theorem startOrGate {resume : Bool} (hs : s.Canon) : (s.startOrGate l resume).Canon := by
  unfold State.startOrGate
  split
  · exact .ite hs.toGate hs.release
  · exact hs.release

/-! ### Retirement -/

theorem freeContext {ctag : Nat} (hs : s.Canon) : (s.freeContext ctag).Canon := Memory.wf_write _ _ _ _ hs
theorem cancelCopies (hs : s.Canon) : (s.cancelCopies l).Canon := foldl (fun _ _ ht => foldl (fun _ _ ht => ht.doAct) _ ht) _ hs
theorem emptied {hs' : List Nat} (hs : s.Canon) : ((s.unpair l).emptyRoutes hs').Canon := hs.of_mem (State.emptyRoutes_mem ..)
theorem leave (hs : s.Canon) : (s.leave l).Canon := by
  have hfreed {ctag : Nat} {hs' : List Nat} : ((((if l.phase = .saved then s else l.cores.foldl State.clearCore s).unpair l).emptyRoutes hs').freeContext ctag).Canon :=
    freeContext (emptied (.ite hs (foldl (fun _ _ ht => ht.clearCore) _ hs)))
  unfold State.leave
  dsimp only
  refine rendezvous ?_
  split
  · exact .ite hfreed (updGroup (putGroup hfreed))
  · exact hfreed

/-! ### Graphs -/

theorem graphOn {g : Graph} (hs : s.Canon) : (s.graphOn g).Canon := by
  unfold State.graphOn
  split
  · exact hs
  · dsimp only
    exact .ite (finishCmd hs) (.ite (finishCmd hs) (foldl (fun _ _ ht => ht.post) _ hs))
theorem putGraph {g : Graph} (hs : s.Canon) : (s.putGraph g).Canon := hs
theorem nodeIs {uid n x : Nat} (hs : s.Canon) : (s.nodeIs uid n x).Canon := by
  unfold State.nodeIs
  split
  · exact hs
  · exact hs.putGraph.graphOn
theorem launchDone {f : Failure} (hs : s.Canon) : (s.launchDone l f).Canon := by
  unfold State.launchDone
  split
  · exact hs.nodeIs
  · split
    · exact hs.finishCmd
    · exact hs
theorem retire (hs : s.Canon) : (s.retire l).Canon := by
  have hgone {f : Failure} : (((s.unpost .launchRetire (.launch l.id)).leave l).launchDone l f).Canon := hs.unpost.leave.launchDone
  have hwait {c1 c2 c3 : Prop} [Decidable c1] [Decidable c2] [Decidable c3] {dirty : List Nat} {f : Failure} : (if c1 then s.cancelCopies l
      else if c2 then dirty.foldl (fun s c => s.postWritebacks c (s.core c).dirtyLines) s
      else if c3 then s.endRuns l.ctag else ((s.unpost .launchRetire (.launch l.id)).leave l).launchDone l f).Canon :=
    .ite hs.cancelCopies (.ite (foldl (fun _ _ ht => ht.postWritebacks) _ hs) (.ite hs.endRuns hgone))
  unfold State.retire
  dsimp only
  split
  · exact .ite hs.raiseAbort (.ite hs hwait)
  · exact hwait

/-! ### Delivery and resumption -/

theorem deliver {done : State → State} (hdone : ∀ t : State, t.Canon → (done t).Canon) (hs : s.Canon) : (s.deliver l done).Canon := by
  have hrefuse {c : Prop} [Decidable c] {lr : Launch} {f : Failure} :
      (if c then (done (s.setLaunch lr)).post .launchRetire (.launch l.id) else (done (s.leave l)).launchDone l f).Canon :=
    .ite (hdone _ hs.setLaunch).post (hdone _ hs.leave).launchDone
  unfold State.deliver
  dsimp only
  split
  · exact hrefuse
  · exact .ite (hdone _ hs.setPeers.broadcast.startOrGate.rendezvous) hrefuse
/-- A core's scratchpad is cleared before its buffer comes back (R276). -/
theorem spadZeroed {lo hi : Nat} (hs : s.Canon) : ({ s with mem := s.mem.zero lo hi } : State).Canon := Memory.wf_zero _ _ _ hs
theorem resume (hs : s.Canon) : (s.resume l).Canon := by
  have hlaid {lr : Launch} {shape : Nat} : ((s.setLaunch lr).broadcast l shape).Canon := hs.setLaunch.broadcast
  unfold State.resume
  dsimp only
  exact startOrGate (foldl (fun _ _ ht => updCore ht.spadZeroed) _ hlaid)

end State.Canon

namespace KeepsCanon

theorem launchRetire : KeepsCanon execLaunchRetire := by
  intro s u hs hu
  unfold execLaunchRetire at hu
  split at hu
  · split at hu
    · cases hu
      exact hs.unpost
    · split at hu
      · cases hu
        exact hs.retire
      · split at hu
        · split at hu <;> cases hu
          · exact (State.Canon.foldl (fun _ _ ht => ht.clearCore) _ hs.unpost).launchSaved
          · exact hs.retire
        · cases hu
          exact hs
  · cases hu
theorem cmdLaunch : KeepsCanon execCmdLaunch := by
  intro s u hs hu
  unfold execCmdLaunch at hu
  split at hu
  · split at hu
    · cases hu
      exact hs.unpost
    · split at hu
      · split at hu
        · cases hu
          exact hs.unpost
        · split at hu <;> cases hu
          · exact hs
          · exact hs.deliver fun _ ht => ht.unpost
      · split at hu
        · cases hu
          exact hs
        · split at hu <;> cases hu
          · exact hs.seekCores
          · exact hs
        · split at hu <;> cases hu
          · exact hs.logRefusal.startCmd.finishCmd
          · exact hs
        · split at hu
          · cases hu
            exact hs
          · split at hu <;> cases hu
            · exact hs.startCmd.place
            · exact hs
  · cases hu
theorem graphNodeStart : KeepsCanon execGraphNodeStart := by
  intro s u hs hu
  unfold execGraphNodeStart at hu
  split at hu
  · dsimp only at hu
    split at hu
    · split at hu
      · split at hu
        · cases hu
          exact hs.unpost
        · split at hu <;> cases hu
          · exact hs
          · exact hs.deliver fun _ ht => ht.unpost
      · split at hu
        · cases hu
          exact hs.unpost
        · split at hu
          · cases hu
            exact hs
          · split at hu
            · cases hu
              exact hs
            · cases hu
              exact hs.seekCores
            · cases hu
              exact hs.unpost.logRefusal.nodeIs
            · split at hu <;> cases hu
              · exact hs
              · exact hs.putHostCmd.nodeIs.place
    · cases hu
      exact hs.unpost
  · cases hu
theorem launchResume : KeepsCanon execLaunchResume := by
  intro s u hs hu
  unfold execLaunchResume at hu
  split at hu
  · dsimp only at hu
    split at hu
    · cases hu
      exact hs.unpost
    · split at hu
      · cases hu
        exact hs.unpost
      · split at hu
        · cases hu
          exact hs
        · split at hu <;> cases hu
          · exact hs.unpost.resume
          · exact hs
  · cases hu

end KeepsCanon
end Sys2Proof.Machine
end

section
/-! Canonical memory: the other host commands (R362, R367 to R373, R379). -/
namespace Sys2Proof.Machine

/-! ### Updates that leave memory -/

@[simp] theorem State.rerunOp_mem (s : State) (id t : Nat) (p : TPending) : (s.rerunOp id t p).mem = s.mem := by
  unfold State.rerunOp
  split
  · rfl
  · exact State.post_mem ..
  · exact State.post_mem ..
  · rfl
  · exact State.post_mem ..
@[simp] theorem State.rerunCore_mem (s : State) (id : Nat) : (s.rerunCore id).mem = s.mem := by
  have hengines (l : List (Fin 2)) : (l.foldl (fun (t : State) e => ((s.core id).engines[e]).queue.foldl (fun (t : State) k =>
      (t.postEv (moverEv (.engine id e.val k.id) k)).postEv (closerEv (.engine id e.val k.id) k)) t) s).mem = s.mem :=
    foldl_keeps _ State.mem (fun t e => foldl_keeps _ State.mem (fun t k => by simp) _ _) l s
  unfold State.rerunCore
  rw [State.repost_mem]
  exact (foldl_keeps _ State.mem (fun t th => foldl_keeps _ State.mem (fun t p => State.rerunOp_mem t ..) _ _) _ _).trans (hengines _)
@[simp] theorem State.unfreezeCore_mem (s : State) (id : Nat) (halted : Bool) : (s.unfreezeCore id halted).mem = s.mem := by
  unfold State.unfreezeCore
  rw [State.rerunCore_mem, State.setCore_mem]
@[simp] theorem State.failLaunch_mem (s : State) (l : Launch) : (s.failLaunch l).mem = s.mem := State.post_mem ..
@[simp] theorem State.faultEv_mem (s : State) (e : Ev) : (s.faultEv e).mem = s.mem := by
  unfold State.faultEv
  split
  · split <;> rfl
  · split
    · rw [State.postEv_mem, State.putCmd_mem]
    · rfl
  · split
    · rfl
    · exact foldl_keeps _ State.mem (fun t x => State.tinkFault_mem ..) _ _
  · rw [State.postEv_mem, State.updRun_mem]
  · rfl
@[simp] theorem State.clearCtx_mem (s : State) (p ctag mode : Nat) : (s.clearCtx p ctag mode).mem = s.mem := by
  unfold State.clearCtx
  split
  · rfl
  · have hgo (c : Prop) [Decidable c] (t : State) : (if c then t.post .porterRequest (.porter p ctag) else t.post .porterRunStart (.porter p ctag)).mem = t.mem := by
      split <;> exact State.post_mem ..
    dsimp only
    split
    · exact (foldl_keeps _ State.mem (fun t e => t.postEv_mem e) _ _).trans (hgo ..)
    · exact (foldl_keeps _ State.mem (fun t e => t.faultEv_mem e) _ _).trans (hgo ..)

namespace State.Canon
variable {s : State} {l : Launch} {k : HostCmd}

theorem failLaunch (hs : s.Canon) : (s.failLaunch l).Canon := hs.of_mem (State.failLaunch_mem ..)
theorem unfreezeCore {id : Nat} {halted : Bool} (hs : s.Canon) : (s.unfreezeCore id halted).Canon := hs.of_mem (State.unfreezeCore_mem ..)
theorem clearCtx {p ctag mode : Nat} (hs : s.Canon) : (s.clearCtx p ctag mode).Canon := hs.of_mem (State.clearCtx_mem ..)

/-! ### Graphs and copies -/

theorem seekGraph (hs : s.Canon) : (s.seekGraph k).Canon := by
  unfold State.seekGraph
  dsimp only
  split
  · exact hs
  · refine .ite hs (foldl (fun t i ht => ?_) _ hs)
    split
    · exact .ite ht ht.seekCores
    · exact ht
theorem runGraph (hs : s.Canon) : (s.runGraph k).Canon := by
  unfold State.runGraph
  refine .ite hs.unpost (.ite (.ite hs.seekGraph hs) ?_)
  split
  · exact hs.logGraph.startCmd.finishCmd
  · exact graphOn (hs.cpScrub (reqs := s.graphReqs (s.queue k.q) (k.field 15 8)))
theorem copyEnd {r : Req} {addr kind n : Nat} (hs : s.Canon) : (s.copyEnd r addr kind n).1.Canon :=
  ite_fst hs (.andThen (asFault (hs.of_mem (by simp))) fun _ _ hs => .andThen hs.reach fun _ _ hs => hs)
theorem copyPiece {r : Req} {src dst n : Nat} (hs : s.Canon) : (s.copyPiece r src dst n).1.Canon := by
  refine .andThen hs.copyEnd fun s p hs => .andThen hs.copyEnd fun s d hs => ite_fst hs ?_
  have hread : (s.mem.scrubRead p.2 p.1 n).wf = true := Memory.wf_scrubRead _ _ _ _ hs
  refine ite_fst ?host ?device
  case host =>
    have hpoison {c : Prop} [Decidable c] {t : State} {a b : Nat} (ht : t.Canon) : (if c then t.poisonTo a b else t).Canon := .ite (ht.of_mem (State.poisonTo_mem ..)) ht
    exact Memory.wf_put _ _ (hpoison hread)
  case device =>
    refine noteWrite ?_
    show Memory.wf (if _ then _ else _) = true
    split
    · exact Memory.wf_putLineDev _ _ _ _ hread
    · exact Memory.wf_putDev _ _ hread
theorem runCopy (hs : s.Canon) : (s.runCopy k).Canon := by
  unfold State.runCopy
  dsimp only
  refine .ite (.ite hs (.ite hs.startCmd.finishCmd hs.startCmd)) (.ite hs (.ite (foldl (fun _ _ ht => ht.postWritebacks) _ hs) (.ite hs.finishCmd ?_)))
  split
  case' h_1 => refine postEv (putHostCmd (forget ?_))
  case' h_3 => refine postEv ?_
  case' h_4 => refine finishCmd (forget ?_)
  case' h_5 => refine finishCmd (forget ?_)
  all_goals exact hs.copyPiece

/-! ### Tokens, freezes and functions -/

theorem tokenViolation (hs : s.Canon) : (s.tokenViolation k).Canon := hs.startCmd.freezeFn.finishCmd
theorem runSignal (hs : s.Canon) : (s.runSignal k).Canon := .ite (.ite hs (.ite hs.tokenViolation hs.startCmd)) (.ite (finishCmd hs) hs)
theorem runWait (hs : s.Canon) : (s.runWait k).Canon := .ite hs (.ite hs.tokenViolation hs.startCmd.finishCmd)
theorem resetFn {f : Nat} (hs : s.Canon) : (s.resetFn f).Canon := foldl (fun _ _ ht => .ite ht.setEn ht) _ (foldl (fun _ _ ht => ht.failLaunch) _ hs)
theorem runFreezeClear (hs : s.Canon) : (s.runFreezeClear k).Canon := by
  have hstart := hs.startCmd (k := k)
  unfold State.runFreezeClear
  dsimp only
  refine .ite hs (.ite hstart.finishCmd ?_)
  split
  · exact hstart.finishCmd
  · refine .ite (.ite hstart.finishCmd hstart.unfreezeCore.finishCmd) ?_
    split
    · exact hstart.failLaunch.finishCmd
    · exact hstart.clearCore.finishCmd
  · exact hstart.clearCtx.finishCmd
  · exact hstart.resetFn.updFn.flushHeld.finishCmd

/-! ### INVAL, HTSET, ATTEST -/

theorem runInval (hs : s.Canon) : (s.runInval k).Canon := .ite (.ite hs hs) (.ite hs hs.finishCmd)
theorem runHtset (hs : s.Canon) : (s.runHtset k).Canon :=
  .ite hs (.ite hs.startCmd.finishCmd (.ite hs (finishCmd (Memory.wf_put _ _ (Memory.wf_scrub _ _ _ hs)))))
theorem runAttest (hs : s.Canon) : (s.runAttest k).Canon := .ite hs (finishCmd (Memory.wf_put _ _ hs))

end State.Canon

namespace KeepsCanon

theorem onCommand {i : Instr} {f : State → HostCmd → State} (hf : ∀ (s : State) k, s.Canon → (f s k).Canon) : KeepsCanon (onCommand i f) := by
  intro s u hs hu
  unfold Machine.onCommand at hu
  split at hu
  · split at hu <;> cases hu
    · exact hs.unpost
    · exact hf _ _ hs
  · cases hu
theorem cmdGraph : KeepsCanon execCmdGraph := onCommand fun _ _ hs => hs.runGraph
theorem cmdCopy : KeepsCanon execCmdCopy := onCommand fun _ _ hs => hs.runCopy
theorem cmdSignal : KeepsCanon execCmdSignal := onCommand fun _ _ hs => hs.runSignal
theorem cmdWait : KeepsCanon execCmdWait := onCommand fun _ _ hs => hs.runWait
theorem cmdFreezeClear : KeepsCanon execCmdFreezeClear := onCommand fun _ _ hs => hs.runFreezeClear
theorem cmdInval : KeepsCanon execCmdInval := onCommand fun _ _ hs => hs.runInval
theorem cmdHtset : KeepsCanon execCmdHtset := onCommand fun _ _ hs => hs.runHtset
theorem cmdAttest : KeepsCanon execCmdAttest := onCommand fun _ _ hs => hs.runAttest

end KeepsCanon
end Sys2Proof.Machine
end

section
/-! Canonical memory: PARTITION and CHECKPOINT, and the flits of the fabric (R327 to R330, R344 to R346, R403 to R416). -/
namespace Sys2Proof.Machine

/-! ### Updates that leave memory -/

@[simp] theorem State.purgeSpace_mem (s : State) (all : Bool) (space : Nat) : (s.purgeSpace all space).mem = s.mem := rfl
@[simp] theorem State.sendData_mem (s : State) (route off n : Nat) (ls : List (Nat × Nat)) : (s.sendData route off n ls).mem = s.mem := by
  induction n generalizing s off ls with
  | zero => rfl
  | succ n ih =>
    unfold State.sendData
    split
    · rfl
    · dsimp only
      rw [ih, State.sendFlit_mem]
@[simp] theorem State.lowerGrant_mem (s : State) (core : Nat) (ch : Chan) (resend : Bool) : (s.lowerGrant core ch resend).mem = s.mem := by
  unfold State.lowerGrant
  split <;> rfl
@[simp] theorem State.countRefused_mem (s : State) (h : Nat) (resend : Bool) : (s.countRefused h resend).mem = s.mem := by
  unfold State.countRefused
  split <;> rfl
@[simp] theorem State.sendAck_mem (s : State) (h tag : Nat) : (s.sendAck h tag).mem = s.mem := State.sendWords_mem ..
@[simp] theorem State.sendRefuse_mem (s : State) (h tag status : Nat) : (s.sendRefuse h tag status).mem = s.mem := State.sendWords_mem ..
@[simp] theorem State.arriveGrant_mem (s : State) (h n : Nat) : (s.arriveGrant h n).mem = s.mem := by
  unfold State.arriveGrant
  split <;> simp
@[simp] theorem State.retransmit_mem (s : State) (h : Nat) : (s.retransmit h).mem = s.mem := by
  unfold State.retransmit
  dsimp only
  split
  · rfl
  · exact (foldl_keeps _ State.mem (fun t m => State.sendRows_mem ..) _ _).trans (State.updRoute_mem ..)

namespace State.Canon
variable {s : State} {k : HostCmd} {q : Sequence}

/-! ### Sequences -/

theorem drain (hs : s.Canon) : s.drain.Canon := foldl (fun _ _ ht => ht.requestPreempt) _ (foldl (fun _ _ ht => ht.endRuns) _ hs)
theorem forceOut (hs : s.Canon) : (s.forceOut q).Canon := foldl (fun _ _ ht => ht.failLaunch) s.runOn hs
theorem stepDrain {back : State → Sequence → State} (hback : ∀ (t : State) q, t.Canon → (back t q).Canon) (hs : s.Canon) : (s.stepDrain q back).Canon :=
  .ite hs (.ite (.ite hs.drain.forceOut (hback _ _ hs.drain)) hs.drain)
theorem partitionDone {status oldn : Nat} (hs : s.Canon) : (s.partitionDone k q status oldn).Canon := finishCmd (event hs)
theorem movePage {p : Nat × Nat × Nat × TLeaf} {u : State} (hs : s.Canon) (h : s.movePage p = some u) : u.Canon := by
  unfold State.movePage at h
  split at h
  · cases h
  next hp =>
    rw [← Option.some.inj h, State.Canon, State.purgePage_mem]
    exact Memory.wf_write _ _ _ _ (Memory.wf_copyRegion _ _ _ _ (hs.smrPop hp))
theorem purgeSpace {all : Bool} {space : Nat} (hs : s.Canon) : (s.purgeSpace all space).Canon := hs
theorem changeRoles (hs : s.Canon) : (s.changeRoles k q).Canon := by
  refine partitionDone (purgeSpace ?_)
  refine foldl_inv _ (fun m => Memory.wf m = true) (fun m z hm => ?_) _ _ hs
  split
  · exact Memory.wf_zero _ _ _ hm
  · exact hm
/-- A sequence goes on to its next step. -/
theorem withSequence {o : Option Sequence} (hs : s.Canon) : ({ s with sequence := o } : State).Canon := hs
theorem stepPartition (hs : s.Canon) : (s.stepPartition k q).Canon := by
  unfold State.stepPartition
  refine .ite (hs.stepDrain fun _ _ ht => ht.partitionDone) ?_
  dsimp only
  split
  · refine .ite hs ?_
    split
    next h => exact withSequence (hs.movePage h)
    · exact hs.partitionDone
  · exact .ite hs hs.changeRoles
theorem runPartition (hs : s.Canon) : (s.runPartition k).Canon := by
  unfold State.runPartition
  dsimp only
  refine .ite (.ite hs (.ite hs.startCmd.event.finishCmd (.ite hs.startCmd.finishCmd hs))) ?_
  split
  · exact .ite hs.stepPartition hs
  · exact hs
/-- A region lies in host memory once it is sent there. -/
theorem sendOut {src dst n : Nat} (hs : s.Canon) : ({ s with mem := s.mem.sendOut src dst n } : State).Canon := Memory.wf_copyRegion s.mem src dst n hs
theorem streamRegion {list i off : Nat} {r : Region} (hs : s.Canon) : (s.streamRegion list i off r).Canon := by
  unfold State.streamRegion
  split
  · exact hs.of_mem (State.sendData_mem ..)
  · exact foldl (fun _ _ ht => ht.of_mem (State.poisonTo_mem ..)) _ hs.sendOut
theorem streamManifest {list i off : Nat} {bs : List Byte} (hs : s.Canon) : (s.streamManifest list i off bs).Canon := by
  unfold State.streamManifest
  split
  · exact hs.of_mem (State.sendData_mem ..)
  · exact Memory.wf_put _ _ hs
theorem writeCheckpoint (hs : s.Canon) : (s.writeCheckpoint k q).Canon :=
  finishCmd (event (withSequence (streamManifest (foldl (fun _ _ ht => ht.streamRegion) s.regions.zipIdx hs))))
theorem stepCheckpoint (hs : s.Canon) : (s.stepCheckpoint k q).Canon :=
  .ite (hs.stepDrain fun _ _ ht => finishCmd ht) (.ite hs.writeCheckpoint hs)
theorem runCheckpoint (hs : s.Canon) : (s.runCheckpoint k).Canon := by
  unfold State.runCheckpoint
  refine .ite (.ite hs (.ite hs.startCmd.finishCmd hs)) ?_
  split
  · exact .ite hs.stepCheckpoint hs
  · exact hs

/-! ### Messages -/

theorem sendAck {h tag : Nat} (hs : s.Canon) : (s.sendAck h tag).Canon := hs.of_mem (State.sendAck_mem ..)
theorem sendRefuse {h tag status : Nat} (hs : s.Canon) : (s.sendRefuse h tag status).Canon := hs.of_mem (State.sendRefuse_mem ..)
theorem lowerGrant {core : Nat} {ch : Chan} {resend : Bool} (hs : s.Canon) : (s.lowerGrant core ch resend).Canon := hs.of_mem (State.lowerGrant_mem ..)
theorem countRefused {h : Nat} {resend : Bool} (hs : s.Canon) : (s.countRefused h resend).Canon := hs.of_mem (State.countRefused_mem ..)
theorem updRoute {h : Nat} {f : Route → Route} (hs : s.Canon) : (s.updRoute h f).Canon := hs.of_mem (State.updRoute_mem ..)
theorem arriveFabric {h m : Nat} {resend : Bool} (hs : s.Canon) : (s.arriveFabric h m resend).Canon := by
  unfold State.arriveFabric
  dsimp only
  refine .ite hs (.ite ?seen ?new)
  case seen =>
    refine .ite (sendAck ?_) ?_
    all_goals
      split
      · exact hs.lowerGrant
      · exact hs.countRefused
      · exact hs
  case new =>
    split
    · exact hs
    · exact hs.countRefused.sendRefuse
    · exact .ite hs.lowerGrant.sendRefuse (.ite hs.lowerGrant.sendRefuse hs.lowerGrant.updCore.updRoute)

/-! ### Groups -/

theorem unreachable {g m : Nat} (hs : s.Canon) : (s.unreachable g m).Canon := by
  have hsilent {f : Group → Group} : (s.updGroup g f).Canon := hs.updGroup
  unfold State.unreachable
  dsimp only
  exact .ite (.ite hsilent (tryAgree (.ite hsilent (hsilent.of_mem (State.sendFinal_mem ..))))) hsilent.raiseAbort

/-! ### DATA -/

theorem peerLine {x : PeerLine} (hs : s.Canon) : (s.peerLine x).Canon := by
  unfold State.peerLine
  dsimp only
  split
  · exact noteWrite (Memory.wf_putDev _ _ hs)
  · exact noteWrite (Memory.wf_putLineDev _ _ _ _ hs)
theorem peerDrain {h n : Nat} (hs : s.Canon) : (s.peerDrain h n).Canon := by
  induction n generalizing s with
  | zero => exact hs
  | succ n ih =>
    unfold State.peerDrain
    split
    · exact hs
    · split
      next hw => exact hs.of_mem (State.recallWait_mem hw)
      · exact ih (peerLine hs)
theorem arriveData {bs : List Byte} (hs : s.Canon) : (s.arriveData bs).Canon := .ite hs (peerDrain hs)

end State.Canon

namespace KeepsCanon

theorem cmdPartition : KeepsCanon execCmdPartition := onCommand fun _ _ hs => hs.runPartition
theorem cmdCheckpoint : KeepsCanon execCmdCheckpoint := onCommand fun _ _ hs => hs.runCheckpoint

theorem onFlit {ty : Nat} {f : State → List Byte → State} (hf : ∀ (s : State) bs, s.Canon → (f s bs).Canon) : KeepsCanon (onFlit ty f) := by
  intro s u hs hu
  unfold Machine.onFlit at hu
  split at hu
  · split at hu
    · cases hu
    · split at hu
      · cases hu
        exact hs
      · split at hu
        · cases hu
          exact hs
        · split at hu
          · cases hu
            exact hs
          · dsimp only at hu
            split at hu <;> cases hu
            · exact hf _ _ hs
            · exact hs
  · cases hu
theorem onMember {ty : Nat} {f : State → Nat → Nat → List Byte → State} (hf : ∀ (s : State) g m bs, s.Canon → (f s g m bs).Canon) : KeepsCanon (onMember ty f) := by
  refine onFlit fun s bs hs => ?_
  split
  · exact hf _ _ _ _ hs
  · exact hs

theorem msgFlit : KeepsCanon execMsgFlit := onFlit fun _ _ hs => .foldl (fun _ _ ht => ht.arriveFabric) _ hs
theorem grantFlit : KeepsCanon execGrantFlit := onFlit fun _ _ hs => hs.of_mem (State.arriveGrant_mem ..)
theorem ackFlit : KeepsCanon execAckFlit := onFlit fun _ _ hs => hs.updRoute
theorem refuseFlit : KeepsCanon execRefuseFlit := by
  refine onFlit fun s bs hs => ?_
  dsimp only
  split
  · exact hs.of_mem (by simp)
  · exact hs.of_mem (by simp)
theorem retransmissionTimeout : KeepsCanon execRetransmissionTimeout := by
  intro s u hs hu
  unfold execRetransmissionTimeout at hu
  split at hu
  · split at hu <;> cases hu
    exact hs.of_mem (State.retransmit_mem ..)
  · cases hu
theorem stepFlit : KeepsCanon execStepFlit := onMember fun _ _ _ _ hs => hs.updGroup
theorem abortFlit : KeepsCanon execAbortFlit := onMember fun _ _ _ _ hs => .ite (hs.of_mem (State.sendGroup_mem ..)) hs.beginAbort
theorem finalFlit : KeepsCanon execFinalFlit := onMember fun _ _ _ _ hs => hs.updGroup.tryAgree
theorem agreedFlit : KeepsCanon execAgreedFlit := onMember fun _ _ _ _ hs => .ite hs.applyAgreed hs
theorem memberUnreachable : KeepsCanon execMemberUnreachable := by
  intro s u hs hu
  unfold execMemberUnreachable at hu
  split at hu
  · split at hu <;> cases hu
    exact .ite hs.unreachable hs
  · cases hu
theorem readyFlit : KeepsCanon execReadyFlit := onMember fun _ _ _ _ hs => .ite (.foldl (fun _ _ ht => ht.tryGate) _ hs.updGroup) hs
theorem gangpreFlit : KeepsCanon execGangpreFlit := onMember fun _ _ _ _ hs => .foldl (fun _ _ ht => ht.requestPreempt) _ hs
theorem sliceEnd : KeepsCanon execSliceEnd := by
  intro s u hs hu
  unfold execSliceEnd at hu
  split at hu
  · dsimp only at hu
    split at hu
    · cases hu
      exact hs.unpost
    · split at hu
      · cases hu
        exact hs.unpost
      · split at hu
        · cases hu
          exact hs.unpost
        · split at hu <;> cases hu
          · exact hs
          · exact hs.unpost.putGroup.setLaunch
  · cases hu
theorem dataFlit : KeepsCanon execDataFlit := by
  intro s u hs hu
  unfold execDataFlit at hu
  split at hu
  · cases hu
    exact hs.peerDrain
  · exact onFlit (fun _ _ ht => ht.arriveData) s u hs hu

end KeepsCanon
end Sys2Proof.Machine
end

section
/-! Canonical memory: registers, BAR 2, function resets, power, heat and errors (R349 to R355, R375 to R381, R404). -/
namespace Sys2Proof.Machine

@[simp] theorem State.answerRead_mem (s : State) (a : HostAccess) (x : Option (List Byte)) (bad : Bool) : (s.answerRead a x bad).mem = s.mem := by
  unfold State.answerRead
  split <;> rfl
@[simp] theorem State.mgmtWrite_mem (s : State) (o v : Nat) : (s.mgmtWrite o v).mem = s.mem := by
  unfold State.mgmtWrite
  dsimp only
  repeat' split
  all_goals rfl

namespace State.Canon
variable {s : State}

/-! ### Registers -/

theorem pageWrite {f q off v : Nat} (hs : s.Canon) : (s.pageWrite f q off v).Canon := by
  unfold State.pageWrite
  dsimp only
  exact .ite hs.freezeFn (.ite hs (.ite hs (.ite hs (.ite hs (.ite hs (.ite hs (.ite hs (.ite hs (.ite hs hs)))))))))
theorem registerWrite {f off v : Nat} (hs : s.Canon) : (s.registerWrite f off v).Canon := by
  unfold State.registerWrite
  refine .ite hs ?_
  split
  · exact hs.pageWrite
  · exact .ite (hs.of_mem (State.mgmtWrite_mem ..)) (.ite hs hs)

/-! ### BAR 2 -/

variable {a : HostAccess}

theorem bar2At (hs : s.Canon) : (s.bar2At a).1.Canon := .andThen (hs.of_mem (by simp)) fun _ _ hs => .andThen hs.reach fun _ _ hs => hs
theorem answerRead {x : Option (List Byte)} {bad : Bool} (hs : s.Canon) : (s.answerRead a x bad).Canon := hs.of_mem (State.answerRead_mem ..)
theorem bar2Do {p : Nat × TLeaf} (hs : s.Canon) : (s.bar2Do a p).Canon := by
  unfold State.bar2Do
  split
  · exact noteWrite (Memory.wf_putDev _ _ hs)
  · exact answerRead (foldl (fun t pa ht => ht.of_mem (t.poisoned_mem pa)) _ (Memory.wf_scrubRead _ _ _ _ hs))
/-- The accesses that wait change. -/
theorem bar2Queued {l : List HostAccess} (hs : s.Canon) : ({ s with bar2 := l } : State).Canon := hs
theorem bar2Over (hs : s.Canon) : (s.bar2Over a).Canon := by
  suffices h : ∀ t : State, t.Canon → (match t.bar2.find? fun (x : HostAccess) => x.fn == a.fn with | some b => t.postEv b.ev | none => t).Canon from
    h _ hs.forget.unpostEv.bar2Queued
  intro t ht
  split
  · exact ht.postEv
  · exact ht
theorem bar2Run {f : Nat} {ev : Ev} (hs : s.Canon) : (s.bar2Run f ev).Canon := by
  unfold State.bar2Run
  split
  · exact hs.unpostEv
  next b _ =>
    have hx := hs.bar2At (a := b)
    refine .ite hs.unpostEv (.ite hs.answerRead.bar2Over ?_)
    generalize s.bar2At b = x at hx
    obtain ⟨u, r⟩ := x
    cases r with
    | ok p => exact bar2Over (bar2Do hx)
    | wait => exact hx
    | retry => exact postEv hx
    | fault c => exact bar2Over (answerRead hx)
    | viol v => exact freezeFn (bar2Over (answerRead hx))
theorem bar2Take (hs : s.Canon) : (s.bar2Take a).Canon := .ite hs.answerRead (.ite hs.bar2Queued hs.bar2Queued.bar2Run)

/-! ### Power -/

theorem wiped (hs : s.Canon) : s.wiped.Canon := Memory.wf_hostPart _ hs
theorem configured {b : BringUp} (hs : s.Canon) : (s.configured b).Canon := hs
theorem dark (hs : s.Canon) : s.dark.Canon := Memory.wf_hostPart _ hs

end State.Canon

namespace KeepsCanon

theorem registerWrite : KeepsCanon execRegisterWrite := by
  intro s u hs hu
  unfold execRegisterWrite at hu
  split at hu
  · split at hu <;> cases hu
    exact hs.registerWrite
  · cases hu
theorem bar2Read : KeepsCanon execBar2Read := by
  intro s u hs hu
  unfold execBar2Read at hu
  split at hu
  · split at hu <;> cases hu
    exact hs.unpost.bar2Take
  · cases hu
    exact hs.bar2Run
  · cases hu
theorem bar2Write : KeepsCanon execBar2Write := by
  intro s u hs hu
  unfold execBar2Write at hu
  split at hu
  · split at hu <;> cases hu
    exact hs.unpost.bar2Take
  · cases hu
    exact hs.bar2Run
  · cases hu
theorem functionLevelReset : KeepsCanon execFunctionLevelReset := by
  intro s u hs hu
  unfold execFunctionLevelReset at hu
  split at hu
  · split at hu <;> cases hu
    exact .ite hs.resetFn hs
  · cases hu
theorem powerGood : KeepsCanon execPowerGood := by
  intro s u hs hu
  unfold execPowerGood at hu
  split at hu
  · split at hu
    · cases hu
      exact hs
    · split at hu <;> cases hu
      · have hconf {c : Prop} [Decidable c] {b : BringUp} : (if c then s.configured b else s).Canon := .ite hs.configured hs
        exact (State.Canon.ite hconf.wiped hconf)
      · exact hs.configured.wiped
  · cases hu
theorem powerLoss : KeepsCanon execPowerLoss := by
  intro s u hs hu
  unfold execPowerLoss at hu
  split at hu <;> cases hu
  exact hs.dark
theorem tokenAllowanceUpdate : KeepsCanon execTokenAllowanceUpdate := by
  intro s u hs hu
  unfold execTokenAllowanceUpdate at hu
  split at hu <;> cases hu
  exact .ite hs hs
theorem thermalWarning : KeepsCanon execThermalWarning := by
  intro s u hs hu
  unfold execThermalWarning at hu
  split at hu <;> cases hu
  exact .ite (State.Canon.event hs) hs
theorem thermalCritical : KeepsCanon execThermalCritical := by
  intro s u hs hu
  unfold execThermalCritical at hu
  split at hu <;> cases hu
  exact hs.dark
theorem bitError : KeepsCanon execBitError := by
  intro s u hs hu
  unfold execBitError at hu
  split at hu <;> cases hu
  exact .ite (State.Canon.raiseVec (Memory.wf_inject _ _ hs)) (Memory.wf_inject _ _ hs)
theorem linkFailure : KeepsCanon execLinkFailure := by
  intro s u hs hu
  unfold execLinkFailure at hu
  split at hu
  · split at hu <;> cases hu
    exact hs
  · cases hu

end KeepsCanon
end Sys2Proof.Machine
end

section
/-! Canonical memory: operations of slots and of tinker threads, whose plans leave memory but for corrected words (R57, R61, R71, R232). -/
namespace Sys2Proof.Machine

@[simp] theorem State.forward_mem (s : State) (id : Nat) (east : Bool) (h : HReg) (tile : List Byte) (shadows : List Nat) : (s.forward id east h tile shadows).mem = s.mem := by
  unfold State.forward
  split
  · rfl
  · dsimp only
    split
    · exact State.post_mem ..
    · rfl

/-! ### Plans whose effect on the rest of the device leaves memory -/

/-- What a plan does at issue to the rest of the device leaves memory. -/
def Plan.LeavesMem (p : Plan) : Prop := ∀ s, (p.updS s).mem = s.mem
/-- The same of a tinker operation's plan. -/
def TPlan.LeavesMem (p : TPlan) : Prop := ∀ s, (p.updS s).mem = s.mem

theorem Plan.LeavesMem.plain {p : Plan} (h : p.updS = fun s => s) : p.LeavesMem := fun s => by rw [h]
theorem Plan.LeavesMem.ite {c : Prop} [Decidable c] {p q : Plan} (hp : p.LeavesMem) (hq : q.LeavesMem) : (if c then p else q).LeavesMem := by
  split
  · exact hp
  · exact hq
theorem TPlan.LeavesMem.plain {p : TPlan} (h : p.updS = fun s => s) : p.LeavesMem := fun s => by rw [h]

theorem Memory.wf_scrubList (l : List (Nat × Nat)) {m : Memory} (h : m.wf = true) : (l.foldl (fun (m : Memory) (r : Nat × Nat) => m.scrub r.1 r.2) m).wf = true := m.wf_scrubs l h

/-- The thread's operation has issued: what it read is written back corrected. -/
theorem State.Canon.tinkIssue {s : State} {id : Nat} {t : Fin 64} {p : TPlan} (hp : p.LeavesMem) (hs : s.Canon) : (s.tinkIssue id t p).Canon := by
  have hread : ({ s with mem := p.scrub.foldl (fun (m : Memory) r => m.scrub r.1 r.2) s.mem } : State).Canon := Memory.wf_scrubList _ hs
  unfold State.tinkIssue
  dsimp only
  exact of_mem (.ite (post (post (setCore hread))) (post (setCore hread))) (hp _)

namespace KeepsCanon

/-- A primary operation writes no memory but what it corrects. -/
theorem primOp {srcs : List (Nat × Src)} {body : View → Plan} (h : ∀ v, (body v).LeavesMem) : KeepsCanon (primOp srcs body) := by
  intro s u hs hu
  unfold Machine.primOp at hu
  split at hu
  · dsimp only at hu
    split at hu
    · rw [← Host.Outcome.next.inj hu, State.Canon, h, State.setCore_mem]
      exact Memory.wf_scrubList _ hs
    · rw [← Host.Outcome.next.inj hu]
      exact hs.setCore
  · cases hu
/-- A tinker operation issues, parks its thread, or freezes its core. -/
theorem tinkOp {body : TView → TPlan} (h : ∀ v, (body v).LeavesMem) : KeepsCanon (tinkOp body) := by
  intro s u hs hu
  unfold Machine.tinkOp at hu
  split at hu
  · dsimp only at hu
    split at hu
    · rw [← Host.Outcome.next.inj hu]
      exact State.Canon.updCore (.ite (hs.of_mem (State.logFault_mem ..)) hs)
    · rw [← Host.Outcome.next.inj hu]
      exact hs.freezeCore
    · rw [← Host.Outcome.next.inj hu]
      exact hs.tinkIssue (h _)
  · cases hu

/-! ### The shared forms of plans -/

theorem plain {srcs : List (Nat × Src)} {body : View → Plan} (h : ∀ v, (body v).updS = fun s => s) : KeepsCanon (Machine.primOp srcs body) := primOp fun v => .plain (h v)
theorem binX {zx lat f d b x} : KeepsCanon (Machine.binX zx lat f d b x) := plain fun _ => rfl
theorem unS {lat f d b} : KeepsCanon (Machine.unS lat f d b) := plain fun _ => rfl
theorem binP {f d b c} : KeepsCanon (Machine.binP f d b c) := plain fun _ => rfl
theorem sfMinMax {m d b c} : KeepsCanon (Machine.sfMinMax m d b c) := plain fun _ => rfl
theorem vecInt {t k f d b c} : KeepsCanon (Machine.vecInt t k f d b c) := plain fun _ => rfl
theorem vecBits {t k f d b c} : KeepsCanon (Machine.vecBits t k f d b c) := plain fun _ => rfl
theorem vecFlt {t xv f d b c} : KeepsCanon (Machine.vecFlt t xv f d b c) := plain fun _ => rfl
theorem vecMinMax {t k m d b c} : KeepsCanon (Machine.vecMinMax t k m d b c) := plain fun _ => rfl
theorem vecUnary {t xv u d b} : KeepsCanon (Machine.vecUnary t xv u d b) := plain fun _ => rfl
theorem dirSum {neg d b c xv} : KeepsCanon (Machine.dirSum neg d b c xv) := plain fun _ => rfl
theorem vecShift {t f d b x} : KeepsCanon (Machine.vecShift t f d b x) := by
  unfold Machine.vecShift
  split <;> exact plain fun _ => rfl
theorem vslide {t d b x} : KeepsCanon (execVslide t d b x) := by
  unfold execVslide
  split <;> exact plain fun _ => rfl
theorem dscale {d b x} : KeepsCanon (execDscale d b x) := by
  unfold execDscale
  split <;> exact plain fun _ => rfl
theorem vld {d b x} : KeepsCanon (execVld d b x) := by
  cases d with
  | v r k t => exact plain fun _ => rfl
  | m r => exact plain fun _ => rfl
  | w r => exact plain fun _ => rfl
theorem vred {t d b xv} : KeepsCanon (execVred t d b xv) := by
  refine plain fun v => ?_
  dsimp only
  split <;> rfl
theorem vscan {t d b xv} : KeepsCanon (execVscan t d b xv) := by
  refine plain fun v => ?_
  dsimp only
  split <;> rfl
theorem vsbind {a b wr} : KeepsCanon (execVsbind a b wr) := primOp fun _ => .ite (.plain rfl) (.plain rfl)
theorem ttmask {k c x} : KeepsCanon (execTtmask k c x) := by
  unfold execTtmask
  split <;> exact plain fun _ => rfl
theorem mma {a xm} : KeepsCanon (execMma a xm) := by
  refine primOp fun _ => .ite (.plain rfl) (.ite (.plain rfl) (.ite (.plain rfl) fun s => ?_))
  have hforward {c : Bool} {t : State} {id : Nat} {east : Bool} {h : HReg} {tile : List Byte} {sh : List Nat} : (if c then t.forward id east h tile sh else t).mem = t.mem := by
    split <;> simp
  exact hforward.trans hforward
theorem mmas {a xm} : KeepsCanon (execMmas a xm) := by
  refine primOp fun _ => .ite (.plain rfl) (.ite (.plain rfl) (.ite (.plain rfl) (.ite (.plain rfl) fun s => ?_)))
  dsimp only
  split <;> simp
theorem mpop {a n} : KeepsCanon (execMpop a n) := primOp fun _ => .ite (.plain rfl) (.ite (.plain rfl) (.ite (.plain rfl) (.plain rfl)))
theorem mtrans {a b xt} : KeepsCanon (execMtrans a b xt) := primOp fun _ => .ite (.plain rfl) (.ite (.plain rfl) (.plain rfl))
/-- A command is queued, and an action carries it on (R215). -/
theorem queued {srcs : List (Nat × Src)} {f : View → List (Nat × Nat × Nat)} {g : View → Option Violation} {k : View → Cmd} :
    KeepsCanon (Machine.primOp srcs fun v => v.queued (f v) (g v) (k v)) := primOp fun _ s => State.postCmd_mem s ..

/-! ### Tinker operations -/

theorem tPlain {body : TView → TPlan} (h : ∀ v, (body v).updS = fun s => s) : KeepsCanon (Machine.tinkOp body) := tinkOp fun v => .plain (h v)
theorem tBin {lat la f a b c} : KeepsCanon (Machine.tBin lat la f a b c) := tPlain fun _ => rfl
theorem tBinImm {zx lat la f a b imm} : KeepsCanon (Machine.tBinImm zx lat la f a b imm) := tPlain fun _ => rfl
theorem tUn {f a b} : KeepsCanon (Machine.tUn f a b) := tPlain fun _ => rfl
theorem tbr {x} : KeepsCanon (execTbr x) := by cases x <;> exact tPlain fun _ => rfl
theorem gLoad {la t a} {f : TView → Nat} : KeepsCanon (Machine.tinkOp fun v => v.gLoad la t a (f v)) := by
  refine tinkOp fun v s => ?_
  unfold TView.gLoad
  dsimp only
  split
  · rfl
  · exact State.post_mem ..
theorem gStore {n a} {f : TView → Nat} : KeepsCanon (Machine.tinkOp fun v => v.gStore n a (f v)) := by
  refine tinkOp fun v s => ?_
  unfold TView.gStore
  dsimp only
  split
  · rfl
  · exact State.post_mem ..
theorem tChsend {a ch} : KeepsCanon (execTChsend a ch) := tinkOp fun _ s => State.sendMsgs_mem s ..

end KeepsCanon
end Sys2Proof.Machine
end

section
/-! Canonical memory: every instruction and every step (log entry 5). -/
namespace Sys2Proof.Machine

/-- Whatever runs keeps memory canonical. -/
theorem exec_keepsCanon (i : Instr) : KeepsCanon (exec i) := by
  unfold exec
  cases i with
  -- plans that do nothing of their own beyond their core
  | add | sel | li | bfi | cmp | pnot | sfadd | sfmul | sffma | sfcvt | sfcmp | lds | sts | stsN4 | waita | flagacq | movs | tcreate | tkill | vabs
  | vcmp | vsel | vffma | vfcmp | vcvt | vmxexp | vquant | vdeq | vxpand | vpbook | vst | vldx | vstx | vstxN4 | vbcast | vext | vins | vperm | vshuf
  | vpopm | vbtest | vbset | vcmpx | vtopk | vmovaGet | vmovaPut | vsunbind | dfrom | dto | dld | dst | dneg | ddot | ddotv | dnorm | dsetn | dlerp
  | dcmpz | choop | cdeal | carm | cstat | ccancel | sat | gbar | xchg | xmax | chrecv | chrecvTry | chgrant | chbind | chseal | chack | nop
  | br | call | flagrel | fence | trap | mclr | mdrain | ret | halt | eret | brc | loop | ttclr | ttnode | ttldp | ttpos | ttpath | ttprune | ttinfo
  | chalt | chaltTry =>
    exact .plain fun _ => rfl
  | sub | mul | mulh | mulhW | div | divW | rem | remW | and | or | xor | andn | shl | shr | sar | rot | min | minW | max | maxW | adda => exact .binX
  | vadd | vsub | vmul | vmulh | vmin | vmax => exact .vecInt
  | addi | clz | popc | bfx => exact .unS
  | vfrcp | vfrsq | vfexp2 | vflog2 => exact .vecUnary
  | pand | por | pxor => exact .binP
  | vand | vor | vxor => exact .vecBits
  | vshl | vshr | vsar => exact .vecShift
  | vfadd | vfsub | vfmul => exact .vecFlt
  | sfmin | sfmax => exact .sfMinMax
  | vfmin | vfmax => exact .vecMinMax
  | dadd | dsub => exact .dirSum
  | ttmask => exact .ttmask
  | vld => exact .vld
  | vslide => exact .vslide
  | vred => exact .vred
  | vscan => exact .vscan
  | vsbind => exact .vsbind
  | dscale => exact .dscale
  | mma => exact .mma
  | mmas => exact .mmas
  | mpop => exact .mpop
  | mtrans => exact .mtrans
  -- plans that post an action, send messages or start the context engine
  | cpy | cgath | cscat | cfill | cprom | cdemo | cfence | kvapp | kvrel | kvpin | kvunpin => exact .queued
  | movts => exact .primOp fun _ s => ctxStart_mem _ _ _ _ s
  | chsend => exact .primOp fun _ s => State.sendVector_mem s ..
  | chsendTry =>
    refine .primOp fun _ s => ?_
    dsimp only
    split <;> simp
  | catom => exact .primOp fun _ s => State.postCmd_mem s ..
  -- operations of tinker threads
  | tAdd | tSub | tMul | tMulh | tMulhW | tDiv | tDivW | tRem | tRemW | tAnd | tOr | tXor | tAndn | tShl | tShr | tSar | tRot | tMin | tMinW | tMax | tMaxW
  | tCmp => exact .tBin
  | tSubImm | tMulImm | tMulhImm | tMulhWImm | tDivImm | tDivWImm | tRemImm | tRemWImm | tAndImm | tOrImm | tXorImm | tAndnImm | tShlImm | tShrImm
  | tSarImm | tRotImm | tMinImm | tMinWImm | tMaxImm | tMaxWImm | tCmpImm => exact .tBinImm
  | tAddi | tClz | tPopc | tBfx => exact .tUn
  | tSel | tLi | tBfi | tcmpx | texit | twait | tsig | tldSp | tldSpImm | tstSp | tstSpImm | tstSpN4 | tacq | trel | tfence | tcache | spawn | join | steal
  | tCatom | tSat => exact .tPlain fun _ => rfl
  | tbr => exact .tbr
  | tld | tldImm => exact .gLoad
  | tst | tstImm => exact .gStore
  | tChsend => exact .tChsend
  -- events
  | srseedWrite => exact .srseedWrite
  | csave => exact .csave
  | cload => exact .cload
  | tinkerCacheFill => exact .tinkerCacheFill
  | tinkerWriteback => exact .tinkerWriteback
  | flagrelAdd => exact .flagrelAdd
  | hoopPush => exact .hoopPush
  | tileForwardArrival => exact .tileForwardArrival
  | transposePush => exact .transposePush
  | arrivalWordUpdate => exact .arrivalWordUpdate
  | copyCommandComplete => exact .copyCommandComplete
  | trapEntry => exact .trapEntry
  | watchdog => exact .watchdog
  | preempt => exact .preempt
  | channelMessageArrival => exact .channelMessageArrival
  | allowanceArrival => exact .allowanceArrival
  | ackArrival => exact .ackArrival
  | porterRequest => exact .porterRequest
  | translationWalk => exact .translationWalk
  | recallComplete => exact .recallComplete
  | porterRunStart => exact .porterRunStart
  | porterRunEnd => exact .porterRunEnd
  | tierMove => exact .tierMove
  | sqtail => exact .sqtail
  | cqhead => exact .cqhead
  | inlgo => exact .inlgo
  | queueEn => exact .queueEn
  | registerWrite => exact .registerWrite
  | bar2Read => exact .bar2Read
  | bar2Write => exact .bar2Write
  | functionLevelReset => exact .functionLevelReset
  | cmdLaunch => exact .cmdLaunch
  | cmdGraph => exact .cmdGraph
  | graphNodeStart => exact .graphNodeStart
  | cmdCopy => exact .cmdCopy
  | cmdSignal => exact .cmdSignal
  | cmdWait => exact .cmdWait
  | cmdPartition => exact .cmdPartition
  | cmdCheckpoint => exact .cmdCheckpoint
  | cmdFreezeClear => exact .cmdFreezeClear
  | cmdInval => exact .cmdInval
  | cmdHtset => exact .cmdHtset
  | cmdAttest => exact .cmdAttest
  | launchRetire => exact .launchRetire
  | launchResume => exact .launchResume
  | powerGood => exact .powerGood
  | powerLoss => exact .powerLoss
  | tokenAllowanceUpdate => exact .tokenAllowanceUpdate
  | thermalWarning => exact .thermalWarning
  | thermalCritical => exact .thermalCritical
  | msgFlit => exact .msgFlit
  | grantFlit => exact .grantFlit
  | ackFlit => exact .ackFlit
  | refuseFlit => exact .refuseFlit
  | stepFlit => exact .stepFlit
  | abortFlit => exact .abortFlit
  | finalFlit => exact .finalFlit
  | agreedFlit => exact .agreedFlit
  | readyFlit => exact .readyFlit
  | dataFlit => exact .dataFlit
  | gangpreFlit => exact .gangpreFlit
  | retransmissionTimeout => exact .retransmissionTimeout
  | memberUnreachable => exact .memberUnreachable
  | sliceEnd => exact .sliceEnd
  | mainClockCycle => exact .mainClockCycle
  | tinkerInstructionFetch => exact .tinkerInstructionFetch
  | contextEngineDone => exact .contextEngineDone
  | bitError => exact .bitError
  | linkFailure => exact .linkFailure

/-- An instruction runs for its agent. -/
theorem State.Canon.exec {s u : State} {i : Instr} {x : Ctx} (hs : s.Canon) (hu : exec i { s with cur := x } = .next u) : u.Canon :=
  exec_keepsCanon i { s with cur := x } u hs hu
theorem State.Canon.runItem {s u : State} {x : Item} (hs : s.Canon) (hu : runItem s x = .next u) : u.Canon := by
  cases x with
  | event i a => exact State.Canon.exec hs hu
  | slot c k issue r =>
    unfold Machine.runItem at hu
    dsimp only at hu
    split at hu
    · exact State.Canon.exec hs hu
    · cases hu
      exact hs
  | tinker c t k w e =>
    unfold Machine.runItem at hu
    dsimp only at hu
    split at hu
    · exact State.Canon.exec hs hu
    · cases hu
      exact hs
  | sys k =>
    cases hu
    exact hs.runSys
/-- The item that runs next is taken from the agenda. -/
theorem State.Canon.taken {s : State} {n : Nat} {l : List Item} (hs : s.Canon) : ({ s with tick := n, agenda := l } : State).Canon := hs

/-- Choosing what runs next leaves memory, and what runs keeps it canonical. -/
theorem step_keepsCanon {s u : State} (hs : s.Canon) (hu : step s = .next u) : u.Canon := by
  have hchosen : (if s.agenda.isEmpty then s.choose else s).Canon := .ite hs hs
  unfold step at hu
  dsimp only at hu
  split at hu
  · rw [← Host.Outcome.next.inj hu]
    exact hchosen.taken
  · exact State.Canon.runItem hchosen.taken hu

end Sys2Proof.Machine

namespace Sys2Proof.Proofs
open Sys2Proof Sys2Proof.Machine

/-- Settles O60: a step takes the next item, and every instruction, event and part of the clock cycle keeps the representation of memory canonical. -/
theorem memoryStaysCanonical : Obligations.MemoryStaysCanonical := by
  intro s u hs hu
  exact step_keepsCanon hs hu

end Sys2Proof.Proofs
end

section
/-! The freeze log (R356): what a freeze record writes, and who is frozen by it. -/
namespace Sys2Proof.Machine

/-! ### Numbers and entries put -/

theorem mem_nput_self (l : List Nat) (a : Nat) : a ∈ nput l a := by
  induction l with
  | nil => simp [nput]
  | cons k l ih =>
    unfold nput
    split
    · simp
    · split
      next h => simp [h]
      · simp [ih]
theorem mem_nput_of_mem {l : List Nat} {a b : Nat} (h : b ∈ l) : b ∈ nput l a := by
  induction l with
  | nil => cases h
  | cons k l ih =>
    unfold nput
    split
    · exact List.mem_cons_of_mem _ h
    · split
      · exact h
      · cases List.mem_cons.mp h with
        | inl hk => exact hk ▸ List.mem_cons_self ..
        | inr hl => exact List.mem_cons_of_mem _ (ih hl)
theorem mem_kput_self {α : Type} (l : List (Nat × α)) (a : Nat) (x : α) : (a, x) ∈ kput l a x := by
  induction l with
  | nil => simp [kput]
  | cons e l ih =>
    obtain ⟨k, v⟩ := e
    unfold kput
    split
    · simp
    · split
      · simp
      · simp [ih]

/-! ### An event, and a freeze record -/

theorem State.raised_raiseVec (s : State) (v : Nat) : v ∈ (s.raiseVec v).pba := mem_nput_self ..
theorem State.event_mgmt (s : State) (x : Nat) : (s.event x).mgmt = s.mgmt := by simp only [State.event, State.raiseVec, State.hostWrite]
theorem State.event_launches (s : State) (x : Nat) : (s.event x).launches = s.launches := by simp only [State.event, State.raiseVec, State.hostWrite]
theorem State.event_cores (s : State) (x : Nat) : (s.event x).cores = s.cores := by simp only [State.event, State.raiseVec, State.hostWrite]
theorem State.event_porters (s : State) (x : Nat) : (s.event x).porters = s.porters := by simp only [State.event, State.raiseVec, State.hostWrite]
theorem State.event_pba (s : State) (x : Nat) : (s.event x).pba = nput s.pba 2 := by simp only [State.event, State.raiseVec, State.hostWrite]
theorem State.event_mem (s : State) (x : Nat) : (s.event x).mem =
    s.mem.write (hostKey (s.mgmt.evqbase + 64 * (s.evqCount % (s.mgmt.evqsize + 1)))) 64 (x + 2 ^ 8 * (1 - s.evqCount / (s.mgmt.evqsize + 1) % 2)) := by
  simp only [State.event, State.raiseVec, State.hostWrite]
theorem State.raised_event {s : State} {v x : Nat} (h : v ∈ s.pba) : v ∈ (s.event x).pba := by
  rw [State.event_pba]
  exact mem_nput_of_mem h
/-- The event queue lies in the host's memory. -/
theorem State.byte_event {s : State} (hs : s.mem.wf = true) (x : Nat) {z : Nat} (hz : z < 2 ^ 47) : (s.event x).mem.byte z = s.mem.byte z := by
  rw [State.event_mem]
  exact Memory.byte_write_outside _ hs (.inl (Nat.lt_of_lt_of_le hz (Nat.le_add_right ..)))

/-- A record stands in the next slot of the freeze log, its KIND first; it is counted, and PF vector 1 raised. -/
structure Logged (s u : State) (kind : Nat) : Prop where
  mgmt : u.mgmt = { s.mgmt with fzcount := (s.mgmt.fzcount + 1) % 2 ^ 32 }
  raised : 1 ∈ u.pba
  kind : u.mem.read (s.mgmt.fzbase + 64 * (s.mgmt.fzcount % 256)) 1 = kind
  rest : ∀ z, z < s.mgmt.fzbase + 64 * (s.mgmt.fzcount % 256) ∨ s.mgmt.fzbase + 64 * (s.mgmt.fzcount % 256) + 64 ≤ z → z < 2 ^ 47 → u.mem.byte z = s.mem.byte z

/-- What a record writes of its own, before its event. -/
def State.withRecord (s : State) (x : Nat) : State :=
  ({ s with mem := s.mem.write (s.mgmt.fzbase + 64 * (s.mgmt.fzcount % 256)) 64 x, mgmt := { s.mgmt with fzcount := (s.mgmt.fzcount + 1) % 2 ^ 32 } } : State).raiseVec 1
theorem State.freezeRecord_eq (s : State) (x : Nat) : s.freezeRecord x = ((s.withRecord x).event (2 + 2 ^ 64 * ((s.mgmt.fzcount + 1) % 2 ^ 32)), s.mgmt.fzcount) := by
  simp only [State.freezeRecord, State.withRecord]
theorem State.withRecord_mem (s : State) (x : Nat) : (s.withRecord x).mem = s.mem.write (s.mgmt.fzbase + 64 * (s.mgmt.fzcount % 256)) 64 x := by
  simp only [State.withRecord, State.raiseVec]
theorem State.freezeRecord_mgmt (s : State) (x : Nat) : (s.freezeRecord x).1.mgmt = { s.mgmt with fzcount := (s.mgmt.fzcount + 1) % 2 ^ 32 } := by
  rw [State.freezeRecord_eq, State.event_mgmt]
  simp only [State.withRecord, State.raiseVec]
theorem State.freezeRecord_launches (s : State) (x : Nat) : (s.freezeRecord x).1.launches = s.launches := by
  rw [State.freezeRecord_eq, State.event_launches]
  simp only [State.withRecord, State.raiseVec]
theorem State.freezeRecord_cores (s : State) (x : Nat) : (s.freezeRecord x).1.cores = s.cores := by
  rw [State.freezeRecord_eq, State.event_cores]
  simp only [State.withRecord, State.raiseVec]
theorem State.freezeRecord_porters (s : State) (x : Nat) : (s.freezeRecord x).1.porters = s.porters := by
  rw [State.freezeRecord_eq, State.event_porters]
  simp only [State.withRecord, State.raiseVec]

theorem State.freezeRecord_logged {s : State} (hs : s.mem.wf = true) (hlog : s.mgmt.fzbase + 2 ^ 14 ≤ 2 ^ 47) (x : Nat) : Logged s (s.freezeRecord x).1 (x % 2 ^ 8) := by
  generalize hslot : s.mgmt.fzbase + 64 * (s.mgmt.fzcount % 256) = slot
  have hend : slot + 64 ≤ 2 ^ 47 := by omega
  have hwrite : (s.withRecord x).mem.wf = true := by
    rw [State.withRecord_mem]
    exact Memory.wf_write _ _ _ _ hs
  have hbyte {z : Nat} (hz : z < 2 ^ 47) : (s.freezeRecord x).1.mem.byte z = (s.mem.write slot 64 x).byte z := by
    rw [State.freezeRecord_eq, State.byte_event hwrite _ hz, State.withRecord_mem, hslot]
  refine ⟨State.freezeRecord_mgmt .., ?raised, ?kind, fun z hz hlt => ?rest⟩
  case raised =>
    rw [State.freezeRecord_eq]
    exact State.raised_event (State.raised_raiseVec ..)
  case kind =>
    have hfirst := (s.mem.write slot 64 x).read_within (a := slot) (i := 0) (k := 1) (n := 64) (by decide)
    rw [Nat.add_zero, Memory.read_write_same _ _ _ _ hs, Nat.pow_zero, Nat.div_one, Nat.mod_mod_of_dvd _ (by decide)] at hfirst
    rw [hslot, Memory.read_congr fun i hi => hbyte (by omega), hfirst]
    rfl
  case rest => exact (hbyte hlt).trans (Memory.byte_write_outside _ hs (hslot ▸ hz))

theorem Logged.of_same {s t u v : State} {kind : Nat} (h : Logged t u kind) (hm : t.mgmt = s.mgmt) (hb : ∀ z, t.mem.byte z = s.mem.byte z)
    (hm' : v.mgmt = u.mgmt) (hp : v.pba = u.pba) (hb' : v.mem = u.mem) : Logged s v kind where
  mgmt := by rw [hm', h.mgmt, hm]
  raised := hp ▸ h.raised
  kind := by rw [hb', ← hm, h.kind]
  rest z hz hlt := by rw [hb', h.rest z (hm ▸ hz) hlt, hb]

/-! ### Functions and contexts -/

theorem State.fn_updFn_self (s : State) (f : Nat) (g : Fn → Fn) : (s.updFn f g).fn f = g (s.fn f) := by simp [State.fn, State.updFn]

theorem State.freezeFn_logged {s : State} (hs : s.mem.wf = true) (hlog : s.mgmt.fzbase + 2 ^ 14 ≤ 2 ^ 47) {f : Nat} (a : Nat) (hf : (s.fn f).frozen = none) :
    Logged s (s.freezeFn f a) 6 ∧ ((s.freezeFn f a).fn f).frozen = some s.mgmt.fzcount := by
  have hopen : s.fnFrozen f = false := by rw [State.fnFrozen, hf]; rfl
  simp only [State.freezeFn, hopen, Bool.false_eq_true, if_false]
  refine ⟨?_, by rw [State.fn_updFn_self, State.freezeRecord_eq]⟩
  have hkind (n : Nat) (h : n % 2 ^ 8 = 6) : Logged s (s.freezeRecord n).1 6 := h ▸ State.freezeRecord_logged hs hlog n
  exact (hkind _ (by omega)).of_same rfl (fun _ => rfl) (State.updFn_mgmt ..) (State.updFn_pba ..) (State.updFn_mem ..)

theorem State.updCtx_mgmt (s : State) (p t : Nat) (f : PCtx → PCtx) : (s.updCtx p t f).mgmt = s.mgmt := rfl
theorem State.updCtx_pba (s : State) (p t : Nat) (f : PCtx → PCtx) : (s.updCtx p t f).pba = s.pba := rfl
theorem State.freezeCtx_logged {s : State} (hs : s.mem.wf = true) (hlog : s.mgmt.fzbase + 2 ^ 14 ≤ 2 ^ 47) {p t : Nat} (step a : Nat) {c : PCtx}
    (hc : s.ctx p t = some c) (hf : c.frozen = none) :
    Logged s (s.freezeCtx p t step a) 5 ∧ ∃ d, (s.freezeCtx p t step a).ctx p t = some d ∧ d.frozen = some s.mgmt.fzcount := by
  simp only [State.freezeCtx, hc, hf, Option.isSome_none, Bool.false_eq_true, if_false]
  have hkind (n : Nat) (h : n % 2 ^ 8 = 5) : Logged s (s.freezeRecord n).1 5 := h ▸ State.freezeRecord_logged hs hlog n
  refine ⟨(hkind _ (by omega)).of_same rfl (fun _ => rfl) (State.updCtx_mgmt ..) (State.updCtx_pba ..) (State.updCtx_mem ..), _, State.ctx_updCtx (c := c) ?_ _ fun _ => rfl,
    by rw [State.freezeRecord_eq]⟩
  exact (State.ctx_of_porters (State.freezeRecord_porters ..) p t).trans hc

/-! ### Cores -/

theorem Memory.byte_scrubUnit (m : Memory) (id : Nat) (w : BitVec 512) (i z : Nat) : (m.scrubUnit id w i).byte z = m.byte z :=
  foldl_keeps _ (fun m => Memory.byte m z) (fun _ _ => Memory.byte_scrub ..) _ m

/-- The core's own part of its freeze: its record's number is kept, and it stops. -/
theorem State.freezeCore_eq {s : State} {id : Nat} (v : Violation) (hr : (s.core id).run = .running) :
    ∃ u : State, s.freezeCore id v = u.raiseAbortOf id 4 ∧
      let r := (s.drainCore id).freezeRecord ((s.drainCore id).coreRecord id v)
      u.mgmt = r.1.mgmt ∧ u.pba = r.1.pba ∧ u.mem = r.1.mem ∧ u.launches = r.1.launches ∧ (u.core id).run = .frozen v ((r.1.core id).run == .halted) ∧ (id, r.2) ∈ u.coreFreeze := by
  unfold State.freezeCore
  rw [hr]
  simp only [Bool.false_eq_true, if_false]
  generalize (s.drainCore id).freezeRecord ((s.drainCore id).coreRecord id v) = r
  obtain ⟨u, n⟩ := r
  refine ⟨_, rfl, rfl, rfl, rfl, rfl, ?_, mem_kput_self ..⟩
  rw [State.core_updCore_self]
  rfl

section
variable {s : State} {id : Nat} (hw : (s.core id).writes = []) (ha : (s.core id).acts = [])
include hw ha

/-- R277: a core with no write and no effect on its way has only the fills of its ports to complete, which change no byte. -/
theorem State.drainCore_byte (z : Nat) : (s.drainCore id).mem.byte z = s.mem.byte z := by
  unfold State.drainCore
  dsimp only
  rw [hw, ha]
  refine foldl_keeps _ (fun m => Memory.byte m z) (fun m p => ?_) _ s.mem
  split
  · exact foldl_keeps _ (fun m => Memory.byte m z) (fun m i => m.byte_scrubUnit ..) _ m
  · rfl
theorem State.drainCore_mgmt : (s.drainCore id).mgmt = s.mgmt := by
  unfold State.drainCore
  dsimp only
  rw [hw, ha]
  rfl
theorem State.drainCore_run : ((s.drainCore id).core id).run = (s.core id).run := by
  unfold State.drainCore
  dsimp only
  rw [hw, ha, State.core_updCore_self]
  change (State.core ((s.setCore id _).updCore id fun c => { c with acts := [] }) id).run = _
  rw [State.core_updCore_self, State.core_setCore_self]

theorem State.freezeCore_logged (hs : s.mem.wf = true) (hlog : s.mgmt.fzbase + 2 ^ 14 ≤ 2 ^ 47) (v : Violation) (hr : (s.core id).run = .running)
    (hl : ∀ l, s.launchOf id = some l → l.groupSlot = none) :
    Logged s (s.freezeCore id v) (v.kind % 2 ^ 8) ∧ ((s.freezeCore id v).core id).run = .frozen v false ∧ (id, s.mgmt.fzcount) ∈ (s.freezeCore id v).coreFreeze := by
  have hmgmt := State.drainCore_mgmt hw ha
  have hlaunch := (Retains.drainCore s id).launches
  have hrun := (State.drainCore_run hw ha).trans hr
  have hbyte := State.drainCore_byte hw ha
  have hcanon : (s.drainCore id).mem.wf = true := State.Canon.drainCore hs
  obtain ⟨u, hu, hmgmt', hpba', hmem', hlaunch', hrun', hnumber⟩ := State.freezeCore_eq v hr
  have halone : u.raiseAbortOf id 4 = u := by
    have hsame : u.launchOf id = s.launchOf id := by rw [State.launchOf, State.launchOf, hlaunch', State.freezeRecord_launches, hlaunch]
    unfold State.raiseAbortOf
    rw [hsame]
    split
    next l hsome => rw [hl l hsome]
    · rfl
  rw [hu, halone]
  generalize s.drainCore id = t at *
  have hkind : t.coreRecord id v % 2 ^ 8 = v.kind % 2 ^ 8 := by
    simp only [State.coreRecord]
    omega
  have hrecord : Logged t (t.freezeRecord (t.coreRecord id v)).1 (v.kind % 2 ^ 8) := hkind ▸ State.freezeRecord_logged hcanon (hmgmt ▸ hlog) _
  refine ⟨hrecord.of_same hmgmt hbyte hmgmt' hpba' hmem', hrun'.trans ?_, ?_⟩
  · rw [State.core_of_cores (t.freezeRecord_cores _), hrun]
    rfl
  · rw [State.freezeRecord_eq, hmgmt] at hnumber
    exact hnumber

end

end Sys2Proof.Machine

namespace Sys2Proof.Proofs
open Sys2Proof Sys2Proof.Machine

/-- Settles O54: every freeze goes through one record (`State.freezeRecord_logged`), which lies below the host's memory, where the event queue is. -/
theorem freezeLog : Obligations.FreezeLog := by
  intro s hs hlog
  refine ⟨fun f a _ hf => ?_, fun p t step a c hc hf => ?_, fun id v hw ha hr hl => ?_⟩
  · obtain ⟨h, hfrozen⟩ := State.freezeFn_logged hs hlog a hf
    exact ⟨⟨h.mgmt, h.raised, h.kind, h.rest⟩, hfrozen⟩
  · obtain ⟨h, hfrozen⟩ := State.freezeCtx_logged hs hlog step a hc hf
    exact ⟨⟨h.mgmt, h.raised, h.kind, h.rest⟩, hfrozen⟩
  · obtain ⟨h, hfrozen⟩ := State.freezeCore_logged hw ha hs hlog v hr hl
    exact ⟨⟨h.mgmt, h.raised, h.kind, h.rest⟩, hfrozen⟩

end Sys2Proof.Proofs
end

section
/-! Doorbells, commands taken in, and completion records (R351 to R353, R358, R400). -/
namespace Sys2Proof.Machine

/-! ### Queues -/

theorem State.queue_updQueue (s : State) (a b : Nat) (f : Queue → Queue) : (s.updQueue a f).queue b = if a % 64 = b % 64 then f (s.queue b) else s.queue b := by
  simp only [State.queue, State.updQueue, Fin.getElem_fin, Vector.getElem_set, Fin.val_ofNat]
  split
  next h => simp only [h]
  · rfl
@[simp] theorem State.queue_updQueue_self (s : State) (q : Nat) (f : Queue → Queue) : (s.updQueue q f).queue q = f (s.queue q) := by rw [State.queue_updQueue, if_pos rfl]
theorem State.queue_of_queues {s u : State} (h : u.queues = s.queues) (q : Nat) : u.queue q = s.queue q := by rw [State.queue, State.queue, h]
theorem State.pageOpen_of {s : State} {f q : Nat} (hf : (s.fn f).frozen = none) (hq : f = 0 ∨ (s.queue q).fn = f) : s.pageOpen f q = true := by
  rcases hq with rfl | hq
  · simp [State.pageOpen, State.fnFrozen, hf]
  · simp [State.pageOpen, State.fnFrozen, hf, hq]
theorem State.pageOpen_of_frozen {s : State} {f : Nat} (q : Nat) (hf : (s.fn f).frozen ≠ none) : s.pageOpen f q = false := by
  simp [State.pageOpen, State.fnFrozen, hf]

/-! ### Completion records (R358) -/

/-- A vector of the function's own is raised, where the command asked for it. -/
theorem State.writeRecord_mem (s : State) (c : Completion) : (s.writeRecord c).mem =
    s.mem.write (hostKey ((s.queue c.q).cqbase + 32 * ((s.queue c.q).cqcount % (s.queue c.q).cqRing))) 32 (c.record (1 - (s.queue c.q).cqcount / (s.queue c.q).cqRing % 2) s.clock) := by
  simp only [State.writeRecord, State.raiseVec, State.hostWrite, State.updQueue]
  split <;> dsimp only
theorem State.writeRecord_held (s : State) (c : Completion) : (s.writeRecord c).held = s.held := by
  simp only [State.writeRecord, State.raiseVec, State.hostWrite, State.updQueue]
  split <;> dsimp only
theorem State.writeRecord_cmds (s : State) (c : Completion) : (s.writeRecord c).cmds = s.cmds := by
  simp only [State.writeRecord, State.raiseVec, State.hostWrite, State.updQueue]
  split <;> dsimp only
theorem State.writeRecord_queues (s : State) (c : Completion) :
    (s.writeRecord c).queues = (s.updQueue c.q fun q => { q with cqcount := q.cqcount + 1, cqused := q.cqused + 1 }).queues := by
  have hraise (b : Bool) (v : Nat) (t : State) : (if b then t.raiseVec v else t).queues = t.queues := by split <;> rfl
  refine (hraise _ _ _).trans ?_
  simp only [State.updQueue, State.hostWrite, State.queue]
theorem State.writeRecord_raises {s : State} {c : Completion} (hirq : c.irq = true) (hown : vecOwned (s.queue c.q).fn (s.queue c.q).vec = true) :
    (s.queue c.q).vec ∈ (s.writeRecord c).pba := by
  unfold State.writeRecord
  dsimp only
  rw [hirq, hown]
  exact State.raised_raiseVec ..

section
variable {m : Memory} (h : m.wf = true) (key : Nat) (c : Completion) (phase time : Nat)
include h

/-- Table 13.7: the identifier, the status and the phase stand in the record's bytes 0 to 3, 4, and 6. -/
theorem Memory.read_record {i k : Nat} (hk : i + k ≤ 32) :
    (m.write key 32 (c.record phase time)).read (key + i) k = c.record phase time % 256 ^ 32 / 256 ^ i % 256 ^ k := by
  rw [Memory.read_within _ hk, m.read_write_same _ _ _ h]
theorem Memory.read_record_cid (hc : c.cid < 2 ^ 32) : (m.write key 32 (c.record phase time)).read key 4 = c.cid := by
  have hread := Memory.read_record h key c phase time (i := 0) (k := 4) (by decide)
  rw [Nat.add_zero] at hread
  rw [hread, Completion.record]
  omega
theorem Memory.read_record_status (hc : c.cid < 2 ^ 32) : (m.write key 32 (c.record phase time)).read (key + 4) 1 = c.status % 2 ^ 8 := by
  rw [Memory.read_record h key c phase time (by decide), Completion.record]
  omega
theorem Memory.read_record_phase (hc : c.cid < 2 ^ 32) (hp : phase ≤ 1) : (m.write key 32 (c.record phase time)).read (key + 6) 1 = phase := by
  rw [Memory.read_record h key c phase time (by decide), Completion.record]
  omega

end

theorem State.report_writes {s : State} {c : Completion} (hroom : (s.queue c.q).cqused < (s.queue c.q).cqRing) (hf : (s.fn (s.queue c.q).fn).frozen = none)
    (hheld : s.held.all (fun h => h.q != c.q) = true) : s.report c = s.writeRecord c := by
  have hany : (s.held.any fun h => h.q == c.q) = false := by simpa using hheld
  simp [State.report, State.fnFrozen, hroom, hf, hany]
theorem State.report_holds {s : State} {c : Completion} (hfull : (s.queue c.q).cqRing ≤ (s.queue c.q).cqused) : s.report c = { s with held := s.held ++ [c] } := by
  have hno : ¬ (s.queue c.q).cqused < (s.queue c.q).cqRing := by omega
  simp [State.report, hno]
/-- What waits or is written of a completion is neither a command nor the enabling of a queue. -/
theorem State.report_cmds (s : State) (c : Completion) : (s.report c).cmds = s.cmds := by
  unfold State.report
  dsimp only
  split
  · exact s.writeRecord_cmds c
  · rfl
theorem State.report_en (s : State) (c : Completion) (q : Nat) : ((s.report c).queue q).en = (s.queue q).en := by
  have hset (f : Queue → Queue) (hf : ∀ x, (f x).en = x.en) : ((s.updQueue c.q f).queue q).en = (s.queue q).en := by
    rw [State.queue_updQueue]
    split
    · exact hf _
    · rfl
  unfold State.report
  dsimp only
  split
  · rw [State.queue_of_queues (s.writeRecord_queues c)]
    exact hset _ fun _ => rfl
  · rfl

theorem State.flushHeld_of_nil {s : State} (h : s.held = []) : s.flushHeld = s := by
  unfold State.flushHeld
  rw [h, List.foldl_nil, ← h]

/-! ### Commands end, and are taken in (R351) -/

theorem State.finishCmd_cmds (s : State) (k : HostCmd) (f : Failure) : (s.finishCmd k f).cmds = s.cmds.filter fun x => x.uid != k.uid := by
  unfold State.finishCmd
  rw [State.report_cmds]
  split <;> rfl
theorem State.finishCmd_en (s : State) (k : HostCmd) (f : Failure) (q : Nat) : ((s.finishCmd k f).queue q).en = (s.queue q).en := by
  unfold State.finishCmd
  rw [State.report_en]
  split <;> rfl

/-- The command that a body makes, as it is taken in. -/
def State.newCmd (s : State) (q f body : Nat) : HostCmd :=
  { uid := s.nextUid, q, body, started := false, off := 0, step := 0, info := 0, behind := [], by_ := f, since := s.tick }
/-- R351: a command that is well-formed, and not the PF's on a VF's queue, waits for its turn. -/
theorem State.takeCmd_known {s : State} {q f body : Nat} {i : Instr} (hop : cmdInstr (body % 256) = some i) (hres : body / 2 ^ 10 % 2 ^ 22 = 0)
    (hpf : body % 256 < 0x10 ∨ (s.queue q).fn = 0) :
    s.takeCmd q f body = ({ s with cmds := s.cmds ++ [s.newCmd q f body], nextUid := s.nextUid + 1 } : State).post i (.num s.nextUid) := by
  have hopcode : (s.newCmd q f body).opcode = body % 256 := bits_low body 7
  have hgood : ¬ (bits body 31 10 ≠ 0 ∨ (0x10 ≤ (s.newCmd q f body).opcode ∧ (s.queue q).fn ≠ 0)) := by
    rw [hopcode]
    rintro (h | ⟨hlo, hne⟩)
    · exact h hres
    · exact hpf.elim (fun h => absurd hlo (by omega)) hne
  have hinstr : cmdInstr (s.newCmd q f body).opcode = some i := by rw [hopcode, hop]
  unfold State.takeCmd
  simp only [State.newCmd] at hinstr hgood ⊢
  rw [hinstr]
  exact if_neg hgood

/-! ### EN (R351) -/

theorem State.setEn_one (s : State) (q : Nat) : s.setEn q true = s.updQueue q fun x => { x with en := true } := rfl
/-- Commands that end leave the others and the enabling of queues. -/
theorem State.finishAll_cmds (l : List HostCmd) (s : State) (f : Failure) : ∀ k ∈ (l.foldl (fun (s : State) k => s.finishCmd k f) s).cmds, k ∈ s.cmds ∧ k ∉ l := by
  induction l generalizing s with
  | nil => intro k hk; exact ⟨hk, List.not_mem_nil⟩
  | cons x l ih =>
    intro k hk
    obtain ⟨hs, hl⟩ := ih _ k hk
    rw [State.finishCmd_cmds, List.mem_filter] at hs
    refine ⟨hs.1, fun hx => ?_⟩
    cases List.mem_cons.mp hx with
    | inl h => simp [h] at hs
    | inr h => exact hl h
theorem State.finishAll_en (l : List HostCmd) (s : State) (f : Failure) (q : Nat) : ((l.foldl (fun (s : State) k => s.finishCmd k f) s).queue q).en = (s.queue q).en :=
  foldl_keeps _ (fun s => (State.queue s q).en) (fun s k => s.finishCmd_en k f q) l s

end Sys2Proof.Machine

namespace Sys2Proof.Proofs
open Sys2Proof Sys2Proof.Machine Sys2Proof.Claims

theorem completionRecords : CompletionRecords := by
  intro s c hs
  refine ⟨fun hroom hf hheld hc => ?_, fun hfull => ?_⟩
  · rw [State.report_writes hroom hf hheld]
    have hphase : 1 - (s.queue c.q).cqcount / (s.queue c.q).cqRing % 2 ≤ 1 := Nat.sub_le ..
    have hqueue := State.queue_of_queues (s.writeRecord_queues c) c.q
    rw [State.queue_updQueue_self] at hqueue
    rw [State.writeRecord_mem, hqueue]
    refine ⟨Memory.read_record_cid hs _ c _ _ hc, Memory.read_record_status hs _ c _ _ hc, Memory.read_record_phase hs _ c _ _ hc hphase,
      fun z hz => Memory.byte_write_outside _ hs hz, rfl, rfl, State.writeRecord_raises, s.writeRecord_held c⟩
  · rw [State.report_holds hfull]
    exact ⟨rfl, rfl⟩

/-- R400: what is delivered before a command's submission is in its way. -/
theorem earlierWrites : EarlierWrites := by
  intro s k a ha hd hf hsince
  have hbefore : s.writesBefore k = true := List.any_eq_true.mpr ⟨a, ha, by simp [hd, hf, hsince]⟩
  simp [State.chosen, State.turn, hbefore]

section
variable {s : State} {q f v : Nat} (hat : At s (.queue q f v)) (hq : q < 64) (hf : f < 17)
include hat hq hf

theorem execSqtail_eq : exec .sqtail s =
    if s.ready && s.pageOpen f q && (s.queue q).en then
      .next (s.fetchRing q f ((v % 2 ^ 16 + (s.queue q).sqRing - (s.queue q).sqhead % (s.queue q).sqRing) % (s.queue q).sqRing)) else .next s := by
  have hcur : s.cur = .event (.queue q f v) := hat
  rw [exec_sqtail, execSqtail, hcur]
  exact if_neg (by omega)
theorem execInlgo_eq : exec .inlgo s =
    if s.ready && s.pageOpen f q && (s.queue q).en && v % 2 == 1 then .next (s.takeCmd q f (s.queue q).inline) else .next s := by
  have hcur : s.cur = .event (.queue q f v) := hat
  rw [exec_inlgo, execInlgo, hcur]
  exact if_neg (by omega)
theorem execCqhead_eq : exec .cqhead s = if s.ready && s.pageOpen f q then
    .next (s.updQueue q fun x => { x with cqused := x.cqused - (v % 2 ^ 16 % (s.queue q).cqRing + (s.queue q).cqRing - ((s.queue q).cqcount - (s.queue q).cqused) % (s.queue q).cqRing)
      % (s.queue q).cqRing }).flushHeld else .next s := by
  have hcur : s.cur = .event (.queue q f v) := hat
  rw [exec_cqhead, execCqhead, hcur]
  exact if_neg (by omega)
theorem execQueueEn_eq : exec .queueEn s = if s.power && s.pageOpen f q then .next (s.setEn q (v % 2 == 1)) else .next s := by
  have hcur : s.cur = .event (.queue q f v) := hat
  rw [exec_queueEn, execQueueEn, hcur]
  exact if_neg (by omega)

end

theorem doorbells : Doorbells := by
  intro s q f v hat hq hf
  refine ⟨fun hr ho hen htail i hknown => ?tail, fun hdis => ⟨?tailOff, ?goOff⟩, fun hr hfrozen => ?frozen, fun hr ho hen hv i hknown => ?go, fun hr ho hheld => ?head,
    fun hp ho hv => ?on, fun hp ho hv => ?off⟩
  case tail =>
    obtain ⟨hop, hres, hpf⟩ := hknown
    refine ⟨_, (execSqtail_eq hat hq hf).trans (if_pos (by simp [hr, hen, State.pageOpen_of ho.1 ho.2])), ?_⟩
    have hone : (v % 2 ^ 16 + (s.queue q).sqRing - (s.queue q).sqhead % (s.queue q).sqRing) % (s.queue q).sqRing = 1 := htail
    have htake := State.takeCmd_known (s := s) (q := q) (f := f) hop hres hpf
    rw [hone]
    refine ⟨s.newCmd q f (s.mem.read (hostKey ((s.queue q).sqbase + 128 * ((s.queue q).sqhead % (s.queue q).sqRing))) 128), ?_, rfl, rfl, rfl, rfl, rfl, rfl, ?_, ?_⟩
    all_goals
      simp only [State.fetchRing]
      rw [show s.takeCmd q f (s.mem.read (hostKey ((s.queue q).sqbase + 128 * ((s.queue q).sqhead % (s.queue q).sqRing))) 128) = _ from htake]
    · rw [State.updQueue_cmds, State.post_cmds]
      rfl
    · rw [State.updQueue_pending]
      exact State.mem_pending_post ..
    · rw [State.queue_updQueue_self, State.queue_of_queues (State.post_queues ..)]
      rfl
  case tailOff =>
    rw [execSqtail_eq hat hq hf]
    exact if_neg (by simp [show (s.queue q).en = false from hdis])
  case goOff =>
    rw [execInlgo_eq hat hq hf]
    exact if_neg (by simp [show (s.queue q).en = false from hdis])
  case frozen =>
    rw [execCqhead_eq hat hq hf]
    exact if_neg (by simp [State.pageOpen_of_frozen q hfrozen])
  case go =>
    obtain ⟨hop, hres, hpf⟩ := hknown
    refine ⟨_, (execInlgo_eq hat hq hf).trans (if_pos (by simp [hr, hv, hen, State.pageOpen_of ho.1 ho.2])), ?_⟩
    rw [State.takeCmd_known hop hres hpf]
    refine ⟨s.newCmd q f (s.queue q).inline, ?_, rfl, rfl, rfl, rfl, State.mem_pending_post .., ?_⟩
    · rw [State.post_cmds]
    · rw [State.post_queues]
  case head =>
    refine ⟨_, (execCqhead_eq hat hq hf).trans (if_pos (by simp [hr, State.pageOpen_of ho.1 ho.2])), ?_⟩
    rw [State.flushHeld_of_nil (by rw [State.updQueue_held, hheld])]
    exact ⟨rfl, State.queue_updQueue_self ..⟩
  case on =>
    refine ⟨_, (execQueueEn_eq hat hq hf).trans (if_pos (by simp [hp, State.pageOpen_of ho.1 ho.2])), ?_⟩
    rw [hv, show s.setEn q (1 == 1) = _ from s.setEn_one q]
    exact ⟨State.queue_updQueue_self .., rfl, rfl⟩
  case off =>
    refine ⟨_, (execQueueEn_eq hat hq hf).trans (if_pos (by simp [hp, State.pageOpen_of ho.1 ho.2])), ?_⟩
    rw [hv]
    have hsetEn : s.setEn q (0 == 1) = ((s.updQueue q fun x => { x with en := false }).cmds.filter fun k => k.q == q && !k.started).foldl
      (fun (s : State) k => s.finishCmd k (Failure.of 6)) (s.updQueue q fun x => { x with en := false }) := rfl
    rw [hsetEn]
    refine ⟨?_, fun k hk hkq => ?_⟩
    · rw [State.finishAll_en, State.queue_updQueue_self]
    · obtain ⟨hmem, hnot⟩ := State.finishAll_cmds _ _ _ k hk
      by_contra hstarted
      exact hnot (List.mem_filter.mpr ⟨hmem, by simp [hkq, hstarted]⟩)

/-- Settles O44: each doorbell's step by cases of its gate, and a record's bytes as the digits of the number written. -/
theorem queuesAndCompletions : Obligations.QueuesAndCompletions := ⟨doorbells, earlierWrites, completionRecords⟩

end Sys2Proof.Proofs
end

section
/-! Register writes and reads, BAR 2, and function resets (R349 to R355, R389, R412). -/
namespace Sys2Proof.Machine

/-! ### Register writes (R350, R351) -/

/-- The PF's BAR 0 shows every queue's page. -/
theorem State.pageQueue_pf (s : State) {q k : Nat} (hq : q < 64) (hk : k < 4096) : s.pageQueue 0 (0x10_0000 + 4096 * q + k) = some q := by
  rw [State.pageQueue, if_pos rfl, if_pos (by omega)]
  congr 1
  omega
theorem State.pageQueue_pf_none (s : State) {off : Nat} (h : off < 0x10_0000) : s.pageQueue 0 off = none := by
  rw [State.pageQueue, if_pos rfl, if_neg (by omega)]

section
variable {s : State} (hp : s.power = true) {f : Nat} (hf : (s.fn f).frozen = none)
include hp hf

theorem State.registerWrite_page {off q v : Nat} (h8 : off % 8 = 0) (hq : s.pageQueue f off = some q) : s.registerWrite f off v = s.pageWrite f q off v := by
  simp [State.registerWrite, State.fnFrozen, hp, hf, h8, hq]
theorem State.registerRead_page {off q : Nat} (h8 : off % 8 = 0) (hq : s.pageQueue f off = some q) : s.registerRead f off = some ((s.queue q).read (off % 4096)) := by
  simp [State.registerRead, State.fnFrozen, hp, hf, h8, hq]

end

section
variable {s : State} (hp : s.power = true) (hf : (s.fn 0).frozen = none)
include hp hf

theorem State.registerWrite_pf {q k v : Nat} (hq : q < 64) (hk : k < 4096) (h8 : k % 8 = 0) : s.registerWrite 0 (0x10_0000 + 4096 * q + k) v = s.pageWrite 0 q (0x10_0000 + 4096 * q + k) v :=
  State.registerWrite_page hp hf (by omega) (s.pageQueue_pf hq hk)
theorem State.registerRead_pf {q k : Nat} (hq : q < 64) (hk : k < 4096) (h8 : k % 8 = 0) : s.registerRead 0 (0x10_0000 + 4096 * q + k) = some ((s.queue q).read k) := by
  rw [State.registerRead_page hp hf (by omega) (s.pageQueue_pf hq hk), show (0x10_0000 + 4096 * q + k) % 4096 = k by omega]
theorem State.registerWrite_mgmt {k v : Nat} (hk : k < 0x1000) (h8 : k % 8 = 0) : s.registerWrite 0 (0x1000 + k) v = s.mgmtWrite k v := by
  have hno : s.pageQueue 0 (0x1000 + k) = none := s.pageQueue_pf_none (by omega)
  have h8' : (0x1000 + k) % 8 = 0 := by omega
  have hin : 0x1000 + k < 0x2000 := by omega
  simp [State.registerWrite, State.fnFrozen, hp, hf, h8', hno, hin]
theorem State.registerRead_status {k : Nat} (hk : k < 0x1000) (h8 : k % 8 = 0) : s.registerRead 0 k = some (s.statusRead k) := by
  have hno : s.pageQueue 0 k = none := s.pageQueue_pf_none (by omega)
  simp [State.registerRead, State.fnFrozen, hp, hf, h8, hno, hk]
theorem State.registerRead_mgmt {k : Nat} (hk : k < 0x1000) (h8 : k % 8 = 0) : s.registerRead 0 (0x1000 + k) = some (s.mgmtRead k) := by
  have hno : s.pageQueue 0 (0x1000 + k) = none := s.pageQueue_pf_none (by omega)
  have h8' : (0x1000 + k) % 8 = 0 := by omega
  have hin : 0x1000 + k < 0x2000 := by omega
  have hout : ¬ 0x1000 + k < 0x1000 := by omega
  simp [State.registerRead, State.fnFrozen, hp, hf, h8', hno, hin, hout]

end

theorem State.registerRead_frozen {s : State} {f : Nat} (off : Nat) (hf : (s.fn f).frozen ≠ none) : s.registerRead f off = none := by
  simp [State.registerRead, State.fnFrozen, hf]

/-- R351: a page's registers at their offsets. -/
theorem State.pageWrite_base (s : State) (q v : Nat) : s.pageWrite 0 q (0x10_0000 + 4096 * q + 0) v = s.updQueue q fun x => { x with sqbase := v } := by
  have ho : (0x10_0000 + 4096 * q + 0) % 4096 = 0 := by omega
  simp only [State.pageWrite, ho, ne_eq, not_true_eq_false, false_and, if_false, if_true]
theorem State.pageWrite_size (s : State) (q v : Nat) : s.pageWrite 0 q (0x10_0000 + 4096 * q + 8) v =
    { s.updQueue q (fun x => setQueue0 x v) with agenda := .event .queueEn (.queue q 0 (bits v 11 11)) :: s.agenda } := by
  have ho : (0x10_0000 + 4096 * q + 8) % 4096 = 8 := by omega
  simp only [State.pageWrite, ho, ne_eq, not_true_eq_false, false_and, if_false, if_true, show (8 : Nat) ≠ 0 by decide]
  rfl
theorem State.pageWrite_tail (s : State) (q v : Nat) : s.pageWrite 0 q (0x10_0000 + 4096 * q + 0x40) v = { s with agenda := .event .sqtail (.queue q 0 v) :: s.agenda } := by
  have ho : (0x10_0000 + 4096 * q + 0x40) % 4096 = 0x40 := by omega
  simp only [State.pageWrite, ho, ne_eq, not_true_eq_false, false_and, if_false, if_true, show (0x40 : Nat) ≠ 0 by decide, show (0x40 : Nat) ≠ 8 by decide,
    show (0x40 : Nat) ≠ 0x10 by decide, show (0x40 : Nat) ≠ 0x18 by decide, show (0x40 : Nat) ≠ 0x20 by decide]

theorem setQueue0_fields (q : Queue) (v : Nat) : setQueue0 q (v % 2 ^ 64) =
    { q with sqsize := v % 16, prio := v / 2 ^ 4 % 4, fn := if v / 2 ^ 6 % 32 ≤ 16 then v / 2 ^ 6 % 32 else q.fn } := by
  have hsize : bits (v % 2 ^ 64) 3 0 = v % 16 := by simp only [bits]; omega
  have hprio : bits (v % 2 ^ 64) 5 4 = v / 2 ^ 4 % 4 := by simp only [bits]; omega
  have hfn : bits (v % 2 ^ 64) 10 6 = v / 2 ^ 6 % 32 := by simp only [bits]; omega
  rw [setQueue0, hsize, hprio, hfn]

theorem State.freezeFn_frozen (s : State) (f a : Nat) : ((s.freezeFn f a).fn f).frozen ≠ none := by
  unfold State.freezeFn
  split
  next h => simpa [State.fnFrozen, Option.isSome_iff_ne_none] using h
  · rw [State.fn_updFn_self]
    exact Option.some_ne_none _
theorem State.event_queues (s : State) (x : Nat) : (s.event x).queues = s.queues := by simp only [State.event, State.raiseVec, State.hostWrite]
theorem State.freezeRecord_queues (s : State) (x : Nat) : (s.freezeRecord x).1.queues = s.queues := by
  rw [State.freezeRecord_eq, State.event_queues]
  simp only [State.withRecord, State.raiseVec]
theorem State.freezeFn_queues (s : State) (f a : Nat) : (s.freezeFn f a).queues = s.queues := by
  unfold State.freezeFn
  split
  · rfl
  · dsimp only
    rw [State.updFn_queues, State.freezeRecord_queues]

/-! ### BAR 2 (R354) -/

/-- A byte that software may write takes its value. -/
theorem Memory.byte_setAll_shut_bytes (m : Memory) (a : Nat) (bs : List Byte) (h : m.wf = true) (j : Nat) (hj : j < bs.length) (hro : roByte (a + j) = false) :
    (m.setAll ((putBytes a bs).map shutByte)).byte (a + j) = bs[j] := by
  induction bs generalizing m a j with
  | nil => cases hj
  | cons b bs ih =>
    rw [putBytes, List.map_cons, Memory.setAll]
    cases j with
    | zero =>
      have hopen : shutByte (a, b, 0xFF) = (a, b, 0xFF) := if_neg (by simpa using hro)
      have hones : b &&& 255#8 = b := BitVec.and_allOnes
      rw [hopen, Memory.byte_setAll_other _ _ _ (m.wf_setBits _ _ _ h), Nat.add_zero, Memory.byte_setBits_self _ _ _ _ h]
      · simp [hones]
      · simp only [List.mem_map, forall_exists_index, and_imp, forall_apply_eq_imp_iff₂]
        intro p hp
        have := mem_putBytes hp
        have hkey : (shutByte p).1 = p.1 := by unfold shutByte; split <;> rfl
        omega
    | succ j =>
      rw [show a + (j + 1) = a + 1 + j by omega] at hro ⊢
      exact ih _ (a + 1) (m.wf_setBits _ _ _ h) j (by simpa using hj) hro
theorem Memory.byte_putDev_bytes (m : Memory) (a : Nat) (bs : List Byte) (h : m.wf = true) (j : Nat) (hj : j < bs.length) :
    (m.putDev (putBytes a bs)).byte (a + j) = if roByte (a + j) then m.byte (a + j) else bs[j] := by
  split
  next hro => exact Memory.byte_putDev_shut _ _ _ h hro
  next hro => exact Memory.byte_setAll_shut_bytes m a bs h j hj (by simpa using hro)

/-- What goes on after an access changes nothing of memory or of what the host has been answered. -/
theorem State.bar2Over_mem (s : State) (a : HostAccess) : (s.bar2Over a).mem = s.mem := by
  suffices h : ∀ t : State, (match t.bar2.find? fun (x : HostAccess) => x.fn == a.fn with | some b => t.postEv b.ev | none => t).mem = t.mem from h _
  intro t
  split
  · exact t.postEv_mem _
  · rfl

theorem State.bar2Over_hostReads (s : State) (a : HostAccess) : (s.bar2Over a).hostReads = s.hostReads := by
  suffices h : ∀ t : State, (match t.bar2.find? fun (x : HostAccess) => x.fn == a.fn with | some b => t.postEv b.ev | none => t).hostReads = t.hostReads from h _
  intro t
  split
  · exact State.post_hostReads ..
  · rfl
theorem State.bar2Over_outerr (s : State) (a : HostAccess) : (s.bar2Over a).outerr = s.outerr := by
  suffices h : ∀ t : State, (match t.bar2.find? fun (x : HostAccess) => x.fn == a.fn with | some b => t.postEv b.ev | none => t).outerr = t.outerr from h _
  intro t
  split
  · exact State.post_outerr ..
  · rfl
theorem State.bar2Over_pba (s : State) (a : HostAccess) : (s.bar2Over a).pba = s.pba := by
  suffices h : ∀ t : State, (match t.bar2.find? fun (x : HostAccess) => x.fn == a.fn with | some b => t.postEv b.ev | none => t).pba = t.pba from h _
  intro t
  split
  · exact State.post_pba ..
  · rfl

theorem State.answerRead_read (s : State) {a : HostAccess} (x : Option (List Byte)) (bad : Bool) (h : a.data = none) :
    s.answerRead a x bad = { s with hostReads := s.hostReads ++ [⟨a.fn, a.off, x, bad⟩] } := by simp [State.answerRead, h]
theorem State.answerRead_write (s : State) {a : HostAccess} (x : Option (List Byte)) (bad : Bool) (h : a.data.isSome = true) : s.answerRead a x bad = s := by
  simp [State.answerRead, h]

section
variable {s : State} {a : HostAccess}

/-- R354, R378: what is not served is answered at once, a write discarded. -/
theorem State.bar2Take_refused (h : s.ready = false ∨ (s.fn a.fn).frozen ≠ none ∨ (s.fn a.fn).barSize < a.off + a.n) : s.bar2Take a = s.answerRead a none false := by
  rw [State.bar2Take, if_pos]
  simpa [State.fnFrozen, Option.isSome_iff_ne_none] using h

variable (h : ¬ (s.ready = false ∨ (s.fn a.fn).frozen ≠ none ∨ (s.fn a.fn).barSize < a.off + a.n))
include h

theorem State.bar2Take_served : s.bar2Take a =
    if s.bar2.any fun x => x.fn == a.fn then { s with bar2 := s.bar2 ++ [a] } else ({ s with bar2 := s.bar2 ++ [a] } : State).bar2Run a.fn a.ev := by
  rw [State.bar2Take, if_neg]
  simpa [State.fnFrozen, Option.isSome_iff_ne_none] using h

end

theorem State.bar2At_granted {s s' : State} {a : HostAccess} {pa : Nat} {l : TLeaf}
    (hg : Claims.Granted s s' { ev := a.ev, station := 0, space := (s.fn a.fn).space, tenant := (s.fn a.fn).tenant, ctag := 0, who := 0 }
      ((s.fn a.fn).win * 2 ^ 30 + a.off) (if a.data.isSome then 1 else 0) a.n pa l) : s.bar2At a = (s', .ok (pa, l)) := by
  obtain ⟨htrans, hreach⟩ := hg
  have hok {α β : Type} {x : State × Reply α} {t : State} {v : α} {g : State → α → State × Reply β} (hx : x = (t, .ok v)) : andThen x g = g t v := by rw [hx]; rfl
  unfold State.bar2At
  refine (hok htrans).trans ?_
  exact hok hreach
theorem State.bar2Run_granted {s s' : State} {f : Nat} {a : HostAccess} {p : Nat × TLeaf} (hfirst : s.bar2.find? (fun x => x.fn == f) = some a)
    (hready : s.ready = true) (hf : s.fnFrozen f = false) (hat : s.bar2At a = (s', .ok p)) : s.bar2Run f a.ev = (s'.bar2Do a p).bar2Over a := by
  unfold State.bar2Run
  split
  next hnone => exact absurd (hnone.symm.trans hfirst) nofun
  next b hb =>
    obtain rfl : b = a := Option.some.inj (hb.symm.trans hfirst)
    generalize s.bar2At b = x at hat
    subst hat
    have hgo : ¬ (¬ s.ready = true ∨ s.fnFrozen f = true) := by simp [hready, hf]
    rw [if_neg (not_not.mpr rfl), if_neg hgo]

section
variable {s : State} {a : HostAccess} (h : ¬ (s.ready = false ∨ (s.fn a.fn).frozen ≠ none ∨ (s.fn a.fn).barSize < a.off + a.n))
include h

/-- The only access of its function, granted, is performed. -/
theorem State.bar2Take_granted {s' : State} {pa : Nat} {l : TLeaf} (hany : s.bar2.any (fun x => x.fn == a.fn) = false)
    (hg : Claims.Granted { s with bar2 := s.bar2 ++ [a] } s' { ev := a.ev, station := 0, space := (s.fn a.fn).space, tenant := (s.fn a.fn).tenant, ctag := 0, who := 0 }
      ((s.fn a.fn).win * 2 ^ 30 + a.off) (if a.data.isSome then 1 else 0) a.n pa l) : s.bar2Take a = (s'.bar2Do a (pa, l)).bar2Over a := by
  have hfirst : (s.bar2 ++ [a]).find? (fun x => x.fn == a.fn) = some a := by
    rw [List.find?_append, List.find?_eq_none.mpr (by simpa using hany)]
    simp
  obtain ⟨hready, hfrozen⟩ : s.ready = true ∧ s.fnFrozen a.fn = false := by
    simp only [not_or, Bool.not_eq_false, ne_eq, not_not] at h
    simp [State.fnFrozen, h.1, h.2.1]
  rw [State.bar2Take_served h, hany]
  exact State.bar2Run_granted hfirst hready hfrozen (State.bar2At_granted hg)

end

/-- R354: a granted write puts its bytes where software may write. -/
theorem State.bar2Do_write {s : State} {a : HostAccess} {b : List Byte} (p : Nat × TLeaf) (hd : a.data = some b) : (s.bar2Do a p).mem = s.mem.putDev (putBytes p.1 b) := by
  rw [State.bar2Do, hd]
  exact State.noteWrite_mem ..
/-- R349, R354: a granted read of a page of plain data answers its bytes. -/
theorem State.bar2Do_read {s : State} {a : HostAccess} {pa : Nat} {l : TLeaf} (hd : a.data = none) (hl : l.state = 0) :
    s.bar2Do a (pa, l) = (((s.mem.failing l pa a.n).foldl State.poisoned { s with mem := s.mem.scrubRead l pa a.n }).answerRead a (some (s.mem.bytes pa a.n))
      (!(s.mem.failing l pa a.n).isEmpty)) := by
  rw [State.bar2Do, hd]
  simp only [Memory.devRead_plain _ _ _ _ hl]

/-! ### Function resets (R373) -/

theorem State.setEn_of_none {s : State} (q : Nat) (h : s.cmds = []) : s.setEn q false = s.updQueue q fun x => { x with en := false } := by
  unfold State.setEn
  simp only [Bool.false_eq_true, if_false, State.updQueue_cmds, h, List.filter_nil, List.foldl_nil]

/-- A function's queues are disabled one after another; with no command to cancel, nothing else changes. -/
theorem State.disableQueues (f : Nat) (l : List Nat) {s : State} (h : s.cmds = []) (hl : ∀ q ∈ l, q < 64) :
    let u := l.foldl (fun (s : State) q => if (s.queue q).fn = f then s.setEn q false else s) s
    u.mem = s.mem ∧ u.launches = s.launches ∧ ∀ q, q < 64 → u.queue q = if q ∈ l ∧ (s.queue q).fn = f then { s.queue q with en := false } else s.queue q := by
  induction l generalizing s with
  | nil => exact ⟨rfl, rfl, fun q _ => by simp⟩
  | cons x l ih =>
    have hx : x < 64 := hl x List.mem_cons_self
    obtain ⟨t, ht, htmem, htlaunch, htcmds, htqueue⟩ : ∃ t : State, (if (s.queue x).fn = f then s.setEn x false else s) = t ∧ t.mem = s.mem ∧ t.launches = s.launches ∧ t.cmds = [] ∧
        ∀ q, q < 64 → t.queue q = if q = x ∧ (s.queue q).fn = f then { s.queue q with en := false } else s.queue q := by
      refine ⟨_, rfl, ?_⟩
      split
      next hfn =>
        rw [State.setEn_of_none x h]
        refine ⟨rfl, rfl, h, fun q hq => ?_⟩
        rw [State.queue_updQueue]
        by_cases hqx : q = x
        · subst hqx
          simp [hfn]
        · rw [if_neg (by omega), if_neg (by simp [hqx])]
      next hfn =>
        refine ⟨rfl, rfl, h, fun q _ => (if_neg ?_).symm⟩
        rintro ⟨rfl, hc⟩
        exact hfn hc
    obtain ⟨hmem, hlaunch, hqueue⟩ := ih htcmds fun q hq => hl q (List.mem_cons_of_mem _ hq)
    simp only [List.foldl_cons, ht]
    refine ⟨hmem.trans htmem, hlaunch.trans htlaunch, fun q hq => ?_⟩
    have hfn : (t.queue q).fn = (s.queue q).fn := by
      rw [htqueue q hq]
      split <;> rfl
    rw [hqueue q hq, hfn, htqueue q hq]
    by_cases hmine : (s.queue q).fn = f
    · by_cases hql : q ∈ l
      · have hboth : q ∈ x :: l := List.mem_cons_of_mem _ hql
        by_cases hqx : q = x
        · rw [if_pos ⟨hql, hmine⟩, if_pos ⟨hqx, hmine⟩, if_pos ⟨hboth, hmine⟩]
        · rw [if_pos ⟨hql, hmine⟩, if_neg (fun hc => hqx hc.1), if_pos ⟨hboth, hmine⟩]
      · simp [hmine, hql]
    · simp [hmine]

/-- A launch is to retire as failed. -/
def State.Failing (s : State) (id : Nat) : Prop := ∃ k ∈ s.launches, k.id = id ∧ k.phase = .retiring ∧ k.failure.isSome
/-- A launch as it is then. -/
def Launch.failed (l : Launch) : Launch := { l with failure := some (l.failure.getD (Failure.of 4)), phase := if l.phase = .saved then .saved else .retiring }
theorem State.failLaunch_launches (s : State) (l : Launch) : (s.failLaunch l).launches =
    s.launches.map fun k => if k.id = l.id then l.failed else k :=
  State.post_launches ..
theorem State.failing_failLaunch {s : State} {l : Launch} (hin : ∃ k ∈ s.launches, k.id = l.id) (hp : l.phase ≠ .saved) : (s.failLaunch l).Failing l.id := by
  obtain ⟨k, hk, hid⟩ := hin
  refine ⟨l.failed, ?_, rfl, if_neg hp, rfl⟩
  rw [State.failLaunch_launches]
  exact List.mem_map.mpr ⟨k, hk, if_pos hid⟩
theorem State.failing_failLaunch_other {s : State} {l : Launch} {id : Nat} (hne : id ≠ l.id) (h : s.Failing id) : (s.failLaunch l).Failing id := by
  obtain ⟨k, hk, hid, hrest⟩ := h
  refine ⟨k, ?_, hid, hrest⟩
  rw [State.failLaunch_launches]
  exact List.mem_map.mpr ⟨k, hk, if_neg (hid ▸ hne)⟩
theorem State.id_mem_failLaunch {s : State} {l : Launch} {id : Nat} (h : ∃ k ∈ s.launches, k.id = id) : ∃ k ∈ (s.failLaunch l).launches, k.id = id := by
  obtain ⟨k, hk, hid⟩ := h
  rw [State.failLaunch_launches]
  refine ⟨_, List.mem_map.mpr ⟨k, hk, rfl⟩, ?_⟩
  split
  next he => exact he.symm.trans hid
  · exact hid
/-- R373: of launches with different numbers, each one that is not saved is to retire as failed. -/
theorem State.failing_failLaunches (l : List Launch) {s : State} (hnd : (l.map (·.id)).Nodup) (hin : ∀ x ∈ l, ∃ k ∈ s.launches, k.id = x.id) :
    ∀ x ∈ l, x.phase ≠ .saved → (l.foldl State.failLaunch s).Failing x.id := by
  induction l generalizing s with
  | nil => intro x hx; cases hx
  | cons y l ih =>
    obtain ⟨hy, hl⟩ := List.nodup_cons.mp hnd
    have hkeeps : ∀ (l : List Launch) (s : State) id, id ∉ l.map (·.id) → s.Failing id → (l.foldl State.failLaunch s).Failing id := by
      intro l
      induction l with
      | nil => exact fun _ _ _ h => h
      | cons z l ihz =>
        intro s id hid h
        obtain ⟨hne, hrest⟩ := List.ne_and_not_mem_of_not_mem_cons hid
        exact ihz _ id hrest (State.failing_failLaunch_other hne h)
    intro x hx hp
    cases List.mem_cons.mp hx with
    | inl he =>
      subst he
      exact hkeeps l _ _ hy (State.failing_failLaunch (hin x List.mem_cons_self) hp)
    | inr hxl => exact ih hl (fun z hz => State.id_mem_failLaunch (hin z (List.mem_cons_of_mem _ hz))) x hxl hp

end Sys2Proof.Machine
end

section
/-! Registers and windows, settled (R349 to R355, R389, R373). -/
namespace Sys2Proof.Proofs
open Sys2Proof Sys2Proof.Machine Sys2Proof.Claims

theorem execRegisterWrite_at {s : State} {f off v : Nat} (hat : At s (.reg f off v)) (hf : f < 17) : exec .registerWrite s = .next (s.registerWrite f off (v % 2 ^ 64)) := by
  have hcur : s.cur = .event (.reg f off v) := hat
  rw [exec_registerWrite, execRegisterWrite, hcur]
  exact if_neg (by omega)

/-! ### Register writes of the PF -/

section
variable {s : State} {v : Nat} (hp : s.power = true) (hf : (s.fn 0).frozen = none)
include hp hf

theorem writeQueueBase {q : Nat} (hq : q < 64) (hat : At s (.reg 0 (0x10_0000 + 4096 * q) v)) :
    leadsTo .registerWrite s fun u => u.queue q = { s.queue q with sqbase := v % 2 ^ 64 } := by
  refine ⟨_, execRegisterWrite_at hat (by decide), ?_⟩
  rw [← Nat.add_zero (0x10_0000 + 4096 * q), State.registerWrite_pf hp hf hq (by decide) (by decide), State.pageWrite_base]
  exact State.queue_updQueue_self ..
theorem writeQueueSize {q : Nat} (hq : q < 64) (hat : At s (.reg 0 (0x10_0000 + 4096 * q + 8) v)) :
    leadsTo .registerWrite s fun u => (let fn := v / 2 ^ 6 % 32
      let x := { s.queue q with sqsize := v % 16, prio := v / 2 ^ 4 % 4 }
      (fn ≤ 16 → u.queue q = { x with fn }) ∧ (16 < fn → u.queue q = x)) ∧ u.agenda = .event .queueEn (.queue q 0 (v / 2 ^ 11 % 2)) :: s.agenda := by
  refine ⟨_, execRegisterWrite_at hat (by decide), ?_⟩
  have hen : bits (v % 2 ^ 64) 11 11 = v / 2 ^ 11 % 2 := by simp only [bits]; omega
  have hqueue (l : List Item) : ({ s.updQueue q (fun x => setQueue0 x (v % 2 ^ 64)) with agenda := l } : State).queue q = setQueue0 (s.queue q) (v % 2 ^ 64) :=
    s.queue_updQueue_self q fun x => setQueue0 x (v % 2 ^ 64)
  rw [State.registerWrite_pf hp hf hq (by decide) (by decide), State.pageWrite_size, hen]
  refine ⟨⟨fun hfn => (hqueue _).trans ?_, fun hfn => (hqueue _).trans ?_⟩, rfl⟩
  · rw [setQueue0_fields, if_pos hfn]
  · rw [setQueue0_fields, if_neg (by omega)]
theorem writeQueueTail {q : Nat} (hq : q < 64) (hat : At s (.reg 0 (0x10_0000 + 4096 * q + 0x40) v)) :
    leadsTo .registerWrite s fun u => u.agenda = .event .sqtail (.queue q 0 (v % 2 ^ 64)) :: s.agenda ∧ u.queues = s.queues := by
  refine ⟨_, execRegisterWrite_at hat (by decide), ?_⟩
  rw [State.registerWrite_pf hp hf hq (by decide) (by decide), State.pageWrite_tail]
  exact ⟨rfl, rfl⟩
/-- R350: the table bases stand while a launch is placed. -/
theorem writeTableBase (hat : At s (.reg 0 0x1000 v)) :
    (s.launches = [] → leadsTo .registerWrite s fun u => u.mgmt = { s.mgmt with sptbase := v % 2 ^ 48 }) ∧ (s.launches ≠ [] → leadsTo .registerWrite s fun u => u = s) := by
  have hbase : v % 2 ^ 64 % 2 ^ 48 = v % 2 ^ 48 := by omega
  have hwrite : s.registerWrite 0 0x1000 (v % 2 ^ 64) = if s.launches.isEmpty then { s with mgmt := { s.mgmt with sptbase := v % 2 ^ 64 % 2 ^ 48 } } else s :=
    State.registerWrite_mgmt hp hf (k := 0) (by decide) (by decide)
  refine ⟨fun h => ⟨_, execRegisterWrite_at hat (by decide), ?_⟩, fun h => ⟨_, execRegisterWrite_at hat (by decide), ?_⟩⟩
  · rw [hwrite, h, hbase]
    rfl
  · rw [hwrite, if_neg (by simpa using h)]

theorem readRegisters {q : Nat} (hq : q < 64) :
    let x := s.queue q
    let o := 0x10_0000 + 4096 * q
    s.registerRead 0 0 = some 0x0000_2600_0000_4E59 ∧ s.registerRead 0 0x018 = some s.outerr ∧ s.registerRead 0 0x1028 = some s.mgmt.fzcount ∧ s.registerRead 0 o = some x.sqbase ∧ s.registerRead 0 (o + 0x048) = some x.sqhead ∧
      s.registerRead 0 (o + 0x040) = some 0 ∧ s.registerRead 0 (o + 0x010) = some (x.qspace + 2 ^ 16 * x.qtenant) ∧ ∀ f, (s.fn f).frozen ≠ none → s.registerRead f o = none :=
  ⟨State.registerRead_status hp hf (by decide) (by decide), State.registerRead_status hp hf (by decide) (by decide), State.registerRead_mgmt hp hf (k := 0x28) (by decide) (by decide),
    State.registerRead_pf hp hf (k := 0) hq (by decide) (by decide), State.registerRead_pf hp hf hq (by decide) (by decide), State.registerRead_pf hp hf hq (by decide) (by decide),
    State.registerRead_pf hp hf hq (by decide) (by decide), fun _ hfrozen => State.registerRead_frozen _ hfrozen⟩

end

/-- R351, R355: a VF's write of QSPACE and QTENANT freezes it. -/
theorem protectedWriteFreezes {s : State} {f q v : Nat} (hat : At s (.reg f 0x010 v)) (hpos : 0 < f) (hf : f < 17) (hp : s.power = true) (hopen : (s.fn f).frozen = none)
    (hpages : ((List.range 64).filter fun q => (s.queue q).fn == f) = [q]) : leadsTo .registerWrite s fun u => (u.fn f).frozen ≠ none ∧ u.queues = s.queues := by
  have hpage : s.pageQueue f 0x010 = some q := by
    rw [State.pageQueue, if_neg (by omega), hpages]
    rfl
  have hprotected : f ≠ 0 ∧ (s.queue q).protectedWrite (0x010 % 4096) (v % 2 ^ 64) = true := ⟨by omega, by simp [Queue.protectedWrite]⟩
  refine ⟨_, execRegisterWrite_at hat hf, ?_⟩
  rw [State.registerWrite_page hp hopen (by decide) hpage, State.pageWrite, if_pos hprotected]
  exact ⟨s.freezeFn_frozen f _, s.freezeFn_queues f _⟩

/-! ### BAR 2 -/

/-- The event of an access. -/
def accessArg (f off n : Nat) : Option (List Byte) → EvArg
  | some b => .bytes f off b
  | none => .reg f off n
/-- The access is delivered. -/
theorem execBar2_at {s : State} {f off n : Nat} {d : Option (List Byte)} (hf : f < 17) (hn : 0 < n) (hpage : off % 4096 + n ≤ 4096) (hat : At s (accessArg f off n d))
    (hlen : ∀ b, d = some b → b.length = n) :
    exec (if d.isSome then .bar2Write else .bar2Read) s =
      .next ((s.unpost (if d.isSome then .bar2Write else .bar2Read) (accessArg f off n d)).bar2Take ⟨f, off, n, d, s.tick⟩) := by
  cases d with
  | none =>
    have hcur : s.cur = .event (.reg f off n) := hat
    change exec .bar2Read s = _
    rw [exec_bar2Read, execBar2Read, hcur]
    exact if_neg (by omega)
  | some b =>
    have hcur : s.cur = .event (.bytes f off b) := hat
    have hb := hlen b rfl
    change exec .bar2Write s = _
    rw [exec_bar2Write, execBar2Write, hcur, ← hb]
    exact if_neg (by omega)

section
variable {s t : State} {a : HostAccess}

theorem refusedAccess (h : s.ready = false ∨ (s.fn a.fn).frozen ≠ none ∨ (s.fn a.fn).barSize < a.off + a.n) :
    (s.bar2Take a).mem = s.mem ∧ (s.bar2Take a).hostReads = s.hostReads ++ (if a.data.isSome then [] else [⟨a.fn, a.off, none, false⟩]) := by
  rw [State.bar2Take_refused h]
  cases hd : a.data with
  | none =>
    rw [State.answerRead_read s none false hd]
    exact ⟨rfl, rfl⟩
  | some b =>
    rw [State.answerRead_write s none false (by rw [hd]; rfl)]
    exact ⟨rfl, (List.append_nil _).symm⟩

/-- R354, R412: the bytes of a performed write. -/
theorem performedWrite {b : List Byte} {pa : Nat} {l : TLeaf} (hd : a.data = some b) (hs : t.mem.wf = true) :
    (∀ j (h : j < b.length), ((t.bar2Do a (pa, l)).bar2Over a).mem.byte (pa + j) = if roByte (pa + j) then t.mem.byte (pa + j) else b[j]) ∧
      ∀ z, z < pa ∨ pa + b.length ≤ z → ((t.bar2Do a (pa, l)).bar2Over a).mem.byte z = t.mem.byte z := by
  rw [State.bar2Over_mem, State.bar2Do_write _ hd]
  refine ⟨fun j hj => Memory.byte_putDev_bytes _ _ _ hs j hj, fun z hz => Memory.byte_putDev_other _ _ _ hs fun p hp => ?_⟩
  have := mem_putBytes hp
  dsimp only at this
  omega
/-- R354: a performed read of good lines answers its bytes, and changes none. -/
theorem performedRead {pa : Nat} {l : TLeaf} (hd : a.data = none) (hl : l.state = 0) (hgood : t.mem.failing l pa a.n = []) :
    ((t.bar2Do a (pa, l)).bar2Over a).hostReads = t.hostReads ++ [⟨a.fn, a.off, some (t.mem.bytes pa a.n), false⟩] ∧ ∀ z, ((t.bar2Do a (pa, l)).bar2Over a).mem.byte z = t.mem.byte z := by
  rw [State.bar2Over_mem, State.bar2Over_hostReads, State.bar2Do_read hd hl, hgood, State.answerRead_read _ _ _ hd]
  exact ⟨rfl, fun z => Memory.byte_scrubRead ..⟩
/-- R349: a performed read of a line that fails its check answers poisoned; the line is recorded. -/
theorem poisonedRead {pa x : Nat} {l : TLeaf} (hd : a.data = none) (hl : l.state = 0) (hbad : t.mem.failing l pa a.n = [x]) :
    ((t.bar2Do a (pa, l)).bar2Over a).hostReads = t.hostReads ++ [⟨a.fn, a.off, some (t.mem.bytes pa a.n), true⟩] ∧ ((t.bar2Do a (pa, l)).bar2Over a).outerr = x % 2 ^ 48 ∧
      0 ∈ ((t.bar2Do a (pa, l)).bar2Over a).pba := by
  rw [State.bar2Over_hostReads, State.bar2Over_outerr, State.bar2Over_pba, State.bar2Do_read hd hl, hbad, State.answerRead_read _ _ _ hd]
  exact ⟨rfl, rfl, State.raised_raiseVec ..⟩

end

/-! ### Function resets -/

theorem functionReset {s : State} {f : Nat} (hcmds : s.cmds = []) (hnd : (s.launches.map (·.id)).Nodup) :
    (s.resetFn f).mem = s.mem ∧ (∀ q, q < 64 → (s.resetFn f).queue q = if (s.queue q).fn = f then { s.queue q with en := false } else s.queue q) ∧
      ∀ l ∈ s.launches, l.fn = f → l.phase ≠ .saved → ∃ k ∈ (s.resetFn f).launches, k.id = l.id ∧ k.phase = .retiring ∧ k.failure.isSome := by
  let mine := s.launches.filter fun l => l.fn == f
  have hfail := State.failing_failLaunches mine (s := s) ((List.filter_sublist.map _).nodup hnd) fun x hx => ⟨x, List.mem_of_mem_filter hx, rfl⟩
  have hcmds' : (mine.foldl State.failLaunch s).cmds = [] := (foldl_keeps State.failLaunch State.cmds (fun t l => State.post_cmds ..) mine s).trans hcmds
  have hqueues : (mine.foldl State.failLaunch s).queues = s.queues := foldl_keeps State.failLaunch State.queues (fun t l => State.post_queues ..) mine s
  have hmem : (mine.foldl State.failLaunch s).mem = s.mem := foldl_keeps State.failLaunch State.mem (fun t l => t.failLaunch_mem l) mine s
  have hreset : s.resetFn f = (List.range 64).foldl (fun (s : State) q => if (s.queue q).fn = f then s.setEn q false else s) (mine.foldl State.failLaunch s) := rfl
  have hall (q : Nat) : q ∈ List.range 64 ↔ q < 64 := List.mem_range
  rw [hreset]
  generalize List.range 64 = qs at hall
  obtain ⟨hmem', hlaunches, hqueue⟩ := State.disableQueues f qs hcmds' fun q hq => (hall q).mp hq
  refine ⟨hmem'.trans hmem, fun q hq => ?_, fun l hl hfn hp => ?_⟩
  · have hq' := hqueue q hq
    rw [State.queue_of_queues hqueues] at hq'
    simpa only [(hall q).mpr hq, true_and] using hq'
  · obtain ⟨k, hk, hrest⟩ := hfail l (List.mem_filter.mpr ⟨hl, by simp [hfn]⟩) hp
    exact ⟨k, hlaunches ▸ hk, hrest⟩

/-- Settles O45: registers by their offsets, accesses by what stands in their way, and a function's reset launch by launch and queue by queue. -/
theorem registersAndWindows : Obligations.RegistersAndWindows := by
  refine ⟨fun s q v hp hf hq => ⟨writeQueueBase hp hf hq, writeQueueSize hp hf hq, writeQueueTail hp hf hq, fun hat => (writeTableBase hp hf hat).1, fun hat => (writeTableBase hp hf hat).2⟩,
    fun s f q v hat hpos hf hp hopen hpages => protectedWriteFreezes hat hpos hf hp hopen hpages, ?bar2,
    fun s q hp hf hq => readRegisters hp hf hq, fun s f hat hpos hf hp => ⟨fun hopen hcmds hnd => ?reset, fun hfrozen => ?frozen⟩⟩
  case bar2 =>
    intro s s' f off n pa l d hf hn hpage a i g refused kind hd
    have hat : At s (accessArg f off n d) := by
      cases d with
      | none => exact hd
      | some b => exact hd.1
    have hlen : ∀ b, d = some b → b.length = n := by
      rintro b rfl
      exact hd.2
    have hexec := execBar2_at hf hn hpage hat hlen
    intro s0 r
    have hs0 : s0 = { s.unpost i (accessArg f off n d) with bar2 := s.bar2 ++ [a] } := by
      cases d <;> rfl
    refine ⟨fun h => ⟨_, hexec, refusedAccess (s := s.unpost i (accessArg f off n d)) (a := a) h⟩, fun h hbusy => ⟨_, hexec, ?_⟩, fun h hfree hg => ?_⟩
    · have hbusy' : (s.unpost i (accessArg f off n d)).bar2.any (fun x => x.fn == a.fn) = true := hbusy
      rw [State.bar2Take_served (s := s.unpost i (accessArg f off n d)) (a := a) h, if_pos hbusy']
      exact ⟨rfl, rfl, rfl⟩
    · rw [hs0] at hg
      have htake := State.bar2Take_granted (s := s.unpost i (accessArg f off n d)) (a := a) h hfree hg
      refine ⟨fun b hb hwf => ⟨_, hexec, ?_⟩, fun hn' hl hgood => ⟨_, hexec, ?_⟩, fun x hn' hl hbad => ⟨_, hexec, ?_⟩⟩
      all_goals rw [htake]
      · exact performedWrite hb hwf
      · exact performedRead hn' hl hgood
      · exact poisonedRead hn' hl hbad
  case reset =>
    have hcur : s.cur = .event (.num f) := hat
    refine ⟨s.resetFn f, ?_, functionReset hcmds hnd⟩
    rw [exec_functionLevelReset, execFunctionLevelReset, hcur]
    have hno : ¬ (f = 0 ∨ 17 ≤ f) := by omega
    simp [hno, hp, State.fnFrozen, hopen]
  case frozen =>
    have hcur : s.cur = .event (.num f) := hat
    rw [exec_functionLevelReset, execFunctionLevelReset, hcur]
    have hno : ¬ (f = 0 ∨ 17 ≤ f) := by omega
    simp [hno, hp, State.fnFrozen, hfrozen]

end Sys2Proof.Proofs
end

section
/-! Power, heat and errors (R375 to R381, R71, R404). -/
namespace Sys2Proof.Machine
open Sys2Proof.Claims

/-! ### Memory that a loss of power, and an error, leave -/

theorem Memory.byte_hostPart {m : Memory} (h : m.wf = true) (z : Nat) : m.hostPart.byte z = if z < 2 ^ 47 then 0 else m.byte z := by
  rw [Memory.hostPart, Memory.byte_zero h]
  simp only [Nat.zero_le, true_and, unwritten]
theorem Memory.byte_hostPart_dev {m : Memory} (h : m.wf = true) {z : Nat} (hz : z < 2 ^ 47) : m.hostPart.byte z = 0 := by rw [m.byte_hostPart h, if_pos hz]
theorem Memory.byte_hostPart_host {m : Memory} (h : m.wf = true) {z : Nat} (hz : 2 ^ 47 ≤ z) : m.hostPart.byte z = m.byte z := by
  rw [m.byte_hostPart h, if_neg (Nat.not_lt.mpr hz)]

theorem not_mem_ndel (l : List Nat) (a : Nat) : a ∉ ndel l a := by simp [ndel]
/-- A number put into a list makes it longer unless it stands in it. -/
theorem length_lt_nput {l : List Nat} {a : Nat} (h : a ∉ l) : l.length < (nput l a).length := by
  induction l with
  | nil => exact Nat.zero_lt_one
  | cons k l ih =>
    obtain ⟨hk, hl⟩ := not_or.mp (mt List.mem_cons.mpr h)
    unfold nput
    rw [if_neg hk]
    split
    · exact Nat.lt_succ_self _
    · exact Nat.succ_lt_succ (ih hl)

section
variable {m : Memory} {a : Nat}

theorem Memory.inject_single_new (b : Nat) (h1 : a / 8 * 8 ∉ m.ecc1) (h2 : a / 8 * 8 ∉ m.ecc2) :
    m.inject (.single a b) = { m with ecc1 := nput m.ecc1 (a / 8 * 8) } := by simp [Memory.inject, h1, h2]
/-- R71: a second error of a word makes it uncorrectable. -/
theorem Memory.inject_single_again (b : Nat) (h1 : a / 8 * 8 ∈ m.ecc1) : m.inject (.single a b) = m.inject (.double a) := by simp [Memory.inject, h1]
theorem Memory.inject_silent (b : Nat) (h : m.wf = true) :
    (m.inject (.silent a b)).byte a = m.byte a ^^^ BitVec.ofNat 8 (2 ^ (b % 8)) ∧ ∀ z, z ≠ a → (m.inject (.silent a b)).byte z = m.byte z := by
  have hcells : (m.inject (.silent a b)).cells = (m.setBits a (m.byte a ^^^ BitVec.ofNat 8 (2 ^ (b % 8))) 0xFF).cells := rfl
  simp only [Memory.byte, hcells]
  refine ⟨(m.byte_setBits_self a _ _ h).trans ?_, fun z hz => m.byte_setBits_other a z _ _ h hz⟩
  have hall : ∀ x y : Byte, x &&& ~~~(0xFF : Byte) ||| y &&& 0xFF = y := by
    intro x y
    ext i hi
    have hlow : i ∈ List.range 8 := List.mem_range.mpr hi
    fin_cases hlow <;> simp
  exact hall _ _

end

/-! ### The events -/

section
variable {s : State}

/-- What an error leaves; one that marks a new word is reported (R348). -/
def State.bitHit (s : State) (e : BitErr) : State :=
  if s.mem.ecc2.length < (s.mem.inject e).ecc2.length then ({ s with mem := s.mem.inject e, internalErr := true } : State).raiseVec 0 else { s with mem := s.mem.inject e }
theorem exec_bitError_eq {e : BitErr} (h : At s (.bit e)) : exec .bitError s = .next (s.bitHit e) := by
  have hcur : s.cur = .event (.bit e) := h
  rw [exec_bitError, execBitError, State.bitHit, hcur]
theorem State.bitHit_mem (s : State) (e : BitErr) : (s.bitHit e).mem = s.mem.inject e := by
  unfold State.bitHit
  split <;> rfl
theorem State.bitHit_cores (s : State) (e : BitErr) : (s.bitHit e).cores = s.cores := by
  unfold State.bitHit
  split <;> rfl
theorem State.bitHit_reported {e : BitErr} (h : s.mem.ecc2.length < (s.mem.inject e).ecc2.length) : (s.bitHit e).internalErr = true ∧ 0 ∈ (s.bitHit e).pba := by
  rw [State.bitHit, if_pos h]
  exact ⟨rfl, State.raised_raiseVec ..⟩
/-- R71, R348: a word with two errors is marked and reported. -/
theorem State.bitHit_double (s : State) (a : Nat) (e : BitErr) (h : s.mem.inject e = s.mem.inject (.double a)) : a / 8 * 8 ∈ (s.bitHit e).mem.ecc2 ∧
    (a / 8 * 8 ∉ s.mem.ecc2 → (s.bitHit e).internalErr = true ∧ 0 ∈ (s.bitHit e).pba) ∧ a / 8 * 8 ∉ (s.bitHit e).mem.ecc1 ∧ (s.bitHit e).mem.cells = s.mem.cells := by
  rw [State.bitHit_mem, h]
  refine ⟨mem_nput_self .., fun hnew => State.bitHit_reported ?_, not_mem_ndel s.mem.ecc1 _, rfl⟩
  rw [h]
  exact length_lt_nput hnew

theorem exec_thermalWarning_eq (h : At s .unit) (hp : s.power = true) : exec .thermalWarning s = .next (({ s with thermal := true, allowance := 29 } : State).event 4) := by
  have hcur : s.cur = .event .unit := h
  rw [exec_thermalWarning, execThermalWarning, hcur]
  simp only [hp, if_true]
theorem State.event_thermal (s : State) (x : Nat) : (s.event x).thermal = s.thermal := by simp only [State.event, State.raiseVec, State.hostWrite]
theorem State.event_allowance (s : State) (x : Nat) : (s.event x).allowance = s.allowance := by simp only [State.event, State.raiseVec, State.hostWrite]
theorem State.event_evqCount (s : State) (x : Nat) : (s.event x).evqCount = s.evqCount + 1 := by simp only [State.event, State.raiseVec, State.hostWrite]
/-- The place of the next event record. -/
def State.evqKey (s : State) : Nat := hostKey (s.mgmt.evqbase + 64 * (s.evqCount % (s.mgmt.evqsize + 1)))
def State.evqPhase (s : State) : Nat := 1 - s.evqCount / (s.mgmt.evqsize + 1) % 2
/-- An event record's first bytes are its TYPE and the phase of its round. -/
theorem State.event_record (hs : s.mem.wf = true) {x : Nat} (hx : x < 2 ^ 8) :
    (s.event x).mem.read s.evqKey 1 = x ∧ (s.event x).mem.read (s.evqKey + 1) 1 = s.evqPhase ∧ ∀ z, z < s.evqKey ∨ s.evqKey + 64 ≤ z → (s.event x).mem.byte z = s.mem.byte z := by
  have hmem : (s.event x).mem = s.mem.write s.evqKey 64 (x + 2 ^ 8 * s.evqPhase) := s.event_mem x
  have hphase : s.evqPhase ≤ 1 := Nat.sub_le ..
  generalize s.evqPhase = phase at *
  have hfits : x + 2 ^ 8 * phase < 256 ^ 64 := by omega
  rw [hmem]
  refine ⟨(s.mem.read_write_within (i := 0) hs (by decide) hfits).trans ?_, (s.mem.read_write_within (i := 1) hs (by decide) hfits).trans ?_,
    fun z hz => Memory.byte_write_outside _ hs hz⟩
  · rw [Nat.pow_zero, Nat.div_one, Nat.pow_one]
    omega
  · rw [Nat.pow_one]
    omega

theorem exec_powerGood_fails {b : BringUp} {k : Nat} (h : At s (.bringUp b)) (hr : s.ready = false) (hf : s.fail = false) (hb : s.bringUpFails b = some k) :
    exec .powerGood s = .next { (if 7 ≤ k then (if 6 ≤ k then s.configured b else s).wiped else (if 6 ≤ k then s.configured b else s)) with power := true, fail := true, failcode := k } := by
  have hcur : s.cur = .event (.bringUp b) := h
  rw [exec_powerGood, execPowerGood, hcur]
  simp only [hr, hf, hb, Bool.false_eq_true, or_self, if_false]
theorem exec_powerGood_done {b : BringUp} (h : At s (.bringUp b)) (hr : s.ready = false) (hf : s.fail = false) (hb : s.bringUpFails b = none) :
    exec .powerGood s = .next { (s.configured b).wiped with power := true, ready := true } := by
  have hcur : s.cur = .event (.bringUp b) := h
  rw [exec_powerGood, execPowerGood, hcur]
  simp only [hr, hf, hb, Bool.false_eq_true, or_self, if_false]
theorem State.bringUpFails_early {b : BringUp} {k : Nat} (h : b.failStep = some k) (hk : k ≤ 5) : s.bringUpFails b = some k := by
  simp only [State.bringUpFails, h, if_pos hk]
theorem State.not_bringUpFails_version {b : BringUp} (h1 : 1 ≤ b.strata) (h8 : b.strata ≤ 8) (hv : s.rollback ≤ b.fwver) : ¬ (b.strata = 0 ∨ 8 < b.strata ∨ b.fwver < s.rollback) := by
  omega

theorem exec_dark {i : Instr} (hi : i = .powerLoss ∨ i = .thermalCritical) (h : At s .unit) : exec i s = .next s.dark := by
  have hcur : s.cur = .event .unit := h
  rcases hi with rfl | rfl
  · rw [exec_powerLoss, execPowerLoss, hcur]
  · rw [exec_thermalCritical, execThermalCritical, hcur]

end

end Sys2Proof.Machine

namespace Sys2Proof.Proofs
open Sys2Proof Sys2Proof.Machine Sys2Proof.Claims

theorem powerGood_brings_up {s : State} {b : BringUp} (h : At s (.bringUp b)) (hr : s.ready = false) (hf : s.fail = false) (hstep : b.failStep = none) (h1 : 1 ≤ b.strata)
    (h8 : b.strata ≤ 8) (hv : s.rollback ≤ b.fwver) (hs : s.mem.wf = true) : leadsTo .powerGood s fun u => u.power = true ∧ u.ready = true ∧ u.fail = false ∧ u.stkN = b.strata ∧
      u.modnum = b.modnum % 2 ^ 13 ∧ u.fwver = b.fwver % 2 ^ 16 ∧ u.cfgver = b.cfgver % 2 ^ 16 ∧ u.rollback = b.fwver ∧ (∀ a, a < 2 ^ 47 → u.mem.byte a = 0) ∧
      ∀ a, 2 ^ 47 ≤ a → u.mem.byte a = s.mem.byte a := by
  have hgood : s.bringUpFails b = none := by
    simp only [State.bringUpFails, hstep]
    exact if_neg (State.not_bringUpFails_version h1 h8 hv)
  exact ⟨_, exec_powerGood_done h hr hf hgood, rfl, rfl, hf, rfl, rfl, rfl, rfl, Nat.max_eq_right hv, fun a ha => Memory.byte_hostPart_dev hs ha, fun a ha => Memory.byte_hostPart_host hs ha⟩

theorem powerGood_fails_late {s : State} {b : BringUp} {k : Nat} (h : At s (.bringUp b)) (hr : s.ready = false) (hf : s.fail = false) (hstep : b.failStep = some k) (hk : 6 ≤ k)
    (h1 : 1 ≤ b.strata) (h8 : b.strata ≤ 8) (hv : s.rollback ≤ b.fwver) (hs : s.mem.wf = true) :
    leadsTo .powerGood s fun u => u.power = true ∧ u.ready = false ∧ u.fail = true ∧ u.failcode = k ∧ u.stkN = b.strata ∧
      u.fwver = b.fwver % 2 ^ 16 ∧ u.cfgver = b.cfgver % 2 ^ 16 ∧ u.rollback = b.fwver ∧ (k = 6 → u.mem = s.mem) ∧ (6 < k → ∀ a, a < 2 ^ 47 → u.mem.byte a = 0) := by
  have hfails : s.bringUpFails b = some k := by
    simp only [State.bringUpFails, hstep, if_neg (show ¬ k ≤ 5 by omega), if_neg (State.not_bringUpFails_version h1 h8 hv)]
  have hrun := exec_powerGood_fails h hr hf hfails
  rw [if_pos hk] at hrun
  have hmax := Nat.max_eq_right hv
  by_cases hwiped : 7 ≤ k
  · rw [if_pos hwiped] at hrun
    exact ⟨_, hrun, rfl, hr, rfl, rfl, rfl, rfl, rfl, hmax, fun hsix => by omega, fun _ a ha => Memory.byte_hostPart_dev hs ha⟩
  · rw [if_neg hwiped] at hrun
    exact ⟨_, hrun, rfl, hr, rfl, rfl, rfl, rfl, rfl, hmax, fun _ => rfl, fun hlate => by omega⟩

theorem dark_leaves_flash {s : State} (hs : s.mem.wf = true) : let u := s.dark
    u.power = false ∧ u.ready = false ∧ u.cores = [] ∧ u.launches = [] ∧ u.cmds = [] ∧ u.pending = [] ∧ u.wires = [] ∧ u.queues = State.reset.queues ∧ u.mgmt = State.reset.mgmt ∧
      u.rollback = s.rollback ∧ (∀ a, a < 2 ^ 47 → u.mem.byte a = 0) ∧ ∀ a, 2 ^ 47 ≤ a → u.mem.byte a = s.mem.byte a :=
  ⟨rfl, rfl, rfl, rfl, rfl, rfl, rfl, rfl, rfl, rfl, fun _ ha => Memory.byte_hostPart_dev hs ha, fun _ ha => Memory.byte_hostPart_host hs ha⟩

theorem tokenAllowanceUpdate_bounds {s : State} {n : Nat} (h : At s (.num n)) (hp : s.power = true) :
    leadsTo .tokenAllowanceUpdate s fun u => u = { s with allowance := u.allowance } ∧ 29 ≤ u.allowance ∧ u.allowance ≤ 34 ∧
      (s.thermal = true → u.allowance = 29) ∧ (s.thermal = false → 29 ≤ n → n ≤ 34 → u.allowance = n) := by
  have hcur : s.cur = .event (.num n) := h
  refine ⟨{ s with allowance := if s.thermal then 29 else max 29 (min 34 n) }, ?_, rfl, ?_⟩
  · rw [exec_tokenAllowanceUpdate, execTokenAllowanceUpdate, hcur]
    simp only [hp, if_true]
  · cases s.thermal with
    | true => simp
    | false =>
      simp only [Bool.false_eq_true, if_false]
      exact ⟨by omega, by omega, False.elim, fun _ h29 h34 => by omega⟩

theorem thermalWarning_records {s : State} (h : At s .unit) (hp : s.power = true) (hs : s.mem.wf = true) : leadsTo .thermalWarning s fun u =>
    let key := 2 ^ 47 + (s.mgmt.evqbase + 64 * (s.evqCount % (s.mgmt.evqsize + 1))) % 2 ^ 64
    u.thermal = true ∧ u.allowance = 29 ∧ u.evqCount = s.evqCount + 1 ∧ 2 ∈ u.pba ∧ u.cores = s.cores ∧ u.mem.read key 1 = 4 ∧ u.mem.read (key + 1) 1 = 1 - s.evqCount / (s.mgmt.evqsize + 1) % 2 ∧
    ∀ z, z < key ∨ key + 64 ≤ z → u.mem.byte z = s.mem.byte z := by
  refine ⟨_, exec_thermalWarning_eq h hp, State.event_thermal .., State.event_allowance .., State.event_evqCount .., ?_, State.event_cores .., ?_⟩
  · rw [State.event_pba]
    exact mem_nput_self ..
  · exact State.event_record (s := { s with thermal := true, allowance := 29 }) hs (by decide)

theorem bitError_marks (s : State) (a b : Nat) : let w := a / 8 * 8
    (At s (.bit (.single a b)) → w ∉ s.mem.ecc1 → w ∉ s.mem.ecc2 → leadsTo .bitError s fun u => w ∈ u.mem.ecc1 ∧ u.mem.ecc2 = s.mem.ecc2 ∧ u.mem.cells = s.mem.cells ∧ u.cores = s.cores) ∧
    (At s (.bit (.single a b)) → w ∈ s.mem.ecc1 → leadsTo .bitError s fun u => w ∈ u.mem.ecc2 ∧ w ∉ u.mem.ecc1 ∧ (w ∉ s.mem.ecc2 → u.internalErr = true ∧ 0 ∈ u.pba)) ∧
    (At s (.bit (.double a)) → leadsTo .bitError s fun u => w ∈ u.mem.ecc2 ∧ (w ∉ s.mem.ecc2 → u.internalErr = true ∧ 0 ∈ u.pba) ∧ w ∉ u.mem.ecc1 ∧ u.mem.cells = s.mem.cells ∧ u.cores = s.cores) ∧
    (At s (.bit (.silent a b)) → s.mem.wf = true → leadsTo .bitError s fun u => u.mem.byte a = s.mem.byte a ^^^ BitVec.ofNat 8 (2 ^ (b % 8)) ∧ (∀ z, z ≠ a → u.mem.byte z = s.mem.byte z) ∧
      u.mem.ecc2 = s.mem.ecc2) := by
  refine ⟨fun h h1 h2 => ⟨_, exec_bitError_eq h, ?first⟩, fun h h1 => ⟨_, exec_bitError_eq h, ?second⟩, fun h => ⟨_, exec_bitError_eq h, ?double⟩, fun h hs => ⟨_, exec_bitError_eq h, ?silent⟩⟩
  case first =>
    dsimp only
    rw [State.bitHit_mem, Memory.inject_single_new b h1 h2]
    exact ⟨mem_nput_self .., rfl, rfl, s.bitHit_cores _⟩
  case second =>
    obtain ⟨hmark, hreport, hclear, _⟩ := s.bitHit_double a _ (Memory.inject_single_again b h1)
    exact ⟨hmark, hclear, hreport⟩
  case double =>
    obtain ⟨hmark, hreport, hclear, hcells⟩ := s.bitHit_double a (.double a) rfl
    exact ⟨hmark, hreport, hclear, hcells, s.bitHit_cores _⟩
  case silent =>
    dsimp only
    rw [State.bitHit_mem]
    obtain ⟨hflip, hrest⟩ := Memory.inject_silent (m := s.mem) (a := a) b hs
    exact ⟨hflip, hrest, rfl⟩

/-- Settles O48: each event's next state, and what `Memory.hostPart`, an event record and an error leave of memory. -/
theorem powerAndErrors : Obligations.PowerAndErrors := by
  refine ⟨fun s b h hr hf => ⟨powerGood_brings_up h hr hf, fun k hstep hk => ?early, fun k => powerGood_fails_late h hr hf, fun hstep hv => ?version⟩,
    fun s i hi h hs => ⟨_, exec_dark hi h, dark_leaves_flash hs⟩, fun s n => tokenAllowanceUpdate_bounds, fun s => thermalWarning_records, bitError_marks, fun s p h hp => ?link⟩
  case early =>
    have hrun := exec_powerGood_fails h hr hf (State.bringUpFails_early hstep hk)
    rwa [if_neg (show ¬ 7 ≤ k by omega), if_neg (show ¬ 6 ≤ k by omega)] at hrun
  case version =>
    have hfails : s.bringUpFails b = some 5 := by
      simp only [State.bringUpFails, hstep]
      exact if_pos (.inr (.inr hv))
    have hrun := exec_powerGood_fails h hr hf hfails
    rwa [if_neg (by decide), if_neg (by decide)] at hrun
  case link =>
    have hcur : s.cur = .event (.num p) := h
    rw [exec_linkFailure, execLinkFailure, hcur]
    exact if_neg (by omega)

end Sys2Proof.Proofs
end

section
/-! Commands that run, start and end (R351, R358): what is left of the state. -/
namespace Sys2Proof.Machine
open Sys2Proof.Claims

/-! ### What a completion, and an event record, leave -/

/-- A part of the state that is no queue, completion, command or event record, nor the host's memory. -/
structure Unreported {α : Type} (p : State → α) : Prop where
  hostWrite : ∀ (s : State) a n x, p (s.hostWrite a n x) = p s
  updQueue : ∀ (s : State) q f, p (s.updQueue q f) = p s
  raiseVec : ∀ (s : State) v, p (s.raiseVec v) = p s
  held : ∀ (s : State) l, p { s with held := l } = p s
  cmds : ∀ (s : State) l, p { s with cmds := l } = p s
  unpost : ∀ (s : State) i a, p (s.unpost i a) = p s
  evqCount : ∀ (s : State) n, p { s with evqCount := n } = p s

namespace Unreported
variable {α : Type} {p : State → α} (h : Unreported p)
include h

theorem report (s : State) (c : Completion) : p (s.report c) = p s := by
  unfold State.report State.writeRecord
  dsimp only
  split
  · split
    · rw [h.raiseVec, h.updQueue, h.hostWrite]
    · rw [h.updQueue, h.hostWrite]
  · exact h.held ..
theorem finishCmd (s : State) (k : HostCmd) (f : Failure) : p (s.finishCmd k f) = p s := by
  unfold State.finishCmd
  rw [h.report]
  split
  · exact (h.unpost ..).trans (h.cmds ..)
  · exact h.cmds ..
theorem event (s : State) (x : Nat) : p (s.event x) = p s := by
  unfold State.event
  exact (h.raiseVec ..).trans ((h.evqCount ..).trans (h.hostWrite ..))

end Unreported

theorem unreported_cores : Unreported State.cores := by constructor <;> intros <;> rfl
theorem unreported_launches : Unreported State.launches := by constructor <;> intros <;> rfl
theorem unreported_sequence : Unreported State.sequence := by constructor <;> intros <;> rfl
theorem unreported_stkN : Unreported State.stkN := by constructor <;> intros <;> rfl
theorem unreported_stkBusy : Unreported State.stkBusy := by constructor <;> intros <;> rfl

/-! ### Commands -/

section
variable {s : State} {k : HostCmd}

/-- A command that waits runs its step. -/
theorem onCommand_eq {f : State → HostCmd → State} {i : Instr} (hat : At s (.num k.uid)) (hk : s.hostCmd k.uid = some k) : onCommand i f s = .next (f s k) := by
  have hcur : s.cur = .event (.num k.uid) := hat
  rw [onCommand, hcur]
  dsimp only
  rw [hk]

theorem find?_map_put (l : List HostCmd) {x : HostCmd} (hx : x.uid = k.uid) (h : ∃ y, l.find? (fun c => c.uid == k.uid) = some y) :
    (l.map fun c => if c.uid = x.uid then x else c).find? (fun c => c.uid == k.uid) = some x := by
  induction l with
  | nil => exact absurd h (by simp)
  | cons c l ih =>
    rw [List.map_cons, List.find?_cons]
    by_cases hc : c.uid = k.uid
    · simp [hx, hc]
    · rw [List.find?_cons, show (c.uid == k.uid) = false from beq_false_of_ne hc] at h
      simp only [hx, if_neg hc, beq_false_of_ne hc] at ih ⊢
      exact ih h
/-- A command put back in its place is what is there. -/
theorem State.hostCmd_putHostCmd {x : HostCmd} (hx : x.uid = k.uid) (hk : s.hostCmd k.uid = some k) : (s.putHostCmd x).hostCmd k.uid = some x :=
  find?_map_put s.cmds hx ⟨k, hk⟩
theorem State.finishCmd_gone (s : State) (k : HostCmd) (f : Failure) : (s.finishCmd k f).cmds.find? (fun x => x.uid == k.uid) = none := by
  rw [State.finishCmd_cmds, List.find?_eq_none]
  intro x hx
  simpa using (List.mem_filter.mp hx).2

theorem HostCmd.token_eq (k : HostCmd) : k.token = k.field 15 8 % 2 ^ 12 := bits_low _ 11

end

end Sys2Proof.Machine
end

section
/-! The other host commands (R327, R344, R362, R368 to R373, R379), one lemma for each way a command goes on. -/
namespace Sys2Proof.Machine
open Sys2Proof.Claims

section
variable {s : State} {k : HostCmd}

/-! ### SIGNAL and WAIT (R362) -/

theorem ownsToken_pf (t : Nat) : ownsToken 0 t = true := rfl
theorem ownsToken_vf {f t : Nat} (hf : f ≠ 0) : ownsToken f t = true ↔ Config.tokenFn t = f := by simp [ownsToken, hf]
theorem runSignal_starts (hc : s.chosen k = true) (hs : k.started = false) (ho : ownsToken (s.queue k.q).fn k.token = true) : s.runSignal k = s.startCmd k := by
  simp [State.runSignal, hc, hs, ho]
theorem runSignal_violates (hc : s.chosen k = true) (hs : k.started = false) (ho : ownsToken (s.queue k.q).fn k.token = false) : s.runSignal k = s.tokenViolation k := by
  simp [State.runSignal, hc, hs, ho]
theorem runSignal_raises (hs : k.started = true) (hd : s.earlierDone k = true) : s.runSignal k =
    ({ s with tokens := sput 0 s.tokens k.token (max (sget 0 s.tokens k.token) (k.field 23 16)) } : State).finishCmd k (Failure.of 0) := by
  simp [State.runSignal, hs, hd]
theorem runWait_ends (hc : s.chosen k = true) (ho : ownsToken (s.queue k.q).fn k.token = true) : s.runWait k = (s.startCmd k).finishCmd k (Failure.of 0) := by
  simp [State.runWait, hc, ho]
theorem runWait_violates (hc : s.chosen k = true) (ho : ownsToken (s.queue k.q).fn k.token = false) : s.runWait k = s.tokenViolation k := by
  simp [State.runWait, hc, ho]

/-! ### COPY (R368, R371) -/

/-- The copy commands that a COPY waits for. -/
def State.copiesAhead (s : State) : List (Nat × Nat) := s.writers.flatMap fun c => (s.core c).outstandingCmds.map fun i => (c, i)
theorem runCopy_starts (hc : s.chosen k = true) (hs : k.started = false) (hl : k.field 31 24 ≤ 2 ^ 40) : s.runCopy k = s.startCmd { k with behind := s.copiesAhead } := by
  have hno : ¬ 2 ^ 40 < k.field 31 24 := by omega
  simp only [State.runCopy, hs, hc, Bool.not_false, Bool.not_true, if_true, Bool.false_eq_true, if_false, if_neg hno]
  rfl
theorem runCopy_tooLong (hc : s.chosen k = true) (hs : k.started = false) (hl : 2 ^ 40 < k.field 31 24) : s.runCopy k = (s.startCmd k).finishCmd k (Failure.of 1) := by
  simp only [State.runCopy, hs, hc, Bool.not_false, Bool.not_true, if_true, Bool.false_eq_true, if_false, if_pos hl]
theorem runCopy_waits (hs : k.started = true) (ho : k.off = 0) (hw : s.writersCopy k = true) : s.runCopy k = s := by
  simp only [State.runCopy, hs, Bool.not_true, Bool.false_eq_true, if_false]
  exact if_pos ⟨ho, hw⟩

section
variable (hs : k.started = true) (hw : k.off = 0 → s.writersCopy k = false ∧ s.writersDirty = [])
include hs hw

theorem runCopy_ends (hl : k.off = k.field 31 24) : s.runCopy k = s.finishCmd k (Failure.of 0) := by
  simp only [State.runCopy, hs, Bool.not_true, Bool.false_eq_true, if_false]
  refine (if_neg fun h => ?_).trans ((if_neg fun h => ?_).trans (if_pos hl))
  · exact absurd h.2 (by simp [(hw h.1).1])
  · exact h.2 (by simp [(hw h.1).2])
/-- Of a copy that goes on, the next piece. -/
theorem runCopy_goes {n : Nat} {t : State} (hl : k.off ≠ k.field 31 24)
    (hn : n = min (k.field 31 24 - k.off) (min (64 - (k.field 15 8 + k.off) % 64) (64 - (k.field 23 16 + k.off) % 64)))
    (hp : s.copyPiece { ev := (.cmdCopy, .num k.uid), station := 0, space := (s.queue k.q).qspace, tenant := (s.queue k.q).qtenant, ctag := 0, who := 2 ^ 11 }
      (k.field 15 8 + k.off) (k.field 23 16 + k.off) n = (t, .ok ())) :
    s.runCopy k = ((t.forget (.cmdCopy, .num k.uid)).putHostCmd { k with off := k.off + n }).postEv (.cmdCopy, .num k.uid) := by
  subst hn
  simp only [State.runCopy, hs, Bool.not_true, Bool.false_eq_true, if_false]
  refine (if_neg fun h => ?_).trans ((if_neg fun h => ?_).trans ((if_neg hl).trans ?_))
  · exact absurd h.2 (by simp [(hw h.1).1])
  · exact h.2 (by simp [(hw h.1).2])
  · rw [hp]

end

theorem State.copyEnd_host {a kind n : Nat} (r : Req) (h : a / 2 ^ 63 % 2 = 1) : s.copyEnd r a kind n = (s, .ok (hostKey (a % 2 ^ 63), plainLeaf)) := if_pos h
theorem hostKey_low (a : Nat) : hostKey (a % 2 ^ 63) = 2 ^ 47 + a % 2 ^ 63 := by
  simp only [hostKey]
  omega
/-- R371: between two host buffers a piece's bytes move at once. -/
theorem State.copyPiece_host {a d n : Nat} (r : Req) (ha : a / 2 ^ 63 % 2 = 1) (hd : d / 2 ^ 63 % 2 = 1) (hgood : s.mem.devError (2 ^ 47 + a % 2 ^ 63) n (decide (n < 64)) = (0, 0)) :
    ∃ t : State, s.copyPiece r a d n = (t, .ok ()) ∧ t.cmds = s.cmds ∧
      t.mem = (s.mem.scrubRead plainLeaf (2 ^ 47 + a % 2 ^ 63) n).put (putBytes (2 ^ 47 + d % 2 ^ 63) (s.mem.bytes (2 ^ 47 + a % 2 ^ 63) n)) := by
  have hread := s.mem.devRead_plain (l := plainLeaf) (2 ^ 47 + a % 2 ^ 63) n (decide (n < 64)) rfl
  rw [hgood] at hread
  have hcmds (c : Prop) [Decidable c] (t : State) (x y : Nat) : (if c then t.poisonTo x y else t).cmds = t.cmds := by split <;> rfl
  have hmem (c : Prop) [Decidable c] (t : State) (x y : Nat) : (if c then t.poisonTo x y else t).mem = t.mem := by split <;> rfl
  have hhost : isHost (2 ^ 47 + d % 2 ^ 63) = true := by simp [isHost]
  unfold State.copyPiece
  rw [State.copyEnd_host r ha, hostKey_low]
  simp only [andThen]
  rw [State.copyEnd_host r hd, hostKey_low]
  simp only [hread, hhost, ne_eq, not_true_eq_false, if_true, if_false]
  refine ⟨_, rfl, hcmds .., ?_⟩
  exact congrArg (fun m : Memory => m.put _) (hmem ..)

/-! ### PARTITION (R327) -/

section
variable (hc : s.chosen k = true) (hs : k.started = false)
include hc hs

theorem runPartition_bad (hb : badPartition (k.field 15 8) = true) : s.runPartition k =
    ((s.startCmd k).event (1 + 2 ^ 256 * doneRecord 1 s.stkN s.stkN s.clock (k.sequence (k.field 15 8) false s.clock))).finishCmd k (Failure.of 1) := by
  simp only [State.runPartition, hs, hc, hb, Bool.not_false, Bool.not_true, if_true, Bool.false_eq_true, if_false]
theorem runPartition_same (hb : badPartition (k.field 15 8) = false) (hn : k.field 15 8 % 16 = s.stkN) : s.runPartition k = (s.startCmd k).finishCmd k (Failure.of 0) := by
  have hbits : bits (k.field 15 8) 3 0 = s.stkN := (bits_low _ 3).trans hn
  simp only [State.runPartition, hs, hc, hb, Bool.not_false, Bool.not_true, if_true, Bool.false_eq_true, if_false, if_pos hbits]
theorem runPartition_begins (hb : badPartition (k.field 15 8) = false) (hn : k.field 15 8 % 16 ≠ s.stkN) :
    s.runPartition k = { s.startCmd k with sequence := some (k.sequence (k.field 15 8) false s.clock), stkBusy := true } := by
  have hbits : bits (k.field 15 8) 3 0 ≠ s.stkN := fun h => hn ((bits_low _ 3).symm.trans h)
  simp only [State.runPartition, hs, hc, hb, Bool.not_false, Bool.not_true, if_true, Bool.false_eq_true, if_false, if_neg hbits]
theorem runCheckpoint_begins (h5 : k.field 23 16 / 2 ^ 5 % 8 = 0) (h32 : k.field 23 16 / 2 ^ 32 = 0) :
    s.runCheckpoint k = { s.startCmd k with sequence := some (k.sequence (k.field 23 16) true s.clock) } := by
  simp only [State.runCheckpoint, hs, hc, Bool.not_false, Bool.not_true, if_true, Bool.false_eq_true, if_false]
  refine if_neg ?_
  rintro (h | h)
  · exact h h5
  · exact h (by rw [bits, h32, Nat.zero_mod])

end

section
variable {q : Sequence} (hs : k.started = true) (hq : s.sequence = some q) (hu : q.uid = k.uid)
include hs hq hu

theorem runPartition_goes : s.runPartition k = s.stepPartition k q := by
  simp only [State.runPartition, hs, hq, hu, Bool.not_true, Bool.false_eq_true, if_true, if_false]
theorem runCheckpoint_goes : s.runCheckpoint k = s.stepCheckpoint k q := by
  simp only [State.runCheckpoint, hs, hq, hu, Bool.not_true, Bool.false_eq_true, if_true, if_false]

end

theorem stepPartition_changes {q : Sequence} (h2 : q.step = 2) (hn : q.new ≤ s.stkN) (ho : s.owned = []) : s.stepPartition k q = s.changeRoles k q := by
  have hstep : ¬ q.step = 1 := by omega
  have hgrow : ¬ s.stkN < q.new := by omega
  have howned : s.ownsAffected = false := by simp [State.ownsAffected, ho]
  simp only [State.stepPartition, if_neg hstep, if_neg hgrow, howned, Bool.false_eq_true, if_false]
/-- A PARTITION that succeeds: the sequence ends, and STKROLE has the new number. -/
theorem partitionDone_succeeds (s : State) (k : HostCmd) (q : Sequence) (oldn : Nat) :
    let u := s.partitionDone k q 0 oldn
    u.stkN = q.new ∧ u.stkBusy = false ∧ u.sequence = none := by
  unfold State.partitionDone
  refine ⟨?_, ?_, ?_⟩
  · rw [unreported_stkN.finishCmd, unreported_stkN.event, if_pos rfl]
  · rw [unreported_stkBusy.finishCmd, unreported_stkBusy.event]
  · rw [unreported_sequence.finishCmd, unreported_sequence.event]

/-! ### CHECKPOINT (R344 to R346) -/

theorem stepCheckpoint_drained {q : Sequence} (h1 : q.step = 1) (hd : s.toDrain = []) (hr : s.runsToEnd = []) : s.stepCheckpoint k q = { s with sequence := some { q with step := 2 } } := by
  simp only [State.stepCheckpoint, if_pos h1, State.stepDrain, hd, hr, List.isEmpty_nil, Bool.and_self, if_true]
theorem stepCheckpoint_busy {q : Sequence} (h2 : q.step = 2) (hb : s.quiet = false) : s.stepCheckpoint k q = s := by
  have hstep : ¬ q.step = 1 := by omega
  simp only [State.stepCheckpoint, if_neg hstep, hb, Bool.false_eq_true, if_false]
theorem stepCheckpoint_writes {q : Sequence} (h2 : q.step = 2) (hb : s.quiet = true) : s.stepCheckpoint k q = s.writeCheckpoint k q := by
  have hstep : ¬ q.step = 1 := by omega
  simp only [State.stepCheckpoint, if_neg hstep, hb, if_true]

theorem State.sendData_cores (route fuel : Nat) (s : State) (off : Nat) (ls : List (Nat × Nat)) : (s.sendData route off fuel ls).cores = s.cores := by
  induction fuel generalizing s off ls with
  | zero => rfl
  | succ n ih =>
    unfold State.sendData
    split
    · rfl
    · exact (ih ..).trans (State.sendFlit_cores ..)
theorem State.streamRegion_cores (s : State) (list i off : Nat) (r : Region) : (s.streamRegion list i off r).cores = s.cores := by
  unfold State.streamRegion
  split
  · exact State.sendData_cores ..
  · exact foldl_keeps (fun (s : State) l => s.poisonTo l (lineOf (streamKey list i + (l - r.base)))) State.cores (fun _ _ => rfl) _ _
theorem State.streamManifest_cores (s : State) (list i off : Nat) (bs : List Byte) : (s.streamManifest list i off bs).cores = s.cores := by
  unfold State.streamManifest
  split
  · exact State.sendData_cores ..
  · rfl
theorem writeCheckpoint_ends (s : State) (k : HostCmd) (q : Sequence) : (s.writeCheckpoint k q).sequence = none ∧ (s.writeCheckpoint k q).cores = s.cores := by
  unfold State.writeCheckpoint
  dsimp only
  refine ⟨?_, ?_⟩
  · rw [unreported_sequence.finishCmd, unreported_sequence.event]
  · rw [unreported_cores.finishCmd, unreported_cores.event]
    exact (State.streamManifest_cores ..).trans (foldl_keeps _ State.cores (fun _ _ => State.streamRegion_cores ..) _ _)

/-! ### FREEZE_CLEAR (R373, R279) -/

theorem runFreezeClear_unknown (hc : s.chosen k = true) (hz : k.field 15 12 = 0) (hm : k.field 23 16 ≤ 1) (hn : (s.startCmd k).frozenBy (k.field 11 8) = none) :
    s.runFreezeClear k = (s.startCmd k).finishCmd k (Failure.of 1) := by
  have hgood : ¬ (k.field 15 12 ≠ 0 ∨ 1 < k.field 23 16) := by omega
  simp only [State.runFreezeClear, hc, hn, if_neg hgood, Bool.not_true, Bool.false_eq_true, if_false]
theorem runFreezeClear_core {id : Nat} {v : Violation} {hd : Bool} (hc : s.chosen k = true) (hz : k.field 15 12 = 0) (hm : k.field 23 16 = 0)
    (hn : (s.startCmd k).frozenBy (k.field 11 8) = some (.core id v hd)) (hv : v.kind ≠ 4) :
    s.runFreezeClear k = ((s.startCmd k).unfreezeCore id hd).finishCmd k (Failure.of 0) := by
  have hgood : ¬ (k.field 15 12 ≠ 0 ∨ 1 < 0) := by omega
  simp only [State.runFreezeClear, hc, hn, hm, if_neg hgood, if_neg hv, Bool.not_true, Bool.false_eq_true, if_true, if_false]

theorem State.rerunOp_cores (s : State) (id t : Nat) (p : TPending) : (s.rerunOp id t p).cores = s.cores := by
  unfold State.rerunOp
  split
  · rfl
  · exact State.post_cores ..
  · exact State.post_cores ..
  · rfl
  · exact State.post_cores ..
theorem State.repost_cores (s : State) (id : Nat) : (s.repost id).cores = s.cores := by
  have hmaybe (c : Prop) [Decidable c] (t : State) (i : Instr) (a : EvArg) : (if c then t.post i a else t).cores = t.cores := by
    split
    · exact State.post_cores ..
    · rfl
  have hunless (c : Prop) [Decidable c] (t : State) (i : Instr) (a : EvArg) : (if c then t else t.post i a).cores = t.cores := by
    split
    · rfl
    · exact State.post_cores ..
  unfold State.repost
  dsimp only
  exact (foldl_keeps _ State.cores (fun t x => hmaybe ..) _ _).trans ((hmaybe ..).trans (hunless ..))
theorem State.rerunCore_cores (s : State) (id : Nat) : (s.rerunCore id).cores = s.cores := by
  have hengines (l : List (Fin 2)) : (l.foldl (fun (t : State) e => ((s.core id).engines[e]).queue.foldl (fun (t : State) k =>
      (t.postEv (moverEv (.engine id e.val k.id) k)).postEv (closerEv (.engine id e.val k.id) k)) t) s).cores = s.cores :=
    foldl_keeps _ State.cores (fun t e => foldl_keeps _ State.cores (fun t k => (State.post_cores ..).trans (State.post_cores ..)) _ _) l s
  unfold State.rerunCore
  rw [State.repost_cores]
  exact (foldl_keeps _ State.cores (fun t th => foldl_keeps _ State.cores (fun t p => State.rerunOp_cores t ..) _ _) _ _).trans (hengines _)
/-- R279: the core runs, or stands halted, as before, with nothing held and its registers kept. -/
theorem State.unfreezeCore_core (s : State) (id : Nat) (halted : Bool) :
    let c := (s.unfreezeCore id halted).core id
    c.run = (if halted then .halted else .running) ∧ c.held = none ∧ c.s = (s.core id).s := by
  unfold State.unfreezeCore
  rw [State.core_of_cores (State.rerunCore_cores ..), State.core_setCore_self]
  refine ⟨rfl, rfl, ?_⟩
  split <;> rfl

/-! ### INVAL, HTSET, ATTEST (R369, R370, R379) -/

theorem runInval_starts (hc : s.chosen k = true) (hs : k.started = false) : s.runInval k = (s.startCmd k).purgeSpace (k.field 9 8 == 0xFFFF) (k.field 9 8) := by
  simp only [State.runInval, hs, hc, Bool.not_false, if_true]
theorem runInval_ends (hs : k.started = true) (ho : s.owned = []) : s.runInval k = s.finishCmd k (Failure.of 0) := by
  simp only [State.runInval, hs, ho, Bool.not_true, Bool.false_eq_true, if_false, List.any_nil]
/-- A station forgets the pages of a space, or of all. -/
theorem State.purgeSpace_entries {sp : Nat} {p : Nat × Station} (hp : p ∈ (s.purgeSpace (sp == 0xFFFF) sp).stations) : ∀ e ∈ p.2.entries, sp ≠ 0xFFFF ∧ e.space ≠ sp := by
  obtain ⟨x, _, rfl⟩ := List.mem_map.mp hp
  intro e he
  simpa [not_or] using (List.mem_filter.mp he).2

theorem runHtset_binds (hc : s.chosen k = true) (hslot : k.field 11 10 ≤ 511) (hn : k.field 13 12 + k.field 15 14 ≤ 4096) (hlo : s.hasMemory (k.field 23 16) = true)
    (hhi : s.hasMemory (k.field 23 16 + 16 * k.field 15 14 - 1) = true) (ho : s.owned = []) :
    s.runHtset k = ({ s.startCmd k with
      mem := (s.mem.scrub (k.field 23 16) (16 * k.field 15 14)).put
        (putBytes (s.mgmt.htbase + 65536 * k.field 11 10 + 16 * k.field 13 12) (s.mem.bytes (k.field 23 16) (16 * k.field 15 14)))
      slots := kput s.slots (k.field 9 8) (k.field 11 10) } : State).finishCmd k (Failure.of 0) := by
  have hgood : ¬ (511 < k.field 11 10 ∨ 4096 < k.field 13 12 + k.field 15 14 ∨ (k.field 15 14 ≠ 0 ∧ ¬ (s.hasMemory (k.field 23 16) = true ∧
      s.hasMemory (k.field 23 16 + 16 * k.field 15 14 - 1) = true))) := by
    rintro (h | h | h)
    · omega
    · omega
    · exact h.2 ⟨hlo, hhi⟩
  have hfree (l : Nat) : (s.ownerOf l).isSome = false := by simp [State.ownerOf, ho]
  simp only [State.runHtset, hc, if_neg hgood, hfree, List.any_eq_true, Bool.not_true, Bool.false_eq_true, and_false, exists_false, if_false]
theorem find?_kput {α : Type} (l : List (Nat × α)) (a : Nat) (x : α) : (kput l a x).find? (fun e => e.1 == a) = some (a, x) := by
  induction l with
  | nil => simp [kput]
  | cons e l ih =>
    obtain ⟨i, y⟩ := e
    unfold kput
    split
    · simp
    next hlt =>
      split
      · simp
      next hne => rw [List.find?_cons_of_neg (by simp; omega), ih]

theorem Memory.byte_put_append {m : Memory} (hm : m.wf = true) (a : Nat) (xs ys : List Byte) : (∀ i (h : i < xs.length), (m.put (putBytes a (xs ++ ys))).byte (a + i) = xs[i]) ∧
    ∀ i (h : i < ys.length), (m.put (putBytes a (xs ++ ys))).byte (a + xs.length + i) = ys[i] := by
  refine ⟨fun i hi => ?_, fun i hi => ?_⟩
  · rw [Memory.byte_put_putBytes _ _ _ _ hm (by rw [List.length_append]; omega), List.getElem_append_left hi]
  · rw [Nat.add_assoc, Memory.byte_put_putBytes _ _ _ _ hm (by rw [List.length_append]; omega)]
    simp

theorem runAttest_writes (hc : s.chosen k = true) : s.runAttest k =
    ({ s.startCmd k with mem := s.mem.put (putBytes (hostKey (k.field 47 40))
        (s.report256 (k.field 39 8) ++ edSign (bytesOf 57 Config.deviceKey) (s.report256 (k.field 39 8)))) } : State).finishCmd k (Failure.of 0) := by
  simp only [State.runAttest, hc, Bool.not_true, Bool.false_eq_true, if_false]

end

end Sys2Proof.Machine
end

section
/-! The other host commands settled (O47). -/
namespace Sys2Proof.Proofs
open Sys2Proof Sys2Proof.Machine Sys2Proof.Claims

section
variable {s : State} {k : HostCmd} (hat : At s (.num k.uid)) (hk : s.hostCmd k.uid = some k)
include hat hk

theorem cmdCopy_starts (hc : s.chosen k = true) (hs : k.started = false) (hl : k.field 31 24 ≤ 2 ^ 40) : leadsTo .cmdCopy s fun u => u.mem = s.mem ∧
    (u.hostCmd k.uid).map (fun x => (x.started, x.off, x.behind)) = some (true, k.off, s.copiesAhead) := by
  refine ⟨_, (onCommand_eq hat hk).trans (congrArg _ (runCopy_starts hc hs hl)), rfl, ?_⟩
  exact congrArg (Option.map _) (State.hostCmd_putHostCmd (s := s) (k := k) (x := { k with behind := s.copiesAhead, started := true }) rfl hk)
theorem cmdCopy_moves (hs : k.started = true) (hw : k.off = 0 → s.writersCopy k = false ∧ s.writersDirty = []) (hl : k.off < k.field 31 24) {a d n src dst : Nat}
    (ha : a = k.field 15 8 + k.off) (hd : d = k.field 23 16 + k.off) (hn : n = min (k.field 31 24 - k.off) (min (64 - a % 64) (64 - d % 64)))
    (hsrc : src = 2 ^ 47 + a % 2 ^ 63) (hdst : dst = 2 ^ 47 + d % 2 ^ 63) (ha63 : a / 2 ^ 63 % 2 = 1) (hd63 : d / 2 ^ 63 % 2 = 1)
    (hgood : s.mem.devError src n (decide (n < 64)) = (0, 0)) (hm : s.mem.wf = true) :
    leadsTo .cmdCopy s fun u => (∀ i, i < n → u.mem.byte (dst + i) = s.mem.byte (src + i)) ∧ (∀ z, z < dst ∨ dst + n ≤ z → u.mem.byte z = s.mem.byte z) ∧
      u.hostCmd k.uid = some { k with off := k.off + n } := by
  subst ha hd hsrc hdst
  obtain ⟨t, ht, hcmds, hmem⟩ := State.copyPiece_host _ ha63 hd63 hgood
  refine ⟨_, (onCommand_eq hat hk).trans (congrArg _ (runCopy_goes hs hw (by omega) hn ht)), fun i hi => ?bytes, fun z hz => ?rest, ?command⟩
  case command =>
    have hput := State.hostCmd_putHostCmd (s := t.forget (.cmdCopy, .num k.uid)) (k := k) (x := { k with off := k.off + n }) rfl
      (show List.find? _ t.cmds = some k by rw [hcmds]; exact hk)
    rw [State.hostCmd] at hput ⊢
    rwa [State.postEv, State.post_cmds]
  all_goals
    rw [State.postEv, State.post_mem, State.putHostCmd_mem]
    change t.mem.byte _ = _
    rw [hmem]
  · rw [Memory.byte_put_putBytes _ _ _ _ (Memory.wf_scrubRead _ _ _ _ hm) (by rwa [Memory.length_bytes]), Memory.getElem_bytes]
  · exact Memory.byte_put_outside _ (Memory.wf_scrubRead _ _ _ _ hm) (by rwa [Memory.length_bytes])

theorem cmdPartition_refused (hc : s.chosen k = true) (hs : k.started = false) (hb : badPartition (k.field 15 8) = true) :
    leadsTo .cmdPartition s fun u => u.stkN = s.stkN ∧ u.stkBusy = s.stkBusy ∧ u.sequence = s.sequence ∧ u.cores = s.cores ∧ ∃ v : State, u = v.finishCmd k (Failure.of 1) := by
  refine ⟨_, (onCommand_eq hat hk).trans (congrArg _ (runPartition_bad hc hs hb)), ?_, ?_, ?_, ?_, _, rfl⟩
  · rw [unreported_stkN.finishCmd, unreported_stkN.event]; rfl
  · rw [unreported_stkBusy.finishCmd, unreported_stkBusy.event]; rfl
  · rw [unreported_sequence.finishCmd, unreported_sequence.event]; rfl
  · rw [unreported_cores.finishCmd, unreported_cores.event]; rfl
theorem cmdPartition_succeeds {q : Sequence} (hs : k.started = true) (hq : s.sequence = some q) (hu : q.uid = k.uid) (h2 : q.step = 2) (hn : q.new ≤ s.stkN) (ho : s.owned = []) :
    leadsTo .cmdPartition s fun u => u.stkN = q.new ∧ u.stkBusy = false ∧ u.sequence = none :=
  ⟨_, (onCommand_eq hat hk).trans (congrArg _ ((runPartition_goes hs hq hu).trans (stepPartition_changes h2 hn ho))), partitionDone_succeeds ..⟩
theorem cmdCheckpoint_writes {q : Sequence} (hs : k.started = true) (hq : s.sequence = some q) (hu : q.uid = k.uid) (h2 : q.step = 2) (hb : s.quiet = true) :
    leadsTo .cmdCheckpoint s fun u => u.sequence = none ∧ u.cores = s.cores :=
  ⟨_, (onCommand_eq hat hk).trans (congrArg _ ((runCheckpoint_goes hs hq hu).trans (stepCheckpoint_writes h2 hb))), writeCheckpoint_ends s k q⟩

theorem cmdFreezeClear_core {id : Nat} {v : Violation} {hd : Bool} (hc : s.chosen k = true) (hz : k.field 15 12 = 0) (hm : k.field 23 16 = 0)
    (hn : (s.startCmd k).frozenBy (k.field 11 8) = some (.core id v hd)) (hv : v.kind ≠ 4) : leadsTo .cmdFreezeClear s fun u =>
      (u.core id).run = (if hd then .halted else .running) ∧ (u.core id).held = none ∧ (u.core id).s = (s.core id).s ∧ u.cmds.find? (fun x => x.uid == k.uid) = none := by
  obtain ⟨hrun, hheld, hregs⟩ := (s.startCmd k).unfreezeCore_core id hd
  refine ⟨_, (onCommand_eq hat hk).trans (congrArg _ (runFreezeClear_core hc hz hm hn hv)), ?_⟩
  have hcore := State.core_of_cores (unreported_cores.finishCmd ((s.startCmd k).unfreezeCore id hd) k (Failure.of 0)) id
  dsimp only
  rw [hcore]
  exact ⟨hrun, hheld, hregs, State.finishCmd_gone ..⟩

theorem cmdHtset_binds {dst : Nat} (hdst : dst = s.mgmt.htbase + 65536 * k.field 11 10 + 16 * k.field 13 12) (hc : s.chosen k = true) (hslot : k.field 11 10 ≤ 511)
    (hn : k.field 13 12 + k.field 15 14 ≤ 4096) (hlo : s.hasMemory (k.field 23 16) = true) (hhi : s.hasMemory (k.field 23 16 + 16 * k.field 15 14 - 1) = true) (ho : s.owned = [])
    (hm : s.mem.wf = true) : leadsTo .cmdHtset s fun u => ∃ v : State, u = v.finishCmd k (Failure.of 0) ∧
      (∀ i, i < 16 * k.field 15 14 → v.mem.byte (dst + i) = s.mem.byte (k.field 23 16 + i)) ∧ (∀ z, z < dst ∨ dst + 16 * k.field 15 14 ≤ z → v.mem.byte z = s.mem.byte z) ∧
      (v.slots.find? fun x => x.1 == k.field 9 8) = some (k.field 9 8, k.field 11 10) := by
  have hscrub : (s.mem.scrub (k.field 23 16) (16 * k.field 15 14)).wf = true := Memory.wf_scrub _ _ _ hm
  refine ⟨_, (onCommand_eq hat hk).trans (congrArg _ (runHtset_binds hc hslot hn hlo hhi ho)), _, rfl, fun i hi => ?_, fun z hz => ?_, find?_kput ..⟩
  · dsimp only
    rw [hdst, Memory.byte_put_putBytes _ _ _ _ hscrub (by rwa [Memory.length_bytes]), Memory.getElem_bytes]
  · exact Memory.byte_put_outside _ hscrub (by rwa [Memory.length_bytes, ← hdst])

theorem cmdAttest_writes (hc : s.chosen k = true) (hm : s.mem.wf = true) : leadsTo .cmdAttest s fun u => ∃ v : State, u = v.finishCmd k (Failure.of 0) ∧ let rep := s.report256 (k.field 39 8)
      let sig := edSign (bytesOf 57 Config.deviceKey) rep
      (∀ i (h : i < rep.length), v.mem.byte (2 ^ 47 + k.field 47 40 + i) = rep[i]) ∧ ∀ i (h : i < sig.length), v.mem.byte (2 ^ 47 + k.field 47 40 + rep.length + i) = sig[i] := by
  have hkey : hostKey (k.field 47 40) = 2 ^ 47 + k.field 47 40 := by
    have hlt : k.field 47 40 < 2 ^ 64 := Nat.mod_lt _ (by decide)
    simp only [hostKey]
    omega
  refine ⟨_, (onCommand_eq hat hk).trans (congrArg _ (runAttest_writes hc)), _, rfl, ?_⟩
  dsimp only
  rw [hkey]
  exact Memory.byte_put_append hm _ _ _

end

/-- Settles O47: for each clause, the branch that its command takes, and what that branch leaves. -/
theorem hostCommands : Obligations.HostCommands := by
  intro s k hat hk
  have hrun {i : Instr} {f : State → HostCmd → State} {u : State} (h : f s k = u) : onCommand i f s = .next u := (onCommand_eq hat hk).trans (congrArg _ h)
  have hpf (h : (s.queue k.q).fn = 0) : ownsToken (s.queue k.q).fn k.token = true := by rw [h, ownsToken_pf]
  have htok : k.token = k.field 15 8 % 2 ^ 12 := k.token_eq
  have hvf (h : (s.queue k.q).fn ≠ 0) : ownsToken (s.queue k.q).fn k.token = true ↔ Config.tokenFn (k.field 15 8 % 2 ^ 12) = (s.queue k.q).fn := htok ▸ ownsToken_vf h
  intro st fn field tok goes t written
  refine ⟨fun hs hd => ?raises, fun hg h0 => hrun (runSignal_starts hg.1 hg.2 (hpf h0)), fun hg h0 hno => ?violates, fun hg h0 hown => ?owned,
    fun hg h0 => hrun (runWait_ends hg.1 (hpf h0)), fun hg hl => cmdCopy_starts hat hk hg.1 hg.2 hl, fun hg hl => hrun (runCopy_tooLong hg.1 hg.2 hl),
    fun hs ho hw => hrun (runCopy_waits hs ho hw), fun hs hw hl => hrun (runCopy_ends hs hw hl), ?moves, fun hg hb => cmdPartition_refused hat hk hg.1 hg.2 hb,
    fun hg hb hn => hrun (runPartition_same hg.1 hg.2 hb hn), fun hg hb hn => ?begins, fun q hs hq hu h2 hn ho => cmdPartition_succeeds hat hk hs hq hu h2 hn ho,
    fun q hs hq hu h1 hd hr => hrun ((runCheckpoint_goes hs hq hu).trans (stepCheckpoint_drained h1 hd hr)), fun hg h5 h32 => ?checkpoint,
    fun q hs hq hu h2 _ hb => hrun ((runCheckpoint_goes hs hq hu).trans (stepCheckpoint_busy h2 hb)), fun q hs hq hu h2 _ hb => cmdCheckpoint_writes hat hk hs hq hu h2 hb,
    fun hg hz hm hn => hrun (runFreezeClear_unknown hg.1 hz hm hn), fun id v hd hg hz hm hn hv => cmdFreezeClear_core hat hk hg.1 hz hm hn hv, fun hg => ?inval,
    fun hs ho => hrun (runInval_ends hs ho), fun hg hslot hn _ hlo hhi ho hm => cmdHtset_binds hat hk rfl hg.1 hslot hn hlo hhi ho hm, fun hg hm => cmdAttest_writes hat hk hg.1 hm⟩
  case raises =>
    have hraise := runSignal_raises hs hd
    rw [htok] at hraise
    exact hrun hraise
  case violates =>
    have hnot : ownsToken (s.queue k.q).fn k.token = false := Bool.eq_false_iff.mpr fun h => hno ((hvf h0).mp h)
    have hsame : s.tokenViolation k = (t.freezeFn fn tok).finishCmd k (st 1) := by rw [State.tokenViolation, htok]; rfl
    exact ⟨hrun ((runSignal_violates hg.1 hg.2 hnot).trans hsame), hrun ((runWait_violates hg.1 hnot).trans hsame)⟩
  case owned =>
    have howns : ownsToken (s.queue k.q).fn k.token = true := (hvf h0).mpr hown
    exact ⟨hrun (runSignal_starts hg.1 hg.2 howns), hrun (runWait_ends hg.1 howns)⟩
  case moves =>
    intro a d n src dst hs hw hl ha hd hgood hm
    exact cmdCopy_moves hat hk hs hw hl rfl rfl rfl rfl rfl ha hd hgood hm
  case begins => exact ⟨_, hrun (runPartition_begins hg.1 hg.2 hb hn), rfl, rfl, _, rfl, rfl, bits_low _ 3, rfl⟩
  case checkpoint => exact ⟨_, hrun (runCheckpoint_begins hg.1 hg.2 h5 h32), rfl, _, rfl, rfl, rfl, rfl⟩
  case inval => exact ⟨_, hrun (runInval_starts hg.1 hg.2), rfl, fun p hp => State.purgeSpace_entries hp⟩

end Sys2Proof.Proofs
end

section
/-! What the steps of a launch leave of the launches and the cores (R291, R359 to R366). -/
namespace Sys2Proof.Machine

/-! ### Placement -/

theorem State.cpScrub_launches (s : State) (reqs : List TransReq) : (s.cpScrub reqs).launches = s.launches := by
  unfold State.cpScrub
  split
  · rfl
  · refine foldl_keeps _ State.launches (fun t q => ?_) _ _
    dsimp only
    split <;> rfl
theorem State.cpScrub_cmds (s : State) (reqs : List TransReq) : (s.cpScrub reqs).cmds = s.cmds := by
  unfold State.cpScrub
  split
  · rfl
  · refine foldl_keeps _ State.cmds (fun t q => ?_) _ _
    dsimp only
    split <;> rfl
theorem State.noteBuffers_launches (s : State) (r lid : Nat) (cores : List Nat) : (s.noteBuffers r lid cores).launches = s.launches := by
  refine foldl_keeps _ State.launches (fun t j => ?_) _ _
  dsimp only
  split
  · rfl
  · split <;> rfl
theorem State.fixTables_launches (s : State) (l : Launch) (t : LaunchTables) : (s.fixTables l t).launches = s.launches := by
  have hroutes (xs : List FabricEnd) : (xs.foldl (fun (s : State) x => if s.ownRoute x then s.fixRoute (epRoute x.word) l.id else s) s).launches = s.launches := by
    refine foldl_keeps _ State.launches (fun s x => ?_) _ _
    split <;> rfl
  unfold State.fixTables
  dsimp only
  split
  · split
    · exact hroutes _
    · exact hroutes _
  · exact hroutes _

/-- The launch that a record makes at its placement. -/
structure PlacedAs (l : Launch) (uid : Nat) (graph : Option (Nat × Nat)) (r : Nat) (c : Rect) (tag : Nat) : Prop where
  phase : l.phase = .placing
  cores : l.cores = c.cores
  uid : l.uid = uid
  graph : l.graph = graph
  ctag : l.ctag = tag
  started : l.started = false
  space : l.space = recSpace r
  tenant : l.tenant = recTenant r
  tinkers : l.tinkers = recTinkers r
/-- R364: a launch that is placed comes last. -/
theorem State.place_launches (s : State) (uid : Nat) (graph : Option (Nat × Nat)) (q : Queue) (r : Nat) (c : Rect) (t : LaunchTables) (tag : Nat) :
    ∃ l, (s.place uid graph q r c t tag).launches = s.launches ++ [l] ∧ PlacedAs l uid graph r c tag := by
  unfold State.place
  dsimp only
  refine ⟨?launch, (foldl_keeps _ State.launches (fun _ _ => State.updCore_launches ..) _ _).trans ((State.fixTables_launches ..).trans ((State.noteBuffers_launches ..).trans ?launches)), ?placed⟩
  case launches => exact congrArg (· ++ [_]) (State.cpScrub_launches ..)
  case placed => exact ⟨rfl, rfl, rfl, rfl, rfl, rfl, rfl, rfl, rfl⟩

/-! ### Graphs (R367) -/

theorem State.graphOn_launches (s : State) (g : Graph) : (s.graphOn g).launches = s.launches := by
  unfold State.graphOn
  split
  · rfl
  · dsimp only
    split
    · exact unreported_launches.finishCmd ..
    · split
      · exact unreported_launches.finishCmd ..
      · exact foldl_keeps _ State.launches (fun _ _ => State.post_launches ..) _ _
theorem State.nodeIs_launches (s : State) (uid n x : Nat) : (s.nodeIs uid n x).launches = s.launches := by
  unfold State.nodeIs
  split
  · rfl
  · exact State.graphOn_launches ..

/-! ### Peers (R291) -/

/-- A core but for its channel endpoints. -/
def Core.bare (c : Core) : Core := { c with endpoints := Core.reset.endpoints }

section
variable {s t : State} (h : Retains Core.bare s t)
include h

theorem Retains.setPeer {core ch : Nat} {p : Option (Nat × Nat)} : Retains Core.bare s (t.setPeer core ch p) := h.updCore fun _ => rfl
theorem Retains.postEach {i : Instr} {a : EvArg} : Retains Core.bare s (t.postEach i a) := h.trans (.of_cores rfl rfl)
theorem Retains.unpost {i : Instr} {a : EvArg} : Retains Core.bare s (t.unpost i a) := h.trans (.of_cores rfl rfl)

end

theorem Retains.setPeers (s : State) (l : Launch) : Retains Core.bare s (s.setPeers l) := by
  refine .foldl fun t c => .foldl fun t ch => ?_
  dsimp only
  refine .ite (.refl t) ?_
  split
  · exact .setPeer (.refl t)
  · refine .ite (.refl t) ?_
    split
    · exact .setPeer (.setPeer (.refl t))
    · exact .refl t
  · exact .setPeer (.refl t)
theorem Retains.pair (s : State) (a b : Launch × Nat × Nat × Nat) : Retains Core.bare s (s.pair a b) := by
  unfold State.pair
  dsimp only
  have hpeers : Retains Core.bare s ((s.setPeer a.2.1 a.2.2.1 (some (portName b.1 b.2.1, b.2.2.1))).setPeer b.2.1 b.2.2.1 (some (portName a.1 a.2.1, a.2.2.1))) :=
    .setPeer (.setPeer (.refl s))
  exact .ite (.ite hpeers (.postEach hpeers)) (.ite hpeers (.postEach hpeers))
theorem Retains.pairAll (n : Nat) (s : State) : Retains Core.bare s (s.pairAll n) := by
  induction n generalizing s with
  | zero => exact .refl s
  | succ n ih =>
    unfold State.pairAll
    dsimp only
    split
    · exact (Retains.pair ..).trans (ih _)
    · exact .refl s
theorem Retains.rendezvous (s : State) : Retains Core.bare s s.rendezvous := .pairAll _ s

/-- A core whose peers of a launch become unpaired. -/
def Core.unpaired (l : Launch) (c : Core) : Core := { c with endpoints := c.endpoints.map (unpairFrom l) }
theorem Retains.unpair (s : State) (l : Launch) : Retains Core.bare s (s.unpair l) where
  launches := rfl
  core j := sget_map_keeps Core.bare (fun _ c => c.unpaired l) (fun _ _ => rfl) Core.reset s.cores j

/-! ### Retirement (R366, R73) -/

/-- A core as a launch gives it back: code memory is not cleared. -/
def Core.cleared (c : Core) : Core := { Core.reset with code := c.code, codeKey := c.codeKey }
theorem Core.cleared_cleared (c : Core) : c.cleared.cleared = c.cleared := rfl
theorem State.core_clearCore (s : State) (id j : Nat) : (s.clearCore id).core j = if j = id then (s.core j).cleared else s.core j := by
  unfold State.clearCore
  split
  next h =>
    subst h
    exact State.core_setCore_self ..
  next h => exact State.core_setCore_other _ _ _ _ h
theorem State.core_clearCores (l : List Nat) (s : State) (j : Nat) : (l.foldl State.clearCore s).core j = if j ∈ l then (s.core j).cleared else s.core j := by
  induction l generalizing s with
  | nil => simp
  | cons id l ih =>
    rw [List.foldl_cons, ih, State.core_clearCore]
    by_cases hid : j = id
    · simp [hid, Core.cleared_cleared]
    · simp [hid]
theorem State.clearCores_launches (l : List Nat) (s : State) : (l.foldl State.clearCore s).launches = s.launches := foldl_keeps State.clearCore State.launches (fun _ _ => rfl) l s

theorem Retains.emptyRoutes (s : State) (hs : List Nat) : Retains Core.bare s (s.emptyRoutes hs) := .foldl fun t _ => .updRoute (.refl t)
theorem Retains.freeContext (s : State) (ctag : Nat) : Retains Core.bare s (s.freeContext ctag) := .of_cores rfl rfl

/-- R366: of a launch that leaves, no launch is left, and its cores are cleared. -/
theorem State.leave_clears {s : State} {l : Launch} (hg : l.groupSlot = none) (hp : l.phase ≠ .saved) (hl : s.launches = [l]) :
    (s.leave l).launches = [] ∧ ∀ c ∈ l.cores, ((s.leave l).core c).bare = (s.core c).cleared.bare := by
  have hkeep : Retains Core.bare (l.cores.foldl State.clearCore s) ((((l.cores.foldl State.clearCore s).unpair l).emptyRoutes (s.launchRoutes l)).freeContext l.ctag) :=
    (Retains.unpair ..).trans ((Retains.emptyRoutes ..).trans (Retains.freeContext ..))
  unfold State.leave
  rw [if_neg hp, hg]
  dsimp only
  refine ⟨(Retains.rendezvous _).launches.trans ?_, fun c hc => ((Retains.rendezvous _).core c).trans ((hkeep.core c).trans ?_)⟩
  · dsimp only
    rw [hkeep.launches, State.clearCores_launches, hl]
    simp
  · rw [State.core_clearCores, if_pos hc]

theorem State.launchDone_launches (s : State) (l : Launch) (f : Failure) : (s.launchDone l f).launches = s.launches := by
  unfold State.launchDone
  split
  · exact State.nodeIs_launches ..
  · split
    · exact unreported_launches.finishCmd ..
    · rfl
theorem State.launchDone_cores {s : State} {l : Launch} (f : Failure) (hg : l.graph = none) : (s.launchDone l f).cores = s.cores := by
  unfold State.launchDone
  rw [hg]
  dsimp only
  split
  · exact unreported_cores.finishCmd ..
  · rfl

/-! ### The broadcast and the release (R361, R363) -/

/-- The launch values of a core, as far as they do not hang on its place. -/
structure Launched (l : Launch) (rank : Nat) (c : Core) : Prop where
  run : c.run = .running
  pc : c.pc = 0
  launch : c.launch = l.id
  s : ∀ r : SReg, c.s[r] = 0
  v : ∀ r : VReg, c.v[r] = 0
  m : ∀ r : MReg, c.m[r] = BitVec.allOnes 128
  p : ∀ r : Pred, c.p[r] = (r == 0)
  fpctl : c.sp.fpctl = 0
  fpstat : c.sp.fpstat = 0
  clk : c.sp.clk = 0
  handler : c.sp.handler = false
  preen : c.sp.preen = l.preen
  compat : c.sp.compat = l.l4
  scalel : c.sp.scalel = 0x7F00
  srseed : c.sp.srseed = 0x2545F491
  rank : c.sp.rank.toNat = (rank + 2 ^ 16 * (l.width * l.height)) % 2 ^ 64
theorem State.coreFor_launched (s : State) (l : Launch) (shape rank core : Nat) (handles : List (Nat × Handle)) : Launched l rank (s.coreFor l shape rank core handles) where
  run := rfl
  pc := rfl
  launch := rfl
  s _ := getElem_replicate_fin ..
  v _ := getElem_replicate_fin ..
  m _ := getElem_replicate_fin ..
  p r := Core.p_reset r
  fpctl := rfl
  fpstat := rfl
  clk := rfl
  handler := rfl
  preen := rfl
  compat := rfl
  scalel := rfl
  srseed := rfl
  rank := BitVec.toNat_ofNat ..
theorem Launched.of_bare {l : Launch} {rank : Nat} {c d : Core} (h : Launched l rank c) (hb : d.bare = c.bare) : Launched l rank d := by
  have hsp : d.sp = c.sp := (congrArg Core.sp hb : d.bare.sp = c.bare.sp)
  exact
  { run := (congrArg Core.run hb).trans h.run
    pc := (congrArg Core.pc hb).trans h.pc
    launch := (congrArg Core.launch hb).trans h.launch
    s := fun r => (congrArg (fun x : Core => x.s[r]) hb).trans (h.s r)
    v := fun r => (congrArg (fun x : Core => x.v[r]) hb).trans (h.v r)
    m := fun r => (congrArg (fun x : Core => x.m[r]) hb).trans (h.m r)
    p := fun r => (congrArg (fun x : Core => x.p[r]) hb).trans (h.p r)
    fpctl := hsp ▸ h.fpctl
    fpstat := hsp ▸ h.fpstat
    clk := hsp ▸ h.clk
    handler := hsp ▸ h.handler
    preen := hsp ▸ h.preen
    compat := hsp ▸ h.compat
    scalel := hsp ▸ h.scalel
    srseed := hsp ▸ h.srseed
    rank := hsp ▸ h.rank }

/-- One core's part of the broadcast: the shape record at the head of its scratchpad, and its launch values. -/
def State.handOut (l : Launch) (shape : Nat) (handles : List (Nat × Handle)) (s : State) (x : Nat × Nat) : State :=
  ({ s with mem := s.mem.put (putBytes (spadKey x.1 0) (bytesOf 256 shape)) } : State).setCore x.1 (s.coreFor l shape x.2 x.1 handles)
/-- The state that the broadcast starts with: the handle table read is written back corrected. -/
def State.handlesRead (s : State) (l : Launch) : State := match s.handleTable l.body with | some a => { s with mem := s.mem.scrub a 65536 } | none => s
theorem State.broadcast_eq (s : State) (l : Launch) (shape : Nat) :
    s.broadcast l shape = (l.cores.zip (List.range l.cores.length)).foldl (State.handOut l shape ((s.handlesRead l).loadHandles l)) (s.handlesRead l) := rfl
theorem State.handlesRead_launches (s : State) (l : Launch) : (s.handlesRead l).launches = s.launches := by
  unfold State.handlesRead
  split <;> rfl
theorem State.handlesRead_canon {s : State} (l : Launch) (h : s.mem.wf = true) : (s.handlesRead l).mem.wf = true := by
  unfold State.handlesRead
  split
  · exact Memory.wf_scrub _ _ _ h
  · exact h

section
variable (l : Launch) (shape : Nat) (handles : List (Nat × Handle))

theorem State.handOut_launches (s : State) (x : Nat × Nat) : (s.handOut l shape handles x).launches = s.launches := by
  unfold State.handOut
  rw [State.setCore_launches]
theorem State.handOut_core_self (s : State) (x : Nat × Nat) : (s.handOut l shape handles x).core x.1 = s.coreFor l shape x.2 x.1 handles := by
  unfold State.handOut
  rw [State.core_setCore_self]
theorem State.handOut_core_other (s : State) {x : Nat × Nat} {id : Nat} (h : id ≠ x.1) : (s.handOut l shape handles x).core id = s.core id := by
  unfold State.handOut
  rw [State.core_setCore_other _ _ _ _ h]
  exact State.core_of_cores (by dsimp only) id
theorem State.handOut_mem (s : State) (x : Nat × Nat) : (s.handOut l shape handles x).mem = s.mem.write (spadKey x.1 0) 256 shape := by
  unfold State.handOut Memory.write
  rw [State.setCore_mem]
theorem State.handOuts_launches (xs : List (Nat × Nat)) (s : State) : (xs.foldl (State.handOut l shape handles) s).launches = s.launches :=
  foldl_keeps _ State.launches (fun _ _ => State.handOut_launches ..) xs s
theorem State.handOuts_other {id : Nat} {xs : List (Nat × Nat)} (h : ∀ x ∈ xs, x.1 ≠ id) (s : State) : (xs.foldl (State.handOut l shape handles) s).core id = s.core id := by
  induction xs generalizing s with
  | nil => rfl
  | cons x xs ih =>
    rw [List.foldl_cons, ih fun y hy => h y (List.mem_cons_of_mem _ hy)]
    exact State.handOut_core_other l shape handles s (h x (List.mem_cons_self ..)).symm
theorem State.handOuts_canon (xs : List (Nat × Nat)) {s : State} (h : s.mem.wf = true) : (xs.foldl (State.handOut l shape handles) s).mem.wf = true :=
  foldl_inv _ (fun t => t.mem.wf = true) (fun _ _ ht => by rw [State.handOut_mem]; exact Memory.wf_write _ _ _ _ ht) xs s h
theorem State.handOuts_byte {z : Nat} {xs : List (Nat × Nat)} (h : ∀ x ∈ xs, z < spadKey x.1 0 ∨ spadKey x.1 0 + 256 ≤ z) {s : State} (hs : s.mem.wf = true) :
    (xs.foldl (State.handOut l shape handles) s).mem.byte z = s.mem.byte z := by
  induction xs generalizing s with
  | nil => rfl
  | cons x xs ih =>
    have hstep := State.handOut_mem l shape handles s x
    rw [List.foldl_cons, ih (fun y hy => h y (List.mem_cons_of_mem _ hy)) (by rw [hstep]; exact Memory.wf_write _ _ _ _ hs), hstep]
    exact Memory.byte_write_outside _ hs (h x (List.mem_cons_self ..))

/-- Scratchpads of different cores are apart. -/
theorem spadKey_apart {a b : Nat} (ha : a < 2048) (hb : b < 2048) (hne : a ≠ b) : spadKey a 0 + 0x10_0000 ≤ spadKey b 0 ∨ spadKey b 0 + 0x10_0000 ≤ spadKey a 0 := by
  simp only [spadKey, sramBase, coreZ]
  omega

variable {l shape handles} {xs : List (Nat × Nat)} {s : State} (hn : (xs.map (·.1)).Nodup) {x : Nat × Nat} (hx : x ∈ xs)
include hn hx

/-- A core in a broadcast, and the cores after it. -/
theorem handOut_split : ∃ before after, xs = before ++ x :: after ∧ ∀ y ∈ after, y.1 ≠ x.1 := by
  obtain ⟨before, after, rfl⟩ := List.append_of_mem hx
  refine ⟨before, after, rfl, fun y hy hyx => ?_⟩
  rw [List.map_append, List.map_cons] at hn
  exact (List.nodup_cons.mp (List.nodup_append.mp hn).2.1).1 (hyx ▸ List.mem_map_of_mem hy)
theorem State.handOuts_core : ∃ t : State, (xs.foldl (State.handOut l shape handles) s).core x.1 = t.coreFor l shape x.2 x.1 handles := by
  obtain ⟨before, after, rfl, hafter⟩ := handOut_split hn hx
  refine ⟨before.foldl (State.handOut l shape handles) s, ?_⟩
  rw [List.foldl_append, List.foldl_cons, State.handOuts_other l shape handles hafter, State.handOut_core_self]
theorem State.handOuts_shape (hlt : ∀ y ∈ xs, y.1 < 2048) (hs : s.mem.wf = true) :
    (xs.foldl (State.handOut l shape handles) s).mem.read (spadKey x.1 0) 256 = shape % 2 ^ 2048 := by
  obtain ⟨before, after, rfl, hafter⟩ := handOut_split hn hx
  have hx2048 := hlt x hx
  have hbefore : (before.foldl (State.handOut l shape handles) s).mem.wf = true := State.handOuts_canon _ _ _ _ hs
  have hstep := State.handOut_mem l shape handles (before.foldl (State.handOut l shape handles) s) x
  have hbyte {i : Nat} (hi : i < 256) : (after.foldl (State.handOut l shape handles) ((before.foldl (State.handOut l shape handles) s).handOut l shape handles x)).mem.byte (spadKey x.1 0 + i) =
      ((before.foldl (State.handOut l shape handles) s).handOut l shape handles x).mem.byte (spadKey x.1 0 + i) := by
    refine State.handOuts_byte l shape handles (fun y hy => ?_) (by rw [hstep]; exact Memory.wf_write _ _ _ _ hbefore)
    have hapart := spadKey_apart hx2048 (hlt y (List.mem_append_right _ (List.mem_cons_of_mem _ hy))) (hafter y hy).symm
    omega
  rw [List.foldl_append, List.foldl_cons, Memory.read_congr (b := spadKey x.1 0) fun i hi => hbyte hi, hstep, Memory.read_write_same _ _ _ _ hbefore]
  exact congrArg (shape % ·) (Nat.pow_mul 2 8 256).symm

end

section
variable {s : State} {l : Launch}

theorem Launch.gang_alone (hg : l.groupSlot = none) : l.gang s = false := by rw [Launch.gang, hg]
theorem State.startOrGate_alone (resume : Bool) (hg : l.groupSlot = none) : s.startOrGate l resume = s.release l resume := by rw [State.startOrGate, hg]
/-- A launch of no group, started with no help of the firmware handler. -/
theorem State.release_alone {resume : Bool} (hg : l.groupSlot = none) (hr : (resume && !l.ownHandler) = false) :
    s.release l resume = s.setLaunch { l with phase := .running, started := true, released := s.clock, stall := 0, sliceOver := false } := by
  have hgang {m : Launch} (hm : m.groupSlot = none) {t : State} : (if m.gang t = true then t.post .sliceEnd (.launch l.id) else t) = t := by
    rw [Launch.gang_alone hm]
    rfl
  unfold State.release
  dsimp only
  rw [hr, Launch.gang_alone hg]
  rfl
theorem State.setLaunch_launches_one {m k : Launch} (hl : s.launches = [m]) (hk : m.id = k.id) : (s.setLaunch k).launches = [k] := by
  simp [State.setLaunch, hl, hk]

end

end Sys2Proof.Machine
end

section
/-! The life of a launch (R318, R359, R363, R364, R361, R366, R276, R367). -/
namespace Sys2Proof.Machine
open Sys2Proof.Claims

/-! ### Steps of a launch, by what they find -/

section
variable {s : State} {uid : Nat} {k : HostCmd} {l : Launch}

section
variable (hat : At s (.num uid)) (hk : s.hostCmd uid = some k)
include hat hk

theorem cmdLaunch_refused {n : Nat} (hn : s.launches.find? (fun l => l.uid == uid && l.graph.isNone) = none) (hs : s.standing (s.queue k.q) k.uid k.body = .refused n)
    (hc : s.chosen k = true) : exec .cmdLaunch s = .next (((s.logRefusal (s.queue k.q) k.body n).startCmd k).finishCmd k (Failure.of n)) := by
  have hcur : s.cur = .event (.num uid) := hat
  rw [exec_cmdLaunch, execCmdLaunch, hcur]
  dsimp only
  rw [hk]
  dsimp only
  rw [hn]
  dsimp only
  rw [hs]
  dsimp only
  rw [if_pos hc]
theorem cmdLaunch_fits {r : Rect} {t : LaunchTables} {tag : Nat} (hn : s.launches.find? (fun l => l.uid == uid && l.graph.isNone) = none)
    (hs : s.standing (s.queue k.q) k.uid k.body = .fits r t) (ht : s.freeCtag = some tag) (hc : s.chosen k = true) :
    exec .cmdLaunch s = .next ((s.startCmd { k with info := 0 }).place uid none (s.queue k.q) k.body r t tag) := by
  have hcur : s.cur = .event (.num uid) := hat
  rw [exec_cmdLaunch, execCmdLaunch, hcur]
  dsimp only
  rw [hk]
  dsimp only
  rw [hn]
  dsimp only
  rw [hs]
  dsimp only
  rw [ht]
  dsimp only
  rw [if_pos hc]
/-- A LAUNCH whose launch is placed waits for lines that are owned, and goes on. -/
theorem cmdLaunch_placed (hl : s.launches.find? (fun l => l.uid == uid && l.graph.isNone) = some l) (hp : l.phase = .placing) :
    exec .cmdLaunch s = if s.launchBusy l.body then .next s else .next (s.deliver l fun s => s.unpost .cmdLaunch (.num uid)) := by
  have hcur : s.cur = .event (.num uid) := hat
  rw [exec_cmdLaunch, execCmdLaunch, hcur]
  dsimp only
  rw [hk]
  dsimp only
  rw [hl]
  dsimp only
  rw [if_neg (not_not.mpr hp)]

end

/-! ### Graphs (R367) -/

theorem runGraph_starts {g : Graph} (hc : s.chosen k = true) (hs : k.started = false) (hg : s.graphRecord (s.queue k.q) k.uid (k.field 15 8) = some g) :
    s.runGraph k = (({ (s.cpScrub (s.graphReqs (s.queue k.q) (k.field 15 8))).startCmd k with graphs := s.graphs ++ [g] } : State).unpost .cmdGraph (.num k.uid)).graphOn g := by
  simp only [State.runGraph, hs, hc, hg, Bool.not_true, Bool.false_eq_true, if_false]
theorem runGraph_refused (hc : s.chosen k = true) (hs : k.started = false) (hg : s.graphRecord (s.queue k.q) k.uid (k.field 15 8) = none) :
    s.runGraph k = ((s.logGraph (s.queue k.q) (k.field 15 8)).startCmd k).finishCmd k (Failure.of 1) := by
  simp only [State.runGraph, hs, hc, hg, Bool.not_true, Bool.false_eq_true, if_false]
/-- The graph of a record has nodes, none of which has started. -/
theorem State.graphRecord_fresh {q : Queue} {uid addr : Nat} {g : Graph} (hg : s.graphRecord q uid addr = some g) : g.uid = uid ∧ ∃ n, n ≠ 0 ∧ g.nodes = List.replicate n 0 := by
  unfold State.graphRecord at hg
  split at hg
  · cases hg
  · split at hg
    · cases hg
    · dsimp only at hg
      split at hg
      · cases hg
      next hgood =>
        cases hg
        exact ⟨rfl, _, fun h0 => hgood (.inr (.inl h0)), rfl⟩
theorem Graph.ready_first {g : Graph} {m n : Nat} (hm : g.nodes = List.replicate m 0) (hn : n < g.nodes.length) (hp : g.preds.getD n 0 = 0) : g.ready n = true := by
  have hnode : g.nodes.getD n 9 = 0 := by
    rw [hm, List.length_replicate] at hn
    simp [hm, List.getD_eq_getElem?_getD, hn]
  simp only [Graph.ready, hnode, hp, bits, Nat.zero_div, Nat.zero_mod, beq_self_eq_true, Bool.true_or, Bool.true_and, List.all_eq_true, implies_true]
theorem State.foldl_post_mem {α : Type} (f : α → EvArg) (i : Instr) (l : List α) {x : α} (hx : x ∈ l) (s : State) : (i, f x) ∈ (l.foldl (fun (s : State) y => s.post i (f y)) s).pending := by
  induction l generalizing s with
  | nil => cases hx
  | cons y l ih =>
    cases List.mem_cons.mp hx with
    | inl h =>
      subst h
      exact foldl_inv _ (fun t : State => (i, f x) ∈ t.pending) (fun t y ht => State.pending_post_of_mem _ _ ht) l _ (State.mem_pending_post ..)
    | inr h => exact ih h _
/-- A graph whose command stands, with nodes that have not started: each that is ready starts. -/
theorem State.graphOn_starts {g : Graph} {m n : Nat} (hk : s.hostCmd g.uid = some k) (hm0 : m ≠ 0) (hm : g.nodes = List.replicate m 0) (hn : n < g.nodes.length) (hr : g.ready n = true) :
    (.graphNodeStart, .node g.uid n) ∈ (s.graphOn g).pending := by
  have hall : (g.nodes.all fun x => x == 2) = false := by simp [hm, List.all_replicate, hm0]
  have hfail : (g.nodes.contains 3 && !g.nodes.contains 1 && ((List.range g.nodes.length).filter g.ready).isEmpty) = false := by simp [hm]
  unfold State.graphOn
  rw [hk]
  dsimp only
  rw [hall, hfail]
  exact State.foldl_post_mem (fun i => .node g.uid i) .graphNodeStart _ (List.mem_filter.mpr ⟨List.mem_range.mpr hn, hr⟩) s

section
variable {n : Nat} {g : Graph} (hat : At s (.node uid n)) (hg : s.graphOf uid = some g) (hk : s.hostCmd uid = some k)
  (hn : s.launches.find? (fun l => l.graph == some (uid, n)) = none) (hr : g.ready n = true)
include hat hg hk hn hr

/-- A node that can start, whose lines are owned, waits. -/
theorem graphNodeStart_busy (hgood : s.recordBad (s.queue k.q) (g.bodies.getD n 0) = false) (hb : s.launchBusy (g.bodies.getD n 0) = true) : exec .graphNodeStart s = .next s := by
  have hcur : s.cur = .event (.node uid n) := hat
  rw [exec_graphNodeStart, execGraphNodeStart, hcur]
  dsimp only
  rw [hg, hk]
  dsimp only
  rw [hn]
  dsimp only
  rw [hr, hgood, hb, Bool.not_true, if_neg Bool.false_ne_true, Bool.not_false, Bool.true_and, if_pos rfl]
theorem graphNodeStart_fits {r : Rect} {t : LaunchTables} {tag : Nat} (hb : s.launchBusy (g.bodies.getD n 0) = false)
    (hs : s.standing (s.queue k.q) k.uid (g.bodies.getD n 0) = .fits r t) (ht : s.freeCtag = some tag) : exec .graphNodeStart s =
      .next (((s.putHostCmd { k with info := 0 }).nodeIs uid n 1).place uid (some (uid, n)) (s.queue k.q) (g.bodies.getD n 0) r t tag) := by
  have hcur : s.cur = .event (.node uid n) := hat
  rw [exec_graphNodeStart, execGraphNodeStart, hcur]
  dsimp only
  rw [hg, hk]
  dsimp only
  rw [hn]
  dsimp only
  rw [hr, hb, Bool.not_true, if_neg Bool.false_ne_true, Bool.and_false, if_neg Bool.false_ne_true, hs]
  dsimp only
  rw [ht]

end

/-! ### Delivery, resumption, retirement -/

/-- Steps 4 and 5 for a launch whose tables read and whose peers resolve. -/
theorem State.deliver_resolved {t : LaunchTables} {done : State → State} (ht : s.launchTables l.body = some t) (hr : s.resolves l = true) :
    s.deliver l done = done ((((s.setPeers l).broadcast l t.shape).startOrGate l false).rendezvous) := by
  unfold State.deliver
  rw [ht]
  dsimp only
  rw [if_pos hr]


/-- Ranks of a launch's cores. -/
theorem Launch.ranked (l : Launch) : (l.cores.zip (List.range l.cores.length)).map (·.1) = l.cores := List.map_fst_zip (by rw [List.length_range])
theorem Launch.ranked_mem {i : Nat} (h : i < l.cores.length) : (l.cores[i], i) ∈ l.cores.zip (List.range l.cores.length) :=
  List.mem_iff_getElem.mpr ⟨i, by simpa using h, by simp⟩

theorem State.broadcast_launches (s : State) (l : Launch) (shape : Nat) : (s.broadcast l shape).launches = s.launches := by
  rw [State.broadcast_eq, State.handOuts_launches, State.handlesRead_launches]
section
variable {i : Nat} (hi : i < l.cores.length) (hn : l.cores.Nodup) (shape : Nat)
include hi hn

/-- R361, R363: the broadcast gives each core its launch values, and the shape record. -/
theorem State.broadcast_launched : Launched l i ((s.broadcast l shape).core l.cores[i]) := by
  obtain ⟨t, ht⟩ := State.handOuts_core (l := l) (shape := shape) (handles := (s.handlesRead l).loadHandles l) (s := s.handlesRead l) (l.ranked.symm ▸ hn) (Launch.ranked_mem hi)
  rw [State.broadcast_eq, ht]
  exact State.coreFor_launched ..
theorem State.broadcast_shape (hlt : ∀ c ∈ l.cores, c < 2048) (hs : s.mem.wf = true) : (s.broadcast l shape).mem.read (spadKey l.cores[i] 0) 256 = shape % 2 ^ 2048 := by
  have hshape := State.handOuts_shape (l := l) (shape := shape) (handles := (s.handlesRead l).loadHandles l) (s := s.handlesRead l) (l.ranked.symm ▸ hn) (Launch.ranked_mem hi) (fun y hy => hlt _ (List.of_mem_zip hy).1) (State.handlesRead_canon l hs)
  rw [State.broadcast_eq]
  exact hshape

end

/-- One core's part of a resumption: its scratchpad is zero, and it stands at its handler. -/
def State.handBack (l : Launch) (s : State) (c : Nat) : State :=
  ({ s with mem := s.mem.zero (spadKey c 0) (spadKey c 0x10_0000) } : State).updCore c fun k => k.resumed ((l.buffers.find? fun b => b.1 == c).map (·.2) |>.getD 0)
theorem State.resume_eq (s : State) (l : Launch) : s.resume l =
    (l.cores.foldl (State.handBack l) ((s.setLaunch { l with phase := .placing }).broadcast l (natOf (s.mem.bytes (sget 0 l.buffers (l.cores.headD 0)) 256)))).startOrGate l true := rfl
/-- R276: a core at its handler, as a resumed launch starts. -/
structure AtHandler (c : Core) : Prop where
  run : c.run = .running
  handler : c.sp.handler = true
  pc : c.pc = 0x1_F000
  cause : c.sp.xcause = 0x0D
theorem Core.resumed_atHandler {c : Core} (h : c.run = .running) (buf : Nat) : AtHandler (c.resumed buf) := ⟨h, rfl, rfl, rfl⟩
theorem State.handBack_self (l : Launch) (s : State) (c : Nat) : ∃ buf, (s.handBack l c).core c = (s.core c).resumed buf := by
  unfold State.handBack
  rw [State.core_updCore_self]
  exact ⟨_, congrArg (Core.resumed · _) (State.core_of_cores (by dsimp only) c)⟩
theorem State.handBack_other (l : Launch) (s : State) {c j : Nat} (h : j ≠ c) : (s.handBack l c).core j = s.core j := by
  unfold State.handBack
  rw [State.core_updCore_other _ _ _ _ h]
  exact State.core_of_cores (by dsimp only) j
theorem State.handBack_keeps {p : Core → Prop} (hp : ∀ c buf, p c → p (c.resumed buf)) (l : Launch) (s : State) (c j : Nat) (h : p (s.core j)) : p ((s.handBack l c).core j) := by
  by_cases hj : j = c
  · subst hj
    obtain ⟨buf, hbuf⟩ := s.handBack_self l j
    exact hbuf ▸ hp _ _ h
  · rwa [s.handBack_other l hj]
theorem State.handBacks_atHandler (l : Launch) {cs : List Nat} {j : Nat} (hj : j ∈ cs) {s : State} (hr : (s.core j).run = .running) : AtHandler ((cs.foldl (State.handBack l) s).core j) := by
  obtain ⟨before, after, rfl⟩ := List.append_of_mem hj
  rw [List.foldl_append, List.foldl_cons]
  have hbefore : ((before.foldl (State.handBack l) s).core j).run = .running :=
    foldl_inv _ (fun t : State => (t.core j).run = .running) (fun t c ht => t.handBack_keeps (p := fun c => c.run = .running) (fun _ _ h => h) l c j ht) before s hr
  obtain ⟨buf, hbuf⟩ := (before.foldl (State.handBack l) s).handBack_self l j
  exact foldl_inv _ (fun t : State => AtHandler (t.core j)) (fun t c ht => t.handBack_keeps (fun _ _ h => Core.resumed_atHandler h.run _) l c j ht) after _
    (hbuf ▸ Core.resumed_atHandler hbefore buf)
theorem State.handBacks_launches (l : Launch) (cs : List Nat) (s : State) : (cs.foldl (State.handBack l) s).launches = s.launches := by
  refine foldl_keeps _ State.launches (fun t c => ?_) cs s
  unfold State.handBack
  rw [State.updCore_launches]

/-- A saved launch that can go on, with none before it. -/
theorem launchResume_goes (hat : At s (.launch l.id)) (hl : s.launches = [l]) (hp : l.phase = .saved) (hc : s.canResume l = true) :
    exec .launchResume s = .next ((s.unpost .launchResume (.launch l.id)).resume l) := by
  have hcur : s.cur = .event (.launch l.id) := hat
  have hfind : s.launches.find? (fun k => k.id == l.id) = some l := by simp [hl]
  have hfirst : (s.launches.takeWhile fun k => k.id != l.id).any s.canResume = false := by simp [hl]
  rw [exec_launchResume, execLaunchResume, hcur]
  dsimp only
  rw [hfind]
  dsimp only
  rw [if_neg (not_not.mpr hp), hfirst, if_neg Bool.false_ne_true, if_pos hc]

theorem launchRetire_retires (hat : At s (.launch l.id)) (hl : s.launches = [l]) (hp : l.phase = .retiring) : exec .launchRetire s = .next (s.retire l) := by
  have hcur : s.cur = .event (.launch l.id) := hat
  have hfind : s.launches.find? (fun k => k.id == l.id) = some l := by simp [hl]
  rw [exec_launchRetire, execLaunchRetire, hcur]
  dsimp only
  rw [hfind]
  dsimp only
  rw [if_pos (.inl hp)]
/-- A launch of no group that has nothing under way leaves. -/
theorem State.retire_done (hg : l.groupSlot = none) (hq : ∀ c ∈ l.cores, (s.core c).outstandingCmds = [] ∧ (s.core c).dirtyLines = []) (hr : s.runsOf l.ctag = false) :
    s.retire l = ((s.unpost .launchRetire (.launch l.id)).leave l).launchDone l (s.launchEnd l) := by
  have hcopies : (l.cores.any fun c => !((s.core c).outstandingCmds.isEmpty)) = false := by
    rw [List.any_eq_false]
    intro c hc
    simp [(hq c hc).1]
  have hdirty : (l.cores.filter fun c => !(s.core c).dirtyLines.isEmpty) = [] := by
    rw [List.filter_eq_nil_iff]
    intro c hc
    simp [(hq c hc).2]
  unfold State.retire
  dsimp only
  rw [hg]
  dsimp only
  rw [hcopies, hdirty, hr, if_neg fun h => Bool.false_ne_true h.2, if_neg fun h => h.2 rfl, if_neg Bool.false_ne_true]

end
end Sys2Proof.Machine

namespace Sys2Proof.Proofs
open Sys2Proof Sys2Proof.Machine Sys2Proof.Claims

section
variable {s : State}

/-- R364: a LAUNCH that fits is placed. -/
theorem cmdLaunch_places {k : HostCmd} {r : Rect} {t : LaunchTables} {tag : Nat} (hat : At s (.num k.uid)) (hk : s.hostCmd k.uid = some k) (hc : s.chosen k = true)
    (hn : s.launches.find? (fun l => l.uid == k.uid && l.graph.isNone) = none) (hs : s.standing (s.queue k.q) k.uid k.body = .fits r t) (ht : s.freeCtag = some tag) :
    leadsTo .cmdLaunch s fun u => ∃ l, u.launches = s.launches ++ [l] ∧ l.phase = .placing ∧ l.cores = r.cores ∧ l.uid = k.uid ∧
      l.ctag = tag ∧ l.started = false ∧ l.space = k.body / 2 ^ 160 % 2 ^ 16 ∧ l.tenant = k.body / 2 ^ 176 % 2 ^ 16 ∧ l.tinkers = k.body / 2 ^ 152 % 2 ^ 7 := by
  obtain ⟨l, hl, hp⟩ := (s.startCmd { k with info := 0 }).place_launches k.uid none (s.queue k.q) k.body r t tag
  exact ⟨_, cmdLaunch_fits hat hk hn hs ht hc, l, hl, hp.phase, hp.cores, hp.uid, hp.ctag, hp.started, hp.space, hp.tenant, hp.tinkers⟩
theorem cmdGraph_starts {k : HostCmd} {g : Graph} (hat : At s (.num k.uid)) (hk : s.hostCmd k.uid = some k) (hc : s.chosen k = true) (hs : k.started = false)
    (hg : s.graphRecord (s.queue k.q) k.uid (k.field 15 8) = some g) :
    leadsTo .cmdGraph s fun u => ∀ n, n < g.nodes.length → g.preds.getD n 0 = 0 → (.graphNodeStart, .node k.uid n) ∈ u.pending := by
  obtain ⟨huid, m, hm0, hm⟩ := State.graphRecord_fresh hg
  refine ⟨_, (onCommand_eq hat hk).trans (congrArg _ (runGraph_starts hc hs hg)), fun n hn hp => ?_⟩
  rw [← huid]
  refine State.graphOn_starts (k := { k with started := true }) ?_ hm0 hm hn (Graph.ready_first hm hn hp)
  rw [huid]
  exact State.hostCmd_putHostCmd (k := k) (x := { k with started := true }) rfl ((congrArg (List.find? _) (State.cpScrub_cmds ..)).trans hk)
theorem graphNodeStart_places {uid n tag : Nat} {g : Graph} {k : HostCmd} {r : Rect} {t : LaunchTables} (hat : At s (.node uid n)) (hg : s.graphOf uid = some g) (hk : s.hostCmd uid = some k)
    (hn : s.launches.find? (fun l => l.graph == some (uid, n)) = none) (hr : g.ready n = true) (hb : s.launchBusy (g.bodies.getD n 0) = false)
    (hs : s.standing (s.queue k.q) k.uid (g.bodies.getD n 0) = .fits r t) (ht : s.freeCtag = some tag) :
    leadsTo .graphNodeStart s fun u => ∃ l, u.launches = s.launches ++ [l] ∧ l.phase = .placing ∧ l.graph = some (uid, n) ∧ l.cores = r.cores := by
  obtain ⟨l, hl, hp⟩ := ((s.putHostCmd { k with info := 0 }).nodeIs uid n 1).place_launches uid (some (uid, n)) (s.queue k.q) (g.bodies.getD n 0) r t tag
  refine ⟨_, graphNodeStart_fits hat hg hk hn hr hb hs ht, l, ?_, hp.phase, hp.graph, hp.cores⟩
  rw [hl, State.nodeIs_launches, State.putHostCmd_launches]

variable {l : Launch}

/-- R361, R363: the broadcast and the release. -/
theorem cmdLaunch_starts {k : HostCmd} {t : LaunchTables} (hat : At s (.num l.uid)) (hk : s.hostCmd l.uid = some k) (hl : s.launches = [l]) (hgraph : l.graph = none) (hp : l.phase = .placing)
    (hb : s.launchBusy l.body = false) (ht : s.launchTables l.body = some t) (hr : s.resolves l = true) (hg : l.groupSlot = none) (hn : l.cores.Nodup) (hm : s.mem.wf = true)
    (hlt : ∀ c ∈ l.cores, c < 2048) : leadsTo .cmdLaunch s fun u => (∃ m ∈ u.launches, m.id = l.id ∧ m.phase = .running ∧ m.started = true) ∧
      ∀ i (h : i < l.cores.length), Launched l i (u.core l.cores[i]) ∧ u.mem.read (spadKey l.cores[i] 0) 256 = t.shape % 2 ^ 2048 := by
  have hfind : s.launches.find? (fun m => m.uid == l.uid && m.graph.isNone) = some l := by simp [hl, hgraph]
  have hrun := cmdLaunch_placed hat hk hfind hp
  rw [hb, if_neg Bool.false_ne_true, State.deliver_resolved ht hr, State.startOrGate_alone _ hg, State.release_alone hg rfl] at hrun
  refine ⟨_, hrun, ?_⟩
  have hlaunches : ((s.setPeers l).broadcast l t.shape).launches = [l] := by rw [State.broadcast_launches, (Retains.setPeers s l).launches, hl]
  have hpeers : (s.setPeers l).mem.wf = true := by rwa [State.setPeers_mem]
  have hvalues {i : Nat} (h : i < l.cores.length) := State.broadcast_launched (s := s.setPeers l) h hn t.shape
  have hshape {i : Nat} (h : i < l.cores.length) := State.broadcast_shape h hn t.shape hlt hpeers
  generalize (s.setPeers l).broadcast l t.shape = v at *
  generalize hk : ({ l with phase := .running, started := true, released := v.clock, stall := 0, sliceOver := false } : Launch) = m
  have hkeep := Retains.rendezvous (v.setLaunch m)
  have hid : l.id = m.id := hk ▸ rfl
  refine ⟨⟨m, ?_, hid.symm, hk ▸ rfl, hk ▸ rfl⟩, fun i h => ⟨(hvalues h).of_bare ?_, ?_⟩⟩
  · rw [State.unpost_launches, hkeep.launches, State.setLaunch_launches_one hlaunches hid]
    exact List.mem_singleton_self m
  · rw [State.core_of_cores (State.unpost_cores ..), hkeep.core, State.core_of_cores (State.setLaunch_cores ..)]
  · rw [State.unpost_mem, State.rendezvous_mem, State.setLaunch_mem, hshape h]

/-- R276: a resumed launch starts in its handlers. -/
theorem launchResume_starts (hat : At s (.launch l.id)) (hl : s.launches = [l]) (hg : l.groupSlot = none) (hp : l.phase = .saved) (hc : s.canResume l = true) (ho : l.ownHandler = true)
    (hn : l.cores.Nodup) : leadsTo .launchResume s fun u => (∃ m ∈ u.launches, m.id = l.id ∧ m.phase = .running) ∧ ∀ c ∈ l.cores, AtHandler (u.core c) := by
  have hrun := launchResume_goes hat hl hp hc
  rw [State.resume_eq, State.startOrGate_alone _ hg, State.release_alone hg (by simp [ho])] at hrun
  refine ⟨_, hrun, ?_⟩
  generalize natOf _ = shape
  generalize hw : (s.unpost .launchResume (.launch l.id)).setLaunch { l with phase := .placing } = w
  have hplaced : w.launches = [{ l with phase := .placing }] := hw ▸ State.setLaunch_launches_one hl rfl
  have hlaunches : (l.cores.foldl (State.handBack l) (w.broadcast l shape)).launches = [{ l with phase := .placing }] := by
    rw [State.handBacks_launches, State.broadcast_launches, hplaced]
  have hcores {c : Nat} (hc : c ∈ l.cores) : AtHandler ((l.cores.foldl (State.handBack l) (w.broadcast l shape)).core c) := by
    obtain ⟨i, hi, rfl⟩ := List.mem_iff_getElem.mp hc
    exact State.handBacks_atHandler l hc (State.broadcast_launched hi hn shape).run
  generalize l.cores.foldl (State.handBack l) (w.broadcast l shape) = v at *
  refine ⟨?_, fun c hc => ?_⟩
  · generalize hm : ({ l with phase := .running, started := true, released := v.clock, stall := 0, sliceOver := false } : Launch) = m
    have hid : l.id = m.id := hm ▸ rfl
    rw [State.setLaunch_launches_one hlaunches hid]
    exact ⟨m, List.mem_singleton_self m, hid.symm, hm ▸ rfl⟩
  · rw [State.core_of_cores (State.setLaunch_cores ..)]
    exact hcores hc

/-- R366: a launch that retires gives its cores back cleared. -/
theorem launchRetire_clears (hat : At s (.launch l.id)) (hl : s.launches = [l]) (hp : l.phase = .retiring) (hg : l.groupSlot = none)
    (hq : ∀ c ∈ l.cores, (s.core c).outstandingCmds = [] ∧ (s.core c).dirtyLines = []) (hr : s.runsOf l.ctag = false) (hgraph : l.graph = none) :
    leadsTo .launchRetire s fun u => u.launches = [] ∧ ∀ c ∈ l.cores, (u.core c).run = .idle ∧ (∀ r : SReg, (u.core c).s[r] = 0) ∧ (u.core c).code = (s.core c).code := by
  have hrun := launchRetire_retires hat hl hp
  rw [State.retire_done hg hq hr] at hrun
  obtain ⟨hnone, hclear⟩ := State.leave_clears (s := s.unpost .launchRetire (.launch l.id)) hg (by rw [hp]; decide) hl
  refine ⟨_, hrun, (State.launchDone_launches ..).trans hnone, fun c hc => ?_⟩
  have hcore := hclear c hc
  rw [← State.core_of_cores (State.launchDone_cores (s.launchEnd l) hgraph) c] at hcore
  have hcode := congrArg Core.code hcore
  exact ⟨congrArg Core.run hcore, fun r => (congrArg (fun x : Core => x.s[r]) hcore).trans (getElem_replicate_fin ..), hcode⟩

end

/-- Settles O46: each step of a launch by what it finds, with the cores compared but for their endpoints, which the pairing of channels changes. -/
theorem launchLife : Obligations.LaunchLife := by
  refine ⟨fun s k hat hk hc => ⟨fun hn => ⟨fun n hs => cmdLaunch_refused hat hk hn hs hc, fun r t tag hs ht => cmdLaunch_places hat hk hc hn hs ht⟩,
      fun g hs hg => cmdGraph_starts hat hk hc hs hg, fun hs hg => (onCommand_eq hat hk).trans (congrArg _ (runGraph_refused hc hs hg))⟩,
    fun s uid n tag g k r t hat hg hk _ hn hr => ⟨fun hgood hb => graphNodeStart_busy hat hg hk hn hr hgood hb, fun hb hs ht => graphNodeStart_places hat hg hk hn hr hb hs ht⟩,
    fun s l t hat hk hl hgraph hp => ?placed, fun s l hat hl hg hp hc ho hn => ?resumed,
    fun s l hat hl hp hg hq hr hgraph _ => launchRetire_clears hat hl hp hg hq hr hgraph⟩
  case placed =>
    obtain ⟨k, hk⟩ := hk
    have hfind : s.launches.find? (fun m => m.uid == l.uid && m.graph.isNone) = some l := by simp [hl, hgraph]
    refine ⟨fun hb => ?_, fun hb ht hr hg hn hm hlt => ?_⟩
    · rw [cmdLaunch_placed hat hk hfind hp, if_pos hb]
    · obtain ⟨u, hu, hlaunch, hcores⟩ := cmdLaunch_starts hat hk hl hgraph hp hb ht hr hg hn hm hlt
      refine ⟨u, hu, hlaunch, fun i h => ?_⟩
      obtain ⟨hv, hshape⟩ := hcores i h
      exact ⟨hv.run, hv.pc, hv.launch, hv.s, hv.v, hv.m, hv.p, hv.fpctl, hv.fpstat, hv.clk, hv.handler, hv.preen, hv.compat, hv.scalel, hv.srseed, hv.rank, hshape⟩
  case resumed =>
    obtain ⟨u, hu, hlaunch, hcores⟩ := launchResume_starts hat hl hg hp hc ho hn
    exact ⟨u, hu, hlaunch, fun c hc => ⟨(hcores c hc).run, (hcores c hc).handler, (hcores c hc).pc, (hcores c hc).cause⟩⟩

end Sys2Proof.Proofs
end

section
/-! Flits that arrive, and the two ends of a route (R404, R408 to R410). -/
namespace Sys2Proof.Machine
open Sys2Proof.Claims

/-! ### Endpoints and routes, put and read -/

@[simp] theorem Core.ep_updEp_self (c : Core) (ch : Chan) (f : Endpoint → Endpoint) : (c.updEp ch f).ep ch = f (c.ep ch) := by simp [Core.ep, Core.updEp]
theorem State.ep_updCore (s : State) (core : Nat) (ch : Chan) (f : Endpoint → Endpoint) : ((s.updCore core fun c => c.updEp ch f).core core).ep ch = f ((s.core core).ep ch) := by
  rw [State.core_updCore_self, Core.ep_updEp_self]

/-- An entry other than the default is read as it was put. -/
theorem sget_sput_of_ne {α : Type} [DecidableEq α] {d x : α} (hx : x ≠ d) (l : List (Nat × α)) (a : Nat) : sget d (sput d l a x) a = x := by
  induction l with
  | nil => simp [sput, sget, hx]
  | cons e l ih =>
    obtain ⟨k, v⟩ := e
    unfold sput
    split
    · simp [sget]
    · split
      · simp [sget]
      next hlt hne => simp only [sget, if_neg hne, if_neg hlt, ih]
theorem State.route_updRoute_self {s : State} (h : swf Route.empty s.routes = true) (a : Nat) (f : Route → Route) : (s.updRoute a f).route a = f (s.route a) := sget_sput_self _ _ _ _ none h
theorem State.route_updRoute_of_ne {s : State} {a : Nat} {f : Route → Route} (h : f (s.route a) ≠ Route.empty) : (s.updRoute a f).route a = f (s.route a) := sget_sput_of_ne h _ _
theorem State.route_of_routes {s u : State} (h : u.routes = s.routes) (a : Nat) : u.route a = s.route a := by rw [State.route, State.route, h]

/-! ### A flit at its port (R404) -/

section
variable {s : State} {x : Flit} {ty : Nat} {f : State → List Byte → State}

theorem onFlit_unready (hat : At s (.flit x)) (hp : x.port < 18) (hr : s.ready = false) : onFlit ty f s = .next s := by
  have hcur : s.cur = .event (.flit x) := hat
  rw [onFlit, hcur]
  simp only [if_neg (Nat.not_le.mpr hp), hr, Bool.not_false, if_true]
theorem onFlit_ready (hat : At s (.flit x)) (hp : x.port < 18) (hr : s.ready = true) : onFlit ty f s =
    if crcOk x.bytes then
      if (s.linkIn x.port).takes (flitSeq x.bytes) then
        .next (if flitOk x.bytes && bits (flitHead x.bytes) 3 0 == ty then f (s.linkGood x.port (flitSeq x.bytes)) x.bytes else s.linkGood x.port (flitSeq x.bytes))
      else .next s
    else .next (s.linkBad x.port) := by
  have hcur : s.cur = .event (.flit x) := hat
  rw [onFlit, hcur]
  simp only [if_neg (Nat.not_le.mpr hp), hr, Bool.not_true, Bool.false_eq_true, if_false]
  cases crcOk x.bytes with
  | false => rfl
  | true =>
    cases (s.linkIn x.port).takes (flitSeq x.bytes) with
    | false => rfl
    | true =>
      cases flitOk x.bytes && bits (flitHead x.bytes) 3 0 == ty with
      | false => rfl
      | true => rfl
theorem onFlit_arrived (h : Arrived s ty x) : onFlit ty f s = .next (f (s.linkGood x.port (flitSeq x.bytes)) x.bytes) := by
  obtain ⟨hat, hp, hr, hok, htakes, hty⟩ := h
  have hcrc : crcOk x.bytes = true := by
    simp only [flitOk, Bool.and_eq_true] at hok
    exact hok.1.1
  have htype : bits (flitHead x.bytes) 3 0 = ty := (bits_low _ 3).trans hty
  rw [onFlit_ready hat hp hr, if_pos hcrc, if_pos htakes, hok, htype, beq_self_eq_true, Bool.and_true, if_pos rfl]

theorem LinkIn.takes_iff (l : LinkIn) (seq : Nat) : l.takes seq = true ↔ (l.retry = true → l.next = seq) := by
  cases h : l.retry <;> simp [LinkIn.takes, h]
theorem State.linkIn_put (hs : swf LinkIn.reset s.links = true) (p : Nat) (y : LinkIn) :
    let u : State := { s with links := sput LinkIn.reset s.links p y }
    u.linkIn p = y ∧ ∀ q, q ≠ p → u.linkIn q = s.linkIn q :=
  ⟨sget_sput_self _ _ _ _ none hs, fun _ hq => sget_sput_other _ _ _ _ _ none hs hq⟩

theorem exec_dataFlit_arrives (hat : At s (.flit x)) : exec .dataFlit s = onFlit 10 State.arriveData s := by
  have hcur : s.cur = .event (.flit x) := hat
  rw [exec_dataFlit, execDataFlit, hcur]
/-- What a flit of a group does for the member that sent it. -/
def memberAct (f : State → Nat → Nat → List Byte → State) (s : State) (bs : List Byte) : State :=
  match s.memberOf (flitGroup bs) (flitSrc bs) with | some m => f s (flitGroup bs) m bs | none => s
theorem onMember_eq (ty : Nat) (f : State → Nat → Nat → List Byte → State) : onMember ty f = onFlit ty (memberAct f) := rfl
/-- What every flit's arrival does first. -/
def flitEvent (ty : Nat) (f : State → List Byte → State) (i : Instr) : Prop := ∀ (s : State) (x : Flit), At s (.flit x) → exec i s = onFlit ty f s
theorem flitEvents {p : Nat × Instr} (h : p ∈ flitTypes) : ∃ f, flitEvent p.1 f p.2 := by
  simp only [flitTypes, List.mem_cons, List.not_mem_nil, or_false] at h
  rcases h with rfl | rfl | rfl | rfl | rfl | rfl | rfl | rfl | rfl | rfl | rfl
  · exact ⟨_, fun s _ _ => exec_msgFlit s⟩
  · exact ⟨_, fun s _ _ => exec_grantFlit s⟩
  · exact ⟨_, fun s _ _ => exec_ackFlit s⟩
  · exact ⟨_, fun s _ _ => exec_refuseFlit s⟩
  · exact ⟨_, fun s _ _ => (exec_stepFlit s).trans (congrFun (onMember_eq ..) s)⟩
  · exact ⟨_, fun s _ _ => (exec_abortFlit s).trans (congrFun (onMember_eq ..) s)⟩
  · exact ⟨_, fun s _ _ => (exec_finalFlit s).trans (congrFun (onMember_eq ..) s)⟩
  · exact ⟨_, fun s _ _ => (exec_agreedFlit s).trans (congrFun (onMember_eq ..) s)⟩
  · exact ⟨_, fun s _ _ => (exec_readyFlit s).trans (congrFun (onMember_eq ..) s)⟩
  · exact ⟨_, fun s _ hat => exec_dataFlit_arrives hat⟩
  · exact ⟨_, fun s _ _ => (exec_gangpreFlit s).trans (congrFun (onMember_eq ..) s)⟩

end

/-! ### Messages (R409, R410) -/

section
variable {s : State} {h : Nat}

/-- A message of a flit of one slot, on a route of no group. -/
theorem flitMessages_one {bs : List Byte} (hn : flitHead bs / 2 ^ 4 % 4 = 1) (hg : bits (s.routeEntry (flitRoute bs)) 47 47 = 0) :
    ∃ resend, flitMessages s bs = [(flitSlotData bs 0 % 2 ^ 512, resend)] := by
  have hslots : bits (flitHead bs) 5 4 = 1 := hn
  have hone : List.range 1 = [0] := rfl
  refine ⟨bits (flitDesc bs 0) 0 0 == 1, ?_⟩
  simp only [flitMessages, hslots, hg, hone, List.map_cons, List.map_nil, withStep, Nat.reduceBEq, Bool.false_eq_true, if_false, Nat.mul_zero, Nat.add_zero]
theorem State.agreedOf_alone (hg : bits (s.routeEntry h) 47 47 = 0) : s.agreedOf h = none := by
  simp only [State.agreedOf, hg, Nat.zero_ne_one, if_false]

section
variable {m core : Nat} {ch : Chan} (hg : bits (s.routeEntry h) 47 47 = 0) (he : s.routeEnd h 2 = .here core ch)
include hg he

theorem State.arriveFabric_new (resend : Bool) (hopen : ((s.core core).ep ch).sealed = false) (hseen : messageTag m ∉ (s.route h).seen) (hprev : messageTag m ∉ (s.route h).prevSeen)
    (hroom : (s.route h).seen.length < 4096) : s.arriveFabric h m resend =
      ((s.lowerGrant core ch false).updCore core fun c => c.updEp ch fun e => { e with msgs := e.msgs ++ [m] }).updRoute h fun r => { r with seen := r.seen ++ [messageTag m] } := by
  have hnew : ((s.route h).seen.contains (messageTag m) || (s.route h).prevSeen.contains (messageTag m)) = false := by simp [hseen, hprev]
  unfold State.arriveFabric
  rw [State.agreedOf_alone hg]
  dsimp only
  rw [hnew, he, if_neg Bool.false_ne_true, if_neg Bool.false_ne_true]
  dsimp only
  rw [hopen, if_neg Bool.false_ne_true, if_neg (Nat.not_le.mpr hroom)]
theorem State.arriveFabric_again (resend : Bool) (hseen : messageTag m ∈ (s.route h).seen ∨ messageTag m ∈ (s.route h).prevSeen) (hack : messageTag m ∉ (s.route h).acked) :
    s.arriveFabric h m resend = s.lowerGrant core ch resend := by
  have hold : ((s.route h).seen.contains (messageTag m) || (s.route h).prevSeen.contains (messageTag m)) = true := by simpa using hseen
  have hno : (s.route h).acked.contains (messageTag m) = false := by simpa using hack
  unfold State.arriveFabric
  rw [State.agreedOf_alone hg]
  dsimp only
  rw [hold, he, if_neg Bool.false_ne_true, if_pos rfl]
  dsimp only
  rw [hno, if_neg Bool.false_ne_true]

end

/-! ### GRANT, ACK, REFUSE (R408 to R410) -/

theorem State.resendFabric_none {core : Nat} {ch : Chan} (hr : (s.route ((s.core core).ep ch).routeOf).resend = []) : s.resendFabric core ch = s := by
  unfold State.resendFabric
  dsimp only
  exact if_pos (.inl (by rw [hr, List.length_nil, Nat.min_zero]))
theorem State.arriveGrant_here {core n : Nat} {ch : Chan} (he : s.routeEnd h 1 = .here core ch) (hr : (s.route ((s.core core).ep ch).routeOf).resend = []) :
    s.arriveGrant h n = s.updCore core fun c => c.updEp ch fun e => { e with sendAllow := e.sendAllow + n } := by
  unfold State.arriveGrant
  rw [he]
  refine State.resendFabric_none ?_
  rw [State.ep_updCore]
  exact hr

theorem flitTags_one {bs : List Byte} (hn : flitHead bs / 2 ^ 112 % 2 ^ 8 = 1) : flitTags bs = [flitWord bs 0] := by
  have hcount : flitCount bs = 1 := hn
  have hone : List.range (min 1 59) = [0] := rfl
  rw [flitTags, hcount, hone, List.map_cons, List.map_nil]

section
variable {a b : List (Nat × Nat)} {m c t : Nat} (hm : messageTag m = t) (ha : ∀ y ∈ a, messageTag y.1 ≠ t)
include hm ha

theorem dropFirst_retained : dropFirst (fun (m : Nat × Nat) => messageTag m.1 == t) (a ++ (m, c) :: b) = a ++ b := by
  induction a with
  | nil => simp [dropFirst, hm]
  | cons y a ih =>
    have hy := ha y (List.mem_cons_self ..)
    simp only [List.cons_append, dropFirst, beq_iff_eq, if_neg hy]
    rw [ih fun z hz => ha z (List.mem_cons_of_mem _ hz)]
/-- R410: the oldest retained message of the tag goes to the resend queue. -/
theorem Route.refuse_retained {r : Route} (hr : r.retained = a ++ (m, c) :: b) (hnot : (m, c) ∉ a) : r.refuse t = { r with retained := a ++ b, resend := r.resend ++ [m] } := by
  have hfind : r.retained.find? (fun m => messageTag m.1 == t) = some (m, c) := by
    rw [hr, List.find?_append, List.find?_eq_none.mpr fun y hy => by simpa using ha y hy]
    simp [hm]
  have herase : r.retained.erase (m, c) = a ++ b := by rw [hr, List.erase_append_right _ hnot, List.erase_cons_head]
  unfold Route.refuse
  rw [hfind]
  dsimp only
  rw [herase]

end

/-! ### Retransmission (R409) -/

/-- Cycles after which a message of a route goes out again. -/
def State.lateAfter (s : State) (h : Nat) : Nat := s.cyclesOf (if bits (s.routeEntry h) 95 64 = 0 then 100 else bits (s.routeEntry h) 95 64)
theorem State.retransmit_idle (h1 : (s.route h).retained = []) (h2 : (s.route h).resend = []) : s.retransmit h = s.unpost .retransmissionTimeout (.num h) := by
  simp only [State.retransmit, h1, h2, List.isEmpty_nil, Bool.and_self, if_true]
section
variable {m c : Nat} (hr : (s.route h).retained = [(m, c)])
include hr

theorem State.retransmit_late (hl : s.lateAfter h ≤ s.clock - c) : s.retransmit h =
    (s.updRoute h fun r => { r with retained := [(withStep (s.stepOf h) m, s.clock)] }).sendRows h true 1 [withStep (s.stepOf h) m] := by
  have hlate : decide (s.lateAfter h ≤ s.clock - c) = true := decide_eq_true hl
  have hfilter : ((s.route h).retained.filter fun m => decide (s.lateAfter h ≤ s.clock - m.2)) = [(m, c)] := by
    rw [hr]
    exact List.filter_cons_of_pos (p := fun m : Nat × Nat => decide (s.lateAfter h ≤ s.clock - m.2)) hlate
  have hroute : (s.updRoute h fun r => { r with retained := r.retained.map fun m => if decide (s.lateAfter h ≤ s.clock - m.2) then (withStep (s.stepOf h) m.1, s.clock) else m }) =
      s.updRoute h fun r => { r with retained := [(withStep (s.stepOf h) m, s.clock)] } := by
    simp only [State.updRoute, hr, List.map_cons, List.map_nil, hlate, if_true]
  unfold State.retransmit
  dsimp only
  rw [if_neg (by simp [hr])]
  exact (congrArg (fun t : State => List.foldl _ t _) hroute).trans (congrArg (List.foldl _ _) hfilter)
theorem State.retransmit_early (hl : s.clock - c < s.lateAfter h) : s.retransmit h = s.updRoute h fun r => r := by
  have hlate : decide (s.lateAfter h ≤ s.clock - c) = false := decide_eq_false (Nat.not_le.mpr hl)
  have hfilter : ((s.route h).retained.filter fun m => decide (s.lateAfter h ≤ s.clock - m.2)) = [] := by
    rw [hr]
    exact List.filter_cons_of_neg (p := fun m : Nat × Nat => decide (s.lateAfter h ≤ s.clock - m.2)) (Bool.eq_false_iff.mp hlate)
  have hroute : (s.updRoute h fun r => { r with retained := r.retained.map fun m => if decide (s.lateAfter h ≤ s.clock - m.2) then (withStep (s.stepOf h) m.1, s.clock) else m }) =
      s.updRoute h fun r => r := by
    simp only [State.updRoute, hr, List.map_cons, List.map_nil, hlate, Bool.false_eq_true, if_false]
    rw [← hr]
  unfold State.retransmit
  dsimp only
  rw [if_neg (by simp [hr])]
  exact (congrArg (fun t : State => List.foldl _ t _) hroute).trans (congrArg (List.foldl _ _) hfilter)

end

theorem State.sendFlit_up (hd : s.linkDown = false) (dst : Nat) (bs : List Byte) : (s.sendFlit dst bs).outFlits = s.outFlits ++ [(linkTo dst, bs)] := by
  simp only [State.sendFlit, hd, Bool.false_and, Bool.false_eq_true, if_false]
theorem State.sendFlit_routes (s : State) (dst : Nat) (bs : List Byte) : (s.sendFlit dst bs).routes = s.routes := by
  unfold State.sendFlit
  split <;> rfl
/-- One message is one flit. -/
theorem State.sendRows_one (hd : s.linkDown = false) (resend : Bool) (m : Nat) :
    (s.sendRows h resend 1 [m]).outFlits.length = s.outFlits.length + 1 ∧ (s.sendRows h resend 1 [m]).routes = s.routes := by
  unfold State.sendRows
  rw [if_neg (by simp)]
  dsimp only
  refine ⟨?_, State.sendFlit_routes ..⟩
  simp only [State.sendRows]
  rw [State.sendFlit_up hd, List.length_append, List.length_singleton]

end

/-! ### DATA (R404, R318) -/

section
variable {s : State} {h : Nat}

theorem State.sendGroup_peerLines (s : State) (g m type step : Nat) (ws : List Nat) : (s.sendGroup g m type step ws).peerLines = s.peerLines := by
  unfold State.sendGroup State.sendFlit
  split <;> rfl
theorem State.sendMembers_peerLines (s : State) (g type step : Nat) (ws : List Nat) : (s.sendMembers g type step ws).peerLines = s.peerLines :=
  foldl_keeps _ State.peerLines (fun s m => s.sendGroup_peerLines g m type step ws) _ s
theorem State.noteWrite_peerLines (s : State) (pa n : Nat) : (s.noteWrite pa n).peerLines = s.peerLines := by
  refine foldl_keeps _ State.peerLines (fun t l => ?_) _ s
  have hgo (c : Prop) [Decidable c] (i : Instr) (a : EvArg) : (if c then t.post i a else t).peerLines = t.peerLines := by
    split
    · exact State.post_peerLines ..
    · rfl
  have htell (c d : Prop) [Decidable c] [Decidable d] (v : State) (g type step : Nat) (f : Group → Group) (ws : List Nat) :
      (if c then (if d then v else (v.updGroup g f).sendMembers g type step ws) else v).peerLines = v.peerLines := by
    split
    · split
      · rfl
      · exact State.sendMembers_peerLines ..
    · rfl
  dsimp only
  split
  · exact hgo ..
  · exact (htell ..).trans (hgo ..)

theorem State.recallWait_free {ev : Ev} {a : Nat} (ho : s.ownerOf a = none) : s.recallWait ev [a] = none := by simp [State.recallWait, ho]
/-- An owner of a line, with an access that waits for its recall. -/
def Owned.await (a now : Nat) (ev : Ev) (o : Owned) : Owned :=
  if o.line = a ∧ !(o.waiting.any fun w => w.2 == ev) then { o with waiting := o.waiting ++ [(now, ev)] } else o
theorem Owned.await_line (a now : Nat) (ev : Ev) (o : Owned) : (o.await a now ev).line = o.line := by
  unfold Owned.await
  split <;> rfl
theorem Owned.await_waits {a : Nat} (now : Nat) (ev : Ev) {o : Owned} (h : o.line = a) : ∃ w ∈ (o.await a now ev).waiting, w.2 = ev := by
  unfold Owned.await
  cases hany : o.waiting.any fun w => w.2 == ev with
  | false => exact ⟨(now, ev), by simp [h], rfl⟩
  | true =>
    obtain ⟨w, hw, heq⟩ := List.any_eq_true.mp hany
    exact ⟨w, by simpa using hw, eq_of_beq heq⟩
theorem find?_map_line {f : Owned → Owned} (hf : ∀ x, (f x).line = x.line) (l : List Owned) (a : Nat) :
    (l.map f).find? (fun o => o.line == a) = (l.find? fun o => o.line == a).map f := by
  rw [List.find?_map]
  exact congrArg (fun p => Option.map f (List.find? p l)) (funext fun x => by simp [hf])
/-- R318: an access of an owned line waits at its owner for the recall. -/
theorem State.recallWait_owned {ev : Ev} {a : Nat} (ho : s.ownerOf a ≠ none) : ∃ u : State, s.recallWait ev [a] = some u ∧ u.mem = s.mem ∧ u.cores = s.cores ∧ u.peerLines = s.peerLines ∧
    ∃ o, u.ownerOf a = some o ∧ ∃ w ∈ o.waiting, w.2 = ev := by
  have hsome : (s.ownerOf a).isSome = true := Option.isSome_iff_ne_none.mpr ho
  obtain ⟨o, hown⟩ := Option.isSome_iff_exists.mp hsome
  have hline : o.line = a := by simpa using List.find?_some hown
  have hwait : s.recallWait ev [a] = some { (s.unpost ev.1 ev.2).forget ev with owned := s.owned.map (Owned.await a s.tick ev) } := by
    simp only [State.recallWait, List.find?_cons, hsome]
    rfl
  refine ⟨_, hwait, rfl, rfl, rfl, _, ?_, Owned.await_waits s.tick ev hline⟩
  exact (find?_map_line (Owned.await_line a s.tick ev) s.owned a).trans (congrArg (Option.map _) hown)

theorem State.peerSlot_some {bs : List Byte} (hm : s.hasMemory ((Config.streamBase h + 4 * (flitDesc bs 0 / 4)) / 64 * 64) = true) :
    ∃ y : PeerLine, s.peerSlot h bs 0 = some y ∧ y.route = h ∧ y.line = (Config.streamBase h + 4 * (flitDesc bs 0 / 4)) / 64 * 64 ∧ y.data = flitSlotData bs 0 :=
  ⟨_, if_pos hm, rfl, rfl, rfl⟩
/-- One line of a route that is enabled: it is taken, and performed or made to wait. -/
theorem State.arriveData_one {bs : List Byte} {y : PeerLine} (hn : flitHead bs / 2 ^ 4 % 4 = 1) (he : s.routeEntry (flitRoute bs) % 2 = 1) (hp : s.peerLines = [])
    (hy : s.peerSlot (flitRoute bs) bs 0 = some y) : s.arriveData bs = ({ s with peerLines := [y] } : State).peerDrain (flitRoute bs) 1 := by
  have hslots : bits (flitHead bs) 5 4 = 1 := hn
  have henabled : bits (s.routeEntry (flitRoute bs)) 0 0 = 1 := (bits_low _ 0).trans he
  have hone : List.range 1 = [0] := rfl
  simp only [State.arriveData, henabled, hslots, hone, hp, List.filterMap_cons, hy, List.filterMap_nil, List.nil_append, List.length_singleton, Nat.one_ne_zero, if_false]

theorem getElem_bytesOf (n x i : Nat) (h : i < (bytesOf n x).length) : (bytesOf n x)[i] = BitVec.ofNat 8 (x / 2 ^ (8 * i)) := by
  induction n generalizing x i with
  | zero => exact absurd h (Nat.not_lt_zero i)
  | succ n ih =>
    cases i with
    | zero => simp [bytesOf]
    | succ i =>
      simp only [bytesOf, List.getElem_cons_succ]
      rw [ih, Nat.div_div_eq_div_mul, show 2 ^ (8 * (i + 1)) = 256 * 2 ^ (8 * i) by rw [Nat.mul_succ, Nat.pow_add, Nat.mul_comm]]
theorem Memory.byte_putDev_outside {m : Memory} {a z : Nat} {bs : List Byte} (h : m.wf = true) (hz : z < a ∨ a + bs.length ≤ z) : (m.putDev (putBytes a bs)).byte z = m.byte z :=
  m.byte_putDev_other _ z h fun p hp => by
    have hin := mem_putBytes hp
    omega
theorem Memory.byte_putLineDev (m : Memory) (line : Nat) (bs : List Byte) (cv : Nat) (z : Nat) (hl : bs.length = 64) :
    (m.putLineDev line bs cv).byte z = (m.putDev (putBytes line bs)).byte z := by
  unfold Memory.putLineDev
  split
  · rfl
  next hno =>
    have hopen : ∀ i, i < 64 → roByte (line + i) = false := by simpa using hno
    change (m.put (putBytes line bs)).byte z = _
    rw [m.putDev_eq _ fun p hp => ?_]
    obtain ⟨hlo, hhi⟩ := mem_putBytes hp
    have hbyte := hopen (p.1 - line) (by omega)
    rwa [Nat.add_sub_cancel' hlo] at hbyte
/-- A line that is performed. -/
theorem State.peerLine_facts (s : State) (y : PeerLine) : (s.peerLine y).cores = s.cores ∧ (s.peerLine y).peerLines = s.peerLines ∧
    ∀ z, (s.peerLine y).mem.byte z = (s.mem.putDev (putBytes y.line (bytesOf 64 y.data))).byte z := by
  unfold State.peerLine
  refine ⟨State.noteWrite_cores .., State.noteWrite_peerLines .., fun z => ?_⟩
  rw [State.noteWrite_mem]
  dsimp only
  split
  · rfl
  · exact Memory.byte_putLineDev _ _ _ _ _ (length_bytesOf ..)

theorem State.peerDrain_free {y : PeerLine} (hr : y.route = h) (ho : s.ownerOf y.line = none) :
    ({ s with peerLines := [y] } : State).peerDrain h 1 = ({ s with peerLines := [] } : State).peerLine y := by
  have hfind : [y].find? (fun x => x.route == h) = some y := by simp [hr]
  have hfree : ({ s with peerLines := [y] } : State).recallWait (.dataFlit, .num h) [y.line] = none := State.recallWait_free ho
  unfold State.peerDrain
  rw [hfind]
  dsimp only
  rw [hfree]
  dsimp only
  rw [List.erase_cons_head]
  rfl
theorem State.peerDrain_owned {y : PeerLine} {u : State} (hr : y.route = h) (hw : ({ s with peerLines := [y] } : State).recallWait (.dataFlit, .num h) [y.line] = some u) :
    ({ s with peerLines := [y] } : State).peerDrain h 1 = u := by
  have hfind : [y].find? (fun x => x.route == h) = some y := by simp [hr]
  unfold State.peerDrain
  rw [hfind]
  dsimp only
  rw [hw]

end

end Sys2Proof.Machine
end

section
/-! Flits of a route settled (O49). -/
namespace Sys2Proof.Machine

section
variable (s : State) (core : Nat) (ch : Chan)

theorem State.lowerGrant_msgs (resend : Bool) : (((s.lowerGrant core ch resend).core core).ep ch).msgs = ((s.core core).ep ch).msgs := by
  unfold State.lowerGrant
  split
  · rfl
  · rw [State.ep_updCore]
theorem State.lowerGrant_rest (resend : Bool) : (s.lowerGrant core ch resend).routes = s.routes ∧ (s.lowerGrant core ch resend).mem = s.mem ∧ (s.lowerGrant core ch resend).outFlits = s.outFlits := by
  unfold State.lowerGrant
  split <;> exact ⟨rfl, rfl, rfl⟩

end

/-- R410: what a message that is delivered changes. -/
theorem State.deliver_message (s : State) (core : Nat) (ch : Chan) (h m : Nat) :
    let u := ((s.lowerGrant core ch false).updCore core fun c => c.updEp ch fun e => { e with msgs := e.msgs ++ [m] }).updRoute h fun r => { r with seen := r.seen ++ [messageTag m] }
    ((u.core core).ep ch).msgs = ((s.core core).ep ch).msgs ++ [m] ∧ ((u.core core).ep ch).grantOut = ((s.core core).ep ch).grantOut - 1 ∧
      (u.route h).seen = (s.route h).seen ++ [messageTag m] ∧ u.mem = s.mem ∧ u.outFlits = s.outFlits ∧ (u.core core).s = (s.core core).s ∧ ∀ j, j ≠ core → u.core j = s.core j := by
  have hlower : s.lowerGrant core ch false = s.updCore core fun c => c.updEp ch fun e => { e with grantOut := e.grantOut - 1 } := rfl
  have hep := State.ep_updCore (s.lowerGrant core ch false) core ch fun e => { e with msgs := e.msgs ++ [m] }
  have hroute := State.route_updRoute_of_ne (s := (s.lowerGrant core ch false).updCore core fun c => c.updEp ch fun e => { e with msgs := e.msgs ++ [m] }) (a := h)
    (f := fun r => { r with seen := r.seen ++ [messageTag m] }) fun he => List.append_ne_nil_of_right_ne_nil _ (List.cons_ne_nil _ _) (congrArg Route.seen he)
  have hlowered : ((s.lowerGrant core ch false).core core).ep ch = { (s.core core).ep ch with grantOut := ((s.core core).ep ch).grantOut - 1 } := s.ep_updCore core ch _
  have hmsgs := congrArg (fun e : Endpoint => e.msgs ++ [m]) hlowered
  have hgrant := congrArg Endpoint.grantOut hlowered
  refine ⟨(congrArg Endpoint.msgs hep).trans hmsgs, (congrArg Endpoint.grantOut hep).trans hgrant, congrArg Route.seen hroute, rfl, rfl, ?_, fun j hj => ?_⟩
  · rw [State.core_of_cores (State.updRoute_cores ..), State.core_updCore_self, hlower, State.core_updCore_self]
    rfl
  · rw [State.core_of_cores (State.updRoute_cores ..), State.core_updCore_other _ _ _ _ hj, hlower, State.core_updCore_other _ _ _ _ hj]

/-- The lookup of a route's end does not ask what it retains. -/
theorem State.routeEnd_updRoute {s : State} (hs : swf Route.empty s.routes = true) {h : Nat} {f : Route → Route} (hf : (f (s.route h)).entry = (s.route h).entry) (mode : Nat) :
    (s.updRoute h f).routeEnd h mode = s.routeEnd h mode := by
  have hentry : (s.updRoute h f).routeEntry h = s.routeEntry h := by
    rw [State.routeEntry, State.route_updRoute_self hs, hf]
    rfl
  unfold State.routeEnd
  rw [hentry]
  rfl

end Sys2Proof.Machine

namespace Sys2Proof.Proofs
open Sys2Proof Sys2Proof.Machine Sys2Proof.Claims

section
variable {s : State} {x : Flit}

/-- R404: what a link does with a flit. -/
theorem flit_at_link {p : Nat × Instr} (hp : p ∈ flitTypes) (hat : At s (.flit x)) (hport : x.port < 18) (hr : s.ready = true) (hlinks : swf LinkIn.reset s.links = true) :
    let l := s.linkIn x.port
    let onlyLink (y : LinkIn) (u : State) : Prop := u = { s with links := u.links } ∧ u.linkIn x.port = y ∧ ∀ q, q ≠ x.port → u.linkIn q = s.linkIn q
    (crcOk x.bytes = false → leadsTo p.2 s (onlyLink { l with retry := true })) ∧
    (crcOk x.bytes = true → l.retry = true → l.next ≠ flitSeq x.bytes → exec p.2 s = .next s) ∧
    (crcOk x.bytes = true → l.takes (flitSeq x.bytes) = true → flitOk x.bytes = false ∨ flitHead x.bytes % 16 ≠ p.1 → leadsTo p.2 s (onlyLink ⟨(flitSeq x.bytes + 1) % 256, false⟩)) ∧
    (l.takes (flitSeq x.bytes) = true ↔ (l.retry = true → l.next = flitSeq x.bytes)) := by
  obtain ⟨f, hf⟩ := flitEvents hp
  have hrun := (hf s x hat).trans (onFlit_ready hat hport hr)
  have hput := State.linkIn_put hlinks x.port
  refine ⟨fun hcrc => ?bad, fun hcrc hretry hnext => ?behind, fun hcrc htakes hbad => ?good, LinkIn.takes_iff ..⟩
  case bad =>
    rw [hcrc, if_neg Bool.false_ne_true] at hrun
    exact ⟨_, hrun, rfl, (hput _).1, (hput _).2⟩
  case behind =>
    have hnot : ¬ (s.linkIn x.port).takes (flitSeq x.bytes) = true := fun h => hnext ((LinkIn.takes_iff ..).mp h hretry)
    rw [hcrc, if_pos rfl, if_neg hnot] at hrun
    exact hrun
  case good =>
    have hdrop : ¬ (flitOk x.bytes && bits (flitHead x.bytes) 3 0 == p.1) = true := by
      rw [Bool.and_eq_true, bits_low]
      rintro ⟨hok, hty⟩
      exact hbad.elim (fun h => Bool.false_ne_true (h.symm.trans hok)) fun h => h (eq_of_beq hty)
    rw [hcrc, if_pos rfl, if_pos htakes, if_neg hdrop] at hrun
    exact ⟨_, hrun, rfl, (hput _).1, (hput _).2⟩

/-! ### Messages -/

/-- A message's event, on a route of no group. -/
theorem msgFlit_arrives (ha : Arrived s 1 x) (hn : flitHead x.bytes / 2 ^ 4 % 4 = 1) (hg : bits (s.routeEntry (flitRoute x.bytes)) 47 47 = 0) :
    ∃ resend, exec .msgFlit s = .next ((s.linkGood x.port (flitSeq x.bytes)).arriveFabric (flitRoute x.bytes) (flitSlotData x.bytes 0 % 2 ^ 512) resend) := by
  obtain ⟨resend, hmsg⟩ := flitMessages_one (s := s.linkGood x.port (flitSeq x.bytes)) hn hg
  refine ⟨resend, (exec_msgFlit s).trans ((onFlit_arrived ha).trans ?_)⟩
  rw [hmsg, List.foldl_cons, List.foldl_nil]
theorem msgFlit_delivers {core : Nat} {ch : Chan} (ha : Arrived s 1 x) (hn : flitHead x.bytes / 2 ^ 4 % 4 = 1) (hg : bits (s.routeEntry (flitRoute x.bytes)) 47 47 = 0)
    (he : s.routeEnd (flitRoute x.bytes) 2 = .here core ch) {m : Nat} (hm : m = flitSlotData x.bytes 0 % 2 ^ 512) (hopen : ((s.core core).ep ch).sealed = false)
    (hseen : messageTag m ∉ (s.route (flitRoute x.bytes)).seen) (hprev : messageTag m ∉ (s.route (flitRoute x.bytes)).prevSeen) (hroom : (s.route (flitRoute x.bytes)).seen.length < 4096) :
    leadsTo .msgFlit s fun u =>
      ((u.core core).ep ch).msgs = ((s.core core).ep ch).msgs ++ [m] ∧ ((u.core core).ep ch).grantOut = ((s.core core).ep ch).grantOut - 1 ∧
      (u.route (flitRoute x.bytes)).seen = (s.route (flitRoute x.bytes)).seen ++ [messageTag m] ∧ u.mem = s.mem ∧ u.outFlits = s.outFlits ∧ (u.core core).s = (s.core core).s ∧
      ∀ j, j ≠ core → u.core j = s.core j := by
  subst hm
  obtain ⟨resend, hrun⟩ := msgFlit_arrives ha hn hg
  rw [State.arriveFabric_new (s := s.linkGood x.port (flitSeq x.bytes)) hg he resend hopen hseen hprev hroom] at hrun
  exact ⟨_, hrun, State.deliver_message ..⟩
theorem msgFlit_again {core : Nat} {ch : Chan} (ha : Arrived s 1 x) (hn : flitHead x.bytes / 2 ^ 4 % 4 = 1) (hg : bits (s.routeEntry (flitRoute x.bytes)) 47 47 = 0)
    (he : s.routeEnd (flitRoute x.bytes) 2 = .here core ch) {m : Nat} (hm : m = flitSlotData x.bytes 0 % 2 ^ 512)
    (hseen : messageTag m ∈ (s.route (flitRoute x.bytes)).seen ∨ messageTag m ∈ (s.route (flitRoute x.bytes)).prevSeen) (hack : messageTag m ∉ (s.route (flitRoute x.bytes)).acked) :
    leadsTo .msgFlit s fun u => ((u.core core).ep ch).msgs = ((s.core core).ep ch).msgs ∧ u.route (flitRoute x.bytes) = s.route (flitRoute x.bytes) ∧ u.mem = s.mem ∧ u.outFlits = s.outFlits := by
  subst hm
  obtain ⟨resend, hrun⟩ := msgFlit_arrives ha hn hg
  rw [State.arriveFabric_again (s := s.linkGood x.port (flitSeq x.bytes)) hg he resend hseen hack] at hrun
  have hmsgs := (s.linkGood x.port (flitSeq x.bytes)).lowerGrant_msgs core ch resend
  obtain ⟨hroutes, hmem, hout⟩ := (s.linkGood x.port (flitSeq x.bytes)).lowerGrant_rest core ch resend
  exact ⟨_, hrun, hmsgs, State.route_of_routes hroutes _, hmem, hout⟩

/-! ### GRANT, ACK, REFUSE -/

theorem grantFlit_gives {core : Nat} {ch : Chan} (ha : Arrived s 2 x) (he : s.routeEnd (flitRoute x.bytes) 1 = .here core ch) (hr : (s.route ((s.core core).ep ch).routeOf).resend = []) :
    leadsTo .grantFlit s fun u => onlyCore s u core ∧ u.routes = s.routes ∧ u.outFlits = s.outFlits ∧
      ((u.core core).ep ch).sendAllow = ((s.core core).ep ch).sendAllow + flitHead x.bytes / 2 ^ 112 % 2 ^ 8 := by
  have hrun := (exec_grantFlit s).trans (onFlit_arrived ha)
  rw [State.arriveGrant_here (s := s.linkGood x.port (flitSeq x.bytes)) he hr] at hrun
  refine ⟨_, hrun, ⟨fun j hj => State.core_updCore_other _ _ _ _ hj, rfl, rfl, rfl⟩, rfl, rfl, ?_⟩
  exact congrArg Endpoint.sendAllow (State.ep_updCore (s.linkGood x.port (flitSeq x.bytes)) core ch _)

section
variable {a b : List (Nat × Nat)} {m c : Nat} (hn : flitHead x.bytes / 2 ^ 112 % 2 ^ 8 = 1) (hs : swf Route.empty s.routes = true)
  (hr : (s.route (flitRoute x.bytes)).retained = a ++ (m, c) :: b) (hm : messageTag m = flitWord x.bytes 0) (hfirst : ∀ y ∈ a, messageTag y.1 ≠ flitWord x.bytes 0)
include hn hs hr hm hfirst

theorem ackFlit_releases (ha : Arrived s 3 x) : leadsTo .ackFlit s fun u => (u.route (flitRoute x.bytes)).retained = a ++ b ∧
    (u.route (flitRoute x.bytes)).resend = (s.route (flitRoute x.bytes)).resend ∧ u.mem = s.mem ∧ u.cores = s.cores := by
  have hrun := (exec_ackFlit s).trans (onFlit_arrived ha)
  have hroute := State.route_updRoute_self (s := s.linkGood x.port (flitSeq x.bytes)) hs (flitRoute x.bytes)
  refine ⟨_, hrun, ?_, ?_, rfl, rfl⟩
  · rw [hroute, flitTags_one hn]
    exact (congrArg (dropFirst _) hr).trans (dropFirst_retained hm hfirst)
  · rw [hroute]
    rfl
theorem refuseFlit_queues (ha : Arrived s 4 x) (he : ∀ core ch, s.routeEnd (flitRoute x.bytes) 1 ≠ .here core ch) (hnot : (m, c) ∉ a) :
    leadsTo .refuseFlit s fun u => (u.route (flitRoute x.bytes)).retained = a ++ b ∧ (u.route (flitRoute x.bytes)).resend = (s.route (flitRoute x.bytes)).resend ++ [m] ∧
      u.mem = s.mem ∧ u.cores = s.cores := by
  have hroute := State.route_updRoute_self (s := s.linkGood x.port (flitSeq x.bytes)) hs (flitRoute x.bytes) fun r => (flitTags x.bytes).foldl Route.refuse r
  have hrefuse : (flitTags x.bytes).foldl Route.refuse (s.route (flitRoute x.bytes)) =
      { s.route (flitRoute x.bytes) with retained := a ++ b, resend := (s.route (flitRoute x.bytes)).resend ++ [m] } := by
    rw [flitTags_one hn]
    exact Route.refuse_retained hm hfirst hr hnot
  have hentry := congrArg Route.entry hrefuse
  have hend := State.routeEnd_updRoute (s := s.linkGood x.port (flitSeq x.bytes)) hs (h := flitRoute x.bytes) (f := fun r => (flitTags x.bytes).foldl Route.refuse r)
    hentry 1
  have hrun := (exec_refuseFlit s).trans (onFlit_arrived ha)
  dsimp only at hrun
  have hstay : ∀ t : State, t.routeEnd (flitRoute x.bytes) 1 = s.routeEnd (flitRoute x.bytes) 1 →
      (match t.routeEnd (flitRoute x.bytes) 1 with | .here core ch => t.resendFabric core ch | _ => t) = t := by
    intro t ht
    split
    next core ch h => exact absurd (ht.symm.trans h) (he core ch)
    next => rfl
  refine ⟨_, hrun.trans (congrArg _ (hstay _ hend)), ?_, ?_, rfl, rfl⟩
  · exact congrArg Route.retained (hroute.trans hrefuse)
  · exact congrArg Route.resend (hroute.trans hrefuse)

end

/-! ### Retransmission -/

theorem timeout_steps {h : Nat} (hat : At s (.num h)) (hh : h < 65536) :
    let us := s.routeEntry h / 2 ^ 64 % 2 ^ 32
    let limit := (if us = 0 then 100 else us) * mhz s.stkN
    ((s.route h).retained = [] → (s.route h).resend = [] → exec .retransmissionTimeout s = .next (s.unpost .retransmissionTimeout (.num h))) ∧
    (∀ m c, (s.route h).retained = [(m, c)] → limit ≤ s.clock - c → s.linkDown = false → leadsTo .retransmissionTimeout s fun u =>
      u.outFlits.length = s.outFlits.length + 1 ∧ (u.route h).retained = [(withStep (s.stepOf h) m, s.clock)] ∧ u.mem = s.mem ∧ u.cores = s.cores) ∧
    (∀ m c, (s.route h).retained = [(m, c)] → s.clock - c < limit → swf Route.empty s.routes = true → leadsTo .retransmissionTimeout s fun u => u.outFlits = s.outFlits ∧ u.route h = s.route h) := by
  have hcur : s.cur = .event (.num h) := hat
  have hrun : exec .retransmissionTimeout s = .next (s.retransmit h) := by
    rw [exec_retransmissionTimeout, execRetransmissionTimeout, hcur]
    exact if_neg (by omega)
  refine ⟨fun h1 h2 => hrun.trans (congrArg _ (State.retransmit_idle h1 h2)), fun m c hr hl hd => ⟨_, hrun.trans (congrArg _ (State.retransmit_late hr hl)), ?late⟩,
    fun m c hr hl hs => ⟨_, hrun.trans (congrArg _ (State.retransmit_early hr hl)), rfl, State.route_updRoute_self hs h _⟩⟩
  obtain ⟨hout, hroutes⟩ := State.sendRows_one (s := s.updRoute h fun r => { r with retained := [(withStep (s.stepOf h) m, s.clock)] }) (h := h) hd true (withStep (s.stepOf h) m)
  have hroute := State.route_updRoute_of_ne (s := s) (a := h) (f := fun r => { r with retained := [(withStep (s.stepOf h) m, s.clock)] })
    fun he => List.cons_ne_nil _ _ (congrArg Route.retained he)
  exact ⟨hout, congrArg Route.retained ((State.route_of_routes hroutes h).trans hroute), (State.sendRows_mem ..).trans (State.updRoute_mem ..),
    (State.sendRows_cores ..).trans (State.updRoute_cores ..)⟩

/-! ### DATA -/

theorem dataFlit_arrives {a : Nat} (ha : Arrived s 10 x) (hn : flitHead x.bytes / 2 ^ 4 % 4 = 1) (he : s.routeEntry (flitRoute x.bytes) % 2 = 1) (hp : s.peerLines = [])
    (haddr : a = (Config.streamBase (flitRoute x.bytes) + 4 * (flitDesc x.bytes 0 / 4)) / 64 * 64) (hm : s.hasMemory a = true) :
    ∃ y : PeerLine, y.route = flitRoute x.bytes ∧ y.line = a ∧ y.data = flitSlotData x.bytes 0 ∧
      exec .dataFlit s = .next (({ s.linkGood x.port (flitSeq x.bytes) with peerLines := [y] } : State).peerDrain (flitRoute x.bytes) 1) := by
  subst haddr
  obtain ⟨y, hy, hroute, hline, hdata⟩ := State.peerSlot_some (s := s.linkGood x.port (flitSeq x.bytes)) (h := flitRoute x.bytes) (bs := x.bytes) hm
  exact ⟨y, hroute, hline, hdata, (exec_dataFlit_arrives ha.1).trans ((onFlit_arrived ha).trans (congrArg _ (State.arriveData_one hn he hp hy)))⟩
theorem dataFlit_writes {a : Nat} (ha : Arrived s 10 x) (hn : flitHead x.bytes / 2 ^ 4 % 4 = 1) (he : s.routeEntry (flitRoute x.bytes) % 2 = 1) (hs : s.mem.wf = true) (hp : s.peerLines = [])
    (haddr : a = (Config.streamBase (flitRoute x.bytes) + 4 * (flitDesc x.bytes 0 / 4)) / 64 * 64) (hm : s.hasMemory a = true) (ho : s.ownerOf a = none) :
    leadsTo .dataFlit s fun u => u.peerLines = [] ∧
      (∀ i, i < 64 → u.mem.byte (a + i) = if roByte (a + i) then s.mem.byte (a + i) else BitVec.ofNat 8 (flitSlotData x.bytes 0 / 2 ^ (8 * i))) ∧
      (∀ z, z < a ∨ a + 64 ≤ z → u.mem.byte z = s.mem.byte z) ∧ u.cores = s.cores := by
  obtain ⟨y, hroute, hline, hdata, hrun⟩ := dataFlit_arrives ha hn he hp haddr hm
  rw [State.peerDrain_free (s := s.linkGood x.port (flitSeq x.bytes)) hroute (hline ▸ ho)] at hrun
  obtain ⟨hcores, hlines, hbyte⟩ := ({ s.linkGood x.port (flitSeq x.bytes) with peerLines := [] } : State).peerLine_facts y
  rw [hline, hdata] at hbyte
  have hlen : (bytesOf 64 (flitSlotData x.bytes 0)).length = 64 := length_bytesOf ..
  refine ⟨_, hrun, hlines, fun i hi => ?_, fun z hz => ?_, hcores⟩
  · refine (hbyte _).trans ((Memory.byte_putDev_bytes s.mem a _ hs i (by rw [hlen]; exact hi)).trans ?_)
    rw [getElem_bytesOf]
  · exact (hbyte z).trans (Memory.byte_putDev_outside hs (by rw [hlen]; exact hz))
theorem dataFlit_waits {a : Nat} (ha : Arrived s 10 x) (hn : flitHead x.bytes / 2 ^ 4 % 4 = 1) (he : s.routeEntry (flitRoute x.bytes) % 2 = 1) (hp : s.peerLines = [])
    (haddr : a = (Config.streamBase (flitRoute x.bytes) + 4 * (flitDesc x.bytes 0 / 4)) / 64 * 64) (hm : s.hasMemory a = true) (ho : s.ownerOf a ≠ none) :
    leadsTo .dataFlit s fun u => u.mem = s.mem ∧ u.cores = s.cores ∧ (∃ y, u.peerLines = [y] ∧ y.line = a ∧ y.data = flitSlotData x.bytes 0) ∧
      ∃ o, u.ownerOf a = some o ∧ ∃ w ∈ o.waiting, w.2 = (.dataFlit, .num (flitRoute x.bytes)) := by
  obtain ⟨y, hroute, hline, hdata, hrun⟩ := dataFlit_arrives ha hn he hp haddr hm
  obtain ⟨u, hwait, hmem, hcores, hlines, howner⟩ := State.recallWait_owned (s := { s.linkGood x.port (flitSeq x.bytes) with peerLines := [y] }) (ev := (.dataFlit, .num (flitRoute x.bytes))) ho
  rw [State.peerDrain_owned (s := s.linkGood x.port (flitSeq x.bytes)) hroute (hline.symm ▸ hwait)] at hrun
  exact ⟨u, hrun, hmem, hcores, ⟨y, hlines, hline, hdata⟩, howner⟩

end

/-- Settles O49: each type of flit by what its link, its route's end and the owner of its line decide. -/
theorem routedFlits : Obligations.RoutedFlits := by
  refine ⟨fun s x p hp hat hport => ⟨fun hr => ?unready, fun hr hl => flit_at_link hp hat hport hr hl⟩,
    fun s x ha hn hg => ⟨fun core ch he hopen hseen hprev hroom => msgFlit_delivers ha hn hg he rfl hopen hseen hprev hroom, fun core ch he hseen hack => msgFlit_again ha hn hg he rfl hseen hack⟩,
    fun s x core ch ha he hr => grantFlit_gives ha he hr,
    fun s x a b m c hn hs hr hm hfirst => ⟨fun ha => ackFlit_releases hn hs hr hm hfirst ha, fun ha he hnot => refuseFlit_queues hn hs hr hm hfirst ha he hnot⟩,
    fun s h hat hh => timeout_steps hat hh,
    fun s x ha hn he hs hp hm => ⟨fun ho => dataFlit_writes ha hn he hs hp rfl hm ho, fun ho => dataFlit_waits ha hn he hp rfl hm ho⟩⟩
  obtain ⟨f, hf⟩ := flitEvents hp
  exact (hf s x hat).trans (onFlit_unready hat hport hr)

end Sys2Proof.Proofs
end

section
/-! Collective groups: what telling the members, agreeing and aborting leave (R412 to R416). -/
namespace Sys2Proof.Machine
open Sys2Proof.Claims

/-! ### A group put and read -/

section
variable {s : State} {g : Nat}

theorem State.group_updGroup_of_ne {f : Group → Group} (h : f (s.group g) ≠ Group.empty) : (s.updGroup g f).group g = f (s.group g) := sget_sput_of_ne h _ _
theorem State.group_of_groups {u : State} (h : u.groups = s.groups) (g : Nat) : u.group g = s.group g := by rw [State.group, State.group, h]
theorem Group.closed_ne_empty {y : Group} (h : y.closed = true) : y ≠ Group.empty := fun he => Bool.false_ne_true ((congrArg Group.closed he).symm.trans h)
theorem Group.agreed_ne_empty {y : Group} {a : Nat} (h : y.agreed = some a) : y ≠ Group.empty := fun he => Option.noConfusion rfl (heq_of_eq ((congrArg Group.agreed he).symm.trans h))

/-- Telling the members of a group changes nothing but what goes out. -/
theorem State.sendGroup_eq (s : State) (g m type step : Nat) (ws : List Nat) : ∃ o, s.sendGroup g m type step ws = { s with outFlits := o } := by
  unfold State.sendGroup State.sendFlit
  split
  · exact ⟨s.outFlits, rfl⟩
  · exact ⟨_, rfl⟩
theorem State.sendMembers_eq (s : State) (g type step : Nat) (ws : List Nat) : ∃ o, s.sendMembers g type step ws = { s with outFlits := o } :=
  foldl_inv _ (fun t : State => ∃ o, t = { s with outFlits := o })
    (fun t m ⟨o, ht⟩ => by
      obtain ⟨o', h'⟩ := t.sendGroup_eq g m type step ws
      exact ⟨o', h'.trans (by rw [ht])⟩) _ s ⟨s.outFlits, rfl⟩
theorem State.sendFinal_eq (s : State) (g : Nat) : ∃ o, s.sendFinal g = { s with outFlits := o } := by
  unfold State.sendFinal
  split
  · exact ⟨s.outFlits, rfl⟩
  · exact State.sendGroup_eq ..
theorem State.sendFinal_groups (s : State) (g : Nat) : (s.sendFinal g).groups = s.groups := by
  obtain ⟨o, ho⟩ := s.sendFinal_eq g
  rw [ho]
theorem State.sendMembers_groups (s : State) (g type step : Nat) (ws : List Nat) : (s.sendMembers g type step ws).groups = s.groups := by
  obtain ⟨o, ho⟩ := s.sendMembers_eq g type step ws
  rw [ho]

/-! ### AGREED (R414) -/

/-- What agreeing on a value may change of memory and of the cores. -/
structure AgreesOnly (s u : State) (g : Nat) : Prop where
  mem : ∀ z, z < groupAddr g + 16 ∨ groupAddr g + 22 ≤ z → u.mem.byte z = s.mem.byte z
  core : ∀ j, (u.core j).bare = (s.core j).bare

theorem AgreesOnly.refl (s : State) (g : Nat) : AgreesOnly s s g := ⟨fun _ _ => rfl, fun _ => rfl⟩
theorem AgreesOnly.after_send {s t u : State} {g : Nat} (h : AgreesOnly t u g) (ht : ∃ o, t = { s with outFlits := o }) : AgreesOnly s u g := by
  obtain ⟨o, rfl⟩ := ht
  exact ⟨h.mem, h.core⟩

theorem State.applyAgreed_group (s : State) (g a : Nat) : (s.applyAgreed g a).group g = { s.group g with agreed := some a } := by
  have hgroup := State.group_updGroup_of_ne (s := s.putGroup g 16 6 a) (g := g) (f := fun x => { x with agreed := some a }) (Group.agreed_ne_empty rfl)
  unfold State.applyAgreed
  exact (State.group_of_groups (foldl_keeps _ State.groups (fun _ _ => State.updCore_groups ..) _ _) g).trans hgroup
theorem State.applyAgreed_mem (s : State) (g a : Nat) : (s.applyAgreed g a).mem = s.mem.write (groupAddr g + 16) 6 a := by
  unfold State.applyAgreed
  exact foldl_keeps _ State.mem (fun _ _ => State.updCore_mem ..) _ _
/-- Each core reads by `p` as before a change that leaves `p`. -/
theorem State.read_foldl_updCore {α : Type} (p : Core → α) {f : Core → Core} (hf : ∀ c, p (f c) = p c) (l : List Nat) (s : State) (j : Nat) :
    p ((l.foldl (fun (s : State) c => s.updCore c f) s).core j) = p (s.core j) :=
  (Retains.foldl (p := p) fun t _ => Retains.updCore (.refl t) hf).core j
theorem State.applyAgreed_core (s : State) (g a j : Nat) : ((s.applyAgreed g a).core j).bare = (s.core j).bare := by
  unfold State.applyAgreed
  dsimp only
  refine (State.read_foldl_updCore Core.bare ?keeps _ _ j).trans ?start
  case keeps => exact fun _ => rfl
  case start => exact congrArg Core.bare (State.core_of_cores rfl j)
theorem State.applyAgreed_only (hs : s.mem.wf = true) (a : Nat) : AgreesOnly s (s.applyAgreed g a) g where
  mem z hz := by
    rw [State.applyAgreed_mem]
    exact Memory.byte_write_outside _ hs (by omega)
  core j := s.applyAgreed_core g a j
theorem State.applyAgreed_field (hs : s.mem.wf = true) (a : Nat) : (s.applyAgreed g a).mem.read (groupAddr g + 16) 6 = a % 2 ^ 48 := by
  rw [State.applyAgreed_mem, Memory.read_write_same _ _ _ _ hs]
  rfl

/-- The value of a member that the collector has: none where its FINAL has not come. -/
def State.finalOf (s : State) (g m : Nat) : Option Nat :=
  if m = s.selfIndex g then some (s.group g).commit
  else match (s.group g).finals.find? fun f => f.1 == m with
    | some f => some f.2
    | none => if (s.group g).silent.contains m then some (sget 0 (s.group g).steps m) else none
/-- The least of the values that the collector has. -/
def State.leastFinal (s : State) (g : Nat) : Nat := (((s.members g).map (s.finalOf g)).filterMap id).foldl min (s.group g).commit
def State.canAgree (s : State) (g : Nat) : Bool :=
  (s.group g).closed && (s.group g).agreed.isNone && s.actingAborter g == s.selfIndex g && ((s.members g).map (s.finalOf g)).all Option.isSome
theorem State.tryAgree_eq (s : State) (g : Nat) : s.tryAgree g = if s.canAgree g then (s.sendMembers g 8 (s.leastFinal g) []).applyAgreed g (s.leastFinal g) else s := rfl
theorem State.tryAgree_only (hs : s.mem.wf = true) : AgreesOnly s (s.tryAgree g) g := by
  rw [State.tryAgree_eq]
  split
  · obtain ⟨o, ho⟩ := s.sendMembers_eq g 8 (s.leastFinal g) []
    exact (State.applyAgreed_only (by rw [ho]; exact hs) _).after_send ⟨o, ho⟩
  · exact .refl s g

/-- Agreeing changes nothing of the group but what is agreed. -/
theorem State.tryAgree_group (s : State) (g : Nat) : ∃ a, (s.tryAgree g).group g = { s.group g with agreed := a } := by
  rw [State.tryAgree_eq]
  split
  · rw [State.applyAgreed_group, State.group_of_groups (State.sendMembers_groups ..)]
    exact ⟨_, rfl⟩
  · exact ⟨_, rfl⟩

theorem foldl_min_le (l : List Nat) (c : Nat) : l.foldl min c ≤ c ∧ ∀ x ∈ l, l.foldl min c ≤ x := by
  induction l generalizing c with
  | nil => exact ⟨Nat.le_refl c, fun _ h => absurd h List.not_mem_nil⟩
  | cons y l ih =>
    obtain ⟨hc, hl⟩ := ih (min c y)
    refine ⟨Nat.le_trans hc (Nat.min_le_left ..), fun x hx => ?_⟩
    rcases List.mem_cons.mp hx with rfl | h
    · exact Nat.le_trans hc (Nat.min_le_right ..)
    · exact hl x h
theorem State.leastFinal_le {m a : Nat} (hm : m ∈ s.members g) (h : s.finalOf g m = some a) : s.leastFinal g ≤ a :=
  (foldl_min_le _ _).2 a (List.mem_filterMap.mpr ⟨some a, h ▸ List.mem_map_of_mem hm, rfl⟩)
theorem State.finalOf_find {m : Nat} {f : Nat × Nat} (hm : m ≠ s.selfIndex g) (h : ((s.group g).finals.find? fun f => f.1 == m) = some f) : s.finalOf g m = some f.2 := by
  rw [State.finalOf, if_neg hm, h]
theorem State.finalOf_self (s : State) (g : Nat) : s.finalOf g (s.selfIndex g) = some (s.group g).commit := if_pos rfl
theorem find?_kput_other {α : Type} {a k : Nat} (h : k ≠ a) (l : List (Nat × α)) (x : α) : (kput l a x).find? (fun e => e.1 == k) = l.find? fun e => e.1 == k := by
  have hne : (a == k) = false := beq_false_of_ne h.symm
  induction l with
  | nil => simp [kput, hne]
  | cons e l ih =>
    obtain ⟨i, y⟩ := e
    unfold kput
    split
    · rw [List.find?_cons_of_neg (by simp [hne])]
    · split
      next hi =>
        rw [List.find?_cons_of_neg (by simp [hne]), List.find?_cons_of_neg (by simp [← hi, hne])]
      · simp only [List.find?_cons, ih]

/-! ### ABORT (R414, R130) -/

/-- A core that has not halted hears of an abort. -/
def Core.abort (k : Cause) (c : Core) : Core := if c.run = .halted ∨ c.run = .complete then c else { c with causes := c.causes ++ [k] }
theorem Core.run_abort (k : Cause) (c : Core) : (c.abort k).run = c.run := by
  unfold Core.abort
  split <;> rfl
theorem Core.mem_abort {k : Cause} {c : Core} (h1 : c.run ≠ .halted) (h2 : c.run ≠ .complete) : k ∈ (c.abort k).causes := by
  rw [Core.abort, if_neg (by tauto)]
  exact List.mem_append_right _ (List.mem_singleton_self k)

theorem State.abortLaunch_groups (s : State) (g aborter : Nat) (l : Launch) : (s.abortLaunch g aborter l).groups = s.groups := by
  unfold State.abortLaunch
  dsimp only
  split
  · exact State.post_groups ..
  · rfl
  · rfl
  · exact foldl_keeps _ State.groups (fun _ _ => State.updCore_groups ..) _ _
/-- Every core of a running launch that has not halted has the cause. -/
theorem State.abortLaunch_causes {aborter : Nat} {l : Launch} (hp : l.phase = .running) {c : Nat} (hc : c ∈ l.cores) (h1 : (s.core c).run ≠ .halted) (h2 : (s.core c).run ≠ .complete) :
    (⟨0x12, g % 256 + 2 ^ 8 * aborter, false⟩ : Cause) ∈ ((s.abortLaunch g aborter l).core c).causes := by
  generalize hk : (⟨0x12, g % 256 + 2 ^ 8 * aborter, false⟩ : Cause) = k
  obtain ⟨t, ht, heq⟩ : ∃ t : State, t.cores = s.cores ∧ s.abortLaunch g aborter l = l.cores.foldl (fun (s : State) c => s.updCore c (Core.abort k)) t := by
    subst hk
    unfold State.abortLaunch
    dsimp only
    rw [hp]
    dsimp only
    refine ⟨_, ?_, rfl⟩
    rfl
  have hrun := State.read_foldl_updCore Core.run (Core.run_abort k) l.cores t c
  obtain ⟨d, hd⟩ := State.core_foldl_updCore_mem (f := fun _ => Core.abort k) t hc
  rw [hd, Core.run_abort, State.core_of_cores ht] at hrun
  rw [heq, hd]
  exact Core.mem_abort (hrun ▸ h1) (hrun ▸ h2)

/-- The state of a group record that shows an abort. -/
def State.markAborted (s : State) (g cause aborter : Nat) : State :=
  ((s.putGroup g 22 1 1).putGroup g 23 3 (cause + 2 ^ 8 * aborter)).updGroup g fun x => { x with closed := true }
/-- The launches of a group hear of an abort. -/
def State.abortMembers (s : State) (g aborter : Nat) : State := (s.launches.filter fun l => l.groupSlot == some g).foldl (fun (s : State) l => s.abortLaunch g aborter l) s
theorem State.beginAbort_eq (s : State) (g cause aborter : Nat) : s.beginAbort g cause aborter = (((s.markAborted g cause aborter).abortMembers g aborter).sendFinal g).tryAgree g := rfl
theorem State.abortMembers_mem (s : State) (g aborter : Nat) : (s.abortMembers g aborter).mem = s.mem := foldl_keeps _ State.mem (fun _ _ => State.abortLaunch_mem ..) _ _
theorem State.abortMembers_groups (s : State) (g aborter : Nat) : (s.abortMembers g aborter).groups = s.groups := foldl_keeps _ State.groups (fun _ _ => State.abortLaunch_groups ..) _ _
theorem State.markAborted_mem (s : State) (g cause aborter : Nat) :
    (s.markAborted g cause aborter).mem = (s.mem.write (groupAddr g + 22) 1 1).write (groupAddr g + 23) 3 (cause + 2 ^ 8 * aborter) := rfl
theorem State.markAborted_group (s : State) (g cause aborter : Nat) : (s.markAborted g cause aborter).group g = { s.group g with closed := true } :=
  State.group_updGroup_of_ne (s := (s.putGroup g 22 1 1).putGroup g 23 3 (cause + 2 ^ 8 * aborter)) (Group.closed_ne_empty rfl)

/-- R414: a group that aborts is closed; nothing else of it changes but what is agreed. -/
theorem State.beginAbort_group (s : State) (g cause aborter : Nat) : ∃ a, (s.beginAbort g cause aborter).group g = { s.group g with closed := true, agreed := a } := by
  obtain ⟨a, ha⟩ := (((s.markAborted g cause aborter).abortMembers g aborter).sendFinal g).tryAgree_group g
  rw [State.group_of_groups (State.sendFinal_groups ..), State.group_of_groups (State.abortMembers_groups ..), State.markAborted_group] at ha
  exact ⟨a, ha⟩

section
variable (hs : s.mem.wf = true) (cause aborter : Nat)
include hs

theorem State.markAborted_canon : (s.markAborted g cause aborter).mem.wf = true := by
  rw [State.markAborted_mem]
  exact Memory.wf_write _ _ _ _ (Memory.wf_write _ _ _ _ hs)
theorem State.beginAbort_only : AgreesOnly ((s.markAborted g cause aborter).abortMembers g aborter) (s.beginAbort g cause aborter) g := by
  have hcanon : ((s.markAborted g cause aborter).abortMembers g aborter).mem.wf = true := by
    rw [State.abortMembers_mem]
    exact State.markAborted_canon hs ..
  obtain ⟨o, ho⟩ := State.sendFinal_eq ((s.markAborted g cause aborter).abortMembers g aborter) g
  rw [State.beginAbort_eq]
  exact (State.tryAgree_only (by rw [ho]; exact hcanon)).after_send ⟨o, ho⟩
/-- R414: ABORTED, and CAUSE with ABORTER, stand in the group record. -/
theorem State.beginAbort_record (hx : cause + 2 ^ 8 * aborter < 2 ^ 24) : (s.beginAbort g cause aborter).mem.read (groupAddr g + 22) 1 = 1 ∧
    (s.beginAbort g cause aborter).mem.read (groupAddr g + 23) 3 = cause + 2 ^ 8 * aborter := by
  have hfirst : (s.mem.write (groupAddr g + 22) 1 1).wf = true := Memory.wf_write _ _ _ _ hs
  have hbyte {z : Nat} (hz : groupAddr g + 22 ≤ z) :
      (s.beginAbort g cause aborter).mem.byte z = ((s.mem.write (groupAddr g + 22) 1 1).write (groupAddr g + 23) 3 (cause + 2 ^ 8 * aborter)).byte z := by
    rw [(State.beginAbort_only hs cause aborter).mem z (.inr hz), State.abortMembers_mem, State.markAborted_mem]
  refine ⟨(Memory.read_congr fun i _ => hbyte (by omega)).trans ?_, (Memory.read_congr fun i _ => hbyte (by omega)).trans ?_⟩
  · rw [Memory.read_write_outside _ hfirst (by omega), Memory.read_write_same _ _ _ _ hs]
    rfl
  · rw [Memory.read_write_same _ _ _ _ hfirst]
    exact Nat.mod_eq_of_lt hx

end

theorem State.raiseAbort_group (cause : Nat) (hc : (s.group g).closed = false) : ∃ a, (s.raiseAbort g cause).group g = { s.group g with closed := true, agreed := a } := by
  have hgroup := (s.sendMembers g 6 0 [cause]).beginAbort_group g cause (s.selfIndex g)
  rw [State.raiseAbort, hc, if_neg Bool.false_ne_true]
  rwa [State.group_of_groups (State.sendMembers_groups ..)] at hgroup

/-! ### Pre-emption (R416) -/

theorem State.endRuns_none {ctag : Nat} (h : s.runsOf ctag = false) : s.endRuns ctag = s := by
  have hnone : ∀ p ∈ s.porters, s.runOf p.1 ctag = none := by simpa [State.runsOf] using h
  have hsteps (l : List (Nat × Porter)) (hl : ∀ p ∈ l, s.runOf p.1 ctag = none) :
      l.foldl (fun (s : State) p => match s.runOf p.1 ctag with | none => s | some r => s.endRun p.1 ctag r) s = s := by
    induction l with
    | nil => rfl
    | cons p l ih =>
      rw [List.foldl_cons, hl p (List.mem_cons_self ..)]
      exact ih fun q hq => hl q (List.mem_cons_of_mem _ hq)
  exact hsteps s.porters hnone
theorem State.requestPreempt_posts {l : Launch} (h : s.runsOf l.ctag = false) : (.preempt, .launch l.id) ∈ (s.requestPreempt l).pending ∧ (s.requestPreempt l).mem = s.mem := by
  unfold State.requestPreempt
  rw [State.endRuns_none h]
  exact ⟨State.mem_pending_post .., State.post_mem ..⟩

/-! ### The members of a group -/

/-- The member that a module is: an index in the group's list, below 2^13. -/
theorem State.memberOf_mem {src m : Nat} (h : s.memberOf g src = some m) : m ∈ s.members g := List.mem_of_find?_eq_some h
theorem State.member_lt {m : Nat} (h : m ∈ s.members g) : m < 2 ^ 13 := by
  have hcount : s.memberCount g < 2 ^ 13 := Nat.mod_lt _ (by decide)
  have hm := List.mem_range.mp h
  omega

end

end Sys2Proof.Machine
end

section
/-! Traffic of a collective group settled (O50). -/
namespace Sys2Proof.Machine
open Sys2Proof.Claims

/-! ### The tables of a group -/

section
variable {s u : State} {g : Nat} (hf : (u.group g).fixed = (s.group g).fixed) (hm : u.mem = s.mem)
include hf hm

theorem State.groupTable_of : u.groupTable g = s.groupTable g := by
  unfold State.groupTable State.groupRecord
  rw [hf, hm]
theorem State.members_of : u.members g = s.members g := by rw [State.members, State.memberCount, State.groupTable_of hf hm]; rfl
theorem State.selfIndex_of : u.selfIndex g = s.selfIndex g := by rw [State.selfIndex, State.groupTable_of hf hm]; rfl
theorem State.actingAborter_of (hs : (u.group g).silent = (s.group g).silent) : u.actingAborter g = s.actingAborter g := by
  have haborter : u.aborter g = s.aborter g := by rw [State.aborter, State.groupRecord, hm]; rfl
  unfold State.actingAborter
  rw [hs, haborter, State.members_of hf hm]

end

/-! ### The events of a group -/

section
variable {s : State} {x : Flit} {ty m : Nat} {f : State → Nat → Nat → List Byte → State}

theorem onMember_arrived (ha : Arrived s ty x) (hm : s.memberOf (flitGroup x.bytes) (flitSrc x.bytes) = some m) :
    onMember ty f s = .next (f (s.linkGood x.port (flitSeq x.bytes)) (flitGroup x.bytes) m x.bytes) := by
  have hmember : (s.linkGood x.port (flitSeq x.bytes)).memberOf (flitGroup x.bytes) (flitSrc x.bytes) = some m := hm
  rw [onMember_eq, onFlit_arrived ha, memberAct, hmember]
theorem flitGroup_lt (bs : List Byte) : flitGroup bs < 256 := Nat.mod_lt _ (by decide)
theorem flitStep_lt (bs : List Byte) : flitStep bs < 2 ^ 48 := Nat.mod_lt _ (by decide)

theorem execSliceEnd_eq {l : Launch} {g : Nat} (hat : At s (.launch l.id)) (hl : s.launches.find? (fun k => k.id == l.id) = some l) (hg : l.groupSlot = some g) : exec .sliceEnd s =
    if l.phase ≠ .running then .next (s.unpost .sliceEnd (.launch l.id))
    else if s.clock < l.released + s.sliceUs g * mhz s.stkN then .next s
    else .next (((s.unpost .sliceEnd (.launch l.id)).putGroup g 40 8 (bits (s.groupRecord g) 383 320 + 1)).setLaunch { l with sliceOver := true }) := by
  have hcur : s.cur = .event (.launch l.id) := hat
  rw [exec_sliceEnd, execSliceEnd, hcur]
  dsimp only
  rw [hl]
  dsimp only
  rw [hg]
  rfl

/-! ### The gang gate (R415) -/

variable {l : Launch} {g : Nat}

theorem State.tryGate_closed {resume : Bool} (hp : l.phase = .gate resume) (hg : l.groupSlot = some g) (hc : (s.group g).closed = true) : s.tryGate l = s.retireAborted l := by
  unfold State.tryGate
  rw [hp, hg]
  exact if_pos hc
theorem State.tryGate_opens {resume : Bool} (hp : l.phase = .gate resume) (hg : l.groupSlot = some g) (hc : (s.group g).closed = false) (ho : s.gateOpen g l.epoch = true) :
    s.tryGate l = s.release l resume := by
  unfold State.tryGate
  rw [hp, hg]
  exact (if_neg (by simp [hc])).trans (if_pos ho)
theorem State.tryGate_waits {resume : Bool} (hp : l.phase = .gate resume) (hg : l.groupSlot = some g) (hc : (s.group g).closed = false) (ho : s.gateOpen g l.epoch = false) : s.tryGate l = s := by
  unfold State.tryGate
  rw [hp, hg]
  exact (if_neg (by simp [hc])).trans (if_neg (by simp [ho]))
theorem State.release_launches (s : State) (l : Launch) :
    (s.release l false).launches = (s.setLaunch { l with phase := .running, started := true, released := s.clock, stall := 0, sliceOver := false }).launches := by
  have hpost (c : Prop) [Decidable c] (t : State) : (if c then t.post .sliceEnd (.launch l.id) else t).launches = t.launches := by
    split
    · exact State.post_launches ..
    · rfl
  unfold State.release
  dsimp only
  rw [Bool.false_and, if_neg Bool.false_ne_true]
  exact hpost ..
theorem State.retireAborted_launches (s : State) (l : Launch) : (s.retireAborted l).launches = (s.setLaunch { l with phase := .retiring, failure := some ⟨5, 0, 0, 0, 0⟩ }).launches :=
  State.post_launches ..
/-- A READY of a member, as it is kept. -/
def State.keepReady (s : State) (g m e : Nat) : State := s.updGroup g fun x => { x with readies := sput 0 x.readies m e }
theorem State.keepReady_group {m e : Nat} (h : e ≠ 0 ∨ (s.group g).closed = true) : (s.keepReady g m e).group g = { s.group g with readies := sput 0 (s.group g).readies m e } := by
  refine State.group_updGroup_of_ne fun he => ?_
  rcases h with h | h
  · have hnone : sput 0 (s.group g).readies m e = [] := congrArg Group.readies he
    have hread := sget_sput_of_ne h (s.group g).readies m
    rw [hnone] at hread
    exact h hread.symm
  · exact Group.closed_ne_empty (y := { s.group g with readies := sput 0 (s.group g).readies m e }) h he
theorem readyFlit_arrives {m : Nat} (ha : Arrived s 9 x) (hm : s.memberOf (flitGroup x.bytes) (flitSrc x.bytes) = some m) (hid : flitWord x.bytes 0 = s.groupTable (flitGroup x.bytes) % 2 ^ 32)
    (hl : s.launches = [l]) (hg : l.groupSlot = some (flitGroup x.bytes)) :
    exec .readyFlit s = .next (((s.linkGood x.port (flitSeq x.bytes)).keepReady (flitGroup x.bytes) m (flitWord x.bytes 1 + 2 ^ 32 * flitWord x.bytes 2)).tryGate l) := by
  have hgid : flitWord x.bytes 0 = (s.linkGood x.port (flitSeq x.bytes)).groupId (flitGroup x.bytes) := hid.trans (bits_low _ 31).symm
  have hlaunch (t : State) (ht : t.launches = s.launches) : (t.launches.filter fun l => l.groupSlot == some (flitGroup x.bytes)).foldl State.tryGate t = t.tryGate l := by
    rw [ht, hl]
    simp [hg]
  refine (exec_readyFlit s).trans ((onMember_arrived ha hm).trans (congrArg _ ?_))
  exact (if_pos hgid).trans (hlaunch _ rfl)

end
end Sys2Proof.Machine

namespace Sys2Proof.Proofs
open Sys2Proof Sys2Proof.Machine Sys2Proof.Claims

section
variable {s : State} {x : Flit} {m : Nat} (hm : s.memberOf (flitGroup x.bytes) (flitSrc x.bytes) = some m) (hs : s.mem.wf = true)
include hm

/-- R413. -/
theorem stepFlit_keeps (ha : Arrived s 5 x) (hv : flitStep x.bytes ≠ 0) : leadsTo .stepFlit s fun u =>
    sget 0 (u.group (flitGroup x.bytes)).steps m = flitStep x.bytes ∧ (u.group (flitGroup x.bytes)).commit = (s.group (flitGroup x.bytes)).commit ∧ u.mem = s.mem ∧ u.cores = s.cores := by
  have hread := sget_sput_of_ne hv (s.group (flitGroup x.bytes)).steps m
  have hgroup := State.group_updGroup_of_ne (s := s.linkGood x.port (flitSeq x.bytes)) (g := flitGroup x.bytes) (f := fun y => { y with steps := sput 0 y.steps m (flitStep x.bytes) })
    fun he => by
      have hnone : sput 0 (s.group (flitGroup x.bytes)).steps m (flitStep x.bytes) = [] := congrArg Group.steps he
      rw [hnone] at hread
      exact hv hread.symm
  have hsteps := congrArg (fun y : Group => sget 0 y.steps m) hgroup
  have hcommit := congrArg Group.commit hgroup
  exact ⟨_, (exec_stepFlit s).trans (onMember_arrived ha hm), hsteps.trans hread, hcommit, rfl, rfl⟩

theorem abortFlit_answers (ha : Arrived s 6 x) (hc : (s.group (flitGroup x.bytes)).closed = true) : exec .abortFlit s =
    .next ((s.linkGood x.port (flitSeq x.bytes)).sendGroup (flitGroup x.bytes) m 7 (s.group (flitGroup x.bytes)).commit []) :=
  (exec_abortFlit s).trans ((onMember_arrived ha hm).trans (congrArg _ (if_pos hc)))

include hs in
/-- R414: an ABORT that finds the commit word open. -/
theorem abortFlit_closes {l : Launch} (ha : Arrived s 6 x) (hc : (s.group (flitGroup x.bytes)).closed = false) (hl : s.launches = [l]) (hg : l.groupSlot = some (flitGroup x.bytes))
    (hp : l.phase = .running) : leadsTo .abortFlit s fun u => (u.group (flitGroup x.bytes)).closed = true ∧
      u.mem.read (groupAddr (flitGroup x.bytes) + 22) 1 = 1 ∧ u.mem.read (groupAddr (flitGroup x.bytes) + 23) 3 = flitWord x.bytes 0 % 2 ^ 8 + 2 ^ 8 * m ∧
      ∀ c ∈ l.cores, (s.core c).run ≠ .halted → (s.core c).run ≠ .complete → (⟨0x12, flitGroup x.bytes + 2 ^ 8 * m, false⟩ : Cause) ∈ (u.core c).causes := by
  have hopen : ¬ ((s.linkGood x.port (flitSeq x.bytes)).group (flitGroup x.bytes)).closed = true := fun h => Bool.false_ne_true (hc.symm.trans h)
  refine ⟨_, (exec_abortFlit s).trans ((onMember_arrived ha hm).trans (congrArg _ (if_neg hopen))), ?_⟩
  have hm13 := State.member_lt (State.memberOf_mem hm)
  have hcanon : (s.linkGood x.port (flitSeq x.bytes)).mem.wf = true := hs
  have hlaunches : (s.linkGood x.port (flitSeq x.bytes)).launches = [l] := hl
  have hcores (c : Nat) : (s.linkGood x.port (flitSeq x.bytes)).core c = s.core c := rfl
  generalize s.linkGood x.port (flitSeq x.bytes) = t at *
  have hg256 := flitGroup_lt x.bytes
  generalize flitGroup x.bytes = g at *
  obtain ⟨a, hgroup⟩ := t.beginAbort_group g (flitWord x.bytes 0 % 2 ^ 8) m
  obtain ⟨haborted, hcause⟩ := State.beginAbort_record (g := g) hcanon (flitWord x.bytes 0 % 2 ^ 8) m (by omega)
  refine ⟨congrArg Group.closed hgroup, haborted, hcause, fun c hcore h1 h2 => ?_⟩
  have hbare := (State.beginAbort_only (g := g) hcanon (flitWord x.bytes 0 % 2 ^ 8) m).core c
  have hcauses : ((t.beginAbort g (flitWord x.bytes 0 % 2 ^ 8) m).core c).causes = (((t.markAborted g (flitWord x.bytes 0 % 2 ^ 8) m).abortMembers g m).core c).causes :=
    (congrArg Core.causes hbare : _)
  have hmembers : (t.markAborted g (flitWord x.bytes 0 % 2 ^ 8) m).abortMembers g m = (t.markAborted g (flitWord x.bytes 0 % 2 ^ 8) m).abortLaunch g m l := by
    rw [State.abortMembers, show (t.markAborted g (flitWord x.bytes 0 % 2 ^ 8) m).launches = [l] from hlaunches]
    simp [hg]
  have hmarked : (t.markAborted g (flitWord x.bytes 0 % 2 ^ 8) m).core c = s.core c := hcores c
  have hmem := State.abortLaunch_causes (s := t.markAborted g (flitWord x.bytes 0 % 2 ^ 8) m) (g := g) (aborter := m) hp hcore (hmarked ▸ h1) (hmarked ▸ h2)
  rw [Nat.mod_eq_of_lt hg256] at hmem
  rw [hcauses, hmembers]
  exact hmem

/-- A FINAL is kept for its member. -/
def keepFinal (g m v : Nat) (s : State) : State := s.updGroup g fun y => { y with finals := kput y.finals m v }
omit hm in
theorem keepFinal_group (s : State) (g m v : Nat) : (keepFinal g m v s).group g = { s.group g with finals := kput (s.group g).finals m v } := by
  refine State.group_updGroup_of_ne fun he => ?_
  have hnone : kput (s.group g).finals m v = [] := congrArg Group.finals he
  have hmem := mem_kput_self (s.group g).finals m v
  rw [hnone] at hmem
  exact List.not_mem_nil hmem
omit hm in
/-- R414: the collector agrees once the last value has come. -/
theorem keepFinal_canAgree {g v : Nat} (hc : (s.group g).closed = true) (ha : (s.group g).agreed = none) (hact : s.actingAborter g = s.selfIndex g)
    (hall : ∀ k ∈ s.members g, k = s.selfIndex g ∨ k = m ∨ ((s.group g).finals.find? fun f => f.1 == k).isSome) : (keepFinal g m v s).canAgree g = true := by
  have hgroup := keepFinal_group s g m v
  have hmembers : (keepFinal g m v s).members g = s.members g := State.members_of (congrArg Group.fixed hgroup : _) rfl
  have hself : (keepFinal g m v s).selfIndex g = s.selfIndex g := State.selfIndex_of (congrArg Group.fixed hgroup : _) rfl
  have hactor : (keepFinal g m v s).actingAborter g = s.actingAborter g := State.actingAborter_of (congrArg Group.fixed hgroup : _) rfl (congrArg Group.silent hgroup : _)
  have hvalues : (((keepFinal g m v s).members g).map ((keepFinal g m v s).finalOf g)).all Option.isSome = true := by
    rw [List.all_map, List.all_eq_true, hmembers]
    intro k hk
    show ((keepFinal g m v s).finalOf g k).isSome = true
    by_cases hks : k = s.selfIndex g
    · rw [hks, ← hself, State.finalOf_self]
      rfl
    · have hne : k ≠ (keepFinal g m v s).selfIndex g := by rwa [hself]
      by_cases hkm : k = m
      · subst hkm
        rw [State.finalOf_find (f := (k, v)) hne (by rw [hgroup]; exact find?_kput ..)]
        rfl
      · obtain ⟨f, hf⟩ := Option.isSome_iff_exists.mp (((hall k hk).resolve_left hks).resolve_left hkm)
        rw [State.finalOf_find (f := f) hne (by rw [hgroup]; exact (find?_kput_other hkm ..).trans hf)]
        rfl
  rw [State.canAgree, hvalues, hactor, hself, hact, hgroup]
  simp [hc, ha]

include hs in
theorem finalFlit_collects (ha : Arrived s 7 x) : let g := flitGroup x.bytes
    let v := flitStep x.bytes
    let y := s.group g
    leadsTo .finalFlit s fun u => (u.group g).finals.find? (fun f => f.1 == m) = some (m, v) ∧
      (y.closed = true → y.agreed = none → s.actingAborter g = s.selfIndex g → m ≠ s.selfIndex g → (∀ k ∈ s.members g, k = s.selfIndex g ∨ k = m ∨ (y.finals.find? fun f => f.1 == k).isSome) →
        ∃ a, (u.group g).agreed = some a ∧ a ≤ y.commit ∧ a ≤ v ∧ (∀ k ∈ s.members g, ∀ f, k ≠ m → k ≠ s.selfIndex g → (y.finals.find? fun f => f.1 == k) = some f → a ≤ f.2) ∧
          u.mem.read (groupAddr g + 16) 6 = a % 2 ^ 48) := by
  intro g v y
  have hrun : exec .finalFlit s = .next ((keepFinal g m v (s.linkGood x.port (flitSeq x.bytes))).tryAgree g) := (exec_finalFlit s).trans (onMember_arrived ha hm)
  refine ⟨_, hrun, ?_, fun hc hag hact hself hall => ?_⟩
  all_goals
    have hgroup := keepFinal_group (s.linkGood x.port (flitSeq x.bytes)) g m v
    have hcanon : (keepFinal g m v (s.linkGood x.port (flitSeq x.bytes))).mem.wf = true := hs
  · obtain ⟨a, hagree⟩ := State.tryAgree_group (keepFinal g m v (s.linkGood x.port (flitSeq x.bytes))) g
    rw [hagree, hgroup]
    exact find?_kput ..
  · have hcan := keepFinal_canAgree (s := s.linkGood x.port (flitSeq x.bytes)) (m := m) (v := v) hc hag hact hall
    have hmembers : (keepFinal g m v (s.linkGood x.port (flitSeq x.bytes))).members g = s.members g := State.members_of (congrArg Group.fixed hgroup : _) rfl
    have hindex : (keepFinal g m v (s.linkGood x.port (flitSeq x.bytes))).selfIndex g = s.selfIndex g := State.selfIndex_of (congrArg Group.fixed hgroup : _) rfl
    have hcommit : ((keepFinal g m v (s.linkGood x.port (flitSeq x.bytes))).group g).commit = y.commit := (congrArg Group.commit hgroup : _)
    have hfinals : ((keepFinal g m v (s.linkGood x.port (flitSeq x.bytes))).group g).finals = kput y.finals m v := (congrArg Group.finals hgroup : _)
    rw [State.tryAgree_eq, if_pos hcan]
    generalize keepFinal g m v (s.linkGood x.port (flitSeq x.bytes)) = t at *
    obtain ⟨o, ho⟩ := t.sendMembers_eq g 8 (t.leastFinal g) []
    have hmember : m ∈ t.members g := hmembers ▸ State.memberOf_mem hm
    refine ⟨t.leastFinal g, ?_, hcommit ▸ (foldl_min_le _ _).1, ?_, fun k hk f hkm hks hf => ?_, ?_⟩
    · exact congrArg Group.agreed (State.applyAgreed_group ..)
    · exact State.leastFinal_le hmember (State.finalOf_find (f := (m, v)) (hindex ▸ hself) (hfinals ▸ find?_kput ..))
    · exact State.leastFinal_le (hmembers ▸ hk) (State.finalOf_find (hindex ▸ hks) (hfinals ▸ (find?_kput_other hkm ..).trans hf))
    · exact State.applyAgreed_field (by rw [ho]; exact hcanon) _

include hs in
theorem agreedFlit_applies (ha : Arrived s 8 x) (hc : (s.group (flitGroup x.bytes)).closed = true) (hag : (s.group (flitGroup x.bytes)).agreed = none) : leadsTo .agreedFlit s fun u =>
    (u.group (flitGroup x.bytes)).agreed = some (flitStep x.bytes) ∧ u.mem.read (groupAddr (flitGroup x.bytes) + 16) 6 = flitStep x.bytes ∧
      ∀ z, z < groupAddr (flitGroup x.bytes) + 16 ∨ groupAddr (flitGroup x.bytes) + 22 ≤ z → u.mem.byte z = s.mem.byte z := by
  have hopen : (((s.linkGood x.port (flitSeq x.bytes)).group (flitGroup x.bytes)).closed && ((s.linkGood x.port (flitSeq x.bytes)).group (flitGroup x.bytes)).agreed.isNone) = true :=
    Bool.and_eq_true_iff.mpr ⟨hc, Option.isNone_iff_eq_none.mpr hag⟩
  refine ⟨_, (exec_agreedFlit s).trans ((onMember_arrived ha hm).trans (congrArg _ (if_pos hopen))), ?_, ?_, ?_⟩
  · exact congrArg Group.agreed (State.applyAgreed_group ..)
  · rw [State.applyAgreed_field (s := s.linkGood x.port (flitSeq x.bytes)) hs, Nat.mod_eq_of_lt (flitStep_lt _)]
  · exact (State.applyAgreed_only (s := s.linkGood x.port (flitSeq x.bytes)) hs _).mem

section
variable {l : Launch} (ha : Arrived s 9 x) (hid : flitWord x.bytes 0 = s.groupTable (flitGroup x.bytes) % 2 ^ 32) (hl : s.launches = [l]) (hg : l.groupSlot = some (flitGroup x.bytes))
  (hp : l.phase = .gate false)
include ha hid hl hg hp

theorem readyFlit_aborted (hc : (s.group (flitGroup x.bytes)).closed = true) :
    leadsTo .readyFlit s fun u => ∃ k ∈ u.launches, k.id = l.id ∧ k.phase = .retiring ∧ ∃ f, k.failure = some f ∧ f.status = 5 := by
  have hrun := readyFlit_arrives ha hm hid hl hg
  have hgroup := State.keepReady_group (s := s.linkGood x.port (flitSeq x.bytes)) (g := flitGroup x.bytes) (m := m) (e := flitWord x.bytes 1 + 2 ^ 32 * flitWord x.bytes 2) (.inr hc)
  have hclosed := (congrArg Group.closed hgroup).trans hc
  rw [State.tryGate_closed hp hg hclosed] at hrun
  refine ⟨_, hrun, ?_⟩
  dsimp only
  have hlaunch (t : State) (ht : t.launches = [l]) : (t.retireAborted l).launches = [{ l with phase := .retiring, failure := some ⟨5, 0, 0, 0, 0⟩ }] := by
    rw [State.retireAborted_launches]
    exact State.setLaunch_launches_one ht rfl
  rw [hlaunch ((s.linkGood x.port (flitSeq x.bytes)).keepReady (flitGroup x.bytes) m (flitWord x.bytes 1 + 2 ^ 32 * flitWord x.bytes 2)) hl]
  exact ⟨_, List.mem_singleton_self _, rfl, rfl, _, rfl, rfl⟩

variable (hc : (s.group (flitGroup x.bytes)).closed = false) (he : flitWord x.bytes 1 + 2 ^ 32 * flitWord x.bytes 2 ≠ 0)
include hc he

theorem readyFlit_opens (hm' : l.epoch ≤ flitWord x.bytes 1 + 2 ^ 32 * flitWord x.bytes 2)
    (hall : ∀ k ∈ s.members (flitGroup x.bytes), k ≠ m → l.epoch ≤ sget 0 (s.group (flitGroup x.bytes)).readies k) (hr : swf 0 (s.group (flitGroup x.bytes)).readies = true) :
    leadsTo .readyFlit s fun u => ∃ k ∈ u.launches, k.id = l.id ∧ k.phase = .running ∧ k.started = true ∧ k.released = s.clock := by
  have hrun := readyFlit_arrives ha hm hid hl hg
  have hlaunches : ((s.linkGood x.port (flitSeq x.bytes)).keepReady (flitGroup x.bytes) m (flitWord x.bytes 1 + 2 ^ 32 * flitWord x.bytes 2)).launches = [l] := hl
  have hclock : ((s.linkGood x.port (flitSeq x.bytes)).keepReady (flitGroup x.bytes) m (flitWord x.bytes 1 + 2 ^ 32 * flitWord x.bytes 2)).clock = s.clock := rfl
  have hgroup := State.keepReady_group (s := s.linkGood x.port (flitSeq x.bytes)) (g := flitGroup x.bytes) (m := m) (e := flitWord x.bytes 1 + 2 ^ 32 * flitWord x.bytes 2) (.inl he)
  have hmembers : ((s.linkGood x.port (flitSeq x.bytes)).keepReady (flitGroup x.bytes) m (flitWord x.bytes 1 + 2 ^ 32 * flitWord x.bytes 2)).members (flitGroup x.bytes) =
      s.members (flitGroup x.bytes) := State.members_of (s := s) (congrArg Group.fixed hgroup : _) rfl
  have hclosed := (congrArg Group.closed hgroup).trans hc
  have hreadies := congrArg Group.readies hgroup
  dsimp only at hreadies
  generalize (s.linkGood x.port (flitSeq x.bytes)).keepReady (flitGroup x.bytes) m (flitWord x.bytes 1 + 2 ^ 32 * flitWord x.bytes 2) = t at *
  have hopen : t.gateOpen (flitGroup x.bytes) l.epoch = true := by
    rw [State.gateOpen, List.all_eq_true, hmembers]
    intro k hk
    rw [decide_eq_true_iff, hreadies]
    by_cases hkm : k = m
    · rw [hkm, sget_sput_of_ne he]
      exact hm'
    · exact (sget_sput_other 0 (s.group (flitGroup x.bytes)).readies m k _ none hr hkm).symm ▸ hall k hk hkm
  rw [State.tryGate_opens hp hg hclosed hopen] at hrun
  refine ⟨_, hrun, ?_⟩
  dsimp only
  rw [State.release_launches, hclock, State.setLaunch_launches_one (m := l) (k := { l with phase := .running, started := true, released := s.clock, stall := 0, sliceOver := false }) hlaunches rfl]
  exact ⟨_, List.mem_singleton_self _, rfl, rfl, rfl, rfl⟩

theorem readyFlit_waits (hlate : flitWord x.bytes 1 + 2 ^ 32 * flitWord x.bytes 2 < l.epoch) :
    leadsTo .readyFlit s fun u => u.launches = s.launches ∧ sget 0 (u.group (flitGroup x.bytes)).readies m = flitWord x.bytes 1 + 2 ^ 32 * flitWord x.bytes 2 := by
  have hrun := readyFlit_arrives ha hm hid hl hg
  have hlaunches : ((s.linkGood x.port (flitSeq x.bytes)).keepReady (flitGroup x.bytes) m (flitWord x.bytes 1 + 2 ^ 32 * flitWord x.bytes 2)).launches = s.launches := rfl
  have hgroup := State.keepReady_group (s := s.linkGood x.port (flitSeq x.bytes)) (g := flitGroup x.bytes) (m := m) (e := flitWord x.bytes 1 + 2 ^ 32 * flitWord x.bytes 2) (.inl he)
  have hmembers : ((s.linkGood x.port (flitSeq x.bytes)).keepReady (flitGroup x.bytes) m (flitWord x.bytes 1 + 2 ^ 32 * flitWord x.bytes 2)).members (flitGroup x.bytes) =
      s.members (flitGroup x.bytes) := State.members_of (s := s) (congrArg Group.fixed hgroup : _) rfl
  have hclosed := (congrArg Group.closed hgroup).trans hc
  have hreadies := congrArg Group.readies hgroup
  dsimp only at hreadies
  generalize (s.linkGood x.port (flitSeq x.bytes)).keepReady (flitGroup x.bytes) m (flitWord x.bytes 1 + 2 ^ 32 * flitWord x.bytes 2) = t at *
  have hread : sget 0 (t.group (flitGroup x.bytes)).readies m = flitWord x.bytes 1 + 2 ^ 32 * flitWord x.bytes 2 := by rw [hreadies, sget_sput_of_ne he]
  have hshut : t.gateOpen (flitGroup x.bytes) l.epoch = false := by
    rw [State.gateOpen, List.all_eq_false]
    exact ⟨m, hmembers ▸ State.memberOf_mem hm, by simpa [hread] using hlate⟩
  rw [State.tryGate_waits hp hg hclosed hshut] at hrun
  exact ⟨_, hrun, hlaunches, hread⟩

end

theorem gangpreFlit_preempts {l : Launch} (ha : Arrived s 11 x) (hl : s.launches = [l]) (hg : l.groupSlot = some (flitGroup x.bytes)) (hpre : l.preen = true) (hst : l.started = true)
    (hp : l.phase = .running) (hlive : ∀ c ∈ l.cores, (s.core c).live = true) (hr : s.runsOf l.ctag = false) :
    leadsTo .gangpreFlit s fun u => (.preempt, .launch l.id) ∈ u.pending ∧ u.mem = s.mem := by
  have hlive' : (l.cores.all fun c => ((s.linkGood x.port (flitSeq x.bytes)).core c).live) = true := List.all_eq_true.mpr hlive
  have hone : ((s.linkGood x.port (flitSeq x.bytes)).launches.filter fun l => l.groupSlot == some (flitGroup x.bytes) && l.preen && l.started && l.phase == .running &&
      l.cores.all fun c => ((s.linkGood x.port (flitSeq x.bytes)).core c).live) = [l] := by
    rw [show (s.linkGood x.port (flitSeq x.bytes)).launches = [l] from hl]
    simp only [List.filter_cons, hg, hpre, hst, hp, hlive', beq_self_eq_true, Bool.and_self, if_true, List.filter_nil]
  refine ⟨_, (exec_gangpreFlit s).trans ((onMember_arrived ha hm).trans (congrArg (fun ls => Host.Outcome.next (List.foldl State.requestPreempt (s.linkGood x.port (flitSeq x.bytes)) ls)) hone)), ?_⟩
  exact State.requestPreempt_posts (s := s.linkGood x.port (flitSeq x.bytes)) hr

end

/-- A member is kept as one that cannot be reached. -/
def silence (s : State) (g m : Nat) : State := s.updGroup g fun x => { x with silent := nput x.silent m }
theorem silence_group (s : State) (g m : Nat) : (silence s g m).group g = { s.group g with silent := nput (s.group g).silent m } := by
  refine State.group_updGroup_of_ne fun he => ?_
  have hnone : nput (s.group g).silent m = [] := congrArg Group.silent he
  have hmem := mem_nput_self (s.group g).silent m
  rw [hnone] at hmem
  exact List.not_mem_nil hmem
theorem unreachable_eq (s : State) (g m : Nat) : s.unreachable g m =
    if (s.group g).closed then
      if (s.group g).agreed.isSome then silence s g m
      else (if (silence s g m).actingAborter g = s.actingAborter g then silence s g m else (silence s g m).sendFinal g).tryAgree g
    else (silence s g m).raiseAbort g 0xFF := rfl

/-- R414: a member that cannot be reached is silent, and the commit word is closed. -/
theorem unreachable_group (s : State) (g m : Nat) : ∃ a, (s.unreachable g m).group g = { s.group g with silent := nput (s.group g).silent m, closed := true, agreed := a } := by
  have hgroup := silence_group s g m
  have hsent : (if (silence s g m).actingAborter g = s.actingAborter g then silence s g m else (silence s g m).sendFinal g).group g = (silence s g m).group g := by
    split
    · rfl
    · exact State.group_of_groups (State.sendFinal_groups ..) g
  rw [unreachable_eq]
  by_cases hc : (s.group g).closed = true
  · rw [if_pos hc, ← hc]
    split
    · exact ⟨_, hgroup⟩
    · obtain ⟨a, ha⟩ := State.tryAgree_group (if (silence s g m).actingAborter g = s.actingAborter g then silence s g m else (silence s g m).sendFinal g) g
      rw [hsent, hgroup] at ha
      exact ⟨a, ha⟩
  · have hopen : ((silence s g m).group g).closed = false := by
      rw [hgroup]
      exact Bool.eq_false_iff.mpr hc
    obtain ⟨a, ha⟩ := State.raiseAbort_group 0xFF hopen
    rw [hgroup] at ha
    rw [if_neg hc]
    exact ⟨a, ha⟩
theorem memberUnreachable_silences {s : State} {g m : Nat} (hat : At s (.member g m)) (hg : g < 256) (hm : m < 4608) (hr : s.ready = true) (hcount : m < s.memberCount g) (hself : m ≠ s.selfIndex g) :
    leadsTo .memberUnreachable s fun u => m ∈ (u.group g).silent ∧ (u.group g).closed = true := by
  have hcur : s.cur = .event (.member g m) := hat
  have hrun : exec .memberUnreachable s = .next (s.unreachable g m) := by
    rw [exec_memberUnreachable, execMemberUnreachable, hcur]
    dsimp only
    rw [if_neg (by omega), if_pos (by simp [hr, hcount, hself])]
  obtain ⟨a, ha⟩ := unreachable_group s g m
  refine ⟨_, hrun, ?_⟩
  dsimp only
  rw [ha]
  exact ⟨mem_nput_self .., rfl⟩

/-! ### The end of a slice (R416) -/

/-- The count of overruns in a group record is a part of what the record reads. -/
theorem bits_groupRecord (s : State) (g : Nat) : bits (s.groupRecord g) 383 320 = s.mem.read (groupAddr g + 40) 8 := by
  have hat : (256 : Nat) ^ 40 = 2 ^ 320 := by rw [show (256 : Nat) = 2 ^ 8 from rfl, ← pow_mul]
  have hlong : (256 : Nat) ^ 8 = 2 ^ (383 + 1 - 320) := by norm_num
  rw [bits, State.groupRecord, Memory.read_within s.mem (show 40 + 8 ≤ 256 by decide), hat, hlong]

theorem sliceEnd_counts {s : State} {l : Launch} {g : Nat} (hat : At s (.launch l.id)) (hl : s.launches.find? (fun k => k.id == l.id) = some l) (hg : l.groupSlot = some g) (hs : s.mem.wf = true)
    (hp : l.phase = .running) (hlate : l.released + s.sliceUs g * mhz s.stkN ≤ s.clock) : leadsTo .sliceEnd s fun u => u.mem.read (groupAddr g + 40) 8 = (s.mem.read (groupAddr g + 40) 8 + 1) % 2 ^ 64 ∧
      (∀ z, z < groupAddr g + 40 ∨ groupAddr g + 48 ≤ z → u.mem.byte z = s.mem.byte z) ∧ (∃ k ∈ u.launches, k.id = l.id ∧ k.sliceOver = true ∧ k.phase = .running) ∧ u.cores = s.cores := by
  have hrun := execSliceEnd_eq hat hl hg
  rw [if_neg (not_not.mpr hp), if_neg (Nat.not_lt.mpr hlate)] at hrun
  have hmem : (((s.unpost .sliceEnd (.launch l.id)).putGroup g 40 8 (bits (s.groupRecord g) 383 320 + 1)).setLaunch { l with sliceOver := true }).mem =
      s.mem.write (groupAddr g + 40) 8 (bits (s.groupRecord g) 383 320 + 1) := rfl
  have hcores : (((s.unpost .sliceEnd (.launch l.id)).putGroup g 40 8 (bits (s.groupRecord g) 383 320 + 1)).setLaunch { l with sliceOver := true }).cores = s.cores := rfl
  have hlaunches : (((s.unpost .sliceEnd (.launch l.id)).putGroup g 40 8 (bits (s.groupRecord g) 383 320 + 1)).setLaunch { l with sliceOver := true }).launches =
      s.launches.map fun k => if k.id = l.id then { l with sliceOver := true } else k := rfl
  refine ⟨_, hrun, ?_, fun z hz => ?_, ⟨{ l with sliceOver := true }, ?_, rfl, rfl, hp⟩, hcores⟩
  · rw [hmem, Memory.read_write_same _ _ _ _ hs, bits_groupRecord]
    rfl
  · rw [hmem]
    exact Memory.byte_write_outside _ hs (by omega)
  · rw [hlaunches]
    exact List.mem_map.mpr ⟨l, List.mem_of_find?_eq_some hl, if_pos rfl⟩

/-- Settles O50: the traffic of a collective group, flit by flit, and the two events of its own. -/
theorem groupTraffic : Obligations.GroupTraffic := by
  unfold Obligations.GroupTraffic
  refine ⟨fun s x m hm hs => ⟨stepFlit_keeps hm, abortFlit_answers hm, fun l => abortFlit_closes hm hs, finalFlit_collects hm hs, agreedFlit_applies hm hs, fun l ha hid hl hg hp => ⟨?_, ?_, ?_⟩, ?_⟩,
    fun s g m => memberUnreachable_silences, fun s l g hat hl hg hs => ⟨fun hp => ?_, fun hp hearly => ?_, sliceEnd_counts hat hl hg hs⟩⟩
  · exact readyFlit_aborted hm ha hid hl hg hp
  · exact fun hc he h0 hall hr => readyFlit_opens hm ha hid hl hg hp hc h0 he hall hr
  · exact fun hc he h0 => readyFlit_waits hm ha hid hl hg hp hc h0 he
  · exact fun l => gangpreFlit_preempts hm
  · exact (execSliceEnd_eq hat hl hg).trans (if_pos hp)
  · exact (execSliceEnd_eq hat hl hg).trans ((if_neg (not_not.mpr hp)).trans (if_pos hearly))

end Sys2Proof.Proofs
end
